-- ==== Sys2Proof/Word.lean ====
section
/-!
DEFINITION. The word types: a device register is a 32-bit word (R477), memories are byte-addressed.
-/

/-- A register word of the part (R477). -/
abbrev Sys2Proof.Word := BitVec 32

/-- A byte of a memory or of a message. -/
abbrev Sys2Proof.Byte := BitVec 8
end

