-- ==== Sys2Proof/Syntax.lean ====
section
/-!
DEFINITION. The commands and events of the part: one constructor per row of the spec's table of operations and events.
The table gives its rows no operands; the operands below are the model's (log entry 3): they name the unit a row is about
(`ld` logic die 0 or 1, `fd` field die 0 to 5, `t` local terminal, `p` ring port 0 A or 1 B, `mb` mailbox), the writer of
a register write, what arrives on a link or pin, and what the physical world shows (a voltage, a current, a cycle count).
-/

namespace Sys2Proof

/-- The issuing master of an access: its die index (R5) and its code (R353). -/
structure Master where
  die : Nat
  code : Nat
deriving DecidableEq, Repr

/-- What the converter and comparators of one terminal show at an edge: the terminal voltage as a code of R44 on each path,
the sourced current as ICODE (R44), the 2 mA current comparator of channel H, the temperature code. -/
structure Meas where
  fd : Nat
  t : Nat
  vp : Nat
  vh : Nat
  ic : Nat
  cur : Bool
  temp : Nat
deriving DecidableEq, Repr

/-- The 72 stored bits of an OTP word as they read at low, normal and high margin (R429, R435). -/
structure OtpWord where
  low : Nat
  norm : Nat
  high : Nat
deriving DecidableEq, Repr

/-- What boot finds: REFCLK present (R448), RAM failures of the memory test as (ld, RAM index of RREP, column?, address)
(R413), the LBIST engines whose run ends FAIL or INCOMPLETE as 16·ld + e (R407), the field dies whose load fails. -/
structure BootIn where
  refclk : Bool
  ramFail : List (Nat × Nat × Bool × Nat)
  bistFail : List Nat
  bistInc : List Nat
  loadFail : List Nat
deriving DecidableEq, Repr

/-- What the physical world does to one transfer of a bridge link (R21): the bits that arrive inverted, as a mask by byte of
the transfer, and whether the transfer is complete when its window closes. -/
structure Transit where
  flips : List (Nat × Nat)
  complete : Bool
deriving DecidableEq, Repr

/-- The faults of one rail of a comparator (R158, R159), as masks over the 73 compared bits: bits at which the rail shows no
difference whatever it compares, and bits at which it always shows one. -/
structure RailFault where
  dead : Nat
  stuck : Nat
deriving DecidableEq, Repr

/-- A lane transaction as its core issues it (R149, R150): device address, data, byte enables, type, the lane cycle; and what
hardware faults add in the Q pass: the bits of the trace entry that read inverted, and the faults of the comparator's two
rails (R158, R159). -/
structure LaneTxn where
  addr : Nat
  data : Nat
  be : Nat
  type : Nat
  cyc : Nat
  flips : Nat
  rail0 : RailFault
  rail1 : RailFault
deriving DecidableEq, Repr

/-- The Ethernet part and the common header of a ring frame (R210, R211); `fcs` false for a bad or inverted FCS, `short` for
a frame too short for its class and counts. -/
structure FrameHdr where
  fcs : Bool
  dst : Nat
  etype : Nat
  ver : Nat
  cls : Nat
  rid : Nat
  snd : Nat
  d : Bool
  sturn : Nat
  short : Bool
deriving DecidableEq, Repr

/-- A beacon (R220). CORR and times are in units of 2⁻¹⁶ ns. -/
structure BeaconFrame where
  hdr : FrameHdr
  turn : Nat
  hgId : Nat
  hgRank : Nat
  per : Nat
  mode : Nat
  bhops : Nat
  cfgHash : Nat
  corr : Int
deriving DecidableEq, Repr

/-- A furrow entry (R214). -/
structure FurrowEntry where
  src : Nat
  age : Nat
  eturn : Nat
  pzw : Nat
  pcrc : Nat
  hzw : Nat
  hcrc : Nat
  nstat : Nat
deriving DecidableEq, Repr

/-- A furrow frame (R213). -/
structure FurrowFrame where
  hdr : FrameHdr
  reach : Nat
  entries : List FurrowEntry
deriving DecidableEq, Repr

/-- A spate frame (R221). -/
structure SpateFrame where
  hdr : FrameHdr
  pmark : Nat
  pmcrc : Nat
  hmark : Nat
  hmcrc : Nat
  oturn : Nat
  shops : Nat
deriving DecidableEq, Repr

/-- The arrival of a frame at a port: its timing point and its last byte, in units of 2⁻¹⁶ ns from the node's own edge of the
turn in progress (R208, R238). -/
structure Arrival where
  t : Int
  last : Int
deriving DecidableEq, Repr

/-- A service frame (R226). -/
structure ServiceFrame where
  hdr : FrameHdr
  dst : Nat
  orig : Nat
  stype : Nat
  sflg : Nat
  sseq : Nat
  payload : List Byte
deriving DecidableEq, Repr

/-- The end of a segment's commit: the lane cycle, and the STAT bits that hardware sets in the cycle of a staged write, by logic timer
of the die (R8). -/
structure CommitAt where
  cyc : Nat
  same : List (Nat × Nat)
deriving DecidableEq, Repr

/-- One scratchpad request of a BUS cycle: the arbiter's priority number (R378), offset, size in bytes, write data if it is
a write. -/
structure SpmReq where
  pri : Nat
  off : Nat
  size : Nat
  wr : Option Nat
deriving DecidableEq, Repr

/-- A transfer of the dual-die bridge link towards logic die `ld`, and what becomes of it on the way (R21). -/
structure Crossing where
  ld : Nat
  x : Transit
deriving DecidableEq, Repr

/-- The end of a test-pulse slot as one side of a die sees it: channel H or channel P, and ICODE of its source terminals. -/
structure SlotView where
  hSide : Bool
  ic : List (Nat × Nat)
deriving DecidableEq, Repr

/-- The timing points of the beacons of a turn edge on ports A and B, in units of 2⁻¹⁶ ns after the edge (R237). -/
structure BeaconTimes where
  ra : Nat
  rb : Nat
deriving DecidableEq, Repr

/-- A turn edge of the ring of logic die `ld`: its beacons' times, and on ring 1 its distance from the tick edge (R228). -/
structure TurnStart where
  ld : Nat
  out : BeaconTimes
  skew : Int
deriving DecidableEq, Repr

/-- The end of the listening time of the ring of logic die `ld`, where its turn 0 may begin (R247). -/
structure ListenEnd where
  ld : Nat
  out : BeaconTimes
deriving DecidableEq, Repr

/-- Where and when a port starts a frame: the port and the cycle of the turn. -/
structure SendAt where
  p : Nat
  pos : Nat
deriving DecidableEq, Repr

/-- A furrow frame to be sent, and what becomes of the other die's zone bits on their way to it (R227). -/
structure FurrowSend where
  p : Nat
  pos : Nat
  dbll : Transit
deriving DecidableEq, Repr

/-- A frame of a windowed class that the engine of a port would start at cycle `start` of the turn (R234); `dbll` as for a
furrow frame. -/
structure SluiceStart where
  p : Nat
  cls : Nat
  start : Nat
  dbll : Transit
deriving DecidableEq, Repr

/-- The responder's timestamps of a link-delay measurement: the request's arrival and the response's departure (R270). -/
structure LinkTimes where
  t2 : Nat
  t3 : Nat
deriving DecidableEq, Repr

/-- The data and byte enables of a bus write. -/
structure BusData where
  val : Nat
  be : Nat
deriving DecidableEq, Repr

/-- A mailbox whose REG_WRITE is served, with the bits that hardware sets in the cycle of each of its writes (R8). -/
structure WriteTurn where
  mb : Nat
  same : List Nat
deriving DecidableEq, Repr

/-- One BUS cycle at a scratchpad's arbiter: the requests in it, how far the tiller is into its attempt (R384), and the words of its
region in which its test has failed by then (R383). -/
structure SpmCycle where
  reqs : List SpmReq
  prog : Nat
  bad : List Nat
deriving DecidableEq, Repr

/-- The steps of the part: the rows of the table, in its order. -/
inductive Instr where
  | powerOnReset (b : BootIn)
  | porstN (ns : Nat)
  | vauxTrip
  | vcoreTrip
  | vcoreRelease (b : BootIn)
  | vioTrip
  | vioRelease
  | vfnPowerUp (fd : Nat)
  | vfnPowerLoss (fd : Nat)
  | vfnOutOfRange (fd : Nat)
  | vfnRecovered (fd : Nat)
  | groundFault (fd groups : Nat) (offset : Bool)
  | dieOverload (fd : Nat)
  | partReset (m : Master) (key : Nat) (b : BootIn)
  | aonFailure
  | aonRecovery (b : BootIn)
  | spllFailure (ld : Nat)
  | lpllFailure (ld : Nat)
  | txClockFailure (ld : Nat)
  | txClockRecovery (ld : Nat)
  | hclkStopped (fd : Nat)
  | faonFailure (fd : Nat)
  | tickEdge (meas : List Meas)
  | tickPinEdge (dev : Int) (meas : List Meas)
  | tickEdgeMade (meas : List Meas)
  | runStart (meas : List Meas)
  | tnum0Read (ld : Nat) (m : Master)
  | laneWake (c : Crossing)
  | inputImageReceived (ld fd tick : Nat) (flips : List (Nat × Nat)) (complete : Bool)
  | laneTransaction (ld lane : Nat) (x : LaneTxn)
  | laneResetDone (ld lane cyc : Nat)
  | pPassEnd (ld lane cyc : Nat)
  | qPassEnd (ld lane cyc : Nat)
  | commitEnd (ld lane : Nat) (e : CommitAt)
  | latchPoint
  | soakTimeout
  | pEnableWordsReceived (fd ld tick : Nat) (flips : List (Nat × Nat)) (crc : Nat) (complete : Bool)
  | applyPoint (fd : Nat)
  | hTickStart (fd ld flips : Nat) (complete : Bool) (cycles : Nat) (meas : List Meas)
  | hTickSelfStart (fd cycles : Nat) (meas : List Meas)
  | hbusSlotSend (fd : Nat)
  | hbusSlotReceive (fd k : Nat) (cyc : Int) (x : Transit)
  | htxBuild (fd : Nat)
  | htxRead (ld fd : Nat)
  | rxhWrite (ld fd : Nat)
  | rxsWrite (ld fd hmark hmcrc oturn : Nat)
  | sieveExchangeStart (die : Nat)
  | sieveRecordReceived (die src : Nat) (x : Transit)
  | sieveCompare (die : Nat)
  | sieveFenceMessage (die iid : Nat)
  | fenceMessage (fd iid : Nat) (clear : Bool)
  | terminalVoltageChange (fd t : Nat) (hSide : Bool) (code time : Nat)
  | maskClose (fd t : Nat) (hSide : Bool)
  | testPulseSlotEnd (fd slot : Nat) (v : SlotView)
  | currentLimitEngage (fd t : Nat)
  | shortGndTimeout (fd t : Nat)
  | gdTrip (fd t : Nat)
  | thermalShutdown (fd t : Nat)
  | reversedSuppressionEnd (fd t : Nat)
  | openLoadDetect (fd t : Nat)
  | termFenceClr (m : Master) (fd t : Nat)
  | timerZero (die n : Nat)
  | timerMatch (die n : Nat)
  | timerEnable (m : Master) (die n : Nat)
  | timerDisable (m : Master) (die n elapsed : Nat)
  | timerRldnow (m : Master) (die n : Nat)
  | timerCapture (die n elapsed : Nat) (rising : Bool)
  | timerCapRead (m : Master) (die n : Nat) (same : Option Nat)
  | tpcodeWrite (m : Master) (fd n val : Nat)
  | functionTimerExpiry (hSide : Bool) (iid : Nat)
  | lampProbe (hSide : Bool) (iid : Nat)
  | spateRepeat (hSide : Bool) (iid : Nat)
  | pcsSyncChange (ld p : Nat) (sync : Bool)
  | autonegComplete (ld p lpabil : Nat)
  | autonegPartnerFault (ld p lpabil : Nat)
  | verifyComplete (ld p : Nat)
  | verifyFailure (ld p : Nat)
  | turnEdge (e : TurnStart)
  | beaconReceived (ld p : Nat) (b : BeaconFrame) (tArr : Int)
  | tickLock (ld : Nat)
  | holdoverTimeout (ld : Nat)
  | headgateTakeover (ld : Nat)
  | listenTimeout (e : ListenEnd)
  | joinTimeout (ld : Nat)
  | furrowFrameSend (ld : Nat) (q : FurrowSend)
  | furrowFrameReceived (ld p : Nat) (f : FurrowFrame) (a : Arrival)
  | furrowWindowEnd (ld p : Nat)
  | directionStale (ld p : Nat)
  | sluiceTruncation (ld : Nat) (q : SluiceStart)
  | spateCutThrough (ld p : Nat) (f : SpateFrame)
  | spateFrameReceived (ld p : Nat) (f : SpateFrame)
  | serviceFrameForward (ld p : Nat) (f : ServiceFrame) (a : Arrival)
  | serviceFrameSend (ld : Nat) (q : SendAt)
  | remoteMailboxRequest (ld p : Nat) (f : ServiceFrame) (a : Arrival)
  | bulkTransfer (ld p : Nat) (f : ServiceFrame) (a : Arrival)
  | diagnosticsRequest (ld p : Nat) (f : ServiceFrame) (a : Arrival)
  | linkDelayRequest (ld p : Nat) (f : ServiceFrame) (a : Arrival) (ts : LinkTimes)
  | linkDelayResponse (ld p : Nat) (f : ServiceFrame) (a : Arrival) (t4 : Nat) (out : BeaconTimes)
  | linkDelayRequestSend (ld : Nat) (q : SendAt) (t1 : Nat)
  | sealSample (f0 a an b bn : Bool)
  | sealMessage (die : Nat) (fromF0 : Bool) (tick : Nat) (flips : List (Nat × Nat)) (complete : Bool)
  | mailboxRing (m : Master) (ld mb : Nat)
  | mailboxAck (m : Master) (ld mb : Nat)
  | mailboxComplete (ld mb : Nat) (resp : List Byte)
  | wardenAnswer (ld mb : Nat)
  | hostWrite (addr : Nat) (bytes : List Byte)
  | hostRead (addr n : Nat)
  | readHstat
  | readId
  | resetEn
  | hostReset
  | hostUnknownInstruction (code : Nat)
  | identify (ld mb : Nat)
  | status (ld mb : Nat)
  | diagRead (ld mb : Nat)
  | configBegin (ld mb : Nat)
  | configChunk (ld mb : Nat)
  | configCommit (ld mb : Nat)
  | commissionAck (ld mb : Nat)
  | fwStageOpen (ld mb : Nat)
  | fwStageData (ld mb : Nat)
  | fwStageClose (ld mb : Nat)
  | fwActivate (ld mb : Nat)
  | ringStatus (ld mb : Nat)
  | countersRead (ld mb : Nat)
  | regRead (ld mb : Nat)
  | regWrite (ld : Nat) (w : WriteTurn)
  | laneMigrate (ld mb : Nat)
  | cellSwap (ld mb : Nat)
  | fenceCtlFence (ld mb : Nat)
  | fenceCtlClear (ld mb : Nat)
  | bistRun (ld mb : Nat)
  | tillerCtlRead (ld mb : Nat)
  | tillerCtlSetPace (ld mb : Nat)
  | tillerCtlPause (ld mb : Nat)
  | tillerCtlResume (ld mb : Nat)
  | crcJob (ld mb : Nat)
  | timerCtlAcquire (ld mb : Nat)
  | timerCtlRelease (ld mb : Nat)
  | timerCtlSet (ld mb : Nat)
  | timerCtlRead (ld mb : Nat)
  | ringSchedule (ld mb : Nat)
  | otpProgram (ld mb : Nat)
  | otpReburn (ld mb : Nat)
  | lcAdvance (ld mb : Nat)
  | hoRestart (ld mb : Nat)
  | hoDone (ld mb : Nat)
  | freqFence (m : Master) (ld kind idx : Nat)
  | freqClear (m : Master) (ld kind idx : Nat)
  | ffreqFence (m : Master) (fd kind idx : Nat)
  | ffreqClear (m : Master) (fd kind idx : Nat)
  | fieldDieReset (m : Master) (fd : Nat)
  | leaseClaim (m : Master) (ld n : Nat)
  | leaseRelease (m : Master) (ld n : Nat)
  | watchdogKick (m : Master) (ld : Nat)
  | watchdogExpiry (ld : Nat)
  | supervisorRestartDone (ld : Nat)
  | logicDieLost (ld : Nat)
  | scratchpadAccess (ld : Nat) (c : SpmCycle)
  | eccWriteback (ld off : Nat)
  | softRepair (ld off : Nat)
  | segmentPowerOff (m : Master) (ld seg : Nat)
  | segmentPowerOn (m : Master) (ld seg : Nat)
  | segmentClearDone (ld seg : Nat)
  | tillerAttemptStart (ld : Nat)
  | tillerAttemptDone (ld : Nat) (bad : List Nat)
  | crcDin (m : Master) (ld n data be : Nat)
  | crcLoad (m : Master) (ld n : Nat)
  | crcValWrite (m : Master) (ld n val : Nat)
  | scanGo (m : Master) (ld n : Nat) (cont : Bool)
  | scanStop (m : Master) (ld n words : Nat)
  | scanDone (ld n : Nat)
  | lbistGo (m : Master) (ld e : Nat)
  | lbistIsolationTimeout (ld e : Nat)
  | lbistAbort (m : Master) (ld e : Nat)
  | lbistPatternsDone (ld e misr : Nat)
  | lbistReinitDone (ld e : Nat)
  | orderlyShutdown (m : Master)
  | shutdownDone (fails : List Nat)
  | fbistDone (fd : Nat) (token : Bool) (misr : Nat)
  | tapBypass (code : Nat)
  | tapIdcode
  | tapSamplePreload
  | tapExtest
  | tapDbgacc
  | tapScanen
  | tapExit (b : BootIn)
  | trstN
  | debugHaltLane (ld lane : Nat)
  | debugHaltSupervisor (ld : Nat)
  | debugResume (ld core : Nat)
  | vaultStart (m : Master)
  | vaultDin (m : Master) (data be : Nat)
  | vaultGo (m : Master)
  | vaultMacDone
  | ocmdRead (m : Master) (ld : Nat)
  | ocmdProg (m : Master) (ld : Nat)
  | ocmdReburn (m : Master) (ld : Nat)
  | otpOperationDone (w : OtpWord)
  | otpTokenGain
  | olockset (m : Master) (ld set : Nat)
  | registerWrite (m : Master) (addr : Nat) (w : BusData) (same : Nat)
  | porstNRelease (b : BootIn)
  | sgmiiLinkStatusChange (ld p word : Nat)
  | currentLimitRelease (fd t : Nat)
  | gdtripThresholdCrossing (fd t : Nat) (above : Bool)
deriving DecidableEq, Repr

end Sys2Proof
end

