-- ==== Sys2Proof/Config.lean ====
section
/-!
DEFINITION. What an implementation fixes and the spec leaves open, as constants without a body: nothing can be proved about
their values. Log entry 4 lists the free values, log entry 10 the functions that the spec takes from outside itself.
-/

namespace Sys2Proof.Config

/-- A fresh value for the n-th use of the free-value counter (log entry 4). -/
opaque freeValue : Nat → Nat

/-- A fresh choice for the n-th use of the free-value counter (log entry 4). -/
opaque freeBool : Nat → Bool

/-- The check bits of 64 data bits in the SECDED code of the OTP array; the spec gives the code no layout (log entry 177). -/
opaque otpCheck : Nat → Nat

/-- LANE.LIDS.ROMREL of the silicon revision (R161). -/
opaque romRel : Nat → Nat

/-- The lane ROM and supervisor ROM contents (R141, R437). -/
opaque laneRom : Nat → Byte

/-- The seed in the LBIST ROM of an engine's pattern generator, and 16 that of a field die's FBIST (R403, R412). -/
opaque bistSeed : Nat → Nat

/-- The signature in the LBIST ROM for 32,768 patterns of an engine (R404), and of a field die's FBIST (R412). -/
opaque bistSignature : Nat → Nat

/-- The SECDED syndrome that a word in error shows in ERRLOG (R387). -/
opaque syndrome : Nat → Nat

/-- What the scratchpad word at an offset of a logic die holds: 1 configuration tables, 2 the frozen image, 3 and 4 banks 0
and 1 of the bus bits, 5 the output image, 8 + n the state region of LANEn, anything else data of no lane. The spec gives
these areas no addresses (log entry 15). -/
opaque spmUse : Nat → Nat → Nat

/-- What the image of a hash gives a word of a die's configuration tables: hash, die, offset (R356; log entry 15). -/
opaque configWord : Nat → Nat → Nat → Nat

/-- The entry of the output image that bit k of a scratchpad word stands for, by die, offset and bit: n below 384 the demand
of terminal n, 384 + z zone bit z, 1024 + i the mark of instance i (log entry 15). -/
opaque outEntry : Nat → Nat → Nat → Nat

/-- The bus bit that bit k of a scratchpad word of a bus-bit bank stands for: 4 · IID + bit, bit 3 the validity (log
entry 15). -/
opaque busEntry : Nat → Nat → Nat → Nat

/-- What a scratchpad word of the frozen image holds: n below 384 the input word of terminal n, 384 and 385 the tick number,
512 + i the bus bits of instance i, 2048 + 2 k and 2049 + 2 k the zone word accepted under key k (log entry 15). -/
opaque imageEntry : Nat → Nat → Nat

/-- Whether the scratchpad word at an offset of a logic die holds state of an instance: die, offset, IID. The spec gives
the lane state regions no addresses (log entry 15). -/
opaque stateWord : Nat → Nat → Nat → Bool

/-- The image cell plus 1 that an image (its hash) names as the owner of a field timer, 0 for none: hash, field die, timer
(R73, log entry 30). -/
opaque timerCell : Nat → Nat → Nat → Nat

end Sys2Proof.Config
end

