-- ==== Sys2Proof/Machine/Regs.lean ====
section
/-!
DEFINITION. The register tables of the spec (the tables of chapters 2 to 20 and chapter 22): one name per register, one
`Fld` per field with its place, width, access, reset value and fence column (R477 to R479). The side says whether the
register lies on the logic dies or on the field dies, the offset is within a logic die's own 0x0400_0000 window base or
within a field die's window, as the address map of R480 places it.
-/

namespace Sys2Proof.Machine

/-- The registers of the part, named block_register. -/
inductive Reg where
  | LANE_LCTL | LANE_LSTAT | LANE_LWCET | LANE_LBUDGET | LANE_LMCNT | LANE_LMT | LANE_LMT0 | LANE_LMINFO
  | LANE_LCYC | LANE_LSTEST | LANE_LIDS | LANE_LEVCNT | SYSCTL_DEVID | SYSCTL_DIESTAT | SYSCTL_ERRLOG0
  | SYSCTL_ERRLOG1 | SYSCTL_SEAL | SYSCTL_VSTAT | SYSCTL_VCTL | SYSCTL_VDIN | SYSCTL_VMAC | FENCE_FREQ
  | FENCE_FSTAT | FENCE_LANEST | FENCE_LMAP | FENCE_UNITST | FENCE_SOAKST | FENCE_SVKICK | FENCE_LEASE
  | MB_MBCTL | MB_MBSEQ | MB_MBCNT | MB_HPSTAT | MB_HPIEN | RNG_RINGCFG | RNG_RINGID | RNG_ETYPE | RNG_NODES
  | RNG_CFGHASH | RNG_TURNCFG | RNG_SLSERV | RNG_SLFURR | RNG_SLSPATE | RNG_TSYNC | RNG_THG | RNG_TOFFS
  | RNG_TCNT | RNG_SPFWD | RNG_SVCFG | RNG_PCFG | RNG_PSTAT | RNG_LDELAY | RNG_EMPTY | RNG_TXSTAT | RNG_WRAP
  | RNG_RXCNT | RNG_RXERR | RNG_SPCNT | RNG_SVCNT | LTMR_CTL | LTMR_CNT | LTMR_RELOAD | LTMR_CMPPRE
  | LTMR_CMP | LTMR_CAP | LTMR_STAT | FTMR_CTL | FTMR_CNT | FTMR_RELOAD | FTMR_CMPPRE | FTMR_CMP | FTMR_CAP
  | FTMR_STAT | CRC_CFG | CRC_POLY | CRC_INIT | CRC_XOROUT | CRC_VAL | CRC_DIN | CRC_RESULT | CRC_CTL
  | CRC_STAT | SCAN_START | SCAN_LEN | SCAN_CTL | SCAN_STAT | SCAN_NEXT | SCAN_REM | SCAN_ERRADDR | SPM_MODE
  | SPM_PWR | SPM_ECCSTAT | SPM_ERRLOG0 | SPM_ERRLOG1 | SPM_TCTL | SPM_TSTAT | SPM_TCNT | SPM_REP | SPM_FROW
  | LBIST_CFG | LBIST_CTL | LBIST_STAT | LBIST_PDONE | LBIST_MISR0 | LBIST_MISR1 | LBIST_EXP0 | LBIST_EXP1
  | LBIST_REC | LBIST_SDCTL | LBIST_LCSTAT | LBIST_RSTAT | LBIST_RREP | LBIST_DBGSTAT | OTP_OADDR
  | OTP_ODATA0 | OTP_ODATA1 | OTP_OCMD | OTP_OSTAT | OTP_OLOCK | OTP_OLOCKSET | OTP_OMSTAT | OTP_OMLOG
  | PATCH_PSTAT | PATCH_PSKIP | PATCH_PCMPA | PATCH_PCMPD0 | PATCH_PCMPD1 | CLKPWR_CLKSTAT | CLKPWR_CLKMON
  | CLKPWR_PWRSTAT | CLKPWR_RSTCAUSE | CLKPWR_RSTCTL | CLKPWR_FLTSRC | DIEBR_LINK | SIEVEP_SCFG
  | SIEVEP_SSTAT | SIEVEP_SCNT | SIEVEP_SLAST | SIEVEP_SLOCAL | SIEVEP_SOTHER | SIEVEP_DCNT | SIEVEH_SCFG
  | SIEVEH_SSTAT | SIEVEH_SCNT | SIEVEH_SLAST | SIEVEH_SLOCAL | SIEVEH_SOTHER | SIEVEH_DCNT | TICK_TCFG
  | TICK_TSTAT | TICK_TNUM0 | TICK_TNUM1 | TICK_TPOS | TICK_TSKEW | TERM_CFG | TERM_OUTCFG | TERM_PULSECFG
  | TERM_PIMG | TERM_HSTAT | TERM_FAULT | TERM_FCTL | TERM_FCNT | TERM_TEMP | TP_FRAME | TP_CODE | HC_HCFG
  | HC_TSEL0 | HC_TSEL1 | HC_PAR0 | HC_PAR1 | HC_PAR2 | HC_PAR3 | HC_RST | HC_HIID | HC_HSTAT | HC_HFLAG
  | HC_HTMR | HGLB_HTCTL | HGLB_HTDEV | HGLB_HRING | HGLB_HRINGID | HGLB_HBSTAT | RXH | RXS | HTX | LMR
  | HBOWN | FSYS_FPWR | FSYS_FID | FSYS_ERRLOG0 | FSYS_ERRLOG1 | FSYS_SEAL | FSYS_PENCNT | FSYS_PSWCNT
  | FSYS_PSRC0 | FSYS_PSRC1 | FSYS_FFSTAT | FSYS_FRST | FSYS_FFREQ | FSYS_CELLFEN | FSYS_CMAP | FBIST_FBSTAT
  | FBIST_FBREC
deriving DecidableEq, Repr

/-- The access column of a field: R, RW, W, W1C, RWL (R8) and RSS. -/
inductive Acc where
  | ro | rw | wo | w1c | rwl | rss
deriving DecidableEq, Repr

/-- The fence column of a field: keep, take the reset value, take the safe value, locked by the seal, nothing said. -/
inductive OnFence where
  | hold | rst | safe | lock | none
deriving DecidableEq, Repr

/-- One register field: bits `lo` to `lo + w - 1` of `reg`. -/
structure Fld where
  reg : Reg
  lo : Nat
  w : Nat
  acc : Acc
  rst : Nat
  fen : OnFence
  safe : Nat
deriving DecidableEq, Repr

/-- Which kind of die holds a register. -/
inductive Side where
  | logic | field
deriving DecidableEq, Repr

/-- Where a register stands: its side, the address of its first copy, the step to the next, the number of copies. -/
structure Place where
  side : Side
  off : Nat
  stride : Nat
  count : Nat
deriving DecidableEq, Repr

namespace F

abbrev LANE_LCTL_RUN : Fld := ⟨.LANE_LCTL, 0, 1, .rw, 0, .rst, 0⟩
abbrev LANE_LCTL_SOAK : Fld := ⟨.LANE_LCTL, 1, 1, .ro, 0, .rst, 0⟩
abbrev LANE_LCTL_CLKSEL : Fld := ⟨.LANE_LCTL, 8, 2, .rwl, 0, .lock, 0⟩
abbrev LANE_LSTAT_PHASE : Fld := ⟨.LANE_LSTAT, 0, 3, .ro, 0, .safe, 7⟩
abbrev LANE_LSTAT_SEG : Fld := ⟨.LANE_LSTAT, 4, 4, .ro, 0, .hold, 0⟩
abbrev LANE_LSTAT_LATE : Fld := ⟨.LANE_LSTAT, 8, 1, .ro, 0, .hold, 0⟩
abbrev LANE_LSTAT_LATE2 : Fld := ⟨.LANE_LSTAT, 9, 1, .ro, 0, .hold, 0⟩
abbrev LANE_LSTAT_RETRIED : Fld := ⟨.LANE_LSTAT, 10, 1, .ro, 0, .hold, 0⟩
abbrev LANE_LSTAT_GRACE : Fld := ⟨.LANE_LSTAT, 11, 1, .ro, 0, .hold, 0⟩
abbrev LANE_LSTAT_TICKLO : Fld := ⟨.LANE_LSTAT, 16, 16, .ro, 0, .hold, 0⟩
abbrev LANE_LWCET_W : Fld := ⟨.LANE_LWCET, 0, 20, .rwl, 0, .lock, 0⟩
abbrev LANE_LWCET_RETRYOK : Fld := ⟨.LANE_LWCET, 31, 1, .ro, 0, .hold, 0⟩
abbrev LANE_LBUDGET_B : Fld := ⟨.LANE_LBUDGET, 0, 20, .ro, 70000, .none, 0⟩
abbrev LANE_LMCNT_MISCNT : Fld := ⟨.LANE_LMCNT, 0, 8, .ro, 0, .hold, 0⟩
abbrev LANE_LMCNT_WIN : Fld := ⟨.LANE_LMCNT, 8, 2, .ro, 0, .hold, 0⟩
abbrev LANE_LMT_TICK : Fld := ⟨.LANE_LMT, 0, 32, .ro, 0, .hold, 0⟩
abbrev LANE_LMT0_TICK : Fld := ⟨.LANE_LMT0, 0, 32, .ro, 0, .hold, 0⟩
abbrev LANE_LMINFO_IDX : Fld := ⟨.LANE_LMINFO, 0, 12, .ro, 0, .hold, 0⟩
abbrev LANE_LMINFO_SEG : Fld := ⟨.LANE_LMINFO, 12, 4, .ro, 0, .hold, 0⟩
abbrev LANE_LMINFO_KIND : Fld := ⟨.LANE_LMINFO, 16, 4, .ro, 0, .hold, 0⟩
abbrev LANE_LMINFO_RETRY : Fld := ⟨.LANE_LMINFO, 20, 1, .ro, 0, .hold, 0⟩
abbrev LANE_LCYC_CYC : Fld := ⟨.LANE_LCYC, 0, 20, .ro, 0, .hold, 0⟩
abbrev LANE_LSTEST_BIT : Fld := ⟨.LANE_LSTEST, 0, 7, .ro, 0, .hold, 0⟩
abbrev LANE_LSTEST_RAIL : Fld := ⟨.LANE_LSTEST, 7, 1, .ro, 0, .hold, 0⟩
abbrev LANE_LSTEST_FLAGGED : Fld := ⟨.LANE_LSTEST, 8, 1, .ro, 0, .hold, 0⟩
abbrev LANE_LSTEST_IDX : Fld := ⟨.LANE_LSTEST, 9, 12, .ro, 0, .hold, 0⟩
abbrev LANE_LIDS_ROMREL : Fld := ⟨.LANE_LIDS, 0, 8, .ro, 0, .hold, 0⟩
abbrev LANE_LIDS_PSET : Fld := ⟨.LANE_LIDS, 8, 8, .ro, 0, .hold, 0⟩
abbrev LANE_LIDS_QSET : Fld := ⟨.LANE_LIDS, 16, 8, .ro, 0, .hold, 0⟩
abbrev LANE_LEVCNT_LATECNT : Fld := ⟨.LANE_LEVCNT, 0, 12, .ro, 0, .hold, 0⟩
abbrev LANE_LEVCNT_RETRYCNT : Fld := ⟨.LANE_LEVCNT, 12, 12, .ro, 0, .hold, 0⟩
abbrev SYSCTL_DEVID_PARTCODE : Fld := ⟨.SYSCTL_DEVID, 0, 12, .ro, 0, .none, 0⟩
abbrev SYSCTL_DEVID_DIEMASK : Fld := ⟨.SYSCTL_DEVID, 12, 8, .ro, 0, .none, 0⟩
abbrev SYSCTL_DEVID_REV : Fld := ⟨.SYSCTL_DEVID, 20, 4, .ro, 0, .none, 0⟩
abbrev SYSCTL_DIESTAT_PRESENT : Fld := ⟨.SYSCTL_DIESTAT, 0, 8, .ro, 0, .none, 0⟩
abbrev SYSCTL_DIESTAT_FENCED : Fld := ⟨.SYSCTL_DIESTAT, 8, 8, .ro, 0, .none, 0⟩
abbrev SYSCTL_ERRLOG0_ADDR : Fld := ⟨.SYSCTL_ERRLOG0, 0, 32, .ro, 0, .hold, 0⟩
abbrev SYSCTL_ERRLOG1_MASTER : Fld := ⟨.SYSCTL_ERRLOG1, 0, 6, .ro, 0, .hold, 0⟩
abbrev SYSCTL_ERRLOG1_ISSUER : Fld := ⟨.SYSCTL_ERRLOG1, 8, 3, .ro, 0, .hold, 0⟩
abbrev SYSCTL_ERRLOG1_KIND : Fld := ⟨.SYSCTL_ERRLOG1, 12, 3, .ro, 0, .hold, 0⟩
abbrev SYSCTL_ERRLOG1_W : Fld := ⟨.SYSCTL_ERRLOG1, 15, 1, .ro, 0, .hold, 0⟩
abbrev SYSCTL_ERRLOG1_CNT : Fld := ⟨.SYSCTL_ERRLOG1, 16, 8, .ro, 0, .hold, 0⟩
abbrev SYSCTL_ERRLOG1_VALID : Fld := ⟨.SYSCTL_ERRLOG1, 31, 1, .w1c, 0, .hold, 0⟩
abbrev SYSCTL_SEAL_APAIR : Fld := ⟨.SYSCTL_SEAL, 0, 2, .ro, 0, .hold, 0⟩
abbrev SYSCTL_SEAL_BPAIR : Fld := ⟨.SYSCTL_SEAL, 2, 2, .ro, 0, .hold, 0⟩
abbrev SYSCTL_SEAL_OWN : Fld := ⟨.SYSCTL_SEAL, 4, 1, .ro, 0, .safe, 0⟩
abbrev SYSCTL_SEAL_OTHER : Fld := ⟨.SYSCTL_SEAL, 5, 1, .ro, 0, .safe, 0⟩
abbrev SYSCTL_SEAL_SEALINV : Fld := ⟨.SYSCTL_SEAL, 7, 1, .w1c, 0, .hold, 0⟩
abbrev SYSCTL_SEAL_GATE : Fld := ⟨.SYSCTL_SEAL, 8, 1, .ro, 0, .safe, 0⟩
abbrev SYSCTL_SEAL_OPENRUN : Fld := ⟨.SYSCTL_SEAL, 16, 8, .ro, 0, .rst, 0⟩
abbrev SYSCTL_SEAL_CLOSES : Fld := ⟨.SYSCTL_SEAL, 24, 8, .ro, 0, .hold, 0⟩
abbrev SYSCTL_VSTAT_LOADED : Fld := ⟨.SYSCTL_VSTAT, 0, 1, .ro, 0, .hold, 0⟩
abbrev SYSCTL_VSTAT_KCVFAIL : Fld := ⟨.SYSCTL_VSTAT, 1, 1, .ro, 0, .hold, 0⟩
abbrev SYSCTL_VSTAT_ZEROED : Fld := ⟨.SYSCTL_VSTAT, 2, 1, .ro, 0, .hold, 0⟩
abbrev SYSCTL_VSTAT_BUSY : Fld := ⟨.SYSCTL_VSTAT, 3, 1, .ro, 0, .hold, 0⟩
abbrev SYSCTL_VCTL_START : Fld := ⟨.SYSCTL_VCTL, 0, 1, .wo, 0, .none, 0⟩
abbrev SYSCTL_VCTL_GO : Fld := ⟨.SYSCTL_VCTL, 1, 1, .wo, 0, .none, 0⟩
abbrev SYSCTL_VDIN_DIN : Fld := ⟨.SYSCTL_VDIN, 0, 32, .wo, 0, .none, 0⟩
abbrev SYSCTL_VMAC_MAC : Fld := ⟨.SYSCTL_VMAC, 0, 32, .ro, 0, .rst, 0⟩
abbrev FENCE_FREQ_KIND : Fld := ⟨.FENCE_FREQ, 0, 8, .rw, 0, .none, 0⟩
abbrev FENCE_FREQ_INDEX : Fld := ⟨.FENCE_FREQ, 8, 10, .rw, 0, .none, 0⟩
abbrev FENCE_FREQ_OP : Fld := ⟨.FENCE_FREQ, 18, 1, .rw, 0, .none, 0⟩
abbrev FENCE_FREQ_GO : Fld := ⟨.FENCE_FREQ, 31, 1, .wo, 0, .none, 0⟩
abbrev FENCE_FSTAT_NFENCED : Fld := ⟨.FENCE_FSTAT, 0, 16, .ro, 0, .none, 0⟩
abbrev FENCE_FSTAT_LOGCNT : Fld := ⟨.FENCE_FSTAT, 16, 16, .ro, 0, .none, 0⟩
abbrev FENCE_LANEST_FENCED : Fld := ⟨.FENCE_LANEST, 0, 8, .ro, 0, .none, 0⟩
abbrev FENCE_LANEST_SPARE : Fld := ⟨.FENCE_LANEST, 8, 8, .ro, 0, .none, 0⟩
abbrev FENCE_LANEST_SOAK : Fld := ⟨.FENCE_LANEST, 16, 8, .ro, 0, .none, 0⟩
abbrev FENCE_LANEST_READY : Fld := ⟨.FENCE_LANEST, 24, 8, .ro, 0, .none, 0⟩
abbrev FENCE_LMAP_PHYS0 : Fld := ⟨.FENCE_LMAP, 0, 3, .ro, 0, .none, 0⟩
abbrev FENCE_LMAP_PHYS1 : Fld := ⟨.FENCE_LMAP, 3, 3, .ro, 1, .none, 0⟩
abbrev FENCE_LMAP_PHYS2 : Fld := ⟨.FENCE_LMAP, 6, 3, .ro, 2, .none, 0⟩
abbrev FENCE_LMAP_PHYS3 : Fld := ⟨.FENCE_LMAP, 9, 3, .ro, 3, .none, 0⟩
abbrev FENCE_LMAP_PHYS4 : Fld := ⟨.FENCE_LMAP, 12, 3, .ro, 4, .none, 0⟩
abbrev FENCE_LMAP_PHYS5 : Fld := ⟨.FENCE_LMAP, 15, 3, .ro, 5, .none, 0⟩
abbrev FENCE_LMAP_PHYS6 : Fld := ⟨.FENCE_LMAP, 18, 3, .ro, 6, .none, 0⟩
abbrev FENCE_LMAP_PHYS7 : Fld := ⟨.FENCE_LMAP, 21, 3, .ro, 7, .none, 0⟩
abbrev FENCE_UNITST_SVF : Fld := ⟨.FENCE_UNITST, 0, 1, .ro, 0, .none, 0⟩
abbrev FENCE_UNITST_RNGF : Fld := ⟨.FENCE_UNITST, 1, 1, .ro, 0, .none, 0⟩
abbrev FENCE_UNITST_PORTF : Fld := ⟨.FENCE_UNITST, 2, 2, .ro, 0, .none, 0⟩
abbrev FENCE_UNITST_DBLF : Fld := ⟨.FENCE_UNITST, 4, 6, .ro, 0, .none, 0⟩
abbrev FENCE_UNITST_DBLLF : Fld := ⟨.FENCE_UNITST, 10, 1, .ro, 0, .none, 0⟩
abbrev FENCE_UNITST_OTHERLOST : Fld := ⟨.FENCE_UNITST, 11, 1, .ro, 0, .none, 0⟩
abbrev FENCE_SOAKST_RUN : Fld := ⟨.FENCE_SOAKST, 0, 16, .ro, 0, .none, 0⟩
abbrev FENCE_SOAKST_DISAG : Fld := ⟨.FENCE_SOAKST, 16, 8, .ro, 0, .none, 0⟩
abbrev FENCE_SOAKST_KIND : Fld := ⟨.FENCE_SOAKST, 24, 3, .ro, 0, .none, 0⟩
abbrev FENCE_SVKICK_KICK : Fld := ⟨.FENCE_SVKICK, 0, 1, .wo, 0, .none, 0⟩
abbrev FENCE_SVKICK_WDREM : Fld := ⟨.FENCE_SVKICK, 16, 16, .ro, 10, .none, 0⟩
abbrev FENCE_LEASE_OWNER : Fld := ⟨.FENCE_LEASE, 0, 6, .ro, 0, .rst, 0⟩
abbrev FENCE_LEASE_CLAIM : Fld := ⟨.FENCE_LEASE, 8, 1, .wo, 0, .none, 0⟩
abbrev FENCE_LEASE_RELEASE : Fld := ⟨.FENCE_LEASE, 9, 1, .wo, 0, .none, 0⟩
abbrev FENCE_LEASE_DENIED : Fld := ⟨.FENCE_LEASE, 10, 1, .w1c, 0, .hold, 0⟩
abbrev MB_MBCTL_STATE : Fld := ⟨.MB_MBCTL, 0, 2, .ro, 0, .hold, 0⟩
abbrev MB_MBCTL_RING : Fld := ⟨.MB_MBCTL, 2, 1, .wo, 0, .none, 0⟩
abbrev MB_MBCTL_ACK : Fld := ⟨.MB_MBCTL, 3, 1, .wo, 0, .none, 0⟩
abbrev MB_MBCTL_IRQEN : Fld := ⟨.MB_MBCTL, 4, 1, .rw, 0, .hold, 0⟩
abbrev MB_MBCTL_WARDEN : Fld := ⟨.MB_MBCTL, 5, 1, .ro, 0, .hold, 0⟩
abbrev MB_MBCTL_COMPLETE : Fld := ⟨.MB_MBCTL, 8, 1, .wo, 0, .none, 0⟩
abbrev MB_MBCTL_SERVER : Fld := ⟨.MB_MBCTL, 16, 2, .ro, 0, .safe, 0⟩
abbrev MB_MBSEQ_LAST : Fld := ⟨.MB_MBSEQ, 0, 16, .ro, 0, .hold, 0⟩
abbrev MB_MBSEQ_SYNC : Fld := ⟨.MB_MBSEQ, 16, 1, .ro, 0, .hold, 0⟩
abbrev MB_MBSEQ_RSPHELD : Fld := ⟨.MB_MBSEQ, 17, 1, .ro, 0, .hold, 0⟩
abbrev MB_MBCNT_REQS : Fld := ⟨.MB_MBCNT, 0, 16, .ro, 0, .hold, 0⟩
abbrev MB_MBCNT_WARDCNT : Fld := ⟨.MB_MBCNT, 16, 8, .ro, 0, .hold, 0⟩
abbrev MB_MBCNT_OWNERR : Fld := ⟨.MB_MBCNT, 24, 8, .ro, 0, .hold, 0⟩
abbrev MB_HPSTAT_DONE0 : Fld := ⟨.MB_HPSTAT, 0, 4, .ro, 0, .hold, 0⟩
abbrev MB_HPSTAT_DONE1 : Fld := ⟨.MB_HPSTAT, 4, 4, .ro, 0, .hold, 0⟩
abbrev MB_HPSTAT_BADINS : Fld := ⟨.MB_HPSTAT, 16, 1, .w1c, 0, .hold, 0⟩
abbrev MB_HPSTAT_OWN : Fld := ⟨.MB_HPSTAT, 17, 1, .w1c, 0, .hold, 0⟩
abbrev MB_HPSTAT_ALIGN : Fld := ⟨.MB_HPSTAT, 18, 1, .w1c, 0, .hold, 0⟩
abbrev MB_HPSTAT_RANGE : Fld := ⟨.MB_HPSTAT, 19, 1, .w1c, 0, .hold, 0⟩
abbrev MB_HPIEN_ERRIEN : Fld := ⟨.MB_HPIEN, 16, 4, .rw, 0, .hold, 0⟩
abbrev RNG_RINGCFG_NODE : Fld := ⟨.RNG_RINGCFG, 0, 13, .rwl, 0, .lock, 0⟩
abbrev RNG_RINGCFG_REACH : Fld := ⟨.RNG_RINGCFG, 16, 4, .rwl, 0, .lock, 0⟩
abbrev RNG_RINGCFG_ENABLE : Fld := ⟨.RNG_RINGCFG, 31, 1, .rwl, 0, .lock, 0⟩
abbrev RNG_RINGID_RID : Fld := ⟨.RNG_RINGID, 0, 16, .rwl, 0, .lock, 0⟩
abbrev RNG_ETYPE_ETYPE : Fld := ⟨.RNG_ETYPE, 0, 16, .rwl, 34997, .lock, 0⟩
abbrev RNG_NODES_N : Fld := ⟨.RNG_NODES, 0, 13, .rwl, 0, .lock, 0⟩
abbrev RNG_CFGHASH_HASH : Fld := ⟨.RNG_CFGHASH, 0, 32, .rwl, 0, .lock, 0⟩
abbrev RNG_TURNCFG_PERIOD : Fld := ⟨.RNG_TURNCFG, 0, 3, .rwl, 1, .lock, 0⟩
abbrev RNG_TURNCFG_MODE : Fld := ⟨.RNG_TURNCFG, 3, 1, .rwl, 0, .lock, 0⟩
abbrev RNG_TURNCFG_RANK : Fld := ⟨.RNG_TURNCFG, 4, 2, .rwl, 0, .lock, 0⟩
abbrev RNG_TURNCFG_HGEN : Fld := ⟨.RNG_TURNCFG, 6, 1, .rwl, 0, .lock, 0⟩
abbrev RNG_TURNCFG_R1SRC : Fld := ⟨.RNG_TURNCFG, 7, 1, .rwl, 0, .lock, 0⟩
abbrev RNG_TURNCFG_STALE : Fld := ⟨.RNG_TURNCFG, 8, 4, .rwl, 3, .lock, 0⟩
abbrev RNG_SLSERV_START : Fld := ⟨.RNG_SLSERV, 0, 10, .rwl, 20, .lock, 0⟩
abbrev RNG_SLSERV_END : Fld := ⟨.RNG_SLSERV, 16, 10, .rwl, 760, .lock, 0⟩
abbrev RNG_SLFURR_START : Fld := ⟨.RNG_SLFURR, 0, 10, .rwl, 780, .lock, 0⟩
abbrev RNG_SLFURR_END : Fld := ⟨.RNG_SLFURR, 16, 10, .rwl, 960, .lock, 0⟩
abbrev RNG_SLSPATE_SPLIM : Fld := ⟨.RNG_SLSPATE, 0, 3, .rwl, 4, .lock, 0⟩
abbrev RNG_TSYNC_STATE : Fld := ⟨.RNG_TSYNC, 0, 3, .ro, 0, .safe, 0⟩
abbrev RNG_TSYNC_FPORT : Fld := ⟨.RNG_TSYNC, 3, 1, .ro, 0, .hold, 0⟩
abbrev RNG_TSYNC_TMIS : Fld := ⟨.RNG_TSYNC, 4, 1, .ro, 0, .hold, 0⟩
abbrev RNG_TSYNC_BHOPS : Fld := ⟨.RNG_TSYNC, 16, 13, .ro, 8191, .hold, 0⟩
abbrev RNG_THG_HGID : Fld := ⟨.RNG_THG, 0, 13, .ro, 0, .hold, 0⟩
abbrev RNG_THG_HGRANK : Fld := ⟨.RNG_THG, 13, 2, .ro, 0, .hold, 0⟩
abbrev RNG_THG_SELF : Fld := ⟨.RNG_THG, 15, 1, .ro, 0, .safe, 0⟩
abbrev RNG_TOFFS_THETA : Fld := ⟨.RNG_TOFFS, 0, 32, .ro, 0, .hold, 0⟩
abbrev RNG_TCNT_HOLDT : Fld := ⟨.RNG_TCNT, 0, 16, .ro, 0, .hold, 0⟩
abbrev RNG_TCNT_QUIETS : Fld := ⟨.RNG_TCNT, 16, 8, .ro, 0, .hold, 0⟩
abbrev RNG_TCNT_BEACREJ : Fld := ⟨.RNG_TCNT, 24, 8, .ro, 0, .hold, 0⟩
abbrev RNG_SPFWD_FWD : Fld := ⟨.RNG_SPFWD, 0, 32, .rwl, 4294967295, .lock, 0⟩
abbrev RNG_SVCFG_SVPORT : Fld := ⟨.RNG_SVCFG, 0, 1, .rwl, 1, .lock, 0⟩
abbrev RNG_PCFG_MODE : Fld := ⟨.RNG_PCFG, 0, 2, .rwl, 0, .lock, 0⟩
abbrev RNG_PCFG_ANEN : Fld := ⟨.RNG_PCFG, 2, 1, .rwl, 1, .lock, 0⟩
abbrev RNG_PSTAT_SYNC : Fld := ⟨.RNG_PSTAT, 0, 1, .ro, 0, .safe, 0⟩
abbrev RNG_PSTAT_ANDONE : Fld := ⟨.RNG_PSTAT, 1, 1, .ro, 0, .safe, 0⟩
abbrev RNG_PSTAT_LINK : Fld := ⟨.RNG_PSTAT, 2, 1, .ro, 0, .safe, 0⟩
abbrev RNG_PSTAT_PREACT : Fld := ⟨.RNG_PSTAT, 3, 1, .ro, 0, .safe, 0⟩
abbrev RNG_PSTAT_ADMIT : Fld := ⟨.RNG_PSTAT, 4, 1, .ro, 0, .safe, 0⟩
abbrev RNG_PSTAT_DOWNRSN : Fld := ⟨.RNG_PSTAT, 8, 3, .ro, 7, .safe, 6⟩
abbrev RNG_PSTAT_LPABIL : Fld := ⟨.RNG_PSTAT, 16, 16, .ro, 0, .hold, 0⟩
abbrev RNG_LDELAY_DELAY : Fld := ⟨.RNG_LDELAY, 0, 24, .ro, 0, .safe, 0⟩
abbrev RNG_LDELAY_NMEAS : Fld := ⟨.RNG_LDELAY, 24, 7, .ro, 0, .rst, 0⟩
abbrev RNG_LDELAY_VALID : Fld := ⟨.RNG_LDELAY, 31, 1, .ro, 0, .safe, 0⟩
abbrev RNG_EMPTY_CONSEC : Fld := ⟨.RNG_EMPTY, 0, 4, .ro, 0, .hold, 0⟩
abbrev RNG_EMPTY_STALE : Fld := ⟨.RNG_EMPTY, 4, 1, .ro, 0, .safe, 1⟩
abbrev RNG_EMPTY_TOTAL : Fld := ⟨.RNG_EMPTY, 16, 16, .ro, 0, .hold, 0⟩
abbrev RNG_TXSTAT_TRUNCRUN : Fld := ⟨.RNG_TXSTAT, 0, 2, .ro, 0, .rst, 0⟩
abbrev RNG_TXSTAT_LISTEN : Fld := ⟨.RNG_TXSTAT, 2, 1, .ro, 0, .safe, 1⟩
abbrev RNG_TXSTAT_TRUNCCNT : Fld := ⟨.RNG_TXSTAT, 8, 8, .ro, 0, .hold, 0⟩
abbrev RNG_TXSTAT_SPDROP : Fld := ⟨.RNG_TXSTAT, 16, 8, .ro, 0, .hold, 0⟩
abbrev RNG_TXSTAT_ACCREJ : Fld := ⟨.RNG_TXSTAT, 24, 8, .ro, 0, .hold, 0⟩
abbrev RNG_WRAP_WRAP : Fld := ⟨.RNG_WRAP, 0, 1, .ro, 0, .safe, 1⟩
abbrev RNG_WRAP_WCAUSE : Fld := ⟨.RNG_WRAP, 1, 3, .ro, 0, .safe, 3⟩
abbrev RNG_WRAP_OKRUN : Fld := ⟨.RNG_WRAP, 4, 4, .ro, 0, .rst, 0⟩
abbrev RNG_WRAP_WRAPS : Fld := ⟨.RNG_WRAP, 8, 8, .ro, 0, .hold, 0⟩
abbrev RNG_RXCNT_FURROK : Fld := ⟨.RNG_RXCNT, 0, 16, .ro, 0, .hold, 0⟩
abbrev RNG_RXCNT_ENTREJ : Fld := ⟨.RNG_RXCNT, 16, 16, .ro, 0, .hold, 0⟩
abbrev RNG_RXERR_FCSERR : Fld := ⟨.RNG_RXERR, 0, 8, .ro, 0, .hold, 0⟩
abbrev RNG_RXERR_FILT : Fld := ⟨.RNG_RXERR, 8, 8, .ro, 0, .hold, 0⟩
abbrev RNG_RXERR_FRDISC : Fld := ⟨.RNG_RXERR, 16, 8, .ro, 0, .hold, 0⟩
abbrev RNG_RXERR_SVDROP : Fld := ⟨.RNG_RXERR, 24, 8, .ro, 0, .hold, 0⟩
abbrev RNG_SPCNT_SPFWDCNT : Fld := ⟨.RNG_SPCNT, 0, 16, .ro, 0, .hold, 0⟩
abbrev RNG_SPCNT_SPABORT : Fld := ⟨.RNG_SPCNT, 16, 8, .ro, 0, .hold, 0⟩
abbrev RNG_SPCNT_SPREJ : Fld := ⟨.RNG_SPCNT, 24, 8, .ro, 0, .hold, 0⟩
abbrev RNG_SVCNT_SVTX : Fld := ⟨.RNG_SVCNT, 0, 16, .ro, 0, .hold, 0⟩
abbrev RNG_SVCNT_SVRX : Fld := ⟨.RNG_SVCNT, 16, 16, .ro, 0, .hold, 0⟩
abbrev LTMR_CTL_EN : Fld := ⟨.LTMR_CTL, 0, 1, .rw, 0, .rst, 0⟩
abbrev LTMR_CTL_FRZ : Fld := ⟨.LTMR_CTL, 1, 1, .rw, 0, .rst, 0⟩
abbrev LTMR_CTL_ZACT : Fld := ⟨.LTMR_CTL, 2, 2, .rw, 0, .rst, 0⟩
abbrev LTMR_CTL_MACT : Fld := ⟨.LTMR_CTL, 4, 2, .rw, 0, .rst, 0⟩
abbrev LTMR_CTL_CAPEN : Fld := ⟨.LTMR_CTL, 6, 1, .rw, 0, .rst, 0⟩
abbrev LTMR_CTL_CAPEDGE : Fld := ⟨.LTMR_CTL, 7, 2, .rw, 0, .rst, 0⟩
abbrev LTMR_CTL_CAPSEL : Fld := ⟨.LTMR_CTL, 9, 6, .rw, 0, .rst, 0⟩
abbrev LTMR_CTL_RLDNOW : Fld := ⟨.LTMR_CTL, 15, 1, .wo, 0, .none, 0⟩
abbrev LTMR_CTL_OWNER : Fld := ⟨.LTMR_CTL, 16, 4, .ro, 0, .rst, 0⟩
abbrev LTMR_CNT_CNT : Fld := ⟨.LTMR_CNT, 0, 24, .ro, 0, .rst, 0⟩
abbrev LTMR_RELOAD_RELOAD : Fld := ⟨.LTMR_RELOAD, 0, 24, .rw, 0, .rst, 0⟩
abbrev LTMR_CMPPRE_CMPPRE : Fld := ⟨.LTMR_CMPPRE, 0, 24, .rw, 0, .rst, 0⟩
abbrev LTMR_CMP_CMP : Fld := ⟨.LTMR_CMP, 0, 24, .ro, 0, .rst, 0⟩
abbrev LTMR_CAP_CAP : Fld := ⟨.LTMR_CAP, 0, 24, .ro, 0, .rst, 0⟩
abbrev LTMR_STAT_ZERO : Fld := ⟨.LTMR_STAT, 0, 1, .w1c, 0, .rst, 0⟩
abbrev LTMR_STAT_MATCH : Fld := ⟨.LTMR_STAT, 1, 1, .w1c, 0, .rst, 0⟩
abbrev LTMR_STAT_CAPTURED : Fld := ⟨.LTMR_STAT, 2, 1, .ro, 0, .rst, 0⟩
abbrev LTMR_STAT_OVERCAP : Fld := ⟨.LTMR_STAT, 3, 1, .w1c, 0, .rst, 0⟩
abbrev LTMR_STAT_PIN : Fld := ⟨.LTMR_STAT, 4, 1, .ro, 0, .safe, 0⟩
abbrev FTMR_CTL_EN : Fld := ⟨.FTMR_CTL, 0, 1, .rw, 0, .rst, 0⟩
abbrev FTMR_CTL_FRZ : Fld := ⟨.FTMR_CTL, 1, 1, .rw, 0, .rst, 0⟩
abbrev FTMR_CTL_ZACT : Fld := ⟨.FTMR_CTL, 2, 2, .rw, 0, .rst, 0⟩
abbrev FTMR_CTL_MACT : Fld := ⟨.FTMR_CTL, 4, 2, .rw, 0, .rst, 0⟩
abbrev FTMR_CTL_CAPEN : Fld := ⟨.FTMR_CTL, 6, 1, .rw, 0, .rst, 0⟩
abbrev FTMR_CTL_CAPEDGE : Fld := ⟨.FTMR_CTL, 7, 2, .rw, 0, .rst, 0⟩
abbrev FTMR_CTL_CAPSEL : Fld := ⟨.FTMR_CTL, 9, 6, .rw, 0, .rst, 0⟩
abbrev FTMR_CTL_OWNER : Fld := ⟨.FTMR_CTL, 16, 4, .ro, 0, .rst, 0⟩
abbrev FTMR_CNT_CNT : Fld := ⟨.FTMR_CNT, 0, 24, .ro, 0, .rst, 0⟩
abbrev FTMR_RELOAD_RELOAD : Fld := ⟨.FTMR_RELOAD, 0, 24, .rw, 0, .rst, 0⟩
abbrev FTMR_CMPPRE_CMPPRE : Fld := ⟨.FTMR_CMPPRE, 0, 24, .rw, 0, .rst, 0⟩
abbrev FTMR_CMP_CMP : Fld := ⟨.FTMR_CMP, 0, 24, .ro, 0, .rst, 0⟩
abbrev FTMR_CAP_CAP : Fld := ⟨.FTMR_CAP, 0, 24, .ro, 0, .rst, 0⟩
abbrev FTMR_STAT_ZERO : Fld := ⟨.FTMR_STAT, 0, 1, .w1c, 0, .rst, 0⟩
abbrev FTMR_STAT_MATCH : Fld := ⟨.FTMR_STAT, 1, 1, .w1c, 0, .rst, 0⟩
abbrev FTMR_STAT_CAPTURED : Fld := ⟨.FTMR_STAT, 2, 1, .ro, 0, .rst, 0⟩
abbrev FTMR_STAT_OVERCAP : Fld := ⟨.FTMR_STAT, 3, 1, .w1c, 0, .rst, 0⟩
abbrev FTMR_STAT_PIN : Fld := ⟨.FTMR_STAT, 4, 1, .ro, 0, .safe, 0⟩
abbrev CRC_CFG_WIDTH : Fld := ⟨.CRC_CFG, 0, 6, .rw, 32, .rst, 0⟩
abbrev CRC_CFG_REFIN : Fld := ⟨.CRC_CFG, 8, 1, .rw, 1, .rst, 0⟩
abbrev CRC_CFG_REFOUT : Fld := ⟨.CRC_CFG, 9, 1, .rw, 1, .rst, 0⟩
abbrev CRC_POLY_POLY : Fld := ⟨.CRC_POLY, 0, 32, .rw, 517762881, .rst, 0⟩
abbrev CRC_INIT_INIT : Fld := ⟨.CRC_INIT, 0, 32, .rw, 4294967295, .rst, 0⟩
abbrev CRC_XOROUT_XOROUT : Fld := ⟨.CRC_XOROUT, 0, 32, .rw, 4294967295, .rst, 0⟩
abbrev CRC_VAL_VAL : Fld := ⟨.CRC_VAL, 0, 32, .rw, 4294967295, .rst, 0⟩
abbrev CRC_DIN_DIN : Fld := ⟨.CRC_DIN, 0, 32, .wo, 0, .none, 0⟩
abbrev CRC_RESULT_RESULT : Fld := ⟨.CRC_RESULT, 0, 32, .ro, 0, .rst, 0⟩
abbrev CRC_CTL_LOAD : Fld := ⟨.CRC_CTL, 0, 1, .wo, 0, .none, 0⟩
abbrev CRC_STAT_BUSY : Fld := ⟨.CRC_STAT, 0, 1, .ro, 0, .rst, 0⟩
abbrev CRC_STAT_REFUSED : Fld := ⟨.CRC_STAT, 1, 1, .w1c, 0, .rst, 0⟩
abbrev SCAN_START_START : Fld := ⟨.SCAN_START, 0, 22, .rw, 0, .rst, 0⟩
abbrev SCAN_LEN_LEN : Fld := ⟨.SCAN_LEN, 0, 23, .rw, 0, .rst, 0⟩
abbrev SCAN_CTL_GO : Fld := ⟨.SCAN_CTL, 0, 1, .wo, 0, .none, 0⟩
abbrev SCAN_CTL_CONT : Fld := ⟨.SCAN_CTL, 1, 1, .rw, 0, .rst, 0⟩
abbrev SCAN_CTL_STOP : Fld := ⟨.SCAN_CTL, 2, 1, .wo, 0, .none, 0⟩
abbrev SCAN_STAT_BUSY : Fld := ⟨.SCAN_STAT, 0, 1, .ro, 0, .rst, 0⟩
abbrev SCAN_STAT_DONE : Fld := ⟨.SCAN_STAT, 1, 1, .w1c, 0, .rst, 0⟩
abbrev SCAN_STAT_RDERR : Fld := ⟨.SCAN_STAT, 2, 1, .w1c, 0, .rst, 0⟩
abbrev SCAN_STAT_STOPPED : Fld := ⟨.SCAN_STAT, 3, 1, .w1c, 0, .rst, 0⟩
abbrev SCAN_STAT_BADRANGE : Fld := ⟨.SCAN_STAT, 4, 1, .w1c, 0, .rst, 0⟩
abbrev SCAN_NEXT_NEXT : Fld := ⟨.SCAN_NEXT, 0, 22, .ro, 0, .rst, 0⟩
abbrev SCAN_REM_REM : Fld := ⟨.SCAN_REM, 0, 23, .ro, 0, .rst, 0⟩
abbrev SCAN_ERRADDR_ADDR : Fld := ⟨.SCAN_ERRADDR, 0, 22, .ro, 0, .rst, 0⟩
abbrev SPM_MODE_ROT : Fld := ⟨.SPM_MODE, 1, 21, .rw, 0, .rst, 0⟩
abbrev SPM_PWR_OFF : Fld := ⟨.SPM_PWR, 1, 3, .rw, 0, .hold, 0⟩
abbrev SPM_PWR_CLEARING : Fld := ⟨.SPM_PWR, 4, 4, .ro, 15, .hold, 0⟩
abbrev SPM_ECCSTAT_CECNT : Fld := ⟨.SPM_ECCSTAT, 0, 16, .ro, 0, .hold, 0⟩
abbrev SPM_ECCSTAT_UECNT : Fld := ⟨.SPM_ECCSTAT, 16, 8, .ro, 0, .hold, 0⟩
abbrev SPM_ECCSTAT_REPFULL : Fld := ⟨.SPM_ECCSTAT, 24, 1, .rss, 0, .hold, 0⟩
abbrev SPM_ERRLOG0_OFFS : Fld := ⟨.SPM_ERRLOG0, 0, 22, .ro, 0, .hold, 0⟩
abbrev SPM_ERRLOG1_MASTER : Fld := ⟨.SPM_ERRLOG1, 0, 5, .ro, 0, .hold, 0⟩
abbrev SPM_ERRLOG1_KIND : Fld := ⟨.SPM_ERRLOG1, 5, 3, .ro, 0, .hold, 0⟩
abbrev SPM_ERRLOG1_SYND : Fld := ⟨.SPM_ERRLOG1, 8, 7, .ro, 0, .hold, 0⟩
abbrev SPM_ERRLOG1_VALID : Fld := ⟨.SPM_ERRLOG1, 15, 1, .w1c, 0, .hold, 0⟩
abbrev SPM_TCTL_PACE : Fld := ⟨.SPM_TCTL, 0, 10, .rw, 50, .hold, 0⟩
abbrev SPM_TCTL_PAUSE : Fld := ⟨.SPM_TCTL, 16, 1, .rw, 0, .hold, 0⟩
abbrev SPM_TSTAT_REGION : Fld := ⟨.SPM_TSTAT, 0, 14, .ro, 0, .hold, 0⟩
abbrev SPM_TSTAT_PHASE : Fld := ⟨.SPM_TSTAT, 14, 3, .ro, 0, .hold, 0⟩
abbrev SPM_TSTAT_HOLD : Fld := ⟨.SPM_TSTAT, 17, 1, .ro, 0, .hold, 0⟩
abbrev SPM_TSTAT_ABORTS : Fld := ⟨.SPM_TSTAT, 18, 4, .ro, 0, .hold, 0⟩
abbrev SPM_TSTAT_BANK : Fld := ⟨.SPM_TSTAT, 22, 5, .ro, 0, .hold, 0⟩
abbrev SPM_TCNT_SWEEPS : Fld := ⟨.SPM_TCNT, 0, 16, .ro, 0, .hold, 0⟩
abbrev SPM_TCNT_HOLDS : Fld := ⟨.SPM_TCNT, 16, 16, .ro, 0, .hold, 0⟩
abbrev SPM_REP_ROW0 : Fld := ⟨.SPM_REP, 0, 8, .ro, 0, .hold, 0⟩
abbrev SPM_REP_USE0 : Fld := ⟨.SPM_REP, 8, 1, .ro, 0, .hold, 0⟩
abbrev SPM_REP_ROW1 : Fld := ⟨.SPM_REP, 16, 8, .ro, 0, .hold, 0⟩
abbrev SPM_REP_USE1 : Fld := ⟨.SPM_REP, 24, 1, .ro, 0, .hold, 0⟩
abbrev SPM_FROW_ROW : Fld := ⟨.SPM_FROW, 0, 8, .ro, 0, .hold, 0⟩
abbrev SPM_FROW_FENCED : Fld := ⟨.SPM_FROW, 8, 1, .ro, 0, .hold, 0⟩
abbrev LBIST_CFG_PCNT : Fld := ⟨.LBIST_CFG, 0, 21, .rw, 32768, .hold, 0⟩
abbrev LBIST_CTL_GO : Fld := ⟨.LBIST_CTL, 0, 1, .wo, 0, .none, 0⟩
abbrev LBIST_CTL_ABORT : Fld := ⟨.LBIST_CTL, 1, 1, .wo, 0, .none, 0⟩
abbrev LBIST_STAT_STATE : Fld := ⟨.LBIST_STAT, 0, 2, .ro, 0, .hold, 0⟩
abbrev LBIST_STAT_RESULT : Fld := ⟨.LBIST_STAT, 2, 2, .ro, 0, .hold, 0⟩
abbrev LBIST_STAT_TOKEN : Fld := ⟨.LBIST_STAT, 4, 1, .ro, 0, .hold, 0⟩
abbrev LBIST_STAT_CUSTOM : Fld := ⟨.LBIST_STAT, 5, 1, .ro, 0, .hold, 0⟩
abbrev LBIST_STAT_ACAUSE : Fld := ⟨.LBIST_STAT, 8, 3, .ro, 0, .hold, 0⟩
abbrev LBIST_PDONE_PDONE : Fld := ⟨.LBIST_PDONE, 0, 21, .ro, 0, .hold, 0⟩
abbrev LBIST_MISR0_MISR : Fld := ⟨.LBIST_MISR0, 0, 32, .ro, 0, .hold, 0⟩
abbrev LBIST_MISR1_MISR : Fld := ⟨.LBIST_MISR1, 0, 32, .ro, 0, .hold, 0⟩
abbrev LBIST_EXP0_EXP : Fld := ⟨.LBIST_EXP0, 0, 32, .rw, 0, .hold, 0⟩
abbrev LBIST_EXP1_EXP : Fld := ⟨.LBIST_EXP1, 0, 32, .rw, 0, .hold, 0⟩
abbrev LBIST_REC_VALID : Fld := ⟨.LBIST_REC, 0, 1, .ro, 0, .rst, 0⟩
abbrev LBIST_REC_SHUT : Fld := ⟨.LBIST_REC, 1, 1, .ro, 0, .hold, 0⟩
abbrev LBIST_SDCTL_GO : Fld := ⟨.LBIST_SDCTL, 0, 1, .wo, 0, .none, 0⟩
abbrev LBIST_SDCTL_BUSY : Fld := ⟨.LBIST_SDCTL, 1, 1, .ro, 0, .hold, 0⟩
abbrev LBIST_SDCTL_DONE : Fld := ⟨.LBIST_SDCTL, 2, 1, .ro, 0, .hold, 0⟩
abbrev LBIST_LCSTAT_LC : Fld := ⟨.LBIST_LCSTAT, 0, 2, .ro, 0, .hold, 0⟩
abbrev LBIST_LCSTAT_LCUE : Fld := ⟨.LBIST_LCSTAT, 4, 1, .ro, 0, .hold, 0⟩
abbrev LBIST_RSTAT_BADENT : Fld := ⟨.LBIST_RSTAT, 0, 8, .ro, 0, .hold, 0⟩
abbrev LBIST_RSTAT_SOFT : Fld := ⟨.LBIST_RSTAT, 8, 8, .ro, 0, .hold, 0⟩
abbrev LBIST_RREP_ADDR : Fld := ⟨.LBIST_RREP, 0, 12, .ro, 0, .hold, 0⟩
abbrev LBIST_RREP_SPARE : Fld := ⟨.LBIST_RREP, 12, 2, .ro, 0, .hold, 0⟩
abbrev LBIST_RREP_HARD : Fld := ⟨.LBIST_RREP, 14, 1, .ro, 0, .hold, 0⟩
abbrev LBIST_DBGSTAT_HALTED : Fld := ⟨.LBIST_DBGSTAT, 0, 8, .ro, 0, .hold, 0⟩
abbrev LBIST_DBGSTAT_SVHALT : Fld := ⟨.LBIST_DBGSTAT, 8, 1, .ro, 0, .hold, 0⟩
abbrev LBIST_DBGSTAT_REFUSED : Fld := ⟨.LBIST_DBGSTAT, 9, 1, .w1c, 0, .hold, 0⟩
abbrev OTP_OADDR_WORD : Fld := ⟨.OTP_OADDR, 0, 11, .rw, 0, .rst, 0⟩
abbrev OTP_ODATA0_DATA : Fld := ⟨.OTP_ODATA0, 0, 32, .rw, 0, .rst, 0⟩
abbrev OTP_ODATA1_DATA : Fld := ⟨.OTP_ODATA1, 0, 32, .rw, 0, .rst, 0⟩
abbrev OTP_OCMD_READ : Fld := ⟨.OTP_OCMD, 0, 1, .wo, 0, .none, 0⟩
abbrev OTP_OCMD_PROG : Fld := ⟨.OTP_OCMD, 1, 1, .wo, 0, .none, 0⟩
abbrev OTP_OCMD_REBURN : Fld := ⟨.OTP_OCMD, 2, 1, .wo, 0, .none, 0⟩
abbrev OTP_OSTAT_BUSY : Fld := ⟨.OTP_OSTAT, 0, 1, .ro, 0, .hold, 0⟩
abbrev OTP_OSTAT_LOCKED : Fld := ⟨.OTP_OSTAT, 1, 1, .w1c, 0, .hold, 0⟩
abbrev OTP_OSTAT_RATE : Fld := ⟨.OTP_OSTAT, 2, 1, .w1c, 0, .hold, 0⟩
abbrev OTP_OSTAT_MISMATCH : Fld := ⟨.OTP_OSTAT, 3, 1, .w1c, 0, .hold, 0⟩
abbrev OTP_OSTAT_WEAK : Fld := ⟨.OTP_OSTAT, 4, 1, .ro, 0, .hold, 0⟩
abbrev OTP_OSTAT_UE : Fld := ⟨.OTP_OSTAT, 5, 1, .ro, 0, .hold, 0⟩
abbrev OTP_OSTAT_TOKENS : Fld := ⟨.OTP_OSTAT, 8, 5, .ro, 16, .hold, 0⟩
abbrev OTP_OLOCK_LOCK : Fld := ⟨.OTP_OLOCK, 0, 8, .rss, 0, .hold, 0⟩
abbrev OTP_OLOCK_CLOSED : Fld := ⟨.OTP_OLOCK, 8, 8, .ro, 0, .hold, 0⟩
abbrev OTP_OLOCKSET_SET : Fld := ⟨.OTP_OLOCKSET, 0, 8, .wo, 0, .none, 0⟩
abbrev OTP_OMSTAT_WEAKCNT : Fld := ⟨.OTP_OMSTAT, 0, 16, .ro, 0, .hold, 0⟩
abbrev OTP_OMSTAT_UECNT : Fld := ⟨.OTP_OMSTAT, 16, 8, .ro, 0, .hold, 0⟩
abbrev OTP_OMSTAT_CORRCNT : Fld := ⟨.OTP_OMSTAT, 24, 8, .ro, 0, .hold, 0⟩
abbrev OTP_OMLOG_WORD : Fld := ⟨.OTP_OMLOG, 0, 11, .ro, 0, .hold, 0⟩
abbrev OTP_OMLOG_CLASS : Fld := ⟨.OTP_OMLOG, 11, 2, .ro, 0, .hold, 0⟩
abbrev OTP_OMLOG_VALID : Fld := ⟨.OTP_OMLOG, 31, 1, .ro, 0, .hold, 0⟩
abbrev PATCH_PSTAT_NUSED : Fld := ⟨.PATCH_PSTAT, 0, 7, .ro, 0, .none, 0⟩
abbrev PATCH_PSTAT_NGROUP : Fld := ⟨.PATCH_PSTAT, 8, 8, .ro, 0, .none, 0⟩
abbrev PATCH_PSTAT_NSKIP : Fld := ⟨.PATCH_PSTAT, 16, 8, .ro, 0, .none, 0⟩
abbrev PATCH_PSKIP_WORD : Fld := ⟨.PATCH_PSKIP, 0, 11, .ro, 0, .none, 0⟩
abbrev PATCH_PSKIP_CAUSE : Fld := ⟨.PATCH_PSKIP, 12, 3, .ro, 0, .none, 0⟩
abbrev PATCH_PSKIP_VALID : Fld := ⟨.PATCH_PSKIP, 31, 1, .ro, 0, .none, 0⟩
abbrev PATCH_PCMPA_ADDR : Fld := ⟨.PATCH_PCMPA, 3, 13, .ro, 0, .none, 0⟩
abbrev PATCH_PCMPA_TGT : Fld := ⟨.PATCH_PCMPA, 16, 2, .ro, 0, .none, 0⟩
abbrev PATCH_PCMPA_EN : Fld := ⟨.PATCH_PCMPA, 31, 1, .ro, 0, .none, 0⟩
abbrev PATCH_PCMPD0_D0 : Fld := ⟨.PATCH_PCMPD0, 0, 32, .ro, 0, .none, 0⟩
abbrev PATCH_PCMPD1_D1 : Fld := ⟨.PATCH_PCMPD1, 0, 32, .ro, 0, .none, 0⟩
abbrev CLKPWR_CLKSTAT_AONSRC : Fld := ⟨.CLKPWR_CLKSTAT, 0, 1, .ro, 0, .hold, 0⟩
abbrev CLKPWR_CLKSTAT_SPLLLK : Fld := ⟨.CLKPWR_CLKSTAT, 1, 1, .ro, 0, .hold, 0⟩
abbrev CLKPWR_CLKSTAT_LPLLLK : Fld := ⟨.CLKPWR_CLKSTAT, 2, 1, .ro, 0, .hold, 0⟩
abbrev CLKPWR_CLKSTAT_LPLLON : Fld := ⟨.CLKPWR_CLKSTAT, 3, 1, .ro, 0, .hold, 0⟩
abbrev CLKPWR_CLKSTAT_GATING : Fld := ⟨.CLKPWR_CLKSTAT, 4, 1, .ro, 0, .hold, 0⟩
abbrev CLKPWR_CLKSTAT_LPLLLATE : Fld := ⟨.CLKPWR_CLKSTAT, 8, 8, .ro, 0, .hold, 0⟩
abbrev CLKPWR_CLKMON_LPLLFAIL : Fld := ⟨.CLKPWR_CLKMON, 0, 1, .w1c, 0, .hold, 0⟩
abbrev CLKPWR_CLKMON_TXFAIL : Fld := ⟨.CLKPWR_CLKMON, 1, 1, .w1c, 0, .hold, 0⟩
abbrev CLKPWR_PWRSTAT_VAUXOK : Fld := ⟨.CLKPWR_PWRSTAT, 0, 1, .ro, 1, .hold, 0⟩
abbrev CLKPWR_PWRSTAT_VIOOK : Fld := ⟨.CLKPWR_PWRSTAT, 1, 1, .ro, 0, .hold, 0⟩
abbrev CLKPWR_PWRSTAT_VCOREOK : Fld := ⟨.CLKPWR_PWRSTAT, 2, 1, .ro, 0, .hold, 0⟩
abbrev CLKPWR_PWRSTAT_VCOREBO : Fld := ⟨.CLKPWR_PWRSTAT, 8, 8, .ro, 0, .hold, 0⟩
abbrev CLKPWR_PWRSTAT_VIOBO : Fld := ⟨.CLKPWR_PWRSTAT, 16, 8, .ro, 0, .hold, 0⟩
abbrev CLKPWR_RSTCAUSE_CAUSE : Fld := ⟨.CLKPWR_RSTCAUSE, 0, 4, .ro, 1, .hold, 0⟩
abbrev CLKPWR_RSTCAUSE_COLD : Fld := ⟨.CLKPWR_RSTCAUSE, 4, 1, .ro, 1, .hold, 0⟩
abbrev CLKPWR_RSTCAUSE_WARMCNT : Fld := ⟨.CLKPWR_RSTCAUSE, 16, 16, .ro, 0, .hold, 0⟩
abbrev CLKPWR_RSTCTL_PART : Fld := ⟨.CLKPWR_RSTCTL, 0, 1, .wo, 0, .none, 0⟩
abbrev CLKPWR_RSTCTL_KEY : Fld := ⟨.CLKPWR_RSTCTL, 16, 16, .wo, 0, .none, 0⟩
abbrev CLKPWR_FLTSRC_SRC : Fld := ⟨.CLKPWR_FLTSRC, 0, 8, .ro, 0, .hold, 0⟩
abbrev CLKPWR_FLTSRC_SAFE : Fld := ⟨.CLKPWR_FLTSRC, 16, 1, .ro, 1, .hold, 0⟩
abbrev CLKPWR_FLTSRC_FAULT : Fld := ⟨.CLKPWR_FLTSRC, 17, 1, .ro, 0, .hold, 0⟩
abbrev DIEBR_LINK_UP : Fld := ⟨.DIEBR_LINK, 0, 1, .ro, 0, .safe, 0⟩
abbrev DIEBR_LINK_FENCED : Fld := ⟨.DIEBR_LINK, 1, 1, .ro, 0, .safe, 1⟩
abbrev DIEBR_LINK_MONITOR : Fld := ⟨.DIEBR_LINK, 2, 1, .ro, 0, .hold, 0⟩
abbrev DIEBR_LINK_ABSLAST : Fld := ⟨.DIEBR_LINK, 3, 1, .ro, 0, .hold, 0⟩
abbrev DIEBR_LINK_ABSCNT : Fld := ⟨.DIEBR_LINK, 8, 8, .ro, 0, .hold, 0⟩
abbrev DIEBR_LINK_CRCERR : Fld := ⟨.DIEBR_LINK, 16, 8, .ro, 0, .hold, 0⟩
abbrev DIEBR_LINK_OKRUN : Fld := ⟨.DIEBR_LINK, 24, 8, .ro, 0, .rst, 0⟩
abbrev SIEVEP_SCFG_WIN : Fld := ⟨.SIEVEP_SCFG, 0, 4, .rwl, 3, .lock, 0⟩
abbrev SIEVEP_SSTAT_WSTART : Fld := ⟨.SIEVEP_SSTAT, 0, 16, .ro, 0, .hold, 0⟩
abbrev SIEVEP_SSTAT_NDIS : Fld := ⟨.SIEVEP_SSTAT, 16, 8, .ro, 0, .hold, 0⟩
abbrev SIEVEP_SSTAT_XABS : Fld := ⟨.SIEVEP_SSTAT, 24, 1, .ro, 0, .hold, 0⟩
abbrev SIEVEP_SCNT_DISWIN : Fld := ⟨.SIEVEP_SCNT, 0, 16, .ro, 0, .hold, 0⟩
abbrev SIEVEP_SCNT_SFENCE : Fld := ⟨.SIEVEP_SCNT, 16, 16, .ro, 0, .hold, 0⟩
abbrev SIEVEP_SLAST_IID : Fld := ⟨.SIEVEP_SLAST, 0, 10, .ro, 0, .hold, 0⟩
abbrev SIEVEP_SLAST_CELL : Fld := ⟨.SIEVEP_SLAST, 16, 8, .ro, 0, .hold, 0⟩
abbrev SIEVEP_SLAST_FDIE : Fld := ⟨.SIEVEP_SLAST, 24, 3, .ro, 0, .hold, 0⟩
abbrev SIEVEP_SLAST_VALID : Fld := ⟨.SIEVEP_SLAST, 31, 1, .ro, 0, .hold, 0⟩
abbrev SIEVEP_SLOCAL_SIG : Fld := ⟨.SIEVEP_SLOCAL, 0, 32, .ro, 0, .hold, 0⟩
abbrev SIEVEP_SOTHER_SIG : Fld := ⟨.SIEVEP_SOTHER, 0, 32, .ro, 0, .hold, 0⟩
abbrev SIEVEP_DCNT_DCNT0 : Fld := ⟨.SIEVEP_DCNT, 0, 2, .ro, 0, .hold, 0⟩
abbrev SIEVEP_DCNT_DCNT1 : Fld := ⟨.SIEVEP_DCNT, 2, 2, .ro, 0, .hold, 0⟩
abbrev SIEVEP_DCNT_DCNT2 : Fld := ⟨.SIEVEP_DCNT, 4, 2, .ro, 0, .hold, 0⟩
abbrev SIEVEP_DCNT_DCNT3 : Fld := ⟨.SIEVEP_DCNT, 6, 2, .ro, 0, .hold, 0⟩
abbrev SIEVEP_DCNT_DCNT4 : Fld := ⟨.SIEVEP_DCNT, 8, 2, .ro, 0, .hold, 0⟩
abbrev SIEVEP_DCNT_DCNT5 : Fld := ⟨.SIEVEP_DCNT, 10, 2, .ro, 0, .hold, 0⟩
abbrev SIEVEP_DCNT_DCNT6 : Fld := ⟨.SIEVEP_DCNT, 12, 2, .ro, 0, .hold, 0⟩
abbrev SIEVEP_DCNT_DCNT7 : Fld := ⟨.SIEVEP_DCNT, 14, 2, .ro, 0, .hold, 0⟩
abbrev SIEVEP_DCNT_DCNT8 : Fld := ⟨.SIEVEP_DCNT, 16, 2, .ro, 0, .hold, 0⟩
abbrev SIEVEP_DCNT_DCNT9 : Fld := ⟨.SIEVEP_DCNT, 18, 2, .ro, 0, .hold, 0⟩
abbrev SIEVEP_DCNT_DCNT10 : Fld := ⟨.SIEVEP_DCNT, 20, 2, .ro, 0, .hold, 0⟩
abbrev SIEVEP_DCNT_DCNT11 : Fld := ⟨.SIEVEP_DCNT, 22, 2, .ro, 0, .hold, 0⟩
abbrev SIEVEP_DCNT_DCNT12 : Fld := ⟨.SIEVEP_DCNT, 24, 2, .ro, 0, .hold, 0⟩
abbrev SIEVEP_DCNT_DCNT13 : Fld := ⟨.SIEVEP_DCNT, 26, 2, .ro, 0, .hold, 0⟩
abbrev SIEVEP_DCNT_DCNT14 : Fld := ⟨.SIEVEP_DCNT, 28, 2, .ro, 0, .hold, 0⟩
abbrev SIEVEP_DCNT_DCNT15 : Fld := ⟨.SIEVEP_DCNT, 30, 2, .ro, 0, .hold, 0⟩
abbrev SIEVEH_SCFG_WIN : Fld := ⟨.SIEVEH_SCFG, 0, 4, .rwl, 3, .lock, 0⟩
abbrev SIEVEH_SSTAT_WSTART : Fld := ⟨.SIEVEH_SSTAT, 0, 16, .ro, 0, .hold, 0⟩
abbrev SIEVEH_SSTAT_NDIS : Fld := ⟨.SIEVEH_SSTAT, 16, 8, .ro, 0, .hold, 0⟩
abbrev SIEVEH_SSTAT_XABS : Fld := ⟨.SIEVEH_SSTAT, 24, 1, .ro, 0, .hold, 0⟩
abbrev SIEVEH_SCNT_DISWIN : Fld := ⟨.SIEVEH_SCNT, 0, 16, .ro, 0, .hold, 0⟩
abbrev SIEVEH_SCNT_SFENCE : Fld := ⟨.SIEVEH_SCNT, 16, 16, .ro, 0, .hold, 0⟩
abbrev SIEVEH_SLAST_IID : Fld := ⟨.SIEVEH_SLAST, 0, 10, .ro, 0, .hold, 0⟩
abbrev SIEVEH_SLAST_CELL : Fld := ⟨.SIEVEH_SLAST, 16, 8, .ro, 0, .hold, 0⟩
abbrev SIEVEH_SLAST_FDIE : Fld := ⟨.SIEVEH_SLAST, 24, 3, .ro, 0, .hold, 0⟩
abbrev SIEVEH_SLAST_VALID : Fld := ⟨.SIEVEH_SLAST, 31, 1, .ro, 0, .hold, 0⟩
abbrev SIEVEH_SLOCAL_SIG : Fld := ⟨.SIEVEH_SLOCAL, 0, 32, .ro, 0, .hold, 0⟩
abbrev SIEVEH_SOTHER_SIG : Fld := ⟨.SIEVEH_SOTHER, 0, 32, .ro, 0, .hold, 0⟩
abbrev SIEVEH_DCNT_DCNT0 : Fld := ⟨.SIEVEH_DCNT, 0, 2, .ro, 0, .hold, 0⟩
abbrev SIEVEH_DCNT_DCNT1 : Fld := ⟨.SIEVEH_DCNT, 2, 2, .ro, 0, .hold, 0⟩
abbrev SIEVEH_DCNT_DCNT2 : Fld := ⟨.SIEVEH_DCNT, 4, 2, .ro, 0, .hold, 0⟩
abbrev SIEVEH_DCNT_DCNT3 : Fld := ⟨.SIEVEH_DCNT, 6, 2, .ro, 0, .hold, 0⟩
abbrev SIEVEH_DCNT_DCNT4 : Fld := ⟨.SIEVEH_DCNT, 8, 2, .ro, 0, .hold, 0⟩
abbrev SIEVEH_DCNT_DCNT5 : Fld := ⟨.SIEVEH_DCNT, 10, 2, .ro, 0, .hold, 0⟩
abbrev SIEVEH_DCNT_DCNT6 : Fld := ⟨.SIEVEH_DCNT, 12, 2, .ro, 0, .hold, 0⟩
abbrev SIEVEH_DCNT_DCNT7 : Fld := ⟨.SIEVEH_DCNT, 14, 2, .ro, 0, .hold, 0⟩
abbrev SIEVEH_DCNT_DCNT8 : Fld := ⟨.SIEVEH_DCNT, 16, 2, .ro, 0, .hold, 0⟩
abbrev SIEVEH_DCNT_DCNT9 : Fld := ⟨.SIEVEH_DCNT, 18, 2, .ro, 0, .hold, 0⟩
abbrev SIEVEH_DCNT_DCNT10 : Fld := ⟨.SIEVEH_DCNT, 20, 2, .ro, 0, .hold, 0⟩
abbrev SIEVEH_DCNT_DCNT11 : Fld := ⟨.SIEVEH_DCNT, 22, 2, .ro, 0, .hold, 0⟩
abbrev SIEVEH_DCNT_DCNT12 : Fld := ⟨.SIEVEH_DCNT, 24, 2, .ro, 0, .hold, 0⟩
abbrev SIEVEH_DCNT_DCNT13 : Fld := ⟨.SIEVEH_DCNT, 26, 2, .ro, 0, .hold, 0⟩
abbrev SIEVEH_DCNT_DCNT14 : Fld := ⟨.SIEVEH_DCNT, 28, 2, .ro, 0, .hold, 0⟩
abbrev SIEVEH_DCNT_DCNT15 : Fld := ⟨.SIEVEH_DCNT, 30, 2, .ro, 0, .hold, 0⟩
abbrev TICK_TCFG_PERIOD : Fld := ⟨.TICK_TCFG, 0, 3, .rwl, 1, .lock, 0⟩
abbrev TICK_TCFG_SRC : Fld := ⟨.TICK_TCFG, 4, 2, .rwl, 0, .lock, 0⟩
abbrev TICK_TCFG_PINEN : Fld := ⟨.TICK_TCFG, 8, 1, .rwl, 0, .lock, 0⟩
abbrev TICK_TSTAT_LOCKED : Fld := ⟨.TICK_TSTAT, 0, 1, .ro, 0, .hold, 0⟩
abbrev TICK_TSTAT_HOLDOVER : Fld := ⟨.TICK_TSTAT, 1, 1, .ro, 0, .hold, 0⟩
abbrev TICK_TSTAT_EXTLOST : Fld := ⟨.TICK_TSTAT, 2, 1, .ro, 0, .hold, 0⟩
abbrev TICK_TSTAT_SRCNOW : Fld := ⟨.TICK_TSTAT, 4, 2, .ro, 0, .hold, 0⟩
abbrev TICK_TSTAT_EXTMISS : Fld := ⟨.TICK_TSTAT, 8, 8, .ro, 0, .hold, 0⟩
abbrev TICK_TNUM0_TNUM : Fld := ⟨.TICK_TNUM0, 0, 32, .ro, 0, .hold, 0⟩
abbrev TICK_TNUM1_TNUM : Fld := ⟨.TICK_TNUM1, 0, 16, .ro, 0, .hold, 0⟩
abbrev TICK_TPOS_POS : Fld := ⟨.TICK_TPOS, 0, 16, .ro, 0, .hold, 0⟩
abbrev TICK_TPOS_NPER : Fld := ⟨.TICK_TPOS, 16, 16, .ro, 5000, .hold, 0⟩
abbrev TICK_TSKEW_SKEW : Fld := ⟨.TICK_TSKEW, 0, 16, .ro, 0, .hold, 0⟩
abbrev TERM_CFG_MODE : Fld := ⟨.TERM_CFG, 0, 3, .rwl, 0, .lock, 0⟩
abbrev TERM_CFG_ITYPE : Fld := ⟨.TERM_CFG, 3, 2, .rwl, 0, .lock, 0⟩
abbrev TERM_CFG_FILT : Fld := ⟨.TERM_CFG, 5, 4, .rwl, 0, .lock, 0⟩
abbrev TERM_CFG_GDSNS : Fld := ⟨.TERM_CFG, 9, 1, .rwl, 0, .lock, 0⟩
abbrev TERM_CFG_TPSRC : Fld := ⟨.TERM_CFG, 10, 6, .rwl, 0, .lock, 0⟩
abbrev TERM_CFG_TPEN : Fld := ⟨.TERM_CFG, 16, 1, .rwl, 0, .lock, 0⟩
abbrev TERM_OUTCFG_OLOFF : Fld := ⟨.TERM_OUTCFG, 0, 1, .rwl, 0, .lock, 0⟩
abbrev TERM_OUTCFG_OFFTEST : Fld := ⟨.TERM_OUTCFG, 1, 1, .rwl, 0, .lock, 0⟩
abbrev TERM_OUTCFG_GDTRIP : Fld := ⟨.TERM_OUTCFG, 8, 8, .rwl, 100, .lock, 0⟩
abbrev TERM_PULSECFG_TOLW : Fld := ⟨.TERM_PULSECFG, 0, 14, .rwl, 0, .lock, 0⟩
abbrev TERM_PIMG_IMG : Fld := ⟨.TERM_PIMG, 0, 32, .ro, 0, .safe, 0x40000000⟩
abbrev TERM_HSTAT_HZONE : Fld := ⟨.TERM_HSTAT, 0, 3, .ro, 0, .safe, 0⟩
abbrev TERM_HSTAT_HPULSE : Fld := ⟨.TERM_HSTAT, 3, 1, .ro, 0, .hold, 0⟩
abbrev TERM_HSTAT_HMISS : Fld := ⟨.TERM_HSTAT, 4, 1, .ro, 0, .hold, 0⟩
abbrev TERM_HSTAT_HFOREIGN : Fld := ⟨.TERM_HSTAT, 5, 1, .ro, 0, .hold, 0⟩
abbrev TERM_HSTAT_HLIM : Fld := ⟨.TERM_HSTAT, 6, 1, .ro, 0, .hold, 0⟩
abbrev TERM_HSTAT_HTHERM : Fld := ⟨.TERM_HSTAT, 7, 1, .ro, 0, .hold, 0⟩
abbrev TERM_HSTAT_HENA : Fld := ⟨.TERM_HSTAT, 8, 1, .ro, 0, .safe, 0⟩
abbrev TERM_HSTAT_PENA : Fld := ⟨.TERM_HSTAT, 9, 1, .ro, 0, .safe, 0⟩
abbrev TERM_HSTAT_HOVER : Fld := ⟨.TERM_HSTAT, 10, 1, .ro, 0, .hold, 0⟩
abbrev TERM_FAULT_SHORT_GND : Fld := ⟨.TERM_FAULT, 0, 1, .w1c, 0, .hold, 0⟩
abbrev TERM_FAULT_SHORT_VF : Fld := ⟨.TERM_FAULT, 1, 1, .w1c, 0, .hold, 0⟩
abbrev TERM_FAULT_OPEN_LOAD : Fld := ⟨.TERM_FAULT, 2, 1, .w1c, 0, .hold, 0⟩
abbrev TERM_FAULT_STUCK_ON : Fld := ⟨.TERM_FAULT, 3, 1, .w1c, 0, .hold, 0⟩
abbrev TERM_FAULT_WIRE_BREAK : Fld := ⟨.TERM_FAULT, 4, 1, .w1c, 0, .hold, 0⟩
abbrev TERM_FAULT_LM_SHORT : Fld := ⟨.TERM_FAULT, 5, 1, .w1c, 0, .hold, 0⟩
abbrev TERM_FAULT_TPMISS : Fld := ⟨.TERM_FAULT, 6, 1, .w1c, 0, .hold, 0⟩
abbrev TERM_FAULT_TPFOREIGN : Fld := ⟨.TERM_FAULT, 7, 1, .w1c, 0, .hold, 0⟩
abbrev TERM_FAULT_REVERSED : Fld := ⟨.TERM_FAULT, 8, 1, .w1c, 0, .hold, 0⟩
abbrev TERM_FAULT_OVERTEMP : Fld := ⟨.TERM_FAULT, 9, 1, .w1c, 0, .hold, 0⟩
abbrev TERM_FAULT_OFFTEST_FAIL : Fld := ⟨.TERM_FAULT, 10, 1, .w1c, 0, .hold, 0⟩
abbrev TERM_FAULT_GDTRIP : Fld := ⟨.TERM_FAULT, 11, 1, .w1c, 0, .hold, 0⟩
abbrev TERM_FAULT_SRC_FAULT : Fld := ⟨.TERM_FAULT, 12, 1, .w1c, 0, .hold, 0⟩
abbrev TERM_FCTL_FENCED : Fld := ⟨.TERM_FCTL, 0, 1, .ro, 0, .safe, 1⟩
abbrev TERM_FCTL_FREASON : Fld := ⟨.TERM_FCTL, 8, 8, .ro, 0, .safe, 0⟩
abbrev TERM_FCTL_CLR : Fld := ⟨.TERM_FCTL, 16, 1, .wo, 0, .none, 0⟩
abbrev TERM_FCTL_CLRREF : Fld := ⟨.TERM_FCTL, 17, 1, .w1c, 0, .hold, 0⟩
abbrev TERM_FCNT_LIMCNT : Fld := ⟨.TERM_FCNT, 0, 8, .ro, 0, .hold, 0⟩
abbrev TERM_FCNT_MISSCNT : Fld := ⟨.TERM_FCNT, 8, 8, .ro, 0, .hold, 0⟩
abbrev TERM_TEMP_TEMPC : Fld := ⟨.TERM_TEMP, 0, 10, .ro, 0, .hold, 0⟩
abbrev TP_FRAME_FLEN : Fld := ⟨.TP_FRAME, 0, 2, .rwl, 2, .lock, 0⟩
abbrev TP_FRAME_TPON : Fld := ⟨.TP_FRAME, 2, 1, .rwl, 0, .safe, 0⟩
abbrev TP_FRAME_SLOTNOW : Fld := ⟨.TP_FRAME, 3, 5, .ro, 0, .hold, 0⟩
abbrev TP_FRAME_FRAMECNT : Fld := ⟨.TP_FRAME, 16, 8, .ro, 0, .hold, 0⟩
abbrev TP_CODE_SLOTA : Fld := ⟨.TP_CODE, 0, 5, .rwl, 0, .lock, 0⟩
abbrev TP_CODE_SLOTB : Fld := ⟨.TP_CODE, 8, 5, .rwl, 0, .lock, 0⟩
abbrev TP_CODE_WIDTH : Fld := ⟨.TP_CODE, 16, 14, .rwl, 0, .lock, 0⟩
abbrev TP_CODE_ASSIGNED : Fld := ⟨.TP_CODE, 31, 1, .rwl, 0, .lock, 0⟩
abbrev HC_HCFG_TYPE : Fld := ⟨.HC_HCFG, 0, 5, .rwl, 0, .lock, 0⟩
abbrev HC_HCFG_RANK : Fld := ⟨.HC_HCFG, 8, 4, .rwl, 0, .lock, 0⟩
abbrev HC_HCFG_ACTIVE : Fld := ⟨.HC_HCFG, 12, 1, .rwl, 0, .lock, 0⟩
abbrev HC_HCFG_OPT : Fld := ⟨.HC_HCFG, 16, 8, .rwl, 0, .lock, 0⟩
abbrev HC_TSEL0_IDX0 : Fld := ⟨.HC_TSEL0, 0, 6, .rwl, 0, .lock, 0⟩
abbrev HC_TSEL0_USE0 : Fld := ⟨.HC_TSEL0, 7, 1, .rwl, 0, .lock, 0⟩
abbrev HC_TSEL0_IDX1 : Fld := ⟨.HC_TSEL0, 8, 6, .rwl, 0, .lock, 0⟩
abbrev HC_TSEL0_USE1 : Fld := ⟨.HC_TSEL0, 15, 1, .rwl, 0, .lock, 0⟩
abbrev HC_TSEL0_IDX2 : Fld := ⟨.HC_TSEL0, 16, 6, .rwl, 0, .lock, 0⟩
abbrev HC_TSEL0_USE2 : Fld := ⟨.HC_TSEL0, 23, 1, .rwl, 0, .lock, 0⟩
abbrev HC_TSEL0_IDX3 : Fld := ⟨.HC_TSEL0, 24, 6, .rwl, 0, .lock, 0⟩
abbrev HC_TSEL0_USE3 : Fld := ⟨.HC_TSEL0, 31, 1, .rwl, 0, .lock, 0⟩
abbrev HC_TSEL1_IDX4 : Fld := ⟨.HC_TSEL1, 0, 6, .rwl, 0, .lock, 0⟩
abbrev HC_TSEL1_USE4 : Fld := ⟨.HC_TSEL1, 7, 1, .rwl, 0, .lock, 0⟩
abbrev HC_TSEL1_IDX5 : Fld := ⟨.HC_TSEL1, 8, 6, .rwl, 0, .lock, 0⟩
abbrev HC_TSEL1_USE5 : Fld := ⟨.HC_TSEL1, 15, 1, .rwl, 0, .lock, 0⟩
abbrev HC_TSEL1_IDX6 : Fld := ⟨.HC_TSEL1, 16, 6, .rwl, 0, .lock, 0⟩
abbrev HC_TSEL1_USE6 : Fld := ⟨.HC_TSEL1, 23, 1, .rwl, 0, .lock, 0⟩
abbrev HC_TSEL1_IDX7 : Fld := ⟨.HC_TSEL1, 24, 6, .rwl, 0, .lock, 0⟩
abbrev HC_TSEL1_USE7 : Fld := ⟨.HC_TSEL1, 31, 1, .rwl, 0, .lock, 0⟩
abbrev HC_PAR0_PAR : Fld := ⟨.HC_PAR0, 0, 24, .rwl, 0, .lock, 0⟩
abbrev HC_PAR1_PAR : Fld := ⟨.HC_PAR1, 0, 24, .rwl, 0, .lock, 0⟩
abbrev HC_PAR2_PAR : Fld := ⟨.HC_PAR2, 0, 24, .rwl, 0, .lock, 0⟩
abbrev HC_PAR3_PAR : Fld := ⟨.HC_PAR3, 0, 24, .rwl, 0, .lock, 0⟩
abbrev HC_RST_SRC : Fld := ⟨.HC_RST, 0, 11, .rwl, 2046, .lock, 0⟩
abbrev HC_RST_USE : Fld := ⟨.HC_RST, 15, 1, .rwl, 0, .lock, 0⟩
abbrev HC_HIID_IID : Fld := ⟨.HC_HIID, 0, 10, .rwl, 0, .lock, 0⟩
abbrev HC_HSTAT_STATE : Fld := ⟨.HC_HSTAT, 0, 4, .ro, 0, .hold, 0⟩
abbrev HC_HSTAT_SUB : Fld := ⟨.HC_HSTAT, 4, 4, .ro, 0, .hold, 0⟩
abbrev HC_HSTAT_DBITS : Fld := ⟨.HC_HSTAT, 8, 3, .ro, 0, .safe, 0⟩
abbrev HC_HSTAT_FENCED : Fld := ⟨.HC_HSTAT, 11, 1, .ro, 0, .safe, 1⟩
abbrev HC_HFLAG_FLAGS : Fld := ⟨.HC_HFLAG, 0, 5, .w1c, 0, .hold, 0⟩
abbrev HC_HTMR_REM : Fld := ⟨.HC_HTMR, 0, 24, .ro, 0, .hold, 0⟩
abbrev HGLB_HTCTL_NH : Fld := ⟨.HGLB_HTCTL, 0, 16, .ro, 2000, .hold, 0⟩
abbrev HGLB_HTCTL_HSAFE : Fld := ⟨.HGLB_HTCTL, 16, 1, .ro, 0, .safe, 1⟩
abbrev HGLB_HTCTL_STRSRC : Fld := ⟨.HGLB_HTCTL, 17, 1, .ro, 0, .hold, 0⟩
abbrev HGLB_HTCTL_ABSCNT : Fld := ⟨.HGLB_HTCTL, 18, 2, .ro, 0, .hold, 0⟩
abbrev HGLB_HTDEV_DEV : Fld := ⟨.HGLB_HTDEV, 0, 16, .ro, 0, .hold, 0⟩
abbrev HGLB_HTDEV_MAXDEV : Fld := ⟨.HGLB_HTDEV, 16, 16, .ro, 0, .hold, 0⟩
abbrev HGLB_HRING_REACH0 : Fld := ⟨.HGLB_HRING, 0, 4, .rwl, 0, .lock, 0⟩
abbrev HGLB_HRING_REACH1 : Fld := ⟨.HGLB_HRING, 4, 4, .rwl, 0, .lock, 0⟩
abbrev HGLB_HRING_STALE0 : Fld := ⟨.HGLB_HRING, 8, 4, .rwl, 3, .lock, 0⟩
abbrev HGLB_HRING_STALE1 : Fld := ⟨.HGLB_HRING, 12, 4, .rwl, 3, .lock, 0⟩
abbrev HGLB_HRING_NODE : Fld := ⟨.HGLB_HRING, 16, 13, .rwl, 0, .lock, 0⟩
abbrev HGLB_HRINGID_RID0 : Fld := ⟨.HGLB_HRINGID, 0, 16, .rwl, 0, .lock, 0⟩
abbrev HGLB_HRINGID_RID1 : Fld := ⟨.HGLB_HRINGID, 16, 16, .rwl, 0, .lock, 0⟩
abbrev HGLB_HBSTAT_SLOTOK : Fld := ⟨.HGLB_HBSTAT, 0, 6, .ro, 0, .safe, 0⟩
abbrev HGLB_HBSTAT_SLOTERR : Fld := ⟨.HGLB_HBSTAT, 8, 8, .ro, 0, .hold, 0⟩
abbrev HGLB_HBSTAT_HREJ : Fld := ⟨.HGLB_HBSTAT, 16, 8, .ro, 0, .hold, 0⟩
abbrev RXH_W : Fld := ⟨.RXH, 0, 32, .rw, 0, .hold, 0⟩
abbrev RXS_W : Fld := ⟨.RXS, 0, 32, .rw, 0, .hold, 0⟩
abbrev HTX_W : Fld := ⟨.HTX, 0, 32, .rw, 0, .hold, 0⟩
abbrev LMR_W : Fld := ⟨.LMR, 0, 32, .rwl, 0, .lock, 0⟩
abbrev HBOWN_WDIE : Fld := ⟨.HBOWN, 0, 3, .rwl, 0, .lock, 0⟩
abbrev HBOWN_USE : Fld := ⟨.HBOWN, 3, 1, .rwl, 0, .lock, 0⟩
abbrev HBOWN_SRC : Fld := ⟨.HBOWN, 4, 10, .rwl, 0, .lock, 0⟩
abbrev FSYS_FPWR_VFOK : Fld := ⟨.FSYS_FPWR, 0, 1, .ro, 0, .safe, 0⟩
abbrev FSYS_FPWR_VFTRIP : Fld := ⟨.FSYS_FPWR, 1, 1, .w1c, 0, .hold, 0⟩
abbrev FSYS_FPWR_GF_PARTIAL : Fld := ⟨.FSYS_FPWR, 2, 1, .w1c, 0, .hold, 0⟩
abbrev FSYS_FPWR_DIE_OVERLOAD : Fld := ⟨.FSYS_FPWR, 3, 1, .w1c, 0, .hold, 0⟩
abbrev FSYS_FPWR_HCLKSTOP : Fld := ⟨.FSYS_FPWR, 4, 1, .ro, 0, .hold, 0⟩
abbrev FSYS_FPWR_FAONFAIL : Fld := ⟨.FSYS_FPWR, 5, 1, .ro, 0, .hold, 0⟩
abbrev FSYS_FPWR_LOADED : Fld := ⟨.FSYS_FPWR, 6, 1, .ro, 0, .safe, 0⟩
abbrev FSYS_FPWR_ISUM : Fld := ⟨.FSYS_FPWR, 16, 12, .ro, 0, .hold, 0⟩
abbrev FSYS_FID_FDIE : Fld := ⟨.FSYS_FID, 0, 3, .ro, 0, .none, 0⟩
abbrev FSYS_FID_REV : Fld := ⟨.FSYS_FID, 4, 4, .ro, 0, .none, 0⟩
abbrev FSYS_ERRLOG0_ADDR : Fld := ⟨.FSYS_ERRLOG0, 0, 32, .ro, 0, .hold, 0⟩
abbrev FSYS_ERRLOG1_MASTER : Fld := ⟨.FSYS_ERRLOG1, 0, 6, .ro, 0, .hold, 0⟩
abbrev FSYS_ERRLOG1_ISSUER : Fld := ⟨.FSYS_ERRLOG1, 8, 3, .ro, 0, .hold, 0⟩
abbrev FSYS_ERRLOG1_KIND : Fld := ⟨.FSYS_ERRLOG1, 12, 3, .ro, 0, .hold, 0⟩
abbrev FSYS_ERRLOG1_W : Fld := ⟨.FSYS_ERRLOG1, 15, 1, .ro, 0, .hold, 0⟩
abbrev FSYS_ERRLOG1_CNT : Fld := ⟨.FSYS_ERRLOG1, 16, 8, .ro, 0, .hold, 0⟩
abbrev FSYS_ERRLOG1_VALID : Fld := ⟨.FSYS_ERRLOG1, 31, 1, .w1c, 0, .hold, 0⟩
abbrev FSYS_SEAL_APAIR : Fld := ⟨.FSYS_SEAL, 0, 2, .ro, 0, .hold, 0⟩
abbrev FSYS_SEAL_BPAIR : Fld := ⟨.FSYS_SEAL, 2, 2, .ro, 0, .hold, 0⟩
abbrev FSYS_SEAL_OWN : Fld := ⟨.FSYS_SEAL, 4, 1, .ro, 0, .safe, 0⟩
abbrev FSYS_SEAL_OTHER : Fld := ⟨.FSYS_SEAL, 5, 1, .ro, 0, .safe, 0⟩
abbrev FSYS_SEAL_SEALINV : Fld := ⟨.FSYS_SEAL, 7, 1, .w1c, 0, .hold, 0⟩
abbrev FSYS_SEAL_GATE : Fld := ⟨.FSYS_SEAL, 8, 1, .ro, 0, .safe, 0⟩
abbrev FSYS_SEAL_OPENRUN : Fld := ⟨.FSYS_SEAL, 16, 8, .ro, 0, .rst, 0⟩
abbrev FSYS_SEAL_CLOSES : Fld := ⟨.FSYS_SEAL, 24, 8, .ro, 0, .hold, 0⟩
abbrev FSYS_PENCNT_INVALID : Fld := ⟨.FSYS_PENCNT, 0, 8, .ro, 0, .hold, 0⟩
abbrev FSYS_PENCNT_PARITY : Fld := ⟨.FSYS_PENCNT, 8, 8, .ro, 0, .hold, 0⟩
abbrev FSYS_PENCNT_SOURCE : Fld := ⟨.FSYS_PENCNT, 16, 8, .ro, 0, .hold, 0⟩
abbrev FSYS_PENCNT_ABSENT : Fld := ⟨.FSYS_PENCNT, 24, 8, .ro, 0, .hold, 0⟩
abbrev FSYS_PSWCNT_TAKEOVER : Fld := ⟨.FSYS_PSWCNT, 0, 8, .ro, 0, .hold, 0⟩
abbrev FSYS_PSRC0_SRC : Fld := ⟨.FSYS_PSRC0, 0, 32, .ro, 0, .hold, 0⟩
abbrev FSYS_PSRC1_SRC : Fld := ⟨.FSYS_PSRC1, 0, 32, .ro, 0, .hold, 0⟩
abbrev FSYS_FFSTAT_DIEF : Fld := ⟨.FSYS_FFSTAT, 0, 1, .ro, 0, .safe, 1⟩
abbrev FSYS_FFSTAT_REASON : Fld := ⟨.FSYS_FFSTAT, 8, 8, .ro, 0, .hold, 0⟩
abbrev FSYS_FFSTAT_NCELLF : Fld := ⟨.FSYS_FFSTAT, 16, 8, .ro, 0, .hold, 0⟩
abbrev FSYS_FRST_RST : Fld := ⟨.FSYS_FRST, 0, 1, .wo, 0, .none, 0⟩
abbrev FSYS_FFREQ_KIND : Fld := ⟨.FSYS_FFREQ, 0, 8, .rw, 0, .none, 0⟩
abbrev FSYS_FFREQ_INDEX : Fld := ⟨.FSYS_FFREQ, 8, 10, .rw, 0, .none, 0⟩
abbrev FSYS_FFREQ_OP : Fld := ⟨.FSYS_FFREQ, 18, 1, .rw, 0, .none, 0⟩
abbrev FSYS_FFREQ_GO : Fld := ⟨.FSYS_FFREQ, 31, 1, .wo, 0, .none, 0⟩
abbrev FSYS_CELLFEN_FEN : Fld := ⟨.FSYS_CELLFEN, 0, 32, .ro, 0, .hold, 0⟩
abbrev FSYS_CMAP_CELL0 : Fld := ⟨.FSYS_CMAP, 0, 8, .ro, 0, .hold, 0⟩
abbrev FSYS_CMAP_CELL1 : Fld := ⟨.FSYS_CMAP, 8, 8, .ro, 1, .hold, 0⟩
abbrev FSYS_CMAP_CELL2 : Fld := ⟨.FSYS_CMAP, 16, 8, .ro, 2, .hold, 0⟩
abbrev FSYS_CMAP_CELL3 : Fld := ⟨.FSYS_CMAP, 24, 8, .ro, 3, .hold, 0⟩
abbrev FBIST_FBSTAT_RESULT : Fld := ⟨.FBIST_FBSTAT, 0, 2, .ro, 0, .hold, 0⟩
abbrev FBIST_FBSTAT_TOKEN : Fld := ⟨.FBIST_FBSTAT, 2, 1, .ro, 0, .hold, 0⟩
abbrev FBIST_FBSTAT_RETRY : Fld := ⟨.FBIST_FBSTAT, 3, 1, .ro, 0, .hold, 0⟩
abbrev FBIST_FBREC_VALID : Fld := ⟨.FBIST_FBREC, 0, 1, .ro, 0, .rst, 0⟩

end F

/-- The fields of a register, lowest first. -/
def Reg.fields : Reg → List Fld
  | .LANE_LCTL => [F.LANE_LCTL_RUN, F.LANE_LCTL_SOAK, F.LANE_LCTL_CLKSEL]
  | .LANE_LSTAT => [F.LANE_LSTAT_PHASE, F.LANE_LSTAT_SEG, F.LANE_LSTAT_LATE, F.LANE_LSTAT_LATE2, F.LANE_LSTAT_RETRIED, F.LANE_LSTAT_GRACE, F.LANE_LSTAT_TICKLO]
  | .LANE_LWCET => [F.LANE_LWCET_W, F.LANE_LWCET_RETRYOK]
  | .LANE_LBUDGET => [F.LANE_LBUDGET_B]
  | .LANE_LMCNT => [F.LANE_LMCNT_MISCNT, F.LANE_LMCNT_WIN]
  | .LANE_LMT => [F.LANE_LMT_TICK]
  | .LANE_LMT0 => [F.LANE_LMT0_TICK]
  | .LANE_LMINFO => [F.LANE_LMINFO_IDX, F.LANE_LMINFO_SEG, F.LANE_LMINFO_KIND, F.LANE_LMINFO_RETRY]
  | .LANE_LCYC => [F.LANE_LCYC_CYC]
  | .LANE_LSTEST => [F.LANE_LSTEST_BIT, F.LANE_LSTEST_RAIL, F.LANE_LSTEST_FLAGGED, F.LANE_LSTEST_IDX]
  | .LANE_LIDS => [F.LANE_LIDS_ROMREL, F.LANE_LIDS_PSET, F.LANE_LIDS_QSET]
  | .LANE_LEVCNT => [F.LANE_LEVCNT_LATECNT, F.LANE_LEVCNT_RETRYCNT]
  | .SYSCTL_DEVID => [F.SYSCTL_DEVID_PARTCODE, F.SYSCTL_DEVID_DIEMASK, F.SYSCTL_DEVID_REV]
  | .SYSCTL_DIESTAT => [F.SYSCTL_DIESTAT_PRESENT, F.SYSCTL_DIESTAT_FENCED]
  | .SYSCTL_ERRLOG0 => [F.SYSCTL_ERRLOG0_ADDR]
  | .SYSCTL_ERRLOG1 => [F.SYSCTL_ERRLOG1_MASTER, F.SYSCTL_ERRLOG1_ISSUER, F.SYSCTL_ERRLOG1_KIND, F.SYSCTL_ERRLOG1_W, F.SYSCTL_ERRLOG1_CNT, F.SYSCTL_ERRLOG1_VALID]
  | .SYSCTL_SEAL => [F.SYSCTL_SEAL_APAIR, F.SYSCTL_SEAL_BPAIR, F.SYSCTL_SEAL_OWN, F.SYSCTL_SEAL_OTHER, F.SYSCTL_SEAL_SEALINV, F.SYSCTL_SEAL_GATE, F.SYSCTL_SEAL_OPENRUN, F.SYSCTL_SEAL_CLOSES]
  | .SYSCTL_VSTAT => [F.SYSCTL_VSTAT_LOADED, F.SYSCTL_VSTAT_KCVFAIL, F.SYSCTL_VSTAT_ZEROED, F.SYSCTL_VSTAT_BUSY]
  | .SYSCTL_VCTL => [F.SYSCTL_VCTL_START, F.SYSCTL_VCTL_GO]
  | .SYSCTL_VDIN => [F.SYSCTL_VDIN_DIN]
  | .SYSCTL_VMAC => [F.SYSCTL_VMAC_MAC]
  | .FENCE_FREQ => [F.FENCE_FREQ_KIND, F.FENCE_FREQ_INDEX, F.FENCE_FREQ_OP, F.FENCE_FREQ_GO]
  | .FENCE_FSTAT => [F.FENCE_FSTAT_NFENCED, F.FENCE_FSTAT_LOGCNT]
  | .FENCE_LANEST => [F.FENCE_LANEST_FENCED, F.FENCE_LANEST_SPARE, F.FENCE_LANEST_SOAK, F.FENCE_LANEST_READY]
  | .FENCE_LMAP => [F.FENCE_LMAP_PHYS0, F.FENCE_LMAP_PHYS1, F.FENCE_LMAP_PHYS2, F.FENCE_LMAP_PHYS3, F.FENCE_LMAP_PHYS4, F.FENCE_LMAP_PHYS5, F.FENCE_LMAP_PHYS6, F.FENCE_LMAP_PHYS7]
  | .FENCE_UNITST => [F.FENCE_UNITST_SVF, F.FENCE_UNITST_RNGF, F.FENCE_UNITST_PORTF, F.FENCE_UNITST_DBLF, F.FENCE_UNITST_DBLLF, F.FENCE_UNITST_OTHERLOST]
  | .FENCE_SOAKST => [F.FENCE_SOAKST_RUN, F.FENCE_SOAKST_DISAG, F.FENCE_SOAKST_KIND]
  | .FENCE_SVKICK => [F.FENCE_SVKICK_KICK, F.FENCE_SVKICK_WDREM]
  | .FENCE_LEASE => [F.FENCE_LEASE_OWNER, F.FENCE_LEASE_CLAIM, F.FENCE_LEASE_RELEASE, F.FENCE_LEASE_DENIED]
  | .MB_MBCTL => [F.MB_MBCTL_STATE, F.MB_MBCTL_RING, F.MB_MBCTL_ACK, F.MB_MBCTL_IRQEN, F.MB_MBCTL_WARDEN, F.MB_MBCTL_COMPLETE, F.MB_MBCTL_SERVER]
  | .MB_MBSEQ => [F.MB_MBSEQ_LAST, F.MB_MBSEQ_SYNC, F.MB_MBSEQ_RSPHELD]
  | .MB_MBCNT => [F.MB_MBCNT_REQS, F.MB_MBCNT_WARDCNT, F.MB_MBCNT_OWNERR]
  | .MB_HPSTAT => [F.MB_HPSTAT_DONE0, F.MB_HPSTAT_DONE1, F.MB_HPSTAT_BADINS, F.MB_HPSTAT_OWN, F.MB_HPSTAT_ALIGN, F.MB_HPSTAT_RANGE]
  | .MB_HPIEN => [F.MB_HPIEN_ERRIEN]
  | .RNG_RINGCFG => [F.RNG_RINGCFG_NODE, F.RNG_RINGCFG_REACH, F.RNG_RINGCFG_ENABLE]
  | .RNG_RINGID => [F.RNG_RINGID_RID]
  | .RNG_ETYPE => [F.RNG_ETYPE_ETYPE]
  | .RNG_NODES => [F.RNG_NODES_N]
  | .RNG_CFGHASH => [F.RNG_CFGHASH_HASH]
  | .RNG_TURNCFG => [F.RNG_TURNCFG_PERIOD, F.RNG_TURNCFG_MODE, F.RNG_TURNCFG_RANK, F.RNG_TURNCFG_HGEN, F.RNG_TURNCFG_R1SRC, F.RNG_TURNCFG_STALE]
  | .RNG_SLSERV => [F.RNG_SLSERV_START, F.RNG_SLSERV_END]
  | .RNG_SLFURR => [F.RNG_SLFURR_START, F.RNG_SLFURR_END]
  | .RNG_SLSPATE => [F.RNG_SLSPATE_SPLIM]
  | .RNG_TSYNC => [F.RNG_TSYNC_STATE, F.RNG_TSYNC_FPORT, F.RNG_TSYNC_TMIS, F.RNG_TSYNC_BHOPS]
  | .RNG_THG => [F.RNG_THG_HGID, F.RNG_THG_HGRANK, F.RNG_THG_SELF]
  | .RNG_TOFFS => [F.RNG_TOFFS_THETA]
  | .RNG_TCNT => [F.RNG_TCNT_HOLDT, F.RNG_TCNT_QUIETS, F.RNG_TCNT_BEACREJ]
  | .RNG_SPFWD => [F.RNG_SPFWD_FWD]
  | .RNG_SVCFG => [F.RNG_SVCFG_SVPORT]
  | .RNG_PCFG => [F.RNG_PCFG_MODE, F.RNG_PCFG_ANEN]
  | .RNG_PSTAT => [F.RNG_PSTAT_SYNC, F.RNG_PSTAT_ANDONE, F.RNG_PSTAT_LINK, F.RNG_PSTAT_PREACT, F.RNG_PSTAT_ADMIT, F.RNG_PSTAT_DOWNRSN, F.RNG_PSTAT_LPABIL]
  | .RNG_LDELAY => [F.RNG_LDELAY_DELAY, F.RNG_LDELAY_NMEAS, F.RNG_LDELAY_VALID]
  | .RNG_EMPTY => [F.RNG_EMPTY_CONSEC, F.RNG_EMPTY_STALE, F.RNG_EMPTY_TOTAL]
  | .RNG_TXSTAT => [F.RNG_TXSTAT_TRUNCRUN, F.RNG_TXSTAT_LISTEN, F.RNG_TXSTAT_TRUNCCNT, F.RNG_TXSTAT_SPDROP, F.RNG_TXSTAT_ACCREJ]
  | .RNG_WRAP => [F.RNG_WRAP_WRAP, F.RNG_WRAP_WCAUSE, F.RNG_WRAP_OKRUN, F.RNG_WRAP_WRAPS]
  | .RNG_RXCNT => [F.RNG_RXCNT_FURROK, F.RNG_RXCNT_ENTREJ]
  | .RNG_RXERR => [F.RNG_RXERR_FCSERR, F.RNG_RXERR_FILT, F.RNG_RXERR_FRDISC, F.RNG_RXERR_SVDROP]
  | .RNG_SPCNT => [F.RNG_SPCNT_SPFWDCNT, F.RNG_SPCNT_SPABORT, F.RNG_SPCNT_SPREJ]
  | .RNG_SVCNT => [F.RNG_SVCNT_SVTX, F.RNG_SVCNT_SVRX]
  | .LTMR_CTL => [F.LTMR_CTL_EN, F.LTMR_CTL_FRZ, F.LTMR_CTL_ZACT, F.LTMR_CTL_MACT, F.LTMR_CTL_CAPEN, F.LTMR_CTL_CAPEDGE, F.LTMR_CTL_CAPSEL, F.LTMR_CTL_RLDNOW, F.LTMR_CTL_OWNER]
  | .LTMR_CNT => [F.LTMR_CNT_CNT]
  | .LTMR_RELOAD => [F.LTMR_RELOAD_RELOAD]
  | .LTMR_CMPPRE => [F.LTMR_CMPPRE_CMPPRE]
  | .LTMR_CMP => [F.LTMR_CMP_CMP]
  | .LTMR_CAP => [F.LTMR_CAP_CAP]
  | .LTMR_STAT => [F.LTMR_STAT_ZERO, F.LTMR_STAT_MATCH, F.LTMR_STAT_CAPTURED, F.LTMR_STAT_OVERCAP, F.LTMR_STAT_PIN]
  | .FTMR_CTL => [F.FTMR_CTL_EN, F.FTMR_CTL_FRZ, F.FTMR_CTL_ZACT, F.FTMR_CTL_MACT, F.FTMR_CTL_CAPEN, F.FTMR_CTL_CAPEDGE, F.FTMR_CTL_CAPSEL, F.FTMR_CTL_OWNER]
  | .FTMR_CNT => [F.FTMR_CNT_CNT]
  | .FTMR_RELOAD => [F.FTMR_RELOAD_RELOAD]
  | .FTMR_CMPPRE => [F.FTMR_CMPPRE_CMPPRE]
  | .FTMR_CMP => [F.FTMR_CMP_CMP]
  | .FTMR_CAP => [F.FTMR_CAP_CAP]
  | .FTMR_STAT => [F.FTMR_STAT_ZERO, F.FTMR_STAT_MATCH, F.FTMR_STAT_CAPTURED, F.FTMR_STAT_OVERCAP, F.FTMR_STAT_PIN]
  | .CRC_CFG => [F.CRC_CFG_WIDTH, F.CRC_CFG_REFIN, F.CRC_CFG_REFOUT]
  | .CRC_POLY => [F.CRC_POLY_POLY]
  | .CRC_INIT => [F.CRC_INIT_INIT]
  | .CRC_XOROUT => [F.CRC_XOROUT_XOROUT]
  | .CRC_VAL => [F.CRC_VAL_VAL]
  | .CRC_DIN => [F.CRC_DIN_DIN]
  | .CRC_RESULT => [F.CRC_RESULT_RESULT]
  | .CRC_CTL => [F.CRC_CTL_LOAD]
  | .CRC_STAT => [F.CRC_STAT_BUSY, F.CRC_STAT_REFUSED]
  | .SCAN_START => [F.SCAN_START_START]
  | .SCAN_LEN => [F.SCAN_LEN_LEN]
  | .SCAN_CTL => [F.SCAN_CTL_GO, F.SCAN_CTL_CONT, F.SCAN_CTL_STOP]
  | .SCAN_STAT => [F.SCAN_STAT_BUSY, F.SCAN_STAT_DONE, F.SCAN_STAT_RDERR, F.SCAN_STAT_STOPPED, F.SCAN_STAT_BADRANGE]
  | .SCAN_NEXT => [F.SCAN_NEXT_NEXT]
  | .SCAN_REM => [F.SCAN_REM_REM]
  | .SCAN_ERRADDR => [F.SCAN_ERRADDR_ADDR]
  | .SPM_MODE => [F.SPM_MODE_ROT]
  | .SPM_PWR => [F.SPM_PWR_OFF, F.SPM_PWR_CLEARING]
  | .SPM_ECCSTAT => [F.SPM_ECCSTAT_CECNT, F.SPM_ECCSTAT_UECNT, F.SPM_ECCSTAT_REPFULL]
  | .SPM_ERRLOG0 => [F.SPM_ERRLOG0_OFFS]
  | .SPM_ERRLOG1 => [F.SPM_ERRLOG1_MASTER, F.SPM_ERRLOG1_KIND, F.SPM_ERRLOG1_SYND, F.SPM_ERRLOG1_VALID]
  | .SPM_TCTL => [F.SPM_TCTL_PACE, F.SPM_TCTL_PAUSE]
  | .SPM_TSTAT => [F.SPM_TSTAT_REGION, F.SPM_TSTAT_PHASE, F.SPM_TSTAT_HOLD, F.SPM_TSTAT_ABORTS, F.SPM_TSTAT_BANK]
  | .SPM_TCNT => [F.SPM_TCNT_SWEEPS, F.SPM_TCNT_HOLDS]
  | .SPM_REP => [F.SPM_REP_ROW0, F.SPM_REP_USE0, F.SPM_REP_ROW1, F.SPM_REP_USE1]
  | .SPM_FROW => [F.SPM_FROW_ROW, F.SPM_FROW_FENCED]
  | .LBIST_CFG => [F.LBIST_CFG_PCNT]
  | .LBIST_CTL => [F.LBIST_CTL_GO, F.LBIST_CTL_ABORT]
  | .LBIST_STAT => [F.LBIST_STAT_STATE, F.LBIST_STAT_RESULT, F.LBIST_STAT_TOKEN, F.LBIST_STAT_CUSTOM, F.LBIST_STAT_ACAUSE]
  | .LBIST_PDONE => [F.LBIST_PDONE_PDONE]
  | .LBIST_MISR0 => [F.LBIST_MISR0_MISR]
  | .LBIST_MISR1 => [F.LBIST_MISR1_MISR]
  | .LBIST_EXP0 => [F.LBIST_EXP0_EXP]
  | .LBIST_EXP1 => [F.LBIST_EXP1_EXP]
  | .LBIST_REC => [F.LBIST_REC_VALID, F.LBIST_REC_SHUT]
  | .LBIST_SDCTL => [F.LBIST_SDCTL_GO, F.LBIST_SDCTL_BUSY, F.LBIST_SDCTL_DONE]
  | .LBIST_LCSTAT => [F.LBIST_LCSTAT_LC, F.LBIST_LCSTAT_LCUE]
  | .LBIST_RSTAT => [F.LBIST_RSTAT_BADENT, F.LBIST_RSTAT_SOFT]
  | .LBIST_RREP => [F.LBIST_RREP_ADDR, F.LBIST_RREP_SPARE, F.LBIST_RREP_HARD]
  | .LBIST_DBGSTAT => [F.LBIST_DBGSTAT_HALTED, F.LBIST_DBGSTAT_SVHALT, F.LBIST_DBGSTAT_REFUSED]
  | .OTP_OADDR => [F.OTP_OADDR_WORD]
  | .OTP_ODATA0 => [F.OTP_ODATA0_DATA]
  | .OTP_ODATA1 => [F.OTP_ODATA1_DATA]
  | .OTP_OCMD => [F.OTP_OCMD_READ, F.OTP_OCMD_PROG, F.OTP_OCMD_REBURN]
  | .OTP_OSTAT => [F.OTP_OSTAT_BUSY, F.OTP_OSTAT_LOCKED, F.OTP_OSTAT_RATE, F.OTP_OSTAT_MISMATCH, F.OTP_OSTAT_WEAK, F.OTP_OSTAT_UE, F.OTP_OSTAT_TOKENS]
  | .OTP_OLOCK => [F.OTP_OLOCK_LOCK, F.OTP_OLOCK_CLOSED]
  | .OTP_OLOCKSET => [F.OTP_OLOCKSET_SET]
  | .OTP_OMSTAT => [F.OTP_OMSTAT_WEAKCNT, F.OTP_OMSTAT_UECNT, F.OTP_OMSTAT_CORRCNT]
  | .OTP_OMLOG => [F.OTP_OMLOG_WORD, F.OTP_OMLOG_CLASS, F.OTP_OMLOG_VALID]
  | .PATCH_PSTAT => [F.PATCH_PSTAT_NUSED, F.PATCH_PSTAT_NGROUP, F.PATCH_PSTAT_NSKIP]
  | .PATCH_PSKIP => [F.PATCH_PSKIP_WORD, F.PATCH_PSKIP_CAUSE, F.PATCH_PSKIP_VALID]
  | .PATCH_PCMPA => [F.PATCH_PCMPA_ADDR, F.PATCH_PCMPA_TGT, F.PATCH_PCMPA_EN]
  | .PATCH_PCMPD0 => [F.PATCH_PCMPD0_D0]
  | .PATCH_PCMPD1 => [F.PATCH_PCMPD1_D1]
  | .CLKPWR_CLKSTAT => [F.CLKPWR_CLKSTAT_AONSRC, F.CLKPWR_CLKSTAT_SPLLLK, F.CLKPWR_CLKSTAT_LPLLLK, F.CLKPWR_CLKSTAT_LPLLON, F.CLKPWR_CLKSTAT_GATING, F.CLKPWR_CLKSTAT_LPLLLATE]
  | .CLKPWR_CLKMON => [F.CLKPWR_CLKMON_LPLLFAIL, F.CLKPWR_CLKMON_TXFAIL]
  | .CLKPWR_PWRSTAT => [F.CLKPWR_PWRSTAT_VAUXOK, F.CLKPWR_PWRSTAT_VIOOK, F.CLKPWR_PWRSTAT_VCOREOK, F.CLKPWR_PWRSTAT_VCOREBO, F.CLKPWR_PWRSTAT_VIOBO]
  | .CLKPWR_RSTCAUSE => [F.CLKPWR_RSTCAUSE_CAUSE, F.CLKPWR_RSTCAUSE_COLD, F.CLKPWR_RSTCAUSE_WARMCNT]
  | .CLKPWR_RSTCTL => [F.CLKPWR_RSTCTL_PART, F.CLKPWR_RSTCTL_KEY]
  | .CLKPWR_FLTSRC => [F.CLKPWR_FLTSRC_SRC, F.CLKPWR_FLTSRC_SAFE, F.CLKPWR_FLTSRC_FAULT]
  | .DIEBR_LINK => [F.DIEBR_LINK_UP, F.DIEBR_LINK_FENCED, F.DIEBR_LINK_MONITOR, F.DIEBR_LINK_ABSLAST, F.DIEBR_LINK_ABSCNT, F.DIEBR_LINK_CRCERR, F.DIEBR_LINK_OKRUN]
  | .SIEVEP_SCFG => [F.SIEVEP_SCFG_WIN]
  | .SIEVEP_SSTAT => [F.SIEVEP_SSTAT_WSTART, F.SIEVEP_SSTAT_NDIS, F.SIEVEP_SSTAT_XABS]
  | .SIEVEP_SCNT => [F.SIEVEP_SCNT_DISWIN, F.SIEVEP_SCNT_SFENCE]
  | .SIEVEP_SLAST => [F.SIEVEP_SLAST_IID, F.SIEVEP_SLAST_CELL, F.SIEVEP_SLAST_FDIE, F.SIEVEP_SLAST_VALID]
  | .SIEVEP_SLOCAL => [F.SIEVEP_SLOCAL_SIG]
  | .SIEVEP_SOTHER => [F.SIEVEP_SOTHER_SIG]
  | .SIEVEP_DCNT => [F.SIEVEP_DCNT_DCNT0, F.SIEVEP_DCNT_DCNT1, F.SIEVEP_DCNT_DCNT2, F.SIEVEP_DCNT_DCNT3, F.SIEVEP_DCNT_DCNT4, F.SIEVEP_DCNT_DCNT5, F.SIEVEP_DCNT_DCNT6, F.SIEVEP_DCNT_DCNT7, F.SIEVEP_DCNT_DCNT8, F.SIEVEP_DCNT_DCNT9, F.SIEVEP_DCNT_DCNT10, F.SIEVEP_DCNT_DCNT11, F.SIEVEP_DCNT_DCNT12, F.SIEVEP_DCNT_DCNT13, F.SIEVEP_DCNT_DCNT14, F.SIEVEP_DCNT_DCNT15]
  | .SIEVEH_SCFG => [F.SIEVEH_SCFG_WIN]
  | .SIEVEH_SSTAT => [F.SIEVEH_SSTAT_WSTART, F.SIEVEH_SSTAT_NDIS, F.SIEVEH_SSTAT_XABS]
  | .SIEVEH_SCNT => [F.SIEVEH_SCNT_DISWIN, F.SIEVEH_SCNT_SFENCE]
  | .SIEVEH_SLAST => [F.SIEVEH_SLAST_IID, F.SIEVEH_SLAST_CELL, F.SIEVEH_SLAST_FDIE, F.SIEVEH_SLAST_VALID]
  | .SIEVEH_SLOCAL => [F.SIEVEH_SLOCAL_SIG]
  | .SIEVEH_SOTHER => [F.SIEVEH_SOTHER_SIG]
  | .SIEVEH_DCNT => [F.SIEVEH_DCNT_DCNT0, F.SIEVEH_DCNT_DCNT1, F.SIEVEH_DCNT_DCNT2, F.SIEVEH_DCNT_DCNT3, F.SIEVEH_DCNT_DCNT4, F.SIEVEH_DCNT_DCNT5, F.SIEVEH_DCNT_DCNT6, F.SIEVEH_DCNT_DCNT7, F.SIEVEH_DCNT_DCNT8, F.SIEVEH_DCNT_DCNT9, F.SIEVEH_DCNT_DCNT10, F.SIEVEH_DCNT_DCNT11, F.SIEVEH_DCNT_DCNT12, F.SIEVEH_DCNT_DCNT13, F.SIEVEH_DCNT_DCNT14, F.SIEVEH_DCNT_DCNT15]
  | .TICK_TCFG => [F.TICK_TCFG_PERIOD, F.TICK_TCFG_SRC, F.TICK_TCFG_PINEN]
  | .TICK_TSTAT => [F.TICK_TSTAT_LOCKED, F.TICK_TSTAT_HOLDOVER, F.TICK_TSTAT_EXTLOST, F.TICK_TSTAT_SRCNOW, F.TICK_TSTAT_EXTMISS]
  | .TICK_TNUM0 => [F.TICK_TNUM0_TNUM]
  | .TICK_TNUM1 => [F.TICK_TNUM1_TNUM]
  | .TICK_TPOS => [F.TICK_TPOS_POS, F.TICK_TPOS_NPER]
  | .TICK_TSKEW => [F.TICK_TSKEW_SKEW]
  | .TERM_CFG => [F.TERM_CFG_MODE, F.TERM_CFG_ITYPE, F.TERM_CFG_FILT, F.TERM_CFG_GDSNS, F.TERM_CFG_TPSRC, F.TERM_CFG_TPEN]
  | .TERM_OUTCFG => [F.TERM_OUTCFG_OLOFF, F.TERM_OUTCFG_OFFTEST, F.TERM_OUTCFG_GDTRIP]
  | .TERM_PULSECFG => [F.TERM_PULSECFG_TOLW]
  | .TERM_PIMG => [F.TERM_PIMG_IMG]
  | .TERM_HSTAT => [F.TERM_HSTAT_HZONE, F.TERM_HSTAT_HPULSE, F.TERM_HSTAT_HMISS, F.TERM_HSTAT_HFOREIGN, F.TERM_HSTAT_HLIM, F.TERM_HSTAT_HTHERM, F.TERM_HSTAT_HENA, F.TERM_HSTAT_PENA, F.TERM_HSTAT_HOVER]
  | .TERM_FAULT => [F.TERM_FAULT_SHORT_GND, F.TERM_FAULT_SHORT_VF, F.TERM_FAULT_OPEN_LOAD, F.TERM_FAULT_STUCK_ON, F.TERM_FAULT_WIRE_BREAK, F.TERM_FAULT_LM_SHORT, F.TERM_FAULT_TPMISS, F.TERM_FAULT_TPFOREIGN, F.TERM_FAULT_REVERSED, F.TERM_FAULT_OVERTEMP, F.TERM_FAULT_OFFTEST_FAIL, F.TERM_FAULT_GDTRIP, F.TERM_FAULT_SRC_FAULT]
  | .TERM_FCTL => [F.TERM_FCTL_FENCED, F.TERM_FCTL_FREASON, F.TERM_FCTL_CLR, F.TERM_FCTL_CLRREF]
  | .TERM_FCNT => [F.TERM_FCNT_LIMCNT, F.TERM_FCNT_MISSCNT]
  | .TERM_TEMP => [F.TERM_TEMP_TEMPC]
  | .TP_FRAME => [F.TP_FRAME_FLEN, F.TP_FRAME_TPON, F.TP_FRAME_SLOTNOW, F.TP_FRAME_FRAMECNT]
  | .TP_CODE => [F.TP_CODE_SLOTA, F.TP_CODE_SLOTB, F.TP_CODE_WIDTH, F.TP_CODE_ASSIGNED]
  | .HC_HCFG => [F.HC_HCFG_TYPE, F.HC_HCFG_RANK, F.HC_HCFG_ACTIVE, F.HC_HCFG_OPT]
  | .HC_TSEL0 => [F.HC_TSEL0_IDX0, F.HC_TSEL0_USE0, F.HC_TSEL0_IDX1, F.HC_TSEL0_USE1, F.HC_TSEL0_IDX2, F.HC_TSEL0_USE2, F.HC_TSEL0_IDX3, F.HC_TSEL0_USE3]
  | .HC_TSEL1 => [F.HC_TSEL1_IDX4, F.HC_TSEL1_USE4, F.HC_TSEL1_IDX5, F.HC_TSEL1_USE5, F.HC_TSEL1_IDX6, F.HC_TSEL1_USE6, F.HC_TSEL1_IDX7, F.HC_TSEL1_USE7]
  | .HC_PAR0 => [F.HC_PAR0_PAR]
  | .HC_PAR1 => [F.HC_PAR1_PAR]
  | .HC_PAR2 => [F.HC_PAR2_PAR]
  | .HC_PAR3 => [F.HC_PAR3_PAR]
  | .HC_RST => [F.HC_RST_SRC, F.HC_RST_USE]
  | .HC_HIID => [F.HC_HIID_IID]
  | .HC_HSTAT => [F.HC_HSTAT_STATE, F.HC_HSTAT_SUB, F.HC_HSTAT_DBITS, F.HC_HSTAT_FENCED]
  | .HC_HFLAG => [F.HC_HFLAG_FLAGS]
  | .HC_HTMR => [F.HC_HTMR_REM]
  | .HGLB_HTCTL => [F.HGLB_HTCTL_NH, F.HGLB_HTCTL_HSAFE, F.HGLB_HTCTL_STRSRC, F.HGLB_HTCTL_ABSCNT]
  | .HGLB_HTDEV => [F.HGLB_HTDEV_DEV, F.HGLB_HTDEV_MAXDEV]
  | .HGLB_HRING => [F.HGLB_HRING_REACH0, F.HGLB_HRING_REACH1, F.HGLB_HRING_STALE0, F.HGLB_HRING_STALE1, F.HGLB_HRING_NODE]
  | .HGLB_HRINGID => [F.HGLB_HRINGID_RID0, F.HGLB_HRINGID_RID1]
  | .HGLB_HBSTAT => [F.HGLB_HBSTAT_SLOTOK, F.HGLB_HBSTAT_SLOTERR, F.HGLB_HBSTAT_HREJ]
  | .RXH => [F.RXH_W]
  | .RXS => [F.RXS_W]
  | .HTX => [F.HTX_W]
  | .LMR => [F.LMR_W]
  | .HBOWN => [F.HBOWN_WDIE, F.HBOWN_USE, F.HBOWN_SRC]
  | .FSYS_FPWR => [F.FSYS_FPWR_VFOK, F.FSYS_FPWR_VFTRIP, F.FSYS_FPWR_GF_PARTIAL, F.FSYS_FPWR_DIE_OVERLOAD, F.FSYS_FPWR_HCLKSTOP, F.FSYS_FPWR_FAONFAIL, F.FSYS_FPWR_LOADED, F.FSYS_FPWR_ISUM]
  | .FSYS_FID => [F.FSYS_FID_FDIE, F.FSYS_FID_REV]
  | .FSYS_ERRLOG0 => [F.FSYS_ERRLOG0_ADDR]
  | .FSYS_ERRLOG1 => [F.FSYS_ERRLOG1_MASTER, F.FSYS_ERRLOG1_ISSUER, F.FSYS_ERRLOG1_KIND, F.FSYS_ERRLOG1_W, F.FSYS_ERRLOG1_CNT, F.FSYS_ERRLOG1_VALID]
  | .FSYS_SEAL => [F.FSYS_SEAL_APAIR, F.FSYS_SEAL_BPAIR, F.FSYS_SEAL_OWN, F.FSYS_SEAL_OTHER, F.FSYS_SEAL_SEALINV, F.FSYS_SEAL_GATE, F.FSYS_SEAL_OPENRUN, F.FSYS_SEAL_CLOSES]
  | .FSYS_PENCNT => [F.FSYS_PENCNT_INVALID, F.FSYS_PENCNT_PARITY, F.FSYS_PENCNT_SOURCE, F.FSYS_PENCNT_ABSENT]
  | .FSYS_PSWCNT => [F.FSYS_PSWCNT_TAKEOVER]
  | .FSYS_PSRC0 => [F.FSYS_PSRC0_SRC]
  | .FSYS_PSRC1 => [F.FSYS_PSRC1_SRC]
  | .FSYS_FFSTAT => [F.FSYS_FFSTAT_DIEF, F.FSYS_FFSTAT_REASON, F.FSYS_FFSTAT_NCELLF]
  | .FSYS_FRST => [F.FSYS_FRST_RST]
  | .FSYS_FFREQ => [F.FSYS_FFREQ_KIND, F.FSYS_FFREQ_INDEX, F.FSYS_FFREQ_OP, F.FSYS_FFREQ_GO]
  | .FSYS_CELLFEN => [F.FSYS_CELLFEN_FEN]
  | .FSYS_CMAP => [F.FSYS_CMAP_CELL0, F.FSYS_CMAP_CELL1, F.FSYS_CMAP_CELL2, F.FSYS_CMAP_CELL3]
  | .FBIST_FBSTAT => [F.FBIST_FBSTAT_RESULT, F.FBIST_FBSTAT_TOKEN, F.FBIST_FBSTAT_RETRY]
  | .FBIST_FBREC => [F.FBIST_FBREC_VALID]

/-- Where each register stands. -/
def Reg.place : Reg → Place
  | .LANE_LCTL => ⟨.logic, 0x4080000, 1048576, 8⟩
  | .LANE_LSTAT => ⟨.logic, 0x4080004, 1048576, 8⟩
  | .LANE_LWCET => ⟨.logic, 0x4080008, 1048576, 8⟩
  | .LANE_LBUDGET => ⟨.logic, 0x408000c, 1048576, 8⟩
  | .LANE_LMCNT => ⟨.logic, 0x4080010, 1048576, 8⟩
  | .LANE_LMT => ⟨.logic, 0x4080014, 1048576, 8⟩
  | .LANE_LMT0 => ⟨.logic, 0x4080018, 1048576, 8⟩
  | .LANE_LMINFO => ⟨.logic, 0x408001c, 1048576, 8⟩
  | .LANE_LCYC => ⟨.logic, 0x4080020, 1048576, 8⟩
  | .LANE_LSTEST => ⟨.logic, 0x4080024, 1048576, 8⟩
  | .LANE_LIDS => ⟨.logic, 0x4080028, 1048576, 8⟩
  | .LANE_LEVCNT => ⟨.logic, 0x408002c, 1048576, 8⟩
  | .SYSCTL_DEVID => ⟨.logic, 0x8000000, 0, 1⟩
  | .SYSCTL_DIESTAT => ⟨.logic, 0x8000004, 0, 1⟩
  | .SYSCTL_ERRLOG0 => ⟨.logic, 0x8000010, 0, 1⟩
  | .SYSCTL_ERRLOG1 => ⟨.logic, 0x8000014, 0, 1⟩
  | .SYSCTL_SEAL => ⟨.logic, 0x8000040, 0, 1⟩
  | .SYSCTL_VSTAT => ⟨.logic, 0x8000100, 0, 1⟩
  | .SYSCTL_VCTL => ⟨.logic, 0x8000104, 0, 1⟩
  | .SYSCTL_VDIN => ⟨.logic, 0x8000108, 0, 1⟩
  | .SYSCTL_VMAC => ⟨.logic, 0x8000120, 4, 8⟩
  | .FENCE_FREQ => ⟨.logic, 0x8010000, 0, 1⟩
  | .FENCE_FSTAT => ⟨.logic, 0x8010004, 0, 1⟩
  | .FENCE_LANEST => ⟨.logic, 0x8010008, 0, 1⟩
  | .FENCE_LMAP => ⟨.logic, 0x801000c, 0, 1⟩
  | .FENCE_UNITST => ⟨.logic, 0x8010010, 0, 1⟩
  | .FENCE_SOAKST => ⟨.logic, 0x8010014, 0, 1⟩
  | .FENCE_SVKICK => ⟨.logic, 0x8010018, 0, 1⟩
  | .FENCE_LEASE => ⟨.logic, 0x8010040, 4, 16⟩
  | .MB_MBCTL => ⟨.logic, 0x8020400, 4096, 8⟩
  | .MB_MBSEQ => ⟨.logic, 0x8020404, 4096, 8⟩
  | .MB_MBCNT => ⟨.logic, 0x8020408, 4096, 8⟩
  | .MB_HPSTAT => ⟨.logic, 0x802f000, 0, 1⟩
  | .MB_HPIEN => ⟨.logic, 0x802f004, 0, 1⟩
  | .RNG_RINGCFG => ⟨.logic, 0x8030000, 0, 1⟩
  | .RNG_RINGID => ⟨.logic, 0x8030004, 0, 1⟩
  | .RNG_ETYPE => ⟨.logic, 0x8030008, 0, 1⟩
  | .RNG_NODES => ⟨.logic, 0x803000c, 0, 1⟩
  | .RNG_CFGHASH => ⟨.logic, 0x8030010, 0, 1⟩
  | .RNG_TURNCFG => ⟨.logic, 0x8030020, 0, 1⟩
  | .RNG_SLSERV => ⟨.logic, 0x8030024, 0, 1⟩
  | .RNG_SLFURR => ⟨.logic, 0x8030028, 0, 1⟩
  | .RNG_SLSPATE => ⟨.logic, 0x803002c, 0, 1⟩
  | .RNG_TSYNC => ⟨.logic, 0x8030030, 0, 1⟩
  | .RNG_THG => ⟨.logic, 0x8030034, 0, 1⟩
  | .RNG_TOFFS => ⟨.logic, 0x8030038, 0, 1⟩
  | .RNG_TCNT => ⟨.logic, 0x803003c, 0, 1⟩
  | .RNG_SPFWD => ⟨.logic, 0x8030040, 4, 8⟩
  | .RNG_SVCFG => ⟨.logic, 0x8030060, 0, 1⟩
  | .RNG_PCFG => ⟨.logic, 0x8030100, 256, 2⟩
  | .RNG_PSTAT => ⟨.logic, 0x8030104, 256, 2⟩
  | .RNG_LDELAY => ⟨.logic, 0x8030110, 256, 2⟩
  | .RNG_EMPTY => ⟨.logic, 0x8030114, 256, 2⟩
  | .RNG_TXSTAT => ⟨.logic, 0x8030118, 256, 2⟩
  | .RNG_WRAP => ⟨.logic, 0x803011c, 256, 2⟩
  | .RNG_RXCNT => ⟨.logic, 0x8030120, 256, 2⟩
  | .RNG_RXERR => ⟨.logic, 0x8030124, 256, 2⟩
  | .RNG_SPCNT => ⟨.logic, 0x8030128, 256, 2⟩
  | .RNG_SVCNT => ⟨.logic, 0x803012c, 256, 2⟩
  | .LTMR_CTL => ⟨.logic, 0x8040000, 32, 32⟩
  | .LTMR_CNT => ⟨.logic, 0x8040004, 32, 32⟩
  | .LTMR_RELOAD => ⟨.logic, 0x8040008, 32, 32⟩
  | .LTMR_CMPPRE => ⟨.logic, 0x804000c, 32, 32⟩
  | .LTMR_CMP => ⟨.logic, 0x8040010, 32, 32⟩
  | .LTMR_CAP => ⟨.logic, 0x8040014, 32, 32⟩
  | .LTMR_STAT => ⟨.logic, 0x8040018, 32, 32⟩
  | .FTMR_CTL => ⟨.field, 0x10000, 32, 80⟩
  | .FTMR_CNT => ⟨.field, 0x10004, 32, 80⟩
  | .FTMR_RELOAD => ⟨.field, 0x10008, 32, 80⟩
  | .FTMR_CMPPRE => ⟨.field, 0x1000c, 32, 80⟩
  | .FTMR_CMP => ⟨.field, 0x10010, 32, 80⟩
  | .FTMR_CAP => ⟨.field, 0x10014, 32, 80⟩
  | .FTMR_STAT => ⟨.field, 0x10018, 32, 80⟩
  | .CRC_CFG => ⟨.logic, 0x8050000, 64, 8⟩
  | .CRC_POLY => ⟨.logic, 0x8050004, 64, 8⟩
  | .CRC_INIT => ⟨.logic, 0x8050008, 64, 8⟩
  | .CRC_XOROUT => ⟨.logic, 0x805000c, 64, 8⟩
  | .CRC_VAL => ⟨.logic, 0x8050010, 64, 8⟩
  | .CRC_DIN => ⟨.logic, 0x8050014, 64, 8⟩
  | .CRC_RESULT => ⟨.logic, 0x8050018, 64, 8⟩
  | .CRC_CTL => ⟨.logic, 0x805001c, 64, 8⟩
  | .CRC_STAT => ⟨.logic, 0x8050020, 64, 8⟩
  | .SCAN_START => ⟨.logic, 0x8060000, 32, 8⟩
  | .SCAN_LEN => ⟨.logic, 0x8060004, 32, 8⟩
  | .SCAN_CTL => ⟨.logic, 0x8060008, 32, 8⟩
  | .SCAN_STAT => ⟨.logic, 0x806000c, 32, 8⟩
  | .SCAN_NEXT => ⟨.logic, 0x8060010, 32, 8⟩
  | .SCAN_REM => ⟨.logic, 0x8060014, 32, 8⟩
  | .SCAN_ERRADDR => ⟨.logic, 0x8060018, 32, 8⟩
  | .SPM_MODE => ⟨.logic, 0x8070000, 0, 1⟩
  | .SPM_PWR => ⟨.logic, 0x8070004, 0, 1⟩
  | .SPM_ECCSTAT => ⟨.logic, 0x8070008, 0, 1⟩
  | .SPM_ERRLOG0 => ⟨.logic, 0x807000c, 0, 1⟩
  | .SPM_ERRLOG1 => ⟨.logic, 0x8070010, 0, 1⟩
  | .SPM_TCTL => ⟨.logic, 0x8070020, 0, 1⟩
  | .SPM_TSTAT => ⟨.logic, 0x8070024, 0, 1⟩
  | .SPM_TCNT => ⟨.logic, 0x8070028, 0, 1⟩
  | .SPM_REP => ⟨.logic, 0x8070100, 8, 32⟩
  | .SPM_FROW => ⟨.logic, 0x8070104, 8, 32⟩
  | .LBIST_CFG => ⟨.logic, 0x8080000, 64, 10⟩
  | .LBIST_CTL => ⟨.logic, 0x8080004, 64, 10⟩
  | .LBIST_STAT => ⟨.logic, 0x8080008, 64, 10⟩
  | .LBIST_PDONE => ⟨.logic, 0x808000c, 64, 10⟩
  | .LBIST_MISR0 => ⟨.logic, 0x8080010, 64, 10⟩
  | .LBIST_MISR1 => ⟨.logic, 0x8080014, 64, 10⟩
  | .LBIST_EXP0 => ⟨.logic, 0x8080018, 64, 10⟩
  | .LBIST_EXP1 => ⟨.logic, 0x808001c, 64, 10⟩
  | .LBIST_REC => ⟨.logic, 0x8080020, 64, 10⟩
  | .LBIST_SDCTL => ⟨.logic, 0x8080400, 0, 1⟩
  | .LBIST_LCSTAT => ⟨.logic, 0x8080480, 0, 1⟩
  | .LBIST_RSTAT => ⟨.logic, 0x8080490, 0, 1⟩
  | .LBIST_RREP => ⟨.logic, 0x8080500, 4, 33⟩
  | .LBIST_DBGSTAT => ⟨.logic, 0x8080600, 0, 1⟩
  | .OTP_OADDR => ⟨.logic, 0x8090000, 0, 1⟩
  | .OTP_ODATA0 => ⟨.logic, 0x8090004, 0, 1⟩
  | .OTP_ODATA1 => ⟨.logic, 0x8090008, 0, 1⟩
  | .OTP_OCMD => ⟨.logic, 0x809000c, 0, 1⟩
  | .OTP_OSTAT => ⟨.logic, 0x8090010, 0, 1⟩
  | .OTP_OLOCK => ⟨.logic, 0x8090014, 0, 1⟩
  | .OTP_OLOCKSET => ⟨.logic, 0x8090018, 0, 1⟩
  | .OTP_OMSTAT => ⟨.logic, 0x809001c, 0, 1⟩
  | .OTP_OMLOG => ⟨.logic, 0x8090040, 4, 16⟩
  | .PATCH_PSTAT => ⟨.logic, 0x80a0000, 0, 1⟩
  | .PATCH_PSKIP => ⟨.logic, 0x80a0040, 4, 16⟩
  | .PATCH_PCMPA => ⟨.logic, 0x80a0100, 16, 64⟩
  | .PATCH_PCMPD0 => ⟨.logic, 0x80a0104, 16, 64⟩
  | .PATCH_PCMPD1 => ⟨.logic, 0x80a0108, 16, 64⟩
  | .CLKPWR_CLKSTAT => ⟨.logic, 0x80b0000, 0, 1⟩
  | .CLKPWR_CLKMON => ⟨.logic, 0x80b0004, 0, 1⟩
  | .CLKPWR_PWRSTAT => ⟨.logic, 0x80b0008, 0, 1⟩
  | .CLKPWR_RSTCAUSE => ⟨.logic, 0x80b000c, 0, 1⟩
  | .CLKPWR_RSTCTL => ⟨.logic, 0x80b0010, 0, 1⟩
  | .CLKPWR_FLTSRC => ⟨.logic, 0x80b0014, 0, 1⟩
  | .DIEBR_LINK => ⟨.logic, 0x80c0000, 4, 7⟩
  | .SIEVEP_SCFG => ⟨.logic, 0x80d0000, 0, 1⟩
  | .SIEVEP_SSTAT => ⟨.logic, 0x80d0004, 0, 1⟩
  | .SIEVEP_SCNT => ⟨.logic, 0x80d0008, 0, 1⟩
  | .SIEVEP_SLAST => ⟨.logic, 0x80d000c, 0, 1⟩
  | .SIEVEP_SLOCAL => ⟨.logic, 0x80d0010, 0, 1⟩
  | .SIEVEP_SOTHER => ⟨.logic, 0x80d0014, 0, 1⟩
  | .SIEVEP_DCNT => ⟨.logic, 0x80d0100, 4, 48⟩
  | .SIEVEH_SCFG => ⟨.field, 0x40000, 0, 1⟩
  | .SIEVEH_SSTAT => ⟨.field, 0x40004, 0, 1⟩
  | .SIEVEH_SCNT => ⟨.field, 0x40008, 0, 1⟩
  | .SIEVEH_SLAST => ⟨.field, 0x4000c, 0, 1⟩
  | .SIEVEH_SLOCAL => ⟨.field, 0x40010, 0, 1⟩
  | .SIEVEH_SOTHER => ⟨.field, 0x40014, 0, 1⟩
  | .SIEVEH_DCNT => ⟨.field, 0x40100, 4, 9⟩
  | .TICK_TCFG => ⟨.logic, 0x80e0000, 0, 1⟩
  | .TICK_TSTAT => ⟨.logic, 0x80e0004, 0, 1⟩
  | .TICK_TNUM0 => ⟨.logic, 0x80e0008, 0, 1⟩
  | .TICK_TNUM1 => ⟨.logic, 0x80e000c, 0, 1⟩
  | .TICK_TPOS => ⟨.logic, 0x80e0010, 0, 1⟩
  | .TICK_TSKEW => ⟨.logic, 0x80e0014, 0, 1⟩
  | .TERM_CFG => ⟨.field, 0x0, 64, 64⟩
  | .TERM_OUTCFG => ⟨.field, 0x4, 64, 64⟩
  | .TERM_PULSECFG => ⟨.field, 0x8, 64, 64⟩
  | .TERM_PIMG => ⟨.field, 0xc, 64, 64⟩
  | .TERM_HSTAT => ⟨.field, 0x10, 64, 64⟩
  | .TERM_FAULT => ⟨.field, 0x14, 64, 64⟩
  | .TERM_FCTL => ⟨.field, 0x18, 64, 64⟩
  | .TERM_FCNT => ⟨.field, 0x1c, 64, 64⟩
  | .TERM_TEMP => ⟨.field, 0x20, 64, 64⟩
  | .TP_FRAME => ⟨.field, 0x10a00, 0, 1⟩
  | .TP_CODE => ⟨.field, 0x10b00, 4, 64⟩
  | .HC_HCFG => ⟨.field, 0x20000, 64, 144⟩
  | .HC_TSEL0 => ⟨.field, 0x20004, 64, 144⟩
  | .HC_TSEL1 => ⟨.field, 0x20008, 64, 144⟩
  | .HC_PAR0 => ⟨.field, 0x2000c, 64, 144⟩
  | .HC_PAR1 => ⟨.field, 0x20010, 64, 144⟩
  | .HC_PAR2 => ⟨.field, 0x20014, 64, 144⟩
  | .HC_PAR3 => ⟨.field, 0x20018, 64, 144⟩
  | .HC_RST => ⟨.field, 0x2001c, 64, 144⟩
  | .HC_HIID => ⟨.field, 0x20020, 64, 144⟩
  | .HC_HSTAT => ⟨.field, 0x20024, 64, 144⟩
  | .HC_HFLAG => ⟨.field, 0x20028, 64, 144⟩
  | .HC_HTMR => ⟨.field, 0x2002c, 64, 144⟩
  | .HGLB_HTCTL => ⟨.field, 0x22800, 0, 1⟩
  | .HGLB_HTDEV => ⟨.field, 0x22804, 0, 1⟩
  | .HGLB_HRING => ⟨.field, 0x22808, 0, 1⟩
  | .HGLB_HRINGID => ⟨.field, 0x2280c, 0, 1⟩
  | .HGLB_HBSTAT => ⟨.field, 0x22810, 0, 1⟩
  | .RXH => ⟨.field, 0x23000, 4, 512⟩
  | .RXS => ⟨.field, 0x23800, 4, 64⟩
  | .HTX => ⟨.field, 0x23c00, 4, 40⟩
  | .LMR => ⟨.field, 0x30000, 4, 13824⟩
  | .HBOWN => ⟨.field, 0x3e000, 4, 320⟩
  | .FSYS_FPWR => ⟨.field, 0x50000, 0, 1⟩
  | .FSYS_FID => ⟨.field, 0x50004, 0, 1⟩
  | .FSYS_ERRLOG0 => ⟨.field, 0x50010, 0, 1⟩
  | .FSYS_ERRLOG1 => ⟨.field, 0x50014, 0, 1⟩
  | .FSYS_SEAL => ⟨.field, 0x50040, 0, 1⟩
  | .FSYS_PENCNT => ⟨.field, 0x50080, 0, 1⟩
  | .FSYS_PSWCNT => ⟨.field, 0x50084, 0, 1⟩
  | .FSYS_PSRC0 => ⟨.field, 0x50088, 0, 1⟩
  | .FSYS_PSRC1 => ⟨.field, 0x5008c, 0, 1⟩
  | .FSYS_FFSTAT => ⟨.field, 0x50100, 0, 1⟩
  | .FSYS_FRST => ⟨.field, 0x50104, 0, 1⟩
  | .FSYS_FFREQ => ⟨.field, 0x50108, 0, 1⟩
  | .FSYS_CELLFEN => ⟨.field, 0x50110, 4, 5⟩
  | .FSYS_CMAP => ⟨.field, 0x50140, 4, 32⟩
  | .FBIST_FBSTAT => ⟨.field, 0x60000, 0, 1⟩
  | .FBIST_FBREC => ⟨.field, 0x60004, 0, 1⟩

/-- The registers of a logic die, in address order. -/
def Reg.logicAll : List Reg :=
  [.LANE_LCTL, .LANE_LSTAT, .LANE_LWCET, .LANE_LBUDGET, .LANE_LMCNT, .LANE_LMT, .LANE_LMT0, .LANE_LMINFO,
   .LANE_LCYC, .LANE_LSTEST, .LANE_LIDS, .LANE_LEVCNT, .SYSCTL_DEVID, .SYSCTL_DIESTAT, .SYSCTL_ERRLOG0, .SYSCTL_ERRLOG1,
   .SYSCTL_SEAL, .SYSCTL_VSTAT, .SYSCTL_VCTL, .SYSCTL_VDIN, .SYSCTL_VMAC, .FENCE_FREQ, .FENCE_FSTAT, .FENCE_LANEST,
   .FENCE_LMAP, .FENCE_UNITST, .FENCE_SOAKST, .FENCE_SVKICK, .FENCE_LEASE, .MB_MBCTL, .MB_MBSEQ, .MB_MBCNT,
   .MB_HPSTAT, .MB_HPIEN, .RNG_RINGCFG, .RNG_RINGID, .RNG_ETYPE, .RNG_NODES, .RNG_CFGHASH, .RNG_TURNCFG,
   .RNG_SLSERV, .RNG_SLFURR, .RNG_SLSPATE, .RNG_TSYNC, .RNG_THG, .RNG_TOFFS, .RNG_TCNT, .RNG_SPFWD,
   .RNG_SVCFG, .RNG_PCFG, .RNG_PSTAT, .RNG_LDELAY, .RNG_EMPTY, .RNG_TXSTAT, .RNG_WRAP, .RNG_RXCNT,
   .RNG_RXERR, .RNG_SPCNT, .RNG_SVCNT, .LTMR_CTL, .LTMR_CNT, .LTMR_RELOAD, .LTMR_CMPPRE, .LTMR_CMP,
   .LTMR_CAP, .LTMR_STAT, .CRC_CFG, .CRC_POLY, .CRC_INIT, .CRC_XOROUT, .CRC_VAL, .CRC_DIN,
   .CRC_RESULT, .CRC_CTL, .CRC_STAT, .SCAN_START, .SCAN_LEN, .SCAN_CTL, .SCAN_STAT, .SCAN_NEXT,
   .SCAN_REM, .SCAN_ERRADDR, .SPM_MODE, .SPM_PWR, .SPM_ECCSTAT, .SPM_ERRLOG0, .SPM_ERRLOG1, .SPM_TCTL,
   .SPM_TSTAT, .SPM_TCNT, .SPM_REP, .SPM_FROW, .LBIST_CFG, .LBIST_CTL, .LBIST_STAT, .LBIST_PDONE,
   .LBIST_MISR0, .LBIST_MISR1, .LBIST_EXP0, .LBIST_EXP1, .LBIST_REC, .LBIST_SDCTL, .LBIST_LCSTAT, .LBIST_RSTAT,
   .LBIST_RREP, .LBIST_DBGSTAT, .OTP_OADDR, .OTP_ODATA0, .OTP_ODATA1, .OTP_OCMD, .OTP_OSTAT, .OTP_OLOCK,
   .OTP_OLOCKSET, .OTP_OMSTAT, .OTP_OMLOG, .PATCH_PSTAT, .PATCH_PSKIP, .PATCH_PCMPA, .PATCH_PCMPD0, .PATCH_PCMPD1,
   .CLKPWR_CLKSTAT, .CLKPWR_CLKMON, .CLKPWR_PWRSTAT, .CLKPWR_RSTCAUSE, .CLKPWR_RSTCTL, .CLKPWR_FLTSRC, .DIEBR_LINK, .SIEVEP_SCFG,
   .SIEVEP_SSTAT, .SIEVEP_SCNT, .SIEVEP_SLAST, .SIEVEP_SLOCAL, .SIEVEP_SOTHER, .SIEVEP_DCNT, .TICK_TCFG, .TICK_TSTAT,
   .TICK_TNUM0, .TICK_TNUM1, .TICK_TPOS, .TICK_TSKEW]

/-- The registers of a field die, in address order. -/
def Reg.fieldAll : List Reg :=
  [.FTMR_CTL, .FTMR_CNT, .FTMR_RELOAD, .FTMR_CMPPRE, .FTMR_CMP, .FTMR_CAP, .FTMR_STAT, .SIEVEH_SCFG,
   .SIEVEH_SSTAT, .SIEVEH_SCNT, .SIEVEH_SLAST, .SIEVEH_SLOCAL, .SIEVEH_SOTHER, .SIEVEH_DCNT, .TERM_CFG, .TERM_OUTCFG,
   .TERM_PULSECFG, .TERM_PIMG, .TERM_HSTAT, .TERM_FAULT, .TERM_FCTL, .TERM_FCNT, .TERM_TEMP, .TP_FRAME,
   .TP_CODE, .HC_HCFG, .HC_TSEL0, .HC_TSEL1, .HC_PAR0, .HC_PAR1, .HC_PAR2, .HC_PAR3,
   .HC_RST, .HC_HIID, .HC_HSTAT, .HC_HFLAG, .HC_HTMR, .HGLB_HTCTL, .HGLB_HTDEV, .HGLB_HRING,
   .HGLB_HRINGID, .HGLB_HBSTAT, .RXH, .RXS, .HTX, .LMR, .HBOWN, .FSYS_FPWR,
   .FSYS_FID, .FSYS_ERRLOG0, .FSYS_ERRLOG1, .FSYS_SEAL, .FSYS_PENCNT, .FSYS_PSWCNT, .FSYS_PSRC0, .FSYS_PSRC1,
   .FSYS_FFSTAT, .FSYS_FRST, .FSYS_FFREQ, .FSYS_CELLFEN, .FSYS_CMAP, .FBIST_FBSTAT, .FBIST_FBREC]

end Sys2Proof.Machine
end

