-- ==== Sys2Proof/Machine/Store.lean ====
section
/-!
DEFINITION. One canonical sparse store, used for every memory and for every numbered collection of units:
a list of (key, value) pairs with keys strictly rising and no entry equal to what an unlisted key reads as.
-/

namespace Sys2Proof.Machine

/-- A sparse store keyed by numbers. -/
abbrev Store (α : Type) := List (Nat × α)

/-- The value at key `k`; an unlisted key reads as `d k`. -/
def Store.get {α : Type} (d : Nat → α) : Store α → Nat → α
  | [], k => d k
  | (j, v) :: m, k => if j = k then v else Store.get d m k

/-- Remove every entry of key `k`. -/
def Store.erase {α : Type} : Store α → Nat → Store α
  | [], _ => []
  | (j, v) :: m, k => if j = k then Store.erase m k else (j, v) :: Store.erase m k

/-- Put `v` at key `k`, before the first larger key. -/
def Store.insert {α : Type} : Store α → Nat → α → Store α
  | [], k, v => [(k, v)]
  | (j, w) :: m, k, v => if k < j then (k, v) :: (j, w) :: m else (j, w) :: Store.insert m k v

/-- Write `v` at key `k`; writing what an unlisted key reads as removes the entry. -/
def Store.set {α : Type} [DecidableEq α] (d : Nat → α) (m : Store α) (k : Nat) (v : α) : Store α :=
  if v = d k then Store.erase m k else Store.insert (Store.erase m k) k v

/-- The canonical form: keys strictly rising, no entry equal to the unlisted value. -/
def Store.wf {α : Type} [DecidableEq α] (d : Nat → α) : Store α → Bool
  | [] => true
  | [(k, v)] => decide (v ≠ d k)
  | (k, v) :: (j, w) :: m => decide (v ≠ d k) && decide (k < j) && Store.wf d ((j, w) :: m)

/-- Drop every entry with `a ≤ key < b`. -/
def Store.dropRange {α : Type} (m : Store α) (a b : Nat) : Store α :=
  m.filter fun e => !(decide (a ≤ e.1) && decide (e.1 < b))

end Sys2Proof.Machine
end

