-- ==== Sys2Proof/Machine/FnTypes.lean ====
section
/-!
DEFINITION. The data of a safety function instance: its type (R163), its parameters, what it reads in a tick and the
state that one channel keeps for it. Both channels use the same library (R26, R85).
-/

namespace Sys2Proof.Machine

/-- The function types of the TYPE table of R163. -/
inductive FnType where
  | dualEq | dualAnti | ossd | estop | pullcord | mute2 | mute4 | guardLock | mat | standstill
  | sto | contactor | brake | stop1 | restart | zoneOut | zoneIn | spateOut | spateIn
deriving DecidableEq, Repr

/-- The TYPE code of R163; codes not in the table name no type. -/
def FnType.ofCode : Nat → Option FnType
  | 0x01 => some .dualEq
  | 0x02 => some .dualAnti
  | 0x03 => some .ossd
  | 0x04 => some .estop
  | 0x05 => some .pullcord
  | 0x06 => some .mute2
  | 0x07 => some .mute4
  | 0x08 => some .guardLock
  | 0x09 => some .mat
  | 0x0A => some .standstill
  | 0x10 => some .sto
  | 0x11 => some .contactor
  | 0x12 => some .brake
  | 0x13 => some .stop1
  | 0x14 => some .restart
  | 0x15 => some .zoneOut
  | 0x16 => some .zoneIn
  | 0x17 => some .spateOut
  | 0x18 => some .spateIn
  | _ => none

/-- The number of decision bits that the sieve takes for a type (R163, R179). -/
def FnType.nbits : FnType → Nat
  | .dualEq | .dualAnti | .ossd | .estop | .pullcord | .mat => 1
  | .brake | .zoneOut | .zoneIn | .spateOut | .spateIn => 1
  | .mute2 | .mute4 | .guardLock | .standstill | .sto | .contactor | .restart => 2
  | .stop1 => 3

/-- The parameters of an instance: PAR0 to PAR3 and OPT of R163. -/
structure FnCfg where
  type : FnType
  par0 : Nat
  par1 : Nat
  par2 : Nat
  par3 : Nat
  opt : Nat
deriving DecidableEq, Repr

/-- Bit `k` of the options of R163. -/
def FnCfg.optBit (c : FnCfg) (k : Nat) : Bool := c.opt.testBit k

/-- Two bits of the options of R163, from bit `k` up. -/
def FnCfg.opt2 (c : FnCfg) (k : Nat) : Nat := (c.opt >>> k) % 4

/-- The decoded state of a line-monitored mat terminal (R107). -/
inductive MatRead where
  | free | stepped | faultRes | faultWire | faultFenced
deriving DecidableEq, Repr

/-- What one channel reads of one terminal in a tick, after the filter (R46, R48): `closed`; `lost` where the terminal is
fenced, its image word is not valid (channel P) or its die is in a safe state (channel H); the lamp current of R92 and
the mat reading of R107. -/
structure TermRead where
  closed : Bool
  lost : Bool
  lampOk : Bool
  mat : MatRead
deriving DecidableEq, Repr

/-- A terminal that is not in use, or whose die sends nothing: open and lost (R22, R46). -/
def TermRead.absent : TermRead := ⟨false, true, false, .faultFenced⟩

/-- Everything one evaluation reads (R86): the tick, the terminals in the slot order of R164, the two link inputs, the
reset event, the raw zone value with its validity (R131), whether a matching mark arrived in this tick and whether
"Quiet" holds (R134); how many ticks since the last evaluation were late (R138). -/
structure FnIn where
  t : Nat
  terms : List TermRead
  link0 : Bool
  link1 : Bool
  reset : Bool
  zone : Bool
  zoneValid : Bool
  mark : Bool
  quiet : Bool
  gap : Nat
deriving DecidableEq, Repr

/-- The reading of slot `k` (R164). -/
def FnIn.term (i : FnIn) (k : Nat) : TermRead := i.terms.getD k .absent

/-- Whether slot `k` reads closed. -/
def FnIn.closed (i : FnIn) (k : Nat) : Bool := (i.term k).closed

/-- The muting part of an instance's state (R100 to R103). -/
structure MuteSt where
  lampFail : Bool
  lampPrev : Bool
  lampRise : Nat
  lowRun : Nat
  okPrev : Bool
  stay : Option Nat
  ovrPrev : Bool
  dir : Option Bool
  rise : List Nat
  act : List Bool
deriving DecidableEq, Repr

/-- The counters of STANDSTILL for one sensor (R110): its state at the last edge, the ticks of its last two rising edges. -/
structure ShaftSt where
  prev : Bool
  last : Option Nat
  before : Option Nat
deriving DecidableEq, Repr

/-- The state one channel keeps for an instance: the state code of the type's table, its main timer as the tick in which it
expires (R87), the internal DUAL_EQ table of R100 and R105, and what the types keep beside these. `bits` are the decision
bits of the last tick (bit k of R163), `valid` their validity (R114), `raised` the fault flags set in that tick (R185). -/
structure FnSt where
  st : Nat
  tmr : Nat
  bits : Nat
  valid : Bool
  raised : Nat
  sub : Nat
  innerSt : Nat
  innerTmr : Nat
  start : Nat
  first : Bool
  cPrev : Bool
  slack : Nat
  press : Nat
  enable : Bool
  outPrev : Bool
  inPrev : Bool
  lastMark : Nat
  s1 : ShaftSt
  s2 : ShaftSt
  idleRun : Nat
  fault : Bool
  mute : MuteSt
deriving DecidableEq, Repr

/-- An instance's state with nothing in it: every part at zero. -/
def FnSt.zero : FnSt :=
  { st := 0, tmr := 0, bits := 0, valid := false, raised := 0, sub := 0, innerSt := 0, innerTmr := 0, start := 0,
    first := true, cPrev := true, slack := 0, press := 0, enable := false, outPrev := false, inPrev := true,
    lastMark := 0, s1 := ⟨false, none, none⟩, s2 := ⟨false, none, none⟩, idleRun := 0, fault := false,
    mute := ⟨true, false, 0, 0, false, none, true, none, [0, 0, 0, 0], [false, false, false, false]⟩ }

end Sys2Proof.Machine
end

