-- ==== Sys2Proof/Machine/Units.lean ====
section
/-!
DEFINITION. What the part's units keep outside their register tables: the part itself, lanes, field dies, terminals,
instances on both channels, sieves, soaks, fences and the configuration image. Every structure is plain data with a `zero`.
-/

namespace Sys2Proof.Machine

/-- The variants of R1. -/
inductive Variant where
  | cvsl802 | cvsl804 | cvsl808
deriving DecidableEq, Repr

/-- The silicon revisions of R4 and R484. -/
inductive Rev where
  | a0 | a1 | b0
deriving DecidableEq, Repr

/-- Where the part is between a reset and Run (R440, R451): held in reset, in boot, out of boot and waiting for the first
tick of Run, in Run. -/
inductive Phase where
  | held | boot | wait | run
deriving DecidableEq, Repr

/-- Conditions of the part as a whole. `vaux`, `vcore`, `vio`, `aon`, `spll`, `tx` are true while the supply or clock has
tripped (R445, R449); `porst` while PORST_N is low; `safe` while the part is in the safe state of R356; `noconfig` when
boot found no valid image (R337); `shut` 0 none, 1 shutdown asked for, 2 in progress, 3 done (R410); `tapSafe` while EXTEST or SCANEN is
selected (R418, R421); `bootStep` the step of R440 reached; `rstDue`: a write of RSTCTL has asked for a part reset (R452);
`lateJob` the commit outside Run that ends with the first tick of Run, by die and entry (R310); `uncom` since R342 has fenced the
instances of an uncommissioned image;
`tickOut` while the part drives its pulse on the TICK pin (R190); `ctr` the signature counter that boot read from flash, none when it is
lost (R424). -/
structure PartSt where
  phase : Phase
  safe : Bool
  noconfig : Bool
  porst : Bool
  vaux : Bool
  vcore : Bool
  vio : Bool
  aon : Bool
  spll0 : Bool
  spll1 : Bool
  tx0 : Bool
  tx1 : Bool
  shut : Nat
  tapSafe : Bool
  bootStep : Nat
  rstDue : Bool
  lateJob : Option (Nat × Nat)
  uncom : Bool
  tickOut : Bool
  ctr : Option Nat
deriving DecidableEq, Repr

/-- One entry of a lane's trace buffer with its parity bits (R149). -/
structure TraceEntry where
  addr : Nat
  data : Nat
  be : Nat
  type : Nat
  cls : Nat
  par : Nat
deriving DecidableEq, Repr

/-- The pass a lane is in (R152). -/
inductive LanePhase where
  | asleep | pPass | qPass | commit | reset | done
deriving DecidableEq, Repr

/-- A lane beyond its registers: the pass and segment in progress, the trace buffer and the Q index (R149, R150), the
cycle of the tick, the ticks of its last mismatches, newest first (R157), whether a mismatch came in this tick, whether the
tick holds a retry, its LFSR and the transaction index of the injected compare (R158), how many ticks in a row were late
(R31, R139), whether its core is halted by debug, whether the lane was to run in this tick, whether the tick before was
late (R360). -/
structure LaneSt where
  ph : LanePhase
  seg : Nat
  trace : List TraceEntry
  qIdx : Nat
  cyc : Nat
  mis : List Nat
  misNow : Bool
  retried : Bool
  lfsr : Nat
  inj : Option Nat
  lateRun : Nat
  halted : Bool
  ran : Bool
  latePrev : Bool
deriving DecidableEq, Repr

def LaneSt.zero : LaneSt :=
  { ph := .asleep, seg := 0, trace := [], qIdx := 0, cyc := 0, mis := [], misNow := false, retried := false,
    lfsr := 0xACE1, inj := none, lateRun := 0, halted := false, ran := false, latePrev := false }

/-- What channel P keeps for an instance: the state of its last committed tick, that tick plus 1 (0: none since its start), and the
bits and validity that stood at the last latch point (R137, R153), the first tick in which it follows its table after a switchover
without soak (R369), the fault flags raised since its start (R92), and whether its bits of the last tick were those of an earlier
committed one (R137, R304). -/
structure PInst where
  fs : FnSt
  tick : Nat
  bits : Nat
  valid : Bool
  hold : Nat
  flags : Nat
  grace : Bool
deriving DecidableEq, Repr

def PInst.zero : PInst := ⟨FnSt.zero, 0, 0, false, 0, 0, false⟩

/-- The P-enable words that a logic die staged for a field die, and the tick they belong to (R28). -/
structure SentWords where
  tick : Nat
  words : List Nat
deriving DecidableEq, Repr

def SentWords.zero : SentWords := ⟨0, []⟩

/-- An H-cell: its function state, the decision bits of the tick before (R163, R166), the H tick plus 1 of its last
evaluation, and the first tick in which it follows its table after a switchover without soak (R369). -/
structure HCell where
  fs : FnSt
  prevBits : Nat
  prevValid : Bool
  tick : Nat
  hold : Nat
deriving DecidableEq, Repr

def HCell.zero : HCell := ⟨FnSt.zero, 0, false, 0, 0⟩

/-- A fence of a unit: whether it stands, its reason (R349), the tick it was raised in, the tick of the edge at which the
unit is re-admitted (0: none set), and how often an instance was fenced for reason 0x06, with the ticks (R352). -/
structure Fence where
  on : Bool
  reason : Nat
  tick : Nat
  readmit : Nat
  sieveTicks : List Nat
  times : List Nat
deriving DecidableEq, Repr

def Fence.zero : Fence := ⟨false, 0, 0, 0, [], []⟩

/-- One entry of a fence log (R304 kind 0x04, R350). -/
structure LogEntry where
  tick : Nat
  die : Nat
  kind : Nat
  idx : Nat
  reason : Nat
deriving DecidableEq, Repr

/-- A pulse checker of one sense path (R58, R78, R82): the state read 50 µs before the start of the slot in progress and
of the next one, a fall not yet classed (its frame time in HCLK cycles), whether the expected off-pulse of this slot and of
the next one came, whether a foreign one did, whether the slot in progress counts (R504), the results since the last tick
edge, the mask with the state and the voltage code that it holds. -/
structure Checker where
  base : Bool
  nextBase : Option Bool
  fall : Option Nat
  exp : Bool
  expNext : Bool
  forSeen : Bool
  live : Bool
  pulse : Bool
  miss : Bool
  foreign : Bool
  mask : Bool
  held : Bool
  heldCode : Nat
deriving DecidableEq, Repr

def Checker.zero : Checker :=
  { base := false, nextBase := none, fall := none, exp := false, expNext := false, forSeen := false, live := false,
    pulse := false, miss := false, foreign := false, mask := false, held := false, heldCode := 256 }

/-- A sense path of a terminal: the last voltage code (R44), the comparator or decode state with its hysteresis, the frame
time of a fall that R50 may still tolerate and the code before it, whether the terminal's own off-pulse of the slot in
progress counts and whether the path saw the terminal low in it (R54, R56), the checker. -/
structure SensePath where
  code : Nat
  level : Bool
  tol : Option Nat
  last : Nat
  due : Bool
  low : Bool
  chk : Checker
deriving DecidableEq, Repr

def SensePath.zero : SensePath := ⟨256, false, none, 256, false, false, Checker.zero⟩

/-- An input filter (R48, R49): the accepted state, how many edges in a row have differed from it, and the same for the
line-monitored state: 0 short, 1 closed, 2 open, 3 wire broken, 4 short to VF. -/
structure Filt where
  acc : Bool
  run : Nat
  lm : Nat
  cand : Nat
  lmRun : Nat
deriving DecidableEq, Repr

/-- A filter without history (R504): open. -/
def Filt.zero : Filt := ⟨false, 0, 2, 2, 0⟩

/-- What the lane runtime of a logic die keeps for an input (R45, R48): the state of its decode with its hysteresis, and
the filter. -/
structure PRead where
  level : Bool
  f : Filt
deriving DecidableEq, Repr

def PRead.zero : PRead := ⟨false, Filt.zero⟩

/-- A terminal beyond its registers: both sense paths and the filters of the field die; the sourced current (R44) and the
H current comparator; the current limit, thermal and GD conditions; the runs of edges of R57; conditions that fence at the
next tick edge (bit k for reason 0x10 + k); whether a condition of R57 stood at the last edge and how many edges in a row
none did (R61); a pending clear request; suppressed reversed detection (R53); whether the fence stands for SHORT_VF or
STUCK_ON of an output, as its first reason or a later one (R62); whether the next off-pulse of the terminal's code is that of
slot b (R79). -/
structure TermSt where
  p : SensePath
  h : SensePath
  pf : Filt
  hf : Filt
  ic : Nat
  cur : Bool
  lim : Bool
  therm : Bool
  gdOver : Bool
  gdTrip : Bool
  vfP : Nat
  vfH : Nat
  stuckP : Nat
  stuckH : Nat
  sg : Nat
  olOn : Nat
  olOff : Nat
  pend : Nat
  cond : Bool
  clean : Nat
  clrReq : Bool
  supp : Bool
  bad : Bool
  nextB : Bool
deriving DecidableEq, Repr

def TermSt.zero : TermSt :=
  { p := SensePath.zero, h := SensePath.zero, pf := Filt.zero, hf := Filt.zero, ic := 0, cur := false, lim := false,
    therm := false, gdOver := false, gdTrip := false, vfP := 0, vfH := 0, stuckP := 0, stuckH := 0, sg := 0, olOn := 0,
    olOff := 0, pend := 0, cond := false, clean := 0, clrReq := false, supp := false, bad := false, nextB := false }

/-- The P-enable words a field die received for a tick from one logic die (R28, R29): one word per local terminal, 4 where
that die sent none for it. -/
structure PXfer where
  ok : Bool
  tick : Nat
  words : List Nat
deriving DecidableEq, Repr

def PXfer.zero : PXfer := ⟨false, 0, []⟩

/-- A field die beyond its registers: supply present; the safe state of R40; the H tick number; the validity of the last 16 strobes and the HCLK cycles since each (R170); how many valid
strobes stand in a row and whether the first has come since the load (R171, R447); loading at the next edge; FBIST progress;
the transfers of R29 from L0 and L1; the instances that the fence of the die itself fenced (R352); the H-bus slots accepted
in the H tick in progress and the beats of the slot it last drove (R173); the H tick plus 1 for which HTX was last built
(R176); the tick plus 1 of L0's last strobe that was found absent (R33); the slot counters of the P-side and H-side checkers
(R78). -/
structure FieldSt where
  power : Bool
  vfSafe : Bool
  htick : Nat
  strobes : List (Bool × Nat)
  okRun : Nat
  armed : Bool
  gotStrobe : Bool
  loadPending : Bool
  fbist : Bool
  x0 : PXfer
  x1 : PXfer
  viaDie : List Nat
  slots : Nat
  beats : List Nat
  htx : Nat
  noL0 : Nat
  slotP : Nat
  slotH : Nat
deriving DecidableEq, Repr

def FieldSt.zero : FieldSt :=
  { power := false, vfSafe := false, htick := 0, strobes := [], okRun := 0,
    armed := false, gotStrobe := false, loadPending := false, fbist := false, x0 := PXfer.zero,
    x1 := PXfer.zero, viaDie := [], slots := 0, beats := [], htx := 0, noL0 := 0, slotP := 0, slotH := 0 }

/-- A two-bit entry of the H-bus as received (R174, R175): `next` for the tick in progress, `cur` current since H cycle 0;
0b10 one, 0b01 zero, anything else invalid. -/
structure HBusBit where
  next : Nat
  cur : Nat
deriving DecidableEq, Repr

def HBusBit.zero : HBusBit := ⟨0, 0⟩

/-- One side of the sieve for one instance (R180 to R182): the running signature of the window in progress, the signature
of the last window, whether that window counts, the partner's signature of it (if its record came), the tick from which the
sieve compares. -/
structure SieveSt where
  sig : Nat
  last : Nat
  lastOk : Bool
  other : Option Nat
  from_ : Nat
deriving DecidableEq, Repr

def SieveSt.zero : SieveSt := ⟨0, 0, false, none, 0⟩

/-- The sieve of a die as a whole: the window in effect while a change of SCFG.WIN waits for its tick (0: none waits; R184);
the start tick of the last window and the tick plus 1 at which it ended; the exchange records it sent for that window, by
partner die; the partner dies whose records came (R181, R187). -/
structure SieveDie where
  old : Nat
  start : Nat
  ended : Nat
  out : List (Nat × List Byte)
  got : List Nat
deriving DecidableEq, Repr

def SieveDie.zero : SieveDie := ⟨0, 0, 0, [], []⟩

/-- A furrow entry accepted by one channel, per ring, direction and source (R131, R177): the turn it carries, its zone
word and the tick of acceptance plus 1 (0: none). -/
structure FurEntry where
  turn : Nat
  zone : Nat
  acc : Nat
deriving DecidableEq, Repr

/-- A spate mark that one channel accepted (R134, R178): the tick of which it is an arrival, and for channel P the logic die
that accepted or raised it. -/
structure MarkArr where
  ring : Nat
  dom : Nat
  cls : Nat
  src : Nat
  tick : Nat
  org : Nat
deriving DecidableEq, Repr

/-- A literal of a link expression (R326). -/
structure Lit where
  neg : Bool
  kind : Nat
  k : Nat
  iid : Nat
deriving DecidableEq, Repr

/-- A link expression in sum-of-products form (R113, R326). -/
abbrev LinkExpr := List (List Lit)

/-- An instance record of the image (R325). -/
structure InstRec where
  iid : Nat
  code : Nat
  iflg : Nat
  ldie : Nat
  lane : Nat
  seg : Nat
  fdie : Nat
  cell : Nat
  opt : Nat
  rank : Nat
  par0 : Nat
  par1 : Nat
  par2 : Nat
  par3 : Nat
  tslot : List Nat
  lnk0 : Option LinkExpr
  lnk1 : Option LinkExpr
  rst : Option Lit
deriving DecidableEq, Repr

/-- A register record of the image with its die index (R327). -/
structure RegRec where
  die : Nat
  off : Nat
  val : Nat
deriving DecidableEq, Repr

/-- A configuration image as parsed (R323 to R330). -/
structure Image where
  part : Nat
  imgid : Nat
  imgver : Nat
  len : Nat
  romrel : Nat
  insts : List InstRec
  recs : List RegRec
  outmap : List Nat
  loads : List Nat
deriving DecidableEq, Repr

def Image.zero : Image := ⟨0, 0, 0, 0, 0, [], [], [], []⟩

/-- The running image and what goes with it: the flash slot it came from, its GEN, its SHA-256, whether it is commissioned
(R337, R342). -/
structure RunImage where
  img : Image
  slot : Nat
  gen : Nat
  hash : Nat
  commissioned : Bool
  loaded : Bool
deriving DecidableEq, Repr

def RunImage.zero : RunImage := ⟨Image.zero, 0, 0, 0, false, false⟩

/-- A bank entry of the bus-bit table for an instance (R114, R145): its decision bits and their validity. -/
structure BusBit where
  bits : Nat
  valid : Bool
deriving DecidableEq, Repr

/-- The kinds of soak of R358 that a job runs. -/
inductive SoakKind where
  | migration | config | cellSwap
deriving DecidableEq, Repr

/-- A soak in progress (R358 to R362): its job, its two sides (die and lane, or die and cell), the tick at which it starts,
N, RUN on the P side and on the H side, DISAG, the edge of a decided switchover (0: none), whether the new side takes the
old side's state at the next edge, the flags of the request, the new image with the changed and new instances of a
configuration soak, the shadow states of the new side and its shadow bits of the tick before, by IID, and the cells that
soak them. -/
structure Soak where
  kind : SoakKind
  job : Nat
  ld : Nat
  oldDie : Nat
  oldIdx : Nat
  newDie : Nat
  newIdx : Nat
  logical : Nat
  start : Nat
  n : Nat
  runP : Nat
  runH : Nat
  disag : Nat
  switchAt : Nat
  copy : Bool
  flags : Nat
  img : RunImage
  changed : List Nat
  shadowP : List (Nat × FnSt)
  shadowH : List (Nat × FnSt)
  prevP : List (Nat × BusBit)
  prevH : List (Nat × BusBit)
  cells : List (Nat × Nat)
deriving DecidableEq, Repr

/-- The standby of logical lane n of a logic die on the CVSL-808, by the die that the image names (R366): whether the two
dies have swapped the roles of the two lanes, RUN, the ticks of its disagreements, whether it copies at the next edge, the first
edge at which it may, its shadow states by IID, and whether the P-sources of its outputs follow the active die at the next edge
(R32). -/
structure Standby where
  swapped : Bool
  run : Nat
  disag : List Nat
  copy : Bool
  start : Nat
  shadow : List (Nat × FnSt)
  moved : Bool
deriving DecidableEq, Repr

def Standby.zero : Standby := ⟨false, 0, [], true, 0, [], false⟩

/-- A standby without history: RUN and its disagreements 0, a copy of the active side due from an edge on (R358, R361). -/
def Standby.restart (x : Standby) (swapped : Bool) (start : Nat) : Standby :=
  { x with swapped := swapped, run := 0, disag := [], copy := true, start := start, shadow := [] }

/-- What a die keeps of the seal (R339, R340): a reader's consecutive invalid samples of each pair, its reading, and the reading as
taken at its last tick edge; L0's and F0's readings as last received, each with its tick plus 1 (0: none). -/
structure SealSt where
  invA : Nat
  invB : Nat
  own : Bool
  edge : Bool
  l0 : Bool
  l0Tick : Nat
  f0 : Bool
  f0Tick : Nat
deriving DecidableEq, Repr

def SealSt.zero : SealSt := ⟨0, 0, false, false, false, 0, false, 0⟩

end Sys2Proof.Machine
end

