-- ==== Sys2Proof/Machine/UnitsB.lean ====
section
/-!
DEFINITION. What the ring engines, ports, mailboxes, jobs, transfers, scratchpad, self-test, OTP, vault, test access port
and host port keep outside their register tables.
-/

namespace Sys2Proof.Machine

/-- A ring engine (R241 to R253): its own turn number; the candidate of this turn (BHOPS, port, θ); the first beacon of a
full valid turn (port, rank, headgate, TURN, arrival on the node's own time scale); turns in a row in which a followed
headgate's beacon failed R246, and whether this one did; turns in a row good for TICK.TSTAT.LOCKED; the rate correction as
the sum of R242 and the correction of the next edge, both in 2⁻¹⁶ ns; the turns of its last entries into QUIET by R245;
whether it sends (R247: from the edge after a step), and whether a step from QUIET holds its spate frames too; the offset of
ring 1's edge from the tick edge in 2⁻¹⁶ ns (R228); the broadcasts delivered (R264); the answer of R269 as the last turn
edge left it; the H parts of marks due in a field die's RXS: die, HMARK, HMCRC, OTURN (R225). -/
structure RingSt where
  turn : Nat
  cand : Option (Nat × Nat × Int)
  first : Option (Nat × Nat × Nat × Nat × Int)
  badTheta : Nat
  badNow : Bool
  good : Nat
  rate : Int
  phase : Int
  quietTurns : List Nat
  sends : Bool
  hold : Bool
  skew : Int
  bcast : List (Nat × Nat × Nat)
  diag : List Byte
  rxs : List (Nat × Nat × Nat × Nat)
deriving DecidableEq, Repr

def RingSt.zero : RingSt := ⟨0, none, none, 0, false, 0, 0, 0, [], false, false, 0, [], [], []⟩

/-- A service frame waiting in a port's queue, and whether this node only forwards it (R266). -/
structure QFrame where
  fwd : Bool
  f : ServiceFrame
deriving DecidableEq, Repr

/-- A ring port (R206, R207, R218, R236, R239, R240, R245, R265): whether it is held miswired, the partner's fault, a
failed verification; the base page it advertises; the MODE + 4 · ANEN that its receiver runs with; the slots of the last turns, newest first (true: non-empty), the tick plus 1 of the newest, and whether this turn's is
filled; whether this turn had a truncation, and its furrow frame; the furrow entries received in this turn, those accepted in it and in the last; spate frames sent in
this turn with their (domain, class), local marks held; the service queue and the last own frames sent here; the delay samples,
those in a row that R240 discarded, the last request with its turn and whether its response is awaited. -/
structure PortSt where
  miswired : Bool
  anFault : Bool
  verFail : Bool
  page : Nat
  conf : Nat
  slots : List Bool
  slotTick : Nat
  filled : Bool
  trunc : Bool
  furSent : Bool
  rxNow : List FurrowEntry
  accNow : List FurrowEntry
  accLast : List FurrowEntry
  sentNow : Nat
  sentKeys : List (Nat × Nat)
  marks : List SpateFrame
  queue : List QFrame
  mine : List (Nat × Nat)
  samples : List Nat
  odd : List Nat
  reqSeq : Nat
  reqT1 : Nat
  reqTurn : Option Nat
  reqOut : Bool
deriving DecidableEq, Repr

def PortSt.zero : PortSt :=
  { miswired := false, anFault := false, verFail := false, page := 0, conf := 4, slots := [], slotTick := 0, filled := false, trunc := false, furSent := false, rxNow := [],
    accNow := [], accLast := [], sentNow := 0, sentKeys := [], marks := [], queue := [], mine := [], samples := [],
    odd := [], reqSeq := 0, reqT1 := 0, reqTurn := none, reqOut := false }

/-- The H part of a spate mark as the logic die read it from HTX: ring, HMARK, HMCRC, raising tick (R178, R221). -/
structure HMark where
  ring : Nat
  mark : Nat
  crc : Nat
  tick : Nat
deriving DecidableEq, Repr

/-- A job entry (R299), and the die of the supervisor that started the job (R301). -/
structure Job where
  id : Nat
  state : Nat
  op : Nat
  tag : Nat
  progress : Nat
  rderr : Nat
  fstatus : Nat
  result : Nat
  sv : Nat
deriving DecidableEq, Repr

def Job.zero : Job := ⟨0, 0, 0, 0, 0, 0, 0, 0, 0⟩

/-- What a die's supervisor keeps: restarting, halted by debug (R425), fenced for good (R352), the next job number, the jobs
on CRC units (R400) and BIST engines (R318) by unit and 8·ld + entry, its firmware version and slot and whether it runs from ROM only. -/
structure SvSt where
  restarting : Bool
  halted : Bool
  dead : Bool
  nextJob : Nat
  crcJobs : List (Nat × Nat)
  bistJobs : List (Nat × Nat)
  fwVer : Nat
  fwSlot : Nat
  romOnly : Bool
deriving DecidableEq, Repr

def SvSt.zero : SvSt := ⟨false, false, false, 1, [], [], 0, 0, true⟩

/-- An open transfer (R307): its XFER (0: none), the declared length, identity and version, SWMODE, SOAKN, the bytes
received by offset. -/
structure Transfer where
  xfer : Nat
  len : Nat
  id : Nat
  ver : Nat
  swmode : Nat
  soakn : Nat
  data : Store (Option Byte)
deriving DecidableEq, Repr

def Transfer.zero : Transfer := ⟨0, 0, 0, 0, 0, 0, []⟩

/-- The record of a remote request on MB4 or MB5 (R286): whether one is open, the originator, SSEQ and the ring it came
from. -/
structure Remote where
  on : Bool
  orig : Nat
  sseq : Nat
  ring : Nat
deriving DecidableEq, Repr

def Remote.zero : Remote := ⟨false, 0, 0, 0⟩

/-- The class of a stored word: of the scratchpad (good, single-bit error, uncorrectable; R376), and of OTP at the margins
(good, corrected, weak, uncorrectable; R435). -/
inductive WordClass where
  | good | corrected | weak | uncorrectable
deriving DecidableEq, Repr

def OtpWord.blank : OtpWord := ⟨0, 0, 0⟩

/-- A waiting scratchpad request (R378): the request, the losses so far, the BUS cycle at which it was lifted, whether it stalls until
the tiller's attempt in hold mode ends (R385). -/
structure SpmWait where
  req : SpmReq
  losses : Nat
  lifted : Option Nat
  stuck : Bool
deriving DecidableEq, Repr

/-- The scratchpad of one die: waiting requests in order of first request, the cycle count, write-backs waiting (R376),
soft repairs waiting (R377), whether the tiller holds a region, the tick of the last hold-mode attempt (R385), the banks that
a read-modify-write keeps for this cycle too (R376), the cycles of its own work the tiller's attempt has done and the words of its
region that the save has judged (R383). -/
structure SpmSt where
  waits : List SpmWait
  cycle : Nat
  wback : List Nat
  repair : List Nat
  busy : Bool
  holdTick : Option Nat
  rmw : List Nat
  prog : Nat
  saved : Nat
deriving DecidableEq, Repr

def SpmSt.zero : SpmSt := ⟨[], 0, [], [], false, none, [], 0, 0⟩

/-- An OTP operation in progress (R434): 0 none, 1 program, 2 reburn; the word and the data. -/
structure OtpOp where
  kind : Nat
  word : Nat
  data : Nat
deriving DecidableEq, Repr

def OtpOp.zero : OtpOp := ⟨0, 0, 0⟩

/-- The instructions of the test access port (R418). -/
inductive TapIns where
  | bypass | idcode | sample | extest | dbgacc | scanen
deriving DecidableEq, Repr

/-- Where the TAP controller rests between commands (R418): in Test-Logic-Reset, or in Run-Test/Idle with an instruction selected. -/
inductive TapCtl where
  | reset | idle
deriving DecidableEq, Repr

/-- The registers of the test access port (R418): its controller, the bypass bit, the boundary register as last captured, the lowest
bits SAFE_N, FAULT_N, PORST_N and TICK. -/
structure TapRegs where
  ctl : TapCtl
  bypass : Bool
  boundary : Nat
deriving DecidableEq, Repr

def TapRegs.zero : TapRegs := ⟨.reset, false, 0⟩

/-- The host port (R290): RESET_EN just came. -/
structure HostSt where
  armed : Bool
deriving DecidableEq, Repr

/-- The boot record (R442): slot, digest and GEN of the firmware and of the configuration slot last verified. -/
structure BootRec where
  fw : Option (Nat × Nat × Nat)
  cfg : Option (Nat × Nat × Nat)
deriving DecidableEq, Repr

end Sys2Proof.Machine
end

