-- ==== Sys2Proof/Machine/State.lean ====
section
/-!
DEFINITION. The state of the part: every register field, every memory, every unit's own state, and the queue of waiting
commands. Plain data throughout.
-/

namespace Sys2Proof.Machine

/-- Why a step stops: never. The spec lets the part go on after every command of its table, so there is no reason to stop;
an event that cannot come about in a state leaves it as it is (log entry 11). -/
inductive Fault where
deriving DecidableEq, Repr

/-- Why a command has no meaning. -/
inductive Refusal where
  /-- Raised by a dispatch arm of a command whose meaning is not written. Safe. -/
  | notModelled (mnemonic : String)
deriving DecidableEq, Repr

/-- The state. Collections are stores keyed by the unit numbers that the field comments name; an unlisted unit reads as its
`zero`. -/
structure State where
  /-- R1, R4 -/
  variant : Variant
  rev : Rev
  /-- every register field, keyed by `Fld.key` -/
  regs : Store Nat
  /-- scratchpad, lane memories and mailbox buffers by device address (R18) -/
  mem : Store Byte
  /-- class of scratchpad words in error, by die · 2²² + word offset (R376) -/
  ecc : Store WordClass
  /-- external flash by flash address (R335, R424, R441) -/
  flash : Store Byte
  /-- OTP words (R429) -/
  otp : Store OtpWord
  part : PartSt
  /-- the 48-bit tick number (R188) -/
  tick : Nat
  /-- TNUM1 as latched, by pair of logic die and master (R203) -/
  tnumLatch : Store Nat
  /-- tick edges made in a row in place of the pin (R190) -/
  extRun : Nat
  /-- by 8·ld + entry (R299) -/
  jobs : Store Job
  /-- by die (R350), newest first -/
  flog : Store (List LogEntry)
  sv : Store SvSt
  /-- by `unitKey` (R348) -/
  fences : Store Fence
  /-- by 8·ld + lane -/
  lanes : Store LaneSt
  /-- by IID -/
  pinst : Store PInst
  /-- by 2·IID + bank (R145) -/
  busBits : Store BusBit
  /-- the output image by pair of logic die and entry: demands of terminals, zone bits, marks (R145, R146) -/
  outImg : Store Nat
  /-- P-enable words, by 8·ld + fd: one per local terminal, 4 where none is sent (R28, R31) -/
  outWords : Store SentWords
  /-- frozen input image words, by 384·ld + 64·fd + t (R144), and by 8·ld + fd the tick number plus 1 they belong to -/
  frozen : Store Nat
  frozenTick : Store Nat
  /-- channel P's decodes and input filters in the lane runtime, by 384·ld + 64·fd + t (R45, R48) -/
  pIn : Store PRead
  /-- capture edges in flight to a timer, by pair of die and timer: bit 0 rising, bit 1 falling (R71) -/
  capIn : Store Nat
  /-- by 144·fd + cell -/
  cells : Store HCell
  /-- by 64·fd + terminal -/
  terms : Store TermSt
  fields : Store FieldSt
  /-- by 320·fd + entry (R174) -/
  hbus : Store HBusBit
  /-- by 768·ld + IID, and by 144·fd + cell (R180) -/
  sieveP : Store SieveSt
  sieveH : Store SieveSt
  /-- by die (R181, R184) -/
  sieveDie : Store SieveDie
  rings : Store RingSt
  /-- by 2·ld + p -/
  ports : Store PortSt
  /-- accepted furrow entries: channel P by pair of logic die and `furKey`, channel H by pair of fd and `furKey`, newest
  first (R131, R177, R229) -/
  furP : Store (List FurEntry)
  furH : Store (List FurEntry)
  /-- by logic die -/
  marksP : Store (List MarkArr)
  /-- by fd -/
  marksH : Store (List MarkArr)
  /-- latched at the latch point: by logic die, the zone bits of its lanes; at 2, whether DBLL was in service then (R130, R227) -/
  zoneP : Store Nat
  /-- H parts read from HTX for the own entry, by ring: HZW · 2³² + HCRC (R176, R216) -/
  htxH : Store Nat
  /-- H parts of marks read from HTX in this tick (R178) -/
  htxMarks : List HMark
  /-- mailboxes in the order their doorbells rang (R283) -/
  mbOrder : List (Nat × Nat)
  /-- by 8·ld + mb (R286) -/
  remote : Store Remote
  xferC : Transfer
  xferF : Transfer
  xferSeq : Nat
  /-- version of the staged and verified firmware image (R313) -/
  fwStaged : Option Nat
  image : RunImage
  soak : Option Soak
  /-- by 8·ld + lane (R366) -/
  standby : Store Standby
  /-- by die (R339, R340) -/
  seals : Store SealSt
  spm : Store SpmSt
  tap : TapIns
  tapRegs : TapRegs
  /-- pattern generator of each self-test engine, by 16·ld + e, and of each field die's, by 32 + fd (R403, R412) -/
  prpg : Store Nat
  /-- bytes fed to the vault, and whether a MAC is open (R423) -/
  vaultIn : List Byte
  vaultOpen : Bool
  host : HostSt
  bootRec : BootRec
  otpOp : OtpOp
  /-- the frames that the last command of a kind that sends frames sent, in order: 2·ld + p and the bytes from the destination address to the FCS -/
  sent : List (Nat × List Byte)
  /-- what the last read handed to its master (log entry 8) -/
  results : List Nat
  /-- whether the last access over a bus completed with an error response (R19) -/
  busErr : Bool
  /-- the model's own count of free values used (log entry 4) -/
  freeCtr : Nat
  /-- the waiting commands, first in, first out -/
  pending : List Instr
deriving DecidableEq, Repr

/-- The part right after the release of a cold-start reset: boot at step 1 (R440, log entry 7), every register at its reset
value (an unlisted field reads as its reset value), every memory empty. The spec gives several variants and revisions (R4,
R484); this is a CVSL-808 of revision A1 (DESIGN CHOICE, log entry 1). -/
def State.reset : State :=
  { variant := .cvsl808, rev := .a1, regs := [], mem := [], ecc := [], flash := [], otp := [],
    part := { phase := .boot, safe := false, noconfig := false, porst := false, vaux := false, vcore := false,
              vio := false, aon := false, spll0 := false, spll1 := false, tx0 := false, tx1 := false, shut := 0,
              tapSafe := false, bootStep := 1, rstDue := false, lateJob := none, uncom := false, tickOut := false, ctr := none },
    tick := 0, tnumLatch := [], extRun := 0, jobs := [], flog := [], sv := [], fences := [], lanes := [], pinst := [],
    busBits := [], outImg := [], outWords := [], frozen := [], frozenTick := [], pIn := [], capIn := [], cells := [], terms := [], fields := [], hbus := [],
    sieveP := [], sieveH := [], sieveDie := [], rings := [], ports := [], furP := [], furH := [], marksP := [],
    marksH := [], zoneP := [], htxH := [], htxMarks := [], mbOrder := [], remote := [], xferC := Transfer.zero, xferF := Transfer.zero,
    xferSeq := 0, fwStaged := none, image := RunImage.zero, soak := none, standby := [], seals := [], spm := [],
    tap := .idcode, tapRegs := TapRegs.zero, prpg := [], vaultIn := [], vaultOpen := false, host := ⟨false⟩, bootRec := ⟨none, none⟩, otpOp := OtpOp.zero,
    sent := [], results := [], busErr := false, freeCtr := 0, pending := [] }

end Sys2Proof.Machine
end

