-- ==== Sys2Proof/Machine/Ops.lean ====
section
/-!
DEFINITION. The named operations over the state: which dies and units the part has, register fields, the numbered stores,
memory bytes, free values and the three answers of a command.
-/

namespace Sys2Proof.Machine

/-! ### Answers -/

/-- The outcome of a command. -/
abbrev Answer := Host.Outcome State Fault Refusal

/-- The answer of a command: the state its effect leaves; where the part has no such unit, or the event cannot come about
in the present state, nothing happens (log entry 11). -/
def State.answer (s : State) (present enabled : Bool) (t : State) : Answer := .next (if present && enabled then t else s)

/-- Apply `f` only where `c` holds. -/
def State.on (s : State) (c : Bool) (f : State → State) : State := if c then f s else s

/-- Apply `f` for every element of a list, first element first. -/
def State.each {α : Type} (s : State) (l : List α) (f : State → α → State) : State := l.foldl f s

/-! ### The part's population (R1, R4) -/

/-- DEVID.DIEMASK (R4). -/
def Variant.dieMask : Variant → Nat
  | .cvsl802 => 0x05
  | .cvsl804 => 0x1D
  | .cvsl808 => 0xFF

/-- DEVID.PARTCODE (R4). -/
def Variant.partCode : Variant → Nat
  | .cvsl802 => 0x802
  | .cvsl804 => 0x804
  | .cvsl808 => 0x808

/-- Logic dies (R1). -/
def Variant.logics : Variant → Nat
  | .cvsl808 => 2
  | _ => 1

/-- Field dies (R1). -/
def Variant.fields : Variant → Nat
  | .cvsl802 => 1
  | .cvsl804 => 3
  | .cvsl808 => 6

/-- DEVID.REV (R484). -/
def Rev.code : Rev → Nat
  | .a0 => 0
  | .a1 => 1
  | .b0 => 4

/-- Whether the part has logic die `ld`. -/
def State.hasLd (s : State) (ld : Nat) : Bool := decide (ld < s.variant.logics)

/-- Whether the part has field die `fd`. -/
def State.hasFd (s : State) (fd : Nat) : Bool := decide (fd < s.variant.fields)

/-- Whether die index `die` is present (R5, R18). -/
def State.hasDie (s : State) (die : Nat) : Bool := s.variant.dieMask.testBit die

/-- The logic dies of the part. -/
def State.lds (s : State) : List Nat := List.range s.variant.logics

/-- The field dies of the part. -/
def State.fds (s : State) : List Nat := List.range s.variant.fields

/-- The die index of a field die (R5). -/
def fdie (fd : Nat) : Nat := fd + 2

/-! ### Register fields -/

/-- The key of a field: register and low bit, die index and number of the copy. -/
def Fld.key (F : Fld) (die idx : Nat) : Nat := Nat.pair (Nat.pair F.reg.ctorIdx F.lo) (Nat.pair die idx)

/-- The reset value of a field: as its table gives it, with the values that depend on the copy or the die: CMAP (R374),
MBCTL.SERVER (R482), LMAP, RSTCAUSE and FLTSRC of L1 (R457). -/
def Fld.resetAt (F : Fld) (die idx : Nat) : Nat :=
  match F.reg with
  | .FSYS_CMAP => 4 * idx + F.lo / 8
  | .MB_MBCTL => if F.lo = 16 then (if die = 0 then 1 else 2) else F.rst
  | .CLKPWR_RSTCAUSE => if die = 0 then F.rst else 0
  | .CLKPWR_FLTSRC => if die = 0 then F.rst else 0
  | _ => F.rst

/-- The value a field holds. -/
def State.get (s : State) (F : Fld) (die idx : Nat) : Nat :=
  Store.get (fun _ => F.resetAt die idx) s.regs (F.key die idx)

/-- Write a field. -/
def State.put (s : State) (F : Fld) (die idx v : Nat) : State :=
  { s with regs := Store.set (fun _ => F.resetAt die idx) s.regs (F.key die idx) (v % 2 ^ F.w) }

/-- Whether a field reads 1 or more. -/
def State.flag (s : State) (F : Fld) (die idx : Nat) : Bool := decide (s.get F die idx ≠ 0)

/-- Set a field to a Boolean. -/
def State.putB (s : State) (F : Fld) (die idx : Nat) (b : Bool) : State := s.put F die idx b.toNat

/-- Return a field to its reset value. -/
def State.clear (s : State) (F : Fld) (die idx : Nat) : State := s.put F die idx (F.resetAt die idx)

/-! ### Numbered stores -/

def State.lane (s : State) (ld l : Nat) : LaneSt := Store.get (fun _ => LaneSt.zero) s.lanes (8 * ld + l)

def State.setLane (s : State) (ld l : Nat) (v : LaneSt) : State :=
  { s with lanes := Store.set (fun _ => LaneSt.zero) s.lanes (8 * ld + l) v }

def State.inst (s : State) (iid : Nat) : PInst := Store.get (fun _ => PInst.zero) s.pinst iid

def State.setInst (s : State) (iid : Nat) (v : PInst) : State :=
  { s with pinst := Store.set (fun _ => PInst.zero) s.pinst iid v }

/-- Bank `b` of the bus bits of an instance (R145). -/
def State.bus (s : State) (iid b : Nat) : BusBit := Store.get (fun _ => ⟨0, false⟩) s.busBits (2 * iid + b % 2)

def State.setBus (s : State) (iid b : Nat) (v : BusBit) : State :=
  { s with busBits := Store.set (fun _ => ⟨0, false⟩) s.busBits (2 * iid + b % 2) v }

def State.words (s : State) (ld fd : Nat) : SentWords := Store.get (fun _ => SentWords.zero) s.outWords (8 * ld + fd)

def State.setWords (s : State) (ld fd : Nat) (v : SentWords) : State :=
  { s with outWords := Store.set (fun _ => SentWords.zero) s.outWords (8 * ld + fd) v }

/-- Entry `e` of the output image of logic die `ld` (R145). -/
def State.outBit (s : State) (ld e : Nat) : Bool := decide (Store.get (fun _ => 0) s.outImg (Nat.pair ld e) ≠ 0)

def State.setOutBit (s : State) (ld e : Nat) (b : Bool) : State :=
  { s with outImg := Store.set (fun _ => 0) s.outImg (Nat.pair ld e) b.toNat }

def State.frozenWord (s : State) (ld fd t : Nat) : Nat := Store.get (fun _ => 0) s.frozen (384 * ld + 64 * fd + t)

def State.setFrozen (s : State) (ld fd t v : Nat) : State :=
  { s with frozen := Store.set (fun _ => 0) s.frozen (384 * ld + 64 * fd + t) v }

/-- The tick plus 1 to which the frozen image of a field die belongs on a logic die (R22, R144). -/
def State.frozenAt (s : State) (ld fd : Nat) : Nat := Store.get (fun _ => 0) s.frozenTick (8 * ld + fd)

def State.setFrozenAt (s : State) (ld fd v : Nat) : State :=
  { s with frozenTick := Store.set (fun _ => 0) s.frozenTick (8 * ld + fd) v }

def State.pRead (s : State) (ld fd t : Nat) : PRead := Store.get (fun _ => PRead.zero) s.pIn (384 * ld + 64 * fd + t)

def State.setPRead (s : State) (ld fd t : Nat) (v : PRead) : State :=
  { s with pIn := Store.set (fun _ => PRead.zero) s.pIn (384 * ld + 64 * fd + t) v }

/-- The capture edges in flight to timer `n` of a die: bit 0 rising, bit 1 falling (R71). -/
def State.capDue (s : State) (die n : Nat) : Nat := Store.get (fun _ => 0) s.capIn (Nat.pair die n)

def State.setCapDue (s : State) (die n v : Nat) : State :=
  { s with capIn := Store.set (fun _ => 0) s.capIn (Nat.pair die n) v }

/-- The pattern generator of self-test engine `k`: 16·ld + e of a logic die, 32 + fd of a field die (R403, R412). -/
def State.prpgOf (s : State) (k : Nat) : Nat := Store.get (fun _ => 0) s.prpg k

def State.setPrpg (s : State) (k v : Nat) : State := { s with prpg := Store.set (fun _ => 0) s.prpg k v }

def State.cell (s : State) (fd c : Nat) : HCell := Store.get (fun _ => HCell.zero) s.cells (144 * fd + c)

def State.setCell (s : State) (fd c : Nat) (v : HCell) : State :=
  { s with cells := Store.set (fun _ => HCell.zero) s.cells (144 * fd + c) v }

def State.term (s : State) (fd t : Nat) : TermSt := Store.get (fun _ => TermSt.zero) s.terms (64 * fd + t)

def State.setTerm (s : State) (fd t : Nat) (v : TermSt) : State :=
  { s with terms := Store.set (fun _ => TermSt.zero) s.terms (64 * fd + t) v }

def State.field (s : State) (fd : Nat) : FieldSt := Store.get (fun _ => FieldSt.zero) s.fields fd

def State.setField (s : State) (fd : Nat) (v : FieldSt) : State :=
  { s with fields := Store.set (fun _ => FieldSt.zero) s.fields fd v }

def State.hbit (s : State) (fd k : Nat) : HBusBit := Store.get (fun _ => HBusBit.zero) s.hbus (320 * fd + k)

def State.setHbit (s : State) (fd k : Nat) (v : HBusBit) : State :=
  { s with hbus := Store.set (fun _ => HBusBit.zero) s.hbus (320 * fd + k) v }

def State.svP (s : State) (ld iid : Nat) : SieveSt := Store.get (fun _ => SieveSt.zero) s.sieveP (768 * ld + iid)

def State.setSvP (s : State) (ld iid : Nat) (v : SieveSt) : State :=
  { s with sieveP := Store.set (fun _ => SieveSt.zero) s.sieveP (768 * ld + iid) v }

def State.svH (s : State) (fd c : Nat) : SieveSt := Store.get (fun _ => SieveSt.zero) s.sieveH (144 * fd + c)

def State.setSvH (s : State) (fd c : Nat) (v : SieveSt) : State :=
  { s with sieveH := Store.set (fun _ => SieveSt.zero) s.sieveH (144 * fd + c) v }

def State.svDie (s : State) (die : Nat) : SieveDie := Store.get (fun _ => SieveDie.zero) s.sieveDie die

def State.setSvDie (s : State) (die : Nat) (v : SieveDie) : State :=
  { s with sieveDie := Store.set (fun _ => SieveDie.zero) s.sieveDie die v }

def State.ring (s : State) (ld : Nat) : RingSt := Store.get (fun _ => RingSt.zero) s.rings ld

def State.setRing (s : State) (ld : Nat) (v : RingSt) : State :=
  { s with rings := Store.set (fun _ => RingSt.zero) s.rings ld v }

def State.port (s : State) (ld p : Nat) : PortSt := Store.get (fun _ => PortSt.zero) s.ports (2 * ld + p)

def State.setPort (s : State) (ld p : Nat) (v : PortSt) : State :=
  { s with ports := Store.set (fun _ => PortSt.zero) s.ports (2 * ld + p) v }

def State.job (s : State) (ld e : Nat) : Job := Store.get (fun _ => Job.zero) s.jobs (8 * ld + e)

def State.setJob (s : State) (ld e : Nat) (v : Job) : State :=
  { s with jobs := Store.set (fun _ => Job.zero) s.jobs (8 * ld + e) v }

def State.svst (s : State) (ld : Nat) : SvSt := Store.get (fun _ => SvSt.zero) s.sv ld

def State.setSv (s : State) (ld : Nat) (v : SvSt) : State :=
  { s with sv := Store.set (fun _ => SvSt.zero) s.sv ld v }

def State.rem (s : State) (ld mb : Nat) : Remote := Store.get (fun _ => Remote.zero) s.remote (8 * ld + mb)

def State.setRem (s : State) (ld mb : Nat) (v : Remote) : State :=
  { s with remote := Store.set (fun _ => Remote.zero) s.remote (8 * ld + mb) v }

def State.stby (s : State) (ld n : Nat) : Standby := Store.get (fun _ => Standby.zero) s.standby (8 * ld + n)

def State.setStby (s : State) (ld n : Nat) (v : Standby) : State :=
  { s with standby := Store.set (fun _ => Standby.zero) s.standby (8 * ld + n) v }

def State.sealSt (s : State) (die : Nat) : SealSt := Store.get (fun _ => SealSt.zero) s.seals die

def State.setSeal (s : State) (die : Nat) (v : SealSt) : State :=
  { s with seals := Store.set (fun _ => SealSt.zero) s.seals die v }

def State.spmSt (s : State) (ld : Nat) : SpmSt := Store.get (fun _ => SpmSt.zero) s.spm ld

def State.setSpm (s : State) (ld : Nat) (v : SpmSt) : State :=
  { s with spm := Store.set (fun _ => SpmSt.zero) s.spm ld v }

def State.otpWord (s : State) (w : Nat) : OtpWord := Store.get (fun _ => OtpWord.blank) s.otp w

/-- Programming only sets bits (R430), as they read at every margin. -/
def State.setOtp (s : State) (w : Nat) (v : OtpWord) : State :=
  let x := s.otpWord w
  let y : OtpWord := ⟨x.low ||| v.low % 2 ^ 72, x.norm ||| v.norm % 2 ^ 72, x.high ||| v.high % 2 ^ 72⟩
  { s with otp := Store.set (fun _ => OtpWord.blank) s.otp w y }

/-! ### The 72 bits of an OTP word (R429, R435) -/

/-- The stored bits of 64 data bits: the check bits are computed over the whole data word (R430). -/
def otpCode (d : Nat) : Nat := d % 2 ^ 64 + 2 ^ 64 * (Config.otpCheck (d % 2 ^ 64) % 2 ^ 8)

/-- Whether 72 bits read have a syndrome of zero. -/
def otpClean (r : Nat) : Bool := r / 2 ^ 64 == Config.otpCheck (r % 2 ^ 64) % 2 ^ 8

/-- One read decoded: clean, a single wrong bit corrected, or uncorrectable, and the data. -/
def otpDecode (r : Nat) : WordClass × Nat :=
  if otpClean r then (.good, r % 2 ^ 64)
  else match (List.range 72).find? fun k => otpClean (Nat.xor r (2 ^ k)) with
    | some k => (.corrected, Nat.xor r (2 ^ k) % 2 ^ 64)
    | none => (.uncorrectable, r % 2 ^ 64)

end Sys2Proof.Machine

namespace Sys2Proof

/-- Whether a word is programmed: not all of its stored bits read 0 at all three margins (R429). -/
def OtpWord.prog (w : OtpWord) : Bool := w.low != 0 || w.norm != 0 || w.high != 0

/-- The class that the three reads give a word (R435); a blank word has none, and counts as good. -/
def OtpWord.cls (w : OtpWord) : Machine.WordClass :=
  let a := Machine.otpDecode w.low
  let b := Machine.otpDecode w.norm
  let c := Machine.otpDecode w.high
  if !w.prog then .good
  else if a.1 = .uncorrectable ∨ b.1 = .uncorrectable ∨ c.1 = .uncorrectable then .uncorrectable
  else if w.low = w.norm ∧ w.norm = w.high then b.1
  else if a.2 = b.2 ∧ b.2 = c.2 then .weak else .uncorrectable

/-- The data that a word reads as at normal margin after ECC; a blank word reads 0. -/
def OtpWord.data (w : OtpWord) : Nat := if w.prog then (Machine.otpDecode w.norm).2 else 0

end Sys2Proof

namespace Sys2Proof.Machine

/-! ### Memory bytes -/

/-- The byte at a device address; a byte that nothing has written reads 0 (log entry 5). -/
def State.byte (s : State) (a : Nat) : Byte := Store.get (fun _ => 0) s.mem a

def State.setByte (s : State) (a : Nat) (v : Byte) : State := { s with mem := Store.set (fun _ => 0) s.mem a v }

/-- `n` bytes from address `a` up. -/
def State.bytes (s : State) (a n : Nat) : List Byte := (List.range n).map fun k => s.byte (a + k)

/-- Write a run of bytes from address `a` up. -/
def State.setBytes (s : State) (a : Nat) : List Byte → State
  | [] => s
  | b :: bs => (s.setByte a b).setBytes (a + 1) bs

/-- The aligned offset of a word. -/
def wordOff (off : Nat) : Nat := off - off % 4

/-- The key of a scratchpad word in the error store. -/
def eccKey (ld off : Nat) : Nat := ld * 2 ^ 22 + wordOff off

/-- How the stored word decodes (R376). -/
def State.eccClass (s : State) (ld off : Nat) : WordClass := Store.get (fun _ => .good) s.ecc (eccKey ld off)

def State.setEcc (s : State) (ld off : Nat) (c : WordClass) : State :=
  { s with ecc := Store.set (fun _ => .good) s.ecc (eccKey ld off) c }

/-- The flash byte at a flash address (log entry 6). -/
def State.flashByte (s : State) (a : Nat) : Byte := Store.get (fun _ => 0xFF) s.flash a

def State.setFlash (s : State) (a : Nat) : List Byte → State
  | [] => s
  | b :: bs => State.setFlash { s with flash := Store.set (fun _ => 0xFF) s.flash a b } (a + 1) bs

/-- A little-endian number (chapter "Scope": multi-byte fields outside ring frames are little-endian). -/
def leNat : List Byte → Nat
  | [] => 0
  | b :: bs => b.toNat + 256 * leNat bs

/-- A number from bytes, most significant first. -/
def beNat (bs : List Byte) : Nat := leNat bs.reverse

/-- The `n` bytes of a number, least significant first. -/
def leBytes : Nat → Nat → List Byte
  | 0, _ => []
  | n + 1, v => BitVec.ofNat 8 v :: leBytes n (v / 256)

/-- `n` little-endian bytes of a list from position `k`, as a number. -/
def fieldAt (bs : List Byte) (k n : Nat) : Nat := leNat ((bs.drop k).take n)

/-! ### Numbers -/

/-- Bits `lo` to `lo + w - 1` of a number. -/
def bitsOf (v lo w : Nat) : Nat := (v >>> lo) % 2 ^ w

/-- The number whose bit `k` is `f k`, for `k < n`. -/
def bitsFrom (n : Nat) (f : Nat → Bool) : Nat := (List.range n).foldl (fun a k => a + (f k).toNat * 2 ^ k) 0

/-- Pack fields, each a value and a width, lowest first. -/
def packBits : List (Nat × Nat) → Nat
  | [] => 0
  | (v, w) :: l => v % 2 ^ w + 2 ^ w * packBits l

/-- The last `n` entries that a history of newest-first values keeps. -/
def keepNewest {α : Type} (n : Nat) (x : α) (l : List α) : List α := (x :: l).take n

/-! ### Free values (log entry 4) -/

/-- The free value of this use. -/
def State.free (s : State) : Nat := Config.freeValue s.freeCtr

/-- The free choice of this use. -/
def State.choice (s : State) : Bool := Config.freeBool s.freeCtr

/-- One use of the free-value counter is spent. -/
def State.spend (s : State) : State := { s with freeCtr := s.freeCtr + 1 }

/-- A free number below `n`, or 0 where `n` is 0. -/
def State.freeBelow (s : State) (n : Nat) : Nat := if n = 0 then 0 else s.free % n

/-- Hand a read's value to its master (log entry 8). -/
def State.give (s : State) (v : List Nat) : State := { s with results := v }

/-- The access in progress completes with or without an error response to its issuer (R19, log entry 8). -/
def State.respond (s : State) (err : Bool) : State := { s with busErr := err }

/-- A command that may send frames starts with none sent. -/
def State.sending (s : State) : State := { s with sent := [] }

/-- A frame leaves on port `p` of logic die `ld`. -/
def State.emit (s : State) (ld p : Nat) (bs : List Byte) : State := { s with sent := s.sent ++ [(2 * ld + p, bs)] }

end Sys2Proof.Machine
end

