-- ==== Sys2Proof/Machine/Flags.lean ====
section
/-!
DEFINITION. Flag and counter computations: saturating and wrapping counters, sticky flags, W1C and RSS writes (R7, R8), the
error records, and the check values the spec defines (CRC-16, CRC-32, CRC-32C).
-/

namespace Sys2Proof.Machine

/-- Count one event in a field that saturates at its largest value. -/
def State.count (s : State) (F : Fld) (die idx : Nat) : State :=
  s.put F die idx (min (s.get F die idx + 1) (2 ^ F.w - 1))

/-- Count `n` events in a field that saturates. -/
def State.countN (s : State) (F : Fld) (die idx n : Nat) : State :=
  s.put F die idx (min (s.get F die idx + n) (2 ^ F.w - 1))

/-- Count one event in a field that wraps. -/
def State.countWrap (s : State) (F : Fld) (die idx : Nat) : State := s.put F die idx (s.get F die idx + 1)

/-- Hardware sets a flag (R7). -/
def State.raiseFlag (s : State) (F : Fld) (die idx : Nat) : State := s.put F die idx (2 ^ F.w - 1)

/-- Hardware sets bits of a flag field. -/
def State.orFlags (s : State) (F : Fld) (die idx v : Nat) : State := s.put F die idx (s.get F die idx ||| v)

/-- A write of `v` to a W1C field: ones clear, zeros have no effect (R7). -/
def State.w1c (s : State) (F : Fld) (die idx v : Nat) : State :=
  s.put F die idx (s.get F die idx - (s.get F die idx &&& v))

/-- Reverse the low `n` bits. -/
def reflect (n v : Nat) : Nat := bitsFrom n fun k => v.testBit (n - 1 - k)

/-- One step of a CRC register of width `w` that takes its bits most significant first. -/
def crcBit (w poly reg : Nat) (b : Bool) : Nat :=
  let top := Nat.xor (reg.testBit (w - 1)).toNat b.toNat
  Nat.xor ((2 * reg) % 2 ^ w) (if top = 1 then poly else 0)

/-- Feed one byte, most significant bit first. -/
def crcByte (w poly reg : Nat) (b : Nat) : Nat :=
  (List.range 8).foldl (fun r k => crcBit w poly r (b.testBit (7 - k))) reg

/-- A CRC over bytes: width, polynomial, initial register, input reflection. -/
def crcBytes (w poly : Nat) (refin : Bool) (reg : Nat) (bs : List Byte) : Nat :=
  bs.foldl (fun r b => crcByte w poly r (if refin then reflect 8 b.toNat else b.toNat)) reg

/-- The CRC-16 of bridge transfers and H-bus slots (R21): polynomial 0x1021, initial 0xFFFF. -/
def crc16 (bs : List Byte) : Nat := crcBytes 16 0x1021 false 0xFFFF bs

/-- A transfer of a bridge window as its sender puts it on the link (R21): the low 8 bits of the sender's tick number, the
content, the CRC-16 over both. The spec gives the tick bits no place; the model sends them first (log entry 25). -/
def bridgeFrame (tick : Nat) (body : List Byte) : List Byte :=
  let b := BitVec.ofNat 8 tick :: body
  b ++ leBytes 2 (crc16 b)

/-- Whether the CRC-16 of a received transfer holds (R21). -/
def bridgeCrcOk (bs : List Byte) : Bool := decide (leNat (bs.drop (bs.length - 2)) = crc16 (bs.take (bs.length - 2)))

/-- CRC-32C of messages (R14, R278): polynomial 0x1EDC6F41, reflected, complemented. -/
def crc32c (bs : List Byte) : Nat :=
  Nat.xor (reflect 32 (crcBytes 32 0x1EDC6F41 true 0xFFFFFFFF bs)) 0xFFFFFFFF

/-- The FCS of an Ethernet frame as it is sent (R210): the CRC-32 of IEEE 802.3 over the bytes from the destination address. -/
def ethFcs (bs : List Byte) : List Byte :=
  leBytes 4 (Nat.xor (reflect 32 (crcBytes 32 0x04C11DB7 true 0xFFFFFFFF bs)) 0xFFFFFFFF)

/-- A frame of the given bytes, with its FCS; or, cut or aborted, with every bit of the FCS inverted (R223, R234). -/
def withFcs (good : Bool) (bs : List Byte) : List Byte := bs ++ (ethFcs bs).map fun b => if good then b else ~~~b

end Sys2Proof.Machine

namespace Sys2Proof

/-- The bits of `mask` as inversions in the `n` bytes of a transfer from byte `k` on. -/
def flipsAt (k n mask : Nat) : List (Nat × Nat) :=
  ((List.range n).map fun i => (k + i, Machine.bitsOf mask (8 * i) 8)).filter fun f => f.2 != 0

/-- What happens to a transfer in its parts: its tick bits, then the bytes after them. -/
def Transit.parts (tick : Nat) (flips : List (Nat × Nat)) (complete : Bool) : Transit :=
  ⟨flipsAt 0 1 tick ++ flips.map fun f => (f.1 + 1, f.2), complete⟩

/-- The same for a transfer of `n` bytes of content whose CRC-16 is named apart. -/
def Transit.framed (n tick : Nat) (flips : List (Nat × Nat)) (crc : Nat) (complete : Bool) : Transit :=
  ⟨(Transit.parts tick flips complete).flips ++ flipsAt (n + 1) 2 crc, complete⟩

/-- The same for a transfer without content: its tick bits and its CRC-16. -/
def Transit.bare (flips : Nat) (complete : Bool) : Transit := ⟨flipsAt 0 3 flips, complete⟩

/-- What arrives of the bytes sent. -/
def Transit.pass (x : Transit) (bs : List Byte) : List Byte :=
  (List.range bs.length).map fun k =>
    x.flips.foldl (fun b f => if f.1 = k then b ^^^ BitVec.ofNat 8 f.2 else b) (bs.getD k 0)

/-- What a receiver whose tick number is `own` takes of a transfer that a sender in its tick `tick` sent: the content, or
nothing where R21 discards it. -/
def Transit.receive (x : Transit) (own tick : Nat) (body : List Byte) : Option (List Byte) :=
  let got := x.pass (Machine.bridgeFrame tick body)
  if x.complete && Machine.bridgeCrcOk got && decide (Machine.leNat (got.take 1) = own % 256) then some ((got.drop 1).take body.length) else none

/-- Whether a received transfer fails its CRC. -/
def Transit.crcFails (x : Transit) (tick : Nat) (body : List Byte) : Bool :=
  x.complete && !Machine.bridgeCrcOk (x.pass (Machine.bridgeFrame tick body))

end Sys2Proof
end

