-- ==== Sys2Proof/Machine/Functions.lean ====
section
/-!
DEFINITION. The function library of chapters 4 and 5, evaluated once per tick by either channel (R86). Every function
below is one state table of the spec as a decision table: the first row whose conditions hold applies (R13).
-/

namespace Sys2Proof.Machine

/-- Whether a function timer has expired in tick `t` (R87). -/
def timerExpired (tmr t : Nat) : Bool := decide (tmr ≤ t)

/-- How many of two inputs read closed, as the tables count them: 0 none, 1 one, 2 both (R86). -/
def closedCount (a b : Bool) : Nat := a.toNat + b.toNat

/-- One tick's result of a state table: the decision bits, the next state, the timer to start (if any), the flags. -/
structure FnRow where
  bits : Nat
  st : Nat
  tmr : Option Nat
  flags : Nat
deriving DecidableEq, Repr

/-- The table of DUAL_EQ (R93). States: 0 STOPPED, 1 CLOSING, 2 RUN, 3 OPENING, 4 DISC_FAULT; flag bit 0 DISC. -/
def dualRow (st n : Nat) (exp : Bool) (disc : Nat) : FnRow :=
  match st with
  | 0 => if n = 2 then ⟨1, 2, none, 0⟩ else if n = 1 then ⟨0, 1, some disc, 0⟩ else ⟨0, 0, none, 0⟩
  | 1 =>
    if n = 0 then ⟨0, 0, none, 0⟩ else if n = 2 then ⟨1, 2, none, 0⟩
    else if exp then ⟨0, 4, none, 1⟩ else ⟨0, 1, none, 0⟩
  | 2 => if n = 0 then ⟨0, 0, none, 0⟩ else if n = 1 then ⟨0, 3, some disc, 0⟩ else ⟨1, 2, none, 0⟩
  | 3 => if n = 0 then ⟨0, 0, none, 0⟩ else if exp then ⟨0, 4, none, 1⟩ else ⟨0, 3, none, 0⟩
  | _ => if n = 0 then ⟨0, 0, none, 0⟩ else ⟨0, 4, none, 0⟩

/-- The table of ESTOP (R97), with `refuse` the change of R98 for a PULLCORD whose STATUS is SLACK. States: 0 OPEN,
1 CLOSING, 2 ARMED, 3 RUN, 4 OPENING, 5 DISC_FAULT; flag bit 0 DISC, bit 1 RESET_REFUSED. -/
def estopRow (st n : Nat) (exp reset refuse : Bool) (disc : Nat) : FnRow :=
  match st with
  | 0 => if n = 0 then ⟨0, 0, none, 0⟩ else if n = 1 then ⟨0, 1, some disc, 0⟩ else ⟨0, 2, none, 0⟩
  | 1 =>
    if n = 0 then ⟨0, 0, none, 0⟩ else if n = 2 then ⟨0, 2, none, 0⟩
    else if exp then ⟨0, 5, none, 1⟩ else ⟨0, 1, none, 0⟩
  | 2 =>
    if n = 0 then ⟨0, 0, none, 0⟩ else if n = 1 then ⟨0, 4, some disc, 0⟩
    else if reset then (if refuse then ⟨0, 2, none, 2⟩ else ⟨1, 3, none, 0⟩) else ⟨0, 2, none, 0⟩
  | 3 => if n = 0 then ⟨0, 0, none, 0⟩ else if n = 1 then ⟨0, 4, some disc, 0⟩ else ⟨1, 3, none, 0⟩
  | 4 => if n = 0 then ⟨0, 0, none, 0⟩ else if exp then ⟨0, 5, none, 1⟩ else ⟨0, 4, none, 0⟩
  | _ => if n = 0 then ⟨0, 0, none, 0⟩ else ⟨0, 5, none, 0⟩

/-- STATUS of PULLCORD (R98): 0 NORMAL, 1 SLACK, 2 PULLED, 3 BROKEN, 4 PARTIAL. -/
def pullcordStatus (n : Nat) (c slackExp : Bool) : Nat :=
  if n = 0 then (if c then 3 else 2) else if n = 1 then 4 else if c && slackExp then 1 else 0

/-- How many sensors read active, as the table of R101 reads it. -/
inductive Sensors where
  | none | one | both
deriving DecidableEq, Repr

/-- The table of R101, for MUTE2 and, with the readings of R103, for MUTE4: the RELEASE bit is bit 1 of the result.
`wrong` is the wrong start of R103. States: 0 IDLE, 1 SYNC, 2 MUTED, 3 ENDING, 4 STOPPED, 5 OVERRIDE; flags: bit 0
MUTE_REFUSED, 1 SEQ, 2 MUTE_TIMEOUT, 3 OVR_TIMEOUT. -/
def muteRow (st : Nat) (clear : Bool) (sen : Sensors) (wrong held edge exp lampOk : Bool) (msync mmax ovmax : Nat) :
    FnRow :=
  match st with
  | 0 =>
    if !clear then ⟨0, 4, none, 0⟩
    else if sen = .none then ⟨2, 0, none, 0⟩
    else if wrong then ⟨2, 3, none, 2⟩
    else if !lampOk then ⟨2, 3, none, 1⟩
    else if sen = .both then ⟨2, 2, some mmax, 0⟩ else ⟨2, 1, some msync, 0⟩
  | 1 =>
    if !clear then ⟨0, 4, none, 0⟩
    else if sen = .none then ⟨2, 0, none, 0⟩
    else if wrong then ⟨2, 3, none, 2⟩
    else if sen = .both then (if lampOk then ⟨2, 2, some mmax, 0⟩ else ⟨2, 3, none, 1⟩)
    else if exp then ⟨2, 3, none, 2⟩ else ⟨2, 1, none, 0⟩
  | 2 =>
    if sen ≠ .both then (if clear then ⟨2, 3, none, 0⟩ else ⟨0, 4, none, 0⟩)
    else if exp then (if clear then ⟨2, 3, none, 4⟩ else ⟨0, 4, none, 4⟩)
    else ⟨2, 2, none, 0⟩
  | 3 => if !clear then ⟨0, 4, none, 0⟩ else if sen = .none then ⟨2, 0, none, 0⟩ else ⟨2, 3, none, 0⟩
  | 4 =>
    if clear then (if sen = .none then ⟨2, 0, none, 0⟩ else ⟨2, 3, none, 0⟩)
    else if sen ≠ .none && edge then ⟨2, 5, some ovmax, 0⟩ else ⟨0, 4, none, 0⟩
  | _ =>
    if !held then ⟨0, 4, none, 0⟩
    else if sen = .none then (if clear then ⟨2, 0, none, 0⟩ else ⟨0, 4, none, 0⟩)
    else if exp then ⟨0, 4, none, 8⟩ else ⟨2, 5, none, 0⟩

/-- The table of GUARD_LOCK (R105): bit 0 of the result is UC, bit 1 RELEASE. States: 0 LOCKED, 1 UNLOCKING, 2 OPEN,
3 LOCKING, 4 FAULT; flags: bit 0 GUARD_FORCED, 1 LOCK_LOST, 2 UNLOCK_REFUSED, 3 LOCK_FAIL. -/
def guardRow (st : Nat) (gclosed locked rq permit exp : Bool) (lockt : Nat) : FnRow :=
  match st with
  | 0 =>
    if !gclosed then ⟨0, 4, none, 1⟩
    else if !locked then ⟨0, 4, none, 2⟩
    else if rq then (if permit then ⟨1, 1, none, 0⟩ else ⟨2, 0, none, 4⟩) else ⟨2, 0, none, 0⟩
  | 1 =>
    if !gclosed then ⟨1, 2, none, 0⟩
    else if !rq || !permit then ⟨0, 3, some lockt, 0⟩ else ⟨1, 1, none, 0⟩
  | 2 => if gclosed && !rq then ⟨0, 3, some lockt, 0⟩ else ⟨1, 2, none, 0⟩
  | 3 =>
    if !gclosed then ⟨1, 2, none, 0⟩
    else if locked then ⟨2, 0, none, 0⟩
    else if exp then ⟨0, 4, none, 8⟩ else ⟨0, 3, none, 0⟩
  | _ =>
    if !gclosed then ⟨1, 2, none, 0⟩
    else if rq && permit then ⟨1, 1, none, 0⟩ else ⟨0, 4, none, 0⟩

/-- The worse of two mat readings, as FREE 0, STEPPED 1, FAULTY 2 (R107). -/
def matWorst (ts : List TermRead) : Nat :=
  ts.foldl (fun w r => max w (match r.mat with
    | .free => 0
    | .stepped => 1
    | _ => 2)) 0

/-- The flags of the mat readings (R107): bit 0 MAT_RES, 1 MAT_WIRE, 2 MAT_FENCED. -/
def matFlags (ts : List TermRead) : Nat :=
  ts.foldl (fun f r => f ||| (match r.mat with
    | .faultRes => 1
    | .faultWire => 2
    | .faultFenced => 4
    | _ => 0)) 0

/-- The table of MAT (R108). States: 0 FREE, 1 ACT, 2 FAULT. -/
def matRow (st worst : Nat) (latch reset : Bool) : FnRow :=
  match st with
  | 0 => if worst = 2 then ⟨0, 2, none, 0⟩ else if worst = 1 then ⟨0, 1, none, 0⟩ else ⟨1, 0, none, 0⟩
  | 1 =>
    if worst = 2 then ⟨0, 2, none, 0⟩ else if worst = 1 then ⟨0, 1, none, 0⟩
    else if !latch || reset then ⟨1, 0, none, 0⟩ else ⟨0, 1, none, 0⟩
  | _ => if worst = 0 then ⟨0, 1, none, 0⟩ else ⟨0, 2, none, 0⟩

/-- The table of STO, CONTACTOR and BRAKE (R118), behind the lost feedback of R119. Bit 0 of the result is OUTPUT. States:
0 OFF, 1 STARTING, 2 ON, 3 STOPPING, 4 FAULT; flags: bit 0 FB_LOST, 1 FB_STUCK, 2 FB_FAIL. -/
def outputRow (st : Nat) (demand fb fbLost exp reset : Bool) (fbt : Nat) : FnRow :=
  if fbLost then ⟨0, 4, none, 1⟩
  else match st with
  | 0 => if !fb then ⟨0, 4, none, 1⟩ else if demand then ⟨1, 1, some fbt, 0⟩ else ⟨0, 0, none, 0⟩
  | 1 =>
    if !demand then ⟨0, 3, some fbt, 0⟩ else if !fb then ⟨1, 2, none, 0⟩
    else if exp then ⟨0, 4, none, 2⟩ else ⟨1, 1, none, 0⟩
  | 2 => if !demand then ⟨0, 3, some fbt, 0⟩ else if fb then ⟨0, 4, none, 1⟩ else ⟨1, 2, none, 0⟩
  | 3 => if fb then ⟨0, 0, none, 0⟩ else if exp then ⟨0, 4, none, 4⟩ else ⟨0, 3, none, 0⟩
  | _ => if !demand && fb && reset then ⟨0, 0, none, 0⟩ else ⟨0, 4, none, 0⟩

/-- The table of STOP1 (R122): bit 0 Q, bit 1 RUNB, bit 2 PWR. States: 0 RUN, 1 DELAY, 2 OFF. -/
def stop1Row (st : Nat) (demand early exp : Bool) (t1 : Nat) : FnRow :=
  match st with
  | 0 => if demand then ⟨7, 0, none, 0⟩ else ⟨4, 1, some t1, 0⟩
  | 1 => if early || exp then ⟨0, 2, none, 0⟩ else ⟨4, 1, none, 0⟩
  | _ => if demand then ⟨7, 0, none, 0⟩ else ⟨0, 2, none, 0⟩

/-- The table of RESTART (R124) with its press count: the result's bit 0 is RSTEV; the second component is the new count. A button
held through `gap` late ticks was held in them too (R138).
States: 0 IDLE, 1 PRESSED, 2 STUCK; flags: bit 0 RESET_REFUSED, 1 PRESS_SHORT, 2 PRESS_LONG. -/
def restartRow (st k gap : Nat) (held lost rel : Bool) (pmin pmax : Nat) : FnRow × Nat :=
  if lost then (⟨0, 2, none, 0⟩, k)
  else match st with
  | 0 => if held then (⟨0, 1, none, 0⟩, 1) else (⟨0, 0, none, 0⟩, k)
  | 1 =>
    if held then (if k + gap < pmax then (⟨0, 1, none, 0⟩, k + gap + 1) else (⟨0, 2, none, 4⟩, k))
    else if k < pmin then (⟨0, 0, none, 2⟩, k)
    else if rel then (⟨1, 0, none, 0⟩, k) else (⟨0, 0, none, 1⟩, k)
  | _ => if held then (⟨0, 2, none, 0⟩, k) else (⟨0, 0, none, 0⟩, k)

/-- The table of ZONE_IN with ZLATCH = 1 (R132). States: 0 PASS, 1 HELD. -/
def zoneInRow (st : Nat) (raw reset : Bool) : FnRow :=
  match st with
  | 0 => if raw then ⟨1, 0, none, 0⟩ else ⟨0, 1, none, 0⟩
  | _ => if raw && reset then ⟨1, 0, none, 0⟩ else ⟨0, 1, none, 0⟩

/-- The table of SPATE_IN (R134). States: 0 STOPPED, 1 RUN. -/
def spateInRow (st : Nat) (mark quiet reset : Bool) : FnRow :=
  match st with
  | 0 => if mark then ⟨0, 0, none, 0⟩ else if quiet && reset then ⟨1, 1, none, 0⟩ else ⟨0, 0, none, 0⟩
  | _ => if mark then ⟨0, 0, none, 0⟩ else ⟨1, 1, none, 0⟩

/-- The initial state of an instance at its start tick `t` (R89, R505 and the tables named there). -/
def Fn.init (c : FnCfg) (t : Nat) : FnSt :=
  let z := { FnSt.zero with start := t, valid := true }
  match c.type with
  | .mat => { z with st := 1 }
  | .guardLock => { z with st := 3, tmr := t + c.par1 }
  | .sto | .contactor | .brake => { z with st := 3, tmr := t + c.par0 }
  | .stop1 => { z with st := 2 }
  | .restart => { z with st := 2 }
  | .zoneIn => { z with st := if c.optBit 0 then 1 else 0 }
  | _ => z

/-- Take a table's row: bits, next state, timer and flags. -/
def FnSt.take (s : FnSt) (t : Nat) (r : FnRow) : FnSt :=
  { s with bits := r.bits, st := r.st, tmr := (match r.tmr with
      | some n => t + n
      | none => s.tmr), raised := r.flags }

/-- The internal DUAL_EQ table of R100 and R105, on slots 0 and 1. -/
def FnSt.inner (s : FnSt) (i : FnIn) (disc : Nat) : FnSt :=
  let r := dualRow s.innerSt (closedCount (i.closed 0) (i.closed 1)) (timerExpired s.innerTmr i.t) disc
  { s with innerSt := r.st, innerTmr := (match r.tmr with
      | some n => i.t + n
      | none => s.innerTmr) }

/-- The two-contact functions (R93, R94, R95): B of DUAL_ANTI counts inverted, and as open where it is lost. -/
def Fn.evalDual (c : FnCfg) (i : FnIn) (s : FnSt) : FnSt :=
  let b := if c.type = .dualAnti then !(i.closed 1) && !(i.term 1).lost else i.closed 1
  s.take i.t (dualRow s.st (closedCount (i.closed 0) b) (timerExpired s.tmr i.t) c.par0)

/-- ESTOP (R97). -/
def Fn.evalEstop (c : FnCfg) (i : FnIn) (s : FnSt) : FnSt :=
  s.take i.t
    (estopRow s.st (closedCount (i.closed 0) (i.closed 1)) (timerExpired s.tmr i.t) i.reset false c.par0)

/-- PULLCORD (R98): the slack timer, STATUS in `sub`, and the ESTOP table. -/
def Fn.evalPullcord (c : FnCfg) (i : FnIn) (s : FnSt) : FnSt :=
  let n := closedCount (i.closed 0) (i.closed 1)
  let tens := c.optBit 0 && i.closed 2
  let slack := if tens && !s.cPrev then i.t + c.par1 else s.slack
  let status := pullcordStatus n tens (timerExpired slack i.t)
  let s1 := s.take i.t (estopRow s.st n (timerExpired s.tmr i.t) i.reset (decide (status = 1)) c.par0)
  { s1 with slack := slack, cPrev := tens, sub := status }

/-- The sensors of a muting instance in tick order: slots 2 and 3 of MUTE2, 2 to 5 of MUTE4 (R163, R164). -/
def muteActive (four : Bool) (i : FnIn) : List Bool :=
  if four then [i.closed 2, i.closed 3, i.closed 4, i.closed 5] else [i.closed 2, i.closed 3, false, false]

/-- The tick in which each sensor last became active (R103). -/
def muteRise (t : Nat) (act prev : List Bool) (rise : List Nat) : List Nat :=
  (List.range 4).map fun k => if act.getD k false && !(prev.getD k false) then t else rise.getD k 0

/-- The direction of MUTE4 in IDLE and SYNC: fixed by DIR, held, or fixed now by the first of M1 and M4 (R103);
`true` is REV. -/
def muteDir (opt : Nat) (held : Option Bool) (act : List Bool) : Option Bool :=
  if opt = 0 then some false
  else if opt = 1 then some true
  else match held with
    | some d => some d
    | none =>
      if act.getD 0 false && act.getD 3 false then none
      else if act.getD 0 false then some false
      else if act.getD 3 false then some true else none

/-- The reading of R103 in IDLE and SYNC for MUTE4: the sensors as the table reads them and whether it is a wrong start. In IDLE
the first start sensor has not been active yet; in SYNC it has, so one that has dropped again is no wrong start. -/
def mute4Start (idle : Bool) (dir : Option Bool) (act : List Bool) (rise : List Nat) : Sensors × Bool :=
  if !(act.any id) then (.none, false)
  else match dir with
    | none => (.one, true)
    | some d =>
      let first := if d then 3 else 0
      let second := if d then 2 else 1
      let wrong := if d then act.getD 0 false || act.getD 1 false else act.getD 2 false || act.getD 3 false
      let early := act.getD second false &&
        (if act.getD first false then decide (rise.getD second 0 < rise.getD first 0) else idle)
      if wrong || early then (.one, true)
      else if act.getD first false && act.getD second false then (.both, false) else (.one, false)

/-- "Sensors active" of a muting instance in state `st`, with the wrong start of R103. -/
def muteSensors (four : Bool) (st : Nat) (dir : Option Bool) (act : List Bool) (rise : List Nat) : Sensors × Bool :=
  let any := act.any id
  if four then
    if st = 0 ∨ st = 1 then mute4Start (decide (st = 0)) dir act rise
    else if st = 2 then (if act.getD 1 false || act.getD 2 false then (.both, false) else (.none, false))
    else (if any then (.both, false) else (.none, false))
  else
    if act.getD 0 false && act.getD 1 false then (.both, false) else if any then (.one, false) else (.none, false)

/-- The lamp check of R102 at this tick edge, before the table: LAMP_FAIL, the run of low readings, and whether this is a
probe tick of the present stay in IDLE. A stay's first tick is the first tick that begins in IDLE (log entry 12). -/
def muteLamp (t : Nat) (idle lampOk : Bool) (m : MuteSt) : MuteSt × Bool :=
  let watched := m.lampPrev && decide (m.lampRise + 3 ≤ t)
  let low := if watched && !lampOk then m.lowRun + 1 else 0
  let fail := m.lampFail || decide (2 ≤ low)
  let stay := if idle then (match m.stay with
    | some n => some n
    | none => some t) else none
  let phase := (t - stay.getD t) % 4096
  let probe := idle && fail && decide (phase < 4)
  let proven := probe && decide (phase = 3) && lampOk && m.okPrev
  ({ m with lampFail := fail && !proven, lowRun := low, okPrev := lampOk, stay := stay }, probe)

/-- MUTE2 and MUTE4 (R100 to R103): bit 0 LAMP, bit 1 RELEASE; LAMP_FAIL is flag bit 4 while the condition holds. -/
def Fn.evalMute (c : FnCfg) (i : FnIn) (s0 : FnSt) : FnSt :=
  let four := decide (c.type = .mute4)
  let s := s0.inner i c.par0
  let clear := decide (s.innerSt = 2)
  let slotL := if four then 6 else 4
  let held := c.optBit 0 && i.closed (slotL + 1)
  let edge := held && !s.mute.ovrPrev
  let act := muteActive four i
  let rise := muteRise i.t act s.mute.act s.mute.rise
  let start := decide (s.st = 0 ∨ s.st = 1)
  let dir := if start then muteDir (c.opt2 1) s.mute.dir act else s.mute.dir
  let sw := muteSensors four s.st dir act rise
  let lp := muteLamp i.t (decide (s.st = 0)) (i.term slotL).lampOk s.mute
  let r := muteRow s.st clear sw.1 sw.2 held edge (timerExpired s.tmr i.t) (!lp.1.lampFail) c.par1 c.par2 c.par3
  let lamp := decide (r.st = 2) || decide (r.st = 5) || (lp.2 && decide (r.st = 0))
  let s1 := s.take i.t r
  let newIdle := decide (r.st = 0) && !decide (s.st = 0)
  let stay := if r.st = 0 then (if newIdle then none else lp.1.stay) else none
  let m := { lp.1 with
    lampPrev := lamp
    lampRise := if lamp && !lp.1.lampPrev then i.t else lp.1.lampRise
    stay := stay
    ovrPrev := held
    dir := if newIdle then none else dir
    rise := rise
    act := act }
  { s1 with
    bits := r.bits ||| lamp.toNat
    raised := r.flags ||| (if lp.1.lampFail then 16 else 0)
    sub := if four then (match m.dir with
      | some d => d.toNat
      | none => if c.opt2 1 = 1 then 1 else 0) else 0
    mute := m }

/-- GUARD_LOCK (R105): the demand of U is UC, or NOT UC with LMODE = 1. -/
def Fn.evalGuard (c : FnCfg) (i : FnIn) (s0 : FnSt) : FnSt :=
  let s := s0.inner i c.par0
  let r := guardRow s.st (decide (s.innerSt = 2)) (i.closed 2 && i.closed 3) (i.closed 4) i.link0
    (timerExpired s.tmr i.t) c.par1
  let uc := r.bits.testBit 0
  let u := if c.optBit 0 then !uc else uc
  { s.take i.t r with bits := (r.bits &&& 2) ||| u.toNat }

/-- MAT (R107, R108) over its NSEC terminals. -/
def Fn.evalMat (c : FnCfg) (i : FnIn) (s : FnSt) : FnSt :=
  let ts := (List.range (c.opt2 1 + 1)).map i.term
  let s1 := s.take i.t (matRow s.st (matWorst ts) (c.optBit 0) i.reset)
  { s1 with raised := matFlags ts }

/-- The counters of one sensor at this tick edge (R110); in the start tick the state before counts as the present one. -/
def ShaftSt.tick (sh : ShaftSt) (first now : Bool) (t : Nat) : ShaftSt :=
  if now && !sh.prev && !first then ⟨now, some t, sh.last⟩ else ⟨now, sh.last, sh.before⟩

/-- ek of R110: ticks since the last rising edge, from the start of the instance. -/
def ShaftSt.e (sh : ShaftSt) (start t : Nat) : Nat := t - sh.last.getD start

/-- pk of R110: ticks between the last two rising edges, 0 until two have been seen. -/
def ShaftSt.p (sh : ShaftSt) : Nat :=
  match sh.last, sh.before with
  | some a, some b => a - b
  | _, _ => 0

/-- Whether the sensor has had a rising edge within the last `n` ticks (R111). -/
def ShaftSt.edge1 (sh : ShaftSt) (t n : Nat) : Bool :=
  match sh.last with
  | some a => decide (t - a < n)
  | none => false

/-- Whether the sensor has had two or more rising edges within the last `n` ticks (R111). -/
def ShaftSt.edge2 (sh : ShaftSt) (t n : Nat) : Bool :=
  match sh.last, sh.before with
  | some _, some b => decide (t - b < n)
  | _, _ => false

/-- STANDSTILL (R110, R111): bit 0 SSB, bit 1 LSB; flags bit 0 SENSOR_PLAUS, bit 1 SENSOR_DISAGREE. PAR0 NSS, PAR1 NLS,
PAR2 NPL. -/
def Fn.evalStandstill (c : FnCfg) (i : FnIn) (s : FnSt) : FnSt :=
  let a1 := i.closed 0
  let a2 := i.closed 1
  let s1 := s.s1.tick s.first a1 i.t
  let s2 := s.s2.tick s.first a2 i.t
  let slow (h : ShaftSt) : Bool := decide (c.par0 ≤ h.e s.start i.t)
  let within (h : ShaftSt) : Bool := decide (c.par1 ≤ h.p) || decide (c.par1 ≤ h.e s.start i.t)
  let idle := if a1 || a2 then 0 else if s.idleRun = 0 then 1 else s.idleRun + i.gap + 1
  let plaus := decide (c.par2 ≤ idle)
  let dis := (slow s1 && s2.edge2 i.t c.par0) || (slow s2 && s1.edge2 i.t c.par0)
  let ended := s1.edge1 i.t c.par0 && s2.edge1 i.t c.par0 && (a1 || a2)
  let fault := plaus || dis || (s.fault && !ended)
  let bits := if fault then 0 else if slow s1 && slow s2 then 3 else if within s1 && within s2 then 2 else 0
  { s with bits := bits, s1 := s1, s2 := s2, idleRun := idle, fault := fault,
           raised := plaus.toNat + 2 * dis.toNat }

/-- STO, CONTACTOR and BRAKE (R117 to R119). FB is slot 2 of STO and CONTACTOR and slot 1 of BRAKE; without FB it reads
closed where the output demand of the tick before was 0. -/
def Fn.evalOutput (c : FnCfg) (i : FnIn) (s : FnSt) : FnSt :=
  let used := decide (c.type = .contactor) || c.optBit 0
  let slot := if c.type = .brake then 1 else 2
  let fb := if used then i.closed slot else !s.outPrev
  let r := outputRow s.st i.link0 fb (used && (i.term slot).lost) (timerExpired s.tmr i.t) i.reset c.par0
  let s1 := s.take i.t r
  { s1 with bits := if r.bits = 0 then 0 else if c.type = .brake then 1 else 3, outPrev := decide (r.bits ≠ 0) }

/-- STOP1 (R122). -/
def Fn.evalStop1 (c : FnCfg) (i : FnIn) (s : FnSt) : FnSt :=
  s.take i.t (stop1Row s.st i.link0 i.link1 (timerExpired s.tmr i.t) c.par0)

/-- RESTART (R124): bit 0 RSTEV, bit 1 ENABLE. -/
def Fn.evalRestart (c : FnCfg) (i : FnIn) (s : FnSt) : FnSt :=
  let r := restartRow s.st s.press i.gap (i.closed 0) (i.term 0).lost i.link0 c.par0 c.par1
  let en := i.link0 && (s.enable || decide (r.1.bits = 1))
  { s.take i.t r.1 with bits := r.1.bits + 2 * en.toNat, press := r.2, enable := en }

/-- ZONE_IN (R132): ZB is the raw value, or goes through the latch with ZLATCH = 1; its validity is that of the raw value
(R131, R167). -/
def Fn.evalZoneIn (c : FnCfg) (i : FnIn) (s : FnSt) : FnSt :=
  if c.optBit 0 then { s.take i.t (zoneInRow s.st i.zone i.reset) with valid := i.zoneValid }
  else { s.take i.t ⟨i.zone.toNat, 0, none, 0⟩ with valid := i.zoneValid }

/-- SPATE_OUT (R133): MARK in each tick in which a mark is raised; PAR1 is SPREP. -/
def Fn.evalSpateOut (c : FnCfg) (i : FnIn) (s : FnSt) : FnSt :=
  let mark := !i.link0 && (s.inPrev || decide (s.lastMark + c.par1 ≤ i.t))
  { s with bits := mark.toNat, inPrev := i.link0, raised := 0, lastMark := if mark then i.t else s.lastMark }

/-- One evaluation of an instance in one tick (R86). -/
def Fn.eval (c : FnCfg) (i : FnIn) (s : FnSt) : FnSt :=
  let r := match c.type with
    | .dualEq | .dualAnti | .ossd => Fn.evalDual c i s
    | .estop => Fn.evalEstop c i s
    | .pullcord => Fn.evalPullcord c i s
    | .mute2 | .mute4 => Fn.evalMute c i s
    | .guardLock => Fn.evalGuard c i s
    | .mat => Fn.evalMat c i s
    | .standstill => Fn.evalStandstill c i s
    | .sto | .contactor | .brake => Fn.evalOutput c i s
    | .stop1 => Fn.evalStop1 c i s
    | .restart => Fn.evalRestart c i s
    | .zoneOut => s.take i.t ⟨i.link0.toNat, 0, none, 0⟩
    | .zoneIn => Fn.evalZoneIn c i s
    | .spateOut => Fn.evalSpateOut c i s
    | .spateIn => s.take i.t (spateInRow s.st i.mark i.quiet i.reset)
  { r with first := false }

/-- An instance that is fenced: every decision bit 0 and invalid (R89, R114). -/
def FnSt.fenced (s : FnSt) : FnSt := { s with bits := 0, valid := false }

/-- Ticks remaining on the main timer, as HCELL.HTMR.REM shows them (R185). -/
def FnSt.remaining (s : FnSt) (t : Nat) : Nat := s.tmr - t

end Sys2Proof.Machine
end

