-- ==== Sys2Proof/Machine/Network.lean ====
section
/-!
DEFINITION. The running image as the units see it: instances, their carriers, logical and physical lanes, output terminals,
and the unit codes with the fence store.
-/

namespace Sys2Proof.Machine

/-! ### Unit codes: R314, and two codes of the model's own for a bridge link and a logic die (log entry 13) -/

namespace U

abbrev lane : Nat := 0x01
abbrev sv : Nat := 0x02
abbrev engine : Nat := 0x03
abbrev port : Nat := 0x04
abbrev crc : Nat := 0x05
abbrev scan : Nat := 0x06
abbrev ltimer : Nat := 0x07
abbrev term : Nat := 0x10
abbrev cell : Nat := 0x11
abbrev ftimer : Nat := 0x12
abbrev field : Nat := 0x13
abbrev inst : Nat := 0x20
abbrev link : Nat := 0x30
abbrev logic : Nat := 0x31

end U

/-- The key of a unit: its kind, the die that holds it and its number there. The P entry of an instance stands at die 0 and
its H-cell's side at die 1, with the IID as the number. -/
def unitKey (kind die idx : Nat) : Nat := Nat.pair kind (Nat.pair die idx)

/-- The fence of a unit (R348). -/
def State.fence (s : State) (kind die idx : Nat) : Fence := Store.get (fun _ => Fence.zero) s.fences (unitKey kind die idx)

def State.setFence (s : State) (kind die idx : Nat) (v : Fence) : State :=
  { s with fences := Store.set (fun _ => Fence.zero) s.fences (unitKey kind die idx) v }

/-- Whether a unit is fenced. -/
def State.fenced (s : State) (kind die idx : Nat) : Bool := (s.fence kind die idx).on

/-- Whether channel P holds instance `iid` fenced. -/
def State.instFencedP (s : State) (iid : Nat) : Bool := s.fenced U.inst 0 iid

/-- Whether channel H holds instance `iid` fenced. -/
def State.instFencedH (s : State) (iid : Nat) : Bool := s.fenced U.inst 1 iid

/-- Whether the decision bits of an instance are 0 and invalid on channel P: from the tick after its fence (R183, R348). -/
def State.instDeadP (s : State) (iid : Nat) : Bool := s.instFencedP iid && decide ((s.fence U.inst 0 iid).tick < s.tick)

/-- The same on channel H, by the H tick of field die `fd`. -/
def State.instDeadH (s : State) (fd iid : Nat) : Bool :=
  s.instFencedH iid && decide ((s.fence U.inst 1 iid).tick < (s.field fd).htick)

/-! ### Fields numbered within a word -/

/-- FENCE.LMAP.PHYSn (R373). -/
def fldLmap (n : Nat) : Fld := ⟨.FENCE_LMAP, 3 * n, 3, .ro, n, .none, 0⟩

/-- DCNT of index 16n + m of SIEVEP (R187). -/
def fldDcntP (m : Nat) : Fld := ⟨.SIEVEP_DCNT, 2 * m, 2, .ro, 0, .hold, 0⟩

/-- DCNT of index 16n + m of SIEVEH (R187). -/
def fldDcntH (m : Nat) : Fld := ⟨.SIEVEH_DCNT, 2 * m, 2, .ro, 0, .hold, 0⟩

/-- The count DCNT of one index on a die (R187). -/
def dcntFld (die m : Nat) : Fld := if die < 2 then fldDcntP m else fldDcntH m

def State.dcnt (s : State) (die n : Nat) : Nat := s.get (dcntFld die (n % 16)) die (n / 16)

def State.setDcnt (s : State) (die n v : Nat) : State := s.put (dcntFld die (n % 16)) die (n / 16) v

/-- FSYS.CMAPw.CELLb (R374). -/
def fldCmap (b : Nat) : Fld := ⟨.FSYS_CMAP, 8 * b, 8, .ro, b, .hold, 0⟩

/-- HCELL.TSEL of slot s: its register, IDX and USE (R185). -/
def fldIdx (sl : Nat) : Fld := ⟨if sl < 4 then .HC_TSEL0 else .HC_TSEL1, 8 * (sl % 4), 6, .rwl, 0, .lock, 0⟩

def fldUse (sl : Nat) : Fld := ⟨if sl < 4 then .HC_TSEL0 else .HC_TSEL1, 8 * (sl % 4) + 7, 1, .rwl, 0, .lock, 0⟩

/-! ### Time -/

/-- AON cycles per tick (R203). -/
def State.nper (s : State) : Nat := s.get F.TICK_TPOS_NPER 0 0

/-- The part is in Run (R440, R451). -/
def State.inRun (s : State) : Bool := decide (s.part.phase = .run)

/-- A point of the tick, in percent, as the count of a logic die's tick unit (R189). -/
def State.pointPos (s : State) (p : Nat) : Nat := p * s.nper / 100

/-- A logic die's tick unit has come to a point (R189); it counts up within a tick. -/
def State.reachPoint (s : State) (ld p : Nat) : State := s.put F.TICK_TPOS_POS ld 0 (max (s.get F.TICK_TPOS_POS ld 0) (s.pointPos p))

/-- The count when a master reads it (R203): a free number from the last point reached up to the next one at which something
must happen: the 5 % point, the latch point, the end of the tick, which the pin may put off by 1 % (R190; log entry 4). -/
def State.readPos (s : State) (ld : Nat) : State :=
  let c := s.get F.TICK_TPOS_POS ld 0
  let hi := if c < s.pointPos 5 then s.pointPos 5 else if c < s.pointPos 75 then s.pointPos 75 else s.pointPos 101
  s.on s.inRun fun s => (s.put F.TICK_TPOS_POS ld 0 (c + s.freeBelow (hi - c))).spend

/-- Whether the latch point of the present tick has passed (R189, R192). -/
def State.latched (s : State) : Bool := decide (3 * s.nper ≤ 4 * s.get F.TICK_TPOS_POS 0 0)

/-- The tick a fence raised now belongs to (R193). -/
def State.fenceTick (s : State) : Nat := if s.latched then s.tick + 1 else s.tick

/-- The tick number as a die counts it. -/
def State.tickOf (s : State) (die : Nat) : Nat := if die < 2 then s.tick else (s.field (die - 2)).htick

/-- The tick period of TICK.TCFG or RNG.TURNCFG in microseconds, by its code (R188). -/
def periodUs (code : Nat) : Nat := 125 * 2 ^ code

/-- The tick period in use, in microseconds: TPOS.NPER takes it at the start of Run (R188, R203). -/
def State.tickUs (s : State) : Nat := s.nper / 20

/-- The tick period as configured: with the ring as its source, that of ring 0 (R188). -/
def State.periodCfg (s : State) : Nat :=
  periodUs (if s.get F.TICK_TCFG_SRC 0 0 = 0 then s.get F.RNG_TURNCFG_PERIOD 0 0 else s.get F.TICK_TCFG_PERIOD 0 0)

/-- The lane budget at a period in microseconds and a CLKSEL (R154): floor(0.7 · T · f), at 400 MHz less 100 MHz a step. -/
def laneBudget (us sel : Nat) : Nat := us * (400 - 100 * sel) * 7 / 10

/-- LBUDGET.B of a lane: by the period in use in Run, else by the one configured (R154, R161). -/
def State.budget (s : State) (ld l : Nat) : Nat :=
  laneBudget (if s.part.phase = .run then s.tickUs else s.periodCfg) (s.get F.LANE_LCTL_CLKSEL ld l)

/-- LWCET.RETRYOK of a lane (R154, R161); 0 while W is 0. -/
def State.retryOk (s : State) (ld l : Nat) : Bool :=
  let w := s.get F.LANE_LWCET_W ld l
  decide (w ≠ 0) && decide (10 * w ≤ 4 * s.budget ld l)

/-- The sieve window of a die as registered, in ticks (R184). -/
def State.sieveCfg (s : State) (die : Nat) : Nat :=
  (if die < 2 then s.get F.SIEVEP_SCFG_WIN die 0 else s.get F.SIEVEH_SCFG_WIN die 0) + 1

/-- The sieve window in effect on a die. -/
def State.sieveW (s : State) (die : Nat) : Nat :=
  let old := (s.svDie die).old
  if old = 0 then s.sieveCfg die else old

/-! ### Terminal modes and decodes (R38, R43, R47, R49) -/

/-- TERM.CFG.MODE (R38): 0 OFF, 1 IN, 2 OUT, 3 TP, 4 GD, 5 MON. -/
def State.mode (s : State) (fd t : Nat) : Nat := s.get F.TERM_CFG_MODE (fdie fd) t

/-- A line-monitored input (R47, R49). -/
def State.lineMon (s : State) (fd t : Nat) : Bool := s.mode fd t == 1 && s.get F.TERM_CFG_ITYPE (fdie fd) t == 3

/-- The state of R49 of a voltage code: 0 short, 1 closed, 2 open, 3 wire broken, 4 short to VF. -/
def lmDecode (code : Nat) : Nat :=
  if code < 288 then 0 else if code < 336 then 1 else if code < 384 then 2 else if code < 432 then 3 else 4

/-- A comparator with hysteresis (R47): closed from the on threshold up, open below the off threshold, else as before. R47
switches "at" each threshold, R58 and R504 say "above" the on and "below" the off threshold: at the very on code it closes, at the very
off code it keeps its state (DESIGN CHOICE, log entry 36). -/
def hyst (on off code : Nat) (was : Bool) : Bool :=
  if on ≤ code then true else if code < off then false else was

/-- What a sense path reads at a voltage code, from its state before: the input's type (R47, R49), else the window of R43 at
5.0 V. -/
def State.levelOf (s : State) (fd t code : Nat) (was : Bool) : Bool :=
  if s.mode fd t = 1 then
    match s.get F.TERM_CFG_ITYPE (fdie fd) t with
    | 0 => hyst 432 400 code was
    | 3 => lmDecode code == 1
    | _ => hyst 408 376 code was
  else decide (336 ≤ code)

/-! ### Instances and their carriers -/

/-- The record of an instance in the running image (R325). -/
def State.recOf (s : State) (iid : Nat) : Option InstRec := s.image.img.insts.find? fun r => r.iid == iid

/-- The function type and parameters of a record (R163, R325). -/
def InstRec.cfg (r : InstRec) : FnCfg := ⟨(FnType.ofCode r.code).getD .zoneOut, r.par0, r.par1, r.par2, r.par3, r.opt⟩

/-- The logic die that carries the instance's P entry: the image's, or the other one after a standby takeover (R366). -/
def State.dieOf (s : State) (r : InstRec) : Nat := if (s.stby r.ldie r.lane).swapped then 1 - r.ldie else r.ldie

/-- The physical lane of logical lane `n` (R363). -/
def State.phys (s : State) (ld n : Nat) : Nat := s.get (fldLmap n) ld 0

/-- Whether `r` is carried by physical lane `l` of die `ld`. -/
def State.carries (s : State) (ld l : Nat) (r : InstRec) : Bool :=
  decide (s.dieOf r = ld) && decide (s.phys ld r.lane = l)

/-- The instances that a physical lane carries. -/
def State.instsOf (s : State) (ld l : Nat) : List InstRec := s.image.img.insts.filter (s.carries ld l)

/-- The physical cell that carries an image cell (R368, R370). -/
def State.cmap (s : State) (fd c : Nat) : Nat :=
  if c < 128 then s.get (fldCmap (c % 4)) (fdie fd) (c / 4) else c

/-- The physical H-cell of an instance. -/
def State.cellOf (s : State) (r : InstRec) : Nat := s.cmap r.fdie r.cell

/-- The terminals that a type drives: decision bit and slot (R117, R163, R164). -/
def drivesOf (code opt : Nat) : List (Nat × Nat) :=
  match FnType.ofCode code with
  | some .sto | some .contactor => [(0, 0), (1, 1)]
  | some .brake => [(0, 0)]
  | some .mute2 => [(0, 4)]
  | some .mute4 => [(0, 6)]
  | some .guardLock => [(0, 5)]
  | some .stop1 => if opt.testBit 0 then [(0, 0)] else []
  | _ => []

/-- The terminals an instance drives. -/
def InstRec.drives (r : InstRec) : List (Nat × Nat) := drivesOf r.code r.opt

/-- The output terminals of an instance: decision bit and local terminal. -/
def InstRec.outs (r : InstRec) : List (Nat × Nat) := r.drives.map fun (k, sl) => (k, r.tslot.getD sl 0xFF)

/-- The entries of the output image that an instance writes, each with the decision bit it takes: the demands of its terminals, its
zone bit, its mark (R145, R146). -/
def InstRec.entries (r : InstRec) : List (Nat × Nat) :=
  (r.outs.map fun o => (64 * r.fdie + o.2, o.1)) ++ (if r.code = 0x15 then [(384 + r.par0, 0)] else []) ++
    (if r.code = 0x17 then [(1024 + r.iid, 0)] else [])

/-- Put the decision bits of an instance into the output image of a logic die. -/
def State.putOut (s : State) (ld : Nat) (r : InstRec) (bits : Nat) : State :=
  s.each r.entries fun s e => s.setOutBit ld e.1 (bits.testBit e.2)

/-- Whether the image marks a standby P-source for the terminal (R328). -/
def State.outStandby (s : State) (fd t : Nat) : Bool := (s.image.img.outmap.getD (64 * fd + t) 0).testBit 1

/-- The instances that the image places on logical lane `n` of die `ld` (R325). -/
def State.logicalInsts (s : State) (ld n : Nat) : List InstRec :=
  s.image.img.insts.filter fun r => decide (r.ldie = ld) && decide (r.lane = n)

/-- Whether logical lane `n` of the image's die `ld` has a standby (R366). -/
def State.hasStandby (s : State) (ld n : Nat) : Bool :=
  let outs := (s.logicalInsts ld n).flatMap fun r => r.outs.map fun o => (r.fdie, o.2)
  decide (s.variant = .cvsl808) && !outs.isEmpty && outs.all fun o => s.outStandby o.1 o.2

/-- Whether logical lane `n` of die `ld` is in use: it carries instances, or stands by for the other die's lane. -/
def State.logicalUsed (s : State) (ld n : Nat) : Bool :=
  !(s.logicalInsts ld n).isEmpty || s.hasStandby (1 - ld) n

/-- Whether the self-test engine `l` holds its unit, engines 0 to 7 a lane: its bus port, pins and events are idle and its RAMs in
bypass (R403, R405). -/
def State.laneInBist (s : State) (ld l : Nat) : Bool := s.get F.LBIST_STAT_STATE ld l != 0

/-- Whether self-test holds the bus port and the die-bridge requests of a master at idle: of a lane, of the supervisor, of the ring
engine's ports (R405, R353). -/
def State.portHeld (s : State) (m : Master) : Bool :=
  if 1 ≤ m.code ∧ m.code ≤ 9 then s.laneInBist m.die (m.code - 1)
  else (m.code == 0x0A || m.code == 0x0B) && s.laneInBist m.die 9

/-- Whether the test access port works: VIO has not tripped, which holds it idle, and the part has VAUX (R445). -/
def State.tapLive (s : State) : Bool := !s.part.vio && !s.part.vaux

/-- Whether the debug data register is selected (R418, R424). -/
def State.dbgOn (s : State) : Bool := s.tapLive && decide (s.tap = .dbgacc)

/-- Whether lane `l` is the new side of the soak in progress. -/
def State.isSoakLane (s : State) (ld l : Nat) : Bool :=
  match s.soak with
  | some k => decide (k.kind = .migration) && decide (k.newDie = ld) && decide (k.newIdx = l)
  | none => false

/-- Whether lane `l` is a soak new side (R358, R373): the target of a migration, a lane that runs entries of a configuration soak, or
in Run a standby lane. -/
def State.newSideLane (s : State) (ld l : Nat) : Bool :=
  let carried (n : Nat) : Bool := decide (s.phys ld n = l)
  s.isSoakLane ld l ||
    (match s.soak with
      | some k => decide (k.kind = .config) && decide (k.start ≤ s.tick) &&
          k.img.img.insts.any fun r => k.changed.contains r.iid && decide (r.ldie = ld) && carried r.lane
      | none => false) ||
    (s.inRun && (List.range 8).any fun n => carried n &&
      ((s.hasStandby (1 - ld) n && !(s.stby (1 - ld) n).swapped) || (s.hasStandby ld n && (s.stby ld n).swapped)))

/-- Whether a lane's two patch sets have one identity (R143). -/
def State.idsEqual (s : State) (ld l : Nat) : Bool := s.get F.LANE_LIDS_PSET ld l == s.get F.LANE_LIDS_QSET ld l

/-- Whether a lane is spare (R363). -/
def State.spare (s : State) (ld l : Nat) : Bool :=
  !s.fenced U.lane ld l && (List.range 8).all fun n => !(s.logicalUsed ld n && decide (s.phys ld n = l))

/-- The lowest-numbered spare lane that no soak and no self-test holds and whose patch sets agree, since any other refuses RUN (R143,
R365, R406). -/
def State.lowestSpare (s : State) (ld : Nat) : Option Nat :=
  (List.range 8).find? fun l => s.spare ld l && !s.isSoakLane ld l && !s.laneInBist ld l && s.idsEqual ld l

/-- A standby lane is ready while RUN ≥ 64 and neither a fence nor its self-test holds it (R361, R405). -/
def State.standbyReady (s : State) (ild n : Nat) : Bool :=
  let st := s.stby ild n
  let sd := if st.swapped then ild else 1 - ild
  s.hasStandby ild n && decide (64 ≤ st.run) && !s.fenced U.lane sd (s.phys sd n) && !s.fenced U.logic sd 0 &&
    !s.laneInBist sd (s.phys sd n)

/-- PSTATE SAFE causes of the part (R356, R445, R449). -/
def State.partSafe (s : State) : Bool := s.part.safe || s.part.vaux || s.part.vcore || s.part.aon

/-- The RWL gate of a die (R340). -/
def State.gate (s : State) (die : Nat) : Bool :=
  if die < 2 then s.flag F.SYSCTL_SEAL_GATE die 0 else s.flag F.FSYS_SEAL_GATE die 0

/-- The life-cycle code that boot reported: LBIST.LCSTAT.LC. -/
def State.lc (s : State) : Nat := s.get F.LBIST_LCSTAT_LC 0 0

/-- FIELD, with the gate closed and the image not commissioned (R342). -/
def State.uncommissioned (s : State) : Bool :=
  decide (s.lc = 2) && !s.gate 0 && s.image.loaded && !s.image.commissioned

/-- Whether R342 holds every instance fenced: from such an edge on, until the image is commissioned. -/
def State.heldUncommissioned (s : State) : Bool := s.uncommissioned || (s.part.uncom && !s.image.commissioned)

end Sys2Proof.Machine
end

