-- ==== Sys2Proof/Machine/TimerRegs.lean ====
section
/-!
DEFINITION. The register block of a timer (R76), what freezes it (R74), and the capture edges on their way to it (R71).
-/

namespace Sys2Proof.Machine

/-- The fields of one timer block (R76). -/
structure TmrFlds where
  en : Fld
  frz : Fld
  zact : Fld
  mact : Fld
  capen : Fld
  capedge : Fld
  capsel : Fld
  owner : Fld
  cnt : Fld
  reload : Fld
  cmppre : Fld
  cmp : Fld
  cap : Fld
  zero : Fld
  match_ : Fld
  captured : Fld
  overcap : Fld
  pin : Fld

/-- The timer block of a die: logic or field timers. -/
def tmr (die : Nat) : TmrFlds :=
  if die < 2 then
    { en := F.LTMR_CTL_EN, frz := F.LTMR_CTL_FRZ, zact := F.LTMR_CTL_ZACT, mact := F.LTMR_CTL_MACT,
      capen := F.LTMR_CTL_CAPEN, capedge := F.LTMR_CTL_CAPEDGE, capsel := F.LTMR_CTL_CAPSEL, owner := F.LTMR_CTL_OWNER,
      cnt := F.LTMR_CNT_CNT, reload := F.LTMR_RELOAD_RELOAD, cmppre := F.LTMR_CMPPRE_CMPPRE, cmp := F.LTMR_CMP_CMP,
      cap := F.LTMR_CAP_CAP, zero := F.LTMR_STAT_ZERO, match_ := F.LTMR_STAT_MATCH, captured := F.LTMR_STAT_CAPTURED,
      overcap := F.LTMR_STAT_OVERCAP, pin := F.LTMR_STAT_PIN }
  else
    { en := F.FTMR_CTL_EN, frz := F.FTMR_CTL_FRZ, zact := F.FTMR_CTL_ZACT, mact := F.FTMR_CTL_MACT,
      capen := F.FTMR_CTL_CAPEN, capedge := F.FTMR_CTL_CAPEDGE, capsel := F.FTMR_CTL_CAPSEL, owner := F.FTMR_CTL_OWNER,
      cnt := F.FTMR_CNT_CNT, reload := F.FTMR_RELOAD_RELOAD, cmppre := F.FTMR_CMPPRE_CMPPRE, cmp := F.FTMR_CMP_CMP,
      cap := F.FTMR_CAP_CAP, zero := F.FTMR_STAT_ZERO, match_ := F.FTMR_STAT_MATCH, captured := F.FTMR_STAT_CAPTURED,
      overcap := F.FTMR_STAT_OVERCAP, pin := F.FTMR_STAT_PIN }

/-- Whether a timer's owner is halted by a debugger (R74). OWNER 0x1 of a field timer names no die: on the CVSL-808 the halt of
either supervisor freezes it (DESIGN CHOICE, log entry 29). -/
def State.ownerHalted (s : State) (die n : Nat) : Bool :=
  let o := s.get (tmr die).owner die n
  if die < 2 then (if o = 9 then (s.svst die).halted else decide (1 ≤ o) && decide (o ≤ 8) && (s.lane die (o - 1)).halted)
  else decide (o = 1) && s.lds.any fun ld => (s.svst ld).halted

/-- Whether a timer is frozen (R74). -/
def State.frozenTimer (s : State) (die n : Nat) : Bool := s.flag (tmr die).frz die n && s.ownerHalted die n

/-- Whether an edge is one that a timer's CAPEDGE selects: 0 rising, 1 falling, 2 both (R71). -/
def capEdge (code : Nat) (rising : Bool) : Bool :=
  match code with
  | 0 => rising
  | 1 => !rising
  | _ => true

/-- An edge of a capture source starts on its way to a timer (R71); a frozen timer's capture is suppressed (R74). -/
def State.capArm (s : State) (die n : Nat) (rising : Bool) : State :=
  s.on (s.flag (tmr die).capen die n && capEdge (s.get (tmr die).capedge die n) rising && !s.frozenTimer die n) fun s =>
    s.setCapDue die n (s.capDue die n ||| (if rising then 1 else 2))

/-- The timers of a logic die that capture on the event line of LTMR `n` see an edge of it (R71). -/
def State.eventEdge (s : State) (die n : Nat) (rising : Bool) : State :=
  s.each ((List.range 32).filter fun m => s.get F.LTMR_CTL_CAPSEL die m == n + 1) fun s m =>
    s.capArm die m rising

end Sys2Proof.Machine
end

