-- ==== Sys2Proof/Machine/Fencing.lean ====
section
/-!
DEFINITION. What a fence does and how it ends (R348 to R357, R362, R365, R366): the shared operations that every detector of
a fault uses.
-/

namespace Sys2Proof.Machine

/-! ### On-fence values (R11) -/

/-- The registers whose fields a unit kind owns and that a fence changes. -/
def unitRegs (kind : Nat) : List Reg :=
  if kind = U.lane then [.LANE_LCTL, .LANE_LSTAT]
  else if kind = U.sv then [.OTP_OADDR, .OTP_ODATA0, .OTP_ODATA1]
  else if kind = U.port then [.RNG_PSTAT, .RNG_LDELAY, .RNG_EMPTY, .RNG_TXSTAT, .RNG_WRAP]
  else if kind = U.crc then
    [.CRC_CFG, .CRC_POLY, .CRC_INIT, .CRC_XOROUT, .CRC_VAL, .CRC_RESULT, .CRC_STAT]
  else if kind = U.scan then
    [.SCAN_START, .SCAN_LEN, .SCAN_CTL, .SCAN_STAT, .SCAN_NEXT, .SCAN_REM, .SCAN_ERRADDR]
  else if kind = U.ltimer then
    [.LTMR_CTL, .LTMR_CNT, .LTMR_RELOAD, .LTMR_CMPPRE, .LTMR_CMP, .LTMR_CAP, .LTMR_STAT]
  else if kind = U.term then [.TERM_PIMG, .TERM_HSTAT, .TERM_FCTL]
  else if kind = U.cell then [.HC_HSTAT]
  else if kind = U.ftimer then
    [.FTMR_CTL, .FTMR_CNT, .FTMR_RELOAD, .FTMR_CMPPRE, .FTMR_CMP, .FTMR_CAP, .FTMR_STAT]
  else if kind = U.field then
    [.TP_FRAME, .HGLB_HTCTL, .HGLB_HBSTAT, .FSYS_FPWR, .FSYS_SEAL, .FSYS_FFSTAT, .FBIST_FBREC]
  else if kind = U.link then [.DIEBR_LINK]
  else if kind = U.logic then [.SYSCTL_SEAL, .RNG_TSYNC, .RNG_THG]
  else []

/-- One field at the moment its owner is fenced (R11). -/
def State.onFenceFld (s : State) (die idx : Nat) (F : Fld) : State :=
  match F.fen with
  | .rst => s.clear F die idx
  | .safe => s.put F die idx F.safe
  | _ => s

/-- The fields of some registers at the moment their owner is fenced (R11). -/
def State.onFence (s : State) (regs : List Reg) (die idx : Nat) : State :=
  s.each regs fun s r => s.each r.fields fun s F => s.onFenceFld die idx F

/-- Return every field of some registers to its reset value. -/
def State.resetRegs (s : State) (regs : List Reg) (die idx : Nat) : State :=
  s.each regs fun s r => s.each r.fields fun s F => s.clear F die idx

/-! ### The log and the fence itself -/

/-- One entry in a die's fence log (R350). -/
def State.logFence (s : State) (die kind idx reason : Nat) : State :=
  let l := Store.get (fun _ => []) s.flog die
  let s1 : State :=
    { s with flog := Store.set (fun _ => []) s.flog die (keepNewest 64 ⟨s.tickOf die, die, kind, idx, reason⟩ l) }
  s1.on (decide (die < 2)) fun s => s.countWrap F.FENCE_FSTAT_LOGCNT die 0

/-- Raise the fence of a unit, without a log entry. -/
def State.fenceOn (s : State) (kind die idx reason : Nat) : State :=
  let f := s.fence kind die idx
  s.setFence kind die idx
    { on := true, reason := reason, tick := s.fenceTick, readmit := 0,
      sieveTicks := if reason = 6 then keepNewest 3 s.tick f.sieveTicks else f.sieveTicks,
      times := keepNewest 3 s.tick f.times }

/-- The reason codes of R349 that are not reserved. -/
def fenceReasons : List Nat :=
  [1, 2, 3, 4, 5, 6, 7, 8, 9, 0x0A, 0x0B, 0x0C, 0x0D, 0x10, 0x11, 0x12, 0x13, 0x14, 0x15, 0x16, 0x17, 0x18, 0x20, 0x21, 0x22,
   0x23, 0x24, 0x30]

/-- A reason that the spec leaves open: a free choice among the codes of R349 (log entry 4). -/
def State.freeReason (s : State) : Nat := fenceReasons.getD (s.freeBelow 28) 1

/-- End the fence of a unit. -/
def State.unfence (s : State) (kind die idx : Nat) : State :=
  let f := s.fence kind die idx
  s.setFence kind die idx { f with on := false, reason := 0, readmit := 0 }

/-! ### Jobs (R299, R301) -/

/-- A running job ends with its final status and result, one that ends OK with all of its work done; any other entry stays. -/
def State.endJob (s : State) (ld e fstatus result : Nat) : State :=
  let j := s.job ld e
  s.on (decide (j.state = 1)) fun s =>
    s.setJob ld e { j with state := 2, fstatus := fstatus, result := result, progress := if fstatus = 0 then 100 else j.progress }

/-- Final status ABORTED (R322). -/
abbrev stAborted : Nat := 0x010D

/-- Final status SOAK_TIMEOUT (R322). -/
abbrev stSoakTimeout : Nat := 0x010C

/-- Final status and answer SEALED. -/
abbrev stSealed : Nat := 0x0025

/-! ### Self-test of a fenced unit -/

/-- The LBIST engine of a unit kind and number (R403); 10 for a unit without one. -/
def bistEngine (kind idx : Nat) : Nat :=
  if kind = U.lane then idx else if kind = U.sv then 8 else if kind = U.engine then 9 else 10

/-- A run in progress is cut short with cause `acause`, and the engine re-initialises the unit (R406, R407). The MISR and
the pattern count of a run cut short are free values, and so is its pattern generator (log entry 4). -/
def State.cutBist (s : State) (ld e acause : Nat) : State :=
  s.on (s.get F.LBIST_STAT_STATE ld e == 1 || s.get F.LBIST_STAT_STATE ld e == 2) fun s =>
    let s1 := (s.put F.LBIST_STAT_STATE ld e 3).put F.LBIST_STAT_RESULT ld e 3
    let s2 := (s1.put F.LBIST_STAT_TOKEN ld e 0).put F.LBIST_STAT_ACAUSE ld e acause
    let s3 := (s2.put F.LBIST_MISR0_MISR ld e s.free).put F.LBIST_MISR1_MISR ld e (s.free / 2 ^ 32)
    ((s3.put F.LBIST_PDONE_PDONE ld e (s.free / 2 ^ 64)).setPrpg (16 * ld + e) (s.free / 2 ^ 85 % 2 ^ 64)).spend

/-- The jobs that wait for an engine end (R318): RESULT 0 PASS, 1 FAIL, 2 INCOMPLETE. -/
def State.bistJobEnd (s : State) (ld e fstatus result : Nat) : State :=
  let v := s.svst ld
  let s1 := s.each (v.bistJobs.filter fun j => j.1 == e) fun s j => s.endJob 0 j.2 fstatus result
  let w := s1.svst ld
  s1.setSv ld { w with bistJobs := w.bistJobs.filter fun j => j.1 != e }

/-- A fence of a lane, supervisor or ring engine clears its pass record, cuts a run short and ends its job ABORTED (R301, R407,
R409). -/
def State.bistFence (s : State) (die kind idx : Nat) : State :=
  let e := bistEngine kind idx
  let runs := s.get F.LBIST_STAT_STATE die e == 1 || s.get F.LBIST_STAT_STATE die e == 2
  s.on (decide (e < 10)) fun s =>
    ((s.put F.LBIST_REC_VALID die e 0).cutBist die e 2).on runs fun s => s.bistJobEnd die e stAborted 2

/-- Raise the fence of a unit with its log entry and the On-fence values of its fields. A unit already fenced keeps its fence, but
any fence voids its pass record and cuts a run short (R407, R409). -/
def State.raise (s : State) (kind die idx reason : Nat) : State :=
  (s.on (!s.fenced kind die idx) fun s =>
    ((s.fenceOn kind die idx reason).logFence die kind idx reason).onFence (unitRegs kind) die idx).bistFence die kind idx

/-! ### The soak that a fence ends (R301, R362) -/

/-- The changed and new instances of a configuration soak. -/
def Soak.newSide (k : Soak) : List InstRec := k.img.img.insts.filter fun r => k.changed.contains r.iid

/-- The new side of the soak returns to idle and the job ends. -/
def State.dropSoak (s : State) (fstatus result : Nat) : State :=
  match s.soak with
  | none => s
  | some k =>
    let s1 := ({ s with soak := none } : State).endJob k.ld k.job fstatus result
    s1.on (decide (k.kind = .migration)) fun s =>
      (s.put F.LANE_LCTL_SOAK k.newDie k.newIdx 0).put F.LANE_LCTL_RUN k.newDie k.newIdx 0

/-! ### Leases (R353 to R355, R75) -/

/-- The scratchpad priority of an owner code (R353, R378). -/
def codePri (code : Nat) : Nat :=
  if code ≤ 8 then code + 3 else if code = 9 then 12 else if code = 0x0A then 1 else if code = 0x0B then 2
  else if code ≤ 0x13 then code + 2 else 3

/-- A CRC unit returns to idle with its fields at their On-fence values, and its jobs end (R355, R301). -/
def State.idleCrc (s : State) (ld n : Nat) : State :=
  let s1 := (s.put F.FENCE_LEASE_OWNER ld n 0).onFence (unitRegs U.crc) ld n
  let s2 := s1.each ((s1.svst ld).crcJobs.filter fun j => j.1 == n) fun s j => s.endJob 0 j.2 stAborted 0
  let v := s2.svst ld
  s2.setSv ld { v with crcJobs := v.crcJobs.filter fun j => j.1 != n }

/-- The pending scratchpad accesses of a priority are discarded (R355). -/
def State.dropWaits (s : State) (ld pri : Nat) : State :=
  let m := s.spmSt ld
  s.setSpm ld { m with waits := m.waits.filter fun w => w.req.pri != pri }

/-- A scan engine returns to idle with its fields at their On-fence values and without its pending accesses (R355). -/
def State.idleScan (s : State) (ld n : Nat) : State :=
  ((s.put F.FENCE_LEASE_OWNER ld (n + 8) 0).onFence (unitRegs U.scan) ld n).dropWaits ld (codePri (0x0C + n))

/-- A shared unit (0 to 7 a CRC unit, 8 to 15 a scan engine) returns to idle. While the engine runs it holds the lease of its CRC
unit, and neither goes on without the other (R392). -/
def State.revokeUnit (s : State) (ld n : Nat) : State :=
  let k := n % 8
  let both := s.get F.FENCE_LEASE_OWNER ld k == 0x0C + k
  (s.on (both || decide (n < 8)) fun s => s.idleCrc ld k).on (both || decide (8 ≤ n)) fun s => s.idleScan ld k

/-- A timer returns to idle (R75): its fields at their On-fence values, no capture edge in flight; the fall of a logic timer's pin is
an edge of its event line (R64, R71). -/
def State.idleTimer (s : State) (die n : Nat) : State :=
  let s1 := (s.onFence (unitRegs (if die < 2 then U.ltimer else U.ftimer)) die n).setCapDue die n 0
  s1.on (decide (die < 2) && s.flag F.LTMR_STAT_PIN die n) fun s => s.eventEdge die n false

/-- Revoke every lease of an owner: CRC units and scan engines, logic timers, waiting scratchpad accesses and the master's
ROT bit (R355, R392, R75, R387). A debug halt leaves the timers (R74). -/
def State.revoke (s : State) (ld code : Nat) (keepTimers : Bool) : State :=
  let mine := (List.range 16).filter fun n => s.get F.FENCE_LEASE_OWNER ld n == code
  let s1 := s.each mine fun s n => s.revokeUnit ld n
  let timers := (List.range 32).filter fun n => !keepTimers && decide (code ≤ 9) && s.get F.LTMR_CTL_OWNER ld n == code
  let s2 := s1.each timers fun s n => s.idleTimer ld n
  let rot := s2.get F.SPM_MODE_ROT ld 0
  (s2.put F.SPM_MODE_ROT ld 0 (rot - (rot &&& 2 ^ (codePri code - 1)))).dropWaits ld (codePri code)

/-- The field timers of an owner code on a die return to idle (R75). -/
def State.revokeFieldOn (s : State) (fd code : Nat) : State :=
  s.each ((List.range 80).filter fun n => s.get F.FTMR_CTL_OWNER (fdie fd) n == code) fun s n =>
    s.idleTimer (fdie fd) n

/-- Field timers that the supervisor leases return to idle (R75). OWNER 0x1 names no die: on the CVSL-808 the fence of either
supervisor revokes them all (DESIGN CHOICE, log entry 29). -/
def State.revokeField (s : State) : State := s.each s.fds fun s fd => s.revokeFieldOn fd 1

/-! ### Instances -/

/-- Fence an instance on both channels; the die whose controller raises it logs it (R348, R350). The message to the other
channel's die is acted on in the cycle it arrives (log entry 14). -/
def State.fenceInst (s : State) (die iid reason : Nat) : State :=
  let s1 := s.on (!(s.instFencedP iid && s.instFencedH iid)) fun s => s.logFence die U.inst iid reason
  let s2 := s1.on (!s.instFencedP iid) fun s => s.fenceOn U.inst 0 iid reason
  s2.on (!s.instFencedH iid) fun s => s.fenceOn U.inst 1 iid reason

/-- An instance has moved to another lane or cell: its fences for reason 0x06 count no more against a clear (R352). -/
def State.movedInst (s : State) (iid : Nat) : State :=
  (s.setFence U.inst 0 iid { s.fence U.inst 0 iid with sieveTicks := [] }).setFence U.inst 1 iid
    { s.fence U.inst 1 iid with sieveTicks := [] }

/-- Set the tick edge at which a fenced instance is re-admitted on both channels (R352). -/
def State.setReadmit (s : State) (iid edge : Nat) : State :=
  let p := s.fence U.inst 0 iid
  let h := s.fence U.inst 1 iid
  let s1 := s.on p.on fun s => s.setFence U.inst 0 iid { p with readmit := edge }
  s1.on h.on fun s => s.setFence U.inst 1 iid { h with readmit := edge }

/-- Channel P starts an instance from its initial state in tick `t`, with no committed tick, its fault flags and its entries of the
output images clear (R89, R352): its sieve starts with the next window. -/
def State.startP (s0 : State) (r : InstRec) (t : Nat) : State :=
  let s := s0.each s0.lds fun s ld => s.putOut ld r 0
  let sv := s.svP (s.dieOf r) r.iid
  (s.setInst r.iid { PInst.zero with fs := Fn.init r.cfg t }).setSvP (s.dieOf r) r.iid { sv with from_ := t, lastOk := false }

/-- Channel H starts an instance from its initial state in H tick `t`, with its fault flags clear (R89). -/
def State.startH (s : State) (r : InstRec) (t : Nat) : State :=
  let c := s.cellOf r
  let sv := s.svH r.fdie c
  ((s.setCell r.fdie c { HCell.zero with fs := Fn.init r.cfg t }).put F.HC_HFLAG_FLAGS (fdie r.fdie) c 0).setSvH r.fdie c
    { sv with from_ := t, lastOk := false }

/-- Whether an instance fenced on channel P may be re-admitted now: its carrier lane and cell are not fenced and R342 does
not hold (R352). -/
def State.mayReadmit (s : State) (r : InstRec) : Bool :=
  let d := s.dieOf r
  !s.fenced U.lane d (s.phys d r.lane) && !s.fenced U.cell (fdie r.fdie) (s.cellOf r) && !s.heldUncommissioned &&
    !s.fenced U.field (fdie r.fdie) 0

/-! ### Scratchpad words (R375, R377, R382) -/

def spmBank (off : Nat) : Nat := off / 4 % 32

def spmRow (off : Nat) : Nat := off / 2 ^ 14 % 256

def spmSeg (off : Nat) : Nat := off / 2 ^ 20 % 4

/-- Whether the bank's row at an offset is fenced (R377). -/
def State.rowFenced (s : State) (ld off : Nat) : Bool :=
  s.flag F.SPM_FROW_FENCED ld (spmBank off) && s.get F.SPM_FROW_ROW ld (spmBank off) == spmRow off

/-- Whether the offset lies in a segment that is off or clearing (R382). -/
def State.segDown (s : State) (ld off : Nat) : Bool :=
  (2 * s.get F.SPM_PWR_OFF ld 0 ||| s.get F.SPM_PWR_CLEARING ld 0).testBit (spmSeg off)

/-- The kind of error that an access to an offset meets before its word is decoded: 0 none (R377, R382). -/
def State.accessKind (s : State) (ld off : Nat) : Nat :=
  if s.segDown ld off then 4 else if s.rowFenced ld off then 3 else 0

/-! ### Lanes -/

/-- Whether a trace entry is a staged write (R145). -/
def TraceEntry.staged (e : TraceEntry) : Bool := decide (e.type = 1) && (decide (e.cls = 1) || decide (4 ≤ e.cls))

/-- One staged write to the lane's state region, as a commit that is cut short performs it (R145, R157): a full word gets fresh check
bits, and nothing changes where the scratchpad refuses the access (R376, R377, R382). -/
def State.stateWrite (s : State) (ld : Nat) (e : TraceEntry) : State :=
  let off := e.addr % 2 ^ 28 - e.addr % 4
  s.on (decide (s.accessKind ld off = 0) && (decide (e.be = 15) || decide (s.eccClass ld off ≠ .uncorrectable))) fun s =>
    (s.each ((List.range 4).filter e.be.testBit) fun s k =>
      s.setByte (ld * 2 ^ 28 + off + k) (BitVec.ofNat 8 (bitsOf e.data (8 * k) 8))).setEcc ld off .good

/-- The comparator, core and pass of a lane stop and everything uncommitted is discarded. A commit in progress has performed
the first of its state-region writes, a free number of them (R157, log entry 4). -/
def State.haltLane (s : State) (ld l : Nat) : State :=
  let a := s.lane ld l
  let sts := a.trace.filter fun e => e.staged && decide (e.cls = 1)
  let s1 := s.on (decide (a.ph = .commit)) fun s =>
    (s.each (sts.take (s.freeBelow (sts.length + 1))) fun s e => s.stateWrite ld e).spend
  s1.setLane ld l { a with ph := .asleep, trace := [], qIdx := 0, ran := false, misNow := false }

/-- LCTL.RUN = 1 that gives a lane work, which voids its pass record (R161, R409). A lane whose W is 0 or whose patch sets
differ refuses it (R143, R161). -/
def State.startLane (s : State) (ld l : Nat) : State :=
  s.on (decide (s.get F.LANE_LWCET_W ld l ≠ 0) && s.idsEqual ld l) fun s =>
    (s.put F.LANE_LCTL_RUN ld l 1).put F.LBIST_REC_VALID ld l 0

/-- Map logical lane `n` to spare lane `l`: LWCET, CLKSEL and RUN follow, and its instances are re-admitted two edges on
(R365). -/
def State.remap (s : State) (ld n l : Nat) : State :=
  let old := s.phys ld n
  let s1 := s.put (fldLmap n) ld 0 l
  let s2 := s1.put F.LANE_LWCET_W ld l (s.get F.LANE_LWCET_W ld old)
  let s3 := s2.put F.LANE_LCTL_CLKSEL ld l (s.get F.LANE_LCTL_CLKSEL ld old)
  let s4 := s3.startLane ld l
  s4.each (s4.instsOf ld l) fun s r => (s.movedInst r.iid).setReadmit r.iid (s.tick + 2)

/-- Logical lane `n` of a fenced lane goes to the lowest-numbered spare lane, or waits (R365). -/
def State.moveLogical (s : State) (ld n : Nat) : State :=
  match s.lowestSpare ld with
  | some l => s.remap ld n l
  | none => s

/-- The image die of the logical lane `n` that die `ld` carries the instances of, if any. -/
def State.imageDie (s : State) (ld n : Nat) : Option Nat :=
  if !(s.logicalInsts ld n).isEmpty && !(s.stby ld n).swapped then some ld
  else if !(s.logicalInsts (1 - ld) n).isEmpty && (s.stby (1 - ld) n).swapped then some (1 - ld) else none

/-- The standby takes over the instances of logical lane `n`, and the two lanes swap their roles (R366). Its bits become live in the
tick that the fence belongs to: the bits of a tick whose latch point has passed stand (R193). The new standby starts with its lane, as an instance
moved under R365 does (DEDUCED, log entry 23); the sieve compares the window in progress with the signature that the new die has
so far (DESIGN CHOICE, log entry 167). -/
def State.takeover (s : State) (ild n : Nat) : State :=
  let st := s.stby ild n
  let s1 := s.setStby ild n (st.restart (!st.swapped) (s.fenceTick + 2))
  s1.each (s1.logicalInsts ild n) fun s r =>
    match st.shadow.lookup r.iid with
    | some fs =>
      let p := { s.inst r.iid with fs := fs, tick := s.tick + 1 }
      let s := s.movedInst r.iid
      if s.latched then s.setInst r.iid p
      else (s.setInst r.iid { p with bits := fs.bits, valid := fs.valid }).setBus r.iid s.tick ⟨fs.bits, fs.valid⟩
    | none => s

/-- What the fence of a lane does to the soak in progress (R362). The answer says whether the lane's instances stay. -/
def State.soakLane (s : State) (ld l : Nat) : State × Bool :=
  match s.soak with
  | some k =>
    if (k.kind = .migration ∧ k.newDie = ld ∧ k.newIdx = l) ∨
        (k.kind = .config ∧ k.newSide.any (fun r => decide (r.ldie = ld) && decide (s.phys ld r.lane = l)) = true) then
      (s.dropSoak stAborted 0, false)
    else if k.kind = .migration ∧ k.oldDie = ld ∧ k.oldIdx = l then
      if k.n ≤ k.runP then ({ s with soak := some { k with switchAt := s.tick + 1 } }, true)
      else (s, false)
    else (s, false)
  | none => (s, false)

/-- P-source of an output terminal. -/
def State.setSource (s : State) (fd t ld : Nat) : State :=
  let F' := if t < 32 then F.FSYS_PSRC0_SRC else F.FSYS_PSRC1_SRC
  let w := s.get F' (fdie fd) 0
  let b := 2 ^ (t % 32)
  s.put F' (fdie fd) 0 (if ld = 0 then w - (w &&& b) else w ||| b)

/-- The new side of a migration to the other die becomes the carrier of logical lane `n`: the two lanes swap their roles, the
P-sources follow at the next edge (R32), and the instances are re-admitted two edges on (R362, R364). -/
def State.carryAcross (s : State) (k : Soak) (n : Nat) : State :=
  let rs := s.instsOf k.oldDie k.oldIdx
  let ild := (s.imageDie k.oldDie n).getD k.oldDie
  let st := s.stby ild n
  let s1 := (s.put (fldLmap n) k.newDie 0 k.newIdx).setStby ild n
    { st.restart (!st.swapped) (s.fenceTick + 2) with moved := true }
  (s1.startLane k.newDie k.newIdx).each rs fun s r => (s.movedInst r.iid).setReadmit r.iid (s.tick + 2)

/-- The new side of a migration soak becomes the carrier of the fenced source's instances (R362). -/
def State.soakCarrier (s : State) (ld l n : Nat) : State :=
  match s.soak with
  | some k =>
    if k.kind = .migration ∧ k.oldDie = ld ∧ k.oldIdx = l then
      let s1 := (({ s with soak := none } : State).endJob k.ld k.job stAborted 0).put F.LANE_LCTL_SOAK k.newDie k.newIdx 0
      if k.newDie = ld then s1.remap ld n k.newIdx else (s1.carryAcross k n).moveLogical ld n
    else s.moveLogical ld n
  | none => s.moveLogical ld n

/-- The instances of logical lane `n` stop with their lane (R348) and move on (R362, R365). -/
def State.stopLogical (s : State) (ld l n : Nat) : State :=
  let s1 := s.each (s.instsOf ld l) fun s r => s.fenceInst ld r.iid 0x08
  s1.soakCarrier ld l n

/-- The image die of the logical lane that logical lane `n` of die `ld` stands by for, if any (R366). -/
def State.standbyOf (s : State) (ld n : Nat) : Option Nat :=
  [0, 1].find? fun ild => s.hasStandby ild n && decide ((if (s.stby ild n).swapped then ild else 1 - ild) = ld)

/-- What becomes of logical lane `n` when its lane is fenced: a ready standby takes over, else the instances stop (R348). A lane
that only stands by is no longer ready, and its logical lane moves all the same (R362, R365). -/
def State.loseLogical (s : State) (ld l n : Nat) : State :=
  match s.imageDie ld n with
  | some ild => if s.standbyReady ild n then (s.takeover ild n).moveLogical ld n else s.stopLogical ld l n
  | none =>
    match s.standbyOf ld n with
    | some ild =>
      let st := s.stby ild n
      (s.setStby ild n (st.restart st.swapped (s.fenceTick + 2))).moveLogical ld n
    | none => s

/-- A debug halt of a lane that is fenced already: the fence takes reason 0x02 (R425). -/
def State.haltFenced (s : State) (ld l : Nat) : State :=
  (s.logFence ld U.lane l 2).fenceOn U.lane ld l 2

/-- Fence a lane (R348, R355, R362, R365, R366). A fence of a lane that is fenced already voids its pass record (R409). -/
def State.fenceLane (s : State) (ld l reason : Nat) : State :=
  if s.fenced U.lane ld l then (s.on (decide (reason = 2)) fun s => s.haltFenced ld l).raise U.lane ld l reason
  else
    let logical := (List.range 8).filter fun n => s.phys ld n == l
    let s1 := ((s.raise U.lane ld l reason).haltLane ld l).revoke ld (1 + l) (decide (reason = 2))
    let k := s1.soakLane ld l
    if k.2 then k.1 else k.1.each logical fun s n => s.loseLogical ld l n

/-! ### Field-die units -/

/-- Whether a terminal is in mode OUT (R38). -/
def State.isOut (s : State) (fd t : Nat) : Bool := s.mode fd t == 2

/-- Both switches of a terminal go off, or the gate. After an OUT or GD terminal that was on, reversed detection is suppressed
(R53), and an off-pulse in progress is not judged (R54, R56). -/
def State.switchOff (s : State) (fd t : Nat) : State :=
  let d := fdie fd
  let x := s.term fd t
  let was := s.flag F.TERM_HSTAT_PENA d t && s.flag F.TERM_HSTAT_HENA d t
  let cut := !s.flag F.FTMR_STAT_PIN d t
  ((s.put F.TERM_HSTAT_PENA d t 0).put F.TERM_HSTAT_HENA d t 0).setTerm fd t
    { x with supp := x.supp || was, p := { x.p with due := x.p.due && !cut }, h := { x.h with due := x.h.due && !cut } }

/-- SHORT_VF or STUCK_ON of an output: the instances that drive or read the terminal go to the safe state (R62, R356). -/
def State.outFault (s : State) (fd t reason : Nat) : State :=
  (s.setTerm fd t { s.term fd t with bad := true }).each
    (s.image.img.insts.filter fun r => decide (r.fdie = fd) && r.tslot.contains t) fun s r => s.fenceInst (fdie fd) r.iid reason

/-- Fence a terminal (R60): switches, gate and source go off and the image word reads fenced. -/
def State.raiseTerm (s : State) (fd t reason : Nat) : State :=
  let d := fdie fd
  let img := s.get F.TERM_PIMG_IMG d t
  let s1 := ((s.fenceOn U.term d t reason).logFence d U.term (64 * fd + t) reason).switchOff fd t
  let s2 := ((s1.onFence (unitRegs U.term) d t).put F.TERM_PIMG_IMG d t (img % 2 ^ 30 + 2 ^ 30)).put F.TERM_FCTL_FREASON d t reason
  s2.setTerm fd t { s2.term fd t with clean := 0, clrReq := false, bad := false }

/-- A fault fences a terminal. On an output, SHORT_VF and STUCK_ON also stop the instances, beside or after another reason
too (R62). -/
def State.fenceTerm (s : State) (fd t reason : Nat) : State :=
  (s.on (!s.fenced U.term (fdie fd) t) fun s => s.raiseTerm fd t reason).on
    (s.isOut fd t && (decide (reason = 0x11) || decide (reason = 0x12))) fun s => s.outFault fd t reason

/-- The bit of CELLFEN that names cell `c`, and NCELLF (R374). -/
def State.markCell (s : State) (fd c : Nat) (b : Bool) : State :=
  let d := fdie fd
  let w := s.get F.FSYS_CELLFEN_FEN d (c / 32)
  let w' := if b then w ||| 2 ^ (c % 32) else w - (w &&& 2 ^ (c % 32))
  let s1 := s.put F.FSYS_CELLFEN_FEN d (c / 32) w'
  s1.put F.FSYS_FFSTAT_NCELLF d 0 ((List.range 144).countP fun k => s1.fenced U.cell d k)

/-- The instance that a physical cell carries in the running image. -/
def State.instAt (s : State) (fd c : Nat) : Option InstRec :=
  s.image.img.insts.find? fun r => decide (r.fdie = fd) && decide (s.cellOf r = c)

/-! ### H-cells that change places (R370) -/

/-- CMAP gives image cell `c` the physical cell `p`; an image cell that named `p` takes the one that `c` leaves, so that the
map stays one to one. -/
def State.mapCell (s : State) (fd c p : Nat) : State :=
  let old := s.cmap fd c
  let putMap (s : State) (k v : Nat) : State := s.put (fldCmap (k % 4)) (fdie fd) (k / 4) v
  let s1 := match (List.range 128).find? fun k => decide (k ≠ c) && s.cmap fd k == p with
    | some k => putMap s k old
    | none => s
  putMap s1 c p

/-- The registers of an HCELL block that a swap copies (R370). -/
def hcRegs : List Reg := [.HC_HCFG, .HC_TSEL0, .HC_TSEL1, .HC_PAR0, .HC_PAR1, .HC_PAR2, .HC_PAR3, .HC_RST, .HC_HIID]

/-- Copy the HCELL block and the link-matrix row of a cell to another, which stays inactive. -/
def State.copyCell (s : State) (fd a b : Nat) : State :=
  let d := fdie fd
  let s1 := s.each hcRegs fun s r => s.each r.fields fun s f => s.put f d b (s.get f d a)
  let s2 := s1.put F.HC_HCFG_ACTIVE d b 0
  s2.each (List.range 96) fun s w => s.put F.LMR_W d (96 * b + w) (s.get F.LMR_W d (96 * a + w))

/-- An old cell carries nothing any more. ACTIVE of a fenced cell is locked (R11). -/
def State.dropCell (s : State) (fd c : Nat) : State :=
  ((s.on (!s.fenced U.cell (fdie fd) c && !s.fenced U.field (fdie fd) 0) fun s => s.put F.HC_HCFG_ACTIVE (fdie fd) c 0).setCell fd c
    HCell.zero).put F.HC_HSTAT_DBITS (fdie fd) c 0

/-- What the fence of a cell does to a cell swap in progress (R362); the answer says whether the instance stays. -/
def State.soakCell (s : State) (fd c : Nat) : State × Bool :=
  match s.soak with
  | some k =>
    if (k.kind = .cellSwap ∧ k.newDie = fd ∧ k.newIdx = c) ∨
        (k.kind = .config ∧ k.newSide.any (fun r => decide (r.fdie = fd) && k.cells.contains (r.iid, c)) = true) then
      (s.dropSoak stAborted 0, false)
    else if k.kind = .cellSwap ∧ k.oldDie = fd ∧ k.oldIdx = c ∧ k.n ≤ k.runH then
      ({ s with soak := some { k with switchAt := s.tick + 1 } }, true)
    else (s, false)
  | none => (s, false)

/-- The H-cell that the running image names for a field timer, by its image number plus 1 (0: none; R73). The spec does not
say where the image names it (log entry 30). -/
def State.timerCell (s : State) (fd n : Nat) : Nat := Config.timerCell s.image.hash fd n

/-- The timers leased for the cell `c` of channel H return to idle (R75). -/
def State.revokeCellTimers (s : State) (fd c : Nat) : State :=
  s.each ((List.range 80).filter fun n => s.get F.FTMR_CTL_OWNER (fdie fd) n == 2 && decide (s.timerCell fd n ≠ 0) &&
      s.cmap fd (s.timerCell fd n - 1) == c) fun s n => s.idleTimer (fdie fd) n

/-- The target of a cell swap becomes the carrier of the fenced source's instance, which is re-admitted two edges on (R362). -/
def State.cellCarrier (s : State) (fd c : Nat) (r : InstRec) : State :=
  match s.soak with
  | some k =>
    s.on (decide (k.kind = .cellSwap) && decide (k.oldDie = fd) && decide (k.oldIdx = c)) fun s =>
      let s1 := (({ s with soak := none } : State).endJob k.ld k.job stAborted 0).on (decide (s.tick < k.start)) fun s =>
        s.copyCell fd c k.newIdx
      (((s1.mapCell fd r.cell k.newIdx).dropCell fd c).put F.HC_HCFG_ACTIVE (fdie fd) k.newIdx 1).movedInst r.iid
        |>.setReadmit r.iid (s.tick + 2)
  | none => s

/-- Fence an H-cell (R348). -/
def State.fenceCell (s : State) (fd c reason : Nat) : State :=
  s.on (!s.fenced U.cell (fdie fd) c) fun s =>
    let s1 := (s.raise U.cell (fdie fd) c reason).markCell fd c true
    let k := (s1.revokeCellTimers fd c).soakCell fd c
    if k.2 then k.1
    else match k.1.instAt fd c with
      | some r => (k.1.fenceInst (fdie fd) r.iid 0x09).cellCarrier fd c r
      | none => k.1

/-- Fence a timer of either kind of die (R348, R75). -/
def State.fenceTimer (s : State) (die n reason : Nat) : State :=
  s.on (!s.fenced (if die < 2 then U.ltimer else U.ftimer) die n) fun s =>
    (s.idleTimer die n).raise (if die < 2 then U.ltimer else U.ftimer) die n reason

/-- The terminals of a field die go off (R40, R348). -/
def State.termsOff (s : State) (fd : Nat) : State := s.each (List.range 64) fun s t => s.switchOff fd t

/-- The fence of a field die ends a soak that has its new side there (R362). -/
def State.soakField (s : State) (fd : Nat) : State :=
  match s.soak with
  | some k =>
    s.on ((decide (k.kind = .cellSwap) && decide (k.newDie = fd)) ||
        (decide (k.kind = .config) && k.newSide.any fun r => decide (r.fdie = fd))) fun s => s.dropSoak stAborted 0
  | none => s

/-- A field die's test in progress is cut short: it is INCOMPLETE and carries no token (R407, R412). -/
def State.cutFbist (s : State) (fd : Nat) : State :=
  s.on (s.field fd).fbist fun s =>
    ((s.put F.FBIST_FBSTAT_TOKEN (fdie fd) 0 0).put F.FBIST_FBSTAT_RESULT (fdie fd) 0 3).setField fd { s.field fd with fbist := false }

/-- A field of the seal register of a die: SYSCTL.SEAL or FSYS.SEAL (R344). -/
def sealFld (die lo w : Nat) (fen : OnFence) : Fld :=
  ⟨if die < 2 then .SYSCTL_SEAL else .FSYS_SEAL, lo, w, .ro, 0, fen, 0⟩

/-- Whether a gate that closes now still stops the soak in progress (R301, R343, R361): a commit until L0 announces its edge in the tick
before it, a migration or swap until its edge. One whose fenced source leaves the switchover alone to carry on the instances
runs to it (R362; DEDUCED). -/
def State.sealStops (s : State) (k : Soak) : Bool :=
  decide (k.switchAt = 0) ||
    match k.kind with
    | .config => decide (s.tick + 1 < k.switchAt)
    | .migration => !s.fenced U.lane k.oldDie k.oldIdx
    | .cellSwap => !s.fenced U.cell (fdie k.oldDie) k.oldIdx

/-- The gate of L0 has closed: open configuration transfers are void, and a commit, migration or swap that has not begun
its switchover ends SEALED (R301, R343, R362). -/
def State.gateClosed (s : State) : State :=
  let s1 : State := { s with xferC := Transfer.zero }
  match s1.soak with
  | some k => if s1.sealStops k then s1.dropSoak stSealed 0 else s1
  | none => s1

/-- A die's gate has fallen: the dies whose register has CLOSES count it (R344), and L0's stops what needs it. -/
def State.gateFell (s : State) (die : Nat) : State :=
  (s.on (decide (die = 0) || decide (die = 2)) fun s => s.count (sealFld die 24 8 .hold) die 0).on (decide (die = 0)) State.gateClosed

/-- Fence a field die (R348): terminals off, the cells' bits 0, its instances stopped with reason 0x09. Its test-pulse engine
and channel H stop with it and lose their timers (R75, R84), and a test of the die is cut short. -/
def State.fenceField (s : State) (fd reason : Nat) : State :=
  (s.cutFbist fd).on (!s.fenced U.field (fdie fd) 0) fun s =>
    let s1 := ((s.raise U.field (fdie fd) 0 reason).soakField fd).put F.FSYS_FFSTAT_REASON (fdie fd) 0 reason
    let sg := s1.on (s.gate (fdie fd)) fun s => s.gateFell (fdie fd)
    let s2 := (((sg.termsOff fd).revokeFieldOn fd 2).revokeFieldOn fd 3).each (List.range 144) fun s c =>
      s.put F.HC_HSTAT_DBITS (fdie fd) c 0
    let via := s2.image.img.insts.filter fun r => r.fdie == fd && !s2.instFencedH r.iid
    let s3 := s2.setField fd { s2.field fd with viaDie := via.map InstRec.iid }
    s3.each via fun s r => s.fenceInst (fdie fd) r.iid 0x09

/-! ### Supervisors and mailbox servers (R284) -/

/-- Whether the supervisor of a die can serve. -/
def State.svUp (s : State) (ld : Nat) : Bool :=
  let v := s.svst ld
  s.hasLd ld && !v.restarting && !v.halted && !s.fenced U.sv ld 0 && !s.fenced U.logic ld 0

/-- The code of the server of a mailbox (R284): the own supervisor, the other one for MB0 to MB6, else the warden. -/
def State.serverOf (s : State) (ld mb : Nat) : Nat :=
  if s.svUp ld then ld + 1 else if s.svUp (1 - ld) && decide (mb < 7) then 2 - ld else 0

/-- The fence controller moves the server leases of every mailbox (R284). -/
def State.moveLeases (s : State) : State :=
  s.each s.lds fun s ld => s.each (List.range 8) fun s mb => s.put F.MB_MBCTL_SERVER ld mb (s.serverOf ld mb)

/-- Whether the soak of a job goes on without the supervisor that started it: a migration or swap whose soak has begun, a commit
whose switchover has begun (R301). -/
def State.soakGoesOn (s : State) (k : Soak) : Bool :=
  decide (k.switchAt ≠ 0) || (decide (k.kind ≠ .config) && decide (k.start ≤ s.tick))

/-- The job of one entry ends ABORTED: its units of either logic die return to idle, a self-test that it runs is cut short by the end
of its lease, its soak is dropped (R301, R355). A part without such a unit has no such job. -/
def State.abortJob (s : State) (ld e : Nat) : State :=
  let k := 8 * ld + e
  let s1 := s.each s.lds fun s d => s.each ((s.svst d).crcJobs.filter fun j => j.2 == k) fun s j =>
    (s.revokeUnit d j.1).revokeUnit d (j.1 + 8)
  let s2 := s1.each s1.lds fun s d => s.each ((s.svst d).bistJobs.filter fun j => j.2 == k) fun s j =>
    let v := s.svst d
    (s.cutBist d j.1 1).setSv d { v with bistJobs := v.bistJobs.filter fun x => x.2 != k }
  let s3 := match s2.soak with
    | some x => if x.ld = ld ∧ x.job = e then s2.dropSoak stAborted 0 else s2
    | none => s2
  s3.endJob ld e stAborted 0

/-- The jobs that a supervisor started end ABORTED, but for those that go on without it (R301). -/
def State.abortJobs (s : State) (sv : Nat) : State :=
  let kept (ld e : Nat) : Bool := match s.soak with
    | some k => decide (k.ld = ld) && decide (k.job = e) && s.soakGoesOn k
    | none => false
  s.each (s.lds.flatMap fun ld => (List.range 8).map fun e => (ld, e)) fun s x =>
    s.on (decide ((s.job x.1 x.2).state = 1) && decide ((s.job x.1 x.2).sv = sv) && !kept x.1 x.2) fun s => s.abortJob x.1 x.2

/-- A supervisor stops serving: leases revoked, jobs ended, servers moved (R348, R355, R301, R284). -/
def State.stopSv (s : State) (ld : Nat) : State :=
  (((s.revoke ld 9 false).revokeField).abortJobs ld).moveLeases

/-- Fence a supervisor; it restarts at once, but a third fence within one hour leaves it fenced (R348, R352). WDREM reads 0
while it is fenced (R373). -/
def State.fenceSv (s : State) (ld reason : Nat) : State :=
  if s.fenced U.sv ld 0 then s.raise U.sv ld 0 reason
  else
    let s1 := s.raise U.sv ld 0 reason
    let times := (s1.fence U.sv ld 0).times
    let dead := decide (3 ≤ times.length) && times.all fun t => decide ((s.tick - t) * s.tickUs < 3600000000)
    let v := s1.svst ld
    ((s1.setSv ld { v with restarting := !dead, dead := v.dead || dead }).put F.FENCE_SVKICK_WDREM ld 0 0).stopSv ld

/-! ### Ring units, links and logic dies -/

/-- Fence a port: its transmitter goes idle, so all that rests on its link ends, the delay samples among it (R207, R255); its leases
are revoked (R355). -/
def State.fencePort (s : State) (ld p reason : Nat) : State :=
  s.on (!s.fenced U.port ld p) fun s =>
    let s1 := s.on (!s.flag F.RNG_WRAP_WRAP ld p) fun s => s.count F.RNG_WRAP_WRAPS ld p
    ((s1.raise U.port ld p reason).revoke ld (0x0A + p) true).setPort ld p { s.port ld p with samples := [], odd := [], reqOut := false, page := 0 }

/-- Fence a ring engine: both ports of its ring (R348). In Run the turn timer holds over (R191). -/
def State.fenceEngine (s : State) (ld reason : Nat) : State :=
  if s.fenced U.engine ld 0 then s.raise U.engine ld 0 reason
  else
    let s1 := ((s.raise U.engine ld 0 reason).fencePort ld 0 reason).fencePort ld 1 reason
    s1.on s1.inRun fun s => s.put F.TICK_TSTAT_HOLDOVER ld 0 1

/-- Fence a die-bridge link: `k` 0 to 5 for DBL2 to DBL7, 6 for DBLL (R348). It keeps checking in monitor mode (R352). What the
other logic die holds or waits for over DBLL ends (R355). -/
def State.fenceLink (s : State) (ld k reason : Nat) : State :=
  s.on (!s.fenced U.link ld k) fun s =>
    ((s.raise U.link ld k reason).putB F.DIEBR_LINK_MONITOR ld k true).on (decide (k = 6)) fun s => s.revoke ld 0x14 true

/-- The attempt in progress ends; the altered bank is restored, so no word changes (R383, R384). -/
def State.tillerIdle (s : State) (ld : Nat) : State :=
  let m := s.spmSt ld
  ((s.setSpm ld { m with busy := false, prog := 0, saved := 0, waits := m.waits.map fun w => { w with stuck := false } }).put F.SPM_TSTAT_PHASE ld 0 0).put F.SPM_TSTAT_HOLD ld 0 0

/-- Fence a logic die (R348): its lanes, supervisor, ring engine and links; the tiller's attempt ends (R385). The die that finds it lost logs it (R356). -/
def State.fenceLogic (s : State) (ld reason : Nat) : State :=
  s.on (!s.fenced U.logic ld 0) fun s =>
    let by_ := if reason = 0x24 then 1 - ld else ld
    let sg := (s.fenceOn U.logic ld 0 reason).logFence by_ U.logic 0 reason
    let s0 := (sg.onFence (unitRegs U.logic) ld 0).on (sg.gate ld) fun s => s.gateFell ld
    let s1 := s0.each (List.range 8) fun s n => s.onFence [.SYSCTL_VMAC] ld n
    let s2 := s1.each (List.range 8) fun s l => s.fenceLane ld l reason
    let s3 := (s2.fenceSv ld reason).fenceEngine ld reason
    let v := s3.svst ld
    ((s3.setSv ld { v with restarting := false, dead := true }).tillerIdle ld).each (List.range 7) fun s k => s.fenceLink ld k reason

/-! ### Clearing (R352) -/

/-- A cleared lane is spare and takes up the lowest-numbered waiting logical lane (R365). -/
def State.clearLane (s : State) (ld l : Nat) : State :=
  let waits := (List.range 8).filter fun n =>
    s.logicalUsed ld n && (decide (s.phys ld n = l) || s.fenced U.lane ld (s.phys ld n))
  let s1 := (s.unfence U.lane ld l).put F.LANE_LSTAT_PHASE ld l 0
  match waits.head? with
  | some n => s1.remap ld n l
  | none => s1

/-- Whether a lane's fence may be cleared: a BIST pass record dated after the fence (R34), and for reason 0x02 the core
released (R425). -/
def State.laneClearOk (s : State) (ld l : Nat) : Bool :=
  let f := s.fence U.lane ld l
  f.on && s.flag F.LBIST_REC_VALID ld l && (decide (f.reason ≠ 2) || !(s.lane ld l).halted)

/-- Whether an instance's fence may be cleared by FENCE_CTL (R352): not after three fences for reason 0x06 within 65,536 ticks, until a
move. -/
def State.instClearOk (s : State) (iid : Nat) : Bool :=
  let f := s.fence U.inst 0 iid
  match s.recOf iid with
  | none => false
  | some r =>
    let thrice := decide (3 ≤ f.sieveTicks.length) && f.sieveTicks.all fun t => decide (f.sieveTicks.headD 0 - t < 65536)
    (f.on || s.instFencedH iid) && decide (f.tick + 16 ≤ s.tick) && s.mayReadmit r && !(decide (f.reason = 6) && thrice)

/-- Clear an instance: it is re-admitted at the next edge (R352). -/
def State.clearInst (s : State) (iid : Nat) : State := s.setReadmit iid (s.tick + 1)

/-- A link may be cleared when its last 64 transfers of each window were valid (R352). -/
def State.linkClearOk (s : State) (ld k : Nat) : Bool :=
  s.fenced U.link ld k && decide (64 ≤ s.get F.DIEBR_LINK_OKRUN ld k)

def State.clearLink (s : State) (ld k : Nat) : State :=
  ((s.unfence U.link ld k).put F.DIEBR_LINK_FENCED ld k 0).put F.DIEBR_LINK_MONITOR ld k 0

/-- A sense path without history at a voltage code (R504): open, with the hysteresis applied from there. -/
def State.pathStart (s : State) (fd t code : Nat) : SensePath :=
  { SensePath.zero with code := code, last := code, level := s.levelOf fd t code false }

/-- Both sense paths of a terminal start without history (R504). -/
def State.senseStart (s : State) (fd t : Nat) : State :=
  let x := s.term fd t
  let s1 := s.setTerm fd t
    { x with p := s.pathStart fd t x.p.code, h := s.pathStart fd t x.h.code, pf := Filt.zero, hf := Filt.zero }
  (s1.setPRead 0 fd t PRead.zero).setPRead 1 fd t PRead.zero

/-- A cleared terminal; both sense paths start without history (R61, R504). FREASON keeps the latest fence's code (R63). -/
def State.clearTerm (s : State) (fd t : Nat) : State :=
  let s1 := ((s.unfence U.term (fdie fd) t).put F.TERM_FCTL_FENCED (fdie fd) t 0).senseStart fd t
  let x := s1.term fd t
  s1.setTerm fd t
    { x with clrReq := false, bad := false, vfP := 0, vfH := 0, stuckP := 0, stuckH := 0, sg := 0, olOn := 0, olOff := 0, pend := 0 }

def State.clearCell (s : State) (fd c : Nat) : State :=
  ((s.unfence U.cell (fdie fd) c).put F.HC_HSTAT_FENCED (fdie fd) c 0).markCell fd c false

/-- A cleared port rejoins by its own rules (R352, R207, R247): ANDONE follows ANEN, LISTEN the engine's state (R231, R255). -/
def State.clearPort (s : State) (ld p : Nat) : State :=
  let s1 := (s.unfence U.port ld p).putB F.RNG_PSTAT_ANDONE ld p (!s.flag F.RNG_PCFG_ANEN ld p)
  s1.putB F.RNG_TXSTAT_LISTEN ld p (s.get F.RNG_TSYNC_STATE ld 0 == 6)

def State.clearEngine (s : State) (ld : Nat) : State :=
  ((s.unfence U.engine ld 0).clearPort ld 0).clearPort ld 1

/-! ### The part's pins (R454 to R456) -/

/-- Whether a fenced OUT terminal has shown SHORT_VF or STUCK_ON (R62). -/
def State.termFault (s : State) : Bool :=
  s.fds.any fun fd => (List.range 64).any fun t => s.fenced U.term (fdie fd) t && (s.term fd t).bad && s.isOut fd t

/-- Whether a clock fault of R449 that asserts FAULT_N stands: every row but AON, and TX only where the ring is enabled. -/
def State.clockFault (s : State) : Bool :=
  s.part.spll0 || s.part.spll1 || (s.part.tx0 && s.flag F.RNG_RINGCFG_ENABLE 0 0) ||
    (s.part.tx1 && s.flag F.RNG_RINGCFG_ENABLE 1 0) ||
    s.lds.any (fun ld => s.flag F.CLKPWR_CLKSTAT_LPLLON ld 0 && !s.flag F.CLKPWR_CLKSTAT_LPLLLK ld 0 ||
      (List.range 7).any fun k => s.flag F.DIEBR_LINK_ABSLAST ld k) ||
    s.fds.any (fun fd => s.flag F.FSYS_FPWR_HCLKSTOP (fdie fd) 0 || s.flag F.FSYS_FPWR_FAONFAIL (fdie fd) 0)

/-- FLTSRC.SRC: the sources of FAULT_N in the order of R456. -/
def State.fltSrc (s : State) : Nat :=
  packBits
    [((s.fences.any fun e => e.2.on && decide (e.2.reason ≠ 1) && decide (e.2.reason ≠ 2)).toNat, 1),
     (s.termFault.toNat, 1),
     ([0, 2].any (fun d => decide (20 ≤ (s.sealSt d).invA) || decide (20 ≤ (s.sealSt d).invB)) |>.toNat, 1),
     (s.lds.any (fun ld => s.flag F.SPM_ECCSTAT_REPFULL ld 0) |>.toNat, 1),
     (s.lds.any (fun ld => s.flag F.OTP_OMSTAT_UECNT ld 0 || s.flag F.PATCH_PSTAT_NSKIP ld 0) |>.toNat, 1),
     (s.clockFault.toNat, 1),
     (s.part.vio.toNat, 1),
     (s.fds.any (fun fd => (s.field fd).vfSafe || s.flag F.FSYS_FPWR_DIE_OVERLOAD (fdie fd) 0) |>.toNat, 1)]

/-- Whether SAFE_N is driven low (R455). -/
def State.safeLow (s : State) : Bool :=
  s.partSafe || s.part.porst || !s.inRun || s.part.noconfig || decide (s.lc = 0) ||
    decide (s.lc = 3) || decide (2 ≤ s.part.shut) || s.part.tapSafe || s.termFault

end Sys2Proof.Machine
end

