-- ==== Sys2Proof/Machine/Seal.lean ====
section
/-!
DEFINITION. Seal readers, seal messages and the RWL gates (R338 to R343).
-/

namespace Sys2Proof.Machine

/-- Whether a seal message is of the present or the previous tick of the die (R340). -/
def State.sealFresh (s : State) (die since : Nat) : Bool := decide (since ≠ 0) && decide (s.tickOf die ≤ since)

/-- L0's reading as the gate of `die` uses it (R340). -/
def State.readingL0 (s : State) (die : Nat) : Bool :=
  let x := s.sealSt die
  if die = 0 then x.own else x.l0 && s.sealFresh die x.l0Tick

/-- F0's reading as the gate of `die` uses it (R340). -/
def State.readingF0 (s : State) (die : Nat) : Bool :=
  let x := s.sealSt die
  if die = 2 then x.own else x.f0 && s.sealFresh die x.f0Tick

/-- Recompute the gate of one die (R340). -/
def State.setGate (s : State) (die : Nat) : State :=
  let was := s.gate die
  let fenced := if die < 2 then s.fenced U.logic die 0 else s.fenced U.field die 0
  let now := s.readingL0 die && s.readingF0 die && !fenced
  let other := if die = 0 then s.readingF0 0 else if die = 2 then s.readingL0 2 else false
  let s1 := s.putB (sealFld die 8 1 .safe) die 0 now
  let s2 := s1.putB (sealFld die 5 1 .safe) die 0 (other && !fenced)
  s2.on (was && !now) fun s => s.gateFell die

/-- The present dies. -/
def State.dies (s : State) : List Nat := (List.range 8).filter s.hasDie

/-- Recompute every gate, as messages age at a tick edge. -/
def State.setGates (s : State) : State := s.each s.dies State.setGate

/-- SEAL_SAMPLE (R339): one sample of both pairs by L0's or F0's reader. While the die is fenced OPENRUN stays 0 (R11,
R344). -/
def State.sealSample (s : State) (die : Nat) (a an b bn : Bool) : State :=
  let x := s.sealSt die
  let fenced := if die < 2 then s.fenced U.logic die 0 else s.fenced U.field die 0
  let bothOpen := a && !an && b && !bn
  let run := if bothOpen && !fenced then min (s.get (sealFld die 16 8 .rst) die 0 + 1) 20 else 0
  let own := decide (20 ≤ run) && !fenced
  let invA := if a == an then x.invA + 1 else 0
  let invB := if b == bn then x.invB + 1 else 0
  let s1 := s.put (sealFld die 0 2 .hold) die 0 (2 * a.toNat + an.toNat)
  let s2 := s1.put (sealFld die 2 2 .hold) die 0 (2 * b.toNat + bn.toNat)
  let s3 := (s2.put (sealFld die 16 8 .rst) die 0 run).putB (sealFld die 4 1 .safe) die 0 own
  let s4 := s3.on (decide (20 ≤ invA) || decide (20 ≤ invB)) fun s => s.put (sealFld die 7 1 .hold) die 0 1
  (s4.setSeal die { x with invA := invA, invB := invB, own := own }).setGate die

/-- The meaning of SEAL_SAMPLE. -/
def execSealSample (f0 a an b bn : Bool) (s : State) : Answer :=
  s.answer true true (s.sealSample (if f0 then 2 else 0) a an b bn)

/-- A reader's reading as taken at its tick edge, which it sends in the tick (R340). -/
def State.sealTake (s : State) (die : Nat) : State := s.setSeal die { s.sealSt die with edge := (s.sealSt die).own }

/-- The reading that a reader sends: that of its tick edge; where no tick runs, the one it has (DEDUCED). -/
def State.sealSent (s : State) (die : Nat) : Bool := if s.inRun then (s.sealSt die).edge else (s.sealSt die).own

/-- The reading in a message to a die: L0's or F0's own, and to any other die than L0 the reading of F0 that L0 relays, where L0 holds
one that is current (R340); the die's links to L0 must carry it. -/
def State.sealContent (s : State) (die : Nat) (fromF0 : Bool) : Option Bool :=
  let link (d : Nat) : Bool := !s.fenced U.link 0 (if d < 2 then 6 else d - 2)
  if die = 0 then (if fromF0 && link 2 && (s.field 0).power then some (s.sealSent 2) else none)
  else if !link die then none
  else if !fromF0 then some (s.sealSent 0)
  else if s.sealFresh 0 (s.sealSt 0).f0Tick then some (s.sealSt 0).f0 else none

/-- Whether the window of the bridges in which seal messages run is open: from the 5 % point to the latch point in Run (R20, R340). -/
def State.sealWindow (s : State) : Bool :=
  !s.inRun || (decide (s.pointPos 5 ≤ s.get F.TICK_TPOS_POS 0 0) && !s.latched)

/-- SEAL_MESSAGE (R340): a message completes at a die; one that fails the checks of R21 or completes outside its window is absent. -/
def State.sealMessage (s : State) (die : Nat) (fromF0 : Bool) (x : Transit) : State :=
  s.on s.sealWindow fun s =>
  let y := s.sealSt die
  let now := s.tickOf die
  match (s.sealContent die fromF0).bind fun b => x.receive now (s.tickOf (if die = 0 then 2 else 0)) [BitVec.ofNat 8 b.toNat] with
  | none => s
  | some bs =>
    let b := bs.headD 0 != 0
    let z := if fromF0 then { y with f0 := b, f0Tick := now + 1 } else { y with l0 := b, l0Tick := now + 1 }
    (s.setSeal die z).setGate die

/-- The meaning of SEAL_MESSAGE: the operands say which bits arrive inverted, and whether the message is complete. -/
def execSealMessage (die : Nat) (fromF0 : Bool) (tick : Nat) (flips : List (Nat × Nat)) (complete : Bool) (s : State) : Answer :=
  s.answer (s.hasDie die) (decide (die ≠ 2) || !fromF0) (s.sealMessage die fromF0 (Transit.parts tick flips complete))

end Sys2Proof.Machine
end

