-- ==== Sys2Proof/Machine/Operands.lean ====
section
/-!
DEFINITION. Operand forms: device addresses and how a die's map decodes them (R18, R19, R478, R482, R483), the word a
register reads as, the access error log (R486), and the masters that may write (R490).
-/

namespace Sys2Proof

/-! ### Masters -/

/-- SV0 or SV1 (R490). -/
def Master.isSv (m : Master) : Bool := decide (m.code = 9)

/-- The supervisor of die `ld`. -/
def Master.isSvOf (m : Master) (ld : Nat) : Bool := decide (m.code = 9) && decide (m.die = ld)

/-- The host port and the debug port as clients of mailboxes: R353 gives them no code, and these two are the model's (log
entry 21). -/
def Master.host : Master := ⟨0, 0x20⟩
def Master.debug : Master := ⟨0, 0x21⟩

/-- A port of the ring engine of a logic die (R353). -/
def Master.ring (ld p : Nat) : Master := ⟨ld, 0x0A + p⟩

/-- The supervisor of a logic die. -/
def Master.sv (ld : Nat) : Master := ⟨ld, 9⟩

/-- Whether the master is the lane that a unit kind and number of die `ld` name (R34, R353). -/
def Master.isLane (m : Master) (ld kind idx : Nat) : Bool :=
  decide (m.die = ld) && decide (kind = 1) && decide (m.code = idx + 1) && decide (idx < 8)

/-- A master as a number, for the latch of R203. -/
def Master.key (m : Master) : Nat := 64 * m.die + m.code

end Sys2Proof

namespace Sys2Proof.Machine

/-! ### Addresses -/

/-- The device address of copy `idx` of a register on a die (R18). -/
def regAddr (r : Reg) (die idx : Nat) : Nat := die * 2 ^ 28 + r.place.off + r.place.stride * idx

/-- Which copy of a register stands at an offset, if one does. -/
def Reg.copyAt (r : Reg) (off : Nat) : Option Nat :=
  let p := r.place
  if off < p.off then none
  else if p.stride = 0 then (if off = p.off then some 0 else none)
  else if (off - p.off) % p.stride = 0 ∧ (off - p.off) / p.stride < p.count then some ((off - p.off) / p.stride) else none

/-- Registers that exist on L0 only (R295, R427, R428, R457). -/
def Reg.onlyL0 : Reg → Bool
  | .SYSCTL_VSTAT | .SYSCTL_VCTL | .SYSCTL_VDIN | .SYSCTL_VMAC | .MB_HPSTAT | .MB_HPIEN | .LBIST_SDCTL
  | .CLKPWR_RSTCAUSE | .CLKPWR_RSTCTL | .CLKPWR_FLTSRC => true
  | _ => false

/-- The register that a die holds at an offset, with the number of the copy. -/
def findReg (die off : Nat) : Option (Reg × Nat) :=
  let all := if die < 2 then Reg.logicAll else Reg.fieldAll
  all.findSome? fun r => if die = 1 ∧ r.onlyL0 then none else (r.copyAt off).map fun i => (r, i)

/-- The memories of a logic die: scratchpad, lane ROM, patch RAM and local data RAM of the eight lanes, mailbox buffers. -/
inductive MemArea where
  | spm | laneRom (l : Nat) | patch (l : Nat) | data (l : Nat) | mbox (m : Nat) | none
deriving DecidableEq, Repr

/-- The memory that a die offset lies in (R142, R295, R375). -/
def memArea (die off : Nat) : MemArea :=
  if 2 ≤ die then .none
  else if off < 0x400000 then .spm
  else if 0x4000000 ≤ off ∧ off < 0x4800000 then
    let l := (off - 0x4000000) / 0x100000
    let o := (off - 0x4000000) % 0x100000
    if o < 0x8000 then .laneRom l else if o < 0xC000 then .patch l
    else if 0x10000 ≤ o ∧ o < 0x18000 then .data l else .none
  else if 0x8020000 ≤ off ∧ off < 0x8028000 ∧ (off - 0x8020000) % 0x1000 < 0x400 then
    .mbox ((off - 0x8020000) / 0x1000)
  else .none

/-- A word of a die's lane ROM, or what a comparator of the patch unit puts there on every fetch and data read (R437). -/
def State.romWord (s : State) (ld off : Nat) : Nat :=
  let hit (n : Nat) : Bool := s.flag F.PATCH_PCMPA_EN ld n && s.get F.PATCH_PCMPA_TGT ld n == 1 && s.get F.PATCH_PCMPA_ADDR ld n == off / 8
  match (List.range 64).find? hit with
  | some n => if off / 4 % 2 = 0 then s.get F.PATCH_PCMPD0_D0 ld n else s.get F.PATCH_PCMPD1_D1 ld n
  | none => leNat ((List.range 4).map fun j => Config.laneRom (off - off % 4 + j))

/-- Whether a die offset lies inside a block (R478, R482, R483). -/
def inBlock (die off : Nat) : Bool :=
  if die < 2 then
    decide (off < 0x400000) || (decide (0x8000000 ≤ off) && decide (off < 0x80F0000)) ||
      (decide (0x4000000 ≤ off) && decide (off < 0x4800000) &&
        (let o := (off - 0x4000000) % 0x100000
         decide (o < 0xC000) || (decide (0x10000 ≤ o) && decide (o < 0x18000)) ||
           (decide (0x80000 ≤ o) && decide (o < 0x80040))))
  else
    [(0, 0xFFF), (0x10000, 0x107FF), (0x10800, 0x109FF), (0x10A00, 0x10A03), (0x10B00, 0x10BFF), (0x20000, 0x223FF),
     (0x22800, 0x22813), (0x23000, 0x237FF), (0x23800, 0x238FF), (0x23C00, 0x23C9F), (0x30000, 0x3D7FF),
     (0x3E000, 0x3E4FF), (0x40000, 0x40123), (0x50000, 0x507FF), (0x60000, 0x60007)].any
      fun r => decide (r.1 ≤ off) && decide (off ≤ r.2)

/-- The die that holds an address: that of its bits 30 to 28, but L0 for the buffers of L1.MB0 to L1.MB3 (R274). -/
def holder (addr : Nat) : Nat :=
  match memArea (addr / 2 ^ 28) (addr % 2 ^ 28) with
  | .mbox m => if m < 4 then 0 else addr / 2 ^ 28
  | _ => addr / 2 ^ 28

/-- How the bus routes an access of a master (R19): 0 admitted, else KIND of ERRLOG1 (R486). The way goes to the die that holds the
address. -/
def State.route (s : State) (m : Master) (addr : Nat) : Nat :=
  let die := holder addr
  if 2 ^ 31 ≤ addr then 1
  else if !s.hasDie (addr / 2 ^ 28) then 2
  else if die = m.die then 0
  else if s.fenced U.link m.die (if die < 2 then 6 else die - 2) then 3 else 0

/-! ### The access error log -/

/-- Record a refused access in a die's ERRLOG; it completes with an error response (R19, R486). -/
def State.logErr (s : State) (die : Nat) (m : Master) (addr kind : Nat) (w : Bool) : State :=
  let s0 := s.respond true
  if die < 2 then
    (((((s0.put F.SYSCTL_ERRLOG0_ADDR die 0 addr).put F.SYSCTL_ERRLOG1_MASTER die 0 m.code).put
      F.SYSCTL_ERRLOG1_ISSUER die 0 m.die).put F.SYSCTL_ERRLOG1_KIND die 0 kind).putB F.SYSCTL_ERRLOG1_W die 0 w
      |>.count F.SYSCTL_ERRLOG1_CNT die 0).put F.SYSCTL_ERRLOG1_VALID die 0 1
  else
    (((((s0.put F.FSYS_ERRLOG0_ADDR die 0 addr).put F.FSYS_ERRLOG1_MASTER die 0 m.code).put
      F.FSYS_ERRLOG1_ISSUER die 0 m.die).put F.FSYS_ERRLOG1_KIND die 0 kind).putB F.FSYS_ERRLOG1_W die 0 w
      |>.count F.FSYS_ERRLOG1_CNT die 0).put F.FSYS_ERRLOG1_VALID die 0 1

/-- A write that the holding die refuses: writer not admitted (6) or a field refused (7). -/
def State.refuse (s : State) (r : Reg) (die idx : Nat) (m : Master) (kind : Nat) : State :=
  s.logErr die m (regAddr r die idx) kind true

/-- Do `f` where the writer is admitted and no field is refused; else log the refusal (R489). A write that the bus refuses
under R19 is logged by the issuer's die. A master under self-test sends nothing (R405). -/
def State.asWrite (s : State) (r : Reg) (die idx : Nat) (m : Master) (admitted fieldOk : Bool) (f : State → State) : State :=
  let k := s.route m (regAddr r die idx)
  if s.portHeld m then s
  else if k ≠ 0 then s.logErr m.die m (regAddr r die idx) k true
  else if !admitted then s.refuse r die idx m 6
  else if !fieldOk then s.refuse r die idx m 7
  else (f s).respond false

/-- A refused read hands its master 0 (R19). -/
def State.readRefused (s : State) (die : Nat) (m : Master) (addr kind : Nat) : State := (s.logErr die m addr kind false).give [0]

/-! ### Words -/

/-- The final value of a CRC unit (R388). -/
def State.crcResult (s : State) (ld n : Nat) : Nat :=
  let w := s.get F.CRC_CFG_WIDTH ld n
  let c := s.get F.CRC_VAL_VAL ld n % 2 ^ w
  Nat.xor (if s.flag F.CRC_CFG_REFOUT ld n then reflect w c else c) (s.get F.CRC_XOROUT_XOROUT ld n) % 2 ^ w

/-- Fences that stand on a die now, for FSTAT.NFENCED (R373). -/
def State.nFenced (s : State) (die : Nat) : Nat :=
  s.fences.countP fun e => e.2.on &&
    (let k := Nat.unpair e.1
     let d := (Nat.unpair k.2).1
     if k.1 = U.inst then
       (decide (d = 0) || !s.instFencedP (Nat.unpair k.2).2) && (match s.recOf (Nat.unpair k.2).2 with
         | some r => decide (s.dieOf r = die)
         | none => decide (die = 0))
     else decide (d = die))

/-- The dies that die `die` sees fenced or lost, for DIESTAT.FENCED (R484). -/
def State.fencedDies (s : State) (die : Nat) : Nat :=
  bitsFrom 8 fun d =>
    if d < 2 then s.fenced U.logic d 0 || (decide (d ≠ die) && s.hasDie d && s.fenced U.link die 6)
    else s.fenced U.field d 0 || (s.hasDie d && s.fenced U.link die (d - 2))

/-- Whether mailbox `mb` of die `ld` is DONE. -/
def State.mbDone (s : State) (ld mb : Nat) : Bool := s.hasLd ld && s.get F.MB_MBCTL_STATE ld mb == 2

/-- Whether a die-bridge link carries transfers: not fenced, the logic dies past boot step 1, the other end powered (R487). -/
def State.linkUp (s : State) (ld k : Nat) : Bool :=
  !s.fenced U.link ld k && decide (2 ≤ s.part.bootStep) &&
    (if k < 6 then (s.field k).power else s.hasLd (1 - ld) && !s.fenced U.logic (1 - ld) 0)

/-! ### Owners (R11) -/

/-- The unit that owns the fields of a register: its kind and its number on the die. -/
def Reg.owner (r : Reg) (idx : Nat) : Nat × Nat :=
  match r with
  | .LANE_LCTL | .LANE_LSTAT | .LANE_LWCET => (U.lane, idx)
  | .RNG_PCFG | .RNG_PSTAT | .RNG_LDELAY | .RNG_EMPTY | .RNG_TXSTAT | .RNG_WRAP => (U.port, idx)
  | .LTMR_CTL | .LTMR_CNT | .LTMR_RELOAD | .LTMR_CMPPRE | .LTMR_CMP | .LTMR_CAP | .LTMR_STAT => (U.ltimer, idx)
  | .FTMR_CTL | .FTMR_CNT | .FTMR_RELOAD | .FTMR_CMPPRE | .FTMR_CMP | .FTMR_CAP | .FTMR_STAT => (U.ftimer, idx)
  | .CRC_CFG | .CRC_POLY | .CRC_INIT | .CRC_XOROUT | .CRC_VAL | .CRC_RESULT | .CRC_STAT => (U.crc, idx)
  | .SCAN_START | .SCAN_LEN | .SCAN_CTL | .SCAN_STAT | .SCAN_NEXT | .SCAN_REM | .SCAN_ERRADDR => (U.scan, idx)
  | .OTP_OADDR | .OTP_ODATA0 | .OTP_ODATA1 => (U.sv, 0)
  | .DIEBR_LINK => (U.link, idx)
  | .TERM_CFG | .TERM_OUTCFG | .TERM_PULSECFG | .TERM_PIMG | .TERM_HSTAT | .TERM_FCTL => (U.term, idx)
  | .HC_HCFG | .HC_TSEL0 | .HC_TSEL1 | .HC_PAR0 | .HC_PAR1 | .HC_PAR2 | .HC_PAR3 | .HC_RST | .HC_HIID | .HC_HSTAT => (U.cell, idx)
  | _ => if r.place.side = .logic then (U.logic, 0) else (U.field, 0)

/-- Whether the owner of a register's fields is fenced. -/
def State.ownerFenced (s : State) (r : Reg) (die idx : Nat) : Bool := s.fenced (r.owner idx).1 die (r.owner idx).2

/-- Fields whose own rule says what they do while their owner is fenced: PIMG's image word and FREASON (R63), the die-bridge
count that monitor mode keeps (R352), pass records, which only a fenced unit's self-test earns (R409, R411), and the fields that
the fence controller moves: leases, server leases and ROT (R355, R284). -/
def Fld.ruled (f : Fld) : Bool :=
  match f.reg with
  | .TERM_PIMG | .LBIST_REC | .FBIST_FBREC | .FENCE_LEASE | .MB_MBCTL | .SPM_MODE => true
  | .TERM_FCTL => decide (f.lo ≠ 0)
  | .DIEBR_LINK => decide (f = F.DIEBR_LINK_OKRUN)
  | _ => false

/-- Whether a field takes no write because its owner is fenced: it stays locked, reset or safe until the fence is cleared (R11). -/
def State.fldStays (s : State) (f : Fld) (die idx : Nat) : Bool :=
  (f.fen == .rst || f.fen == .safe || f.fen == .lock) && !f.ruled && s.ownerFenced f.reg die idx

/-- What a field keeps reading while its owner is fenced: its reset value or its safe value (R11). -/
def State.fenceMask (s : State) (f : Fld) (die idx : Nat) : Option Nat :=
  if f.ruled || !s.ownerFenced f.reg die idx then none
  else match f.fen with
    | .rst => some (f.resetAt die idx)
    | .safe => some f.safe
    | _ => none

/-- What a field reads as while no fence of its owner holds it: fields that hardware derives from the state, then what the
register holds. TCFG.PERIOD reads TURNCFG.PERIOD with SRC 0b00, of which R188's sentence speaks here (DESIGN CHOICE, log entry 181). -/
def State.fieldNow (s : State) (f : Fld) (die idx : Nat) : Nat :=
  match f.reg with
  | .SYSCTL_DEVID =>
    if f.lo = 0 then s.variant.partCode else if f.lo = 12 then s.variant.dieMask else s.rev.code
  | .SYSCTL_DIESTAT => if f.lo = 0 then s.variant.dieMask else s.fencedDies die
  | .FSYS_FID => if f.lo = 0 then die - 2 else s.rev.code
  | .FSYS_FFSTAT =>
    if f.lo = 0 then (s.fenced U.field die 0 || (s.field (die - 2)).vfSafe).toNat else s.get f die idx
  | .FSYS_FPWR =>
    if f.lo = 0 then ((s.field (die - 2)).power && !(s.field (die - 2)).vfSafe && !s.fenced U.field die 0).toNat
    else s.get f die idx
  | .CLKPWR_FLTSRC =>
    if f.lo = 0 then s.fltSrc else if f.lo = 16 then s.safeLow.toNat else (decide (s.fltSrc ≠ 0)).toNat
  | .LANE_LWCET => if f.lo = 31 then (s.retryOk die idx).toNat else s.get f die idx
  | .LANE_LBUDGET => s.budget die idx
  | .LANE_LMCNT =>
    if f.lo = 8 then min 2 ((s.lane die idx).mis.countP fun t => decide (s.tick < t + 1000)) else s.get f die idx
  | .LANE_LIDS => if f.lo = 0 then Config.romRel s.rev.code % 256 else s.get f die idx
  | .DIEBR_LINK => if f.lo = 0 then (s.linkUp die idx).toNat else s.get f die idx
  | .FENCE_FSTAT => if f.lo = 0 then min (s.nFenced die) 0xFFFF else s.get f die idx
  | .FENCE_LANEST =>
    bitsFrom 8 fun l =>
      if f.lo = 0 then s.fenced U.lane die l
      else if f.lo = 8 then s.image.loaded && s.spare die l
      else if f.lo = 16 then s.newSideLane die l && !s.fenced U.lane die l
      else (List.range 8).any fun n =>
        decide (s.phys die n = l) && s.standbyReady (1 - die) n && !(s.stby (1 - die) n).swapped ||
          decide (s.phys die n = l) && s.standbyReady die n && (s.stby die n).swapped
  | .FENCE_UNITST =>
    match f.lo with
    | 0 => (s.fenced U.sv die 0).toNat
    | 1 => (s.fenced U.engine die 0).toNat
    | 2 => bitsFrom 2 fun p => s.fenced U.port die p
    | 4 => bitsFrom 6 fun k => s.fenced U.link die k
    | 10 => (s.fenced U.link die 6).toNat
    | _ => ((s.fence U.logic (1 - die) 0).on && (s.fence U.logic (1 - die) 0).reason == 0x24).toNat
  | .FENCE_SOAKST =>
    match s.soak with
    | some k =>
      if k.newDie = die ∨ (k.kind ≠ .migration ∧ k.ld = die) then
        (if f.lo = 0 then (if k.kind = .cellSwap then k.runH else k.runP)
         else if f.lo = 16 then k.disag
         else match k.kind with
           | .migration => 1
           | .config => 2
           | .cellSwap => 3)
      else 0
    | none => 0
  | .MB_HPSTAT =>
    if f.lo = 0 then bitsFrom 4 fun m => s.mbDone 0 m else if f.lo = 4 then bitsFrom 4 fun m => s.mbDone 1 m
    else s.get f die idx
  | .CRC_RESULT => s.crcResult die idx
  | .TICK_TCFG =>
    if f.lo = 0 ∧ s.get F.TICK_TCFG_SRC die 0 = 0 then s.get F.RNG_TURNCFG_PERIOD die 0 else s.get f die idx
  | .TICK_TSTAT =>
    if f.lo = 0 ∧ s.get F.TICK_TCFG_SRC 0 0 ≠ 0 then 1 else s.get f die idx
  | .TICK_TNUM0 => s.tick % 2 ^ 32
  | .TICK_TNUM1 => s.tick / 2 ^ 32 % 2 ^ 16
  | _ => if f.acc = .wo then 0 else s.get f die idx

/-- The value a field reads as. PHASE of a lane that debug halts reads 6, fenced as it is (R161, R425). -/
def State.fieldValue (s : State) (f : Fld) (die idx : Nat) : Nat :=
  if f = F.LANE_LSTAT_PHASE ∧ (s.lane die idx).halted then 6 else (s.fenceMask f die idx).getD (s.fieldNow f die idx)

/-- The word a register reads as; WO fields and reserved bits read 0 (R7, R10). -/
def State.word (s : State) (r : Reg) (die idx : Nat) : Nat :=
  r.fields.foldl (fun a f => a + (s.fieldValue f die idx % 2 ^ f.w) * 2 ^ f.lo) 0

/-- The fence log as words (R373): 16 bytes per entry, the record of R304 in the first 12, entry 0 the newest. -/
def State.logWord (s : State) (die k : Nat) : Nat :=
  match (Store.get (fun _ => []) s.flog die)[k / 4]? with
  | none => 0
  | some e =>
    match k % 4 with
    | 0 => e.tick % 2 ^ 32
    | 1 => e.tick / 2 ^ 32 % 2 ^ 16 + e.die * 2 ^ 16 + e.kind * 2 ^ 24
    | 2 => e.idx % 2 ^ 16 + e.reason * 2 ^ 16
    | _ => 0

end Sys2Proof.Machine
end

