-- ==== Sys2Proof/Machine/Scratchpad.lean ====
section
/-!
DEFINITION. Scratchpad memory (R375 to R387): ECC, repair, arbitration, power segments, the tiller.
-/

namespace Sys2Proof.Machine

/-! ### Decode of an offset (R375) -/

def spmRegion (off : Nat) : Nat := off / 256

/-- The word at an aligned offset, little-endian. -/
def State.spmWord (s : State) (ld off : Nat) : Nat := leNat (s.bytes (ld * 2 ^ 28 + wordOff off) 4)

/-! ### Errors and repair -/

/-- Record an error (R377, R381, R387). -/
def State.spmErr (s : State) (ld off pri kind synd : Nat) : State :=
  ((((s.put F.SPM_ERRLOG0_OFFS ld 0 off).put F.SPM_ERRLOG1_MASTER ld 0 pri).put F.SPM_ERRLOG1_KIND ld 0 kind).put
    F.SPM_ERRLOG1_SYND ld 0 synd).put F.SPM_ERRLOG1_VALID ld 0 1

/-- The 128 word offsets of the row that holds an offset (R375). -/
def rowWords (off : Nat) : List Nat := (List.range 128).map fun c => spmRow off * 2 ^ 14 + c * 2 ^ 7 + spmBank off * 4

/-- An uncorrectable word or a test failure is found (R377): the record, UECNT, a soft repair at the next idle cycle of the
bank, and the fence of the instances whose state words lie in the row. -/
def State.badWord (s : State) (ld off pri kind : Nat) : State :=
  let synd := if kind = 1 then Config.syndrome (eccKey ld off) else 0
  let s1 := (s.spmErr ld off pri kind synd).count F.SPM_ECCSTAT_UECNT ld 0
  let m := s1.spmSt ld
  let s2 := s1.setSpm ld { m with repair := if m.repair.contains (wordOff off) then m.repair else m.repair ++ [wordOff off] }
  s2.each (s2.image.img.insts.filter fun r => decide (s.dieOf r = ld) && (rowWords off).any fun w => Config.stateWord ld w r.iid) fun s r =>
    s.fenceInst ld r.iid 0x0D

/-- A corrected read: counted, and the corrected word waits for its write-back (R376). -/
def State.correctWord (s : State) (ld off : Nat) : State :=
  let s1 := s.count F.SPM_ECCSTAT_CECNT ld 0
  let m := s1.spmSt ld
  s1.setSpm ld { m with wback := if m.wback.contains (wordOff off) then m.wback else m.wback ++ [wordOff off] }

/-- One read of a word (R376): the state after it, the data, and whether it completes with an error response. -/
def State.readWord (s : State) (ld pri off : Nat) : State × Nat × Bool :=
  let k := s.accessKind ld off
  if k ≠ 0 then (s.spmErr ld off pri k 0, 0, true)
  else match s.eccClass ld off with
    | .uncorrectable => (s.badWord ld off pri 1, 0, true)
    | .corrected => (s.correctWord ld off, s.spmWord ld off, false)
    | _ => (s, s.spmWord ld off, false)

/-! ### Scan engines (R394 to R396) -/

/-- Feed one byte to a CRC unit (R388). -/
def State.crcFeed (s : State) (ld n b : Nat) : State :=
  let w := s.get F.CRC_CFG_WIDTH ld n
  let d := if s.flag F.CRC_CFG_REFIN ld n then reflect 8 b else b
  let poly := s.get F.CRC_POLY_POLY ld n % 2 ^ w
  s.put F.CRC_VAL_VAL ld n (crcByte w poly (s.get F.CRC_VAL_VAL ld n % 2 ^ w) d)

/-- Engine `n` is served the word at NEXT, in the state and with the value and error that the read gave: it feeds the bytes of it
that lie from NEXT for REM bytes (R394), 0 for a word with an error response (R396). -/
def State.scanTake (r : State × Nat × Bool) (ld n : Nat) : State :=
  let s := r.1
  let a := s.get F.SCAN_NEXT_NEXT ld n
  let rem := s.get F.SCAN_REM_REM ld n
  let cnt := min rem (4 - a % 4)
  let s1 := s.on r.2.2 fun s =>
    (s.on (!s.flag F.SCAN_STAT_RDERR ld n) fun s => s.put F.SCAN_ERRADDR_ADDR ld n (wordOff a)).put F.SCAN_STAT_RDERR ld n 1
  let s2 := s1.each ((List.range cnt).map fun k => bitsOf r.2.1 (8 * (a % 4 + k)) 8) fun s b => s.crcFeed ld n b
  (s2.put F.SCAN_NEXT_NEXT ld n (a + cnt)).put F.SCAN_REM_REM ld n (rem - cnt)

/-- A master's request aborts the attempt (R384). -/
def State.tillerAbort (s : State) (ld : Nat) : State :=
  (s.tillerIdle ld).put F.SPM_TSTAT_ABORTS ld 0 (min 8 (s.get F.SPM_TSTAT_ABORTS ld 0 + 1))

/-- What the save of the attempt finds in one word: a single-bit error is corrected, an uncorrectable word falls under R377. A word of
a fenced row is not judged. -/
def State.tillerWord (s : State) (ld off : Nat) : State :=
  s.on (!s.rowFenced ld off) fun s =>
    match s.eccClass ld off with
    | .corrected => (s.count F.SPM_ECCSTAT_CECNT ld 0).setEcc ld off .good
    | .uncorrectable => s.badWord ld off 22 1
    | _ => s

/-- The phase and bank that the attempt shows after `c` cycles of its own work (R383): setup 18, save 64, test 22 a bank,
restore 64. -/
def tillerPhase (c : Nat) : Nat × Nat :=
  if c < 18 then (1, 0) else if c < 82 then (2, 0) else if c < 786 then (3, (c - 82) / 22) else (4, 31)

/-- The save has judged the first `n` words of the region, in ascending order. -/
def State.tillerSave (s : State) (ld n : Nat) : State :=
  let m := s.spmSt ld
  let r := s.get F.SPM_TSTAT_REGION ld 0
  (s.setSpm ld { m with saved := max m.saved n }).each ((List.range (n - m.saved)).map fun j => 256 * r + 4 * (m.saved + j))
    fun s off => s.tillerWord ld off

/-- The attempt in progress has come to `c` cycles; it never goes back, and its last cycle is TILLER_ATTEMPT_DONE's. The words that it
has saved by then are judged (R383). -/
def State.tillerAt (s : State) (ld c : Nat) : State :=
  let m := s.spmSt ld
  let n := max m.prog (min c 849)
  s.on m.busy fun s =>
    (((s.setSpm ld { m with prog := n }).put F.SPM_TSTAT_PHASE ld 0 (tillerPhase n).1).put F.SPM_TSTAT_BANK ld 0 (tillerPhase n).2).tillerSave
      ld (min 64 (n - 18))

/-- Words of the region in which the test of the attempt has failed (R377, R383). -/
def State.tillerFails (s : State) (ld : Nat) (bad : List Nat) : State :=
  let r := s.get F.SPM_TSTAT_REGION ld 0
  s.each (bad.dedup.filter fun off => decide (spmRegion off = r) && decide (off % 4 = 0) && !s.rowFenced ld off) fun s off =>
    s.badWord ld off 22 2

/-- Whether an access aborts the tiller's attempt: of any master but the tiller's own two (R378, R384). -/
def State.aborts (s : State) (ld pri off : Nat) : Bool :=
  (s.spmSt ld).busy && decide (pri ≠ 0) && decide (pri ≠ 22) && !s.flag F.SPM_TSTAT_HOLD ld 0 &&
    decide (spmRegion off = s.get F.SPM_TSTAT_REGION ld 0)

/-- An access that a master makes outside a modelled BUS cycle finds the tiller a free number of cycles into its attempt, and aborts it
where it asks for its region. The stalls of R378 and R385 only delay such an access: the command stands at the cycle in which it is
served (log entry 176). -/
def State.spmMeets (s : State) (ld pri off : Nat) : State :=
  s.on (s.aborts ld pri off) fun s =>
    let c := (s.spmSt ld).prog
    ((s.tillerAt ld (c + s.freeBelow (850 - c))).spend).tillerAbort ld

/-- A read that a master on the bus makes outside a modelled BUS cycle. -/
def State.spmRead (s : State) (ld pri off : Nat) : State × Nat × Bool := (s.spmMeets ld pri off).readWord ld pri off

/-- The engine reads one word at its own priority and takes it (R394). -/
def State.scanWord (s : State) (ld n : Nat) : State :=
  State.scanTake (s.spmRead ld (14 + n) (wordOff (s.get F.SCAN_NEXT_NEXT ld n))) ld n

/-- The engine reads `k` words. -/
def State.scanWords (s : State) (ld n k : Nat) : State := s.each (List.range k) fun s _ => s.scanWord ld n

/-- How many words a scan has left to read. -/
def State.scanLeft (s : State) (ld n : Nat) : Nat :=
  (s.get F.SCAN_NEXT_NEXT ld n % 4 + s.get F.SCAN_REM_REM ld n + 3) / 4

/-- Whether a running scan has a word still to read. -/
def State.scanAhead (s : State) (ld n off : Nat) : Bool :=
  let a := s.get F.SCAN_NEXT_NEXT ld n
  s.flag F.SCAN_STAT_BUSY ld n && decide (wordOff a ≤ wordOff off) && decide (wordOff off < a + s.get F.SCAN_REM_REM ld n)

/-- Before a word is written, every scan that has it still to read has gone on by a free number of words: it reads the word as it
stands in the cycle of its own access, before or after the write (R395, log entry 4). -/
def State.scansMeet (s : State) (ld off : Nat) : State :=
  s.each ((List.range 8).filter fun n => s.scanAhead ld n off) fun s n =>
    (s.scanWords ld n (s.freeBelow (s.scanLeft ld n + 1))).spend

/-! ### Writes -/

/-- Store the enabled bytes of a word with new check bits; a waiting write-back of the word is dropped (R376). -/
def State.storeWord (s : State) (ld off v be : Nat) : State :=
  let s1 := ((s.scansMeet ld off).each ((List.range 4).filter be.testBit) fun s k =>
    s.setByte (ld * 2 ^ 28 + wordOff off + k) (BitVec.ofNat 8 (bitsOf v (8 * k) 8))).setEcc ld off .good
  let m := s1.spmSt ld
  s1.setSpm ld { m with wback := m.wback.filter fun w => w != wordOff off }

/-- The master of a scratchpad priority (R353, R378). -/
def priMaster (ld pri : Nat) : Master :=
  ⟨ld, if pri = 1 then 0x0A else if pri = 2 then 0x0B else if 4 ≤ pri ∧ pri ≤ 11 then pri - 3 else if pri = 12 then 9
    else if 14 ≤ pri ∧ pri ≤ 21 then pri - 2 else 0x14⟩

/-- Whether R34 and R144 let a master write a word: the configuration tables only a supervisor with the gate open, the frozen image
only the die bridge and the tick unit, which fill it (R144), the output image the lanes. The other die's supervisor comes over the
bridge, at priority 3. -/
def State.spmWriteOk (s : State) (ld pri off : Nat) : Bool :=
  match Config.spmUse ld (wordOff off) with
  | 1 => (pri == 12 || pri == 3) && s.gate ld
  | 2 => false
  | 5 => decide (4 ≤ pri) && decide (pri ≤ 11)
  | _ => true

/-- One write of the enabled bytes of a word (R376): the state after it and whether it completes with an error response. -/
def State.writeWord (s : State) (ld pri off v be : Nat) : State × Bool :=
  let k := s.accessKind ld off
  if !s.spmWriteOk ld pri off then (s.logErr ld (priMaster ld pri) (ld * 2 ^ 28 + off) 7 true, true) else
  if k ≠ 0 then (s.spmErr ld off pri k 0, true)
  else if be = 15 then (s.storeWord ld off v be, false)
  else
    match s.eccClass ld off with
    | .uncorrectable => (s.badWord ld off pri 1, true)
    | .corrected => ((s.count F.SPM_ECCSTAT_CECNT ld 0).storeWord ld off v be, false)
    | _ => (s.storeWord ld off v be, false)

/-! ### Loads and stores (R381) -/

/-- Whether an access of `size` bytes crosses a word boundary. -/
def crosses (off size : Nat) : Bool := decide (4 < off % 4 + size)

/-- ROT of the master of a priority. -/
def State.rotOn (s : State) (ld pri : Nat) : Bool := (s.get F.SPM_MODE_ROT ld 0).testBit (pri - 1) && decide (pri ≠ 0)

/-- A load of `size` bytes: the state, the bytes from lane 0 up, whether it completes with an error response. -/
def State.spmLoad (s : State) (ld pri off size : Nat) : State × Nat × Bool :=
  if crosses off size && !s.rotOn ld pri then (s.spmErr ld off pri 5 0, 0, true)
  else
    let r := s.spmRead ld pri off
    let sh := 8 * (off % 4)
    (r.1, ((r.2.1 >>> sh) + (r.2.1 <<< (32 - sh)) % 2 ^ 32 * (decide (sh ≠ 0)).toNat) % 2 ^ (8 * size), r.2.2)

/-- The bytes that byte enables span from lane 0 up. -/
def beSize (be : Nat) : Nat := if 8 ≤ be then 4 else if 4 ≤ be then 3 else if 2 ≤ be then 2 else 1

/-- A store of the enabled bytes from an offset up; one that crosses a word boundary writes nothing. -/
def State.spmStore (s : State) (ld pri off v be : Nat) : State × Bool :=
  if crosses off (beSize be) then (s.spmErr ld off pri 5 0, true)
  else (s.spmMeets ld pri off).writeWord ld pri off (v <<< (8 * (off % 4))) (be <<< (off % 4))

/-- Whether the master of a scratchpad priority is fenced: its ROT bit stays 0 (R11, R387). -/
def State.priFenced (s : State) (ld pri : Nat) : Bool :=
  if pri = 1 ∨ pri = 2 then s.fenced U.port ld (pri - 1)
  else if pri = 3 then s.fenced U.link ld 6
  else if 4 ≤ pri ∧ pri ≤ 11 then s.fenced U.lane ld (pri - 4)
  else if pri = 12 then s.fenced U.sv ld 0
  else 14 ≤ pri && s.fenced U.scan ld (pri - 14)

/-- A written MODE word (R381, R387). -/
def State.setRot (s : State) (ld v : Nat) : State :=
  s.put F.SPM_MODE_ROT ld 0 (bitsFrom 21 fun k => v.testBit (k + 1) && !s.priFenced ld (k + 1))

/-- What the failing word holds after its row was repaired: 0 with valid check bits; a word of the configuration tables is
rewritten from the image in flash, within 2 ticks (R356, R377), which the model does in the same step where a supervisor
serves. The spec gives these tables no layout, so the word that the image gives is open (log entry 15). -/
def State.repairedWord (s : State) (ld off : Nat) : Nat :=
  if Config.spmUse ld (wordOff off) = 1 && (s.svUp ld || s.svUp (1 - ld)) then Config.configWord s.image.hash ld (wordOff off) else 0

/-- The soft repair of a failing word's row (R377, R414): a spare row, else the bank's fenced-row slot, else REPFULL. -/
def State.softRepair (s : State) (ld off : Nat) : State :=
  let b := spmBank off
  let w := s.repairedWord ld off
  let t :=
    if !s.flag F.SPM_REP_USE0 ld b then
      (((s.put F.SPM_REP_ROW0 ld b (spmRow off)).put F.SPM_REP_USE0 ld b 1).storeWord ld off w 15).count
        F.LBIST_RSTAT_SOFT ld 0
    else if !s.flag F.SPM_REP_USE1 ld b then
      (((s.put F.SPM_REP_ROW1 ld b (spmRow off)).put F.SPM_REP_USE1 ld b 1).storeWord ld off w 15).count
        F.LBIST_RSTAT_SOFT ld 0
    else if !s.flag F.SPM_FROW_FENCED ld b then
      (s.put F.SPM_FROW_ROW ld b (spmRow off)).put F.SPM_FROW_FENCED ld b 1
    else s.put F.SPM_ECCSTAT_REPFULL ld 0 1
  let m := t.spmSt ld
  t.setSpm ld { m with repair := m.repair.filter fun w => w != wordOff off }

/-- The meaning of ECC_WRITEBACK. -/
def execEccWriteback (ld off : Nat) (s : State) : Answer :=
  let m := s.spmSt ld
  s.answer (s.hasLd ld) (m.wback.contains (wordOff off))
    ((s.setSpm ld { m with wback := m.wback.filter fun w => w != wordOff off }).setEcc ld off .good)

/-- The meaning of SOFT_REPAIR. -/
def execSoftRepair (ld off : Nat) (s : State) : Answer :=
  s.answer (s.hasLd ld) ((s.spmSt ld).repair.contains (wordOff off)) (s.softRepair ld off)

/-! ### The tiller (R383 to R386) -/

/-- The next region at or after `r` whose segment is powered and clear. -/
def State.tillerRegion (s : State) (ld r : Nat) : Nat :=
  match (List.range 4).find? fun k => !s.segDown ld (((r / 4096 + k) % 4) * 2 ^ 20) with
  | some 0 => r
  | some k => ((r / 4096 + k) % 4) * 4096
  | none => r

/-- A hold-mode attempt is due and may begin in this tick (R385). -/
def State.holdDue (s : State) (ld : Nat) : Bool := decide (8 ≤ s.get F.SPM_TSTAT_ABORTS ld 0)

/-- An attempt begins at a pace slot (R383, R385), on the next region that is powered and clear. -/
def State.tillerStart (s : State) (ld : Nat) : State :=
  let m := s.spmSt ld
  let r := s.tillerRegion ld (s.get F.SPM_TSTAT_REGION ld 0)
  let s1 := if r = s.get F.SPM_TSTAT_REGION ld 0 then s else (s.put F.SPM_TSTAT_REGION ld 0 r).put F.SPM_TSTAT_ABORTS ld 0 0
  if s.flag F.SPM_TCTL_PAUSE ld 0 || s.segDown ld (r * 256) then s
  else if s1.holdDue ld then
    if m.holdTick = some s.tick then s1
    else ((((s1.setSpm ld { m with busy := true, prog := 0, saved := 0, holdTick := some s.tick }).put F.SPM_TSTAT_PHASE ld 0 1).put
      F.SPM_TSTAT_BANK ld 0 0).put F.SPM_TSTAT_HOLD ld 0 1).count F.SPM_TCNT_HOLDS ld 0
  else
    (((s1.setSpm ld { m with busy := true, prog := 0, saved := 0 }).put F.SPM_TSTAT_PHASE ld 0 1).put F.SPM_TSTAT_BANK ld 0 0).put
      F.SPM_TSTAT_HOLD ld 0 0

/-- The attempt completes (R383): the rest of the region is judged, and the words in which the test failed. -/
def State.tillerDone (s : State) (ld : Nat) (bad : List Nat) : State :=
  let r := s.get F.SPM_TSTAT_REGION ld 0
  let s1 := (s.tillerSave ld 64).tillerFails ld bad
  let s2 := ((s1.tillerIdle ld).put F.SPM_TSTAT_ABORTS ld 0 0).put F.SPM_TSTAT_REGION ld 0 ((r + 1) % 16384)
  s2.on (decide (r = 16383)) fun s => s.countWrap F.SPM_TCNT_SWEEPS ld 0

/-- The meaning of TILLER_ATTEMPT_START. -/
def execTillerAttemptStart (ld : Nat) (s : State) : Answer :=
  s.answer (s.hasLd ld) (!(s.spmSt ld).busy) (s.tillerStart ld)

/-- The meaning of TILLER_ATTEMPT_DONE. -/
def execTillerAttemptDone (ld : Nat) (bad : List Nat) (s : State) : Answer :=
  s.answer (s.hasLd ld) (s.spmSt ld).busy (s.tillerDone ld bad)

/-! ### Power segments (R382) -/

/-- Whether some word of a segment answers to a test of its offset. -/
def inSeg (seg : Nat) (p : Nat → Bool) : Bool := (List.range (2 ^ 18)).any fun w => p (seg * 2 ^ 20 + 4 * w)

/-- Whether a word of a segment stands for bus bits of an instance in a bank. -/
def busInSeg (ld seg iid bank : Nat) : Bool :=
  inSeg seg fun off => decide (Config.spmUse ld off = 3 + bank) && (List.range 32).any fun k => Config.busEntry ld off k / 4 == iid

/-- Whether a word of a segment stands for an entry of the output image. -/
def outInSeg (ld seg e : Nat) : Bool :=
  inSeg seg fun off => decide (Config.spmUse ld off = 5) && (List.range 32).any fun k => Config.outEntry ld off k == e

/-- Whether a word of a segment stands for a word of the frozen image. -/
def imageInSeg (ld seg n : Nat) : Bool := inSeg seg fun off => decide (Config.spmUse ld off = 2) && Config.imageEntry ld off == n

/-- Every word of a segment becomes 0 with valid check bits, those that stand for bus bits, output entries and input words too. -/
def State.clearSegment (s : State) (ld seg : Nat) : State :=
  let mine (iid : Nat) : Bool := match s.recOf iid with
    | some r => decide (s.dieOf r = ld)
    | none => false
  { s with mem := s.mem.dropRange (ld * 2 ^ 28 + seg * 2 ^ 20) (ld * 2 ^ 28 + (seg + 1) * 2 ^ 20),
           ecc := s.ecc.dropRange (ld * 2 ^ 22 + seg * 2 ^ 20) (ld * 2 ^ 22 + (seg + 1) * 2 ^ 20),
           busBits := s.busBits.filter fun e => !(mine (e.1 / 2) && busInSeg ld seg (e.1 / 2) (e.1 % 2)),
           outImg := s.outImg.filter fun e => !(decide ((Nat.unpair e.1).1 = ld) && outInSeg ld seg (Nat.unpair e.1).2),
           frozen := s.frozen.filter fun e => !(decide (e.1 / 384 = ld) && imageInSeg ld seg (e.1 % 384)) }

/-- Switch segments off, or on with clearing, as a write of PWR.OFF gives them (R382). -/
def State.setSegments (s : State) (ld off : Nat) : State :=
  let was := s.get F.SPM_PWR_OFF ld 0
  let on := was - (was &&& off)
  (s.put F.SPM_PWR_OFF ld 0 off).put F.SPM_PWR_CLEARING ld 0
    ((s.get F.SPM_PWR_CLEARING ld 0 ||| 2 * on) - ((s.get F.SPM_PWR_CLEARING ld 0 ||| 2 * on) &&& 2 * off))

/-- The meaning of SEGMENT_POWER_OFF. -/
def execSegmentPowerOff (m : Master) (ld seg : Nat) (s : State) : Answer :=
  s.answer (s.hasLd ld && decide (seg < 4)) true
    (s.asWrite .SPM_PWR ld 0 m (m.isSvOf ld) (decide (seg ≠ 0)) fun s =>
      s.setSegments ld (s.get F.SPM_PWR_OFF ld 0 ||| 2 ^ (seg - 1)))

/-- The meaning of SEGMENT_POWER_ON. -/
def execSegmentPowerOn (m : Master) (ld seg : Nat) (s : State) : Answer :=
  s.answer (s.hasLd ld && decide (seg < 4)) true
    (s.asWrite .SPM_PWR ld 0 m (m.isSvOf ld) true fun s =>
      s.on (decide (seg ≠ 0)) fun s =>
        s.setSegments ld (s.get F.SPM_PWR_OFF ld 0 - (s.get F.SPM_PWR_OFF ld 0 &&& 2 ^ (seg - 1))))

/-- The meaning of SEGMENT_CLEAR_DONE. -/
def execSegmentClearDone (ld seg : Nat) (s : State) : Answer :=
  s.answer (s.hasLd ld && decide (seg < 4)) ((s.get F.SPM_PWR_CLEARING ld 0).testBit seg)
    ((s.clearSegment ld seg).put F.SPM_PWR_CLEARING ld 0 (s.get F.SPM_PWR_CLEARING ld 0 - 2 ^ seg))

end Sys2Proof.Machine
end

