-- ==== Sys2Proof/Machine/CrcScan.lean ====
section
/-!
DEFINITION. CRC units and scan engines (R388 to R402).
-/

namespace Sys2Proof.Machine

/-- The enabled bytes of a word, lane 0 first. -/
def enabledBytes (v be : Nat) : List Nat := ((List.range 4).filter be.testBit).map fun k => bitsOf v (8 * k) 8

/-- A write to a CRC unit (R391, R393): only its owner writes it. While it is BUSY its engine holds the lease (R392), so that every write
is one by another master, and it sets REFUSED. -/
def State.crcWrite (s : State) (r : Reg) (ld n : Nat) (m : Master) (f : State → State) : State :=
  let busy := s.flag F.CRC_STAT_BUSY ld n
  let own := decide (m.die = ld) && s.get F.FENCE_LEASE_OWNER ld n == m.code && decide (m.code ≠ 0)
  let s1 := s.asWrite r ld n m own (!busy) f
  s1.on (busy && decide (s.route m (regAddr r ld n) = 0)) fun s => s.put F.CRC_STAT_REFUSED ld n 1

/-- The meaning of CRC_DIN. -/
def execCrcDin (m : Master) (ld n data be : Nat) (s : State) : Answer :=
  s.answer (s.hasLd ld && decide (n < 8)) true
    (s.crcWrite .CRC_DIN ld n m fun s => s.each (enabledBytes data be) fun s b => s.crcFeed ld n b)

/-- The meaning of CRC_LOAD. -/
def execCrcLoad (m : Master) (ld n : Nat) (s : State) : Answer :=
  s.answer (s.hasLd ld && decide (n < 8)) true
    (s.crcWrite .CRC_CTL ld n m fun s => s.put F.CRC_VAL_VAL ld n (s.get F.CRC_INIT_INIT ld n))

/-- The meaning of CRC_VAL_WRITE. -/
def execCrcValWrite (m : Master) (ld n val : Nat) (s : State) : Answer :=
  s.answer (s.hasLd ld && decide (n < 8)) true (s.crcWrite .CRC_VAL ld n m fun s => s.put F.CRC_VAL_VAL ld n val)

/-- Whether a scan may start (R394). -/
def State.scanMay (s : State) (ld n : Nat) : Bool :=
  let st := s.get F.SCAN_START_START ld n
  let len := s.get F.SCAN_LEN_LEN ld n
  s.get F.FENCE_LEASE_OWNER ld n == s.get F.FENCE_LEASE_OWNER ld (n + 8) && !s.flag F.SCAN_STAT_BUSY ld n &&
    decide (1 ≤ len) && decide (len ≤ 0x400000) && decide (st + len ≤ 0x400000)

/-- A scan starts, or GO sets BADRANGE (R394, R392). -/
def State.scanStart (s : State) (ld n : Nat) (cont : Bool) : State :=
  let s0 := s.putB F.SCAN_CTL_CONT ld n cont
  if !s0.scanMay ld n then s0.put F.SCAN_STAT_BADRANGE ld n 1
  else
    let s1 := s0.on (!cont) fun s => s.put F.CRC_VAL_VAL ld n (s.get F.CRC_INIT_INIT ld n)
    let s2 := ((s1.put F.SCAN_STAT_BUSY ld n 1).put F.CRC_STAT_BUSY ld n 1).put F.FENCE_LEASE_OWNER ld n (0x0C + n)
    (s2.put F.SCAN_NEXT_NEXT ld n (s.get F.SCAN_START_START ld n)).put F.SCAN_REM_REM ld n (s.get F.SCAN_LEN_LEN ld n)

/-- The meaning of SCAN_GO. -/
def execScanGo (m : Master) (ld n : Nat) (cont : Bool) (s : State) : Answer :=
  s.answer (s.hasLd ld && decide (n < 8)) true
    (s.asWrite .SCAN_CTL ld n m
      (decide (m.die = ld) && s.get F.FENCE_LEASE_OWNER ld (n + 8) == m.code && decide (m.code ≠ 0)) true
      fun s => s.scanStart ld n cont)

/-- The scan ends: both units idle, the CRC lease back with the owner of the engine (R392). -/
def State.scanIdle (s : State) (ld n : Nat) : State :=
  ((s.put F.SCAN_STAT_BUSY ld n 0).put F.CRC_STAT_BUSY ld n 0).put F.FENCE_LEASE_OWNER ld n
    (s.get F.FENCE_LEASE_OWNER ld (n + 8))

/-- The jobs on CRC unit `n` end with the check value, and the supervisor releases both leases (R400). -/
def State.crcJobEnd (s : State) (ld n : Nat) : State :=
  let v := s.svst ld
  match v.crcJobs.find? fun j => j.1 == n with
  | none => s
  | some j =>
    let e := s.job 0 j.2
    let s1 := s.setJob 0 j.2 { e with rderr := s.get F.SCAN_STAT_RDERR ld n }
    let s2 := (s1.endJob 0 j.2 0 (s1.crcResult ld n)).setSv ld { v with crcJobs := v.crcJobs.filter fun x => x.1 != n }
    (s2.put F.FENCE_LEASE_OWNER ld n 0).put F.FENCE_LEASE_OWNER ld (n + 8) 0

/-- The scan completes (R394). -/
def State.scanComplete (s : State) (ld n : Nat) : State :=
  ((((s.scanWords ld n (s.scanLeft ld n)).scanIdle ld n).put F.SCAN_STAT_DONE ld n 1)).crcJobEnd ld n

/-- STOP on a running scan once `words` words have been fed, the one in flight at least (R398). -/
def State.scanStop (s : State) (ld n words : Nat) : State :=
  if !s.flag F.SCAN_STAT_BUSY ld n then s
  else if s.scanLeft ld n ≤ max 1 words then s.scanComplete ld n
  else ((s.scanWords ld n (max 1 words)).scanIdle ld n).put F.SCAN_STAT_STOPPED ld n 1

/-- The meaning of SCAN_STOP. -/
def execScanStop (m : Master) (ld n words : Nat) (s : State) : Answer :=
  s.answer (s.hasLd ld && decide (n < 8)) true
    (s.asWrite .SCAN_CTL ld n m
      (decide (m.die = ld) && s.get F.FENCE_LEASE_OWNER ld (n + 8) == m.code && decide (m.code ≠ 0)) true
      fun s => s.scanStop ld n words)

/-- The meaning of SCAN_DONE. -/
def execScanDone (ld n : Nat) (s : State) : Answer :=
  s.answer (s.hasLd ld && decide (n < 8)) (s.flag F.SCAN_STAT_BUSY ld n) (s.scanComplete ld n)

end Sys2Proof.Machine
end

