-- ==== Sys2Proof/Machine/Arbiter.lean ====
section
/-!
DEFINITION. The scratchpad's arbiter (R378 to R381, R384, R385): one BUS cycle of SCRATCHPAD_ACCESS.
-/

namespace Sys2Proof.Machine

/-- Where a waiting access stands in the arbiter's order, in the tiller's hold mode or not: smaller is served first. -/
def SpmWait.rank (w : SpmWait) (hold : Bool) : Nat :=
  if w.req.pri = 0 || (hold && w.req.pri == 22) then 0
  else match w.lifted with
    | some c => 1 + (32 * c + w.req.pri)
    | none => 2 ^ 128 + w.req.pri

/-- Whether the tiller makes an access stall: hold mode, the held region or the bank under test (R385). Its own accesses go on. -/
def State.held (s : State) (ld pri off : Nat) : Bool :=
  (s.spmSt ld).busy && s.flag F.SPM_TSTAT_HOLD ld 0 && decide (pri ≠ 0) && decide (pri ≠ 22) &&
    (decide (spmRegion off = s.get F.SPM_TSTAT_REGION ld 0) ||
      (s.get F.SPM_TSTAT_PHASE ld 0 == 3 && decide (spmBank off = s.get F.SPM_TSTAT_BANK ld 0)))

/-- Whether `w` is served in this cycle among the accesses that compete: it is the first of its bank, or asks for the same word as the
first: a read, or the first write of the word (R378, R380). -/
def servedNow (hold : Bool) (ws : List SpmWait) (w : SpmWait) : Bool :=
  let bank := ws.filter fun v => spmBank v.req.off == spmBank w.req.off
  let same (v : SpmWait) : Bool := wordOff v.req.off == wordOff w.req.off
  (bank.any fun v => same v && bank.all fun u => decide (v.rank hold ≤ u.rank hold)) &&
    (w.req.wr.isNone || bank.all fun v => !same v || v.req.wr.isNone || decide (w.rank hold ≤ v.rank hold))

/-- Whether a read is the one that a running scan engine makes (R394). -/
def State.scanServed (s : State) (ld : Nat) (q : SpmReq) : Bool :=
  decide (14 ≤ q.pri) && decide (q.pri ≤ 21) && s.flag F.SCAN_STAT_BUSY ld (q.pri - 14) &&
    wordOff q.off == wordOff (s.get F.SCAN_NEXT_NEXT ld (q.pri - 14)) && decide (0 < s.get F.SCAN_REM_REM ld (q.pri - 14))

/-- The load or store of one served access: the state after it, what it returns to the master, whether it completes with an error
response (R381). The word that a scan engine reads is fed to its CRC unit (R394). -/
def State.spmServe (s : State) (ld : Nat) (w : SpmWait) : State × List Nat × Bool :=
  let q := w.req
  match q.wr with
  | none =>
    if s.scanServed ld q then
      let r := s.readWord ld q.pri (wordOff q.off)
      (State.scanTake r ld (q.pri - 14), [r.2.1], r.2.2)
    else
      let r := s.spmLoad ld q.pri q.off q.size
      (r.1, [r.2.1], r.2.2)
  | some v =>
    let r := s.spmStore ld q.pri q.off v (2 ^ q.size - 1)
    (r.1, [], r.2)

/-- Serve accesses one after another, collecting what they return and whether one of them met an error. -/
def State.spmServeAll (s : State) (ld : Nat) : List SpmWait → State × List Nat × Bool
  | [] => (s, [], false)
  | w :: ws =>
    let a := s.spmServe ld w
    let b := a.1.spmServeAll ld ws
    (b.1, a.2.1 ++ b.2.1, a.2.2 || b.2.2)

/-- An access that lost its bank in cycle `c` (R378). -/
def SpmWait.lose (w : SpmWait) (c : Nat) : SpmWait :=
  let n := w.losses + 1
  { w with losses := n,
           lifted := if w.lifted.isNone && decide (4 ≤ n) && decide (w.req.pri ≠ 0) && decide (w.req.pri ≠ 22)
             then some c else w.lifted }

/-- The requests that enter a cycle: one of each master, and none of a master that waits (R378). -/
def freshReqs (waits : List SpmWait) (reqs : List SpmReq) : List SpmReq :=
  (reqs.foldl (fun (l : List SpmReq) q => if l.any fun x => x.pri == q.pri then l else l ++ [q]) []).filter fun q =>
    waits.all fun w => w.req.pri != q.pri

/-- One BUS cycle of a die's scratchpad (R378, R380, R384, R385), the tiller `prog` cycles into its attempt and its test failed in the
words `bad`: the new requests join the waiting ones, every bank serves its winner, reads before writes, and the others stall. -/
def State.spmCycle (s0 : State) (ld : Nat) (c : SpmCycle) : State :=
  let s := s0.tillerAt ld c.prog
  let m := s.spmSt ld
  let all := m.waits ++ (freshReqs m.waits c.reqs).map fun q => (⟨q, 0, none, false⟩ : SpmWait)
  let hold := m.busy && s.flag F.SPM_TSTAT_HOLD ld 0
  let abort := all.any fun w => s.aborts ld w.req.pri w.req.off
  let stuck (w : SpmWait) : Bool := w.stuck || s.held ld w.req.pri w.req.off
  let blocked (w : SpmWait) : Bool :=
    stuck w || s.aborts ld w.req.pri w.req.off || (m.rmw.contains (spmBank w.req.off) && decide (w.req.pri ≠ 0))
  let comp := all.filter fun w => !blocked w
  let done := comp.filter (servedNow hold comp)
  let lost := comp.filter fun w => !servedNow hold comp w
  let stalled := (all.filter blocked).map fun w => { w with stuck := stuck w }
  let r := s.spmServeAll ld (done.filter fun w => w.req.wr.isNone)
  let w := r.1.spmServeAll ld (done.filter fun w => w.req.wr.isSome)
  let m2 := w.1.spmSt ld
  let rmw := (done.filter fun w => w.req.wr.isSome && decide (w.req.size < 4)).map fun w => spmBank w.req.off
  let s3 := w.1.setSpm ld
    { m2 with waits := stalled ++ lost.map fun w => w.lose m.cycle, cycle := m.cycle + 1, rmw := rmw }
  ((s3.on abort fun s => (s.tillerFails ld c.bad).tillerAbort ld).give r.2.1).respond (r.2.2 || w.2.2)

/-- A request outside the scratchpad is refused as the bus refuses it (R19, R375). -/
def State.spmOutside (s : State) (ld : Nat) (q : SpmReq) : State :=
  s.logErr ld (priMaster ld q.pri) (ld * 2 ^ 28 + q.off) 5 q.wr.isSome

/-- The meaning of SCRATCHPAD_ACCESS. -/
def execScratchpadAccess (ld : Nat) (c : SpmCycle) (s : State) : Answer :=
  let out := c.reqs.filter fun q => decide (0x400000 ≤ q.off)
  let t := s.spmCycle ld { c with reqs := c.reqs.filter fun q => decide (q.off < 0x400000) }
  s.answer (s.hasLd ld && c.reqs.all fun q => decide (q.off < 0x4000000)) true ((t.each out fun s q => s.spmOutside ld q).respond (t.busErr || !out.isEmpty))

end Sys2Proof.Machine
end

