-- ==== Sys2Proof/Machine/Terminals.lean ====
section
/-!
DEFINITION. The field terminals (R38 to R63): thresholds and decodes, pulse checkers and masks (R58, R78, R82), the fault
conditions of R57 at a tick edge on each channel, and the terminals' own events.
-/

namespace Sys2Proof.Machine

/-! ### Frames, codes and sources -/

/-- The slot length of a field die in HCLK cycles (R77). -/
def State.slotLen (s : State) (fd : Nat) : Nat := 4000 * 2 ^ s.get F.TP_FRAME_FLEN (fdie fd) 0

/-- The tick period in HCLK cycles. -/
def State.tickCyc (s : State) : Nat := 8 * s.tickUs

/-- The place of a tick edge in the test-pulse frame, in HCLK cycles (R77). -/
def State.edgeTime (s : State) (fd tick : Nat) : Nat :=
  tick % (32 * s.slotLen fd / s.tickCyc) * s.tickCyc

/-- The slots of the code assigned to a source, the first slot first (R79, R84). -/
def State.codeSlots (s : State) (fd src : Nat) : List Nat :=
  if s.flag F.TP_CODE_ASSIGNED (fdie fd) src then
    [s.get F.TP_CODE_SLOTA (fdie fd) src, s.get F.TP_CODE_SLOTB (fdie fd) src]
  else []

/-- Whether a terminal is an input with test-pulse checking (R58). -/
def State.tpIn (s : State) (fd t : Nat) : Bool := s.mode fd t == 1 && s.flag F.TERM_CFG_TPEN (fdie fd) t

/-- Whether an output tests its switch pair (R54). -/
def State.offTest (s : State) (fd t : Nat) : Bool := s.mode fd t == 2 && s.flag F.TERM_OUTCFG_OFFTEST (fdie fd) t

/-- Whether a terminal checks its own off-pulses (R54, R56). -/
def State.tpSource (s : State) (fd t : Nat) : Bool := s.mode fd t == 3 || s.offTest fd t

/-- The code below which a path sees a source low in its own off-pulse: 5.0 V for an output (R54), the type 1 off threshold for
a TP terminal (R56). -/
def State.lowCode (s : State) (fd t : Nat) : Nat := if s.mode fd t = 3 then 400 else 336

/-- Whether the test-pulse engine of a die runs (R84). -/
def State.tpOn (s : State) (fd : Nat) : Bool := s.flag F.TP_FRAME_TPON (fdie fd) 0

/-- Whether a source has lost its timer or never had a code: no off-pulse comes from it (R56, R75). -/
def State.sourceLost (s : State) (fd src : Nat) : Bool :=
  !s.flag F.TP_CODE_ASSIGNED (fdie fd) src || decide (s.get F.FTMR_CTL_OWNER (fdie fd) src ≠ 3)

/-- Whether the source that an input names is fenced, revoked or without a code (R56, R57, R75). -/
def State.srcFault (s : State) (fd t : Nat) : Bool :=
  let src := s.get F.TERM_CFG_TPSRC (fdie fd) t
  s.tpIn fd t && (s.fenced U.term (fdie fd) src || s.sourceLost fd src)

/-- The die does not serve: without supply, in FBIST, fenced or not loaded (R37, R41, R170, R348, R447). -/
def State.fieldOff (s : State) (fd : Nat) : Bool :=
  let x := s.field fd
  !x.power || x.fbist || s.fenced U.field (fdie fd) 0 || !s.flag F.FSYS_FPWR_LOADED (fdie fd) 0

/-- Every terminal of the die is off and every input open: the die does not serve, or it is in the safe state of R40, in
which channel H goes on with its inputs open. -/
def State.fieldSafe (s : State) (fd : Nat) : Bool := s.fieldOff fd || (s.field fd).vfSafe

/-! ### Switches (R38, R54, R56, R68) -/

/-- A terminal that its current limit, trip comparator or thermal shutdown has turned off stays off until the fence at the
next tick edge takes over (R51, R55, R57); in the safe state of the part every terminal stays off (R356, R418). -/
def State.heldOff (s : State) (fd t : Nat) : Bool :=
  let x := s.term fd t
  s.partSafe || s.part.tapSafe || x.pend.testBit 0 || x.pend.testBit 8 || x.therm

/-- Whether the source switch of a TP terminal is on: the engine owns its timer and drives the pin high (R38, R56, R68), the
engine runs (R84), and neither a fence, a safe state nor a protection holds the source off (R40, R57, R60). With TPON = 0
every source is off (DEDUCED from the field's text). -/
def State.sourceOn (s : State) (fd t : Nat) : Bool :=
  s.mode fd t == 3 && !s.fieldSafe fd && !s.fenced U.term (fdie fd) t && !s.heldOff fd t && s.tpOn fd && !s.sourceLost fd t &&
    s.flag F.FTMR_STAT_PIN (fdie fd) t

/-- Whether a low pin holds a switch of an OFFTEST output open (R54, R68). -/
def State.testLow (s : State) (fd t : Nat) : Bool :=
  s.offTest fd t && s.tpOn fd && !s.sourceLost fd t && !s.flag F.FTMR_STAT_PIN (fdie fd) t

/-- The P-side switch of an output: its enable, less the off-pulse of slot a (R27, R79). -/
def State.pSwitch (s : State) (fd t : Nat) : Bool :=
  s.flag F.TERM_HSTAT_PENA (fdie fd) t && !(s.testLow fd t && (s.term fd t).nextB)

/-- The H-side switch of an output: its enable, less the off-pulse of slot b (R27, R79). -/
def State.hSwitch (s : State) (fd t : Nat) : Bool :=
  s.flag F.TERM_HSTAT_HENA (fdie fd) t && !(s.testLow fd t && !(s.term fd t).nextB)

/-- Whether a terminal sources current: an output with both switches on, or a source that is on. -/
def State.drives (s : State) (fd t : Nat) : Bool := (s.pSwitch fd t && s.hSwitch fd t) || s.sourceOn fd t

/-- Whether a terminal's mode has no output enables: its switches follow neither channel (R38). -/
def State.noEnables (s : State) (fd t : Nat) : Bool := s.mode fd t != 2 && s.mode fd t != 4

/-- A new TERM.CFG: outside OUT and GD both switches are off (R38). -/
def State.modeSet (s : State) (fd t : Nat) : State := s.on (s.noEnables fd t) fun s => s.switchOff fd t

/-! ### What a path delivers (R45, R50, R82) -/

/-- A time within a frame as the P side sees it: the first 4 µs sample at or after it, counted from the tick edge (R78). -/
def State.sampleTime (s : State) (fd time : Nat) : Nat :=
  let e := time / s.tickCyc * s.tickCyc
  min (e + (time - e + 31) / 32 * 32) (e + s.tickCyc) % (32 * s.slotLen fd)

/-- The cycles from one frame time to a later one. -/
def State.since (s : State) (fd t0 now : Nat) : Nat := (now + 32 * s.slotLen fd - t0) % (32 * s.slotLen fd)

/-- Whether an off-pulse begun at `t0` is still within the tolerance of R50 at `now`: in HCLK cycles, or in samples of 4 µs on
the P side. -/
def State.tolerated (s : State) (fd t t0 now : Nat) (hSide : Bool) : Bool :=
  let dur := s.since fd t0 now
  decide ((if hSide then dur else dur / 32 * 32) ≤ s.get F.TERM_PULSECFG_TOLW (fdie fd) t)

/-- The state that a path delivers at frame time `now`: held by the mask (R82), or with a short off-pulse tolerated (R50). -/
def State.delivered (s : State) (fd t : Nat) (x : SensePath) (now : Nat) (hSide : Bool) : Bool :=
  if x.chk.mask then x.chk.held
  else x.level || x.tol.any fun t0 => s.tolerated fd t t0 now hSide

/-- The voltage code that a path delivers: the image word carries it, since the lane runtime decodes VCODE and the mask and the
tolerance act before that (R45, R48; DEDUCED, log entry 31). -/
def State.deliveredCode (s : State) (fd t : Nat) (x : SensePath) (now : Nat) : Nat :=
  if x.chk.mask then x.chk.heldCode
  else if x.tol.any fun t0 => s.tolerated fd t t0 now false then x.last else x.code

/-- A tolerated off-pulse that has grown too long has reached the channel. -/
def State.endTol (s : State) (fd t : Nat) (x : SensePath) (now : Nat) (hSide : Bool) : SensePath :=
  if x.tol.any fun t0 => !s.tolerated fd t t0 now hSide then { x with tol := none } else x

/-! ### Voltage changes (R50, R58, R78, R82) -/

/-- 50 µs in HCLK cycles (R78). -/
abbrev tpWindow : Nat := 400

/-- 2.05 ms in HCLK cycles (R58). -/
abbrev tpLongest : Nat := 16400

/-- The slot whose start lies within 50 µs of a frame time, if one does (R78). -/
def slotNear (len time : Nat) : Option Nat :=
  let k := time / len
  if time - k * len ≤ tpWindow then some (k % 32)
  else if (k + 1) * len - time ≤ tpWindow then some ((k + 1) % 32) else none

/-- A checker at a change of its path at frame time `time`: the state before, and whether it falls. -/
def Checker.change (c : Checker) (expected : List Nat) (len time : Nat) (was fall : Bool) : Checker :=
  let k := time / len
  let c1 := if c.nextBase.isNone && decide ((k + 1) * len ≤ time + tpWindow) then { c with nextBase := some was } else c
  if fall then
    match slotNear len time with
    | some n =>
      if expected.contains n then (if n = k then { c1 with exp := true } else { c1 with expNext := true })
      else { c1 with fall := some time }
    | none => { c1 with fall := some time }
  else match c1.fall with
    | none => c1
    | some t0 =>
      let dur := (time + 32 * len - t0) % (32 * len)
      { c1 with fall := none, forSeen := c1.forSeen || decide (dur ≤ tpLongest) }

/-- One sense path at a change of the terminal voltage. -/
def State.pathChange (s : State) (fd t : Nat) (x : SensePath) (code time : Nat) : SensePath :=
  let lv := s.levelOf fd t code x.level
  let chk := if s.tpOn fd && s.tpIn fd t && lv != x.level then
      x.chk.change (s.codeSlots fd (s.get F.TERM_CFG_TPSRC (fdie fd) t)) (s.slotLen fd) time x.level (!lv) else x.chk
  let fall := x.level && !lv && s.mode fd t == 1 && decide (s.get F.TERM_PULSECFG_TOLW (fdie fd) t ≠ 0)
  { x with code := code, level := lv, tol := if lv then none else if fall then some time else x.tol,
           last := if fall then x.code else x.last,
           low := x.low || (x.due && !s.flag F.FTMR_STAT_PIN (fdie fd) t && decide (code < s.lowCode fd t)), chk := chk }

/-- The masks of the inputs that name a source open, while the checkers run, when its path falls below the type 1 off threshold: each holds the state
it delivered just before (R82). -/
def State.openMasks (s : State) (fd src : Nat) (hSide : Bool) (time : Nat) : State :=
  let ins := (List.range 64).filter fun u => s.tpIn fd u && s.get F.TERM_CFG_TPSRC (fdie fd) u == src
  s.each ins fun s u =>
    let x := s.term fd u
    let o (p : SensePath) : SensePath :=
      if p.chk.mask then p
      else { p with chk := { p.chk with mask := true, held := s.delivered fd u p time hSide,
                                        heldCode := s.deliveredCode fd u p time } }
    s.setTerm fd u (if hSide then { x with h := o x.h } else { x with p := o x.p })

/-- The field timers that capture on the H window state of a terminal (R71). -/
def State.windowTimers (s : State) (fd t : Nat) : List Nat :=
  t :: ((List.range 16).filter fun n => s.get F.FTMR_CTL_CAPSEL (fdie fd) (64 + n) == t).map (64 + ·)

/-- The terminal voltage as one sense path sees it changes, at a frame time in HCLK cycles. -/
def State.voltage (s : State) (fd t : Nat) (hSide : Bool) (code time : Nat) : State :=
  let x := s.term fd t
  let p := if hSide then x.h else x.p
  let at_ := if hSide then time else s.sampleTime fd time
  let p' := s.pathChange fd t p code at_
  let s1 := (s.setTerm fd t (if hSide then { x with h := p' } else { x with p := p' })).on
    (hSide && p'.level != p.level) fun s => s.each (s.windowTimers fd t) fun s n =>
      s.capArm (fdie fd) n p'.level
  s1.on (s.tpOn fd && s.tpSource fd t && decide (400 ≤ p.code) && decide (code < 400)) fun s => s.openMasks fd t hSide at_

/-- Whether a frame time lies in the present tick of one side, both edges included: each side counts from its own tick edge, and its
count restarts there from the tick number (R78). Channel H's tick may last 2 % longer (R170). Outside Run no tick edge comes. -/
def State.inTick (s : State) (fd time : Nat) (hSide : Bool) : Bool :=
  let t := if hSide then (s.field fd).htick else s.tick
  let len := s.tickCyc + (if hSide then s.tickCyc / 50 else 0)
  !s.inRun || decide (s.since fd (s.edgeTime fd t) time ≤ len)

/-- The meaning of TERMINAL_VOLTAGE_CHANGE. -/
def execTerminalVoltageChange (fd t : Nat) (hSide : Bool) (code time : Nat) (s : State) : Answer :=
  s.answer (s.hasFd fd && decide (t < 64)) (decide (code < 1024) && decide (time < 32 * s.slotLen fd) && s.inTick fd time hSide)
    (s.voltage fd t hSide code time)

/-- The mask of one path closes (R82). -/
def State.maskClose (s : State) (fd t : Nat) (hSide : Bool) : State :=
  let x := s.term fd t
  let o (p : SensePath) : SensePath := { p with chk := { p.chk with mask := false } }
  s.setTerm fd t (if hSide then { x with h := o x.h } else { x with p := o x.p })

/-- The meaning of MASK_CLOSE: the mask is open and the source has risen above the type 1 on threshold. -/
def execMaskClose (fd t : Nat) (hSide : Bool) (s : State) : Answer :=
  let x := s.term fd t
  let src := s.term fd (s.get F.TERM_CFG_TPSRC (fdie fd) t)
  let p := if hSide then x.h else x.p
  let q := if hSide then src.h else src.p
  s.answer (s.hasFd fd && decide (t < 64)) (p.chk.mask && decide (432 ≤ q.code)) (s.maskClose fd t hSide)

/-! ### The end of a slot (R54, R56, R58) -/

/-- A checker at the end of slot `k`, for an input: the results join those since the last tick edge. PULSE too is a result of
the slot, since each checker evaluates a slot at its end (DEDUCED from R58). -/
def Checker.slotEnd (c : Checker) (want level : Bool) (len now : Nat) : Checker :=
  let opening := match c.fall with
    | some t0 => decide (tpLongest < (now + 32 * len - t0) % (32 * len))
    | none => false
  let miss := c.live && want && !c.exp && c.base
  { c with
    pulse := c.pulse || (c.live && (c.exp || c.forSeen)), miss := c.miss || miss,
    foreign := c.foreign || (c.live && c.forSeen), exp := c.expNext, expNext := false, forSeen := false,
    base := c.nextBase.getD level, nextBase := none, live := true, fall := if opening then none else c.fall }

/-- Reason `0x10 + k` fences the terminal at the next tick edge. -/
def State.pendFence (s : State) (fd t k : Nat) : State :=
  let x := s.term fd t
  s.setTerm fd t { x with pend := x.pend ||| 2 ^ k }

/-- The fault flag of reason 0x10 + k (R57, R349). -/
def faultFld (k : Nat) : Fld :=
  match k with
  | 0 => F.TERM_FAULT_SHORT_GND
  | 1 => F.TERM_FAULT_SHORT_VF
  | 2 => F.TERM_FAULT_STUCK_ON
  | 3 => F.TERM_FAULT_OFFTEST_FAIL
  | 4 => F.TERM_FAULT_TPMISS
  | 5 => F.TERM_FAULT_TPFOREIGN
  | 6 => F.TERM_FAULT_REVERSED
  | 7 => F.TERM_FAULT_OVERTEMP
  | _ => F.TERM_FAULT_GDTRIP

/-- A flag of R57 that fences at the next tick edge. -/
def State.flagPend (s : State) (fd t k : Nat) : State := (s.raiseFlag (faultFld k) (fdie fd) t).pendFence fd t k

/-- One side's sense path of a terminal. -/
def TermSt.path (x : TermSt) (hSide : Bool) : SensePath := if hSide then x.h else x.p

def TermSt.setPath (x : TermSt) (hSide : Bool) (p : SensePath) : TermSt := if hSide then { x with h := p } else { x with p := p }

/-- The end of a slot for one side's checker of an input. MISSCNT counts a slot of either checker with an error (DESIGN
CHOICE: one error of a checker is one count). -/
def State.slotEndIn (s : State) (fd t slot : Nat) (hSide : Bool) : State :=
  let x := s.term fd t
  let p := x.path hSide
  let len := s.slotLen fd
  let c := p.chk.slotEnd ((s.codeSlots fd (s.get F.TERM_CFG_TPSRC (fdie fd) t)).contains slot) p.level len (((slot + 1) % 32) * len)
  (s.setTerm fd t (x.setPath hSide { p with chk := c })).on ((c.miss && !p.chk.miss) || (c.foreign && !p.chk.foreign))
    fun s => s.count F.TERM_FCNT_MISSCNT (fdie fd) t

/-- The end of a slot for one side of a source, with the current that side saw in the off-pulse in units of 0.5 mA: the
outcome of R54 for an output, TPMISS for a TP terminal whose path saw no fall (R56), which MISSCNT counts as a pattern error of that
checker (DESIGN CHOICE, log entry 39). An off-pulse that the output did not
carry to its end has no outcome. -/
def State.slotEndSource (s : State) (fd t : Nat) (hSide : Bool) (ic : Nat) : State :=
  let x := s.term fd t
  let p := x.path hSide
  let tp := s.mode fd t == 3
  let c := { p.chk with pulse := p.chk.pulse || (p.due && p.low), miss := p.chk.miss || (tp && p.due && !p.low) }
  let s1 := s.setTerm fd t (x.setPath hSide { p with chk := c, due := false, low := false })
  if tp then s1.on (p.due && !p.low) fun s => s.count F.TERM_FCNT_MISSCNT (fdie fd) t
  else s1.on p.due fun s =>
    if 4 ≤ ic then s.flagPend fd t 3 else s.on (!p.low) fun s => s.flagPend fd t 1

/-- The slot counter of one side of a field die (R78): the slot whose end comes next. -/
def FieldSt.slot (x : FieldSt) (hSide : Bool) : Nat := if hSide then x.slotH else x.slotP

/-- A side's slot counter takes a value. -/
def State.setSlot (s : State) (fd : Nat) (hSide : Bool) (k : Nat) : State :=
  s.setField fd (if hSide then { s.field fd with slotH := k } else { s.field fd with slotP := k })

/-- A side's slot counter restarts at a tick edge from the tick number (R78). A slot that ends at the very edge is judged there
(R58). -/
def State.restartSlot (s : State) (fd now : Nat) (hSide : Bool) : State :=
  let k := now / s.slotLen fd % 32
  s.on (!(decide (now % s.slotLen fd = 0) && decide (((s.field fd).slot hSide + 1) % 32 = k))) fun s => s.setSlot fd hSide k

/-- Whether the end of a slot may come now on one side: of the slot that its counter shows, within the present tick (R78). -/
def State.slotDue (s : State) (fd slot : Nat) (hSide : Bool) : Bool :=
  !s.inRun || (decide ((s.field fd).slot hSide = slot) && s.inTick fd ((slot + 1) % 32 * s.slotLen fd) hSide)

/-- The end of a slot on one side of a field die; each side counts its own slots (R78). -/
def State.slotEnd (s0 : State) (fd slot : Nat) (hSide : Bool) (ic : List (Nat × Nat)) : State :=
  let s := s0.setSlot fd hSide ((slot + 1) % 32)
  let s1 := s.on hSide fun s => s.put F.TP_FRAME_SLOTNOW (fdie fd) 0 ((slot + 1) % 32)
  let s2 := s1.each ((List.range 64).filter (s1.tpIn fd)) fun s t => s.slotEndIn fd t slot hSide
  s2.each ((List.range 64).filter fun t => s2.tpSource fd t && (s2.codeSlots fd t).contains slot) fun s t =>
    s.slotEndSource fd t hSide ((ic.lookup t).getD 0)

/-- The meaning of TEST_PULSE_SLOT_END: with TPON = 0 no checker runs (R84). -/
def execTestPulseSlotEnd (fd slot : Nat) (v : SlotView) (s : State) : Answer :=
  s.answer (s.hasFd fd) (decide (slot < 32) && s.tpOn fd && s.slotDue fd slot v.hSide) (s.slotEnd fd slot v.hSide v.ic)

/-! ### Output events (R51, R53, R55, R57) -/

/-- Whether a terminal has a current limit (R51, R56). -/
def State.limited (s : State) (fd t : Nat) : Bool := s.mode fd t == 2 || s.mode fd t == 3

/-- The limit engages. -/
def State.engage (s : State) (fd t : Nat) : State :=
  let s1 := s.setTerm fd t { s.term fd t with lim := true }
  (s1.put F.TERM_HSTAT_HLIM (fdie fd) t 1).count F.TERM_FCNT_LIMCNT (fdie fd) t

/-- The limit is no longer engaged. -/
def State.disengage (s : State) (fd t : Nat) : State :=
  (s.setTerm fd t { s.term fd t with lim := false }).put F.TERM_HSTAT_HLIM (fdie fd) t 0

/-- The meaning of CURRENT_LIMIT_ENGAGE. -/
def execCurrentLimitEngage (fd t : Nat) (s : State) : Answer :=
  s.answer (s.hasFd fd && decide (t < 64)) (s.limited fd t && !(s.term fd t).lim) (s.engage fd t)

/-- The meaning of CURRENT_LIMIT_RELEASE. -/
def execCurrentLimitRelease (fd t : Nat) (s : State) : Answer :=
  s.answer (s.hasFd fd && decide (t < 64)) (s.term fd t).lim (s.disengage fd t)

/-- The meaning of SHORT_GND_TIMEOUT: the switches go off, the flag sets, the fence follows at the next tick edge. -/
def execShortGndTimeout (fd t : Nat) (s : State) : Answer :=
  s.answer (s.hasFd fd && decide (t < 64)) (s.term fd t).lim (((s.switchOff fd t).disengage fd t).flagPend fd t 0)

/-- The trip of R55. -/
def State.gdTrip (s : State) (fd t : Nat) : State :=
  let s1 := s.switchOff fd t
  ((s1.setTerm fd t { s1.term fd t with gdTrip := true }).put F.TERM_HSTAT_HLIM (fdie fd) t 1).flagPend fd t 8

/-- The meaning of GDTRIP: the gate goes off, the flag sets, the fence follows at the next tick edge. -/
def execGdTrip (fd t : Nat) (s : State) : Answer :=
  s.answer (s.hasFd fd && decide (t < 64)) (s.mode fd t == 4 && (s.term fd t).gdOver)
    (s.gdTrip fd t)

/-- The shunt voltage crosses GDTRIP: the 10 µs trip count starts, or it is cancelled and a trip ends (R55, R63). -/
def State.gdCross (s : State) (fd t : Nat) (above : Bool) : State :=
  let x := s.term fd t
  (s.setTerm fd t { x with gdOver := above, gdTrip := x.gdTrip && above }).on (x.gdTrip && !above) fun s =>
    s.put F.TERM_HSTAT_HLIM (fdie fd) t 0

/-- The meaning of GDTRIP_THRESHOLD_CROSSING. -/
def execGdtripThresholdCrossing (fd t : Nat) (above : Bool) (s : State) : Answer :=
  s.answer (s.hasFd fd && decide (t < 64)) (s.mode fd t == 4) (s.gdCross fd t above)

/-- The meaning of THERMAL_SHUTDOWN: the terminal switches off; flag and fence follow at the next tick edge. -/
def execThermalShutdown (fd t : Nat) (s : State) : Answer :=
  s.answer (s.hasFd fd && decide (t < 64)) (decide (2 ≤ s.mode fd t) && decide (s.mode fd t ≤ 4))
    (let s1 := s.switchOff fd t
     (s1.setTerm fd t { s1.term fd t with therm := true }).put F.TERM_HSTAT_HTHERM (fdie fd) t 1)

/-- The meaning of REVERSED_SUPPRESSION_END. -/
def execReversedSuppressionEnd (fd t : Nat) (s : State) : Answer :=
  s.answer (s.hasFd fd && decide (t < 64)) (s.term fd t).supp (s.setTerm fd t { s.term fd t with supp := false })

/-- The meaning of OPEN_LOAD_DETECT: a report only. -/
def execOpenLoadDetect (fd t : Nat) (s : State) : Answer :=
  s.answer (s.hasFd fd && decide (t < 64)) (decide (16 ≤ max (s.term fd t).olOn (s.term fd t).olOff)) (s.raiseFlag F.TERM_FAULT_OPEN_LOAD (fdie fd) t)

/-- The meaning of TERM_FENCE_CLR: the clear is decided at the next tick edge (R61). -/
def execTermFenceClr (m : Master) (fd t : Nat) (s : State) : Answer :=
  s.answer (s.hasFd fd && decide (t < 64)) true
    (s.asWrite .TERM_FCTL (fdie fd) t m m.isSv true fun s => s.setTerm fd t { s.term fd t with clrReq := true })

/-! ### The filter (R48) -/

/-- One tick edge of a filter of length `nf`. -/
def Filt.sample (f : Filt) (nf : Nat) (closed : Bool) (lm : Nat) : Filt :=
  let run := if closed == f.acc then 0 else f.run + 1
  let take := decide (nf < run)
  let lmRun := if lm = f.lm then 0 else if lm = f.cand then f.lmRun + 1 else 1
  let lmTake := decide (nf < lmRun)
  { acc := if take then closed else f.acc, run := if take then 0 else run, lm := if lmTake then lm else f.lm,
    cand := lm, lmRun := if lmTake then 0 else lmRun }

/-! ### The conditions of R57 at a tick edge -/

/-- The bits of R57's conditions, bit k for reason 0x10 + k. -/
def condBits (l : List (Nat × Bool)) : Nat := l.foldl (fun a e => a + e.2.toNat * 2 ^ e.1) 0

/-- Set the flags of the conditions and fence for the first of them, in the order of R349; SHORT_VF and STUCK_ON of an output
act beside an earlier reason too (R62). -/
def State.judge (s : State) (fd t bits : Nat) : State :=
  let ks := (List.range 9).filter bits.testBit
  (s.each ks fun s k => s.raiseFlag (faultFld k) (fdie fd) t).each ks fun s k => s.fenceTerm fd t (0x10 + k)

/-- The report flags of a line-monitored decode and of a lost source (R57). -/
def State.report (s : State) (fd t : Nat) (f : Filt) : State :=
  let d := fdie fd
  let lm := s.lineMon fd t
  ((s.on (lm && f.lm == 3) fun s => s.raiseFlag F.TERM_FAULT_WIRE_BREAK d t).on (lm && f.lm == 0)
    fun s => s.raiseFlag F.TERM_FAULT_LM_SHORT d t).on (s.srcFault fd t) fun s => s.raiseFlag F.TERM_FAULT_SRC_FAULT d t

/-- Whether a reported condition that fences nothing is present (R57, R61). -/
def State.reported (s : State) (fd t : Nat) (f : Filt) : Bool :=
  s.srcFault fd t || (s.lineMon fd t && (f.lm == 3 || f.lm == 0))

/-- The image word of a terminal (R45) in slot `slot` at frame time `now`. -/
def State.imageWord (s : State) (fd t now : Nat) (ilim : Bool) : Nat :=
  let x := s.term fd t
  let fenced := s.fenced U.term (fdie fd) t
  let md := s.mode fd t
  let valid := decide (md ≠ 0) && !fenced && !s.fieldSafe fd
  packBits
    [(s.deliveredCode fd t x.p now, 10), (if md = 1 ∨ md = 5 then 0 else x.ic, 10), (now / s.slotLen fd % 32, 5),
     (x.p.chk.pulse.toNat, 1), (x.p.chk.miss.toNat, 1), (x.p.chk.foreign.toNat, 1), (ilim.toNat, 1), (x.therm.toNat, 1),
     (fenced.toNat, 1), (valid.toNat, 1)]

/-- Clear the results a tick edge has carried. -/
def Checker.carried (c : Checker) : Checker := { c with pulse := false, miss := false, foreign := false }

/-- A sense path at a tick edge: a tolerance that has run out, and a slot that begins at this edge and so counts (R504; at the
very instant of the start too, DESIGN CHOICE). -/
def State.pathEdge (s : State) (fd t : Nat) (x : SensePath) (now : Nat) (hSide : Bool) : SensePath :=
  let y := s.endTol fd t x now hSide
  if now % s.slotLen fd = 0 then { y with chk := { y.chk with live := true } } else y

/-- The edges in a row that show R51's short to channel P before it fences: they span 2 ms (R57). -/
def State.sgEdges (s : State) : Nat := (2000 + s.tickUs - 1) / s.tickUs + 1

/-- Channel P's conditions of R57 for one terminal at an edge, with the word of R45 behind them. An output is off while either enable is
(R27); STUCK_ON alone asks for both. A GD code above the trip
threshold at an edge counts as a trip (DESIGN CHOICE: the code at an edge stands for the 10 µs before it). -/
def State.pJudge (s : State) (fd t now : Nat) : State :=
  let d := fdie fd
  let x := s.term fd t
  let lm := s.lineMon fd t
  let out := s.mode fd t == 2
  let both := out && !s.flag F.TERM_HSTAT_PENA d t && !s.flag F.TERM_HSTAT_HENA d t
  let on := out && s.flag F.TERM_HSTAT_PENA d t && s.flag F.TERM_HSTAT_HENA d t
  let off := out && !on
  let run (c : Bool) (n : Nat) : Nat := if c then n + 1 else 0
  let vf := run (off && decide (336 ≤ x.p.code) && decide (x.ic < 4)) x.vfP
  let st := run (both && decide (4 ≤ x.ic)) x.stuckP
  let sg := run (x.lim && decide (400 ≤ x.ic)) x.sg
  let olOn := run (on && decide (x.ic < 2)) x.olOn
  let olOff := run (off && s.flag F.TERM_OUTCFG_OLOFF d t && decide (320 ≤ x.p.code)) x.olOff
  let p := s.pathEdge fd t x.p now false
  let pf := x.pf.sample (s.get F.TERM_CFG_FILT d t) (s.delivered fd t p now false && !s.srcFault fd t) (lmDecode p.code)
  let gd := s.mode fd t == 4 && decide (2 * s.get F.TERM_OUTCFG_GDTRIP d t < x.ic)
  let bits := x.pend ||| condBits
    [(0, decide (s.sgEdges ≤ sg)), (1, decide (2 ≤ vf) || (lm && pf.lm == 4)), (2, decide (2 ≤ st)), (4, p.chk.miss),
     (5, p.chk.foreign), (6, decide (s.mode fd t ≠ 0) && !x.supp && decide (p.code < 240)), (7, x.therm), (8, gd)]
  let s1 := s.setTerm fd t
    { x with p := p, pf := pf, vfP := min vf 2, stuckP := min st 2, sg := min sg s.sgEdges, olOn := min olOn 16,
             olOff := min olOff 16, pend := 0,
             cond := decide (bits ≠ 0) || s.reported fd t pf || decide (16 ≤ olOn) || decide (16 ≤ olOff) }
  let s2 := (s1.report fd t pf).on ((x.olOn == 16 && decide (16 ≤ olOn)) || (x.olOff == 16 && decide (16 ≤ olOff))) fun s =>
    s.raiseFlag F.TERM_FAULT_OPEN_LOAD d t
  let s3 := s2.judge fd t bits
  let s4 := s3.put F.TERM_PIMG_IMG d t (s3.imageWord fd t now (x.lim || x.gdTrip || bits.testBit 8))
  let y := s4.term fd t
  s4.setTerm fd t { y with p := { y.p with chk := y.p.chk.carried } }

/-- The terminals of a die in the order in which an edge judges them: the sources before the inputs that name them, so that an
input reads open in the tick of its source's fence (R57). -/
def State.edgeOrder (s : State) (fd : Nat) : List Nat :=
  (List.range 64).filter (fun t => s.mode fd t != 1) ++ (List.range 64).filter fun t => s.mode fd t == 1

/-- Channel P's part of a tick edge of a field die (R43, R45, R57, R78). -/
def State.pEdge (s0 : State) (fd now : Nat) : State :=
  let s := s0.restartSlot fd now false
  s.each (s.edgeOrder fd) fun s t => s.pJudge fd t now

/-- The H window state of a terminal (R63): HSTAT.HZONE. The table has no code for a line-monitored input shorted to VF; it
shows 0b011, high (DESIGN CHOICE). -/
def State.hzone (s : State) (fd t : Nat) (x : SensePath) : Nat :=
  let md := s.mode fd t
  if s.fieldSafe fd || s.fenced U.term (fdie fd) t || !(md == 1 || md == 2 || md == 3) then 0
  else if x.code < 240 then 1
  else if s.lineMon fd t then
    (match lmDecode x.code with
     | 0 => 4
     | 1 => 5
     | 2 => 6
     | 3 => 7
     | _ => 3)
  else if x.level then 3 else 2

/-- Channel H's conditions of R57 for one terminal at its edge, its window, its filter and the decision of a clear (R43, R61). The
table gives the 2 mA comparator no count of edges; two in a row count, as on channel P (DESIGN CHOICE). A thermal shutdown
ends at the first edge below 175 °C (DESIGN CHOICE: the spec gives no hysteresis). -/
def State.hJudge (s : State) (fd t now : Nat) : State :=
  let d := fdie fd
  let x := s.term fd t
  let lm := s.lineMon fd t
  let off := s.mode fd t == 2 && !s.flag F.TERM_HSTAT_PENA d t && !s.flag F.TERM_HSTAT_HENA d t
  let run (c : Bool) (n : Nat) : Nat := if c then n + 1 else 0
  let vf := run (off && decide (336 ≤ x.h.code)) x.vfH
  let st := run (off && x.cur) x.stuckH
  let h := s.pathEdge fd t x.h now true
  let open_ := s.fieldSafe fd || s.fenced U.term d t || s.srcFault fd t
  let hf := x.hf.sample (s.get F.TERM_CFG_FILT d t) (s.delivered fd t h now true && !open_) (lmDecode h.code)
  let bits := x.pend ||| condBits
    [(1, decide (2 ≤ vf) || (lm && hf.lm == 4)), (2, decide (2 ≤ st)), (4, h.chk.miss), (5, h.chk.foreign),
     (6, decide (s.mode fd t ≠ 0) && !x.supp && decide (h.code < 240)), (7, x.therm)]
  let clean := if x.cond || decide (bits ≠ 0) || s.reported fd t hf then 0 else min 16 (x.clean + 1)
  let was := s.fenced U.term d t
  let therm := x.therm && decide (956 ≤ s.get F.TERM_TEMP_TEMPC d t)
  let s1 := s.setTerm fd t
    { x with h := { h with chk := h.chk.carried }, hf := hf, vfH := min vf 2, stuckH := min st 2, pend := 0, cond := false,
             clean := clean, clrReq := false, therm := therm }
  let s2 := (((s1.put F.TERM_HSTAT_HZONE d t (s.hzone fd t h)).putB F.TERM_HSTAT_HPULSE d t h.chk.pulse).putB
    F.TERM_HSTAT_HMISS d t h.chk.miss).putB F.TERM_HSTAT_HFOREIGN d t h.chk.foreign
  let s3 := (s2.putB F.TERM_HSTAT_HOVER d t (decide (432 < h.code))).putB F.TERM_HSTAT_HTHERM d t therm
  let s4 := (s3.report fd t hf).judge fd t bits
  s4.on (x.clrReq && was) fun s =>
    if 16 ≤ clean then s.clearTerm fd t else s.put F.TERM_FCTL_CLRREF d t 1

/-- Channel H's part of its tick edge of a field die. -/
def State.hEdge (s : State) (fd now : Nat) : State := s.each (s.edgeOrder fd) fun s t => s.hJudge fd t now

/-- What the converters show at an edge reaches one terminal: both voltages, the currents, the temperature. -/
def State.measure (s : State) (m : Meas) (now : Nat) : State :=
  let s1 := (s.voltage m.fd m.t false (min m.vp 1023) now).voltage m.fd m.t true (min m.vh 1023) now
  let x := s1.term m.fd m.t
  (s1.setTerm m.fd m.t { x with ic := min m.ic 1023, cur := m.cur }).put F.TERM_TEMP_TEMPC (fdie m.fd) m.t
    (min m.temp 1023)

/-- Whether a logic die has a word of this tick for a terminal, valid and not fenced (R22, R46). -/
def State.wordHere (s : State) (ld fd t : Nat) : Bool :=
  let w := s.frozenWord ld fd t
  s.frozenAt ld fd == s.tick + 1 && w.testBit 31 && !w.testBit 30

/-- The source state of R57 as channel P sees it: the word of the source that an input names reads fenced, or the source has
no code or no timer. -/
def State.srcFaultP (s : State) (ld fd t : Nat) : Bool :=
  let src := s.get F.TERM_CFG_TPSRC (fdie fd) t
  s.tpIn fd t && ((s.frozenWord ld fd src).testBit 30 || s.sourceLost fd src)

/-- What channel P reads of a terminal on logic die `ld` in the present tick: the frozen image word, with the decode and
filter of the lane runtime (R45, R46, R48, R107). -/
def State.readP (s : State) (ld fd t : Nat) : TermRead :=
  let lost := !s.wordHere ld fd t
  let x := s.pRead ld fd t
  { closed := x.f.acc && !lost && !s.srcFaultP ld fd t, lost := lost,
    lampOk := !lost && decide (4 ≤ bitsOf (s.frozenWord ld fd t) 10 10),
    mat := if lost then .faultFenced else match x.f.lm with
      | 1 => .free
      | 0 => .stepped
      | 2 => .faultRes
      | 3 => .faultWire
      | _ => .faultFenced }

/-- One tick of channel P's decode and filter in the lane runtime of die `ld` (R45, R48, R504): VCODE against the thresholds;
an absent or invalid word samples open, and the decode goes on from open (DESIGN CHOICE). -/
def State.sampleP (s : State) (ld fd t : Nat) : State :=
  let code := bitsOf (s.frozenWord ld fd t) 0 10
  let ok := s.wordHere ld fd t
  let x := s.pRead ld fd t
  let lv := ok && s.levelOf fd t code x.level
  s.setPRead ld fd t
    ⟨lv, x.f.sample (s.get F.TERM_CFG_FILT (fdie fd) t) (lv && !s.srcFaultP ld fd t) (if ok then lmDecode code else 2)⟩

/-- What channel H reads of a terminal (R46, R48, R107). -/
def State.readH (s : State) (fd t : Nat) : TermRead :=
  let x := s.term fd t
  let lost := s.fieldSafe fd || s.fenced U.term (fdie fd) t
  { closed := x.hf.acc && !lost && !s.srcFault fd t, lost := lost, lampOk := !lost && x.cur,
    mat := if lost then .faultFenced else match x.hf.lm with
      | 1 => .free
      | 0 => .stepped
      | 2 => .faultRes
      | 3 => .faultWire
      | _ => .faultFenced }

end Sys2Proof.Machine
end

