-- ==== Sys2Proof/Machine/Timers.lean ====
section
/-!
DEFINITION. The timer channels of both kinds of die (R64 to R76) and the test-pulse engine (R79 to R84). CNT holds the count
in the cycle after the timer's last event, or as last observed; an event's `elapsed` counts the cycles since, and where an
access has none they are a free number that stops short of the next event (log entry 18).
-/

namespace Sys2Proof.Machine

/-- Timers of a die (R64). -/
def timerCount (die : Nat) : Nat := if die < 2 then 32 else 80

/-- Whether the part has timer `n` of die `die`. -/
def State.hasTimer (s : State) (die n : Nat) : Bool := s.hasDie die && decide (n < timerCount die)

/-- The unit kind of a die's timers. -/
def timerKind (die : Nat) : Nat := if die < 2 then U.ltimer else U.ftimer

/-- The register of a timer that holds its CTL. -/
def ctlReg (die : Nat) : Reg := if die < 2 then .LTMR_CTL else .FTMR_CTL

/-- The register of a timer that holds its CAP. -/
def capReg (die : Nat) : Reg := if die < 2 then .LTMR_CAP else .FTMR_CAP

/-- Whether a timer counts. -/
def State.counts (s : State) (die n : Nat) : Bool := s.flag (tmr die).en die n && !s.frozenTimer die n

/-- The lowest count that a running timer may have reached since its last event: it has not passed a match or zero. -/
def State.lowest (s : State) (die n : Nat) : Nat :=
  let f := tmr die
  let c := s.get f.cmp die n
  if 0 < c ∧ c ≤ s.get f.cnt die n then c else 0

/-- The most cycles that can have passed since a timer's last event. -/
def State.mayElapse (s : State) (die n : Nat) : Nat :=
  if s.counts die n then s.get (tmr die).cnt die n - s.lowest die n else 0

/-- The present count: a running timer has counted down by a free number of cycles (R65, log entry 18). -/
def State.settle (s : State) (die n : Nat) : State :=
  s.on (s.counts die n) fun s =>
    (s.put (tmr die).cnt die n (s.get (tmr die).cnt die n - s.freeBelow (s.mayElapse die n + 1))).spend

/-- The frozen timers of an owner whose core is about to halt stop at their present counts, and a capture edge on its way to one is
suppressed (R74): logic timers of die `ld` under an owner code, and for the supervisor the field timers it leases. -/
def State.settleOwned (s : State) (ld code : Nat) : State :=
  let own (die n : Nat) (c : Nat) : Bool := s.flag (tmr die).frz die n && s.get (tmr die).owner die n == c
  let s1 := s.each ((List.range 32).filter fun n => own ld n code) fun s n => (s.settle ld n).setCapDue ld n 0
  s1.on (decide (code = 9)) fun s => s.each s.fds fun s fd =>
    s.each ((List.range 80).filter fun n => own (fdie fd) n 1) fun s n => (s.settle (fdie fd) n).setCapDue (fdie fd) n 0

/-- The pin takes a value; the pin of a logic timer is its event line (R64, R68). -/
def State.pinSet (s : State) (die n : Nat) (b : Bool) : State :=
  (s.putB (tmr die).pin die n b).on (decide (die < 2) && s.flag (tmr die).pin die n != b) fun s => s.eventEdge die n b

/-- A pin action of R68. -/
def State.pinAct (s : State) (die n code : Nat) : State :=
  match code with
  | 0 => s
  | 1 => s.pinSet die n true
  | 2 => s.pinSet die n false
  | _ => s.pinSet die n (!s.flag (tmr die).pin die n)

/-- The tick strobe reaches the timers of a logic die that capture on it; its end is an edge too (R71). -/
def State.strobeCapture (s : State) (die : Nat) : State :=
  s.each ((List.range 32).filter fun m => s.get F.LTMR_CTL_CAPSEL die m == 0) fun s m =>
    (s.capArm die m true).capArm die m false

/-- The wrap: CNT takes RELOAD and CMP takes CMPPRE (R65, R66). -/
def State.wrap (s : State) (die n : Nat) : State :=
  let f := tmr die
  (s.put f.cnt die n (s.get f.reload die n)).put f.cmp die n (s.get f.cmppre die n)

/-! ### The test-pulse engine (R79 to R81) -/

/-- The distance from one slot of a code to the other, in HCLK cycles: from the first, or from the second. -/
def State.codeGap (s : State) (fd n : Nat) (fromB : Bool) : Nat :=
  let g := s.get F.TP_CODE_SLOTB (fdie fd) n - s.get F.TP_CODE_SLOTA (fdie fd) n
  (if fromB then 32 - g else g) * s.slotLen fd

/-- The engine's values for the period that begins at a slot of the code: the pin is low from the zero event on for WIDTH
cycles (log entry 19). -/
def State.engineSet (s : State) (fd n : Nat) (fromB : Bool) : State :=
  let d := fdie fd
  let gap := s.codeGap fd n fromB
  (s.put F.FTMR_RELOAD_RELOAD d n (gap - 1)).put F.FTMR_CMPPRE_CMPPRE d n (gap - s.get F.TP_CODE_WIDTH d n)

/-- The first slot start of the code at or after a frame time: whether it is that of slot b, and the cycles to it (R79). -/
def State.nextPulse (s : State) (fd n now : Nat) : Bool × Nat :=
  let d := fdie fd
  let a := s.get F.TP_CODE_SLOTA d n * s.slotLen fd
  let b := s.get F.TP_CODE_SLOTB d n * s.slotLen fd
  if now ≤ a then (false, a - now) else if now ≤ b then (true, b - now) else (false, a + 32 * s.slotLen fd - now)

/-- The engine starts a source at a frame time: the pin is high until the next slot of the code begins. The timer's own reload and
compare carry the pulses from there (R65 to R68, R84). -/
def State.engineRunAt (s : State) (fd n now : Nat) : State :=
  let d := fdie fd
  let nx := s.nextPulse fd n now
  let s1 := (((s.put F.FTMR_CTL_ZACT d n 2).put F.FTMR_CTL_MACT d n 1).put F.FTMR_CTL_EN d n 1).put F.FTMR_STAT_PIN d n 1
  let s2 := (((s1.put F.FTMR_RELOAD_RELOAD d n (nx.2 - 1)).put F.FTMR_CMPPRE_CMPPRE d n 0xFFFFFF).wrap d n).engineSet fd n nx.1
  s2.setTerm fd n { s2.term fd n with nextB := nx.1 }

/-- The engine starts a source at a time within the present tick that the write does not tell (a free value). -/
def State.engineRun (s : State) (fd n : Nat) : State :=
  (s.engineRunAt fd n ((s.edgeTime fd (s.field fd).htick + s.freeBelow s.tickCyc) % (32 * s.slotLen fd))).spend

/-- The engine stops a source; the lease stays (R84). -/
def State.engineHalt (s : State) (fd n : Nat) : State :=
  (s.idleTimer (fdie fd) n).put F.FTMR_CTL_OWNER (fdie fd) n 3

/-- The engine takes the timer of a source, and runs it while TPON is 1 (R84). -/
def State.engineTake (s : State) (fd n : Nat) : State :=
  (s.engineHalt fd n).on (s.tpOn fd) fun s => s.engineRun fd n

/-- The engine gives the timer back (R84). -/
def State.engineDrop (s : State) (fd n : Nat) : State := s.idleTimer (fdie fd) n

/-- The masks of R82 close with TPON = 0: no checker runs that could close one later (R84; DESIGN CHOICE, log entry 172). -/
def State.dropMasks (s : State) (fd : Nat) : State :=
  s.on (!s.tpOn fd) fun s => s.each (List.range 64) fun s t => (s.maskClose fd t false).maskClose fd t true

/-- The engine takes up its sources after a change of TPFRAME: they stop with TPON = 0 and start, or start again at the new
slot length, with TPON = 1 (R77, R84). -/
def State.frameSet (s : State) (fd : Nat) : State :=
  (s.each ((List.range 64).filter fun n => s.get F.FTMR_CTL_OWNER (fdie fd) n == 3) fun s n => s.engineTake fd n).dropMasks fd

/-- The frames realign to a tick edge that does not follow the one before: every running source starts again at the place of the
tick in the frame (R77, R79). From one tick to the next the timers carry the pulses on their own (R84; DESIGN CHOICE, log entry
173). -/
def State.realign (s : State) (fd : Nat) : State :=
  s.each ((List.range 64).filter fun n => s.tpOn fd && s.get F.FTMR_CTL_OWNER (fdie fd) n == 3) fun s n =>
    s.engineRunAt fd n (s.edgeTime fd (s.field fd).htick)

/-- A new TPCODEn word: the fields, and the lease of TTMRn (R84). The word that stands already changes nothing. -/
def State.setCode (s : State) (fd n val : Nat) : State :=
  let d := fdie fd
  let was := s.flag F.TP_CODE_ASSIGNED d n
  s.on (s.word .TP_CODE d n != val % 2 ^ 32) fun s =>
    let s1 := ((s.put F.TP_CODE_SLOTA d n (bitsOf val 0 5)).put F.TP_CODE_SLOTB d n (bitsOf val 8 5)).put F.TP_CODE_WIDTH d n
      (bitsOf val 16 14)
    let s2 := s1.putB F.TP_CODE_ASSIGNED d n (val.testBit 31)
    if val.testBit 31 then s2.on (!s.fenced U.ftimer d n) fun s => s.engineTake fd n
    else s2.on was fun s => s.engineDrop fd n

/-- A cleared field timer: the engine takes the lease of an assigned source again (R84). -/
def State.engineRetake (s : State) (fd n : Nat) : State :=
  s.on (decide (n < 64) && s.flag F.TP_CODE_ASSIGNED (fdie fd) n && !s.fenced U.field (fdie fd) 0) fun s => s.engineTake fd n

/-- The timers that the image names for channel H are leased to it when the die is loaded (R73, log entry 30). -/
def State.leaseH (s : State) (fd : Nat) : State :=
  s.each ((List.range 80).filter fun n => decide (s.timerCell fd n ≠ 0) && s.get F.FTMR_CTL_OWNER (fdie fd) n == 0 &&
      !s.fenced U.ftimer (fdie fd) n) fun s n => s.put F.FTMR_CTL_OWNER (fdie fd) n 2

/-- Whether a TPCODEn word leaves a legal code (R80, R81). -/
def State.codeOk (s : State) (fd n val : Nat) : Bool :=
  let d := fdie fd
  let a := bitsOf val 0 5
  let b := bitsOf val 8 5
  let w := bitsOf val 16 14
  let offtest := s.mode fd n == 2 && s.flag F.TERM_OUTCFG_OFFTEST d n
  !val.testBit 31 ||
    (decide (a < b) && decide (1600 ≤ w) && decide (w ≤ 16000) && decide (w ≤ s.slotLen fd) &&
      (!offtest || decide (w ≤ 8000)) &&
      (List.range 64).all fun m => decide (m = n) || s.codeSlots fd m != [a, b])

/-- Whether a write of TPCODEn refuses no field (R9, R489). -/
def State.codeFieldOk (s : State) (fd n val : Nat) : Bool :=
  let d := fdie fd
  let same := s.word .TP_CODE d n == val % 2 ^ 32
  same || (s.gate d && !s.fenced U.field d 0 && decide (bitsOf val 5 3 = 0) && decide (bitsOf val 13 3 = 0) &&
    !val.testBit 30 && s.codeOk fd n val)

/-- The meaning of TPCODE_WRITE. -/
def execTpcodeWrite (m : Master) (fd n val : Nat) (s : State) : Answer :=
  s.answer (s.hasFd fd && decide (n < 64)) true
    (s.asWrite .TP_CODE (fdie fd) n m m.isSv (s.codeFieldOk fd n val) fun s => s.setCode fd n val)

/-! ### Events (R65, R66, R68) -/

/-- A source's off-pulse begins at the zero event of its timer: it counts on both sides where the terminal drove its output
until then (R54, R56), and the following pulse is that of the code's other slot. -/
def State.pulseStart (s : State) (fd n : Nat) (on : Bool) : State :=
  let x := s.term fd n
  let o (p : SensePath) : SensePath := { p with due := on, low := on && decide (p.code < s.lowCode fd n) }
  (s.setTerm fd n { x with p := o x.p, h := o x.h, nextB := !x.nextB }).engineSet fd n (!x.nextB)

/-- The zero event and the wrap after it; a match in the same cycle where CMP is 0 (R68). A source's timer begins an off-pulse
and takes the values of the next period. -/
def State.timerZero (s : State) (die n : Nat) : State :=
  let f := tmr die
  let both := s.get f.cmp die n == 0
  let s1 := (s.raiseFlag f.zero die n).on both fun s => s.raiseFlag f.match_ die n
  let mact := s.get f.mact die n
  let act := if both && decide (mact ≠ 0) then mact else s.get f.zact die n
  let s2 := (s1.pinAct die n act).wrap die n
  s2.on (decide (2 ≤ die) && s.get f.owner die n == 3) fun t => t.pulseStart (die - 2) n (s.drives (die - 2) n)

/-- The match event. -/
def State.timerMatch (s : State) (die n : Nat) : State :=
  let f := tmr die
  ((s.raiseFlag f.match_ die n).pinAct die n (s.get f.mact die n)).put f.cnt die n (s.get f.cmp die n - 1)

/-- The meaning of TIMER_ZERO: the count reaches 0, and a match that is due comes before it (R66). -/
def execTimerZero (die n : Nat) (s : State) : Answer :=
  s.answer (s.hasTimer die n) (s.counts die n && decide (s.lowest die n = 0)) (s.timerZero die n)

/-- The meaning of TIMER_MATCH; a match at CMP 0 is part of TIMER_ZERO. -/
def execTimerMatch (die n : Nat) (s : State) : Answer :=
  let f := tmr die
  s.answer (s.hasTimer die n)
    (s.counts die n && decide (0 < s.get f.cmp die n) && decide (s.get f.cmp die n ≤ s.get f.cnt die n)) (s.timerMatch die n)

/-! ### Writes by the owner (R67, R70, R73) -/

/-- Whether a master owns a timer (R73). -/
def State.ownsTimer (s : State) (m : Master) (die n : Nat) : Bool :=
  let o := s.get (tmr die).owner die n
  if die < 2 then decide (m.die = die) && decide (o ≠ 0) && decide (o = m.code) && decide (m.code ≤ 9)
  else m.isSv && decide (o = 1)

/-- EN from 0 to 1: the next cycle is a wrap without a zero event (R67). -/
def State.timerEnable (s : State) (die n : Nat) : State :=
  s.on (!s.flag (tmr die).en die n && !s.fenced (timerKind die) die n) fun s => (s.put (tmr die).en die n 1).wrap die n

/-- EN from 1 to 0 after `elapsed` cycles: CNT and the pin hold (R67). -/
def State.timerDisable (s : State) (die n elapsed : Nat) : State :=
  let f := tmr die
  s.on (s.flag f.en die n) fun s => (s.put f.en die n 0).put f.cnt die n (s.get f.cnt die n - elapsed)

/-- The meaning of TIMER_ENABLE. -/
def execTimerEnable (m : Master) (die n : Nat) (s : State) : Answer :=
  s.answer (s.hasTimer die n) true
    (s.asWrite (ctlReg die) die n m (s.ownsTimer m die n) true fun s => s.timerEnable die n)

/-- The meaning of TIMER_DISABLE. -/
def execTimerDisable (m : Master) (die n elapsed : Nat) (s : State) : Answer :=
  s.answer (s.hasTimer die n) (decide (elapsed ≤ s.mayElapse die n))
    (s.asWrite (ctlReg die) die n m (s.ownsTimer m die n) true fun s => s.timerDisable die n elapsed)

/-- The meaning of TIMER_RLDNOW: on a field timer the bit is reserved, and a 1 is refused (R70, R489). -/
def execTimerRldnow (m : Master) (die n : Nat) (s : State) : Answer :=
  s.answer (s.hasTimer die n) true
    (s.asWrite (ctlReg die) die n m (s.ownsTimer m die n) (decide (die < 2)) fun s =>
      s.on (!s.fenced (timerKind die) die n) fun s => s.wrap die n)

/-- Whether a word written to register `k` of a timer block (its offset in words) refuses no field (R76, R489). -/
def State.timerWordOk (s : State) (die n k v : Nat) : Bool :=
  match k with
  | 0 =>
    decide (bitsOf v 7 2 ≠ 3) && (decide (2 ≤ die) || decide (bitsOf v 9 6 ≤ 32)) && (decide (die < 2) || !v.testBit 15) &&
      decide (bitsOf v 16 4 = s.get (tmr die).owner die n) && decide (v / 2 ^ 20 = 0)
  | 2 | 3 => decide (v < 2 ^ 24)
  | 6 =>
    v.testBit 2 == s.flag (tmr die).captured die n && v.testBit 4 == s.flag (tmr die).pin die n && decide (v / 2 ^ 5 = 0)
  | 7 => decide (v = 0)
  | _ => false

/-- A word written to CTL. EN and RLDNOW act as R67 and R70 give; RLDNOW wraps a timer that does not count too (DESIGN CHOICE:
R67 says CNT holds, R70 that the next cycle is a wrap). A capture edge in flight is lost with CAPEN. -/
def State.timerCtl (s : State) (die n v : Nat) : State :=
  let f := tmr die
  let s1 := ((s.put f.zact die n (bitsOf v 2 2)).put f.mact die n (bitsOf v 4 2)).put f.capen die n (bitsOf v 6 1)
  let s2 := ((s1.put f.capedge die n (bitsOf v 7 2)).put f.capsel die n (bitsOf v 9 6)).put f.frz die n (bitsOf v 1 1)
  let s3 := if v.testBit 0 then s2.timerEnable die n else (s2.settle die n).timerDisable die n 0
  (s3.on (v.testBit 15) fun s => s.wrap die n).on (!v.testBit 6) fun s => s.setCapDue die n 0

/-- A word written to register `k` of a timer block by its owner; a fenced timer takes nothing (R11). -/
def State.timerWord (s : State) (die n k v : Nat) : State :=
  let f := tmr die
  s.on (!s.fenced (timerKind die) die n) fun s =>
    match k with
    | 0 => s.timerCtl die n v
    | 2 => s.put f.reload die n v
    | 3 => s.put f.cmppre die n v
    | 6 =>
      ((s.w1c f.zero die n (bitsOf v 0 1)).w1c f.match_ die n (bitsOf v 1 1)).w1c f.overcap die n (bitsOf v 3 1)
    | _ => s

/-! ### Capture (R71, R72) -/

/-- A capture of the count `elapsed` cycles after the last event; the edges `due` are still on their way. -/
def State.capture (s : State) (die n elapsed due : Nat) : State :=
  let f := tmr die
  let v := s.get f.cnt die n - elapsed
  let s1 := (s.on (s.flag f.captured die n) fun s => s.raiseFlag f.overcap die n).setCapDue die n due
  ((s1.put f.cap die n v).put f.cnt die n v).put f.captured die n 1

/-- Whether a capture can occur now: an edge that the timer selects has come from its source (R71). -/
def State.canCapture (s : State) (die n elapsed : Nat) : Bool :=
  let f := tmr die
  s.flag f.capen die n && !s.frozenTimer die n && decide (s.capDue die n ≠ 0) && decide (elapsed ≤ s.mayElapse die n)

/-- Whether the edge of one direction is on its way to a timer. -/
def State.edgeDue (s : State) (die n : Nat) (rising : Bool) : Bool := (s.capDue die n).testBit (if rising then 0 else 1)

/-- The meaning of TIMER_CAPTURE: the edge of one direction arrives. -/
def execTimerCapture (die n elapsed : Nat) (rising : Bool) (s : State) : Answer :=
  s.answer (s.hasTimer die n) (s.canCapture die n elapsed && s.edgeDue die n rising)
    (s.capture die n elapsed (s.capDue die n - (if rising then 1 else 2)))

/-- The edge that a capture in the cycle of a read takes: the one on its way; of two, a free choice (log entry 4). -/
def State.edgeTaken (s : State) (die n : Nat) : Nat :=
  if s.capDue die n = 3 then (if s.choice then 1 else 2) else s.capDue die n

/-- A read of CAP; with a capture in the same cycle the read returns the old value and the new one stands unread (R72). -/
def State.capRead (s : State) (die n : Nat) (same : Option Nat) : State :=
  let f := tmr die
  let s1 := ((s.put f.captured die n 0).give [s.get f.cap die n]).respond false
  match same with
  | some e => (s1.capture die n e (s.capDue die n - s.edgeTaken die n)).spend
  | none => s1

/-- The meaning of TIMER_CAP_READ. -/
def execTimerCapRead (m : Master) (die n : Nat) (same : Option Nat) (s : State) : Answer :=
  let a := regAddr (capReg die) die n
  s.answer (s.hasTimer die n) (!s.portHeld m && same.all fun e => s.canCapture die n e)
    (if s.route m a = 0 then s.capRead die n same else s.readRefused m.die m a (s.route m a))

end Sys2Proof.Machine
end

