-- ==== Sys2Proof/Machine/FieldDie.lean ====
section
/-!
DEFINITION. A field die as a whole: its reset (R451), its load from FIELDREG (R327, R447), its supply and ground events (R37,
R40 to R42, R445) and its clock faults (R449).
-/

namespace Sys2Proof.Machine

/-! ### Reset -/

/-- Return every register of a die to its reset value but those in `keep`. -/
def State.resetDie (s : State) (die : Nat) (keep : List Reg) : State :=
  { s with regs := s.regs.filter fun e =>
      let k := Nat.unpair e.1
      decide ((Nat.unpair k.2).1 ≠ die) || keep.any fun r => r.ctorIdx == (Nat.unpair k.1).1 }

/-- End every fence of the given unit kinds on a die, with their history. -/
def State.dropFences (s : State) (die : Nat) (kinds : List Nat) : State :=
  { s with fences := s.fences.filter fun e =>
      let k := Nat.unpair e.1
      !(kinds.contains k.1 && decide ((Nat.unpair k.2).1 = die)) }

/-- What a field die keeps outside its registers returns to its reset state: cells, sieve, H-bus, terminals, capture
edges in flight, marks, accepted ring entries, seal reader, fence log (R350). -/
def State.resetFieldUnits (s : State) (fd : Nat) : State :=
  let d := fdie fd
  { s with cells := s.cells.dropRange (144 * fd) (144 * (fd + 1)), sieveH := s.sieveH.dropRange (144 * fd) (144 * (fd + 1)),
           hbus := s.hbus.dropRange (320 * fd) (320 * (fd + 1)), terms := s.terms.dropRange (64 * fd) (64 * (fd + 1)),
           capIn := s.capIn.filter (fun e => (Nat.unpair e.1).1 != d), marksH := s.marksH.erase fd, furH := s.furH.filter fun e => (Nat.unpair e.1).1 != fd,
           seals := s.seals.erase d, sieveDie := s.sieveDie.erase d, flog := s.flog.erase d }

/-- A reset of one field die (R451): its registers but `keep`, its channel H state, the fences of its units. The supply monitors,
the tick count and the instances waiting for the die stand. The fence of the die itself ends only where `ends` says (R352);
while it stands its registers hold their safe values. -/
def State.resetField (s : State) (fd : Nat) (keep : List Reg) (ends : Bool) : State :=
  let d := fdie fd
  let x := s.field fd
  let s1 := ((s.resetDie d keep).dropFences d ([U.term, U.cell, U.ftimer] ++ if ends then [U.field] else [])).resetFieldUnits fd
  (s1.setField fd { FieldSt.zero with power := x.power, vfSafe := x.vfSafe, htick := x.htick, viaDie := x.viaDie }).on
    (s1.fenced U.field d 0) fun s => (s.onFence (unitRegs U.field) d 0).put F.FSYS_FFSTAT_REASON d 0 (s.fence U.field d 0).reason

/-! ### The load path (R327, R447, R490) -/

/-- A new value of SCFG.WIN: the window in effect stays until the first tick that is a multiple of both (R184). The field of a
fenced die is locked (R11). -/
def State.setWin (s : State) (die v : Nat) : State :=
  let f := if die < 2 then F.SIEVEP_SCFG_WIN else F.SIEVEH_SCFG_WIN
  s.on (!s.fldStays f die 0) fun s =>
    let w := s.sieveW die
    let s1 := s.put f die 0 v
    s1.setSvDie die { s1.svDie die with old := if v % 16 + 1 = w then 0 else w }

/-- The copy of a register that a record's copy means: a record names an image cell (R368, R370). -/
def State.copyOf (s : State) (die : Nat) (r : Reg) (i : Nat) : Nat :=
  match r with
  | .HC_HCFG | .HC_TSEL0 | .HC_TSEL1 | .HC_PAR0 | .HC_PAR1 | .HC_PAR2 | .HC_PAR3 | .HC_RST | .HC_HIID => s.cmap (die - 2) i
  | .LMR => 96 * s.cmap (die - 2) (i / 96) + i % 96
  | _ => i

/-- The type and parameters that a cell's registers give it (R163). An active cell of TYPE 0x00, to which the spec gives no
evaluation, evaluates as a ZONE_OUT (DESIGN CHOICE, log entry 171). -/
def State.cellCfg (s : State) (fd p : Nat) : FnCfg :=
  let d := fdie fd
  ⟨(FnType.ofCode (s.get F.HC_HCFG_TYPE d p)).getD .zoneOut, s.get F.HC_PAR0_PAR d p, s.get F.HC_PAR1_PAR d p,
   s.get F.HC_PAR2_PAR d p, s.get F.HC_PAR3_PAR d p, s.get F.HC_HCFG_OPT d p⟩

/-- A cell that a write of HCFG has made inactive holds no state and its decision bits read 0 (R162); one that it has made
active or given another type stands in the type's initial state (R89). -/
def State.cellSet (s0 s : State) (fd p : Nat) : State :=
  let d := fdie fd
  if s0.get F.HC_HCFG_ACTIVE d p = s.get F.HC_HCFG_ACTIVE d p ∧ s0.get F.HC_HCFG_TYPE d p = s.get F.HC_HCFG_TYPE d p then s
  else if s.flag F.HC_HCFG_ACTIVE d p then
    s.setCell fd p { HCell.zero with fs := Fn.init (s.cellCfg fd p) (s.field fd).htick }
  else (s.setCell fd p HCell.zero).put F.HC_HSTAT_DBITS d p 0

/-- Write the RWL fields of a register from a word; those of a fenced owner stay (R11). -/
def State.loadReg (s : State) (r : Reg) (die i v : Nat) : State :=
  s.each (r.fields.filter fun f => f.acc == .rwl) fun s f => s.on (!s.fldStays f die i) fun s => s.put f die i (bitsOf v f.lo f.w)

/-- Write one record of the running image to a register of its die: the RWL fields of the word. -/
def State.loadWord (s : State) (die off v : Nat) : State :=
  match findReg die off with
  | some (.TP_CODE, n) => s.on (!s.fldStays F.TP_CODE_ASSIGNED die n) fun s => s.setCode (die - 2) n v
  | some (.TP_FRAME, i) => (s.loadReg .TP_FRAME die i v).frameSet (die - 2)
  | some (.TERM_CFG, t) => (s.loadReg .TERM_CFG die t v).modeSet (die - 2) t
  | some (.SIEVEP_SCFG, _) | some (.SIEVEH_SCFG, _) => s.setWin die v
  | some (.HC_HCFG, i) =>
    let p := s.copyOf die .HC_HCFG i
    s.cellSet (s.loadReg .HC_HCFG die p v) (die - 2) p
  | some (.LANE_LCTL, i) => s.loadReg .LANE_LCTL die (s.phys die i) v
  | some (.LANE_LWCET, i) => s.loadReg .LANE_LWCET die (s.phys die i) v
  | some (r, i) => s.loadReg r die (s.copyOf die r i) v
  | none => s

/-- Write the records of a die. -/
def State.loadRecs (s : State) (recs : List RegRec) (die : Nat) : State :=
  s.each (recs.filter fun r => r.die == die) fun s r => s.loadWord die r.off r.val

/-- The P-source of every output terminal of a field die, from OUTMAP (R328, R488). -/
def State.loadSources (s : State) (fd : Nat) : State :=
  let src (w : Nat) : Nat := bitsFrom 32 fun k => (s.image.img.outmap.getD (64 * fd + 32 * w + k) 0).testBit 0
  (s.put F.FSYS_PSRC0_SRC (fdie fd) 0 (src 0)).put F.FSYS_PSRC1_SRC (fdie fd) 0 (src 1)

/-- Load channel H of a field die from the running image (R447): every sense path starts without history (R504), R171 waits for
the first valid strobe, and in Run N_H follows the tick period (R169). -/
def State.loadField (s : State) (fd : Nat) : State :=
  let d := fdie fd
  let s1 := (((s.loadRecs s.image.img.recs d).loadSources fd).leaseH fd).put F.FSYS_FPWR_LOADED d 0 1
  let s2 := (s1.on s1.inRun fun s => s.put F.HGLB_HTCTL_NH d 0 (8 * s.tickUs)).setField fd { s1.field fd with loadPending := false, gotStrobe := false, armed := false, okRun := 0, strobes := [] }
  s2.each (List.range 64) fun s t => s.senseStart fd t

/-- The instances that the die's own stop fenced are re-admitted at an edge (R352, R447). -/
def State.readmitDie (s : State) (fd edge : Nat) : State :=
  let x := s.field fd
  (s.each x.viaDie fun s iid => s.setReadmit iid edge).setField fd { x with viaDie := [] }

/-! ### Supply and ground -/

/-- VFn rises: FBIST runs unless FBREC is valid, and the die waits in the safe state of R40 (R446, R447). A fence of the die
outlasts the loss of VFn, since FSYS.FRST alone ends it (R352; DEDUCED). -/
def State.vfnUp (s : State) (fd : Nat) : State :=
  let s1 := s.resetField fd [.FBIST_FBREC] false
  let rec_ := s1.flag F.FBIST_FBREC_VALID (fdie fd) 0
  s1.setField fd { s1.field fd with power := true, vfSafe := true, fbist := !rec_, loadPending := rec_ }

/-- The meaning of VFN_POWER_UP. -/
def execVfnPowerUp (fd : Nat) (s : State) : Answer :=
  s.answer (s.hasFd fd) (!(s.field fd).power) (s.vfnUp fd)

/-- The instances of a die that stand admitted stop with it: reason 0x09 on both channels (R348, R447). -/
def State.stopDie (s : State) (fd : Nat) : State :=
  let via := s.image.img.insts.filter fun r => r.fdie == fd && !s.instFencedH r.iid
  let s1 := s.setField fd { s.field fd with viaDie := (s.field fd).viaDie ++ via.map InstRec.iid }
  s1.each via fun s r => s.fenceInst (s.dieOf r) r.iid 0x09

/-- VFn falls below 4.5 V: the die loses everything, FBREC included (R445). -/
def State.vfnDown (s : State) (fd : Nat) : State :=
  let s1 := (s.stopDie fd).resetField fd [] false
  s1.setField fd { FieldSt.zero with viaDie := (s1.field fd).viaDie }

/-- The meaning of VFN_POWER_LOSS. -/
def execVfnPowerLoss (fd : Nat) (s : State) : Answer :=
  s.answer (s.hasFd fd) (s.field fd).power (s.vfnDown fd)

/-- The safe state of R40: every terminal off, outputs and sources (`sourceOn`), and every input open. -/
def State.vfnOut (s : State) (fd : Nat) : State :=
  let s1 := s.setField fd { s.field fd with vfSafe := true }
  (s1.raiseFlag F.FSYS_FPWR_VFTRIP (fdie fd) 0).termsOff fd

/-- The meaning of VFN_OUT_OF_RANGE. -/
def execVfnOutOfRange (fd : Nat) (s : State) : Answer :=
  s.answer (s.hasFd fd) ((s.field fd).power && !(s.field fd).vfSafe) (s.vfnOut fd)

/-- The end of the safe state of R40: every sense path starts without history (R504). -/
def State.vfnBack (s : State) (fd : Nat) : State :=
  let s1 := s.setField fd { s.field fd with vfSafe := false }
  s1.each (List.range 64) fun s t => s.senseStart fd t

/-- The meaning of VFN_RECOVERED. -/
def execVfnRecovered (fd : Nat) (s : State) : Answer :=
  s.answer (s.hasFd fd) ((s.field fd).power && (s.field fd).vfSafe) (s.vfnBack fd)

/-- GROUND_FAULT (R41): one open group is reported; two, or the offset outside ±2.0 V at two edges, fence the die. -/
def State.groundFault (s : State) (fd groups : Nat) (offset : Bool) : State :=
  if offset || decide (2 ≤ groups) then s.fenceField fd 0x23
  else s.on (groups == 1) fun s => s.raiseFlag F.FSYS_FPWR_GF_PARTIAL (fdie fd) 0

/-- The meaning of GROUND_FAULT. -/
def execGroundFault (fd groups : Nat) (offset : Bool) (s : State) : Answer :=
  s.answer (s.hasFd fd) (decide (groups ≤ 4) && (s.field fd).power) (s.groundFault fd groups offset)

/-- The meaning of DIE_OVERLOAD (R42). -/
def execDieOverload (fd : Nat) (s : State) : Answer :=
  s.answer (s.hasFd fd) (s.field fd).power (s.raiseFlag F.FSYS_FPWR_DIE_OVERLOAD (fdie fd) 0)

/-! ### Clock faults (R449) -/

/-- The meaning of HCLK_STOPPED: the safe state of R170. -/
def execHclkStopped (fd : Nat) (s : State) : Answer :=
  s.answer (s.hasFd fd) (s.field fd).power ((s.put F.FSYS_FPWR_HCLKSTOP (fdie fd) 0 1).fenceField fd 0x21)

/-- The meaning of FAON_FAILURE: as HCLK stopped. -/
def execFaonFailure (fd : Nat) (s : State) : Answer :=
  s.answer (s.hasFd fd) (s.field fd).power ((s.put F.FSYS_FPWR_FAONFAIL (fdie fd) 0 1).fenceField fd 0x21)

/-! ### FSYS.FRST (R352, R374, R412) -/

/-- A reset of a fenced or safe field die: FBIST runs, then the die is loaded and its instances re-admitted. -/
def State.frst (s : State) (fd : Nat) : State :=
  let s1 := s.resetField fd [.FBIST_FBREC] true
  s1.setField fd { s1.field fd with fbist := true }

/-- The meaning of FIELD_DIE_RESET; ignored unless DIEF reads 1. -/
def execFieldDieReset (m : Master) (fd : Nat) (s : State) : Answer :=
  s.answer (s.hasFd fd) true
    (s.asWrite .FSYS_FRST (fdie fd) 0 m m.isSv true fun s =>
      s.on (s.fenced U.field (fdie fd) 0 || (s.field fd).vfSafe) fun s => s.frst fd)

end Sys2Proof.Machine
end

