-- ==== Sys2Proof/Machine/Frames.lean ====
section
/-!
DEFINITION. What a node puts on the ring: the codes of R215, frames as bytes (R210, R211, R221), local spate marks and the sluice's
rate limit (R224, R236, R262), and the signature of the sieve (R180).
-/

namespace Sys2Proof

/-- The domain and class of the mark in a spate frame: of the P part, or of the H part where channel P raised none. -/
def SpateFrame.key (f : SpateFrame) : Nat × Nat :=
  let w := if f.pmark = 0 ∧ f.pmcrc = 0 then (Nat.xor (f.hmark % 2 ^ 32) 0xFFFFFFFF) else f.pmark
  (w % 256, Machine.bitsOf w 8 4)

end Sys2Proof

namespace Sys2Proof.Machine

/-- The polynomial of the P codes and that of the H codes (R214, R215). -/
abbrev polyP : Nat := 0x1EDC6F41
abbrev polyH : Nat := 0x741B8CD7

/-- The `n` bytes of a number, most significant first. -/
def msbBytes (n v : Nat) : List Byte := (leBytes n v).reverse

/-- `paesh_code` of R215 over a seed of ring ID, source and turn, and then the data. -/
def paeshCode (poly rid src turn : Nat) (d : List Byte) : Nat :=
  Nat.xor (crcBytes 32 poly false 0xFFFFFFFF (msbBytes 2 rid ++ msbBytes 2 src ++ msbBytes 6 turn ++ d)) 0xFFFFFFFF

/-- The mark word of R178 and R221. -/
def markWord (dom cls src : Nat) : Nat := dom % 256 + cls % 16 * 2 ^ 8 + src % 2 ^ 13 * 2 ^ 12

/-- The complement of a 32-bit word. -/
def not32 (v : Nat) : Nat := Nat.xor (v % 2 ^ 32) 0xFFFFFFFF

/-- The complement of a 64-bit word. -/
def not64 (v : Nat) : Nat := Nat.xor (v % 2 ^ 64) 0xFFFFFFFFFFFFFFFF

/-! ### The node -/

/-- The node's ID on a ring (R230). -/
def State.node (s : State) (ld : Nat) : Nat := s.get F.RNG_RINGCFG_NODE ld 0

/-- The ring's ID. -/
def State.ringId (s : State) (ld : Nat) : Nat := s.get F.RNG_RINGID_RID ld 0

/-- The furrow reach H of a ring. -/
def State.reach (s : State) (ld : Nat) : Nat := s.get F.RNG_RINGCFG_REACH ld 0

/-- Start-up state codes of R247 (R254). -/
abbrev syncIdle : Nat := 0
abbrev syncListen : Nat := 1
abbrev syncJoining : Nat := 2
abbrev syncHeadgate : Nat := 3
abbrev syncTrack : Nat := 4
abbrev syncHoldover : Nat := 5
abbrev syncQuiet : Nat := 6

/-- The start-up state of a ring engine. -/
def State.sync (s : State) (ld : Nat) : Nat := s.get F.RNG_TSYNC_STATE ld 0

/-- TRACK, HEADGATE or HOLDOVER. -/
def State.joined (s : State) (ld : Nat) : Bool := decide (3 ≤ s.sync ld) && decide (s.sync ld ≤ 5)

/-- Whether a port is admitted (R207). -/
def State.admitted (s : State) (ld p : Nat) : Bool := s.flag F.RNG_PSTAT_ADMIT ld p

/-- Whether a port is in wrap (R256). -/
def State.inWrap (s : State) (ld p : Nat) : Bool := s.flag F.RNG_WRAP_WRAP ld p

/-- Whether the turn timer of ring `ld` runs: the ring is enabled, its engine not fenced and not under test, the part not held in
reset (R230, R348, R405, R445). -/
def State.ringOn (s : State) (ld : Nat) : Bool :=
  s.flag F.RNG_RINGCFG_ENABLE ld 0 && !s.fenced U.engine ld 0 && s.get F.LBIST_STAT_STATE ld 9 == 0 &&
    decide (s.part.phase ≠ .held)

/-- Ring 1 runs only while its turn number is the tick number and its edge lies within 2 µs of the tick edge (R228, R243). -/
def State.ringRuns (s : State) (ld : Nat) : Bool :=
  s.ringOn ld && (decide (ld = 0) ||
    (decide ((s.ring ld).turn = s.tick) && decide ((s.ring ld).skew.natAbs ≤ 2000 * 65536)))

/-- Whether the transmitters of a die run: the TX clock is good (R449). -/
def State.txGood (s : State) (ld : Nat) : Bool := if ld = 0 then !s.part.tx0 else !s.part.tx1

/-- Whether a port may send frames of the windowed classes other than link-delay frames (R236, R247, R248). -/
def State.maySend (s : State) (ld p : Nat) : Bool :=
  s.admitted ld p && s.joined ld && (s.ring ld).sends && s.ringRuns ld && s.txGood ld

/-- Whether a port may send spate frames: at any point of the turn in TRACK, HEADGATE and HOLDOVER (R236); after a rejoin from
QUIET, from the next edge (R247). -/
def State.maySpate (s : State) (ld p : Nat) : Bool :=
  s.admitted ld p && s.joined ld && !(s.ring ld).hold && s.ringRuns ld && s.txGood ld

/-- The header of a frame that this node sends (R210, R211). -/
def State.ownHdr (s : State) (ld p cls : Nat) : FrameHdr :=
  { fcs := true, dst := cls, etype := s.get F.RNG_ETYPE_ETYPE ld 0, ver := 1, cls := cls, rid := s.ringId ld,
    snd := s.node ld, d := decide (p = 0), sturn := (s.ring ld).turn % 2 ^ 16, short := false }

/-- A header as bytes, from the destination address to STURN, with the source address of the port that sends it (R210,
R211). -/
def hdrBytes (h : FrameHdr) (ld p : Nat) : List Byte :=
  [0x03, 0xC9, 0xE0, 0x00, 0x00] ++ msbBytes 1 h.dst ++ [0x02, 0xC9, 0xE0] ++ msbBytes 1 (16 * ld + p) ++ msbBytes 2 h.snd ++
    msbBytes 2 h.etype ++ msbBytes 1 h.ver ++ msbBytes 1 h.cls ++ msbBytes 2 h.rid ++ msbBytes 2 (h.snd + 2 ^ 13 * h.d.toNat) ++
    msbBytes 2 h.sturn

/-- A frame of class `cls` that this node sends on a port, up to its FCS: the header, then the body, padded to a payload of 46
bytes. -/
def State.frameOf (s : State) (ld p cls : Nat) (body : List Byte) : List Byte :=
  hdrBytes (s.ownHdr ld p cls) ld p ++ body ++ List.replicate (38 - body.length) 0

/-! ### Spate marks of this node (R133, R221, R224, R236, R262) -/

/-- The body of a spate frame (R221). -/
def spateBody (f : SpateFrame) : List Byte :=
  msbBytes 4 f.pmark ++ msbBytes 4 f.pmcrc ++ msbBytes 4 f.hmark ++ msbBytes 4 f.hmcrc ++ msbBytes 2 f.oturn ++ msbBytes 2 f.shops

/-- Send one spate frame on a port, or one that is aborted (R223). -/
def State.sendSpate (s : State) (ld p : Nat) (f : SpateFrame) (good : Bool) : State :=
  let x := s.port ld p
  (s.setPort ld p { x with sentNow := x.sentNow + 1, sentKeys := f.key :: x.sentKeys }).emit ld p
    (withFcs good (s.frameOf ld p 3 (spateBody f)))

/-- Whether the sluice admits one more spate frame in this turn (R236). -/
def State.spateRoom (s : State) (ld p : Nat) : Bool := decide ((s.port ld p).sentNow < s.get F.RNG_SLSPATE_SPLIM ld 0)

/-- A local mark reaches a port: sent, held for the next turn, or dropped as the ninth (R236). -/
def State.localMark (s : State) (ld p : Nat) (f : SpateFrame) : State :=
  s.on (s.maySpate ld p && !s.inWrap ld p) fun s =>
    let x := s.port ld p
    if s.spateRoom ld p && x.marks.isEmpty then s.sendSpate ld p f true
    else if x.marks.length < 8 then s.setPort ld p { x with marks := x.marks ++ [f] }
    else s.count F.RNG_TXSTAT_SPDROP ld p

/-- The held marks of a port go out first in a new turn, as many as the limit admits; while the port may not send they stay
held (R236, R262). -/
def State.sendHeld (s : State) (ld p : Nat) : State :=
  s.on (s.maySpate ld p && !s.inWrap ld p) fun s =>
    let x := s.port ld p
    let n := s.get F.RNG_SLSPATE_SPLIM ld 0
    (s.setPort ld p { x with marks := x.marks.drop n }).each (x.marks.take n) fun s f => s.sendSpate ld p f true

/-- The spate frame of a mark that this node raises in tick `t`: a part whose channel raised none is zero (R221). -/
def State.markFrame (s : State) (ld p t word : Nat) (pPart : Bool) (h : Option HMark) : SpateFrame :=
  { hdr := s.ownHdr ld p 3, pmark := if pPart then word else 0,
    pmcrc := if pPart then paeshCode polyP (s.ringId ld) (s.node ld) t (msbBytes 4 word) else 0,
    hmark := (h.map HMark.mark).getD 0, hmcrc := (h.map HMark.crc).getD 0, oturn := t % 2 ^ 16, shops := 0 }

/-! ### The sieve's signature (R180) -/

/-- The signature register at the start of a window. -/
def sieveInit (iid t0 : Nat) : Nat := not32 (iid * 2 ^ 16 + t0 % 2 ^ 16)

/-- The signature after the bits of one tick. -/
def sieveFeed (sig nb bits : Nat) : Nat :=
  (List.range nb).foldl
    (fun v i => Nat.xor (2 * v % 2 ^ 32) (if v.testBit 31 != bits.testBit i then 0x04C11DB7 else 0)) sig

/-- One side of the sieve takes the bits of tick `t`, with windows of `w` ticks. -/
def SieveSt.take (x : SieveSt) (iid nb bits t w : Nat) : SieveSt :=
  { x with sig := sieveFeed (if t % w = 0 then sieveInit iid t else x.sig) nb bits }

/-- The window that began at `t0` has ended: its signature waits for the exchange (R181). -/
def SieveSt.close (x : SieveSt) (t0 : Nat) : SieveSt :=
  { x with last := x.sig, lastOk := decide (x.from_ ≤ t0), other := none }

end Sys2Proof.Machine
end

