-- ==== Sys2Proof/Machine/ChannelP.lean ====
section
/-!
DEFINITION. What channel P evaluates (R86, R113, R114, R126 to R135): literals and link inputs, zone values and marks, and
one evaluation of an instance or of the new side of a soak.
-/

namespace Sys2Proof.Machine

/-! ### Link inputs (R113, R114, R326) -/

/-- What a literal reads: `cur` gives the bits of the current tick, `prev` those of the tick before. A constant has its value
in bit 0. -/
def Lit.value (l : Lit) (cur prev : Nat → BusBit) : Bool :=
  let v := match l.kind with
    | 0 => (cur l.iid).bits.testBit l.k
    | 1 => (prev l.iid).bits.testBit l.k
    | _ => l.iid.testBit 0
  v != l.neg

/-- Whether a literal refers to a valid bit; a constant refers to none. -/
def Lit.ok (l : Lit) (cur prev : Nat → BusBit) : Bool :=
  match l.kind with
  | 0 => (cur l.iid).valid
  | 1 => (prev l.iid).valid
  | _ => true

/-- A link input: 0 where any literal of any term refers to an invalid bit, else the OR of its terms (R114). -/
def linkValue (e : Option LinkExpr) (cur prev : Nat → BusBit) : Bool :=
  match e with
  | none => false
  | some ts => (ts.all fun t => t.all fun l => l.ok cur prev) && ts.any fun t => t.all fun l => l.value cur prev

/-- The reset event of an instance (R91, R136): an invalid source gives none. -/
def resetValue (l : Option Lit) (cur prev : Nat → BusBit) : Bool :=
  match l with
  | none => false
  | some l => l.ok cur prev && l.value cur prev

/-- The bits of an instance as channel P has them in the present tick: 0 and invalid from the tick after its
fence. -/
def State.curP (s : State) (iid : Nat) : BusBit :=
  if s.instDeadP iid then ⟨0, false⟩ else ⟨(s.inst iid).fs.bits, (s.inst iid).fs.valid⟩

/-- The bank of the tick before (R145). The bits of a producer on the other logic die are read like those of the own die: the spec
describes no transfer that carries them, and none that could fail (DESIGN CHOICE, log entry 174). -/
def State.prevP (s : State) (iid : Nat) : BusBit :=
  if s.instDeadP iid then ⟨0, false⟩ else s.bus iid (s.tick + 1)

/-! ### Zone data (R131, R239) -/

/-- The key of an accepted furrow entry: ring, direction (0 up, 1 down) and source. -/
def furKey (ring dir src : Nat) : Nat := Nat.pair (2 * ring + dir) src

/-- Whether an entry was accepted in one of the ticks `t - l` to `t - 1`. -/
def FurEntry.fresh (e : FurEntry) (t l : Nat) : Bool := decide (e.acc ≠ 0) && decide (e.acc ≤ t) && decide (t + 1 ≤ e.acc + l)

/-- The raw value of a zone bit and its validity, by the table of R131: `stale` tells the stale directions. Newest entries of one turn
disagree where their bits ZIDX do, whatever the rest of their zone words (DESIGN CHOICE, log entry 175). -/
def zoneRaw (m : Nat → List FurEntry) (stale : Nat → Bool) (src zidx ring dir t l : Nat) : Bool × Bool :=
  let dirs := if dir = 0 then [0] else if dir = 1 then [1] else [0, 1]
  if dirs.all stale then (false, false)
  else
    let es := (dirs.flatMap fun d => m (furKey ring d src)).filter fun e => e.fresh t l
    let newest := es.filter fun e => es.all fun x => decide (x.turn ≤ e.turn)
    (!newest.isEmpty && newest.all fun e => e.zone.testBit zidx, !newest.isEmpty)

/-- The zone value of an instance's parameters (R163). -/
def FnCfg.zoneRaw (c : FnCfg) (m : Nat → List FurEntry) (stale : Nat → Bool) (t l : Nat) : Bool × Bool :=
  Sys2Proof.Machine.zoneRaw m stale c.par0 c.par1 ((c.opt >>> 1) % 2) (c.opt2 2) t l

/-- The entries that channel P holds on a logic die under one key, the newest acceptance first. -/
def State.furAtP (s : State) (ld k : Nat) : List FurEntry := Store.get (fun _ => []) s.furP (Nat.pair ld k)

/-- One more entry under a key; 15 are kept, the largest stale limit (R239). -/
def State.addFurP (s : State) (ld k : Nat) (e : FurEntry) : State :=
  { s with furP := Store.set (fun _ => []) s.furP (Nat.pair ld k) (keepNewest 15 e (s.furAtP ld k)) }

/-- The marks that channel P holds on a logic die. -/
def State.marksAtP (s : State) (ld : Nat) : List MarkArr := Store.get (fun _ => []) s.marksP ld

/-- Whether DBLL carries the transfers between the two logic dies: present, fenced at neither end, both dies up (R16,
R229). -/
def State.dbllUp (s : State) : Bool :=
  s.hasLd 1 && !s.fenced U.link 0 6 && !s.fenced U.link 1 6 && !s.fenced U.logic 0 0 && !s.fenced U.logic 1 0

/-- The stale limit L of a ring for channel P: RNG.TURNCFG.STALE of its die (R239). -/
def State.staleLimit (s : State) (ring : Nat) : Nat := s.get F.RNG_TURNCFG_STALE ring 0

/-- The slots of the turns before the present one, newest first (R239). -/
def State.pastSlots (s : State) (ring dir : Nat) : List Bool :=
  let x := s.port ring dir
  if x.slotTick = s.tick + 1 then x.slots.drop 1 else x.slots

/-- Whether a direction of a ring is stale for channel P of die `ld` in the present tick: the slots of the last L ticks were
all empty, those before the first slot among them (R239). A fenced port's direction is stale; a ring whose logic die is lost,
or whose data DBLL does not carry to `ld`, gives no data (R229, R256). -/
def State.staleP (s : State) (ld ring dir : Nat) : Bool :=
  ((s.pastSlots ring dir).take (s.staleLimit ring)).all (fun b => !b) || s.fenced U.port ring dir ||
    s.fenced U.logic ring 0 || (decide (ring ≠ ld) && !s.dbllUp)

/-! ### Marks (R134) -/

/-- Whether a mark is one that a SPATE_IN obeys (R163). -/
def MarkArr.obeyed (m : MarkArr) (c : FnCfg) : Bool :=
  decide (m.dom = c.par0 % 256) && (c.par0 >>> 8).testBit m.cls && c.opt.testBit m.ring

/-- Whether an obeyed mark arrives in tick `t`, or arrived in one of the `gap` late ticks before it (R138). -/
def markNow (l : List MarkArr) (c : FnCfg) (gap t : Nat) : Bool :=
  l.any fun m => m.obeyed c && decide (m.tick ≤ t) && decide (t ≤ m.tick + gap)

/-- "Quiet" of R134: none arrived in ticks `t - SPQUIET` to `t - 1`. -/
def markQuiet (l : List MarkArr) (c : FnCfg) (t : Nat) : Bool :=
  !l.any fun m => m.obeyed c && decide (m.tick < t) && decide (t ≤ m.tick + c.par1)

/-- A mark joins a list; marks older than the longest SPQUIET (R135) leave it. -/
def addMark (l : List MarkArr) (m : MarkArr) : List MarkArr := m :: l.filter fun x => decide (m.tick ≤ x.tick + 65535)

/-! ### One evaluation -/

/-- How many ticks before the present one an instance's evaluation missed (R138). -/
def State.missed (s : State) (iid : Nat) : Nat :=
  let p := s.inst iid
  if p.tick = 0 then 0 else s.tick - p.tick

/-- What channel P reads for an instance in the present tick on die `ld`, `gap` late ticks after its last evaluation (R25, R138,
R144). -/
def State.fnInP (s : State) (ld : Nat) (r : InstRec) (gap : Nat) (cur prev : Nat → BusBit) : FnIn :=
  let z := r.cfg.zoneRaw (s.furAtP ld) (s.staleP ld ((r.opt >>> 1) % 2)) s.tick (s.staleLimit ((r.opt >>> 1) % 2))
  { t := s.tick,
    terms := r.tslot.map fun t => if 64 ≤ t then TermRead.absent else s.readP ld r.fdie t,
    link0 := linkValue r.lnk0 cur prev, link1 := linkValue r.lnk1 cur prev, reset := resetValue r.rst cur prev,
    zone := z.1, zoneValid := z.2, mark := markNow (s.marksAtP ld) r.cfg gap s.tick,
    quiet := markQuiet (s.marksAtP ld) r.cfg s.tick, gap := gap }

/-- The state of an instance after an evaluation in tick `t`, or with its bits 0 and valid while a switchover without soak
holds it (R369). -/
def evalHeld (c : FnCfg) (i : FnIn) (hold : Nat) (st : FnSt) : FnSt :=
  if i.t < hold then { st with bits := 0, valid := true, raised := 0 } else Fn.eval c i st

/-- Commit one live instance of a segment on die `ld` (R153): its state is that of the present tick, its bits stand in the
bank of the tick and in the output image (R145, R146). -/
def State.commitInst (s : State) (ld : Nat) (r : InstRec) : State :=
  s.on (!s.instDeadP r.iid) fun s =>
    let p := s.inst r.iid
    let fs := evalHeld r.cfg (s.fnInP ld r (s.missed r.iid) s.curP s.prevP) p.hold p.fs
    ((s.setInst r.iid { p with fs := fs, tick := s.tick + 1, flags := p.flags ||| fs.raised }).setBus r.iid s.tick
      ⟨fs.bits, fs.valid⟩).putOut ld r fs.bits

/-- The current bits as the new side of a soak reads them: its own where it has them (R359). -/
def shadowCur (sh : List (Nat × FnSt)) (cur : Nat → BusBit) (iid : Nat) : BusBit :=
  match sh.lookup iid with
  | some f => ⟨f.bits, f.valid⟩
  | none => cur iid

/-- The bits of the tick before as the new side reads them: the shadow bit table where it has them (R359). -/
def shadowPrev (sh : List (Nat × BusBit)) (prev : Nat → BusBit) (iid : Nat) : BusBit := (sh.lookup iid).getD (prev iid)

/-- Put one entry of a shadow table. -/
def setShadow {α : Type} (sh : List (Nat × α)) (iid : Nat) (f : α) : List (Nat × α) :=
  (iid, f) :: sh.filter fun e => e.1 != iid

/-- Evaluate one instance on the new side of a soak, `gap` late ticks of its lane after the last evaluation: nothing outside its shadow
region changes (R359). -/
def State.evalShadow (s : State) (ld gap : Nat) (r : InstRec) (prev : List (Nat × BusBit)) (sh : List (Nat × FnSt)) :
    List (Nat × FnSt) :=
  match sh.lookup r.iid with
  | none => sh
  | some f =>
    if s.instDeadP r.iid then setShadow sh r.iid f.fenced
    else setShadow sh r.iid (Fn.eval r.cfg (s.fnInP ld r gap (shadowCur sh s.curP) (shadowPrev prev s.prevP)) f)

/-! ### The work of a lane (R152, R359, R366, R368) -/

/-- The instances that the new side of the soak in progress runs on a lane: the pair of a migration, or the changed and new
entries of a configuration. -/
def State.soakWork (s : State) (ld l : Nat) : List InstRec :=
  match s.soak with
  | some k =>
    if s.tick < k.start then []
    else match k.kind with
      | .migration => if k.newDie = ld ∧ k.newIdx = l then s.instsOf k.oldDie k.oldIdx else []
      | .config => k.img.img.insts.filter fun r =>
          k.changed.contains r.iid && decide (r.ldie = ld) && decide (s.phys ld r.lane = l)
      | .cellSwap => []
  | none => []

/-- The image die and number of the logical lane that lane `l` of die `ld` stands by for (R366). -/
def State.standsFor (s : State) (ld l : Nat) : Option (Nat × Nat) :=
  ([0, 1].flatMap fun ild => (List.range 8).map fun n => (ild, n)).find? fun p =>
    s.hasStandby p.1 p.2 && (decide ((if (s.stby p.1 p.2).swapped then p.1 else 1 - p.1) = ld)) && decide (s.phys ld p.2 = l)

/-- The instances that a standby lane runs. -/
def State.standWork (s : State) (ld l : Nat) : List InstRec :=
  match s.standsFor ld l with
  | some p => s.logicalInsts p.1 p.2
  | none => []

/-- The largest segment of some instances; 0 for none. -/
def topSeg (rs : List InstRec) : Nat := rs.foldl (fun a r => max a r.seg) 0

/-- The segments of a lane's tick: its own, then those of a soak (R152, R368); at least one. -/
def State.segments (s : State) (ld l : Nat) : Nat :=
  max 1 (topSeg (s.instsOf ld l) + topSeg (s.soakWork ld l ++ s.standWork ld l))

/-- Whether a lane has instances to run. -/
def State.hasWork (s : State) (ld l : Nat) : Bool :=
  !(s.instsOf ld l).isEmpty || !(s.soakWork ld l).isEmpty || !(s.standWork ld l).isEmpty

/-- In the order of their ranks: producers before the consumers of their local edges (R127). -/
def byRank (rs : List InstRec) : List InstRec := (List.range 16).flatMap fun k => rs.filter fun r => r.rank == k

/-- The commit of a segment (0 for segment 1) of a lane: the live instances, then the shadows of a soak or standby. A standby
lane keeps the output image of its own die (R366). -/
def State.commitSegment (s : State) (ld l seg : Nat) : State :=
  let base := topSeg (s.instsOf ld l)
  let s1 := s.each (byRank ((s.instsOf ld l).filter fun r => r.seg == seg + 1)) fun s r => s.commitInst ld r
  let sk := byRank ((s1.soakWork ld l).filter fun r => base + r.seg == seg + 1)
  let s2 : State := match s1.soak with
    | some k => { s1 with soak := some { k with shadowP := sk.foldl (fun sh r => s1.evalShadow ld (s.lane ld l).lateRun r k.prevP sh) k.shadowP } }
    | none => s1
  match s2.standsFor ld l with
  | some p =>
    let st := s2.stby p.1 p.2
    let rs := byRank ((s2.standWork ld l).filter fun r => base + r.seg == seg + 1)
    let sh := rs.foldl (fun sh r => s2.evalShadow ld (s.lane ld l).lateRun r [] sh) st.shadow
    (s2.setStby p.1 p.2 { st with shadow := sh }).each rs fun s r => s.putOut ld r (((sh.lookup r.iid).map FnSt.bits).getD 0)
  | none => s2

end Sys2Proof.Machine
end

