-- ==== Sys2Proof/Machine/Lanes.lean ====
section
/-!
DEFINITION. A lane's tick (R141 to R161): wake, P pass, Q pass, comparison, retry and commit, and the input images that it
reads (R20 to R22).
-/

namespace Sys2Proof.Machine

/-! ### Phases -/

/-- The code of LSTAT.PHASE (R161). -/
def LanePhase.code : LanePhase → Nat
  | .asleep => 0
  | .pPass => 1
  | .qPass => 2
  | .commit => 3
  | .reset => 4
  | .done => 5

/-- A lane enters a phase. -/
def State.setPhase (s : State) (ld l : Nat) (p : LanePhase) : State :=
  (s.setLane ld l { s.lane ld l with ph := p }).put F.LANE_LSTAT_PHASE ld l p.code

/-! ### Input images (R20 to R22, R487) -/

/-- The input image that a field die sends for its tick: the 64 image words latched at the edge, little-endian (R20, R45). -/
def State.imageBody (s : State) (fd : Nat) : List Byte :=
  (List.range 64).flatMap fun t => leBytes 4 (s.get F.TERM_PIMG_IMG (fdie fd) t)

/-- Whether the window of a logic die's input images has closed (R20, R21): its 5 % point has passed. -/
def State.imageClosed (s : State) (ld : Nat) : Bool := s.inRun && decide (s.pointPos 5 ≤ s.get F.TICK_TPOS_POS ld 0)

/-- The transfer of a field die's input image to a logic die: its words are taken, or nothing where R21 discards it; one that is not
complete by the 5 % point is discarded, and from there the frozen image takes no write (R144). On a fenced link a valid one only
counts (R352). -/
def State.imageIn (s : State) (ld fd : Nat) (x0 : Transit) : State :=
  let sent := (s.field fd).htick
  let x := { x0 with complete := x0.complete && !s.imageClosed ld }
  match x.receive s.tick sent (s.imageBody fd) with
  | some bs =>
    let word (t : Nat) : Nat := if s.fenced U.link ld fd then 0 else fieldAt bs (4 * t) 4
    let s1 := s.each (List.range 64) fun s t => s.setFrozen ld fd t (word t)
    (s1.setFrozenAt ld fd (s.tick + 1)).count F.DIEBR_LINK_OKRUN ld fd
  | none =>
    (s.put F.DIEBR_LINK_OKRUN ld fd 0).on (x.crcFails sent (s.imageBody fd)) fun s => s.count F.DIEBR_LINK_CRCERR ld fd

/-- The meaning of INPUT_IMAGE_RECEIVED: a die whose VFn is down sends none (R37). The operands say which of the tick bits and
of the bytes after them arrive inverted, and whether the transfer is complete. -/
def execInputImageReceived (ld fd tick : Nat) (flips : List (Nat × Nat)) (complete : Bool) (s : State) : Answer :=
  s.answer (s.hasLd ld && s.hasFd fd) (s.field fd).power (s.imageIn ld fd (Transit.parts tick flips complete))

/-- The 5 % point on one link: an absent image counts, and a second in a row fences the link (R22). -/
def State.imageCheck (s : State) (ld fd : Nat) : State :=
  if s.frozenAt ld fd = s.tick + 1 then s.put F.DIEBR_LINK_ABSLAST ld fd 0
  else
    let was := s.flag F.DIEBR_LINK_ABSLAST ld fd
    let s1 := ((s.put F.DIEBR_LINK_ABSLAST ld fd 1).count F.DIEBR_LINK_ABSCNT ld fd).put F.DIEBR_LINK_OKRUN ld fd 0
    s1.on was fun s => s.fenceLink ld fd 0x20

/-! ### Wake (R143, R144, R154, R158, R449) -/

/-- One step of the LFSR of R158. -/
def lfsrStep (v : Nat) : Nat := Nat.xor (v / 2) (if v.testBit 0 then 0xB400 else 0)

/-- Whether a lane may start a tick. -/
def State.mayWake (s : State) (ld l : Nat) : Bool :=
  s.flag F.LANE_LCTL_RUN ld l && !s.fenced U.lane ld l && s.idsEqual ld l && !s.laneInBist ld l

/-- The 5 % point for one lane; `clk` tells that the LPLL is locked. -/
def State.wakeLane (s : State) (clk : Bool) (ld l : Nat) : State :=
  let a := s.lane ld l
  let b := { a with seg := 0, trace := [], qIdx := 0, cyc := 0, misNow := false, retried := false, inj := none }
  if clk && s.mayWake ld l then
    ((s.setLane ld l { b with ran := true, lfsr := lfsrStep a.lfsr }).put F.LANE_LSTAT_SEG ld l 0).setPhase ld l .pPass
  else
    s.on (!s.fenced U.lane ld l) fun s =>
      (s.setLane ld l { b with ran := s.hasWork ld l && s.flag F.LANE_LCTL_RUN ld l }).setPhase ld l .asleep

/-! ### Ring data over DBLL (R229) -/

/-- One accepted furrow entry on DBLL: direction, source, turn, zone word. The spec gives the transfer no layout (log
entry 25). -/
def furBytes (dir src : Nat) (e : FurEntry) : List Byte := leBytes 1 dir ++ leBytes 2 src ++ leBytes 6 e.turn ++ leBytes 8 e.zone

/-- The P data that logic die `g` sends to the other one before the 5 % point of the present tick: the entries its ring
engine accepted in the tick before, and the marks that it accepted or its lanes raised, which arrive in this tick. -/
def State.ringBody (s : State) (g : Nat) : List Byte :=
  let es := s.furP.flatMap fun x =>
    let k := Nat.unpair x.1
    let u := Nat.unpair k.2
    if k.1 = g ∧ u.1 / 2 = g then (x.2.filter fun e => e.acc == s.tick).map fun e => furBytes (u.1 % 2) u.2 e else []
  let ms := (s.marksAtP g).filter fun m => decide (m.org = g) && decide (m.tick = s.tick)
  leBytes 2 es.length ++ es.flatten ++
    ms.flatMap fun m => leBytes 1 m.ring ++ leBytes 1 m.dom ++ leBytes 1 m.cls ++ leBytes 2 m.src

/-- What a logic die takes of the other one's ring data. -/
def State.takeRing (s : State) (ld : Nat) (bs : List Byte) : State :=
  let g := 1 - ld
  let n := fieldAt bs 0 2
  let s1 := s.each (List.range n) fun s k =>
    let o := 2 + 17 * k
    s.addFurP ld (furKey g (fieldAt bs o 1) (fieldAt bs (o + 1) 2)) ⟨fieldAt bs (o + 3) 6, fieldAt bs (o + 9) 8, s.tick⟩
  let rest := bs.drop (2 + 17 * n)
  let ms := (List.range (rest.length / 5)).map fun k =>
    (⟨fieldAt rest (5 * k) 1, fieldAt rest (5 * k + 1) 1, fieldAt rest (5 * k + 2) 1, fieldAt rest (5 * k + 3) 2, s.tick, g⟩ : MarkArr)
  { s1 with marksP := Store.set (fun _ => []) s1.marksP ld (ms.foldl addMark (s1.marksAtP ld)) }

/-- The DBLL transfer of ring data to a logic die; one that R21 discards is absent. -/
def State.ringIn (s : State) (ld : Nat) (x : Transit) : State :=
  if s.dbllUp then
    match x.receive s.tick s.tick (s.ringBody (1 - ld)) with
    | some bs => s.takeRing ld bs
    | none => s
  else s

/-- The 5 % point of a logic die; `x` is what DBLL did to the other die's ring data. -/
def State.laneWake (s : State) (ld : Nat) (x : Transit) : State :=
  let clk := s.flag F.CLKPWR_CLKSTAT_LPLLLK ld 0
  let s1 := (State.reachPoint { s with part := { s.part with tickOut := false } } ld 5).ringIn ld x
  let s2 := s1.each s1.fds fun s fd => s.imageCheck ld fd
  let used := s2.fds.flatMap fun fd => ((List.range 64).filter fun t => s2.mode fd t != 0).map fun t => (fd, t)
  let s3 := s2.each used fun s p => s.sampleP ld p.1 p.2
  let s4 := s3.on (!clk) fun s => (s.raiseFlag F.CLKPWR_CLKMON_LPLLFAIL ld 0).count F.CLKPWR_CLKSTAT_LPLLLATE ld 0
  s4.each (List.range 8) fun s l => s.wakeLane clk ld l

/-- The meaning of LANE_WAKE. -/
def execLaneWake (c : Crossing) (s : State) : Answer :=
  s.answer (s.hasLd c.ld) (s.inRun && !s.fenced U.logic c.ld 0) (s.laneWake c.ld c.x)

/-! ### Mismatches (R155, R157) -/

/-- Mismatch kinds of LMINFO (R161). -/
abbrev misAddr : Nat := 1
abbrev misData : Nat := 2
abbrev misBe : Nat := 3
abbrev misType : Nat := 4
abbrev misClass : Nat := 5
abbrev misCount : Nat := 6
abbrev misParity : Nat := 7
abbrev misTarget : Nat := 8
abbrev misHalf : Nat := 9

/-- A mismatch at transaction `idx`: both passes of the segment are discarded, the lane core and the comparator reset, and
the segment is retried where W + 64 cycles are left; the third within 1,000 ticks fences the lane. -/
def State.mismatch (s : State) (ld l kind idx cyc : Nat) : State :=
  let a := s.lane ld l
  let fits := decide (s.get F.LANE_LWCET_W ld l + 64 ≤ s.budget ld l - cyc)
  let third := decide (2 ≤ a.mis.countP fun t => decide (s.tick < t + 1000))
  let retry := fits && !third
  let s1 := s.setLane ld l
    { a with trace := [], qIdx := 0, cyc := cyc, mis := keepNewest 2 s.tick a.mis, misNow := true, retried := a.retried || retry }
  let s2 := ((s1.count F.LANE_LMCNT_MISCNT ld l).put F.LANE_LMT0_TICK ld l (s.get F.LANE_LMT_TICK ld l)).put
    F.LANE_LMT_TICK ld l s.tick
  let s3 := ((s2.put F.LANE_LMINFO_IDX ld l idx).put F.LANE_LMINFO_SEG ld l a.seg).put F.LANE_LMINFO_KIND ld l kind
  let s4 := (s3.putB F.LANE_LMINFO_RETRY ld l retry).on retry fun s => s.count F.LANE_LEVCNT_RETRYCNT ld l
  let s5 := s4.setPhase ld l .reset
  s5.on third fun s => s.fenceLane ld l 4

/-- The end of the 64 reset cycles: the pass of the segment starts again, or the tick is late (R155). -/
def State.laneResetDone (s : State) (ld l cyc : Nat) : State :=
  (s.setLane ld l { s.lane ld l with cyc := cyc }).setPhase ld l
    (if s.flag F.LANE_LMINFO_RETRY ld l then .pPass else .asleep)

/-- Whether a lane is in a phase now. -/
def State.inPhase (s : State) (ld l : Nat) (p : LanePhase) : Bool :=
  decide ((s.lane ld l).ph = p) && !s.fenced U.lane ld l

/-- The meaning of LANE_RESET_DONE. -/
def execLaneResetDone (ld lane cyc : Nat) (s : State) : Answer :=
  s.answer (s.hasLd ld && decide (lane < 8)) (s.inPhase ld lane .reset) (s.laneResetDone ld lane cyc)

/-! ### Transactions (R144 to R150, R158, R159) -/

/-- The offset in the lane data window of an address, if it lies there (R142). -/
def windowOff (ld l addr : Nat) : Option Nat :=
  let base := ld * 2 ^ 28 + 0x4000000 + l * 0x100000 + 0x10000
  if base ≤ addr ∧ addr < base + 0x8000 then some (addr - base) else none

/-- Whether an address lies in the lane's own ROM or patch RAM (R142). -/
def ownRom (ld l addr : Nat) : Bool :=
  let base := ld * 2 ^ 28 + 0x4000000 + l * 0x100000
  decide (base ≤ addr) && decide (addr < base + 0xC000)

/-- The target class that the address decoder of lane `l` derives (R145); none where the address is no target of the table.
Own ROM and patch RAM, which a pass may read (R144) and the table gives no class, decode as CONFIG: read-only (DESIGN
CHOICE, log entry 26). -/
def classOf (ld l addr : Nat) : Option Nat :=
  let off := addr % 2 ^ 28
  if (windowOff ld l addr).isSome then some 0
  else if ownRom ld l addr then some 3
  else if addr / 2 ^ 28 ≠ ld then none
  else if off < 0x400000 then
    match Config.spmUse ld (wordOff off) with
    | 1 => some 3
    | 2 => some 2
    | 3 | 4 => some 4
    | 5 => some 5
    | u => if u = 8 + l then some 1 else none
  else if 0x8040000 ≤ off ∧ off < 0x8040400 then some 6
  else none

/-- The class of a transaction: a mark has its own. -/
def txnClass (ld l : Nat) (x : LaneTxn) : Option Nat := if x.type = 2 then some 7 else classOf ld l x.addr

/-- The transaction as a trace entry holds it (R149): the window offset for class LOCAL, no data for a read. The Q pass's is
un-transformed (R150): its data complemented, its window offset XOR 0x7FFC. -/
def entryOf (q : Bool) (ld l : Nat) (x : LaneTxn) : TraceEntry :=
  let off := (windowOff ld l x.addr).getD x.addr
  let cls := (txnClass ld l x).getD 0
  let addr := if cls = 0 then (if q then Nat.xor off 0x7FFC else off) else x.addr
  let data := if x.type = 0 then 0 else if q then Nat.xor (x.data % 2 ^ 32) 0xFFFFFFFF else x.data
  { addr := addr, data := data, be := x.be, type := x.type, cls := cls, par := 0 }

/-- The compared bits of an entry: ADDR, DATA, BE, TYPE, CLASS (R149). -/
def TraceEntry.bits (e : TraceEntry) : Nat := packBits [(e.addr, 32), (e.data, 32), (e.be, 4), (e.type, 2), (e.cls, 3)]

/-- Even parity of `n` bits from bit `lo` up. -/
def evenParity (v lo n : Nat) : Nat := (List.range n).countP (fun k => v.testBit (lo + k)) % 2

/-- PAR of an entry (R149): over bits [36:0] and over bits [72:37]. -/
def TraceEntry.parity (e : TraceEntry) : Nat := evenParity e.bits 0 37 + 2 * evenParity e.bits 37 36

/-- An entry of 75 bits. -/
def TraceEntry.ofBits (v : Nat) : TraceEntry :=
  { addr := bitsOf v 0 32, data := bitsOf v 32 32, be := bitsOf v 64 4, type := bitsOf v 68 2, cls := bitsOf v 70 3, par := bitsOf v 73 2 }

/-- An entry as it is read where some of its 75 bits read inverted (R159). -/
def TraceEntry.readAs (e : TraceEntry) (flips : Nat) : TraceEntry :=
  .ofBits (Nat.xor (e.bits + 2 ^ 73 * e.par) flips)

/-- The bits that R150 compares: all but DATA, and DATA on the enabled bytes of writes and marks. -/
def compareMask (e : TraceEntry) : Nat :=
  let data := if e.type = 0 then 0 else ((List.range 4).filter e.be.testBit).foldl (fun a k => a + 0xFF * 2 ^ (8 * k)) 0
  packBits [(2 ^ 32 - 1, 32), (data, 32), (0x1FF, 9)]

/-- What a rail shows of the bits that differ. -/
def railShows (r : RailFault) (diff : Nat) : Nat := (diff - (diff &&& r.dead)) ||| r.stuck

/-- The mismatch kind of a set of differing bits. Where several fields differ, the kind is the one with the lowest code
(DESIGN CHOICE: R150 gives no order). -/
def diffKind (d : Nat) : Option Nat :=
  if d % 2 ^ 32 ≠ 0 then some misAddr
  else if bitsOf d 32 32 ≠ 0 then some misData
  else if bitsOf d 64 4 ≠ 0 then some misBe
  else if bitsOf d 68 2 ≠ 0 then some misType
  else if bitsOf d 70 3 ≠ 0 then some misClass else none

/-- Whether a transaction's target refuses it (R144, R145): an address that is no target; a read of anything but the window,
ROM, patch RAM, state region, frozen image and tables; a write of the frozen image or the tables. -/
def targetBad (ld l : Nat) (x : LaneTxn) : Bool :=
  match txnClass ld l x with
  | none => true
  | some c => if x.type = 0 then decide (4 ≤ c) else if x.type = 1 then decide (c = 2) || decide (c = 3) else false

/-- Whether a pass writes the bus-bit bank of the tick before, which is no target of the table (R145). -/
def State.oldBank (s : State) (ld : Nat) (x : LaneTxn) : Bool :=
  decide (x.type = 1) && decide (x.addr % 2 ^ 28 < 0x400000) &&
    decide (Config.spmUse ld (wordOff (x.addr % 2 ^ 28)) = 3 + (s.tick + 1) % 2)

/-- How the bus refuses an access of a lane (R19, R375): 0 admitted, else KIND of ERRLOG1. A mark is no access. -/
def State.laneRoute (s : State) (ld l : Nat) (x : LaneTxn) : Nat :=
  if x.type = 2 then 0
  else
    let k := s.route ⟨ld, l + 1⟩ x.addr
    if k ≠ 0 then k else if 0x400000 ≤ x.addr % 2 ^ 28 ∧ x.addr % 2 ^ 28 < 0x4000000 ∧ x.addr / 2 ^ 28 < 2 then 5 else 0

/-- Whether a transaction is refused before it reaches its target (R144, R145). -/
def State.txnRefused (s : State) (ld l : Nat) (x : LaneTxn) : Bool :=
  decide (s.laneRoute ld l x ≠ 0) || targetBad ld l x || s.oldBank ld x

/-- Whether a LOCAL access lies in the other pass's half of the window (R148). -/
def halfBad (q : Bool) (ld l : Nat) (x : LaneTxn) : Bool :=
  match txnClass ld l x, windowOff ld l x.addr with
  | some 0, some off => off.testBit 14 != q
  | _, _ => false

/-- Write the enabled bytes of a word at a device address. -/
def State.writeEnabled (s : State) (a data be : Nat) : State :=
  s.each ((List.range 4).filter be.testBit) fun s k => s.setByte (a + k) (BitVec.ofNat 8 (bitsOf data (8 * k) 8))

/-- A write to the own half of the local data RAM is performed at once, in either pass (R145). -/
def State.localWrite (s : State) (q : Bool) (ld l : Nat) (x : LaneTxn) : State :=
  s.on (decide (x.type = 1) && txnClass ld l x == some 0 && !halfBad q ld l x) fun s =>
    s.writeEnabled (x.addr - x.addr % 4) x.data x.be

/-- A word of the frozen image as a pass reads it (R144): a word whose image is absent reads invalid (R22), and of the ring entries only
those accepted in the tick before count. -/
def State.imageRead (s : State) (ld off : Nat) : Nat :=
  let n := Config.imageEntry ld (wordOff off)
  if n < 384 then
    if s.frozenAt ld (n / 64) = s.tick + 1 then s.frozenWord ld (n / 64) (n % 64) else s.frozenWord ld (n / 64) (n % 64) % 2 ^ 31
  else if n = 384 then s.tick % 2 ^ 32
  else if n = 385 then s.tick / 2 ^ 32
  else if 512 ≤ n ∧ n < 1280 then
    let b := s.prevP (n - 512)
    b.bits % 8 + 8 * b.valid.toNat
  else if 2048 ≤ n then
    match (s.furAtP ld ((n - 2048) / 2)).find? fun e => decide (e.acc ≠ 0) && e.acc == s.tick with
    | some e => bitsOf e.zone (32 * (n % 2)) 32
    | none => 0
  else s.spmWord ld off

/-- The word that a read delivers, and whether its target refuses it: a scratchpad word that answers with an error is a TARGET
mismatch (R144, R377, R381). -/
def State.laneRead (s : State) (ld l : Nat) (x : LaneTxn) : State × Nat × Bool :=
  let a := x.addr - x.addr % 4
  if (windowOff ld l x.addr).isSome then (s, leNat (s.bytes a 4), false)
  else if ownRom ld l x.addr then
    let o := a % 0x100000
    (s, if o < 0x8000 then s.romWord ld o else leNat (s.bytes a 4), false)
  else if classOf ld l x.addr = some 2 then
    let r := s.spmRead ld (l + 4) (x.addr % 2 ^ 28)
    (r.1, if r.2.2 then 0 else s.imageRead ld (x.addr % 2 ^ 28), r.2.2)
  else if x.addr % 4 = 0 then s.spmRead ld (l + 4) (x.addr % 2 ^ 28)
  else s.spmLoad ld (l + 4) (x.addr % 2 ^ 28) (beSize x.be)

/-- The value that a read delivers to the core (R147): the Q pass complements every word from outside the window. -/
def readData (q : Bool) (ld l : Nat) (x : LaneTxn) (v : Nat) : Nat :=
  if q && (windowOff ld l x.addr).isNone then Nat.xor (v % 2 ^ 32) 0xFFFFFFFF else v

/-- What a transaction does on the bus at once, and whether its target refuses it: a LOCAL write is performed, a read
delivers its word. One that the bus refuses is logged by the lane's die and completes with an error response, a read of it with 0
(R19, R486). -/
def State.issue (s : State) (q : Bool) (ld l : Nat) (x : LaneTxn) : State × Bool :=
  if s.txnRefused ld l x then
    ((s.on (decide (s.laneRoute ld l x ≠ 0)) fun s => s.logErr ld ⟨ld, l + 1⟩ x.addr (s.laneRoute ld l x) (decide (x.type = 1))).on
      (decide (x.type = 0)) fun s => s.give [0], true)
  else if halfBad q ld l x then (s, false)
  else if x.type = 0 then
    let r := s.laneRead ld l x
    if r.2.2 then (r.1.give [0], true) else (r.1.give [readData q ld l x r.2.1], false)
  else (s.localWrite q ld l x, false)

/-- A transaction of the P pass: performed as far as R145 lets it, and recorded. A mark's data is the segment index
(R149). -/
def State.pTxn (s : State) (ld l : Nat) (x : LaneTxn) : State :=
  let r := s.issue false ld l x
  let a := r.1.lane ld l
  let idx := a.trace.length
  if r.2 then r.1.mismatch ld l misTarget idx x.cyc
  else if halfBad false ld l x then r.1.mismatch ld l misHalf idx x.cyc
  else
    let e0 := entryOf false ld l x
    let e1 := if x.type = 2 then { e0 with data := a.seg } else e0
    r.1.setLane ld l { a with trace := a.trace ++ [{ e1 with par := e1.parity }], cyc := x.cyc }

/-- The injected compare of R158 at transaction s of segment 1: the entry with bit t mod 73 inverted, on one rail. It takes
every compared bit, whatever the transaction's type (DEDUCED: a healthy comparator then always flags it; log entry 27). A
rail that reads "match" fences the lane. -/
def State.injected (s : State) (ld l : Nat) (e q : TraceEntry) (x : LaneTxn) : State :=
  let a := s.lane ld l
  s.on (decide (a.seg = 0) && decide (a.inj = some a.qIdx)) fun s =>
    let k := s.tick % 73
    let r := s.tick / 73 % 2
    let d := railShows (if r = 0 then x.rail0 else x.rail1) (Nat.xor (Nat.xor e.bits q.bits) (2 ^ k))
    let s1 := ((s.put F.LANE_LSTEST_BIT ld l k).put F.LANE_LSTEST_RAIL ld l r).put F.LANE_LSTEST_IDX ld l a.qIdx
    (s1.putB F.LANE_LSTEST_FLAGGED ld l (decide (d ≠ 0))).on (decide (d = 0)) fun s => s.fenceLane ld l 5

/-- The true compare of a Q-pass transaction with the entry of its index: a pair of rails that reads equal fences the lane
(R159); a parity error or a field that differs is a mismatch (R150). -/
def State.qCompare (s : State) (ld l : Nat) (e q : TraceEntry) (x : LaneTxn) : State :=
  let a := s.lane ld l
  let diff := Nat.xor e.bits q.bits &&& compareMask e
  let d := railShows x.rail0 diff
  if d ≠ railShows x.rail1 diff then s.fenceLane ld l 5
  else if e.par ≠ e.parity then s.mismatch ld l misParity a.qIdx x.cyc
  else match diffKind d with
    | some k => s.mismatch ld l k a.qIdx x.cyc
    | none => s.setLane ld l { a with qIdx := a.qIdx + 1, cyc := x.cyc }

/-- A transaction of the Q pass: performed as far as R145 lets it, then compared with the entry of the same index. -/
def State.qTxn (s : State) (ld l : Nat) (x : LaneTxn) : State :=
  let r := s.issue true ld l x
  let a := r.1.lane ld l
  if r.2 then r.1.mismatch ld l misTarget a.qIdx x.cyc
  else if halfBad true ld l x then r.1.mismatch ld l misHalf a.qIdx x.cyc
  else match a.trace[a.qIdx]? with
    | none => r.1.mismatch ld l misCount a.qIdx x.cyc
    | some e0 =>
      let e := e0.readAs x.flips
      let q := entryOf true ld l x
      let s1 := r.1.injected ld l e q x
      s1.on (!s1.fenced U.lane ld l) fun s => s.qCompare ld l e q x

/-- The meaning of LANE_TRANSACTION. A P pass issues at most 4,096 transactions (R152). -/
def execLaneTransaction (ld lane : Nat) (x : LaneTxn) (s : State) : Answer :=
  let p := s.inPhase ld lane .pPass
  s.answer (s.hasLd ld && decide (lane < 8))
    (decide (x.type < 3) && decide (x.be < 16) &&
      ((p && decide ((s.lane ld lane).trace.length < 4096)) || s.inPhase ld lane .qPass))
    (if p then s.pTxn ld lane x else s.qTxn ld lane x)

/-! ### Ends of passes and commit (R151 to R153) -/

/-- The end of a P pass; in segment 1 the index of the injected compare is fixed, once per tick (R158). -/
def State.pPassEnd (s : State) (ld l cyc : Nat) : State :=
  let a := s.lane ld l
  let inj := if a.seg = 0 ∧ a.inj = none then some (a.lfsr % a.trace.length) else a.inj
  (s.setLane ld l { a with cyc := cyc, qIdx := 0, inj := inj }).setPhase ld l .qPass

/-- The meaning of P_PASS_END: the pass ends with its mark (R149, R152). -/
def execPPassEnd (ld lane cyc : Nat) (s : State) : Answer :=
  s.answer (s.hasLd ld && decide (lane < 8))
    (s.inPhase ld lane .pPass && (match (s.lane ld lane).trace.getLast? with
      | some e => decide (e.type = 2)
      | none => false))
    (s.pPassEnd ld lane cyc)

/-- The end of a Q pass: fewer transactions are a COUNT mismatch; the commit starts where its bound fits before the latch
point, else the tick is late. -/
def State.qPassEnd (s : State) (ld l cyc : Nat) : State :=
  let a := s.lane ld l
  if a.qIdx < a.trace.length then s.mismatch ld l misCount a.qIdx cyc
  else
    let s1 := s.setLane ld l { a with cyc := cyc }
    if 10 * a.trace.countP TraceEntry.staged + 1800 ≤ s.budget ld l - cyc then s1.setPhase ld l .commit
    else (s1.setLane ld l { s1.lane ld l with trace := [], qIdx := 0 }).setPhase ld l .asleep

/-- The meaning of Q_PASS_END. -/
def execQPassEnd (ld lane cyc : Nat) (s : State) : Answer :=
  s.answer (s.hasLd ld && decide (lane < 8)) (s.inPhase ld lane .qPass) (s.qPassEnd ld lane cyc)

/-- Bits of a staged word as entries: for each bit of the enabled bytes, what it stands for and its value. -/
def TraceEntry.asBits (e : TraceEntry) (f : Nat → Nat) : List (Nat × Bool) :=
  ((List.range 32).filter fun k => e.be.testBit (k / 8)).map fun k => (f k, e.data.testBit k)

/-- One bit of the bus-bit table: bit `n % 4` of an instance, 3 for its validity (R145). -/
def State.setBusEntry (s : State) (bank n : Nat) (b : Bool) : State :=
  let x := s.bus (n / 4) bank
  let rest := x.bits - (x.bits &&& 2 ^ (n % 4))
  s.setBus (n / 4) bank (if n % 4 = 3 then { x with valid := b } else { x with bits := if b then rest + 2 ^ (n % 4) else rest })

/-- The live instances whose bits and outputs a lane commits: those it carries, and those it stands by for (R30, R366). -/
def State.commits (s : State) (ld l : Nat) : List InstRec :=
  (s.instsOf ld l ++ s.standWork ld l).filter fun r => !s.instDeadP r.iid

/-- A commit's write to a scratchpad word that stands for single entries: it aborts the tiller's attempt on its region (R384), and a
word that is off, clearing or fenced takes nothing (R377, R382). -/
def State.entryWrite (s : State) (ld l off : Nat) (f : State → State) : State :=
  let s1 := s.spmMeets ld (l + 4) off
  let k := s1.accessKind ld off
  if k = 0 then f s1 else s1.spmErr ld off (l + 4) k 0

/-- A lane's staged write to word `k` of logic timer `n`, beside the STAT bits `same` that hardware sets in its cycle (R8). A CTL word
claims an idle timer with the lane's own code in OWNER, and gives it back with code 0 (R73; DEDUCED, log entry 32). -/
def State.laneTimer (s : State) (ld l n k v same : Nat) : State :=
  let m : Master := ⟨ld, l + 1⟩
  let o := bitsOf v 16 4
  let claims := decide (k = 0) && s.get F.LTMR_CTL_OWNER ld n == 0 && decide (o = l + 1) && !s.fenced U.ltimer ld n &&
    (s.put F.LTMR_CTL_OWNER ld n o).timerWordOk ld n k v
  if k = 0 && decide (o = 0) && s.ownsTimer m ld n then (s.idleTimer ld n).respond false
  else
    let s1 := s.on claims fun s => s.put F.LTMR_CTL_OWNER ld n o
    let w := if k = 6 then v - (v &&& same &&& 0xB) else v
    s1.asWrite .LTMR_CTL ld n m (s1.ownsTimer m ld n) (s1.timerWordOk ld n k v) fun s => s.timerWord ld n k w

/-- One staged write at the commit (R151); the lane writes the bus bits and the output entries of its own instances alone (R30,
R34). -/
def State.stagedWrite (s : State) (ld l : Nat) (same : List (Nat × Nat)) (e : TraceEntry) : State :=
  let off := e.addr % 2 ^ 28
  match e.cls with
  | 1 => (s.spmStore ld (l + 4) off e.data e.be).1
  | 4 =>
    let bank := s.tick % 2
    s.entryWrite ld l off fun s =>
      s.each ((e.asBits (Config.busEntry ld (wordOff off))).filter fun x => (s.commits ld l).any fun r => r.iid == x.1 / 4) fun s x =>
        s.setBusEntry bank x.1 x.2
  | 5 =>
    s.entryWrite ld l off fun s =>
      s.each ((e.asBits (Config.outEntry ld (wordOff off))).filter fun x =>
        (s.commits ld l).any fun r => r.entries.any fun o => o.1 == x.1) fun s x => s.setOutBit ld x.1 x.2
  | 6 =>
    let n := (off - 0x8040000) / 32
    s.laneTimer ld l n ((off - 0x8040000) % 32 / 4) e.data ((same.lookup n).getD 0)
  | _ => s

/-- The end of a segment's commit: the instances of the segment take their evaluation and its output image, the staged writes
are performed in trace order (R151), LCYC counts to here (R161); then the next segment, or the tick is committed. -/
def State.commitEnd (s : State) (ld l : Nat) (c : CommitAt) : State :=
  let a := s.lane ld l
  let s1 := (s.commitSegment ld l a.seg).put F.LANE_LCYC_CYC ld l c.cyc
  let s2 := s1.each (a.trace.filter TraceEntry.staged) fun s e => s.stagedWrite ld l c.same e
  let b := { s2.lane ld l with trace := [], qIdx := 0, cyc := c.cyc }
  if a.seg + 1 < s2.segments ld l then
    ((s2.setLane ld l { b with seg := a.seg + 1 }).put F.LANE_LSTAT_SEG ld l (a.seg + 1)).setPhase ld l .pPass
  else
    ((s2.setLane ld l b).put F.LANE_LSTAT_TICKLO ld l s.tick).put F.LANE_LSTAT_GRACE ld l 0
      |>.setPhase ld l .done

/-- The meaning of COMMIT_END. -/
def execCommitEnd (ld lane : Nat) (e : CommitAt) (s : State) : Answer :=
  s.answer (s.hasLd ld && decide (lane < 8)) (s.inPhase ld lane .commit) (s.commitEnd ld lane e)

end Sys2Proof.Machine
end

