-- ==== Sys2Proof/Machine/Latch.lean ====
section
/-!
DEFINITION. The latch point (R192): late ticks (R31, R137, R139, R156), P-enable words (R28, R30), the bus-bit bank (R145),
zone bits and spate marks (R130, R133), the P side of the sieve (R179, R180), and the compare of a soak (R360 to R362).
-/

namespace Sys2Proof.Machine

/-! ### Late ticks -/

/-- The latch point for one lane: a tick without its last commit is late (R156), and with a mismatch has its grace (R31). -/
def State.latchLane (s : State) (ld l : Nat) : State :=
  let a := s.lane ld l
  let was := s.flag F.LANE_LSTAT_LATE ld l
  s.on (a.ran && !s.fenced U.lane ld l) fun s =>
    let s0 := s.putB F.LANE_LSTAT_RETRIED ld l a.retried
    if a.ph = .done then
      ((s0.setLane ld l { a with ran := false, lateRun := 0, latePrev := was }).put F.LANE_LSTAT_LATE ld l 0).put
        F.LANE_LSTAT_LATE2 ld l 0
    else
      let b := { a with ran := false, trace := [], qIdx := 0, lateRun := a.lateRun + 1, latePrev := was }
      let s1 := ((s0.setLane ld l b).setPhase ld l .asleep).put F.LANE_LSTAT_LATE ld l 1
      let s2 := (s1.putB F.LANE_LSTAT_LATE2 ld l was).count F.LANE_LEVCNT_LATECNT ld l
      s2.on a.misNow fun s => s.put F.LANE_LSTAT_GRACE ld l 1

/-- Whether a lane overran its bound in this tick: late without a mismatch (R156). -/
def State.overran (s : State) (ld l : Nat) : Bool :=
  let a := s.lane ld l
  a.ran && decide (a.ph ≠ .done) && !a.misNow && !s.fenced U.lane ld l

/-- The second or a later one of consecutive late ticks (R139). -/
def State.outLate (s : State) (ld l : Nat) : Bool := decide (2 ≤ (s.lane ld l).lateRun)

/-! ### Decision bits as they stand (R137, R139) -/

/-- The bits of an instance without those that demand an output. -/
def InstRec.undriven (r : InstRec) (bits : Nat) : Nat :=
  r.drives.foldl (fun b d => if b.testBit d.1 then b - 2 ^ d.1 else b) bits

/-- The bits of an instance at the latch point: those committed in this tick, else those of its last committed tick
(R137). -/
def State.lastBits (s : State) (r : InstRec) : BusBit :=
  let p := s.inst r.iid
  if p.tick = s.tick + 1 then s.bus r.iid s.tick else ⟨p.fs.bits, p.fs.valid⟩

/-- Latch the bits of one instance, and its entry of bank t mod 2: 0 and invalid from the tick after its fence; in a second
late tick in a row its bus bits are 0 and invalid and its output demands 0, for the next tick's feedback too (R117, R137,
R139). Bits that stand from an earlier tick are marked so (R304). -/
def State.latchInst (s : State) (r : InstRec) : State :=
  let p := s.inst r.iid
  let d := s.dieOf r
  let late := s.outLate d (s.phys d r.lane)
  if s.instDeadP r.iid then (s.setInst r.iid { p with bits := 0, valid := false, grace := false }).setBus r.iid s.tick ⟨0, false⟩
  else
    let e := s.lastBits r
    let bits := if late then r.undriven e.bits else e.bits
    let fs := if late then { p.fs with outPrev := false } else p.fs
    let grace := decide (p.tick ≠ 0) && decide (p.tick ≠ s.tick + 1)
    let s1 := (s.setInst r.iid { p with fs := fs, bits := bits, valid := e.valid, grace := grace }).setBus r.iid s.tick
      (if late then ⟨0, false⟩ else e)
    let x := s1.svP d r.iid
    let nb := ((FnType.ofCode r.code).map FnType.nbits).getD 1
    s1.setSvP d r.iid (x.take r.iid nb bits s.tick (s1.sieveW d))

/-! ### P-enable words (R28, R30, R31, R366) -/

/-- The on-word of a tick by its parity, or the off-word (R28, R146). -/
def enableWord (t : Nat) (on : Bool) : Nat := if on then (if t % 2 = 0 then 1 else 2) else 0

/-- The word for a terminal that lane `l` sends for an instance: from its die's output image, by the tick's parity (R146);
none (4) from a fenced lane; the off-word for a fenced instance or in a second late tick in a row. -/
def State.wordOf (s : State) (ld l : Nat) (r : InstRec) (t : Nat) : Nat :=
  if s.fenced U.lane ld l then 4
  else enableWord s.tick (!s.instFencedP r.iid && !s.outLate ld l && s.outBit ld (64 * r.fdie + t))

/-- The new side of a migration whose old lane was fenced with RUN at N: its bits of the tick are live (R362). -/
def State.soakLive (s : State) : Option Soak :=
  match s.soak with
  | some k =>
    if k.kind = .migration ∧ k.switchAt ≠ 0 ∧ s.fenced U.lane k.oldDie k.oldIdx = true ∧ k.n ≤ k.runP then some k else none
  | none => none

/-- The live instances take the new side's states where its bits are live. -/
def State.takeLive (s : State) : State :=
  match s.soakLive with
  | none => s
  | some k => s.each (s.instsOf k.oldDie k.oldIdx) fun s r =>
      match k.shadowP.lookup r.iid with
      | some f =>
        ((s.setInst r.iid { s.inst r.iid with fs := f, tick := s.tick + 1 }).setBus r.iid s.tick ⟨f.bits, f.valid⟩).putOut k.newDie r f.bits
      | none => s

/-- The die and lane that send the words of a live instance. -/
def State.sender (s : State) (r : InstRec) : Nat × Nat :=
  let d := s.dieOf r
  let l := s.phys d r.lane
  match s.soakLive with
  | some k => if k.oldDie = d ∧ k.oldIdx = l then (k.newDie, k.newIdx) else (d, l)
  | none => (d, l)

/-- The word that a logic die sends for one terminal: of its live instance, or of the one it stands by for; 4 for none. -/
def State.termWord (s : State) (ld fd t : Nat) : Nat :=
  let found := s.image.img.insts.find? fun r => decide (r.fdie = fd) && r.outs.any fun o => o.2 == t
  match found with
  | none => 4
  | some r =>
    let w := s.sender r
    if w.1 = ld then s.wordOf ld w.2 r t
    else if s.hasStandby r.ldie r.lane && ((s.stby r.ldie r.lane).shadow.lookup r.iid).isSome then
      s.wordOf ld (s.phys ld r.lane) r t
    else 4

/-- The window transfer that a logic die stages for a field die. -/
def State.sendWords (s : State) (ld fd : Nat) : State := s.setWords ld fd ⟨s.tick, (List.range 64).map (s.termWord ld fd)⟩

/-! ### Zone bits and marks (R130, R133) -/

/-- The zone bits of the lanes of a logic die: each ZONE_OUT's entry of the output image, 0 where there is none or its bits
are dead (R130). -/
def State.zoneOf (s : State) (ld : Nat) : Nat :=
  (s.image.img.insts.filter fun r =>
      decide (r.code = 0x15) && decide (r.par0 < 64) && decide (s.dieOf r = ld) && !s.instDeadP r.iid).foldl
    (fun w r => if s.outBit ld (384 + r.par0) then w ||| 2 ^ r.par0 else w) 0

/-- The marks that the lanes of a logic die raise in this tick: ring and mark word (R133). A ring of the other die is reached
over DBLL (R229). -/
def State.marksRaised (s : State) (ld : Nat) : List (Nat × Nat) :=
  (s.image.img.insts.filter fun r =>
      decide (r.code = 0x17) && decide (s.dieOf r = ld) && !s.instDeadP r.iid && decide ((s.inst r.iid).tick = s.tick + 1) &&
        s.outBit ld (1024 + r.iid)).flatMap
    fun r => ([0, 1].filter fun g => r.opt.testBit g && s.hasLd g).map fun g =>
      (g, markWord (r.par0 % 256) (bitsOf r.par0 8 4) (s.node g))

/-- An own mark of channel P arrives in tick t + 1 (R133). -/
def State.ownArrival (s : State) (ld : Nat) (m : Nat × Nat) : State :=
  let l := addMark (s.marksAtP ld) ⟨m.1, m.2 % 256, bitsOf m.2 8 4, m.2 / 2 ^ 12, s.tick + 1, ld⟩
  { s with marksP := Store.set (fun _ => []) s.marksP ld l }

/-- Hand one mark, of either channel or both, to the two ports of its ring. -/
def State.handMark (s : State) (m : Nat × Nat) (pPart : Bool) : State :=
  let h := s.htxMarks.find? fun x => decide (x.ring = m.1) && decide (x.tick = s.tick) && decide (not32 x.mark = m.2)
  s.each [0, 1] fun s p => s.localMark m.1 p (s.markFrame m.1 p s.tick m.2 pPart h)

/-- Spate marks of the tick go to the ports. -/
def State.handMarks (s : State) : State :=
  let raised := s.lds.flatMap fun ld => (s.marksRaised ld).map fun m => (ld, m)
  let ps := (raised.filter fun x => decide (x.2.1 = x.1) || s.dbllUp).map Prod.snd
  let hs := (s.htxMarks.filter fun x => decide (x.tick = s.tick)).map fun x => (x.ring, not32 x.mark)
  let s1 := s.each raised fun s x => s.ownArrival x.1 x.2
  let s2 := s1.each ps.dedup fun s m => s.handMark m true
  let s3 := s2.each (hs.filter fun m => !ps.contains m) fun s m => s.handMark m false
  { s3 with htxMarks := [] }

/-! ### The compare of a soak (R360 to R362) -/

/-- A late tick of a lane now or in the tick before. -/
def State.lateNear (s : State) (ld l : Nat) : Bool := decide (1 ≤ (s.lane ld l).lateRun) || (s.lane ld l).latePrev

/-- Whether the decision bits of every instance agree between the live side and a shadow. -/
def sameBits (rs : List InstRec) (sh : List (Nat × FnSt)) (live : InstRec → Nat) : Bool :=
  rs.all fun r => match sh.lookup r.iid with
    | some f => decide (f.bits = live r)
    | none => false

/-- The output demands and zone bits that some instances give: (terminal or zone, value), in units of 2 ^ 16 for zones. -/
def demands (rs : List InstRec) (bits : InstRec → Nat) : List (Nat × Bool) :=
  rs.flatMap fun r =>
    (r.outs.map fun o => (64 * r.fdie + o.2, (bits r).testBit o.1)) ++
      (if r.code = 0x15 then [(2 ^ 16 + r.par0, (bits r).testBit 0)] else [])

/-- The demands agree: the same terminals and zone bits on, an absent one counting as 0. -/
def sameDemands (a b : List (Nat × Bool)) : Bool :=
  (a.all fun x => x.2 == (b.lookup x.1).getD false) && b.all fun x => x.2 == (a.lookup x.1).getD false

/-- The literals of an instance. -/
def InstRec.lits (r : InstRec) : List Lit :=
  let e (l : Option LinkExpr) : List Lit := match l with
    | some ts => ts.flatten
    | none => []
  e r.lnk0 ++ e r.lnk1 ++ r.rst.toList

/-- The compare of a configuration soak on one channel, from the live bits and the shadows (R360). -/
def State.sameConfig (s : State) (k : Soak) (live : InstRec → Nat) (sh : List (Nat × FnSt)) : Bool :=
  let old := s.image.img.insts.filter fun r => k.changed.contains r.iid
  let new_ := k.img.img.insts.filter fun r => k.changed.contains r.iid
  let nb (r : InstRec) : Nat := ((sh.lookup r.iid).map FnSt.bits).getD 0
  let keep := k.img.img.insts.filter fun r => !k.changed.contains r.iid
  sameDemands (demands old live) (demands new_ nb) &&
    keep.all fun r => r.lits.all fun l =>
      decide (2 ≤ l.kind) || !k.changed.contains l.iid ||
        match old.find? (fun o => o.iid == l.iid), new_.find? (fun o => o.iid == l.iid) with
        | some o, some n => (live o).testBit l.k == (nb n).testBit l.k
        | _, _ => true

/-- The bits of the live H-cell of an instance. -/
def State.liveH (s : State) (r : InstRec) : Nat :=
  if s.instDeadH r.fdie r.iid then 0 else (s.cell r.fdie (s.cellOf r)).fs.bits

/-- A decided tick: RUN and DISAG (R360). -/
def tally (run : Nat) (skip same : Bool) : Nat := if skip then run else if same then run + 1 else 0

/-- The shadow bits of this tick, as the next tick reads them (R359). -/
def shadowBits (sh : List (Nat × FnSt)) : List (Nat × BusBit) := sh.map fun e => (e.1, ⟨e.2.bits, e.2.valid⟩)

/-- The compare of the soak in progress. -/
def State.soakCompare (s : State) (k : Soak) : Soak :=
  let lives (r : InstRec) : Nat := (s.inst r.iid).bits
  match k.kind with
  | .migration =>
    let skip := s.lateNear k.oldDie k.oldIdx || s.lateNear k.newDie k.newIdx
    let same := sameBits (s.instsOf k.oldDie k.oldIdx) k.shadowP lives
    { k with runP := tally k.runP skip same, disag := k.disag + (!skip && !same).toNat, copy := !skip && !same,
             prevP := shadowBits k.shadowP }
  | .cellSwap =>
    let rs := (s.instAt k.oldDie k.oldIdx).toList
    let same := sameBits rs k.shadowH s.liveH
    { k with runH := tally k.runH false same, disag := k.disag + (!same).toNat, copy := !same }
  | .config =>
    let lanes := ((k.img.img.insts.filter fun r => k.changed.contains r.iid).map fun r => (r.ldie, s.phys r.ldie r.lane)) ++
      (s.image.img.insts.filter fun r => k.changed.contains r.iid).map fun r => (s.dieOf r, s.phys (s.dieOf r) r.lane)
    let skip := lanes.any fun x => s.lateNear x.1 x.2
    let sameP := s.sameConfig k lives k.shadowP
    let sameH := s.sameConfig k s.liveH k.shadowH
    { k with runP := tally k.runP skip sameP, runH := tally k.runH skip sameH,
             disag := k.disag + (!skip && !(sameP && sameH)).toNat, prevP := shadowBits k.shadowP,
             prevH := shadowBits k.shadowH }

/-- What follows from the compare: the switchover edge of R361, or the end by R362. -/
def State.soakDecide (s : State) (k : Soak) : State :=
  let reached := match k.kind with
    | .migration => decide (k.n ≤ k.runP)
    | .cellSwap => decide (k.n ≤ k.runH)
    | .config => decide (k.n ≤ k.runP) && decide (k.n ≤ k.runH)
  let edge := if k.kind = .config then s.tick + 2 else s.tick + 1
  let s1 : State := { s with soak := some { k with switchAt := if k.switchAt = 0 && reached then edge else k.switchAt } }
  if 4 ≤ k.disag then
    match k.kind with
    | .migration => (s1.dropSoak stSoakTimeout 3).fenceLane k.newDie k.newIdx 7
    | .cellSwap => (s1.dropSoak stSoakTimeout 3).fenceCell k.newDie k.newIdx 7
    | .config => s1
  else s1

/-- The soak in progress at the latch point. -/
def State.latchSoak (s : State) : State :=
  match s.soak with
  | some k => if k.start ≤ s.tick then s.soakDecide (s.soakCompare k) else s
  | none => s

/-- The standby of one logical lane at the latch point (R360, R362). -/
def State.latchStandby (s : State) (ild n : Nat) : State :=
  let st := s.stby ild n
  let act := if st.swapped then 1 - ild else ild
  let sd := 1 - act
  s.on (s.hasStandby ild n && s.inRun && !st.copy && !s.fenced U.lane sd (s.phys sd n) && !s.laneInBist sd (s.phys sd n)) fun s =>
    let skip := s.lateNear act (s.phys act n) || s.lateNear sd (s.phys sd n) || s.fenced U.lane act (s.phys act n)
    let same := sameBits (s.logicalInsts ild n) st.shadow fun r => (s.inst r.iid).bits
    let dis := if !skip && !same then keepNewest 3 s.tick st.disag else st.disag
    let bad := decide (3 ≤ dis.length) && dis.all fun t => decide (s.tick < t + 1000)
    let s1 := s.setStby ild n { st with run := tally st.run skip same, disag := dis, copy := !skip && !same }
    s1.on (bad && !skip && !same) fun s => s.fenceLane sd (s.phys sd n) 7

/-! ### The latch point -/

/-- At 1,000 µs and 2,000 µs the LPLL powers down, unless a lane runs BIST or is halted (R450). -/
def State.lpllDown (s : State) (ld : Nat) : State :=
  let busy := (List.range 8).any fun l => (s.lane ld l).halted || decide (0 < s.get F.LBIST_STAT_STATE ld l)
  s.on (decide (1000 ≤ s.tickUs) && !busy) fun s =>
    (s.put F.CLKPWR_CLKSTAT_LPLLON ld 0 0).put F.CLKPWR_CLKSTAT_LPLLLK ld 0 0

/-- The latch point of a tick. The fence of an overrun is raised here: after the tick's bits, before its words (R156, R193). The
zone bits of each logic die's lanes are latched for the rings' frames of the turn (R130, R216). -/
def State.latch (s : State) : State :=
  let lanes := s.lds.flatMap fun ld => (List.range 8).map fun l => (ld, l)
  let late := lanes.filter fun x => s.overran x.1 x.2
  let s1 := (s.each s.lds fun s ld => s.reachPoint ld 75).each lanes fun s x => s.latchLane x.1 x.2
  let s2 := s1.takeLive.each s1.image.img.insts fun s r => s.latchInst r
  let z := [s2.zoneOf 0, s2.zoneOf 1, s2.dbllUp.toNat].zipIdx.foldl (fun l w => Store.set (fun _ => 0) l w.2 w.1) s2.zoneP
  let s3 := ({ s2 with zoneP := z } : State).each late fun s x => s.fenceLane x.1 x.2 3
  let s4 := s3.latchSoak.each lanes fun s x => s.latchStandby x.1 x.2
  let s5 := s4.each s4.lds fun s ld => s.each s.fds fun s fd => s.sendWords ld fd
  s5.handMarks.each s5.lds fun s ld => s.lpllDown ld

/-- The meaning of LATCH_POINT. -/
def execLatchPoint (s : State) : Answer := s.answer true s.inRun s.sending.latch

/-! ### SOAK_TIMEOUT (R362) -/

/-- Whether the time limit of the soak in progress has run out without a switchover. -/
def State.soakOver (s : State) : Bool :=
  match s.soak with
  | some k => decide (k.switchAt = 0) &&
      decide (k.start + (if k.kind = .config then 1048576 else 16 * k.n + 1024) ≤ s.tick)
  | none => false

/-- The meaning of SOAK_TIMEOUT: cause 4. -/
def execSoakTimeout (s : State) : Answer := s.answer true s.soakOver (s.dropSoak stSoakTimeout 4)

end Sys2Proof.Machine
end

