-- ==== Sys2Proof/Machine/Digest.lean ====
section
/-!
DEFINITION. The digests and signatures that R14 takes from FIPS 180-4 and FIPS 186: SHA-256, HMAC-SHA-256 with the vault key (R423),
and the verification of ECDSA P-256 (R287, R330, R441; log entry 10).
-/

namespace Sys2Proof.Machine

/-! ### SHA-256 (FIPS 180-4) -/

/-- The round constants. -/
def shaK : List Nat :=
 [0x428A2F98, 0x71374491, 0xB5C0FBCF, 0xE9B5DBA5, 0x3956C25B, 0x59F111F1, 0x923F82A4, 0xAB1C5ED5,
  0xD807AA98, 0x12835B01, 0x243185BE, 0x550C7DC3, 0x72BE5D74, 0x80DEB1FE, 0x9BDC06A7, 0xC19BF174,
  0xE49B69C1, 0xEFBE4786, 0x0FC19DC6, 0x240CA1CC, 0x2DE92C6F, 0x4A7484AA, 0x5CB0A9DC, 0x76F988DA,
  0x983E5152, 0xA831C66D, 0xB00327C8, 0xBF597FC7, 0xC6E00BF3, 0xD5A79147, 0x06CA6351, 0x14292967,
  0x27B70A85, 0x2E1B2138, 0x4D2C6DFC, 0x53380D13, 0x650A7354, 0x766A0ABB, 0x81C2C92E, 0x92722C85,
  0xA2BFE8A1, 0xA81A664B, 0xC24B8B70, 0xC76C51A3, 0xD192E819, 0xD6990624, 0xF40E3585, 0x106AA070,
  0x19A4C116, 0x1E376C08, 0x2748774C, 0x34B0BCB5, 0x391C0CB3, 0x4ED8AA4A, 0x5B9CCA4F, 0x682E6FF3,
  0x748F82EE, 0x78A5636F, 0x84C87814, 0x8CC70208, 0x90BEFFFA, 0xA4506CEB, 0xBEF9A3F7, 0xC67178F2]

/-- The first hash value. -/
def shaInit : List Nat :=
 [0x6A09E667, 0xBB67AE85, 0x3C6EF372, 0xA54FF53A, 0x510E527F, 0x9B05688C, 0x1F83D9AB, 0x5BE0CD19]

/-- A 32-bit word turned right by `n` places. -/
def rotr (n x : Nat) : Nat := x / 2 ^ n + x % 2 ^ n * 2 ^ (32 - n)

/-- The bytes of a number, most significant first. -/
def beBytes (n v : Nat) : List Byte := (leBytes n v).reverse

/-- The next word of the schedule, whose words stand newest first. -/
def shaNext (ws : List Nat) : Nat :=
  let a := ws.getD 1 0
  let b := ws.getD 14 0
  (Nat.xor (Nat.xor (rotr 17 a) (rotr 19 a)) (a / 2 ^ 10) + ws.getD 6 0 +
    Nat.xor (Nat.xor (rotr 7 b) (rotr 18 b)) (b / 2 ^ 3) + ws.getD 15 0) % 2 ^ 32

/-- The schedule of a block: its 16 words, then `n` more, newest first. -/
def shaSchedule (ws : List Nat) : Nat → List Nat
  | 0 => ws
  | n + 1 => shaSchedule (shaNext ws :: ws) n

/-- One round on the eight working variables. -/
def shaRound (v : List Nat) (kw : Nat) : List Nat :=
  match v with
  | [a, b, c, d, e, f, g, h] =>
    let t1 := h + Nat.xor (Nat.xor (rotr 6 e) (rotr 11 e)) (rotr 25 e) + Nat.xor (e &&& f) ((2 ^ 32 - 1 - e) &&& g) + kw
    let t2 := Nat.xor (Nat.xor (rotr 2 a) (rotr 13 a)) (rotr 22 a) + Nat.xor (Nat.xor (a &&& b) (a &&& c)) (b &&& c)
    [(t1 + t2) % 2 ^ 32, a, b, c, (d + t1) % 2 ^ 32, e, f, g]
  | _ => v

/-- Take one block of 64 bytes into the hash value. -/
def shaBlock (h : List Nat) (block : List Byte) : List Nat :=
  let w16 := ((List.range 16).map fun k => beNat ((block.drop (4 * k)).take 4)).reverse
  let ws := (shaSchedule w16 48).reverse
  let v := (List.zipWith (· + ·) shaK ws).foldl shaRound h
  List.zipWith (fun a b => (a + b) % 2 ^ 32) h v

/-- Take `n` blocks. -/
def shaBlocks (h : List Nat) (bs : List Byte) : Nat → List Nat
  | 0 => h
  | n + 1 => shaBlocks (shaBlock h (bs.take 64)) (bs.drop 64) n

/-- The message with its padding: a one bit, zeros, its length in bits in 64 bits. -/
def shaPad (bs : List Byte) : List Byte :=
  bs ++ 0x80 :: List.replicate ((119 - bs.length % 64) % 64) 0 ++ beBytes 8 (8 * bs.length)

/-- SHA-256, as a 256-bit number, most significant byte first. -/
def sha256 (bs : List Byte) : Nat :=
  let p := shaPad bs
  (shaBlocks shaInit p (p.length / 64)).foldl (fun a w => a * 2 ^ 32 + w) 0

/-- HMAC-SHA-256 with a key of 32 bytes. -/
def hmac (key bs : List Byte) : Nat :=
  let pad (x : Byte) : List Byte := (key ++ List.replicate (64 - key.length) 0).map fun b => b ^^^ x
  sha256 (pad 0x5C ++ beBytes 32 (sha256 (pad 0x36 ++ bs)))

/-! ### ECDSA P-256 (FIPS 186) -/

/-- The field, the order of the base point, and the curve's constant b. -/
def p256 : Nat := 0xFFFFFFFF00000001000000000000000000000000FFFFFFFFFFFFFFFFFFFFFFFF
def p256n : Nat := 0xFFFFFFFF00000000FFFFFFFFFFFFFFFFBCE6FAADA7179E84F3B9CAC2FC632551
def p256b : Nat := 0x5AC635D8AA3A93E7B3EBBD55769886BC651D06B0CC53B0F63BCE3C3E27D2604B

/-- A point of the curve, `none` the point at infinity. -/
abbrev CurvePoint := Option (Nat × Nat)

/-- The base point. -/
def p256g : CurvePoint :=
  some (0x6B17D1F2E12C4247F8BCE6E563A440F277037D812DEB33A0F4A13945D898C296,
        0x4FE342E2FE1A7F9B8EE7EB4A7C0F9E162BCE33576B315ECECBB6406837BF51F5)

/-- x to the power `n` modulo `m`, where `n` has at most `k` bits. -/
def powMod (m x n : Nat) : Nat → Nat
  | 0 => 1 % m
  | k + 1 =>
    let h := powMod m x (n / 2) k
    if n % 2 = 1 then h * h % m * x % m else h * h % m

/-- The inverse modulo a prime. -/
def invMod (m x : Nat) : Nat := powMod m (x % m) (m - 2) 256

/-- The point on the line of slope `l` through (x, y) and a point of abscissa `x2`. -/
def curveThird (l x y x2 : Nat) : CurvePoint :=
  let x3 := (l * l + 2 * p256 - x - x2) % p256
  some (x3, (l * (x + p256 - x3) + p256 - y) % p256)

/-- The sum of two points. -/
def curveAdd : CurvePoint → CurvePoint → CurvePoint
  | none, q => q
  | p, none => p
  | some (x, y), some (x2, y2) =>
    if x = x2 then
      (if (y + y2) % p256 = 0 then none
       else curveThird ((3 * x * x + p256 - 3) * invMod p256 (2 * y) % p256) x y x)
    else curveThird ((y2 + p256 - y) * invMod p256 (x2 + p256 - x) % p256) x y x2

/-- A multiple of a point, by a number of at most `k` bits. -/
def curveMul (q : CurvePoint) (n : Nat) : Nat → CurvePoint
  | 0 => none
  | k + 1 =>
    let h := curveMul q (n / 2) k
    let d := curveAdd h h
    if n % 2 = 1 then curveAdd d q else d

/-- Whether a public key is a point of the curve. -/
def onCurve (x y : Nat) : Bool :=
  decide (x < p256) && decide (y < p256) && decide (y * y % p256 = (x * x * x + (p256 - 3) * x + p256b) % p256)

/-- Whether a signature (r, s) of a digest verifies under a public key. -/
def p256Verify (x y z r s : Nat) : Bool :=
  if r = 0 ∨ p256n ≤ r ∨ s = 0 ∨ p256n ≤ s ∨ onCurve x y = false then false
  else
    let w := invMod p256n s
    match curveAdd (curveMul p256g (z * w % p256n) 256) (curveMul (some (x, y)) (r * w % p256n) 256) with
    | none => false
    | some q => decide (q.1 % p256n = r)

/-- ECDSA P-256 verification: public key (affine X then Y), digest, signature (r then s), each integer 32 bytes, most significant
first (R287). -/
def ecdsaOk (pub : List Byte) (digest : Nat) (sig : List Byte) : Bool :=
  p256Verify (beNat (pub.take 32)) (beNat ((pub.drop 32).take 32)) digest (beNat (sig.take 32)) (beNat ((sig.drop 32).take 32))

end Sys2Proof.Machine
end

