-- ==== Sys2Proof/Machine/Otp.lean ====
section
/-!
DEFINITION. The OTP array, its locks, rate and margins, the life cycle, and the ROM patch chain (R414, R416, R422, R429 to
R444).
-/

namespace Sys2Proof.Machine

/-! ### Words -/

/-- The value of a word as the part uses it (R435): none where the word is uncorrectable; a blank word reads 0. -/
def State.otpData (s : State) (w : Nat) : Option Nat :=
  match (s.otpWord w).cls with
  | .uncorrectable => none
  | _ => some (s.otpWord w).data

/-- Whether region `r` is closed: its word 255 is programmed, whatever it reads (R433). -/
def State.otpClosed (s : State) (r : Nat) : Bool := (s.otpWord (256 * r + 255)).prog

/-- Whether the life-cycle state admits programming of region `r` (R432). -/
def otpAdmits (lc r : Nat) : Bool :=
  if r = 0 then decide (lc ≤ 1)
  else if r = 1 then decide (lc ≤ 2)
  else if r ≤ 5 then decide (lc ≤ 1)
  else decide (lc = 1) || decide (lc = 2)

/-- The life-cycle state that the markers give (R416): a marker counts as set when it is not blank. -/
def State.otpLc (s : State) : Nat :=
  if (s.otpWord 6).prog then 3 else if (s.otpWord 5).prog then 2 else if (s.otpWord 4).prog then 1 else 0

/-- The 32 bytes of the vault key in words 16 to 19 (R422), each word little-endian as 00_scope has it; none where a key word is
uncorrectable. -/
def State.vaultKey (s : State) : Option (List Byte) :=
  match s.otpData 16, s.otpData 17, s.otpData 18, s.otpData 19 with
  | some a, some b, some c, some d => some (leBytes 8 a ++ leBytes 8 b ++ leBytes 8 c ++ leBytes 8 d)
  | _, _, _, _ => none

/-! ### Boot step 2 -/

/-- The report of one word's margin reads on a die (R435). -/
def State.otpReport (s : State) (ld w : Nat) (c : WordClass) : State :=
  let s1 := match c with
    | .good => s
    | .corrected => s.count F.OTP_OMSTAT_CORRCNT ld 0
    | .weak => s.count F.OTP_OMSTAT_WEAKCNT ld 0
    | .uncorrectable => s.count F.OTP_OMSTAT_UECNT ld 0
  let code := match c with
    | .good => 0
    | .weak => 1
    | .uncorrectable => 2
    | .corrected => 3
  match (List.range 16).find? fun n => !s1.flag F.OTP_OMLOG_VALID ld n with
  | some n =>
    s1.on (decide (code ≠ 0)) fun s =>
      ((s.put F.OTP_OMLOG_WORD ld n w).put F.OTP_OMLOG_CLASS ld n code).put F.OTP_OMLOG_VALID ld n 1
  | none => s1

/-- Margin reads of the whole array on every logic die (R435). -/
def State.otpMargins (s : State) : State :=
  s.each s.lds fun s ld => s.each (s.otp.filter fun e => e.2.prog) fun s e => s.otpReport ld e.1 e.2.cls

/-- Locks and closed regions (R432, R433). -/
def State.otpLocks (s : State) : State :=
  let lc := s.otpLc
  s.each s.lds fun s ld =>
    let closed := bitsFrom 8 s.otpClosed
    (s.put F.OTP_OLOCK_CLOSED ld 0 closed).orFlags F.OTP_OLOCK_LOCK ld 0
      (closed ||| bitsFrom 8 fun r => !otpAdmits lc r)

/-- The life cycle on every logic die (R416). -/
def State.otpLife (s : State) : State :=
  let ue := [4, 5, 6].any fun w => decide ((s.otpWord w).cls = .uncorrectable)
  s.each s.lds fun s ld => (s.put F.LBIST_LCSTAT_LC ld 0 s.otpLc).putB F.LBIST_LCSTAT_LCUE ld 0 ue

/-- The vault loads its key in VENDOR and FIELD, if the KCV matches: the first four bytes of the key's digest, in a little-endian
field (R417, R422). -/
def State.vaultLoad (s : State) : State :=
  if s.lc = 1 ∨ s.lc = 2 then
    match s.vaultKey, s.otpData 20 with
    | some k, some c =>
      if beNat (leBytes 4 c) = sha256 k / 2 ^ 224 then s.put F.SYSCTL_VSTAT_LOADED 0 0 1
      else s.put F.SYSCTL_VSTAT_KCVFAIL 0 0 1
    | _, _ => s.put F.SYSCTL_VSTAT_KCVFAIL 0 0 1
  else s

/-! ### The patch chain (R437, R438) -/

/-- A patch entry as read: the OTP word of its word A, both words. -/
structure PatchEntry where
  wordA : Nat
  a : OtpWord
  b : OtpWord
deriving DecidableEq, Repr

def PatchEntry.gend (e : PatchEntry) : Bool := decide (e.a.cls ≠ .uncorrectable) && e.a.data.testBit 60

def PatchEntry.tgt (e : PatchEntry) : Nat := bitsOf e.a.data 61 2

def PatchEntry.addr (e : PatchEntry) : Nat := bitsOf e.a.data 3 13 * 8

/-- Whether a word of the entry is uncorrectable. -/
def PatchEntry.bad (e : PatchEntry) : Bool :=
  decide (e.a.cls = .uncorrectable) || decide (e.b.cls = .uncorrectable)

/-- Whether the entry breaks the layout of R437. -/
def PatchEntry.illFormed (e : PatchEntry) : Bool :=
  decide (2 ≤ e.tgt) || !e.a.data.testBit 63 || decide (bitsOf e.a.data 16 44 ≠ 0) || decide (bitsOf e.a.data 0 3 ≠ 0) ||
    (decide (e.tgt = 1) && decide (0x8000 ≤ e.addr))

/-- The entries of one region from entry `k` on, until a blank word A, and whether all were used. -/
def State.patchRegion (s : State) (r : Nat) : Nat → Nat → List PatchEntry × Bool
  | 0, _ => ([], true)
  | fuel + 1, k =>
    let wa := 256 * r + 2 * k
    if !(s.otpWord wa).prog then ([], false)
    else
      let rest := s.patchRegion r fuel (k + 1)
      (⟨wa, s.otpWord wa, s.otpWord (wa + 1)⟩ :: rest.1, rest.2)

/-- The chain from region `r` on (R438). -/
def State.patchChain (s : State) : Nat → Nat → List PatchEntry
  | 0, _ => []
  | fuel + 1, r =>
    let x := s.patchRegion r 127 0
    if x.2 || s.otpClosed r then x.1 ++ s.patchChain fuel (r + 1) else x.1

/-- Cut the chain into groups; the flag says whether the group is complete. -/
def patchGroups : List PatchEntry → List PatchEntry → List (List PatchEntry × Bool)
  | [], [] => []
  | [], cur => [(cur, false)]
  | e :: es, cur => if e.gend then (cur ++ [e], true) :: patchGroups es [] else patchGroups es (cur ++ [e])

/-- The comparators: target, address and the two replacement words. -/
abbrev Comparators := List (Nat × Nat × Nat)

/-- Put one entry into the comparators: an equal target and address replaces. -/
def applyPatch (cs : Comparators) (e : PatchEntry) : Comparators :=
  if cs.any fun c => c.1 == e.tgt && c.2.1 == e.addr then
    cs.map fun c => if c.1 = e.tgt ∧ c.2.1 = e.addr then (c.1, c.2.1, e.b.data) else c
  else cs ++ [(e.tgt, e.addr, e.b.data)]

/-- The cause for which a group is skipped, 0 where it is applied (R438). -/
def patchCause (cs : Comparators) (g : List PatchEntry) (complete : Bool) : Nat :=
  let lanes := g.filter fun e => e.tgt == 1
  if g.any PatchEntry.bad then 1
  else if g.any PatchEntry.illFormed then 5
  else if !lanes.isEmpty &&
      !(lanes.any (fun e => decide (e.addr < 0x4000)) && lanes.any fun e => decide (0x4000 ≤ e.addr)) then 2
  else if !complete then 3
  else if 64 < (g.foldl applyPatch cs).length then 4 else 0

/-- Run through the groups: comparators, groups applied, and the skipped groups with their cause. -/
def runPatches : List (List PatchEntry × Bool) → Comparators → Nat → List (Nat × Nat) → Comparators × Nat × List (Nat × Nat)
  | [], cs, n, sk => (cs, n, sk)
  | (g, c) :: gs, cs, n, sk =>
    let k := patchCause cs g c
    if k = 0 then runPatches gs (g.foldl applyPatch cs) (n + 1) sk
    else runPatches gs cs n (sk ++ [((g.head?.map PatchEntry.wordA).getD 0, k)])

/-- The patch units of every logic die load their comparators (R439, R444). -/
def State.patchLoad (s : State) : State :=
  let r := runPatches (patchGroups (s.patchChain 4 2) []) [] 0 []
  s.each s.lds fun s ld =>
    let s1 := ((s.put F.PATCH_PSTAT_NUSED ld 0 r.1.length).put F.PATCH_PSTAT_NGROUP ld 0 r.2.1).put
      F.PATCH_PSTAT_NSKIP ld 0 (min r.2.2.length 255)
    let s2 := s1.each (r.2.2.take 16).zipIdx fun s x =>
      ((s.put F.PATCH_PSKIP_WORD ld x.2 x.1.1).put F.PATCH_PSKIP_CAUSE ld x.2 x.1.2).put F.PATCH_PSKIP_VALID ld x.2 1
    s2.each r.1.zipIdx fun s x =>
      ((((s.put F.PATCH_PCMPA_ADDR ld x.2 (x.1.2.1 / 8)).put F.PATCH_PCMPA_TGT ld x.2 x.1.1).put F.PATCH_PCMPA_EN ld x.2 1).put
        F.PATCH_PCMPD0_D0 ld x.2 x.1.2.2).put F.PATCH_PCMPD1_D1 ld x.2 (x.1.2.2 / 2 ^ 32)

/-! ### Hard repairs (R414, R415) -/

/-- Whether region 1 retires a lane (R415). -/
def State.retired (s : State) (ld l : Nat) : Bool :=
  s.otp.any fun e => decide (256 ≤ e.1) && decide (e.1 < 511) && e.2.prog && decide (e.2.cls ≠ .uncorrectable) &&
    e.2.data.testBit 63 && bitsOf e.2.data 60 3 == 4 && bitsOf e.2.data 57 3 == ld && bitsOf e.2.data 52 5 == l

/-- One region 1 word; `taken` lists the RAM spares in use as (die, RAM of RREP, spare code). A word that cannot be loaded
is counted in BADENT (R414). -/
def State.hardRepair (s : State) (taken : List (Nat × Nat × Nat)) (d : Nat) : State × List (Nat × Nat × Nat) :=
  let kind := bitsOf d 60 3
  let ld := bitsOf d 57 3
  let unit := bitsOf d 52 5
  let mem := bitsOf d 48 4
  let addr := bitsOf d 36 12
  let sp := bitsOf d 32 4
  let bad := (s.each s.lds fun s l => s.count F.LBIST_RSTAT_BADENT l 0, taken)
  if !d.testBit 63 || !s.hasLd ld then bad
  else if kind = 1 then
    if sp = 0 ∧ !s.flag F.SPM_REP_USE0 ld unit then
      ((s.put F.SPM_REP_ROW0 ld unit addr).put F.SPM_REP_USE0 ld unit 1, taken)
    else if sp = 1 ∧ !s.flag F.SPM_REP_USE1 ld unit then
      ((s.put F.SPM_REP_ROW1 ld unit addr).put F.SPM_REP_USE1 ld unit 1, taken)
    else bad
  else if kind = 2 ∨ kind = 3 then
    let n := if mem = 3 then 32 else 4 * unit + mem
    let code := if kind = 3 then 3 else sp + 1
    if 3 < mem ∨ (mem < 3 ∧ 7 < unit) ∨ (kind = 2 ∧ 1 < sp) ∨ (kind = 3 ∧ sp ≠ 0) ∨ taken.contains (ld, n, code) then bad
    else (((s.put F.LBIST_RREP_ADDR ld n addr).put F.LBIST_RREP_SPARE ld n code).put F.LBIST_RREP_HARD ld n 1,
          (ld, n, code) :: taken)
  else if kind = 4 then (if unit < 8 then (s, taken) else bad)
  else bad

/-- Every hard repair of region 1, in ascending word order; the answer names the RAM spares taken. An uncorrectable word is not loaded,
and counts in BADENT (R427, R436). -/
def State.hardRepairs (s : State) : State × List (Nat × Nat × Nat) :=
  (s.otp.filter fun e => decide (256 ≤ e.1) && decide (e.1 < 511) && e.2.prog).foldl
    (fun x e => match e.2.cls with
      | .uncorrectable => (x.1.each x.1.lds fun s l => s.count F.LBIST_RSTAT_BADENT l 0, x.2)
      | _ => x.1.hardRepair x.2 e.2.data) (s, [])

/-! ### Operations (R430, R434, R443) -/

/-- The word named by OADDR. -/
def State.oaddr (s : State) (ld : Nat) : Nat := s.get F.OTP_OADDR_WORD ld 0

/-- The data in ODATA0 and ODATA1. -/
def State.odata (s : State) (ld : Nat) : Nat := s.get F.OTP_ODATA0_DATA ld 0 + 2 ^ 32 * s.get F.OTP_ODATA1_DATA ld 0

/-- A read at normal margin: the vault key words read 0 (R422), an uncorrectable word reads 0 with UE (R436). -/
def State.otpRead (s : State) (ld : Nat) : State :=
  let w := s.oaddr ld
  let v := if 16 ≤ w ∧ w ≤ 19 then 0 else (s.otpData w).getD 0
  ((s.put F.OTP_ODATA0_DATA ld 0 v).put F.OTP_ODATA1_DATA ld 0 (v / 2 ^ 32)).putB F.OTP_OSTAT_UE ld 0
    (decide ((s.otpWord w).cls = .uncorrectable))

/-- The refusal of a program or reburn operation: 0 none, 1 LOCKED, 2 RATE, 3 MISMATCH (R319, R430, R433, R434, R443). Only
LC_ADVANCE writes a life-cycle marker, so either operation on one is LOCKED. -/
def State.otpRefusal (s : State) (ld w d : Nat) (reburn : Bool) : Nat :=
  let r := w / 256
  let x := s.otpWord w
  if ld ≠ 0 ∨ (s.get F.OTP_OLOCK_LOCK 0 0).testBit r ∨ s.otpClosed r ∨ (4 ≤ w ∧ w ≤ 6) then 1
  else if s.get F.OTP_OSTAT_TOKENS 0 0 = 0 then 2
  else if reburn then (if x.prog ∧ x.data = d then 0 else 3)
  else if x.prog ∨ (w % 256 = 255 ∧ d ≠ 0xC105ED00 + r) then 3 else 0

/-- Start an operation: one token, BUSY for 500 µs (R434). -/
def State.otpStart (s : State) (kind w d : Nat) : State :=
  let s1 := (s.put F.OTP_OSTAT_TOKENS 0 0 (s.get F.OTP_OSTAT_TOKENS 0 0 - 1)).put F.OTP_OSTAT_BUSY 0 0 1
  { s1 with otpOp := ⟨kind, w, d⟩ }

/-- A program (kind 1) or reburn (kind 2) request through OCMD. -/
def State.otpRequest (s : State) (ld kind : Nat) : State :=
  match s.otpRefusal ld (s.oaddr ld) (s.odata ld) (decide (kind = 2)) with
  | 0 => s.otpStart kind (s.oaddr ld) (s.odata ld)
  | 1 => s.put F.OTP_OSTAT_LOCKED ld 0 1
  | 2 => s.put F.OTP_OSTAT_RATE ld 0 1
  | _ => s.put F.OTP_OSTAT_MISMATCH ld 0 1

/-- The operation ends with reads at all three margins (R434, R435). Every stored bit of the data reads 1 at normal margin; `w` says
which bits read 1 at low and high margin, and which bits beyond the data read 1. Programming only sets bits. -/
def State.otpFinish (s : State) (w : OtpWord) : State :=
  let o := s.otpOp
  let s1 := s.setOtp o.word ⟨w.low, otpCode o.data ||| w.norm, w.high⟩
  let s2 := (({ s1 with otpOp := OtpOp.zero } : State).put F.OTP_OSTAT_BUSY 0 0 0).putB F.OTP_OSTAT_WEAK 0 0
    (decide ((s1.otpWord o.word).cls = .weak))
  s2.each s2.lds fun s ld => s.put F.OTP_OLOCK_CLOSED ld 0 (bitsFrom 8 s.otpClosed)

/-- The operation in progress ends, and which of the data's bits read 1 at low and high margin is a free choice (log entry 4). -/
def State.otpEnds (s : State) : State :=
  let c := otpCode s.otpOp.data
  let s1 := s.spend
  (s.otpFinish ⟨s.free &&& c, 0, s1.free &&& c⟩).spend.spend

/-- The meaning of OCMD_READ. -/
def execOcmdRead (m : Master) (ld : Nat) (s : State) : Answer :=
  s.answer (s.hasLd ld) true (s.asWrite .OTP_OCMD ld 0 m (m.isSvOf ld) true fun s => s.otpRead ld)

/-- The meaning of OCMD_PROG. -/
def execOcmdProg (m : Master) (ld : Nat) (s : State) : Answer :=
  s.answer (s.hasLd ld) true
    (s.asWrite .OTP_OCMD ld 0 m (m.isSvOf ld) (!s.flag F.OTP_OSTAT_BUSY ld 0) fun s => s.otpRequest ld 1)

/-- The meaning of OCMD_REBURN. -/
def execOcmdReburn (m : Master) (ld : Nat) (s : State) : Answer :=
  s.answer (s.hasLd ld) true
    (s.asWrite .OTP_OCMD ld 0 m (m.isSvOf ld) (!s.flag F.OTP_OSTAT_BUSY ld 0) fun s => s.otpRequest ld 2)

/-- The meaning of OTP_OPERATION_DONE. -/
def execOtpOperationDone (w : OtpWord) (s : State) : Answer :=
  s.answer true (decide (s.otpOp.kind ≠ 0)) (s.otpFinish w)

/-- The meaning of OTP_TOKEN_GAIN. -/
def execOtpTokenGain (s : State) : Answer :=
  s.answer true true (s.put F.OTP_OSTAT_TOKENS 0 0 (min 16 (s.get F.OTP_OSTAT_TOKENS 0 0 + 1)))

/-- The meaning of OLOCKSET. -/
def execOlockset (m : Master) (ld set : Nat) (s : State) : Answer :=
  s.answer (s.hasLd ld) true
    (s.asWrite .OTP_OLOCKSET ld 0 m (m.isSvOf ld) (decide (set < 256)) fun s => s.orFlags F.OTP_OLOCK_LOCK ld 0 set)

end Sys2Proof.Machine
end

