-- ==== Sys2Proof/Machine/Lbist.lean ====
section
/-!
DEFINITION. Logic BIST, field-die BIST and the orderly shutdown (R403 to R412).
-/

namespace Sys2Proof.Machine

/-! ### Runs -/

/-- Whether engine `e` may run now: idle, and in Run not on a lane that carries instances, an enabled ring engine or the
supervisor that serves (R408). -/
def State.bistMay (s : State) (ld e : Nat) : Bool :=
  s.get F.LBIST_STAT_STATE ld e == 0 &&
    (!s.inRun ||
      (if e < 8 then (s.instsOf ld e).isEmpty && !s.isSoakLane ld e
       else if e = 8 then !s.svUp ld else !s.flag F.RNG_RINGCFG_ENABLE ld 0))

/-- One clock of a 64-bit register with the characteristic polynomial x⁶⁴ + x⁶³ + x⁶¹ + x⁶⁰ + 1 (R403): times x. The spec gives the
polynomial, not the form of the register (DESIGN CHOICE, log entry 169). -/
def prpgStep (v : Nat) : Nat := if v.testBit 63 then Nat.xor (2 * v % 2 ^ 64) 0xB000000000000001 else 2 * v % 2 ^ 64

/-- The product of two such registers as polynomials; `k` counts the bits of `b`. -/
def prpgMul (a b : Nat) : Nat → Nat
  | 0 => 0
  | k + 1 => Nat.xor (if b.testBit k then a else 0) (prpgStep (prpgMul a b k))

/-- x to the power `n`, whose bits number `k`. -/
def prpgPow (n : Nat) : Nat → Nat
  | 0 => 1
  | k + 1 =>
    let h := prpgPow (n / 2) k
    let q := prpgMul h h 64
    if n % 2 = 1 then prpgStep q else q

/-- A generator `n` clocks after a seed. -/
def prpgAfter (seed n : Nat) : Nat := prpgMul (seed % 2 ^ 64) (prpgPow n 40) 64

/-- One clock of a MISR that takes the outputs `x` of the chains (R403). -/
def misrStep (m x : Nat) : Nat := Nat.xor (prpgStep m) (x % 2 ^ 64)

/-- The shift clocks of one pattern of engine `e`, the longest chain of its unit (R403). -/
def chainLen (e : Nat) : Nat := if e = 8 then 512 else 256

/-- The pattern count of a run: that of R404, and 32,768 in a shutdown, whose runs leave records (R410; DEDUCED). -/
def State.bistCount (s : State) (ld e : Nat) : Nat := if s.part.shut = 2 then 32768 else s.get F.LBIST_CFG_PCNT ld e

/-- The owner code of the unit that engine `e` tests (R353); the ring engine's two ports are 0x0A and 0x0B. -/
def engineCodes (e : Nat) : List Nat := if e < 8 then [1 + e] else if e = 8 then [9] else [0x0A, 0x0B]

/-- GO: the record is void, the leases are revoked, the generator takes its seed and the unit is being isolated (R403, R405, R409). A supervisor under test
serves nothing until it has restarted (R406). -/
def State.bistStart (s : State) (ld e : Nat) : State :=
  let s1 := (s.put F.LBIST_REC_VALID ld e 0).each (engineCodes e) fun s c => s.revoke ld c false
  let s2 := ((s1.put F.LBIST_STAT_STATE ld e 1).put F.LBIST_STAT_RESULT ld e 0).put F.LBIST_STAT_TOKEN ld e 0
  let s3 := (s2.putB F.LBIST_STAT_CUSTOM ld e (s.bistCount ld e != 32768)).put F.LBIST_STAT_ACAUSE ld e 0
  let s4 := (((s3.put F.LBIST_PDONE_PDONE ld e 0).put F.LBIST_MISR0_MISR ld e 0).put F.LBIST_MISR1_MISR ld e 0).setPrpg
    (16 * ld + e) (Config.bistSeed e)
  s4.on (decide (e = 8)) fun s => (s.setSv ld { s.svst ld with restarting := true }).stopSv ld

/-- The unit kind and number that engine `e` tests. -/
def engineUnit (e : Nat) : Nat × Nat := if e < 8 then (U.lane, e) else if e = 8 then (U.sv, 0) else (U.engine, 0)

/-- Fence the unit of an engine (R411). A supervisor so fenced stays fenced until the part is reset. -/
def State.fenceEngineUnit (s : State) (ld e reason : Nat) : State :=
  if e < 8 then s.fenceLane ld e reason
  else if e = 8 then
    let s1 := s.fenceSv ld reason
    let v := s1.svst ld
    s1.setSv ld { v with restarting := false, dead := true }
  else s.fenceEngine ld reason

/-- FSTATUS BIST_ISOLATE (R322). -/
abbrev stBistIsolate : Nat := 0x0113

/-- The expected signature of a run (R404). -/
def State.bistExpected (s : State) (ld e : Nat) : Nat :=
  if s.flag F.LBIST_STAT_CUSTOM ld e then s.get F.LBIST_EXP0_EXP ld e + 2 ^ 32 * s.get F.LBIST_EXP1_EXP ld e
  else Config.bistSignature e

/-- What an engine shows of a run: RESULT, TOKEN, PDONE and MISR (R407). -/
def State.bistShow (s : State) (ld e result token pdone misr : Nat) : State :=
  let s1 := ((s.put F.LBIST_STAT_RESULT ld e result).put F.LBIST_STAT_TOKEN ld e token).put F.LBIST_PDONE_PDONE ld e pdone
  (s1.put F.LBIST_MISR0_MISR ld e misr).put F.LBIST_MISR1_MISR ld e (misr / 2 ^ 32)

/-- The last pattern is done with its token: the MISR decides (R407, R409, R411). -/
def State.bistDone (s : State) (ld e misr : Nat) : State :=
  let pass := decide (misr % 2 ^ 64 = s.bistExpected ld e % 2 ^ 64)
  let custom := s.flag F.LBIST_STAT_CUSTOM ld e
  let n := s.bistCount ld e
  let s0 := (s.bistShow ld e (if pass then 1 else 2) 1 n misr).put F.LBIST_STAT_STATE ld e 3
  let s1 := s0.setPrpg (16 * ld + e) (prpgAfter (s.prpgOf (16 * ld + e)) (n * chainLen e))
  if pass then s1.on (!custom) fun s => (s.put F.LBIST_REC_VALID ld e 1).putB F.LBIST_REC_SHUT ld e (decide (s.part.shut = 2))
  else s1.on (!custom) fun s => s.fenceEngineUnit ld e 0x0C

/-- The lane registers that re-initialisation returns to their reset values (R406): all but LIDS and the counts that clear only at a
reset of the die (R161: MISCNT of LMCNT, LEVCNT). -/
def laneRegs : List Reg :=
  [.LANE_LCTL, .LANE_LSTAT, .LANE_LWCET, .LANE_LMT, .LANE_LMT0, .LANE_LMINFO, .LANE_LCYC, .LANE_LSTEST]

/-- Re-initialisation (R406): a lane's core, comparator, registers and local data RAM; a supervisor starts again from its ROM; a ring
engine and its ports keep their register values alone. The debug unit holds a halt, not the lane. -/
def State.reinit (s : State) (ld e : Nat) : State :=
  let s1 := s.put F.LBIST_STAT_STATE ld e 0
  if e < 8 then
    let a := s1.lane ld e
    let s2 := (s1.setLane ld e { LaneSt.zero with halted := a.halted }).resetRegs laneRegs ld e
    let ph := s.get F.LANE_LSTAT_PHASE ld e
    let s3 := (s2.put F.LANE_LMCNT_WIN ld e 0).put F.LANE_LSTAT_PHASE ld e (if s.fenced U.lane ld e then ph else 0)
    let b := ld * 2 ^ 28 + 0x4000000 + e * 0x100000 + 0x10000
    { s3 with mem := s3.mem.dropRange b (b + 0x8000) }
  else if e = 8 then
    let v := s1.svst ld
    s1.setSv ld { v with restarting := !v.dead }
  else s1.each [0, 1] fun s p =>
    (s.setRing ld RingSt.zero).setPort ld p { PortSt.zero with conf := (s.port ld p).conf, page := (s.port ld p).page }

/-- The meaning of LBIST_GO. -/
def execLbistGo (m : Master) (ld e : Nat) (s : State) : Answer :=
  s.answer (s.hasLd ld && decide (e < 10)) true
    (s.asWrite .LBIST_CTL ld e m (m.isSvOf ld) (s.bistMay ld e) fun s => s.bistStart ld e)

/-- The meaning of LBIST_ISOLATION_TIMEOUT: the engine does not start (R405). -/
def execLbistIsolationTimeout (ld e : Nat) (s : State) : Answer :=
  s.answer (s.hasLd ld && decide (e < 10)) (s.get F.LBIST_STAT_STATE ld e == 1)
    (((((s.put F.LBIST_STAT_STATE ld e 0).put F.LBIST_STAT_RESULT ld e 3).put F.LBIST_STAT_ACAUSE ld e 4).bistJobEnd ld e
      stBistIsolate 2).on (decide (e = 8)) fun s => (s.setSv ld { s.svst ld with restarting := s.fenced U.sv ld 0 }).moveLeases)

/-- The meaning of LBIST_ABORT. -/
def execLbistAbort (m : Master) (ld e : Nat) (s : State) : Answer :=
  s.answer (s.hasLd ld && decide (e < 10)) true
    (s.asWrite .LBIST_CTL ld e m (m.isSvOf ld) true fun s => s.cutBist ld e 1)

/-- The meaning of LBIST_PATTERNS_DONE. -/
def execLbistPatternsDone (ld e misr : Nat) (s : State) : Answer :=
  s.answer (s.hasLd ld && decide (e < 10))
    (s.get F.LBIST_STAT_STATE ld e == 1 || s.get F.LBIST_STAT_STATE ld e == 2) (s.bistDone ld e misr)

/-- The meaning of LBIST_REINIT_DONE. -/
def execLbistReinitDone (ld e : Nat) (s : State) : Answer :=
  s.answer (s.hasLd ld && decide (e < 10)) (s.get F.LBIST_STAT_STATE ld e == 3)
    ((s.reinit ld e).bistJobEnd ld e 0 (s.get F.LBIST_STAT_RESULT ld e - 1))

/-! ### Orderly shutdown (R410) -/

/-- FBIST starts on a powered field die: its terminals go off and its inputs read open while it runs (R412). -/
def State.fbistStart (s : State) (fd : Nat) : State :=
  s.on (s.field fd).power fun s =>
    let s1 := ((s.put F.FBIST_FBREC_VALID (fdie fd) 0 0).put F.FBIST_FBSTAT_RETRY (fdie fd) 0 0).termsOff fd
    (s1.setPrpg (32 + fd) (Config.bistSeed 16)).setField fd { s1.field fd with fbist := true }

/-- A ring engine under test sends nothing: its ring is left. -/
def State.ringIdle (s : State) (ld : Nat) : State := s.put F.RNG_TSYNC_STATE ld 0 0

/-- The engines of a part, by die and number, the issuing supervisor's last. -/
def State.engines (s : State) : List (Nat × Nat) :=
  (s.lds.flatMap fun ld => (List.range 10).map fun e => (ld, e)).filter (· != (0, 8))

/-- The fence controllers fence every instance with reason 0x01, and BIST runs on every unit but the issuing supervisor, whose
run comes last. -/
def State.shutdownFence (s : State) : State :=
  let s0 := s.each s.image.img.insts fun s r => s.fenceInst (s.dieOf r) r.iid 0x01
  let s1 : State := { s0 with part := { s0.part with shut := 2 } }
  let s2 := (s1.each s1.lds State.ringIdle).each s1.engines fun s x => s.bistStart x.1 x.2
  s2.each s2.fds State.fbistStart

/-- A write of 1 to SDCTL.GO: the instances are fenced at the next tick edge, at once where no tick runs. A shutdown that has
begun goes on. -/
def State.shutdown (s : State) : State :=
  s.on (decide (s.part.shut = 0)) fun s =>
    let s1 := s.put F.LBIST_SDCTL_BUSY 0 0 1
    if s.inRun then { s1 with part := { s1.part with shut := 1 } } else s1.shutdownFence

/-- The end of one engine's run in a shutdown; a run that has ended before, cut short or not, keeps its result (R407). The spec states no
MISR for a run that fails: any value but the expected one, freely chosen (log entry 4). -/
def State.shutdownEngine (s : State) (ld e : Nat) (fail : Bool) : State :=
  let runs := s.get F.LBIST_STAT_STATE ld e == 1 || s.get F.LBIST_STAT_STATE ld e == 2
  let sig := Config.bistSignature e % 2 ^ 64
  let bad := (sig + 1 + s.freeBelow (2 ^ 64 - 1)) % 2 ^ 64
  let s1 := s.on runs fun s => if fail then s.spend.bistDone ld e bad else s.bistDone ld e sig
  s1.on (s1.laneInBist ld e) fun s => s.reinit ld e

/-- The end of a field die's run in a shutdown; one that has ended before keeps its result. -/
def State.shutdownField (s : State) (fd : Nat) (fail : Bool) : State :=
  s.on (s.field fd).fbist fun s =>
    let s1 := (s.putB F.FBIST_FBSTAT_TOKEN (fdie fd) 0 true).put F.FBIST_FBSTAT_RESULT (fdie fd) 0 (if fail then 2 else 1)
    let s2 := s1.setField fd { s1.field fd with fbist := false }
    if fail then s2.fenceField fd 0x0C else s2.put F.FBIST_FBREC_VALID (fdie fd) 0 1

/-- The shutdown's runs have ended; `fails` names the engines that failed as 16·ld + e, and a field die as 32 + fd. Every
other unit whose run was not cut short has a pass record from it. -/
def State.shutdownDone (s : State) (fails : List Nat) : State :=
  let s1 := (s.bistStart 0 8).each (s.engines ++ [(0, 8)]) fun s x => s.shutdownEngine x.1 x.2 (fails.contains (16 * x.1 + x.2))
  let s2 := s1.each s1.fds fun s fd => s.shutdownField fd (fails.contains (32 + fd))
  let s3 := (s2.put F.LBIST_SDCTL_BUSY 0 0 0).put F.LBIST_SDCTL_DONE 0 0 1
  { s3 with part := { s3.part with shut := 3, safe := true } }

/-- The meaning of ORDERLY_SHUTDOWN. -/
def execOrderlyShutdown (m : Master) (s : State) : Answer :=
  s.answer true true (s.asWrite .LBIST_SDCTL 0 0 m (m.isSvOf 0) true State.shutdown)

/-- The meaning of SHUTDOWN_DONE. -/
def execShutdownDone (fails : List Nat) (s : State) : Answer :=
  s.answer true (decide (s.part.shut = 2)) (s.shutdownDone fails)

/-! ### Field-die BIST (R412) -/

/-- The generator of a field die after its 32,768 patterns of 10 HCLK cycles, of which 4 capture (R403, R412). -/
def State.fbistShift (s : State) (fd : Nat) : State := s.setPrpg (32 + fd) (prpgAfter (s.prpgOf (32 + fd)) (32768 * 6))

/-- The end of an FBIST run: an INCOMPLETE run is repeated once. A PASS leaves the die waiting for its load. -/
def State.fbistDone (s : State) (fd : Nat) (token : Bool) (misr : Nat) : State :=
  let d := fdie fd
  let x := s.field fd
  let s1 := s.putB F.FBIST_FBSTAT_TOKEN d 0 token
  if !token then
    let s2 := s1.put F.FBIST_FBSTAT_RESULT d 0 3
    if s.flag F.FBIST_FBSTAT_RETRY d 0 then (s2.setField fd { x with fbist := false }).fenceField fd 0x0C
    else s2.put F.FBIST_FBSTAT_RETRY d 0 1
  else if misr % 2 ^ 64 = Config.bistSignature 16 % 2 ^ 64 then
    (((s1.put F.FBIST_FBSTAT_RESULT d 0 1).put F.FBIST_FBREC_VALID d 0 1).fbistShift fd).setField fd
      { x with fbist := false, loadPending := true }
  else (((s1.put F.FBIST_FBSTAT_RESULT d 0 2).fbistShift fd).setField fd { x with fbist := false }).fenceField fd 0x0C

/-- The meaning of FBIST_DONE. -/
def execFbistDone (fd : Nat) (token : Bool) (misr : Nat) (s : State) : Answer :=
  s.answer (s.hasFd fd) (s.field fd).fbist (s.fbistDone fd token misr)

end Sys2Proof.Machine
end

