-- ==== Sys2Proof/Machine/Soak.lean ====
section
/-!
DEFINITION. The tick edges of a soak (R358 to R370): its start, the copies of state at an edge, and the switchover.
-/

namespace Sys2Proof.Machine

/-! ### Lanes and cells -/

/-- LCTL.RUN follows the work of each lane of a die: 1 where it carries instances or stands by, 0 where it has none and is
no soak target. -/
def State.setRuns (s : State) (ld : Nat) : State :=
  s.each (List.range 8) fun s l =>
    if s.fenced U.lane ld l || s.laneInBist ld l then s
    else if !(s.instsOf ld l).isEmpty || (s.standsFor ld l).isSome then
      s.on (!s.flag F.LANE_LCTL_RUN ld l) fun s => s.startLane ld l
    else s.on (!s.isSoakLane ld l) fun s => s.put F.LANE_LCTL_RUN ld l 0

/-- A lane that a migration frees takes up the lowest-numbered waiting logical lane of its die (R365). -/
def State.takeWaiting (s : State) (ld l : Nat) : State :=
  match (List.range 8).find? fun n => s.logicalUsed ld n && s.fenced U.lane ld (s.phys ld n) with
  | some n => s.remap ld n l
  | none => s

/-- Inactive, unfenced cells of a field die (R368). -/
def State.freeCells (s : State) (fd : Nat) : List Nat :=
  (List.range 144).filter fun c => !s.flag F.HC_HCFG_ACTIVE (fdie fd) c && !s.fenced U.cell (fdie fd) c

/-! ### Start and copies (R358, R360, R368) -/

/-- The committed states of some instances on channel P. -/
def State.statesP (s : State) (rs : List InstRec) : List (Nat × FnSt) := rs.map fun r => (r.iid, (s.inst r.iid).fs)

/-- The states of the old cell of a swap. -/
def State.statesH (s : State) (k : Soak) : List (Nat × FnSt) :=
  (s.instAt k.oldDie k.oldIdx).toList.map fun r => (r.iid, (s.cell k.oldDie k.oldIdx).fs)

/-- The physical lane that carries the new entry of an instance. -/
def State.newLane (s : State) (r : InstRec) : Nat × Nat := (r.ldie, s.phys r.ldie r.lane)

/-- The value of a record of an image, if it has one. -/
def Image.recVal (i : Image) (r : Reg) (die idx : Nat) : Option Nat :=
  (i.recs.find? fun x => x.die == die && x.off == r.place.off + r.place.stride * idx).map RegRec.val

/-- Whether the running W of some lane plus the W that the new image gives it exceeds its budget (R368). -/
def State.budgetFails (s : State) (k : Soak) : Bool :=
  k.newSide.any fun r =>
    let x := s.newLane r
    let new_ := ((k.img.img.recVal .LANE_LWCET r.ldie r.lane).getD 0) % 2 ^ 20
    decide (s.budget x.1 x.2 < s.get F.LANE_LWCET_W x.1 x.2 + new_)

/-- The cells that soak the changed and new instances, by IID; none where a die has too few. The spec does not say which of the
inactive, unfenced cells: the lowest-numbered, in the order of the instances (DESIGN CHOICE). -/
def State.soakCells (s : State) (k : Soak) : Option (List (Nat × Nat)) :=
  (s.fds.foldl (fun acc fd =>
    match acc with
    | none => none
    | some l =>
      let rs := k.newSide.filter fun r => r.fdie == fd
      let cs := s.freeCells fd
      if cs.length < rs.length then none else some (l ++ (rs.zip cs).map fun x => (x.1.iid, x.2)))
    (some []))

/-- The soak starts at the edge of its start tick. -/
def State.soakBegin (s : State) (k : Soak) : State :=
  match k.kind with
  | .migration =>
    let s1 := (s.put F.LANE_LCTL_SOAK k.newDie k.newIdx 1).startLane k.newDie k.newIdx
    { s1 with soak := some { k with shadowP := s.statesP (s.instsOf k.oldDie k.oldIdx), prevP := [], copy := false } }
  | .cellSwap =>
    { s.copyCell k.oldDie k.oldIdx k.newIdx with
      soak := some { k with shadowH := s.statesH k, prevH := [], copy := false } }
  | .config =>
    if s.budgetFails k then s.dropSoak stSoakTimeout 1
    else match s.soakCells k with
      | none => s.dropSoak stSoakTimeout 2
      | some cs =>
        let start := k.newSide.map fun r => (r.iid, Fn.init r.cfg s.tick)
        let none_ := k.newSide.map fun r => (r.iid, (⟨0, false⟩ : BusBit))
        { s with soak := some { k with shadowP := start, shadowH := start, prevP := none_, prevH := none_, cells := cs } }

/-- After a disagreeing tick the new side takes the old side's state again. -/
def State.soakCopy (s : State) (k : Soak) : State :=
  match k.kind with
  | .migration =>
    { s with soak := some { k with shadowP := s.statesP (s.instsOf k.oldDie k.oldIdx), prevP := [], copy := false } }
  | .cellSwap => { s with soak := some { k with shadowH := s.statesH k, prevH := [], copy := false } }
  | .config => s

/-- The logical lanes of the image's dies. -/
def State.logicals (s : State) : List (Nat × Nat) := (List.range s.variant.logics).flatMap fun ld => (List.range 8).map fun n => (ld, n)

/-- The P-sources of a logical lane that a fence has moved to the other die follow at the edge (R32, R362). -/
def State.movedSources (s : State) (ild n : Nat) : State :=
  let st := s.stby ild n
  s.on st.moved fun s =>
    (s.setStby ild n { st with moved := false }).each (s.logicalInsts ild n) fun s r =>
      s.each r.outs fun s o => s.setSource r.fdie o.2 (if st.swapped then 1 - ild else ild)

/-- A lane that stands by runs (R366): with the W and CLKSEL of the active lane, as R364 and R365 give them to a lane that takes work
(DEDUCED, log entry 170). -/
def State.standbyRun (s : State) (ild n : Nat) : State :=
  let sd := if (s.stby ild n).swapped then ild else 1 - ild
  let l := s.phys sd n
  let a := s.phys (1 - sd) n
  s.on (!s.flag F.LANE_LCTL_RUN sd l && !s.fenced U.lane sd l && !s.laneInBist sd l) fun s =>
    (((s.put F.LANE_LWCET_W sd l (s.get F.LANE_LWCET_W (1 - sd) a)).put F.LANE_LCTL_CLKSEL sd l
      (s.get F.LANE_LCTL_CLKSEL (1 - sd) a)).startLane sd l)

/-- The standbys run, and take the active side's states at an edge where they are to (R358, R360). -/
def State.standbyCopy (s : State) : State :=
  s.each s.logicals fun s x =>
    let st := s.stby x.1 x.2
    let sd := if st.swapped then x.1 else 1 - x.1
    s.on (s.hasStandby x.1 x.2) fun s =>
      (s.standbyRun x.1 x.2).on (st.copy && decide (st.start ≤ s.tick) && !s.fenced U.lane sd (s.phys sd x.2) &&
          !s.laneInBist sd (s.phys sd x.2)) fun s =>
        s.setStby x.1 x.2 { st with copy := false, shadow := s.statesP (s.logicalInsts x.1 x.2) }

/-! ### Switchover (R361, R364, R368 to R370) -/

/-- Both sides of the sieve compare an instance from the first window at or after this tick (R361), and count anew. -/
def State.sieveFrom (s : State) (r : InstRec) : State :=
  let d := s.dieOf r
  let c := s.cellOf r
  let s1 := (s.setSvP d r.iid { s.svP d r.iid with from_ := s.tick, lastOk := false }).setSvH r.fdie c
    { s.svH r.fdie c with from_ := s.tick, lastOk := false }
  (s1.setDcnt d r.iid 0).setDcnt (fdie r.fdie) c 0

/-- The new side's states and bits of the tick before are the live ones. -/
def State.takeShadowP (s : State) (k : Soak) (r : InstRec) : State :=
  let p := s.inst r.iid
  let fs := (k.shadowP.lookup r.iid).getD p.fs
  let s1 := s.setInst r.iid { p with fs := fs, bits := fs.bits, valid := fs.valid, tick := s.tick, hold := 0 }
  match k.prevP.lookup r.iid with
  | some b => s1.setBus r.iid (s.tick + 1) b
  | none => s1

/-- The new side's state is that of the cell. -/
def State.takeShadowH (s : State) (k : Soak) (r : InstRec) : State :=
  match k.shadowH.lookup r.iid with
  | some fs => s.setCell r.fdie (s.cellOf r) { HCell.zero with fs := fs, prevBits := fs.bits, prevValid := fs.valid, tick := s.tick }
  | none => s

/-- The switchover of a migration (R364). To the other die it makes the two lanes swap their roles (R366). The source then runs BIST where
the request asks for it; one that takes up a waiting logical lane at once carries instances, and runs none (R365, R408). -/
def State.switchMigration (s : State) (k : Soak) : State :=
  let rs := s.instsOf k.oldDie k.oldIdx
  let s1 := (s.each rs fun s r => s.takeShadowP k r).put F.LANE_LCTL_SOAK k.newDie k.newIdx 0
  let ild := (rs.head?.map InstRec.ldie).getD k.oldDie
  let s2 := s1.put (fldLmap k.logical) k.newDie 0 k.newIdx
  let s3 := if k.newDie = k.oldDie then s2
    else
      let st := s2.stby ild k.logical
      (s2.setStby ild k.logical { st with swapped := !st.swapped, run := 0, disag := [], copy := true }).each rs fun s r =>
        s.each r.outs fun s o => s.setSource r.fdie o.2 k.newDie
  let s4 := s3.each rs fun s r => s.sieveFrom r
  let s5 := (s4.takeWaiting k.oldDie k.oldIdx).setRuns k.oldDie |>.setRuns k.newDie
  s5.on (k.flags.testBit 0 && s5.bistMay k.oldDie k.oldIdx) fun s => s.bistStart k.oldDie k.oldIdx

/-- The switchover of a cell swap (R370). -/
def State.switchCell (s : State) (k : Soak) : State :=
  match s.instAt k.oldDie k.oldIdx with
  | none => s
  | some r =>
    let s1 := ((s.mapCell k.oldDie r.cell k.newIdx).dropCell k.oldDie k.oldIdx).put F.HC_HCFG_ACTIVE (fdie k.newDie) k.newIdx 1
    (s1.takeShadowH k r).sieveFrom r

/-- Whether a record is a start record (R334), which the part writes only before Run. -/
def startRec (die off : Nat) : Bool :=
  match findReg die off with
  | some (r, _) =>
    [Reg.TICK_TCFG, .RNG_RINGCFG, .RNG_RINGID, .RNG_ETYPE, .RNG_NODES, .RNG_CFGHASH, .RNG_TURNCFG, .RNG_SLSERV,
      .RNG_SLFURR, .RNG_SLSPATE, .HGLB_HRING, .HGLB_HRINGID].contains r
  | none => false

/-- P-sources follow OUTMAP where the new image changes a terminal's byte. -/
def State.switchSources (s : State) (old new_ : List Nat) : State :=
  s.each (List.range (64 * s.variant.fields)) fun s g =>
    s.on (old.getD g 0 != new_.getD g 0) fun s => s.setSource (g / 64) (g % 64) ((new_.getD g 0) % 2)

/-- The switchover of a configuration (R368, R369); `flags` bit 0 is SWMODE. -/
def State.switchConfig (s : State) (k : Soak) : State :=
  let old := s.image.img
  let gone := old.insts.filter fun r => k.changed.contains r.iid
  let fresh := k.newSide
  let s1 := s.each gone fun s r => s.dropCell r.fdie (s.cellOf r)
  let s2 := s1.each (gone.filter fun r => !fresh.any fun n => n.iid == r.iid) fun s r =>
    ((s.setInst r.iid PInst.zero).setBus r.iid 0 ⟨0, false⟩).setBus r.iid 1 ⟨0, false⟩
      |>.unfence U.inst 0 r.iid |>.unfence U.inst 1 r.iid
  let s3 := s2.each k.cells fun s x =>
    match fresh.find? fun r => r.iid == x.1 with
    | some r => s.mapCell r.fdie r.cell x.2
    | none => s
  let s4 : State := { s3 with image := k.img }
  let s5 := s4.each s4.dies fun s d => s.loadRecs (k.img.img.recs.filter fun r => !startRec r.die r.off) d
  let s6 := s5.switchSources old.outmap k.img.img.outmap
  let s7 := s6.each fresh fun s r =>
    let st := if k.flags.testBit 0 then
        let a := (s.startP r s.tick).startH r s.tick
        let c := s.cellOf r
        (a.setInst r.iid { a.inst r.iid with hold := s.tick + 2 }).setCell r.fdie c { a.cell r.fdie c with hold := s.tick + 2 }
      else (s.takeShadowP k r).takeShadowH k r
    st.sieveFrom r
  s7.each s7.lds fun s ld => s.setRuns ld

/-- The switchover at the edge of the present tick (R361); the job ends OK with bits 31 to 0 of the tick. -/
def State.switchover (s : State) (k : Soak) : State :=
  let s1 := ({ s with soak := none } : State).endJob k.ld k.job 0 (s.tick % 2 ^ 32)
  match k.kind with
  | .migration => s1.switchMigration k
  | .cellSwap => s1.switchCell k
  | .config => s1.switchConfig k

/-- What a tick edge does to the soak in progress and to the standbys. -/
def State.soakEdge (s : State) : State :=
  let s1 := match s.soak with
    | none => s
    | some k =>
      if k.switchAt = s.tick then s.switchover k
      else if k.start = s.tick then s.soakBegin k
      else if k.copy && decide (k.start < s.tick) then s.soakCopy k else s
  (s1.each s1.logicals fun s x => s.movedSources x.1 x.2).standbyCopy

end Sys2Proof.Machine
end

