-- ==== Sys2Proof/Machine/Tick.lean ====
section
/-!
DEFINITION. The tick edge (R188 to R196): its sources, the start of Run (R191, R440), what takes effect at the edge, and the
tick number as masters read it (R203).
-/

namespace Sys2Proof.Machine

/-! ### What takes effect at an edge -/

/-- The number of instance entries that the sieve registers of a die count: by IID or by cell (R187). -/
def sieveEntries (die : Nat) : Nat := if die < 2 then 768 else 144

/-- A sieve window ends at the edge of the first tick after it: its signatures wait for the exchange of that tick (R181). -/
def State.sieveClose (s : State) (die : Nat) : State :=
  let t := s.tickOf die
  let w := s.sieveW die
  s.on (decide (t % w = 0) && decide (w ≤ t)) fun s =>
    let s1 := s.setSvDie die { s.svDie die with start := t - w, ended := t + 1, out := [], got := [] }
    if die < 2 then
      s1.each (s1.image.img.insts.filter fun r => s1.dieOf r == die) fun s r => s.setSvP die r.iid ((s.svP die r.iid).close (t - w))
    else s1.each (List.range 144) fun s c => s.setSvH (die - 2) c ((s.svH (die - 2) c).close (t - w))

/-- A waiting change of the sieve window takes effect at the first tick that is a multiple of both (R184). -/
def State.sieveEdge (s : State) (die : Nat) : State :=
  let old := (s.svDie die).old
  s.on (decide (old ≠ 0) && decide (s.tickOf die % old = 0) && decide (s.tickOf die % s.sieveCfg die = 0)) fun s =>
    (s.setSvDie die { s.svDie die with old := 0 }).each (List.range (sieveEntries die)) fun s n => s.setDcnt die n 0

/-- At an edge at which L0's gate reads closed while the image is not commissioned every instance is fenced (R342). -/
def State.commissionEdge (s : State) : State :=
  s.on s.uncommissioned fun s =>
    State.each { s with part := { s.part with uncom := true } } s.image.img.insts fun s r => s.fenceInst (s.dieOf r) r.iid 0x0A

/-- Channel P re-admits the instances whose edge has come (R352); one that may not be admitted stays fenced. -/
def State.readmitP (s : State) : State :=
  s.each s.image.img.insts fun s r =>
    let f := s.fence U.inst 0 r.iid
    s.on (f.on && decide (f.readmit ≠ 0) && decide (f.readmit ≤ s.tick)) fun s =>
      if s.mayReadmit r then ((s.unfence U.inst 0 r.iid).startP r s.tick).setDcnt (s.dieOf r) r.iid 0
      else s.setFence U.inst 0 r.iid { f with readmit := 0 }

/-- A field die that waits for its load in Run and is not fenced is loaded at this edge, and its instances follow at the next
(R447). -/
def State.fieldLoads (s : State) : State :=
  s.each (s.fds.filter fun fd => (s.field fd).loadPending && !(s.field fd).fbist && !s.fenced U.field (fdie fd) 0) fun s fd =>
    (s.loadField fd).readmitDie fd (s.tick + 1)

/-- The total sourced current of a field die in mA: ICODE counts 0.5 mA at an output or source, a shunt voltage at a GD terminal
(R44, R458). -/
def State.currentSum (s : State) (fd : Nat) : Nat :=
  (((List.range 64).filter fun t => s.mode fd t == 2 || s.mode fd t == 3).map fun t => (s.term fd t).ic).sum / 2

/-- The last P conversion before the edge latches on every powered field die (R43, R192). -/
def State.latchInputs (s : State) (meas : List Meas) : State :=
  s.each (s.fds.filter fun fd => (s.field fd).power) fun s fd =>
    let now := s.edgeTime fd s.tick
    let s1 := s.each (meas.filter fun m => m.fd == fd && decide (m.t < 64)) fun s m => s.measure m now
    let s2 := s1.pEdge fd now
    s2.put F.FSYS_FPWR_ISUM (fdie fd) 0 (min 4095 (s2.currentSum fd))

/-- The LPLL powers up at an edge and locks before the 5 % point (R192, R450). -/
def State.lpllUp (s : State) : State :=
  s.each s.lds fun s ld => ((s.put F.CLKPWR_CLKSTAT_LPLLON ld 0 1).put F.CLKPWR_CLKSTAT_LPLLLK ld 0 1).putB
    F.CLKPWR_CLKSTAT_GATING ld 0 (decide (1000 ≤ s.tickUs))

/-- Whether the part drives the TICK pin high for 1 µs from its tick edges (R190). -/
def State.tickPin (s : State) : Bool := s.flag F.TICK_TCFG_PINEN 0 0 && decide (s.get F.TICK_TCFG_SRC 0 0 ≠ 2)

/-- Everything that takes effect at the edge of the present tick: the switchovers and commands of class 6 first, as R196 applies them
before any evaluation, then the gates and what a closed one fences (R342), then the re-admissions. -/
def State.edge (s : State) (meas : List Meas) : State :=
  let s0 := State.each { s with htxH := [], part := { s.part with tickOut := s.tickPin } } s.lds fun s ld =>
    (s.put F.TICK_TPOS_POS ld 0 0).strobeCapture ld
  let s2 := s0.on (decide (s0.part.shut = 1)) State.shutdownFence
  let s3 := (s2.each s2.lds State.sieveEdge).soakEdge
  let s4 := (s3.sealTake 0).setGates.commissionEdge
  (s4.readmitP.fieldLoads.latchInputs meas).lpllUp

/-! ### The tick number -/

/-- The largest tick number plus 1. -/
abbrev tickMod : Nat := 2 ^ 48

/-- The number of the next tick: that of the turn where ring 0 gives the tick, whether its turn edge stands before or after the tick
edge in command order (R188). -/
def State.nextTick (s : State) : Nat :=
  let t := (s.ring 0).turn
  if s.get F.TICK_TSTAT_SRCNOW 0 0 = 0 ∧ s.ringOn 0 = true ∧ s.tick ≠ t then t else (s.tick + 1) % tickMod

/-- A tick edge. -/
def State.tickEdge (s : State) (meas : List Meas) : State :=
  (State.each { s with tick := s.nextTick } s.lds State.sieveClose).edge meas

/-- The meaning of TICK_EDGE: an edge from the turn timer, the internal source, or the internal source in place of an
abandoned pin. -/
def execTickEdge (meas : List Meas) (s : State) : Answer :=
  s.answer true (s.inRun && decide (s.get F.TICK_TSTAT_SRCNOW 0 0 ≠ 2)) (s.tickEdge meas)

/-- An accepted pin edge, `dev` AON cycles from T (R190, R203). -/
def State.pinEdge (s : State) (dev : Int) (meas : List Meas) : State :=
  let s1 := s.each s.lds fun s ld => s.put F.TICK_TSKEW_SKEW ld 0 ((dev % 65536).toNat)
  State.tickEdge { s1 with extRun := 0 } meas

/-- The meaning of TICK_PIN_EDGE: an edge outside ±1 % of T after the last, or with another source in use, is ignored. -/
def execTickPinEdge (dev : Int) (meas : List Meas) (s : State) : Answer :=
  s.answer true true
    (s.on (s.inRun && s.get F.TICK_TSTAT_SRCNOW 0 0 == 2 && decide (dev.natAbs * 100 ≤ s.nper)) fun s =>
      s.pinEdge dev meas)

/-- An edge that the tick unit makes in place of the pin; the sixteenth in a row abandons the pin (R190). -/
def State.madeEdge (s : State) (meas : List Meas) : State :=
  let n := s.extRun + 1
  let s1 := s.each s.lds fun s ld =>
    (s.count F.TICK_TSTAT_EXTMISS ld 0).on (decide (16 ≤ n)) fun s =>
      (s.put F.TICK_TSTAT_EXTLOST ld 0 1).put F.TICK_TSTAT_SRCNOW ld 0 1
  State.tickEdge { s1 with extRun := n } meas

/-- The meaning of TICK_EDGE_MADE. -/
def execTickEdgeMade (meas : List Meas) (s : State) : Answer :=
  s.answer true (s.inRun && s.get F.TICK_TSTAT_SRCNOW 0 0 == 2) (s.madeEdge meas)

/-! ### The start of Run (R191, R440) -/

/-- Whether the part may enter Run. -/
def State.mayRun (s : State) : Bool :=
  decide (s.part.phase = .wait) && decide (s.fieldValue F.TICK_TSTAT_LOCKED 0 0 = 1) && !s.partSafe && !s.part.noconfig &&
    (decide (s.lc = 1) || decide (s.lc = 2)) && decide (s.part.shut = 0) && !s.part.tapSafe

/-- A commit made outside Run ends with the first tick of Run, which runs under its image (R310). -/
def State.endLate (s : State) : State :=
  match s.part.lateJob with
  | some x => State.endJob { s with part := { s.part with lateJob := none } } x.1 x.2 0 (s.tick % 2 ^ 32)
  | none => s

/-- The first tick of Run: the number and period of the source, every instance and every sense path from its start (R89,
R504). -/
def State.runStart (s : State) (meas : List Meas) : State :=
  let src := s.get F.TICK_TCFG_SRC 0 0
  let us := s.periodCfg
  let s1 : State :=
    { s with tick := if src = 0 then (s.ring 0).turn else 0, extRun := 0,
             part := { s.part with phase := .run } }
  let s2 := s1.each s1.lds fun s ld =>
    (((s.put F.TICK_TSTAT_SRCNOW ld 0 src).put F.TICK_TSTAT_EXTLOST ld 0 0).put F.TICK_TPOS_NPER ld 0 (20 * us)).put
      F.RNG_TSYNC_TMIS ld 0 0
  let s3 := s2.each s2.fds fun s fd =>
    s.each (List.range 64) (fun s t => s.senseStart fd t) |>.put F.HGLB_HTCTL_NH (fdie fd) 0 (8 * us)
  let s4 := s3.each s3.image.img.insts fun s r => (s.startP r s.tick).startH r s.tick
  s4.endLate.edge meas

/-- The meaning of RUN_START. -/
def execRunStart (meas : List Meas) (s : State) : Answer := s.answer true s.mayRun (s.runStart meas)

/-! ### Reading the tick number (R203) -/

/-- A read of TNUM0 latches TNUM1 for the same master's next read of TNUM1. -/
def State.readTnum (s : State) (ld : Nat) (m : Master) : State :=
  let k := Nat.pair ld m.key
  (State.give { s with tnumLatch := Store.set (fun _ => 0) s.tnumLatch k (s.tick / 2 ^ 32 + 1) } [s.tick % 2 ^ 32]).respond false

/-- The meaning of TNUM0_READ. -/
def execTnum0Read (ld : Nat) (m : Master) (s : State) : Answer :=
  let a := regAddr .TICK_TNUM0 ld 0
  s.answer (s.hasLd ld) (!s.portHeld m) (if s.route m a = 0 then s.readTnum ld m else s.readRefused m.die m a (s.route m a))

end Sys2Proof.Machine
end

