-- ==== Sys2Proof/Machine/ChannelH.lean ====
section
/-!
DEFINITION. Channel H (R162 to R178): the H tick and its clock check, cells and link matrix, the H-bus, ring data in a field
die, and the output enables at the apply point (R27 to R32, R488).
-/

namespace Sys2Proof.Machine

/-! ### Cells as the link matrix reads them (R162, R166, R167) -/

/-- The IID that a cell's HIID names. -/
def State.cellIid (s : State) (fd p : Nat) : Nat := s.get F.HC_HIID_IID (fdie fd) p

/-- Whether a cell evaluates and its bits can be valid: active, not fenced, its die in service, its instance admitted or
fenced in this very tick (R162, R170, R183). -/
def State.cellLive (s : State) (fd p : Nat) : Bool :=
  s.flag F.HC_HCFG_ACTIVE (fdie fd) p && !s.fenced U.cell (fdie fd) p && !s.instDeadH fd (s.cellIid fd p) && !s.fieldOff fd

/-- The bits of a cell in the current tick. -/
def State.cellCur (s : State) (fd p : Nat) : BusBit :=
  if s.cellLive fd p then ⟨(s.cell fd p).fs.bits, (s.cell fd p).fs.valid⟩ else ⟨0, false⟩

/-- The bits of a cell in the previous tick. -/
def State.cellPrev (s : State) (fd p : Nat) : BusBit :=
  if s.cellLive fd p then ⟨(s.cell fd p).prevBits, (s.cell fd p).prevValid⟩ else ⟨0, false⟩

/-- An H-bus link bit received in the previous tick: value and validity (R174, R175). -/
def State.linkBit (s : State) (fd n : Nat) : Bool × Bool :=
  match (s.hbit fd n).cur with
  | 2 => (true, true)
  | 1 => (false, true)
  | _ => (false, false)

/-- What a source of the link matrix reads: value and validity (R166). -/
def State.srcBit (s : State) (fd src : Nat) : Bool × Bool :=
  if src < 576 then
    let b := s.cellCur fd (s.cmap fd (src / 4))
    (b.bits.testBit (src % 4), b.valid)
  else if src < 1152 then
    let b := s.cellPrev fd (s.cmap fd ((src - 576) / 4))
    (b.bits.testBit (src % 4), b.valid)
  else if src < 1408 then s.linkBit fd (src - 1152)
  else (decide (src = 2047), true)

/-- The 16 literals of a product term of a link-matrix row: NEG and SRC. -/
def State.termLits (s : State) (fd p j : Nat) : List (Bool × Nat) :=
  let v := (List.range 6).foldl (fun a w => a + s.get F.LMR_W (fdie fd) (96 * p + 6 * j + w) * 2 ^ (32 * w)) 0
  (List.range 16).map fun m => ((bitsOf v (12 * m + 11) 1 == 1), bitsOf v (12 * m) 11)

/-- Link input `n` of a cell (R167). -/
def State.cellLink (s : State) (fd p n : Nat) : Bool :=
  let ts := (List.range 8).map fun j => (s.termLits fd p (8 * n + j)).map fun l => (l.1, s.srcBit fd l.2)
  (ts.all fun t => t.all fun l => l.2.2) && ts.any fun t => t.all fun l => l.1 != l.2.1

/-- The reset event of a cell (R168). -/
def State.cellReset (s : State) (fd p : Nat) : Bool :=
  s.flag F.HC_RST_USE (fdie fd) p &&
    (let b := s.srcBit fd (s.get F.HC_RST_SRC (fdie fd) p)
     b.1 && b.2)

/-- The terminals in a cell's slots; 0xFF where a slot is unused (R164). -/
def State.cellSlots (s : State) (fd p : Nat) : List Nat :=
  (List.range 8).map fun k =>
    if s.flag (fldUse k) (fdie fd) p then s.get (fldIdx k) (fdie fd) p else 0xFF

/-- An accepted furrow entry of a field die. -/
def State.furAt (s : State) (fd k : Nat) : List FurEntry := Store.get (fun _ => []) s.furH (Nat.pair fd k)

/-- The stale limit of a ring on a field die (R186). -/
def State.staleHLimit (s : State) (fd ring : Nat) : Nat :=
  if ring = 0 then s.get F.HGLB_HRING_STALE0 (fdie fd) 0 else s.get F.HGLB_HRING_STALE1 (fdie fd) 0

/-- Whether a direction is stale for channel H of a die: no entry of it accepted in the last L ticks (R177). -/
def State.staleH (s : State) (fd ring dir : Nat) : Bool :=
  !s.furH.any fun e =>
    let k := Nat.unpair e.1
    decide (k.1 = fd) && decide ((Nat.unpair k.2).1 = 2 * ring + dir) && e.2.any fun x => x.fresh (s.field fd).htick (s.staleHLimit fd ring)

/-- The marks that a field die accepted. -/
def State.marksOf (s : State) (fd : Nat) : List MarkArr := Store.get (fun _ => []) s.marksH fd

/-- What channel H reads for a type with some terminals in the present H tick, beside its links and reset. -/
def State.fnInH (s : State) (fd : Nat) (c : FnCfg) (slots : List Nat) (l0 l1 rst : Bool) : FnIn :=
  let t := (s.field fd).htick
  let ring := (c.opt >>> 1) % 2
  let z := c.zoneRaw (s.furAt fd) (s.staleH fd ring) t (s.staleHLimit fd ring)
  { t := t, terms := slots.map fun k => if 64 ≤ k then TermRead.absent else s.readH fd k,
    link0 := l0, link1 := l1, reset := rst, zone := z.1, zoneValid := z.2,
    mark := markNow (s.marksOf fd) c 0 t, quiet := markQuiet (s.marksOf fd) c t, gap := 0 }

/-- What a cell reads, from its own registers. -/
def State.cellIn (s : State) (fd p : Nat) : FnIn :=
  s.fnInH fd (s.cellCfg fd p) (s.cellSlots fd p) (s.cellLink fd p 0) (s.cellLink fd p 1) (s.cellReset fd p)

/-- The registers that show a cell's evaluation (R185). -/
def State.showCell (s : State) (fd p : Nat) (f : FnSt) : State :=
  let d := fdie fd
  let t := (s.field fd).htick
  ((((s.put F.HC_HSTAT_STATE d p f.st).put F.HC_HSTAT_SUB d p f.sub).put F.HC_HSTAT_DBITS d p f.bits).orFlags
    F.HC_HFLAG_FLAGS d p f.raised).put F.HC_HTMR_REM d p (f.remaining t)

/-- One evaluation of a cell in the present H tick, with its bits for the sieve (R165, R179). A fenced or inactive cell
evaluates nothing. -/
def State.evalCell (s : State) (fd p : Nat) : State :=
  let t := (s.field fd).htick
  let x := s.cell fd p
  if x.tick = t + 1 then s
  else if s.cellLive fd p then
    let c := s.cellCfg fd p
    let f := evalHeld c (s.cellIn fd p) x.hold x.fs
    let s1 := (s.setCell fd p { x with fs := f, tick := t + 1 }).showCell fd p f
    s1.setSvH fd p ((s1.svH fd p).take (s1.cellIid fd p) c.type.nbits f.bits t (s1.sieveW (fdie fd)))
  else
    let nb := (s.cellCfg fd p).type.nbits
    (((s.setCell fd p { x with tick := t + 1 }).put F.HC_HSTAT_DBITS (fdie fd) p 0)).setSvH fd p
      ((s.svH fd p).take (s.cellIid fd p) nb 0 t (s.sieveW (fdie fd)))

/-- The active cells of a die in the order of their ranks (R165). -/
def State.ranked (s : State) (fd : Nat) : List Nat :=
  let act := (List.range 144).filter fun p => s.flag F.HC_HCFG_ACTIVE (fdie fd) p
  (List.range 16).flatMap fun k => act.filter fun p => s.get F.HC_HCFG_RANK (fdie fd) p == k

/-! ### The new side of a soak in channel H (R359, R368, R370) -/

/-- The live bits of the cell of an instance: current and previous. -/
def State.liveCur (s : State) (iid : Nat) : BusBit :=
  match s.recOf iid with
  | some r => s.cellCur r.fdie (s.cellOf r)
  | none => ⟨0, false⟩

def State.livePrev (s : State) (iid : Nat) : BusBit :=
  match s.recOf iid with
  | some r => s.cellPrev r.fdie (s.cellOf r)
  | none => ⟨0, false⟩

/-- Evaluate one instance on the new side of a configuration soak. -/
def State.shadowConfig (s : State) (fd : Nat) (k : Soak) (sh : List (Nat × FnSt)) (r : InstRec) : List (Nat × FnSt) :=
  match sh.lookup r.iid with
  | none => sh
  | some f =>
    let cur := shadowCur sh s.liveCur
    let prev := shadowPrev k.prevH s.livePrev
    if s.fieldOff fd then setShadow sh r.iid f.fenced
    else setShadow sh r.iid
      (Fn.eval r.cfg (s.fnInH fd r.cfg r.tslot (linkValue r.lnk0 cur prev) (linkValue r.lnk1 cur prev) (resetValue r.rst cur prev)) f)

/-- The soak in progress in an H tick of a die. -/
def State.soakH (s : State) (fd : Nat) : State :=
  match s.soak with
  | none => s
  | some k =>
    if (s.field fd).htick < k.start then s
    else match k.kind with
      | .migration => s
      | .cellSwap =>
        if k.newDie = fd then
          let sh := k.shadowH.map fun e =>
            (e.1, if s.cellLive fd k.oldIdx then Fn.eval (s.cellCfg fd k.oldIdx) (s.cellIn fd k.oldIdx) e.2 else e.2.fenced)
          { s with soak := some { k with shadowH := sh } }
        else s
      | .config =>
        let rs := byRank (k.newSide.filter fun r => r.fdie == fd)
        { s with soak := some { k with shadowH := rs.foldl (s.shadowConfig fd k) k.shadowH } }

/-! ### Ring data in a field die (R177, R178) -/

/-- The latest turn not after `t` whose low `w` bits are `low`; none where it would lie below 0 (R218, R225). -/
def lastTurn (t w low : Nat) : Option Nat :=
  let d := (t + 2 ^ w - low % 2 ^ w) % 2 ^ w
  if d ≤ t then some (t - d) else none

/-- The node, ring ID and reach of a ring as a field die holds them (R186). -/
def State.hNode (s : State) (fd : Nat) : Nat := s.get F.HGLB_HRING_NODE (fdie fd) 0

def State.hRid (s : State) (fd ring : Nat) : Nat :=
  if ring = 0 then s.get F.HGLB_HRINGID_RID0 (fdie fd) 0 else s.get F.HGLB_HRINGID_RID1 (fdie fd) 0

def State.hReach (s : State) (fd ring : Nat) : Nat :=
  if ring = 0 then s.get F.HGLB_HRING_REACH0 (fdie fd) 0 else s.get F.HGLB_HRING_REACH1 (fdie fd) 0

/-- An entry in RXH (R186): header word, H-data, ring and direction. -/
structure RxhEntry where
  hdr : Nat
  hzw : Nat
  hcrc : Nat
  ring : Nat
  dir : Nat
deriving DecidableEq, Repr

/-- The words of a run of bytes as registers hold them. -/
def wordAt (bs : List Byte) (k : Nat) : Nat := fieldAt bs (4 * k) 4

/-- Write one entry at place `j` of RXH, its tag last. -/
def State.putRxh (s : State) (fd j : Nat) (e : RxhEntry) : State :=
  let d := fdie fd
  let bs := msbBytes 8 e.hzw ++ msbBytes 4 e.hcrc
  let s1 := s.put F.RXH_W d (8 * j) e.hdr
  let s2 := s1.each [0, 1, 2] fun s k => s.put F.RXH_W d (8 * j + 1 + k) (wordAt bs k)
  s2.put F.RXH_W d (8 * j + 4) (e.ring + 2 * e.dir + 2 ^ 31)

/-- Whether place `j` of RXH holds a written entry. -/
def State.rxhUsed (s : State) (fd j : Nat) : Bool := (s.get F.RXH_W (fdie fd) (8 * j + 4)).testBit 31

/-- The bytes of a word as registers hold them. -/
def wordBytes (v : Nat) : List Byte := leBytes 4 v

/-- The check of one written entry at H cycle 0 of tick `t + 1`: accepted into the die, or counted (R177, R218). -/
def State.checkRxh (s : State) (fd t j : Nat) : State :=
  let d := fdie fd
  let w (k : Nat) : Nat := s.get F.RXH_W d (8 * j + k)
  let ring := w 4 % 2
  let src := w 0 / 2 ^ 19
  let data := wordBytes (w 1) ++ wordBytes (w 2)
  let code := beNat (wordBytes (w 3))
  let s1 := s.put F.RXH_W d (8 * j + 4) (w 4 - 2 ^ 31)
  match lastTurn t 15 (w 0) with
  | none => s1.count F.HGLB_HBSTAT_HREJ d 0
  | some u =>
    if paeshCode polyH (s.hRid fd ring) src u data = code ∧ t ≤ u + s.hReach fd ring + 1 ∧ src ≠ s.hNode fd then
      let k := furKey ring (w 4 / 2 % 2) src
      { s1 with furH := Store.set (fun _ => []) s1.furH (Nat.pair fd k) (keepNewest 15 ⟨u, not64 (beNat data), t + 1⟩ (s.furAt fd k)) }
    else s1.count F.HGLB_HBSTAT_HREJ d 0

/-- Every entry written in the tick before. -/
def State.rxhCheck (s : State) (fd : Nat) : State :=
  let t := (s.field fd).htick
  s.on (decide (0 < t)) fun s =>
    s.each ((List.range 64).filter fun j => s.rxhUsed fd j) fun s j => s.checkRxh fd (t - 1) j

/-- The cells of a die of one type, active. -/
def State.cellsOf (s : State) (fd code : Nat) : List Nat :=
  (List.range 144).filter fun p => s.flag F.HC_HCFG_ACTIVE (fdie fd) p && s.get F.HC_HCFG_TYPE (fdie fd) p == code

/-- Whether a ZONE_IN cell of a die names a source of a ring. -/
def State.wantsSrc (s : State) (fd ring src : Nat) : Bool :=
  (s.cellsOf fd 0x16).any fun p =>
    s.get F.HC_PAR0_PAR (fdie fd) p == src && bitsOf (s.get F.HC_HCFG_OPT (fdie fd) p) 1 1 == ring

/-- The entries of this turn that a ring engine writes into a die's RXH (R177). -/
def State.rxhEntries (s : State) (ld fd : Nat) : List RxhEntry :=
  [0, 1].flatMap fun p => ((s.port ld p).rxNow.filter fun e => s.wantsSrc fd ld e.src).map fun e =>
    ⟨e.src % 2 ^ 13 * 2 ^ 19 + e.age % 16 * 2 ^ 15 + e.eturn % 2 ^ 15, e.hzw, e.hcrc, ld, p⟩

/-- RXH_WRITE: into the free places, lowest first. -/
def State.rxhWrite (s : State) (ld fd : Nat) : State :=
  let free := (List.range 64).filter fun j => !s.rxhUsed fd j
  s.each ((s.rxhEntries ld fd).zip free) fun s x => s.putRxh fd x.2 x.1

/-- Whether the logic die reaches a field die by register access. -/
def State.reaches (s : State) (ld fd : Nat) : Bool := !s.fenced U.link ld fd && (s.field fd).power

/-- The meaning of RXH_WRITE. -/
def execRxhWrite (ld fd : Nat) (s : State) : Answer :=
  s.answer (s.hasLd ld && s.hasFd fd) (s.reaches ld fd) (s.rxhWrite ld fd)

/-- The longest delay D of a mark on a ring of N nodes (R135). -/
def markDelay (n us : Nat) : Nat := (3 * n + 2 * us - 1) / (2 * us)

/-- Whether a SPATE_IN cell of a die names a domain (R178, R225). -/
def State.wantsDomain (s : State) (fd dom : Nat) : Bool :=
  (s.cellsOf fd 0x18).any fun p => bitsOf (s.get F.HC_PAR0_PAR (fdie fd) p) 0 8 == dom

/-- The H part of a mark of a domain is due in the RXS of every field die that holds a SPATE_IN cell for it (R133, R178,
R225). -/
def State.dueRxs (s : State) (ld dom hmark hmcrc oturn : Nat) : State :=
  let x := s.ring ld
  s.setRing ld { x with rxs := x.rxs ++ (s.fds.filter fun fd => s.wantsDomain fd dom).map fun fd => (fd, hmark, hmcrc, oturn) }

/-- RXS_WRITE: a record joins RXS, the newest first, and the die checks it (R178). D follows the node count that the ring
engine holds. -/
def State.rxsWrite (s : State) (ld fd hmark hmcrc oturn : Nat) : State :=
  let d := fdie fd
  let t := (s.field fd).htick
  let moved := s.each (List.range 60).reverse fun s k => s.put F.RXS_W d (k + 4) (s.get F.RXS_W d k)
  let s1 := (((moved.put F.RXS_W d 0 (wordAt (msbBytes 4 hmark) 0)).put F.RXS_W d 1 (wordAt (msbBytes 4 hmcrc) 0)).put F.RXS_W d 2
    (oturn % 2 ^ 16)).put F.RXS_W d 3 (ld + 2 ^ 31)
  let w := not32 hmark
  match lastTurn t 16 oturn with
  | none => s1.count F.HGLB_HBSTAT_HREJ d 0
  | some u =>
    if paeshCode polyH (s.hRid fd ld) (bitsOf w 12 13) u (msbBytes 4 hmark) = hmcrc ∧
        t ≤ u + markDelay (s.get F.RNG_NODES_N ld 0) s.tickUs + 1 then
      { s1 with marksH := Store.set (fun _ => []) s1.marksH fd
                  (addMark (s.marksOf fd) ⟨ld, w % 256, bitsOf w 8 4, bitsOf w 12 13, t + 1, 0⟩) }
    else s1.count F.HGLB_HBSTAT_HREJ d 0

/-- The meaning of RXS_WRITE: the H part of a received or an own mark that is due for a die leaves the list and is written
(R133, R225). -/
def execRxsWrite (ld fd hmark hmcrc oturn : Nat) (s : State) : Answer :=
  let x := s.ring ld
  let r := (fd, hmark, hmcrc, oturn)
  s.answer (s.hasLd ld && s.hasFd fd) (s.reaches ld fd && x.rxs.contains r)
    ((s.setRing ld { x with rxs := x.rxs.erase r }).rxsWrite ld fd hmark hmcrc oturn)

/-! ### The H tick (R169 to R172) -/

/-- Channel H re-admits the instances of a die whose edge has come (R352). -/
def State.readmitH (s : State) (fd : Nat) : State :=
  let t := (s.field fd).htick
  s.each (s.image.img.insts.filter fun r => r.fdie == fd) fun s r =>
    let f := s.fence U.inst 1 r.iid
    s.on (f.on && decide (f.readmit ≠ 0) && decide (f.readmit ≤ t)) fun s =>
      if s.mayReadmit r then ((s.unfence U.inst 1 r.iid).startH r t).setDcnt (fdie fd) (s.cellOf r) 0 else s.setFence U.inst 1 r.iid { f with readmit := 0 }

/-- The H-bus bits and the results of the tick before become current (R175); the frame and slot of R77 follow the tick. SLOTOK
of a fenced die keeps its safe value (R11). -/
def State.hTurnover (s : State) (fd : Nat) : State :=
  let d := fdie fd
  let x := s.field fd
  let now := s.edgeTime fd x.htick
  let s1 := s.each (List.range 320) fun s n => s.setHbit fd n ⟨0, (s.hbit fd n).next⟩
  let s2 := (s1.on (!s.fenced U.field d 0) fun s => s.put F.HGLB_HBSTAT_SLOTOK d 0 x.slots).setField fd { x with slots := 0 }
  let s3 := (s2.put F.TP_FRAME_SLOTNOW d 0 (now / s.slotLen fd)).on (decide (now = 0)) fun s =>
    s.countWrap F.TP_FRAME_FRAMECNT d 0
  s3.each ((List.range 144).filter fun p => s.flag F.HC_HCFG_ACTIVE d p) fun s p =>
    let c := s.cell fd p
    s.setCell fd p { c with prevBits := c.fs.bits, prevValid := c.fs.valid }

/-- What channel H does from H cycle 0 to cycle 64 of the present H tick. -/
def State.hTick (s : State) (fd : Nat) (meas : List Meas) : State :=
  let now := s.edgeTime fd (s.field fd).htick
  let s1 := (((s.on (decide (fd = 0)) fun s => s.sealTake 2).sieveEdge (fdie fd)).hTurnover fd).rxhCheck fd
  let s2 := (s1.readmitH fd).each (meas.filter fun m => m.fd == fd && decide (m.t < 64)) fun s m => s.measure m now
  let s3 := ((s2.restartSlot fd now true).hEdge fd now).setGate (fdie fd)
  let s4 := s3.each (s3.ranked fd) fun s p => s.evalCell fd p
  s4.soakH fd

/-- HTDEV after a check: C − 16 × N_H, and its largest magnitude (R170, R186). -/
def State.putDev (s : State) (fd : Nat) (dev : Int) : State :=
  let d := fdie fd
  (s.put F.HGLB_HTDEV_DEV d 0 (dev % 65536).toNat).put F.HGLB_HTDEV_MAXDEV d 0
    (min 65535 (max (s.get F.HGLB_HTDEV_MAXDEV d 0) dev.natAbs))

/-- The strobe history after an H tick start `cycles` after the last one. -/
def pushStrobe (l : List (Bool × Nat)) (ok : Bool) (cycles : Nat) : List (Bool × Nat) :=
  keepNewest 16 (ok, 0) (l.map fun e => (e.1, e.2 + cycles))

/-- The count check of R170 at a valid strobe. -/
def State.clockCheck (s : State) (fd : Nat) (l : List (Bool × Nat)) : State :=
  match (l[15]? : Option (Bool × Nat)) with
  | some (true, c) =>
    let nh := s.get F.HGLB_HTCTL_NH (fdie fd) 0
    let dev : Int := Int.ofNat c - 16 * Int.ofNat nh
    (s.putDev fd dev).on (decide (16 * nh < 50 * dev.natAbs)) fun s => s.fenceField fd 0x21
  | _ => s

/-- A valid strobe starts H tick t. -/
def State.strobe (s : State) (fd ld cycles : Nat) (meas : List Meas) : State :=
  let d := fdie fd
  let x := s.field fd
  let aged := x.strobes.map fun e => (e.1, e.2 + cycles)
  let run := min 16 (x.okRun + 1)
  let s1 := s.setField fd
    { x with htick := s.tick, strobes := pushStrobe x.strobes true cycles, okRun := run, armed := x.armed || run == 16,
             gotStrobe := true }
  let s2 := ((s1.put F.HGLB_HTCTL_STRSRC d 0 ld).put F.HGLB_HTCTL_ABSCNT d 0 0).on (!x.gotStrobe || decide (x.htick + 1 ≠ s.tick)) fun s =>
    s.realign fd
  ((s2.on x.armed fun s => s.clockCheck fd aged).on x.gotStrobe fun s => s.sieveClose d).hTick fd meas

/-- Whether the strobe of a logic die arrives valid under R21, over a link in service. -/
def State.strobeValid (s : State) (fd ld : Nat) (x : Transit) : Bool :=
  (x.receive s.tick s.tick []).isSome && !s.fenced U.link ld fd && !s.fenced U.logic ld 0

/-- Whether L0's strobe of the present tick is absent at a field die: L0 or its link is out of service, or the strobe did not
come valid (R21, R33). -/
def State.strobeAbsent (s : State) (fd : Nat) : Bool :=
  s.fenced U.link 0 fd || s.fenced U.logic 0 0 || decide ((s.field fd).noL0 = s.tick + 1)

/-- Whether a strobe from `ld` starts the H tick: valid, from the source of R33 or from L1 in the absence of L0's, and the tick
not started yet. -/
def State.strobeOk (s : State) (fd ld : Nat) (x : Transit) : Bool :=
  let src := s.get F.HGLB_HTCTL_STRSRC (fdie fd) 0
  s.strobeValid fd ld x && (decide (src = ld) || (decide (src < ld) && s.strobeAbsent fd)) &&
    (decide ((s.field fd).htick ≠ s.tick) || !(s.field fd).gotStrobe)

/-- The strobe of a logic die at a field die: one that does not start the tick counts as absent. -/
def State.strobeIn (s : State) (fd ld : Nat) (x : Transit) (cycles : Nat) (meas : List Meas) : State :=
  if s.strobeOk fd ld x then s.strobe fd ld cycles meas
  else s.on (decide (ld = 0) && !s.strobeValid fd 0 x) fun s => s.setField fd { s.field fd with noL0 := s.tick + 1 }

/-- The meaning of H_TICK_START: `flips` is what the link does to the bits of the strobe, which carries the tick bits alone. -/
def execHTickStart (fd ld flips : Nat) (complete : Bool) (cycles : Nat) (meas : List Meas) (s : State) : Answer :=
  s.answer (s.hasFd fd && s.hasLd ld) ((s.field fd).power && s.inRun)
    (s.strobeIn fd ld (Transit.bare flips complete) cycles meas)

/-- An H tick that starts without a strobe; the second in a row is the loss of R171. -/
def State.selfStart (s : State) (fd cycles : Nat) (meas : List Meas) : State :=
  let d := fdie fd
  let x := s.field fd
  let s1 := s.setField fd
    { x with htick := (x.htick + 1) % tickMod, strobes := pushStrobe x.strobes false cycles, okRun := if x.armed then x.okRun else 0 }
  let s2 := s1.count F.HGLB_HTCTL_ABSCNT d 0
  ((s2.on (decide (2 ≤ s2.get F.HGLB_HTCTL_ABSCNT d 0)) fun s => s.fenceField fd 0x22).sieveClose d).hTick fd meas

/-- The meaning of H_TICK_SELF_START: no valid strobe by cycle N_H + 32 (R169). -/
def execHTickSelfStart (fd cycles : Nat) (meas : List Meas) (s : State) : Answer :=
  s.answer (s.hasFd fd) ((s.field fd).power && (s.field fd).gotStrobe && decide (s.get F.HGLB_HTCTL_NH (fdie fd) 0 + 32 ≤ cycles))
    (s.selfStart fd cycles meas)

/-! ### Events within an evaluation (R87, R102, R133) -/

/-- The channel H evaluation in which such an event falls, where it has not been made in this H tick. On channel P the
event is part of the segment's evaluation, which COMMIT_END makes. -/
def State.evalEvent (s : State) (hSide : Bool) (iid : Nat) : State :=
  match s.recOf iid with
  | some r => s.on hSide fun s => s.evalCell r.fdie (s.cellOf r)
  | none => s

/-- The state that a channel holds for an instance. -/
def State.fnState (s : State) (hSide : Bool) (iid : Nat) : FnSt :=
  match s.recOf iid with
  | some r => if hSide then (s.cell r.fdie (s.cellOf r)).fs else (s.inst iid).fs
  | none => FnSt.zero

/-- The tick in which a channel of an instance is. -/
def State.fnTick (s : State) (hSide : Bool) (iid : Nat) : Nat :=
  match s.recOf iid with
  | some r => if hSide then (s.field r.fdie).htick else s.tick
  | none => 0

/-- The meaning of FUNCTION_TIMER_EXPIRY: the timer's tick has come (R87). -/
def execFunctionTimerExpiry (hSide : Bool) (iid : Nat) (s : State) : Answer :=
  s.answer (s.recOf iid).isSome (decide ((s.fnState hSide iid).tmr ≤ s.fnTick hSide iid)) (s.evalEvent hSide iid)

/-- The meaning of LAMP_PROBE: a muting instance in IDLE with LAMP_FAIL set (R102). -/
def execLampProbe (hSide : Bool) (iid : Nat) (s : State) : Answer :=
  s.answer (s.recOf iid).isSome
    ((match s.recOf iid with
      | some r => decide (r.code = 6) || decide (r.code = 7)
      | none => false) && (s.fnState hSide iid).mute.lampFail && decide ((s.fnState hSide iid).st = 0))
    (s.evalEvent hSide iid)

/-- The meaning of SPATE_REPEAT: a SPATE_OUT whose IN stays 0, SPREP ticks after its last mark (R133). -/
def execSpateRepeat (hSide : Bool) (iid : Nat) (s : State) : Answer :=
  s.answer (s.recOf iid).isSome
    (match s.recOf iid with
     | some r => decide (r.code = 0x17) && decide ((s.fnState hSide iid).lastMark + r.par1 ≤ s.fnTick hSide iid)
     | none => false)
    (s.evalEvent hSide iid)

/-! ### The H-bus (R173 to R175) -/

/-- The entries that a die owns, in ascending order, as die `fd` holds the table. -/
def State.ownedBy (s : State) (fd w : Nat) : List Nat :=
  (List.range 320).filter fun n => s.flag F.HBOWN_USE (fdie fd) n && s.get F.HBOWN_WDIE (fdie fd) n == w

/-- The two-bit code of an entry as its writer sends it. -/
def State.entryCode (s : State) (fd n : Nat) : Nat :=
  let src := s.get F.HBOWN_SRC (fdie fd) n
  let b := s.cellCur fd (s.cmap fd (src / 4))
  if !b.valid then 0 else if b.bits.testBit (src % 4) then 2 else 1

/-- The 16-bit CRC of a slot over its header and payload beats. -/
def slotCrc (beats : List Nat) : Nat := crcBytes 16 0x8BB7 false 0xFFFF (beats.flatMap (msbBytes 2))

/-- The header beat of a slot. -/
def slotHeader (fd tick : Nat) : Nat := fd + tick % 2 ^ 13 * 8

/-- The beats that a die sends in its slot. -/
def State.slotBeats (s : State) (fd : Nat) : List Nat :=
  let codes := (s.ownedBy fd fd).map (s.entryCode fd)
  let beats := (List.range ((codes.length + 7) / 8)).map fun b => packBits (((codes.drop (8 * b)).take 8).map fun c => (c, 2))
  let l := slotHeader fd (s.field fd).htick :: beats
  l ++ [slotCrc l]

/-- A die drives its slot: the beats stand on the lines, and are the command's result. -/
def State.slotSend (s : State) (fd : Nat) : State :=
  (s.setField fd { s.field fd with beats := s.slotBeats fd }).give (s.slotBeats fd)

/-- The meaning of HBUS_SLOT_SEND; a fenced die sends none (R348), nor one in its self-test (R412). -/
def execHbusSlotSend (fd : Nat) (s : State) : Answer :=
  s.answer (s.hasFd fd) ((s.field fd).power && !(s.field fd).fbist && !s.fenced U.field (fdie fd) 0) (s.slotSend fd)

/-- The beats of die `k`'s slot as they arrive at another die. -/
def State.beatsIn (s : State) (k : Nat) (x : Transit) : List Nat :=
  let bs := x.pass ((s.field k).beats.flatMap (msbBytes 2))
  if x.complete then (List.range (bs.length / 2)).map fun i => leNat ((bs.drop (2 * i)).take 2).reverse else []

/-- Whether die `fd` accepts a slot of die `k` (R173). -/
def State.slotOk (s : State) (fd k : Nat) (cyc : Int) (beats : List Nat) : Bool :=
  let owned := (s.ownedBy fd k).length
  decide ((cyc - (72 + 80 * k)).natAbs ≤ 24) && decide (beats.length = 2 + (owned + 7) / 8) &&
    beats.head? == some (slotHeader k (s.field fd).htick) && beats.getLast? == some (slotCrc beats.dropLast)

/-- A slot of die `k` arrives at die `fd`. -/
def State.slotIn (s : State) (fd k : Nat) (cyc : Int) (beats : List Nat) : State :=
  if s.slotOk fd k cyc beats then
    let s1 := s.each (s.ownedBy fd k).zipIdx fun s x =>
      s.setHbit fd x.1 { s.hbit fd x.1 with next := bitsOf (beats.getD (1 + x.2 / 8) 0) (2 * (x.2 % 8)) 2 }
    let x := s1.field fd
    s1.setField fd { x with slots := x.slots ||| 2 ^ k }
  else s.count F.HGLB_HBSTAT_SLOTERR (fdie fd) 0

/-- The meaning of HBUS_SLOT_RECEIVE. -/
def execHbusSlotReceive (fd k : Nat) (cyc : Int) (x : Transit) (s : State) : Answer :=
  s.answer (s.hasFd fd && s.hasFd k) (s.field fd).power (s.slotIn fd k cyc (s.beatsIn k x))

/-! ### HTX (R176, R178) -/

/-- The zone word as F0 builds it: its own ZONE_OUT cells and the zone entries received in this tick's slots. -/
def State.zoneWordH (s : State) : Nat :=
  let own := (s.cellsOf 0 0x15).foldl
    (fun w p => if (s.cellCur 0 p).bits.testBit 0 && (s.cellCur 0 p).valid then w ||| 2 ^ (s.get F.HC_PAR0_PAR 2 p % 64) else w) 0
  let bus := bitsFrom 64 fun n =>
    s.flag F.HBOWN_USE 2 (256 + n) && decide (s.get F.HBOWN_WDIE 2 (256 + n) ≠ 0) && (s.hbit 0 (256 + n)).next == 2
  own ||| bus

/-- Write a number's bytes, most significant first, into words of HTX. -/
def State.putHtx (s : State) (fd w : Nat) (bs : List Byte) : State :=
  s.each (List.range (bs.length / 4)) fun s k => s.put F.HTX_W (fdie fd) (w + k) (wordAt bs k)

/-- F0's H-data of one ring. -/
def State.htxRing (s : State) (ring : Nat) : State :=
  let data := msbBytes 8 (not64 s.zoneWordH)
  let code := paeshCode polyH (s.hRid 0 ring) (s.hNode 0) (s.field 0).htick data
  s.putHtx 0 (4 * ring) (data ++ msbBytes 4 code)

/-- The SPATE_OUT cells of a die that raise a mark in this tick, at most 8. -/
def State.raisers (s : State) (fd : Nat) : List Nat :=
  ((s.cellsOf fd 0x17).filter fun p =>
    decide ((s.cell fd p).tick = (s.field fd).htick + 1) && (s.cellCur fd p).valid && (s.cellCur fd p).bits.testBit 0).take 8

/-- The mark record of place `m`: complemented mark word, its code for each ring, the rings and the validity. -/
def State.htxMark (s : State) (fd m p : Nat) : State :=
  let d := fdie fd
  let par := s.get F.HC_PAR0_PAR d p
  let hm := not32 (markWord (par % 256) (bitsOf par 8 4) (s.hNode fd))
  let code (ring : Nat) : Nat := paeshCode polyH (s.hRid fd ring) (s.hNode fd) (s.field fd).htick (msbBytes 4 hm)
  (s.putHtx fd (8 + 4 * m) (msbBytes 4 hm ++ msbBytes 4 (code 0) ++ msbBytes 4 (code 1))).put F.HTX_W d (8 + 4 * m + 3)
    (s.get F.HC_HCFG_OPT d p % 4 + 2 ^ 31)

/-- HTX by the 55 % point: on F0 the H-data of each ring of the part, on every die its mark records. -/
def State.htxBuild (s : State) (fd : Nat) : State :=
  let s1 := s.on (decide (fd = 0)) fun s => s.each s.lds State.htxRing
  let s2 := (s1.setField fd { s1.field fd with htx := (s1.field fd).htick + 1 }).each (List.range 8) fun s m =>
    s.put F.HTX_W (fdie fd) (8 + 4 * m + 3) 0
  s2.each (s2.raisers fd).zipIdx fun s x => s.htxMark fd x.2 x.1

/-- The meaning of HTX_BUILD. -/
def execHtxBuild (fd : Nat) (s : State) : Answer :=
  s.answer (s.hasFd fd) (!s.fieldOff fd) ((s.each s.lds fun s ld => s.reachPoint ld 55).htxBuild fd)

/-- `n` bytes of HTX from word `w`. -/
def State.htxBytes (s : State) (fd w n : Nat) : List Byte :=
  ((List.range (n / 4)).flatMap fun k => wordBytes (s.get F.HTX_W (fdie fd) (w + k)))

/-- The logic die reads HTX for its ring: F0's H-data for the own entry, and the mark records of any die, which are due in the
node's own RXS too (R133, R176, R178). HTX that was not built for this tick gives neither: no H part and no mark (R216). -/
def State.htxRead (s : State) (ld fd : Nat) : State :=
  s.on (decide ((s.field fd).htx = s.tick + 1)) fun s =>
    let s1 : State := if fd = 0 then
        { s with htxH := Store.set (fun _ => 0) s.htxH ld (beNat (s.htxBytes 0 (4 * ld) 12)) } else s
    let recs := (List.range 8).filter fun m =>
      let w := s.get F.HTX_W (fdie fd) (8 + 4 * m + 3)
      w.testBit 31 && w.testBit ld
    let marks := recs.map fun m =>
      (⟨ld, beNat (s.htxBytes fd (8 + 4 * m) 4), beNat (s.htxBytes fd (8 + 4 * m + 1 + ld) 4), s.tick⟩ : HMark)
    State.each { s1 with htxMarks := s1.htxMarks ++ marks } marks fun s m => s.dueRxs ld (not32 m.mark % 256) m.mark m.crc (s.tick % 2 ^ 16)

/-- The meaning of HTX_READ. -/
def execHtxRead (ld fd : Nat) (s : State) : Answer :=
  s.answer (s.hasLd ld && s.hasFd fd) (s.reaches ld fd) ((s.reachPoint ld 60).htxRead ld fd)

/-! ### P-enable words and the apply point (R27 to R32, R488) -/

/-- The transfer of a logic die as the field die holds it. -/
def FieldSt.xfer (x : FieldSt) (ld : Nat) : PXfer := if ld = 0 then x.x0 else x.x1

/-- The content of a transfer of P-enable words: a byte for each word sent, its terminal and the word. The spec gives it no
layout (log entry 25). -/
def wordBody (ws : List Nat) : List Byte :=
  (ws.zipIdx.filter fun w => decide (w.1 < 4)).map fun w => BitVec.ofNat 8 (w.2 % 64 + 64 * w.1)

/-- The words of a transfer's content, one per local terminal, 4 where none came. -/
def bodyWords (bs : List Byte) : List Nat :=
  (List.range 64).map fun t => ((bs.find? fun b => b.toNat % 64 == t).map fun b => b.toNat / 64).getD 4

/-- The transfer of a logic die's words in the 75 % to 80 % window: what the latch point of this tick staged, if it came; one that
R21 discards, or over a fenced link, is absent. -/
def State.wordsIn (s : State) (fd ld : Nat) (x : Transit) : State :=
  let f := s.field fd
  let w := s.words ld fd
  let up := decide (w.tick = s.tick) && !w.words.isEmpty && !s.fenced U.link ld fd && !s.fenced U.logic ld 0
  let t : PXfer := match x.receive f.htick s.tick (wordBody w.words) with
    | some bs => if up then ⟨true, f.htick, bodyWords bs⟩ else PXfer.zero
    | none => PXfer.zero
  s.setField fd (if ld = 0 then { f with x0 := t } else { f with x1 := t })

/-- The meaning of P_ENABLE_WORDS_RECEIVED: the operands say what the link does to the tick bits, the words and the CRC-16. -/
def execPEnableWordsReceived (fd ld tick : Nat) (flips : List (Nat × Nat)) (crc : Nat) (complete : Bool) (s : State) : Answer :=
  let x := Transit.framed (wordBody (s.words ld fd).words).length tick flips crc complete
  s.answer (s.hasFd fd && s.hasLd ld) (s.field fd).power (s.wordsIn fd ld x)

/-- The P-source of a terminal as its die holds it. -/
def State.pSource (s : State) (fd t : Nat) : Nat :=
  ((if t < 32 then s.get F.FSYS_PSRC0_SRC (fdie fd) 0 else s.get F.FSYS_PSRC1_SRC (fdie fd) 0).testBit (t % 32)).toNat

/-- The word that a die has for a terminal in its H tick from a logic die: 4 for none. -/
def State.heldWord (s : State) (fd ld t : Nat) : Nat :=
  let x := (s.field fd).xfer ld
  if x.ok && decide (x.tick = (s.field fd).htick) then x.words.getD t 4 else 4

/-- The refused words of one logic die for one terminal are counted (R488); in the tick of a takeover the standby's word is that of
the source already. -/
def State.countWord (s : State) (fd ld t w : Nat) : State :=
  let d := fdie fd
  let ht := (s.field fd).htick
  if 4 ≤ w then s
  else if ld ≠ s.pSource fd t then
    s.on (!s.outStandby fd t) fun s => s.count F.FSYS_PENCNT_SOURCE d 0
  else if w = 3 then s.count F.FSYS_PENCNT_INVALID d 0
  else s.on (decide (w ≠ 0) && decide (w ≠ enableWord ht true)) fun s => s.count F.FSYS_PENCNT_PARITY d 0

/-- The takeover of R32: the P-source has no word for the terminal and the configured standby has. -/
def State.sourceTakeover (s : State) (fd t : Nat) : State :=
  let src := s.pSource fd t
  s.on (s.outStandby fd t && decide (s.heldWord fd src t = 4) && decide (s.heldWord fd (1 - src) t < 4)) fun s =>
    (s.setSource fd t (1 - src)).count F.FSYS_PSWCNT_TAKEOVER (fdie fd) 0

/-- The H-demand of a terminal: the bit of the active cell that drives it (R117), unless cell or instance is fenced, this very
tick included (R183). -/
def State.hDemand (s : State) (fd t : Nat) : Bool :=
  (List.range 144).any fun p =>
    s.cellLive fd p && !s.instFencedH (s.cellIid fd p) &&
      (drivesOf (s.get F.HC_HCFG_TYPE (fdie fd) p) (s.get F.HC_HCFG_OPT (fdie fd) p)).any fun o =>
        s.flag (fldUse o.2) (fdie fd) p && s.get (fldIdx o.2) (fdie fd) p == t &&
          (s.cellCur fd p).valid && (s.cellCur fd p).bits.testBit o.1

/-- The apply point for one terminal: both enables take the values of the tick (R27, R29). A terminal that a protection has
turned off stays off until the fence at the next tick edge (R51, R55, R57). -/
def State.applyTerm (s : State) (fd t : Nat) : State :=
  let d := fdie fd
  let s0 := s.sourceTakeover fd t
  let s1 := s0.each s0.lds fun s ld => s.countWord fd ld t (s.heldWord fd ld t)
  let dead := s1.fieldSafe fd || s1.fenced U.term d t || s1.heldOff fd t
  let was := s1.flag F.TERM_HSTAT_PENA d t && s1.flag F.TERM_HSTAT_HENA d t
  let p := !dead && s1.heldWord fd (s1.pSource fd t) t == enableWord (s1.field fd).htick true
  let h := !dead && s1.hDemand fd t
  let s2 := (s1.putB F.TERM_HSTAT_PENA d t p).putB F.TERM_HSTAT_HENA d t h
  s2.on (was && !(p && h)) fun s => s.setTerm fd t { s.term fd t with supp := true }

/-- Absent transfers of a P-source count (R488). -/
def State.countAbsent (s : State) (fd : Nat) (outs : List Nat) : State :=
  s.each (s.lds.filter fun ld => outs.any fun t => s.pSource fd t == ld) fun s ld =>
    let x := (s.field fd).xfer ld
    s.on (!(x.ok && decide (x.tick = (s.field fd).htick))) fun s => s.count F.FSYS_PENCNT_ABSENT (fdie fd) 0

/-- The apply point of a field die. -/
def State.apply (s : State) (fd : Nat) : State :=
  let outs := (List.range 64).filter fun t => s.mode fd t == 2 || s.mode fd t == 4
  (s.countAbsent fd outs).each outs fun s t => s.applyTerm fd t

/-- The meaning of APPLY_POINT. -/
def execApplyPoint (fd : Nat) (s : State) : Answer := s.answer (s.hasFd fd) (s.field fd).power ((s.each s.lds fun s ld => s.reachPoint ld 80).apply fd)

end Sys2Proof.Machine
end

