-- ==== Sys2Proof/Machine/Tap.lean ====
section
/-!
DEFINITION. The test access port, debug halt and the key vault (R417 to R426).
-/

namespace Sys2Proof.Machine

/-! ### Instructions (R417, R418, R421) -/

/-- What the boundary register captures (R418): SAFE_N, FAULT_N, PORST_N and TICK in its lowest bits, and above them the balls of the
host and flash ports, which the model does not hold: free values. -/
def State.boundaryNow (s : State) : Nat :=
  (!s.safeLow).toNat + 2 * (!decide (s.fltSrc ≠ 0)).toNat + 4 * (!s.part.porst).toNat + 8 * s.part.tickOut.toNat + 16 * s.free

/-- Select an instruction: the controller comes to rest in Run-Test/Idle, BYPASS captures 0 in its one bit, and SAMPLE/PRELOAD and EXTEST
capture the pins. Leaving EXTEST or SCANEN leaves the part in the safe state until TAP_EXIT, the reset that leaving starts, has
reset it. -/
def State.tapSelect (s : State) (i : TapIns) : State :=
  s.on s.tapLive fun s =>
    let t := s.tapRegs
    let b : Bool := i == .sample || i == .extest
    ({ s with tap := i, tapRegs := ⟨.idle, t.bypass && i != .bypass, if b then s.boundaryNow else t.boundary⟩ } : State).on b State.spend

/-- A refused instruction selects BYPASS and sets DBGSTAT.REFUSED on every logic die (R418). -/
def State.tapRefuse (s : State) : State :=
  s.on s.tapLive fun s => (s.tapSelect .bypass).each s.lds fun s ld => s.put F.LBIST_DBGSTAT_REFUSED ld 0 1

/-- The meaning of BYPASS: code 0xFF selects it; any code outside the table is no instruction of the port, and is refused
(log entry 16). -/
def execTapBypass (code : Nat) (s : State) : Answer :=
  s.answer true true (if code = 0xFF then s.tapSelect .bypass else s.tapRefuse)

/-- IDCODE (R419). -/
def State.idcode (s : State) : Nat := s.rev.code * 2 ^ 28 + s.variant.partCode * 2 ^ 12 + 0x1A3 * 2 + 1

/-- The meaning of IDCODE. -/
def execTapIdcode (s : State) : Answer := s.answer true true ((s.tapSelect .idcode).on s.tapLive fun t => t.give [s.idcode])

/-- The meaning of SAMPLE_PRELOAD: no effect on the pins. -/
def execTapSamplePreload (s : State) : Answer := s.answer true true (s.tapSelect .sample)

/-- Every die of the part takes the safe state (R418). -/
def State.tapSafeState (s : State) : State :=
  let s1 : State := { s with part := { s.part with tapSafe := true } }
  s1.each s1.fds fun s fd => s.termsOff fd

/-- The meaning of EXTEST: admitted in BLANK, VENDOR and RETIRED. -/
def execTapExtest (s : State) : Answer :=
  s.answer true true
    (if s.lc = 2 then s.tapRefuse else (s.tapSelect .extest).on s.tapLive State.tapSafeState)

/-- The meaning of DBGACC. -/
def execTapDbgacc (s : State) : Answer := s.answer true true (s.tapSelect .dbgacc)

/-- SCANEN: the vault's working key is zeroised and every die fenced; the spec gives that fence no reason code, so it is a
free choice (R421, log entry 4). -/
def State.scanen (s : State) : State :=
  let reason := s.freeReason
  let s1 := (s.spend.put F.SYSCTL_VSTAT_ZEROED 0 0 1).put F.SYSCTL_VSTAT_LOADED 0 0 0
  let s2 := s1.each s1.fds fun s fd => s.fenceField fd reason
  let s3 := s2.each s2.lds fun s ld => s.fenceLogic ld reason
  s3.tapSafeState

/-- The meaning of SCANEN: admitted in VENDOR and RETIRED. -/
def execTapScanen (s : State) : Answer :=
  s.answer true true
    (if s.lc = 1 ∨ s.lc = 3 then (s.tapSelect .scanen).on s.tapLive State.scanen else s.tapRefuse)

/-- The meaning of TRST_N: the TAP controller only (R451); Test-Logic-Reset selects IDCODE. -/
def execTrstN (s : State) : Answer := s.answer true true { s with tap := .idcode, tapRegs := { s.tapRegs with ctl := .reset } }

/-! ### Debug halt (R35, R417, R425, R426) -/

/-- Whether a lane halt is admitted (R417). -/
def State.laneHaltOk (s : State) (ld : Nat) : Bool := decide (s.lc = 1) || (decide (s.lc = 2) && s.gate ld)

/-- A refused halt (R418, R427). -/
def State.haltRefused (s : State) (ld : Nat) : State := s.put F.LBIST_DBGSTAT_REFUSED ld 0 1

/-- A lane core halts and its lane is fenced in the same cycle (R35). -/
def State.haltCore (s : State) (ld l : Nat) : State :=
  let s1 := ((s.settleOwned ld (l + 1)).fenceLane ld l 0x02).put F.LANE_LSTAT_PHASE ld l 6
  let a := s1.lane ld l
  (s1.setLane ld l { a with halted := true }).orFlags F.LBIST_DBGSTAT_HALTED ld 0 (2 ^ l)

/-- The meaning of DEBUG_HALT_LANE. -/
def execDebugHaltLane (ld lane : Nat) (s : State) : Answer :=
  s.answer (s.hasLd ld && decide (lane < 8)) s.dbgOn
    (if s.laneHaltOk ld then s.haltCore ld lane else s.haltRefused ld)

/-- A supervisor halts: it counts as restarting for the mailbox leases, and its watchdog pauses (R425). -/
def State.haltSv (s : State) (ld : Nat) : State :=
  let s := s.settleOwned ld 9
  let v := s.svst ld
  ((s.setSv ld { v with halted := true }).put F.LBIST_DBGSTAT_SVHALT ld 0 1).moveLeases

/-- The meaning of DEBUG_HALT_SUPERVISOR. -/
def execDebugHaltSupervisor (ld : Nat) (s : State) : Answer :=
  s.answer (s.hasLd ld) s.dbgOn (if s.lc = 1 then s.haltSv ld else s.haltRefused ld)

/-- A lane resumes reset and idle, and its fence stays (R426). -/
def State.resumeLane (s : State) (ld l : Nat) : State :=
  let a := s.lane ld l
  let h := s.get F.LBIST_DBGSTAT_HALTED ld 0
  ((s.setLane ld l { LaneSt.zero with lfsr := a.lfsr, mis := a.mis }).put F.LBIST_DBGSTAT_HALTED ld 0
    (h - (h &&& 2 ^ l))).put F.LANE_LSTAT_PHASE ld l 7

/-- A supervisor resumes. -/
def State.resumeSv (s : State) (ld : Nat) : State :=
  let v := s.svst ld
  ((s.setSv ld { v with halted := false }).put F.LBIST_DBGSTAT_SVHALT ld 0 0).moveLeases

/-- The meaning of DEBUG_RESUME: core 0 to 7 a lane, 8 the supervisor. -/
def execDebugResume (ld core : Nat) (s : State) : Answer :=
  s.answer (s.hasLd ld && decide (core < 9))
    (s.dbgOn && if core < 8 then (s.lane ld core).halted else (s.svst ld).halted)
    (if core < 8 then s.resumeLane ld core else s.resumeSv ld)

/-! ### The vault (R422, R423, R428) -/

/-- The vault's MAC under the loaded key. -/
def State.vaultMac (s : State) (bs : List Byte) : Nat := hmac (s.vaultKey.getD []) bs

/-- The MAC of the bytes fed stands in VMAC0 to VMAC7. With no key loaded the spec states no result: a free value. -/
def State.vaultDone (s : State) : State :=
  let loaded := s.flag F.SYSCTL_VSTAT_LOADED 0 0
  let mac := if loaded then s.vaultMac s.vaultIn else s.free
  let s1 := s.each (List.range 8) fun s n => s.put F.SYSCTL_VMAC_MAC 0 n (fieldAt (beBytes 32 mac) (4 * n) 4)
  let s2 := (s1.put F.SYSCTL_VSTAT_BUSY 0 0 0).on (!loaded) State.spend
  { s2 with vaultIn := [], vaultOpen := false }

/-- The meaning of VAULT_START. -/
def execVaultStart (m : Master) (s : State) : Answer :=
  s.answer true true
    (s.asWrite .SYSCTL_VCTL 0 0 m m.isSv (!s.flag F.SYSCTL_VSTAT_BUSY 0 0) fun s =>
      { s with vaultIn := [], vaultOpen := true })

/-- Bytes written to VDIN, lane 0 first, while a MAC is open. -/
def State.vaultFeed (s : State) (data be : Nat) : State :=
  s.on s.vaultOpen fun s =>
    { s with vaultIn := s.vaultIn ++ (enabledBytes data be).map fun b => BitVec.ofNat 8 b }

/-- The meaning of VAULT_DIN. -/
def execVaultDin (m : Master) (data be : Nat) (s : State) : Answer :=
  s.answer true true (s.asWrite .SYSCTL_VDIN 0 0 m m.isSv true fun s => s.vaultFeed data be)

/-- GO ends the input and computes (R428). -/
def State.vaultGo (s : State) : State := State.put { s with vaultOpen := false } F.SYSCTL_VSTAT_BUSY 0 0 1

/-- The meaning of VAULT_GO: refused while BUSY is 1. -/
def execVaultGo (m : Master) (s : State) : Answer :=
  s.answer true true
    (s.asWrite .SYSCTL_VCTL 0 0 m m.isSv (!s.flag F.SYSCTL_VSTAT_BUSY 0 0) State.vaultGo)

/-- The meaning of VAULT_MAC_DONE. -/
def execVaultMacDone (s : State) : Answer := s.answer true (s.flag F.SYSCTL_VSTAT_BUSY 0 0) s.vaultDone

end Sys2Proof.Machine
end

