-- ==== Sys2Proof/Machine/Firmware.lean ====
section
/-!
DEFINITION. What the supervisors keep in flash beside the configuration image: signatures under the OTP keys, records under
the vault MAC, the firmware slots and which of them a supervisor runs (R287, R330, R424, R441).
-/

namespace Sys2Proof.Machine

/-! ### Signatures (R287, R330, R431) -/

/-- A key hash that stands in four OTP words from word `w`, most significant first (R431); none where a word is blank or
uncorrectable. -/
def State.keyHash (s : State) (w : Nat) : Option Nat :=
  let ws := (List.range 4).map fun k => s.otpWord (w + k)
  if ws.all fun x => x.prog && decide (x.cls ≠ .uncorrectable) then some (ws.foldl (fun a x => a * 2 ^ 64 + x.data) 0) else none

/-- Whether a signature verifies under the key whose hash stands from OTP word `w`; the ECDSA check is left out where the digest is
`known` from the boot record (R442). -/
def State.sigOkBut (s : State) (known : Bool) (w : Nat) (pub : List Byte) (digest : Nat) (sig : List Byte) : Bool :=
  s.keyHash w == some (sha256 pub) && (known || ecdsaOk pub digest sig)

/-- Whether a signature verifies under the key whose hash stands from OTP word `w`. -/
def State.sigOk (s : State) (w : Nat) (pub : List Byte) (digest : Nat) (sig : List Byte) : Bool := s.sigOkBut false w pub digest sig

/-- The OTP word of key slot `k` of region 6. -/
abbrev keySlot (k : Nat) : Nat := 1536 + 4 * k

/-- The 64-bit device identity (R302, R431); an uncorrectable word reads 0 (R436). -/
def State.devident (s : State) : Nat := (s.otpData 0).getD 0

/-! ### Records (R336, R424) -/

/-- The bytes of a flash range. -/
def State.flashBytes (s : State) (a n : Nat) : List Byte := (List.range n).map fun k => s.flashByte (a + k)

/-- Whether the vault holds its key (R422). -/
def State.vaultOn (s : State) : Bool := s.flag F.SYSCTL_VSTAT_LOADED 0 0

/-- The vault's MAC over some bytes as a record holds it; with no key loaded the spec states no result: a free value. -/
def State.macBytes (s : State) (bs : List Byte) : List Byte := beBytes 32 (if s.vaultOn then s.vaultMac bs else s.free)

/-- Write a record to flash; a free value is spent where its MAC is one. -/
def State.writeRecord (s : State) (a : Nat) (r : List Byte) : State := (s.setFlash a r).on (!s.vaultOn) State.spend

/-- A record in the layout of R424: its name, its write generation, eight bytes of value. -/
def State.genRecord (s : State) (magic gen value : Nat) : List Byte :=
  let h := leBytes 4 magic ++ leBytes 4 gen ++ leBytes 8 value ++ leBytes 16 0
  h ++ s.macBytes h

/-- Whether a record of R424 verifies; with VIO tripped flash does not answer (R445). -/
def State.genRecordOk (s : State) (a magic : Nat) : Bool :=
  let r := s.flashBytes a 64
  s.vaultOn && !s.part.vio && r == s.genRecord magic (fieldAt r 4 4) (fieldAt r 8 8)

/-- Generation and value of a record. -/
def State.recGen (s : State) (a : Nat) : Nat := fieldAt (s.flashBytes a 64) 4 4
def State.recValue (s : State) (a : Nat) : Nat := fieldAt (s.flashBytes a 64) 8 8

/-! ### The signature counter (R288, R424) -/

/-- "CVCT", and the two places of its record. -/
abbrev magicCvct : Nat := 0x54435643
abbrev ctrA : Nat := 0x402000
abbrev ctrB : Nat := 0x402800

/-- The place of the record that counts: the verifying one with the higher generation. -/
def State.ctrPlace (s : State) : Option Nat :=
  let a := s.genRecordOk ctrA magicCvct
  let b := s.genRecordOk ctrB magicCvct
  if a && (!b || decide (s.recGen ctrB ≤ s.recGen ctrA)) then some ctrA else if b then some ctrB else none

/-- The value that the records hold; none where neither verifies. -/
def State.storedCounter (s : State) : Option Nat := s.ctrPlace.map s.recValue

/-- The last accepted counter, as boot read it and every accepted request has raised it; none where it is lost. -/
def State.counter (s : State) : Option Nat := s.part.ctr

/-- A new value goes to the other record, with the generation raised by 1. Where both are lost it goes to the first. -/
def State.putCounter (s0 : State) (v : Nat) : State :=
  let s : State := { s0 with part := { s0.part with ctr := some v } }
  match s.ctrPlace with
  | some a => s.writeRecord (if a = ctrA then ctrB else ctrA) (s.genRecord magicCvct (s.recGen a + 1) v)
  | none => s.writeRecord ctrA (s.genRecord magicCvct 1 v)

/-! ### Firmware (R441) -/

/-- "CVFW" and "CVFA". -/
abbrev magicCvfw : Nat := 0x57465643
abbrev magicCvfa : Nat := 0x41465643

/-- Where a firmware slot lies, and the activation record. -/
def fwSlot (k : Nat) : Nat := 0x100000 * k
abbrev fwRecord : Nat := 0x403000

/-- Whether some bytes are a firmware image of the vendor: header, length, signature under words 8 to 11, its ECDSA check left out
where the digest is `known`. -/
def State.fwOkBut (s : State) (known : Bool) (bs : List Byte) : Bool :=
  let b := bs.drop (bs.length - 132)
  decide (196 ≤ bs.length) && decide (fieldAt bs 0 4 = magicCvfw) && decide (fieldAt bs 8 4 = bs.length) &&
    (((bs.drop 12).take 52).all fun x => x == 0) && decide (fieldAt b 0 4 = 0) &&
    s.sigOkBut known 8 ((b.drop 4).take 64) (sha256 (bs.take (bs.length - 132))) (b.drop 68)

/-- Whether some bytes are a firmware image of the vendor. -/
def State.fwOk (s : State) (bs : List Byte) : Bool := s.fwOkBut false bs

/-- The slot image of a firmware slot. -/
def State.fwImage (s : State) (k : Nat) : List Byte := s.flashBytes (fwSlot k) (min 0x100000 (fieldAt (s.flashBytes (fwSlot k) 64) 8 4))

/-- VERSION of a slot. -/
def State.fwVersion (s : State) (k : Nat) : Nat := fieldAt (s.flashBytes (fwSlot k) 64) 4 4

/-- Whether a slot verifies: by its signature, of whose checks the digest of the boot record waives the ECDSA one (R442). -/
def State.fwSlotOk (s : State) (k : Nat) : Bool :=
  !s.part.vio && decide (fieldAt (s.flashBytes (fwSlot k) 4) 0 4 = magicCvfw) &&
    s.fwOkBut (s.bootRec.fw == some (k, sha256 (s.fwImage k), s.recGen fwRecord)) (s.fwImage k)

/-- The slot that a supervisor loads: the one that the activation record names, else the verifying one with the higher
VERSION. -/
def State.fwSelect (s : State) : Option Nat :=
  let a := s.fwSlotOk 0
  let b := s.fwSlotOk 1
  let named (k : Nat) : Bool := s.genRecordOk fwRecord magicCvfa && decide (s.recValue fwRecord = s.fwVersion k)
  if a && named 0 then some 0
  else if b && named 1 then some 1
  else if a && (!b || decide (s.fwVersion 1 ≤ s.fwVersion 0)) then some 0
  else if b then some 1 else none

/-- A supervisor loads its firmware; with none it runs from ROM. BLANK loads none (R296, R440). -/
def State.loadFw (s : State) (ld : Nat) : State :=
  let v := s.svst ld
  match if s.lc = 0 then none else s.fwSelect with
  | some k => s.setSv ld { v with fwVer := s.fwVersion k, fwSlot := k, romOnly := false }
  | none => s.setSv ld { v with fwVer := 0, fwSlot := 0, romOnly := true }

end Sys2Proof.Machine
end

