-- ==== Sys2Proof/Machine/Ports.lean ====
section
/-!
DEFINITION. Ring ports (R204 to R208): link conditions and admission, and the start of a ring engine (R247).
-/

namespace Sys2Proof.Machine

/-! ### Admission (R207) -/

/-- The codes of DOWNRSN (R231). -/
abbrev downSync : Nat := 1
abbrev downNeg : Nat := 2
abbrev downSgmii : Nat := 3
abbrev downVerify : Nat := 4
abbrev downMiswired : Nat := 5
abbrev downFenced : Nat := 6
abbrev downOff : Nat := 7

/-- The cause that keeps a port from admission, in the order of its conditions: 0 for none, 8 while verification or
negotiation has not ended. -/
def State.portCause (s : State) (ld p : Nat) : Nat :=
  let x := s.port ld p
  let mode := s.get F.RNG_PCFG_MODE ld p
  if s.fenced U.port ld p then downFenced
  else if mode = 0 ∨ mode = 3 ∨ s.flag F.RNG_RINGCFG_ENABLE ld 0 = false then downOff
  else if s.flag F.RNG_PSTAT_SYNC ld p = false then downSync
  else if x.miswired then downMiswired
  else if mode = 1 ∧ x.anFault then downNeg
  else if s.flag F.RNG_PSTAT_LINK ld p = false then
    (if mode = 2 ∧ s.flag F.RNG_PSTAT_ANDONE ld p = true then downSgmii else if x.anFault then downNeg else 8)
  else if s.flag F.RNG_PSTAT_PREACT ld p then 0
  else if x.verFail then downVerify else 8

/-- The start-up state changes; TXSTAT.LISTEN of each port follows it, a fenced port's keeps its safe value (R247, R255). -/
def State.setSync (s : State) (ld st : Nat) : State :=
  (s.put F.RNG_TSYNC_STATE ld 0 st).each [0, 1] fun s p =>
    s.on (!s.fenced U.port ld p) fun s => s.putB F.RNG_TXSTAT_LISTEN ld p (decide (st = syncQuiet))

/-- LISTEN begins (R247): the turn timer's LOCKED clears (R242). -/
def State.enterListen (s : State) (ld : Nat) : State :=
  let s1 := ((s.setSync ld syncListen).put F.RNG_TSYNC_BHOPS ld 0 0x1FFF).put F.TICK_TSTAT_LOCKED ld 0 0
  s1.setRing ld { s1.ring ld with first := none, cand := none, good := 0, sends := false, hold := false }

/-- The base page that a port advertises (R206): FD = 1, no HD, no pause, no next page, RF 0b00 while it would admit the link but
for the negotiation, else 0b01 (log entry 20); none outside negotiated 1000BASE-X mode. -/
def State.pageOf (s : State) (ld p : Nat) : Nat :=
  if s.get F.RNG_PCFG_MODE ld p = 1 ∧ s.flag F.RNG_PCFG_ANEN ld p = true then
    2 ^ 5 + (if s.portCause ld p = 0 ∨ s.portCause ld p = 8 ∨ s.portCause ld p = downNeg then 0 else 2 ^ 12)
  else 0

/-- Bring ADMIT of a port up to date, with DOWNRSN at a known cause of non-admission (R207), the last of which an admitted port keeps
(DESIGN CHOICE, log entry 182); the first admission starts the engine (R247). A fenced port's fields stay at their safe values. -/
def State.admitPort (s : State) (ld p : Nat) : State :=
  let c := s.portCause ld p
  let s1 := s.putB F.RNG_PSTAT_ADMIT ld p (decide (c = 0))
  let s2 := (s1.on (decide (1 ≤ c) && decide (c ≤ 7)) fun s => s.put F.RNG_PSTAT_DOWNRSN ld p c).setPort ld p
    { s1.port ld p with page := if s.fenced U.port ld p then 0 else s.pageOf ld p }
  s2.on (decide (c = 0) && decide (s2.sync ld = syncIdle) && s2.ringOn ld) fun s => s.enterListen ld

/-! ### Link conditions (R205, R206, R208) -/

/-- Set LINK; a link that comes up or goes down starts verification anew (R208). -/
def State.setLink (s : State) (ld p : Nat) (up : Bool) : State :=
  let was := s.flag F.RNG_PSTAT_LINK ld p
  (s.putB F.RNG_PSTAT_LINK ld p up).on (was != up) fun s =>
    (s.put F.RNG_PSTAT_PREACT ld p 0).setPort ld p { s.port ld p with verFail := false }

/-- Whether a port's receiver acts: its mode is on and it is not fenced (R205, R207). -/
def State.portActs (s : State) (ld p : Nat) : Bool :=
  !s.fenced U.port ld p && (decide (s.get F.RNG_PCFG_MODE ld p = 1) || decide (s.get F.RNG_PCFG_MODE ld p = 2))

/-- MODE and ANEN of a port as its receiver takes them. -/
def State.confOf (s : State) (ld p : Nat) : Nat := s.get F.RNG_PCFG_MODE ld p + 4 * s.get F.RNG_PCFG_ANEN ld p

/-- PCS sync is gained or lost: everything negotiated since the last sync is void. -/
def State.pcsSync (s : State) (ld p : Nat) (sync : Bool) : State :=
  let anen := s.flag F.RNG_PCFG_ANEN ld p
  let s1 := s.setPort ld p { s.port ld p with miswired := false, anFault := false, conf := s.confOf ld p }
  let s2 := (s1.putB F.RNG_PSTAT_SYNC ld p sync).putB F.RNG_PSTAT_ANDONE ld p (!anen)
  let s3 := s2.setLink ld p false
  let s4 := s3.on (sync && !anen && decide (s.get F.RNG_PCFG_MODE ld p = 1)) fun s => s.setLink ld p true
  s4.admitPort ld p

/-- A change of PCFG reaches the port's receiver: a new MODE starts it without sync, a new ANEN negotiates anew (R205, R206;
DEDUCED). A fenced port waits for its fence to clear. -/
def State.portConf (s : State) (ld p : Nat) : State :=
  let was := (s.port ld p).conf
  s.on (was != s.confOf ld p && !s.fenced U.port ld p) fun s =>
    s.pcsSync ld p (s.flag F.RNG_PSTAT_SYNC ld p && decide (was % 4 = s.get F.RNG_PCFG_MODE ld p))

/-- A change of RINGCFG or PCFG reaches the ports and the engine: IDLE holds while ENABLE is 0 (R247). -/
def State.ringConf (s : State) (ld : Nat) : State :=
  let s1 := s.on (!s.flag F.RNG_RINGCFG_ENABLE ld 0) fun s =>
    ((s.setSync ld syncIdle).put F.RNG_THG_SELF ld 0 0).setRing ld RingSt.zero
  s1.each [0, 1] fun s p => (s.portConf ld p).admitPort ld p

/-- The meaning of PCS_SYNC_CHANGE. -/
def execPcsSyncChange (ld p : Nat) (sync : Bool) (s : State) : Answer :=
  s.answer (s.hasLd ld && decide (p < 2)) true (s.on (s.portActs ld p) fun s => s.pcsSync ld p sync)

/-- Full duplex in a base page of Clause 37, and a remote fault other than 0b00 (log entry 20). -/
def baseFd (w : Nat) : Bool := w.testBit 5
def baseRf (w : Nat) : Bool := w.testBit 12 || w.testBit 13

/-- An SGMII control word that reports link up, 1000 Mbit/s, full duplex (log entry 20). -/
def sgmiiGood (w : Nat) : Bool := w.testBit 15 && w.testBit 12 && decide (bitsOf w 10 2 = 2)

/-- Auto-negotiation with ANEN = 1 runs on a port in sync. -/
def State.negotiates (s : State) (ld p : Nat) : Bool :=
  s.portActs ld p && s.flag F.RNG_PSTAT_SYNC ld p && s.flag F.RNG_PCFG_ANEN ld p

/-- Auto-negotiation has received the word `w` of the partner. In 1000BASE-X mode only a full-duplex partner completes it; any other
keeps the port from admission (R206, R231). -/
def State.autoneg (s : State) (ld p w : Nat) : State :=
  let base := decide (s.get F.RNG_PCFG_MODE ld p = 1)
  let fd := !base || baseFd w
  let s1 := (s.put F.RNG_PSTAT_LPABIL ld p w).putB F.RNG_PSTAT_ANDONE ld p fd
  let s2 := s1.setPort ld p { s1.port ld p with anFault := base && (!fd || baseRf w) }
  (s2.setLink ld p (if base then fd && !baseRf w else sgmiiGood w)).admitPort ld p

/-- The meaning of AUTONEG_COMPLETE. -/
def execAutonegComplete (ld p lpabil : Nat) (s : State) : Answer :=
  s.answer (s.hasLd ld && decide (p < 2)) (s.negotiates ld p) (s.autoneg ld p lpabil)

/-- The partner sends a remote fault, or restarts auto-negotiation. -/
def State.partnerFault (s : State) (ld p w : Nat) : State :=
  let rf := decide (s.get F.RNG_PCFG_MODE ld p = 1) && baseRf w
  let s1 := (s.put F.RNG_PSTAT_LPABIL ld p w).putB F.RNG_PSTAT_ANDONE ld p rf
  let s2 := s1.setPort ld p { s1.port ld p with anFault := true }
  (s2.setLink ld p false).admitPort ld p

/-- The meaning of AUTONEG_PARTNER_FAULT: with ANEN = 1. -/
def execAutonegPartnerFault (ld p lpabil : Nat) (s : State) : Answer :=
  s.answer (s.hasLd ld && decide (p < 2)) (s.negotiates ld p) (s.partnerFault ld p lpabil)

/-- The external PHY's control word changes. -/
def State.sgmiiWord (s : State) (ld p w : Nat) : State :=
  let s1 := s.put F.RNG_PSTAT_LPABIL ld p w
  (s1.setLink ld p (sgmiiGood w)).admitPort ld p

/-- The meaning of SGMII_LINK_STATUS_CHANGE. -/
def execSgmiiLinkStatusChange (ld p word : Nat) (s : State) : Answer :=
  s.answer (s.hasLd ld && decide (p < 2))
    (s.portActs ld p && s.flag F.RNG_PSTAT_SYNC ld p && decide (s.get F.RNG_PCFG_MODE ld p = 2)) (s.sgmiiWord ld p word)

/-- Whether a port verifies: link conditions met, not yet verified, and its three attempts at this link-up not spent. -/
def State.verifies (s : State) (ld p : Nat) : Bool :=
  s.portActs ld p && s.flag F.RNG_PSTAT_LINK ld p && !s.flag F.RNG_PSTAT_PREACT ld p && !(s.port ld p).verFail

/-- The meaning of VERIFY_COMPLETE. -/
def execVerifyComplete (ld p : Nat) (s : State) : Answer :=
  s.answer (s.hasLd ld && decide (p < 2)) (s.verifies ld p)
    (((s.put F.RNG_PSTAT_PREACT ld p 1).setPort ld p { s.port ld p with verFail := false }).admitPort ld p)

/-- The meaning of VERIFY_FAILURE: three attempts timed out. -/
def execVerifyFailure (ld p : Nat) (s : State) : Answer :=
  s.answer (s.hasLd ld && decide (p < 2)) (s.verifies ld p)
    ((s.setPort ld p { s.port ld p with verFail := true }).admitPort ld p)

/-! ### The receive filter (R212) -/

/-- Whether a frame arrives from the wrong side: a wrong direction bit, or the node's own ID in SND. -/
def State.wrongSide (s : State) (ld p : Nat) (h : FrameHdr) : Bool :=
  (h.d == decide (p = 0)) || decide (h.snd = s.node ld)

/-- Whether the filter discards a frame of class `cls`. -/
def State.filtered (s : State) (ld p cls : Nat) (h : FrameHdr) : Bool :=
  !h.fcs || decide (h.dst ≠ cls) || decide (h.cls ≠ cls) || decide (h.etype ≠ s.get F.RNG_ETYPE_ETYPE ld 0) ||
    decide (h.ver ≠ 1) || decide (h.rid ≠ s.ringId ld) || h.short || s.wrongSide ld p h

/-- Count a filtered frame; a frame from the wrong side withdraws admission, whatever else is wrong with it (R212). -/
def State.countFilter (s : State) (ld p : Nat) (h : FrameHdr) : State :=
  let s1 := if h.fcs then s.count F.RNG_RXERR_FILT ld p else s.count F.RNG_RXERR_FCSERR ld p
  s1.on (s.wrongSide ld p h) fun s =>
    (s.setPort ld p { s.port ld p with miswired := true }).admitPort ld p

end Sys2Proof.Machine
end

