-- ==== Sys2Proof/Machine/FenceRows.lean ====
section
/-!
DEFINITION. The commands of the fence controllers: FENCE.FREQ and FSYS.FFREQ (R351, R352), instance fence messages, leases
(R353, R354), the supervisor watchdog and restart, and the loss of a logic die (R356).
-/

namespace Sys2Proof.Machine

/-! ### Requests -/

/-- How many units of a kind FENCE.FREQ names on a logic die (R314; kind 0x30, log entry 13). -/
def freqCount (kind : Nat) : Nat :=
  if kind = U.lane ∨ kind = U.crc ∨ kind = U.scan then 8 else if kind = U.sv ∨ kind = U.engine then 1
  else if kind = U.port then 2 else if kind = U.ltimer then 32 else if kind = U.link then 7 else 0

/-- How many units of a kind FSYS.FFREQ names on a field die (R351). -/
def ffreqCount (kind : Nat) : Nat :=
  if kind = U.term then 64 else if kind = U.cell then 144 else if kind = U.ftimer then 80
  else if kind = U.field then 1 else 0

/-- Whether FENCE.FREQ of die `ld` names a unit, or an instance whose P entry the die carries (R351). -/
def State.freqNames (s : State) (ld kind idx : Nat) : Bool :=
  if kind = U.inst then (match s.recOf idx with
    | some r => decide (s.dieOf r = ld)
    | none => false)
  else decide (idx < freqCount kind) && (decide (kind ≠ U.link) || s.hasDie (if idx = 6 then 1 - ld else idx + 2))

/-- Fence the P entry of an instance (R351); the message to the field die follows as FENCE_MESSAGE. -/
def State.fenceP (s : State) (ld iid reason : Nat) : State :=
  s.on (!s.instFencedP iid) fun s => (s.logFence ld U.inst iid reason).fenceOn U.inst 0 iid reason

/-- Fence a unit of a logic die that is not an instance. -/
def State.fenceLogicUnit (s : State) (ld kind idx reason : Nat) : State :=
  if kind = U.lane then s.fenceLane ld idx reason
  else if kind = U.sv then s.fenceSv ld reason
  else if kind = U.engine then s.fenceEngine ld reason
  else if kind = U.port then s.fencePort ld idx reason
  else if kind = U.crc then s.on (!s.fenced kind ld idx) fun s => (s.raise kind ld idx reason).revokeUnit ld idx
  else if kind = U.scan then
    s.on (!s.fenced kind ld idx) fun s => ((s.raise kind ld idx reason).revokeUnit ld (idx + 8)).revoke ld (0x0C + idx) true
  else if kind = U.ltimer then s.fenceTimer ld idx reason
  else s.fenceLink ld idx reason

/-- Fence a unit of a field die. -/
def State.fenceFieldUnit (s : State) (fd kind idx reason : Nat) : State :=
  if kind = U.term then s.fenceTerm fd idx reason
  else if kind = U.cell then s.fenceCell fd idx reason
  else if kind = U.ftimer then s.fenceTimer (fdie fd) idx reason
  else s.fenceField fd reason

/-- Whether the condition of a clear holds for a unit of a logic die (R352). A supervisor clears by its restart, a retired
lane never (R415). CRC units,
scan engines and logic timers have no condition (log entry 17). -/
def State.clearLogicOk (s : State) (ld kind idx : Nat) : Bool :=
  if kind = U.lane then s.laneClearOk ld idx && !s.retired ld idx
  else if kind = U.sv then false
  else if kind = U.link then s.linkClearOk ld idx
  else if kind = U.inst then s.instClearOk idx
  else s.fenced kind ld idx

/-- Clear the fence of a unit of a logic die. A port's conditions of admission and its page are judged anew (R206, R207). -/
def State.clearLogicUnit (s : State) (ld kind idx : Nat) : State :=
  if kind = U.lane then s.clearLane ld idx
  else if kind = U.engine then ((s.clearEngine ld).admitPort ld 0).admitPort ld 1
  else if kind = U.port then (s.clearPort ld idx).admitPort ld idx
  else if kind = U.link then s.clearLink ld idx
  else s.unfence kind ld idx

/-- A clear of an instance on channel P: re-admission at the next edge; the message to the field die follows. -/
def State.clearP (s : State) (iid : Nat) : State :=
  let p := s.fence U.inst 0 iid
  s.on p.on fun s => s.setFence U.inst 0 iid { p with readmit := s.tick + 1 }

/-- FENCE.FREQ with OP and its unit, as the register then reads. -/
def State.putFreq (s : State) (ld kind idx op : Nat) : State :=
  ((s.put F.FENCE_FREQ_KIND ld 0 kind).put F.FENCE_FREQ_INDEX ld 0 idx).put F.FENCE_FREQ_OP ld 0 op

def State.putFfreq (s : State) (fd kind idx op : Nat) : State :=
  ((s.put F.FSYS_FFREQ_KIND (fdie fd) 0 kind).put F.FSYS_FFREQ_INDEX (fdie fd) 0 idx).put F.FSYS_FFREQ_OP (fdie fd) 0 op

/-- FENCE.FREQ with GO and OP 0. -/
def State.freqFence (s : State) (ld kind idx : Nat) : State :=
  let s1 := s.putFreq ld kind idx 0
  if kind = U.inst then s1.fenceP ld idx 1 else s1.fenceLogicUnit ld kind idx 1

/-- FENCE.FREQ with GO and OP 1; where the condition does not hold, no fence ends. -/
def State.freqClear (s : State) (ld kind idx : Nat) : State :=
  let s1 := s.putFreq ld kind idx 1
  s1.on (s1.clearLogicOk ld kind idx) fun s =>
    if kind = U.inst then s.clearP idx else s.clearLogicUnit ld kind idx

/-- FSYS.FFREQ with GO and OP 0. -/
def State.ffreqFence (s : State) (fd kind idx : Nat) : State := (s.putFfreq fd kind idx 0).fenceFieldUnit fd kind idx 1

/-- FSYS.FFREQ with GO and OP 1, of an H-cell or a field timer. -/
def State.ffreqClear (s : State) (fd kind idx : Nat) : State :=
  let s1 := s.putFfreq fd kind idx 1
  if kind = U.cell then s1.clearCell fd idx
  else (s1.unfence kind (fdie fd) idx).on (decide (kind = U.ftimer)) fun s => s.engineRetake fd idx

/-- The meaning of FREQ_FENCE: the die's supervisor, or a lane runtime for its own lane (R34, R490). -/
def execFreqFence (m : Master) (ld kind idx : Nat) (s : State) : Answer :=
  s.answer (s.hasLd ld) true
    (s.asWrite .FENCE_FREQ ld 0 m (m.isSvOf ld || m.isLane ld kind idx) (s.freqNames ld kind idx) fun s => s.freqFence ld kind idx)

/-- The meaning of FREQ_CLEAR. -/
def execFreqClear (m : Master) (ld kind idx : Nat) (s : State) : Answer :=
  s.answer (s.hasLd ld) true
    (s.asWrite .FENCE_FREQ ld 0 m (m.isSvOf ld) (s.freqNames ld kind idx) fun s => s.freqClear ld kind idx)

/-- The meaning of FFREQ_FENCE. -/
def execFfreqFence (m : Master) (fd kind idx : Nat) (s : State) : Answer :=
  s.answer (s.hasFd fd) true
    (s.asWrite .FSYS_FFREQ (fdie fd) 0 m m.isSv (decide (idx < ffreqCount kind)) fun s => s.ffreqFence fd kind idx)

/-- The meaning of FFREQ_CLEAR: kinds 0x10 and 0x13 are refused (R351). -/
def execFfreqClear (m : Master) (fd kind idx : Nat) (s : State) : Answer :=
  s.answer (s.hasFd fd) true
    (s.asWrite .FSYS_FFREQ (fdie fd) 0 m m.isSv
      (decide (idx < ffreqCount kind) && decide (kind ≠ U.term) && decide (kind ≠ U.field))
      fun s => s.ffreqClear fd kind idx)

/-- Whether a fence or clear message for an instance is under way to its field die (R351): channel P holds the fence, or
its re-admission, and channel H does not yet; the bridge link of its two dies carries it (R348). -/
def State.messageDue (s : State) (r : InstRec) (clear : Bool) : Bool :=
  let p := s.fence U.inst 0 r.iid
  let h := s.fence U.inst 1 r.iid
  (if clear then p.on && h.on && decide (p.readmit ≠ h.readmit) else p.on && !h.on) && !s.fenced U.link (s.dieOf r) r.fdie

/-- The field die acts on the message in the cycle it arrives (R348, R351). -/
def State.fenceMessage (s : State) (iid : Nat) (clear : Bool) : State :=
  let p := s.fence U.inst 0 iid
  let h := s.fence U.inst 1 iid
  if clear then s.setFence U.inst 1 iid { h with readmit := p.readmit } else s.fenceOn U.inst 1 iid p.reason

/-- The meaning of FENCE_MESSAGE. -/
def execFenceMessage (fd iid : Nat) (clear : Bool) (s : State) : Answer :=
  s.answer (s.hasFd fd) (s.image.img.insts.any fun r => r.iid == iid && r.fdie == fd && s.messageDue r clear)
    (s.fenceMessage iid clear)

/-! ### Leases (R353, R354) -/

/-- Whether the master of a code on die `ld` is fenced. -/
def State.codeFenced (s : State) (ld code : Nat) : Bool :=
  if code = 0 then true
  else if code ≤ 8 then s.fenced U.lane ld (code - 1)
  else if code = 9 then s.fenced U.sv ld 0
  else if code ≤ 0x0B then s.fenced U.port ld (code - 0x0A)
  else if code ≤ 0x13 then s.fenced U.scan ld (code - 0x0C)
  else s.fenced U.logic ld 0

/-- A claim (R354). -/
def State.claim (s : State) (ld n code : Nat) : State :=
  if s.get F.FENCE_LEASE_OWNER ld n = 0 && !s.codeFenced ld code then
    s.put F.FENCE_LEASE_OWNER ld n code
  else s.put F.FENCE_LEASE_DENIED ld n 1

/-- A release: the owner returns the unit to idle, any other master is ignored (R354). A release in mid-scan aborts it
(R355). -/
def State.release (s : State) (ld n code : Nat) : State :=
  s.on (s.get F.FENCE_LEASE_OWNER ld n == code && decide (code ≠ 0)) fun s => s.revokeUnit ld n

/-- The meaning of LEASE_CLAIM: any master of the die (R490). -/
def execLeaseClaim (m : Master) (ld n : Nat) (s : State) : Answer :=
  s.answer (s.hasLd ld && decide (n < 16)) true
    (s.asWrite .FENCE_LEASE ld n m (decide (m.die = ld)) true fun s => s.claim ld n m.code)

/-- The meaning of LEASE_RELEASE. -/
def execLeaseRelease (m : Master) (ld n : Nat) (s : State) : Answer :=
  s.answer (s.hasLd ld && decide (n < 16)) true
    (s.asWrite .FENCE_LEASE ld n m (decide (m.die = ld)) true fun s => s.release ld n m.code)

/-! ### The supervisor watchdog and restart (R352, R356) -/

/-- The meaning of WATCHDOG_KICK. -/
def execWatchdogKick (m : Master) (ld : Nat) (s : State) : Answer :=
  s.answer (s.hasLd ld) true
    (s.asWrite .FENCE_SVKICK ld 0 m (m.isSvOf ld) true fun s =>
      s.on (!s.fenced U.sv ld 0) fun s => s.put F.FENCE_SVKICK_WDREM ld 0 10)

/-- The meaning of WATCHDOG_EXPIRY: the watchdog pauses while the supervisor is halted (R425), and a restart holds it. -/
def execWatchdogExpiry (ld : Nat) (s : State) : Answer :=
  let v := s.svst ld
  s.answer (s.hasLd ld) (!v.halted && !v.restarting && !s.fenced U.sv ld 0) (s.fenceSv ld 0x0B)

/-- A supervisor restart completes: its firmware is loaded, its fence clears, its watchdog starts, its leases return and it
is in service (R352, R284, R409, R441). -/
def State.svRestarted (s : State) (ld : Nat) : State :=
  let s1 := s.loadFw ld
  ((((s1.setSv ld { s1.svst ld with restarting := false }).unfence U.sv ld 0).put F.FENCE_SVKICK_WDREM ld 0 10).put
    F.LBIST_REC_VALID ld 8 0).moveLeases

/-- The meaning of SUPERVISOR_RESTART_DONE. -/
def execSupervisorRestartDone (ld : Nat) (s : State) : Answer :=
  s.answer (s.hasLd ld) ((s.svst ld).restarting && !(s.svst ld).dead && !s.fenced U.logic ld 0 && s.get F.LBIST_STAT_STATE ld 8 == 0) (s.svRestarted ld)

/-! ### Loss of a logic die (R356, R366) -/

/-- The part takes the safe state of R356: every output off. -/
def State.takeSafe (s : State) : State :=
  let s1 : State := { s with part := { s.part with safe := true } }
  s1.each s1.fds fun s fd => s.termsOff fd

/-- The other die fences the lost one; with no other running die the part takes the safe state (R356). -/
def State.loseLogicDie (s : State) (ld : Nat) : State :=
  if s.hasLd (1 - ld) && !s.fenced U.logic (1 - ld) 0 && decide (s.variant.logics = 2) then s.fenceLogic ld 0x24
  else s.takeSafe

/-- The meaning of LOGIC_DIE_LOST. -/
def execLogicDieLost (ld : Nat) (s : State) : Answer := s.answer (s.hasLd ld) true (s.loseLogicDie ld)

end Sys2Proof.Machine
end

