-- ==== Sys2Proof/Machine/Turn.lean ====
section
/-!
DEFINITION. The windows of a turn, the turn edge, beacons, start-up states and link delay of a ring engine (R232 to R235, R237 to
R256, R259).
Times are in units of 2⁻¹⁶ ns; the arrival of a beacon counts from the node's own edge of the turn in progress.
-/

namespace Sys2Proof.Machine

/-- The turn period T. -/
def State.turnT (s : State) (ld : Nat) : Nat := periodUs (s.get F.RNG_TURNCFG_PERIOD ld 0) * 65536000

/-- The tolerance A = 3 µs (R238). -/
abbrev tolA : Nat := 3 * 65536000

/-- HOLDMAX = ceil(100 ms ÷ T) turns (R244). -/
def State.holdMax (s : State) (ld : Nat) : Nat :=
  let us := periodUs (s.get F.RNG_TURNCFG_PERIOD ld 0)
  (100000 + us - 1) / us

/-- TKOVR(r) (R244). -/
def State.tkovr (s : State) (ld : Nat) : Nat := (s.holdMax ld * (s.get F.RNG_TURNCFG_RANK ld 0 + 1) + 4) / 5

/-- Headgate-begins, in which alone ring 1 runs, and whether this node takes its time from the tick (R253). -/
def State.hgBegins (s : State) (ld : Nat) : Bool := decide (ld = 1) || s.flag F.RNG_TURNCFG_MODE ld 0
def State.r1src (s : State) (ld : Nat) : Bool := decide (ld = 1) && s.flag F.RNG_TURNCFG_R1SRC ld 0

/-- Whether a port of the node is admitted with a valid delay (R240, R247). -/
def State.delayValid (s : State) (ld p : Nat) : Bool := s.admitted ld p && s.flag F.RNG_LDELAY_VALID ld p
def State.anyDelay (s : State) (ld : Nat) : Bool := s.delayValid ld 0 || s.delayValid ld 1

/-- The measured delay of a port in units of 2⁻¹⁶ ns. -/
def State.delayOf (s : State) (ld p : Nat) : Nat := s.get F.RNG_LDELAY_DELAY ld p * 2 ^ 14

/-! ### Windows (R232 to R235, R238) -/

/-- The window of a class in TX cycles of 8 ns from the edge: that of the beacon, or as SLSERV or SLFURR gives its edges in
thousandths of T (R232, R233, R235). -/
def State.window (s : State) (ld cls : Nat) : Nat × Nat :=
  let at_ (q : Nat) : Nat := q * periodUs (s.get F.RNG_TURNCFG_PERIOD ld 0) / 8
  if cls = 2 then (0, 250)
  else if cls = 0x10 then (at_ (s.get F.RNG_SLSERV_START ld 0), at_ (s.get F.RNG_SLSERV_END ld 0))
  else (at_ (s.get F.RNG_SLFURR_START ld 0), at_ (s.get F.RNG_SLFURR_END ld 0))

/-- Whether a frame of `n` bytes that starts at cycle `pos` can end before its window closes, its preamble and four
preemptions of 0.864 µs counted (R233). -/
def State.fits (s : State) (ld cls pos n : Nat) : Bool :=
  decide ((s.window ld cls).1 ≤ pos) && decide (pos + 8 + n + 4 * 108 ≤ (s.window ld cls).2)

/-- Whether a frame lies in the acceptance window of its class on a port: its timing point from start + d - A, its last byte by
end + d + A, both inclusive (R238). -/
def State.inWindow (s : State) (ld p cls : Nat) (a : Arrival) : Bool :=
  let d : Int := s.delayOf ld p
  let w := s.window ld cls
  decide (((w.1 * 8 * 65536 : Nat) : Int) + d - tolA ≤ a.t) && decide (a.t ≤ ((w.2 * 8 * 65536 : Nat) : Int) + d + tolA) &&
    decide (a.last ≤ ((w.2 * 8 * 65536 : Nat) : Int) + d + tolA)

/-! ### Changes of state (R247) -/

/-- TICK.TSTAT.HOLDOVER follows ring 0's engine, and ring 1's on L1 (R244). -/
def State.setHoldover (s : State) (ld : Nat) (b : Bool) : State := s.putB F.TICK_TSTAT_HOLDOVER ld 0 b

/-- Every transmission stops (R248). In Run the turn timer then holds over (R191). -/
def State.stopSending (s : State) (ld : Nat) : State :=
  let s1 := ((s.put F.RNG_THG_SELF ld 0 0).put F.RNG_TSYNC_BHOPS ld 0 0x1FFF).setRing ld
    { s.ring ld with cand := none, first := none, good := 0, sends := false, hold := false, badTheta := 0, badNow := false }
  s1.on s1.inRun fun s => s.setHoldover ld true

/-- QUIET begins (R245, R247): the turn timer's LOCKED clears (R242) and both transmitters are held. -/
def State.enterQuiet (s : State) (ld : Nat) : State :=
  (((s.setSync ld syncQuiet).stopSending ld).count F.RNG_TCNT_QUIETS ld 0).put F.TICK_TSTAT_LOCKED ld 0 0

/-! ### What an edge does to a port -/

/-- What ends with the turn of one port: its counters and entries, and a run of truncations without one (R217, R236, R245). A frame
belongs to the turn in which its command stands: near an edge, where its window can reach over it, the spec names no turn (DESIGN
CHOICE, log entry 183). -/
def State.turnPort (s : State) (ld p : Nat) : State :=
  let x := s.port ld p
  let s1 := s.setPort ld p
    { x with rxNow := [], accNow := [], accLast := x.accNow, sentNow := 0, sentKeys := [], trunc := false, furSent := false,
             filled := false, slotTick := 0 }
  s1.on (!x.trunc) fun s => s.put F.RNG_TXSTAT_TRUNCRUN ld p 0

/-- EMPTY.STALE and the wrap state of a port for the turn that begins (R239, R256, R259). A fenced port's registers stay at
their safe values. -/
def State.wrapPort (s : State) (ld p : Nat) : State :=
  let cause := if s.admitted ld p = false then 1 else if s.staleP ld ld p then 2 else 0
  s.on (!s.fenced U.port ld p) fun s =>
    let s0 := s.putB F.RNG_EMPTY_STALE ld p (s.staleP ld ld p)
    if cause ≠ 0 then
      let s1 := s0.on (!s.inWrap ld p) fun s => (s.count F.RNG_WRAP_WRAPS ld p).put F.RNG_WRAP_OKRUN ld p 0
      (s1.put F.RNG_WRAP_WRAP ld p 1).put F.RNG_WRAP_WCAUSE ld p cause
    else s0.on (s.inWrap ld p && decide (8 ≤ s.get F.RNG_WRAP_OKRUN ld p)) fun s =>
      ((s.put F.RNG_WRAP_WRAP ld p 0).put F.RNG_WRAP_WCAUSE ld p 0).put F.RNG_WRAP_OKRUN ld p 0

/-- Both ports at an edge. -/
def State.portEdges (s : State) (ld : Nat) : State := s.each [0, 1] fun s p => (s.turnPort ld p).wrapPort ld p

/-! ### A headgate begins -/

/-- In Run, where ring 0 gives the tick, the tick number is its turn number, whatever moves that (R188). -/
def State.tickFollows (s : State) (ld n : Nat) : State :=
  if ld = 0 ∧ s.inRun = true ∧ s.get F.TICK_TSTAT_SRCNOW 0 0 = 0 then { s with tick := n } else s

/-- The node begins as headgate at turn `n`: the primary of ring 1 with RANK 0 whatever TURNCFG.RANK reads (R247, R253). -/
def State.begin (s : State) (ld n : Nat) : State :=
  let s1 := (s.setSync ld syncHeadgate).put F.RNG_THG_HGID ld 0 (s.node ld)
  let s2 := s1.put F.RNG_THG_HGRANK ld 0 (if s.hgBegins ld && !s.r1src ld then s.get F.RNG_TURNCFG_RANK ld 0 else 0)
  let s3 := ((s2.put F.RNG_THG_SELF ld 0 1).put F.RNG_TSYNC_BHOPS ld 0 0).put F.RNG_TCNT_HOLDT ld 0 0
  ((s3.setHoldover ld false).setRing ld
    { s.ring ld with turn := n, cand := none, first := none, good := 0, sends := true, hold := false }).tickFollows ld n

/-- The turn at which a starting headgate begins: 0, or the tick number on the primary of ring 1 (R253). -/
def State.startTurn (s : State) (ld : Nat) : Nat := if s.r1src ld then s.tick else 0

/-- The designated primary begins as soon as a port has a valid delay (R247, R252). -/
def State.primary (s : State) (ld : Nat) : Bool :=
  decide (s.sync ld = syncListen) && s.hgBegins ld && s.anyDelay ld && s.ringOn ld &&
    ((s.flag F.RNG_TURNCFG_HGEN ld 0 && decide (s.get F.RNG_TURNCFG_RANK ld 0 = 0)) || s.r1src ld)

/-- The turn timer steps to a beacon: its turn, its headgate, BHOPS one higher; frames of the windowed classes follow from the
next edge, and all frames after QUIET (R247, R249, R250). Ring 0's step in Run moves the tick number with it where the ring gives the tick (R188). -/
def State.stepTurn (s : State) (ld p : Nat) (b : BeaconFrame) : State :=
  let s1 := (s.setSync ld syncTrack).put F.RNG_THG_HGID ld 0 b.hgId
  let s2 := (s1.put F.RNG_THG_HGRANK ld 0 b.hgRank).put F.RNG_TSYNC_BHOPS ld 0 (b.bhops + 1)
  let s3 := ((s2.put F.RNG_TSYNC_FPORT ld 0 p).put F.RNG_TCNT_HOLDT ld 0 0).put F.RNG_TSYNC_TMIS ld 0 0
  let s4 := s3.each [0, 1] fun s q => s.put F.RNG_TXSTAT_TRUNCRUN ld q 0
  ((s4.setHoldover ld false).setRing ld
    { s.ring ld with turn := b.turn, cand := some (b.bhops, p, 0), first := none, badTheta := 0, badNow := false, good := 0,
                     sends := false, hold := decide (s.sync ld = syncQuiet) }).tickFollows ld b.turn

/-! ### Beacons (R241, R246, R250, R251) -/

/-- A headgate is better than another: a lower rank, then a lower ID. -/
def better (a b : Nat × Nat) : Bool := decide (a.1 < b.1) || (decide (a.1 = b.1) && decide (a.2 < b.2))

/-- The headgate that the node follows. -/
def State.followed (s : State) (ld : Nat) : Nat × Nat := (s.get F.RNG_THG_HGRANK ld 0, s.get F.RNG_THG_HGID ld 0)

/-- Whether a beacon carries the node's own PER, start mode and CFGHASH (R241). -/
def State.ownKind (s : State) (ld : Nat) (b : BeaconFrame) : Bool :=
  decide (b.per = s.get F.RNG_TURNCFG_PERIOD ld 0) && decide (b.mode = (s.hgBegins ld).toNat) &&
    decide (b.cfgHash = s.get F.RNG_CFGHASH_HASH ld 0)

/-- The beacon acceptance window on a port: the last of SFD and 64 bytes ends 520 ns after the timing point (R220, R238). -/
def State.inBeaconWindow (s : State) (ld p : Nat) (t : Int) : Bool := s.inWindow ld p 2 ⟨t, t + 520 * 65536⟩

/-- The arrival of a beacon on the node's own time scale, for the T ± A of R250. -/
def State.absTime (s : State) (ld : Nat) (t : Int) : Int := ((s.ring ld).turn * s.turnT ld : Nat) + t

/-- Remember a beacon as the first of a full valid turn. -/
def State.keepFirst (s : State) (ld p : Nat) (b : BeaconFrame) (t : Int) : State :=
  s.setRing ld { s.ring ld with first := some (p, b.hgRank, b.hgId, b.turn, s.absTime ld t) }

/-- Whether a step from QUIET may be taken: in Run by at most 1 % of T and only to the tick number; once withheld, not before
the next start of Run (R251). -/
def State.mayStep (s : State) (ld : Nat) (b : BeaconFrame) (theta : Int) : Bool :=
  !s.inRun ||
    (!s.flag F.RNG_TSYNC_TMIS ld 0 && decide (theta.natAbs * 100 ≤ s.turnT ld) && decide (b.turn = s.tick))

/-- A full valid turn is complete: JOINING steps, QUIET steps where R251 allows it. -/
def State.fullTurn (s : State) (ld p : Nat) (b : BeaconFrame) (theta : Int) : State :=
  if s.sync ld = syncJoining ∨ s.mayStep ld b theta = true then s.stepTurn ld p b
  else (s.put F.RNG_TSYNC_TMIS ld 0 1).setRing ld { s.ring ld with first := none }

/-- A beacon in JOINING or QUIET, on a port with a valid delay (R247, R250). A first beacon that can no longer be completed
gives way to any other; before that, only to a better headgate's. -/
def State.joinBeacon (s : State) (ld p : Nat) (b : BeaconFrame) (t : Int) : State :=
  let T := s.turnT ld
  match (s.ring ld).first with
  | none => s.keepFirst ld p b t
  | some (q, r, h, n, a) =>
    let dt := s.absTime ld t - a
    if better (b.hgRank, b.hgId) (r, h) then s.keepFirst ld p b t
    else if (b.hgRank, b.hgId) = (r, h) ∧ p = q ∧ b.turn = n + 1 ∧ (T : Int) - tolA ≤ dt ∧ dt ≤ T + tolA then
      s.fullTurn ld p b (t - b.corr)
    else if (T : Int) + tolA < dt ∨ ((b.hgRank, b.hgId) = (r, h) ∧ p = q) then s.keepFirst ld p b t
    else s

/-- A beacon in JOINING or QUIET on a port without a valid delay: a better headgate's ends the full valid turn begun (R250). -/
def State.voidFirst (s : State) (ld : Nat) (b : BeaconFrame) : State :=
  match (s.ring ld).first with
  | some (_, r, h, _, _) => s.on (better (b.hgRank, b.hgId) (r, h)) fun s => s.setRing ld { s.ring ld with first := none }
  | none => s

/-- A beacon of the followed headgate that meets the conditions of its row is a candidate; the lowest BHOPS counts, then
port A (R241). -/
def State.candidate (s : State) (ld p : Nat) (b : BeaconFrame) (theta : Int) : State :=
  let x := s.ring ld
  let wins := match x.cand with
    | none => true
    | some (h, q, _) => decide (b.bhops < h) || (decide (b.bhops = h) && decide (p < q))
  let s1 := s.on (decide (s.sync ld = syncHoldover)) fun s => (s.setSync ld syncTrack).setHoldover ld false
  let q : Int := theta / 2 ^ 14
  let sat : Int := max (-2 ^ 31) (min q (2 ^ 31 - 1))
  s1.on wins fun s =>
    ((s.setRing ld { x with cand := some (b.bhops, p, theta) }).put F.RNG_TSYNC_FPORT ld 0 p).put F.RNG_TOFFS_THETA ld 0
      ((sat % 2 ^ 32).toNat)

/-- A beacon of the followed headgate that fails the test of θ: the fourth turn in a row sends TRACK to QUIET (R246). -/
def State.badBeacon (s : State) (ld : Nat) : State :=
  let x := s.ring ld
  s.on (!x.badNow) fun s =>
    (s.setRing ld { x with badNow := true, badTheta := x.badTheta + 1 }).on
      (decide (4 ≤ x.badTheta + 1) && decide (s.sync ld = syncTrack)) fun s => s.enterQuiet ld

/-- A beacon in TRACK or HOLDOVER (R241, R244). A node that rejoins has sent no beacon in its new stay, so its own BHOPS counts as
infinite up to its first edge, whatever it sent in an earlier stay (DESIGN CHOICE, log entry 184). -/
def State.trackBeacon (s : State) (ld p : Nat) (b : BeaconFrame) (t : Int) : State :=
  let theta := t - b.corr
  let f := s.followed ld
  let own := if (s.ring ld).sends then s.get F.RNG_TSYNC_BHOPS ld 0 else 0x1FFF
  let late := decide (s.sync ld = syncHoldover) && decide (4 ≤ s.get F.RNG_TCNT_HOLDT ld 0)
  if better (b.hgRank, b.hgId) f then
    (s.enterQuiet ld).on (s.delayValid ld p) fun s => s.keepFirst ld p b t
  else if better f (b.hgRank, b.hgId) then s.count F.RNG_TCNT_BEACREJ ld 0
  else if own ≤ b.bhops ∧ late = false then s
  else if b.turn = (s.ring ld).turn ∧ theta.natAbs ≤ tolA then
    s.on (s.delayValid ld p && s.inBeaconWindow ld p t) fun s => s.candidate ld p b theta
  else s.badBeacon ld

/-- A beacon at a headgate (R241, R247): its own ignored, a better one obeyed, a worse one counted. -/
def State.headBeacon (s : State) (ld p : Nat) (b : BeaconFrame) (t : Int) : State :=
  if b.hgId = s.node ld then s
  else if better (b.hgRank, b.hgId) (s.followed ld) then
    let s1 := (s.stopSending ld).setSync ld syncJoining
    s1.on (s.delayValid ld p) fun s => s.keepFirst ld p b t
  else s.count F.RNG_TCNT_BEACREJ ld 0

/-- A beacon in LISTEN, on a port with a valid delay (R247). -/
def State.listenBeacon (s : State) (ld p : Nat) (b : BeaconFrame) (t : Int) : State :=
  if s.hgBegins ld then s.stepTurn ld p b
  else (s.setSync ld syncJoining).keepFirst ld p b t

/-- An admitted port receives a beacon. Outside its window it is counted (R238); the start-up states take it by R241 and R247
all the same. The primary of ring 1 follows none (R253). -/
def State.beacon (s : State) (ld p : Nat) (b : BeaconFrame) (t : Int) : State :=
  if s.filtered ld p 2 b.hdr then s.countFilter ld p b.hdr
  else
    let s1 := s.on (s.joined ld && !s.inBeaconWindow ld p t) fun s => s.count F.RNG_TXSTAT_ACCREJ ld p
    if s.ownKind ld b = false ∨ s.r1src ld = true then s1
    else
      let st := s.sync ld
      if st = syncListen then s1.on (s.delayValid ld p) fun s => s.listenBeacon ld p b t
      else if st = syncJoining ∨ st = syncQuiet then
        if s.delayValid ld p then s1.joinBeacon ld p b t else s1.voidFirst ld b
      else if st = syncHeadgate then s1.headBeacon ld p b t
      else if st = syncTrack ∨ st = syncHoldover then s1.trackBeacon ld p b t
      else s1

/-- The meaning of BEACON_RECEIVED: a port that is not admitted accepts none (R207). -/
def execBeaconReceived (ld p : Nat) (b : BeaconFrame) (tArr : Int) (s : State) : Answer :=
  s.answer (s.hasLd ld && decide (p < 2)) true
    (s.on (s.admitted ld p && s.ringOn ld) fun s => s.beacon ld p b tArr)

/-! ### The turn edge -/

/-- The largest magnitude of `rate`: 100 ppm of 64 T (R242). -/
def State.rateMax (s : State) (ld : Nat) : Int := (64 * s.turnT ld / 10000 : Nat)

/-- The end of a turn: after a followed beacon the correction of R242, else one more turn without, from TRACK HOLDOVER
(R244, R254). -/
def State.endTurn (s : State) (ld : Nat) : State :=
  let x := s.ring ld
  match x.cand with
  | some (h, p, th) =>
    let m := s.rateMax ld
    let s1 := ((s.put F.RNG_TSYNC_BHOPS ld 0 (h + 1)).put F.RNG_TSYNC_FPORT ld 0 p).put F.RNG_TCNT_HOLDT ld 0 0
    s1.setRing ld { x with phase := th / 4, rate := max (-m) (min m (x.rate + th)),
                           good := if th.natAbs ≤ 250 * 65536 then min 16 (x.good + 1) else 0 }
  | none =>
    let s1 := (s.count F.RNG_TCNT_HOLDT ld 0).setRing ld
      { x with good := if s.sync ld = syncHeadgate then min 16 (x.good + 1) else 0, phase := 0 }
    s1.on (decide (s.sync ld = syncTrack)) fun s => (s.setSync ld syncHoldover).setHoldover ld true

/-- NSTAT (R219). -/
def State.nstat (s : State) : Nat :=
  packBits [(0, 16), (min 255 (s.dies.map s.nFenced).sum, 8), (0, 5),
    ((s.get F.SYSCTL_SEAL_APAIR 0 0 == 2 && s.get F.SYSCTL_SEAL_BPAIR 0 0 == 2).toNat, 1),
    ((decide (s.fltSrc ≠ 0)).toNat, 1), (s.safeLow.toNat, 1)]

/-- The answer to a diagnostics request (R269). -/
def State.diagBytes (s : State) (ld : Nat) : List Byte :=
  [s.nstat, s.word .SYSCTL_DEVID ld 0, s.word .RNG_EMPTY ld 0, s.word .RNG_EMPTY ld 1, s.word .RNG_TXSTAT ld 0,
    s.word .RNG_TXSTAT ld 1, s.word .RNG_WRAP ld 0, s.word .RNG_WRAP ld 1].flatMap (msbBytes 4)

/-- The body of the beacon that a port sends, its timing point `r` after the edge: CORR is that time and the link delay
(R220, R237). -/
def State.beaconBody (s : State) (ld p r : Nat) : List Byte :=
  msbBytes 6 (s.ring ld).turn ++ msbBytes 2 (s.get F.RNG_THG_HGID ld 0 + 2 ^ 13 * s.get F.RNG_THG_HGRANK ld 0) ++
    msbBytes 1 (s.get F.RNG_TURNCFG_PERIOD ld 0) ++ msbBytes 1 (s.hgBegins ld).toNat ++ msbBytes 2 (s.get F.RNG_TSYNC_BHOPS ld 0) ++
    msbBytes 4 (s.get F.RNG_CFGHASH_HASH ld 0) ++ msbBytes 8 (r + s.delayOf ld p)

/-- Whether a beacon leaves a port at this edge: an admitted one of a node in TRACK or HEADGATE, at a headgate only one with a
valid delay (R237, R247). -/
def State.beacons (s : State) (ld p : Nat) : Bool :=
  s.maySend ld p && decide (s.sync ld ≠ syncHoldover) && (decide (s.sync ld = syncTrack) || s.delayValid ld p)

/-- The beacons of an edge, with their timing points on ports A and B. A beacon is too short to be preempted, so only its own
520 ns count towards the end of its window (R233, R237; DEDUCED). -/
def State.sendBeacons (s : State) (ld ra rb : Nat) : State :=
  s.each [(0, ra), (1, rb)] fun s x =>
    s.on (s.beacons ld x.1 && decide (x.2 + 520 * 65536 ≤ 2000 * 65536)) fun s =>
      s.emit ld x.1 (withFcs true (s.frameOf ld x.1 2 (s.beaconBody ld x.1 x.2)))

/-- A headgate that begins outside an edge: the instant becomes its edge, whose fields a diagnostics response takes, and its beacons
leave (R237, R247, R269). The primary of
ring 1 waits for its next tick edge (R253). -/
def State.beginNow (s : State) (ld ra rb : Nat) : State :=
  let s1 := (s.begin ld (s.startTurn ld)).portEdges ld
  (s1.setRing ld { s1.ring ld with diag := s1.diagBytes ld }).on (!s.r1src ld) fun s => s.sendBeacons ld ra rb

/-- A turn edge: `ra` and `rb` are the timing points of its beacons, `skew` its distance from the tick edge on ring 1. Held
marks follow the beacons (R236, R237). -/
def State.turnEdge (s : State) (ld ra rb : Nat) (skew : Int) : State :=
  let s1 := s.endTurn ld
  let x := s1.ring ld
  let own := s.r1src ld && s.inRun
  let s2 := s1.setRing ld
    { x with turn := if own then s.tick else (x.turn + 1) % tickMod, cand := none, badNow := false,
             badTheta := if x.badNow then x.badTheta else 0, sends := x.sends || s1.joined ld, hold := false,
             skew := if own then 0 else skew }
  let s3 := s2.portEdges ld
  let s4 := s3.on (s3.primary ld) fun s => s.begin ld (s.startTurn ld)
  let s5 := s4.setRing ld { s4.ring ld with diag := s4.diagBytes ld }
  (s5.sendBeacons ld ra rb).each [0, 1] fun s p => s.sendHeld ld p

/-- The meaning of TURN_EDGE. -/
def execTurnEdge (e : TurnStart) (s : State) : Answer :=
  s.answer (s.hasLd e.ld) (s.ringOn e.ld) (s.sending.turnEdge e.ld e.out.ra e.out.rb e.skew)

/-- The meaning of TICK_LOCK (R242). -/
def execTickLock (ld : Nat) (s : State) : Answer :=
  s.answer (s.hasLd ld)
    ((decide (s.sync ld = syncTrack) || decide (s.sync ld = syncHeadgate)) && decide (16 ≤ (s.ring ld).good))
    (s.put F.TICK_TSTAT_LOCKED ld 0 1)

/-- The meaning of HOLDOVER_TIMEOUT (R244). -/
def execHoldoverTimeout (ld : Nat) (s : State) : Answer :=
  s.answer (s.hasLd ld) (decide (s.sync ld = syncHoldover) && decide (s.holdMax ld ≤ s.get F.RNG_TCNT_HOLDT ld 0))
    (s.enterQuiet ld)

/-- The meaning of HEADGATE_TAKEOVER (R244, R247): the turn count goes on. -/
def execHeadgateTakeover (ld : Nat) (s : State) : Answer :=
  s.answer (s.hasLd ld)
    (decide (s.sync ld = syncHoldover) && s.hgBegins ld && s.flag F.RNG_TURNCFG_HGEN ld 0 &&
      decide (1 ≤ s.get F.RNG_TURNCFG_RANK ld 0) && decide (s.tkovr ld ≤ s.get F.RNG_TCNT_HOLDT ld 0) && s.anyDelay ld)
    (s.begin ld (s.ring ld).turn)

/-- The meaning of LISTEN_TIMEOUT (R247, R252): in listen-join every node, in headgate-begins one with HGEN. Its edge of turn 0
is now, and its beacons leave. -/
def execListenTimeout (e : ListenEnd) (s : State) : Answer :=
  let ld := e.ld
  s.answer (s.hasLd ld)
    (decide (s.sync ld = syncListen) && s.anyDelay ld && s.ringOn ld &&
      (!s.hgBegins ld || s.flag F.RNG_TURNCFG_HGEN ld 0 || s.r1src ld))
    (s.sending.beginNow ld e.out.ra e.out.rb)

/-- The meaning of JOIN_TIMEOUT (R247). -/
def execJoinTimeout (ld : Nat) (s : State) : Answer :=
  s.answer (s.hasLd ld) (decide (s.sync ld = syncJoining)) (s.enterListen ld)

/-! ### Furrow slots (R239) -/

/-- The furrow acceptance window of a port closes, in every state of the ring (R239). -/
def State.windowEnd (s : State) (ld p : Nat) : State :=
  let x := s.port ld p
  let full := x.filled && s.joined ld && s.admitted ld p
  let s1 := s.setPort ld p { x with slots := keepNewest 15 full x.slots, slotTick := s.tick + 1 }
  if full then
    (s1.put F.RNG_EMPTY_CONSEC ld p 0).on (s.inWrap ld p) fun s =>
      s.put F.RNG_WRAP_OKRUN ld p (min 8 (s.get F.RNG_WRAP_OKRUN ld p + 1))
  else ((s1.count F.RNG_EMPTY_CONSEC ld p).count F.RNG_EMPTY_TOTAL ld p).put F.RNG_WRAP_OKRUN ld p 0

/-- The meaning of FURROW_WINDOW_END. -/
def execFurrowWindowEnd (ld p : Nat) (s : State) : Answer :=
  s.answer (s.hasLd ld && decide (p < 2)) (decide (s.part.phase ≠ .held)) (s.windowEnd ld p)

/-- The meaning of DIRECTION_STALE. -/
def execDirectionStale (ld p : Nat) (s : State) : Answer :=
  s.answer (s.hasLd ld && decide (p < 2)) (decide (s.part.phase ≠ .held) && s.staleP ld ld p) (s.put F.RNG_EMPTY_STALE ld p 1)

/-! ### Truncation (R234, R245) -/

/-- A truncation on a port. The third turn in a row sends the node to QUIET, and the third such entry within 65,536 turns
fences the port. -/
def State.truncate (s : State) (ld p : Nat) : State :=
  let x := s.port ld p
  let run := s.get F.RNG_TXSTAT_TRUNCRUN ld p + 1
  let s1 := s.count F.RNG_TXSTAT_TRUNCCNT ld p
  s1.on (!x.trunc) fun s =>
    let s2 := (s.setPort ld p { x with trunc := true }).put F.RNG_TXSTAT_TRUNCRUN ld p (min 3 run)
    s2.on (decide (3 ≤ run)) fun s =>
      let g := s.ring ld
      let past := keepNewest 3 g.turn g.quietTurns
      let thrice := decide (3 ≤ past.length) && past.all fun t => decide (g.turn - t < 65536)
      ((s.setRing ld { g with quietTurns := past }).enterQuiet ld).on thrice fun s => s.fencePort ld p 0x30

/-! ### Link delay (R240, R270) -/

/-- A sample joins the mean of the last 16; one more than 10 ns off is discarded, unless four in a row are. -/
def State.delaySample (s : State) (ld p d : Nat) : State :=
  let x := s.port ld p
  let mean := x.samples.sum / x.samples.length
  let off := !x.samples.isEmpty && decide (10 * 65536 < Int.natAbs ((d : Int) - mean))
  let odd := if off then d :: x.odd else []
  let fresh := decide (4 ≤ odd.length)
  let samples := if fresh then odd else if off then x.samples else keepNewest 16 d x.samples
  let n := if fresh then 4 else if off then s.get F.RNG_LDELAY_NMEAS ld p else min 127 (s.get F.RNG_LDELAY_NMEAS ld p + 1)
  let s1 := s.setPort ld p { x with samples := samples, odd := if fresh then [] else odd }
  let s2 := s1.put F.RNG_LDELAY_DELAY ld p (min (2 ^ 24 - 1) (samples.sum / samples.length / 2 ^ 14))
  (s2.put F.RNG_LDELAY_NMEAS ld p n).putB F.RNG_LDELAY_VALID ld p (decide (4 ≤ n))

/-- The link-delay frames of an admitted port, in every state but IDLE. -/
def State.measures (s : State) (ld p : Nat) : Bool :=
  s.admitted ld p && decide (s.sync ld ≠ syncIdle) && s.txGood ld

/-- The body of a service frame (R226). -/
def svcBody (f : ServiceFrame) : List Byte :=
  msbBytes 2 f.dst ++ msbBytes 2 f.orig ++ msbBytes 1 f.stype ++ msbBytes 1 f.sflg ++ msbBytes 2 f.sseq ++
    msbBytes 2 f.payload.length ++ f.payload

/-- A service frame leaves a port. -/
def State.emitService (s : State) (ld p : Nat) (f : ServiceFrame) : State :=
  (s.countWrap F.RNG_SVCNT_SVTX ld p).emit ld p (withFcs true (s.frameOf ld p 0x10 (svcBody f)))

/-- A link-delay frame of this node: DST 0, so it never leaves its link (R226). -/
def State.delayFrame (s : State) (ld p stype sflg sseq : Nat) (payload : List Byte) : ServiceFrame :=
  ⟨s.ownHdr ld p 0x10, 0, s.node ld, stype, sflg, sseq, payload⟩

/-- Whether a link-delay frame that starts at cycle `pos` may leave: in the joined states in the service window, else at any
point (R240). -/
def State.delaySends (s : State) (ld pos : Nat) : Bool := !s.joined ld || s.fits ld 0x10 pos 64

/-- A received link-delay frame: filtered, outside the service window of a joined node (R238), or taken by `f`. -/
def State.delayIn (s : State) (ld p : Nat) (f : ServiceFrame) (a : Arrival) (k : State → State) : State :=
  if s.filtered ld p 0x10 f.hdr then s.countFilter ld p f.hdr
  else
    let s1 := s.countWrap F.RNG_SVCNT_SVRX ld p
    if s.joined ld && !s.inWindow ld p 0x10 a then s1.count F.RNG_TXSTAT_ACCREJ ld p else k s1

/-- A difference of two readings of a 64-bit timestamp counter (R270). -/
def stampDiff (b a : Nat) : Nat := (b + 2 ^ 64 - a % 2 ^ 64) % 2 ^ 64

/-- A response to the last request gives a sample; any other is discarded (R240, R270). A valid delay lets the primary begin. -/
def State.delayResponse (s : State) (ld p : Nat) (f : ServiceFrame) (t4 ra rb : Nat) : State :=
  let x := s.port ld p
  let t2 := beNat (f.payload.take 8)
  let t3 := beNat ((f.payload.drop 8).take 8)
  let d : Int := ((stampDiff t4 x.reqT1 : Int) - stampDiff t3 t2) / 2
  s.on (x.reqOut && decide (f.sseq = x.reqSeq) && decide (f.payload.length = 16)) fun s =>
    let s1 := (s.setPort ld p { x with reqOut := false }).delaySample ld p d.toNat
    s1.on (s1.primary ld) fun s => s.beginNow ld ra rb

/-- The meaning of LINK_DELAY_RESPONSE, received at `t4` of the requester's counter. -/
def execLinkDelayResponse (ld p : Nat) (f : ServiceFrame) (a : Arrival) (t4 : Nat) (out : BeaconTimes) (s : State) : Answer :=
  s.answer (s.hasLd ld && decide (p < 2)) (decide (f.stype = 6))
    (s.sending.on (s.measures ld p) fun s => s.delayIn ld p f a fun s => s.delayResponse ld p f t4 out.ra out.rb)

/-- The meaning of LINK_DELAY_REQUEST, received at T2 and answered at T3 of the responder's counter: the response carries the
SSEQ with T2 and T3. -/
def execLinkDelayRequest (ld p : Nat) (f : ServiceFrame) (a : Arrival) (t : LinkTimes) (s : State) : Answer :=
  let pos := ((a.t + stampDiff t.t3 t.t2) / (8 * 65536) - 7).toNat
  s.answer (s.hasLd ld && decide (p < 2)) (decide (f.stype = 5))
    (s.sending.on (s.measures ld p) fun s => s.delayIn ld p f a fun s =>
      s.on (f.payload.isEmpty && s.delaySends ld pos) fun s =>
        s.emitService ld p (s.delayFrame ld p 6 3 f.sseq (msbBytes 8 t.t2 ++ msbBytes 8 t.t3)))

/-- Whether a request is due: every 16 turns in TRACK, HEADGATE and HOLDOVER; else at the response or 1 ms after the last
(R240). -/
def State.requestDue (s : State) (ld p t1 : Nat) : Bool :=
  let x := s.port ld p
  match x.reqTurn with
  | some n =>
    if s.joined ld then decide (16 ≤ ((s.ring ld).turn + tickMod - n % tickMod) % tickMod)
    else !x.reqOut || decide (65536 * 10 ^ 6 ≤ stampDiff t1 x.reqT1)
  | none => true

/-- The meaning of LINK_DELAY_REQUEST_SEND at time `t1`, the frame's start at cycle `q.pos` of the turn. -/
def execLinkDelayRequestSend (ld : Nat) (q : SendAt) (t1 : Nat) (s : State) : Answer :=
  let p := q.p
  let x := s.port ld p
  let n := (x.reqSeq + 1) % 65536
  s.answer (s.hasLd ld && decide (p < 2)) (s.measures ld p && s.requestDue ld p t1 && s.delaySends ld q.pos)
    ((s.sending.setPort ld p { x with reqSeq := n, reqT1 := t1, reqTurn := some (s.ring ld).turn, reqOut := true }).emitService ld p
      (s.delayFrame ld p 5 1 n []))

end Sys2Proof.Machine
end

