-- ==== Sys2Proof/Machine/RingFrames.lean ====
section
/-!
DEFINITION. Furrow frames and spate frames (R213 to R225, R236, R257, R258, R262, R263).
-/

namespace Sys2Proof.Machine

/-! ### Furrow frames -/

/-- The header word of an entry (R214). -/
def entryHdr (src age eturn : Nat) : Nat := packBits [(eturn, 15), (age, 4), (src, 13)]

/-- The zone word of a die's ring: the bits latched for its own lanes, and those of the other die's lanes that DBLL brought before
the 76 % point, where DBLL was in service at the latch point; absent ones are 0 (R227). -/
def State.zoneWordP (s : State) (ld : Nat) (x : Transit) : Nat :=
  let z (die : Nat) : Nat := Store.get (fun _ => 0) s.zoneP die
  z ld ||| (if z 2 = 1 then ((x.receive s.tick s.tick (leBytes 8 (z (1 - ld)))).map leNat).getD 0 else 0)

/-- The node's own entry of the turn; `x` is what becomes of the other die's zone bits on DBLL (R216). -/
def State.ownEntry (s : State) (ld : Nat) (x : Transit) : FurrowEntry :=
  let t := (s.ring ld).turn
  let h := Store.get (fun _ => 0) s.htxH ld
  let z := s.zoneWordP ld x
  { src := s.node ld, age := 0, eturn := t % 2 ^ 15, pzw := z,
    pcrc := paeshCode polyP (s.ringId ld) (s.node ld) t (msbBytes 8 z), hzw := h / 2 ^ 32, hcrc := h % 2 ^ 32, nstat := s.nstat }

/-- The entries that a port forwards (R217, R257). -/
def State.forwarded (s : State) (ld p : Nat) : List FurrowEntry :=
  let q := 1 - p
  let es := if s.inWrap ld p then [] else if s.inWrap ld q then (s.port ld p).accLast else (s.port ld q).accLast
  (es.filter fun e => decide (e.age + 1 ≤ s.reach ld) && decide (e.src ≠ s.node ld)).map fun e => { e with age := e.age + 1 }

/-- An entry as bytes (R214). -/
def entryBytes (e : FurrowEntry) : List Byte :=
  msbBytes 4 (entryHdr e.src e.age e.eturn) ++ msbBytes 8 e.pzw ++ msbBytes 4 e.pcrc ++ msbBytes 8 e.hzw ++ msbBytes 4 e.hcrc ++
    msbBytes 4 e.nstat

/-- The furrow frame of a port: NENT, REACH, the own entry, those forwarded (R213). -/
def State.furrowFrame (s : State) (ld p : Nat) (x : Transit) : List Byte :=
  let es := s.ownEntry ld x :: s.forwarded ld p
  s.frameOf ld p 1 (msbBytes 1 es.length ++ msbBytes 1 (s.reach ld) ++ [0, 0] ++ es.flatMap entryBytes)

/-- The furrow frame of the turn leaves. -/
def State.furrowSend (s : State) (ld p : Nat) (x : Transit) : State :=
  (s.setPort ld p { s.port ld p with furSent := true }).emit ld p (withFcs true (s.furrowFrame ld p x))

/-- The meaning of FURROW_FRAME_SEND at cycle `q.pos` of the turn: one frame in each turn, where it fits into the furrow window
(R213, R233). -/
def execFurrowFrameSend (ld : Nat) (q : FurrowSend) (s : State) : Answer :=
  s.answer (s.hasLd ld && decide (q.p < 2))
    (s.maySend ld q.p && !(s.port ld q.p).furSent && s.fits ld 1 q.pos ((s.furrowFrame ld q.p q.dbll).length + 4))
    (s.sending.furrowSend ld q.p q.dbll)

/-- Whether AGE strictly ascends and no source stands twice (R218). -/
def goodOrder (es : List FurrowEntry) : Bool :=
  ((es.zip (es.drop 1)).all fun x => decide (x.1.age < x.2.age)) && decide (es.map FurrowEntry.src).Nodup

/-- Channel P's check of one entry: the origin turn if it accepts (R218). -/
def State.acceptP (s : State) (ld : Nat) (e : FurrowEntry) : Option Nat :=
  let t := (s.ring ld).turn
  match lastTurn t 15 e.eturn with
  | none => none
  | some u =>
    if paeshCode polyP (s.ringId ld) e.src u (msbBytes 8 e.pzw) = e.pcrc ∧ t ≤ u + s.reach ld + 1 ∧ e.src ≠ s.node ld then some u
    else none

/-- One entry of a frame: for channel P accepted or counted, for channel H kept for RXH (R177, R218). -/
def State.takeEntry (s : State) (ld p : Nat) (e : FurrowEntry) : State :=
  let x := s.port ld p
  let y := { x with rxNow := x.rxNow ++ [e] }
  match s.acceptP ld e with
  | some u =>
    (s.addFurP ld (furKey ld p e.src) ⟨u, e.pzw, s.tick + 1⟩).setPort ld p { y with accNow := x.accNow ++ [e], filled := true }
  | none => (s.setPort ld p y).count F.RNG_RXCNT_ENTREJ ld p

/-- A furrow frame inside its acceptance window. -/
def State.takeFurrow (s : State) (ld p : Nat) (f : FurrowFrame) : State :=
  if goodOrder f.entries then
    let es := f.entries.filter fun e => decide (e.age ≤ f.reach)
    (s.each es fun s e => s.takeEntry ld p e).on (es.any fun e => (s.acceptP ld e).isSome) fun s =>
      s.countWrap F.RNG_RXCNT_FURROK ld p
  else s.count F.RNG_RXERR_FRDISC ld p

/-- An admitted port receives a furrow frame (R207, R212, R228, R238). -/
def State.furrow (s : State) (ld p : Nat) (f : FurrowFrame) (a : Arrival) : State :=
  if s.filtered ld p 1 f.hdr then s.countFilter ld p f.hdr
  else s.on (s.joined ld) fun s => if s.inWindow ld p 1 a then s.takeFurrow ld p f else s.count F.RNG_TXSTAT_ACCREJ ld p

/-- The meaning of FURROW_FRAME_RECEIVED. -/
def execFurrowFrameReceived (ld p : Nat) (f : FurrowFrame) (a : Arrival) (s : State) : Answer :=
  s.answer (s.hasLd ld && decide (p < 2)) true
    (s.on (s.admitted ld p && s.ringRuns ld) fun s => s.furrow ld p f a)

/-! ### Spate frames -/

/-- The word of the mark in a frame: of the P part, or of the H part where channel P raised none (R221). -/
def spateWord (f : SpateFrame) : Nat := if f.pmark = 0 ∧ f.pmcrc = 0 then not32 f.hmark else f.pmark

/-- Channel P's check of a mark (R178, R225). -/
def State.markOk (s : State) (ld : Nat) (f : SpateFrame) : Bool :=
  let t := (s.ring ld).turn
  match lastTurn t 16 f.oturn with
  | none => false
  | some u =>
    decide (paeshCode polyP (s.ringId ld) (bitsOf f.pmark 12 13) u (msbBytes 4 f.pmark) = f.pmcrc) &&
      decide (t ≤ u + markDelay (s.get F.RNG_NODES_N ld 0) (periodUs (s.get F.RNG_TURNCFG_PERIOD ld 0)) + 1)

/-- A whole spate frame has arrived with a good FCS: the mark of another node goes to channel P where its code and turn hold,
and its H part is due in RXS (R225). -/
def State.takeSpate (s : State) (ld p : Nat) (f : SpateFrame) : State :=
  let w := spateWord f
  let m : MarkArr := ⟨ld, f.pmark % 256, bitsOf f.pmark 8 4, bitsOf f.pmark 12 13, s.tick + 1, ld⟩
  s.on (decide (bitsOf w 12 13 ≠ s.node ld)) fun s =>
    let s1 : State :=
      if s.markOk ld f then { s with marksP := Store.set (fun _ => []) s.marksP ld (addMark (s.marksAtP ld) m) }
      else s.count F.RNG_SPCNT_SPREJ ld p
    s1.dueRxs ld (w % 256) f.hmark f.hmcrc f.oturn

/-- The meaning of SPATE_FRAME_RECEIVED. -/
def execSpateFrameReceived (ld p : Nat) (f : SpateFrame) (s : State) : Answer :=
  s.answer (s.hasLd ld && decide (p < 2)) true
    (s.on (s.admitted ld p && s.ringRuns ld) fun s =>
      if s.filtered ld p 3 f.hdr then s.countFilter ld p f.hdr else s.takeSpate ld p f)

/-- Whether a frame's mark goes on to the opposite port: its domain is forwarded, the source in PMARK is another node,
the port may send and is not in wrap, the header passes the filter (R222, R236, R258, R263). -/
def State.goesOn (s : State) (ld p : Nat) (f : SpateFrame) : Bool :=
  let q := 1 - p
  !s.filtered ld p 3 { f.hdr with fcs := true, short := false } && s.maySpate ld q && !s.inWrap ld q &&
    (s.get F.RNG_SPFWD_FWD ld (f.key.1 / 32)).testBit (f.key.1 % 32) && decide (bitsOf f.pmark 12 13 ≠ s.node ld)

/-- Forward a frame, or abort it at a bad FCS or after too many hops (R223, R224, R236). -/
def State.cutThrough (s : State) (ld p : Nat) (f : SpateFrame) : State :=
  let q := 1 - p
  s.on (s.goesOn ld p f && !(s.port ld q).sentKeys.contains f.key) fun s =>
    if s.spateRoom ld q then
      let g := { f with hdr := s.ownHdr ld q 3, shops := f.shops + 1 }
      let aborted := !f.hdr.fcs || decide (2 * s.get F.RNG_NODES_N ld 0 < f.shops + 1)
      ((s.sendSpate ld q g !aborted).countWrap F.RNG_SPCNT_SPFWDCNT ld p).on aborted fun s => s.count F.RNG_SPCNT_SPABORT ld p
    else s.count F.RNG_TXSTAT_SPDROP ld q

/-- The meaning of SPATE_CUT_THROUGH. -/
def execSpateCutThrough (ld p : Nat) (f : SpateFrame) (s : State) : Answer :=
  s.answer (s.hasLd ld && decide (p < 2)) true
    (s.sending.on (s.admitted ld p && s.ringRuns ld) fun s => s.cutThrough ld p f)

end Sys2Proof.Machine
end

