-- ==== Sys2Proof/Machine/Service.lean ====
section
/-!
DEFINITION. The transport of service frames: queues, forwarding and sending (R226, R264 to R267).
-/

namespace Sys2Proof.Machine

/-- A frame joins the queue of a port; the seventeenth is dropped (R266). -/
def State.enqueue (s : State) (ld p : Nat) (q : QFrame) : State :=
  let x := s.port ld p
  if x.queue.length < 16 then s.setPort ld p { x with queue := x.queue ++ [q] } else s.count F.RNG_RXERR_SVDROP ld p

/-- Whether a port is out of use for service frames: in wrap or not admitted. -/
def State.portOut (s : State) (ld p : Nat) : Bool := s.inWrap ld p || !s.admitted ld p

/-- The port on which the node originates service frames (R265). -/
def State.svPort (s : State) (ld : Nat) : Nat :=
  let v := s.get F.RNG_SVCFG_SVPORT ld 0
  if s.portOut ld v then 1 - v else v

/-- Originate a service frame: destination, STYPE, flags, SSEQ, payload. -/
def State.originate (s : State) (ld dst stype sflg sseq : Nat) (payload : List Byte) : State :=
  let p := s.svPort ld
  s.enqueue ld p ⟨false, ⟨s.ownHdr ld p 0x10, dst, s.node ld, stype, sflg, sseq, payload⟩⟩

/-- The port on which the node originated a frame, where it is known (R265). -/
def State.sentOn (s : State) (ld : Nat) (f : ServiceFrame) : Nat :=
  if (s.port ld 0).mine.contains (f.stype, f.sseq) then 0
  else if (s.port ld 1).mine.contains (f.stype, f.sseq) then 1 else s.svPort ld

/-- Whether a received frame goes on (R264, R265). -/
def State.svGoes (s : State) (ld p : Nat) (f : ServiceFrame) : Bool :=
  decide (f.dst ≠ s.node ld) && decide (f.dst ≠ 0) && (decide (f.orig ≠ s.node ld) || decide (s.sentOn ld f = p))

/-- Forward a frame on the opposite port, or back where that port is out of use (R264). -/
def State.svForward (s : State) (ld p : Nat) (f : ServiceFrame) : State :=
  s.on (s.svGoes ld p f) fun s => s.enqueue ld (if s.portOut ld (1 - p) then p else 1 - p) ⟨true, f⟩

/-- Whether a received frame is for this node: by its ID, by 0, or as a broadcast not among the last 16 (R264). An own frame
that comes back is not delivered (R265). -/
def State.svMine (s : State) (ld : Nat) (f : ServiceFrame) : Bool :=
  decide (f.orig ≠ s.node ld) &&
    (decide (f.dst = s.node ld) || decide (f.dst = 0) ||
      (decide (f.dst = 8191) && !(s.ring ld).bcast.contains (f.orig, f.stype, f.sseq)))

/-- Remember a broadcast. -/
def State.svSeen (s : State) (ld : Nat) (f : ServiceFrame) : State :=
  s.on (decide (f.dst = 8191)) fun s =>
    s.setRing ld { s.ring ld with bcast := keepNewest 16 (f.orig, f.stype, f.sseq) (s.ring ld).bcast }

/-- The frame that leaves next: forwarded ones before local ones (R266). -/
def nextFrame (q : List QFrame) : Option QFrame := (q.find? QFrame.fwd).orElse fun _ => q.head?

/-- A queued frame as it leaves: an answer to a diagnostics request carries the fields of the turn edge before (R269). -/
def State.svFrame (s : State) (ld : Nat) (q : QFrame) : ServiceFrame :=
  { q.f with payload := if !q.fwd && decide (q.f.stype = 4) then (s.ring ld).diag else q.f.payload }

/-- Its bytes up to the FCS. -/
def State.svBytes (s : State) (ld p : Nat) (q : QFrame) : List Byte := s.frameOf ld p 0x10 (svcBody (s.svFrame ld q))

/-- A frame leaves its queue; the port remembers those that the node originated on it (R265). -/
def State.svTaken (s : State) (ld p : Nat) (q : QFrame) : State :=
  let x := s.port ld p
  s.setPort ld p { x with queue := x.queue.erase q, mine := if q.fwd then x.mine else keepNewest 16 (q.f.stype, q.f.sseq) x.mine }

/-- A frame leaves. -/
def State.svSend (s : State) (ld p : Nat) (q : QFrame) : State := (s.svTaken ld p q).emitService ld p (s.svFrame ld q)

/-- The meaning of SERVICE_FRAME_SEND at cycle `x.pos` of the turn: where the frame fits into the service window (R233, R264). -/
def execServiceFrameSend (ld : Nat) (x : SendAt) (s : State) : Answer :=
  match nextFrame (s.port ld x.p).queue with
  | some q =>
    s.answer (s.hasLd ld && decide (x.p < 2)) (s.maySend ld x.p && s.fits ld 0x10 x.pos ((s.svBytes ld x.p q).length + 4))
      (s.sending.svSend ld x.p q)
  | none => s.answer (s.hasLd ld && decide (x.p < 2)) false s

/-! ### The sluice cuts a frame (R234) -/

/-- The frame of a windowed class that the engine would start at cycle `start`, up to its FCS: a beacon's timing point is 7 bytes
after its start. -/
def State.dueFrame (s : State) (ld p cls start : Nat) (x : Transit) : Option (List Byte) :=
  if cls = 1 then some (s.furrowFrame ld p x)
  else if cls = 2 then (if s.beacons ld p then some (s.frameOf ld p 2 (s.beaconBody ld p ((start + 7) * 8 * 65536))) else none)
  else if cls = 0x10 then (nextFrame (s.port ld p).queue).map (s.svBytes ld p)
  else none

/-- What leaves of a frame that is still in progress 32 ns before its window closes: its data up to there, then the complement of
the FCS over them. -/
def State.cutFrame (s : State) (ld p hi start : Nat) (bs : List Byte) : State :=
  s.emit ld p (withFcs false (bs.take (hi - 4 - (start + 8))))

/-- A cut frame is gone from the engine: the turn's furrow frame is sent, a service frame has left its queue (DESIGN CHOICE). -/
def State.cutTaken (s : State) (ld p cls : Nat) : State :=
  if cls = 1 then s.setPort ld p { s.port ld p with furSent := true }
  else if cls = 0x10 then
    match nextFrame (s.port ld p).queue with
    | some q => (s.svTaken ld p q).countWrap F.RNG_SVCNT_SVTX ld p
    | none => s
  else s

/-- The engine starts the due frame of a class at cycle `start`. Outside the window the sluice sends nothing; a frame that would
not end in time is cut; both are truncations. A frame that the sluice lets through is no truncation. -/
def State.sluice (s : State) (ld p cls start : Nat) (bs : List Byte) : State :=
  let w := s.window ld cls
  if start < w.1 ∨ w.2 ≤ start then s.truncate ld p
  else if w.2 - 4 < start + 8 + bs.length + 4 then ((s.cutFrame ld p w.2 start bs).cutTaken ld p cls).truncate ld p
  else s

/-- The meaning of SLUICE_TRUNCATION: only a port that may send holds a frame that could be cut. -/
def execSluiceTruncation (ld : Nat) (q : SluiceStart) (s : State) : Answer :=
  match s.dueFrame ld q.p q.cls q.start q.dbll with
  | some bs => s.answer (s.hasLd ld && decide (q.p < 2)) (s.maySend ld q.p) (s.sending.sluice ld q.p q.cls q.start bs)
  | none => s.answer (s.hasLd ld && decide (q.p < 2)) false s

end Sys2Proof.Machine
end

