-- ==== Sys2Proof/Machine/Mailbox.lean ====
section
/-!
DEFINITION. Mailboxes (R273 to R285, R295): who may write them, their states, MBSEQ, the warden, and the messages.
-/

namespace Sys2Proof

/-- Whether a master is the client of a mailbox (R273). -/
def Master.clientOf (m : Master) (ld mb : Nat) : Bool :=
  if mb < 4 then decide (m.code = 0x20)
  else if mb < 6 then decide (m.die = ld) && (decide (m.code = 0x0A) || decide (m.code = 0x0B))
  else if mb = 6 then decide (m.code = 0x21)
  else decide (m.code = 9) && decide (m.die = 1 - ld)

end Sys2Proof

namespace Sys2Proof.Machine

/-! ### Places -/

/-- The device address of a mailbox (R295). -/
def mbBase (ld mb : Nat) : Nat := ld * 2 ^ 28 + 0x8020000 + 0x1000 * mb

/-- The request and the response buffer. -/
def State.request (s : State) (ld mb : Nat) : List Byte := s.bytes (mbBase ld mb) 512
def State.response (s : State) (ld mb : Nat) : List Byte := s.bytes (mbBase ld mb + 512) 512

/-- Mailbox states (R275). -/
abbrev mbIdle : Nat := 0
abbrev mbPosted : Nat := 1
abbrev mbDoneSt : Nat := 2

def State.mbState (s : State) (ld mb : Nat) : Nat := s.get F.MB_MBCTL_STATE ld mb

/-- Whether a master holds the server lease (R284). -/
def State.serves (s : State) (m : Master) (ld mb : Nat) : Bool := m.isSv && s.get F.MB_MBCTL_SERVER ld mb == m.die + 1

/-! ### States (R275, R276) -/

/-- A refusal under R275 or R276: counted, and shown to the host where the host asked (R295). -/
def State.ownErr (s : State) (ld mb : Nat) (host : Bool) : State :=
  (s.count F.MB_MBCNT_OWNERR ld mb).on host fun s => s.put F.MB_HPSTAT_OWN 0 0 1

/-- A refusal of the client's access; the client of MB0 to MB3 is the host. -/
def State.clientErr (s : State) (ld mb : Nat) : State := s.ownErr ld mb (decide (mb < 4))

/-- Whether a supervisor reaches the buffers and registers of a mailbox: those of MB0 to MB3 lie on L0, the others on their own die,
and to the other logic die the way is DBLL (R274, R284; that a fenced DBLL leaves a request POSTED is DEDUCED from R19). -/
def State.svReaches (s : State) (sv ld mb : Nat) : Bool := decide (sv = if mb < 4 then 0 else ld) || !s.fenced U.link sv 6

/-- The client rings. -/
def State.mbRing (s : State) (ld mb : Nat) : State :=
  if s.mbState ld mb = mbPosted then s.clientErr ld mb
  else
    let s1 := (s.put F.MB_MBCTL_STATE ld mb mbPosted).countWrap F.MB_MBCNT_REQS ld mb
    { s1 with mbOrder := s1.mbOrder ++ [(ld, mb)] }

/-- The client acknowledges. -/
def State.mbAck (s : State) (ld mb : Nat) : State :=
  if s.mbState ld mb = mbDoneSt then s.put F.MB_MBCTL_STATE ld mb mbIdle else s.clientErr ld mb

/-- The client of a mailbox: MB7 of the CVSL-802 and CVSL-804 has none (R273), and the debug port reaches MB6 through its data register
(R424). -/
def State.isClient (s : State) (m : Master) (ld mb : Nat) : Bool :=
  m.clientOf ld mb && (decide (mb ≠ 7) || s.hasLd 1) && (decide (mb ≠ 6) || s.dbgOn)

/-- Do `f` where `m` is the client; a write by any other master is refused (R273, R490). -/
def State.byClient (s : State) (m : Master) (ld mb : Nat) (f : State → State) : State :=
  if 0x20 ≤ m.code then (if s.isClient m ld mb then f s else s.refuse .MB_MBCTL ld mb m 6)
  else s.asWrite .MB_MBCTL ld mb m (s.isClient m ld mb) true f

/-- The meaning of MAILBOX_RING. -/
def execMailboxRing (m : Master) (ld mb : Nat) (s : State) : Answer :=
  s.answer (s.hasLd ld && decide (mb < 8)) true (s.byClient m ld mb fun s => s.mbRing ld mb)

/-- The meaning of MAILBOX_ACK. -/
def execMailboxAck (m : Master) (ld mb : Nat) (s : State) : Answer :=
  s.answer (s.hasLd ld && decide (mb < 8)) true (s.byClient m ld mb fun s => s.mbAck ld mb)

/-! ### Messages (R277) -/

/-- A message: header fields, payload, and its CRC-32C. -/
def message (opcode tag flags xb seq status : Nat) (payload : List Byte) : List Byte :=
  let h := leBytes 2 opcode ++ leBytes 2 tag ++ leBytes 2 payload.length ++ leBytes 1 flags ++ leBytes 1 xb ++ leBytes 2 seq ++
    leBytes 2 status ++ leBytes 4 0
  let b := h ++ payload
  b ++ leBytes 4 (crc32c b)

/-- A response to a request, with its header fields copied. -/
def reply (req : List Byte) (flags status : Nat) (payload : List Byte) : List Byte :=
  message (fieldAt req 0 2) (fieldAt req 2 2) flags (fieldAt req 7 1) (fieldAt req 8 2) status payload

/-! ### Completion (R275, R280, R285, R286) -/

/-- The response of a remote request leaves for its originator, and the ring engine acknowledges (R286). -/
def State.sendRemote (s : State) (ld mb : Nat) : State :=
  let r := s.rem ld mb
  s.on r.on fun s =>
    let resp := s.response ld mb
    let msg := resp.take (min 512 (20 + fieldAt resp 4 2))
    let s1 := s.originate r.ring r.orig 2 3 r.sseq ([BitVec.ofNat 8 mb, BitVec.ofNat 8 ld, 0, 0] ++ msg)
    (s1.setRem ld mb Remote.zero).put F.MB_MBCTL_STATE ld mb mbIdle

/-- The mailbox leaves POSTED. -/
def State.mbFinish (s : State) (ld mb warden : Nat) : State :=
  let s1 := (s.put F.MB_MBCTL_STATE ld mb mbDoneSt).put F.MB_MBCTL_WARDEN ld mb warden
  State.sendRemote { s1 with mbOrder := s1.mbOrder.erase (ld, mb) } ld mb

/-- Statuses that leave LAST and RSPHELD as they are (R280). -/
def keepsSeq (status : Nat) : Bool := [0x10, 0x11, 0x12, 0x13].contains status

/-- A supervisor's COMPLETE with the response that stands in the buffer. -/
def State.mbComplete (s : State) (ld mb : Nat) : State :=
  let resp := s.response ld mb
  let s1 := s.put F.MB_MBSEQ_SYNC ld mb 1
  let s2 := s1.on (!keepsSeq (fieldAt resp 10 2)) fun s =>
    (s.put F.MB_MBSEQ_LAST ld mb (fieldAt resp 8 2)).put F.MB_MBSEQ_RSPHELD ld mb 1
  s2.mbFinish ld mb 0

/-- The server writes a response and completes. -/
def State.mbRespond (s : State) (ld mb : Nat) (resp : List Byte) : State :=
  (s.setBytes (mbBase ld mb + 512) (resp.take 512)).mbComplete ld mb

/-- Whether a mailbox stands first among the POSTED ones that its server reaches (R283). -/
def State.servedNext (s : State) (ld mb : Nat) : Bool :=
  let server := s.get F.MB_MBCTL_SERVER ld mb
  (s.mbOrder.find? fun x => s.get F.MB_MBCTL_SERVER x.1 x.2 == server && s.svReaches (server - 1) x.1 x.2) == some (ld, mb)

/-- The meaning of MAILBOX_COMPLETE: refused outside POSTED; a POSTED mailbox completes in its turn (R283). The warden never completes
this way. -/
def execMailboxComplete (ld mb : Nat) (resp : List Byte) (s : State) : Answer :=
  let server := s.get F.MB_MBCTL_SERVER ld mb
  s.answer (s.hasLd ld && decide (mb < 8))
    (decide (server ≠ 0) && s.svReaches (server - 1) ld mb && (decide (s.mbState ld mb ≠ mbPosted) || s.servedNext ld mb))
    (if s.mbState ld mb = mbPosted then s.mbRespond ld mb resp else s.ownErr ld mb false)

/-- The warden's status: SV_FENCED while the own supervisor is fenced, else BUSY (R285). -/
def State.wardenStatus (s : State) (ld : Nat) : Nat := if s.fenced U.sv ld 0 then 0x31 else 0x30

/-- The warden answers a POSTED mailbox. -/
def State.wardenReply (s : State) (ld mb : Nat) : State :=
  let resp := reply (s.request ld mb) 6 (s.wardenStatus ld) []
  let s1 := (s.setBytes (mbBase ld mb + 512) resp).put F.MB_MBSEQ_RSPHELD ld mb 0
  (s1.count F.MB_MBCNT_WARDCNT ld mb).mbFinish ld mb 1

/-- The meaning of WARDEN_ANSWER. -/
def execWardenAnswer (ld mb : Nat) (s : State) : Answer :=
  s.answer (s.hasLd ld && decide (mb < 8))
    (decide (s.get F.MB_MBCTL_SERVER ld mb = 0) && decide (s.mbState ld mb = mbPosted)) (s.wardenReply ld mb)

/-! ### HIRQ_N (R294) -/

/-- Whether HIRQ_N is held low. -/
def State.hirq (s : State) : Bool :=
  (s.lds.any fun ld => (List.range 4).any fun mb => s.mbDone ld mb && s.flag F.MB_MBCTL_IRQEN ld mb) ||
    ([(F.MB_HPSTAT_BADINS, 0), (F.MB_HPSTAT_OWN, 1), (F.MB_HPSTAT_ALIGN, 2), (F.MB_HPSTAT_RANGE, 3)].any fun x =>
      s.flag x.1 0 0 && (s.get F.MB_HPIEN_ERRIEN 0 0).testBit x.2)

/-! ### A word written to MBCTL -/

/-- A write of MBCTL by a client or server: RING with ACK, or a step that R275 refuses, refuses it whole (R276). -/
def State.writeMbctl (s : State) (m : Master) (ld mb v : Nat) : State :=
  let ring := v.testBit 2
  let ack := v.testBit 3
  let comp := v.testBit 8
  let st := s.mbState ld mb
  let server := s.serves m ld mb
  let client := m.clientOf ld mb
  let bad := (ring && ack) || (ring && !client) || (ack && !client) || (comp && !server) || (ring && decide (st = mbPosted)) ||
    (ack && decide (st ≠ mbDoneSt)) || (comp && decide (st ≠ mbPosted))
  if bad then s.ownErr ld mb (decide (m.code = 0x20))
  else
    let s1 := s.on (client && decide (mb < 4)) fun s => s.putB F.MB_MBCTL_IRQEN ld mb (v.testBit 4)
    let s2 := s1.on comp fun s => s.mbComplete ld mb
    let s3 := s2.on ring fun s => s.mbRing ld mb
    s3.on ack fun s => s.mbAck ld mb

/-- Whether the other bits of a write to MBCTL refuse no field: RO fields as they read, reserved bits 0 (R489). -/
def State.mbctlOk (s : State) (ld mb v : Nat) : Bool :=
  decide (bitsOf v 0 2 = s.get F.MB_MBCTL_STATE ld mb) && decide (bitsOf v 5 1 = s.get F.MB_MBCTL_WARDEN ld mb) &&
    decide (bitsOf v 16 2 = s.get F.MB_MBCTL_SERVER ld mb) && decide (bitsOf v 6 2 = 0) && decide (bitsOf v 9 7 = 0) &&
    decide (v < 2 ^ 18) && (decide (mb < 4) || !v.testBit 4)

end Sys2Proof.Machine
end

