-- ==== Sys2Proof/Machine/HostPort.lean ====
section
/-!
DEFINITION. The host port (R290 to R294): the six instructions, the host address map, HPSTAT and HPIEN.
-/

namespace Sys2Proof.Machine

/-- What a host address names (R292). -/
inductive HostArea where
  | mbox (ld mb off : Nat) | hpstat (k : Nat) | hpien (k : Nat) | unmapped
deriving DecidableEq, Repr

/-- The host address map; L1's mailboxes only where L1 is present. An address that has counted past its 24 bits is unmapped (DESIGN
CHOICE). -/
def State.hostArea (s : State) (a : Nat) : HostArea :=
  if a < 0x4000 then .mbox 0 (a / 0x1000) (a % 0x1000)
  else if 0x8000 ≤ a ∧ a < 0xC000 then (if s.hasLd 1 then .mbox 1 ((a - 0x8000) / 0x1000) (a % 0x1000) else .unmapped)
  else if 0xF000 ≤ a ∧ a < 0xF004 then .hpstat (a - 0xF000)
  else if 0xF004 ≤ a ∧ a < 0xF008 then .hpien (a - 0xF004)
  else .unmapped

/-- The host port acts while the part is not held in reset. -/
def State.hostUp (s : State) : Bool := decide (s.part.phase ≠ .held)

/-- Any instruction but RESET_EN disarms the reset (R290). -/
def State.disarm (s : State) : State := { s with host := ⟨false⟩ }

/-! ### Writes -/

/-- Whether a host address lies in a register that takes a whole word only (R291). -/
def HostArea.isWordReg : HostArea → Bool
  | .mbox _ _ off => decide (0x400 ≤ off) && decide (off < 0x404)
  | .hpstat _ | .hpien _ => true
  | .unmapped => false

/-- A whole aligned word written to MBCTL, HPSTAT or HPIEN. The host is no bus master of R353, and its refusals are those of
R275, R276 and R291: RO and reserved bits of its word have no effect (R7, DEDUCED, log entry 22). -/
def State.hostWord (s : State) (a v : Nat) : State :=
  match s.hostArea a with
  | .mbox ld mb _ => s.writeMbctl Master.host ld mb v
  | .hpstat _ =>
    (((s.w1c F.MB_HPSTAT_BADINS 0 0 (bitsOf v 16 1)).w1c F.MB_HPSTAT_OWN 0 0 (bitsOf v 17 1)).w1c F.MB_HPSTAT_ALIGN 0 0
      (bitsOf v 18 1)).w1c F.MB_HPSTAT_RANGE 0 0 (bitsOf v 19 1)
  | .hpien _ => s.put F.MB_HPIEN_ERRIEN 0 0 (bitsOf v 16 4)
  | .unmapped => s

/-- One byte of a WRITE: a buffer byte, or what R291 makes of any other. -/
def State.hostByte (s : State) (a : Nat) (b : Byte) : State :=
  match s.hostArea a with
  | .mbox ld mb off =>
    if off < 0x400 then (if s.mbState ld mb = mbPosted then s else s.setByte (mbBase ld mb + off) b)
    else if off < 0x404 then s.put F.MB_HPSTAT_ALIGN 0 0 1 else s
  | .hpstat _ | .hpien _ => s.put F.MB_HPSTAT_ALIGN 0 0 1
  | .unmapped => s.put F.MB_HPSTAT_RANGE 0 0 1

/-- The host mailboxes whose buffers a run of addresses meets at offsets from `lo`. -/
def State.hostTouches (s : State) (addr n lo : Nat) : List (Nat × Nat) :=
  ((List.range n).filterMap fun k => match s.hostArea (addr + k) with
    | .mbox ld mb off => if lo ≤ off ∧ off < 0x400 then some (ld, mb) else none
    | _ => none).dedup

/-- An access to buffers of POSTED mailboxes is refused, once for each (R276). -/
def State.hostOwn (s : State) (addr n lo : Nat) : State :=
  s.each ((s.hostTouches addr n lo).filter fun x => s.mbState x.1 x.2 == mbPosted) fun s x => s.clientErr x.1 x.2

/-- Bytes in address order. -/
def State.hostBytes (s : State) (a : Nat) : List Byte → State
  | [] => s
  | b :: bs => (s.hostByte a b).hostBytes (a + 1) bs

/-- WRITE. -/
def State.hostWrite (s : State) (addr : Nat) (bs : List Byte) : State :=
  if bs.length = 4 ∧ addr % 4 = 0 ∧ (s.hostArea addr).isWordReg = true then s.hostWord addr (leNat bs)
  else (s.hostOwn addr bs.length 0).hostBytes addr bs

/-- The meaning of HOST_WRITE. -/
def execHostWrite (addr : Nat) (bytes : List Byte) (s : State) : Answer :=
  s.answer true (decide (1 ≤ bytes.length) && decide (addr < 2 ^ 24)) (s.on s.hostUp fun s => s.disarm.hostWrite addr bytes)

/-! ### Reads -/

/-- The byte that a host address reads as (R276, R291). -/
def State.hostValue (s : State) (a : Nat) : Nat :=
  match s.hostArea a with
  | .mbox ld mb off =>
    if off < 0x200 then (s.byte (mbBase ld mb + off)).toNat
    else if off < 0x400 then (if s.mbState ld mb = mbPosted then 0 else (s.byte (mbBase ld mb + off)).toNat)
    else if off < 0x404 then bitsOf (s.word .MB_MBCTL ld mb) (8 * (off % 4)) 8
    else if off < 0x408 then bitsOf (s.word .MB_MBSEQ ld mb) (8 * (off % 4)) 8
    else if off < 0x40C then bitsOf (s.word .MB_MBCNT ld mb) (8 * (off % 4)) 8
    else 0
  | .hpstat k => bitsOf (s.word .MB_HPSTAT 0 0) (8 * k) 8
  | .hpien k => bitsOf (s.word .MB_HPIEN 0 0) (8 * k) 8
  | .unmapped => 0

/-- READ: the values, then the flags that the access sets. -/
def State.hostRead (s : State) (addr n : Nat) : State :=
  let vs := (List.range n).map fun k => s.hostValue (addr + k)
  let bad := (List.range n).any fun k => decide (s.hostArea (addr + k) = .unmapped)
  ((s.hostOwn addr n 0x200).on bad fun s => s.put F.MB_HPSTAT_RANGE 0 0 1).give vs

/-- The meaning of HOST_READ. -/
def execHostRead (addr n : Nat) (s : State) : Answer :=
  s.answer true (decide (1 ≤ n) && decide (addr < 2 ^ 24)) (s.on s.hostUp fun s => s.disarm.hostRead addr n)

/-- The bytes of a word, lowest first. -/
def byteList (v : Nat) : List Nat := (leBytes 4 v).map BitVec.toNat

/-- The meaning of READ_HSTAT. -/
def execReadHstat (s : State) : Answer :=
  s.answer true true (s.on s.hostUp fun s => s.disarm.give (byteList (s.word .MB_HPSTAT 0 0)))

/-- The meaning of READ_ID. -/
def execReadId (s : State) : Answer :=
  s.answer true true (s.on s.hostUp fun s => s.disarm.give (byteList (s.word .SYSCTL_DEVID 0 0)))

/-! ### Reset of the port -/

/-- The meaning of RESET_EN. -/
def execResetEn (s : State) : Answer := s.answer true true (s.on s.hostUp fun s => { s with host := ⟨true⟩ })

/-- The error bits of HPSTAT. -/
def hpErrors : List Fld := [F.MB_HPSTAT_BADINS, F.MB_HPSTAT_OWN, F.MB_HPSTAT_ALIGN, F.MB_HPSTAT_RANGE]

/-- The meaning of HOST_RESET: only directly after RESET_EN. -/
def execHostReset (s : State) : Answer :=
  s.answer true true (s.on s.hostUp fun s => s.disarm.on s.host.armed fun s => s.each hpErrors fun s f => s.put f 0 0 0)

/-- The codes of the six instructions (R290). -/
def hostCodes : List Nat := [0x02, 0x0B, 0x05, 0x9F, 0x66, 0x99]

/-- The meaning of HOST_UNKNOWN_INSTRUCTION. -/
def execHostUnknownInstruction (code : Nat) (s : State) : Answer :=
  s.answer true (!hostCodes.contains code && decide (code < 256))
    (s.on s.hostUp fun s => s.disarm.put F.MB_HPSTAT_BADINS 0 0 1)

end Sys2Proof.Machine
end

