-- ==== Sys2Proof/Machine/RegWrite.lean ====
section
/-!
DEFINITION. Register accesses over the bus: the hardware write-permission map (R477, R478, R489 to R491), what a write
does in each register, and the reads with side effects.
-/

namespace Sys2Proof

/-- Whether a word of FENCE.FREQ is a lane runtime's fence of its own lane (R34): GO, OP 0, kind LANE and its number. -/
def Master.fencesSelf (m : Master) (die v : Nat) : Bool :=
  m.isLane die 1 (m.code - 1) && decide (v = 2 ^ 31 + 2 ^ 8 * (m.code - 1) + 1)

end Sys2Proof

namespace Sys2Proof.Machine

/-! ### Writers (R490) -/

/-- The writers that the map names for a block. -/
inductive Writers where
  | none | sv | svDie | sv0 | timer | anyOfDie | crc | scan | mbox | host
deriving DecidableEq, Repr

/-- The writers of a register; every register that R490 does not name has none. -/
def Reg.writers : Reg → Writers
  | .TERM_CFG | .TERM_OUTCFG | .TERM_PULSECFG | .TP_FRAME | .TP_CODE | .HC_HCFG | .HC_TSEL0 | .HC_TSEL1 | .HC_PAR0 | .HC_PAR1
  | .HC_PAR2 | .HC_PAR3 | .HC_RST | .HC_HIID | .LMR | .HGLB_HRING | .HGLB_HRINGID | .HBOWN | .SIEVEH_SCFG => .sv
  | .TERM_FAULT | .HC_HFLAG | .FSYS_FPWR | .FSYS_ERRLOG1 | .FSYS_SEAL | .TERM_FCTL | .FSYS_FRST | .FSYS_FFREQ => .sv
  | .RNG_RINGCFG | .RNG_RINGID | .RNG_ETYPE | .RNG_NODES | .RNG_CFGHASH | .RNG_TURNCFG | .RNG_SLSERV | .RNG_SLFURR
  | .RNG_SLSPATE | .RNG_SPFWD | .RNG_SVCFG | .RNG_PCFG | .TICK_TCFG | .SIEVEP_SCFG | .LANE_LWCET | .LANE_LCTL => .sv
  | .SYSCTL_VCTL | .SYSCTL_VDIN => .sv
  | .FENCE_FREQ | .FENCE_SVKICK | .SPM_MODE | .SPM_PWR | .SPM_TCTL | .LBIST_CFG | .LBIST_CTL | .LBIST_EXP0 | .LBIST_EXP1
  | .OTP_OADDR | .OTP_ODATA0 | .OTP_ODATA1 | .OTP_OCMD | .OTP_OLOCKSET | .OTP_OSTAT | .SYSCTL_ERRLOG1 | .SPM_ERRLOG1
  | .CLKPWR_CLKMON | .SYSCTL_SEAL | .LBIST_DBGSTAT => .svDie
  | .LBIST_SDCTL | .CLKPWR_RSTCTL => .sv0
  | .LTMR_CTL | .LTMR_RELOAD | .LTMR_CMPPRE | .LTMR_STAT | .FTMR_CTL | .FTMR_RELOAD | .FTMR_CMPPRE | .FTMR_STAT => .timer
  | .LTMR_CNT | .LTMR_CMP | .LTMR_CAP | .FTMR_CNT | .FTMR_CMP | .FTMR_CAP => .timer
  | .FENCE_LEASE => .anyOfDie
  | .CRC_CFG | .CRC_POLY | .CRC_INIT | .CRC_XOROUT | .CRC_VAL | .CRC_DIN | .CRC_CTL | .CRC_STAT | .CRC_RESULT => .crc
  | .SCAN_START | .SCAN_LEN | .SCAN_CTL | .SCAN_STAT | .SCAN_NEXT | .SCAN_REM | .SCAN_ERRADDR => .scan
  | .MB_MBCTL => .mbox
  | .MB_HPSTAT | .MB_HPIEN => .host
  | _ => .none

/-- Whether a master holds the lease `n` of a die (R391). -/
def State.holdsLease (s : State) (m : Master) (ld n : Nat) : Bool :=
  decide (m.die = ld) && s.get F.FENCE_LEASE_OWNER ld n == m.code && decide (m.code ≠ 0)

/-- Whether R490 and the lease or client rules admit a writer. LCTL.RUN is the die's own supervisor's, and LEASE.DENIED is
a W1C field of a logic die. -/
def State.writerOk (s : State) (m : Master) (r : Reg) (die idx v : Nat) : Bool :=
  match r.writers with
  | .none => false
  | .sv => m.isSv && (decide (r ≠ .LANE_LCTL) || decide (v % 2 = s.get F.LANE_LCTL_RUN die idx) || m.isSvOf die)
  | .svDie => m.isSvOf die || (decide (r = .FENCE_FREQ) && m.fencesSelf die v)
  | .sv0 => m.isSvOf 0
  | .timer => s.ownsTimer m die idx
  | .anyOfDie => decide (m.die = die) && (!v.testBit 10 || m.isSvOf die)
  | .crc => s.holdsLease m die idx
  | .scan => s.holdsLease m die (idx + 8)
  | .mbox =>
    let irq := v.testBit 4 != s.flag F.MB_MBCTL_IRQEN die idx
    (s.isClient m die idx || s.serves m die idx) && (s.isClient m die idx || !(v.testBit 2 || v.testBit 3 || irq)) &&
      (s.serves m die idx || !v.testBit 8)
  | .host => false

/-! ### Fields (R489) -/

/-- Whether a written word refuses one field: a change of an RO or RSS field, of an RWL field with the gate closed, of a
Lock field of a fenced owner. -/
def State.fldRefused (s : State) (f : Fld) (die idx v : Nat) : Bool :=
  let changes := bitsOf v f.lo f.w != s.fieldValue f die idx % 2 ^ f.w
  match f.acc with
  | .ro | .rss => changes
  | .rwl => changes && (!s.gate die || (f.fen == .lock && s.ownerFenced f.reg die idx))
  | _ => false

/-- Whether every bit set in a word lies in a field. -/
def Reg.bitsKnown (r : Reg) (v : Nat) : Bool :=
  decide (v < 2 ^ 32) && (List.range 32).all fun k => !v.testBit k || r.fields.any fun f => decide (f.lo ≤ k) && decide (k < f.lo + f.w)

/-- Active cells of a field die beside one of them (R162). -/
def State.otherActive (s : State) (die c : Nat) : Nat :=
  (List.range 144).countP fun k => k != c && s.flag F.HC_HCFG_ACTIVE die k

/-- Whether a sluice window word keeps within the layout of R232, and the window at 10 µs or more at a turn period code
(R235). -/
def windowOk (per v lo hi : Nat) : Bool :=
  let a := bitsOf v 0 10
  let b := bitsOf v 16 10
  decide (lo ≤ a) && decide (b ≤ hi) && decide (10000 ≤ (b - a) * periodUs per)

/-- Whether a new word of LCTL refuses RUN (R161). -/
def State.runOk (s : State) (ld l v : Nat) : Bool :=
  let run := s.flag F.LANE_LCTL_RUN ld l
  if v.testBit 0 = run then true
  else if run then (s.instsOf ld l).isEmpty
  else decide (s.get F.LANE_LWCET_W ld l ≠ 0) && s.get F.LANE_LIDS_PSET ld l == s.get F.LANE_LIDS_QSET ld l

/-- A source code that the part refuses (R166). -/
def srcRefused (v : Nat) : Bool :=
  (decide (v < 576) && decide (v % 4 = 3)) || (decide (576 ≤ v) && decide (v < 1152) && decide (v % 4 = 3)) ||
    (decide (1408 ≤ v) && decide (v < 2046))

/-- The six words of a link-matrix term as one number, with word `idx` replaced by `v`. -/
def State.termWith (s : State) (die idx v : Nat) : Nat :=
  let t := idx - idx % 6
  (List.range 6).foldl (fun a k => a + (if t + k = idx then v else s.get F.LMR_W die (t + k)) * 2 ^ (32 * k)) 0

/-- Whether a word of a link-matrix row names a source that the part refuses (R166). A literal that spans two words is judged where
the word with its upper bits is written (DESIGN CHOICE: judged at both words, no literal could be written). -/
def State.lmrOk (s : State) (die idx v : Nat) : Bool :=
  let old := s.termWith die idx (s.get F.LMR_W die idx)
  let new := s.termWith die idx v
  (List.range 16).all fun m =>
    decide ((12 * m + 11) / 32 ≠ idx % 6) || !srcRefused (bitsOf new (12 * m) 11) || bitsOf new (12 * m) 12 == bitsOf old (12 * m) 12

/-- A period code that R188 names. -/
def periodOk (v : Nat) : Bool := decide (v ≤ 4)

/-- Whether a word holds only values that its register's table and the rules it cites admit, for a turn period code. A value that a table
leaves out without calling it refused is admitted, as HBOWN.WDIE 6 and 7, which name no die and select no word (R186; DESIGN CHOICE,
log entry 185). -/
def tableOk (r : Reg) (die v per : Nat) : Bool :=
  match r with
  | .TERM_CFG => decide (bitsOf v 0 3 ≤ 5)
  | .TERM_OUTCFG => decide (0x14 ≤ bitsOf v 8 8) && decide (bitsOf v 8 8 ≤ 0xC8)
  | .TERM_PULSECFG => decide (bitsOf v 0 14 = 0) || (decide (800 ≤ bitsOf v 0 14) && decide (bitsOf v 0 14 ≤ 16000))
  | .TP_FRAME => decide (bitsOf v 0 2 ≠ 3)
  | .HC_HCFG => decide (bitsOf v 0 5 = 0) || (FnType.ofCode (bitsOf v 0 5)).isSome
  | .HC_RST => !srcRefused (bitsOf v 0 11)
  | .RNG_RINGCFG => !v.testBit 31 || (decide (1 ≤ bitsOf v 0 13) && decide (bitsOf v 0 13 ≤ 8190))
  | .RNG_NODES => decide (1 ≤ v) && decide (v ≤ 8190)
  | .RNG_ETYPE => decide (0x600 ≤ v)
  | .RNG_TURNCFG => periodOk (bitsOf v 0 3) && (!v.testBit 7 || decide (die ≠ 0))
  | .RNG_SLSERV => windowOk per v 20 760
  | .RNG_SLFURR => windowOk per v 780 960
  | .RNG_SLSPATE => decide (bitsOf v 0 3 ≤ 4)
  | .RNG_PCFG => decide (bitsOf v 0 2 ≠ 3)
  | .TICK_TCFG => periodOk (bitsOf v 0 3) && decide (bitsOf v 4 2 ≠ 3)
  | .LBIST_CFG => decide (1024 ≤ v) && decide (v ≤ 1048576) && decide (v % 1024 = 0)
  | .CRC_CFG => decide (8 ≤ bitsOf v 0 6) && decide (bitsOf v 0 6 ≤ 32)
  | .SPM_TCTL => decide (10 ≤ bitsOf v 0 10) && decide (bitsOf v 0 10 ≤ 1000)
  | .CLKPWR_RSTCTL => decide (bitsOf v 16 16 = 0xA5C3)
  | _ => true

/-- Whether a register holds nothing but what a write leaves or the seal gates: its present word refuses nothing (R489). -/
def Reg.settable (r : Reg) : Bool := r.fields.all fun f => f.acc == .ro || f.acc == .rss || f.acc == .rwl

/-- Whether a new turn period leaves both sluice windows at 10 µs or more (R235). -/
def State.periodFits (s : State) (ld per : Nat) : Bool :=
  windowOk per (s.word .RNG_SLSERV ld 0) 20 760 && windowOk per (s.word .RNG_SLFURR ld 0) 780 960

/-- Whether a new word's values are admitted in the present state. A write of TPFRAME.FLEN, TERM.CFG or OUTCFG that leaves an assigned
code with a width which R81 would refuse is performed, and the source runs on with that width (DESIGN CHOICE, log entry 186). -/
def State.newValueOk (s : State) (r : Reg) (die idx v : Nat) : Bool :=
  tableOk r die v (s.get F.RNG_TURNCFG_PERIOD die 0) &&
  match r with
  | .LMR => s.lmrOk die idx v
  | .RNG_RINGCFG => !v.testBit 31 || decide (2 ≤ s.get F.RNG_NODES_N die 0)
  | .RNG_NODES => decide (2 ≤ v) || !s.flag F.RNG_RINGCFG_ENABLE die 0
  | .RNG_TURNCFG => s.periodFits die (bitsOf v 0 3)
  | .HC_HCFG => !v.testBit 12 || decide (s.otherActive die idx < 128)
  | .TICK_TCFG =>
    !s.inRun && (decide (s.get F.TICK_TCFG_SRC die 0 ≠ 0) || decide (bitsOf v 0 3 = s.fieldValue F.TICK_TCFG_PERIOD die 0))
  | .LANE_LCTL => s.runOk die idx v
  | .SPM_TCTL =>
    decide (bitsOf v 0 10 = s.get F.SPM_TCTL_PACE die 0) && (s.gate die || !v.testBit 16 || s.flag F.SPM_TCTL_PAUSE die 0)
  | .FENCE_FREQ => !v.testBit 31 || s.freqNames die (bitsOf v 0 8) (bitsOf v 8 10)
  | .FSYS_FFREQ =>
    !v.testBit 31 ||
      (decide (bitsOf v 8 10 < ffreqCount (bitsOf v 0 8)) &&
        (!v.testBit 18 || (decide (bitsOf v 0 8 ≠ U.term) && decide (bitsOf v 0 8 ≠ U.field))))
  | .LBIST_CTL => !v.testBit 0 || s.bistMay die idx
  | .OTP_OCMD => bitsOf v 1 2 == 0 || !s.flag F.OTP_OSTAT_BUSY die 0
  | .SYSCTL_VCTL => bitsOf v 0 2 == 0 || !s.flag F.SYSCTL_VSTAT_BUSY die 0
  | _ => true

/-- Whether a word's values are admitted: its present value is, but for TCFG, which Run refuses (R188, R489). -/
def State.valueOk (s : State) (r : Reg) (die idx v : Nat) : Bool :=
  (r.settable && decide (r ≠ .TICK_TCFG) && decide (v = s.word r die idx)) || s.newValueOk r die idx v

/-- The word offset of a timer register in its block (R76). -/
def Reg.timerWord : Reg → Nat
  | .LTMR_CTL | .FTMR_CTL => 0
  | .LTMR_RELOAD | .FTMR_RELOAD => 2
  | .LTMR_CMPPRE | .FTMR_CMPPRE => 3
  | .LTMR_STAT | .FTMR_STAT => 6
  | _ => 1

/-- A timer word: fields as R76 gives them, or an RO word written with what it reads. -/
def State.timerOk (s : State) (r : Reg) (die n v : Nat) : Bool :=
  if r.timerWord = 1 then decide (v = s.word r die n) else s.timerWordOk die n r.timerWord v

/-- Whether no field of a written word is refused. -/
def State.wordOk (s : State) (r : Reg) (die idx v : Nat) : Bool :=
  match r.writers with
  | .timer => s.timerOk r die idx v
  | .mbox => s.mbctlOk die idx v
  | .crc => !s.flag F.CRC_STAT_BUSY die idx && r.bitsKnown v && !(r.fields.any fun f => s.fldRefused f die idx v) && s.valueOk r die idx v
  | _ =>
    if r = .TP_CODE then s.codeFieldOk (die - 2) idx v
    else r.bitsKnown v && !(r.fields.any fun f => s.fldRefused f die idx v) && s.valueOk r die idx v

/-! ### What a write does -/

/-- One field takes its bits of the word: a field that a fence resets or makes safe keeps that value while its owner is
fenced (R11). -/
def State.putFld (s : State) (f : Fld) (die idx v : Nat) : State :=
  match f.acc with
  | .rw | .rwl => s.on (!s.fldStays f die idx) fun s => s.put f die idx (bitsOf v f.lo f.w)
  | .w1c => s.w1c f die idx (bitsOf v f.lo f.w)
  | _ => s

/-- Every field of a register takes its bits. -/
def State.putWord (s : State) (r : Reg) (die idx v : Nat) : State := s.each r.fields fun s f => s.putFld f die idx v

/-- Two actions of one write: the spec gives no order where both are asked for, so that order is a free choice (log
entry 4). -/
def State.either (s : State) (a b : Bool) (f g : State → State) : State :=
  if a && b then (if s.choice then (g (f s)).spend else (f (g s)).spend) else (s.on a f).on b g

/-- Whether HFLAG.LAMP_FAIL of a cell stands for its condition: a write clears it only after that has ended (R185). -/
def State.lampFails (s : State) (die c : Nat) : Bool :=
  let t := s.get F.HC_HCFG_TYPE die c
  (t == 6 || t == 7) && s.flag F.HC_HCFG_ACTIVE die c && (s.cell (die - 2) c).fs.mute.lampFail &&
    (s.get F.HC_HFLAG_FLAGS die c).testBit 4

/-- What a performed write of a register does. -/
def State.doWrite (s : State) (m : Master) (r : Reg) (die idx v be : Nat) : State :=
  match r with
  | .LANE_LCTL =>
    let s1 := s.putWord r die idx v
    s1.on (v.testBit 0 && !s.flag F.LANE_LCTL_RUN die idx && !s.fenced U.lane die idx) fun s => s.startLane die idx
  | .SYSCTL_VCTL =>
    s.either (v.testBit 0) (v.testBit 1) (fun s => { s with vaultIn := [], vaultOpen := true })
      State.vaultGo
  | .SYSCTL_VDIN => s.vaultFeed v be
  | .FENCE_FREQ =>
    if !v.testBit 31 then s.putWord r die idx v
    else if v.testBit 18 then s.freqClear die (bitsOf v 0 8) (bitsOf v 8 10) else s.freqFence die (bitsOf v 0 8) (bitsOf v 8 10)
  | .FENCE_SVKICK => s.on (v.testBit 0 && !s.fenced U.sv die 0) fun s => s.put F.FENCE_SVKICK_WDREM die 0 10
  | .FENCE_LEASE =>
    (s.putWord r die idx v).either (v.testBit 8) (v.testBit 9) (fun s => s.claim die idx m.code)
      fun s => s.release die idx m.code
  | .MB_MBCTL => s.writeMbctl m die idx v
  | .TP_CODE => s.setCode (die - 2) idx v
  | .CRC_DIN => s.each (enabledBytes v be) fun s b => s.crcFeed die idx b
  | .CRC_CTL => s.on (v.testBit 0) fun s => s.put F.CRC_VAL_VAL die idx (s.get F.CRC_INIT_INIT die idx)
  | .SCAN_CTL =>
    (s.put F.SCAN_CTL_CONT die idx (bitsOf v 1 1)).either (v.testBit 0) (v.testBit 2)
      (fun s => s.scanStart die idx (v.testBit 1)) fun s => (s.scanStop die idx (s.free % (s.scanLeft die idx + 1))).spend
  | .SPM_PWR => s.setSegments die (bitsOf v 1 3)
  | .LBIST_CTL => s.either (v.testBit 0) (v.testBit 1) (fun s => s.bistStart die idx) fun s => s.cutBist die idx 1
  | .LBIST_SDCTL => s.on (v.testBit 0) State.shutdown
  | .OTP_OCMD =>
    s.either (v.testBit 0) (bitsOf v 1 2 != 0) (fun s => s.otpRead die) fun s =>
      s.either (v.testBit 1) (v.testBit 2) (fun s => s.otpRequest die 1) fun s => s.otpRequest die 2
  | .OTP_OLOCKSET => s.orFlags F.OTP_OLOCK_LOCK die 0 (bitsOf v 0 8)
  | .CLKPWR_RSTCTL => s.on (v.testBit 0) fun s => { s with part := { s.part with rstDue := true } }
  | .SIEVEP_SCFG | .SIEVEH_SCFG => s.setWin die (bitsOf v 0 4)
  | .HC_HFLAG =>
    (s.putWord r die idx v).on (s.lampFails die idx) fun s => s.orFlags F.HC_HFLAG_FLAGS die idx 0x10
  | .TERM_FCTL =>
    (s.putWord r die idx v).on (v.testBit 16) fun s => s.setTerm (die - 2) idx { s.term (die - 2) idx with clrReq := true }
  | .FSYS_FRST =>
    s.on (v.testBit 0 && (s.fenced U.field die 0 || (s.field (die - 2)).vfSafe)) fun s => s.frst (die - 2)
  | .FSYS_FFREQ =>
    if !v.testBit 31 then s.putWord r die idx v
    else if v.testBit 18 then s.ffreqClear (die - 2) (bitsOf v 0 8) (bitsOf v 8 10)
    else s.ffreqFence (die - 2) (bitsOf v 0 8) (bitsOf v 8 10)
  | .RNG_RINGCFG | .RNG_PCFG => (s.putWord r die idx v).ringConf die
  | .TERM_CFG => (s.putWord r die idx v).modeSet (die - 2) idx
  | .TP_FRAME => (s.putWord r die idx v).on (s.word r die idx != v) fun t => t.frameSet (die - 2)
  | .HC_HCFG => s.cellSet (s.putWord r die idx v) (die - 2) idx
  | .SPM_MODE => s.setRot die v
  | _ => if r.writers = .timer then s.timerWord die idx r.timerWord v else s.putWord r die idx v

/-! ### Memories -/

/-- The first word of each patch set carries its identity, which LIDS shows (R143). -/
def State.patchIds (s : State) (ld l : Nat) : State :=
  let a := ld * 2 ^ 28 + 0x4000000 + l * 0x100000 + 0x8000
  (s.put F.LANE_LIDS_PSET ld l (s.byte a).toNat).put F.LANE_LIDS_QSET ld l (s.byte (a + 0x2000)).toNat

/-- The scratchpad priority of a bus master: a master of the other die comes over the die bridge (R378). -/
def busPri (m : Master) (ld : Nat) : Nat := if m.die = ld then codePri m.code else 3

/-- Whether a master may write a mailbox buffer now: the client both while the mailbox is not POSTED, the server the response buffer
while it is (R273, R276). -/
def State.bufferOk (s : State) (m : Master) (ld mb off : Nat) : Bool :=
  if s.mbState ld mb = mbPosted then s.serves m ld mb && decide (0x200 ≤ off) else s.isClient m ld mb

/-- A write to a memory of a logic die: performed or not. -/
def State.memWrite (s : State) (m : Master) (addr v be : Nat) : State × Bool :=
  let ld := addr / 2 ^ 28
  let no (k : Nat) : State × Bool := (s.logErr ld m addr k true, false)
  match memArea ld (addr % 2 ^ 28) with
  | .spm =>
    if Config.spmUse ld (wordOff (addr % 2 ^ 28)) = 1 ∧ m.isSv = false then no 6
    else
      let a := s.spmStore ld (busPri m ld) (addr % 2 ^ 28) v be
      (a.1, !a.2)
  | .patch l => if !m.isSv || !(s.instsOf ld l).isEmpty then no 6 else ((s.writeEnabled addr v be).patchIds ld l, true)
  | .mbox mb =>
    let no6 : State := s.logErr (holder addr) m addr 6 true
    if s.bufferOk m ld mb (addr % 0x1000) then (s.writeEnabled addr v be, true)
    else if s.isClient m ld mb then (no6.clientErr ld mb, false) else (no6, false)
  | .laneRom _ | .data _ => no 6
  | .none => no 5

/-- Registers that take narrow writes (R477). -/
def Reg.narrow : Reg → Bool
  | .CRC_DIN | .SYSCTL_VDIN | .RXH | .RXS | .HTX => true
  | _ => false

/-- A write over the bus by a master, with byte enables: the first row of R489 whose conditions hold. The Boolean says
whether it was performed. -/
def State.busWrite (s : State) (m : Master) (addr v be : Nat) : State × Bool :=
  let die := addr / 2 ^ 28
  let off := addr % 2 ^ 28
  let k := s.route m addr
  if k ≠ 0 then (s.logErr m.die m addr k true, false)
  else if memArea die off ≠ .none then
    (if addr % 4 ≠ 0 ∧ memArea die off ≠ .spm then (s.logErr m.die m addr 4 true, false) else s.memWrite m addr v be)
  else match findReg die (off - off % 4) with
    | none => (s.logErr die m addr 5 true, false)
    | some (r, idx) =>
      if addr % 4 ≠ 0 ∨ (be ≠ 15 ∧ r.narrow = false) then (s.logErr m.die m addr 4 true, false)
      else
        let no (k : Nat) : State × Bool :=
          ((s.logErr die m addr k true).on (decide (r.writers = .crc) && s.flag F.CRC_STAT_BUSY die idx) fun s =>
            s.put F.CRC_STAT_REFUSED die idx 1, false)
        if !s.writerOk m r die idx v then no 6
      else if !s.wordOk r die idx v then no 7
      else (s.doWrite m r die idx v be, true)

/-- What a master finds at the instant of its read in fields that move with time: each has moved on by a free amount within what can
have passed since the last event (log entry 4). -/
def State.present (s : State) (r : Reg) (die idx : Nat) : State :=
  let k := s.get F.FENCE_SVKICK_WDREM die 0
  let p := s.get F.LBIST_PDONE_PDONE die idx
  match r with
  | .LTMR_CNT | .FTMR_CNT => s.settle die idx
  | .TICK_TPOS => s.readPos die
  | .TP_FRAME =>
    let slot := (s.edgeTime (die - 2) (s.field (die - 2)).htick + s.freeBelow s.tickCyc) / s.slotLen (die - 2) % 32
    s.on s.inRun fun s => (s.put F.TP_FRAME_SLOTNOW die 0 (max slot (s.get F.TP_FRAME_SLOTNOW die 0))).spend
  | .SPM_TSTAT =>
    let c := (s.spmSt die).prog
    (s.tillerAt die (c + s.freeBelow (850 - c))).spend
  | .CRC_VAL | .CRC_RESULT | .SCAN_NEXT | .SCAN_REM | .SCAN_STAT | .SCAN_ERRADDR =>
    s.on (s.flag F.SCAN_STAT_BUSY die idx) fun s => (s.scanWords die idx (s.freeBelow (s.scanLeft die idx + 1))).spend
  | .FENCE_SVKICK =>
    s.on (!(s.svst die).halted && !(s.svst die).restarting && !s.fenced U.sv die 0) fun s =>
      (s.put F.FENCE_SVKICK_WDREM die 0 (k - s.freeBelow k)).spend
  | .LBIST_STAT => s.on (s.get F.LBIST_STAT_STATE die idx == 1 && s.choice) (fun s => s.put F.LBIST_STAT_STATE die idx 2) |>.spend
  | .LBIST_PDONE =>
    s.on (s.get F.LBIST_STAT_STATE die idx == 2) fun s =>
      (s.put F.LBIST_PDONE_PDONE die idx (p + s.freeBelow (s.get F.LBIST_CFG_PCNT die idx + 1 - p))).spend
  | .LBIST_MISR0 => s.on (s.get F.LBIST_STAT_STATE die idx == 2) fun s => (s.put F.LBIST_MISR0_MISR die idx s.free).spend
  | .LBIST_MISR1 => s.on (s.get F.LBIST_STAT_STATE die idx == 2) fun s => (s.put F.LBIST_MISR1_MISR die idx s.free).spend
  | _ => s

/-- A read of TNUM1: what the master's last read of TNUM0 latched, once; else the present number's upper word (R203). -/
def State.readTnum1 (s : State) (die : Nat) (m : Master) : State × Nat :=
  let k := Nat.pair die m.key
  let l := Store.get (fun _ => 0) s.tnumLatch k
  if l = 0 then (s, s.tick / 2 ^ 32 % 2 ^ 16)
  else ({ s with tnumLatch := Store.set (fun _ => 0) s.tnumLatch k 0 }, (l - 1) % 2 ^ 16)

/-- A read over the bus of one aligned word: the state after it, the value, and whether the bus refused it. -/
def State.busRead (s : State) (m : Master) (addr : Nat) : State × Nat × Bool :=
  let die := addr / 2 ^ 28
  let off := addr % 2 ^ 28
  let k := s.route m addr
  let mem := leNat (s.bytes addr 4)
  if k ≠ 0 then (s.logErr m.die m addr k false, 0, true)
  else if memArea die off = .spm then s.spmLoad die (busPri m die) off 4
  else if addr % 4 ≠ 0 then (s.logErr m.die m addr 4 false, 0, true)
  else match memArea die off with
    | .spm => (s, 0, false)
    | .laneRom _ => (s, s.romWord die (off % 0x8000), false)
    | .patch _ | .data _ => (s, mem, false)
    | .mbox mb =>
      if s.mbState die mb = mbPosted ∧ s.isClient m die mb = true ∧ 0x200 ≤ off % 0x1000 then (s.clientErr die mb, 0, false)
      else (s, mem, false)
    | .none =>
      match findReg die off with
      | some (.LTMR_CAP, n) | some (.FTMR_CAP, n) => (s.capRead die n none, s.get (tmr die).cap die n, false)
      | some (.TICK_TNUM0, _) => (s.readTnum die m, s.tick % 2 ^ 32, false)
      | some (.TICK_TNUM1, _) => let a := s.readTnum1 die m; (a.1, a.2, false)
      | some (r, i) => let t := s.present r die i; (t, t.word r die i, false)
      | none =>
        if die < 2 ∧ 0x8010400 ≤ off ∧ off < 0x8010800 then (s, s.logWord die ((off - 0x8010400) / 4), false)
        else if 2 ≤ die ∧ 0x50400 ≤ off ∧ off < 0x50800 then (s, s.logWord die ((off - 0x50400) / 4), false)
        else if inBlock die off then (s, 0, false)
        else (s.logErr die m addr 5 false, 0, true)

/-- The bits of a register's W1C fields. -/
def Reg.w1cMask (r : Reg) : Nat :=
  (r.fields.filter fun f => f.acc == .w1c).foldl (fun a f => a ||| (2 ^ f.w - 1) * 2 ^ f.lo) 0

/-- A written word as it acts where hardware sets the bits `same` in the cycle of the write: such a W1C bit stays set (R8). -/
def wordBeside (addr val same : Nat) : Nat :=
  match findReg (addr / 2 ^ 28) (addr % 2 ^ 28) with
  | some (r, _) => val - (val &&& same &&& r.w1cMask)
  | none => val

/-- The meaning of REGISTER_WRITE; `same` names the bits that hardware sets in its cycle. -/
def execRegisterWrite (m : Master) (addr : Nat) (d : BusData) (same : Nat) (s : State) : Answer :=
  let w := s.busWrite m addr (wordBeside addr d.val same) d.be
  s.answer (s.hasDie m.die) (!s.portHeld m && decide (addr < 2 ^ 32) && decide (d.val < 2 ^ 32) && decide (d.be < 16)) (w.1.respond (!w.2))

end Sys2Proof.Machine
end

