-- ==== Sys2Proof/Machine/Image.lean ====
section
/-!
DEFINITION. The configuration image: its layout (R323 to R330), the checks that a commit and the boot make of it (R331 to
R333, with the rules they name), and its signature.
-/

namespace Sys2Proof.Machine

/-! ### Layout -/

/-- A directory entry (R324). -/
structure ImgSection where
  type : Nat
  die : Nat
  count : Nat
  off : Nat
  len : Nat
  crc : Nat
deriving DecidableEq, Repr

/-- The directory of an image. -/
def imgSections (bs : List Byte) : List ImgSection :=
  (List.range (fieldAt bs 20 2)).map fun k =>
    let o := 64 + 16 * k
    ⟨fieldAt bs o 1, fieldAt bs (o + 1) 1, fieldAt bs (o + 2) 2, fieldAt bs (o + 4) 4, fieldAt bs (o + 8) 4, fieldAt bs (o + 12) 4⟩

/-- The bytes of a section. -/
def ImgSection.bytes (e : ImgSection) (bs : List Byte) : List Byte := (bs.drop e.off).take e.len

/-- A literal of R326. -/
def litOf (w : Nat) : Lit := ⟨w.testBit 15, bitsOf w 13 2, bitsOf w 11 2, bitsOf w 0 11⟩

/-- `n` literals from byte `k` of LINKS. -/
def litsAt (bs : List Byte) (k n : Nat) : List Lit := (List.range n).map fun j => litOf (fieldAt bs (k + 2 * j) 2)

/-- `n` terms from byte `k` of LINKS. -/
def termsAt (bs : List Byte) : Nat → Nat → LinkExpr
  | _, 0 => []
  | k, n + 1 => litsAt bs (k + 1) (fieldAt bs k 1) :: termsAt bs (k + 1 + 2 * fieldAt bs k 1) n

/-- The expression at an offset of LINKS. -/
def exprAt (bs : List Byte) (k : Nat) : LinkExpr := termsAt bs (k + 1) (fieldAt bs k 1)

/-- Whether the expression at an offset of LINKS keeps to the bounds of R326 and lies within the section. -/
def exprOk (bs : List Byte) (k : Nat) : Bool :=
  let e := exprAt bs k
  decide (k < bs.length) && decide (1 ≤ e.length) && decide (e.length ≤ 8) &&
    e.all (fun t => decide (1 ≤ t.length) && decide (t.length ≤ 16) && t.all fun l => decide (l.kind < 2) || (decide (l.kind = 2) && decide (l.iid < 2))) &&
    decide (k + 1 + (e.map fun t => 1 + 2 * t.length).sum ≤ bs.length)

/-- The record at byte `o` of INSTANCES (R325), with its expressions from LINKS. -/
def instAtByte (bs links : List Byte) (o : Nat) : InstRec :=
  let lnk (k : Nat) : Option LinkExpr := if fieldAt bs (o + k) 4 = 0xFFFFFFFF then none else some (exprAt links (fieldAt bs (o + k) 4))
  { iid := fieldAt bs o 2, code := fieldAt bs (o + 2) 1, iflg := fieldAt bs (o + 3) 1, ldie := fieldAt bs (o + 4) 1,
    lane := fieldAt bs (o + 5) 1, seg := fieldAt bs (o + 6) 1, fdie := fieldAt bs (o + 7) 1, cell := fieldAt bs (o + 8) 2,
    opt := fieldAt bs (o + 10) 1, rank := fieldAt bs (o + 11) 1, par0 := fieldAt bs (o + 12) 4, par1 := fieldAt bs (o + 16) 4,
    par2 := fieldAt bs (o + 20) 4, par3 := fieldAt bs (o + 24) 4,
    tslot := (List.range 8).map fun k => fieldAt bs (o + 28 + k) 1,
    lnk0 := lnk 36, lnk1 := lnk 40,
    rst := if fieldAt bs (o + 44) 2 = 0xFFFF then none else some (litOf (fieldAt bs (o + 44) 2)) }

/-- The register records of a section (R327). -/
def ImgSection.recs (e : ImgSection) (bs : List Byte) : List RegRec :=
  (List.range e.count).map fun k => ⟨e.die, fieldAt bs (e.off + 8 * k) 4, fieldAt bs (e.off + 8 * k + 4) 4⟩

/-- The image that some bytes spell. -/
def parseImage (bs : List Byte) : Image :=
  let ss := imgSections bs
  let sec (t : Nat) : List Byte := ((ss.find? fun e => e.type == t).map fun e => e.bytes bs).getD []
  let n := ((ss.find? fun e => e.type == 1).map ImgSection.count).getD 0
  { part := fieldAt bs 6 2, imgid := fieldAt bs 8 4, imgver := fieldAt bs 12 4, len := fieldAt bs 16 4, romrel := fieldAt bs 22 1,
    insts := (List.range n).map fun k => instAtByte (sec 1) (sec 2) (48 * k),
    recs := (ss.filter fun e => e.type == 3 || e.type == 4).flatMap fun e => e.recs bs,
    outmap := (sec 5).map BitVec.toNat,
    loads := (List.range 384).map fun k => fieldAt (sec 6) (2 * k) 2 }

/-! ### Checks 1 to 5 (R331) -/

/-- Check 1: MAGIC, FORMAT, PARTCODE, LENGTH, HCRC. -/
def State.imgHeaderOk (s : State) (bs : List Byte) : Bool :=
  decide (196 ≤ bs.length) && decide (fieldAt bs 0 4 = 0x46435643) && decide (fieldAt bs 4 2 = 1) &&
    decide (fieldAt bs 6 2 = s.variant.partCode) && decide (fieldAt bs 16 4 = bs.length) &&
    decide (fieldAt bs 24 4 = crc32c (bs.take 24 ++ (bs.drop 64).take (16 * fieldAt bs 20 2)))

/-- How many sections of a type for a die an image of this variant holds (R324). -/
def State.imgWants (s : State) (type die : Nat) : Nat :=
  match type with
  | 1 | 2 | 6 => if die = 0 then 1 else 0
  | 3 => (decide (die < 2) && s.hasDie die).toNat
  | 4 => (decide (2 ≤ die) && s.hasDie die).toNat
  | 5 => (decide (die = 0) && decide (s.variant = .cvsl808)).toNat
  | _ => 0

/-- The bytes that header, directory, sections and signature leave over. -/
def imgGap (bs : List Byte) (ss : List ImgSection) (k : Nat) : Bool :=
  decide (64 + 16 * ss.length ≤ k) && decide (k < bs.length - 132) && !ss.any fun e => decide (e.off ≤ k) && decide (k < e.off + e.len)

/-- Check 2: NSECT, the sections of R324, the placement rules of R323. -/
def State.imgPlacesOk (s : State) (bs : List Byte) : Bool :=
  let ss := imgSections bs
  let n := ss.length
  decide (5 ≤ n) && decide (n ≤ 13) &&
    (ss.all fun e =>
      ([1, 2, 3, 4, 5, 6, 0x7F].contains e.type) && decide (e.die < 8) && decide (e.off % 4 = 0) && decide (64 + 16 * n ≤ e.off) &&
        decide (e.off + e.len + 132 ≤ bs.length)) &&
    ([1, 2, 3, 4, 5, 6].all fun t => (List.range 8).all fun d =>
      (ss.countP fun e => e.type == t && e.die == d) == s.imgWants t d) &&
    (match ss.filter fun e => e.type == 0x7F with
      | [] => true
      | [e] => decide (e.die = 0) && decide (e.len ≤ 4096)
      | _ => false) &&
    ss.Pairwise (fun a b => a.off + a.len ≤ b.off ∨ b.off + b.len ≤ a.off) &&
    (List.range bs.length).all fun k => (!imgGap bs ss k && !(decide (28 ≤ k) && decide (k < 64))) || bs.getD k 0 == 0

/-- Check 3: every SCRC. -/
def imgCrcsOk (bs : List Byte) : Bool := (imgSections bs).all fun e => e.crc == crc32c (e.bytes bs)

/-- The registers that a record may name (R327). -/
def recordable (die : Nat) (r : Reg) : Bool :=
  if die < 2 then
    [Reg.TICK_TCFG, .RNG_RINGCFG, .RNG_RINGID, .RNG_ETYPE, .RNG_NODES, .RNG_CFGHASH, .RNG_TURNCFG, .RNG_SLSERV, .RNG_SLFURR,
      .RNG_SLSPATE, .RNG_SPFWD, .RNG_SVCFG, .RNG_PCFG, .SIEVEP_SCFG, .LANE_LWCET, .LANE_LCTL].contains r
  else
    [Reg.TERM_CFG, .TERM_OUTCFG, .TERM_PULSECFG, .TP_FRAME, .TP_CODE, .HC_HCFG, .HC_TSEL0, .HC_TSEL1, .HC_PAR0, .HC_PAR1,
      .HC_PAR2, .HC_PAR3, .HC_RST, .HC_HIID, .LMR, .HGLB_HRING, .HGLB_HRINGID, .HBOWN, .SIEVEH_SCFG].contains r

/-- The value that an image gives a field: its record's, else the reset value. -/
def Image.fld (i : Image) (f : Fld) (die idx : Nat) : Nat :=
  match i.recVal f.reg die idx with
  | some v => bitsOf v f.lo f.w
  | none => f.resetAt die idx

/-- The word that an image gives a register. -/
def Image.word (i : Image) (r : Reg) (die idx : Nat) : Nat :=
  match i.recVal r die idx with
  | some v => v
  | none => r.fields.foldl (fun a f => a + f.rst * 2 ^ f.lo) 0

/-- The format of one register record: an admitted register, only its RWL fields, values that its table admits (R327). -/
def Image.recOk (i : Image) (x : RegRec) : Bool :=
  decide (x.off < 2 ^ 28) &&
    match findReg x.die x.off with
    | none => false
    | some (r, _) =>
      recordable x.die r && r.bitsKnown x.val && tableOk r x.die x.val (i.fld F.RNG_TURNCFG_PERIOD x.die 0) &&
        r.fields.all fun f => f.acc == .rwl || bitsOf x.val f.lo f.w == 0

/-- The literals of term `j` of row LMRc in an image (R166). -/
def Image.rowTerm (i : Image) (fd c j : Nat) : List (Bool × Nat) :=
  let w := (List.range 6).foldl (fun a k => a + i.word .LMR (fdie fd) (96 * c + 6 * j + k) * 2 ^ (32 * k)) 0
  (List.range 16).map fun m => ((bitsOf w (12 * m) 12).testBit 11, bitsOf w (12 * m) 11)

/-- A record of a link-matrix word belongs to a term that names no source the part refuses (R166). -/
def Image.rowOk (i : Image) (x : RegRec) : Bool :=
  match findReg x.die x.off with
  | some (.LMR, n) => (i.rowTerm (x.die - 2) (n / 96) (n % 96 / 6)).all fun l => !srcRefused l.2
  | _ => true

/-- Whether each register stands in at most one record. -/
def Image.recsUnique (i : Image) : Bool := (i.recs.map fun x => (x.die, x.off)).Nodup

/-- The link inputs of a type (R163). -/
def FnType.links : FnType → Nat
  | .guardLock | .sto | .contactor | .brake | .restart | .zoneOut | .spateOut => 1
  | .stop1 => 2
  | _ => 0

/-- The format of one instance record (R325, R326). -/
def State.instFormatOk (s : State) (bs links : List Byte) (k : Nat) : Bool :=
  let o := 48 * k
  let r := instAtByte bs links o
  let lnkOk (j n : Nat) : Bool :=
    let v := fieldAt bs (o + j) 4
    match FnType.ofCode r.code with
    | some t => if n < t.links then decide (v ≠ 0xFFFFFFFF) && exprOk links v else decide (v = 0xFFFFFFFF)
    | none => false
  decide (r.iid = k) && decide (r.iflg < 4) && s.hasLd r.ldie && decide (r.lane < 8) && decide (1 ≤ r.seg) && decide (r.seg ≤ 16) &&
    s.hasFd r.fdie && decide (r.cell < 128) && decide (r.rank < 16) && decide (r.par0 < 2 ^ 24) && decide (r.par1 < 2 ^ 24) &&
    decide (r.par2 < 2 ^ 24) && decide (r.par3 < 2 ^ 24) && (r.tslot.all fun x => decide (x < 64) || decide (x = 0xFF)) &&
    lnkOk 36 0 && lnkOk 40 1 && (r.rst.all fun l => decide (l.kind < 2) || (decide (l.kind = 2) && decide (l.iid < 2))) && decide (fieldAt bs (o + 46) 2 = 0)

/-- Check 5: the record formats. -/
def State.imgFormatsOk (s : State) (bs : List Byte) : Bool :=
  let ss := imgSections bs
  let i := parseImage bs
  (ss.all fun e =>
    match e.type with
    | 1 => decide (e.len = 48 * e.count) && decide (e.count ≤ 768) &&
        (List.range e.count).all fun k =>
          s.instFormatOk (e.bytes bs) (((ss.find? fun x => x.type == 2).map fun x => x.bytes bs).getD []) k
    | 2 => decide (e.count = 0)
    | 3 | 4 => decide (e.len = 8 * e.count)
    | 5 => decide (e.len = 384)
    | 6 => decide (e.len = 768) && decide (e.count = 384)
    | _ => true) &&
  i.recs.all i.recOk && i.recs.all i.rowOk && i.recsUnique && i.outmap.all (fun b => decide (b < 4)) && decide (bs.getD 23 0 < 2)

/-! ### Checks 6 to 10 -/

/-- A terminal's mode under an image. -/
def Image.mode (i : Image) (fd t : Nat) : Nat := i.fld F.TERM_CFG_MODE (fdie fd) t

/-- The image's tick period code: the turn period of ring 0 where the ring is the tick source (R188). -/
def Image.period (i : Image) : Nat :=
  if i.fld F.TICK_TCFG_SRC 0 0 = 0 then i.fld F.RNG_TURNCFG_PERIOD 0 0 else i.fld F.TICK_TCFG_PERIOD 0 0

/-- The budget check of R154 for one lane. -/
def Image.laneOk (i : Image) (ld l : Nat) : Bool :=
  let w := i.fld F.LANE_LWCET_W ld l
  (i.insts.all fun r => !(r.ldie == ld && r.lane == l)) ||
    (decide (w ≠ 0) && decide (w ≤ laneBudget (periodUs i.period) (i.fld F.LANE_LCTL_CLKSEL ld l)))

/-- The literals of an instance with a producer. -/
def InstRec.producers (r : InstRec) : List Lit := r.lits.filter fun l => decide (l.kind < 2)

/-- The decision bits that bus edges carry between field dies (R128). -/
def Image.busBits (i : Image) : List (Nat × Nat) :=
  (i.insts.flatMap fun r => (r.producers.filter fun l => l.kind == 1 && (i.insts.find? fun p => p.iid == l.iid).any fun p =>
    p.fdie != r.fdie).map fun l => (l.iid, l.k)).dedup

/-- Check 6: capacity. -/
def State.imgCapacityOk (s : State) (i : Image) : Bool :=
  decide (i.insts.length ≤ 128 * s.variant.fields) &&
    (s.fds.all fun fd =>
      decide (((List.range 144).countP fun c => i.fld F.HC_HCFG_ACTIVE (fdie fd) c == 1) ≤ 128) &&
        decide (((i.insts.filter fun r => r.fdie == fd && r.code == 0x16).map fun r => (r.opt.testBit 1, bitsOf r.par0 0 13)).dedup.length ≤ 32) &&
        decide ((i.insts.countP fun r => r.fdie == fd && r.code == 0x17) ≤ 8)) &&
    (s.lds.all fun ld => decide ((i.insts.countP fun r => r.ldie == ld) ≤ 512) && (List.range 8).all fun l => i.laneOk ld l) &&
    decide (i.busBits.length ≤ 256)

/-- A tick count of the common expert range (R96, R106, R112, R120, R123, R125). -/
def ticksOk (v : Nat) : Bool := decide (1 ≤ v) && decide (v ≤ 65535)

/-- SPQUIET against the repetition of the part's own sources and the extent of the ring (R135). -/
def Image.quietOk (i : Image) (r : InstRec) : Bool :=
  let dom := r.par0 % 256
  let own := (i.insts.filter fun q => q.code == 0x17 && q.par0 % 256 == dom).map InstRec.par1
  let rep := if own.isEmpty then 64 else own.foldl max 0
  ticksOk r.par1 && (List.range 2).all fun ring =>
    !r.opt.testBit ring || decide (rep + markDelay (i.fld F.RNG_NODES_N ring 0) (periodUs i.period) + 2 ≤ r.par1)

/-- Parameter ranges (R90 and the tables of the types). -/
def Image.paramsOk (i : Image) (r : InstRec) : Bool :=
  let us := periodUs i.period
  let filt (k : Nat) : Nat := i.fld F.TERM_CFG_FILT (fdie r.fdie) (r.tslot.getD k 0)
  match FnType.ofCode r.code with
  | some .dualEq | some .dualAnti | some .ossd | some .estop => ticksOk r.par0
  | some .pullcord => ticksOk r.par0 && ticksOk r.par1
  | some .mute2 | some .mute4 =>
    ticksOk r.par0 && ticksOk r.par1 && decide (1 ≤ r.par2) && decide (r.par2 * us ≤ 3600 * 10 ^ 6) && decide (1 ≤ r.par3) &&
      decide (r.par3 * us ≤ 600 * 10 ^ 6) && (decide (r.code = 6) || decide (bitsOf r.opt 1 2 ≠ 3))
  | some .guardLock => ticksOk r.par0 && ticksOk r.par1
  | some .mat => true
  | some .standstill =>
    ticksOk r.par0 && ticksOk r.par1 && ticksOk r.par2 && decide (4 ≤ r.par0) && decide (4 ≤ r.par1) &&
      decide (2 * (max (filt 0) (filt 1) + 1) + 2 ≤ r.par1) && decide (r.par1 < r.par0) && decide (r.par0 ≤ r.par2)
  | some .sto | some .contactor | some .brake | some .stop1 => ticksOk r.par0
  | some .restart => ticksOk r.par0 && ticksOk r.par1 && decide (r.par0 ≤ r.par1)
  | some .zoneOut => decide (r.par0 < 64)
  | some .zoneIn => decide (1 ≤ r.par0) && decide (r.par0 ≤ 8190) && decide (r.par1 < 64) && decide (bitsOf r.opt 2 2 ≠ 3)
  | some .spateOut =>
    decide (r.par0 / 256 ≤ 1) && decide (16 ≤ r.par1) && decide (r.par1 ≤ 4096) && decide (bitsOf r.opt 0 2 ≠ 0)
  | some .spateIn => decide (r.par0 / 256 < 4) && decide (bitsOf r.opt 0 2 ≠ 0) && i.quietOk r
  | none => false

/-- What a terminal slot of a type takes: an IN terminal, a line-monitored IN terminal, an OUT terminal, an OUT or GD
terminal. -/
inductive SlotKind where
  | inp | mon | out | gate
deriving DecidableEq, Repr

/-- The slots that a type names, in order (R85, R117, R122, R124, R164). -/
def slotKinds (code opt : Nat) : List SlotKind :=
  let opt0 (k : SlotKind) : List SlotKind := if opt.testBit 0 then [k] else []
  match FnType.ofCode code with
  | some .dualEq | some .dualAnti | some .ossd | some .estop | some .standstill => [.inp, .inp]
  | some .pullcord => [.inp, .inp] ++ opt0 .inp
  | some .mute2 => [.inp, .inp, .inp, .inp, .out] ++ opt0 .inp
  | some .mute4 => [.inp, .inp, .inp, .inp, .inp, .inp, .out] ++ opt0 .inp
  | some .guardLock => [.inp, .inp, .inp, .inp, .inp, .out]
  | some .mat => List.replicate (bitsOf opt 1 2 + 1) .mon
  | some .sto => [.gate, .gate] ++ opt0 .inp
  | some .contactor => [.gate, .gate, .inp]
  | some .brake => [.gate] ++ opt0 .inp
  | some .stop1 => opt0 .out
  | some .restart => [.inp]
  | _ => []

/-- Whether terminal `t` of die `fd` is of the kind that a slot takes. -/
def Image.slotOk (i : Image) (fd t : Nat) (k : SlotKind) : Bool :=
  let m := i.mode fd t
  match k with
  | .inp => m == 1
  | .mon => m == 1 && i.fld F.TERM_CFG_ITYPE (fdie fd) t == 3 && i.fld F.TERM_CFG_TPEN (fdie fd) t == 0
  | .out => m == 2
  | .gate => m == 2 || m == 4

/-- Slots in use as the type names them, terminals in their modes (R85, R107, R115, R164), no other slot in use. -/
def Image.slotsOk (i : Image) (r : InstRec) : Bool :=
  let ks := slotKinds r.code r.opt
  (List.range 8).all fun j =>
    let t := r.tslot.getD j 0xFF
    match ks[j]? with
    | some k => decide (t < 64) && i.slotOk r.fdie t k
    | none => t == 0xFF

/-- The pair of an OSSD or a curtain (R95, R100). -/
def Image.pairOk (i : Image) (r : InstRec) : Bool :=
  let tolw (j : Nat) : Nat := i.fld F.TERM_PULSECFG_TOLW (fdie r.fdie) (r.tslot.getD j 0)
  let tpen (j : Nat) : Nat := i.fld F.TERM_CFG_TPEN (fdie r.fdie) (r.tslot.getD j 0)
  !([3, 6, 7].contains r.code) || (tpen 0 == 0 && tpen 1 == 0 && tolw 0 == tolw 1 && decide (800 ≤ tolw 0))

/-- OFFTEST on the OUT terminals of STO, CONTACTOR and BRAKE, or the exemption of the record (R121). -/
def Image.offtestOk (i : Image) (r : InstRec) : Bool :=
  !([0x10, 0x11, 0x12].contains r.code) || r.iflg.testBit 0 ||
    r.outs.all fun o => i.mode r.fdie o.2 != 2 || i.fld F.TERM_OUTCFG_OFFTEST (fdie r.fdie) o.2 == 1

/-- The assigned code of a source, with its width (R79 to R81). -/
def Image.codeOk (i : Image) (fd t : Nat) : Bool :=
  let d := fdie fd
  let a := i.fld F.TP_CODE_SLOTA d t
  let b := i.fld F.TP_CODE_SLOTB d t
  let w := i.fld F.TP_CODE_WIDTH d t
  i.fld F.TP_CODE_ASSIGNED d t == 0 ||
    (decide (a < b) && decide (1600 ≤ w) && decide (w ≤ 16000) && decide (w ≤ 4000 * 2 ^ i.fld F.TP_FRAME_FLEN d 0) &&
      (decide (i.mode fd t ≠ 2) || i.fld F.TERM_OUTCFG_OFFTEST d t == 0 || decide (w ≤ 8000)))

/-- One terminal: legal code, code assigned to a source (R56), GD pairing (R55), declared current (R329). -/
def Image.termOk (i : Image) (fd t : Nat) : Bool :=
  let d := fdie fd
  let m := i.mode fd t
  let needs := m == 3 || (m == 2 && i.fld F.TERM_OUTCFG_OFFTEST d t == 1)
  i.codeOk fd t && (!needs || i.fld F.TP_CODE_ASSIGNED d t == 1) &&
    (m != 4 || (t % 2 == 0 && i.mode fd (t + 1) == 5 && i.fld F.TERM_CFG_GDSNS d (t + 1) == 1)) &&
    (i.fld F.TERM_CFG_GDSNS d t == 0 || (t % 2 == 1 && m == 5 && i.mode fd (t - 1) == 4)) &&
    decide (i.loads.getD (64 * fd + t) 0 ≤ (if m = 2 ∨ m = 3 then 100 else 0)) &&
    ((m == 2 || m == 4) || i.outmap.getD (64 * fd + t) 0 == 0)

/-- The declared current of a field die in mA (R42, R329). -/
def Image.dieLoad (i : Image) (fd : Nat) : Nat :=
  ((List.range 64).map fun t => i.loads.getD (64 * fd + t) 0).sum +
    5 * (List.range 64).countP fun t => i.mode fd t == 1 && i.fld F.TERM_CFG_ITYPE (fdie fd) t == 3

/-- Check 7: parameters, terminals, codes, declared currents. -/
def State.imgParamsOk (s : State) (i : Image) : Bool :=
  i.insts.all i.paramsOk && (s.fds.all fun fd => (List.range 64).all fun t => i.termOk fd t) &&
    (s.fds.all fun fd => decide (i.dieLoad fd ≤ 2000) && decide (i.dieLoad fd * 500 ≤ 1500000)) &&
    decide ((s.fds.map i.dieLoad).sum ≤ 6000) &&
    ((List.range 384).all fun g => s.hasFd (g / 64) || i.loads.getD g 0 == 0)

/-- One edge of the network (R126, R127, R165): its class is that of the placement, a local producer comes no later in its
lane and lower in rank. -/
def Image.edgeOk (i : Image) (r : InstRec) (l : Lit) : Bool :=
  match i.insts.find? fun p => p.iid == l.iid with
  | none => false
  | some p =>
    let here := p.ldie == r.ldie && p.lane == r.lane && p.fdie == r.fdie
    decide (l.k < 3) && (if l.kind = 0 then here && decide (p.seg ≤ r.seg) && decide (p.rank < r.rank) else !here)

/-- The reset literal names RSTEV of a RESTART (R91, R168). -/
def Image.resetOk (i : Image) (r : InstRec) : Bool :=
  r.rst.all fun l => decide (l.kind < 2) && decide (l.k = 0) && !l.neg && i.insts.any fun p => p.iid == l.iid && p.code == 0x14

/-- The terminals that carry demands, as (die, local number), each as often as an instance drives it. -/
def Image.driven (i : Image) : List (Nat × Nat) := i.insts.flatMap fun r => r.outs.map fun o => (r.fdie, o.2)

/-- The logical lanes with a standby have none of their instances on the standby's lane (R366). -/
def State.imgStandbyOk (s : State) (i : Image) : Bool :=
  s.lds.all fun ld => (List.range 8).all fun n =>
    let outs := (i.insts.filter fun r => r.ldie == ld && r.lane == n).flatMap fun r => r.outs.map fun o => 64 * r.fdie + o.2
    outs.isEmpty || !(outs.all fun g => (i.outmap.getD g 0).testBit 1) || i.insts.all fun r => !(r.ldie == 1 - ld && r.lane == n)

/-- Check 8: placement and network rules. -/
def State.imgNetworkOk (s : State) (i : Image) : Bool :=
  (i.insts.all fun r => i.slotsOk r && i.pairOk r && i.offtestOk r && (r.producers.all fun l => i.edgeOk r l) && i.resetOk r) &&
    i.driven.Nodup && ((i.insts.filter fun r => r.code == 0x15).map InstRec.par0).Nodup &&
    ((i.insts.map fun r => (r.fdie, r.cell)).Nodup) && s.imgStandbyOk i

/-- The assigned codes of the part's sources, as slot pairs. -/
def State.imgCodes (s : State) (i : Image) : List (Nat × Nat) :=
  s.fds.flatMap fun fd => ((List.range 64).filter fun t => i.fld F.TP_CODE_ASSIGNED (fdie fd) t == 1).map fun t =>
    (i.fld F.TP_CODE_SLOTA (fdie fd) t, i.fld F.TP_CODE_SLOTB (fdie fd) t)

/-- Check 9: part-wide agreement; dual-ring mode is ENABLE on L1 (R227, R230). -/
def State.imgAgreeOk (s : State) (i : Image) : Bool :=
  let win (d : Nat) : Nat := if d < 2 then i.fld F.SIEVEP_SCFG_WIN d 0 else i.fld F.SIEVEH_SCFG_WIN d 0
  let on (ld : Nat) : Bool := i.fld F.RNG_RINGCFG_ENABLE ld 0 == 1
  let node (ld : Nat) : Nat := i.fld F.RNG_RINGCFG_NODE ld 0
  (s.imgCodes i).Nodup && (s.fds.all fun fd => i.fld F.TP_FRAME_FLEN (fdie fd) 0 == i.fld F.TP_FRAME_FLEN 2 0) &&
    (s.dies.all fun d => win d == win 0) &&
    (!(s.hasLd 1 && on 1) || (node 0 == node 1 && s.fds.all fun fd => i.fld F.HGLB_HRING_NODE (fdie fd) 0 == node 0)) &&
    s.lds.all fun ld =>
      (s.fds.all fun fd =>
        (if ld = 0 then i.fld F.HGLB_HRING_REACH0 (fdie fd) 0 else i.fld F.HGLB_HRING_REACH1 (fdie fd) 0) ==
            i.fld F.RNG_RINGCFG_REACH ld 0 &&
          (if ld = 0 then i.fld F.HGLB_HRINGID_RID0 (fdie fd) 0 else i.fld F.HGLB_HRINGID_RID1 (fdie fd) 0) ==
            i.fld F.RNG_RINGID_RID ld 0 &&
          (if ld = 0 then i.fld F.HGLB_HRING_STALE0 (fdie fd) 0 else i.fld F.HGLB_HRING_STALE1 (fdie fd) 0) ==
            i.fld F.RNG_TURNCFG_STALE ld 0) &&
        (!on ld || (decide (2 ≤ i.fld F.RNG_NODES_N ld 0) && decide (i.fld F.RNG_NODES_N ld 0 ≤ 8190) && decide (1 ≤ node ld) &&
          decide (node ld ≤ 8190))) &&
        (i.fld F.RNG_TURNCFG_MODE ld 0 == 1 || decide (i.fld F.RNG_NODES_N ld 0 ≤ 256))

/-! ### Check 10: channel agreement (R26, R332) -/

/-- The SRC of R166 for a literal of an instance; `none` where no HBOWN entry carries the bit. -/
def Image.srcOf (i : Image) (r : InstRec) (l : Lit) : Option Nat :=
  if 2 ≤ l.kind then some (2046 + l.iid % 2)
  else match i.insts.find? fun p => p.iid == l.iid with
    | none => none
    | some p =>
      if l.kind = 0 then some (4 * p.cell + l.k)
      else if p.fdie = r.fdie then some (576 + 4 * p.cell + l.k)
      else ((List.range 256).find? fun n =>
        i.fld F.HBOWN_USE (fdie r.fdie) n == 1 && i.fld F.HBOWN_WDIE (fdie r.fdie) n == p.fdie &&
          i.fld F.HBOWN_SRC (fdie r.fdie) n == 4 * p.cell + l.k).map fun n => 1152 + n

/-- A term as the set of its literals (NEG, SRC), without the constant 1 that fills a row's unused literals. -/
def cleanTerm (t : List (Bool × Nat)) : List (Bool × Nat) := (t.filter fun l => l != (false, 2047)).dedup

/-- Whether two lists hold the same elements. -/
def sameSet {α : Type} [DecidableEq α] (a b : List α) : Bool := (a.all fun x => b.contains x) && b.all fun x => a.contains x

/-- Whether two link inputs have the same terms, unused terms (constant 0) left out. -/
def sameTerms (a b : List (List (Bool × Nat))) : Bool :=
  let live (l : List (List (Bool × Nat))) := l.filter fun t => !sameSet t [(false, 2046)]
  ((live a).all fun t => (live b).any fun u => sameSet t u) && (live b).all fun t => (live a).any fun u => sameSet t u

/-- One link input of an instance on both channels. -/
def Image.linkAgrees (i : Image) (r : InstRec) (n : Nat) (e : Option LinkExpr) : Bool :=
  match e with
  | none => true
  | some ts =>
    let p := ts.map fun t => t.map fun l => (i.srcOf r l).map fun v => (l.neg, v)
    p.all (fun t => t.all Option.isSome) &&
      sameTerms (p.map fun t => cleanTerm (t.filterMap id)) ((List.range 8).map fun j => cleanTerm (i.rowTerm r.fdie r.cell (8 * n + j)))

/-- The H-cell registers of an instance. -/
def Image.cellAgrees (i : Image) (r : InstRec) : Bool :=
  let d := fdie r.fdie
  let sel (k : Nat) : Nat := let t := r.tslot.getD k 0xFF; if t < 64 then t + 128 else 0
  let tsel (k : Nat) : Nat := sel k + 2 ^ 8 * sel (k + 1) + 2 ^ 16 * sel (k + 2) + 2 ^ 24 * sel (k + 3)
  i.word .HC_HCFG d r.cell == r.code + 2 ^ 8 * r.rank + 2 ^ 12 + 2 ^ 16 * r.opt && i.word .HC_PAR0 d r.cell == r.par0 &&
    i.word .HC_PAR1 d r.cell == r.par1 && i.word .HC_PAR2 d r.cell == r.par2 && i.word .HC_PAR3 d r.cell == r.par3 &&
    i.word .HC_TSEL0 d r.cell == tsel 0 && i.word .HC_TSEL1 d r.cell == tsel 4 && i.fld F.HC_HIID_IID d r.cell == r.iid &&
    (match r.rst with
      | none => i.fld F.HC_RST_USE d r.cell == 0
      | some l => i.fld F.HC_RST_USE d r.cell == 1 && (i.srcOf r l == some (i.fld F.HC_RST_SRC d r.cell))) &&
    (List.range 16).all fun j => (i.rowTerm r.fdie r.cell j).all fun l => !srcRefused l.2

/-- The zone entry of the H-bus for a ZONE_OUT, on every die (R26, R174). -/
def State.zoneAgrees (s : State) (i : Image) (r : InstRec) : Bool :=
  r.code != 0x15 || s.fds.all fun fd =>
    i.fld F.HBOWN_USE (fdie fd) (256 + r.par0) == 1 && i.fld F.HBOWN_WDIE (fdie fd) (256 + r.par0) == r.fdie &&
      i.fld F.HBOWN_SRC (fdie fd) (256 + r.par0) == 4 * r.cell

/-- Check 10. -/
def State.imgChannelsOk (s : State) (i : Image) : Bool :=
  (i.insts.all fun r => i.cellAgrees r && i.linkAgrees r 0 r.lnk0 && i.linkAgrees r 1 r.lnk1 && s.zoneAgrees i r) &&
    (s.fds.all fun fd =>
      ((List.range 144).countP fun c => i.fld F.HC_HCFG_ACTIVE (fdie fd) c == 1) == i.insts.countP fun r => r.fdie == fd) &&
    s.fds.all fun fd => (List.range 320).all fun n => i.word .HBOWN (fdie fd) n == i.word .HBOWN 2 n

/-- Whether a record of the image names a lane: an instance's, or one of the lane's registers. -/
def Image.namesLane (i : Image) : Bool :=
  !i.insts.isEmpty || i.recs.any fun r =>
    match findReg r.die r.off with
    | some (.LANE_LCTL, _) | some (.LANE_LWCET, _) => decide (r.die < 2)
    | _ => false

/-- Check 4: ROMREL is that of every lane that a record names. -/
def State.imgRomOk (s : State) (i : Image) : Bool := !i.namesLane || decide (i.romrel = Config.romRel s.rev.code % 256)

/-- The checks of R331 in order. -/
def State.imageOk (s : State) (bs : List Byte) : Bool :=
  let i := parseImage bs
  s.imgHeaderOk bs && s.imgPlacesOk bs && imgCrcsOk bs && s.imgRomOk i && s.imgFormatsOk bs &&
    s.imgCapacityOk i && s.imgParamsOk i && s.imgNetworkOk i && s.imgAgreeOk i && s.imgChannelsOk i

/-! ### The signature (R330) and the flash slots (R335 to R337) -/

/-- The image signature (R330), its ECDSA check left out where the digest is `known`. -/
def State.imageSignedBut (s : State) (known : Bool) (bs : List Byte) : Bool :=
  let b := bs.drop (bs.length - 132)
  decide (fieldAt b 1 3 = 0) && decide (fieldAt b 0 1 < 16) && s.sigOkBut known (keySlot (fieldAt b 0 1)) ((b.drop 4).take 64) (sha256 (bs.take (bs.length - 132))) (b.drop 68)

/-- The image signature (R330). -/
def State.imageSigned (s : State) (bs : List Byte) : Bool := s.imageSignedBut false bs

/-- Where image slot `k` and its two records lie. -/
def imgSlot (k : Nat) : Nat := 0x200000 + 0x100000 * k
def imgRecord (k : Nat) : Nat := 0x400000 + 0x1000 * k
def comRecord (k : Nat) : Nat := 0x400800 + 0x1000 * k

/-- An image record or a commission record of R336 over an image digest, with the free value spent on its MAC where no key
is loaded. -/
def State.macRecord (s : State) (magic gen imgid imgver last hash : Nat) : List Byte :=
  let h := leBytes 4 magic ++ leBytes 4 gen ++ leBytes 4 imgid ++ leBytes 4 imgver ++ leBytes 4 last ++ leBytes 12 0
  h ++ s.macBytes (h ++ beBytes 32 hash)

/-- "CVIR" and "CVCM". -/
abbrev magicCvir : Nat := 0x52495643
abbrev magicCvcm : Nat := 0x4D435643

/-- The image of a slot as its record declares its length. -/
def State.slotImage (s : State) (k : Nat) : List Byte := s.flashBytes (imgSlot k) (min 0x100000 (fieldAt (s.flashBytes (imgRecord k) 64) 16 4))

/-- Whether an image record verifies over its slot (R336), with GEN not 0. -/
def State.recordOk (s : State) (k : Nat) : Bool :=
  let r := s.flashBytes (imgRecord k) 64
  let bs := s.slotImage k
  s.flag F.SYSCTL_VSTAT_LOADED 0 0 && decide (fieldAt r 0 4 = magicCvir) && decide (fieldAt r 4 4 ≠ 0) &&
    r == s.macRecord magicCvir (fieldAt r 4 4) (parseImage bs).imgid (parseImage bs).imgver bs.length (sha256 bs)

/-- Whether the slot's commission record verifies and names the same GEN and IMGVER (R337). -/
def State.slotCommissioned (s : State) (k : Nat) : Bool :=
  let r := s.flashBytes (comRecord k) 64
  let bs := s.slotImage k
  s.flag F.SYSCTL_VSTAT_LOADED 0 0 &&
    r == s.macRecord magicCvcm (fieldAt (s.flashBytes (imgRecord k) 64) 4 4) (parseImage bs).imgid (parseImage bs).imgver
      (fieldAt r 16 4) (sha256 bs)

/-! ### An image put into service outside Run (R337, R440) -/

/-- The registers of every logic die, and the lanes' work, follow the running image. -/
def State.loadLogic (s : State) : State :=
  s.each s.lds fun s ld => (s.loadRecs s.image.img.recs ld).setRuns ld

/-- Field dies that can be loaded now. -/
def State.loadable (s : State) : List Nat :=
  s.fds.filter fun fd => (s.field fd).power && !(s.field fd).fbist && !s.fenced U.field (fdie fd) 0

/-- Whether the lane that LMAP names may carry logical lane `n`: not fenced, its patch sets of one identity (R143), and named by no
other logical lane in use. -/
def State.lanePlaced (s : State) (ld n : Nat) : Bool :=
  let l := s.phys ld n
  !s.fenced U.lane ld l && s.idsEqual ld l && (List.range 8).all fun m => decide (m = n) || !s.logicalUsed ld m || decide (s.phys ld m ≠ l)

/-- Logical lanes whose lane may not carry them go to spare lanes; those that find none wait, their instances fenced (R365, R440). A
logical lane that is not in use is moved off a retired lane, onto the lowest lane that is not (R415; log entry 138). -/
def State.placeLanes (s : State) (ld : Nat) : State :=
  let s1 := s.each ((List.range 8).filter fun n => s.logicalUsed ld n) fun s n =>
    s.on (!s.lanePlaced ld n) fun s =>
      match s.lowestSpare ld with
      | some l => s.remap ld n l
      | none => s.each (s.logicalInsts ld n) fun s r => s.fenceInst ld r.iid 0x08
  s1.each ((List.range 8).filter fun n => !s1.logicalUsed ld n && s1.retired ld (s1.phys ld n)) fun s n =>
    match (List.range 8).find? fun l => !s.retired ld l with
    | some l => s.put (fldLmap n) ld 0 l
    | none => s

/-- Ring admission starts (R440). -/
def State.startUp (s : State) : State := s.each s.lds fun s ld => s.ringConf ld

/-- An image is the running one, with every record of the logic dies written (R334). -/
def State.adoptLogic (s : State) (i : RunImage) : State :=
  let s1 : State := { s with image := i, part := { s.part with noconfig := false } }
  (s1.each s1.lds fun s ld => s.placeLanes ld).loadLogic

/-- An image is put into service outside Run. -/
def State.adoptImage (s : State) (i : RunImage) : State :=
  let s1 := s.adoptLogic i
  (s1.each s1.loadable fun s fd => s.loadField fd).startUp

/-! ### What a commit compares with the running image (R333, R334, R367) -/

/-- Whether the image's identity and version may replace the running one. -/
def State.versionOk (s : State) (i : Image) : Bool :=
  !s.image.loaded || decide (i.imgid ≠ s.image.img.imgid) || decide (s.image.img.imgver < i.imgver)

/-- Whether some start record differs from the running value. -/
def State.startDiffers (s : State) (i : Image) : Bool :=
  i.recs.any fun x => startRec x.die x.off &&
    match findReg x.die x.off with
    | some (r, n) => r.fields.any fun f => f.acc == .rwl && bitsOf x.val f.lo f.w != s.get f x.die n
    | none => false

/-- The register records of an instance's terminals and H-cell. -/
def Image.unitRecs (i : Image) (r : InstRec) : List (Option Nat) :=
  let d := fdie r.fdie
  (r.tslot.filter fun t => t < 64).flatMap (fun t =>
    [i.recVal .TERM_CFG d t, i.recVal .TERM_OUTCFG d t, i.recVal .TERM_PULSECFG d t, i.recVal .TP_CODE d t]) ++
    (hcRegs.map fun g => i.recVal g d r.cell) ++ (List.range 96).map fun w => i.recVal .LMR d (96 * r.cell + w)

/-- The changed, new and removed instances between two images. -/
def changedInsts (old new_ : Image) : List Nat :=
  let differs (r : InstRec) : Bool :=
    match new_.insts.find? fun q => q.iid == r.iid with
    | some q => q != r || old.unitRecs r != new_.unitRecs q
    | none => true
  ((old.insts.filter differs).map InstRec.iid) ++
    (new_.insts.filter fun q => !old.insts.any fun r => r.iid == q.iid).map InstRec.iid

end Sys2Proof.Machine
end

