-- ==== Sys2Proof/Machine/Serve.lean ====
section
/-!
DEFINITION. How a supervisor serves a request (R279 to R283, R287 to R289, R296 to R300): the opcode table, the checks in their
order, the answers, and the job table.
-/

namespace Sys2Proof.Machine

/-! ### Status codes (R282, R322) -/

namespace St

abbrev ok : Nat := 0x0000
abbrev started : Nat := 0x0001
abbrev badCrc : Nat := 0x0010
abbrev badHeader : Nat := 0x0011
abbrev badLength : Nat := 0x0012
abbrev seqErr : Nat := 0x0013
abbrev unknownOpcode : Nat := 0x0014
abbrev badParam : Nat := 0x0015
abbrev duplicate : Nat := 0x0016
abbrev expertRequired : Nat := 0x0020
abbrev authRequired : Nat := 0x0021
abbrev authFail : Nat := 0x0022
abbrev counterStale : Nat := 0x0023
abbrev notPermitted : Nat := 0x0024
abbrev isSealed : Nat := 0x0025
abbrev bounds : Nat := 0x0026
abbrev writeRefused : Nat := 0x0027
abbrev inProgress : Nat := 0x0032
abbrev noResource : Nat := 0x0033
abbrev mbBusy : Nat := 0x0034
abbrev regRefused : Nat := 0x0100
abbrev xferUnknown : Nat := 0x0101
abbrev imageIncomplete : Nat := 0x0102
abbrev imageInvalid : Nat := 0x0103
abbrev imageMismatch : Nat := 0x0104
abbrev sigInvalid : Nat := 0x0105
abbrev flashErr : Nat := 0x0106
abbrev fwNotStaged : Nat := 0x0107
abbrev fwOlder : Nat := 0x0108
abbrev noStandby : Nat := 0x0109
abbrev unitBusy : Nat := 0x010A
abbrev clearRefused : Nat := 0x010B
abbrev ringActive : Nat := 0x010E
abbrev otpLocked : Nat := 0x010F
abbrev otpRate : Nat := 0x0110
abbrev otpMismatch : Nat := 0x0111
abbrev lcOrder : Nat := 0x0112

end St

/-! ### The opcode table (R296, R321) -/

/-- A code of the state columns of R296. -/
inductive Column where
  | y | o | s | n
deriving DecidableEq, Repr

/-- A row of R296: whether it is changing, whether local only, and its columns BLANK, VENDOR, FIELD sealed, RETIRED. The column
FIELD open reads Y in every row whose FIELD sealed is Y or S. -/
structure OpRow where
  changing : Bool
  locals : Bool
  blank : Column
  vendor : Column
  field : Column
  retired : Column
deriving DecidableEq, Repr

/-- The opcodes that the part defines. The handover opcodes have no state columns: every state serves them. -/
def opRow : Nat → Option OpRow
  | 0x0001 | 0x0002 | 0x0101 => some ⟨false, false, .y, .y, .y, .y⟩
  | 0x0003 | 0x0030 | 0x0031 => some ⟨false, false, .n, .y, .y, .y⟩
  | 0x0010 | 0x0011 | 0x0012 | 0x0110 | 0x0111 | 0x0130 => some ⟨true, false, .n, .o, .s, .n⟩
  | 0x0013 => some ⟨true, false, .n, .n, .s, .n⟩
  | 0x0020 | 0x0021 => some ⟨true, false, .n, .y, .y, .n⟩
  | 0x0102 | 0x0112 | 0x0120 | 0x0121 | 0x0122 | 0x0123 => some ⟨true, false, .n, .y, .y, .y⟩
  | 0x0140 => some ⟨true, true, .y, .y, .s, .n⟩
  | 0x0141 => some ⟨true, true, .y, .o, .s, .n⟩
  | 0x0201 | 0x0202 => some ⟨true, false, .y, .y, .y, .y⟩
  | _ => none

/-- Handover opcodes (R289). -/
def isHandover (op : Nat) : Bool := decide (op / 256 = 2)

/-- Expert opcodes (R289). -/
def isExpert (op : Nat) : Bool := decide (op / 256 = 1)

/-- The column that holds in the present life-cycle state. -/
def OpRow.column (r : OpRow) (lc : Nat) : Column :=
  match lc with
  | 0 => r.blank
  | 1 => r.vendor
  | 2 => r.field
  | _ => r.retired

/-- The answer of the state columns: 0 where the command is served. The ROM serves what BLANK admits, and FW_STAGE and
FW_ACTIVATE (R296, R441). -/
def State.columnStatus (s : State) (op : Nat) (r : OpRow) (sv : Nat) : Nat :=
  let rom := (s.svst sv).romOnly && decide (s.lc ≠ 0) && decide (r.blank ≠ .y) && decide (op ≠ 0x0020) && decide (op ≠ 0x0021)
  if rom then St.notPermitted
  else match r.column s.lc with
    | .y => 0
    | .o | .s => if s.gate 0 then 0 else St.isSealed
    | .n => St.notPermitted

/-! ### A request -/

/-- A request as the checks see it: its bytes, LEN, whether it is signed. -/
structure Req where
  bytes : List Byte
  len : Nat
  signed : Bool
deriving DecidableEq, Repr

/-- The request that stands in a mailbox. -/
def State.req (s : State) (ld mb : Nat) : Req :=
  let b := s.request ld mb
  ⟨b, fieldAt b 4 2, (fieldAt b 6 1).testBit 0⟩

def Req.op (q : Req) : Nat := fieldAt q.bytes 0 2
def Req.tag (q : Req) : Nat := fieldAt q.bytes 2 2
def Req.seq (q : Req) : Nat := fieldAt q.bytes 8 2
def Req.payload (q : Req) : List Byte := (q.bytes.drop 16).take q.len

/-- The command's own payload: without the signature block of a signed request (R287). -/
def Req.own (q : Req) : List Byte := if q.signed then q.payload.take (q.len - 140) else q.payload

/-- The signature block (R287). -/
def Req.block (q : Req) : List Byte := q.payload.drop (q.len - 140)

/-- The counter of a signature block. -/
def Req.cnt (q : Req) : Nat := fieldAt q.block 0 8

/-- Checks 1 to 3 of R279: 0 where they pass. -/
def Req.formStatus (q : Req) : Nat :=
  if 492 < q.len then St.badLength
  else if fieldAt q.bytes (16 + q.len) 4 ≠ crc32c (q.bytes.take (16 + q.len)) then St.badCrc
  else if 2 ≤ fieldAt q.bytes 6 1 ∨ 2 ≤ fieldAt q.bytes 7 1 ∨ fieldAt q.bytes 10 2 ≠ 0 ∨ fieldAt q.bytes 12 4 ≠ 0 then St.badHeader
  else 0

/-- What R280 makes of a SEQ. -/
inductive SeqCase where
  | new | again | duplicate | error
deriving DecidableEq, Repr

/-- Check 4 (R280). -/
def State.seqCase (s : State) (ld mb seq : Nat) : SeqCase :=
  let last := s.get F.MB_MBSEQ_LAST ld mb
  if !s.flag F.MB_MBSEQ_SYNC ld mb then .new
  else if seq = (last + 1) % 65536 then .new
  else if seq = last then (if s.flag F.MB_MBSEQ_RSPHELD ld mb then .again else .duplicate)
  else .error

/-- Check 7 (R273, R321): whether the mailbox admits the command. -/
def State.mbAdmits (s : State) (mb op : Nat) (r : OpRow) : Bool :=
  (decide (mb = 7) == isHandover op) && (!r.locals || decide (mb < 4) || decide (mb = 6)) &&
    (decide (mb ≠ 6) || !r.changing || s.gate 0)

/-- The digest that a signature covers (R287). -/
def State.reqDigest (s : State) (q : Req) : Nat :=
  sha256 (leBytes 8 s.devident ++ q.bytes.take 2 ++ (q.bytes.drop 7).take 1 ++ (q.bytes.drop 4).take 2 ++ q.own ++ q.block.take 9)

/-- Whether the signature of a request verifies; with an uncorrectable device identity none does (R436). -/
def State.reqSigned (s : State) (q : Req) : Bool :=
  decide (140 ≤ q.len) && decide (fieldAt q.block 8 1 < 16) && decide (fieldAt q.block 9 3 = 0) && (s.otpData 0).isSome &&
    s.sigOk (keySlot (fieldAt q.block 8 1)) ((q.block.drop 12).take 64) (s.reqDigest q) (q.block.drop 76)

/-- Whether the counter of a verified request is accepted on a mailbox (R288, R424). -/
def State.counterOk (s : State) (mb : Nat) (q : Req) : Bool :=
  match s.counter with
  | some v => decide (v < q.cnt)
  | none => decide (mb ≠ 4) && decide (mb ≠ 5) && s.gate 0

/-- Check 8: the status, 0 where it passes, and the state with the counter advanced. With VIO tripped no flash command ends well
(R445). -/
def State.authorise (s : State) (mb : Nat) (q : Req) (r : OpRow) : State × Nat :=
  if !q.signed then (s, if r.changing && (decide (mb = 4) || decide (mb = 5)) then St.authRequired else 0)
  else if !s.reqSigned q then (s, St.authFail)
  else if !s.counterOk mb q then (s, St.counterStale)
  else if s.part.vio then (s, St.flashErr)
  else (s.putCounter q.cnt, 0)

/-! ### Answers -/

/-- What a command's own meaning answers: the state, the status, the payload. -/
structure Reply where
  st : State
  status : Nat
  payload : List Byte
deriving DecidableEq, Repr

/-- A refused request: nothing done, no payload (R298). -/
def refused (s : State) (status : Nat) : Reply := ⟨s, status, []⟩

/-- An executed request. -/
def done (s : State) (payload : List Byte) : Reply := ⟨s, St.ok, payload⟩

/-- Write the response of a request and complete (R277, R280). -/
def State.reply (s : State) (ld mb : Nat) (q : Req) (status : Nat) (payload : List Byte) : State :=
  s.mbRespond ld mb (Machine.reply q.bytes 2 status payload)

/-- Checks 5 to 9 of R279, then the command: `len` says whether the length of its own payload is one that its layout admits. -/
def State.answerReq (s : State) (mb sv : Nat) (q : Req) (len : List Byte → Bool) (f : State → List Byte → Reply) : Reply :=
  match opRow q.op with
  | none => refused s St.unknownOpcode
  | some r =>
    if (fieldAt q.bytes 7 1).testBit 0 ≠ isExpert q.op then refused s St.expertRequired
    else if !s.mbAdmits mb q.op r then refused s St.notPermitted
    else
      let a := s.authorise mb q r
      if a.2 ≠ 0 then refused a.1 a.2
      else if a.1.columnStatus q.op r sv ≠ 0 then refused a.1 (a.1.columnStatus q.op r sv)
      else if !len q.own then refused a.1 St.badLength
      else f a.1 q.own

/-- The die whose supervisor serves a mailbox. -/
def State.serverDie (s : State) (ld mb : Nat) : Nat := s.get F.MB_MBCTL_SERVER ld mb - 1

/-- Serve the request that stands in a mailbox (R279, R280). `f` gets the state, the command's own payload, the server's die and
the tag of the request; `after` acts once COMPLETE is set with OK. -/
def State.serve (s : State) (ld mb : Nat) (len : List Byte → Bool) (f : Nat → Nat → State → List Byte → Reply)
    (after : State → State := id) : State :=
  let q := s.req ld mb
  let sv := s.serverDie ld mb
  if q.formStatus ≠ 0 then s.reply ld mb q q.formStatus []
  else match s.seqCase ld mb q.seq with
    | .again => s.mbFinish ld mb 0
    | .duplicate => s.reply ld mb q St.duplicate []
    | .error => s.reply ld mb q St.seqErr []
    | .new =>
      let a := s.answerReq mb sv q len (f sv q.tag)
      (a.st.reply ld mb q a.status a.payload).on (decide (a.status = St.ok)) after

/-- Whether a request gets its answer before its opcode selects a command: it fails a check of its form or its SEQ, repeats the last
request, or its opcode is not defined (checks 1 to 5 of R279). Every row of a command serves such a request alike. -/
def State.unread (s : State) (ld mb : Nat) : Bool :=
  let q := s.req ld mb
  decide (q.formStatus ≠ 0) || decide (s.seqCase ld mb q.seq ≠ .new) || (opRow q.op).isNone

/-- Whether a supervisor can begin to serve a mailbox now (R283, R284). -/
def State.serverReady (s : State) (ld mb : Nat) : Bool :=
  let server := s.get F.MB_MBCTL_SERVER ld mb
  decide (s.mbState ld mb = mbPosted) && decide (server ≠ 0) && s.svUp (server - 1) && decide (5 ≤ s.part.bootStep) &&
    s.servedNext ld mb

/-- Whether a supervisor can begin to serve a mailbox now by a row with an opcode: the request has that opcode, or its answer needs
none. -/
def State.canServe (s : State) (ld mb op : Nat) (sub : Bool) : Bool :=
  s.serverReady ld mb && (s.unread ld mb || (decide ((s.req ld mb).op = op) && sub))

/-- The answer of a row for requests of one opcode, where `sub` says which of them are the row's. -/
def State.command (s : State) (ld mb op : Nat) (sub : Bool) (len : List Byte → Bool) (f : Nat → Nat → State → List Byte → Reply)
    (after : State → State := id) : Answer :=
  s.answer (s.hasLd ld && decide (mb < 8)) (s.canServe ld mb op sub) (s.serve ld mb len f after)

/-- A payload of exactly `n` bytes. -/
def lenIs (n : Nat) (p : List Byte) : Bool := decide (p.length = n)

/-- Whether `n` bytes of a payload from `k` on are 0. -/
def zeros (p : List Byte) (k n : Nat) : Bool := decide (fieldAt p k n = 0)

/-! ### Jobs (R299) -/

/-- The entry that a new job takes: an empty one, else the oldest finished one. JOBIDs are taken in sequence, so the oldest is the
one furthest behind the next JOBID. -/
def State.jobSlot (s : State) (ld : Nat) : Option Nat :=
  match (List.range 8).find? fun e => (s.job ld e).state = 0 with
  | some e => some e
  | none =>
    let age (e : Nat) : Nat := ((s.svst ld).nextJob + 254 - (s.job ld e).id) % 255
    ((List.range 8).filter fun e => (s.job ld e).state = 2).foldl
      (fun b e => match b with
        | none => some e
        | some x => if age x < age e then some e else some x) none

/-- A new job of the supervisor of die `sv` runs; the answer is its identity. -/
def State.startJob (s : State) (ld sv e op tag : Nat) : State × Nat :=
  let v := s.svst ld
  let n := v.nextJob
  ((s.setJob ld e ⟨n, 1, op, tag, 0, 0, 1, 0, sv⟩).setSv ld { v with nextJob := n % 255 + 1 }, n)

/-- Start a job of the supervisor of die `sv` and what it does; NO_RESOURCE where all entries run. `f` gets the entry. -/
def State.asJob (s : State) (ld sv op tag : Nat) (f : State → Nat → State) : Reply :=
  match s.jobSlot ld with
  | none => refused s St.noResource
  | some e =>
    let a := s.startJob ld sv e op tag
    ⟨f a.1 e, St.started, [BitVec.ofNat 8 a.2, 0, 0, 0]⟩

/-- Whether a commit, migration or swap runs (R300). -/
def State.busyJob (s : State) : Bool := s.soak.isSome || s.part.lateJob.isSome

/-! ### Reading registers for an answer -/

/-- Words of a die's registers, as little-endian bytes. -/
def State.wordsOf (s : State) (l : List (Reg × Nat × Nat)) : List Byte := l.flatMap fun x => leBytes 4 (s.word x.1 x.2.1 x.2.2)

/-- Reads of words at ascending addresses by the supervisor, up to the first refused one: the state, the words, whether all were
read (R315). -/
def State.readRun (s : State) (m : Master) (addr : Nat) : Nat → State × List Nat × Bool
  | 0 => (s, [], true)
  | n + 1 =>
    let r := s.busRead m addr
    if r.2.2 then (r.1, [], false)
    else
      let t := State.readRun r.1 m (addr + 4) n
      (t.1, r.2.1 :: t.2.1, t.2.2)

/-! ### The state report -/

/-- PSTATE (R303). -/
def State.pstate (s : State) : Nat :=
  if s.lc = 3 ∨ s.partSafe = true then 2 else if s.part.noconfig then 3 else if s.inRun then 1 else 0

/-- Whether FAULT_N is low (R456). -/
def State.faultLow (s : State) : Bool := decide (s.fltSrc ≠ 0)

/-- A job entry as STATUS returns it. -/
def Job.bytes (j : Job) : List Byte :=
  leBytes 1 j.id ++ leBytes 1 j.state ++ leBytes 2 j.op ++ leBytes 2 j.tag ++ leBytes 1 j.progress ++ leBytes 1 j.rderr ++
    leBytes 2 j.fstatus ++ leBytes 2 0 ++ leBytes 4 j.result

end Sys2Proof.Machine
end

