-- ==== Sys2Proof/Machine/ConfigCommands.lean ====
section
/-!
DEFINITION. The commands that change what runs: configuration and firmware transfers, commissioning, migration and cell swap
(R307 to R313, R318, R333 to R337, R364 to R370, R441).
-/

namespace Sys2Proof.Machine

/-! ### Transfers (R307 to R309, R312) -/

/-- The XFER that the next open takes: in sequence, never 0. -/
def State.nextXfer (s : State) : Nat := s.xferSeq % 65535 + 1

/-- A piece of a transfer. -/
def Transfer.write (t : Transfer) (off : Nat) (bs : List Byte) : Transfer :=
  { t with data := bs.zipIdx.foldl (fun d x => Store.set (fun _ => none) d (off + x.2) (some x.1)) t.data }

/-- How many bytes from `k` on stand without a gap. -/
def gapless : Store (Option Byte) → Nat → Nat
  | (a, _) :: l, k => if a = k then gapless l (k + 1) else k
  | [], k => k

/-- RCVD of a transfer. -/
def Transfer.received (t : Transfer) : Nat := gapless t.data 0

/-- The bytes of a complete transfer. -/
def Transfer.bytes (t : Transfer) : List Byte := t.data.map fun x => x.2.getD 0

/-- Whether a transfer carries an XFER. -/
def Transfer.is (t : Transfer) (x : Nat) : Bool := decide (x ≠ 0) && decide (t.xfer = x)

/-- A data request: XFER, OFFSET and DATA as CONFIG_CHUNK and FW_STAGE place them; the answer is the transfer, or the status. -/
def Transfer.chunk (t : Transfer) (p : List Byte) (at_ : Nat) : Except Nat Transfer :=
  let off := fieldAt p 4 4
  if !t.is (fieldAt p at_ 2) then .error St.xferUnknown
  else if t.len < off + (p.length - 8) then .error St.badParam
  else .ok (t.write off (p.drop 8))

/-- A length that carries at least one byte of data. -/
def lenData (p : List Byte) : Bool := decide (9 ≤ p.length)

/-- SOAKN as a request gives it: 0 selects 64; none outside 16 to 65,535. -/
def soakN (v : Nat) : Option Nat := if v = 0 then some 64 else if 16 ≤ v then some v else none

/-- What CONFIG_BEGIN does. -/
def State.configBegin (s : State) (p : List Byte) : Reply :=
  let len := fieldAt p 0 4
  let sw := fieldAt p 12 1
  match soakN (fieldAt p 14 2) with
  | none => refused s St.badParam
  | some n =>
    if len < 64 ∨ 1048576 < len ∨ 1 < sw ∨ zeros p 13 1 = false then refused s St.badParam
    else if s.busyJob then refused s St.inProgress
    else
      let x := s.nextXfer
      done { s with xferSeq := x, xferC := ⟨x, len, fieldAt p 4 4, fieldAt p 8 4, sw, n, []⟩ } (leBytes 2 x ++ leBytes 2 0)

/-- The meaning of CONFIG_BEGIN. -/
def execConfigBegin (ld mb : Nat) (s : State) : Answer :=
  s.command ld mb 0x0010 true (lenIs 16) fun _ _ s p => s.configBegin p

/-- What CONFIG_CHUNK does. -/
def State.configChunk (s : State) (p : List Byte) : Reply :=
  if !zeros p 2 2 then refused s St.badParam
  else match s.xferC.chunk p 0 with
    | .error e => refused s e
    | .ok t => done { s with xferC := t } (leBytes 4 t.received ++ leBytes 4 0)

/-- The meaning of CONFIG_CHUNK. -/
def execConfigChunk (ld mb : Nat) (s : State) : Answer :=
  s.command ld mb 0x0011 true lenData fun _ _ s p => s.configChunk p

/-! ### CONFIG_COMMIT (R310, R331 to R335, R367 to R369) -/

/-- Write bytes to flash. Whether the write or its read-back fails is a free choice, and what a failed write leaves is free
(log entry 4); with VIO tripped the port is idle and every write fails (R445). The answer says whether it held. -/
def State.flashWrite (s : State) (a : Nat) (bs : List Byte) : State × Bool :=
  if s.part.vio then (s, false) else
  let ok := s.choice
  let s1 := s.spend
  if ok then (s1.setFlash a bs, true) else ((s1.setFlash a (leBytes bs.length s1.free)).spend, false)

/-- The image slot that a commit writes: the one that does not hold the running image; where none runs, a free choice. -/
def State.commitSlot (s : State) : Nat := if s.image.loaded then 1 - s.image.slot else if s.choice then 1 else 0

/-- Steps 1 to 4 of a commit: 0 where all pass. -/
def State.commitStatus (s : State) (t : Transfer) : Nat :=
  let bs := t.bytes
  if t.received ≠ t.len then St.imageIncomplete
  else if fieldAt bs 8 4 ≠ t.id ∨ fieldAt bs 12 4 ≠ t.ver then St.imageInvalid
  else if !s.imageOk bs || !s.versionOk (parseImage bs) then St.imageInvalid
  else if !s.imageSigned bs then St.sigInvalid
  else 0

/-- A soak that has not begun. -/
def newSoak (kind : SoakKind) (e ld od oi nd ni n start flags logical : Nat) : Soak :=
  { kind := kind, job := e, ld := ld, oldDie := od, oldIdx := oi, newDie := nd, newIdx := ni, logical := logical, start := start,
    n := n, runP := 0, runH := 0, disag := 0, switchAt := 0, copy := false, flags := flags, img := RunImage.zero, changed := [],
    shadowP := [], shadowH := [], prevP := [], prevH := [], cells := [] }

/-- Step 6: the image is in flash, in slot `k`. In Run it soaks and switches over, or waits for a part reset where it changes a
start record; outside Run the part takes it at once, and the job ends with the first tick of Run, which is its RESULT (DEDUCED, log
entry 102). -/
def State.commitSwitch (s : State) (ld e k : Nat) (t : Transfer) : State :=
  let bs := t.bytes
  let i := parseImage bs
  let new_ : RunImage := ⟨i, k, s.image.gen + 1, sha256 bs, false, true⟩
  if !s.inRun then
    let a := s.adoptImage new_
    { a with part := { a.part with lateJob := some (ld, e) } }
  else if s.startDiffers i then
    s.endJob ld e 0 0xFFFFFFFF
  else
    let k := newSoak .config e ld 0 0 0 0 t.soakn (s.tick + 2) t.swmode 0
    let at_ := if t.swmode = 1 then s.tick + 2 else 0
    { s with soak := some { k with switchAt := at_, img := new_, changed := changedInsts s.image.img i } }

/-- The job of a commit. The transfer closes whatever the outcome. -/
def State.commitJob (s : State) (ld e : Nat) : State :=
  let t := s.xferC
  let s0 : State := { s with xferC := Transfer.zero }
  let st := s0.commitStatus t
  if st ≠ 0 then s0.endJob ld e st 0
  else
    let k := s0.commitSlot
    let bs := t.bytes
    let s1 := s0.on (!s0.image.loaded) State.spend
    let w := State.flashWrite { s1 with bootRec := ⟨none, none⟩ } (imgSlot k) bs
    if !w.2 then w.1.endJob ld e St.flashErr 0
    else
      let r := w.1.macRecord magicCvir (w.1.image.gen + 1) (parseImage bs).imgid (parseImage bs).imgver bs.length (sha256 bs)
      (w.1.writeRecord (imgRecord k) r).commitSwitch ld e k t

/-- What CONFIG_COMMIT does. -/
def State.configCommit (s : State) (ld sv tag : Nat) (p : List Byte) : Reply :=
  if !zeros p 2 2 then refused s St.badParam
  else if s.busyJob then refused s St.inProgress
  else if !s.xferC.is (fieldAt p 0 2) then refused s St.xferUnknown
  else s.asJob ld sv 0x0012 tag fun s e => s.commitJob ld e

/-- The meaning of CONFIG_COMMIT. -/
def execConfigCommit (ld mb : Nat) (s : State) : Answer :=
  s.command ld mb 0x0012 true (lenIs 4) fun sv tag s p => s.configCommit ld sv tag p

/-! ### COMMISSION_ACK (R311, R336, R342) -/

/-- The running image is commissioned, and the instances that wait for it are re-admitted at the next edge. -/
def State.commission (s : State) : State :=
  let i := s.image
  let r := s.macRecord magicCvcm i.gen i.img.imgid i.img.imgver (s.tick % 2 ^ 32) i.hash
  let s1 := s.writeRecord (comRecord i.slot) r
  let s2 : State := { s1 with image := { i with commissioned := true } }
  s2.each (i.img.insts.filter fun r => (s.fence U.inst 0 r.iid).on && decide ((s.fence U.inst 0 r.iid).reason = 0x0A))
    fun s r => s.setReadmit r.iid (s.tick + 1)

/-- What COMMISSION_ACK does. -/
def State.commissionAck (s : State) (p : List Byte) : Reply :=
  if !s.image.loaded then refused s St.notPermitted
  else if s.part.vio then refused s St.flashErr
  else if p.take 32 ≠ beBytes 32 s.image.hash ∨ fieldAt p 32 4 ≠ s.image.img.imgver then refused s St.imageMismatch
  else done s.commission []

/-- The meaning of COMMISSION_ACK. -/
def execCommissionAck (ld mb : Nat) (s : State) : Answer :=
  s.command ld mb 0x0013 true (lenIs 36) fun _ _ s p => s.commissionAck p

/-! ### FW_STAGE and FW_ACTIVATE (R312, R313, R441) -/

/-- What FW_STAGE open does; any PHASE that is neither open, data nor close is refused here. -/
def State.fwOpen (s : State) (p : List Byte) : Reply :=
  let len := fieldAt p 4 4
  if fieldAt p 0 4 ≠ 0 ∨ len < 1024 ∨ 1048576 < len then refused s St.badParam
  else
    let x := s.nextXfer
    done { s with xferSeq := x, xferF := ⟨x, len, 0, fieldAt p 8 4, 0, 0, []⟩ } (leBytes 2 x ++ leBytes 2 0)

/-- The PHASE of a request that stands in a mailbox. -/
def State.byteOf (s : State) (ld mb k : Nat) : Nat := fieldAt (s.req ld mb).own k 1

/-- The meaning of FW_STAGE open. -/
def execFwStageOpen (ld mb : Nat) (s : State) : Answer :=
  s.command ld mb 0x0020 (s.byteOf ld mb 0 != 1 && s.byteOf ld mb 0 != 2) (lenIs 12) fun _ _ s p => s.fwOpen p

/-- What FW_STAGE data does. -/
def State.fwData (s : State) (p : List Byte) : Reply :=
  if !zeros p 1 1 then refused s St.badParam
  else match s.xferF.chunk p 2 with
    | .error e => refused s e
    | .ok t => done { s with xferF := t } (leBytes 4 t.received ++ leBytes 4 0)

/-- The meaning of FW_STAGE data. -/
def execFwStageData (ld mb : Nat) (s : State) : Answer :=
  s.command ld mb 0x0020 (s.byteOf ld mb 0 == 1) lenData fun _ _ s p => s.fwData p

/-- The staging slot: the one that does not hold the firmware of the serving supervisor; where it runs from ROM, a free
choice. -/
def State.stageSlot (s : State) (sv : Nat) : Nat :=
  if (s.svst sv).romOnly then (if s.choice then 1 else 0) else 1 - (s.svst sv).fwSlot

/-- Whether the staged bytes verify: the vendor's image, with the declared VERSION. -/
def State.stageOk (s : State) (t : Transfer) : Bool := s.fwOk t.bytes && decide (fieldAt t.bytes 4 4 = t.ver)

/-- The job of FW_STAGE close. RESULT is VERSION. -/
def State.fwClose (s : State) (ld sv e : Nat) : State :=
  let t := s.xferF
  let s0 : State := { s with xferF := Transfer.zero }
  if t.received ≠ t.len then s0.endJob ld e St.imageIncomplete t.ver
  else if !s0.stageOk t then s0.endJob ld e St.sigInvalid t.ver
  else if t.ver < (s0.svst sv).fwVer then s0.endJob ld e St.fwOlder t.ver
  else
    let k := s0.stageSlot sv
    let s1 := s0.on (s0.svst sv).romOnly State.spend
    let w := State.flashWrite { s1 with bootRec := ⟨none, none⟩, fwStaged := none } (fwSlot k) t.bytes
    if w.2 then ({ w.1 with fwStaged := some t.ver } : State).endJob ld e 0 t.ver else w.1.endJob ld e St.flashErr t.ver

/-- What FW_STAGE close answers. -/
def State.fwCloseReq (s : State) (ld sv tag : Nat) (p : List Byte) : Reply :=
  if !zeros p 1 1 then refused s St.badParam
  else if !s.xferF.is (fieldAt p 2 2) then refused s St.xferUnknown
  else s.asJob ld sv 0x0020 tag fun s e => s.fwClose ld sv e

/-- The meaning of FW_STAGE close. -/
def execFwStageClose (ld mb : Nat) (s : State) : Answer :=
  s.command ld mb 0x0020 (s.byteOf ld mb 0 == 2) (lenIs 4) fun sv tag s p => s.fwCloseReq ld sv tag p

/-! ### The handover messages (R321) -/

/-- What HO_RESTART answers: the supervisor that serves it runs and can take the sender's mailboxes. -/
def State.hoRestart (s : State) (p : List Byte) : Reply :=
  let r := fieldAt p 0 1
  if r = 0 ∨ 2 < r ∨ zeros p 1 3 = false then refused s St.badParam else done s []

/-- Serving HO_RESTART on MB7 of a die. -/
def State.serveHoRestart (s : State) (ld mb : Nat) : State := s.serve ld mb (lenIs 4) fun _ _ s p => s.hoRestart p

/-- The meaning of HO_RESTART. -/
def execHoRestart (ld mb : Nat) (s : State) : Answer :=
  s.answer (s.hasLd ld && decide (mb < 8)) (s.canServe ld mb 0x0201 true) (s.serveHoRestart ld mb)

/-- What HO_DONE does: the leases held for the sender's die go back (R284). -/
def State.hoDone (s : State) : Reply := done s.moveLeases []

/-- The meaning of HO_DONE. -/
def execHoDone (ld mb : Nat) (s : State) : Answer :=
  s.command ld mb 0x0202 true (lenIs 4) fun _ _ s _ => s.hoDone

/-- The supervisor of die `ld` sends HO_RESTART to the other one through its MB7 and acknowledges the answer: the state after
it, and whether the answer was OK. While MB7 is POSTED its buffer takes no request (R276). -/
def State.sendHoRestart (s : State) (ld : Nat) : State × Bool :=
  let o := 1 - ld
  if s.mbState o 7 = mbPosted then (s.clientErr o 7, false) else
  let seq := (s.get F.MB_MBSEQ_LAST o 7 + 1) % 65536
  let s1 := (s.setBytes (mbBase o 7) (message 0x0201 0 0 0 seq 0 [1, 0, 0, 0])).mbRing o 7
  let s2 := if s1.svUp o then s1.serveHoRestart o 7 else s1.wardenReply o 7
  let ok := decide (fieldAt (s2.response o 7) 10 2 = St.ok)
  (s2.mbAck o 7, ok)

/-- The supervisor of a die restarts (R313): its leases and jobs end and the mailbox servers move. -/
def State.restartSv (s : State) (ld : Nat) : State := (s.setSv ld { s.svst ld with restarting := true }).stopSv ld

/-- The activation record names a version (R441); the boot record is void (R442). -/
def State.activate (s : State) (ver : Nat) : State :=
  let s1 : State := { s with bootRec := ⟨none, none⟩ }
  s1.writeRecord fwRecord (s1.genRecord magicCvfa (s1.recGen fwRecord + 1) ver)

/-- What FW_ACTIVATE does up to COMPLETE. -/
def State.fwActivate (s : State) (ld : Nat) (p : List Byte) : Reply :=
  let ver := fieldAt p 0 4
  let fl := fieldAt p 4 1
  if 1 < fl ∨ zeros p 5 3 = false then refused s St.badParam
  else if s.busyJob then refused s St.inProgress
  else if s.fwStaged ≠ some ver then refused s St.fwNotStaged
  else if s.part.vio then refused s St.flashErr
  else if s.hasLd 1 && decide (fl = 0) then
    let h := s.sendHoRestart ld
    if h.2 then done (h.1.activate ver) [] else refused h.1 St.noStandby
  else done (s.activate ver) []

/-- Whether the other supervisor is free for a HO_RESTART from die `ld`: it serves the mailboxes that rang before MB7 first (R283). It
need not be where the request asks for none (ALONE), or MB7 takes or answers none. -/
def State.otherFree (s : State) (ld mb : Nat) : Bool :=
  let o := 1 - ld
  !s.hasLd 1 || decide (s.byteOf ld mb 4 ≠ 0) || !s.svUp o || decide (s.mbState o 7 = mbPosted) ||
    s.mbOrder.all fun x => decide (s.get F.MB_MBCTL_SERVER x.1 x.2 ≠ o + 1) || !s.svReaches o x.1 x.2

/-- The meaning of FW_ACTIVATE: the supervisor of the die that receives it restarts after COMPLETE. -/
def execFwActivate (ld mb : Nat) (s : State) : Answer :=
  s.command ld mb 0x0021 (s.otherFree ld mb) (lenIs 8) (fun _ _ s p => s.fwActivate ld p) fun s => s.restartSv ld

/-! ### LANE_MIGRATE (R318, R364) -/

/-- The logical lane whose instances a physical lane carries. -/
def State.logicalOn (s : State) (ld l : Nat) : Option Nat :=
  (List.range 8).find? fun n => decide (s.phys ld n = l) && (s.imageDie ld n).isSome

/-- Whether a lane may be the target of a migration of logical lane `n` from die `sd`: spare, or the standby of that logical lane
on the other die; with the same patch sets. -/
def State.targetOk (s : State) (sd sl td tl n : Nat) : Bool :=
  !s.fenced U.lane td tl && (s.instsOf td tl).isEmpty && !s.laneInBist td tl &&
    (s.spare td tl || (decide (td ≠ sd) && decide (s.phys td n = tl))) &&
    s.get F.LANE_LIDS_PSET td tl == s.get F.LANE_LIDS_PSET sd sl && s.get F.LANE_LIDS_QSET td tl == s.get F.LANE_LIDS_QSET sd sl

/-- The target of a migration takes LWCET and CLKSEL of the source. -/
def State.prepareLane (s : State) (sd sl td tl : Nat) : State :=
  (s.put F.LANE_LWCET_W td tl (s.get F.LANE_LWCET_W sd sl)).put F.LANE_LCTL_CLKSEL td tl (s.get F.LANE_LCTL_CLKSEL sd sl)

/-- What LANE_MIGRATE does. -/
def State.laneMigrate (s : State) (ld sv tag : Nat) (p : List Byte) : Reply :=
  let sd := fieldAt p 0 1
  let sl := fieldAt p 1 1
  let td := fieldAt p 2 1
  let tl := fieldAt p 3 1
  let fl := fieldAt p 6 1
  match soakN (fieldAt p 4 2) with
  | none => refused s St.badParam
  | some n =>
    if !s.hasLd sd || !s.hasLd td || decide (8 ≤ sl) || decide (8 ≤ tl) || decide (1 < fl) || !zeros p 7 1 then
      refused s St.badParam
    else match s.logicalOn sd sl with
      | none => refused s St.unitBusy
      | some k =>
        let ild := (s.imageDie sd k).getD sd
        if td ≠ sd ∧ s.hasStandby ild k = false then refused s St.badParam
        else if s.busyJob then refused s St.inProgress
        else if s.fenced U.lane sd sl || !s.targetOk sd sl td tl k then refused s St.unitBusy
        else s.asJob ld sv 0x0110 tag fun s e =>
          { s.prepareLane sd sl td tl with soak := some (newSoak .migration e ld sd sl td tl n (s.tick + 2) fl k) }

/-- The meaning of LANE_MIGRATE. -/
def execLaneMigrate (ld mb : Nat) (s : State) : Answer :=
  s.command ld mb 0x0110 true (lenIs 8) fun sv tag s p => s.laneMigrate ld sv tag p

/-! ### CELL_SWAP (R318, R370) -/

/-- The swap of a fenced source: the target is loaded, CMAP names it, and the instance is re-admitted at the edge of the next
tick. -/
def State.swapFenced (s : State) (fd a b : Nat) : State :=
  match s.instAt fd a with
  | none => s
  | some r =>
    let s1 := (((s.copyCell fd a b).mapCell fd r.cell b).dropCell fd a).put F.HC_HCFG_ACTIVE (fdie fd) b 1
    s1.setReadmit r.iid (s.tick + 1)

/-- What CELL_SWAP does. -/
def State.cellSwap (s : State) (ld sv tag : Nat) (p : List Byte) : Reply :=
  let d := fieldAt p 0 1
  let a := fieldAt p 2 2
  let b := fieldAt p 4 2
  match soakN (fieldAt p 6 2) with
  | none => refused s St.badParam
  | some n =>
    if d < 2 ∨ s.hasDie d = false ∨ 144 ≤ a ∨ 144 ≤ b ∨ zeros p 1 1 = false then refused s St.badParam
    else if s.busyJob then refused s St.inProgress
    else if !s.flag F.HC_HCFG_ACTIVE d a || s.flag F.HC_HCFG_ACTIVE d b || s.fenced U.cell d b then refused s St.unitBusy
    else if s.fenced U.cell d a then
      s.asJob ld sv 0x0111 tag fun s e => (s.swapFenced (d - 2) a b).endJob ld e 0 (s.tick % 2 ^ 32)
    else s.asJob ld sv 0x0111 tag fun s e =>
      { s with soak := some (newSoak .cellSwap e ld (d - 2) a (d - 2) b n (s.tick + 2) 0 0) }

/-- The meaning of CELL_SWAP. -/
def execCellSwap (ld mb : Nat) (s : State) : Answer :=
  s.command ld mb 0x0111 true (lenIs 8) fun sv tag s p => s.cellSwap ld sv tag p

end Sys2Proof.Machine
end

