-- ==== Sys2Proof/Machine/Deliver.lean ====
section
/-!
DEFINITION. What a node does with a received service frame (R226, R264, R265, R267 to R269, R286).
-/

namespace Sys2Proof.Machine

/-! ### Remote mailbox requests (R267, R286) -/

/-- The payload of a remote response: the mailbox, the die and a message. -/
def remotePayload (mb die : Nat) (msg : List Byte) : List Byte :=
  [BitVec.ofNat 8 mb, BitVec.ofNat 8 die, 0, 0] ++ msg

/-- Whether a payload names MB4 or MB5 of a logic die that is present, with a message that a buffer holds. -/
def State.namesMailbox (s : State) (p : List Byte) : Bool :=
  (decide (fieldAt p 0 1 = 4) || decide (fieldAt p 0 1 = 5)) && s.hasLd (fieldAt p 1 1) && decide (p.length ≤ 516)

/-- The ring engine posts the message, or answers MB_BUSY while the mailbox is POSTED. -/
def State.remoteRequest (s : State) (ld : Nat) (f : ServiceFrame) : State :=
  let mb := fieldAt f.payload 0 1
  let die := fieldAt f.payload 1 1
  let msg := f.payload.drop 4
  s.on (s.namesMailbox f.payload) fun s =>
    if s.mbState die mb = mbPosted then
      (s.put F.MB_MBCTL_WARDEN die mb 1).originate ld f.orig 2 3 f.sseq (remotePayload mb die (Machine.reply msg 6 St.mbBusy []))
    else ((s.setBytes (mbBase die mb) msg).setRem die mb ⟨true, f.orig, f.sseq, ld⟩).mbRing die mb

/-! ### Bulk transfers (R268) -/

/-- The transfer after the data of a frame: unchanged unless the frame names it and its data lie within the image. XFER and OFFSET are
fields of a ring frame, most significant byte first (00_scope). -/
def Transfer.bulk (t : Transfer) (p : List Byte) : Transfer :=
  let off := beNat ((p.drop 4).take 4)
  if t.is (beNat ((p.drop 2).take 2)) && decide (9 ≤ p.length) && decide (fieldAt p 1 1 = 0) && decide (off + (p.length - 8) ≤ t.len) then
    t.write off (p.drop 8)
  else t

/-- A supervisor takes the data of a bulk frame into the open transfer of its KIND. -/
def State.bulkFrame (s : State) (f : ServiceFrame) : State :=
  s.on (s.lds.any s.svUp) fun s =>
    if fieldAt f.payload 0 1 = 1 then { s with xferF := s.xferF.bulk f.payload }
    else if fieldAt f.payload 0 1 = 2 then { s with xferC := s.xferC.bulk f.payload }
    else s

/-! ### Diagnostics (R269) -/

/-- The ring engine answers a request; the response takes its fields when it is sent. -/
def State.diagRequest (s : State) (ld : Nat) (f : ServiceFrame) : State :=
  s.on (f.payload.isEmpty && !f.sflg.testBit 1) fun s => s.originate ld f.orig 4 3 f.sseq (List.replicate 32 0)

/-! ### Reception -/

/-- Local delivery by STYPE. Remote responses have no effect here. -/
def State.svDeliver (s : State) (ld : Nat) (f : ServiceFrame) : State :=
  match f.stype with
  | 1 => s.remoteRequest ld f
  | 3 => s.bulkFrame f
  | 4 => s.diagRequest ld f
  | _ => s

/-- A frame that passed the filter, inside the service window: delivered, forwarded, or both (R264). -/
def State.svTake (s : State) (ld p : Nat) (f : ServiceFrame) : State :=
  let s1 := s.on (s.svMine ld f) fun s => (s.svDeliver ld f).svSeen ld f
  s1.svForward ld p f

/-- A received service frame: filtered, outside its window (R238), or taken. One of a reserved STYPE has passed R212, and so counts
in SVRX too (R226, R272). -/
def State.svReceive (s : State) (ld p : Nat) (f : ServiceFrame) (a : Arrival) : State :=
  s.on (s.admitted ld p && s.ringRuns ld) fun s =>
    if s.filtered ld p 0x10 f.hdr then s.countFilter ld p f.hdr
    else if f.stype = 0 ∨ 6 < f.stype then (s.countWrap F.RNG_SVCNT_SVRX ld p).count F.RNG_RXERR_FILT ld p
    else (s.countWrap F.RNG_SVCNT_SVRX ld p).on (s.joined ld) fun s => if s.inWindow ld p 0x10 a then s.svTake ld p f else s.count F.RNG_TXSTAT_ACCREJ ld p

/-- A row for received service frames: those that meet `is`. -/
def State.svRow (s : State) (ld p : Nat) (f : ServiceFrame) (a : Arrival) (is : Bool) : Answer :=
  s.answer (s.hasLd ld && decide (p < 2)) is (s.svReceive ld p f a)

/-- The meaning of SERVICE_FRAME_FORWARD: any service frame that may leave its link (R226). -/
def execServiceFrameForward (ld p : Nat) (f : ServiceFrame) (a : Arrival) (s : State) : Answer :=
  s.svRow ld p f a (decide (f.stype ≠ 5) && decide (f.stype ≠ 6))

/-- The meaning of REMOTE_MAILBOX_REQUEST: a frame of STYPE 0x01. -/
def execRemoteMailboxRequest (ld p : Nat) (f : ServiceFrame) (a : Arrival) (s : State) : Answer :=
  s.svRow ld p f a (decide (f.stype = 1))

/-- The meaning of BULK_TRANSFER: a frame of STYPE 0x03. -/
def execBulkTransfer (ld p : Nat) (f : ServiceFrame) (a : Arrival) (s : State) : Answer :=
  s.svRow ld p f a (decide (f.stype = 3))

/-- The meaning of DIAGNOSTICS_REQUEST: a frame of STYPE 0x04. -/
def execDiagnosticsRequest (ld p : Nat) (f : ServiceFrame) (a : Arrival) (s : State) : Answer :=
  s.svRow ld p f a (decide (f.stype = 4))

end Sys2Proof.Machine
end

