-- ==== Sys2Proof/Machine/Boot.lean ====
section
/-!
DEFINITION. Supplies, clocks and resets of the part, and its boot (R411, R413 to R415, R440 to R442, R445 to R453).
-/

namespace Sys2Proof.Machine

/-! ### Held in reset -/

/-- The part is held: nothing of it runs, every output is off, its ports have lost their neighbours (R445, R449, R451). -/
def State.hold (s : State) : State :=
  let s1 : State := { s with part := { s.part with phase := .held, bootStep := 1 } }
  let s2 := s1.each s1.fds fun s fd => s.termsOff fd
  s2.each s2.lds fun s ld => (s.put F.RNG_TSYNC_STATE ld 0 syncIdle).each [0, 1] fun s p => s.pcsSync ld p false

/-- Whether something keeps the part in reset. -/
def State.blocked (s : State) : Bool := s.part.porst || s.part.vaux || s.part.aon

/-! ### What a part reset resets (R451, R453) -/

/-- RSTCAUSE.CAUSE by source (R451). -/
abbrev rstPower : Nat := 1
abbrev rstPin : Nat := 2
abbrev rstVcore : Nat := 3
abbrev rstCommand : Nat := 4
abbrev rstTap : Nat := 5
abbrev rstAon : Nat := 6

/-- The fields that a warm start keeps beside the pass records (R453). -/
def warmFields : List Fld :=
  [F.OTP_OSTAT_TOKENS, F.CLKPWR_CLKSTAT_AONSRC, F.CLKPWR_PWRSTAT_VCOREBO, F.CLKPWR_PWRSTAT_VIOBO, F.CLKPWR_RSTCAUSE_WARMCNT]

/-- The registers of the logic dies return to their reset values; a warm start keeps `warmFields` and, where the source
does not clear them, the pass records. -/
def State.resetLogicRegs (s : State) (cause : Nat) : State :=
  let keep := if cause = rstPower ∨ cause = rstTap then [] else [Reg.LBIST_REC]
  let s1 := s.each s.lds fun t ld => t.resetDie ld keep
  s1.on (decide (cause ≠ rstPower)) fun t =>
    t.each s.lds fun t ld => t.each warmFields fun t f => t.put f ld 0 (s.get f ld 0)

/-- An OTP operation that a reset cuts short: programming only sets bits (R430), and which bits of the data read 1 at each margin is a
free value. -/
def State.cutOtp (s : State) : State :=
  s.on (decide (s.otpOp.kind ≠ 0)) fun s =>
    let c := otpCode s.otpOp.data
    let s1 := s.spend
    let s2 := s1.spend
    s2.spend.setOtp s.otpOp.word ⟨s.free &&& c, s1.free &&& c, s2.free &&& c⟩

/-- The boot reset of a field die (R447, R451): its registers but FBREC, its channel H state, its fences; a run of FBIST goes on. -/
def State.bootReset (s : State) (fd : Nat) : State :=
  let x := s.field fd
  let s1 := s.resetField fd [.FBIST_FBREC] true
  s1.setField fd { s1.field fd with viaDie := [], fbist := x.fbist }

/-- The boot reset of every field die. -/
def State.resetFields (s : State) : State := s.each s.fds State.bootReset

/-- Whether a self-test run of an engine is in progress. -/
def State.bistRuns (s : State) (ld e : Nat) : Bool := s.get F.LBIST_STAT_STATE ld e == 1 || s.get F.LBIST_STAT_STATE ld e == 2

/-- A reset cuts self-test runs short: INCOMPLETE, ACAUSE 5 (R407). -/
def State.bistReset (s t : State) : State :=
  t.each ((t.lds.flatMap fun ld => (List.range 10).map fun e => (ld, e)).filter fun x => s.bistRuns x.1 x.2) fun t x =>
    (t.put F.LBIST_STAT_RESULT x.1 x.2 3).put F.LBIST_STAT_ACAUSE x.1 x.2 5

/-- A part reset from one of the sources: everything but what R453 keeps, with the conditions of the pins and supplies. The safe state
of an orderly shutdown lasts until PORST_N or a loss of power, of which a VCORE trip is one (R410, R445; log entry 178). -/
def State.resetPart (s : State) (cause : Nat) : State :=
  let r := (s.cutOtp.resetLogicRegs cause).resetFields
  let p := r.part
  let shut := decide (p.shut = 3) && decide (cause ≠ rstPower) && decide (cause ≠ rstPin) && decide (cause ≠ rstVcore)
  let part : PartSt :=
    { State.reset.part with phase := .held, shut := if shut then 3 else 0, safe := shut, porst := p.porst, vaux := p.vaux, vcore := p.vcore, vio := p.vio, aon := p.aon,
                            tapSafe := p.tapSafe && decide (cause ≠ rstPower) && decide (cause ≠ rstTap) }
  let tap := if cause = rstPower then .idcode else if cause = rstTap ∧ (s.tap = .extest ∨ s.tap = .scanen) then .idcode else s.tap
  let rec_ : BootRec := if cause = rstPower ∨ cause = rstTap then ⟨none, none⟩ else s.bootRec
  let t : State :=
    { State.reset with variant := r.variant, rev := r.rev, regs := r.regs, flash := r.flash, otp := r.otp, part := part,
                       fields := r.fields, tap := tap, tapRegs := if tap = s.tap then s.tapRegs else TapRegs.zero, bootRec := rec_, results := r.results, freeCtr := r.freeCtr,
                       pending := r.pending }
  let t1 := (t.put F.CLKPWR_RSTCAUSE_CAUSE 0 0 cause).putB F.CLKPWR_RSTCAUSE_COLD 0 0 (decide (cause = rstPower))
  t1.on (decide (cause ≠ rstPower)) fun t => (s.bistReset t).count F.CLKPWR_RSTCAUSE_WARMCNT 0 0

/-! ### Boot steps 1 to 4 -/

/-- Whether the start in progress is cold (R408). -/
def State.coldStart (s : State) : Bool := s.flag F.CLKPWR_RSTCAUSE_COLD 0 0

/-- Step 1: AON from its source, which a cold start selects (R448), and the supplies as the monitors read them. -/
def State.bootAon (s : State) (b : BootIn) : State :=
  let s1 : State := { s with part := { s.part with phase := .boot, bootStep := 1 } }
  s1.each s1.lds fun s ld =>
    let s2 := s.on s.coldStart fun s => s.putB F.CLKPWR_CLKSTAT_AONSRC ld 0 b.refclk
    (s2.putB F.CLKPWR_PWRSTAT_VIOOK ld 0 (!s.part.vio)).putB F.CLKPWR_PWRSTAT_VCOREOK ld 0 (!s.part.vcore)

/-- The PLLs lock once VCORE is good (R446, R448). -/
def State.bootPlls (s : State) : State :=
  s.each s.lds fun s ld =>
    ((s.put F.CLKPWR_CLKSTAT_SPLLLK ld 0 1).put F.CLKPWR_CLKSTAT_LPLLON ld 0 1).put F.CLKPWR_CLKSTAT_LPLLLK ld 0 1

/-- The scratchpads are cleared 40.96 µs after their power comes, within step 2 (R382, R440; DEDUCED, log entry 24). -/
def State.bootClear (s : State) : State := s.each s.lds fun s ld => s.put F.SPM_PWR_CLEARING ld 0 0

/-- Step 2: OTP margins, locks, life cycle, vault key, patch comparators. -/
def State.bootOtp (s : State) : State := s.otpMargins.otpLocks.otpLife.vaultLoad.patchLoad

/-- One failing row or column of the memory test: a free spare takes it, else its unit is fenced (R413, R414). `taken` lists
the spares in use as (die, RAM, spare code). -/
def State.ramFault (x : State × List (Nat × Nat × Nat)) (f : Nat × Nat × Bool × Nat) : State × List (Nat × Nat × Nat) :=
  let (ld, n, col, addr) := f
  if !x.1.hasLd ld || decide (32 < n) then x
  else match (if col then [3] else [1, 2]).find? fun c => !x.2.contains (ld, n, c) with
    | some c =>
      ((((x.1.put F.LBIST_RREP_ADDR ld n addr).put F.LBIST_RREP_SPARE ld n c).put F.LBIST_RREP_HARD ld n 0).count
        F.LBIST_RSTAT_SOFT ld 0, (ld, n, c) :: x.2)
    | none => (x.1.fenceEngineUnit ld (if n = 32 then 8 else n / 4) 0x0C, x.2)

/-- The run of one engine at boot (R404, R407, R409, R411). The spec states no MISR for a run that fails, and no cause for one
that boot finds incomplete: free values. -/
def State.bootBist (s : State) (b : BootIn) (ld e : Nat) : State :=
  if b.bistInc.contains (16 * ld + e) then
    let s1 := (s.put F.LBIST_STAT_ACAUSE ld e s.free).spend
    let s2 := s1.spend
    s2.spend.bistShow ld e 3 0 s1.free s2.free
  else if b.bistFail.contains (16 * ld + e) then (s.spend.bistShow ld e 2 1 32768 s.free).fenceEngineUnit ld e 0x0C
  else ((s.bistShow ld e 1 1 32768 (Config.bistSignature e)).put F.LBIST_REC_VALID ld e 1).put F.LBIST_REC_SHUT ld e 0

/-- Step 4: at a cold start the memory test and BIST on every unit, else BIST on the units without a record; retired lanes
are fenced (R408, R413, R415). -/
def State.bootTests (s : State) (b : BootIn) (taken : List (Nat × Nat × Nat)) : State :=
  let s1 := if s.coldStart then (b.ramFail.foldl State.ramFault (s, taken)).1 else s
  let s2 := s1.each ((List.range s1.variant.logics).flatMap fun ld => (List.range 10).map fun e => (ld, e)) fun s x =>
    s.on (s.coldStart || !s.flag F.LBIST_REC_VALID x.1 x.2) fun s => s.bootBist b x.1 x.2
  s2.each ((List.range s2.variant.logics).flatMap fun ld => (List.range 8).map fun l => (ld, l)) fun s x =>
    s.on (s.retired x.1 x.2) fun s => s.fenceLane x.1 x.2 0x0C

/-! ### Boot steps 5 to 10 -/

/-- Boot reaches a step. -/
def State.atStep (s : State) (n : Nat) : State := { s with part := { s.part with bootStep := n } }

/-- Step 6: firmware for every supervisor that runs; the boot record keeps the digest of the slot, the slot, and as its GEN the
generation of the activation record (R441, R442; DEDUCED, log entry 179). -/
def State.bootFirmware (s : State) : State :=
  let s1 := s.each s.lds fun s ld => s.loadFw ld
  match s.fwSelect with
  | some k => { s1 with bootRec := { s1.bootRec with fw := some (k, sha256 (s.fwImage k), s.recGen fwRecord) } }
  | none => { s1 with bootRec := { s1.bootRec with fw := none } }

/-- Step 7: the lanes show their patch set identities (R143). -/
def State.bootLanes (s : State) : State :=
  s.each s.lds fun s ld => s.each (List.range 8) fun s l => s.patchIds ld l

/-- Whether image slot `k` is valid (R337): by its signature, of whose checks the digest of the boot record waives the ECDSA one
(R442). -/
def State.slotValid (s : State) (k : Nat) : Bool :=
  let bs := s.slotImage k
  !s.part.vio && s.recordOk k && s.imageOk bs &&
    s.imageSignedBut (s.bootRec.cfg == some (k, sha256 bs, fieldAt (s.flashBytes (imgRecord k) 64) 4 4)) bs

/-- The slot that boot loads: the valid one with the highest GEN. -/
def State.bootSlot (s : State) : Option Nat :=
  let gen (k : Nat) : Nat := fieldAt (s.flashBytes (imgRecord k) 64) 4 4
  let a := s.slotValid 0
  let b := s.slotValid 1
  if a && (!b || decide (gen 1 ≤ gen 0)) then some 0 else if b then some 1 else none

/-- Step 8: the configuration image, or NOCONFIG (R337). -/
def State.bootImage (s : State) : State :=
  match s.bootSlot with
  | some k =>
    let bs := s.slotImage k
    let gen := fieldAt (s.flashBytes (imgRecord k) 64) 4 4
    let h := sha256 bs
    let s1 : State := { s with bootRec := { s.bootRec with cfg := some (k, h, gen) } }
    s1.adoptLogic ⟨parseImage bs, k, gen, h, s.slotCommissioned k, true⟩
  | none => { s with part := { s.part with noconfig := true }, bootRec := { s.bootRec with cfg := none } }

/-- Whether a field die has failed its FBIST: such a die stays fenced until it passes (R412; DEDUCED, log entry 180). -/
def State.fbistFailed (s : State) (fd : Nat) : Bool :=
  s.fenced U.field (fdie fd) 0 && decide ((s.fence U.field (fdie fd) 0).reason = 0x0C) && !s.flag F.FBIST_FBREC_VALID (fdie fd) 0

/-- Step 9: every present field die takes its boot reset and is loaded. A die whose load fails is fenced; the spec gives that fence no
reason code, so it is a free choice. The instances of a die that cannot be loaded yet wait for its load (R440, R447). -/
def State.bootFields (s : State) (b : BootIn) : State :=
  s.each s.fds fun s fd =>
    let x := s.field fd
    if !x.power || x.fbist || s.fbistFailed fd then s.stopDie fd
    else
      let s1 := s.bootReset fd
      if b.loadFail.contains fd then s1.spend.fenceField fd s1.freeReason else s1.loadField fd

/-- The end of a start: the supervisors and ring engines enter service (R409). -/
def State.enterService (s : State) : State :=
  s.each s.lds fun s ld => (s.put F.LBIST_REC_VALID ld 8 0).put F.LBIST_REC_VALID ld 9 0

/-- Steps 7 to 10 for a part with firmware; RETIRED ends after step 7. -/
def State.bootRest (s : State) (b : BootIn) : State :=
  let s7 := s.bootLanes.atStep 7
  if s7.lc = 3 then s7
  else
    let s8 := s7.bootImage
    let s10 := ((if s8.part.noconfig then s8 else s8.bootFields b).startUp).atStep 10
    { s10 with part := { s10.part with phase := .wait } }

/-- Steps 5 to 10: the supervisors read the stored signature counter (R424); BLANK ends after step 5, and a part without firmware after
step 6. -/
def State.bootSv (s : State) (b : BootIn) : State :=
  let s0 := s.atStep 5
  let s5 : State := { s0 with part := { s0.part with ctr := s0.storedCounter } }
  if s5.lc = 0 then s5
  else
    let s6 := s5.bootFirmware.atStep 6
    if (s5.fwSelect).isNone then s6 else s6.bootRest b

/-- Steps 2 to 10; boot stops at step 4 where no supervisor is left (R411). -/
def State.bootOn (s : State) (b : BootIn) : State :=
  let r := s.bootPlls.bootClear.bootOtp.hardRepairs
  let s4 := (r.1.bootTests b r.2).atStep 4
  (if s4.lds.all fun ld => s4.fenced U.sv ld 0 then s4 else s4.bootSv b).enterService

/-- The part starts: it stays held while a pin, VAUX or AON holds it, and waits after step 1 for VCORE (R446). -/
def State.boot (s : State) (b : BootIn) : State :=
  if s.blocked then s
  else
    let s1 := s.bootAon b
    if s1.part.vcore then s1 else s1.bootOn b

/-! ### Reset sources -/

/-- VAUX is good: everything resets, and a cold start follows. -/
def State.powerOn (s : State) (b : BootIn) : State :=
  State.boot (State.resetPart { s with part := { s.part with vaux := false } } rstPower) b

/-- The meaning of POWER_ON_RESET. -/
def execPowerOnReset (b : BootIn) (s : State) : Answer := s.answer true true (s.powerOn b)

/-- PORST_N goes low: the part resets and stays held. Until VAUX is good the pin has no effect (R446). -/
def State.porstLow (s : State) : State :=
  let s1 : State := { s with part := { s.part with porst := true } }
  if s.part.vaux then s1 else (s1.resetPart rstPin).hold

/-- The meaning of PORST_N, low for `ns`: the input filter ignores a short pulse, and between 100 ns and 1 µs it takes or
ignores it, a free choice (R451). -/
def execPorstN (ns : Nat) (s : State) : Answer :=
  s.answer true (!s.part.porst)
    (if ns < 100 then s else if ns < 1000 then (if s.choice then s.spend.porstLow else s.spend) else s.porstLow)

/-- PORST_N returns high. -/
def State.porstHigh (s : State) (b : BootIn) : State := State.boot { s with part := { s.part with porst := false } } b

/-- The meaning of PORST_N_RELEASE. -/
def execPorstNRelease (b : BootIn) (s : State) : Answer := s.answer true s.part.porst (s.porstHigh b)

/-- The meaning of VAUX_TRIP: the part is held in power-on reset. -/
def execVauxTrip (s : State) : Answer :=
  s.answer true (!s.part.vaux) (State.hold { s with part := { s.part with vaux := true } })

/-- A VCORE trip: the fast domains are held in reset. A boot that waits after step 1 goes on waiting. -/
def State.vcoreDown (s : State) : State :=
  let waits := decide (s.part.phase = .boot) && decide (s.part.bootStep = 1)
  let s1 : State := { s with part := { s.part with vcore := true } }
  let s2 := s1.each s1.lds fun s ld => (s.put F.CLKPWR_PWRSTAT_VCOREOK ld 0 0).count F.CLKPWR_PWRSTAT_VCOREBO ld 0
  if waits then s2 else s2.hold

/-- The meaning of VCORE_TRIP. -/
def execVcoreTrip (s : State) : Answer := s.answer true (!s.part.vcore) s.vcoreDown

/-- The trip is released: a boot that waits for VCORE goes on, with the AON source that its start has chosen (R448); else a warm start
follows. -/
def State.vcoreUp (s : State) (b : BootIn) : State :=
  let s1 : State := { s with part := { s.part with vcore := false } }
  if s.blocked then s1
  else if s.part.phase = .boot then State.bootOn (s1.each s1.lds fun s ld => s.put F.CLKPWR_PWRSTAT_VCOREOK ld 0 1) b else (s1.resetPart rstVcore).boot b

/-- The meaning of VCORE_RELEASE. -/
def execVcoreRelease (b : BootIn) (s : State) : Answer := s.answer true s.part.vcore (s.vcoreUp b)

/-- The meaning of VIO_TRIP. -/
def execVioTrip (s : State) : Answer :=
  s.answer true (!s.part.vio)
    (State.each { s with part := { s.part with vio := true } } s.lds fun s ld =>
      (s.put F.CLKPWR_PWRSTAT_VIOOK ld 0 0).count F.CLKPWR_PWRSTAT_VIOBO ld 0)

/-- The meaning of VIO_RELEASE. -/
def execVioRelease (s : State) : Answer :=
  s.answer true s.part.vio
    (State.each { s with part := { s.part with vio := false } } s.lds fun s ld => s.put F.CLKPWR_PWRSTAT_VIOOK ld 0 1)

/-- The meaning of PART_RESET: the write of RSTCTL by the supervisor of L0, or the end of the 10 µs after one (R452). -/
def execPartReset (m : Master) (key : Nat) (b : BootIn) (s : State) : Answer :=
  s.answer true true
    (if s.part.rstDue then (s.resetPart rstCommand).boot b
     else s.asWrite .CLKPWR_RSTCTL 0 0 m (m.isSvOf 0) (decide (key = 0xA5C3)) fun s => (s.resetPart rstCommand).boot b)

/-- The meaning of TAP_EXIT: EXTEST or SCANEN is left, and the part resets with its records cleared (R418, R421). -/
def execTapExit (b : BootIn) (s : State) : Answer := s.answer true s.part.tapSafe ((s.resetPart rstTap).boot b)

/-! ### Clock faults of the logic dies (R449) -/

/-- The meaning of AON_FAILURE: the part takes the safe state, its fast domains held in reset. -/
def execAonFailure (s : State) : Answer :=
  s.answer true (!s.part.aon) (State.hold { s with part := { s.part with aon := true } })

/-- AON has been good for 1 ms. -/
def State.aonBack (s : State) (b : BootIn) : State :=
  let s1 : State := { s with part := { s.part with aon := false } }
  if s1.blocked then s1 else (s1.resetPart rstAon).boot b

/-- The meaning of AON_RECOVERY. -/
def execAonRecovery (b : BootIn) (s : State) : Answer := s.answer true s.part.aon (s.aonBack b)

/-- The SPLL of a die fails: the die stops. -/
def State.spllFail (s : State) (ld : Nat) : State :=
  let p := s.part
  let s1 : State := { s with part := if ld = 0 then { p with spll0 := true } else { p with spll1 := true } }
  ((s1.put F.CLKPWR_CLKSTAT_SPLLLK ld 0 0).cutBist ld 8 3).loseLogicDie ld

/-- The meaning of SPLL_FAILURE. -/
def execSpllFailure (ld : Nat) (s : State) : Answer := s.answer (s.hasLd ld) true (s.spllFail ld)

/-- The LPLL of a die fails: every running lane stops at once and is late without a mismatch (R156), and a lane's BIST run has lost its
clock (R407). -/
def State.lpllFail (s : State) (ld : Nat) : State :=
  let s1 := (s.raiseFlag F.CLKPWR_CLKMON_LPLLFAIL ld 0).put F.CLKPWR_CLKSTAT_LPLLLK ld 0 0
  let s2 := s1.each ((List.range 8).filter fun l => !s1.fenced U.lane ld l && decide ((s1.lane ld l).ph ≠ .done)) fun s l =>
    let ran := (s.lane ld l).ran
    let t := (s.haltLane ld l).setPhase ld l .asleep
    t.setLane ld l { t.lane ld l with ran := ran }
  s2.each (List.range 8) fun s e => s.cutBist ld e 3

/-- The meaning of LPLL_FAILURE, while the LPLL is powered. -/
def execLpllFailure (ld : Nat) (s : State) : Answer :=
  s.answer (s.hasLd ld) (s.flag F.CLKPWR_CLKSTAT_LPLLON ld 0) (s.lpllFail ld)

/-- Set or end the TX fault of a die. -/
def State.setTx (s : State) (ld : Nat) (bad : Bool) : State :=
  let p := s.part
  { s with part := if ld = 0 then { p with tx0 := bad } else { p with tx1 := bad } }

/-- The meaning of TX_CLOCK_FAILURE: the ring engine's BIST run has lost its clock (R407), and both ports of the die's ring hold their transmitters at idle. -/
def execTxClockFailure (ld : Nat) (s : State) : Answer :=
  s.answer (s.hasLd ld) (s.txGood ld) (((s.setTx ld true).raiseFlag F.CLKPWR_CLKMON_TXFAIL ld 0).cutBist ld 9 3)

/-- The meaning of TX_CLOCK_RECOVERY. -/
def execTxClockRecovery (ld : Nat) (s : State) : Answer := s.answer (s.hasLd ld) (!s.txGood ld) (s.setTx ld false)

end Sys2Proof.Machine
end

