-- ==== Sys2Proof/Machine/ReadCommands.lean ====
section
/-!
DEFINITION. The commands that read: IDENTIFY, STATUS, DIAG_READ, RING_STATUS, COUNTERS_READ, REG_READ (R302 to R306, R315).
-/

namespace Sys2Proof.Machine

/-! ### IDENTIFY (R302) -/

/-- SEAL of IDENTIFY: the pairs as L0 last sampled them, the condition of R339 on either reader, F0's last sample. -/
def State.sealByte (s : State) : Nat :=
  let inv (d : Nat) : Bool := decide (20 ≤ (s.sealSt d).invA) || decide (20 ≤ (s.sealSt d).invB)
  packBits
    [((s.get F.SYSCTL_SEAL_APAIR 0 0 == 2).toNat, 1), ((s.get F.SYSCTL_SEAL_BPAIR 0 0 == 2).toNat, 1), ((inv 0 || inv 2).toNat, 1),
     ((s.get F.FSYS_SEAL_APAIR 2 0 == 2 && s.get F.FSYS_SEAL_BPAIR 2 0 == 2).toNat, 1)]

/-- The response of IDENTIFY. -/
def State.identify (s : State) (sv : Nat) : List Byte :=
  s.wordsOf [(.SYSCTL_DEVID, 0, 0)] ++ leBytes 8 s.devident ++ leBytes 1 s.lc ++ leBytes 1 s.sealByte ++ leBytes 1 sv ++
    leBytes 1 0 ++ leBytes 4 (if s.lc = 0 then 0 else (s.svst sv).fwVer) ++ leBytes 1 (s.fieldValue F.LANE_LIDS_ROMREL 0 0) ++
    leBytes 3 0 ++ leBytes 4 (if s.image.loaded then s.image.img.imgid else 0) ++
    leBytes 4 (if s.image.loaded then s.image.img.imgver else 0) ++ leBytes 2 (s.get F.RNG_RINGCFG_NODE 0 0) ++ leBytes 2 0 ++
    leBytes 4 (s.get F.OTP_OLOCK_LOCK 0 0 + 256 * s.get F.OTP_OLOCK_CLOSED 0 0) ++ leBytes 8 (s.counter.getD 0)

/-- The meaning of IDENTIFY. -/
def execIdentify (ld mb : Nat) (s : State) : Answer :=
  s.command ld mb 0x0001 true (lenIs 0) fun sv _ s _ => done s (s.identify sv)

/-! ### STATUS (R303) -/

/-- FLG of STATUS. -/
def State.flgByte (s : State) (sv : Nat) : Nat :=
  packBits
    [(s.safeLow.toNat, 1), (s.faultLow.toNat, 1), ((s.gate 0).toNat, 1), ((s.image.loaded && s.image.commissioned).toNat, 1),
     (s.fieldValue F.TICK_TSTAT_LOCKED 0 0, 1), (s.get F.TICK_TSTAT_HOLDOVER 0 0, 1), ((s.svUp (1 - sv)).toNat, 1)]

/-- The response of STATUS; the job table is that of the mailbox's die. -/
def State.statusBytes (s : State) (ld sv : Nat) : List Byte :=
  leBytes 1 s.pstate ++ leBytes 1 (s.flgByte sv) ++ leBytes 6 s.tick ++ leBytes 2 (min ((s.dies.map s.nFenced).sum) 0xFFFF) ++
    leBytes 2 (s.get F.FENCE_FSTAT_LOGCNT ld 0) ++ leBytes 4 0 ++ (List.range 8).flatMap fun e => (s.job ld e).bytes

/-- The CRC unit that job `e` of die `ld` works on: its die and number. -/
def State.crcOfJob (s : State) (ld e : Nat) : Option (Nat × Nat) :=
  s.lds.findSome? fun d => ((s.svst d).crcJobs.find? fun j => j.2 == 8 * ld + e).map fun j => (d, j.1)

/-- PROGRESS of a running job at the time of a STATUS: that of CRC_JOB from the bytes its scan has fed (R400); that of any other, for
which the spec gives no measure, a free value that never falls (R299, log entry 4). -/
def State.progress (s : State) (ld e : Nat) : State :=
  let j := s.job ld e
  s.on (decide (j.state = 1)) fun s =>
    match s.crcOfJob ld e with
    | some (d, n) =>
      let t := s.present .SCAN_REM d n
      let len := t.get F.SCAN_LEN_LEN d n
      t.setJob ld e { j with progress := 100 * (len - t.get F.SCAN_REM_REM d n) / len }
    | none => (s.setJob ld e { j with progress := j.progress + s.freeBelow (101 - j.progress) }).spend

/-- What STATUS answers. -/
def State.statusNow (s : State) (ld sv : Nat) : Reply :=
  let t := s.each (List.range 8) fun s e => s.progress ld e
  done t (t.statusBytes ld sv)

/-- The meaning of STATUS. -/
def execStatus (ld mb : Nat) (s : State) : Answer :=
  s.command ld mb 0x0002 true (lenIs 0) fun sv _ s _ => s.statusNow ld sv

/-! ### DIAG_READ (R304) -/

/-- Whether an instance stands in a soak. -/
def State.inSoak (s : State) (iid : Nat) : Bool :=
  match s.soak with
  | none => false
  | some k =>
    decide (k.start ≤ s.tick) &&
      match k.kind with
      | .migration => (s.instsOf k.oldDie k.oldIdx).any fun r => r.iid == iid
      | .config => k.changed.contains iid
      | .cellSwap => (s.instAt k.oldDie k.oldIdx).any fun r => r.iid == iid

/-- The record of an instance. -/
def State.diagInst (s : State) (r : InstRec) : List Byte :=
  let p := s.inst r.iid
  let c := s.cellOf r
  let d := fdie r.fdie
  let fenced := s.instFencedP r.iid || s.instFencedH r.iid
  leBytes 2 r.iid ++ leBytes 1 r.code ++
    leBytes 1 (packBits [(fenced.toNat, 1), ((s.inSoak r.iid).toNat, 1), ((!fenced && p.grace).toNat, 1)]) ++
    leBytes 1 p.fs.st ++ leBytes 1 p.fs.sub ++ leBytes 1 (if s.instDeadP r.iid then 0 else p.bits % 8) ++ leBytes 1 p.flags ++
    leBytes 4 (p.fs.remaining s.tick) ++ s.wordsOf [(.HC_HSTAT, d, c), (.HC_HFLAG, d, c), (.HC_HTMR, d, c)]

/-- The record of terminal `g`. -/
def State.diagTerm (s : State) (g : Nat) : List Byte :=
  let d := fdie (g / 64)
  let t := g % 64
  s.wordsOf [(.TERM_PIMG, d, t), (.TERM_HSTAT, d, t), (.TERM_FAULT, d, t), (.TERM_FCTL, d, t)]

/-- The record of a lane. -/
def State.diagLane (s : State) (ld l : Nat) : List Byte :=
  s.wordsOf [(.LANE_LSTAT, ld, l), (.LANE_LWCET, ld, l), (.LANE_LMCNT, ld, l), (.LANE_LMINFO, ld, l), (.LANE_LCYC, ld, l),
    (.LANE_LEVCNT, ld, l), (.LANE_LIDS, ld, l)]

/-- The record of a fence log entry. -/
def LogEntry.bytes (e : LogEntry) : List Byte :=
  leBytes 6 e.tick ++ leBytes 1 e.die ++ leBytes 1 e.kind ++ leBytes 2 e.idx ++ leBytes 1 e.reason ++ leBytes 1 0

/-- The record of a die's sieve. -/
def State.diagSieve (s : State) (d : Nat) : List Byte :=
  if d < 2 then
    s.wordsOf [(.SIEVEP_SSTAT, d, 0), (.SIEVEP_SCNT, d, 0), (.SIEVEP_SLAST, d, 0), (.SIEVEP_SLOCAL, d, 0), (.SIEVEP_SOTHER, d, 0)]
  else
    s.wordsOf [(.SIEVEH_SSTAT, d, 0), (.SIEVEH_SCNT, d, 0), (.SIEVEH_SLAST, d, 0), (.SIEVEH_SLOCAL, d, 0), (.SIEVEH_SOTHER, d, 0)]

/-- Every record of a kind on a die, from the first; none where the die does not hold the kind. -/
def State.diagRecords (s : State) (kind die : Nat) : List (List Byte) :=
  match kind with
  | 0x01 => if die = 0 ∧ s.image.loaded = true then s.image.img.insts.map s.diagInst else []
  | 0x02 => if die = 0 then (List.range (64 * s.variant.fields)).map s.diagTerm else []
  | 0x03 => if s.hasLd die then (List.range 8).map fun l => s.diagLane die l else []
  | 0x04 => if s.hasDie die then (Store.get (fun _ => []) s.flog die).map LogEntry.bytes else []
  | 0x05 => if s.hasDie die then [s.diagSieve die] else []
  | _ => []

/-- Bytes of a record of a kind. -/
def diagSize (kind : Nat) : Nat :=
  match kind with
  | 0x01 => 24
  | 0x02 => 16
  | 0x03 => 28
  | 0x04 => 12
  | _ => 20

/-- What DIAG_READ answers. -/
def State.diagRead (s : State) (p : List Byte) : Reply :=
  let kind := fieldAt p 0 1
  let first := fieldAt p 2 2
  let count := fieldAt p 4 2
  let l := ((s.diagRecords kind (fieldAt p 1 1)).drop first).take (min count (488 / diagSize kind))
  if l.isEmpty || !zeros p 6 2 then refused s St.badParam
  else done s (leBytes 1 kind ++ leBytes 1 0 ++ leBytes 2 l.length ++ l.flatten)

/-- The meaning of DIAG_READ. -/
def execDiagRead (ld mb : Nat) (s : State) : Answer :=
  s.command ld mb 0x0003 true (lenIs 8) fun _ _ s p => s.diagRead p

/-! ### RING_STATUS (R305) -/

/-- The words of a port. -/
def portRegs (ld p : Nat) : List (Reg × Nat × Nat) :=
  [(.RNG_PSTAT, ld, p), (.RNG_LDELAY, ld, p), (.RNG_EMPTY, ld, p), (.RNG_TXSTAT, ld, p), (.RNG_WRAP, ld, p)]

/-- What RING_STATUS answers. -/
def State.ringStatus (s : State) (p : List Byte) : Reply :=
  let r := fieldAt p 0 1
  if !s.hasLd r || (decide (r = 1) && !s.flag F.RNG_RINGCFG_ENABLE 1 0) || !zeros p 1 3 then refused s St.badParam
  else done s (s.wordsOf ([(.RNG_RINGCFG, r, 0), (.RNG_TURNCFG, r, 0), (.RNG_TSYNC, r, 0), (.RNG_THG, r, 0), (.RNG_TOFFS, r, 0),
    (.RNG_TCNT, r, 0)] ++ portRegs r 0 ++ portRegs r 1))

/-- The meaning of RING_STATUS. -/
def execRingStatus (ld mb : Nat) (s : State) : Answer :=
  s.command ld mb 0x0030 true (lenIs 4) fun _ _ s p => s.ringStatus p

/-! ### COUNTERS_READ (R306) -/

/-- The counters of a port. -/
def portCounters (ld p : Nat) : List (Reg × Nat × Nat) :=
  [(.RNG_RXCNT, ld, p), (.RNG_RXERR, ld, p), (.RNG_SPCNT, ld, p), (.RNG_SVCNT, ld, p), (.RNG_EMPTY, ld, p), (.RNG_TXSTAT, ld, p)]

/-- The words of a group; none where GROUP or SEL names nothing. -/
def State.counterWords (s : State) (group sel : Nat) : List (List Byte) :=
  let words (l : List (Reg × Nat × Nat)) : List (List Byte) := l.map fun x => s.wordsOf [x]
  match group with
  | 0x01 => if s.hasLd sel then words (portCounters sel 0 ++ portCounters sel 1 ++ [(.RNG_TCNT, sel, 0)]) else []
  | 0x02 => if s.hasLd sel then words ((List.range 8).flatMap fun l => [(.LANE_LMCNT, sel, l), (.LANE_LEVCNT, sel, l)]) else []
  | 0x03 => if s.hasLd sel then words ((List.range 8).map fun m => (.MB_MBCNT, sel, m)) else []
  | 0x04 => if s.hasFd sel then words ((List.range 64).map fun t => (.TERM_FCNT, fdie sel, t)) else []
  | 0x05 =>
    if sel = 0 then (List.range 8).map fun d =>
      if !s.hasDie d then leBytes 4 0 else s.wordsOf [(if d < 2 then .SIEVEP_SCNT else .SIEVEH_SCNT, d, 0)]
    else []
  | _ => []

/-- What COUNTERS_READ answers. -/
def State.countersRead (s : State) (p : List Byte) : Reply :=
  let l := s.counterWords (fieldAt p 0 1) (fieldAt p 1 1)
  if l.isEmpty || !zeros p 2 2 then refused s St.badParam else done s (p.take 2 ++ leBytes 2 l.length ++ l.flatten)

/-- The meaning of COUNTERS_READ. -/
def execCountersRead (ld mb : Nat) (s : State) : Answer :=
  s.command ld mb 0x0031 true (lenIs 4) fun _ _ s p => s.countersRead p

/-! ### REG_READ (R315) -/

/-- What REG_READ answers: the words read before a refused one come with REG_REFUSED. -/
def State.regRead (s : State) (sv : Nat) (p : List Byte) : Reply :=
  let addr := fieldAt p 0 4
  let count := fieldAt p 4 2
  if addr % 4 ≠ 0 ∨ count = 0 ∨ 120 < count ∨ zeros p 6 2 = false then refused s St.badParam
  else
    let r := s.readRun (Master.sv sv) addr count
    ⟨r.1, if r.2.2 then St.ok else St.regRefused, leBytes 2 r.2.1.length ++ leBytes 2 0 ++ r.2.1.flatMap fun w => leBytes 4 w⟩

/-- The meaning of REG_READ. -/
def execRegRead (ld mb : Nat) (s : State) : Answer :=
  s.command ld mb 0x0101 true (lenIs 8) fun sv _ s p => s.regRead sv p

end Sys2Proof.Machine
end

