-- ==== Sys2Proof/Machine/Sieve.lean ====
section
/-!
DEFINITION. The sieve's exchange, comparison and fences (R179 to R187).
-/

namespace Sys2Proof.Machine

/-! ### The two sides -/

/-- The instances that a die pairs: those whose P entry it carries, or whose H-cell it holds. -/
def State.paired (s : State) (die : Nat) : List InstRec :=
  s.image.img.insts.filter fun r => if die < 2 then s.dieOf r == die else r.fdie == die - 2

/-- The die that holds the other side of an instance. -/
def State.partner (s : State) (die : Nat) (r : InstRec) : Nat := if die < 2 then fdie r.fdie else s.dieOf r

/-- A die's side of the sieve for an instance. -/
def State.sieveOf (s : State) (die : Nat) (r : InstRec) : SieveSt :=
  if die < 2 then s.svP die r.iid else s.svH (die - 2) (s.cellOf r)

def State.setSieve (s : State) (die : Nat) (r : InstRec) (v : SieveSt) : State :=
  if die < 2 then s.setSvP die r.iid v else s.setSvH (die - 2) (s.cellOf r) v

/-- The index of an instance in a die's DCNT words (R187). -/
def State.sieveIdx (s : State) (die : Nat) (r : InstRec) : Nat := if die < 2 then r.iid else s.cellOf r

/-- Whether a die's side holds an instance fenced. -/
def State.sideFenced (s : State) (die : Nat) (r : InstRec) : Bool :=
  if die < 2 then s.instFencedP r.iid else s.instFencedH r.iid

/-- The instances that a die compares now: admitted, with a full window behind them. -/
def State.compared (s : State) (die : Nat) : List InstRec :=
  (s.paired die).filter fun r => !s.sideFenced die r && (s.sieveOf die r).lastOk

/-- Whether a window has just ended on a die. -/
def State.windowEnded (s : State) (die : Nat) : Bool := decide ((s.svDie die).ended = s.tickOf die + 1)

/-! ### The exchange (R181) -/

/-- The field die number of a record between two dies. -/
def recordDie (a b : Nat) : Nat := if a < 2 then b - 2 else a - 2

/-- The record that a die sends to a partner die. -/
def State.sieveRecord (s : State) (die other : Nat) : List Byte :=
  let rs := (s.compared die).filter fun r => s.partner die r == other
  let body := leBytes 2 (s.svDie die).start ++ leBytes 1 (recordDie die other) ++ leBytes 1 rs.length ++
    rs.flatMap fun r => leBytes 2 r.iid ++ leBytes 4 (s.sieveOf die r).last
  body ++ leBytes 2 (crc16 body)

/-- The partner dies of a die. -/
def State.partners (s : State) (die : Nat) : List Nat := s.dies.filter fun d => (s.paired die).any fun r => s.partner die r == d

/-- A die starts its exchange: one record for each partner die, which is also the command's result. -/
def State.sieveSend (s : State) (die : Nat) : State :=
  let rs := (s.partners die).map fun d => (d, s.sieveRecord die d)
  ((s.on (decide (die < 2)) fun s => s.reachPoint die 10).setSvDie die { s.svDie die with out := rs }).give
    (rs.flatMap fun r => r.2.map BitVec.toNat)

/-- The meaning of SIEVE_EXCHANGE_START. -/
def execSieveExchangeStart (die : Nat) (s : State) : Answer :=
  s.answer (s.hasDie die) (s.windowEnded die) (s.sieveSend die)

/-- The signature that a record holds for an instance, in its records from place `k` on. -/
def recordSig (rec_ : List Byte) (iid : Nat) : Option Nat :=
  ((List.range (fieldAt rec_ 3 1)).find? fun i => fieldAt rec_ (4 + 6 * i) 2 % 1024 == iid).map fun i =>
    fieldAt rec_ (6 + 6 * i) 4

/-- Whether a record's length and CRC hold (R181). -/
def recGood (rec_ : List Byte) : Bool :=
  let n := fieldAt rec_ 3 1
  decide (rec_.length = 6 + 6 * n) && decide (crc16 (rec_.take (4 + 6 * n)) = fieldAt rec_ (4 + 6 * n) 2)

/-- The record that arrives at a die from its partner `src`: what the partner sent in this tick, or nothing. -/
def State.recordIn (s : State) (die src : Nat) (x : Transit) : Option (List Byte) :=
  match (s.svDie src).out.lookup die with
  | some b => if x.complete && recGood (x.pass b) then some (x.pass b) else none
  | none => none

/-- The record of a partner die; one whose checks fail is absent. -/
def State.sieveReceive (s : State) (die src : Nat) (x : Transit) : State :=
  match s.recordIn die src x with
  | some b =>
    let s1 := s.setSvDie die { s.svDie die with got := src :: (s.svDie die).got }
    s1.each ((s1.paired die).filter fun r => s1.partner die r == src) fun s r =>
      s.setSieve die r { s.sieveOf die r with other := recordSig b r.iid }
  | none => s

/-- Whether the link between a logic die and a field die carries messages. -/
def State.bridgeUp (s : State) (a b : Nat) : Bool :=
  if a < 2 then !s.fenced U.link a (b - 2) else !s.fenced U.link b (a - 2)

/-- The meaning of SIEVE_RECORD_RECEIVED. -/
def execSieveRecordReceived (die src : Nat) (x : Transit) (s : State) : Answer :=
  s.answer (s.hasDie die && s.hasDie src && (decide (die < 2) != decide (src < 2))) (s.bridgeUp die src)
    (s.sieveReceive die src x)

/-! ### The comparison (R182) -/

/-- The sieve registers of a die: logic or field. -/
def sieveFld (die : Nat) (p h : Fld) : Fld := if die < 2 then p else h

/-- The record of an instance fenced by the sieve (R187). -/
def State.sieveLast (s : State) (die : Nat) (r : InstRec) : State :=
  let x := s.sieveOf die r
  let g (p h : Fld) := sieveFld die p h
  let s1 := ((s.put (g F.SIEVEP_SLAST_IID F.SIEVEH_SLAST_IID) die 0 r.iid).put (g F.SIEVEP_SLAST_CELL F.SIEVEH_SLAST_CELL) die 0
    (s.cellOf r)).put (g F.SIEVEP_SLAST_FDIE F.SIEVEH_SLAST_FDIE) die 0 r.fdie
  let s2 := (s1.put (g F.SIEVEP_SLAST_VALID F.SIEVEH_SLAST_VALID) die 0 1).put (g F.SIEVEP_SLOCAL_SIG F.SIEVEH_SLOCAL_SIG) die 0
    x.last
  (s2.put (g F.SIEVEP_SOTHER_SIG F.SIEVEH_SOTHER_SIG) die 0 (x.other.getD 0)).count (g F.SIEVEP_SCNT_SFENCE F.SIEVEH_SCNT_SFENCE)
    die 0

/-- One side fences an instance (R182, R183). -/
def State.sieveFence (s : State) (die : Nat) (r : InstRec) : State :=
  ((s.logFence die U.inst r.iid 6).fenceOn U.inst (if die < 2 then 0 else 1) r.iid 6).sieveLast die r

/-- The comparison of one instance. -/
def State.compareInst (s : State) (die : Nat) (r : InstRec) : State :=
  let x := s.sieveOf die r
  let n := s.sieveIdx die r
  if x.other = some x.last then s.setDcnt die n 0
  else
    let c := min 3 (s.dcnt die n + 1)
    let s1 := (s.setDcnt die n c).count (sieveFld die F.SIEVEP_SCNT_DISWIN F.SIEVEH_SCNT_DISWIN) die 0
    s1.on (decide (3 ≤ c)) fun s => s.sieveFence die r

/-- The comparison at the 30 % point. -/
def State.sieveCompare (s : State) (die : Nat) : State :=
  let rs := s.compared die
  let bad := rs.countP fun r => (s.sieveOf die r).other != some (s.sieveOf die r).last
  let absent := (s.partners die).any fun d => !(s.svDie die).got.contains d
  let g (p h : Fld) := sieveFld die p h
  let s1 := ((s.put (g F.SIEVEP_SSTAT_WSTART F.SIEVEH_SSTAT_WSTART) die 0 (s.svDie die).start).put
    (g F.SIEVEP_SSTAT_NDIS F.SIEVEH_SSTAT_NDIS) die 0 (min bad 255)).putB (g F.SIEVEP_SSTAT_XABS F.SIEVEH_SSTAT_XABS) die 0 absent
  (s1.on (decide (die < 2)) fun s => s.reachPoint die 30).each rs fun s r => s.compareInst die r

/-- The meaning of SIEVE_COMPARE. -/
def execSieveCompare (die : Nat) (s : State) : Answer :=
  s.answer (s.hasDie die) (s.windowEnded die) (s.sieveCompare die)

/-! ### The fence message (R183) -/

/-- The side of an instance that a die holds: 0 channel P, 1 channel H. -/
def sideOf (die : Nat) : Nat := if die < 2 then 0 else 1

/-- Whether the message of the partner's fence is under way to a die; the bridge link of the two dies carries it (R348). -/
def State.sieveMessageDue (s : State) (die iid : Nat) : Bool :=
  s.fenced U.inst (1 - sideOf die) iid && !s.fenced U.inst (sideOf die) iid &&
    (s.paired die).any fun r => r.iid == iid && !s.fenced U.link (s.dieOf r) r.fdie

/-- The meaning of SIEVE_FENCE_MESSAGE: the partner fences the instance on receipt. -/
def execSieveFenceMessage (die iid : Nat) (s : State) : Answer :=
  s.answer (s.hasDie die) (s.sieveMessageDue die iid)
    (s.fenceOn U.inst (sideOf die) iid (s.fence U.inst (1 - sideOf die) iid).reason)

end Sys2Proof.Machine
end

