-- ==== Sys2Proof/Machine/UnitCommands.lean ====
section
/-!
DEFINITION. The expert commands on registers and units: REG_WRITE, FENCE_CTL, BIST_RUN, TILLER_CTL, CRC_JOB, TIMER_CTL,
RING_SCHEDULE, and the OTP commands (R314 to R320, R389, R390, R400).
-/

namespace Sys2Proof.Machine

/-! ### REG_WRITE (R316, R317) -/

/-- One entry: address, mask, value. -/
structure RegEntry where
  addr : Nat
  mask : Nat
  value : Nat
deriving DecidableEq, Repr

/-- The entries of a request. -/
def regEntries (p : List Byte) : List RegEntry :=
  (List.range (fieldAt p 0 2)).map fun k => ⟨fieldAt p (4 + 12 * k) 4, fieldAt p (8 + 12 * k) 4, fieldAt p (12 + 12 * k) 4⟩

/-- Whether the configuration image defines a register, as R317 lists them; of LCTL only CLKSEL. -/
def imageDefined (r : Reg) (mask : Nat) : Bool :=
  match r with
  | .TERM_CFG | .TERM_OUTCFG | .TERM_PULSECFG | .TP_FRAME | .TP_CODE | .HC_HCFG | .HC_TSEL0 | .HC_TSEL1 | .HC_PAR0 | .HC_PAR1
  | .HC_PAR2 | .HC_PAR3 | .HC_RST | .HC_HIID | .LMR | .HBOWN | .LANE_LWCET | .SIEVEP_SCFG | .SIEVEH_SCFG | .TICK_TCFG
  | .RNG_RINGCFG | .RNG_RINGID | .RNG_ETYPE | .RNG_NODES | .RNG_CFGHASH | .RNG_TURNCFG | .RNG_SLSERV | .RNG_SLFURR
  | .RNG_SLSPATE | .RNG_SPFWD | .RNG_SVCFG => true
  | .LANE_LCTL => bitsOf mask F.LANE_LCTL_CLKSEL.lo F.LANE_LCTL_CLKSEL.w != 0
  | _ => false

/-- The word that an entry writes: bits of MASK take VALUE, the others stand, but W1C and WO bits are written 0. -/
def State.entryWord (s : State) (r : Reg) (die idx : Nat) (e : RegEntry) : Nat :=
  let stays := (r.fields.filter fun f => f.acc != .w1c && f.acc != .wo).foldl (fun a f => a ||| (2 ^ f.w - 1) * 2 ^ f.lo) 0
  let old := s.word r die idx &&& stays
  (e.value &&& e.mask) ||| (old - (old &&& e.mask))

/-- Whether a word keeps within the ranges that register tables give for fields whose hardware takes other values too, or refuses
them on its own (R76, R317, R402). -/
def rangeOk (r : Reg) (v : Nat) : Bool :=
  match r with
  | .LTMR_CTL => decide (bitsOf v 7 2 ≠ 3) && decide (bitsOf v 9 6 ≤ 32)
  | .FTMR_CTL => decide (bitsOf v 7 2 ≠ 3)
  | .SCAN_LEN => decide (1 ≤ v) && decide (v ≤ 0x400000)
  | _ => true

/-- The firmware bounds check of one entry. -/
def State.boundsOk (s : State) (e : RegEntry) : Bool :=
  let die := e.addr / 2 ^ 28
  let off := e.addr % 2 ^ 28
  if 2 ^ 31 ≤ e.addr ∨ s.hasDie die = false ∨ e.addr % 4 ≠ 0 then false
  else if memArea die off ≠ .none then true
  else match findReg die off with
    | none => false
    | some (r, i) =>
      r.bitsKnown (e.value &&& e.mask) &&
        tableOk r die (s.entryWord r die i e) (s.get F.RNG_TURNCFG_PERIOD die 0) && rangeOk r (s.entryWord r die i e) &&
        !(s.inRun && imageDefined r e.mask)

/-- The word of an entry in memory or in a register. -/
def State.entryValue (s : State) (e : RegEntry) : Nat :=
  let die := e.addr / 2 ^ 28
  let off := e.addr % 2 ^ 28
  match (if memArea die off = .none then findReg die off else none) with
  | some (r, i) => s.entryWord r die i e
  | none => let old := leNat (s.bytes e.addr 4); (e.value &&& e.mask) ||| (old - (old &&& e.mask))

/-- Write entries in order up to the first refusal: the state and how many were written. `same` gives for each the bits that
hardware sets in the cycle of its write (R8). -/
def State.writeRun (s : State) (m : Master) (same : List Nat) : List RegEntry → State × Nat
  | [] => (s, 0)
  | e :: es =>
    let w := s.busWrite m e.addr (wordBeside e.addr (s.entryValue e) (same.headD 0)) 15
    if w.2 then
      let t := State.writeRun w.1 m same.tail es
      (t.1, t.2 + 1)
    else (w.1, 0)

/-- The payload of REG_WRITE: NDONE and FAILIDX. -/
def regAnswer (done_ fail : Nat) : List Byte := leBytes 2 done_ ++ leBytes 2 fail

/-- What REG_WRITE does. -/
def State.regWrite (s : State) (sv : Nat) (same : List Nat) (p : List Byte) : Reply :=
  let es := regEntries p
  if es.isEmpty || decide (40 < es.length) || !zeros p 2 2 then refused s St.badParam
  else match es.findIdx? fun e => !s.boundsOk e with
    | some k => ⟨s, St.bounds, regAnswer 0 k⟩
    | none =>
      let w := s.writeRun (Master.sv sv) same es
      if w.2 = es.length then ⟨w.1, St.ok, regAnswer w.2 0xFFFF⟩ else ⟨w.1, St.writeRefused, regAnswer w.2 w.2⟩

/-- The length of REG_WRITE: 4 + 12 N. -/
def lenEntries (p : List Byte) : Bool := decide (4 ≤ p.length) && decide (p.length = 4 + 12 * fieldAt p 0 2)

/-- The meaning of REG_WRITE. -/
def execRegWrite (ld : Nat) (w : WriteTurn) (s : State) : Answer :=
  s.command ld w.mb 0x0102 true lenEntries fun sv _ s p => s.regWrite sv w.same p

/-! ### Writes of the serving supervisor to units (R289, R490) -/

/-- A command goes on where the bus and the write-permission map admit the serving supervisor's write to copy `idx` of a register: over a
link that is not fenced, and for a register of a logic die by its own supervisor, unless the command's own rule sends it to the other
die (`other`). A refusal is logged and answers WRITE_REFUSED. -/
def State.svWrite (s : State) (sv : Nat) (r : Reg) (die idx : Nat) (other : Bool) (k : Reply) : Reply :=
  let m := Master.sv sv
  let a := regAddr r die idx
  let x := s.route m a
  if x ≠ 0 then refused (s.logErr sv m a x true) St.writeRefused
  else if decide (die < 2) && decide (die ≠ sv) && !other then refused (s.logErr die m a 6 true) St.writeRefused
  else k

/-! ### FENCE_CTL (R314, R318, R351, R352) -/

/-- The unit that DIE, kind and index name: the die that holds it and its number there. -/
def State.unitOf (s : State) (die kind idx : Nat) : Option (Nat × Nat) :=
  if kind = U.term then (if die = 0 ∧ s.hasFd (idx / 64) = true then some (fdie (idx / 64), idx % 64) else none)
  else if kind = U.inst then
    (if die = 0 then (s.recOf idx).map fun r => (s.dieOf r, idx) else none)
  else if !s.hasDie die then none
  else if die < 2 then (if s.freqNames die kind idx then some (die, idx) else none)
  else if idx < ffreqCount kind then some (die, idx) else none

/-- An instance's fence or clear message reaches its field die in the step of the request (log entry 14). -/
def State.sendMessage (s : State) (iid : Nat) (clear : Bool) : State :=
  match s.recOf iid with
  | some r => s.on (s.messageDue r clear) fun s => s.fenceMessage iid clear
  | none => s

/-- The fence of a unit through FREQ or FFREQ. -/
def State.ctlFence (s : State) (die kind idx : Nat) : State :=
  if 2 ≤ die then s.ffreqFence (die - 2) kind idx
  else (s.freqFence die kind idx).on (decide (kind = U.inst)) fun s => s.sendMessage idx false

/-- Whether the clear condition of a unit holds. -/
def State.ctlClearOk (s : State) (die kind idx : Nat) : Bool :=
  if 2 ≤ die then s.fenced kind die idx else s.clearLogicOk die kind idx

/-- The clear of a unit through FREQ or FFREQ. -/
def State.ctlClear (s : State) (die kind idx : Nat) : State :=
  if 2 ≤ die then s.ffreqClear (die - 2) kind idx
  else (s.freqClear die kind idx).on (decide (kind = U.inst)) fun s => s.sendMessage idx true

/-- The request register of a unit's die, and whether the unit may be named from the other logic die: R318 lets one supervisor fence the
other, and gives an instance without its die (DEDUCED, log entry 168). -/
def freqReg (die : Nat) : Reg := if die < 2 then .FENCE_FREQ else .FSYS_FFREQ

def freqOther (kind : Nat) : Bool := decide (kind = U.sv) || decide (kind = U.inst)

/-- What FENCE_CTL does with OP 1. A supervisor does not fence its own die's supervisor. -/
def State.fenceCtlFence (s : State) (sv : Nat) (p : List Byte) : Reply :=
  let kind := fieldAt p 2 1
  match s.unitOf (fieldAt p 1 1) kind (fieldAt p 4 2) with
  | none => refused s St.badParam
  | some (d, i) =>
    if fieldAt p 0 1 ≠ 1 ∨ zeros p 3 1 = false ∨ zeros p 6 2 = false ∨ (kind = U.sv ∧ d = sv) then refused s St.badParam
    else s.svWrite sv (freqReg d) d 0 (freqOther kind) (done (s.ctlFence d kind i) [])

/-- The meaning of FENCE_CTL with OP 1; any OP but 2 is answered here. -/
def execFenceCtlFence (ld mb : Nat) (s : State) : Answer :=
  s.command ld mb 0x0112 (fieldAt (s.req ld mb).own 0 1 != 2) (lenIs 8) fun sv _ s p => s.fenceCtlFence sv p

/-- What FENCE_CTL does with OP 2. -/
def State.fenceCtlClear (s : State) (sv : Nat) (p : List Byte) : Reply :=
  let kind := fieldAt p 2 1
  match s.unitOf (fieldAt p 1 1) kind (fieldAt p 4 2) with
  | none => refused s St.badParam
  | some (d, i) =>
    if zeros p 3 1 = false ∨ zeros p 6 2 = false ∨ kind = U.term ∨ kind = U.field then refused s St.badParam
    else if !s.ctlClearOk d kind i then refused s St.clearRefused
    else s.svWrite sv (freqReg d) d 0 (freqOther kind) (done (s.ctlClear d kind i) [])

/-- The meaning of FENCE_CTL with OP 2. -/
def execFenceCtlClear (ld mb : Nat) (s : State) : Answer :=
  s.command ld mb 0x0112 (fieldAt (s.req ld mb).own 0 1 == 2) (lenIs 8) fun sv _ s p => s.fenceCtlClear sv p

/-! ### BIST_RUN (R300, R318, R404, R415) -/

/-- The pattern count of a request: 0 selects 32,768; none outside R404. -/
def patternCount (v : Nat) : Option Nat :=
  if v = 0 then some 32768 else if v % 1024 = 0 ∧ v ≤ 1048576 then some v else none

/-- Whether a unit cannot run BIST now: a lane that carries instances, is a soak target or is retired, an enabled ring engine, the
serving supervisor, or an engine that runs. -/
def State.bistBusy (s : State) (sv d e : Nat) : Bool :=
  s.get F.LBIST_STAT_STATE d e != 0 ||
    (if e < 8 then !(s.instsOf d e).isEmpty || s.isSoakLane d e || s.retired d e
     else if e = 8 then decide (d = sv) else s.flag F.RNG_RINGCFG_ENABLE d 0)

/-- The job of BIST_RUN: the run starts, and its end ends the job. -/
def State.bistJob (s : State) (ld sv tag d e n : Nat) : Reply :=
  match s.jobSlot ld with
  | none => refused s St.noResource
  | some _ =>
    let s1 := (s.put F.LBIST_CFG_PCNT d e n).bistStart d e
    s1.asJob ld sv 0x0120 tag fun s k => s.setSv d { s.svst d with bistJobs := (s.svst d).bistJobs ++ [(e, 8 * ld + k)] }

/-- What BIST_RUN does. -/
def State.bistRun (s : State) (ld sv tag : Nat) (p : List Byte) : Reply :=
  let d := fieldAt p 0 1
  let kind := fieldAt p 1 1
  let i := fieldAt p 2 2
  match patternCount (fieldAt p 4 4) with
  | none => refused s St.badParam
  | some n =>
    if !s.hasDie d then refused s St.badParam
    else if 2 ≤ d then refused s St.notPermitted
    else if kind = 0 ∨ 3 < kind ∨ freqCount kind ≤ i then refused s St.badParam
    else if s.bistBusy sv d (bistEngine kind i) then refused s St.unitBusy
    else s.svWrite sv .LBIST_CTL d (bistEngine kind i) (decide (kind = U.sv)) (s.bistJob ld sv tag d (bistEngine kind i) n)

/-- The meaning of BIST_RUN. -/
def execBistRun (ld mb : Nat) (s : State) : Answer :=
  s.command ld mb 0x0120 true (lenIs 8) fun sv tag s p => s.bistRun ld sv tag p

/-! ### TILLER_CTL (R318, R383) -/

/-- The response of TILLER_CTL. -/
def State.tillerBytes (s : State) (d : Nat) : List Byte :=
  leBytes 4 (s.get F.SPM_TCTL_PACE d 0) ++ leBytes 4 (s.get F.SPM_TSTAT_REGION d 0) ++ leBytes 4 (s.get F.SPM_TCNT_SWEEPS d 0)

/-- Whether the seal reads open at L0 and at the die whose TCTL the request names (R296, R491). -/
def State.tillerGate (s : State) (p : List Byte) : Bool := s.gate 0 && s.gate (fieldAt p 0 1)

/-- What TILLER_CTL does with an operation on its die. -/
def State.tiller (s : State) (p : List Byte) (ok : Bool) (status : Nat) (f : Nat → State) : Reply :=
  let d := fieldAt p 0 1
  if !s.hasLd d || !zeros p 2 2 || !ok then refused s St.badParam
  else if status ≠ 0 then refused s status
  else done (f d) ((f d).tillerBytes d)

/-- What TILLER_CTL does with an operation that writes TCTL of its die. -/
def State.tillerWrite (s : State) (sv : Nat) (p : List Byte) (ok : Bool) (status : Nat) (f : Nat → State) : Reply :=
  let r := s.tiller p ok status f
  if r.status = 0 then s.svWrite sv .SPM_TCTL (fieldAt p 0 1) 0 false r else r

/-- The operation byte of a request in a mailbox. -/
def State.opByte (s : State) (ld mb : Nat) : Nat := fieldAt (s.req ld mb).own 1 1

/-- The meaning of TILLER_CTL with OP 0; an OP above 3 is refused here. -/
def execTillerCtlRead (ld mb : Nat) (s : State) : Answer :=
  s.command ld mb 0x0121 (s.opByte ld mb == 0 || decide (3 < s.opByte ld mb)) (lenIs 8) fun _ _ s p =>
    s.tiller p (fieldAt p 1 1 == 0) 0 fun _ => s

/-- The meaning of TILLER_CTL with OP 1. -/
def execTillerCtlSetPace (ld mb : Nat) (s : State) : Answer :=
  s.command ld mb 0x0121 (s.opByte ld mb == 1) (lenIs 8) fun sv _ s p =>
    let v := fieldAt p 4 4
    s.tillerWrite sv p (decide (10 ≤ v) && decide (v ≤ 1000)) (if 50 < v ∧ s.tillerGate p = false then St.isSealed else 0) fun d =>
      s.put F.SPM_TCTL_PACE d 0 v

/-- The meaning of TILLER_CTL with OP 2. -/
def execTillerCtlPause (ld mb : Nat) (s : State) : Answer :=
  s.command ld mb 0x0121 (s.opByte ld mb == 2) (lenIs 8) fun sv _ s p =>
    s.tillerWrite sv p true (if s.tillerGate p then 0 else St.isSealed) fun d => s.put F.SPM_TCTL_PAUSE d 0 1

/-- The meaning of TILLER_CTL with OP 3. -/
def execTillerCtlResume (ld mb : Nat) (s : State) : Answer :=
  s.command ld mb 0x0121 (s.opByte ld mb == 3) (lenIs 8) fun sv _ s p =>
    s.tillerWrite sv p true 0 fun d => s.put F.SPM_TCTL_PAUSE d 0 0

/-! ### CRC_JOB (R318, R389, R390, R400) -/

/-- The parameters of a CRC unit. -/
structure CrcSet where
  width : Nat
  poly : Nat
  init : Nat
  xorout : Nat
  refin : Bool
  refout : Bool
deriving DecidableEq, Repr

/-- The presets of R389. -/
def crcPreset : Nat → Option CrcSet
  | 1 => some ⟨32, 0x1EDC6F41, 0xFFFFFFFF, 0xFFFFFFFF, true, true⟩
  | 2 => some ⟨32, 0x04C11DB7, 0xFFFFFFFF, 0xFFFFFFFF, true, true⟩
  | 3 => some ⟨32, 0x1EDC6F41, 0xFFFFFFFF, 0xFFFFFFFF, false, false⟩
  | 4 => some ⟨32, 0x741B8CD7, 0xFFFFFFFF, 0xFFFFFFFF, false, false⟩
  | 5 => some ⟨16, 0x1021, 0xFFFF, 0x0000, false, false⟩
  | 6 => some ⟨16, 0x8BB7, 0xFFFF, 0x0000, false, false⟩
  | 7 => some ⟨8, 0x07, 0x00, 0x00, false, false⟩
  | _ => none

/-- A custom set within R390. -/
def customOk (c : CrcSet) : Bool :=
  decide (8 ≤ c.width) && decide (c.width ≤ 32) && decide (c.poly < 2 ^ c.width) && decide (c.init < 2 ^ c.width) &&
    decide (c.xorout < 2 ^ c.width) && c.poly.testBit 0

/-- The parameters that a request names. -/
def crcSetOf (p : List Byte) : Option CrcSet :=
  if fieldAt p 2 1 = 0 then
    let b := fieldAt p 16 1
    let c : CrcSet := ⟨fieldAt p 3 1, fieldAt p 4 4, fieldAt p 8 4, fieldAt p 12 4, b.testBit 0, b.testBit 1⟩
    if customOk c && decide (b < 4) then some c else none
  else crcPreset (fieldAt p 2 1)

/-- Write a parameter set to a unit. -/
def State.putCrc (s : State) (d n : Nat) (c : CrcSet) : State :=
  (((((s.put F.CRC_CFG_WIDTH d n c.width).putB F.CRC_CFG_REFIN d n c.refin).putB F.CRC_CFG_REFOUT d n c.refout).put
    F.CRC_POLY_POLY d n c.poly).put F.CRC_INIT_INIT d n c.init).put F.CRC_XOROUT_XOROUT d n c.xorout

/-- Whether either unit of a pair is leased or fenced. -/
def State.pairBusy (s : State) (d n : Nat) : Bool :=
  s.flag F.FENCE_LEASE_OWNER d n || s.flag F.FENCE_LEASE_OWNER d (n + 8) || s.fenced U.crc d n || s.fenced U.scan d n

/-- The pair is claimed for the supervisor, takes its parameters and the range, and scans (R400). -/
def State.crcStart (s : State) (d n start len : Nat) (c : CrcSet) : State :=
  let s1 := ((s.put F.FENCE_LEASE_OWNER d n 9).put F.FENCE_LEASE_OWNER d (n + 8) 9).putCrc d n c
  ((s1.put F.SCAN_START_START d n start).put F.SCAN_LEN_LEN d n len).scanStart d n false

/-- What CRC_JOB does. -/
def State.crcJob (s : State) (ld sv tag : Nat) (p : List Byte) : Reply :=
  let d := fieldAt p 0 1
  let n := fieldAt p 1 1
  let start := fieldAt p 20 4
  let len := fieldAt p 24 4
  match crcSetOf p with
  | none => refused s St.badParam
  | some c =>
    if !s.hasLd d || decide (8 ≤ n) || !zeros p 17 3 || decide (len = 0) || decide (0x400000 < start + len) then
      refused s St.badParam
    else if s.pairBusy d n then refused s St.unitBusy
    else s.svWrite sv .FENCE_LEASE d n false (s.asJob ld sv 0x0122 tag fun s e =>
      (s.setSv d { s.svst d with crcJobs := (s.svst d).crcJobs ++ [(n, 8 * ld + e)] }).crcStart d n start len c)

/-- The meaning of CRC_JOB. -/
def execCrcJob (ld mb : Nat) (s : State) : Answer :=
  s.command ld mb 0x0122 true (lenIs 28) fun sv tag s p => s.crcJob ld sv tag p

/-! ### TIMER_CTL (R318, R65 to R76) -/

/-- The number of the timer that a request names on its die: LTMR 0 to 31, or GTMR 0 to 15 as field timer 64 up. -/
def State.ctlTimer (s : State) (d t : Nat) : Option Nat :=
  if !s.hasDie d then none else if d < 2 then (if t < 32 then some t else none) else if t < 16 then some (64 + t) else none

/-- The owner code of the supervisor (R73). -/
def svTimerCode (d : Nat) : Nat := if d < 2 then 9 else 1

/-- The registers of a timer after an operation, read in the order of the response by the supervisor. -/
def State.timerReply (s : State) (sv d n : Nat) : Reply :=
  let r := s.readRun (Master.sv sv) (regAddr (ctlReg d) d n) 7
  done r.1 (r.2.1.flatMap fun w => leBytes 4 w)

/-- What TIMER_CTL does with an operation on its timer; `free` tells that the operation wants a timer without an owner. -/
def State.timerCmd (s : State) (sv : Nat) (p : List Byte) (op : Nat) (wantFree : Bool) (f : Nat → Nat → State × Nat) : Reply :=
  let d := fieldAt p 0 1
  match s.ctlTimer d (fieldAt p 2 1) with
  | none => refused s St.badParam
  | some n =>
    let o := s.get (tmr d).owner d n
    if fieldAt p 1 1 ≠ op ∨ zeros p 3 1 = false ∨ zeros p 16 4 = false then refused s St.badParam
    else if (if wantFree then o ≠ 0 ∨ s.fenced (timerKind d) d n = true else o ≠ svTimerCode d) then refused s St.unitBusy
    else s.svWrite sv (ctlReg d) d n false
      (let a := f d n
       if a.2 ≠ 0 then refused a.1 a.2 else a.1.timerReply sv d n)

/-- The meaning of TIMER_CTL with OP 1; an OP outside 1 to 4 is refused here. -/
def execTimerCtlAcquire (ld mb : Nat) (s : State) : Answer :=
  s.command ld mb 0x0123 (decide (s.opByte ld mb < 2) || decide (4 < s.opByte ld mb)) (lenIs 20) fun sv _ s p =>
    s.timerCmd sv p 1 true fun d n => (s.put (tmr d).owner d n (svTimerCode d), 0)

/-- A timer that its owner releases returns to idle with its fields at their On fence values (R355, R75: DESIGN CHOICE, R318 says
only that the lease is released). -/
def State.timerFree (s : State) (d n : Nat) : State :=
  s.idleTimer d n

/-- The meaning of TIMER_CTL with OP 2. -/
def execTimerCtlRelease (ld mb : Nat) (s : State) : Answer :=
  s.command ld mb 0x0123 (s.opByte ld mb == 2) (lenIs 20) fun sv _ s p =>
    s.timerCmd sv p 2 false fun d n => (s.timerFree d n, 0)

/-- Set writes RELOAD, then CMPPRE, then CTL; OWNER, which is RO, stands, and a word that its register refuses writes
none (R289). -/
def State.timerSet (s : State) (p : List Byte) (d n : Nat) : State × Nat :=
  let asked := fieldAt p 4 4
  let ctl := asked - bitsOf asked 16 4 * 2 ^ 16 + s.get (tmr d).owner d n * 2 ^ 16
  let rel := fieldAt p 8 4
  let cmp := fieldAt p 12 4
  if s.timerWordOk d n 2 rel && s.timerWordOk d n 3 cmp && s.timerWordOk d n 0 ctl then
    (((s.timerWord d n 2 rel).timerWord d n 3 cmp).timerWord d n 0 ctl, 0)
  else (s, St.writeRefused)

/-- The meaning of TIMER_CTL with OP 3. -/
def execTimerCtlSet (ld mb : Nat) (s : State) : Answer :=
  s.command ld mb 0x0123 (s.opByte ld mb == 3) (lenIs 20) fun sv _ s p => s.timerCmd sv p 3 false fun d n => s.timerSet p d n

/-- The meaning of TIMER_CTL with OP 4. -/
def execTimerCtlRead (ld mb : Nat) (s : State) : Answer :=
  s.command ld mb 0x0123 (s.opByte ld mb == 4) (lenIs 20) fun sv _ s p => s.timerCmd sv p 4 false fun _ _ => (s, 0)

/-! ### RING_SCHEDULE (R235, R318) -/

/-- The four registers and their words, the longer turn period in effect for the windows: a longer one is written before them, a
shorter one after, so that R235 judges the words as one set (DEDUCED). -/
def State.scheduleWords (s : State) (r : Nat) (p : List Byte) : List RegEntry :=
  let es := [Reg.RNG_TURNCFG, .RNG_SLSERV, .RNG_SLFURR, .RNG_SLSPATE].zipIdx.map fun x =>
    (⟨regAddr x.1 r 0, 0xFFFFFFFF, fieldAt p (4 + 4 * x.2) 4⟩ : RegEntry)
  if s.get F.RNG_TURNCFG_PERIOD r 0 < fieldAt p 4 1 % 8 then es else es.drop 1 ++ es.take 1

/-- What RING_SCHEDULE does: all four words or none (R289); a refused one is logged where it is refused (R486). -/
def State.ringSchedule (s : State) (sv : Nat) (p : List Byte) : Reply :=
  let r := fieldAt p 0 1
  if !s.hasLd r || !zeros p 1 3 then refused s St.badParam
  else if s.flag F.RNG_RINGCFG_ENABLE r 0 then refused s St.ringActive
  else
    let es := s.scheduleWords r p
    let w := s.writeRun (Master.sv sv) [] es
    if w.2 = 4 then
      done w.1 (w.1.wordsOf [(.RNG_TURNCFG, r, 0), (.RNG_SLSERV, r, 0), (.RNG_SLFURR, r, 0), (.RNG_SLSPATE, r, 0)])
    else
      let a := (es.map RegEntry.addr).getD w.2 0
      let k := s.route (Master.sv sv) a
      refused (if k = 0 then s.logErr r (Master.sv sv) a 7 true else s.logErr sv (Master.sv sv) a k true) St.writeRefused

/-- The meaning of RING_SCHEDULE. -/
def execRingSchedule (ld mb : Nat) (s : State) : Answer :=
  s.command ld mb 0x0130 true (lenIs 20) fun sv _ s p => s.ringSchedule sv p

/-! ### OTP_PROGRAM and LC_ADVANCE (R319, R320, R416, R430 to R434) -/

/-- An operation that OCMD started ends before the next one. -/
def State.otpSettle (s : State) : State := if s.otpOp.kind = 0 then s else s.otpEnds

/-- One operation from its start to its margin reads. -/
def State.otpRun (s : State) (kind w d : Nat) : State := (s.otpStart kind w d).otpEnds

/-- What OTP_PROGRAM does with its word. -/
def State.otpCommand (s : State) (sv : Nat) (p : List Byte) (reburn : Bool) : Reply :=
  let w := 256 * fieldAt p 0 1 + fieldAt p 2 2
  let d := fieldAt p 4 8
  if 7 < fieldAt p 0 1 ∨ 255 < fieldAt p 2 2 ∨ zeros p 1 1 = false ∨ zeros p 13 3 = false ∨ fieldAt p 12 1 ≠ reburn.toNat then
    refused s St.badParam
  else
    let s0 := s.otpSettle
    match s0.otpRefusal sv w d reburn with
    | 0 =>
      let s1 := s0.otpRun (if reburn then 2 else 1) w d
      let v := if 16 ≤ w ∧ w ≤ 19 then 0 else (s1.otpData w).getD 0
      done s1 (leBytes 8 v ++ leBytes 1 (s1.get F.OTP_OSTAT_WEAK 0 0) ++ leBytes 3 0)
    | 1 => refused s0 St.otpLocked
    | 2 => refused s0 St.otpRate
    | _ => refused s0 St.otpMismatch

/-- The OP byte of OTP_PROGRAM in a mailbox. -/
def State.otpOpByte (s : State) (ld mb : Nat) : Nat := fieldAt (s.req ld mb).own 12 1

/-- The meaning of OTP_PROGRAM with OP 0; any OP but 1 is answered here. -/
def execOtpProgram (ld mb : Nat) (s : State) : Answer :=
  s.command ld mb 0x0140 (s.otpOpByte ld mb != 1) (lenIs 16) fun sv _ s p => s.otpCommand sv p false

/-- The meaning of OTP_PROGRAM with OP 1. -/
def execOtpReburn (ld mb : Nat) (s : State) : Answer :=
  s.command ld mb 0x0140 (s.otpOpByte ld mb == 1) (lenIs 16) fun sv _ s p => s.otpCommand sv p true

/-- Whether a life-cycle target is the next state, or RETIRED from VENDOR or FIELD. -/
def lcNext (lc target : Nat) : Bool := decide (target = lc + 1) || (decide (target = 3) && (decide (lc = 1) || decide (lc = 2)))

/-- What LC_ADVANCE does: the marker is programmed whatever the lock and the close of region 0 (R430); L1 programs nothing
(R443). -/
def State.lcAdvance (s : State) (sv : Nat) (p : List Byte) : Reply :=
  let t := fieldAt p 0 1
  if t = 0 ∨ 3 < t ∨ zeros p 1 3 = false ∨ fieldAt p 4 4 ≠ 0x4C430000 + t then refused s St.badParam
  else if !lcNext s.lc t then refused s St.lcOrder
  else if sv ≠ 0 then refused s St.otpLocked
  else
    let s0 := s.otpSettle
    if s0.get F.OTP_OSTAT_TOKENS 0 0 = 0 then refused s0 St.otpRate
    else if (s0.otpWord (3 + t)).prog then refused s0 St.otpMismatch
    else done (s0.otpRun 1 (3 + t) 0x5A5A) []

/-- The meaning of LC_ADVANCE. -/
def execLcAdvance (ld mb : Nat) (s : State) : Answer :=
  s.command ld mb 0x0141 true (lenIs 8) fun sv _ s p => s.lcAdvance sv p

end Sys2Proof.Machine
end

