-- ==== Sys2Proof/Machine/Dispatch.lean ====
section
/-!
DEFINITION. One arm per command: a direct call of its meaning.
-/

namespace Sys2Proof.Machine

def exec (i : Instr) (s : State) : Host.Outcome State Fault Refusal :=
  match i with
  | .powerOnReset b => Sys2Proof.Machine.execPowerOnReset b s
  | .porstN ns => Sys2Proof.Machine.execPorstN ns s
  | .vauxTrip => Sys2Proof.Machine.execVauxTrip s
  | .vcoreTrip => Sys2Proof.Machine.execVcoreTrip s
  | .vcoreRelease b => Sys2Proof.Machine.execVcoreRelease b s
  | .vioTrip => Sys2Proof.Machine.execVioTrip s
  | .vioRelease => Sys2Proof.Machine.execVioRelease s
  | .vfnPowerUp fd => Sys2Proof.Machine.execVfnPowerUp fd s
  | .vfnPowerLoss fd => Sys2Proof.Machine.execVfnPowerLoss fd s
  | .vfnOutOfRange fd => Sys2Proof.Machine.execVfnOutOfRange fd s
  | .vfnRecovered fd => Sys2Proof.Machine.execVfnRecovered fd s
  | .groundFault fd groups offset => Sys2Proof.Machine.execGroundFault fd groups offset s
  | .dieOverload fd => Sys2Proof.Machine.execDieOverload fd s
  | .partReset m key b => Sys2Proof.Machine.execPartReset m key b s
  | .aonFailure => Sys2Proof.Machine.execAonFailure s
  | .aonRecovery b => Sys2Proof.Machine.execAonRecovery b s
  | .spllFailure ld => Sys2Proof.Machine.execSpllFailure ld s
  | .lpllFailure ld => Sys2Proof.Machine.execLpllFailure ld s
  | .txClockFailure ld => Sys2Proof.Machine.execTxClockFailure ld s
  | .txClockRecovery ld => Sys2Proof.Machine.execTxClockRecovery ld s
  | .hclkStopped fd => Sys2Proof.Machine.execHclkStopped fd s
  | .faonFailure fd => Sys2Proof.Machine.execFaonFailure fd s
  | .tickEdge meas => Sys2Proof.Machine.execTickEdge meas s
  | .tickPinEdge dev meas => Sys2Proof.Machine.execTickPinEdge dev meas s
  | .tickEdgeMade meas => Sys2Proof.Machine.execTickEdgeMade meas s
  | .runStart meas => Sys2Proof.Machine.execRunStart meas s
  | .tnum0Read ld m => Sys2Proof.Machine.execTnum0Read ld m s
  | .laneWake c => Sys2Proof.Machine.execLaneWake c s
  | .inputImageReceived ld fd tick flips complete => Sys2Proof.Machine.execInputImageReceived ld fd tick flips complete s
  | .laneTransaction ld lane x => Sys2Proof.Machine.execLaneTransaction ld lane x s
  | .laneResetDone ld lane cyc => Sys2Proof.Machine.execLaneResetDone ld lane cyc s
  | .pPassEnd ld lane cyc => Sys2Proof.Machine.execPPassEnd ld lane cyc s
  | .qPassEnd ld lane cyc => Sys2Proof.Machine.execQPassEnd ld lane cyc s
  | .commitEnd ld lane e => Sys2Proof.Machine.execCommitEnd ld lane e s
  | .latchPoint => Sys2Proof.Machine.execLatchPoint s
  | .soakTimeout => Sys2Proof.Machine.execSoakTimeout s
  | .pEnableWordsReceived fd ld tick flips crc complete => Sys2Proof.Machine.execPEnableWordsReceived fd ld tick flips crc complete s
  | .applyPoint fd => Sys2Proof.Machine.execApplyPoint fd s
  | .hTickStart fd ld flips complete cycles meas => Sys2Proof.Machine.execHTickStart fd ld flips complete cycles meas s
  | .hTickSelfStart fd cycles meas => Sys2Proof.Machine.execHTickSelfStart fd cycles meas s
  | .hbusSlotSend fd => Sys2Proof.Machine.execHbusSlotSend fd s
  | .hbusSlotReceive fd k cyc x => Sys2Proof.Machine.execHbusSlotReceive fd k cyc x s
  | .htxBuild fd => Sys2Proof.Machine.execHtxBuild fd s
  | .htxRead ld fd => Sys2Proof.Machine.execHtxRead ld fd s
  | .rxhWrite ld fd => Sys2Proof.Machine.execRxhWrite ld fd s
  | .rxsWrite ld fd hmark hmcrc oturn => Sys2Proof.Machine.execRxsWrite ld fd hmark hmcrc oturn s
  | .sieveExchangeStart die => Sys2Proof.Machine.execSieveExchangeStart die s
  | .sieveRecordReceived die src x => Sys2Proof.Machine.execSieveRecordReceived die src x s
  | .sieveCompare die => Sys2Proof.Machine.execSieveCompare die s
  | .sieveFenceMessage die iid => Sys2Proof.Machine.execSieveFenceMessage die iid s
  | .fenceMessage fd iid clear => Sys2Proof.Machine.execFenceMessage fd iid clear s
  | .terminalVoltageChange fd t hSide code time => Sys2Proof.Machine.execTerminalVoltageChange fd t hSide code time s
  | .maskClose fd t hSide => Sys2Proof.Machine.execMaskClose fd t hSide s
  | .testPulseSlotEnd fd slot v => Sys2Proof.Machine.execTestPulseSlotEnd fd slot v s
  | .currentLimitEngage fd t => Sys2Proof.Machine.execCurrentLimitEngage fd t s
  | .shortGndTimeout fd t => Sys2Proof.Machine.execShortGndTimeout fd t s
  | .gdTrip fd t => Sys2Proof.Machine.execGdTrip fd t s
  | .thermalShutdown fd t => Sys2Proof.Machine.execThermalShutdown fd t s
  | .reversedSuppressionEnd fd t => Sys2Proof.Machine.execReversedSuppressionEnd fd t s
  | .openLoadDetect fd t => Sys2Proof.Machine.execOpenLoadDetect fd t s
  | .termFenceClr m fd t => Sys2Proof.Machine.execTermFenceClr m fd t s
  | .timerZero die n => Sys2Proof.Machine.execTimerZero die n s
  | .timerMatch die n => Sys2Proof.Machine.execTimerMatch die n s
  | .timerEnable m die n => Sys2Proof.Machine.execTimerEnable m die n s
  | .timerDisable m die n elapsed => Sys2Proof.Machine.execTimerDisable m die n elapsed s
  | .timerRldnow m die n => Sys2Proof.Machine.execTimerRldnow m die n s
  | .timerCapture die n elapsed rising => Sys2Proof.Machine.execTimerCapture die n elapsed rising s
  | .timerCapRead m die n same => Sys2Proof.Machine.execTimerCapRead m die n same s
  | .tpcodeWrite m fd n val => Sys2Proof.Machine.execTpcodeWrite m fd n val s
  | .functionTimerExpiry hSide iid => Sys2Proof.Machine.execFunctionTimerExpiry hSide iid s
  | .lampProbe hSide iid => Sys2Proof.Machine.execLampProbe hSide iid s
  | .spateRepeat hSide iid => Sys2Proof.Machine.execSpateRepeat hSide iid s
  | .pcsSyncChange ld p sync => Sys2Proof.Machine.execPcsSyncChange ld p sync s
  | .autonegComplete ld p lpabil => Sys2Proof.Machine.execAutonegComplete ld p lpabil s
  | .autonegPartnerFault ld p lpabil => Sys2Proof.Machine.execAutonegPartnerFault ld p lpabil s
  | .verifyComplete ld p => Sys2Proof.Machine.execVerifyComplete ld p s
  | .verifyFailure ld p => Sys2Proof.Machine.execVerifyFailure ld p s
  | .turnEdge e => Sys2Proof.Machine.execTurnEdge e s
  | .beaconReceived ld p b tArr => Sys2Proof.Machine.execBeaconReceived ld p b tArr s
  | .tickLock ld => Sys2Proof.Machine.execTickLock ld s
  | .holdoverTimeout ld => Sys2Proof.Machine.execHoldoverTimeout ld s
  | .headgateTakeover ld => Sys2Proof.Machine.execHeadgateTakeover ld s
  | .listenTimeout e => Sys2Proof.Machine.execListenTimeout e s
  | .joinTimeout ld => Sys2Proof.Machine.execJoinTimeout ld s
  | .furrowFrameSend ld q => Sys2Proof.Machine.execFurrowFrameSend ld q s
  | .furrowFrameReceived ld p f a => Sys2Proof.Machine.execFurrowFrameReceived ld p f a s
  | .furrowWindowEnd ld p => Sys2Proof.Machine.execFurrowWindowEnd ld p s
  | .directionStale ld p => Sys2Proof.Machine.execDirectionStale ld p s
  | .sluiceTruncation ld q => Sys2Proof.Machine.execSluiceTruncation ld q s
  | .spateCutThrough ld p f => Sys2Proof.Machine.execSpateCutThrough ld p f s
  | .spateFrameReceived ld p f => Sys2Proof.Machine.execSpateFrameReceived ld p f s
  | .serviceFrameForward ld p f a => Sys2Proof.Machine.execServiceFrameForward ld p f a s
  | .serviceFrameSend ld q => Sys2Proof.Machine.execServiceFrameSend ld q s
  | .remoteMailboxRequest ld p f a => Sys2Proof.Machine.execRemoteMailboxRequest ld p f a s
  | .bulkTransfer ld p f a => Sys2Proof.Machine.execBulkTransfer ld p f a s
  | .diagnosticsRequest ld p f a => Sys2Proof.Machine.execDiagnosticsRequest ld p f a s
  | .linkDelayRequest ld p f a ts => Sys2Proof.Machine.execLinkDelayRequest ld p f a ts s
  | .linkDelayResponse ld p f a t4 out => Sys2Proof.Machine.execLinkDelayResponse ld p f a t4 out s
  | .linkDelayRequestSend ld q t1 => Sys2Proof.Machine.execLinkDelayRequestSend ld q t1 s
  | .sealSample f0 a an b bn => Sys2Proof.Machine.execSealSample f0 a an b bn s
  | .sealMessage die fromF0 tick flips complete => Sys2Proof.Machine.execSealMessage die fromF0 tick flips complete s
  | .mailboxRing m ld mb => Sys2Proof.Machine.execMailboxRing m ld mb s
  | .mailboxAck m ld mb => Sys2Proof.Machine.execMailboxAck m ld mb s
  | .mailboxComplete ld mb resp => Sys2Proof.Machine.execMailboxComplete ld mb resp s
  | .wardenAnswer ld mb => Sys2Proof.Machine.execWardenAnswer ld mb s
  | .hostWrite addr bytes => Sys2Proof.Machine.execHostWrite addr bytes s
  | .hostRead addr n => Sys2Proof.Machine.execHostRead addr n s
  | .readHstat => Sys2Proof.Machine.execReadHstat s
  | .readId => Sys2Proof.Machine.execReadId s
  | .resetEn => Sys2Proof.Machine.execResetEn s
  | .hostReset => Sys2Proof.Machine.execHostReset s
  | .hostUnknownInstruction code => Sys2Proof.Machine.execHostUnknownInstruction code s
  | .identify ld mb => Sys2Proof.Machine.execIdentify ld mb s
  | .status ld mb => Sys2Proof.Machine.execStatus ld mb s
  | .diagRead ld mb => Sys2Proof.Machine.execDiagRead ld mb s
  | .configBegin ld mb => Sys2Proof.Machine.execConfigBegin ld mb s
  | .configChunk ld mb => Sys2Proof.Machine.execConfigChunk ld mb s
  | .configCommit ld mb => Sys2Proof.Machine.execConfigCommit ld mb s
  | .commissionAck ld mb => Sys2Proof.Machine.execCommissionAck ld mb s
  | .fwStageOpen ld mb => Sys2Proof.Machine.execFwStageOpen ld mb s
  | .fwStageData ld mb => Sys2Proof.Machine.execFwStageData ld mb s
  | .fwStageClose ld mb => Sys2Proof.Machine.execFwStageClose ld mb s
  | .fwActivate ld mb => Sys2Proof.Machine.execFwActivate ld mb s
  | .ringStatus ld mb => Sys2Proof.Machine.execRingStatus ld mb s
  | .countersRead ld mb => Sys2Proof.Machine.execCountersRead ld mb s
  | .regRead ld mb => Sys2Proof.Machine.execRegRead ld mb s
  | .regWrite ld w => Sys2Proof.Machine.execRegWrite ld w s
  | .laneMigrate ld mb => Sys2Proof.Machine.execLaneMigrate ld mb s
  | .cellSwap ld mb => Sys2Proof.Machine.execCellSwap ld mb s
  | .fenceCtlFence ld mb => Sys2Proof.Machine.execFenceCtlFence ld mb s
  | .fenceCtlClear ld mb => Sys2Proof.Machine.execFenceCtlClear ld mb s
  | .bistRun ld mb => Sys2Proof.Machine.execBistRun ld mb s
  | .tillerCtlRead ld mb => Sys2Proof.Machine.execTillerCtlRead ld mb s
  | .tillerCtlSetPace ld mb => Sys2Proof.Machine.execTillerCtlSetPace ld mb s
  | .tillerCtlPause ld mb => Sys2Proof.Machine.execTillerCtlPause ld mb s
  | .tillerCtlResume ld mb => Sys2Proof.Machine.execTillerCtlResume ld mb s
  | .crcJob ld mb => Sys2Proof.Machine.execCrcJob ld mb s
  | .timerCtlAcquire ld mb => Sys2Proof.Machine.execTimerCtlAcquire ld mb s
  | .timerCtlRelease ld mb => Sys2Proof.Machine.execTimerCtlRelease ld mb s
  | .timerCtlSet ld mb => Sys2Proof.Machine.execTimerCtlSet ld mb s
  | .timerCtlRead ld mb => Sys2Proof.Machine.execTimerCtlRead ld mb s
  | .ringSchedule ld mb => Sys2Proof.Machine.execRingSchedule ld mb s
  | .otpProgram ld mb => Sys2Proof.Machine.execOtpProgram ld mb s
  | .otpReburn ld mb => Sys2Proof.Machine.execOtpReburn ld mb s
  | .lcAdvance ld mb => Sys2Proof.Machine.execLcAdvance ld mb s
  | .hoRestart ld mb => Sys2Proof.Machine.execHoRestart ld mb s
  | .hoDone ld mb => Sys2Proof.Machine.execHoDone ld mb s
  | .freqFence m ld kind idx => Sys2Proof.Machine.execFreqFence m ld kind idx s
  | .freqClear m ld kind idx => Sys2Proof.Machine.execFreqClear m ld kind idx s
  | .ffreqFence m fd kind idx => Sys2Proof.Machine.execFfreqFence m fd kind idx s
  | .ffreqClear m fd kind idx => Sys2Proof.Machine.execFfreqClear m fd kind idx s
  | .fieldDieReset m fd => Sys2Proof.Machine.execFieldDieReset m fd s
  | .leaseClaim m ld n => Sys2Proof.Machine.execLeaseClaim m ld n s
  | .leaseRelease m ld n => Sys2Proof.Machine.execLeaseRelease m ld n s
  | .watchdogKick m ld => Sys2Proof.Machine.execWatchdogKick m ld s
  | .watchdogExpiry ld => Sys2Proof.Machine.execWatchdogExpiry ld s
  | .supervisorRestartDone ld => Sys2Proof.Machine.execSupervisorRestartDone ld s
  | .logicDieLost ld => Sys2Proof.Machine.execLogicDieLost ld s
  | .scratchpadAccess ld c => Sys2Proof.Machine.execScratchpadAccess ld c s
  | .eccWriteback ld off => Sys2Proof.Machine.execEccWriteback ld off s
  | .softRepair ld off => Sys2Proof.Machine.execSoftRepair ld off s
  | .segmentPowerOff m ld seg => Sys2Proof.Machine.execSegmentPowerOff m ld seg s
  | .segmentPowerOn m ld seg => Sys2Proof.Machine.execSegmentPowerOn m ld seg s
  | .segmentClearDone ld seg => Sys2Proof.Machine.execSegmentClearDone ld seg s
  | .tillerAttemptStart ld => Sys2Proof.Machine.execTillerAttemptStart ld s
  | .tillerAttemptDone ld bad => Sys2Proof.Machine.execTillerAttemptDone ld bad s
  | .crcDin m ld n data be => Sys2Proof.Machine.execCrcDin m ld n data be s
  | .crcLoad m ld n => Sys2Proof.Machine.execCrcLoad m ld n s
  | .crcValWrite m ld n val => Sys2Proof.Machine.execCrcValWrite m ld n val s
  | .scanGo m ld n cont => Sys2Proof.Machine.execScanGo m ld n cont s
  | .scanStop m ld n words => Sys2Proof.Machine.execScanStop m ld n words s
  | .scanDone ld n => Sys2Proof.Machine.execScanDone ld n s
  | .lbistGo m ld e => Sys2Proof.Machine.execLbistGo m ld e s
  | .lbistIsolationTimeout ld e => Sys2Proof.Machine.execLbistIsolationTimeout ld e s
  | .lbistAbort m ld e => Sys2Proof.Machine.execLbistAbort m ld e s
  | .lbistPatternsDone ld e misr => Sys2Proof.Machine.execLbistPatternsDone ld e misr s
  | .lbistReinitDone ld e => Sys2Proof.Machine.execLbistReinitDone ld e s
  | .orderlyShutdown m => Sys2Proof.Machine.execOrderlyShutdown m s
  | .shutdownDone fails => Sys2Proof.Machine.execShutdownDone fails s
  | .fbistDone fd token misr => Sys2Proof.Machine.execFbistDone fd token misr s
  | .tapBypass code => Sys2Proof.Machine.execTapBypass code s
  | .tapIdcode => Sys2Proof.Machine.execTapIdcode s
  | .tapSamplePreload => Sys2Proof.Machine.execTapSamplePreload s
  | .tapExtest => Sys2Proof.Machine.execTapExtest s
  | .tapDbgacc => Sys2Proof.Machine.execTapDbgacc s
  | .tapScanen => Sys2Proof.Machine.execTapScanen s
  | .tapExit b => Sys2Proof.Machine.execTapExit b s
  | .trstN => Sys2Proof.Machine.execTrstN s
  | .debugHaltLane ld lane => Sys2Proof.Machine.execDebugHaltLane ld lane s
  | .debugHaltSupervisor ld => Sys2Proof.Machine.execDebugHaltSupervisor ld s
  | .debugResume ld core => Sys2Proof.Machine.execDebugResume ld core s
  | .vaultStart m => Sys2Proof.Machine.execVaultStart m s
  | .vaultDin m data be => Sys2Proof.Machine.execVaultDin m data be s
  | .vaultGo m => Sys2Proof.Machine.execVaultGo m s
  | .vaultMacDone => Sys2Proof.Machine.execVaultMacDone s
  | .ocmdRead m ld => Sys2Proof.Machine.execOcmdRead m ld s
  | .ocmdProg m ld => Sys2Proof.Machine.execOcmdProg m ld s
  | .ocmdReburn m ld => Sys2Proof.Machine.execOcmdReburn m ld s
  | .otpOperationDone w => Sys2Proof.Machine.execOtpOperationDone w s
  | .otpTokenGain => Sys2Proof.Machine.execOtpTokenGain s
  | .olockset m ld set => Sys2Proof.Machine.execOlockset m ld set s
  | .registerWrite m addr w same => Sys2Proof.Machine.execRegisterWrite m addr w same s
  | .porstNRelease b => Sys2Proof.Machine.execPorstNRelease b s
  | .sgmiiLinkStatusChange ld p word => Sys2Proof.Machine.execSgmiiLinkStatusChange ld p word s
  | .currentLimitRelease fd t => Sys2Proof.Machine.execCurrentLimitRelease fd t s
  | .gdtripThresholdCrossing fd t above => Sys2Proof.Machine.execGdtripThresholdCrossing fd t above s

end Sys2Proof.Machine
end

