-- ==== Sys2Proof/Safety.lean ====
section
/-!
DEFINITION. What the claims call safe: the memories keep their canonical form, an OTP word is never taken back, and the
fence log of a die keeps to its length.
-/

namespace Sys2Proof.Machine

/-- The byte memories, the error classes and the OTP words are in canonical form: addresses strictly rising, no entry equal
to what an unlisted address reads as. -/
def State.memWf (s : State) : Prop :=
  Store.wf (fun _ => (0 : Byte)) s.mem = true ∧ Store.wf (fun _ => (0xFF : Byte)) s.flash = true ∧
    Store.wf (fun _ => WordClass.good) s.ecc = true ∧ Store.wf (fun _ => OtpWord.blank) s.otp = true

/-- An OTP word has 72 bits at each margin, and one that is not programmed is blank (R429). -/
def State.otpFits (s : State) : Prop :=
  ∀ w, (s.otpWord w).low < 2 ^ 72 ∧ (s.otpWord w).norm < 2 ^ 72 ∧ (s.otpWord w).high < 2 ^ 72 ∧
    ((s.otpWord w).prog = false → s.otpWord w = OtpWord.blank)

/-- The fence log of a die holds at most its 64 newest entries (R350). -/
def State.logBounded (s : State) : Prop := ∀ die, (Store.get (fun _ => ([] : List LogEntry)) s.flog die).length ≤ 64

/-- What every step keeps. -/
structure State.Inv (s : State) : Prop where
  mem : s.memWf
  otp : s.otpFits
  log : s.logBounded

/-- Programming only sets bits (R430): a word programmed in `s` is programmed in `t`, and a bit that reads 1 at some margin in `s`
still reads 1 there in `t`. -/
def OtpGrows (s t : State) : Prop :=
  ∀ w, ((s.otpWord w).prog = true → (t.otpWord w).prog = true) ∧
    (s.otpWord w).low &&& (t.otpWord w).low = (s.otpWord w).low ∧
    (s.otpWord w).norm &&& (t.otpWord w).norm = (s.otpWord w).norm ∧
    (s.otpWord w).high &&& (t.otpWord w).high = (s.otpWord w).high

/-- The state with other register fields. -/
def State.withRegs (s : State) (r : Store Nat) : State := { s with regs := r }

/-- `t` is `s` but for the register fields listed as (field, die, copy): everything else of the state, every byte of memory and
every other field of every register is as before. -/
def OnlyFields (s t : State) (l : List (Fld × Nat × Nat)) : Prop :=
  t = s.withRegs t.regs ∧
    ∀ (G : Fld) (d i : Nat), (∀ x ∈ l, G.key d i ≠ x.1.key x.2.1 x.2.2) → t.get G d i = s.get G d i

/-- A register write of `m` that the bus carries (R19), that `m` is admitted to make (R489), and that names values the register
takes (R9). -/
def WriteAdmitted (s : State) (m : Master) (r : Reg) (die idx : Nat) (may ok : Bool) : Prop :=
  s.portHeld m = false ∧ s.route m (regAddr r die idx) = 0 ∧ may = true ∧ ok = true

/-- A write of the serving supervisor of die `sv` to a unit that the bus carries (R19), and that the command may make: of a register of
a logic die by its own supervisor, unless the command is one that names the other die (`other`; R289, R490). -/
def State.SvMayWrite (s : State) (sv : Nat) (r : Reg) (die idx : Nat) (other : Bool) : Prop :=
  s.route (Master.sv sv) (regAddr r die idx) = 0 ∧ (die < 2 → die = sv ∨ other = true)

/-- The state in which a request's own command acts: that of the request, with the counter of a signed one advanced (R288). -/
def State.accepted (s : State) (ld mb : Nat) : State :=
  match opRow (s.req ld mb).op with
  | some r => (s.authorise mb (s.req ld mb) r).1
  | none => s

/-- Whether the request in a mailbox passes checks 1 to 8 of R279 and the state columns of R296, so that the command `op` itself
is executed: a supervisor can serve it now, its form and SEQ are right, its XB names its kind, the mailbox admits it, its
signature (if any) verifies with a fresh counter, and the state serves it. -/
structure State.Serves (s : State) (ld mb op : Nat) : Prop where
  present : s.hasLd ld = true
  box : mb < 8
  ready : s.serverReady ld mb = true
  op_ : (s.req ld mb).op = op
  form : (s.req ld mb).formStatus = 0
  new_ : s.seqCase ld mb (s.req ld mb).seq = .new
  row : ∃ r, opRow op = some r ∧ s.mbAdmits mb op r = true ∧ (s.authorise mb (s.req ld mb) r).2 = 0 ∧
    (s.accepted ld mb).columnStatus op r (s.serverDie ld mb) = 0
  xb : (fieldAt (s.req ld mb).bytes 7 1).testBit 0 = isExpert op

/-- The state after an answer of `status` with a payload, by a command that left the state `t`: the response stands in the
buffer of the mailbox, and the mailbox is DONE (R275, R277). -/
def State.answered (s t : State) (ld mb status : Nat) (payload : List Byte) : State :=
  t.reply ld mb (s.req ld mb) status payload

end Sys2Proof.Machine
end

