-- ==== Sys2Proof/Certificates/Slice0/Obligations.lean ====
section
/-! DEFINITION. The statements for the provers. -/

section

open Sys2Proof Sys2Proof.Machine

/-- A step takes the command at the front of the queue and runs it on the state with the rest of the queue; an empty queue idles (DESIGN CHOICE, log entry 9). -/
def Obligations.StepRunsTheFrontCommand : Prop :=
  (∀ (c : Instr) (rest : List Instr) (s : State), step { s with pending := c :: rest } = exec c { s with pending := rest }) ∧
  (∀ s : State, s.pending = [] → step s = .next s)

/-- The invariant holds right after reset (R350, R429; the empty memories are log entries 5 and 6). -/
def Obligations.ResetMeetsTheInvariant : Prop :=
  State.reset.Inv

/-- Every step keeps the invariant (R350, R429). -/
def Obligations.StepKeepsTheInvariant : Prop :=
  ∀ s t : State, s.Inv → step s = .next t → t.Inv

/-- Programming only sets bits: no step takes an OTP word back (R430). -/
def Obligations.NoStepTakesBackAnOtpWord : Prop :=
  ∀ s t : State, step s = .next t → OtpGrows s t

/-- Every command completes, and changes neither the queue behind it nor which part this is (R4, R483, R484; log entry 11). -/
def Obligations.EveryCommandCompletesAndLeavesTheQueueAndThePart : Prop :=
  ∀ (c : Instr) (s : State), ∃ t, exec c s = .next t ∧
    t.pending = s.pending ∧ t.variant = s.variant ∧ t.rev = s.rev ∧ s.freeCtr ≤ t.freeCtr

/-- Only the commands named may change a byte of scratchpad, lane memory or mailbox buffers (01, 06, 12, 16, 18, 19). -/
def Obligations.OnlyTheseCommandsTouchMemory : Prop :=
  ∀ (c : Instr) (s t : State),
    (match c with
      | .powerOnReset _ => False
      | .porstN _ => False
      | .vcoreRelease _ => False
      | .partReset _ _ _ => False
      | .aonRecovery _ => False
      | .spllFailure _ => False
      | .lpllFailure _ => False
      | .laneTransaction _ _ _ => False
      | .qPassEnd _ _ _ => False
      | .commitEnd _ _ _ => False
      | .latchPoint => False
      | .serviceFrameForward _ _ _ _ => False
      | .remoteMailboxRequest _ _ _ _ => False
      | .bulkTransfer _ _ _ _ => False
      | .diagnosticsRequest _ _ _ _ => False
      | .mailboxComplete _ _ _ => False
      | .wardenAnswer _ _ => False
      | .hostWrite _ _ => False
      | .identify _ _ => False
      | .status _ _ => False
      | .diagRead _ _ => False
      | .configBegin _ _ => False
      | .configChunk _ _ => False
      | .configCommit _ _ => False
      | .commissionAck _ _ => False
      | .fwStageOpen _ _ => False
      | .fwStageData _ _ => False
      | .fwStageClose _ _ => False
      | .fwActivate _ _ => False
      | .ringStatus _ _ => False
      | .countersRead _ _ => False
      | .regRead _ _ => False
      | .regWrite _ _ => False
      | .laneMigrate _ _ => False
      | .cellSwap _ _ => False
      | .fenceCtlFence _ _ => False
      | .fenceCtlClear _ _ => False
      | .bistRun _ _ => False
      | .tillerCtlRead _ _ => False
      | .tillerCtlSetPace _ _ => False
      | .tillerCtlPause _ _ => False
      | .tillerCtlResume _ _ => False
      | .crcJob _ _ => False
      | .timerCtlAcquire _ _ => False
      | .timerCtlRelease _ _ => False
      | .timerCtlSet _ _ => False
      | .timerCtlRead _ _ => False
      | .ringSchedule _ _ => False
      | .otpProgram _ _ => False
      | .otpReburn _ _ => False
      | .lcAdvance _ _ => False
      | .hoRestart _ _ => False
      | .hoDone _ _ => False
      | .freqFence _ _ _ _ => False
      | .logicDieLost _ => False
      | .scratchpadAccess _ _ => False
      | .softRepair _ _ => False
      | .segmentClearDone _ _ => False
      | .lbistPatternsDone _ _ _ => False
      | .lbistReinitDone _ _ => False
      | .shutdownDone _ => False
      | .tapScanen => False
      | .tapExit _ => False
      | .debugHaltLane _ _ => False
      | .registerWrite _ _ _ _ => False
      | .porstNRelease _ => False
      | _ => True) →
    exec c s = .next t → t.mem = s.mem

/-- Only commands that a supervisor serves may change a byte of flash (12, 14, 18, 19). -/
def Obligations.OnlySupervisorCommandsTouchFlash : Prop :=
  ∀ (c : Instr) (s t : State),
    (match c with
      | .identify _ _ => False
      | .status _ _ => False
      | .diagRead _ _ => False
      | .configBegin _ _ => False
      | .configChunk _ _ => False
      | .configCommit _ _ => False
      | .commissionAck _ _ => False
      | .fwStageOpen _ _ => False
      | .fwStageData _ _ => False
      | .fwStageClose _ _ => False
      | .fwActivate _ _ => False
      | .ringStatus _ _ => False
      | .countersRead _ _ => False
      | .regRead _ _ => False
      | .regWrite _ _ => False
      | .laneMigrate _ _ => False
      | .cellSwap _ _ => False
      | .fenceCtlFence _ _ => False
      | .fenceCtlClear _ _ => False
      | .bistRun _ _ => False
      | .tillerCtlRead _ _ => False
      | .tillerCtlSetPace _ _ => False
      | .tillerCtlPause _ _ => False
      | .tillerCtlResume _ _ => False
      | .crcJob _ _ => False
      | .timerCtlAcquire _ _ => False
      | .timerCtlRelease _ _ => False
      | .timerCtlSet _ _ => False
      | .timerCtlRead _ _ => False
      | .ringSchedule _ _ => False
      | .otpProgram _ _ => False
      | .otpReburn _ _ => False
      | .lcAdvance _ _ => False
      | .hoRestart _ _ => False
      | .hoDone _ _ => False
      | _ => True) →
    exec c s = .next t → t.flash = s.flash

/-- Only a programming operation, LC_ADVANCE or a reset that cuts an operation short may change an OTP word (13, 19, 20). -/
def Obligations.OnlyTheseCommandsTouchOtp : Prop :=
  ∀ (c : Instr) (s t : State),
    (match c with
      | .powerOnReset _ => False
      | .porstN _ => False
      | .vcoreRelease _ => False
      | .partReset _ _ _ => False
      | .aonRecovery _ => False
      | .otpProgram _ _ => False
      | .otpReburn _ _ => False
      | .lcAdvance _ _ => False
      | .tapExit _ => False
      | .otpOperationDone _ => False
      | _ => True) →
    exec c s = .next t → t.otp = s.otp

/-- The tick number moves only at a tick edge, at the start of Run, with the turn it follows, or in a reset (08, 10, 20). -/
def Obligations.OnlyTheseCommandsMoveTheTick : Prop :=
  ∀ (c : Instr) (s t : State),
    (match c with
      | .powerOnReset _ => False
      | .porstN _ => False
      | .vcoreRelease _ => False
      | .partReset _ _ _ => False
      | .aonRecovery _ => False
      | .tickEdge _ => False
      | .tickPinEdge _ _ => False
      | .tickEdgeMade _ => False
      | .runStart _ => False
      | .turnEdge _ => False
      | .beaconReceived _ _ _ _ => False
      | .headgateTakeover _ => False
      | .listenTimeout _ => False
      | .linkDelayResponse _ _ _ _ _ _ => False
      | .tapExit _ => False
      | _ => True) →
    exec c s = .next t → t.tick = s.tick

/-- The running image changes only at a tick edge, by CONFIG_COMMIT or COMMISSION_ACK, or in a boot (08, 13, 14, 15, 20). -/
def Obligations.OnlyTheseCommandsChangeTheImage : Prop :=
  ∀ (c : Instr) (s t : State),
    (match c with
      | .powerOnReset _ => False
      | .porstN _ => False
      | .vcoreRelease _ => False
      | .partReset _ _ _ => False
      | .aonRecovery _ => False
      | .tickEdge _ => False
      | .tickPinEdge _ _ => False
      | .tickEdgeMade _ => False
      | .runStart _ => False
      | .configCommit _ _ => False
      | .commissionAck _ _ => False
      | .tapExit _ => False
      | .porstNRelease _ => False
      | _ => True) →
    exec c s = .next t → t.image = s.image

/-- Every reset source resets the part with its cause and starts its boot, and every trip of a supply or of AON holds it (20). -/
def Obligations.ResetSourcesResetThePart : Prop :=
  ∀ (s : State) (b : BootIn) (ns : Nat) (m : Master) (ld : Nat),
    let fresh := fun (r : State) (n : Nat) => r.get F.CLKPWR_RSTCAUSE_CAUSE 0 0 = n ∧ r.get F.CLKPWR_RSTCAUSE_COLD 0 0 = (decide (n = 1)).toNat ∧
      r.tick = 0 ∧ r.fences = [] ∧ r.jobs = [] ∧ r.image = RunImage.zero ∧ r.mem = [] ∧ r.ecc = [] ∧ r.rings = [] ∧ r.lanes = [] ∧
      r.flash = s.flash ∧ r.pending = s.pending
    (∃ r : State, exec (.powerOnReset b) s = .next (r.boot b) ∧ fresh r 1) ∧
    (s.part.porst = false → ns < 100 → exec (.porstN ns) s = .next s) ∧
    (s.part.porst = false → s.part.vaux = false → 1000 ≤ ns → ∃ r : State, exec (.porstN ns) s = .next r.hold ∧ fresh r 2 ∧ r.part.porst = true) ∧
    (s.part.porst = false → s.part.vaux = false → 100 ≤ ns → ns < 1000 →
      exec (.porstN ns) s = .next (if s.choice then s.spend.porstLow else s.spend)) ∧
    (s.part.porst = true → exec (.porstNRelease b) s = .next (State.boot { s with part := { s.part with porst := false } } b)) ∧
    (s.part.vcore = true → s.part.porst = false → s.part.vaux = false → s.part.aon = false → s.part.phase ≠ .boot →
      ∃ r : State, exec (.vcoreRelease b) s = .next (r.boot b) ∧ fresh r 3 ∧ r.part.vcore = false) ∧
    (s.part.rstDue = false → WriteAdmitted s m .CLKPWR_RSTCTL 0 0 (m.isSvOf 0) true →
      ∃ r : State, exec (.partReset m 0xA5C3 b) s = .next ((r.boot b).respond false) ∧ fresh r 4) ∧
    (s.part.tapSafe = true → ∃ r : State, exec (.tapExit b) s = .next (r.boot b) ∧ fresh r 5 ∧ r.part.tapSafe = false) ∧
    (s.part.aon = true → s.part.porst = false → s.part.vaux = false →
      ∃ r : State, exec (.aonRecovery b) s = .next (r.boot b) ∧ fresh r 6 ∧ r.part.aon = false) ∧
    (s.part.vaux = false → exec .vauxTrip s = .next (State.hold { s with part := { s.part with vaux := true } })) ∧
    (s.part.aon = false → exec .aonFailure s = .next (State.hold { s with part := { s.part with aon := true } })) ∧
    (s.part.vcore = false → s.part.phase ≠ .boot → ∃ u : State, exec .vcoreTrip s = .next u.hold ∧ u.part = { s.part with vcore := true } ∧
      ∀ d, s.hasLd d = true → u.get F.CLKPWR_PWRSTAT_VCOREOK d 0 = 0) ∧
    (s.hasLd ld = true → ∃ u : State, exec (.spllFailure ld) s = .next ((u.cutBist ld 8 3).loseLogicDie ld) ∧
      u.get F.CLKPWR_CLKSTAT_SPLLLK ld 0 = 0 ∧ OnlyFields { s with part := u.part } u [(F.CLKPWR_CLKSTAT_SPLLLK, ld, 0)])

/-- VIO trips, clock faults, die overload and one open ground group show in their flags and change nothing else (02, 20). -/
def Obligations.SupplyAndClockFlagsShow : Prop :=
  ∀ (s : State) (ld fd : Nat),
    (s.part.vio = false → ∃ t, exec .vioTrip s = .next t ∧ t = State.withRegs { s with part := { s.part with vio := true } } t.regs ∧
      ∀ d, s.hasLd d = true → t.get F.CLKPWR_PWRSTAT_VIOOK d 0 = 0 ∧
        t.get F.CLKPWR_PWRSTAT_VIOBO d 0 = min (s.get F.CLKPWR_PWRSTAT_VIOBO d 0 + 1) (2 ^ F.CLKPWR_PWRSTAT_VIOBO.w - 1)) ∧
    (s.part.vio = true → ∃ t, exec .vioRelease s = .next t ∧ t = State.withRegs { s with part := { s.part with vio := false } } t.regs ∧
      ∀ d, s.hasLd d = true → t.get F.CLKPWR_PWRSTAT_VIOOK d 0 = 1) ∧
    (s.hasLd ld = true → s.txGood ld = true → ∃ t, exec (.txClockFailure ld) s = .next t ∧ t.txGood ld = false ∧
      t.get F.CLKPWR_CLKMON_TXFAIL ld 0 = 1 ∧
      (s.get F.LBIST_STAT_STATE ld 9 ≠ 1 → s.get F.LBIST_STAT_STATE ld 9 ≠ 2 →
        OnlyFields { s with part := t.part } t [(F.CLKPWR_CLKMON_TXFAIL, ld, 0)]) ∧
      (s.get F.LBIST_STAT_STATE ld 9 = 1 ∨ s.get F.LBIST_STAT_STATE ld 9 = 2 → t.get F.LBIST_STAT_STATE ld 9 = 3 ∧
        t.get F.LBIST_STAT_RESULT ld 9 = 3 ∧ t.get F.LBIST_STAT_ACAUSE ld 9 = 3)) ∧
    (s.hasLd ld = true → s.txGood ld = false → ∃ t, exec (.txClockRecovery ld) s = .next t ∧ t.txGood ld = true ∧
      t = { s with part := t.part }) ∧
    (s.hasLd ld = true → s.flag F.CLKPWR_CLKSTAT_LPLLON ld 0 = true → ∃ t, exec (.lpllFailure ld) s = .next t ∧
      t.get F.CLKPWR_CLKMON_LPLLFAIL ld 0 = 1 ∧ t.get F.CLKPWR_CLKSTAT_LPLLLK ld 0 = 0 ∧
      (∀ l < 8, s.fenced U.lane ld l = false → (t.lane ld l).ph = .done ∨ (t.lane ld l).ph = .asleep) ∧
      t.fences = s.fences ∧ t.flash = s.flash ∧ t.otp = s.otp ∧ t.tick = s.tick ∧ t.image = s.image) ∧
    (s.hasFd fd = true → (s.field fd).power = true → ∃ t, exec (.dieOverload fd) s = .next t ∧
      t.get F.FSYS_FPWR_DIE_OVERLOAD (fdie fd) 0 = 1 ∧ OnlyFields s t [(F.FSYS_FPWR_DIE_OVERLOAD, fdie fd, 0)]) ∧
    (s.hasFd fd = true → (s.field fd).power = true → ∃ t, exec (.groundFault fd 1 false) s = .next t ∧
      t.get F.FSYS_FPWR_GF_PARTIAL (fdie fd) 0 = 1 ∧ OnlyFields s t [(F.FSYS_FPWR_GF_PARTIAL, fdie fd, 0)])

/-- A field die rises, falls, leaves and regains its supply range, and its reset runs FBIST (02, 15, 18, 20). -/
def Obligations.FieldSupplyRowsSetTheDie : Prop :=
  ∀ (s : State) (m : Master) (fd : Nat), s.hasFd fd = true →
    let keeps := fun t : State => t.mem = s.mem ∧ t.flash = s.flash ∧ t.otp = s.otp ∧ t.tick = s.tick ∧ t.image = s.image
    let ok := fun t : State => t.fieldValue F.FSYS_FPWR_VFOK (fdie fd) 0
    ((s.field fd).power = false → ∃ t, exec (.vfnPowerUp fd) s = .next t ∧ (t.field fd).power = true ∧
      (t.field fd).vfSafe = true ∧ (s.fenced U.field (fdie fd) 0 = false →
        (t.field fd).fbist = !s.flag F.FBIST_FBREC_VALID (fdie fd) 0 ∧ (t.field fd).loadPending = s.flag F.FBIST_FBREC_VALID (fdie fd) 0) ∧
      ok t = 0 ∧ keeps t) ∧
    ((s.field fd).power = true → ∃ t, exec (.vfnPowerLoss fd) s = .next t ∧ (t.field fd).power = false ∧
      t.get F.FBIST_FBREC_VALID (fdie fd) 0 = 0 ∧ ok t = 0 ∧ keeps t) ∧
    ((s.field fd).power = true → (s.field fd).vfSafe = false → ∃ t, exec (.vfnOutOfRange fd) s = .next t ∧
      (t.field fd).vfSafe = true ∧ t.get F.FSYS_FPWR_VFTRIP (fdie fd) 0 = 1 ∧ ok t = 0 ∧
      (∀ k < 64, t.get F.TERM_HSTAT_PENA (fdie fd) k = 0 ∧ t.get F.TERM_HSTAT_HENA (fdie fd) k = 0) ∧
      t = State.withRegs { s with fields := t.fields, terms := t.terms } t.regs) ∧
    ((s.field fd).power = true → (s.field fd).vfSafe = true → ∃ t, exec (.vfnRecovered fd) s = .next t ∧
      (t.field fd).vfSafe = false ∧ (s.fenced U.field (fdie fd) 0 = false → ok t = 1) ∧
      t = { s with fields := t.fields, terms := t.terms, pIn := t.pIn }) ∧
    (WriteAdmitted s m .FSYS_FRST (fdie fd) 0 m.isSv true →
      (s.fenced U.field (fdie fd) 0 || (s.field fd).vfSafe) = true → ∃ t, exec (.fieldDieReset m fd) s = .next t ∧
      (t.field fd).fbist = true ∧ t.get F.FBIST_FBREC_VALID (fdie fd) 0 = s.get F.FBIST_FBREC_VALID (fdie fd) 0 ∧ keeps t) ∧
    (WriteAdmitted s m .FSYS_FRST (fdie fd) 0 m.isSv true →
      (s.fenced U.field (fdie fd) 0 || (s.field fd).vfSafe) = false → exec (.fieldDieReset m fd) s = .next (s.respond false))

/-- HCLK stopped, FAON failure, two open grounds or a ground offset fence the field die: terminals off, instances stopped (02, 07, 15, 20). -/
def Obligations.AFaultOfAFieldDieFencesIt : Prop :=
  ∀ (s : State) (fd : Nat) (c : Instr) (reason : Nat), s.hasFd fd = true → (s.field fd).power = true →
    s.fenced U.field (fdie fd) 0 = false →
    ((c = .hclkStopped fd ∨ c = .faonFailure fd) ∧ reason = 0x21 ∨
      (∃ n, n ≤ 4 ∧ (c = .groundFault fd n true ∨ 2 ≤ n ∧ c = .groundFault fd n false)) ∧ reason = 0x23) →
    ∃ t, exec c s = .next t ∧ t.fenced U.field (fdie fd) 0 = true ∧ (t.fence U.field (fdie fd) 0).reason = reason ∧
      (∀ k < 64, t.get F.TERM_HSTAT_PENA (fdie fd) k = 0 ∧ t.get F.TERM_HSTAT_HENA (fdie fd) k = 0) ∧
      (∀ r ∈ s.image.img.insts, r.fdie = fd → t.instFencedH r.iid = true) ∧
      (c = .hclkStopped fd → t.get F.FSYS_FPWR_HCLKSTOP (fdie fd) 0 = 1) ∧
      (c = .faonFailure fd → t.get F.FSYS_FPWR_FAONFAIL (fdie fd) 0 = 1) ∧
      t.mem = s.mem ∧ t.flash = s.flash ∧ t.otp = s.otp ∧ t.tick = s.tick ∧ t.rings = s.rings ∧ t.image = s.image

/-- Every tick edge gives the tick its number, whichever source makes it; RUN_START starts the count (08, 20). -/
def Obligations.TickEdgesNumberTheTicks : Prop :=
  ∀ (s : State) (meas : List Meas) (dev : Int),
    let next := fun t : State => t.tick = (if s.get F.TICK_TSTAT_SRCNOW 0 0 = 0 ∧ s.ringOn 0 = true ∧ s.tick ≠ (s.ring 0).turn
      then (s.ring 0).turn else (s.tick + 1) % 2 ^ 48)
    let rest := fun t : State => (∀ ld, s.hasLd ld = true → t.get F.CLKPWR_CLKSTAT_LPLLON ld 0 = 1 ∧
      t.get F.CLKPWR_CLKSTAT_LPLLLK ld 0 = 1) ∧ t.mem = s.mem ∧ t.flash = s.flash ∧ t.otp = s.otp
    (s.inRun = true → s.get F.TICK_TSTAT_SRCNOW 0 0 ≠ 2 → ∃ t, exec (.tickEdge meas) s = .next t ∧ next t ∧ rest t) ∧
    (s.inRun = true → s.get F.TICK_TSTAT_SRCNOW 0 0 = 2 → dev.natAbs * 100 ≤ s.nper →
      ∃ t, exec (.tickPinEdge dev meas) s = .next t ∧ next t ∧ rest t) ∧
    (s.nper < dev.natAbs * 100 → exec (.tickPinEdge dev meas) s = .next s) ∧
    (s.inRun = true → s.get F.TICK_TSTAT_SRCNOW 0 0 = 2 → ∃ t, exec (.tickEdgeMade meas) s = .next t ∧
      t.tick = (s.tick + 1) % 2 ^ 48 ∧ rest t) ∧
    (s.mayRun = true → ∃ t, exec (.runStart meas) s = .next t ∧
      t.tick = (if s.get F.TICK_TCFG_SRC 0 0 = 0 then (s.ring 0).turn else 0) ∧ rest t)

/-- A lane wakes, runs its passes and commits by the phases of a tick (06, 08). -/
def Obligations.LanePassesAnswer : Prop :=
  ∀ (s : State) (ld l cyc : Nat) (same : List (Nat × Nat)) (x : LaneTxn) (w : Transit), s.hasLd ld = true → l < 8 →
    let entry := { entryOf false ld l x with data := if x.type = 2 then (s.lane ld l).seg else (entryOf false ld l x).data }
    (s.inRun = true → s.fenced U.logic ld 0 = false → exec (.laneWake ⟨ld, w⟩) s = .next (s.laneWake ld w)) ∧
    (∀ clk : Bool, let t := s.wakeLane clk ld l
      (clk = true → s.mayWake ld l = true → (t.lane ld l).ph = .pPass ∧ (t.lane ld l).seg = 0 ∧ (t.lane ld l).trace = [] ∧
        (t.lane ld l).lfsr = lfsrStep (s.lane ld l).lfsr ∧ t.get F.LANE_LSTAT_PHASE ld l = 1) ∧
      (s.fenced U.lane ld l = false → (clk && s.mayWake ld l) = false → (t.lane ld l).ph = .asleep ∧ t.get F.LANE_LSTAT_PHASE ld l = 0) ∧
      (s.fenced U.lane ld l = true → t = s)) ∧
    (s.inPhase ld l .pPass = true → (x.type = 1 ∨ x.type = 2) → x.be < 16 → (s.lane ld l).trace.length < 4096 →
      s.txnRefused ld l x = false → halfBad false ld l x = false → ∃ t, exec (.laneTransaction ld l x) s = .next t ∧
      (t.lane ld l).trace = (s.lane ld l).trace ++ [{ entry with par := entry.parity }] ∧
      (t.lane ld l).ph = .pPass ∧ t = { s with lanes := t.lanes, mem := t.mem } ∧
      t.mem = (if x.type = 1 ∧ (windowOff ld l x.addr).isSome then (s.writeEnabled (x.addr - x.addr % 4) x.data x.be).mem else s.mem)) ∧
    (s.inPhase ld l .pPass = true → x.type = 0 → x.be < 16 → (s.lane ld l).trace.length < 4096 →
      (windowOff ld l x.addr).isSome = true → s.txnRefused ld l x = false → halfBad false ld l x = false → ∃ t, exec (.laneTransaction ld l x) s = .next t ∧
      (t.lane ld l).trace = (s.lane ld l).trace ++ [{ entry with par := entry.parity }] ∧
      t.results = [leNat (s.bytes (x.addr - x.addr % 4) 4)] ∧ t = { s with lanes := t.lanes, results := t.results }) ∧
    (s.inPhase ld l .pPass = true → ((s.lane ld l).trace.getLast?.map TraceEntry.type) = some 2 →
      ∃ t, exec (.pPassEnd ld l cyc) s = .next t ∧ (t.lane ld l).ph = .qPass ∧ (t.lane ld l).qIdx = 0 ∧
      (t.lane ld l).trace = (s.lane ld l).trace ∧ t = State.withRegs { s with lanes := t.lanes } t.regs) ∧
    (s.inPhase ld l .qPass = true → (s.lane ld l).trace.length ≤ (s.lane ld l).qIdx → ∃ t, exec (.qPassEnd ld l cyc) s = .next t ∧
      (t.lane ld l).ph = (if 10 * (s.lane ld l).trace.countP TraceEntry.staged + 1800 ≤ s.budget ld l - cyc then .commit else .asleep) ∧
      (t.lane ld l).trace = (if 10 * (s.lane ld l).trace.countP TraceEntry.staged + 1800 ≤ s.budget ld l - cyc
        then (s.lane ld l).trace else []) ∧ t = State.withRegs { s with lanes := t.lanes } t.regs) ∧
    (s.inPhase ld l .commit = true → ∃ t, exec (.commitEnd ld l ⟨cyc, same⟩) s = .next t ∧ (t.lane ld l).trace = [] ∧
      ((t.lane ld l).ph = .done ∧ t.get F.LANE_LSTAT_TICKLO ld l = s.tick % 2 ^ F.LANE_LSTAT_TICKLO.w ∨ (t.lane ld l).ph = .pPass)) ∧
    (s.inPhase ld l .reset = true → ∃ t, exec (.laneResetDone ld l cyc) s = .next t ∧
      (t.lane ld l).ph = (if s.flag F.LANE_LMINFO_RETRY ld l then .pPass else .asleep) ∧
      OnlyFields { s with lanes := t.lanes } t [(F.LANE_LSTAT_PHASE, ld, l)])

/-- A Q-pass transaction that differs from its P-pass entry is a mismatch: nothing of the segment is committed (06). -/
def Obligations.AMismatchDiscardsTheSegment : Prop :=
  ∀ (s : State) (ld l : Nat) (x : LaneTxn) (e : TraceEntry), s.hasLd ld = true → l < 8 →
    s.inPhase ld l .qPass = true → x.type < 3 → x.be < 16 → x.addr < 2 ^ 32 → x.data < 2 ^ 32 → x.flips = 0 →
    (s.issue true ld l x).2 = false → halfBad true ld l x = false → ¬((s.lane ld l).seg = 0 ∧ (s.lane ld l).inj = some (s.lane ld l).qIdx) →
    (s.lane ld l).trace[(s.lane ld l).qIdx]? = some e →
    e.addr < 2 ^ 32 → e.data < 2 ^ 32 → e.be < 16 → e.type < 4 → e.cls < 8 → e.par < 4 →
    let local_ := x.type ≠ 2 ∧ (windowOff ld l x.addr).isSome
    let addr := if x.type = 2 then x.addr else match windowOff ld l x.addr with
      | some off => Nat.xor off 0x7FFC
      | none => x.addr
    let cls := (txnClass ld l x).getD 0
    let agree := e.addr = addr ∧ (e.type ≠ 0 → ∀ k < 4, e.be.testBit k = true → bitsOf e.data (8 * k) 8 = bitsOf (Nat.xor x.data 0xFFFFFFFF) (8 * k) 8) ∧
      e.be = x.be ∧ e.type = x.type ∧ e.cls = cls ∧ (local_ → cls = 0)
    let diff := Nat.xor e.bits (entryOf true ld l x).bits &&& compareMask e
    ∃ t, exec (.laneTransaction ld l x) s = .next t ∧
      (x.rail0 = ⟨0, 0⟩ → x.rail1 = ⟨0, 0⟩ → e.par = e.parity →
        (agree → (t.lane ld l).ph = .qPass ∧ (t.lane ld l).qIdx = (s.lane ld l).qIdx + 1 ∧ (t.lane ld l).trace = (s.lane ld l).trace) ∧
        (¬agree → (t.lane ld l).ph ≠ .qPass ∧ (t.lane ld l).trace = [] ∧
          t.get F.LANE_LMCNT_MISCNT ld l = min (s.get F.LANE_LMCNT_MISCNT ld l + 1) (2 ^ F.LANE_LMCNT_MISCNT.w - 1))) ∧
      (railShows x.rail0 diff ≠ railShows x.rail1 diff → t.fenced U.lane ld l = true ∧ (t.fence U.lane ld l).reason = 5) ∧
      (railShows x.rail0 diff = railShows x.rail1 diff → e.par ≠ e.parity → (t.lane ld l).ph ≠ .qPass ∧ (t.lane ld l).trace = [] ∧
        t.get F.LANE_LMINFO_KIND ld l = 7)

/-- A window transfer of a field die is taken whole when its CRC, tick bits and window are right, and dropped otherwise (01, 02, 08, 22). -/
def Obligations.InputImagesAreFrozenOrDropped : Prop :=
  (∀ (s : State) (ld fd tick : Nat) (flips : List (Nat × Nat)) (complete : Bool), s.hasLd ld = true → s.hasFd fd = true →
      (s.field fd).power = true →
      let x := Transit.parts tick flips (complete && !s.imageClosed ld)
      let taken := x.receive s.tick (s.field fd).htick (s.imageBody fd)
      (∀ bs, taken = some bs → ∃ t, exec (.inputImageReceived ld fd tick flips complete) s = .next t ∧
        (∀ k < 64, t.frozenWord ld fd k = if s.fenced U.link ld fd then 0 else fieldAt bs (4 * k) 4) ∧
        t.frozenAt ld fd = s.tick + 1 ∧
        t.get F.DIEBR_LINK_OKRUN ld fd = min (s.get F.DIEBR_LINK_OKRUN ld fd + 1) (2 ^ F.DIEBR_LINK_OKRUN.w - 1) ∧
        OnlyFields { s with frozen := t.frozen, frozenTick := t.frozenTick } t [(F.DIEBR_LINK_OKRUN, ld, fd)]) ∧
      (taken = none → ∃ t, exec (.inputImageReceived ld fd tick flips complete) s = .next t ∧ t.get F.DIEBR_LINK_OKRUN ld fd = 0 ∧
        t.get F.DIEBR_LINK_CRCERR ld fd = (if x.crcFails (s.field fd).htick (s.imageBody fd)
          then min (s.get F.DIEBR_LINK_CRCERR ld fd + 1) (2 ^ F.DIEBR_LINK_CRCERR.w - 1) else s.get F.DIEBR_LINK_CRCERR ld fd) ∧
        OnlyFields s t [(F.DIEBR_LINK_OKRUN, ld, fd), (F.DIEBR_LINK_CRCERR, ld, fd)]) ∧
      (tick = 0 → flips = [] → complete = true → s.imageClosed ld = false → (s.field fd).htick = s.tick → taken = some (s.imageBody fd)) ∧
      (complete = false ∨ s.imageClosed ld = true → taken = none)) ∧
  (∀ (s : State) (ld : Nat) (m : Master), s.hasLd ld = true → s.portHeld m = false → s.route m (regAddr .TICK_TNUM0 ld 0) = 0 → ∃ t,
      exec (.tnum0Read ld m) s = .next t ∧ t.results = [s.tick % 2 ^ 32] ∧ t.busErr = false ∧
      Store.get (fun _ => 0) t.tnumLatch (Nat.pair ld m.key) = s.tick / 2 ^ 32 + 1 ∧
      t = { s with results := t.results, tnumLatch := t.tnumLatch, busErr := t.busErr })

/-- The latch point marks late ticks; the words and bits follow; a soak without a switchover times out (01, 06, 08, 15). -/
def Obligations.LateTicksAreMarkedAtTheLatchPoint : Prop :=
  (∀ s : State, s.inRun = true → ∃ t, exec .latchPoint s = .next t ∧ t = s.sending.latch ∧
      t.tick = s.tick ∧ t.image = s.image ∧ t.flash = s.flash ∧ t.otp = s.otp) ∧
  (∀ (s : State) (ld l : Nat), (s.lane ld l).ran = true → s.fenced U.lane ld l = false →
      let t := s.latchLane ld l
      (t.lane ld l).ran = false ∧ (t.lane ld l).latePrev = s.flag F.LANE_LSTAT_LATE ld l ∧
      t.get F.LANE_LSTAT_RETRIED ld l = (s.lane ld l).retried.toNat ∧
      ((s.lane ld l).ph = .done → t.get F.LANE_LSTAT_LATE ld l = 0 ∧ t.get F.LANE_LSTAT_LATE2 ld l = 0 ∧
        (t.lane ld l).lateRun = 0) ∧
      ((s.lane ld l).ph ≠ .done → (t.lane ld l).ph = .asleep ∧ (t.lane ld l).trace = [] ∧
        t.get F.LANE_LSTAT_LATE ld l = 1 ∧ t.get F.LANE_LSTAT_LATE2 ld l = (s.flag F.LANE_LSTAT_LATE ld l).toNat ∧
        t.get F.LANE_LEVCNT_LATECNT ld l = min (s.get F.LANE_LEVCNT_LATECNT ld l + 1) (2 ^ F.LANE_LEVCNT_LATECNT.w - 1) ∧
        (t.lane ld l).lateRun = (s.lane ld l).lateRun + 1 ∧
        ((s.lane ld l).misNow = true → t.get F.LANE_LSTAT_GRACE ld l = 1)) ∧
      t = State.withRegs { s with lanes := t.lanes } t.regs) ∧
  (∀ s : State, s.soakOver = true → exec .soakTimeout s = .next (s.dropSoak stSoakTimeout 4))

/-- At the apply point an output conducts only on the on-word of its P-source and the H-demand of its cell; a safe die or fenced terminal is off (01, 02, 05, 23). -/
def Obligations.ApplyPointTakesBothEnables : Prop :=
  (∀ (s : State) (fd ld tick crc : Nat) (flips : List (Nat × Nat)) (complete : Bool), s.hasFd fd = true → s.hasLd ld = true →
      (s.field fd).power = true →
      let sent := s.words ld fd
      let x := Transit.framed (wordBody sent.words).length tick flips crc complete
      let up := sent.tick = s.tick ∧ sent.words ≠ [] ∧ s.fenced U.link ld fd = false ∧ s.fenced U.logic ld 0 = false
      let got := x.receive (s.field fd).htick s.tick (wordBody sent.words)
      (∃ t, exec (.pEnableWordsReceived fd ld tick flips crc complete) s = .next t ∧ t = { s with fields := t.fields } ∧
        (∀ bs, got = some bs → up → ((t.field fd).xfer ld) = ⟨true, (s.field fd).htick, bodyWords bs⟩) ∧
        (got = none ∨ ¬up → (t.field fd).xfer ld = PXfer.zero)) ∧
      (tick = 0 → flips = [] → crc = 0 → complete = true → (s.field fd).htick = s.tick → got = some (wordBody sent.words)) ∧
      (sent.words.length ≤ 64 → ∀ k < 64, sent.words.getD k 4 < 4 →
        (bodyWords (wordBody sent.words)).getD k 4 = sent.words.getD k 4)) ∧
  (∀ (s : State) (fd : Nat), s.hasFd fd = true → (s.field fd).power = true → ∃ u, exec (.applyPoint fd) s = .next u ∧
      u = State.withRegs { s with terms := u.terms } u.regs ∧
      ∀ k < 64,
        let own := s.pSource fd k
        let src := if s.outStandby fd k = true ∧ s.heldWord fd own k = 4 ∧ s.heldWord fd (1 - own) k < 4 then 1 - own else own
        let dead := s.fieldSafe fd || s.fenced U.term (fdie fd) k || s.heldOff fd k
        (s.mode fd k = 2 ∨ s.mode fd k = 4 →
          u.get F.TERM_HSTAT_PENA (fdie fd) k = (!dead && s.heldWord fd src k == (if (s.field fd).htick % 2 = 0 then 1 else 2)).toNat ∧
          u.get F.TERM_HSTAT_HENA (fdie fd) k = (!dead && s.hDemand fd k).toNat) ∧
        (s.mode fd k ≠ 2 → s.mode fd k ≠ 4 →
          u.get F.TERM_HSTAT_PENA (fdie fd) k = s.get F.TERM_HSTAT_PENA (fdie fd) k ∧
          u.get F.TERM_HSTAT_HENA (fdie fd) k = s.get F.TERM_HSTAT_HENA (fdie fd) k))

/-- A valid strobe starts the H tick; without one the die starts it, and the second in a row fences the die; a wrong count of HCLK fences it too (01, 07). -/
def Obligations.HTicksStartByStrobeOrByThemselves : Prop :=
  (∀ (s : State) (fd ld cyc flips : Nat) (complete : Bool) (meas : List Meas), s.hasFd fd = true → s.hasLd ld = true →
      (s.field fd).power = true → s.inRun = true →
      let x := Transit.bare flips complete
      (s.strobeOk fd ld x = true → exec (.hTickStart fd ld flips complete cyc meas) s = .next (s.strobe fd ld cyc meas)) ∧
      (s.strobeOk fd ld x = false → ∃ t, exec (.hTickStart fd ld flips complete cyc meas) s = .next t ∧ t = { s with fields := t.fields } ∧
        (∀ g, g ≠ fd → t.field g = s.field g) ∧ t.field fd = { s.field fd with noL0 := (t.field fd).noL0 } ∧
        (ld = 0 → complete = false → t.strobeAbsent fd = true)) ∧
      (complete = false ∨ s.fenced U.link ld fd = true ∨ s.fenced U.logic ld 0 = true ∨
        (s.field fd).htick = s.tick ∧ (s.field fd).gotStrobe = true ∨
        ld = 1 ∧ s.get F.HGLB_HTCTL_STRSRC (fdie fd) 0 = 0 ∧ s.strobeAbsent fd = false → s.strobeOk fd ld x = false)) ∧
  (∀ (s : State) (fd cyc : Nat) (meas : List Meas), s.hasFd fd = true → (s.field fd).power = true →
      (s.field fd).gotStrobe = true → s.get F.HGLB_HTCTL_NH (fdie fd) 0 + 32 ≤ cyc →
      exec (.hTickSelfStart fd cyc meas) s = .next (s.selfStart fd cyc meas)) ∧
  (∀ (s : State) (fd : Nat) (l : List (Bool × Nat)) (c : Nat),
      let nh := s.get F.HGLB_HTCTL_NH (fdie fd) 0
      let dev : Int := Int.ofNat c - 16 * Int.ofNat nh
      let t := s.clockCheck fd l
      (l[15]? = some (true, c) → s.fenced U.field (fdie fd) 0 = false →
        (16 * nh < 50 * dev.natAbs → t.fenced U.field (fdie fd) 0 = true ∧ (t.fence U.field (fdie fd) 0).reason = 0x21) ∧
        (50 * dev.natAbs ≤ 16 * nh → t.fenced U.field (fdie fd) 0 = false ∧
          t.get F.HGLB_HTDEV_DEV (fdie fd) 0 = (dev % 65536).toNat ∧
          OnlyFields s t [(F.HGLB_HTDEV_DEV, fdie fd, 0), (F.HGLB_HTDEV_MAXDEV, fdie fd, 0)])) ∧
      ((∀ x, l[15]? ≠ some (true, x)) → t = s))

/-- An H-bus slot carries the header, the owned entries and the CRC; a receiver takes a slot whole or counts it (07). -/
def Obligations.HbusSlotsAreSentAndChecked : Prop :=
  (∀ (s : State) (fd : Nat), s.hasFd fd = true → (s.field fd).power = true → (s.field fd).fbist = false →
      s.fenced U.field (fdie fd) 0 = false → fd < 8 → ∃ t,
      exec (.hbusSlotSend fd) s = .next t ∧ t = { s with results := t.results, fields := t.fields } ∧
      (t.field fd).beats = t.results ∧ t.field fd = { s.field fd with beats := t.results } ∧
      (∃ h p, t.results = h :: p ++ [slotCrc (h :: p)] ∧ h % 8 = fd ∧ h / 8 = (s.field fd).htick % 2 ^ 13 ∧
        p.length = ((s.ownedBy fd fd).length + 7) / 8)) ∧
  (∀ (s : State) (fd k : Nat) (cyc : Int) (x : Transit), s.hasFd fd = true → s.hasFd k = true → (s.field fd).power = true →
      let beats := s.beatsIn k x
      (∃ t, exec (.hbusSlotReceive fd k cyc x) s = .next t ∧
        (s.slotOk fd k cyc beats = true → (t.field fd).slots.testBit k = true ∧ t = { s with hbus := t.hbus, fields := t.fields }) ∧
        (s.slotOk fd k cyc beats = false → t.get F.HGLB_HBSTAT_SLOTERR (fdie fd) 0 =
            min (s.get F.HGLB_HBSTAT_SLOTERR (fdie fd) 0 + 1) (2 ^ F.HGLB_HBSTAT_SLOTERR.w - 1) ∧
          OnlyFields s t [(F.HGLB_HBSTAT_SLOTERR, fdie fd, 0)])) ∧
      (24 < (cyc - (72 + 80 * k)).natAbs → s.slotOk fd k cyc beats = false) ∧
      (x.complete = false → s.slotOk fd k cyc beats = false) ∧
      (x.flips = [] → x.complete = true → (∀ b ∈ (s.field k).beats, b < 2 ^ 16) → beats = (s.field k).beats))

/-- HTX, RXH and RXS carry ring data to and from the field dies and change nothing but what they name (05, 07, 09). -/
def Obligations.RingDataCrossesTheFieldDie : Prop :=
  (∀ (s : State) (fd : Nat), s.hasFd fd = true → s.fieldOff fd = false → ∃ t,
      exec (.htxBuild fd) s = .next t ∧ t = State.withRegs { s with fields := t.fields } t.regs ∧
      (t.field fd).htx = (s.field fd).htick + 1 ∧ (∀ g, g ≠ fd → t.field g = s.field g) ∧
      (∀ G d i, G.reg ≠ .HTX → G.reg ≠ .TICK_TPOS → t.get G d i = s.get G d i)) ∧
  (∀ (s : State) (ld fd : Nat), s.hasLd ld = true → s.hasFd fd = true → s.reaches ld fd = true →
      (∃ t, exec (.htxRead ld fd) s = .next t ∧
        t = State.withRegs { s with htxH := t.htxH, htxMarks := t.htxMarks, rings := t.rings } t.regs ∧
        OnlyFields { s with htxH := t.htxH, htxMarks := t.htxMarks, rings := t.rings } t [(F.TICK_TPOS_POS, ld, 0)] ∧
        ((s.field fd).htx = s.tick + 1 →
          (fd = 0 → Store.get (fun _ => 0) t.htxH ld = beNat (s.htxBytes 0 (4 * ld) 12)) ∧ (fd ≠ 0 → t.htxH = s.htxH) ∧
          (∀ m < 8, (s.get F.HTX_W (fdie fd) (8 + 4 * m + 3)).testBit 31 = true →
            (s.get F.HTX_W (fdie fd) (8 + 4 * m + 3)).testBit ld = true →
            ⟨ld, beNat (s.htxBytes fd (8 + 4 * m) 4), beNat (s.htxBytes fd (8 + 4 * m + 1 + ld) 4), s.tick⟩ ∈ t.htxMarks)) ∧
        ((s.field fd).htx ≠ s.tick + 1 → t.htxH = s.htxH ∧ t.htxMarks = s.htxMarks ∧ t.rings = s.rings)) ∧
      (∃ t, exec (.rxhWrite ld fd) s = .next t ∧ t = s.withRegs t.regs ∧
        (∀ G d i, G.reg ≠ .RXH → t.get G d i = s.get G d i)) ∧
      (∀ hmark hmcrc oturn, (fd, hmark, hmcrc, oturn) ∉ (s.ring ld).rxs → exec (.rxsWrite ld fd hmark hmcrc oturn) s = .next s) ∧
      (∀ hmark hmcrc oturn, (fd, hmark, hmcrc, oturn) ∈ (s.ring ld).rxs →
        let good := ∃ u, lastTurn (s.field fd).htick 16 oturn = some u ∧
          paeshCode polyH (s.hRid fd ld) (bitsOf (not32 hmark) 12 13) u (msbBytes 4 hmark) = hmcrc ∧
          (s.field fd).htick ≤ u + markDelay (s.get F.RNG_NODES_N ld 0) s.tickUs + 1
        ∃ t, exec (.rxsWrite ld fd hmark hmcrc oturn) s = .next t ∧ t = State.withRegs { s with marksH := t.marksH, rings := t.rings } t.regs ∧
        (t.ring ld).rxs = (s.ring ld).rxs.erase (fd, hmark, hmcrc, oturn) ∧
        (good → (⟨ld, not32 hmark % 256, bitsOf (not32 hmark) 8 4, bitsOf (not32 hmark) 12 13, (s.field fd).htick + 1, 0⟩ : MarkArr) ∈ t.marksOf fd) ∧
        (¬good → t.marksH = s.marksH ∧ t.get F.HGLB_HBSTAT_HREJ (fdie fd) 0 =
            min (s.get F.HGLB_HBSTAT_HREJ (fdie fd) 0 + 1) (2 ^ F.HGLB_HBSTAT_HREJ.w - 1))))

/-- The sieve exchanges records, compares windows, and fences an instance at the third disagreement in a row (07, 15). -/
def Obligations.SieveWindowsAreExchangedAndCompared : Prop :=
  (∀ (s : State) (die src iid : Nat) (x : Transit), s.hasDie die = true →
      (s.windowEnded die = true → (∃ t, exec (.sieveExchangeStart die) s = .next t ∧
          (t.svDie die).out = (s.partners die).map (fun d => (d, s.sieveRecord die d)) ∧
          t.results = (t.svDie die).out.flatMap (fun r => r.2.map BitVec.toNat) ∧
          t = State.withRegs { s with results := t.results, sieveDie := t.sieveDie } t.regs) ∧
        exec (.sieveCompare die) s = .next (s.sieveCompare die)) ∧
      (s.hasDie src = true → (decide (die < 2) != decide (src < 2)) = true → s.bridgeUp die src = true →
        (s.recordIn die src x = none → exec (.sieveRecordReceived die src x) s = .next s) ∧
        (∀ b, s.recordIn die src x = some b → ∃ t, exec (.sieveRecordReceived die src x) s = .next t ∧
          src ∈ (t.svDie die).got ∧ t = { s with sieveP := t.sieveP, sieveH := t.sieveH, sieveDie := t.sieveDie } ∧
          (die < 2 → ∀ r ∈ s.paired die, s.partner die r = src → (t.sieveOf die r).other = recordSig b r.iid)) ∧
        (∀ b, (s.svDie src).out.lookup die = some b → x.flips = [] → x.complete = true → recGood b = true →
          s.recordIn die src x = some b) ∧
        (x.complete = false → s.recordIn die src x = none)) ∧
      (s.sieveMessageDue die iid = true → ∃ t, exec (.sieveFenceMessage die iid) s = .next t ∧
        t.fenced U.inst (sideOf die) iid = true ∧
        (t.fence U.inst (sideOf die) iid).reason = (s.fence U.inst (1 - sideOf die) iid).reason ∧ t = { s with fences := t.fences })) ∧
  (∀ (s : State) (fd : Nat) (r : InstRec), s.hasFd fd = true → r ∈ s.image.img.insts → r.fdie = fd →
      (s.messageDue r false = true → ∃ t, exec (.fenceMessage fd r.iid false) s = .next t ∧ t.instFencedH r.iid = true ∧
        (t.fence U.inst 1 r.iid).reason = (s.fence U.inst 0 r.iid).reason ∧ t = { s with fences := t.fences }) ∧
      (s.messageDue r true = true → ∃ t, exec (.fenceMessage fd r.iid true) s = .next t ∧ t.instFencedH r.iid = true ∧
        (t.fence U.inst 1 r.iid).readmit = (s.fence U.inst 0 r.iid).readmit ∧ t = { s with fences := t.fences })) ∧
  (∀ (s : State) (die : Nat) (r : InstRec),
      let t := s.compareInst die r
      let c := min 3 (s.dcnt die (s.sieveIdx die r) + 1)
      ((s.sieveOf die r).other = some (s.sieveOf die r).last → t = s.setDcnt die (s.sieveIdx die r) 0) ∧
      ((s.sieveOf die r).other ≠ some (s.sieveOf die r).last →
        (c < 3 → t = (s.setDcnt die (s.sieveIdx die r) c).count (sieveFld die F.SIEVEP_SCNT_DISWIN F.SIEVEH_SCNT_DISWIN) die 0) ∧
        (c = 3 → t.fenced U.inst (sideOf die) r.iid = true ∧ (t.fence U.inst (sideOf die) r.iid).reason = 6)))

/-- A limit, trip, thermal or open-load event acts on its own terminal only, and switches it off where the spec says so (02). -/
def Obligations.TerminalEventsActOnTheirTerminal : Prop :=
  ∀ (s : State) (fd t : Nat) (m : Master) (above : Bool), s.hasFd fd = true → t < 64 →
    let d := fdie fd
    let only := fun (u : State) (l : List (Fld × Nat × Nat)) => OnlyFields { s with terms := u.terms, busErr := u.busErr } u l ∧
      ∀ g k, (64 * g + k ≠ 64 * fd + t) → u.term g k = s.term g k
    (s.limited fd t = true → (s.term fd t).lim = false → ∃ u, exec (.currentLimitEngage fd t) s = .next u ∧
      (u.term fd t).lim = true ∧ u.get F.TERM_HSTAT_HLIM d t = 1 ∧ u.get F.TERM_FCNT_LIMCNT d t = min (s.get F.TERM_FCNT_LIMCNT d t + 1) (2 ^ (F.TERM_FCNT_LIMCNT).w - 1) ∧
      only u [(F.TERM_HSTAT_HLIM, d, t), (F.TERM_FCNT_LIMCNT, d, t)]) ∧
    ((s.term fd t).lim = true → ∃ u, exec (.currentLimitRelease fd t) s = .next u ∧
      (u.term fd t).lim = false ∧ u.get F.TERM_HSTAT_HLIM d t = 0 ∧ only u [(F.TERM_HSTAT_HLIM, d, t)]) ∧
    ((s.term fd t).lim = true → ∃ u, exec (.shortGndTimeout fd t) s = .next u ∧
      u.get F.TERM_HSTAT_PENA d t = 0 ∧ u.get F.TERM_HSTAT_HENA d t = 0 ∧ u.get F.TERM_FAULT_SHORT_GND d t = 1 ∧
      (u.term fd t).pend.testBit 0 = true ∧ u.heldOff fd t = true ∧
      only u [(F.TERM_HSTAT_PENA, d, t), (F.TERM_HSTAT_HENA, d, t), (F.TERM_HSTAT_HLIM, d, t), (F.TERM_FAULT_SHORT_GND, d, t)]) ∧
    (s.mode fd t = 4 → (s.term fd t).gdOver = true → ∃ u, exec (.gdTrip fd t) s = .next u ∧
      u.get F.TERM_HSTAT_PENA d t = 0 ∧ u.get F.TERM_HSTAT_HENA d t = 0 ∧ u.get F.TERM_FAULT_GDTRIP d t = 1 ∧
      u.get F.TERM_HSTAT_HLIM d t = 1 ∧ (u.term fd t).pend.testBit 8 = true ∧ u.heldOff fd t = true ∧
      only u [(F.TERM_HSTAT_PENA, d, t), (F.TERM_HSTAT_HENA, d, t), (F.TERM_HSTAT_HLIM, d, t), (F.TERM_FAULT_GDTRIP, d, t)]) ∧
    (s.mode fd t = 4 → ∃ u, exec (.gdtripThresholdCrossing fd t above) s = .next u ∧ (u.term fd t).gdOver = above ∧
      (u.term fd t).gdTrip = ((s.term fd t).gdTrip && above) ∧
      u.get F.TERM_HSTAT_HLIM d t = (if (s.term fd t).gdTrip = true ∧ above = false then 0 else s.get F.TERM_HSTAT_HLIM d t) ∧
      only u [(F.TERM_HSTAT_HLIM, d, t)]) ∧
    (2 ≤ s.mode fd t → s.mode fd t ≤ 4 → ∃ u, exec (.thermalShutdown fd t) s = .next u ∧
      u.get F.TERM_HSTAT_PENA d t = 0 ∧ u.get F.TERM_HSTAT_HENA d t = 0 ∧ u.get F.TERM_HSTAT_HTHERM d t = 1 ∧
      (u.term fd t).therm = true ∧ u.heldOff fd t = true ∧
      only u [(F.TERM_HSTAT_PENA, d, t), (F.TERM_HSTAT_HENA, d, t), (F.TERM_HSTAT_HTHERM, d, t)]) ∧
    ((s.term fd t).supp = true → ∃ u, exec (.reversedSuppressionEnd fd t) s = .next u ∧ (u.term fd t).supp = false ∧ only u []) ∧
    (16 ≤ (s.term fd t).olOn ∨ 16 ≤ (s.term fd t).olOff → ∃ u, exec (.openLoadDetect fd t) s = .next u ∧
      u.get F.TERM_FAULT_OPEN_LOAD d t = 1 ∧ OnlyFields s u [(F.TERM_FAULT_OPEN_LOAD, d, t)]) ∧
    (WriteAdmitted s m .TERM_FCTL d t m.isSv true → ∃ u, exec (.termFenceClr m fd t) s = .next u ∧
      (u.term fd t).clrReq = true ∧ u.busErr = false ∧ only u [])

/-- A terminal's voltage change reaches one sense path, a mask closes with its source, and a slot end reaches the checkers of one side (02, 03). -/
def Obligations.VoltagesAndSlotsReachTheCheckers : Prop :=
  ∀ (s : State) (fd t code time slot : Nat) (h : Bool) (ic : List (Nat × Nat)), s.hasFd fd = true →
    (t < 64 → code < 1024 → time < 32 * s.slotLen fd → s.inTick fd time h = true →
      ∃ u, exec (.terminalVoltageChange fd t h code time) s = .next u ∧
      ((u.term fd t).path h).code = code ∧ ((u.term fd t).path (!h)).code = ((s.term fd t).path (!h)).code ∧
      (∀ g k b, 64 * g + k ≠ 64 * fd + t → ((u.term g k).path b).code = ((s.term g k).path b).code) ∧
      u = { s with terms := u.terms, capIn := u.capIn }) ∧
    (t < 64 → ((s.term fd t).path h).chk.mask = true →
      432 ≤ ((s.term fd (s.get F.TERM_CFG_TPSRC (fdie fd) t)).path h).code →
      ∃ u, exec (.maskClose fd t h) s = .next u ∧ ((u.term fd t).path h).chk.mask = false ∧
        (u.term fd t).path (!h) = (s.term fd t).path (!h) ∧ u = { s with terms := u.terms }) ∧
    (slot < 32 → s.tpOn fd = true → s.slotDue fd slot h = true → ∃ u, exec (.testPulseSlotEnd fd slot ⟨h, ic⟩) s = .next u ∧ u = s.slotEnd fd slot h ic ∧
      u.get F.TP_FRAME_SLOTNOW (fdie fd) 0 = (if h then (slot + 1) % 32 else s.get F.TP_FRAME_SLOTNOW (fdie fd) 0) ∧
      (u.field fd).slot h = (slot + 1) % 32 ∧ (u.field fd).slot (!h) = (s.field fd).slot (!h) ∧
      (∀ g, g ≠ fd → u.field g = s.field g) ∧
      u = State.withRegs { s with terms := u.terms, fields := u.fields } u.regs) ∧
    (s.inRun = true → (s.field fd).slot h ≠ slot → exec (.testPulseSlotEnd fd slot ⟨h, ic⟩) s = .next s) ∧
    (s.tpOn fd = false → exec (.testPulseSlotEnd fd slot ⟨h, ic⟩) s = .next s)

/-- A timer wraps with its preloads, acts on its pin, and captures; enabling, disabling and reloading obey their rules (03, 15, 23). -/
def Obligations.TimersWrapMatchAndCapture : Prop :=
  ∀ (s : State) (die n e : Nat) (m : Master), s.hasTimer die n = true →
    let f := tmr die
    let pin := fun (t : State) (code : Nat) => t.get f.pin die n =
      (if code = 0 then s.get f.pin die n else if code = 1 then 1 else if code = 2 then 0 else (!s.flag f.pin die n).toNat)
    (s.counts die n = true → (s.get f.cmp die n = 0 ∨ s.get f.cnt die n < s.get f.cmp die n) → ∃ t, exec (.timerZero die n) s = .next t ∧ t.get f.zero die n = 1 ∧
      t.get f.cnt die n = s.get f.reload die n % 2 ^ 24 ∧ t.get f.cmp die n = s.get f.cmppre die n % 2 ^ 24 ∧
      t.get f.match_ die n = (if s.get f.cmp die n = 0 then 1 else s.get f.match_ die n) ∧
      pin t (if s.get f.cmp die n = 0 ∧ s.get f.mact die n ≠ 0 then s.get f.mact die n else s.get f.zact die n) ∧
      OnlyFields { s with capIn := t.capIn, terms := t.terms } t [(f.zero, die, n), (f.match_, die, n), (f.cnt, die, n), (f.cmp, die, n), (f.pin, die, n),
        (f.reload, die, n), (f.cmppre, die, n)]) ∧
    (s.counts die n = true → 0 < s.get f.cmp die n → s.get f.cmp die n ≤ s.get f.cnt die n → ∃ t,
      exec (.timerMatch die n) s = .next t ∧ t.get f.match_ die n = 1 ∧ pin t (s.get f.mact die n) ∧
      t.get f.cnt die n = (s.get f.cmp die n - 1) % 2 ^ 24 ∧
      OnlyFields { s with capIn := t.capIn } t [(f.match_, die, n), (f.cnt, die, n), (f.pin, die, n)]) ∧
    (WriteAdmitted s m (ctlReg die) die n (s.ownsTimer m die n) true →
      (s.flag f.en die n = false → s.fenced (timerKind die) die n = false → ∃ t, exec (.timerEnable m die n) s = .next t ∧
        t.get f.en die n = 1 ∧ t.get f.cnt die n = s.get f.reload die n % 2 ^ 24 ∧ t.get f.cmp die n = s.get f.cmppre die n % 2 ^ 24 ∧
        OnlyFields (s.respond false) t [(f.en, die, n), (f.cnt, die, n), (f.cmp, die, n)]) ∧
      (s.flag f.en die n = true → exec (.timerEnable m die n) s = .next (s.respond false)) ∧
      (e ≤ s.mayElapse die n → s.flag f.en die n = true → ∃ t, exec (.timerDisable m die n e) s = .next t ∧ t.get f.en die n = 0 ∧
        t.get f.cnt die n = (s.get f.cnt die n - e) % 2 ^ 24 ∧ OnlyFields (s.respond false) t [(f.en, die, n), (f.cnt, die, n)]) ∧
      (die < 2 → s.fenced (timerKind die) die n = false → ∃ t, exec (.timerRldnow m die n) s = .next t ∧
        t.get f.cnt die n = s.get f.reload die n % 2 ^ 24 ∧ t.get f.cmp die n = s.get f.cmppre die n % 2 ^ 24 ∧
        OnlyFields (s.respond false) t [(f.cnt, die, n), (f.cmp, die, n)]) ∧
      (2 ≤ die → exec (.timerRldnow m die n) s = .next (s.refuse (ctlReg die) die n m 7))) ∧
    (s.portHeld m = false → s.route m (regAddr (ctlReg die) die n) = 0 → s.ownsTimer m die n = false →
      exec (.timerEnable m die n) s = .next (s.refuse (ctlReg die) die n m 6)) ∧
    (∀ rising : Bool, s.canCapture die n e = true → s.edgeDue die n rising = true → ∃ t,
      exec (.timerCapture die n e rising) s = .next t ∧
      t.get f.cap die n = (s.get f.cnt die n - e) % 2 ^ 24 ∧ t.get f.captured die n = 1 ∧
      t.edgeDue die n rising = false ∧ t.edgeDue die n (!rising) = s.edgeDue die n (!rising) ∧
      t.get f.overcap die n = (if s.flag f.captured die n then 1 else s.get f.overcap die n) ∧
      OnlyFields { s with capIn := t.capIn } t [(f.cap, die, n), (f.cnt, die, n), (f.captured, die, n), (f.overcap, die, n)]) ∧
    (s.portHeld m = false → s.route m (regAddr (capReg die) die n) = 0 →
      (∃ t, exec (.timerCapRead m die n none) s = .next t ∧
        t.results = [s.get f.cap die n] ∧ t.busErr = false ∧ t.get f.captured die n = 0 ∧
        OnlyFields { s with results := t.results, busErr := t.busErr } t [(f.captured, die, n)]) ∧
      (s.canCapture die n e = true → ∃ t, exec (.timerCapRead m die n (some e)) s = .next t ∧
        t.results = [s.get f.cap die n] ∧ t.get f.captured die n = 1 ∧ t.get f.overcap die n = s.get f.overcap die n ∧
        t.get f.cap die n = (s.get f.cnt die n - e) % 2 ^ 24)) ∧
    (s.portHeld m = false → s.route m (regAddr (capReg die) die n) ≠ 0 → ∃ t, exec (.timerCapRead m die n none) s = .next t ∧
      t.results = [0] ∧ t.busErr = true)

/-- A test-pulse code is taken only with legal slots and width, never twice on a die, and its timer follows (03, 23). -/
def Obligations.TestPulseCodesAreCheckedAndAssigned : Prop :=
  ∀ (s : State) (m : Master) (fd n val : Nat), s.hasFd fd = true → n < 64 →
    let a := bitsOf val 0 5
    let b := bitsOf val 8 5
    let w := bitsOf val 16 14
    (WriteAdmitted s m .TP_CODE (fdie fd) n m.isSv (s.codeFieldOk fd n val) →
      (s.word .TP_CODE (fdie fd) n = val % 2 ^ 32 → exec (.tpcodeWrite m fd n val) s = .next (s.respond false)) ∧
      (s.word .TP_CODE (fdie fd) n ≠ val % 2 ^ 32 → ∃ t, exec (.tpcodeWrite m fd n val) s = .next t ∧
        t.get F.TP_CODE_SLOTA (fdie fd) n = a ∧ t.get F.TP_CODE_SLOTB (fdie fd) n = b ∧ t.get F.TP_CODE_WIDTH (fdie fd) n = w ∧
        t.flag F.TP_CODE_ASSIGNED (fdie fd) n = val.testBit 31 ∧ t.busErr = false ∧
        (val.testBit 31 = true → s.fenced U.ftimer (fdie fd) n = false →
          t.get F.FTMR_CTL_OWNER (fdie fd) n = 3 ∧ t.flag F.FTMR_CTL_EN (fdie fd) n = s.tpOn fd) ∧
        (val.testBit 31 = false → s.flag F.TP_CODE_ASSIGNED (fdie fd) n = true →
          t.get F.FTMR_CTL_OWNER (fdie fd) n = 0 ∧ t.get F.FTMR_CTL_EN (fdie fd) n = 0) ∧
        t = State.withRegs { s with terms := t.terms, freeCtr := t.freeCtr, busErr := t.busErr } t.regs)) ∧
    (s.portHeld m = false → s.route m (regAddr .TP_CODE (fdie fd) n) = 0 → m.isSv = true → val.testBit 31 = true →
      s.word .TP_CODE (fdie fd) n ≠ val % 2 ^ 32 →
      (b ≤ a ∨ w < 1600 ∨ 16000 < w ∨ s.slotLen fd < w ∨ (∃ k < 64, k ≠ n ∧ s.codeSlots fd k = [a, b]) ∨
        (s.mode fd n = 2 ∧ s.flag F.TERM_OUTCFG_OFFTEST (fdie fd) n = true ∧ 8000 < w)) →
      exec (.tpcodeWrite m fd n val) s = .next (s.refuse .TP_CODE (fdie fd) n m 7))

/-- No input function releases while a contact of its pair is open, no stop function restarts without its reset, and a demand of 0 turns outputs off at once (04, 05). -/
def Obligations.NoReleaseWithoutClosedContacts : Prop :=
  (∀ (c : FnCfg) (i : FnIn) (x : FnSt),
      ((c.type = .dualEq ∨ c.type = .ossd ∨ c.type = .estop ∨ c.type = .pullcord) →
        (i.closed 0 && i.closed 1) = false → (Fn.eval c i x).bits = 0) ∧
      ((c.type = .estop ∨ c.type = .pullcord) → x.st ≠ 3 → i.reset = false → (Fn.eval c i x).bits = 0) ∧
      (c.type = .mat → (∃ k ≤ c.opt2 1, (i.term k).mat ≠ .free) → (Fn.eval c i x).bits = 0) ∧
      ((c.type = .sto ∨ c.type = .contactor ∨ c.type = .brake) → i.link0 = false → (Fn.eval c i x).bits = 0) ∧
      (c.type = .restart → ∀ j, (Fn.eval c i x).bits.testBit 0 = true → (Fn.eval c j (Fn.eval c i x)).bits.testBit 0 = false) ∧
      (∀ t, (Fn.init c t).bits = 0)) ∧
  (∀ (s : State) (h : Bool) (iid : Nat) (r : InstRec), s.recOf iid = some r →
      let u := s.evalEvent h iid
      ((s.fnState h iid).tmr ≤ s.fnTick h iid → exec (.functionTimerExpiry h iid) s = .next u) ∧
      (r.code = 6 ∨ r.code = 7 → (s.fnState h iid).mute.lampFail = true → (s.fnState h iid).st = 0 →
        exec (.lampProbe h iid) s = .next u) ∧
      (r.code = 0x17 → (s.fnState h iid).lastMark + r.par1 ≤ s.fnTick h iid → exec (.spateRepeat h iid) s = .next u) ∧
      (h = false → u = s) ∧
      (h = true → s.cellLive r.fdie (s.cellOf r) = true → (s.cell r.fdie (s.cellOf r)).tick ≠ (s.field r.fdie).htick + 1 →
        (u.cell r.fdie (s.cellOf r)).fs = evalHeld (s.cellCfg r.fdie (s.cellOf r)) (s.cellIn r.fdie (s.cellOf r))
          (s.cell r.fdie (s.cellOf r)).hold (s.cell r.fdie (s.cellOf r)).fs ∧
        (u.cell r.fdie (s.cellOf r)).tick = (s.field r.fdie).htick + 1) ∧
      ((s.cell r.fdie (s.cellOf r)).tick = (s.field r.fdie).htick + 1 → u = s))

/-- A ring port is admitted exactly while every condition of its admission holds; link events bring the port up to date (09, 10, 11). -/
def Obligations.PortsAreAdmittedByTheirConditions : Prop :=
  (∀ (s : State) (ld p : Nat), (s.admitPort ld p).get F.RNG_PSTAT_ADMIT ld p = (if s.portCause ld p = 0 then 1 else 0) ∧
      (1 ≤ s.portCause ld p → s.portCause ld p ≤ 7 → (s.admitPort ld p).get F.RNG_PSTAT_DOWNRSN ld p = s.portCause ld p) ∧
      ((s.fenced U.port ld p = true ∨ s.get F.RNG_PCFG_MODE ld p = 0 ∨ s.get F.RNG_PCFG_MODE ld p = 3 ∨
        s.flag F.RNG_RINGCFG_ENABLE ld 0 = false ∨ s.flag F.RNG_PSTAT_SYNC ld p = false ∨ (s.port ld p).miswired = true ∨
        s.flag F.RNG_PSTAT_LINK ld p = false ∨ s.flag F.RNG_PSTAT_PREACT ld p = false) → s.portCause ld p ≠ 0) ∧
      s.admitPort ld p = State.withRegs { s with rings := (s.admitPort ld p).rings, ports := (s.admitPort ld p).ports } (s.admitPort ld p).regs) ∧
  (∀ (s : State) (ld p w : Nat) (sync : Bool), s.hasLd ld = true → p < 2 →
      let rest := fun t : State => t = State.withRegs { s with rings := t.rings, ports := t.ports } t.regs
      (s.portActs ld p = false → exec (.pcsSyncChange ld p sync) s = .next s) ∧
      (s.portActs ld p = true → ∃ t, exec (.pcsSyncChange ld p sync) s = .next t ∧
        t.get F.RNG_PSTAT_SYNC ld p = sync.toNat ∧ t.get F.RNG_PSTAT_ANDONE ld p = (!s.flag F.RNG_PCFG_ANEN ld p).toNat ∧
        (t.port ld p).miswired = false ∧
        (sync = false → t.get F.RNG_PSTAT_LINK ld p = 0 ∧ t.get F.RNG_PSTAT_ADMIT ld p = 0) ∧ rest t) ∧
      (s.negotiates ld p = true → (s.get F.RNG_PCFG_MODE ld p = 2 ∨ baseFd w = true) → ∃ t,
        exec (.autonegComplete ld p w) s = .next t ∧ t.get F.RNG_PSTAT_ANDONE ld p = 1 ∧
        t.get F.RNG_PSTAT_LPABIL ld p = w % 2 ^ F.RNG_PSTAT_LPABIL.w ∧
        (s.get F.RNG_PCFG_MODE ld p = 1 → t.get F.RNG_PSTAT_LINK ld p = (!baseRf w).toNat) ∧
        (s.get F.RNG_PCFG_MODE ld p = 2 → t.get F.RNG_PSTAT_LINK ld p = (sgmiiGood w).toNat) ∧ rest t) ∧
      (s.negotiates ld p = true → s.get F.RNG_PCFG_MODE ld p = 1 → baseFd w = false → ∃ t, exec (.autonegComplete ld p w) s = .next t ∧
        t.get F.RNG_PSTAT_ANDONE ld p = 0 ∧ t.get F.RNG_PSTAT_LPABIL ld p = w % 2 ^ F.RNG_PSTAT_LPABIL.w ∧
        t.get F.RNG_PSTAT_LINK ld p = 0 ∧ t.get F.RNG_PSTAT_ADMIT ld p = 0 ∧ rest t) ∧
      (s.negotiates ld p = true → ∃ t, exec (.autonegPartnerFault ld p w) s = .next t ∧
        t.get F.RNG_PSTAT_LINK ld p = 0 ∧ t.get F.RNG_PSTAT_ADMIT ld p = 0 ∧ (t.port ld p).anFault = true ∧ rest t) ∧
      (s.portActs ld p = true → s.flag F.RNG_PSTAT_SYNC ld p = true → s.get F.RNG_PCFG_MODE ld p = 2 → ∃ t,
        exec (.sgmiiLinkStatusChange ld p w) s = .next t ∧ t.get F.RNG_PSTAT_LINK ld p = (sgmiiGood w).toNat ∧ rest t) ∧
      (s.verifies ld p = true → (∃ t, exec (.verifyComplete ld p) s = .next t ∧ t.get F.RNG_PSTAT_PREACT ld p = 1 ∧ rest t) ∧
        (∃ t, exec (.verifyFailure ld p) s = .next t ∧ t.get F.RNG_PSTAT_ADMIT ld p = 0 ∧ t.verifies ld p = false ∧ rest t)))

/-- The start-up and sync states of a ring engine change as their rows say: lock, quiet, takeover, begin, listen again (10, 11). -/
def Obligations.SyncStatesFollowTheirRules : Prop :=
  ∀ (s : State) (ld ra rb : Nat) (skew : Int), s.hasLd ld = true →
    let heads := fun (t : State) => t.sync ld = syncHeadgate ∧ t.get F.RNG_THG_HGID ld 0 = s.node ld % 2 ^ 13 ∧
      t.get F.RNG_THG_SELF ld 0 = 1 ∧ t.get F.RNG_TSYNC_BHOPS ld 0 = 0 ∧ t.get F.RNG_TCNT_HOLDT ld 0 = 0
    ((s.sync ld = syncTrack ∨ s.sync ld = syncHeadgate) → 16 ≤ (s.ring ld).good → ∃ t, exec (.tickLock ld) s = .next t ∧
      t.get F.TICK_TSTAT_LOCKED ld 0 = 1 ∧ OnlyFields s t [(F.TICK_TSTAT_LOCKED, ld, 0)]) ∧
    (s.sync ld = syncHoldover → s.holdMax ld ≤ s.get F.RNG_TCNT_HOLDT ld 0 → ∃ t, exec (.holdoverTimeout ld) s = .next t ∧
      t.sync ld = syncQuiet ∧ t.get F.RNG_TCNT_QUIETS ld 0 = min (s.get F.RNG_TCNT_QUIETS ld 0 + 1) (2 ^ F.RNG_TCNT_QUIETS.w - 1) ∧
      (∀ p < 2, s.fenced U.port ld p = false → t.get F.RNG_TXSTAT_LISTEN ld p = 1) ∧ (t.ring ld).sends = false ∧
      t.get F.TICK_TSTAT_LOCKED ld 0 = 0 ∧ (s.inRun = true → t.get F.TICK_TSTAT_HOLDOVER ld 0 = 1) ∧
      t = State.withRegs { s with rings := t.rings } t.regs) ∧
    (s.sync ld = syncHoldover → s.hgBegins ld = true → s.flag F.RNG_TURNCFG_HGEN ld 0 = true → 1 ≤ s.get F.RNG_TURNCFG_RANK ld 0 →
      s.tkovr ld ≤ s.get F.RNG_TCNT_HOLDT ld 0 → s.anyDelay ld = true → ∃ t, exec (.headgateTakeover ld) s = .next t ∧
      heads t ∧ (t.ring ld).turn = (s.ring ld).turn ∧
      t.tick = (if ld = 0 ∧ s.inRun = true ∧ s.get F.TICK_TSTAT_SRCNOW 0 0 = 0 then (s.ring ld).turn else s.tick) ∧
      t = State.withRegs { s with rings := t.rings, tick := t.tick } t.regs) ∧
    (s.sync ld = syncListen → s.anyDelay ld = true → s.ringOn ld = true →
      (s.hgBegins ld = false ∨ s.flag F.RNG_TURNCFG_HGEN ld 0 = true ∨ s.r1src ld = true) → ∃ t,
      exec (.listenTimeout ⟨ld, ⟨ra, rb⟩⟩) s = .next t ∧ heads t ∧ (t.ring ld).turn = (if s.r1src ld then s.tick else 0) ∧
      (ld = 0 → s.txGood ld = true → s.delayValid ld 0 = true → ra + 520 * 65536 ≤ 2000 * 65536 → ∃ bs, (0, bs) ∈ t.sent) ∧
      t = State.withRegs { s with rings := t.rings, ports := t.ports, sent := t.sent, tick := t.tick } t.regs) ∧
    (s.sync ld = syncJoining → ∃ t, exec (.joinTimeout ld) s = .next t ∧ t.sync ld = syncListen ∧
      (t.ring ld).sends = false ∧ t.get F.TICK_TSTAT_LOCKED ld 0 = 0 ∧ t = State.withRegs { s with rings := t.rings } t.regs) ∧
    (s.ringOn ld = true → s.sync ld ≠ syncListen → ∃ t, exec (.turnEdge ⟨ld, ⟨ra, rb⟩, skew⟩) s = .next t ∧
      (t.ring ld).turn = (if s.r1src ld = true ∧ s.inRun = true then s.tick else ((s.ring ld).turn + 1) % tickMod) ∧
      (∀ h p th, (s.ring ld).cand = some (h, p, th) → t.get F.RNG_TSYNC_BHOPS ld 0 = (h + 1) % 2 ^ F.RNG_TSYNC_BHOPS.w ∧
        t.get F.RNG_TCNT_HOLDT ld 0 = 0 ∧ t.sync ld = s.sync ld) ∧
      ((s.ring ld).cand = none → t.get F.RNG_TCNT_HOLDT ld 0 = min (s.get F.RNG_TCNT_HOLDT ld 0 + 1) (2 ^ F.RNG_TCNT_HOLDT.w - 1) ∧
        t.sync ld = (if s.sync ld = syncTrack then syncHoldover else s.sync ld)) ∧
      t = State.withRegs { s with rings := t.rings, ports := t.ports, sent := t.sent } t.regs)

/-- A beacon has no effect on a port that is not admitted, one that fails the filter is only counted, and a worse headgate is only counted (09, 10). -/
def Obligations.BeaconsCountOnlyUnderTheirRules : Prop :=
  ∀ (s : State) (ld p : Nat) (b : BeaconFrame) (tArr : Int), s.hasLd ld = true → p < 2 →
    let u := s.beacon ld p b tArr
    let theta := tArr - b.corr
    exec (.beaconReceived ld p b tArr) s = .next (if s.admitted ld p ∧ s.ringOn ld then u else s) ∧
    (b.hdr.fcs = false → s.wrongSide ld p b.hdr = false → u = s.count F.RNG_RXERR_FCSERR ld p) ∧
    (b.hdr.fcs = true → s.wrongSide ld p b.hdr = false → s.filtered ld p 2 b.hdr = true → u = s.count F.RNG_RXERR_FILT ld p) ∧
    (s.wrongSide ld p b.hdr = true → (u.port ld p).miswired = true ∧ u.get F.RNG_PSTAT_ADMIT ld p = 0) ∧
    (s.filtered ld p 2 b.hdr = false → (s.ownKind ld b = false ∨ s.r1src ld = true) →
      OnlyFields s u [(F.RNG_TXSTAT_ACCREJ, ld, p)]) ∧
    (s.filtered ld p 2 b.hdr = false → s.ownKind ld b = true → s.r1src ld = false →
      ((s.sync ld = syncTrack ∨ s.sync ld = syncHoldover) →
        (better (s.followed ld) (b.hgRank, b.hgId) = true → better (b.hgRank, b.hgId) (s.followed ld) = false →
          OnlyFields s u [(F.RNG_TXSTAT_ACCREJ, ld, p), (F.RNG_TCNT_BEACREJ, ld, 0)]) ∧
        (better (b.hgRank, b.hgId) (s.followed ld) = true → u.sync ld = syncQuiet)) ∧
      (s.sync ld = syncTrack → (b.hgRank, b.hgId) = s.followed ld →
        b.bhops < (if (s.ring ld).sends then s.get F.RNG_TSYNC_BHOPS ld 0 else 0x1FFF) → b.turn = (s.ring ld).turn →
        theta.natAbs ≤ 3 * 65536000 → s.delayValid ld p = true → s.inBeaconWindow ld p tArr = true → (s.ring ld).cand = none →
        u = State.withRegs { s with rings := u.rings } u.regs ∧ (u.ring ld).cand = some (b.bhops, p, theta) ∧
        u.get F.RNG_TOFFS_THETA ld 0 = ((theta / 2 ^ 14) % 2 ^ 32).toNat ∧
        ∀ G d i, G.reg ≠ .RNG_TOFFS → G.reg ≠ .RNG_TSYNC → u.get G d i = s.get G d i))

/-- A furrow frame carries the own entry first and forwards only what was accepted; a received entry is accepted only with its code, age and source right (09, 10, 11). -/
def Obligations.FurrowDataIsSentAndAcceptedByTheRules : Prop :=
  (∀ (s : State) (ld p pos : Nat) (x : Transit), s.hasLd ld = true → p < 2 →
      let frame := s.furrowFrame ld p x
      let may := s.maySend ld p && !(s.port ld p).furSent && s.fits ld 1 pos (frame.length + 4)
      (may = false → exec (.furrowFrameSend ld ⟨p, pos, x⟩) s = .next s) ∧
      (may = true → ∃ t, exec (.furrowFrameSend ld ⟨p, pos, x⟩) s = .next t ∧ t.sent = [(2 * ld + p, withFcs true frame)] ∧
        (t.port ld p).furSent = true ∧ t = { s with ports := t.ports, sent := t.sent }) ∧
      (∃ rest, frame = hdrBytes (s.ownHdr ld p 1) ld p ++ msbBytes 1 ((s.forwarded ld p).length + 1) ++ msbBytes 1 (s.reach ld) ++
        [0, 0] ++ entryBytes (s.ownEntry ld x) ++ rest) ∧
      ((s.ownEntry ld x).src = s.node ld ∧ (s.ownEntry ld x).age = 0 ∧ (s.ownEntry ld x).eturn = (s.ring ld).turn % 2 ^ 15) ∧
      (∀ e ∈ s.forwarded ld p, e.src ≠ s.node ld ∧ e.age ≤ s.reach ld ∧
        ∃ o ∈ (s.port ld 0).accLast ++ (s.port ld 1).accLast, e = { o with age := o.age + 1 }) ∧
      (s.part.phase ≠ .held → ∃ t, exec (.furrowWindowEnd ld p) s = .next t ∧
        (((s.port ld p).filled && s.joined ld && s.admitted ld p) = false →
          t.get F.RNG_EMPTY_TOTAL ld p = min (s.get F.RNG_EMPTY_TOTAL ld p + 1) (2 ^ F.RNG_EMPTY_TOTAL.w - 1) ∧
          t.get F.RNG_EMPTY_CONSEC ld p = min (s.get F.RNG_EMPTY_CONSEC ld p + 1) (2 ^ F.RNG_EMPTY_CONSEC.w - 1) ∧
          (t.port ld p).slots.head? = some false) ∧
        (((s.port ld p).filled && s.joined ld && s.admitted ld p) = true → t.get F.RNG_EMPTY_CONSEC ld p = 0 ∧
          (t.port ld p).slots.head? = some true) ∧
        t = State.withRegs { s with ports := t.ports } t.regs) ∧
      (s.part.phase ≠ .held → s.staleP ld ld p = true → ∃ t, exec (.directionStale ld p) s = .next t ∧
        t.get F.RNG_EMPTY_STALE ld p = 1 ∧ OnlyFields s t [(F.RNG_EMPTY_STALE, ld, p)])) ∧
  (∀ (s : State) (ld p : Nat) (f : FurrowFrame) (a : Arrival), s.hasLd ld = true → p < 2 →
      exec (.furrowFrameReceived ld p f a) s = .next (if s.admitted ld p ∧ s.ringRuns ld then s.furrow ld p f a else s) ∧
      (s.filtered ld p 1 f.hdr = false → s.joined ld = true → s.inWindow ld p 1 a = false →
        s.furrow ld p f a = s.count F.RNG_TXSTAT_ACCREJ ld p)) ∧
  (∀ (s : State) (ld p : Nat) (e : FurrowEntry),
      (∀ u, s.acceptP ld e = some u → u ≤ (s.ring ld).turn ∧ u % 2 ^ 15 = e.eturn % 2 ^ 15 ∧
        (s.ring ld).turn ≤ u + s.reach ld + 1 ∧ e.src ≠ s.node ld ∧
        paeshCode polyP (s.ringId ld) e.src u (msbBytes 8 e.pzw) = e.pcrc ∧
        ((s.takeEntry ld p e).furAtP ld (furKey ld p e.src)).head? = some ⟨u, e.pzw, s.tick + 1⟩) ∧
      (s.acceptP ld e = none → (s.takeEntry ld p e).furP = s.furP ∧
        (s.takeEntry ld p e).get F.RNG_RXCNT_ENTREJ ld p = min (s.get F.RNG_RXCNT_ENTREJ ld p + 1) (2 ^ F.RNG_RXCNT_ENTREJ.w - 1)))

/-- A spate mark reaches channel P only with its code and age right, goes on only within its domain, and truncations send the node to QUIET (07, 09, 10, 11). -/
def Obligations.SpateMarksAreCheckedAndForwarded : Prop :=
  ∀ (s : State) (ld p cls start : Nat) (f : SpateFrame), s.hasLd ld = true → p < 2 →
    exec (.spateFrameReceived ld p f) s = .next (if s.admitted ld p ∧ s.ringRuns ld then
      (if s.filtered ld p 3 f.hdr then s.countFilter ld p f.hdr else s.takeSpate ld p f) else s) ∧
    exec (.spateCutThrough ld p f) s = .next (if s.admitted ld p ∧ s.ringRuns ld then s.sending.cutThrough ld p f else s.sending) ∧
    (bitsOf (spateWord f) 12 13 = s.node ld → s.takeSpate ld p f = s) ∧
    (bitsOf (spateWord f) 12 13 ≠ s.node ld → let t := s.takeSpate ld p f;
      (s.markOk ld f = true → (⟨ld, f.pmark % 256, bitsOf f.pmark 8 4, bitsOf f.pmark 12 13, s.tick + 1, ld⟩ : MarkArr) ∈ t.marksAtP ld ∧
        t = { s with marksP := t.marksP, rings := t.rings }) ∧
      (s.markOk ld f = false → t.marksP = s.marksP ∧
        t.get F.RNG_SPCNT_SPREJ ld p = min (s.get F.RNG_SPCNT_SPREJ ld p + 1) (2 ^ F.RNG_SPCNT_SPREJ.w - 1) ∧
        OnlyFields { s with rings := t.rings } t [(F.RNG_SPCNT_SPREJ, ld, p)])) ∧
    (s.goesOn ld p f = false → s.cutThrough ld p f = s) ∧
    (s.goesOn ld p f = true → s.maySpate ld (1 - p) = true ∧ s.inWrap ld (1 - p) = false ∧ bitsOf f.pmark 12 13 ≠ s.node ld ∧
      (s.get F.RNG_SPFWD_FWD ld (f.key.1 / 32)).testBit (f.key.1 % 32) = true ∧
      let q := s.port ld (1 - p);
      (q.sentKeys.contains f.key = true → s.cutThrough ld p f = s) ∧
      (q.sentKeys.contains f.key = false → q.sentNow < s.get F.RNG_SLSPATE_SPLIM ld 0 → ∃ bs,
        (s.cutThrough ld p f).sent = s.sent ++ [(2 * ld + (1 - p), bs)])) ∧
    (∀ (x : Transit) bs, s.dueFrame ld p cls start x = some bs → s.maySend ld p = true →
      let w := s.window ld cls
      (start < w.1 ∨ w.2 ≤ start → exec (.sluiceTruncation ld ⟨p, cls, start, x⟩) s = .next (s.sending.truncate ld p)) ∧
      (w.1 ≤ start → start < w.2 → w.2 - 4 < start + 8 + bs.length + 4 → ∃ t, exec (.sluiceTruncation ld ⟨p, cls, start, x⟩) s = .next t ∧
        t.sent = [(2 * ld + p, withFcs false (bs.take (w.2 - 4 - (start + 8))))] ∧
        t.get F.RNG_TXSTAT_TRUNCCNT ld p = min (s.get F.RNG_TXSTAT_TRUNCCNT ld p + 1) (2 ^ F.RNG_TXSTAT_TRUNCCNT.w - 1)) ∧
      (w.1 ≤ start → start < w.2 → start + 8 + bs.length + 4 ≤ w.2 - 4 →
        exec (.sluiceTruncation ld ⟨p, cls, start, x⟩) s = .next s.sending)) ∧
    (let t := s.truncate ld p;
      ((s.port ld p).trunc = true → OnlyFields s t [(F.RNG_TXSTAT_TRUNCCNT, ld, p)]) ∧
      ((s.port ld p).trunc = false → s.get F.RNG_TXSTAT_TRUNCRUN ld p < 2 →
        t.get F.RNG_TXSTAT_TRUNCRUN ld p = s.get F.RNG_TXSTAT_TRUNCRUN ld p + 1 ∧ t.sync ld = s.sync ld) ∧
      ((s.port ld p).trunc = false → 2 ≤ s.get F.RNG_TXSTAT_TRUNCRUN ld p → t.sync ld = syncQuiet))

/-- A received service frame is counted, delivered or forwarded by its destination; link-delay frames measure the delay of their link and stay on it (09, 10, 11). -/
def Obligations.ServiceFramesAreDeliveredForwardedOrCounted : Prop :=
  (∀ (s : State) (ld p : Nat) (f : ServiceFrame) (a : Arrival), s.hasLd ld = true → p < 2 →
      let u := s.svReceive ld p f a
      let s1 := s.countWrap F.RNG_SVCNT_SVRX ld p
      (f.stype ≠ 5 → f.stype ≠ 6 → exec (.serviceFrameForward ld p f a) s = .next u) ∧
      (f.stype = 1 → exec (.remoteMailboxRequest ld p f a) s = .next u) ∧
      (f.stype = 3 → exec (.bulkTransfer ld p f a) s = .next u) ∧
      (f.stype = 4 → exec (.diagnosticsRequest ld p f a) s = .next u) ∧
      ((s.admitted ld p && s.ringRuns ld) = false → u = s) ∧
      ((s.admitted ld p && s.ringRuns ld) = true →
        (s.filtered ld p 0x10 f.hdr = true → u = s.countFilter ld p f.hdr) ∧
        (s.filtered ld p 0x10 f.hdr = false → (f.stype = 0 ∨ 6 < f.stype → u = s1.count F.RNG_RXERR_FILT ld p) ∧
          (1 ≤ f.stype → f.stype ≤ 6 → (s.joined ld = false → u = s1) ∧
            (s.joined ld = true → s.inWindow ld p 0x10 a = false → u = s1.count F.RNG_TXSTAT_ACCREJ ld p)))) ∧
      (f.dst = s.node ld ∨ f.dst = 0 → s.svGoes ld p f = false) ∧ (f.orig = s.node ld → s.svMine ld f = false)) ∧
  (∀ (s : State) (ld p : Nat) (f : ServiceFrame) (a : Arrival), s.hasLd ld = true → p < 2 → s.admitted ld p = true →
      s.ringRuns ld = true → s.filtered ld p 0x10 f.hdr = false → s.joined ld = true → s.inWindow ld p 0x10 a = true →
      let counted := fun t : State => t.get F.RNG_SVCNT_SVRX ld p = (s.get F.RNG_SVCNT_SVRX ld p + 1) % 2 ^ F.RNG_SVCNT_SVRX.w
      let q := if s.portOut ld (1 - p) = true then p else 1 - p
      let v := s.svPort ld
      let queued := fun (t : State) (stype : Nat) (payload : List Byte) => ∃ h,
        (t.port ld v).queue = (s.port ld v).queue ++ [⟨false, ⟨h, f.orig, s.node ld, stype, 3, f.sseq, payload⟩⟩]
      let mine := f.orig ≠ s.node ld ∧ (f.dst = s.node ld ∨ f.dst = 0)
      let pl := f.payload
      let mb := fieldAt pl 0 1
      let die := fieldAt pl 1 1
      (1 ≤ f.stype → f.stype ≤ 4 → f.dst ≠ s.node ld → f.dst ≠ 0 → f.dst ≠ 8191 → (f.orig ≠ s.node ld ∨ s.sentOn ld f = p) → ∃ t,
        exec (.serviceFrameForward ld p f a) s = .next t ∧ counted t ∧
        ((s.port ld q).queue.length < 16 → (t.port ld q).queue = (s.port ld q).queue ++ [⟨true, f⟩] ∧
          OnlyFields { s with ports := t.ports } t [(F.RNG_SVCNT_SVRX, ld, p)]) ∧
        (16 ≤ (s.port ld q).queue.length → t.get F.RNG_RXERR_SVDROP ld q =
            min (s.get F.RNG_RXERR_SVDROP ld q + 1) (2 ^ F.RNG_RXERR_SVDROP.w - 1) ∧
          OnlyFields s t [(F.RNG_SVCNT_SVRX, ld, p), (F.RNG_RXERR_SVDROP, ld, q)])) ∧
      (f.stype = 1 → mine → s.namesMailbox pl = true →
        (s.mbState die mb ≠ mbPosted → ∃ t, exec (.remoteMailboxRequest ld p f a) s = .next t ∧ counted t ∧
          t.mbState die mb = mbPosted ∧ t.bytes (mbBase die mb) (pl.length - 4) = pl.drop 4 ∧
          t.rem die mb = ⟨true, f.orig, f.sseq, ld⟩ ∧
          t = State.withRegs { s with mem := t.mem, remote := t.remote, mbOrder := s.mbOrder ++ [(die, mb)] } t.regs) ∧
        (s.mbState die mb = mbPosted → (s.port ld v).queue.length < 16 → ∃ t, exec (.remoteMailboxRequest ld p f a) s = .next t ∧
          counted t ∧ queued t 2 (remotePayload mb die (reply (pl.drop 4) 6 St.mbBusy [])) ∧
          OnlyFields { s with ports := t.ports } t [(F.RNG_SVCNT_SVRX, ld, p), (F.MB_MBCTL_WARDEN, die, mb)])) ∧
      (f.stype = 3 → mine → ∃ t, exec (.bulkTransfer ld p f a) s = .next t ∧ counted t ∧
        t.xferF = (if s.lds.any s.svUp = true ∧ mb = 1 then s.xferF.bulk pl else s.xferF) ∧
        t.xferC = (if s.lds.any s.svUp = true ∧ mb = 2 then s.xferC.bulk pl else s.xferC) ∧
        OnlyFields { s with xferF := t.xferF, xferC := t.xferC } t [(F.RNG_SVCNT_SVRX, ld, p)]) ∧
      (f.stype = 4 → mine → pl = [] → f.sflg.testBit 1 = false → (s.port ld v).queue.length < 16 → ∃ t,
        exec (.diagnosticsRequest ld p f a) s = .next t ∧ counted t ∧ queued t 4 (List.replicate 32 0) ∧
        OnlyFields { s with ports := t.ports } t [(F.RNG_SVCNT_SVRX, ld, p)])) ∧
  (∀ (x : Transfer) (pl : List Byte),
      let off := beNat ((pl.drop 4).take 4)
      let named := x.xfer ≠ 0 ∧ beNat ((pl.drop 2).take 2) = x.xfer
      (named → 9 ≤ pl.length → fieldAt pl 1 1 = 0 → off + (pl.length - 8) ≤ x.len → x.bulk pl = x.write off (pl.drop 8)) ∧
      (¬named ∨ x.len < off + (pl.length - 8) → x.bulk pl = x)) ∧
  (∀ (s : State) (ld p pos : Nat) (q : QFrame), s.hasLd ld = true → p < 2 → s.maySend ld p = true →
      nextFrame (s.port ld p).queue = some q → s.fits ld 0x10 pos ((s.svBytes ld p q).length + 4) = true → ∃ t,
      exec (.serviceFrameSend ld ⟨p, pos⟩) s = .next t ∧ t.sent = [(2 * ld + p, withFcs true (s.svBytes ld p q))] ∧
      (t.port ld p).queue = (s.port ld p).queue.erase q ∧
      t.get F.RNG_SVCNT_SVTX ld p = (s.get F.RNG_SVCNT_SVTX ld p + 1) % 2 ^ F.RNG_SVCNT_SVTX.w ∧
      OnlyFields { s with ports := t.ports, sent := t.sent } t [(F.RNG_SVCNT_SVTX, ld, p)] ∧
      ((∃ x ∈ (s.port ld p).queue, x.fwd = true) → q.fwd = true)) ∧
  (∀ (s : State) (ld p t1 t2 t3 t4 pos ra rb : Nat) (f : ServiceFrame) (a : Arrival), s.hasLd ld = true → p < 2 → s.measures ld p = true →
      let in_ := s.filtered ld p 0x10 f.hdr = false ∧ (s.joined ld = true → s.inWindow ld p 0x10 a = true)
      (f.stype = 5 → in_ → f.payload = [] → s.delaySends ld ((a.t + stampDiff t3 t2) / (8 * 65536) - 7).toNat = true → ∃ t,
        exec (.linkDelayRequest ld p f a ⟨t2, t3⟩) s = .next t ∧
        t.sent = [(2 * ld + p, withFcs true (s.frameOf ld p 0x10 (svcBody (s.delayFrame ld p 6 3 f.sseq (msbBytes 8 t2 ++ msbBytes 8 t3)))))] ∧
        OnlyFields { s with sent := t.sent } t [(F.RNG_SVCNT_SVRX, ld, p), (F.RNG_SVCNT_SVTX, ld, p)]) ∧
      (s.requestDue ld p t1 = true → s.delaySends ld pos = true → ∃ t, exec (.linkDelayRequestSend ld ⟨p, pos⟩ t1) s = .next t ∧
        t.sent = [(2 * ld + p, withFcs true (s.frameOf ld p 0x10 (svcBody (s.delayFrame ld p 5 1 (((s.port ld p).reqSeq + 1) % 65536) []))))] ∧
        (t.port ld p).reqSeq = ((s.port ld p).reqSeq + 1) % 65536 ∧ (t.port ld p).reqOut = true ∧ (t.port ld p).reqT1 = t1 ∧
        OnlyFields { s with ports := t.ports, sent := t.sent } t [(F.RNG_SVCNT_SVTX, ld, p)]) ∧
      (f.stype = 6 → in_ → ((s.port ld p).reqOut = false ∨ f.sseq ≠ (s.port ld p).reqSeq) → ∃ t,
        exec (.linkDelayResponse ld p f a t4 ⟨ra, rb⟩) s = .next t ∧ OnlyFields s.sending t [(F.RNG_SVCNT_SVRX, ld, p)]) ∧
      (f.stype = 6 → in_ → (s.port ld p).reqOut = true → f.sseq = (s.port ld p).reqSeq → f.payload.length = 16 → ∃ t,
        exec (.linkDelayResponse ld p f a t4 ⟨ra, rb⟩) s = .next t ∧ (t.port ld p).reqOut = false ∧
        ((s.port ld p).samples = [] →
          let back := stampDiff (beNat ((f.payload.drop 8).take 8)) (beNat (f.payload.take 8))
          t.get F.RNG_LDELAY_DELAY ld p =
            min (2 ^ 24 - 1) ((((stampDiff t4 (s.port ld p).reqT1 : Int) - back) / 2).toNat / 2 ^ 14))))

/-- The RWL gate of a die is open only while fresh readings of both seal readers say open (14). -/
def Obligations.TheSealGateFollowsBothReaders : Prop :=
  (∀ (s : State) (f0 a an b bn : Bool),
      let die := if f0 then 2 else 0
      let isOpen := a && !an && b && !bn
      let fenced := if f0 then s.fenced U.field 2 0 else s.fenced U.logic 0 0
      let run := if isOpen && !fenced then min (s.get (sealFld die 16 8 .rst) die 0 + 1) 20 else 0
      ∃ t, exec (.sealSample f0 a an b bn) s = .next t ∧ t.get (sealFld die 16 8 .rst) die 0 = run ∧
        (t.sealSt die).own = (decide (20 ≤ run) && !fenced) ∧
        t.gate die = (t.readingL0 die && t.readingF0 die && !fenced) ∧
        (isOpen = false → t.gate die = false) ∧ t.mem = s.mem ∧ t.flash = s.flash ∧ t.otp = s.otp) ∧
  (∀ (s : State) (die tick : Nat) (fromF0 complete : Bool) (flips : List (Nat × Nat)), s.hasDie die = true →
      (die ≠ 2 ∨ fromF0 = false) →
      let x := Transit.parts tick flips complete
      let fenced := if die < 2 then s.fenced U.logic die 0 else s.fenced U.field die 0
      let got := (if s.sealWindow = true then s.sealContent die fromF0 else none).bind fun b =>
        x.receive (s.tickOf die) (s.tickOf (if die = 0 then 2 else 0)) [BitVec.ofNat 8 b.toNat]
      (got = none → exec (.sealMessage die fromF0 tick flips complete) s = .next s) ∧
      (∀ bs, got = some bs → ∃ t, exec (.sealMessage die fromF0 tick flips complete) s = .next t ∧
        (if fromF0 then (t.sealSt die).f0 = (bs.headD 0 != 0) ∧ (t.sealSt die).f0Tick = s.tickOf die + 1 ∧ (t.sealSt die).l0 = (s.sealSt die).l0
          else (t.sealSt die).l0 = (bs.headD 0 != 0) ∧ (t.sealSt die).l0Tick = s.tickOf die + 1 ∧ (t.sealSt die).f0 = (s.sealSt die).f0) ∧
        t.gate die = (t.readingL0 die && t.readingF0 die && !fenced) ∧ t.mem = s.mem) ∧
      (complete = false ∨ s.sealWindow = false → got = none) ∧
      (∀ b, s.sealWindow = true → s.sealContent die fromF0 = some b → tick = 0 → flips = [] → complete = true → s.tickOf die = s.tickOf (if die = 0 then 2 else 0) →
        got = some [BitVec.ofNat 8 b.toNat]))

/-- A mailbox rings, completes, is acknowledged and answered by the warden only from the states of its table (12). -/
def Obligations.MailboxesMoveByTheirStateTable : Prop :=
  ∀ (s : State) (m : Master) (ld mb : Nat) (resp : List Byte), s.hasLd ld = true → mb < 8 →
    let refusedAs := fun (t : State) => t.get F.MB_MBCNT_OWNERR ld mb =
        min (s.get F.MB_MBCNT_OWNERR ld mb + 1) (2 ^ F.MB_MBCNT_OWNERR.w - 1) ∧ (mb < 4 → t.get F.MB_HPSTAT_OWN 0 0 = 1) ∧
      OnlyFields { s with busErr := t.busErr } t [(F.MB_MBCNT_OWNERR, ld, mb), (F.MB_HPSTAT_OWN, 0, 0)]
    (s.isClient m ld mb = true → (0x20 ≤ m.code ∨ s.portHeld m = false ∧ s.route m (regAddr .MB_MBCTL ld mb) = 0) →
      (s.mbState ld mb ≠ mbPosted → ∃ t, exec (.mailboxRing m ld mb) s = .next t ∧ t.mbState ld mb = mbPosted ∧
        t.get F.MB_MBCNT_REQS ld mb = (s.get F.MB_MBCNT_REQS ld mb + 1) % 2 ^ F.MB_MBCNT_REQS.w ∧
        t.mbOrder = s.mbOrder ++ [(ld, mb)] ∧
        OnlyFields { s with mbOrder := t.mbOrder, busErr := t.busErr } t [(F.MB_MBCTL_STATE, ld, mb), (F.MB_MBCNT_REQS, ld, mb)]) ∧
      (s.mbState ld mb = mbPosted → ∃ t, exec (.mailboxRing m ld mb) s = .next t ∧ refusedAs t) ∧
      (s.mbState ld mb = mbDoneSt → ∃ t, exec (.mailboxAck m ld mb) s = .next t ∧ t.mbState ld mb = mbIdle ∧
        OnlyFields { s with busErr := t.busErr } t [(F.MB_MBCTL_STATE, ld, mb)]) ∧
      (s.mbState ld mb ≠ mbDoneSt → ∃ t, exec (.mailboxAck m ld mb) s = .next t ∧ refusedAs t)) ∧
    (0x20 ≤ m.code → s.isClient m ld mb = false → exec (.mailboxRing m ld mb) s = .next (s.refuse .MB_MBCTL ld mb m 6)) ∧
    (s.get F.MB_MBCTL_SERVER ld mb ≠ 0 → s.svReaches (s.get F.MB_MBCTL_SERVER ld mb - 1) ld mb = true →
      (s.mbState ld mb = mbPosted → s.servedNext ld mb = true → ∃ t, exec (.mailboxComplete ld mb resp) s = .next t ∧ t = s.mbRespond ld mb resp ∧
        t.mbState ld mb = (if (s.rem ld mb).on then mbIdle else mbDoneSt) ∧ t.get F.MB_MBSEQ_SYNC ld mb = 1) ∧
      (s.mbState ld mb ≠ mbPosted → exec (.mailboxComplete ld mb resp) s = .next (s.count F.MB_MBCNT_OWNERR ld mb))) ∧
    (s.get F.MB_MBCTL_SERVER ld mb = 0 → s.mbState ld mb = mbPosted → ∃ t, exec (.wardenAnswer ld mb) s = .next t ∧
      t.mbState ld mb = (if (s.rem ld mb).on then mbIdle else mbDoneSt) ∧ t.get F.MB_MBSEQ_RSPHELD ld mb = 0 ∧
      t.get F.MB_MBSEQ_LAST ld mb = s.get F.MB_MBSEQ_LAST ld mb ∧ t.get F.MB_MBCTL_WARDEN ld mb = 1 ∧
      fieldAt (t.response ld mb) 10 2 = (if s.fenced U.sv ld 0 then 0x31 else 0x30))

/-- A request that fails a check is answered with that check's status and has no other effect; a retransmission executes nothing (12, 13). -/
def Obligations.RequestsAreCheckedBeforeTheyAct : Prop :=
  ∀ (s : State) (ld mb : Nat) (same : List Nat), s.hasLd ld = true → mb < 8 →
    let q := s.req ld mb
    let none2 := fun (st : Nat) => (.next (s.answered s ld mb st []) : Answer)
    ∀ x ∈ ([(.identify ld mb, 0x0001, lenIs 0), (.status ld mb, 0x0002, lenIs 0), (.diagRead ld mb, 0x0003, lenIs 8),
        (.configBegin ld mb, 0x0010, lenIs 16), (.configChunk ld mb, 0x0011, lenData), (.configCommit ld mb, 0x0012, lenIs 4),
        (.commissionAck ld mb, 0x0013, lenIs 36), (.fwActivate ld mb, 0x0021, lenIs 8), (.ringStatus ld mb, 0x0030, lenIs 4),
        (.countersRead ld mb, 0x0031, lenIs 4), (.regRead ld mb, 0x0101, lenIs 8), (.regWrite ld ⟨mb, same⟩, 0x0102, lenEntries),
        (.laneMigrate ld mb, 0x0110, lenIs 8), (.cellSwap ld mb, 0x0111, lenIs 8), (.bistRun ld mb, 0x0120, lenIs 8),
        (.crcJob ld mb, 0x0122, lenIs 28), (.ringSchedule ld mb, 0x0130, lenIs 20), (.lcAdvance ld mb, 0x0141, lenIs 8),
        (.hoRestart ld mb, 0x0201, lenIs 4), (.hoDone ld mb, 0x0202, lenIs 4)] : List (Instr × Nat × (List Byte → Bool))),
      s.serverReady ld mb = true →
      (492 < q.len → exec x.1 s = none2 St.badLength) ∧
      (q.len ≤ 492 → fieldAt q.bytes (16 + q.len) 4 ≠ crc32c (q.bytes.take (16 + q.len)) → exec x.1 s = none2 St.badCrc) ∧
      (q.len ≤ 492 → fieldAt q.bytes (16 + q.len) 4 = crc32c (q.bytes.take (16 + q.len)) →
        (2 ≤ fieldAt q.bytes 6 1 ∨ 2 ≤ fieldAt q.bytes 7 1 ∨ fieldAt q.bytes 10 2 ≠ 0 ∨ fieldAt q.bytes 12 4 ≠ 0) →
        exec x.1 s = none2 St.badHeader) ∧
      (q.formStatus = 0 →
        (s.flag F.MB_MBSEQ_SYNC ld mb = true → q.seq = s.get F.MB_MBSEQ_LAST ld mb →
          q.seq ≠ (s.get F.MB_MBSEQ_LAST ld mb + 1) % 65536 →
          exec x.1 s = if s.flag F.MB_MBSEQ_RSPHELD ld mb then .next (s.mbFinish ld mb 0) else none2 St.duplicate) ∧
        (s.flag F.MB_MBSEQ_SYNC ld mb = true → q.seq ≠ s.get F.MB_MBSEQ_LAST ld mb →
          q.seq ≠ (s.get F.MB_MBSEQ_LAST ld mb + 1) % 65536 → exec x.1 s = none2 St.seqErr) ∧
        (s.seqCase ld mb q.seq = .new → opRow q.op = none → exec x.1 s = none2 St.unknownOpcode) ∧
        (s.seqCase ld mb q.seq = .new → q.op = x.2.1 → ∀ r, opRow x.2.1 = some r →
          ((fieldAt q.bytes 7 1).testBit 0 ≠ isExpert x.2.1 → exec x.1 s = none2 St.expertRequired) ∧
          ((fieldAt q.bytes 7 1).testBit 0 = isExpert x.2.1 →
            (s.mbAdmits mb x.2.1 r = false → exec x.1 s = none2 St.notPermitted) ∧
            (s.mbAdmits mb x.2.1 r = true →
              (q.signed = false → r.changing = true → (mb = 4 ∨ mb = 5) → exec x.1 s = none2 St.authRequired) ∧
              (q.signed = true → if s.reqSigned q then (s.counterOk mb q = false → exec x.1 s = none2 St.counterStale)
                else exec x.1 s = none2 St.authFail) ∧
              ((s.authorise mb q r).2 = 0 →
                let c := s.accepted ld mb
                (c.columnStatus x.2.1 r (s.serverDie ld mb) ≠ 0 →
                  exec x.1 s = .next (s.answered c ld mb (c.columnStatus x.2.1 r (s.serverDie ld mb)) [])) ∧
                (c.columnStatus x.2.1 r (s.serverDie ld mb) = 0 → x.2.2 q.own = false →
                  exec x.1 s = .next (s.answered c ld mb St.badLength [])))))))

/-- An answered request leaves its response in the buffer, with its header copied and a valid CRC, and its mailbox DONE (12). -/
def Obligations.AResponseStandsInItsBuffer : Prop :=
  ∀ (s u : State) (ld mb status : Nat) (payload : List Byte), mb < 8 → payload.length ≤ 492 → status < 2 ^ 16 →
    let q := s.req ld mb
    let t := s.answered u ld mb status payload
    let m := Machine.reply q.bytes 2 status payload
    m.length = 20 + payload.length ∧ fieldAt m (16 + payload.length) 4 = crc32c (m.take (16 + payload.length)) ∧
    fieldAt m 4 2 = payload.length ∧ fieldAt m 6 1 = 2 ∧ fieldAt m 10 2 = status ∧ (m.drop 16).take payload.length = payload ∧
    fieldAt m 0 2 = fieldAt q.bytes 0 2 ∧ fieldAt m 2 2 = fieldAt q.bytes 2 2 ∧ fieldAt m 8 2 = fieldAt q.bytes 8 2 ∧
    (t.response ld mb).take m.length = m ∧
    (∀ a, (a < mbBase ld mb + 512 ∨ mbBase ld mb + 1024 ≤ a) → t.byte a = u.byte a) ∧
    t.mbState ld mb = (if (u.rem ld mb).on then mbIdle else mbDoneSt) ∧ t.get F.MB_MBCTL_WARDEN ld mb = 0 ∧
    t.get F.MB_MBSEQ_SYNC ld mb = 1 ∧
    (keepsSeq status = false → t.get F.MB_MBSEQ_LAST ld mb = q.seq % 2 ^ 16 ∧ t.get F.MB_MBSEQ_RSPHELD ld mb = 1) ∧
    (keepsSeq status = true → t.get F.MB_MBSEQ_LAST ld mb = u.get F.MB_MBSEQ_LAST ld mb ∧
      t.get F.MB_MBSEQ_RSPHELD ld mb = u.get F.MB_MBSEQ_RSPHELD ld mb) ∧
    t.tick = u.tick ∧ t.flash = u.flash ∧ t.otp = u.otp ∧ t.image = u.image

/-- A host access reaches the mailboxes, HPSTAT and HPIEN by the host address map; anything else is ignored and sets RANGE, ALIGN or OWN (12). -/
def Obligations.HostAccessesFollowTheirMap : Prop :=
  ∀ s : State,
    (s.hostUp = true →
      (∀ a (b : Byte), a < 2 ^ 24 → ∃ t, exec (.hostWrite a [b]) s = .next t ∧ t.host.armed = false ∧
        (∀ ld mb off, s.hostArea a = .mbox ld mb off → off < 0x400 →
          (s.mbState ld mb ≠ mbPosted → t.byte (mbBase ld mb + off) = b ∧ (∀ x, x ≠ mbBase ld mb + off → t.byte x = s.byte x) ∧
            t = { s with mem := t.mem, host := t.host }) ∧
          (s.mbState ld mb = mbPosted → t.mem = s.mem ∧ (mb < 4 → t.get F.MB_HPSTAT_OWN 0 0 = 1))) ∧
        ((s.hostArea a).isWordReg = true → t.get F.MB_HPSTAT_ALIGN 0 0 = 1 ∧ t.mem = s.mem) ∧
        (s.hostArea a = .unmapped → t.get F.MB_HPSTAT_RANGE 0 0 = 1 ∧
          OnlyFields { s with host := t.host } t [(F.MB_HPSTAT_RANGE, 0, 0)])) ∧
      (∀ bs : List Byte, bs.length = 4 → ∃ t, exec (.hostWrite 0xF004 bs) s = .next t ∧
        t.get F.MB_HPIEN_ERRIEN 0 0 = bitsOf (leNat bs) 16 4 ∧ OnlyFields { s with host := t.host } t [(F.MB_HPIEN_ERRIEN, 0, 0)]) ∧
      (∀ a n, 1 ≤ n → a < 2 ^ 24 → ∃ t, exec (.hostRead a n) s = .next t ∧
        t.results = ((List.range n).map fun k => s.hostValue (a + k)) ∧ t.mem = s.mem ∧
        ((∃ k < n, s.hostArea (a + k) = .unmapped) → t.get F.MB_HPSTAT_RANGE 0 0 = 1)) ∧
      (∀ a, s.hostArea a = .unmapped → s.hostValue a = 0) ∧
      (∃ t, exec .readHstat s = .next t ∧ t.results = byteList (s.word .MB_HPSTAT 0 0) ∧ t = { s with results := t.results, host := ⟨false⟩ }) ∧
      (∃ t, exec .readId s = .next t ∧ t.results = byteList (s.word .SYSCTL_DEVID 0 0) ∧ t = { s with results := t.results, host := ⟨false⟩ }) ∧
      exec .resetEn s = .next { s with host := ⟨true⟩ } ∧
      (s.host.armed = false → exec .hostReset s = .next { s with host := ⟨false⟩ }) ∧
      (s.host.armed = true → ∃ t, exec .hostReset s = .next t ∧ (∀ f ∈ hpErrors, t.get f 0 0 = 0) ∧
        OnlyFields { s with host := ⟨false⟩ } t (hpErrors.map fun f => (f, 0, 0))) ∧
      (∀ code < 256, code ∉ hostCodes → ∃ t, exec (.hostUnknownInstruction code) s = .next t ∧ t.get F.MB_HPSTAT_BADINS 0 0 = 1 ∧
        OnlyFields { s with host := ⟨false⟩ } t [(F.MB_HPSTAT_BADINS, 0, 0)])) ∧
    (s.hostUp = false → ∀ a n (bs : List Byte), a < 2 ^ 24 → 1 ≤ n → bs ≠ [] → exec (.hostWrite a bs) s = .next s ∧
      exec (.hostRead a n) s = .next s ∧ exec .readHstat s = .next s ∧ exec .readId s = .next s ∧ exec .resetEn s = .next s ∧
      exec .hostReset s = .next s) ∧
    (∀ a, s.hostArea a = (if a < 0x4000 then .mbox 0 (a / 0x1000) (a % 0x1000)
      else if 0x8000 ≤ a ∧ a < 0xC000 ∧ s.variant = .cvsl808 then .mbox 1 ((a - 0x8000) / 0x1000) (a % 0x1000)
      else if 0xF000 ≤ a ∧ a < 0xF004 then .hpstat (a - 0xF000)
      else if 0xF004 ≤ a ∧ a < 0xF008 then .hpien (a - 0xF004) else .unmapped))

/-- IDENTIFY, STATUS, DIAG_READ, RING_STATUS, COUNTERS_READ and REG_READ answer OK with their layouts and change nothing but the mailbox (12, 13). -/
def Obligations.ReadCommandsAnswer : Prop :=
  ∀ (s : State) (ld mb : Nat),
    let c := s.accepted ld mb
    let q := s.req ld mb
    let p := q.own
    let sv := s.serverDie ld mb
    let ok := fun (t : State) (payload : List Byte) => (.next (s.answered t ld mb St.ok payload) : Answer)
    (s.Serves ld mb 0x0001 → p.length = 0 → exec (.identify ld mb) s = ok c (c.identify sv) ∧ (c.identify sv).length = 48 ∧
      fieldAt (c.identify sv) 0 4 = c.word .SYSCTL_DEVID 0 0 % 2 ^ 32 ∧ fieldAt (c.identify sv) 4 8 = c.devident % 2 ^ 64) ∧
    (s.Serves ld mb 0x0002 → p.length = 0 → ∀ t, t = (c.statusNow ld sv).st →
      exec (.status ld mb) s = ok t (t.statusBytes ld sv) ∧
      (t.statusBytes ld sv).length = 144 ∧ fieldAt (t.statusBytes ld sv) 2 6 = c.tick % 2 ^ 48 ∧
      t.flash = c.flash ∧ t.otp = c.otp ∧ t.image = c.image ∧ t.tick = c.tick ∧
      ((∀ e < 8, c.crcOfJob ld e = none) → t = { c with jobs := t.jobs, freeCtr := t.freeCtr }) ∧
      (∀ e < 8, t.job ld e = { c.job ld e with progress := (t.job ld e).progress } ∧
        ((c.job ld e).state ≠ 1 → t.job ld e = c.job ld e) ∧
        ((∀ k < 8, c.crcOfJob ld k = none) → (c.job ld e).progress ≤ 100 →
          (c.job ld e).progress ≤ (t.job ld e).progress ∧ (t.job ld e).progress ≤ 100))) ∧
    (s.Serves ld mb 0x0003 → p.length = 8 → zeros p 6 2 = true →
      ∀ l, l = ((c.diagRecords (fieldAt p 0 1) (fieldAt p 1 1)).drop (fieldAt p 2 2)).take
        (min (fieldAt p 4 2) (488 / diagSize (fieldAt p 0 1))) → l ≠ [] →
      exec (.diagRead ld mb) s = ok c (leBytes 1 (fieldAt p 0 1) ++ leBytes 1 0 ++ leBytes 2 l.length ++ l.flatten)) ∧
    (s.Serves ld mb 0x0030 → p.length = 4 → zeros p 1 3 = true → c.hasLd (fieldAt p 0 1) = true →
      (fieldAt p 0 1 = 1 → c.flag F.RNG_RINGCFG_ENABLE 1 0 = true) →
      exec (.ringStatus ld mb) s = ok c (c.wordsOf ([(.RNG_RINGCFG, fieldAt p 0 1, 0), (.RNG_TURNCFG, fieldAt p 0 1, 0),
        (.RNG_TSYNC, fieldAt p 0 1, 0), (.RNG_THG, fieldAt p 0 1, 0), (.RNG_TOFFS, fieldAt p 0 1, 0), (.RNG_TCNT, fieldAt p 0 1, 0)] ++
        portRegs (fieldAt p 0 1) 0 ++ portRegs (fieldAt p 0 1) 1))) ∧
    (s.Serves ld mb 0x0031 → p.length = 4 → zeros p 2 2 = true → c.counterWords (fieldAt p 0 1) (fieldAt p 1 1) ≠ [] →
      exec (.countersRead ld mb) s = ok c (p.take 2 ++ leBytes 2 (c.counterWords (fieldAt p 0 1) (fieldAt p 1 1)).length ++
        (c.counterWords (fieldAt p 0 1) (fieldAt p 1 1)).flatten)) ∧
    (s.Serves ld mb 0x0101 → p.length = 8 → zeros p 6 2 = true → fieldAt p 0 4 % 4 = 0 → 1 ≤ fieldAt p 4 2 → fieldAt p 4 2 ≤ 120 →
      ∀ r, r = c.readRun (Master.sv sv) (fieldAt p 0 4) (fieldAt p 4 2) → 
      exec (.regRead ld mb) s = .next (s.answered r.1 ld mb (if r.2.2 then St.ok else St.regRefused)
        (leBytes 2 r.2.1.length ++ leBytes 2 0 ++ r.2.1.flatMap fun w => leBytes 4 w)) ∧
      (r.2.2 = true → r.2.1.length = fieldAt p 4 2) ∧ (r.2.2 = false → r.2.1.length < fieldAt p 4 2))

/-- Transfers open with the next XFER and take pieces within their length; acknowledgement, activation and handover commands act (12, 13, 14, 19). -/
def Obligations.TransfersOpenAndTakeTheirData : Prop :=
  ∀ (s : State) (ld mb : Nat),
    let c := s.accepted ld mb
    let q := s.req ld mb
    let p := q.own
    let ok := fun (t : State) (payload : List Byte) => (.next (s.answered t ld mb St.ok payload) : Answer)
    (s.Serves ld mb 0x0010 → p.length = 16 → ∀ n, soakN (fieldAt p 14 2) = some n → 64 ≤ fieldAt p 0 4 → fieldAt p 0 4 ≤ 1048576 →
      fieldAt p 12 1 ≤ 1 → zeros p 13 1 = true → c.busyJob = false →
      exec (.configBegin ld mb) s = ok { c with xferSeq := c.nextXfer, xferC := ⟨c.nextXfer, fieldAt p 0 4, fieldAt p 4 4, fieldAt p 8 4,
        fieldAt p 12 1, n, []⟩ } (leBytes 2 c.nextXfer ++ leBytes 2 0) ∧ c.nextXfer ≠ 0 ∧ c.nextXfer < 65536) ∧
    (s.Serves ld mb 0x0011 → 9 ≤ p.length → zeros p 2 2 = true →
      (c.xferC.is (fieldAt p 0 2) = true → fieldAt p 4 4 + (p.length - 8) ≤ c.xferC.len →
        ∀ t, t = c.xferC.write (fieldAt p 4 4) (p.drop 8) →
        exec (.configChunk ld mb) s = ok { c with xferC := t } (leBytes 4 t.received ++ leBytes 4 0)) ∧
      (c.xferC.is (fieldAt p 0 2) = false → exec (.configChunk ld mb) s = .next (s.answered c ld mb St.xferUnknown [])) ∧
      (c.xferC.is (fieldAt p 0 2) = true → c.xferC.len < fieldAt p 4 4 + (p.length - 8) →
        exec (.configChunk ld mb) s = .next (s.answered c ld mb St.badParam []))) ∧
    (s.Serves ld mb 0x0013 → p.length = 36 → c.image.loaded = true → c.part.vio = false → p.take 32 = beBytes 32 c.image.hash →
      fieldAt p 32 4 = c.image.img.imgver → exec (.commissionAck ld mb) s = ok c.commission [] ∧ c.commission.image.commissioned = true) ∧
    (s.Serves ld mb 0x0020 → p.length = 12 → fieldAt p 0 4 = 0 → 1024 ≤ fieldAt p 4 4 → fieldAt p 4 4 ≤ 1048576 →
      exec (.fwStageOpen ld mb) s = ok { c with xferSeq := c.nextXfer, xferF := ⟨c.nextXfer, fieldAt p 4 4, 0, fieldAt p 8 4, 0, 0, []⟩ }
        (leBytes 2 c.nextXfer ++ leBytes 2 0)) ∧
    (s.Serves ld mb 0x0020 → 9 ≤ p.length → fieldAt p 0 1 = 1 → zeros p 1 1 = true → c.xferF.is (fieldAt p 2 2) = true →
      fieldAt p 4 4 + (p.length - 8) ≤ c.xferF.len → ∀ t, t = c.xferF.write (fieldAt p 4 4) (p.drop 8) →
      exec (.fwStageData ld mb) s = ok { c with xferF := t } (leBytes 4 t.received ++ leBytes 4 0)) ∧
    (s.Serves ld mb 0x0021 → p.length = 8 → fieldAt p 4 1 ≤ 1 → zeros p 5 3 = true → c.busyJob = false →
      c.fwStaged = some (fieldAt p 0 4) → c.part.vio = false → (c.hasLd 1 = false ∨ fieldAt p 4 1 = 1) → s.otherFree ld mb = true → ∃ t,
      exec (.fwActivate ld mb) s = .next t ∧ t = (s.answered (c.activate (fieldAt p 0 4)) ld mb St.ok []).restartSv ld ∧
      (t.svst ld).restarting = true) ∧
    (s.Serves ld mb 0x0021 → p.length = 8 → fieldAt p 4 1 = 0 → zeros p 5 3 = true → c.busyJob = false →
      c.fwStaged = some (fieldAt p 0 4) → c.part.vio = false → c.hasLd 1 = true → s.otherFree ld mb = true → ∀ h, h = c.sendHoRestart ld →
      (h.2 = true → exec (.fwActivate ld mb) s = .next ((s.answered (h.1.activate (fieldAt p 0 4)) ld mb St.ok []).restartSv ld)) ∧
      (h.2 = false → exec (.fwActivate ld mb) s = .next (s.answered h.1 ld mb St.noStandby []))) ∧
    (s.Serves ld mb 0x0201 → p.length = 4 → (fieldAt p 0 1 = 1 ∨ fieldAt p 0 1 = 2) → zeros p 1 3 = true →
      exec (.hoRestart ld mb) s = ok c []) ∧
    (s.Serves ld mb 0x0202 → p.length = 4 → exec (.hoDone ld mb) s = ok c.moveLeases [])

/-- CONFIG_COMMIT, FW_STAGE close, LANE_MIGRATE, CELL_SWAP, BIST_RUN and CRC_JOB answer STARTED with a JOBID, or do nothing (12, 13, 15, 16). -/
def Obligations.JobsStartWithTheirIdentity : Prop :=
  ∀ (s : State) (ld mb : Nat),
    let c := s.accepted ld mb
    let q := s.req ld mb
    let p := q.own
    let sv := s.serverDie ld mb
    let started := fun (e op : Nat) (f : State → State) =>
      (.next (s.answered (f (c.startJob ld sv e op q.tag).1) ld mb St.started [BitVec.ofNat 8 (c.startJob ld sv e op q.tag).2, 0, 0, 0]) : Answer)
    (∀ e op, let t := (c.startJob ld sv e op q.tag).1
      (t.job ld e).state = 1 ∧ (t.job ld e).op = op ∧ (t.job ld e).tag = q.tag ∧ (t.job ld e).fstatus = 1 ∧
        (t.job ld e).sv = sv ∧ (t.job ld e).id = (c.startJob ld sv e op q.tag).2 ∧ (t.svst ld).nextJob ≠ 0 ∧ (∀ k, k ≠ e → k < 8 → e < 8 → t.job ld k = c.job ld k)) ∧
    (s.Serves ld mb 0x0012 → p.length = 4 → zeros p 2 2 = true → c.xferC.is (fieldAt p 0 2) = true →
      (∀ e, c.busyJob = false → c.jobSlot ld = some e → exec (.configCommit ld mb) s = started e 0x0012 fun t => t.commitJob ld e) ∧
      (c.busyJob = false → c.jobSlot ld = none → exec (.configCommit ld mb) s = .next (s.answered c ld mb St.noResource [])) ∧
      (c.busyJob = true → exec (.configCommit ld mb) s = .next (s.answered c ld mb St.inProgress []))) ∧
    (s.Serves ld mb 0x0020 → p.length = 4 → fieldAt p 0 1 = 2 → zeros p 1 1 = true → c.xferF.is (fieldAt p 2 2) = true →
      ∀ e, c.jobSlot ld = some e → exec (.fwStageClose ld mb) s = started e 0x0020 fun t => t.fwClose ld sv e) ∧
    (s.Serves ld mb 0x0110 → p.length = 8 → ∀ n k e, soakN (fieldAt p 4 2) = some n →
      let sd := fieldAt p 0 1
      let sl := fieldAt p 1 1
      let td := fieldAt p 2 1
      let tl := fieldAt p 3 1
      c.hasLd sd = true → c.hasLd td = true → sl < 8 → tl < 8 → fieldAt p 6 1 ≤ 1 → zeros p 7 1 = true → c.logicalOn sd sl = some k →
      (td ≠ sd → c.hasStandby ((c.imageDie sd k).getD sd) k = true) → c.fenced U.lane sd sl = false → c.targetOk sd sl td tl k = true →
      (c.busyJob = true → exec (.laneMigrate ld mb) s = .next (s.answered c ld mb St.inProgress [])) ∧
      (c.busyJob = false → c.jobSlot ld = some e → exec (.laneMigrate ld mb) s = started e 0x0110 fun t =>
        { t.prepareLane sd sl td tl with soak := some (newSoak .migration e ld sd sl td tl n (t.tick + 2) (fieldAt p 6 1) k) })) ∧
    (s.Serves ld mb 0x0111 → p.length = 8 → ∀ n e, soakN (fieldAt p 6 2) = some n →
      let d := fieldAt p 0 1
      let a := fieldAt p 2 2
      let b := fieldAt p 4 2
      2 ≤ d → c.hasDie d = true → a < 144 → b < 144 → zeros p 1 1 = true → c.flag F.HC_HCFG_ACTIVE d a = true →
      c.flag F.HC_HCFG_ACTIVE d b = false → c.fenced U.cell d b = false →
      (c.busyJob = true → exec (.cellSwap ld mb) s = .next (s.answered c ld mb St.inProgress [])) ∧
      (c.busyJob = false → c.jobSlot ld = some e → c.fenced U.cell d a = false → exec (.cellSwap ld mb) s = started e 0x0111 fun t =>
        { t with soak := some (newSoak .cellSwap e ld (d - 2) a (d - 2) b n (t.tick + 2) 0 0) }) ∧
      (c.busyJob = false → c.jobSlot ld = some e → c.fenced U.cell d a = true → exec (.cellSwap ld mb) s = started e 0x0111 fun t =>
        (t.swapFenced (d - 2) a b).endJob ld e 0 (t.tick % 2 ^ 32))) ∧
    (s.Serves ld mb 0x0120 → p.length = 8 → ∀ n e, patternCount (fieldAt p 4 4) = some n →
      let d := fieldAt p 0 1
      let eng := bistEngine (fieldAt p 1 1) (fieldAt p 2 2)
      c.hasDie d = true → d < 2 → c.SvMayWrite sv .LBIST_CTL d eng (decide (fieldAt p 1 1 = U.sv)) → 1 ≤ fieldAt p 1 1 → fieldAt p 1 1 ≤ 3 → fieldAt p 2 2 < freqCount (fieldAt p 1 1) →
      (c.bistBusy sv d eng = true → exec (.bistRun ld mb) s = .next (s.answered c ld mb St.unitBusy [])) ∧
      (c.bistBusy sv d eng = false → c.jobSlot ld = some e →
        ((c.put F.LBIST_CFG_PCNT d eng n).bistStart d eng).jobSlot ld = some e →
        ∃ t, exec (.bistRun ld mb) s = .next t ∧ (t.svst d).bistJobs.getLast? = some (eng, 8 * ld + e))) ∧
    (s.Serves ld mb 0x0122 → p.length = 28 → ∀ set e, crcSetOf p = some set →
      let d := fieldAt p 0 1
      let n := fieldAt p 1 1
      c.hasLd d = true → n < 8 → zeros p 17 3 = true → 1 ≤ fieldAt p 24 4 → fieldAt p 20 4 + fieldAt p 24 4 ≤ 0x400000 →
      c.SvMayWrite sv .FENCE_LEASE d n false →
      (c.pairBusy d n = true → exec (.crcJob ld mb) s = .next (s.answered c ld mb St.unitBusy [])) ∧
      (c.pairBusy d n = false → c.jobSlot ld = some e → exec (.crcJob ld mb) s = started e 0x0122 fun t =>
        (t.setSv d { t.svst d with crcJobs := (t.svst d).crcJobs ++ [(n, 8 * ld + e)] }).crcStart d n (fieldAt p 20 4) (fieldAt p 24 4) set))

/-- REG_WRITE, FENCE_CTL, RING_SCHEDULE, OTP_PROGRAM and LC_ADVANCE do what they name, or answer why not (10, 12, 13, 15, 18). -/
def Obligations.ExpertCommandsActThroughTheirUnits : Prop :=
  ∀ (s : State) (ld mb : Nat),
    let c := s.accepted ld mb
    let q := s.req ld mb
    let p := q.own
    let sv := s.serverDie ld mb
    let ok := fun (t : State) (payload : List Byte) => (.next (s.answered t ld mb St.ok payload) : Answer)
    let no := fun (t : State) (st : Nat) => (.next (s.answered t ld mb st []) : Answer)
    (∀ same : List Nat, s.Serves ld mb 0x0102 → lenEntries p = true → regEntries p ≠ [] → (regEntries p).length ≤ 40 → zeros p 2 2 = true →
      (∀ k, (regEntries p).findIdx? (fun e => !c.boundsOk e) = some k →
        exec (.regWrite ld ⟨mb, same⟩) s = .next (s.answered c ld mb St.bounds (regAnswer 0 k))) ∧
      ((regEntries p).findIdx? (fun e => !c.boundsOk e) = none → ∀ w, w = c.writeRun (Master.sv sv) same (regEntries p) →
        exec (.regWrite ld ⟨mb, same⟩) s = (if w.2 = (regEntries p).length then ok w.1 (regAnswer w.2 0xFFFF)
          else .next (s.answered w.1 ld mb St.writeRefused (regAnswer w.2 w.2))))) ∧
    (s.Serves ld mb 0x0112 → p.length = 8 → zeros p 3 1 = true → zeros p 6 2 = true → ∀ d i, c.unitOf (fieldAt p 1 1) (fieldAt p 2 1) (fieldAt p 4 2) = some (d, i) →
      c.SvMayWrite sv (freqReg d) d 0 (freqOther (fieldAt p 2 1)) →
      (fieldAt p 0 1 = 1 → ¬(fieldAt p 2 1 = U.sv ∧ d = sv) →
        exec (.fenceCtlFence ld mb) s = ok (c.ctlFence d (fieldAt p 2 1) i) []) ∧
      (fieldAt p 0 1 = 2 → fieldAt p 2 1 ≠ U.term → fieldAt p 2 1 ≠ U.field → exec (.fenceCtlClear ld mb) s =
        (if c.ctlClearOk d (fieldAt p 2 1) i then ok (c.ctlClear d (fieldAt p 2 1) i) [] else no c St.clearRefused))) ∧
    (s.Serves ld mb 0x0130 → p.length = 20 → zeros p 1 3 = true → c.hasLd (fieldAt p 0 1) = true →
      (c.flag F.RNG_RINGCFG_ENABLE (fieldAt p 0 1) 0 = true → exec (.ringSchedule ld mb) s = no c St.ringActive) ∧
      (c.flag F.RNG_RINGCFG_ENABLE (fieldAt p 0 1) 0 = false → ∀ w, w = c.writeRun (Master.sv sv) [] (c.scheduleWords (fieldAt p 0 1) p) →
        (w.2 ≠ 4 → ∃ u, exec (.ringSchedule ld mb) s = no u St.writeRefused ∧ u.rings = c.rings ∧ u.ports = c.ports) ∧
        (w.2 = 4 → exec (.ringSchedule ld mb) s = ok w.1 (w.1.wordsOf [(.RNG_TURNCFG, fieldAt p 0 1, 0), (.RNG_SLSERV, fieldAt p 0 1, 0),
          (.RNG_SLFURR, fieldAt p 0 1, 0), (.RNG_SLSPATE, fieldAt p 0 1, 0)])))) ∧
    (∀ reburn : Bool, s.Serves ld mb 0x0140 → p.length = 16 → fieldAt p 0 1 ≤ 7 → fieldAt p 2 2 ≤ 255 → zeros p 1 1 = true →
      zeros p 13 3 = true → fieldAt p 12 1 = reburn.toNat →
      let w := 256 * fieldAt p 0 1 + fieldAt p 2 2
      let a := c.otpSettle
      let x := if reburn then exec (.otpReburn ld mb) s else exec (.otpProgram ld mb) s
      let u := a.otpRun (if reburn then 2 else 1) w (fieldAt p 4 8)
      (a.otpRefusal sv w (fieldAt p 4 8) reburn = 0 → x = ok u (leBytes 8 (if 16 ≤ w ∧ w ≤ 19 then 0 else (u.otpData w).getD 0) ++
        leBytes 1 (u.get F.OTP_OSTAT_WEAK 0 0) ++ leBytes 3 0)) ∧
      (a.otpRefusal sv w (fieldAt p 4 8) reburn = 1 → x = no a St.otpLocked) ∧
      (a.otpRefusal sv w (fieldAt p 4 8) reburn = 2 → x = no a St.otpRate) ∧
      (3 ≤ a.otpRefusal sv w (fieldAt p 4 8) reburn → x = no a St.otpMismatch)) ∧
    (s.Serves ld mb 0x0141 → p.length = 8 → 1 ≤ fieldAt p 0 1 → fieldAt p 0 1 ≤ 3 → zeros p 1 3 = true →
      let t := fieldAt p 0 1
      let a := c.otpSettle
      (fieldAt p 4 4 ≠ 0x4C430000 + t → exec (.lcAdvance ld mb) s = no c St.badParam) ∧
      (fieldAt p 4 4 = 0x4C430000 + t →
        (lcNext c.lc t = false → exec (.lcAdvance ld mb) s = no c St.lcOrder) ∧
        (lcNext c.lc t = true → sv ≠ 0 → exec (.lcAdvance ld mb) s = no c St.otpLocked) ∧
        (lcNext c.lc t = true → sv = 0 → a.get F.OTP_OSTAT_TOKENS 0 0 = 0 → exec (.lcAdvance ld mb) s = no a St.otpRate) ∧
        (lcNext c.lc t = true → sv = 0 → a.get F.OTP_OSTAT_TOKENS 0 0 ≠ 0 → (a.otpWord (3 + t)).prog = false →
          exec (.lcAdvance ld mb) s = ok (a.otpRun 1 (3 + t) 0x5A5A) [])))

/-- TILLER_CTL and TIMER_CTL read and set their unit and answer its registers (03, 12, 13, 15, 16). -/
def Obligations.TillerAndTimerCommandsAct : Prop :=
  ∀ (s : State) (ld mb : Nat),
    let c := s.accepted ld mb
    let q := s.req ld mb
    let p := q.own
    let sv := s.serverDie ld mb
    let ok := fun (t : State) (payload : List Byte) => (.next (s.answered t ld mb St.ok payload) : Answer)
    let no := fun (t : State) (st : Nat) => (.next (s.answered t ld mb st []) : Answer)
    (s.Serves ld mb 0x0121 → p.length = 8 → c.hasLd (fieldAt p 0 1) = true → zeros p 2 2 = true →
      let d := fieldAt p 0 1
      let v := fieldAt p 4 4
      (fieldAt p 1 1 = 0 → exec (.tillerCtlRead ld mb) s = ok c (c.tillerBytes d)) ∧
      (c.SvMayWrite sv .SPM_TCTL d 0 false → fieldAt p 1 1 = 1 → 10 ≤ v → v ≤ 1000 → exec (.tillerCtlSetPace ld mb) s =
        (if 50 < v ∧ c.tillerGate p = false then no c St.isSealed
          else ok (c.put F.SPM_TCTL_PACE d 0 v) ((c.put F.SPM_TCTL_PACE d 0 v).tillerBytes d))) ∧
      (c.SvMayWrite sv .SPM_TCTL d 0 false → fieldAt p 1 1 = 2 → exec (.tillerCtlPause ld mb) s = (if c.tillerGate p then
        ok (c.put F.SPM_TCTL_PAUSE d 0 1) ((c.put F.SPM_TCTL_PAUSE d 0 1).tillerBytes d) else no c St.isSealed)) ∧
      (c.SvMayWrite sv .SPM_TCTL d 0 false → fieldAt p 1 1 = 3 → exec (.tillerCtlResume ld mb) s =
        ok (c.put F.SPM_TCTL_PAUSE d 0 0) ((c.put F.SPM_TCTL_PAUSE d 0 0).tillerBytes d))) ∧
    (s.Serves ld mb 0x0123 → p.length = 20 → zeros p 3 1 = true → zeros p 16 4 = true →
      let d := fieldAt p 0 1
      ∀ n, c.ctlTimer d (fieldAt p 2 1) = some n → c.SvMayWrite sv (ctlReg d) d n false →
      let o := c.get (tmr d).owner d n
      let answers := fun (i : Instr) (t : State) => exec i s =
        ok (t.readRun (Master.sv sv) (regAddr (ctlReg d) d n) 7).1
          ((t.readRun (Master.sv sv) (regAddr (ctlReg d) d n) 7).2.1.flatMap fun w => leBytes 4 w)
      (fieldAt p 1 1 = 1 → o = 0 → c.fenced (timerKind d) d n = false →
        answers (.timerCtlAcquire ld mb) (c.put (tmr d).owner d n (svTimerCode d))) ∧
      (fieldAt p 1 1 = 1 → o ≠ 0 → exec (.timerCtlAcquire ld mb) s = no c St.unitBusy) ∧
      (fieldAt p 1 1 = 2 → o = svTimerCode d → answers (.timerCtlRelease ld mb) (c.timerFree d n)) ∧
      (fieldAt p 1 1 = 3 → o = svTimerCode d → (c.timerSet p d n).2 = 0 → answers (.timerCtlSet ld mb) (c.timerSet p d n).1) ∧
      (fieldAt p 1 1 = 3 → o = svTimerCode d → (c.timerSet p d n).2 ≠ 0 → exec (.timerCtlSet ld mb) s = no c St.writeRefused) ∧
      (fieldAt p 1 1 = 2 → o ≠ svTimerCode d → exec (.timerCtlRelease ld mb) s = no c St.unitBusy) ∧
      (fieldAt p 1 1 = 3 → o ≠ svTimerCode d → exec (.timerCtlSet ld mb) s = no c St.unitBusy) ∧
      (fieldAt p 1 1 = 4 → o = svTimerCode d → answers (.timerCtlRead ld mb) c) ∧
      (fieldAt p 1 1 = 4 → o ≠ svTimerCode d → exec (.timerCtlRead ld mb) s = no c St.unitBusy))

/-- Raising a fence marks the unit with its reason, logs it, puts its fields at their On-fence values and voids its pass record; a fenced unit keeps its fence (00, 08, 15, 17). -/
def Obligations.RaisingAFenceSetsItsUnitAside : Prop :=
  ∀ (s : State) (kind die idx reason : Nat),
    let t := s.raise kind die idx reason
    (s.fenced kind die idx = true → t = s.bistFence die kind idx ∧ t.fences = s.fences ∧ t.flog = s.flog ∧
      (10 ≤ bistEngine kind idx → t = s)) ∧
    (s.fenced kind die idx = false →
      t.fenced kind die idx = true ∧ (t.fence kind die idx).reason = reason ∧ (t.fence kind die idx).tick = s.fenceTick ∧
      (t.fence kind die idx).readmit = 0 ∧
      (∀ k d i, ¬(k = kind ∧ d = die ∧ i = idx) → t.fence k d i = s.fence k d i) ∧
      (Store.get (fun _ => []) t.flog die).head? = some ⟨s.tickOf die, die, kind, idx, reason⟩ ∧
      (∀ d, d ≠ die → Store.get (fun _ => []) t.flog d = Store.get (fun _ => []) s.flog d) ∧
      (∀ r ∈ unitRegs kind, ∀ G ∈ r.fields,
        (G.fen = .rst → t.get G die idx = G.resetAt die idx % 2 ^ G.w) ∧
        (G.fen = .safe → t.get G die idx = G.safe % 2 ^ G.w) ∧
        (G.fen ≠ .rst → G.fen ≠ .safe → t.get G die idx = s.get G die idx)) ∧
      t.mem = s.mem ∧ t.flash = s.flash ∧ t.otp = s.otp) ∧
    (bistEngine kind idx < 10 → t.get F.LBIST_REC_VALID die (bistEngine kind idx) = 0 ∧
      t.get F.LBIST_STAT_STATE die (bistEngine kind idx) ≠ 1 ∧ t.get F.LBIST_STAT_STATE die (bistEngine kind idx) ≠ 2)

/-- FREQ and FFREQ fence the unit they name, and end its fence where the condition of its clear holds; else nothing but the request register changes (00, 15, 22). -/
def Obligations.FenceRequestsActOnTheirUnit : Prop :=
  (∀ (s : State) (m : Master) (ld kind idx : Nat), s.hasLd ld = true →
      
      (WriteAdmitted s m .FENCE_FREQ ld 0 (m.isSvOf ld || m.isLane ld kind idx) (s.freqNames ld kind idx) →
        ∃ t, exec (.freqFence m ld kind idx) s = .next t ∧ t = (s.freqFence ld kind idx).respond false ∧
        t.fenced kind (if kind = U.inst then 0 else ld) idx = true) ∧
      (WriteAdmitted s m .FENCE_FREQ ld 0 (m.isSvOf ld) (s.freqNames ld kind idx) → ∃ t, exec (.freqClear m ld kind idx) s = .next t ∧
        ((s.putFreq ld kind idx 1).clearLogicOk ld kind idx = false →
          OnlyFields { s with busErr := t.busErr } t [(F.FENCE_FREQ_KIND, ld, 0), (F.FENCE_FREQ_INDEX, ld, 0), (F.FENCE_FREQ_OP, ld, 0)]) ∧
        ((s.putFreq ld kind idx 1).clearLogicOk ld kind idx = true →
          (kind ≠ U.inst → t.fenced kind ld idx = false) ∧
          (kind = U.inst → s.instFencedP idx = true →
            t.instFencedP idx = true ∧ (t.fence U.inst 0 idx).readmit = s.tick + 1)))) ∧
  (∀ (s : State) (m : Master) (fd kind idx : Nat), s.hasFd fd = true →
      (WriteAdmitted s m .FSYS_FFREQ (fdie fd) 0 m.isSv (decide (idx < ffreqCount kind)) → ∃ t,
        exec (.ffreqFence m fd kind idx) s = .next t ∧ t.fenced kind (fdie fd) idx = true) ∧
      (WriteAdmitted s m .FSYS_FFREQ (fdie fd) 0 m.isSv (decide (idx < ffreqCount kind)) → kind = U.cell ∨ kind = U.ftimer → ∃ t,
        exec (.ffreqClear m fd kind idx) s = .next t ∧ t.fenced kind (fdie fd) idx = false) ∧
      (kind = U.term ∨ kind = U.field → s.portHeld m = false → s.route m (regAddr .FSYS_FFREQ (fdie fd) 0) = 0 → m.isSv = true → ∃ t,
        exec (.ffreqClear m fd kind idx) s = .next t ∧ t = s.refuse .FSYS_FFREQ (fdie fd) 0 m 7 ∧ t.fences = s.fences ∧
        t.get F.FSYS_ERRLOG1_KIND (fdie fd) 0 = 7))

/-- A lease is granted where the unit is idle and neither party fenced; only its owner releases it, and revocation leaves the owner nothing (03, 15, 16, 17). -/
def Obligations.LeasesGoToOneMaster : Prop :=
  (∀ (s : State) (m : Master) (ld n : Nat), s.hasLd ld = true → n < 16 →
      WriteAdmitted s m .FENCE_LEASE ld n (decide (m.die = ld)) true →
      (s.get F.FENCE_LEASE_OWNER ld n = 0 → s.codeFenced ld m.code = false → ∃ t,
        exec (.leaseClaim m ld n) s = .next t ∧ t.get F.FENCE_LEASE_OWNER ld n = m.code % 64 ∧
        OnlyFields { s with busErr := t.busErr } t [(F.FENCE_LEASE_OWNER, ld, n)]) ∧
      (¬(s.get F.FENCE_LEASE_OWNER ld n = 0 ∧ s.codeFenced ld m.code = false) → ∃ t,
        exec (.leaseClaim m ld n) s = .next t ∧ t.get F.FENCE_LEASE_DENIED ld n = 1 ∧
        OnlyFields { s with busErr := t.busErr } t [(F.FENCE_LEASE_DENIED, ld, n)]) ∧
      (m.code ≠ 0 → s.get F.FENCE_LEASE_OWNER ld n = m.code → ∃ t,
        exec (.leaseRelease m ld n) s = .next t ∧ t.get F.FENCE_LEASE_OWNER ld n = 0 ∧
        (n < 8 → ∀ r ∈ unitRegs U.crc, ∀ G ∈ r.fields, G.fen = .rst → t.get G ld n = G.resetAt ld n % 2 ^ G.w) ∧
        (8 ≤ n → ∀ r ∈ unitRegs U.scan, ∀ G ∈ r.fields, G.fen = .rst → t.get G ld (n - 8) = G.resetAt ld (n - 8) % 2 ^ G.w)) ∧
      (s.get F.FENCE_LEASE_OWNER ld n ≠ m.code → exec (.leaseRelease m ld n) s = .next (s.respond false))) ∧
  (∀ (s : State) (ld code : Nat) (keep : Bool), code ≠ 0 →
      let t := s.revoke ld code keep
      (∀ n < 16, t.get F.FENCE_LEASE_OWNER ld n ≠ code) ∧
      (keep = false → code ≤ 9 → ∀ n < 32, t.get F.LTMR_CTL_OWNER ld n ≠ code) ∧
      (∀ w ∈ (t.spmSt ld).waits, w.req.pri ≠ codePri code) ∧ t.mem = s.mem)

/-- A watchdog expiry fences the supervisor and moves its servers; its restart returns them; the loss of a logic die fences it, or makes the part safe (12, 15, 17, 20). -/
def Obligations.SupervisorsStopAndReturn : Prop :=
  (∀ (s : State) (m : Master) (ld : Nat), s.hasLd ld = true → WriteAdmitted s m .FENCE_SVKICK ld 0 (m.isSvOf ld) true →
      (s.fenced U.sv ld 0 = false → exec (.watchdogKick m ld) s = .next ((s.put F.FENCE_SVKICK_WDREM ld 0 10).respond false)) ∧
      (s.fenced U.sv ld 0 = true → exec (.watchdogKick m ld) s = .next (s.respond false))) ∧
  (∀ (s : State) (ld : Nat), s.hasLd ld = true → (s.svst ld).halted = false → (s.svst ld).restarting = false →
      s.fenced U.sv ld 0 = false → ∃ t, exec (.watchdogExpiry ld) s = .next t ∧
        t.fenced U.sv ld 0 = true ∧ (t.fence U.sv ld 0).reason = 0x0B ∧ t.get F.FENCE_SVKICK_WDREM ld 0 = 0 ∧
        (∀ n < 16, t.get F.FENCE_LEASE_OWNER ld n ≠ 9) ∧
        (let times := keepNewest 3 s.tick (s.fence U.sv ld 0).times
         (t.svst ld).restarting = !(decide (3 ≤ times.length) && times.all fun x => decide ((s.tick - x) * s.tickUs < 3600000000))) ∧
        (∀ d mb, t.hasLd d = true → mb < 8 → t.get F.MB_MBCTL_SERVER d mb = t.serverOf d mb)) ∧
  (∀ (s : State) (ld : Nat), s.hasLd ld = true → (s.svst ld).restarting = true → (s.svst ld).dead = false →
      s.fenced U.logic ld 0 = false → s.get F.LBIST_STAT_STATE ld 8 = 0 → ∃ t, exec (.supervisorRestartDone ld) s = .next t ∧
        t.fenced U.sv ld 0 = false ∧ (t.svst ld).restarting = false ∧ t.get F.FENCE_SVKICK_WDREM ld 0 = 10 ∧
        t.get F.LBIST_REC_VALID ld 8 = 0 ∧ (∀ d mb, t.hasLd d = true → mb < 8 → t.get F.MB_MBCTL_SERVER d mb = t.serverOf d mb)) ∧
  (∀ (s : State) (ld : Nat), s.hasLd ld = true → s.hasLd (1 - ld) = true → s.variant.logics = 2 →
      s.fenced U.logic (1 - ld) 0 = false → s.fenced U.logic ld 0 = false → ∃ t, exec (.logicDieLost ld) s = .next t ∧
        t.fenced U.logic ld 0 = true ∧ (t.fence U.logic ld 0).reason = 0x24 ∧ (∀ l < 8, t.fenced U.lane ld l = true) ∧
        t.fenced U.sv ld 0 = true ∧ t.fenced U.engine ld 0 = true ∧ (∀ k < 7, t.fenced U.link ld k = true) ∧
        (t.svst ld).restarting = false) ∧
  (∀ (s : State) (ld : Nat), s.hasLd ld = true → (s.hasLd (1 - ld) = false ∨ s.fenced U.logic (1 - ld) 0 = true ∨ s.variant.logics ≠ 2) →
      ∃ t, exec (.logicDieLost ld) s = .next t ∧ t.part.safe = true ∧ t.safeLow = true ∧
        (∀ fd ∈ t.fds, ∀ k < 64, t.get F.TERM_HSTAT_PENA (fdie fd) k = 0 ∧ t.get F.TERM_HSTAT_HENA (fdie fd) k = 0) ∧
        t.fences = s.fences)

/-- An uncontended scratchpad access reads or writes its bytes with ECC, or completes with the error response its word gives (01, 16). -/
def Obligations.ScratchpadAccessesServeTheirWord : Prop :=
  (∀ (s : State) (ld prog : Nat) (bad : List Nat) (q : SpmReq), q.size ≤ 4 → s.scanServed ld q = false →
      (s.spmSt ld).waits = [] → (s.spmSt ld).busy = false → (s.spmSt ld).rmw = [] → s.hasLd ld = true → q.off < 0x400000 →
      let sh := 8 * (q.off % 4)
      (q.wr = none → ∃ t, exec (.scratchpadAccess ld ⟨[q], prog, bad⟩) s = .next t ∧ t.mem = s.mem ∧
        (s.accessKind ld q.off = 0 → s.eccClass ld q.off = .good → q.off % 4 + q.size ≤ 4 → (s.get F.SPM_MODE_ROT ld 0).testBit (q.pri - 1) = false →
          t.results = [s.spmWord ld q.off / 2 ^ sh % 2 ^ (8 * q.size)]) ∧
        (s.accessKind ld q.off = 0 → s.eccClass ld q.off = .good → q.pri ≠ 0 → (s.get F.SPM_MODE_ROT ld 0).testBit (q.pri - 1) = true →
          t.results = [(s.spmWord ld q.off / 2 ^ sh + (if sh = 0 then 0 else s.spmWord ld q.off * 2 ^ (32 - sh) % 2 ^ 32)) % 2 ^ (8 * q.size)]) ∧
        (4 < q.off % 4 + q.size → (s.get F.SPM_MODE_ROT ld 0).testBit (q.pri - 1) = false →
          t.results = [0] ∧ t.get F.SPM_ERRLOG1_KIND ld 0 = 5 ∧ t.get F.SPM_ERRLOG0_OFFS ld 0 = q.off) ∧
        (q.off % 4 + q.size ≤ 4 → s.accessKind ld q.off ≠ 0 →
          t.results = [0] ∧ t.get F.SPM_ERRLOG1_KIND ld 0 = s.accessKind ld q.off ∧ t.get F.SPM_ERRLOG0_OFFS ld 0 = q.off) ∧
        (q.off % 4 + q.size ≤ 4 → s.accessKind ld q.off = 0 → s.eccClass ld q.off = .uncorrectable →
          t.results = [0] ∧ t.get F.SPM_ERRLOG1_KIND ld 0 = 1 ∧ (t.spmSt ld).repair.contains (wordOff q.off) = true ∧
          t.get F.SPM_ECCSTAT_UECNT ld 0 = min (s.get F.SPM_ECCSTAT_UECNT ld 0 + 1) 255) ∧
        (q.off % 4 + q.size ≤ 4 → s.accessKind ld q.off = 0 → s.eccClass ld q.off = .corrected →
          (s.get F.SPM_MODE_ROT ld 0).testBit (q.pri - 1) = false →
          t.results = [s.spmWord ld q.off / 2 ^ sh % 2 ^ (8 * q.size)] ∧ (t.spmSt ld).wback.contains (wordOff q.off) = true ∧
          t.get F.SPM_ECCSTAT_CECNT ld 0 = min (s.get F.SPM_ECCSTAT_CECNT ld 0 + 1) (2 ^ F.SPM_ECCSTAT_CECNT.w - 1))) ∧
      (∀ v, q.wr = some v → q.off % 4 + q.size ≤ 4 → ∃ t, exec (.scratchpadAccess ld ⟨[q], prog, bad⟩) s = .next t ∧ t.results = [] ∧
        (s.spmWriteOk ld q.pri q.off = true → s.accessKind ld q.off = 0 → (q.size = 4 ∨ s.eccClass ld q.off ≠ .uncorrectable) →
          (∀ k < q.size, t.byte (ld * 2 ^ 28 + q.off + k) = BitVec.ofNat 8 (v / 2 ^ (8 * k))) ∧ t.eccClass ld q.off = .good ∧
          ∀ a, a < ld * 2 ^ 28 + q.off ∨ ld * 2 ^ 28 + q.off + q.size ≤ a → t.byte a = s.byte a) ∧
        (s.spmWriteOk ld q.pri q.off = true → s.accessKind ld q.off = 0 → q.size < 4 → s.eccClass ld q.off = .uncorrectable →
          t.mem = s.mem ∧ t.get F.SPM_ERRLOG1_KIND ld 0 = 1) ∧
        (s.spmWriteOk ld q.pri q.off = true → s.accessKind ld q.off ≠ 0 →
          t.mem = s.mem ∧ t.get F.SPM_ERRLOG1_KIND ld 0 = s.accessKind ld q.off) ∧
        (s.spmWriteOk ld q.pri q.off = false → t.mem = s.mem ∧ t.get F.SYSCTL_ERRLOG1_KIND ld 0 = 7)) ∧
      (∀ v, q.wr = some v → 4 < q.off % 4 + q.size → ∃ t, exec (.scratchpadAccess ld ⟨[q], prog, bad⟩) s = .next t ∧ t.mem = s.mem ∧
        t.get F.SPM_ERRLOG1_KIND ld 0 = 5)) ∧
  (∀ (s : State) (ld prog : Nat) (bad : List Nat) (q : SpmReq) (p v : Nat), s.scanServed ld q = false →
      (s.spmSt ld).waits = [] → (s.spmSt ld).busy = false → (s.spmSt ld).rmw = [] → s.hasLd ld = true → q.off < 0x400000 →
      q.wr = none → q.size = 4 → q.off % 4 = 0 → (s.get F.SPM_MODE_ROT ld 0).testBit (q.pri - 1) = false → p ≠ q.pri → s.spmWriteOk ld p q.off = true →
      s.accessKind ld q.off = 0 → s.eccClass ld q.off = .good → ∃ t,
        exec (.scratchpadAccess ld ⟨[q, ⟨p, q.off, 4, some v⟩], prog, bad⟩) s = .next t ∧
        t.results = [s.spmWord ld q.off % 2 ^ 32] ∧ t.spmWord ld q.off = v % 2 ^ 32) ∧
  (∀ (s : State) (ld off : Nat), s.hasLd ld = true → off < 0x400000 →
      ((s.spmSt ld).wback.contains (wordOff off) = true → ∃ t, exec (.eccWriteback ld off) s = .next t ∧
        t.eccClass ld off = .good ∧ (t.spmSt ld).wback.contains (wordOff off) = false ∧ t.mem = s.mem) ∧
      ((s.spmSt ld).repair.contains (wordOff off) = true → ∃ t, exec (.softRepair ld off) s = .next t ∧
        (t.spmSt ld).repair.contains (wordOff off) = false ∧
        ((Config.spmUse ld (wordOff off) ≠ 1 → s.repairedWord ld off = 0) ∧
         let b := spmBank off
         (s.flag F.SPM_REP_USE0 ld b = false → t.flag F.SPM_REP_USE0 ld b = true ∧ t.get F.SPM_REP_ROW0 ld b = spmRow off ∧
           t.spmWord ld off = s.repairedWord ld off % 2 ^ 32 ∧ t.eccClass ld off = .good) ∧
         (s.flag F.SPM_REP_USE0 ld b = true → s.flag F.SPM_REP_USE1 ld b = false → t.flag F.SPM_REP_USE1 ld b = true ∧
           t.get F.SPM_REP_ROW1 ld b = spmRow off ∧ t.spmWord ld off = s.repairedWord ld off % 2 ^ 32 ∧ t.eccClass ld off = .good) ∧
         (s.flag F.SPM_REP_USE0 ld b = true → s.flag F.SPM_REP_USE1 ld b = true → t.mem = s.mem ∧
           (s.flag F.SPM_FROW_FENCED ld b = false → t.rowFenced ld off = true) ∧
           (s.flag F.SPM_FROW_FENCED ld b = true → t.get F.SPM_ECCSTAT_REPFULL ld 0 = 1)))))

/-- A segment that is off or clearing serves nothing and comes back as zeros; the tiller tests the next region, holds after eight aborts and keeps every word (16). -/
def Obligations.SegmentsAndTillerKeepTheirRules : Prop :=
  (∀ (s : State) (m : Master) (ld seg : Nat), s.hasLd ld = true → seg < 4 →
      (WriteAdmitted s m .SPM_PWR ld 0 (m.isSvOf ld) (decide (seg ≠ 0)) → ∃ t, exec (.segmentPowerOff m ld seg) s = .next t ∧
        (t.get F.SPM_PWR_OFF ld 0).testBit (seg - 1) = true ∧
        (∀ k < 3, k ≠ seg - 1 → (t.get F.SPM_PWR_OFF ld 0).testBit k = (s.get F.SPM_PWR_OFF ld 0).testBit k) ∧
        (∀ off, spmSeg off = seg → t.accessKind ld off = 4) ∧
        OnlyFields { s with busErr := t.busErr } t [(F.SPM_PWR_OFF, ld, 0), (F.SPM_PWR_CLEARING, ld, 0)]) ∧
      (seg = 0 → s.portHeld m = false → s.route m (regAddr .SPM_PWR ld 0) = 0 → m.isSvOf ld = true →
        exec (.segmentPowerOff m ld seg) s = .next (s.refuse .SPM_PWR ld 0 m 7)) ∧
      (WriteAdmitted s m .SPM_PWR ld 0 (m.isSvOf ld) true → (s.get F.SPM_PWR_OFF ld 0).testBit (seg - 1) = true → seg ≠ 0 → ∃ t,
        exec (.segmentPowerOn m ld seg) s = .next t ∧ (t.get F.SPM_PWR_OFF ld 0).testBit (seg - 1) = false ∧
        (t.get F.SPM_PWR_CLEARING ld 0).testBit seg = true ∧ (∀ off, spmSeg off = seg → t.accessKind ld off = 4) ∧
        OnlyFields { s with busErr := t.busErr } t [(F.SPM_PWR_OFF, ld, 0), (F.SPM_PWR_CLEARING, ld, 0)]) ∧
      ((s.get F.SPM_PWR_CLEARING ld 0).testBit seg = true → ∃ t, exec (.segmentClearDone ld seg) s = .next t ∧
        (t.get F.SPM_PWR_CLEARING ld 0).testBit seg = false ∧
        (∀ off, off < 0x400000 → spmSeg off = seg → t.byte (ld * 2 ^ 28 + off) = 0 ∧ t.eccClass ld off = .good) ∧
        (∀ a, a < ld * 2 ^ 28 + seg * 2 ^ 20 ∨ ld * 2 ^ 28 + (seg + 1) * 2 ^ 20 ≤ a → t.byte a = s.byte a))) ∧
  (∀ (s : State) (ld : Nat), s.hasLd ld = true → (s.spmSt ld).busy = false →
      let r := s.tillerRegion ld (s.get F.SPM_TSTAT_REGION ld 0)
      (s.flag F.SPM_TCTL_PAUSE ld 0 = true → exec (.tillerAttemptStart ld) s = .next s) ∧
      (s.flag F.SPM_TCTL_PAUSE ld 0 = false → s.segDown ld (r * 256) = false → ∃ t, exec (.tillerAttemptStart ld) s = .next t ∧
        t.mem = s.mem ∧
        (s.get F.SPM_TSTAT_ABORTS ld 0 < 8 ∨ r ≠ s.get F.SPM_TSTAT_REGION ld 0 → (t.spmSt ld).busy = true ∧ t.get F.SPM_TSTAT_REGION ld 0 = r % 16384 ∧
          t.get F.SPM_TSTAT_HOLD ld 0 = 0) ∧
        (8 ≤ s.get F.SPM_TSTAT_ABORTS ld 0 → r = s.get F.SPM_TSTAT_REGION ld 0 → (s.spmSt ld).holdTick ≠ some s.tick → (t.spmSt ld).busy = true ∧
          (t.spmSt ld).holdTick = some s.tick ∧ t.get F.SPM_TSTAT_HOLD ld 0 = 1) ∧
        (8 ≤ s.get F.SPM_TSTAT_ABORTS ld 0 → r = s.get F.SPM_TSTAT_REGION ld 0 → (s.spmSt ld).holdTick = some s.tick → t = s))) ∧
  (∀ (s : State) (ld : Nat) (bad : List Nat), s.hasLd ld = true → (s.spmSt ld).busy = true → ∃ t,
      exec (.tillerAttemptDone ld bad) s = .next t ∧ t.mem = s.mem ∧ (t.spmSt ld).busy = false ∧
      t.get F.SPM_TSTAT_ABORTS ld 0 = 0 ∧ t.get F.SPM_TSTAT_HOLD ld 0 = 0 ∧
      t.get F.SPM_TSTAT_REGION ld 0 = (s.get F.SPM_TSTAT_REGION ld 0 + 1) % 16384 ∧
      (s.get F.SPM_TSTAT_REGION ld 0 ≠ 16383 → t.get F.SPM_TCNT_SWEEPS ld 0 = s.get F.SPM_TCNT_SWEEPS ld 0) ∧
      (s.get F.SPM_TSTAT_REGION ld 0 = 16383 → t.get F.SPM_TCNT_SWEEPS ld 0 = (s.get F.SPM_TCNT_SWEEPS ld 0 + 1) % 2 ^ 16) ∧
      (∀ k < 64, let off := 256 * s.get F.SPM_TSTAT_REGION ld 0 + 4 * k
        (s.rowFenced ld off = false → (s.spmSt ld).saved ≤ k → s.eccClass ld off = .corrected → t.eccClass ld off = .good) ∧
        (s.rowFenced ld off = false → ((s.spmSt ld).saved ≤ k ∧ s.eccClass ld off = .uncorrectable) ∨ off ∈ bad → (t.spmSt ld).repair.contains off = true)))

/-- The owner feeds an idle CRC unit by DIN in lane order, sets its value by LOAD and VAL; a busy unit refuses every write and sets REFUSED (R393). -/
def Obligations.CrcUnitsTakeBytesFromTheirOwner : Prop :=
  (∀ (s : State) (m : Master) (ld n : Nat), s.hasLd ld = true → s.portHeld m = false → n < 8 → m.die = ld → m.code ≠ 0 →
      s.get F.FENCE_LEASE_OWNER ld n = m.code → s.flag F.CRC_STAT_BUSY ld n = false →
      (∀ data be, ∃ t, exec (.crcDin m ld n data be) s = .next t ∧ OnlyFields { s with busErr := t.busErr } t [(F.CRC_VAL_VAL, ld, n)] ∧
        t.get F.CRC_VAL_VAL ld n = ((List.range 4).filter be.testBit).foldl (fun c k => crcByte (s.get F.CRC_CFG_WIDTH ld n)
          (s.get F.CRC_POLY_POLY ld n % 2 ^ s.get F.CRC_CFG_WIDTH ld n) (c % 2 ^ s.get F.CRC_CFG_WIDTH ld n)
          (if s.flag F.CRC_CFG_REFIN ld n then reflect 8 (data / 2 ^ (8 * k) % 256) else data / 2 ^ (8 * k) % 256) % 2 ^ 32)
          (s.get F.CRC_VAL_VAL ld n)) ∧
      (∃ t, exec (.crcLoad m ld n) s = .next t ∧ OnlyFields { s with busErr := t.busErr } t [(F.CRC_VAL_VAL, ld, n)] ∧
        t.get F.CRC_VAL_VAL ld n = s.get F.CRC_INIT_INIT ld n % 2 ^ 32) ∧
      (∀ val, ∃ t, exec (.crcValWrite m ld n val) s = .next t ∧ OnlyFields { s with busErr := t.busErr } t [(F.CRC_VAL_VAL, ld, n)] ∧
        t.get F.CRC_VAL_VAL ld n = val % 2 ^ 32) ∧
      (∀ v < 2 ^ 32, ∀ same : Nat, ∀ r, r = .CRC_CFG ∨ r = .CRC_POLY ∨ r = .CRC_INIT ∨ r = .CRC_XOROUT → ∃ t,
        exec (.registerWrite m (regAddr r ld n) ⟨v, 15⟩ same) s = .next t ∧ t.get F.CRC_VAL_VAL ld n = s.get F.CRC_VAL_VAL ld n ∧
        (r = .CRC_POLY → s.fenced U.crc ld n = false → t.get F.CRC_POLY_POLY ld n = v) ∧
        (r = .CRC_INIT → s.fenced U.crc ld n = false → t.get F.CRC_INIT_INIT ld n = v) ∧
        (r = .CRC_XOROUT → s.fenced U.crc ld n = false → t.get F.CRC_XOROUT_XOROUT ld n = v))) ∧
  (∀ (s : State) (m : Master) (ld n : Nat), s.hasLd ld = true → s.hasDie m.die = true → s.portHeld m = false → n < 8 → s.flag F.CRC_STAT_BUSY ld n = true →
      let refusedWrite := fun (r : Reg) (i : Instr) => s.route m (regAddr r ld n) = 0 →
        exec i s = .next ((s.refuse r ld n m (if s.holdsLease m ld n then 7 else 6)).put F.CRC_STAT_REFUSED ld n 1)
      (∀ data be, refusedWrite .CRC_DIN (.crcDin m ld n data be)) ∧ refusedWrite .CRC_CTL (.crcLoad m ld n) ∧
      (∀ val, refusedWrite .CRC_VAL (.crcValWrite m ld n val)) ∧
      (∀ v < 2 ^ 32, ∀ same : Nat, ∀ r ∈ [Reg.CRC_CFG, .CRC_POLY, .CRC_INIT, .CRC_XOROUT, .CRC_VAL, .CRC_RESULT, .CRC_STAT, .CRC_DIN, .CRC_CTL],
        refusedWrite r (.registerWrite m (regAddr r ld n) ⟨v, 15⟩ same)))

/-- A scan of a legal range holds its CRC unit and feeds it every byte in order; GO of another range sets BADRANGE; STOP ends it where it stands (17). -/
def Obligations.ScansFeedTheirRangeInOrder : Prop :=
  (∀ (s : State) (m : Master) (ld n : Nat) (cont : Bool), s.hasLd ld = true → s.portHeld m = false → n < 8 → m.die = ld → m.code ≠ 0 →
      s.get F.FENCE_LEASE_OWNER ld (n + 8) = m.code →
      ((s.get F.FENCE_LEASE_OWNER ld n = m.code ∧ s.flag F.SCAN_STAT_BUSY ld n = false ∧ 1 ≤ s.get F.SCAN_LEN_LEN ld n ∧
          s.get F.SCAN_LEN_LEN ld n ≤ 0x400000 ∧ s.get F.SCAN_START_START ld n + s.get F.SCAN_LEN_LEN ld n ≤ 0x400000) → ∃ t,
        exec (.scanGo m ld n cont) s = .next t ∧ t.mem = s.mem ∧ t.flag F.SCAN_STAT_BUSY ld n = true ∧ t.flag F.CRC_STAT_BUSY ld n = true ∧
        t.get F.FENCE_LEASE_OWNER ld n = 0x0C + n ∧ t.get F.FENCE_LEASE_OWNER ld (n + 8) = m.code ∧
        t.get F.SCAN_NEXT_NEXT ld n = s.get F.SCAN_START_START ld n ∧ t.get F.SCAN_REM_REM ld n = s.get F.SCAN_LEN_LEN ld n ∧
        t.get F.CRC_VAL_VAL ld n = (if cont then s.get F.CRC_VAL_VAL ld n else s.get F.CRC_INIT_INIT ld n % 2 ^ 32)) ∧
      (¬(s.get F.FENCE_LEASE_OWNER ld n = m.code ∧ s.flag F.SCAN_STAT_BUSY ld n = false ∧ 1 ≤ s.get F.SCAN_LEN_LEN ld n ∧
          s.get F.SCAN_LEN_LEN ld n ≤ 0x400000 ∧ s.get F.SCAN_START_START ld n + s.get F.SCAN_LEN_LEN ld n ≤ 0x400000) → ∃ t,
        exec (.scanGo m ld n cont) s = .next t ∧ t.get F.SCAN_STAT_BADRANGE ld n = 1 ∧
        OnlyFields { s with busErr := t.busErr } t [(F.SCAN_CTL_CONT, ld, n), (F.SCAN_STAT_BADRANGE, ld, n)])) ∧
  (∀ (s : State) (ld n : Nat), s.hasLd ld = true → n < 8 → s.flag F.SCAN_STAT_BUSY ld n = true →
      let a := s.get F.SCAN_NEXT_NEXT ld n
      let len := s.get F.SCAN_REM_REM ld n
      a + len ≤ 0x400000 → (∀ off, off < 0x400000 → s.accessKind ld off = 0 ∧ s.eccClass ld off = .good) → ∃ t,
        exec (.scanDone ld n) s = .next t ∧ t.mem = s.mem ∧ t.flag F.SCAN_STAT_BUSY ld n = false ∧ t.flag F.CRC_STAT_BUSY ld n = false ∧
        t.flag F.SCAN_STAT_DONE ld n = true ∧ t.get F.SCAN_REM_REM ld n = 0 ∧
        t.get F.CRC_VAL_VAL ld n = (List.range len).foldl (fun c k => crcByte (s.get F.CRC_CFG_WIDTH ld n)
          (s.get F.CRC_POLY_POLY ld n % 2 ^ s.get F.CRC_CFG_WIDTH ld n) (c % 2 ^ s.get F.CRC_CFG_WIDTH ld n)
          (if s.flag F.CRC_CFG_REFIN ld n then reflect 8 (s.byte (ld * 2 ^ 28 + a + k)).toNat else (s.byte (ld * 2 ^ 28 + a + k)).toNat)
          % 2 ^ 32) (s.get F.CRC_VAL_VAL ld n)) ∧
  (∀ (s : State) (m : Master) (ld n words : Nat), s.hasLd ld = true → s.portHeld m = false → n < 8 → m.die = ld → m.code ≠ 0 →
      s.get F.FENCE_LEASE_OWNER ld (n + 8) = m.code →
      (s.flag F.SCAN_STAT_BUSY ld n = false → exec (.scanStop m ld n words) s = .next (s.respond false)) ∧
      (s.flag F.SCAN_STAT_BUSY ld n = true → s.get F.SCAN_NEXT_NEXT ld n + s.get F.SCAN_REM_REM ld n ≤ 0x400000 → ∃ t,
        exec (.scanStop m ld n words) s = .next t ∧ t.flag F.SCAN_STAT_BUSY ld n = false ∧ t.flag F.CRC_STAT_BUSY ld n = false ∧
        t.mem = s.mem ∧
        (s.scanLeft ld n ≤ max 1 words → t.flag F.SCAN_STAT_DONE ld n = true ∧ t.get F.SCAN_REM_REM ld n = 0 ∧
          t.get F.SCAN_STAT_STOPPED ld n = s.get F.SCAN_STAT_STOPPED ld n) ∧
        (max 1 words < s.scanLeft ld n → t.flag F.SCAN_STAT_STOPPED ld n = true ∧
          t.get F.SCAN_STAT_DONE ld n = s.get F.SCAN_STAT_DONE ld n ∧
          t.get F.SCAN_NEXT_NEXT ld n + t.get F.SCAN_REM_REM ld n = s.get F.SCAN_NEXT_NEXT ld n + s.get F.SCAN_REM_REM ld n)))

/-- A BIST run starts only where R408 admits it, never passes when cut short, and leaves a pass record or a fence only after its full count (18). -/
def Obligations.BistRunsEndWithTheirRecord : Prop :=
  (∀ (s : State) (m : Master) (ld e : Nat), s.hasLd ld = true → e < 10 →
      (WriteAdmitted s m .LBIST_CTL ld e (m.isSvOf ld) (s.bistMay ld e) → ∃ t, exec (.lbistGo m ld e) s = .next t ∧
        t.get F.LBIST_STAT_STATE ld e = 1 ∧ t.get F.LBIST_STAT_RESULT ld e = 0 ∧ t.get F.LBIST_STAT_TOKEN ld e = 0 ∧
        t.get F.LBIST_REC_VALID ld e = 0 ∧ t.flag F.LBIST_STAT_CUSTOM ld e = decide (s.bistCount ld e ≠ 32768) ∧
        (∀ c ∈ engineCodes e, ∀ n < 16, t.get F.FENCE_LEASE_OWNER ld n ≠ c) ∧ t.mem = s.mem ∧ t.fences = s.fences) ∧
      (s.bistMay ld e = false → s.portHeld m = false → s.route m (regAddr .LBIST_CTL ld e) = 0 → m.isSvOf ld = true →
        exec (.lbistGo m ld e) s = .next (s.refuse .LBIST_CTL ld e m 7)) ∧
      (WriteAdmitted s m .LBIST_CTL ld e (m.isSvOf ld) true → ∃ t, exec (.lbistAbort m ld e) s = .next t ∧ t.fences = s.fences ∧
        t.get F.LBIST_REC_VALID ld e = s.get F.LBIST_REC_VALID ld e ∧
        (s.get F.LBIST_STAT_STATE ld e = 1 ∨ s.get F.LBIST_STAT_STATE ld e = 2 → t.get F.LBIST_STAT_STATE ld e = 3 ∧
          t.get F.LBIST_STAT_RESULT ld e = 3 ∧ t.get F.LBIST_STAT_TOKEN ld e = 0 ∧ t.get F.LBIST_STAT_ACAUSE ld e = 1) ∧
        (s.get F.LBIST_STAT_STATE ld e = 0 → t = s.respond false)) ∧
      (s.get F.LBIST_STAT_STATE ld e = 1 → ∃ t, exec (.lbistIsolationTimeout ld e) s = .next t ∧
        t.get F.LBIST_STAT_STATE ld e = 0 ∧ t.get F.LBIST_STAT_RESULT ld e = 3 ∧ t.get F.LBIST_STAT_ACAUSE ld e = 4 ∧
        t.fences = s.fences ∧ t.mem = s.mem) ∧
      (s.get F.LBIST_STAT_STATE ld e = 1 ∨ s.get F.LBIST_STAT_STATE ld e = 2 → ∀ misr, ∃ t,
        exec (.lbistPatternsDone ld e misr) s = .next t ∧ t.get F.LBIST_STAT_STATE ld e = 3 ∧
        (misr % 2 ^ 64 = s.bistExpected ld e % 2 ^ 64 → t.get F.LBIST_STAT_RESULT ld e = 1 ∧ t.fences = s.fences ∧
          t.get F.LBIST_REC_VALID ld e = if s.flag F.LBIST_STAT_CUSTOM ld e then s.get F.LBIST_REC_VALID ld e else 1) ∧
        (misr % 2 ^ 64 ≠ s.bistExpected ld e % 2 ^ 64 → t.get F.LBIST_STAT_RESULT ld e = 2 ∧
          (s.flag F.LBIST_STAT_CUSTOM ld e = true → t.fences = s.fences) ∧
          (s.flag F.LBIST_STAT_CUSTOM ld e = false → t.fenced (engineUnit e).1 ld (engineUnit e).2 = true))) ∧
      (s.get F.LBIST_STAT_STATE ld e = 3 → ∃ t, exec (.lbistReinitDone ld e) s = .next t ∧ t.get F.LBIST_STAT_STATE ld e = 0 ∧
        t.fences = s.fences ∧ (8 ≤ e → t.mem = s.mem) ∧
        (e < 8 → t.get F.LANE_LCTL_RUN ld e = 0 ∧ (t.lane ld e).ph = LaneSt.zero.ph ∧ (t.lane ld e).trace = [] ∧
          (∀ k < 0x8000, t.byte (ld * 2 ^ 28 + 0x4000000 + e * 0x100000 + 0x10000 + k) = 0) ∧
          (∀ a, a < ld * 2 ^ 28 + 0x4000000 + e * 0x100000 + 0x10000 ∨ ld * 2 ^ 28 + 0x4000000 + e * 0x100000 + 0x18000 ≤ a →
            t.byte a = s.byte a)))) ∧
  (∀ (s : State) (m : Master), WriteAdmitted s m .LBIST_SDCTL 0 0 (m.isSvOf 0) true →
      (s.part.shut ≠ 0 → exec (.orderlyShutdown m) s = .next (s.respond false)) ∧
      (s.part.shut = 0 → ∃ t, exec (.orderlyShutdown m) s = .next t ∧ t.get F.LBIST_SDCTL_BUSY 0 0 = 1 ∧
      (s.inRun = true → t.part.shut = 1 ∧ t.fences = s.fences) ∧
      (s.inRun = false → t.part.shut = 2 ∧ t.safeLow = true ∧ ∀ r ∈ s.image.img.insts, t.instFencedP r.iid = true ∧ t.instFencedH r.iid = true))) ∧
  (∀ (s : State) (fails : List Nat), s.part.shut = 2 → (∀ a b, (s.job a b).state ≠ 1) →
      let runs := fun (ld e : Nat) => (ld, e) = (0, 8) ∨
        (s.get F.LBIST_STAT_STATE ld e = 1 ∨ s.get F.LBIST_STAT_STATE ld e = 2) ∧ s.flag F.LBIST_STAT_CUSTOM ld e = false
      ∃ t, exec (.shutdownDone fails) s = .next t ∧ t.part.shut = 3 ∧ t.part.safe = true ∧
      t.get F.LBIST_SDCTL_BUSY 0 0 = 0 ∧ t.get F.LBIST_SDCTL_DONE 0 0 = 1 ∧
      (fails = [] → t.fences = s.fences ∧ (∀ ld ∈ s.lds, ∀ e < 10, runs ld e → t.get F.LBIST_REC_VALID ld e = 1 ∧ t.get F.LBIST_REC_SHUT ld e = 1) ∧
        ∀ fd ∈ s.fds, (s.field fd).fbist = true → t.get F.FBIST_FBREC_VALID (fdie fd) 0 = 1) ∧
      (∀ ld ∈ s.lds, ∀ e < 10, runs ld e → 16 * ld + e ∈ fails → t.fenced (engineUnit e).1 ld (engineUnit e).2 = true) ∧
      (∀ fd ∈ s.fds, 32 + fd ∈ fails → (s.field fd).fbist = true → t.fenced U.field (fdie fd) 0 = true)) ∧
  (∀ (s : State) (fd misr : Nat), s.hasFd fd = true → (s.field fd).fbist = true →
      (misr % 2 ^ 64 = Config.bistSignature 16 % 2 ^ 64 → ∃ t, exec (.fbistDone fd true misr) s = .next t ∧
        t.get F.FBIST_FBSTAT_RESULT (fdie fd) 0 = 1 ∧ t.get F.FBIST_FBREC_VALID (fdie fd) 0 = 1 ∧ (t.field fd).fbist = false ∧
        (t.field fd).loadPending = true ∧ t.fences = s.fences) ∧
      (misr % 2 ^ 64 ≠ Config.bistSignature 16 % 2 ^ 64 → ∃ t, exec (.fbistDone fd true misr) s = .next t ∧
        t.get F.FBIST_FBSTAT_RESULT (fdie fd) 0 = 2 ∧ t.fenced U.field (fdie fd) 0 = true ∧ (t.field fd).fbist = false) ∧
      (s.flag F.FBIST_FBSTAT_RETRY (fdie fd) 0 = false → ∃ t, exec (.fbistDone fd false misr) s = .next t ∧
        t.get F.FBIST_FBSTAT_RETRY (fdie fd) 0 = 1 ∧ t.get F.FBIST_FBSTAT_RESULT (fdie fd) 0 = 3 ∧ (t.field fd).fbist = true ∧
        t.fences = s.fences) ∧
      (s.flag F.FBIST_FBSTAT_RETRY (fdie fd) 0 = true → ∃ t, exec (.fbistDone fd false misr) s = .next t ∧
        t.fenced U.field (fdie fd) 0 = true ∧ (t.field fd).fbist = false))

/-- IDCODE gives revision, part code, 0x1A3 and 1 in their fields, with the revision nibbles of A0, A1 and B0 (R419). -/
def Obligations.IdcodeReadsThePart : Prop :=
  (∀ s : State, s.tapLive = false → exec .tapIdcode s = .next s) ∧
  ∀ s : State, s.tapLive = true → ∃ (t : State) (v : Nat), exec .tapIdcode s = .next t ∧ t.results = [v] ∧ v < 2 ^ 32 ∧
    v / 2 ^ 28 = s.rev.code ∧ v / 2 ^ 12 % 2 ^ 16 = s.variant.partCode ∧ v / 2 % 2 ^ 11 = 0x1A3 ∧ v % 2 = 1 ∧
    (s.rev = .a0 → v / 2 ^ 28 = 0x0) ∧ (s.rev = .a1 → v / 2 ^ 28 = 0x1) ∧ (s.rev = .b0 → v / 2 ^ 28 = 0x4) ∧
    (s.variant = .cvsl808 → s.rev = .a1 → v = 0x10808347) ∧ t = { s with tap := .idcode, tapRegs := ⟨.idle, s.tapRegs.bypass, s.tapRegs.boundary⟩, results := [v] }

/-- TAP instructions and debug halts act only in the life-cycle states that admit them; EXTEST and SCANEN make the part safe; a resume leaves the fence (01, 18, 20). -/
def Obligations.TapAndDebugFollowTheLifeCycle : Prop :=
  (∀ s : State, s.tapLive = true →
      let refused := fun (i : Instr) => (∃ t, exec i s = .next t ∧ t.tap = .bypass ∧ (∀ ld ∈ s.lds, t.get F.LBIST_DBGSTAT_REFUSED ld 0 = 1) ∧
        OnlyFields { s with tap := .bypass, tapRegs := ⟨.idle, false, s.tapRegs.boundary⟩ } t (s.lds.map fun ld => (F.LBIST_DBGSTAT_REFUSED, ld, 0)))
      exec (.tapBypass 0xFF) s = .next { s with tap := .bypass, tapRegs := ⟨.idle, false, s.tapRegs.boundary⟩ } ∧ (∀ code, code ≠ 0xFF → refused (.tapBypass code)) ∧
      exec .tapSamplePreload s = .next (State.spend { s with tap := .sample, tapRegs := ⟨.idle, s.tapRegs.bypass, s.boundaryNow⟩ }) ∧
      exec .tapDbgacc s = .next { s with tap := .dbgacc, tapRegs := ⟨.idle, s.tapRegs.bypass, s.tapRegs.boundary⟩ } ∧
      (s.lc = 2 → refused .tapExtest) ∧ (s.lc ≠ 1 → s.lc ≠ 3 → refused .tapScanen) ∧
      (s.lc ≠ 2 → ∃ t, exec .tapExtest s = .next t ∧ t.tap = .extest ∧ t.safeLow = true ∧
        (∀ fd ∈ s.fds, ∀ k < 64, t.get F.TERM_HSTAT_PENA (fdie fd) k = 0 ∧ t.get F.TERM_HSTAT_HENA (fdie fd) k = 0)) ∧
      (s.lc = 1 ∨ s.lc = 3 → ∃ t, exec .tapScanen s = .next t ∧ t.tap = .scanen ∧ t.safeLow = true ∧
        t.get F.SYSCTL_VSTAT_ZEROED 0 0 = 1 ∧ t.get F.SYSCTL_VSTAT_LOADED 0 0 = 0 ∧
        (∀ fd ∈ s.fds, t.fenced U.field (fdie fd) 0 = true) ∧ (∀ ld ∈ s.lds, t.fenced U.logic ld 0 = true) ∧
        (∀ fd ∈ s.fds, ∀ k < 64, t.get F.TERM_HSTAT_PENA (fdie fd) k = 0 ∧ t.get F.TERM_HSTAT_HENA (fdie fd) k = 0))) ∧
  (∀ s : State, exec .trstN s = .next { s with tap := .idcode, tapRegs := { s.tapRegs with ctl := .reset } } ∧ (s.tapLive = false → ∀ i ∈ [Instr.tapSamplePreload, .tapExtest, .tapDbgacc, .tapScanen],
      exec i s = .next s)) ∧
  (∀ (s : State) (ld l : Nat), s.hasLd ld = true → l < 8 → s.dbgOn = true →
      ((s.lc = 1 ∨ s.lc = 2 ∧ s.gate ld = true) → ∃ t, exec (.debugHaltLane ld l) s = .next t ∧
        t.fenced U.lane ld l = true ∧ (t.fence U.lane ld l).reason = 0x02 ∧
        (t.lane ld l).halted = true ∧ (t.get F.LBIST_DBGSTAT_HALTED ld 0).testBit l = true ∧ t.get F.LANE_LSTAT_PHASE ld l = 6) ∧
      (¬(s.lc = 1 ∨ s.lc = 2 ∧ s.gate ld = true) → ∃ t, exec (.debugHaltLane ld l) s = .next t ∧
        t.get F.LBIST_DBGSTAT_REFUSED ld 0 = 1 ∧ OnlyFields s t [(F.LBIST_DBGSTAT_REFUSED, ld, 0)]) ∧
      (s.lc = 1 → ∃ t, exec (.debugHaltSupervisor ld) s = .next t ∧ (t.svst ld).halted = true ∧
        t.get F.LBIST_DBGSTAT_SVHALT ld 0 = 1 ∧ t.fences = s.fences ∧ (∀ d mb, t.hasLd d = true → mb < 8 → t.get F.MB_MBCTL_SERVER d mb = t.serverOf d mb)) ∧
      (s.lc ≠ 1 → ∃ t, exec (.debugHaltSupervisor ld) s = .next t ∧
        t.get F.LBIST_DBGSTAT_REFUSED ld 0 = 1 ∧ OnlyFields s t [(F.LBIST_DBGSTAT_REFUSED, ld, 0)])) ∧
  (∀ (s : State) (ld l : Nat), s.hasLd ld = true → s.dbgOn = true →
      (l < 8 → (s.lane ld l).halted = true → ∃ t, exec (.debugResume ld l) s = .next t ∧ (t.lane ld l).halted = false ∧
        (t.get F.LBIST_DBGSTAT_HALTED ld 0).testBit l = false ∧ t.get F.LANE_LSTAT_PHASE ld l = 7 ∧ t.fences = s.fences) ∧
      ((s.svst ld).halted = true → ∃ t, exec (.debugResume ld 8) s = .next t ∧ (t.svst ld).halted = false ∧
        t.get F.LBIST_DBGSTAT_SVHALT ld 0 = 0 ∧ t.fences = s.fences ∧ (∀ d mb, t.hasLd d = true → mb < 8 → t.get F.MB_MBCTL_SERVER d mb = t.serverOf d mb)))

/-- The vault MACs what it is fed under its key; OTP reads hide the key, programming needs lock, token and match, and locks only grow (18, 19). -/
def Obligations.VaultAndOtpKeepTheirRules : Prop :=
  (∀ (s : State) (m : Master),
      (WriteAdmitted s m .SYSCTL_VCTL 0 0 m.isSv (!s.flag F.SYSCTL_VSTAT_BUSY 0 0) →
        exec (.vaultStart m) s = .next { s with vaultIn := [], vaultOpen := true, busErr := false } ∧
        exec (.vaultGo m) s = .next ((State.put { s with vaultOpen := false } F.SYSCTL_VSTAT_BUSY 0 0 1).respond false)) ∧
      (s.flag F.SYSCTL_VSTAT_BUSY 0 0 = true → s.portHeld m = false → s.route m (regAddr .SYSCTL_VCTL 0 0) = 0 → m.isSv = true →
        exec (.vaultStart m) s = .next (s.refuse .SYSCTL_VCTL 0 0 m 7) ∧ exec (.vaultGo m) s = .next (s.refuse .SYSCTL_VCTL 0 0 m 7)) ∧
      (∀ data be, WriteAdmitted s m .SYSCTL_VDIN 0 0 m.isSv true →
        (s.vaultOpen = true → exec (.vaultDin m data be) s = .next { s with vaultIn := s.vaultIn ++ (enabledBytes data be).map (BitVec.ofNat 8), busErr := false }) ∧
        (s.vaultOpen = false → exec (.vaultDin m data be) s = .next (s.respond false))) ∧
      (∀ key, s.flag F.SYSCTL_VSTAT_BUSY 0 0 = true → s.flag F.SYSCTL_VSTAT_LOADED 0 0 = true → s.vaultKey = some key → ∃ t,
        exec .vaultMacDone s = .next t ∧ t.flag F.SYSCTL_VSTAT_BUSY 0 0 = false ∧ t.vaultIn = [] ∧
        ∀ n < 8, t.get F.SYSCTL_VMAC_MAC 0 n = fieldAt (beBytes 32 (hmac key s.vaultIn)) (4 * n) 4)) ∧
  (∀ (s : State) (m : Master) (ld : Nat), s.hasLd ld = true →
      let w := s.get F.OTP_OADDR_WORD ld 0
      let d := s.get F.OTP_ODATA0_DATA ld 0 + 2 ^ 32 * s.get F.OTP_ODATA1_DATA ld 0
      (WriteAdmitted s m .OTP_OCMD ld 0 (m.isSvOf ld) true → ∃ t, exec (.ocmdRead m ld) s = .next t ∧
        OnlyFields { s with busErr := t.busErr } t [(F.OTP_ODATA0_DATA, ld, 0), (F.OTP_ODATA1_DATA, ld, 0), (F.OTP_OSTAT_UE, ld, 0)] ∧
        t.flag F.OTP_OSTAT_UE ld 0 = decide ((s.otpWord w).cls = .uncorrectable) ∧
        t.odata ld = (if 16 ≤ w ∧ w ≤ 19 ∨ (s.otpWord w).cls = .uncorrectable then 0 else (s.otpWord w).data % 2 ^ 64)) ∧
      (∀ reburn : Bool, WriteAdmitted s m .OTP_OCMD ld 0 (m.isSvOf ld) (!s.flag F.OTP_OSTAT_BUSY ld 0) → ∃ t,
        exec (if reburn then .ocmdReburn m ld else .ocmdProg m ld) s = .next t ∧
        (s.otpRefusal ld w d reburn = 0 → t.get F.OTP_OSTAT_TOKENS 0 0 = (s.get F.OTP_OSTAT_TOKENS 0 0 - 1) % 32 ∧
          t.get F.OTP_OSTAT_BUSY 0 0 = 1 ∧ t.otpOp = ⟨if reburn then 2 else 1, w, d⟩ ∧ t.otp = s.otp) ∧
        (s.otpRefusal ld w d reburn = 1 → t.get F.OTP_OSTAT_LOCKED ld 0 = 1 ∧ OnlyFields { s with busErr := t.busErr } t [(F.OTP_OSTAT_LOCKED, ld, 0)]) ∧
        (s.otpRefusal ld w d reburn = 2 → t.get F.OTP_OSTAT_RATE ld 0 = 1 ∧ OnlyFields { s with busErr := t.busErr } t [(F.OTP_OSTAT_RATE, ld, 0)]) ∧
        (s.otpRefusal ld w d reburn = 3 → t.get F.OTP_OSTAT_MISMATCH ld 0 = 1 ∧ OnlyFields { s with busErr := t.busErr } t [(F.OTP_OSTAT_MISMATCH, ld, 0)])) ∧
      (∀ r < 8, 256 * r ≤ w → w < 256 * r + 256 → (s.get F.OTP_OLOCK_LOCK 0 0).testBit r = true ∨ (s.otpWord (256 * r + 255)).prog = true ∨ ld ≠ 0 →
        ∀ reburn, s.otpRefusal ld w d reburn = 1) ∧
      (4 ≤ w → w ≤ 6 → ∀ reburn, s.otpRefusal ld w d reburn = 1) ∧
      (∀ set < 256, WriteAdmitted s m .OTP_OLOCKSET ld 0 (m.isSvOf ld) (decide (set < 256)) → ∃ t, exec (.olockset m ld set) s = .next t ∧
        OnlyFields { s with busErr := t.busErr } t [(F.OTP_OLOCK_LOCK, ld, 0)] ∧
        ∀ k < 8, (t.get F.OTP_OLOCK_LOCK ld 0).testBit k = ((s.get F.OTP_OLOCK_LOCK ld 0).testBit k || set.testBit k))) ∧
  (∀ (s : State) (rd : OtpWord), s.otpOp.kind ≠ 0 → ∃ t, exec (.otpOperationDone rd) s = .next t ∧ t.otpOp.kind = 0 ∧
      t.get F.OTP_OSTAT_BUSY 0 0 = 0 ∧ (∀ w, w ≠ s.otpOp.word → t.otpWord w = s.otpWord w) ∧
      (let old := s.otpWord s.otpOp.word
       let new := t.otpWord s.otpOp.word
       (∀ k < 72, (new.norm.testBit k = true ↔ old.norm.testBit k = true ∨ (otpCode s.otpOp.data).testBit k = true ∨ rd.norm.testBit k = true) ∧
         (new.low.testBit k = true ↔ old.low.testBit k = true ∨ rd.low.testBit k = true) ∧
         (new.high.testBit k = true ↔ old.high.testBit k = true ∨ rd.high.testBit k = true)) ∧
       (s.otpOp.data % 2 ^ 64 ≠ 0 → new.prog = true) ∧ t.get F.OTP_OSTAT_WEAK 0 0 = (decide (new.cls = .weak)).toNat) ∧
      (∀ ld ∈ s.lds, ∀ r < 8, (t.get F.OTP_OLOCK_CLOSED ld 0).testBit r = (t.otpWord (256 * r + 255)).prog)) ∧
  (∀ s : State, ∃ t, exec .otpTokenGain s = .next t ∧ t.get F.OTP_OSTAT_TOKENS 0 0 = min 16 (s.get F.OTP_OSTAT_TOKENS 0 0 + 1) ∧
      OnlyFields s t [(F.OTP_OSTAT_TOKENS, 0, 0)])

/-- A register write is refused with its kind logged and nothing else changed where the map or a field refuses it; else each field takes its bits (00, 01, 22). -/
def Obligations.RegisterWritesTakeTheFirstRowOfTheMap : Prop :=
  (∀ (s : State) (m : Master) (addr val same be : Nat), s.portHeld m = true → exec (.registerWrite m addr ⟨val, be⟩ same) s = .next s) ∧
  ∀ (s : State) (m : Master) (addr val same : Nat), s.hasDie m.die = true → s.portHeld m = false → addr < 2 ^ 32 → val < 2 ^ 32 →
    let v := wordBeside addr val same
    let die := addr / 2 ^ 28
    let off := addr % 2 ^ 28
    (∀ be < 16, ∃ t, exec (.registerWrite m addr ⟨val, be⟩ same) s = .next t) ∧
    (s.route m addr ≠ 0 → ∀ be < 16, exec (.registerWrite m addr ⟨val, be⟩ same) s = .next (s.logErr m.die m addr (s.route m addr) true)) ∧
    (s.route m addr = 0 → memArea die off = .none → off % 4 = 0 → findReg die off = none →
      exec (.registerWrite m addr ⟨val, 15⟩ same) s = .next (s.logErr die m addr 5 true)) ∧
    (∀ r idx, s.route m addr = 0 → memArea die off = .none → off % 4 = 0 → findReg die off = some (r, idx) → r.writers ≠ .crc →
      (s.writerOk m r die idx v = false → exec (.registerWrite m addr ⟨val, 15⟩ same) s = .next (s.logErr die m addr 6 true)) ∧
      (s.writerOk m r die idx v = true → s.wordOk r die idx v = false →
        exec (.registerWrite m addr ⟨val, 15⟩ same) s = .next (s.logErr die m addr 7 true)) ∧
      (r ∈ [Reg.TERM_CFG, .TERM_OUTCFG, .TERM_PULSECFG, .HC_HCFG, .HC_TSEL0, .HC_TSEL1, .HC_PAR0, .HC_PAR1, .HC_PAR2, .HC_PAR3, .HC_RST,
          .HC_HIID, .LMR, .HBOWN, .RNG_RINGID, .RNG_ETYPE, .RNG_NODES, .RNG_CFGHASH, .RNG_TURNCFG, .RNG_SLSERV, .RNG_SLFURR, .RNG_SLSPATE,
          .RNG_SPFWD, .RNG_SVCFG, .SPM_TCTL, .LBIST_CFG, .LBIST_EXP0, .LBIST_EXP1, .OTP_OADDR, .OTP_ODATA0, .OTP_ODATA1] →
        (s.writerOk m r die idx v = true → s.wordOk r die idx v = true → ∃ t, exec (.registerWrite m addr ⟨val, 15⟩ same) s = .next t ∧
          t.busErr = false ∧
          (r ≠ .TERM_CFG → r ≠ .HC_HCFG → OnlyFields { s with busErr := t.busErr } t (r.fields.map fun G => (G, die, idx))) ∧
          ∀ G ∈ r.fields, (G.acc = .rw ∨ G.acc = .rwl) → s.ownerFenced r die idx = false →
            t.get G die idx = bitsOf v G.lo G.w) ∧
        (s.writerOk m r die idx v = true → s.gate die = false →
          (∃ G ∈ r.fields, G.acc = .rwl ∧ bitsOf v G.lo G.w ≠ s.fieldValue G die idx % 2 ^ G.w) →
          exec (.registerWrite m addr ⟨val, 15⟩ same) s = .next (s.logErr die m addr 7 true))))

/-- DUAL_EQ, ESTOP and ZONE_IN follow their tables row by row, from STOPPED, OPEN and HELD (R93, R97, R132). -/
def Obligations.StopTablesAreTheSpecs : Prop :=
  (∀ (c : FnCfg) (t : Nat), ((c.type = .dualEq ∨ c.type = .estop) → (Fn.init c t).st = 0) ∧
      (c.type = .zoneIn → c.optBit 0 = true → (Fn.init c t).st = 1)) ∧
  (∀ (c : FnCfg) (i : FnIn) (x : FnSt), c.type = .dualEq →
      let n := (i.closed 0).toNat + (i.closed 1).toNat
      let y := Fn.eval c i x
      let goes := fun (release next : Nat) (timer : Bool) (flag : Nat) =>
        y.bits = release ∧ y.st = next ∧ y.raised = flag ∧ y.tmr = if timer then i.t + c.par0 else x.tmr
      (x.st = 0 → (n = 2 → goes 1 2 false 0) ∧ (n = 1 → goes 0 1 true 0) ∧ (n = 0 → goes 0 0 false 0)) ∧
      (x.st = 1 → (n = 0 → goes 0 0 false 0) ∧ (n = 2 → goes 1 2 false 0) ∧
        (n = 1 → x.tmr ≤ i.t → goes 0 4 false 1) ∧ (n = 1 → i.t < x.tmr → goes 0 1 false 0)) ∧
      (x.st = 2 → (n = 0 → goes 0 0 false 0) ∧ (n = 1 → goes 0 3 true 0) ∧ (n = 2 → goes 1 2 false 0)) ∧
      (x.st = 3 → (n = 0 → goes 0 0 false 0) ∧ (n ≠ 0 → x.tmr ≤ i.t → goes 0 4 false 1) ∧ (n ≠ 0 → i.t < x.tmr → goes 0 3 false 0)) ∧
      (x.st = 4 → (n = 0 → goes 0 0 false 0) ∧ (n ≠ 0 → goes 0 4 false 0))) ∧
  (∀ (c : FnCfg) (i : FnIn) (x : FnSt), c.type = .estop →
      let n := (i.closed 0).toNat + (i.closed 1).toNat
      let y := Fn.eval c i x
      let goes := fun (release next : Nat) (timer : Bool) (flag : Nat) =>
        y.bits = release ∧ y.st = next ∧ y.raised = flag ∧ y.tmr = if timer then i.t + c.par0 else x.tmr
      (x.st = 0 → (n = 0 → goes 0 0 false 0) ∧ (n = 1 → goes 0 1 true 0) ∧ (n = 2 → goes 0 2 false 0)) ∧
      (x.st = 1 → (n = 0 → goes 0 0 false 0) ∧ (n = 2 → goes 0 2 false 0) ∧
        (n = 1 → x.tmr ≤ i.t → goes 0 5 false 1) ∧ (n = 1 → i.t < x.tmr → goes 0 1 false 0)) ∧
      (x.st = 2 → (n = 0 → goes 0 0 false 0) ∧ (n = 1 → goes 0 4 true 0) ∧ (n = 2 → i.reset = true → goes 1 3 false 0) ∧
        (n = 2 → i.reset = false → goes 0 2 false 0)) ∧
      (x.st = 3 → (n = 0 → goes 0 0 false 0) ∧ (n = 1 → goes 0 4 true 0) ∧ (n = 2 → goes 1 3 false 0)) ∧
      (x.st = 4 → (n = 0 → goes 0 0 false 0) ∧ (n ≠ 0 → x.tmr ≤ i.t → goes 0 5 false 1) ∧ (n ≠ 0 → i.t < x.tmr → goes 0 4 false 0)) ∧
      (x.st = 5 → (n = 0 → goes 0 0 false 0) ∧ (n ≠ 0 → goes 0 5 false 0))) ∧
  (∀ (c : FnCfg) (i : FnIn) (x : FnSt), c.type = .zoneIn →
      let y := Fn.eval c i x
      (c.optBit 0 = false → y.bits = i.zone.toNat) ∧
      (c.optBit 0 = true →
        (x.st = 0 → i.zone = false → y.bits = 0 ∧ y.st = 1) ∧ (x.st = 0 → i.zone = true → y.bits = 1 ∧ y.st = 0) ∧
        (x.st = 1 → i.zone = false → y.bits = 0 ∧ y.st = 1) ∧ (x.st = 1 → i.zone = true → i.reset = true → y.bits = 1 ∧ y.st = 0) ∧
        (x.st = 1 → i.zone = true → i.reset = false → y.bits = 0 ∧ y.st = 1)))

/-- A CRC_JOB with a custom set is accepted only within R390 and else answers BAD_PARAM; a CRC.CFG write of another width is refused (R390). -/
def Obligations.CustomCrcSetsAreChecked : Prop :=
  (∀ (s : State) (ld mb : Nat), s.Serves ld mb 0x0122 →
    let c := s.accepted ld mb
    let p := (s.req ld mb).own
    let width := fieldAt p 3 1
    let legal := 8 ≤ width ∧ width ≤ 32 ∧ fieldAt p 4 4 < 2 ^ width ∧ fieldAt p 8 4 < 2 ^ width ∧ fieldAt p 12 4 < 2 ^ width ∧
      fieldAt p 4 4 % 2 = 1
    p.length = 28 → fieldAt p 2 1 = 0 → fieldAt p 16 1 < 4 → zeros p 17 3 = true →
    (¬legal → exec (.crcJob ld mb) s = .next (s.answered c ld mb St.badParam [])) ∧
    (legal → c.hasLd (fieldAt p 0 1) = true → fieldAt p 1 1 < 8 → 1 ≤ fieldAt p 24 4 → fieldAt p 20 4 + fieldAt p 24 4 ≤ 0x400000 →
      c.SvMayWrite (s.serverDie ld mb) .FENCE_LEASE (fieldAt p 0 1) (fieldAt p 1 1) false →
      c.pairBusy (fieldAt p 0 1) (fieldAt p 1 1) = false → ∀ e, c.jobSlot ld = some e → ∃ (u : State) (jobid : Byte),
        exec (.crcJob ld mb) s = .next (s.answered u ld mb St.started [jobid, 0, 0, 0]) ∧
        u.get F.CRC_CFG_WIDTH (fieldAt p 0 1) (fieldAt p 1 1) = width ∧
        u.get F.CRC_POLY_POLY (fieldAt p 0 1) (fieldAt p 1 1) = fieldAt p 4 4 ∧
        u.get F.CRC_INIT_INIT (fieldAt p 0 1) (fieldAt p 1 1) = fieldAt p 8 4 ∧
        u.get F.CRC_XOROUT_XOROUT (fieldAt p 0 1) (fieldAt p 1 1) = fieldAt p 12 4)) ∧
  (∀ (s : State) (m : Master) (ld n v same : Nat), s.hasLd ld = true → s.portHeld m = false → n < 8 → m.die = ld → m.code ≠ 0 →
    s.get F.FENCE_LEASE_OWNER ld n = m.code → s.flag F.CRC_STAT_BUSY ld n = false → v < 2 ^ 32 → (v % 64 < 8 ∨ 32 < v % 64) →
    exec (.registerWrite m (regAddr .CRC_CFG ld n) ⟨v, 15⟩ same) s = .next (s.refuse .CRC_CFG ld n m 7))

end
end

