-- ==== Sys2Proof/Laws/State.lean ====
section
/-! SUPPORT. What each update of Machine/Ops.lean leaves alone: one lemma per field per update, and one per reading of another
numbered store. Each is true by definition. -/

namespace Sys2Proof.Machine

/-! ### `State.put` -/

section
variable (s : State) (F : Fld) (die idx v : Nat)

@[simp] theorem State.put_variant : (s.put F die idx v).variant = s.variant := rfl
@[simp] theorem State.put_rev : (s.put F die idx v).rev = s.rev := rfl
@[simp] theorem State.put_mem : (s.put F die idx v).mem = s.mem := rfl
@[simp] theorem State.put_ecc : (s.put F die idx v).ecc = s.ecc := rfl
@[simp] theorem State.put_flash : (s.put F die idx v).flash = s.flash := rfl
@[simp] theorem State.put_otp : (s.put F die idx v).otp = s.otp := rfl
@[simp] theorem State.put_part : (s.put F die idx v).part = s.part := rfl
@[simp] theorem State.put_tick : (s.put F die idx v).tick = s.tick := rfl
@[simp] theorem State.put_tnumLatch : (s.put F die idx v).tnumLatch = s.tnumLatch := rfl
@[simp] theorem State.put_extRun : (s.put F die idx v).extRun = s.extRun := rfl
@[simp] theorem State.put_jobs : (s.put F die idx v).jobs = s.jobs := rfl
@[simp] theorem State.put_flog : (s.put F die idx v).flog = s.flog := rfl
@[simp] theorem State.put_sv : (s.put F die idx v).sv = s.sv := rfl
@[simp] theorem State.put_fences : (s.put F die idx v).fences = s.fences := rfl
@[simp] theorem State.put_lanes : (s.put F die idx v).lanes = s.lanes := rfl
@[simp] theorem State.put_pinst : (s.put F die idx v).pinst = s.pinst := rfl
@[simp] theorem State.put_busBits : (s.put F die idx v).busBits = s.busBits := rfl
@[simp] theorem State.put_outImg : (s.put F die idx v).outImg = s.outImg := rfl
@[simp] theorem State.put_outWords : (s.put F die idx v).outWords = s.outWords := rfl
@[simp] theorem State.put_frozen : (s.put F die idx v).frozen = s.frozen := rfl
@[simp] theorem State.put_frozenTick : (s.put F die idx v).frozenTick = s.frozenTick := rfl
@[simp] theorem State.put_pIn : (s.put F die idx v).pIn = s.pIn := rfl
@[simp] theorem State.put_capIn : (s.put F die idx v).capIn = s.capIn := rfl
@[simp] theorem State.put_cells : (s.put F die idx v).cells = s.cells := rfl
@[simp] theorem State.put_terms : (s.put F die idx v).terms = s.terms := rfl
@[simp] theorem State.put_fields : (s.put F die idx v).fields = s.fields := rfl
@[simp] theorem State.put_hbus : (s.put F die idx v).hbus = s.hbus := rfl
@[simp] theorem State.put_sieveP : (s.put F die idx v).sieveP = s.sieveP := rfl
@[simp] theorem State.put_sieveH : (s.put F die idx v).sieveH = s.sieveH := rfl
@[simp] theorem State.put_sieveDie : (s.put F die idx v).sieveDie = s.sieveDie := rfl
@[simp] theorem State.put_rings : (s.put F die idx v).rings = s.rings := rfl
@[simp] theorem State.put_ports : (s.put F die idx v).ports = s.ports := rfl
@[simp] theorem State.put_furP : (s.put F die idx v).furP = s.furP := rfl
@[simp] theorem State.put_furH : (s.put F die idx v).furH = s.furH := rfl
@[simp] theorem State.put_marksP : (s.put F die idx v).marksP = s.marksP := rfl
@[simp] theorem State.put_marksH : (s.put F die idx v).marksH = s.marksH := rfl
@[simp] theorem State.put_zoneP : (s.put F die idx v).zoneP = s.zoneP := rfl
@[simp] theorem State.put_htxH : (s.put F die idx v).htxH = s.htxH := rfl
@[simp] theorem State.put_htxMarks : (s.put F die idx v).htxMarks = s.htxMarks := rfl
@[simp] theorem State.put_mbOrder : (s.put F die idx v).mbOrder = s.mbOrder := rfl
@[simp] theorem State.put_remote : (s.put F die idx v).remote = s.remote := rfl
@[simp] theorem State.put_xferC : (s.put F die idx v).xferC = s.xferC := rfl
@[simp] theorem State.put_xferF : (s.put F die idx v).xferF = s.xferF := rfl
@[simp] theorem State.put_xferSeq : (s.put F die idx v).xferSeq = s.xferSeq := rfl
@[simp] theorem State.put_fwStaged : (s.put F die idx v).fwStaged = s.fwStaged := rfl
@[simp] theorem State.put_image : (s.put F die idx v).image = s.image := rfl
@[simp] theorem State.put_soak : (s.put F die idx v).soak = s.soak := rfl
@[simp] theorem State.put_standby : (s.put F die idx v).standby = s.standby := rfl
@[simp] theorem State.put_seals : (s.put F die idx v).seals = s.seals := rfl
@[simp] theorem State.put_spm : (s.put F die idx v).spm = s.spm := rfl
@[simp] theorem State.put_tap : (s.put F die idx v).tap = s.tap := rfl
@[simp] theorem State.put_tapRegs : (s.put F die idx v).tapRegs = s.tapRegs := rfl
@[simp] theorem State.put_prpg : (s.put F die idx v).prpg = s.prpg := rfl
@[simp] theorem State.put_vaultIn : (s.put F die idx v).vaultIn = s.vaultIn := rfl
@[simp] theorem State.put_vaultOpen : (s.put F die idx v).vaultOpen = s.vaultOpen := rfl
@[simp] theorem State.put_host : (s.put F die idx v).host = s.host := rfl
@[simp] theorem State.put_bootRec : (s.put F die idx v).bootRec = s.bootRec := rfl
@[simp] theorem State.put_otpOp : (s.put F die idx v).otpOp = s.otpOp := rfl
@[simp] theorem State.put_sent : (s.put F die idx v).sent = s.sent := rfl
@[simp] theorem State.put_results : (s.put F die idx v).results = s.results := rfl
@[simp] theorem State.put_busErr : (s.put F die idx v).busErr = s.busErr := rfl
@[simp] theorem State.put_freeCtr : (s.put F die idx v).freeCtr = s.freeCtr := rfl
@[simp] theorem State.put_pending : (s.put F die idx v).pending = s.pending := rfl
@[simp] theorem State.put_lane (ld l : Nat) : (s.put F die idx v).lane ld l = s.lane ld l := rfl
@[simp] theorem State.put_inst (iid : Nat) : (s.put F die idx v).inst iid = s.inst iid := rfl
@[simp] theorem State.put_bus (iid b : Nat) : (s.put F die idx v).bus iid b = s.bus iid b := rfl
@[simp] theorem State.put_words (ld fd : Nat) : (s.put F die idx v).words ld fd = s.words ld fd := rfl
@[simp] theorem State.put_frozenWord (ld fd t : Nat) : (s.put F die idx v).frozenWord ld fd t = s.frozenWord ld fd t := rfl
@[simp] theorem State.put_frozenAt (ld fd : Nat) : (s.put F die idx v).frozenAt ld fd = s.frozenAt ld fd := rfl
@[simp] theorem State.put_pRead (ld fd t : Nat) : (s.put F die idx v).pRead ld fd t = s.pRead ld fd t := rfl
@[simp] theorem State.put_capDue (die' n : Nat) : (s.put F die idx v).capDue die' n = s.capDue die' n := rfl
@[simp] theorem State.put_cell (fd c : Nat) : (s.put F die idx v).cell fd c = s.cell fd c := rfl
@[simp] theorem State.put_term (fd t : Nat) : (s.put F die idx v).term fd t = s.term fd t := rfl
@[simp] theorem State.put_field (fd : Nat) : (s.put F die idx v).field fd = s.field fd := rfl
@[simp] theorem State.put_hbit (fd k : Nat) : (s.put F die idx v).hbit fd k = s.hbit fd k := rfl
@[simp] theorem State.put_svP (ld iid : Nat) : (s.put F die idx v).svP ld iid = s.svP ld iid := rfl
@[simp] theorem State.put_svH (fd c : Nat) : (s.put F die idx v).svH fd c = s.svH fd c := rfl
@[simp] theorem State.put_svDie (die' : Nat) : (s.put F die idx v).svDie die' = s.svDie die' := rfl
@[simp] theorem State.put_ring (ld : Nat) : (s.put F die idx v).ring ld = s.ring ld := rfl
@[simp] theorem State.put_port (ld p : Nat) : (s.put F die idx v).port ld p = s.port ld p := rfl
@[simp] theorem State.put_job (ld e : Nat) : (s.put F die idx v).job ld e = s.job ld e := rfl
@[simp] theorem State.put_svst (ld : Nat) : (s.put F die idx v).svst ld = s.svst ld := rfl
@[simp] theorem State.put_rem (ld mb : Nat) : (s.put F die idx v).rem ld mb = s.rem ld mb := rfl
@[simp] theorem State.put_stby (ld n : Nat) : (s.put F die idx v).stby ld n = s.stby ld n := rfl
@[simp] theorem State.put_sealSt (die' : Nat) : (s.put F die idx v).sealSt die' = s.sealSt die' := rfl
@[simp] theorem State.put_spmSt (ld : Nat) : (s.put F die idx v).spmSt ld = s.spmSt ld := rfl
@[simp] theorem State.put_otpWord (w : Nat) : (s.put F die idx v).otpWord w = s.otpWord w := rfl
@[simp] theorem State.put_byte (a : Nat) : (s.put F die idx v).byte a = s.byte a := rfl
@[simp] theorem State.put_eccClass (ld off : Nat) : (s.put F die idx v).eccClass ld off = s.eccClass ld off := rfl
@[simp] theorem State.put_flashByte (a : Nat) : (s.put F die idx v).flashByte a = s.flashByte a := rfl
@[simp] theorem State.put_outBit (ld e : Nat) : (s.put F die idx v).outBit ld e = s.outBit ld e := rfl
@[simp] theorem State.put_free : (s.put F die idx v).free = s.free := rfl
@[simp] theorem State.put_choice : (s.put F die idx v).choice = s.choice := rfl

end

/-! ### `State.putB` -/

section
variable (s : State) (F : Fld) (die idx : Nat) (b : Bool)

@[simp] theorem State.putB_variant : (s.putB F die idx b).variant = s.variant := rfl
@[simp] theorem State.putB_rev : (s.putB F die idx b).rev = s.rev := rfl
@[simp] theorem State.putB_mem : (s.putB F die idx b).mem = s.mem := rfl
@[simp] theorem State.putB_ecc : (s.putB F die idx b).ecc = s.ecc := rfl
@[simp] theorem State.putB_flash : (s.putB F die idx b).flash = s.flash := rfl
@[simp] theorem State.putB_otp : (s.putB F die idx b).otp = s.otp := rfl
@[simp] theorem State.putB_part : (s.putB F die idx b).part = s.part := rfl
@[simp] theorem State.putB_tick : (s.putB F die idx b).tick = s.tick := rfl
@[simp] theorem State.putB_tnumLatch : (s.putB F die idx b).tnumLatch = s.tnumLatch := rfl
@[simp] theorem State.putB_extRun : (s.putB F die idx b).extRun = s.extRun := rfl
@[simp] theorem State.putB_jobs : (s.putB F die idx b).jobs = s.jobs := rfl
@[simp] theorem State.putB_flog : (s.putB F die idx b).flog = s.flog := rfl
@[simp] theorem State.putB_sv : (s.putB F die idx b).sv = s.sv := rfl
@[simp] theorem State.putB_fences : (s.putB F die idx b).fences = s.fences := rfl
@[simp] theorem State.putB_lanes : (s.putB F die idx b).lanes = s.lanes := rfl
@[simp] theorem State.putB_pinst : (s.putB F die idx b).pinst = s.pinst := rfl
@[simp] theorem State.putB_busBits : (s.putB F die idx b).busBits = s.busBits := rfl
@[simp] theorem State.putB_outImg : (s.putB F die idx b).outImg = s.outImg := rfl
@[simp] theorem State.putB_outWords : (s.putB F die idx b).outWords = s.outWords := rfl
@[simp] theorem State.putB_frozen : (s.putB F die idx b).frozen = s.frozen := rfl
@[simp] theorem State.putB_frozenTick : (s.putB F die idx b).frozenTick = s.frozenTick := rfl
@[simp] theorem State.putB_pIn : (s.putB F die idx b).pIn = s.pIn := rfl
@[simp] theorem State.putB_capIn : (s.putB F die idx b).capIn = s.capIn := rfl
@[simp] theorem State.putB_cells : (s.putB F die idx b).cells = s.cells := rfl
@[simp] theorem State.putB_terms : (s.putB F die idx b).terms = s.terms := rfl
@[simp] theorem State.putB_fields : (s.putB F die idx b).fields = s.fields := rfl
@[simp] theorem State.putB_hbus : (s.putB F die idx b).hbus = s.hbus := rfl
@[simp] theorem State.putB_sieveP : (s.putB F die idx b).sieveP = s.sieveP := rfl
@[simp] theorem State.putB_sieveH : (s.putB F die idx b).sieveH = s.sieveH := rfl
@[simp] theorem State.putB_sieveDie : (s.putB F die idx b).sieveDie = s.sieveDie := rfl
@[simp] theorem State.putB_rings : (s.putB F die idx b).rings = s.rings := rfl
@[simp] theorem State.putB_ports : (s.putB F die idx b).ports = s.ports := rfl
@[simp] theorem State.putB_furP : (s.putB F die idx b).furP = s.furP := rfl
@[simp] theorem State.putB_furH : (s.putB F die idx b).furH = s.furH := rfl
@[simp] theorem State.putB_marksP : (s.putB F die idx b).marksP = s.marksP := rfl
@[simp] theorem State.putB_marksH : (s.putB F die idx b).marksH = s.marksH := rfl
@[simp] theorem State.putB_zoneP : (s.putB F die idx b).zoneP = s.zoneP := rfl
@[simp] theorem State.putB_htxH : (s.putB F die idx b).htxH = s.htxH := rfl
@[simp] theorem State.putB_htxMarks : (s.putB F die idx b).htxMarks = s.htxMarks := rfl
@[simp] theorem State.putB_mbOrder : (s.putB F die idx b).mbOrder = s.mbOrder := rfl
@[simp] theorem State.putB_remote : (s.putB F die idx b).remote = s.remote := rfl
@[simp] theorem State.putB_xferC : (s.putB F die idx b).xferC = s.xferC := rfl
@[simp] theorem State.putB_xferF : (s.putB F die idx b).xferF = s.xferF := rfl
@[simp] theorem State.putB_xferSeq : (s.putB F die idx b).xferSeq = s.xferSeq := rfl
@[simp] theorem State.putB_fwStaged : (s.putB F die idx b).fwStaged = s.fwStaged := rfl
@[simp] theorem State.putB_image : (s.putB F die idx b).image = s.image := rfl
@[simp] theorem State.putB_soak : (s.putB F die idx b).soak = s.soak := rfl
@[simp] theorem State.putB_standby : (s.putB F die idx b).standby = s.standby := rfl
@[simp] theorem State.putB_seals : (s.putB F die idx b).seals = s.seals := rfl
@[simp] theorem State.putB_spm : (s.putB F die idx b).spm = s.spm := rfl
@[simp] theorem State.putB_tap : (s.putB F die idx b).tap = s.tap := rfl
@[simp] theorem State.putB_tapRegs : (s.putB F die idx b).tapRegs = s.tapRegs := rfl
@[simp] theorem State.putB_prpg : (s.putB F die idx b).prpg = s.prpg := rfl
@[simp] theorem State.putB_vaultIn : (s.putB F die idx b).vaultIn = s.vaultIn := rfl
@[simp] theorem State.putB_vaultOpen : (s.putB F die idx b).vaultOpen = s.vaultOpen := rfl
@[simp] theorem State.putB_host : (s.putB F die idx b).host = s.host := rfl
@[simp] theorem State.putB_bootRec : (s.putB F die idx b).bootRec = s.bootRec := rfl
@[simp] theorem State.putB_otpOp : (s.putB F die idx b).otpOp = s.otpOp := rfl
@[simp] theorem State.putB_sent : (s.putB F die idx b).sent = s.sent := rfl
@[simp] theorem State.putB_results : (s.putB F die idx b).results = s.results := rfl
@[simp] theorem State.putB_busErr : (s.putB F die idx b).busErr = s.busErr := rfl
@[simp] theorem State.putB_freeCtr : (s.putB F die idx b).freeCtr = s.freeCtr := rfl
@[simp] theorem State.putB_pending : (s.putB F die idx b).pending = s.pending := rfl
@[simp] theorem State.putB_lane (ld l : Nat) : (s.putB F die idx b).lane ld l = s.lane ld l := rfl
@[simp] theorem State.putB_inst (iid : Nat) : (s.putB F die idx b).inst iid = s.inst iid := rfl
@[simp] theorem State.putB_bus (iid b' : Nat) : (s.putB F die idx b).bus iid b' = s.bus iid b' := rfl
@[simp] theorem State.putB_words (ld fd : Nat) : (s.putB F die idx b).words ld fd = s.words ld fd := rfl
@[simp] theorem State.putB_frozenWord (ld fd t : Nat) : (s.putB F die idx b).frozenWord ld fd t = s.frozenWord ld fd t := rfl
@[simp] theorem State.putB_frozenAt (ld fd : Nat) : (s.putB F die idx b).frozenAt ld fd = s.frozenAt ld fd := rfl
@[simp] theorem State.putB_pRead (ld fd t : Nat) : (s.putB F die idx b).pRead ld fd t = s.pRead ld fd t := rfl
@[simp] theorem State.putB_capDue (die' n : Nat) : (s.putB F die idx b).capDue die' n = s.capDue die' n := rfl
@[simp] theorem State.putB_cell (fd c : Nat) : (s.putB F die idx b).cell fd c = s.cell fd c := rfl
@[simp] theorem State.putB_term (fd t : Nat) : (s.putB F die idx b).term fd t = s.term fd t := rfl
@[simp] theorem State.putB_field (fd : Nat) : (s.putB F die idx b).field fd = s.field fd := rfl
@[simp] theorem State.putB_hbit (fd k : Nat) : (s.putB F die idx b).hbit fd k = s.hbit fd k := rfl
@[simp] theorem State.putB_svP (ld iid : Nat) : (s.putB F die idx b).svP ld iid = s.svP ld iid := rfl
@[simp] theorem State.putB_svH (fd c : Nat) : (s.putB F die idx b).svH fd c = s.svH fd c := rfl
@[simp] theorem State.putB_svDie (die' : Nat) : (s.putB F die idx b).svDie die' = s.svDie die' := rfl
@[simp] theorem State.putB_ring (ld : Nat) : (s.putB F die idx b).ring ld = s.ring ld := rfl
@[simp] theorem State.putB_port (ld p : Nat) : (s.putB F die idx b).port ld p = s.port ld p := rfl
@[simp] theorem State.putB_job (ld e : Nat) : (s.putB F die idx b).job ld e = s.job ld e := rfl
@[simp] theorem State.putB_svst (ld : Nat) : (s.putB F die idx b).svst ld = s.svst ld := rfl
@[simp] theorem State.putB_rem (ld mb : Nat) : (s.putB F die idx b).rem ld mb = s.rem ld mb := rfl
@[simp] theorem State.putB_stby (ld n : Nat) : (s.putB F die idx b).stby ld n = s.stby ld n := rfl
@[simp] theorem State.putB_sealSt (die' : Nat) : (s.putB F die idx b).sealSt die' = s.sealSt die' := rfl
@[simp] theorem State.putB_spmSt (ld : Nat) : (s.putB F die idx b).spmSt ld = s.spmSt ld := rfl
@[simp] theorem State.putB_otpWord (w : Nat) : (s.putB F die idx b).otpWord w = s.otpWord w := rfl
@[simp] theorem State.putB_byte (a : Nat) : (s.putB F die idx b).byte a = s.byte a := rfl
@[simp] theorem State.putB_eccClass (ld off : Nat) : (s.putB F die idx b).eccClass ld off = s.eccClass ld off := rfl
@[simp] theorem State.putB_flashByte (a : Nat) : (s.putB F die idx b).flashByte a = s.flashByte a := rfl
@[simp] theorem State.putB_outBit (ld e : Nat) : (s.putB F die idx b).outBit ld e = s.outBit ld e := rfl
@[simp] theorem State.putB_free : (s.putB F die idx b).free = s.free := rfl
@[simp] theorem State.putB_choice : (s.putB F die idx b).choice = s.choice := rfl

end

/-! ### `State.clear` -/

section
variable (s : State) (F : Fld) (die idx : Nat)

@[simp] theorem State.clear_variant : (s.clear F die idx).variant = s.variant := rfl
@[simp] theorem State.clear_rev : (s.clear F die idx).rev = s.rev := rfl
@[simp] theorem State.clear_mem : (s.clear F die idx).mem = s.mem := rfl
@[simp] theorem State.clear_ecc : (s.clear F die idx).ecc = s.ecc := rfl
@[simp] theorem State.clear_flash : (s.clear F die idx).flash = s.flash := rfl
@[simp] theorem State.clear_otp : (s.clear F die idx).otp = s.otp := rfl
@[simp] theorem State.clear_part : (s.clear F die idx).part = s.part := rfl
@[simp] theorem State.clear_tick : (s.clear F die idx).tick = s.tick := rfl
@[simp] theorem State.clear_tnumLatch : (s.clear F die idx).tnumLatch = s.tnumLatch := rfl
@[simp] theorem State.clear_extRun : (s.clear F die idx).extRun = s.extRun := rfl
@[simp] theorem State.clear_jobs : (s.clear F die idx).jobs = s.jobs := rfl
@[simp] theorem State.clear_flog : (s.clear F die idx).flog = s.flog := rfl
@[simp] theorem State.clear_sv : (s.clear F die idx).sv = s.sv := rfl
@[simp] theorem State.clear_fences : (s.clear F die idx).fences = s.fences := rfl
@[simp] theorem State.clear_lanes : (s.clear F die idx).lanes = s.lanes := rfl
@[simp] theorem State.clear_pinst : (s.clear F die idx).pinst = s.pinst := rfl
@[simp] theorem State.clear_busBits : (s.clear F die idx).busBits = s.busBits := rfl
@[simp] theorem State.clear_outImg : (s.clear F die idx).outImg = s.outImg := rfl
@[simp] theorem State.clear_outWords : (s.clear F die idx).outWords = s.outWords := rfl
@[simp] theorem State.clear_frozen : (s.clear F die idx).frozen = s.frozen := rfl
@[simp] theorem State.clear_frozenTick : (s.clear F die idx).frozenTick = s.frozenTick := rfl
@[simp] theorem State.clear_pIn : (s.clear F die idx).pIn = s.pIn := rfl
@[simp] theorem State.clear_capIn : (s.clear F die idx).capIn = s.capIn := rfl
@[simp] theorem State.clear_cells : (s.clear F die idx).cells = s.cells := rfl
@[simp] theorem State.clear_terms : (s.clear F die idx).terms = s.terms := rfl
@[simp] theorem State.clear_fields : (s.clear F die idx).fields = s.fields := rfl
@[simp] theorem State.clear_hbus : (s.clear F die idx).hbus = s.hbus := rfl
@[simp] theorem State.clear_sieveP : (s.clear F die idx).sieveP = s.sieveP := rfl
@[simp] theorem State.clear_sieveH : (s.clear F die idx).sieveH = s.sieveH := rfl
@[simp] theorem State.clear_sieveDie : (s.clear F die idx).sieveDie = s.sieveDie := rfl
@[simp] theorem State.clear_rings : (s.clear F die idx).rings = s.rings := rfl
@[simp] theorem State.clear_ports : (s.clear F die idx).ports = s.ports := rfl
@[simp] theorem State.clear_furP : (s.clear F die idx).furP = s.furP := rfl
@[simp] theorem State.clear_furH : (s.clear F die idx).furH = s.furH := rfl
@[simp] theorem State.clear_marksP : (s.clear F die idx).marksP = s.marksP := rfl
@[simp] theorem State.clear_marksH : (s.clear F die idx).marksH = s.marksH := rfl
@[simp] theorem State.clear_zoneP : (s.clear F die idx).zoneP = s.zoneP := rfl
@[simp] theorem State.clear_htxH : (s.clear F die idx).htxH = s.htxH := rfl
@[simp] theorem State.clear_htxMarks : (s.clear F die idx).htxMarks = s.htxMarks := rfl
@[simp] theorem State.clear_mbOrder : (s.clear F die idx).mbOrder = s.mbOrder := rfl
@[simp] theorem State.clear_remote : (s.clear F die idx).remote = s.remote := rfl
@[simp] theorem State.clear_xferC : (s.clear F die idx).xferC = s.xferC := rfl
@[simp] theorem State.clear_xferF : (s.clear F die idx).xferF = s.xferF := rfl
@[simp] theorem State.clear_xferSeq : (s.clear F die idx).xferSeq = s.xferSeq := rfl
@[simp] theorem State.clear_fwStaged : (s.clear F die idx).fwStaged = s.fwStaged := rfl
@[simp] theorem State.clear_image : (s.clear F die idx).image = s.image := rfl
@[simp] theorem State.clear_soak : (s.clear F die idx).soak = s.soak := rfl
@[simp] theorem State.clear_standby : (s.clear F die idx).standby = s.standby := rfl
@[simp] theorem State.clear_seals : (s.clear F die idx).seals = s.seals := rfl
@[simp] theorem State.clear_spm : (s.clear F die idx).spm = s.spm := rfl
@[simp] theorem State.clear_tap : (s.clear F die idx).tap = s.tap := rfl
@[simp] theorem State.clear_tapRegs : (s.clear F die idx).tapRegs = s.tapRegs := rfl
@[simp] theorem State.clear_prpg : (s.clear F die idx).prpg = s.prpg := rfl
@[simp] theorem State.clear_vaultIn : (s.clear F die idx).vaultIn = s.vaultIn := rfl
@[simp] theorem State.clear_vaultOpen : (s.clear F die idx).vaultOpen = s.vaultOpen := rfl
@[simp] theorem State.clear_host : (s.clear F die idx).host = s.host := rfl
@[simp] theorem State.clear_bootRec : (s.clear F die idx).bootRec = s.bootRec := rfl
@[simp] theorem State.clear_otpOp : (s.clear F die idx).otpOp = s.otpOp := rfl
@[simp] theorem State.clear_sent : (s.clear F die idx).sent = s.sent := rfl
@[simp] theorem State.clear_results : (s.clear F die idx).results = s.results := rfl
@[simp] theorem State.clear_busErr : (s.clear F die idx).busErr = s.busErr := rfl
@[simp] theorem State.clear_freeCtr : (s.clear F die idx).freeCtr = s.freeCtr := rfl
@[simp] theorem State.clear_pending : (s.clear F die idx).pending = s.pending := rfl
@[simp] theorem State.clear_lane (ld l : Nat) : (s.clear F die idx).lane ld l = s.lane ld l := rfl
@[simp] theorem State.clear_inst (iid : Nat) : (s.clear F die idx).inst iid = s.inst iid := rfl
@[simp] theorem State.clear_bus (iid b : Nat) : (s.clear F die idx).bus iid b = s.bus iid b := rfl
@[simp] theorem State.clear_words (ld fd : Nat) : (s.clear F die idx).words ld fd = s.words ld fd := rfl
@[simp] theorem State.clear_frozenWord (ld fd t : Nat) : (s.clear F die idx).frozenWord ld fd t = s.frozenWord ld fd t := rfl
@[simp] theorem State.clear_frozenAt (ld fd : Nat) : (s.clear F die idx).frozenAt ld fd = s.frozenAt ld fd := rfl
@[simp] theorem State.clear_pRead (ld fd t : Nat) : (s.clear F die idx).pRead ld fd t = s.pRead ld fd t := rfl
@[simp] theorem State.clear_capDue (die' n : Nat) : (s.clear F die idx).capDue die' n = s.capDue die' n := rfl
@[simp] theorem State.clear_cell (fd c : Nat) : (s.clear F die idx).cell fd c = s.cell fd c := rfl
@[simp] theorem State.clear_term (fd t : Nat) : (s.clear F die idx).term fd t = s.term fd t := rfl
@[simp] theorem State.clear_field (fd : Nat) : (s.clear F die idx).field fd = s.field fd := rfl
@[simp] theorem State.clear_hbit (fd k : Nat) : (s.clear F die idx).hbit fd k = s.hbit fd k := rfl
@[simp] theorem State.clear_svP (ld iid : Nat) : (s.clear F die idx).svP ld iid = s.svP ld iid := rfl
@[simp] theorem State.clear_svH (fd c : Nat) : (s.clear F die idx).svH fd c = s.svH fd c := rfl
@[simp] theorem State.clear_svDie (die' : Nat) : (s.clear F die idx).svDie die' = s.svDie die' := rfl
@[simp] theorem State.clear_ring (ld : Nat) : (s.clear F die idx).ring ld = s.ring ld := rfl
@[simp] theorem State.clear_port (ld p : Nat) : (s.clear F die idx).port ld p = s.port ld p := rfl
@[simp] theorem State.clear_job (ld e : Nat) : (s.clear F die idx).job ld e = s.job ld e := rfl
@[simp] theorem State.clear_svst (ld : Nat) : (s.clear F die idx).svst ld = s.svst ld := rfl
@[simp] theorem State.clear_rem (ld mb : Nat) : (s.clear F die idx).rem ld mb = s.rem ld mb := rfl
@[simp] theorem State.clear_stby (ld n : Nat) : (s.clear F die idx).stby ld n = s.stby ld n := rfl
@[simp] theorem State.clear_sealSt (die' : Nat) : (s.clear F die idx).sealSt die' = s.sealSt die' := rfl
@[simp] theorem State.clear_spmSt (ld : Nat) : (s.clear F die idx).spmSt ld = s.spmSt ld := rfl
@[simp] theorem State.clear_otpWord (w : Nat) : (s.clear F die idx).otpWord w = s.otpWord w := rfl
@[simp] theorem State.clear_byte (a : Nat) : (s.clear F die idx).byte a = s.byte a := rfl
@[simp] theorem State.clear_eccClass (ld off : Nat) : (s.clear F die idx).eccClass ld off = s.eccClass ld off := rfl
@[simp] theorem State.clear_flashByte (a : Nat) : (s.clear F die idx).flashByte a = s.flashByte a := rfl
@[simp] theorem State.clear_outBit (ld e : Nat) : (s.clear F die idx).outBit ld e = s.outBit ld e := rfl
@[simp] theorem State.clear_free : (s.clear F die idx).free = s.free := rfl
@[simp] theorem State.clear_choice : (s.clear F die idx).choice = s.choice := rfl

end

/-! ### `State.setLane` -/

section
variable (s : State) (ld l : Nat) (v : LaneSt)

@[simp] theorem State.setLane_variant : (s.setLane ld l v).variant = s.variant := rfl
@[simp] theorem State.setLane_rev : (s.setLane ld l v).rev = s.rev := rfl
@[simp] theorem State.setLane_regs : (s.setLane ld l v).regs = s.regs := rfl
@[simp] theorem State.setLane_mem : (s.setLane ld l v).mem = s.mem := rfl
@[simp] theorem State.setLane_ecc : (s.setLane ld l v).ecc = s.ecc := rfl
@[simp] theorem State.setLane_flash : (s.setLane ld l v).flash = s.flash := rfl
@[simp] theorem State.setLane_otp : (s.setLane ld l v).otp = s.otp := rfl
@[simp] theorem State.setLane_part : (s.setLane ld l v).part = s.part := rfl
@[simp] theorem State.setLane_tick : (s.setLane ld l v).tick = s.tick := rfl
@[simp] theorem State.setLane_tnumLatch : (s.setLane ld l v).tnumLatch = s.tnumLatch := rfl
@[simp] theorem State.setLane_extRun : (s.setLane ld l v).extRun = s.extRun := rfl
@[simp] theorem State.setLane_jobs : (s.setLane ld l v).jobs = s.jobs := rfl
@[simp] theorem State.setLane_flog : (s.setLane ld l v).flog = s.flog := rfl
@[simp] theorem State.setLane_sv : (s.setLane ld l v).sv = s.sv := rfl
@[simp] theorem State.setLane_fences : (s.setLane ld l v).fences = s.fences := rfl
@[simp] theorem State.setLane_pinst : (s.setLane ld l v).pinst = s.pinst := rfl
@[simp] theorem State.setLane_busBits : (s.setLane ld l v).busBits = s.busBits := rfl
@[simp] theorem State.setLane_outImg : (s.setLane ld l v).outImg = s.outImg := rfl
@[simp] theorem State.setLane_outWords : (s.setLane ld l v).outWords = s.outWords := rfl
@[simp] theorem State.setLane_frozen : (s.setLane ld l v).frozen = s.frozen := rfl
@[simp] theorem State.setLane_frozenTick : (s.setLane ld l v).frozenTick = s.frozenTick := rfl
@[simp] theorem State.setLane_pIn : (s.setLane ld l v).pIn = s.pIn := rfl
@[simp] theorem State.setLane_capIn : (s.setLane ld l v).capIn = s.capIn := rfl
@[simp] theorem State.setLane_cells : (s.setLane ld l v).cells = s.cells := rfl
@[simp] theorem State.setLane_terms : (s.setLane ld l v).terms = s.terms := rfl
@[simp] theorem State.setLane_fields : (s.setLane ld l v).fields = s.fields := rfl
@[simp] theorem State.setLane_hbus : (s.setLane ld l v).hbus = s.hbus := rfl
@[simp] theorem State.setLane_sieveP : (s.setLane ld l v).sieveP = s.sieveP := rfl
@[simp] theorem State.setLane_sieveH : (s.setLane ld l v).sieveH = s.sieveH := rfl
@[simp] theorem State.setLane_sieveDie : (s.setLane ld l v).sieveDie = s.sieveDie := rfl
@[simp] theorem State.setLane_rings : (s.setLane ld l v).rings = s.rings := rfl
@[simp] theorem State.setLane_ports : (s.setLane ld l v).ports = s.ports := rfl
@[simp] theorem State.setLane_furP : (s.setLane ld l v).furP = s.furP := rfl
@[simp] theorem State.setLane_furH : (s.setLane ld l v).furH = s.furH := rfl
@[simp] theorem State.setLane_marksP : (s.setLane ld l v).marksP = s.marksP := rfl
@[simp] theorem State.setLane_marksH : (s.setLane ld l v).marksH = s.marksH := rfl
@[simp] theorem State.setLane_zoneP : (s.setLane ld l v).zoneP = s.zoneP := rfl
@[simp] theorem State.setLane_htxH : (s.setLane ld l v).htxH = s.htxH := rfl
@[simp] theorem State.setLane_htxMarks : (s.setLane ld l v).htxMarks = s.htxMarks := rfl
@[simp] theorem State.setLane_mbOrder : (s.setLane ld l v).mbOrder = s.mbOrder := rfl
@[simp] theorem State.setLane_remote : (s.setLane ld l v).remote = s.remote := rfl
@[simp] theorem State.setLane_xferC : (s.setLane ld l v).xferC = s.xferC := rfl
@[simp] theorem State.setLane_xferF : (s.setLane ld l v).xferF = s.xferF := rfl
@[simp] theorem State.setLane_xferSeq : (s.setLane ld l v).xferSeq = s.xferSeq := rfl
@[simp] theorem State.setLane_fwStaged : (s.setLane ld l v).fwStaged = s.fwStaged := rfl
@[simp] theorem State.setLane_image : (s.setLane ld l v).image = s.image := rfl
@[simp] theorem State.setLane_soak : (s.setLane ld l v).soak = s.soak := rfl
@[simp] theorem State.setLane_standby : (s.setLane ld l v).standby = s.standby := rfl
@[simp] theorem State.setLane_seals : (s.setLane ld l v).seals = s.seals := rfl
@[simp] theorem State.setLane_spm : (s.setLane ld l v).spm = s.spm := rfl
@[simp] theorem State.setLane_tap : (s.setLane ld l v).tap = s.tap := rfl
@[simp] theorem State.setLane_tapRegs : (s.setLane ld l v).tapRegs = s.tapRegs := rfl
@[simp] theorem State.setLane_prpg : (s.setLane ld l v).prpg = s.prpg := rfl
@[simp] theorem State.setLane_vaultIn : (s.setLane ld l v).vaultIn = s.vaultIn := rfl
@[simp] theorem State.setLane_vaultOpen : (s.setLane ld l v).vaultOpen = s.vaultOpen := rfl
@[simp] theorem State.setLane_host : (s.setLane ld l v).host = s.host := rfl
@[simp] theorem State.setLane_bootRec : (s.setLane ld l v).bootRec = s.bootRec := rfl
@[simp] theorem State.setLane_otpOp : (s.setLane ld l v).otpOp = s.otpOp := rfl
@[simp] theorem State.setLane_sent : (s.setLane ld l v).sent = s.sent := rfl
@[simp] theorem State.setLane_results : (s.setLane ld l v).results = s.results := rfl
@[simp] theorem State.setLane_busErr : (s.setLane ld l v).busErr = s.busErr := rfl
@[simp] theorem State.setLane_freeCtr : (s.setLane ld l v).freeCtr = s.freeCtr := rfl
@[simp] theorem State.setLane_pending : (s.setLane ld l v).pending = s.pending := rfl
@[simp] theorem State.setLane_inst (iid : Nat) : (s.setLane ld l v).inst iid = s.inst iid := rfl
@[simp] theorem State.setLane_bus (iid b : Nat) : (s.setLane ld l v).bus iid b = s.bus iid b := rfl
@[simp] theorem State.setLane_words (ld' fd : Nat) : (s.setLane ld l v).words ld' fd = s.words ld' fd := rfl
@[simp] theorem State.setLane_frozenWord (ld' fd t : Nat) : (s.setLane ld l v).frozenWord ld' fd t = s.frozenWord ld' fd t := rfl
@[simp] theorem State.setLane_frozenAt (ld' fd : Nat) : (s.setLane ld l v).frozenAt ld' fd = s.frozenAt ld' fd := rfl
@[simp] theorem State.setLane_pRead (ld' fd t : Nat) : (s.setLane ld l v).pRead ld' fd t = s.pRead ld' fd t := rfl
@[simp] theorem State.setLane_capDue (die n : Nat) : (s.setLane ld l v).capDue die n = s.capDue die n := rfl
@[simp] theorem State.setLane_cell (fd c : Nat) : (s.setLane ld l v).cell fd c = s.cell fd c := rfl
@[simp] theorem State.setLane_term (fd t : Nat) : (s.setLane ld l v).term fd t = s.term fd t := rfl
@[simp] theorem State.setLane_field (fd : Nat) : (s.setLane ld l v).field fd = s.field fd := rfl
@[simp] theorem State.setLane_hbit (fd k : Nat) : (s.setLane ld l v).hbit fd k = s.hbit fd k := rfl
@[simp] theorem State.setLane_svP (ld' iid : Nat) : (s.setLane ld l v).svP ld' iid = s.svP ld' iid := rfl
@[simp] theorem State.setLane_svH (fd c : Nat) : (s.setLane ld l v).svH fd c = s.svH fd c := rfl
@[simp] theorem State.setLane_svDie (die : Nat) : (s.setLane ld l v).svDie die = s.svDie die := rfl
@[simp] theorem State.setLane_ring (ld' : Nat) : (s.setLane ld l v).ring ld' = s.ring ld' := rfl
@[simp] theorem State.setLane_port (ld' p : Nat) : (s.setLane ld l v).port ld' p = s.port ld' p := rfl
@[simp] theorem State.setLane_job (ld' e : Nat) : (s.setLane ld l v).job ld' e = s.job ld' e := rfl
@[simp] theorem State.setLane_svst (ld' : Nat) : (s.setLane ld l v).svst ld' = s.svst ld' := rfl
@[simp] theorem State.setLane_rem (ld' mb : Nat) : (s.setLane ld l v).rem ld' mb = s.rem ld' mb := rfl
@[simp] theorem State.setLane_stby (ld' n : Nat) : (s.setLane ld l v).stby ld' n = s.stby ld' n := rfl
@[simp] theorem State.setLane_sealSt (die : Nat) : (s.setLane ld l v).sealSt die = s.sealSt die := rfl
@[simp] theorem State.setLane_spmSt (ld' : Nat) : (s.setLane ld l v).spmSt ld' = s.spmSt ld' := rfl
@[simp] theorem State.setLane_otpWord (w : Nat) : (s.setLane ld l v).otpWord w = s.otpWord w := rfl
@[simp] theorem State.setLane_byte (a : Nat) : (s.setLane ld l v).byte a = s.byte a := rfl
@[simp] theorem State.setLane_eccClass (ld' off : Nat) : (s.setLane ld l v).eccClass ld' off = s.eccClass ld' off := rfl
@[simp] theorem State.setLane_flashByte (a : Nat) : (s.setLane ld l v).flashByte a = s.flashByte a := rfl
@[simp] theorem State.setLane_get (G : Fld) (e j : Nat) : (s.setLane ld l v).get G e j = s.get G e j := rfl
@[simp] theorem State.setLane_flag (G : Fld) (e j : Nat) : (s.setLane ld l v).flag G e j = s.flag G e j := rfl
@[simp] theorem State.setLane_outBit (ld' e : Nat) : (s.setLane ld l v).outBit ld' e = s.outBit ld' e := rfl
@[simp] theorem State.setLane_free : (s.setLane ld l v).free = s.free := rfl
@[simp] theorem State.setLane_choice : (s.setLane ld l v).choice = s.choice := rfl

end

/-! ### `State.setInst` -/

section
variable (s : State) (iid : Nat) (v : PInst)

@[simp] theorem State.setInst_variant : (s.setInst iid v).variant = s.variant := rfl
@[simp] theorem State.setInst_rev : (s.setInst iid v).rev = s.rev := rfl
@[simp] theorem State.setInst_regs : (s.setInst iid v).regs = s.regs := rfl
@[simp] theorem State.setInst_mem : (s.setInst iid v).mem = s.mem := rfl
@[simp] theorem State.setInst_ecc : (s.setInst iid v).ecc = s.ecc := rfl
@[simp] theorem State.setInst_flash : (s.setInst iid v).flash = s.flash := rfl
@[simp] theorem State.setInst_otp : (s.setInst iid v).otp = s.otp := rfl
@[simp] theorem State.setInst_part : (s.setInst iid v).part = s.part := rfl
@[simp] theorem State.setInst_tick : (s.setInst iid v).tick = s.tick := rfl
@[simp] theorem State.setInst_tnumLatch : (s.setInst iid v).tnumLatch = s.tnumLatch := rfl
@[simp] theorem State.setInst_extRun : (s.setInst iid v).extRun = s.extRun := rfl
@[simp] theorem State.setInst_jobs : (s.setInst iid v).jobs = s.jobs := rfl
@[simp] theorem State.setInst_flog : (s.setInst iid v).flog = s.flog := rfl
@[simp] theorem State.setInst_sv : (s.setInst iid v).sv = s.sv := rfl
@[simp] theorem State.setInst_fences : (s.setInst iid v).fences = s.fences := rfl
@[simp] theorem State.setInst_lanes : (s.setInst iid v).lanes = s.lanes := rfl
@[simp] theorem State.setInst_busBits : (s.setInst iid v).busBits = s.busBits := rfl
@[simp] theorem State.setInst_outImg : (s.setInst iid v).outImg = s.outImg := rfl
@[simp] theorem State.setInst_outWords : (s.setInst iid v).outWords = s.outWords := rfl
@[simp] theorem State.setInst_frozen : (s.setInst iid v).frozen = s.frozen := rfl
@[simp] theorem State.setInst_frozenTick : (s.setInst iid v).frozenTick = s.frozenTick := rfl
@[simp] theorem State.setInst_pIn : (s.setInst iid v).pIn = s.pIn := rfl
@[simp] theorem State.setInst_capIn : (s.setInst iid v).capIn = s.capIn := rfl
@[simp] theorem State.setInst_cells : (s.setInst iid v).cells = s.cells := rfl
@[simp] theorem State.setInst_terms : (s.setInst iid v).terms = s.terms := rfl
@[simp] theorem State.setInst_fields : (s.setInst iid v).fields = s.fields := rfl
@[simp] theorem State.setInst_hbus : (s.setInst iid v).hbus = s.hbus := rfl
@[simp] theorem State.setInst_sieveP : (s.setInst iid v).sieveP = s.sieveP := rfl
@[simp] theorem State.setInst_sieveH : (s.setInst iid v).sieveH = s.sieveH := rfl
@[simp] theorem State.setInst_sieveDie : (s.setInst iid v).sieveDie = s.sieveDie := rfl
@[simp] theorem State.setInst_rings : (s.setInst iid v).rings = s.rings := rfl
@[simp] theorem State.setInst_ports : (s.setInst iid v).ports = s.ports := rfl
@[simp] theorem State.setInst_furP : (s.setInst iid v).furP = s.furP := rfl
@[simp] theorem State.setInst_furH : (s.setInst iid v).furH = s.furH := rfl
@[simp] theorem State.setInst_marksP : (s.setInst iid v).marksP = s.marksP := rfl
@[simp] theorem State.setInst_marksH : (s.setInst iid v).marksH = s.marksH := rfl
@[simp] theorem State.setInst_zoneP : (s.setInst iid v).zoneP = s.zoneP := rfl
@[simp] theorem State.setInst_htxH : (s.setInst iid v).htxH = s.htxH := rfl
@[simp] theorem State.setInst_htxMarks : (s.setInst iid v).htxMarks = s.htxMarks := rfl
@[simp] theorem State.setInst_mbOrder : (s.setInst iid v).mbOrder = s.mbOrder := rfl
@[simp] theorem State.setInst_remote : (s.setInst iid v).remote = s.remote := rfl
@[simp] theorem State.setInst_xferC : (s.setInst iid v).xferC = s.xferC := rfl
@[simp] theorem State.setInst_xferF : (s.setInst iid v).xferF = s.xferF := rfl
@[simp] theorem State.setInst_xferSeq : (s.setInst iid v).xferSeq = s.xferSeq := rfl
@[simp] theorem State.setInst_fwStaged : (s.setInst iid v).fwStaged = s.fwStaged := rfl
@[simp] theorem State.setInst_image : (s.setInst iid v).image = s.image := rfl
@[simp] theorem State.setInst_soak : (s.setInst iid v).soak = s.soak := rfl
@[simp] theorem State.setInst_standby : (s.setInst iid v).standby = s.standby := rfl
@[simp] theorem State.setInst_seals : (s.setInst iid v).seals = s.seals := rfl
@[simp] theorem State.setInst_spm : (s.setInst iid v).spm = s.spm := rfl
@[simp] theorem State.setInst_tap : (s.setInst iid v).tap = s.tap := rfl
@[simp] theorem State.setInst_tapRegs : (s.setInst iid v).tapRegs = s.tapRegs := rfl
@[simp] theorem State.setInst_prpg : (s.setInst iid v).prpg = s.prpg := rfl
@[simp] theorem State.setInst_vaultIn : (s.setInst iid v).vaultIn = s.vaultIn := rfl
@[simp] theorem State.setInst_vaultOpen : (s.setInst iid v).vaultOpen = s.vaultOpen := rfl
@[simp] theorem State.setInst_host : (s.setInst iid v).host = s.host := rfl
@[simp] theorem State.setInst_bootRec : (s.setInst iid v).bootRec = s.bootRec := rfl
@[simp] theorem State.setInst_otpOp : (s.setInst iid v).otpOp = s.otpOp := rfl
@[simp] theorem State.setInst_sent : (s.setInst iid v).sent = s.sent := rfl
@[simp] theorem State.setInst_results : (s.setInst iid v).results = s.results := rfl
@[simp] theorem State.setInst_busErr : (s.setInst iid v).busErr = s.busErr := rfl
@[simp] theorem State.setInst_freeCtr : (s.setInst iid v).freeCtr = s.freeCtr := rfl
@[simp] theorem State.setInst_pending : (s.setInst iid v).pending = s.pending := rfl
@[simp] theorem State.setInst_lane (ld l : Nat) : (s.setInst iid v).lane ld l = s.lane ld l := rfl
@[simp] theorem State.setInst_bus (iid' b : Nat) : (s.setInst iid v).bus iid' b = s.bus iid' b := rfl
@[simp] theorem State.setInst_words (ld fd : Nat) : (s.setInst iid v).words ld fd = s.words ld fd := rfl
@[simp] theorem State.setInst_frozenWord (ld fd t : Nat) : (s.setInst iid v).frozenWord ld fd t = s.frozenWord ld fd t := rfl
@[simp] theorem State.setInst_frozenAt (ld fd : Nat) : (s.setInst iid v).frozenAt ld fd = s.frozenAt ld fd := rfl
@[simp] theorem State.setInst_pRead (ld fd t : Nat) : (s.setInst iid v).pRead ld fd t = s.pRead ld fd t := rfl
@[simp] theorem State.setInst_capDue (die n : Nat) : (s.setInst iid v).capDue die n = s.capDue die n := rfl
@[simp] theorem State.setInst_cell (fd c : Nat) : (s.setInst iid v).cell fd c = s.cell fd c := rfl
@[simp] theorem State.setInst_term (fd t : Nat) : (s.setInst iid v).term fd t = s.term fd t := rfl
@[simp] theorem State.setInst_field (fd : Nat) : (s.setInst iid v).field fd = s.field fd := rfl
@[simp] theorem State.setInst_hbit (fd k : Nat) : (s.setInst iid v).hbit fd k = s.hbit fd k := rfl
@[simp] theorem State.setInst_svP (ld iid' : Nat) : (s.setInst iid v).svP ld iid' = s.svP ld iid' := rfl
@[simp] theorem State.setInst_svH (fd c : Nat) : (s.setInst iid v).svH fd c = s.svH fd c := rfl
@[simp] theorem State.setInst_svDie (die : Nat) : (s.setInst iid v).svDie die = s.svDie die := rfl
@[simp] theorem State.setInst_ring (ld : Nat) : (s.setInst iid v).ring ld = s.ring ld := rfl
@[simp] theorem State.setInst_port (ld p : Nat) : (s.setInst iid v).port ld p = s.port ld p := rfl
@[simp] theorem State.setInst_job (ld e : Nat) : (s.setInst iid v).job ld e = s.job ld e := rfl
@[simp] theorem State.setInst_svst (ld : Nat) : (s.setInst iid v).svst ld = s.svst ld := rfl
@[simp] theorem State.setInst_rem (ld mb : Nat) : (s.setInst iid v).rem ld mb = s.rem ld mb := rfl
@[simp] theorem State.setInst_stby (ld n : Nat) : (s.setInst iid v).stby ld n = s.stby ld n := rfl
@[simp] theorem State.setInst_sealSt (die : Nat) : (s.setInst iid v).sealSt die = s.sealSt die := rfl
@[simp] theorem State.setInst_spmSt (ld : Nat) : (s.setInst iid v).spmSt ld = s.spmSt ld := rfl
@[simp] theorem State.setInst_otpWord (w : Nat) : (s.setInst iid v).otpWord w = s.otpWord w := rfl
@[simp] theorem State.setInst_byte (a : Nat) : (s.setInst iid v).byte a = s.byte a := rfl
@[simp] theorem State.setInst_eccClass (ld off : Nat) : (s.setInst iid v).eccClass ld off = s.eccClass ld off := rfl
@[simp] theorem State.setInst_flashByte (a : Nat) : (s.setInst iid v).flashByte a = s.flashByte a := rfl
@[simp] theorem State.setInst_get (G : Fld) (e j : Nat) : (s.setInst iid v).get G e j = s.get G e j := rfl
@[simp] theorem State.setInst_flag (G : Fld) (e j : Nat) : (s.setInst iid v).flag G e j = s.flag G e j := rfl
@[simp] theorem State.setInst_outBit (ld e : Nat) : (s.setInst iid v).outBit ld e = s.outBit ld e := rfl
@[simp] theorem State.setInst_free : (s.setInst iid v).free = s.free := rfl
@[simp] theorem State.setInst_choice : (s.setInst iid v).choice = s.choice := rfl

end

/-! ### `State.setBus` -/

section
variable (s : State) (iid b : Nat) (v : BusBit)

@[simp] theorem State.setBus_variant : (s.setBus iid b v).variant = s.variant := rfl
@[simp] theorem State.setBus_rev : (s.setBus iid b v).rev = s.rev := rfl
@[simp] theorem State.setBus_regs : (s.setBus iid b v).regs = s.regs := rfl
@[simp] theorem State.setBus_mem : (s.setBus iid b v).mem = s.mem := rfl
@[simp] theorem State.setBus_ecc : (s.setBus iid b v).ecc = s.ecc := rfl
@[simp] theorem State.setBus_flash : (s.setBus iid b v).flash = s.flash := rfl
@[simp] theorem State.setBus_otp : (s.setBus iid b v).otp = s.otp := rfl
@[simp] theorem State.setBus_part : (s.setBus iid b v).part = s.part := rfl
@[simp] theorem State.setBus_tick : (s.setBus iid b v).tick = s.tick := rfl
@[simp] theorem State.setBus_tnumLatch : (s.setBus iid b v).tnumLatch = s.tnumLatch := rfl
@[simp] theorem State.setBus_extRun : (s.setBus iid b v).extRun = s.extRun := rfl
@[simp] theorem State.setBus_jobs : (s.setBus iid b v).jobs = s.jobs := rfl
@[simp] theorem State.setBus_flog : (s.setBus iid b v).flog = s.flog := rfl
@[simp] theorem State.setBus_sv : (s.setBus iid b v).sv = s.sv := rfl
@[simp] theorem State.setBus_fences : (s.setBus iid b v).fences = s.fences := rfl
@[simp] theorem State.setBus_lanes : (s.setBus iid b v).lanes = s.lanes := rfl
@[simp] theorem State.setBus_pinst : (s.setBus iid b v).pinst = s.pinst := rfl
@[simp] theorem State.setBus_outImg : (s.setBus iid b v).outImg = s.outImg := rfl
@[simp] theorem State.setBus_outWords : (s.setBus iid b v).outWords = s.outWords := rfl
@[simp] theorem State.setBus_frozen : (s.setBus iid b v).frozen = s.frozen := rfl
@[simp] theorem State.setBus_frozenTick : (s.setBus iid b v).frozenTick = s.frozenTick := rfl
@[simp] theorem State.setBus_pIn : (s.setBus iid b v).pIn = s.pIn := rfl
@[simp] theorem State.setBus_capIn : (s.setBus iid b v).capIn = s.capIn := rfl
@[simp] theorem State.setBus_cells : (s.setBus iid b v).cells = s.cells := rfl
@[simp] theorem State.setBus_terms : (s.setBus iid b v).terms = s.terms := rfl
@[simp] theorem State.setBus_fields : (s.setBus iid b v).fields = s.fields := rfl
@[simp] theorem State.setBus_hbus : (s.setBus iid b v).hbus = s.hbus := rfl
@[simp] theorem State.setBus_sieveP : (s.setBus iid b v).sieveP = s.sieveP := rfl
@[simp] theorem State.setBus_sieveH : (s.setBus iid b v).sieveH = s.sieveH := rfl
@[simp] theorem State.setBus_sieveDie : (s.setBus iid b v).sieveDie = s.sieveDie := rfl
@[simp] theorem State.setBus_rings : (s.setBus iid b v).rings = s.rings := rfl
@[simp] theorem State.setBus_ports : (s.setBus iid b v).ports = s.ports := rfl
@[simp] theorem State.setBus_furP : (s.setBus iid b v).furP = s.furP := rfl
@[simp] theorem State.setBus_furH : (s.setBus iid b v).furH = s.furH := rfl
@[simp] theorem State.setBus_marksP : (s.setBus iid b v).marksP = s.marksP := rfl
@[simp] theorem State.setBus_marksH : (s.setBus iid b v).marksH = s.marksH := rfl
@[simp] theorem State.setBus_zoneP : (s.setBus iid b v).zoneP = s.zoneP := rfl
@[simp] theorem State.setBus_htxH : (s.setBus iid b v).htxH = s.htxH := rfl
@[simp] theorem State.setBus_htxMarks : (s.setBus iid b v).htxMarks = s.htxMarks := rfl
@[simp] theorem State.setBus_mbOrder : (s.setBus iid b v).mbOrder = s.mbOrder := rfl
@[simp] theorem State.setBus_remote : (s.setBus iid b v).remote = s.remote := rfl
@[simp] theorem State.setBus_xferC : (s.setBus iid b v).xferC = s.xferC := rfl
@[simp] theorem State.setBus_xferF : (s.setBus iid b v).xferF = s.xferF := rfl
@[simp] theorem State.setBus_xferSeq : (s.setBus iid b v).xferSeq = s.xferSeq := rfl
@[simp] theorem State.setBus_fwStaged : (s.setBus iid b v).fwStaged = s.fwStaged := rfl
@[simp] theorem State.setBus_image : (s.setBus iid b v).image = s.image := rfl
@[simp] theorem State.setBus_soak : (s.setBus iid b v).soak = s.soak := rfl
@[simp] theorem State.setBus_standby : (s.setBus iid b v).standby = s.standby := rfl
@[simp] theorem State.setBus_seals : (s.setBus iid b v).seals = s.seals := rfl
@[simp] theorem State.setBus_spm : (s.setBus iid b v).spm = s.spm := rfl
@[simp] theorem State.setBus_tap : (s.setBus iid b v).tap = s.tap := rfl
@[simp] theorem State.setBus_tapRegs : (s.setBus iid b v).tapRegs = s.tapRegs := rfl
@[simp] theorem State.setBus_prpg : (s.setBus iid b v).prpg = s.prpg := rfl
@[simp] theorem State.setBus_vaultIn : (s.setBus iid b v).vaultIn = s.vaultIn := rfl
@[simp] theorem State.setBus_vaultOpen : (s.setBus iid b v).vaultOpen = s.vaultOpen := rfl
@[simp] theorem State.setBus_host : (s.setBus iid b v).host = s.host := rfl
@[simp] theorem State.setBus_bootRec : (s.setBus iid b v).bootRec = s.bootRec := rfl
@[simp] theorem State.setBus_otpOp : (s.setBus iid b v).otpOp = s.otpOp := rfl
@[simp] theorem State.setBus_sent : (s.setBus iid b v).sent = s.sent := rfl
@[simp] theorem State.setBus_results : (s.setBus iid b v).results = s.results := rfl
@[simp] theorem State.setBus_busErr : (s.setBus iid b v).busErr = s.busErr := rfl
@[simp] theorem State.setBus_freeCtr : (s.setBus iid b v).freeCtr = s.freeCtr := rfl
@[simp] theorem State.setBus_pending : (s.setBus iid b v).pending = s.pending := rfl
@[simp] theorem State.setBus_lane (ld l : Nat) : (s.setBus iid b v).lane ld l = s.lane ld l := rfl
@[simp] theorem State.setBus_inst (iid' : Nat) : (s.setBus iid b v).inst iid' = s.inst iid' := rfl
@[simp] theorem State.setBus_words (ld fd : Nat) : (s.setBus iid b v).words ld fd = s.words ld fd := rfl
@[simp] theorem State.setBus_frozenWord (ld fd t : Nat) : (s.setBus iid b v).frozenWord ld fd t = s.frozenWord ld fd t := rfl
@[simp] theorem State.setBus_frozenAt (ld fd : Nat) : (s.setBus iid b v).frozenAt ld fd = s.frozenAt ld fd := rfl
@[simp] theorem State.setBus_pRead (ld fd t : Nat) : (s.setBus iid b v).pRead ld fd t = s.pRead ld fd t := rfl
@[simp] theorem State.setBus_capDue (die n : Nat) : (s.setBus iid b v).capDue die n = s.capDue die n := rfl
@[simp] theorem State.setBus_cell (fd c : Nat) : (s.setBus iid b v).cell fd c = s.cell fd c := rfl
@[simp] theorem State.setBus_term (fd t : Nat) : (s.setBus iid b v).term fd t = s.term fd t := rfl
@[simp] theorem State.setBus_field (fd : Nat) : (s.setBus iid b v).field fd = s.field fd := rfl
@[simp] theorem State.setBus_hbit (fd k : Nat) : (s.setBus iid b v).hbit fd k = s.hbit fd k := rfl
@[simp] theorem State.setBus_svP (ld iid' : Nat) : (s.setBus iid b v).svP ld iid' = s.svP ld iid' := rfl
@[simp] theorem State.setBus_svH (fd c : Nat) : (s.setBus iid b v).svH fd c = s.svH fd c := rfl
@[simp] theorem State.setBus_svDie (die : Nat) : (s.setBus iid b v).svDie die = s.svDie die := rfl
@[simp] theorem State.setBus_ring (ld : Nat) : (s.setBus iid b v).ring ld = s.ring ld := rfl
@[simp] theorem State.setBus_port (ld p : Nat) : (s.setBus iid b v).port ld p = s.port ld p := rfl
@[simp] theorem State.setBus_job (ld e : Nat) : (s.setBus iid b v).job ld e = s.job ld e := rfl
@[simp] theorem State.setBus_svst (ld : Nat) : (s.setBus iid b v).svst ld = s.svst ld := rfl
@[simp] theorem State.setBus_rem (ld mb : Nat) : (s.setBus iid b v).rem ld mb = s.rem ld mb := rfl
@[simp] theorem State.setBus_stby (ld n : Nat) : (s.setBus iid b v).stby ld n = s.stby ld n := rfl
@[simp] theorem State.setBus_sealSt (die : Nat) : (s.setBus iid b v).sealSt die = s.sealSt die := rfl
@[simp] theorem State.setBus_spmSt (ld : Nat) : (s.setBus iid b v).spmSt ld = s.spmSt ld := rfl
@[simp] theorem State.setBus_otpWord (w : Nat) : (s.setBus iid b v).otpWord w = s.otpWord w := rfl
@[simp] theorem State.setBus_byte (a : Nat) : (s.setBus iid b v).byte a = s.byte a := rfl
@[simp] theorem State.setBus_eccClass (ld off : Nat) : (s.setBus iid b v).eccClass ld off = s.eccClass ld off := rfl
@[simp] theorem State.setBus_flashByte (a : Nat) : (s.setBus iid b v).flashByte a = s.flashByte a := rfl
@[simp] theorem State.setBus_get (G : Fld) (e j : Nat) : (s.setBus iid b v).get G e j = s.get G e j := rfl
@[simp] theorem State.setBus_flag (G : Fld) (e j : Nat) : (s.setBus iid b v).flag G e j = s.flag G e j := rfl
@[simp] theorem State.setBus_outBit (ld e : Nat) : (s.setBus iid b v).outBit ld e = s.outBit ld e := rfl
@[simp] theorem State.setBus_free : (s.setBus iid b v).free = s.free := rfl
@[simp] theorem State.setBus_choice : (s.setBus iid b v).choice = s.choice := rfl

end

/-! ### `State.setWords` -/

section
variable (s : State) (ld fd : Nat) (v : SentWords)

@[simp] theorem State.setWords_variant : (s.setWords ld fd v).variant = s.variant := rfl
@[simp] theorem State.setWords_rev : (s.setWords ld fd v).rev = s.rev := rfl
@[simp] theorem State.setWords_regs : (s.setWords ld fd v).regs = s.regs := rfl
@[simp] theorem State.setWords_mem : (s.setWords ld fd v).mem = s.mem := rfl
@[simp] theorem State.setWords_ecc : (s.setWords ld fd v).ecc = s.ecc := rfl
@[simp] theorem State.setWords_flash : (s.setWords ld fd v).flash = s.flash := rfl
@[simp] theorem State.setWords_otp : (s.setWords ld fd v).otp = s.otp := rfl
@[simp] theorem State.setWords_part : (s.setWords ld fd v).part = s.part := rfl
@[simp] theorem State.setWords_tick : (s.setWords ld fd v).tick = s.tick := rfl
@[simp] theorem State.setWords_tnumLatch : (s.setWords ld fd v).tnumLatch = s.tnumLatch := rfl
@[simp] theorem State.setWords_extRun : (s.setWords ld fd v).extRun = s.extRun := rfl
@[simp] theorem State.setWords_jobs : (s.setWords ld fd v).jobs = s.jobs := rfl
@[simp] theorem State.setWords_flog : (s.setWords ld fd v).flog = s.flog := rfl
@[simp] theorem State.setWords_sv : (s.setWords ld fd v).sv = s.sv := rfl
@[simp] theorem State.setWords_fences : (s.setWords ld fd v).fences = s.fences := rfl
@[simp] theorem State.setWords_lanes : (s.setWords ld fd v).lanes = s.lanes := rfl
@[simp] theorem State.setWords_pinst : (s.setWords ld fd v).pinst = s.pinst := rfl
@[simp] theorem State.setWords_busBits : (s.setWords ld fd v).busBits = s.busBits := rfl
@[simp] theorem State.setWords_outImg : (s.setWords ld fd v).outImg = s.outImg := rfl
@[simp] theorem State.setWords_frozen : (s.setWords ld fd v).frozen = s.frozen := rfl
@[simp] theorem State.setWords_frozenTick : (s.setWords ld fd v).frozenTick = s.frozenTick := rfl
@[simp] theorem State.setWords_pIn : (s.setWords ld fd v).pIn = s.pIn := rfl
@[simp] theorem State.setWords_capIn : (s.setWords ld fd v).capIn = s.capIn := rfl
@[simp] theorem State.setWords_cells : (s.setWords ld fd v).cells = s.cells := rfl
@[simp] theorem State.setWords_terms : (s.setWords ld fd v).terms = s.terms := rfl
@[simp] theorem State.setWords_fields : (s.setWords ld fd v).fields = s.fields := rfl
@[simp] theorem State.setWords_hbus : (s.setWords ld fd v).hbus = s.hbus := rfl
@[simp] theorem State.setWords_sieveP : (s.setWords ld fd v).sieveP = s.sieveP := rfl
@[simp] theorem State.setWords_sieveH : (s.setWords ld fd v).sieveH = s.sieveH := rfl
@[simp] theorem State.setWords_sieveDie : (s.setWords ld fd v).sieveDie = s.sieveDie := rfl
@[simp] theorem State.setWords_rings : (s.setWords ld fd v).rings = s.rings := rfl
@[simp] theorem State.setWords_ports : (s.setWords ld fd v).ports = s.ports := rfl
@[simp] theorem State.setWords_furP : (s.setWords ld fd v).furP = s.furP := rfl
@[simp] theorem State.setWords_furH : (s.setWords ld fd v).furH = s.furH := rfl
@[simp] theorem State.setWords_marksP : (s.setWords ld fd v).marksP = s.marksP := rfl
@[simp] theorem State.setWords_marksH : (s.setWords ld fd v).marksH = s.marksH := rfl
@[simp] theorem State.setWords_zoneP : (s.setWords ld fd v).zoneP = s.zoneP := rfl
@[simp] theorem State.setWords_htxH : (s.setWords ld fd v).htxH = s.htxH := rfl
@[simp] theorem State.setWords_htxMarks : (s.setWords ld fd v).htxMarks = s.htxMarks := rfl
@[simp] theorem State.setWords_mbOrder : (s.setWords ld fd v).mbOrder = s.mbOrder := rfl
@[simp] theorem State.setWords_remote : (s.setWords ld fd v).remote = s.remote := rfl
@[simp] theorem State.setWords_xferC : (s.setWords ld fd v).xferC = s.xferC := rfl
@[simp] theorem State.setWords_xferF : (s.setWords ld fd v).xferF = s.xferF := rfl
@[simp] theorem State.setWords_xferSeq : (s.setWords ld fd v).xferSeq = s.xferSeq := rfl
@[simp] theorem State.setWords_fwStaged : (s.setWords ld fd v).fwStaged = s.fwStaged := rfl
@[simp] theorem State.setWords_image : (s.setWords ld fd v).image = s.image := rfl
@[simp] theorem State.setWords_soak : (s.setWords ld fd v).soak = s.soak := rfl
@[simp] theorem State.setWords_standby : (s.setWords ld fd v).standby = s.standby := rfl
@[simp] theorem State.setWords_seals : (s.setWords ld fd v).seals = s.seals := rfl
@[simp] theorem State.setWords_spm : (s.setWords ld fd v).spm = s.spm := rfl
@[simp] theorem State.setWords_tap : (s.setWords ld fd v).tap = s.tap := rfl
@[simp] theorem State.setWords_tapRegs : (s.setWords ld fd v).tapRegs = s.tapRegs := rfl
@[simp] theorem State.setWords_prpg : (s.setWords ld fd v).prpg = s.prpg := rfl
@[simp] theorem State.setWords_vaultIn : (s.setWords ld fd v).vaultIn = s.vaultIn := rfl
@[simp] theorem State.setWords_vaultOpen : (s.setWords ld fd v).vaultOpen = s.vaultOpen := rfl
@[simp] theorem State.setWords_host : (s.setWords ld fd v).host = s.host := rfl
@[simp] theorem State.setWords_bootRec : (s.setWords ld fd v).bootRec = s.bootRec := rfl
@[simp] theorem State.setWords_otpOp : (s.setWords ld fd v).otpOp = s.otpOp := rfl
@[simp] theorem State.setWords_sent : (s.setWords ld fd v).sent = s.sent := rfl
@[simp] theorem State.setWords_results : (s.setWords ld fd v).results = s.results := rfl
@[simp] theorem State.setWords_busErr : (s.setWords ld fd v).busErr = s.busErr := rfl
@[simp] theorem State.setWords_freeCtr : (s.setWords ld fd v).freeCtr = s.freeCtr := rfl
@[simp] theorem State.setWords_pending : (s.setWords ld fd v).pending = s.pending := rfl
@[simp] theorem State.setWords_lane (ld' l : Nat) : (s.setWords ld fd v).lane ld' l = s.lane ld' l := rfl
@[simp] theorem State.setWords_inst (iid : Nat) : (s.setWords ld fd v).inst iid = s.inst iid := rfl
@[simp] theorem State.setWords_bus (iid b : Nat) : (s.setWords ld fd v).bus iid b = s.bus iid b := rfl
@[simp] theorem State.setWords_frozenWord (ld' fd' t : Nat) : (s.setWords ld fd v).frozenWord ld' fd' t = s.frozenWord ld' fd' t := rfl
@[simp] theorem State.setWords_frozenAt (ld' fd' : Nat) : (s.setWords ld fd v).frozenAt ld' fd' = s.frozenAt ld' fd' := rfl
@[simp] theorem State.setWords_pRead (ld' fd' t : Nat) : (s.setWords ld fd v).pRead ld' fd' t = s.pRead ld' fd' t := rfl
@[simp] theorem State.setWords_capDue (die n : Nat) : (s.setWords ld fd v).capDue die n = s.capDue die n := rfl
@[simp] theorem State.setWords_cell (fd' c : Nat) : (s.setWords ld fd v).cell fd' c = s.cell fd' c := rfl
@[simp] theorem State.setWords_term (fd' t : Nat) : (s.setWords ld fd v).term fd' t = s.term fd' t := rfl
@[simp] theorem State.setWords_field (fd' : Nat) : (s.setWords ld fd v).field fd' = s.field fd' := rfl
@[simp] theorem State.setWords_hbit (fd' k : Nat) : (s.setWords ld fd v).hbit fd' k = s.hbit fd' k := rfl
@[simp] theorem State.setWords_svP (ld' iid : Nat) : (s.setWords ld fd v).svP ld' iid = s.svP ld' iid := rfl
@[simp] theorem State.setWords_svH (fd' c : Nat) : (s.setWords ld fd v).svH fd' c = s.svH fd' c := rfl
@[simp] theorem State.setWords_svDie (die : Nat) : (s.setWords ld fd v).svDie die = s.svDie die := rfl
@[simp] theorem State.setWords_ring (ld' : Nat) : (s.setWords ld fd v).ring ld' = s.ring ld' := rfl
@[simp] theorem State.setWords_port (ld' p : Nat) : (s.setWords ld fd v).port ld' p = s.port ld' p := rfl
@[simp] theorem State.setWords_job (ld' e : Nat) : (s.setWords ld fd v).job ld' e = s.job ld' e := rfl
@[simp] theorem State.setWords_svst (ld' : Nat) : (s.setWords ld fd v).svst ld' = s.svst ld' := rfl
@[simp] theorem State.setWords_rem (ld' mb : Nat) : (s.setWords ld fd v).rem ld' mb = s.rem ld' mb := rfl
@[simp] theorem State.setWords_stby (ld' n : Nat) : (s.setWords ld fd v).stby ld' n = s.stby ld' n := rfl
@[simp] theorem State.setWords_sealSt (die : Nat) : (s.setWords ld fd v).sealSt die = s.sealSt die := rfl
@[simp] theorem State.setWords_spmSt (ld' : Nat) : (s.setWords ld fd v).spmSt ld' = s.spmSt ld' := rfl
@[simp] theorem State.setWords_otpWord (w : Nat) : (s.setWords ld fd v).otpWord w = s.otpWord w := rfl
@[simp] theorem State.setWords_byte (a : Nat) : (s.setWords ld fd v).byte a = s.byte a := rfl
@[simp] theorem State.setWords_eccClass (ld' off : Nat) : (s.setWords ld fd v).eccClass ld' off = s.eccClass ld' off := rfl
@[simp] theorem State.setWords_flashByte (a : Nat) : (s.setWords ld fd v).flashByte a = s.flashByte a := rfl
@[simp] theorem State.setWords_get (G : Fld) (e j : Nat) : (s.setWords ld fd v).get G e j = s.get G e j := rfl
@[simp] theorem State.setWords_flag (G : Fld) (e j : Nat) : (s.setWords ld fd v).flag G e j = s.flag G e j := rfl
@[simp] theorem State.setWords_outBit (ld' e : Nat) : (s.setWords ld fd v).outBit ld' e = s.outBit ld' e := rfl
@[simp] theorem State.setWords_free : (s.setWords ld fd v).free = s.free := rfl
@[simp] theorem State.setWords_choice : (s.setWords ld fd v).choice = s.choice := rfl

end

/-! ### `State.setOutBit` -/

section
variable (s : State) (ld e : Nat) (b : Bool)

@[simp] theorem State.setOutBit_variant : (s.setOutBit ld e b).variant = s.variant := rfl
@[simp] theorem State.setOutBit_rev : (s.setOutBit ld e b).rev = s.rev := rfl
@[simp] theorem State.setOutBit_regs : (s.setOutBit ld e b).regs = s.regs := rfl
@[simp] theorem State.setOutBit_mem : (s.setOutBit ld e b).mem = s.mem := rfl
@[simp] theorem State.setOutBit_ecc : (s.setOutBit ld e b).ecc = s.ecc := rfl
@[simp] theorem State.setOutBit_flash : (s.setOutBit ld e b).flash = s.flash := rfl
@[simp] theorem State.setOutBit_otp : (s.setOutBit ld e b).otp = s.otp := rfl
@[simp] theorem State.setOutBit_part : (s.setOutBit ld e b).part = s.part := rfl
@[simp] theorem State.setOutBit_tick : (s.setOutBit ld e b).tick = s.tick := rfl
@[simp] theorem State.setOutBit_tnumLatch : (s.setOutBit ld e b).tnumLatch = s.tnumLatch := rfl
@[simp] theorem State.setOutBit_extRun : (s.setOutBit ld e b).extRun = s.extRun := rfl
@[simp] theorem State.setOutBit_jobs : (s.setOutBit ld e b).jobs = s.jobs := rfl
@[simp] theorem State.setOutBit_flog : (s.setOutBit ld e b).flog = s.flog := rfl
@[simp] theorem State.setOutBit_sv : (s.setOutBit ld e b).sv = s.sv := rfl
@[simp] theorem State.setOutBit_fences : (s.setOutBit ld e b).fences = s.fences := rfl
@[simp] theorem State.setOutBit_lanes : (s.setOutBit ld e b).lanes = s.lanes := rfl
@[simp] theorem State.setOutBit_pinst : (s.setOutBit ld e b).pinst = s.pinst := rfl
@[simp] theorem State.setOutBit_busBits : (s.setOutBit ld e b).busBits = s.busBits := rfl
@[simp] theorem State.setOutBit_outWords : (s.setOutBit ld e b).outWords = s.outWords := rfl
@[simp] theorem State.setOutBit_frozen : (s.setOutBit ld e b).frozen = s.frozen := rfl
@[simp] theorem State.setOutBit_frozenTick : (s.setOutBit ld e b).frozenTick = s.frozenTick := rfl
@[simp] theorem State.setOutBit_pIn : (s.setOutBit ld e b).pIn = s.pIn := rfl
@[simp] theorem State.setOutBit_capIn : (s.setOutBit ld e b).capIn = s.capIn := rfl
@[simp] theorem State.setOutBit_cells : (s.setOutBit ld e b).cells = s.cells := rfl
@[simp] theorem State.setOutBit_terms : (s.setOutBit ld e b).terms = s.terms := rfl
@[simp] theorem State.setOutBit_fields : (s.setOutBit ld e b).fields = s.fields := rfl
@[simp] theorem State.setOutBit_hbus : (s.setOutBit ld e b).hbus = s.hbus := rfl
@[simp] theorem State.setOutBit_sieveP : (s.setOutBit ld e b).sieveP = s.sieveP := rfl
@[simp] theorem State.setOutBit_sieveH : (s.setOutBit ld e b).sieveH = s.sieveH := rfl
@[simp] theorem State.setOutBit_sieveDie : (s.setOutBit ld e b).sieveDie = s.sieveDie := rfl
@[simp] theorem State.setOutBit_rings : (s.setOutBit ld e b).rings = s.rings := rfl
@[simp] theorem State.setOutBit_ports : (s.setOutBit ld e b).ports = s.ports := rfl
@[simp] theorem State.setOutBit_furP : (s.setOutBit ld e b).furP = s.furP := rfl
@[simp] theorem State.setOutBit_furH : (s.setOutBit ld e b).furH = s.furH := rfl
@[simp] theorem State.setOutBit_marksP : (s.setOutBit ld e b).marksP = s.marksP := rfl
@[simp] theorem State.setOutBit_marksH : (s.setOutBit ld e b).marksH = s.marksH := rfl
@[simp] theorem State.setOutBit_zoneP : (s.setOutBit ld e b).zoneP = s.zoneP := rfl
@[simp] theorem State.setOutBit_htxH : (s.setOutBit ld e b).htxH = s.htxH := rfl
@[simp] theorem State.setOutBit_htxMarks : (s.setOutBit ld e b).htxMarks = s.htxMarks := rfl
@[simp] theorem State.setOutBit_mbOrder : (s.setOutBit ld e b).mbOrder = s.mbOrder := rfl
@[simp] theorem State.setOutBit_remote : (s.setOutBit ld e b).remote = s.remote := rfl
@[simp] theorem State.setOutBit_xferC : (s.setOutBit ld e b).xferC = s.xferC := rfl
@[simp] theorem State.setOutBit_xferF : (s.setOutBit ld e b).xferF = s.xferF := rfl
@[simp] theorem State.setOutBit_xferSeq : (s.setOutBit ld e b).xferSeq = s.xferSeq := rfl
@[simp] theorem State.setOutBit_fwStaged : (s.setOutBit ld e b).fwStaged = s.fwStaged := rfl
@[simp] theorem State.setOutBit_image : (s.setOutBit ld e b).image = s.image := rfl
@[simp] theorem State.setOutBit_soak : (s.setOutBit ld e b).soak = s.soak := rfl
@[simp] theorem State.setOutBit_standby : (s.setOutBit ld e b).standby = s.standby := rfl
@[simp] theorem State.setOutBit_seals : (s.setOutBit ld e b).seals = s.seals := rfl
@[simp] theorem State.setOutBit_spm : (s.setOutBit ld e b).spm = s.spm := rfl
@[simp] theorem State.setOutBit_tap : (s.setOutBit ld e b).tap = s.tap := rfl
@[simp] theorem State.setOutBit_tapRegs : (s.setOutBit ld e b).tapRegs = s.tapRegs := rfl
@[simp] theorem State.setOutBit_prpg : (s.setOutBit ld e b).prpg = s.prpg := rfl
@[simp] theorem State.setOutBit_vaultIn : (s.setOutBit ld e b).vaultIn = s.vaultIn := rfl
@[simp] theorem State.setOutBit_vaultOpen : (s.setOutBit ld e b).vaultOpen = s.vaultOpen := rfl
@[simp] theorem State.setOutBit_host : (s.setOutBit ld e b).host = s.host := rfl
@[simp] theorem State.setOutBit_bootRec : (s.setOutBit ld e b).bootRec = s.bootRec := rfl
@[simp] theorem State.setOutBit_otpOp : (s.setOutBit ld e b).otpOp = s.otpOp := rfl
@[simp] theorem State.setOutBit_sent : (s.setOutBit ld e b).sent = s.sent := rfl
@[simp] theorem State.setOutBit_results : (s.setOutBit ld e b).results = s.results := rfl
@[simp] theorem State.setOutBit_busErr : (s.setOutBit ld e b).busErr = s.busErr := rfl
@[simp] theorem State.setOutBit_freeCtr : (s.setOutBit ld e b).freeCtr = s.freeCtr := rfl
@[simp] theorem State.setOutBit_pending : (s.setOutBit ld e b).pending = s.pending := rfl
@[simp] theorem State.setOutBit_lane (ld' l : Nat) : (s.setOutBit ld e b).lane ld' l = s.lane ld' l := rfl
@[simp] theorem State.setOutBit_inst (iid : Nat) : (s.setOutBit ld e b).inst iid = s.inst iid := rfl
@[simp] theorem State.setOutBit_bus (iid b' : Nat) : (s.setOutBit ld e b).bus iid b' = s.bus iid b' := rfl
@[simp] theorem State.setOutBit_words (ld' fd : Nat) : (s.setOutBit ld e b).words ld' fd = s.words ld' fd := rfl
@[simp] theorem State.setOutBit_frozenWord (ld' fd t : Nat) : (s.setOutBit ld e b).frozenWord ld' fd t = s.frozenWord ld' fd t := rfl
@[simp] theorem State.setOutBit_frozenAt (ld' fd : Nat) : (s.setOutBit ld e b).frozenAt ld' fd = s.frozenAt ld' fd := rfl
@[simp] theorem State.setOutBit_pRead (ld' fd t : Nat) : (s.setOutBit ld e b).pRead ld' fd t = s.pRead ld' fd t := rfl
@[simp] theorem State.setOutBit_capDue (die n : Nat) : (s.setOutBit ld e b).capDue die n = s.capDue die n := rfl
@[simp] theorem State.setOutBit_cell (fd c : Nat) : (s.setOutBit ld e b).cell fd c = s.cell fd c := rfl
@[simp] theorem State.setOutBit_term (fd t : Nat) : (s.setOutBit ld e b).term fd t = s.term fd t := rfl
@[simp] theorem State.setOutBit_field (fd : Nat) : (s.setOutBit ld e b).field fd = s.field fd := rfl
@[simp] theorem State.setOutBit_hbit (fd k : Nat) : (s.setOutBit ld e b).hbit fd k = s.hbit fd k := rfl
@[simp] theorem State.setOutBit_svP (ld' iid : Nat) : (s.setOutBit ld e b).svP ld' iid = s.svP ld' iid := rfl
@[simp] theorem State.setOutBit_svH (fd c : Nat) : (s.setOutBit ld e b).svH fd c = s.svH fd c := rfl
@[simp] theorem State.setOutBit_svDie (die : Nat) : (s.setOutBit ld e b).svDie die = s.svDie die := rfl
@[simp] theorem State.setOutBit_ring (ld' : Nat) : (s.setOutBit ld e b).ring ld' = s.ring ld' := rfl
@[simp] theorem State.setOutBit_port (ld' p : Nat) : (s.setOutBit ld e b).port ld' p = s.port ld' p := rfl
@[simp] theorem State.setOutBit_job (ld' e' : Nat) : (s.setOutBit ld e b).job ld' e' = s.job ld' e' := rfl
@[simp] theorem State.setOutBit_svst (ld' : Nat) : (s.setOutBit ld e b).svst ld' = s.svst ld' := rfl
@[simp] theorem State.setOutBit_rem (ld' mb : Nat) : (s.setOutBit ld e b).rem ld' mb = s.rem ld' mb := rfl
@[simp] theorem State.setOutBit_stby (ld' n : Nat) : (s.setOutBit ld e b).stby ld' n = s.stby ld' n := rfl
@[simp] theorem State.setOutBit_sealSt (die : Nat) : (s.setOutBit ld e b).sealSt die = s.sealSt die := rfl
@[simp] theorem State.setOutBit_spmSt (ld' : Nat) : (s.setOutBit ld e b).spmSt ld' = s.spmSt ld' := rfl
@[simp] theorem State.setOutBit_otpWord (w : Nat) : (s.setOutBit ld e b).otpWord w = s.otpWord w := rfl
@[simp] theorem State.setOutBit_byte (a : Nat) : (s.setOutBit ld e b).byte a = s.byte a := rfl
@[simp] theorem State.setOutBit_eccClass (ld' off : Nat) : (s.setOutBit ld e b).eccClass ld' off = s.eccClass ld' off := rfl
@[simp] theorem State.setOutBit_flashByte (a : Nat) : (s.setOutBit ld e b).flashByte a = s.flashByte a := rfl
@[simp] theorem State.setOutBit_get (G : Fld) (e' j : Nat) : (s.setOutBit ld e b).get G e' j = s.get G e' j := rfl
@[simp] theorem State.setOutBit_flag (G : Fld) (e' j : Nat) : (s.setOutBit ld e b).flag G e' j = s.flag G e' j := rfl
@[simp] theorem State.setOutBit_free : (s.setOutBit ld e b).free = s.free := rfl
@[simp] theorem State.setOutBit_choice : (s.setOutBit ld e b).choice = s.choice := rfl

end

/-! ### `State.setFrozen` -/

section
variable (s : State) (ld fd t v : Nat)

@[simp] theorem State.setFrozen_variant : (s.setFrozen ld fd t v).variant = s.variant := rfl
@[simp] theorem State.setFrozen_rev : (s.setFrozen ld fd t v).rev = s.rev := rfl
@[simp] theorem State.setFrozen_regs : (s.setFrozen ld fd t v).regs = s.regs := rfl
@[simp] theorem State.setFrozen_mem : (s.setFrozen ld fd t v).mem = s.mem := rfl
@[simp] theorem State.setFrozen_ecc : (s.setFrozen ld fd t v).ecc = s.ecc := rfl
@[simp] theorem State.setFrozen_flash : (s.setFrozen ld fd t v).flash = s.flash := rfl
@[simp] theorem State.setFrozen_otp : (s.setFrozen ld fd t v).otp = s.otp := rfl
@[simp] theorem State.setFrozen_part : (s.setFrozen ld fd t v).part = s.part := rfl
@[simp] theorem State.setFrozen_tick : (s.setFrozen ld fd t v).tick = s.tick := rfl
@[simp] theorem State.setFrozen_tnumLatch : (s.setFrozen ld fd t v).tnumLatch = s.tnumLatch := rfl
@[simp] theorem State.setFrozen_extRun : (s.setFrozen ld fd t v).extRun = s.extRun := rfl
@[simp] theorem State.setFrozen_jobs : (s.setFrozen ld fd t v).jobs = s.jobs := rfl
@[simp] theorem State.setFrozen_flog : (s.setFrozen ld fd t v).flog = s.flog := rfl
@[simp] theorem State.setFrozen_sv : (s.setFrozen ld fd t v).sv = s.sv := rfl
@[simp] theorem State.setFrozen_fences : (s.setFrozen ld fd t v).fences = s.fences := rfl
@[simp] theorem State.setFrozen_lanes : (s.setFrozen ld fd t v).lanes = s.lanes := rfl
@[simp] theorem State.setFrozen_pinst : (s.setFrozen ld fd t v).pinst = s.pinst := rfl
@[simp] theorem State.setFrozen_busBits : (s.setFrozen ld fd t v).busBits = s.busBits := rfl
@[simp] theorem State.setFrozen_outImg : (s.setFrozen ld fd t v).outImg = s.outImg := rfl
@[simp] theorem State.setFrozen_outWords : (s.setFrozen ld fd t v).outWords = s.outWords := rfl
@[simp] theorem State.setFrozen_frozenTick : (s.setFrozen ld fd t v).frozenTick = s.frozenTick := rfl
@[simp] theorem State.setFrozen_pIn : (s.setFrozen ld fd t v).pIn = s.pIn := rfl
@[simp] theorem State.setFrozen_capIn : (s.setFrozen ld fd t v).capIn = s.capIn := rfl
@[simp] theorem State.setFrozen_cells : (s.setFrozen ld fd t v).cells = s.cells := rfl
@[simp] theorem State.setFrozen_terms : (s.setFrozen ld fd t v).terms = s.terms := rfl
@[simp] theorem State.setFrozen_fields : (s.setFrozen ld fd t v).fields = s.fields := rfl
@[simp] theorem State.setFrozen_hbus : (s.setFrozen ld fd t v).hbus = s.hbus := rfl
@[simp] theorem State.setFrozen_sieveP : (s.setFrozen ld fd t v).sieveP = s.sieveP := rfl
@[simp] theorem State.setFrozen_sieveH : (s.setFrozen ld fd t v).sieveH = s.sieveH := rfl
@[simp] theorem State.setFrozen_sieveDie : (s.setFrozen ld fd t v).sieveDie = s.sieveDie := rfl
@[simp] theorem State.setFrozen_rings : (s.setFrozen ld fd t v).rings = s.rings := rfl
@[simp] theorem State.setFrozen_ports : (s.setFrozen ld fd t v).ports = s.ports := rfl
@[simp] theorem State.setFrozen_furP : (s.setFrozen ld fd t v).furP = s.furP := rfl
@[simp] theorem State.setFrozen_furH : (s.setFrozen ld fd t v).furH = s.furH := rfl
@[simp] theorem State.setFrozen_marksP : (s.setFrozen ld fd t v).marksP = s.marksP := rfl
@[simp] theorem State.setFrozen_marksH : (s.setFrozen ld fd t v).marksH = s.marksH := rfl
@[simp] theorem State.setFrozen_zoneP : (s.setFrozen ld fd t v).zoneP = s.zoneP := rfl
@[simp] theorem State.setFrozen_htxH : (s.setFrozen ld fd t v).htxH = s.htxH := rfl
@[simp] theorem State.setFrozen_htxMarks : (s.setFrozen ld fd t v).htxMarks = s.htxMarks := rfl
@[simp] theorem State.setFrozen_mbOrder : (s.setFrozen ld fd t v).mbOrder = s.mbOrder := rfl
@[simp] theorem State.setFrozen_remote : (s.setFrozen ld fd t v).remote = s.remote := rfl
@[simp] theorem State.setFrozen_xferC : (s.setFrozen ld fd t v).xferC = s.xferC := rfl
@[simp] theorem State.setFrozen_xferF : (s.setFrozen ld fd t v).xferF = s.xferF := rfl
@[simp] theorem State.setFrozen_xferSeq : (s.setFrozen ld fd t v).xferSeq = s.xferSeq := rfl
@[simp] theorem State.setFrozen_fwStaged : (s.setFrozen ld fd t v).fwStaged = s.fwStaged := rfl
@[simp] theorem State.setFrozen_image : (s.setFrozen ld fd t v).image = s.image := rfl
@[simp] theorem State.setFrozen_soak : (s.setFrozen ld fd t v).soak = s.soak := rfl
@[simp] theorem State.setFrozen_standby : (s.setFrozen ld fd t v).standby = s.standby := rfl
@[simp] theorem State.setFrozen_seals : (s.setFrozen ld fd t v).seals = s.seals := rfl
@[simp] theorem State.setFrozen_spm : (s.setFrozen ld fd t v).spm = s.spm := rfl
@[simp] theorem State.setFrozen_tap : (s.setFrozen ld fd t v).tap = s.tap := rfl
@[simp] theorem State.setFrozen_tapRegs : (s.setFrozen ld fd t v).tapRegs = s.tapRegs := rfl
@[simp] theorem State.setFrozen_prpg : (s.setFrozen ld fd t v).prpg = s.prpg := rfl
@[simp] theorem State.setFrozen_vaultIn : (s.setFrozen ld fd t v).vaultIn = s.vaultIn := rfl
@[simp] theorem State.setFrozen_vaultOpen : (s.setFrozen ld fd t v).vaultOpen = s.vaultOpen := rfl
@[simp] theorem State.setFrozen_host : (s.setFrozen ld fd t v).host = s.host := rfl
@[simp] theorem State.setFrozen_bootRec : (s.setFrozen ld fd t v).bootRec = s.bootRec := rfl
@[simp] theorem State.setFrozen_otpOp : (s.setFrozen ld fd t v).otpOp = s.otpOp := rfl
@[simp] theorem State.setFrozen_sent : (s.setFrozen ld fd t v).sent = s.sent := rfl
@[simp] theorem State.setFrozen_results : (s.setFrozen ld fd t v).results = s.results := rfl
@[simp] theorem State.setFrozen_busErr : (s.setFrozen ld fd t v).busErr = s.busErr := rfl
@[simp] theorem State.setFrozen_freeCtr : (s.setFrozen ld fd t v).freeCtr = s.freeCtr := rfl
@[simp] theorem State.setFrozen_pending : (s.setFrozen ld fd t v).pending = s.pending := rfl
@[simp] theorem State.setFrozen_lane (ld' l : Nat) : (s.setFrozen ld fd t v).lane ld' l = s.lane ld' l := rfl
@[simp] theorem State.setFrozen_inst (iid : Nat) : (s.setFrozen ld fd t v).inst iid = s.inst iid := rfl
@[simp] theorem State.setFrozen_bus (iid b : Nat) : (s.setFrozen ld fd t v).bus iid b = s.bus iid b := rfl
@[simp] theorem State.setFrozen_words (ld' fd' : Nat) : (s.setFrozen ld fd t v).words ld' fd' = s.words ld' fd' := rfl
@[simp] theorem State.setFrozen_frozenAt (ld' fd' : Nat) : (s.setFrozen ld fd t v).frozenAt ld' fd' = s.frozenAt ld' fd' := rfl
@[simp] theorem State.setFrozen_pRead (ld' fd' t' : Nat) : (s.setFrozen ld fd t v).pRead ld' fd' t' = s.pRead ld' fd' t' := rfl
@[simp] theorem State.setFrozen_capDue (die n : Nat) : (s.setFrozen ld fd t v).capDue die n = s.capDue die n := rfl
@[simp] theorem State.setFrozen_cell (fd' c : Nat) : (s.setFrozen ld fd t v).cell fd' c = s.cell fd' c := rfl
@[simp] theorem State.setFrozen_term (fd' t' : Nat) : (s.setFrozen ld fd t v).term fd' t' = s.term fd' t' := rfl
@[simp] theorem State.setFrozen_field (fd' : Nat) : (s.setFrozen ld fd t v).field fd' = s.field fd' := rfl
@[simp] theorem State.setFrozen_hbit (fd' k : Nat) : (s.setFrozen ld fd t v).hbit fd' k = s.hbit fd' k := rfl
@[simp] theorem State.setFrozen_svP (ld' iid : Nat) : (s.setFrozen ld fd t v).svP ld' iid = s.svP ld' iid := rfl
@[simp] theorem State.setFrozen_svH (fd' c : Nat) : (s.setFrozen ld fd t v).svH fd' c = s.svH fd' c := rfl
@[simp] theorem State.setFrozen_svDie (die : Nat) : (s.setFrozen ld fd t v).svDie die = s.svDie die := rfl
@[simp] theorem State.setFrozen_ring (ld' : Nat) : (s.setFrozen ld fd t v).ring ld' = s.ring ld' := rfl
@[simp] theorem State.setFrozen_port (ld' p : Nat) : (s.setFrozen ld fd t v).port ld' p = s.port ld' p := rfl
@[simp] theorem State.setFrozen_job (ld' e : Nat) : (s.setFrozen ld fd t v).job ld' e = s.job ld' e := rfl
@[simp] theorem State.setFrozen_svst (ld' : Nat) : (s.setFrozen ld fd t v).svst ld' = s.svst ld' := rfl
@[simp] theorem State.setFrozen_rem (ld' mb : Nat) : (s.setFrozen ld fd t v).rem ld' mb = s.rem ld' mb := rfl
@[simp] theorem State.setFrozen_stby (ld' n : Nat) : (s.setFrozen ld fd t v).stby ld' n = s.stby ld' n := rfl
@[simp] theorem State.setFrozen_sealSt (die : Nat) : (s.setFrozen ld fd t v).sealSt die = s.sealSt die := rfl
@[simp] theorem State.setFrozen_spmSt (ld' : Nat) : (s.setFrozen ld fd t v).spmSt ld' = s.spmSt ld' := rfl
@[simp] theorem State.setFrozen_otpWord (w : Nat) : (s.setFrozen ld fd t v).otpWord w = s.otpWord w := rfl
@[simp] theorem State.setFrozen_byte (a : Nat) : (s.setFrozen ld fd t v).byte a = s.byte a := rfl
@[simp] theorem State.setFrozen_eccClass (ld' off : Nat) : (s.setFrozen ld fd t v).eccClass ld' off = s.eccClass ld' off := rfl
@[simp] theorem State.setFrozen_flashByte (a : Nat) : (s.setFrozen ld fd t v).flashByte a = s.flashByte a := rfl
@[simp] theorem State.setFrozen_get (G : Fld) (e j : Nat) : (s.setFrozen ld fd t v).get G e j = s.get G e j := rfl
@[simp] theorem State.setFrozen_flag (G : Fld) (e j : Nat) : (s.setFrozen ld fd t v).flag G e j = s.flag G e j := rfl
@[simp] theorem State.setFrozen_outBit (ld' e : Nat) : (s.setFrozen ld fd t v).outBit ld' e = s.outBit ld' e := rfl
@[simp] theorem State.setFrozen_free : (s.setFrozen ld fd t v).free = s.free := rfl
@[simp] theorem State.setFrozen_choice : (s.setFrozen ld fd t v).choice = s.choice := rfl

end

/-! ### `State.setFrozenAt` -/

section
variable (s : State) (ld fd v : Nat)

@[simp] theorem State.setFrozenAt_variant : (s.setFrozenAt ld fd v).variant = s.variant := rfl
@[simp] theorem State.setFrozenAt_rev : (s.setFrozenAt ld fd v).rev = s.rev := rfl
@[simp] theorem State.setFrozenAt_regs : (s.setFrozenAt ld fd v).regs = s.regs := rfl
@[simp] theorem State.setFrozenAt_mem : (s.setFrozenAt ld fd v).mem = s.mem := rfl
@[simp] theorem State.setFrozenAt_ecc : (s.setFrozenAt ld fd v).ecc = s.ecc := rfl
@[simp] theorem State.setFrozenAt_flash : (s.setFrozenAt ld fd v).flash = s.flash := rfl
@[simp] theorem State.setFrozenAt_otp : (s.setFrozenAt ld fd v).otp = s.otp := rfl
@[simp] theorem State.setFrozenAt_part : (s.setFrozenAt ld fd v).part = s.part := rfl
@[simp] theorem State.setFrozenAt_tick : (s.setFrozenAt ld fd v).tick = s.tick := rfl
@[simp] theorem State.setFrozenAt_tnumLatch : (s.setFrozenAt ld fd v).tnumLatch = s.tnumLatch := rfl
@[simp] theorem State.setFrozenAt_extRun : (s.setFrozenAt ld fd v).extRun = s.extRun := rfl
@[simp] theorem State.setFrozenAt_jobs : (s.setFrozenAt ld fd v).jobs = s.jobs := rfl
@[simp] theorem State.setFrozenAt_flog : (s.setFrozenAt ld fd v).flog = s.flog := rfl
@[simp] theorem State.setFrozenAt_sv : (s.setFrozenAt ld fd v).sv = s.sv := rfl
@[simp] theorem State.setFrozenAt_fences : (s.setFrozenAt ld fd v).fences = s.fences := rfl
@[simp] theorem State.setFrozenAt_lanes : (s.setFrozenAt ld fd v).lanes = s.lanes := rfl
@[simp] theorem State.setFrozenAt_pinst : (s.setFrozenAt ld fd v).pinst = s.pinst := rfl
@[simp] theorem State.setFrozenAt_busBits : (s.setFrozenAt ld fd v).busBits = s.busBits := rfl
@[simp] theorem State.setFrozenAt_outImg : (s.setFrozenAt ld fd v).outImg = s.outImg := rfl
@[simp] theorem State.setFrozenAt_outWords : (s.setFrozenAt ld fd v).outWords = s.outWords := rfl
@[simp] theorem State.setFrozenAt_frozen : (s.setFrozenAt ld fd v).frozen = s.frozen := rfl
@[simp] theorem State.setFrozenAt_pIn : (s.setFrozenAt ld fd v).pIn = s.pIn := rfl
@[simp] theorem State.setFrozenAt_capIn : (s.setFrozenAt ld fd v).capIn = s.capIn := rfl
@[simp] theorem State.setFrozenAt_cells : (s.setFrozenAt ld fd v).cells = s.cells := rfl
@[simp] theorem State.setFrozenAt_terms : (s.setFrozenAt ld fd v).terms = s.terms := rfl
@[simp] theorem State.setFrozenAt_fields : (s.setFrozenAt ld fd v).fields = s.fields := rfl
@[simp] theorem State.setFrozenAt_hbus : (s.setFrozenAt ld fd v).hbus = s.hbus := rfl
@[simp] theorem State.setFrozenAt_sieveP : (s.setFrozenAt ld fd v).sieveP = s.sieveP := rfl
@[simp] theorem State.setFrozenAt_sieveH : (s.setFrozenAt ld fd v).sieveH = s.sieveH := rfl
@[simp] theorem State.setFrozenAt_sieveDie : (s.setFrozenAt ld fd v).sieveDie = s.sieveDie := rfl
@[simp] theorem State.setFrozenAt_rings : (s.setFrozenAt ld fd v).rings = s.rings := rfl
@[simp] theorem State.setFrozenAt_ports : (s.setFrozenAt ld fd v).ports = s.ports := rfl
@[simp] theorem State.setFrozenAt_furP : (s.setFrozenAt ld fd v).furP = s.furP := rfl
@[simp] theorem State.setFrozenAt_furH : (s.setFrozenAt ld fd v).furH = s.furH := rfl
@[simp] theorem State.setFrozenAt_marksP : (s.setFrozenAt ld fd v).marksP = s.marksP := rfl
@[simp] theorem State.setFrozenAt_marksH : (s.setFrozenAt ld fd v).marksH = s.marksH := rfl
@[simp] theorem State.setFrozenAt_zoneP : (s.setFrozenAt ld fd v).zoneP = s.zoneP := rfl
@[simp] theorem State.setFrozenAt_htxH : (s.setFrozenAt ld fd v).htxH = s.htxH := rfl
@[simp] theorem State.setFrozenAt_htxMarks : (s.setFrozenAt ld fd v).htxMarks = s.htxMarks := rfl
@[simp] theorem State.setFrozenAt_mbOrder : (s.setFrozenAt ld fd v).mbOrder = s.mbOrder := rfl
@[simp] theorem State.setFrozenAt_remote : (s.setFrozenAt ld fd v).remote = s.remote := rfl
@[simp] theorem State.setFrozenAt_xferC : (s.setFrozenAt ld fd v).xferC = s.xferC := rfl
@[simp] theorem State.setFrozenAt_xferF : (s.setFrozenAt ld fd v).xferF = s.xferF := rfl
@[simp] theorem State.setFrozenAt_xferSeq : (s.setFrozenAt ld fd v).xferSeq = s.xferSeq := rfl
@[simp] theorem State.setFrozenAt_fwStaged : (s.setFrozenAt ld fd v).fwStaged = s.fwStaged := rfl
@[simp] theorem State.setFrozenAt_image : (s.setFrozenAt ld fd v).image = s.image := rfl
@[simp] theorem State.setFrozenAt_soak : (s.setFrozenAt ld fd v).soak = s.soak := rfl
@[simp] theorem State.setFrozenAt_standby : (s.setFrozenAt ld fd v).standby = s.standby := rfl
@[simp] theorem State.setFrozenAt_seals : (s.setFrozenAt ld fd v).seals = s.seals := rfl
@[simp] theorem State.setFrozenAt_spm : (s.setFrozenAt ld fd v).spm = s.spm := rfl
@[simp] theorem State.setFrozenAt_tap : (s.setFrozenAt ld fd v).tap = s.tap := rfl
@[simp] theorem State.setFrozenAt_tapRegs : (s.setFrozenAt ld fd v).tapRegs = s.tapRegs := rfl
@[simp] theorem State.setFrozenAt_prpg : (s.setFrozenAt ld fd v).prpg = s.prpg := rfl
@[simp] theorem State.setFrozenAt_vaultIn : (s.setFrozenAt ld fd v).vaultIn = s.vaultIn := rfl
@[simp] theorem State.setFrozenAt_vaultOpen : (s.setFrozenAt ld fd v).vaultOpen = s.vaultOpen := rfl
@[simp] theorem State.setFrozenAt_host : (s.setFrozenAt ld fd v).host = s.host := rfl
@[simp] theorem State.setFrozenAt_bootRec : (s.setFrozenAt ld fd v).bootRec = s.bootRec := rfl
@[simp] theorem State.setFrozenAt_otpOp : (s.setFrozenAt ld fd v).otpOp = s.otpOp := rfl
@[simp] theorem State.setFrozenAt_sent : (s.setFrozenAt ld fd v).sent = s.sent := rfl
@[simp] theorem State.setFrozenAt_results : (s.setFrozenAt ld fd v).results = s.results := rfl
@[simp] theorem State.setFrozenAt_busErr : (s.setFrozenAt ld fd v).busErr = s.busErr := rfl
@[simp] theorem State.setFrozenAt_freeCtr : (s.setFrozenAt ld fd v).freeCtr = s.freeCtr := rfl
@[simp] theorem State.setFrozenAt_pending : (s.setFrozenAt ld fd v).pending = s.pending := rfl
@[simp] theorem State.setFrozenAt_lane (ld' l : Nat) : (s.setFrozenAt ld fd v).lane ld' l = s.lane ld' l := rfl
@[simp] theorem State.setFrozenAt_inst (iid : Nat) : (s.setFrozenAt ld fd v).inst iid = s.inst iid := rfl
@[simp] theorem State.setFrozenAt_bus (iid b : Nat) : (s.setFrozenAt ld fd v).bus iid b = s.bus iid b := rfl
@[simp] theorem State.setFrozenAt_words (ld' fd' : Nat) : (s.setFrozenAt ld fd v).words ld' fd' = s.words ld' fd' := rfl
@[simp] theorem State.setFrozenAt_frozenWord (ld' fd' t : Nat) : (s.setFrozenAt ld fd v).frozenWord ld' fd' t = s.frozenWord ld' fd' t := rfl
@[simp] theorem State.setFrozenAt_pRead (ld' fd' t : Nat) : (s.setFrozenAt ld fd v).pRead ld' fd' t = s.pRead ld' fd' t := rfl
@[simp] theorem State.setFrozenAt_capDue (die n : Nat) : (s.setFrozenAt ld fd v).capDue die n = s.capDue die n := rfl
@[simp] theorem State.setFrozenAt_cell (fd' c : Nat) : (s.setFrozenAt ld fd v).cell fd' c = s.cell fd' c := rfl
@[simp] theorem State.setFrozenAt_term (fd' t : Nat) : (s.setFrozenAt ld fd v).term fd' t = s.term fd' t := rfl
@[simp] theorem State.setFrozenAt_field (fd' : Nat) : (s.setFrozenAt ld fd v).field fd' = s.field fd' := rfl
@[simp] theorem State.setFrozenAt_hbit (fd' k : Nat) : (s.setFrozenAt ld fd v).hbit fd' k = s.hbit fd' k := rfl
@[simp] theorem State.setFrozenAt_svP (ld' iid : Nat) : (s.setFrozenAt ld fd v).svP ld' iid = s.svP ld' iid := rfl
@[simp] theorem State.setFrozenAt_svH (fd' c : Nat) : (s.setFrozenAt ld fd v).svH fd' c = s.svH fd' c := rfl
@[simp] theorem State.setFrozenAt_svDie (die : Nat) : (s.setFrozenAt ld fd v).svDie die = s.svDie die := rfl
@[simp] theorem State.setFrozenAt_ring (ld' : Nat) : (s.setFrozenAt ld fd v).ring ld' = s.ring ld' := rfl
@[simp] theorem State.setFrozenAt_port (ld' p : Nat) : (s.setFrozenAt ld fd v).port ld' p = s.port ld' p := rfl
@[simp] theorem State.setFrozenAt_job (ld' e : Nat) : (s.setFrozenAt ld fd v).job ld' e = s.job ld' e := rfl
@[simp] theorem State.setFrozenAt_svst (ld' : Nat) : (s.setFrozenAt ld fd v).svst ld' = s.svst ld' := rfl
@[simp] theorem State.setFrozenAt_rem (ld' mb : Nat) : (s.setFrozenAt ld fd v).rem ld' mb = s.rem ld' mb := rfl
@[simp] theorem State.setFrozenAt_stby (ld' n : Nat) : (s.setFrozenAt ld fd v).stby ld' n = s.stby ld' n := rfl
@[simp] theorem State.setFrozenAt_sealSt (die : Nat) : (s.setFrozenAt ld fd v).sealSt die = s.sealSt die := rfl
@[simp] theorem State.setFrozenAt_spmSt (ld' : Nat) : (s.setFrozenAt ld fd v).spmSt ld' = s.spmSt ld' := rfl
@[simp] theorem State.setFrozenAt_otpWord (w : Nat) : (s.setFrozenAt ld fd v).otpWord w = s.otpWord w := rfl
@[simp] theorem State.setFrozenAt_byte (a : Nat) : (s.setFrozenAt ld fd v).byte a = s.byte a := rfl
@[simp] theorem State.setFrozenAt_eccClass (ld' off : Nat) : (s.setFrozenAt ld fd v).eccClass ld' off = s.eccClass ld' off := rfl
@[simp] theorem State.setFrozenAt_flashByte (a : Nat) : (s.setFrozenAt ld fd v).flashByte a = s.flashByte a := rfl
@[simp] theorem State.setFrozenAt_get (G : Fld) (e j : Nat) : (s.setFrozenAt ld fd v).get G e j = s.get G e j := rfl
@[simp] theorem State.setFrozenAt_flag (G : Fld) (e j : Nat) : (s.setFrozenAt ld fd v).flag G e j = s.flag G e j := rfl
@[simp] theorem State.setFrozenAt_outBit (ld' e : Nat) : (s.setFrozenAt ld fd v).outBit ld' e = s.outBit ld' e := rfl
@[simp] theorem State.setFrozenAt_free : (s.setFrozenAt ld fd v).free = s.free := rfl
@[simp] theorem State.setFrozenAt_choice : (s.setFrozenAt ld fd v).choice = s.choice := rfl

end

/-! ### `State.setPRead` -/

section
variable (s : State) (ld fd t : Nat) (v : PRead)

@[simp] theorem State.setPRead_variant : (s.setPRead ld fd t v).variant = s.variant := rfl
@[simp] theorem State.setPRead_rev : (s.setPRead ld fd t v).rev = s.rev := rfl
@[simp] theorem State.setPRead_regs : (s.setPRead ld fd t v).regs = s.regs := rfl
@[simp] theorem State.setPRead_mem : (s.setPRead ld fd t v).mem = s.mem := rfl
@[simp] theorem State.setPRead_ecc : (s.setPRead ld fd t v).ecc = s.ecc := rfl
@[simp] theorem State.setPRead_flash : (s.setPRead ld fd t v).flash = s.flash := rfl
@[simp] theorem State.setPRead_otp : (s.setPRead ld fd t v).otp = s.otp := rfl
@[simp] theorem State.setPRead_part : (s.setPRead ld fd t v).part = s.part := rfl
@[simp] theorem State.setPRead_tick : (s.setPRead ld fd t v).tick = s.tick := rfl
@[simp] theorem State.setPRead_tnumLatch : (s.setPRead ld fd t v).tnumLatch = s.tnumLatch := rfl
@[simp] theorem State.setPRead_extRun : (s.setPRead ld fd t v).extRun = s.extRun := rfl
@[simp] theorem State.setPRead_jobs : (s.setPRead ld fd t v).jobs = s.jobs := rfl
@[simp] theorem State.setPRead_flog : (s.setPRead ld fd t v).flog = s.flog := rfl
@[simp] theorem State.setPRead_sv : (s.setPRead ld fd t v).sv = s.sv := rfl
@[simp] theorem State.setPRead_fences : (s.setPRead ld fd t v).fences = s.fences := rfl
@[simp] theorem State.setPRead_lanes : (s.setPRead ld fd t v).lanes = s.lanes := rfl
@[simp] theorem State.setPRead_pinst : (s.setPRead ld fd t v).pinst = s.pinst := rfl
@[simp] theorem State.setPRead_busBits : (s.setPRead ld fd t v).busBits = s.busBits := rfl
@[simp] theorem State.setPRead_outImg : (s.setPRead ld fd t v).outImg = s.outImg := rfl
@[simp] theorem State.setPRead_outWords : (s.setPRead ld fd t v).outWords = s.outWords := rfl
@[simp] theorem State.setPRead_frozen : (s.setPRead ld fd t v).frozen = s.frozen := rfl
@[simp] theorem State.setPRead_frozenTick : (s.setPRead ld fd t v).frozenTick = s.frozenTick := rfl
@[simp] theorem State.setPRead_capIn : (s.setPRead ld fd t v).capIn = s.capIn := rfl
@[simp] theorem State.setPRead_cells : (s.setPRead ld fd t v).cells = s.cells := rfl
@[simp] theorem State.setPRead_terms : (s.setPRead ld fd t v).terms = s.terms := rfl
@[simp] theorem State.setPRead_fields : (s.setPRead ld fd t v).fields = s.fields := rfl
@[simp] theorem State.setPRead_hbus : (s.setPRead ld fd t v).hbus = s.hbus := rfl
@[simp] theorem State.setPRead_sieveP : (s.setPRead ld fd t v).sieveP = s.sieveP := rfl
@[simp] theorem State.setPRead_sieveH : (s.setPRead ld fd t v).sieveH = s.sieveH := rfl
@[simp] theorem State.setPRead_sieveDie : (s.setPRead ld fd t v).sieveDie = s.sieveDie := rfl
@[simp] theorem State.setPRead_rings : (s.setPRead ld fd t v).rings = s.rings := rfl
@[simp] theorem State.setPRead_ports : (s.setPRead ld fd t v).ports = s.ports := rfl
@[simp] theorem State.setPRead_furP : (s.setPRead ld fd t v).furP = s.furP := rfl
@[simp] theorem State.setPRead_furH : (s.setPRead ld fd t v).furH = s.furH := rfl
@[simp] theorem State.setPRead_marksP : (s.setPRead ld fd t v).marksP = s.marksP := rfl
@[simp] theorem State.setPRead_marksH : (s.setPRead ld fd t v).marksH = s.marksH := rfl
@[simp] theorem State.setPRead_zoneP : (s.setPRead ld fd t v).zoneP = s.zoneP := rfl
@[simp] theorem State.setPRead_htxH : (s.setPRead ld fd t v).htxH = s.htxH := rfl
@[simp] theorem State.setPRead_htxMarks : (s.setPRead ld fd t v).htxMarks = s.htxMarks := rfl
@[simp] theorem State.setPRead_mbOrder : (s.setPRead ld fd t v).mbOrder = s.mbOrder := rfl
@[simp] theorem State.setPRead_remote : (s.setPRead ld fd t v).remote = s.remote := rfl
@[simp] theorem State.setPRead_xferC : (s.setPRead ld fd t v).xferC = s.xferC := rfl
@[simp] theorem State.setPRead_xferF : (s.setPRead ld fd t v).xferF = s.xferF := rfl
@[simp] theorem State.setPRead_xferSeq : (s.setPRead ld fd t v).xferSeq = s.xferSeq := rfl
@[simp] theorem State.setPRead_fwStaged : (s.setPRead ld fd t v).fwStaged = s.fwStaged := rfl
@[simp] theorem State.setPRead_image : (s.setPRead ld fd t v).image = s.image := rfl
@[simp] theorem State.setPRead_soak : (s.setPRead ld fd t v).soak = s.soak := rfl
@[simp] theorem State.setPRead_standby : (s.setPRead ld fd t v).standby = s.standby := rfl
@[simp] theorem State.setPRead_seals : (s.setPRead ld fd t v).seals = s.seals := rfl
@[simp] theorem State.setPRead_spm : (s.setPRead ld fd t v).spm = s.spm := rfl
@[simp] theorem State.setPRead_tap : (s.setPRead ld fd t v).tap = s.tap := rfl
@[simp] theorem State.setPRead_tapRegs : (s.setPRead ld fd t v).tapRegs = s.tapRegs := rfl
@[simp] theorem State.setPRead_prpg : (s.setPRead ld fd t v).prpg = s.prpg := rfl
@[simp] theorem State.setPRead_vaultIn : (s.setPRead ld fd t v).vaultIn = s.vaultIn := rfl
@[simp] theorem State.setPRead_vaultOpen : (s.setPRead ld fd t v).vaultOpen = s.vaultOpen := rfl
@[simp] theorem State.setPRead_host : (s.setPRead ld fd t v).host = s.host := rfl
@[simp] theorem State.setPRead_bootRec : (s.setPRead ld fd t v).bootRec = s.bootRec := rfl
@[simp] theorem State.setPRead_otpOp : (s.setPRead ld fd t v).otpOp = s.otpOp := rfl
@[simp] theorem State.setPRead_sent : (s.setPRead ld fd t v).sent = s.sent := rfl
@[simp] theorem State.setPRead_results : (s.setPRead ld fd t v).results = s.results := rfl
@[simp] theorem State.setPRead_busErr : (s.setPRead ld fd t v).busErr = s.busErr := rfl
@[simp] theorem State.setPRead_freeCtr : (s.setPRead ld fd t v).freeCtr = s.freeCtr := rfl
@[simp] theorem State.setPRead_pending : (s.setPRead ld fd t v).pending = s.pending := rfl
@[simp] theorem State.setPRead_lane (ld' l : Nat) : (s.setPRead ld fd t v).lane ld' l = s.lane ld' l := rfl
@[simp] theorem State.setPRead_inst (iid : Nat) : (s.setPRead ld fd t v).inst iid = s.inst iid := rfl
@[simp] theorem State.setPRead_bus (iid b : Nat) : (s.setPRead ld fd t v).bus iid b = s.bus iid b := rfl
@[simp] theorem State.setPRead_words (ld' fd' : Nat) : (s.setPRead ld fd t v).words ld' fd' = s.words ld' fd' := rfl
@[simp] theorem State.setPRead_frozenWord (ld' fd' t' : Nat) : (s.setPRead ld fd t v).frozenWord ld' fd' t' = s.frozenWord ld' fd' t' := rfl
@[simp] theorem State.setPRead_frozenAt (ld' fd' : Nat) : (s.setPRead ld fd t v).frozenAt ld' fd' = s.frozenAt ld' fd' := rfl
@[simp] theorem State.setPRead_capDue (die n : Nat) : (s.setPRead ld fd t v).capDue die n = s.capDue die n := rfl
@[simp] theorem State.setPRead_cell (fd' c : Nat) : (s.setPRead ld fd t v).cell fd' c = s.cell fd' c := rfl
@[simp] theorem State.setPRead_term (fd' t' : Nat) : (s.setPRead ld fd t v).term fd' t' = s.term fd' t' := rfl
@[simp] theorem State.setPRead_field (fd' : Nat) : (s.setPRead ld fd t v).field fd' = s.field fd' := rfl
@[simp] theorem State.setPRead_hbit (fd' k : Nat) : (s.setPRead ld fd t v).hbit fd' k = s.hbit fd' k := rfl
@[simp] theorem State.setPRead_svP (ld' iid : Nat) : (s.setPRead ld fd t v).svP ld' iid = s.svP ld' iid := rfl
@[simp] theorem State.setPRead_svH (fd' c : Nat) : (s.setPRead ld fd t v).svH fd' c = s.svH fd' c := rfl
@[simp] theorem State.setPRead_svDie (die : Nat) : (s.setPRead ld fd t v).svDie die = s.svDie die := rfl
@[simp] theorem State.setPRead_ring (ld' : Nat) : (s.setPRead ld fd t v).ring ld' = s.ring ld' := rfl
@[simp] theorem State.setPRead_port (ld' p : Nat) : (s.setPRead ld fd t v).port ld' p = s.port ld' p := rfl
@[simp] theorem State.setPRead_job (ld' e : Nat) : (s.setPRead ld fd t v).job ld' e = s.job ld' e := rfl
@[simp] theorem State.setPRead_svst (ld' : Nat) : (s.setPRead ld fd t v).svst ld' = s.svst ld' := rfl
@[simp] theorem State.setPRead_rem (ld' mb : Nat) : (s.setPRead ld fd t v).rem ld' mb = s.rem ld' mb := rfl
@[simp] theorem State.setPRead_stby (ld' n : Nat) : (s.setPRead ld fd t v).stby ld' n = s.stby ld' n := rfl
@[simp] theorem State.setPRead_sealSt (die : Nat) : (s.setPRead ld fd t v).sealSt die = s.sealSt die := rfl
@[simp] theorem State.setPRead_spmSt (ld' : Nat) : (s.setPRead ld fd t v).spmSt ld' = s.spmSt ld' := rfl
@[simp] theorem State.setPRead_otpWord (w : Nat) : (s.setPRead ld fd t v).otpWord w = s.otpWord w := rfl
@[simp] theorem State.setPRead_byte (a : Nat) : (s.setPRead ld fd t v).byte a = s.byte a := rfl
@[simp] theorem State.setPRead_eccClass (ld' off : Nat) : (s.setPRead ld fd t v).eccClass ld' off = s.eccClass ld' off := rfl
@[simp] theorem State.setPRead_flashByte (a : Nat) : (s.setPRead ld fd t v).flashByte a = s.flashByte a := rfl
@[simp] theorem State.setPRead_get (G : Fld) (e j : Nat) : (s.setPRead ld fd t v).get G e j = s.get G e j := rfl
@[simp] theorem State.setPRead_flag (G : Fld) (e j : Nat) : (s.setPRead ld fd t v).flag G e j = s.flag G e j := rfl
@[simp] theorem State.setPRead_outBit (ld' e : Nat) : (s.setPRead ld fd t v).outBit ld' e = s.outBit ld' e := rfl
@[simp] theorem State.setPRead_free : (s.setPRead ld fd t v).free = s.free := rfl
@[simp] theorem State.setPRead_choice : (s.setPRead ld fd t v).choice = s.choice := rfl

end

/-! ### `State.setCapDue` -/

section
variable (s : State) (die n v : Nat)

@[simp] theorem State.setCapDue_variant : (s.setCapDue die n v).variant = s.variant := rfl
@[simp] theorem State.setCapDue_rev : (s.setCapDue die n v).rev = s.rev := rfl
@[simp] theorem State.setCapDue_regs : (s.setCapDue die n v).regs = s.regs := rfl
@[simp] theorem State.setCapDue_mem : (s.setCapDue die n v).mem = s.mem := rfl
@[simp] theorem State.setCapDue_ecc : (s.setCapDue die n v).ecc = s.ecc := rfl
@[simp] theorem State.setCapDue_flash : (s.setCapDue die n v).flash = s.flash := rfl
@[simp] theorem State.setCapDue_otp : (s.setCapDue die n v).otp = s.otp := rfl
@[simp] theorem State.setCapDue_part : (s.setCapDue die n v).part = s.part := rfl
@[simp] theorem State.setCapDue_tick : (s.setCapDue die n v).tick = s.tick := rfl
@[simp] theorem State.setCapDue_tnumLatch : (s.setCapDue die n v).tnumLatch = s.tnumLatch := rfl
@[simp] theorem State.setCapDue_extRun : (s.setCapDue die n v).extRun = s.extRun := rfl
@[simp] theorem State.setCapDue_jobs : (s.setCapDue die n v).jobs = s.jobs := rfl
@[simp] theorem State.setCapDue_flog : (s.setCapDue die n v).flog = s.flog := rfl
@[simp] theorem State.setCapDue_sv : (s.setCapDue die n v).sv = s.sv := rfl
@[simp] theorem State.setCapDue_fences : (s.setCapDue die n v).fences = s.fences := rfl
@[simp] theorem State.setCapDue_lanes : (s.setCapDue die n v).lanes = s.lanes := rfl
@[simp] theorem State.setCapDue_pinst : (s.setCapDue die n v).pinst = s.pinst := rfl
@[simp] theorem State.setCapDue_busBits : (s.setCapDue die n v).busBits = s.busBits := rfl
@[simp] theorem State.setCapDue_outImg : (s.setCapDue die n v).outImg = s.outImg := rfl
@[simp] theorem State.setCapDue_outWords : (s.setCapDue die n v).outWords = s.outWords := rfl
@[simp] theorem State.setCapDue_frozen : (s.setCapDue die n v).frozen = s.frozen := rfl
@[simp] theorem State.setCapDue_frozenTick : (s.setCapDue die n v).frozenTick = s.frozenTick := rfl
@[simp] theorem State.setCapDue_pIn : (s.setCapDue die n v).pIn = s.pIn := rfl
@[simp] theorem State.setCapDue_cells : (s.setCapDue die n v).cells = s.cells := rfl
@[simp] theorem State.setCapDue_terms : (s.setCapDue die n v).terms = s.terms := rfl
@[simp] theorem State.setCapDue_fields : (s.setCapDue die n v).fields = s.fields := rfl
@[simp] theorem State.setCapDue_hbus : (s.setCapDue die n v).hbus = s.hbus := rfl
@[simp] theorem State.setCapDue_sieveP : (s.setCapDue die n v).sieveP = s.sieveP := rfl
@[simp] theorem State.setCapDue_sieveH : (s.setCapDue die n v).sieveH = s.sieveH := rfl
@[simp] theorem State.setCapDue_sieveDie : (s.setCapDue die n v).sieveDie = s.sieveDie := rfl
@[simp] theorem State.setCapDue_rings : (s.setCapDue die n v).rings = s.rings := rfl
@[simp] theorem State.setCapDue_ports : (s.setCapDue die n v).ports = s.ports := rfl
@[simp] theorem State.setCapDue_furP : (s.setCapDue die n v).furP = s.furP := rfl
@[simp] theorem State.setCapDue_furH : (s.setCapDue die n v).furH = s.furH := rfl
@[simp] theorem State.setCapDue_marksP : (s.setCapDue die n v).marksP = s.marksP := rfl
@[simp] theorem State.setCapDue_marksH : (s.setCapDue die n v).marksH = s.marksH := rfl
@[simp] theorem State.setCapDue_zoneP : (s.setCapDue die n v).zoneP = s.zoneP := rfl
@[simp] theorem State.setCapDue_htxH : (s.setCapDue die n v).htxH = s.htxH := rfl
@[simp] theorem State.setCapDue_htxMarks : (s.setCapDue die n v).htxMarks = s.htxMarks := rfl
@[simp] theorem State.setCapDue_mbOrder : (s.setCapDue die n v).mbOrder = s.mbOrder := rfl
@[simp] theorem State.setCapDue_remote : (s.setCapDue die n v).remote = s.remote := rfl
@[simp] theorem State.setCapDue_xferC : (s.setCapDue die n v).xferC = s.xferC := rfl
@[simp] theorem State.setCapDue_xferF : (s.setCapDue die n v).xferF = s.xferF := rfl
@[simp] theorem State.setCapDue_xferSeq : (s.setCapDue die n v).xferSeq = s.xferSeq := rfl
@[simp] theorem State.setCapDue_fwStaged : (s.setCapDue die n v).fwStaged = s.fwStaged := rfl
@[simp] theorem State.setCapDue_image : (s.setCapDue die n v).image = s.image := rfl
@[simp] theorem State.setCapDue_soak : (s.setCapDue die n v).soak = s.soak := rfl
@[simp] theorem State.setCapDue_standby : (s.setCapDue die n v).standby = s.standby := rfl
@[simp] theorem State.setCapDue_seals : (s.setCapDue die n v).seals = s.seals := rfl
@[simp] theorem State.setCapDue_spm : (s.setCapDue die n v).spm = s.spm := rfl
@[simp] theorem State.setCapDue_tap : (s.setCapDue die n v).tap = s.tap := rfl
@[simp] theorem State.setCapDue_tapRegs : (s.setCapDue die n v).tapRegs = s.tapRegs := rfl
@[simp] theorem State.setCapDue_prpg : (s.setCapDue die n v).prpg = s.prpg := rfl
@[simp] theorem State.setCapDue_vaultIn : (s.setCapDue die n v).vaultIn = s.vaultIn := rfl
@[simp] theorem State.setCapDue_vaultOpen : (s.setCapDue die n v).vaultOpen = s.vaultOpen := rfl
@[simp] theorem State.setCapDue_host : (s.setCapDue die n v).host = s.host := rfl
@[simp] theorem State.setCapDue_bootRec : (s.setCapDue die n v).bootRec = s.bootRec := rfl
@[simp] theorem State.setCapDue_otpOp : (s.setCapDue die n v).otpOp = s.otpOp := rfl
@[simp] theorem State.setCapDue_sent : (s.setCapDue die n v).sent = s.sent := rfl
@[simp] theorem State.setCapDue_results : (s.setCapDue die n v).results = s.results := rfl
@[simp] theorem State.setCapDue_busErr : (s.setCapDue die n v).busErr = s.busErr := rfl
@[simp] theorem State.setCapDue_freeCtr : (s.setCapDue die n v).freeCtr = s.freeCtr := rfl
@[simp] theorem State.setCapDue_pending : (s.setCapDue die n v).pending = s.pending := rfl
@[simp] theorem State.setCapDue_lane (ld l : Nat) : (s.setCapDue die n v).lane ld l = s.lane ld l := rfl
@[simp] theorem State.setCapDue_inst (iid : Nat) : (s.setCapDue die n v).inst iid = s.inst iid := rfl
@[simp] theorem State.setCapDue_bus (iid b : Nat) : (s.setCapDue die n v).bus iid b = s.bus iid b := rfl
@[simp] theorem State.setCapDue_words (ld fd : Nat) : (s.setCapDue die n v).words ld fd = s.words ld fd := rfl
@[simp] theorem State.setCapDue_frozenWord (ld fd t : Nat) : (s.setCapDue die n v).frozenWord ld fd t = s.frozenWord ld fd t := rfl
@[simp] theorem State.setCapDue_frozenAt (ld fd : Nat) : (s.setCapDue die n v).frozenAt ld fd = s.frozenAt ld fd := rfl
@[simp] theorem State.setCapDue_pRead (ld fd t : Nat) : (s.setCapDue die n v).pRead ld fd t = s.pRead ld fd t := rfl
@[simp] theorem State.setCapDue_cell (fd c : Nat) : (s.setCapDue die n v).cell fd c = s.cell fd c := rfl
@[simp] theorem State.setCapDue_term (fd t : Nat) : (s.setCapDue die n v).term fd t = s.term fd t := rfl
@[simp] theorem State.setCapDue_field (fd : Nat) : (s.setCapDue die n v).field fd = s.field fd := rfl
@[simp] theorem State.setCapDue_hbit (fd k : Nat) : (s.setCapDue die n v).hbit fd k = s.hbit fd k := rfl
@[simp] theorem State.setCapDue_svP (ld iid : Nat) : (s.setCapDue die n v).svP ld iid = s.svP ld iid := rfl
@[simp] theorem State.setCapDue_svH (fd c : Nat) : (s.setCapDue die n v).svH fd c = s.svH fd c := rfl
@[simp] theorem State.setCapDue_svDie (die' : Nat) : (s.setCapDue die n v).svDie die' = s.svDie die' := rfl
@[simp] theorem State.setCapDue_ring (ld : Nat) : (s.setCapDue die n v).ring ld = s.ring ld := rfl
@[simp] theorem State.setCapDue_port (ld p : Nat) : (s.setCapDue die n v).port ld p = s.port ld p := rfl
@[simp] theorem State.setCapDue_job (ld e : Nat) : (s.setCapDue die n v).job ld e = s.job ld e := rfl
@[simp] theorem State.setCapDue_svst (ld : Nat) : (s.setCapDue die n v).svst ld = s.svst ld := rfl
@[simp] theorem State.setCapDue_rem (ld mb : Nat) : (s.setCapDue die n v).rem ld mb = s.rem ld mb := rfl
@[simp] theorem State.setCapDue_stby (ld n' : Nat) : (s.setCapDue die n v).stby ld n' = s.stby ld n' := rfl
@[simp] theorem State.setCapDue_sealSt (die' : Nat) : (s.setCapDue die n v).sealSt die' = s.sealSt die' := rfl
@[simp] theorem State.setCapDue_spmSt (ld : Nat) : (s.setCapDue die n v).spmSt ld = s.spmSt ld := rfl
@[simp] theorem State.setCapDue_otpWord (w : Nat) : (s.setCapDue die n v).otpWord w = s.otpWord w := rfl
@[simp] theorem State.setCapDue_byte (a : Nat) : (s.setCapDue die n v).byte a = s.byte a := rfl
@[simp] theorem State.setCapDue_eccClass (ld off : Nat) : (s.setCapDue die n v).eccClass ld off = s.eccClass ld off := rfl
@[simp] theorem State.setCapDue_flashByte (a : Nat) : (s.setCapDue die n v).flashByte a = s.flashByte a := rfl
@[simp] theorem State.setCapDue_get (G : Fld) (e j : Nat) : (s.setCapDue die n v).get G e j = s.get G e j := rfl
@[simp] theorem State.setCapDue_flag (G : Fld) (e j : Nat) : (s.setCapDue die n v).flag G e j = s.flag G e j := rfl
@[simp] theorem State.setCapDue_outBit (ld e : Nat) : (s.setCapDue die n v).outBit ld e = s.outBit ld e := rfl
@[simp] theorem State.setCapDue_free : (s.setCapDue die n v).free = s.free := rfl
@[simp] theorem State.setCapDue_choice : (s.setCapDue die n v).choice = s.choice := rfl

end

/-! ### `State.setPrpg` -/

section
variable (s : State) (k v : Nat)

@[simp] theorem State.setPrpg_variant : (s.setPrpg k v).variant = s.variant := rfl
@[simp] theorem State.setPrpg_rev : (s.setPrpg k v).rev = s.rev := rfl
@[simp] theorem State.setPrpg_regs : (s.setPrpg k v).regs = s.regs := rfl
@[simp] theorem State.setPrpg_mem : (s.setPrpg k v).mem = s.mem := rfl
@[simp] theorem State.setPrpg_ecc : (s.setPrpg k v).ecc = s.ecc := rfl
@[simp] theorem State.setPrpg_flash : (s.setPrpg k v).flash = s.flash := rfl
@[simp] theorem State.setPrpg_otp : (s.setPrpg k v).otp = s.otp := rfl
@[simp] theorem State.setPrpg_part : (s.setPrpg k v).part = s.part := rfl
@[simp] theorem State.setPrpg_tick : (s.setPrpg k v).tick = s.tick := rfl
@[simp] theorem State.setPrpg_tnumLatch : (s.setPrpg k v).tnumLatch = s.tnumLatch := rfl
@[simp] theorem State.setPrpg_extRun : (s.setPrpg k v).extRun = s.extRun := rfl
@[simp] theorem State.setPrpg_jobs : (s.setPrpg k v).jobs = s.jobs := rfl
@[simp] theorem State.setPrpg_flog : (s.setPrpg k v).flog = s.flog := rfl
@[simp] theorem State.setPrpg_sv : (s.setPrpg k v).sv = s.sv := rfl
@[simp] theorem State.setPrpg_fences : (s.setPrpg k v).fences = s.fences := rfl
@[simp] theorem State.setPrpg_lanes : (s.setPrpg k v).lanes = s.lanes := rfl
@[simp] theorem State.setPrpg_pinst : (s.setPrpg k v).pinst = s.pinst := rfl
@[simp] theorem State.setPrpg_busBits : (s.setPrpg k v).busBits = s.busBits := rfl
@[simp] theorem State.setPrpg_outImg : (s.setPrpg k v).outImg = s.outImg := rfl
@[simp] theorem State.setPrpg_outWords : (s.setPrpg k v).outWords = s.outWords := rfl
@[simp] theorem State.setPrpg_frozen : (s.setPrpg k v).frozen = s.frozen := rfl
@[simp] theorem State.setPrpg_frozenTick : (s.setPrpg k v).frozenTick = s.frozenTick := rfl
@[simp] theorem State.setPrpg_pIn : (s.setPrpg k v).pIn = s.pIn := rfl
@[simp] theorem State.setPrpg_capIn : (s.setPrpg k v).capIn = s.capIn := rfl
@[simp] theorem State.setPrpg_cells : (s.setPrpg k v).cells = s.cells := rfl
@[simp] theorem State.setPrpg_terms : (s.setPrpg k v).terms = s.terms := rfl
@[simp] theorem State.setPrpg_fields : (s.setPrpg k v).fields = s.fields := rfl
@[simp] theorem State.setPrpg_hbus : (s.setPrpg k v).hbus = s.hbus := rfl
@[simp] theorem State.setPrpg_sieveP : (s.setPrpg k v).sieveP = s.sieveP := rfl
@[simp] theorem State.setPrpg_sieveH : (s.setPrpg k v).sieveH = s.sieveH := rfl
@[simp] theorem State.setPrpg_sieveDie : (s.setPrpg k v).sieveDie = s.sieveDie := rfl
@[simp] theorem State.setPrpg_rings : (s.setPrpg k v).rings = s.rings := rfl
@[simp] theorem State.setPrpg_ports : (s.setPrpg k v).ports = s.ports := rfl
@[simp] theorem State.setPrpg_furP : (s.setPrpg k v).furP = s.furP := rfl
@[simp] theorem State.setPrpg_furH : (s.setPrpg k v).furH = s.furH := rfl
@[simp] theorem State.setPrpg_marksP : (s.setPrpg k v).marksP = s.marksP := rfl
@[simp] theorem State.setPrpg_marksH : (s.setPrpg k v).marksH = s.marksH := rfl
@[simp] theorem State.setPrpg_zoneP : (s.setPrpg k v).zoneP = s.zoneP := rfl
@[simp] theorem State.setPrpg_htxH : (s.setPrpg k v).htxH = s.htxH := rfl
@[simp] theorem State.setPrpg_htxMarks : (s.setPrpg k v).htxMarks = s.htxMarks := rfl
@[simp] theorem State.setPrpg_mbOrder : (s.setPrpg k v).mbOrder = s.mbOrder := rfl
@[simp] theorem State.setPrpg_remote : (s.setPrpg k v).remote = s.remote := rfl
@[simp] theorem State.setPrpg_xferC : (s.setPrpg k v).xferC = s.xferC := rfl
@[simp] theorem State.setPrpg_xferF : (s.setPrpg k v).xferF = s.xferF := rfl
@[simp] theorem State.setPrpg_xferSeq : (s.setPrpg k v).xferSeq = s.xferSeq := rfl
@[simp] theorem State.setPrpg_fwStaged : (s.setPrpg k v).fwStaged = s.fwStaged := rfl
@[simp] theorem State.setPrpg_image : (s.setPrpg k v).image = s.image := rfl
@[simp] theorem State.setPrpg_soak : (s.setPrpg k v).soak = s.soak := rfl
@[simp] theorem State.setPrpg_standby : (s.setPrpg k v).standby = s.standby := rfl
@[simp] theorem State.setPrpg_seals : (s.setPrpg k v).seals = s.seals := rfl
@[simp] theorem State.setPrpg_spm : (s.setPrpg k v).spm = s.spm := rfl
@[simp] theorem State.setPrpg_tap : (s.setPrpg k v).tap = s.tap := rfl
@[simp] theorem State.setPrpg_tapRegs : (s.setPrpg k v).tapRegs = s.tapRegs := rfl
@[simp] theorem State.setPrpg_vaultIn : (s.setPrpg k v).vaultIn = s.vaultIn := rfl
@[simp] theorem State.setPrpg_vaultOpen : (s.setPrpg k v).vaultOpen = s.vaultOpen := rfl
@[simp] theorem State.setPrpg_host : (s.setPrpg k v).host = s.host := rfl
@[simp] theorem State.setPrpg_bootRec : (s.setPrpg k v).bootRec = s.bootRec := rfl
@[simp] theorem State.setPrpg_otpOp : (s.setPrpg k v).otpOp = s.otpOp := rfl
@[simp] theorem State.setPrpg_sent : (s.setPrpg k v).sent = s.sent := rfl
@[simp] theorem State.setPrpg_results : (s.setPrpg k v).results = s.results := rfl
@[simp] theorem State.setPrpg_busErr : (s.setPrpg k v).busErr = s.busErr := rfl
@[simp] theorem State.setPrpg_freeCtr : (s.setPrpg k v).freeCtr = s.freeCtr := rfl
@[simp] theorem State.setPrpg_pending : (s.setPrpg k v).pending = s.pending := rfl
@[simp] theorem State.setPrpg_lane (ld l : Nat) : (s.setPrpg k v).lane ld l = s.lane ld l := rfl
@[simp] theorem State.setPrpg_inst (iid : Nat) : (s.setPrpg k v).inst iid = s.inst iid := rfl
@[simp] theorem State.setPrpg_bus (iid b : Nat) : (s.setPrpg k v).bus iid b = s.bus iid b := rfl
@[simp] theorem State.setPrpg_words (ld fd : Nat) : (s.setPrpg k v).words ld fd = s.words ld fd := rfl
@[simp] theorem State.setPrpg_frozenWord (ld fd t : Nat) : (s.setPrpg k v).frozenWord ld fd t = s.frozenWord ld fd t := rfl
@[simp] theorem State.setPrpg_frozenAt (ld fd : Nat) : (s.setPrpg k v).frozenAt ld fd = s.frozenAt ld fd := rfl
@[simp] theorem State.setPrpg_pRead (ld fd t : Nat) : (s.setPrpg k v).pRead ld fd t = s.pRead ld fd t := rfl
@[simp] theorem State.setPrpg_cell (fd c : Nat) : (s.setPrpg k v).cell fd c = s.cell fd c := rfl
@[simp] theorem State.setPrpg_term (fd t : Nat) : (s.setPrpg k v).term fd t = s.term fd t := rfl
@[simp] theorem State.setPrpg_field (fd : Nat) : (s.setPrpg k v).field fd = s.field fd := rfl
@[simp] theorem State.setPrpg_hbit (fd k : Nat) : (s.setPrpg k v).hbit fd k = s.hbit fd k := rfl
@[simp] theorem State.setPrpg_svP (ld iid : Nat) : (s.setPrpg k v).svP ld iid = s.svP ld iid := rfl
@[simp] theorem State.setPrpg_svH (fd c : Nat) : (s.setPrpg k v).svH fd c = s.svH fd c := rfl
@[simp] theorem State.setPrpg_svDie (die' : Nat) : (s.setPrpg k v).svDie die' = s.svDie die' := rfl
@[simp] theorem State.setPrpg_ring (ld : Nat) : (s.setPrpg k v).ring ld = s.ring ld := rfl
@[simp] theorem State.setPrpg_port (ld p : Nat) : (s.setPrpg k v).port ld p = s.port ld p := rfl
@[simp] theorem State.setPrpg_job (ld e : Nat) : (s.setPrpg k v).job ld e = s.job ld e := rfl
@[simp] theorem State.setPrpg_svst (ld : Nat) : (s.setPrpg k v).svst ld = s.svst ld := rfl
@[simp] theorem State.setPrpg_rem (ld mb : Nat) : (s.setPrpg k v).rem ld mb = s.rem ld mb := rfl
@[simp] theorem State.setPrpg_stby (ld n' : Nat) : (s.setPrpg k v).stby ld n' = s.stby ld n' := rfl
@[simp] theorem State.setPrpg_sealSt (die' : Nat) : (s.setPrpg k v).sealSt die' = s.sealSt die' := rfl
@[simp] theorem State.setPrpg_spmSt (ld : Nat) : (s.setPrpg k v).spmSt ld = s.spmSt ld := rfl
@[simp] theorem State.setPrpg_otpWord (w : Nat) : (s.setPrpg k v).otpWord w = s.otpWord w := rfl
@[simp] theorem State.setPrpg_byte (a : Nat) : (s.setPrpg k v).byte a = s.byte a := rfl
@[simp] theorem State.setPrpg_eccClass (ld off : Nat) : (s.setPrpg k v).eccClass ld off = s.eccClass ld off := rfl
@[simp] theorem State.setPrpg_flashByte (a : Nat) : (s.setPrpg k v).flashByte a = s.flashByte a := rfl
@[simp] theorem State.setPrpg_get (G : Fld) (e j : Nat) : (s.setPrpg k v).get G e j = s.get G e j := rfl
@[simp] theorem State.setPrpg_flag (G : Fld) (e j : Nat) : (s.setPrpg k v).flag G e j = s.flag G e j := rfl
@[simp] theorem State.setPrpg_outBit (ld e : Nat) : (s.setPrpg k v).outBit ld e = s.outBit ld e := rfl
@[simp] theorem State.setPrpg_free : (s.setPrpg k v).free = s.free := rfl
@[simp] theorem State.setPrpg_choice : (s.setPrpg k v).choice = s.choice := rfl

end

/-! ### `State.setCell` -/

section
variable (s : State) (fd c : Nat) (v : HCell)

@[simp] theorem State.setCell_variant : (s.setCell fd c v).variant = s.variant := rfl
@[simp] theorem State.setCell_rev : (s.setCell fd c v).rev = s.rev := rfl
@[simp] theorem State.setCell_regs : (s.setCell fd c v).regs = s.regs := rfl
@[simp] theorem State.setCell_mem : (s.setCell fd c v).mem = s.mem := rfl
@[simp] theorem State.setCell_ecc : (s.setCell fd c v).ecc = s.ecc := rfl
@[simp] theorem State.setCell_flash : (s.setCell fd c v).flash = s.flash := rfl
@[simp] theorem State.setCell_otp : (s.setCell fd c v).otp = s.otp := rfl
@[simp] theorem State.setCell_part : (s.setCell fd c v).part = s.part := rfl
@[simp] theorem State.setCell_tick : (s.setCell fd c v).tick = s.tick := rfl
@[simp] theorem State.setCell_tnumLatch : (s.setCell fd c v).tnumLatch = s.tnumLatch := rfl
@[simp] theorem State.setCell_extRun : (s.setCell fd c v).extRun = s.extRun := rfl
@[simp] theorem State.setCell_jobs : (s.setCell fd c v).jobs = s.jobs := rfl
@[simp] theorem State.setCell_flog : (s.setCell fd c v).flog = s.flog := rfl
@[simp] theorem State.setCell_sv : (s.setCell fd c v).sv = s.sv := rfl
@[simp] theorem State.setCell_fences : (s.setCell fd c v).fences = s.fences := rfl
@[simp] theorem State.setCell_lanes : (s.setCell fd c v).lanes = s.lanes := rfl
@[simp] theorem State.setCell_pinst : (s.setCell fd c v).pinst = s.pinst := rfl
@[simp] theorem State.setCell_busBits : (s.setCell fd c v).busBits = s.busBits := rfl
@[simp] theorem State.setCell_outImg : (s.setCell fd c v).outImg = s.outImg := rfl
@[simp] theorem State.setCell_outWords : (s.setCell fd c v).outWords = s.outWords := rfl
@[simp] theorem State.setCell_frozen : (s.setCell fd c v).frozen = s.frozen := rfl
@[simp] theorem State.setCell_frozenTick : (s.setCell fd c v).frozenTick = s.frozenTick := rfl
@[simp] theorem State.setCell_pIn : (s.setCell fd c v).pIn = s.pIn := rfl
@[simp] theorem State.setCell_capIn : (s.setCell fd c v).capIn = s.capIn := rfl
@[simp] theorem State.setCell_terms : (s.setCell fd c v).terms = s.terms := rfl
@[simp] theorem State.setCell_fields : (s.setCell fd c v).fields = s.fields := rfl
@[simp] theorem State.setCell_hbus : (s.setCell fd c v).hbus = s.hbus := rfl
@[simp] theorem State.setCell_sieveP : (s.setCell fd c v).sieveP = s.sieveP := rfl
@[simp] theorem State.setCell_sieveH : (s.setCell fd c v).sieveH = s.sieveH := rfl
@[simp] theorem State.setCell_sieveDie : (s.setCell fd c v).sieveDie = s.sieveDie := rfl
@[simp] theorem State.setCell_rings : (s.setCell fd c v).rings = s.rings := rfl
@[simp] theorem State.setCell_ports : (s.setCell fd c v).ports = s.ports := rfl
@[simp] theorem State.setCell_furP : (s.setCell fd c v).furP = s.furP := rfl
@[simp] theorem State.setCell_furH : (s.setCell fd c v).furH = s.furH := rfl
@[simp] theorem State.setCell_marksP : (s.setCell fd c v).marksP = s.marksP := rfl
@[simp] theorem State.setCell_marksH : (s.setCell fd c v).marksH = s.marksH := rfl
@[simp] theorem State.setCell_zoneP : (s.setCell fd c v).zoneP = s.zoneP := rfl
@[simp] theorem State.setCell_htxH : (s.setCell fd c v).htxH = s.htxH := rfl
@[simp] theorem State.setCell_htxMarks : (s.setCell fd c v).htxMarks = s.htxMarks := rfl
@[simp] theorem State.setCell_mbOrder : (s.setCell fd c v).mbOrder = s.mbOrder := rfl
@[simp] theorem State.setCell_remote : (s.setCell fd c v).remote = s.remote := rfl
@[simp] theorem State.setCell_xferC : (s.setCell fd c v).xferC = s.xferC := rfl
@[simp] theorem State.setCell_xferF : (s.setCell fd c v).xferF = s.xferF := rfl
@[simp] theorem State.setCell_xferSeq : (s.setCell fd c v).xferSeq = s.xferSeq := rfl
@[simp] theorem State.setCell_fwStaged : (s.setCell fd c v).fwStaged = s.fwStaged := rfl
@[simp] theorem State.setCell_image : (s.setCell fd c v).image = s.image := rfl
@[simp] theorem State.setCell_soak : (s.setCell fd c v).soak = s.soak := rfl
@[simp] theorem State.setCell_standby : (s.setCell fd c v).standby = s.standby := rfl
@[simp] theorem State.setCell_seals : (s.setCell fd c v).seals = s.seals := rfl
@[simp] theorem State.setCell_spm : (s.setCell fd c v).spm = s.spm := rfl
@[simp] theorem State.setCell_tap : (s.setCell fd c v).tap = s.tap := rfl
@[simp] theorem State.setCell_tapRegs : (s.setCell fd c v).tapRegs = s.tapRegs := rfl
@[simp] theorem State.setCell_prpg : (s.setCell fd c v).prpg = s.prpg := rfl
@[simp] theorem State.setCell_vaultIn : (s.setCell fd c v).vaultIn = s.vaultIn := rfl
@[simp] theorem State.setCell_vaultOpen : (s.setCell fd c v).vaultOpen = s.vaultOpen := rfl
@[simp] theorem State.setCell_host : (s.setCell fd c v).host = s.host := rfl
@[simp] theorem State.setCell_bootRec : (s.setCell fd c v).bootRec = s.bootRec := rfl
@[simp] theorem State.setCell_otpOp : (s.setCell fd c v).otpOp = s.otpOp := rfl
@[simp] theorem State.setCell_sent : (s.setCell fd c v).sent = s.sent := rfl
@[simp] theorem State.setCell_results : (s.setCell fd c v).results = s.results := rfl
@[simp] theorem State.setCell_busErr : (s.setCell fd c v).busErr = s.busErr := rfl
@[simp] theorem State.setCell_freeCtr : (s.setCell fd c v).freeCtr = s.freeCtr := rfl
@[simp] theorem State.setCell_pending : (s.setCell fd c v).pending = s.pending := rfl
@[simp] theorem State.setCell_lane (ld l : Nat) : (s.setCell fd c v).lane ld l = s.lane ld l := rfl
@[simp] theorem State.setCell_inst (iid : Nat) : (s.setCell fd c v).inst iid = s.inst iid := rfl
@[simp] theorem State.setCell_bus (iid b : Nat) : (s.setCell fd c v).bus iid b = s.bus iid b := rfl
@[simp] theorem State.setCell_words (ld fd' : Nat) : (s.setCell fd c v).words ld fd' = s.words ld fd' := rfl
@[simp] theorem State.setCell_frozenWord (ld fd' t : Nat) : (s.setCell fd c v).frozenWord ld fd' t = s.frozenWord ld fd' t := rfl
@[simp] theorem State.setCell_frozenAt (ld fd' : Nat) : (s.setCell fd c v).frozenAt ld fd' = s.frozenAt ld fd' := rfl
@[simp] theorem State.setCell_pRead (ld fd' t : Nat) : (s.setCell fd c v).pRead ld fd' t = s.pRead ld fd' t := rfl
@[simp] theorem State.setCell_capDue (die n : Nat) : (s.setCell fd c v).capDue die n = s.capDue die n := rfl
@[simp] theorem State.setCell_term (fd' t : Nat) : (s.setCell fd c v).term fd' t = s.term fd' t := rfl
@[simp] theorem State.setCell_field (fd' : Nat) : (s.setCell fd c v).field fd' = s.field fd' := rfl
@[simp] theorem State.setCell_hbit (fd' k : Nat) : (s.setCell fd c v).hbit fd' k = s.hbit fd' k := rfl
@[simp] theorem State.setCell_svP (ld iid : Nat) : (s.setCell fd c v).svP ld iid = s.svP ld iid := rfl
@[simp] theorem State.setCell_svH (fd' c' : Nat) : (s.setCell fd c v).svH fd' c' = s.svH fd' c' := rfl
@[simp] theorem State.setCell_svDie (die : Nat) : (s.setCell fd c v).svDie die = s.svDie die := rfl
@[simp] theorem State.setCell_ring (ld : Nat) : (s.setCell fd c v).ring ld = s.ring ld := rfl
@[simp] theorem State.setCell_port (ld p : Nat) : (s.setCell fd c v).port ld p = s.port ld p := rfl
@[simp] theorem State.setCell_job (ld e : Nat) : (s.setCell fd c v).job ld e = s.job ld e := rfl
@[simp] theorem State.setCell_svst (ld : Nat) : (s.setCell fd c v).svst ld = s.svst ld := rfl
@[simp] theorem State.setCell_rem (ld mb : Nat) : (s.setCell fd c v).rem ld mb = s.rem ld mb := rfl
@[simp] theorem State.setCell_stby (ld n : Nat) : (s.setCell fd c v).stby ld n = s.stby ld n := rfl
@[simp] theorem State.setCell_sealSt (die : Nat) : (s.setCell fd c v).sealSt die = s.sealSt die := rfl
@[simp] theorem State.setCell_spmSt (ld : Nat) : (s.setCell fd c v).spmSt ld = s.spmSt ld := rfl
@[simp] theorem State.setCell_otpWord (w : Nat) : (s.setCell fd c v).otpWord w = s.otpWord w := rfl
@[simp] theorem State.setCell_byte (a : Nat) : (s.setCell fd c v).byte a = s.byte a := rfl
@[simp] theorem State.setCell_eccClass (ld off : Nat) : (s.setCell fd c v).eccClass ld off = s.eccClass ld off := rfl
@[simp] theorem State.setCell_flashByte (a : Nat) : (s.setCell fd c v).flashByte a = s.flashByte a := rfl
@[simp] theorem State.setCell_get (G : Fld) (e j : Nat) : (s.setCell fd c v).get G e j = s.get G e j := rfl
@[simp] theorem State.setCell_flag (G : Fld) (e j : Nat) : (s.setCell fd c v).flag G e j = s.flag G e j := rfl
@[simp] theorem State.setCell_outBit (ld e : Nat) : (s.setCell fd c v).outBit ld e = s.outBit ld e := rfl
@[simp] theorem State.setCell_free : (s.setCell fd c v).free = s.free := rfl
@[simp] theorem State.setCell_choice : (s.setCell fd c v).choice = s.choice := rfl

end

/-! ### `State.setTerm` -/

section
variable (s : State) (fd t : Nat) (v : TermSt)

@[simp] theorem State.setTerm_variant : (s.setTerm fd t v).variant = s.variant := rfl
@[simp] theorem State.setTerm_rev : (s.setTerm fd t v).rev = s.rev := rfl
@[simp] theorem State.setTerm_regs : (s.setTerm fd t v).regs = s.regs := rfl
@[simp] theorem State.setTerm_mem : (s.setTerm fd t v).mem = s.mem := rfl
@[simp] theorem State.setTerm_ecc : (s.setTerm fd t v).ecc = s.ecc := rfl
@[simp] theorem State.setTerm_flash : (s.setTerm fd t v).flash = s.flash := rfl
@[simp] theorem State.setTerm_otp : (s.setTerm fd t v).otp = s.otp := rfl
@[simp] theorem State.setTerm_part : (s.setTerm fd t v).part = s.part := rfl
@[simp] theorem State.setTerm_tick : (s.setTerm fd t v).tick = s.tick := rfl
@[simp] theorem State.setTerm_tnumLatch : (s.setTerm fd t v).tnumLatch = s.tnumLatch := rfl
@[simp] theorem State.setTerm_extRun : (s.setTerm fd t v).extRun = s.extRun := rfl
@[simp] theorem State.setTerm_jobs : (s.setTerm fd t v).jobs = s.jobs := rfl
@[simp] theorem State.setTerm_flog : (s.setTerm fd t v).flog = s.flog := rfl
@[simp] theorem State.setTerm_sv : (s.setTerm fd t v).sv = s.sv := rfl
@[simp] theorem State.setTerm_fences : (s.setTerm fd t v).fences = s.fences := rfl
@[simp] theorem State.setTerm_lanes : (s.setTerm fd t v).lanes = s.lanes := rfl
@[simp] theorem State.setTerm_pinst : (s.setTerm fd t v).pinst = s.pinst := rfl
@[simp] theorem State.setTerm_busBits : (s.setTerm fd t v).busBits = s.busBits := rfl
@[simp] theorem State.setTerm_outImg : (s.setTerm fd t v).outImg = s.outImg := rfl
@[simp] theorem State.setTerm_outWords : (s.setTerm fd t v).outWords = s.outWords := rfl
@[simp] theorem State.setTerm_frozen : (s.setTerm fd t v).frozen = s.frozen := rfl
@[simp] theorem State.setTerm_frozenTick : (s.setTerm fd t v).frozenTick = s.frozenTick := rfl
@[simp] theorem State.setTerm_pIn : (s.setTerm fd t v).pIn = s.pIn := rfl
@[simp] theorem State.setTerm_capIn : (s.setTerm fd t v).capIn = s.capIn := rfl
@[simp] theorem State.setTerm_cells : (s.setTerm fd t v).cells = s.cells := rfl
@[simp] theorem State.setTerm_fields : (s.setTerm fd t v).fields = s.fields := rfl
@[simp] theorem State.setTerm_hbus : (s.setTerm fd t v).hbus = s.hbus := rfl
@[simp] theorem State.setTerm_sieveP : (s.setTerm fd t v).sieveP = s.sieveP := rfl
@[simp] theorem State.setTerm_sieveH : (s.setTerm fd t v).sieveH = s.sieveH := rfl
@[simp] theorem State.setTerm_sieveDie : (s.setTerm fd t v).sieveDie = s.sieveDie := rfl
@[simp] theorem State.setTerm_rings : (s.setTerm fd t v).rings = s.rings := rfl
@[simp] theorem State.setTerm_ports : (s.setTerm fd t v).ports = s.ports := rfl
@[simp] theorem State.setTerm_furP : (s.setTerm fd t v).furP = s.furP := rfl
@[simp] theorem State.setTerm_furH : (s.setTerm fd t v).furH = s.furH := rfl
@[simp] theorem State.setTerm_marksP : (s.setTerm fd t v).marksP = s.marksP := rfl
@[simp] theorem State.setTerm_marksH : (s.setTerm fd t v).marksH = s.marksH := rfl
@[simp] theorem State.setTerm_zoneP : (s.setTerm fd t v).zoneP = s.zoneP := rfl
@[simp] theorem State.setTerm_htxH : (s.setTerm fd t v).htxH = s.htxH := rfl
@[simp] theorem State.setTerm_htxMarks : (s.setTerm fd t v).htxMarks = s.htxMarks := rfl
@[simp] theorem State.setTerm_mbOrder : (s.setTerm fd t v).mbOrder = s.mbOrder := rfl
@[simp] theorem State.setTerm_remote : (s.setTerm fd t v).remote = s.remote := rfl
@[simp] theorem State.setTerm_xferC : (s.setTerm fd t v).xferC = s.xferC := rfl
@[simp] theorem State.setTerm_xferF : (s.setTerm fd t v).xferF = s.xferF := rfl
@[simp] theorem State.setTerm_xferSeq : (s.setTerm fd t v).xferSeq = s.xferSeq := rfl
@[simp] theorem State.setTerm_fwStaged : (s.setTerm fd t v).fwStaged = s.fwStaged := rfl
@[simp] theorem State.setTerm_image : (s.setTerm fd t v).image = s.image := rfl
@[simp] theorem State.setTerm_soak : (s.setTerm fd t v).soak = s.soak := rfl
@[simp] theorem State.setTerm_standby : (s.setTerm fd t v).standby = s.standby := rfl
@[simp] theorem State.setTerm_seals : (s.setTerm fd t v).seals = s.seals := rfl
@[simp] theorem State.setTerm_spm : (s.setTerm fd t v).spm = s.spm := rfl
@[simp] theorem State.setTerm_tap : (s.setTerm fd t v).tap = s.tap := rfl
@[simp] theorem State.setTerm_tapRegs : (s.setTerm fd t v).tapRegs = s.tapRegs := rfl
@[simp] theorem State.setTerm_prpg : (s.setTerm fd t v).prpg = s.prpg := rfl
@[simp] theorem State.setTerm_vaultIn : (s.setTerm fd t v).vaultIn = s.vaultIn := rfl
@[simp] theorem State.setTerm_vaultOpen : (s.setTerm fd t v).vaultOpen = s.vaultOpen := rfl
@[simp] theorem State.setTerm_host : (s.setTerm fd t v).host = s.host := rfl
@[simp] theorem State.setTerm_bootRec : (s.setTerm fd t v).bootRec = s.bootRec := rfl
@[simp] theorem State.setTerm_otpOp : (s.setTerm fd t v).otpOp = s.otpOp := rfl
@[simp] theorem State.setTerm_sent : (s.setTerm fd t v).sent = s.sent := rfl
@[simp] theorem State.setTerm_results : (s.setTerm fd t v).results = s.results := rfl
@[simp] theorem State.setTerm_busErr : (s.setTerm fd t v).busErr = s.busErr := rfl
@[simp] theorem State.setTerm_freeCtr : (s.setTerm fd t v).freeCtr = s.freeCtr := rfl
@[simp] theorem State.setTerm_pending : (s.setTerm fd t v).pending = s.pending := rfl
@[simp] theorem State.setTerm_lane (ld l : Nat) : (s.setTerm fd t v).lane ld l = s.lane ld l := rfl
@[simp] theorem State.setTerm_inst (iid : Nat) : (s.setTerm fd t v).inst iid = s.inst iid := rfl
@[simp] theorem State.setTerm_bus (iid b : Nat) : (s.setTerm fd t v).bus iid b = s.bus iid b := rfl
@[simp] theorem State.setTerm_words (ld fd' : Nat) : (s.setTerm fd t v).words ld fd' = s.words ld fd' := rfl
@[simp] theorem State.setTerm_frozenWord (ld fd' t' : Nat) : (s.setTerm fd t v).frozenWord ld fd' t' = s.frozenWord ld fd' t' := rfl
@[simp] theorem State.setTerm_frozenAt (ld fd' : Nat) : (s.setTerm fd t v).frozenAt ld fd' = s.frozenAt ld fd' := rfl
@[simp] theorem State.setTerm_pRead (ld fd' t' : Nat) : (s.setTerm fd t v).pRead ld fd' t' = s.pRead ld fd' t' := rfl
@[simp] theorem State.setTerm_capDue (die n : Nat) : (s.setTerm fd t v).capDue die n = s.capDue die n := rfl
@[simp] theorem State.setTerm_cell (fd' c : Nat) : (s.setTerm fd t v).cell fd' c = s.cell fd' c := rfl
@[simp] theorem State.setTerm_field (fd' : Nat) : (s.setTerm fd t v).field fd' = s.field fd' := rfl
@[simp] theorem State.setTerm_hbit (fd' k : Nat) : (s.setTerm fd t v).hbit fd' k = s.hbit fd' k := rfl
@[simp] theorem State.setTerm_svP (ld iid : Nat) : (s.setTerm fd t v).svP ld iid = s.svP ld iid := rfl
@[simp] theorem State.setTerm_svH (fd' c : Nat) : (s.setTerm fd t v).svH fd' c = s.svH fd' c := rfl
@[simp] theorem State.setTerm_svDie (die : Nat) : (s.setTerm fd t v).svDie die = s.svDie die := rfl
@[simp] theorem State.setTerm_ring (ld : Nat) : (s.setTerm fd t v).ring ld = s.ring ld := rfl
@[simp] theorem State.setTerm_port (ld p : Nat) : (s.setTerm fd t v).port ld p = s.port ld p := rfl
@[simp] theorem State.setTerm_job (ld e : Nat) : (s.setTerm fd t v).job ld e = s.job ld e := rfl
@[simp] theorem State.setTerm_svst (ld : Nat) : (s.setTerm fd t v).svst ld = s.svst ld := rfl
@[simp] theorem State.setTerm_rem (ld mb : Nat) : (s.setTerm fd t v).rem ld mb = s.rem ld mb := rfl
@[simp] theorem State.setTerm_stby (ld n : Nat) : (s.setTerm fd t v).stby ld n = s.stby ld n := rfl
@[simp] theorem State.setTerm_sealSt (die : Nat) : (s.setTerm fd t v).sealSt die = s.sealSt die := rfl
@[simp] theorem State.setTerm_spmSt (ld : Nat) : (s.setTerm fd t v).spmSt ld = s.spmSt ld := rfl
@[simp] theorem State.setTerm_otpWord (w : Nat) : (s.setTerm fd t v).otpWord w = s.otpWord w := rfl
@[simp] theorem State.setTerm_byte (a : Nat) : (s.setTerm fd t v).byte a = s.byte a := rfl
@[simp] theorem State.setTerm_eccClass (ld off : Nat) : (s.setTerm fd t v).eccClass ld off = s.eccClass ld off := rfl
@[simp] theorem State.setTerm_flashByte (a : Nat) : (s.setTerm fd t v).flashByte a = s.flashByte a := rfl
@[simp] theorem State.setTerm_get (G : Fld) (e j : Nat) : (s.setTerm fd t v).get G e j = s.get G e j := rfl
@[simp] theorem State.setTerm_flag (G : Fld) (e j : Nat) : (s.setTerm fd t v).flag G e j = s.flag G e j := rfl
@[simp] theorem State.setTerm_outBit (ld e : Nat) : (s.setTerm fd t v).outBit ld e = s.outBit ld e := rfl
@[simp] theorem State.setTerm_free : (s.setTerm fd t v).free = s.free := rfl
@[simp] theorem State.setTerm_choice : (s.setTerm fd t v).choice = s.choice := rfl

end

/-! ### `State.setField` -/

section
variable (s : State) (fd : Nat) (v : FieldSt)

@[simp] theorem State.setField_variant : (s.setField fd v).variant = s.variant := rfl
@[simp] theorem State.setField_rev : (s.setField fd v).rev = s.rev := rfl
@[simp] theorem State.setField_regs : (s.setField fd v).regs = s.regs := rfl
@[simp] theorem State.setField_mem : (s.setField fd v).mem = s.mem := rfl
@[simp] theorem State.setField_ecc : (s.setField fd v).ecc = s.ecc := rfl
@[simp] theorem State.setField_flash : (s.setField fd v).flash = s.flash := rfl
@[simp] theorem State.setField_otp : (s.setField fd v).otp = s.otp := rfl
@[simp] theorem State.setField_part : (s.setField fd v).part = s.part := rfl
@[simp] theorem State.setField_tick : (s.setField fd v).tick = s.tick := rfl
@[simp] theorem State.setField_tnumLatch : (s.setField fd v).tnumLatch = s.tnumLatch := rfl
@[simp] theorem State.setField_extRun : (s.setField fd v).extRun = s.extRun := rfl
@[simp] theorem State.setField_jobs : (s.setField fd v).jobs = s.jobs := rfl
@[simp] theorem State.setField_flog : (s.setField fd v).flog = s.flog := rfl
@[simp] theorem State.setField_sv : (s.setField fd v).sv = s.sv := rfl
@[simp] theorem State.setField_fences : (s.setField fd v).fences = s.fences := rfl
@[simp] theorem State.setField_lanes : (s.setField fd v).lanes = s.lanes := rfl
@[simp] theorem State.setField_pinst : (s.setField fd v).pinst = s.pinst := rfl
@[simp] theorem State.setField_busBits : (s.setField fd v).busBits = s.busBits := rfl
@[simp] theorem State.setField_outImg : (s.setField fd v).outImg = s.outImg := rfl
@[simp] theorem State.setField_outWords : (s.setField fd v).outWords = s.outWords := rfl
@[simp] theorem State.setField_frozen : (s.setField fd v).frozen = s.frozen := rfl
@[simp] theorem State.setField_frozenTick : (s.setField fd v).frozenTick = s.frozenTick := rfl
@[simp] theorem State.setField_pIn : (s.setField fd v).pIn = s.pIn := rfl
@[simp] theorem State.setField_capIn : (s.setField fd v).capIn = s.capIn := rfl
@[simp] theorem State.setField_cells : (s.setField fd v).cells = s.cells := rfl
@[simp] theorem State.setField_terms : (s.setField fd v).terms = s.terms := rfl
@[simp] theorem State.setField_hbus : (s.setField fd v).hbus = s.hbus := rfl
@[simp] theorem State.setField_sieveP : (s.setField fd v).sieveP = s.sieveP := rfl
@[simp] theorem State.setField_sieveH : (s.setField fd v).sieveH = s.sieveH := rfl
@[simp] theorem State.setField_sieveDie : (s.setField fd v).sieveDie = s.sieveDie := rfl
@[simp] theorem State.setField_rings : (s.setField fd v).rings = s.rings := rfl
@[simp] theorem State.setField_ports : (s.setField fd v).ports = s.ports := rfl
@[simp] theorem State.setField_furP : (s.setField fd v).furP = s.furP := rfl
@[simp] theorem State.setField_furH : (s.setField fd v).furH = s.furH := rfl
@[simp] theorem State.setField_marksP : (s.setField fd v).marksP = s.marksP := rfl
@[simp] theorem State.setField_marksH : (s.setField fd v).marksH = s.marksH := rfl
@[simp] theorem State.setField_zoneP : (s.setField fd v).zoneP = s.zoneP := rfl
@[simp] theorem State.setField_htxH : (s.setField fd v).htxH = s.htxH := rfl
@[simp] theorem State.setField_htxMarks : (s.setField fd v).htxMarks = s.htxMarks := rfl
@[simp] theorem State.setField_mbOrder : (s.setField fd v).mbOrder = s.mbOrder := rfl
@[simp] theorem State.setField_remote : (s.setField fd v).remote = s.remote := rfl
@[simp] theorem State.setField_xferC : (s.setField fd v).xferC = s.xferC := rfl
@[simp] theorem State.setField_xferF : (s.setField fd v).xferF = s.xferF := rfl
@[simp] theorem State.setField_xferSeq : (s.setField fd v).xferSeq = s.xferSeq := rfl
@[simp] theorem State.setField_fwStaged : (s.setField fd v).fwStaged = s.fwStaged := rfl
@[simp] theorem State.setField_image : (s.setField fd v).image = s.image := rfl
@[simp] theorem State.setField_soak : (s.setField fd v).soak = s.soak := rfl
@[simp] theorem State.setField_standby : (s.setField fd v).standby = s.standby := rfl
@[simp] theorem State.setField_seals : (s.setField fd v).seals = s.seals := rfl
@[simp] theorem State.setField_spm : (s.setField fd v).spm = s.spm := rfl
@[simp] theorem State.setField_tap : (s.setField fd v).tap = s.tap := rfl
@[simp] theorem State.setField_tapRegs : (s.setField fd v).tapRegs = s.tapRegs := rfl
@[simp] theorem State.setField_prpg : (s.setField fd v).prpg = s.prpg := rfl
@[simp] theorem State.setField_vaultIn : (s.setField fd v).vaultIn = s.vaultIn := rfl
@[simp] theorem State.setField_vaultOpen : (s.setField fd v).vaultOpen = s.vaultOpen := rfl
@[simp] theorem State.setField_host : (s.setField fd v).host = s.host := rfl
@[simp] theorem State.setField_bootRec : (s.setField fd v).bootRec = s.bootRec := rfl
@[simp] theorem State.setField_otpOp : (s.setField fd v).otpOp = s.otpOp := rfl
@[simp] theorem State.setField_sent : (s.setField fd v).sent = s.sent := rfl
@[simp] theorem State.setField_results : (s.setField fd v).results = s.results := rfl
@[simp] theorem State.setField_busErr : (s.setField fd v).busErr = s.busErr := rfl
@[simp] theorem State.setField_freeCtr : (s.setField fd v).freeCtr = s.freeCtr := rfl
@[simp] theorem State.setField_pending : (s.setField fd v).pending = s.pending := rfl
@[simp] theorem State.setField_lane (ld l : Nat) : (s.setField fd v).lane ld l = s.lane ld l := rfl
@[simp] theorem State.setField_inst (iid : Nat) : (s.setField fd v).inst iid = s.inst iid := rfl
@[simp] theorem State.setField_bus (iid b : Nat) : (s.setField fd v).bus iid b = s.bus iid b := rfl
@[simp] theorem State.setField_words (ld fd' : Nat) : (s.setField fd v).words ld fd' = s.words ld fd' := rfl
@[simp] theorem State.setField_frozenWord (ld fd' t : Nat) : (s.setField fd v).frozenWord ld fd' t = s.frozenWord ld fd' t := rfl
@[simp] theorem State.setField_frozenAt (ld fd' : Nat) : (s.setField fd v).frozenAt ld fd' = s.frozenAt ld fd' := rfl
@[simp] theorem State.setField_pRead (ld fd' t : Nat) : (s.setField fd v).pRead ld fd' t = s.pRead ld fd' t := rfl
@[simp] theorem State.setField_capDue (die n : Nat) : (s.setField fd v).capDue die n = s.capDue die n := rfl
@[simp] theorem State.setField_cell (fd' c : Nat) : (s.setField fd v).cell fd' c = s.cell fd' c := rfl
@[simp] theorem State.setField_term (fd' t : Nat) : (s.setField fd v).term fd' t = s.term fd' t := rfl
@[simp] theorem State.setField_hbit (fd' k : Nat) : (s.setField fd v).hbit fd' k = s.hbit fd' k := rfl
@[simp] theorem State.setField_svP (ld iid : Nat) : (s.setField fd v).svP ld iid = s.svP ld iid := rfl
@[simp] theorem State.setField_svH (fd' c : Nat) : (s.setField fd v).svH fd' c = s.svH fd' c := rfl
@[simp] theorem State.setField_svDie (die : Nat) : (s.setField fd v).svDie die = s.svDie die := rfl
@[simp] theorem State.setField_ring (ld : Nat) : (s.setField fd v).ring ld = s.ring ld := rfl
@[simp] theorem State.setField_port (ld p : Nat) : (s.setField fd v).port ld p = s.port ld p := rfl
@[simp] theorem State.setField_job (ld e : Nat) : (s.setField fd v).job ld e = s.job ld e := rfl
@[simp] theorem State.setField_svst (ld : Nat) : (s.setField fd v).svst ld = s.svst ld := rfl
@[simp] theorem State.setField_rem (ld mb : Nat) : (s.setField fd v).rem ld mb = s.rem ld mb := rfl
@[simp] theorem State.setField_stby (ld n : Nat) : (s.setField fd v).stby ld n = s.stby ld n := rfl
@[simp] theorem State.setField_sealSt (die : Nat) : (s.setField fd v).sealSt die = s.sealSt die := rfl
@[simp] theorem State.setField_spmSt (ld : Nat) : (s.setField fd v).spmSt ld = s.spmSt ld := rfl
@[simp] theorem State.setField_otpWord (w : Nat) : (s.setField fd v).otpWord w = s.otpWord w := rfl
@[simp] theorem State.setField_byte (a : Nat) : (s.setField fd v).byte a = s.byte a := rfl
@[simp] theorem State.setField_eccClass (ld off : Nat) : (s.setField fd v).eccClass ld off = s.eccClass ld off := rfl
@[simp] theorem State.setField_flashByte (a : Nat) : (s.setField fd v).flashByte a = s.flashByte a := rfl
@[simp] theorem State.setField_get (G : Fld) (e j : Nat) : (s.setField fd v).get G e j = s.get G e j := rfl
@[simp] theorem State.setField_flag (G : Fld) (e j : Nat) : (s.setField fd v).flag G e j = s.flag G e j := rfl
@[simp] theorem State.setField_outBit (ld e : Nat) : (s.setField fd v).outBit ld e = s.outBit ld e := rfl
@[simp] theorem State.setField_free : (s.setField fd v).free = s.free := rfl
@[simp] theorem State.setField_choice : (s.setField fd v).choice = s.choice := rfl

end

/-! ### `State.setHbit` -/

section
variable (s : State) (fd k : Nat) (v : HBusBit)

@[simp] theorem State.setHbit_variant : (s.setHbit fd k v).variant = s.variant := rfl
@[simp] theorem State.setHbit_rev : (s.setHbit fd k v).rev = s.rev := rfl
@[simp] theorem State.setHbit_regs : (s.setHbit fd k v).regs = s.regs := rfl
@[simp] theorem State.setHbit_mem : (s.setHbit fd k v).mem = s.mem := rfl
@[simp] theorem State.setHbit_ecc : (s.setHbit fd k v).ecc = s.ecc := rfl
@[simp] theorem State.setHbit_flash : (s.setHbit fd k v).flash = s.flash := rfl
@[simp] theorem State.setHbit_otp : (s.setHbit fd k v).otp = s.otp := rfl
@[simp] theorem State.setHbit_part : (s.setHbit fd k v).part = s.part := rfl
@[simp] theorem State.setHbit_tick : (s.setHbit fd k v).tick = s.tick := rfl
@[simp] theorem State.setHbit_tnumLatch : (s.setHbit fd k v).tnumLatch = s.tnumLatch := rfl
@[simp] theorem State.setHbit_extRun : (s.setHbit fd k v).extRun = s.extRun := rfl
@[simp] theorem State.setHbit_jobs : (s.setHbit fd k v).jobs = s.jobs := rfl
@[simp] theorem State.setHbit_flog : (s.setHbit fd k v).flog = s.flog := rfl
@[simp] theorem State.setHbit_sv : (s.setHbit fd k v).sv = s.sv := rfl
@[simp] theorem State.setHbit_fences : (s.setHbit fd k v).fences = s.fences := rfl
@[simp] theorem State.setHbit_lanes : (s.setHbit fd k v).lanes = s.lanes := rfl
@[simp] theorem State.setHbit_pinst : (s.setHbit fd k v).pinst = s.pinst := rfl
@[simp] theorem State.setHbit_busBits : (s.setHbit fd k v).busBits = s.busBits := rfl
@[simp] theorem State.setHbit_outImg : (s.setHbit fd k v).outImg = s.outImg := rfl
@[simp] theorem State.setHbit_outWords : (s.setHbit fd k v).outWords = s.outWords := rfl
@[simp] theorem State.setHbit_frozen : (s.setHbit fd k v).frozen = s.frozen := rfl
@[simp] theorem State.setHbit_frozenTick : (s.setHbit fd k v).frozenTick = s.frozenTick := rfl
@[simp] theorem State.setHbit_pIn : (s.setHbit fd k v).pIn = s.pIn := rfl
@[simp] theorem State.setHbit_capIn : (s.setHbit fd k v).capIn = s.capIn := rfl
@[simp] theorem State.setHbit_cells : (s.setHbit fd k v).cells = s.cells := rfl
@[simp] theorem State.setHbit_terms : (s.setHbit fd k v).terms = s.terms := rfl
@[simp] theorem State.setHbit_fields : (s.setHbit fd k v).fields = s.fields := rfl
@[simp] theorem State.setHbit_sieveP : (s.setHbit fd k v).sieveP = s.sieveP := rfl
@[simp] theorem State.setHbit_sieveH : (s.setHbit fd k v).sieveH = s.sieveH := rfl
@[simp] theorem State.setHbit_sieveDie : (s.setHbit fd k v).sieveDie = s.sieveDie := rfl
@[simp] theorem State.setHbit_rings : (s.setHbit fd k v).rings = s.rings := rfl
@[simp] theorem State.setHbit_ports : (s.setHbit fd k v).ports = s.ports := rfl
@[simp] theorem State.setHbit_furP : (s.setHbit fd k v).furP = s.furP := rfl
@[simp] theorem State.setHbit_furH : (s.setHbit fd k v).furH = s.furH := rfl
@[simp] theorem State.setHbit_marksP : (s.setHbit fd k v).marksP = s.marksP := rfl
@[simp] theorem State.setHbit_marksH : (s.setHbit fd k v).marksH = s.marksH := rfl
@[simp] theorem State.setHbit_zoneP : (s.setHbit fd k v).zoneP = s.zoneP := rfl
@[simp] theorem State.setHbit_htxH : (s.setHbit fd k v).htxH = s.htxH := rfl
@[simp] theorem State.setHbit_htxMarks : (s.setHbit fd k v).htxMarks = s.htxMarks := rfl
@[simp] theorem State.setHbit_mbOrder : (s.setHbit fd k v).mbOrder = s.mbOrder := rfl
@[simp] theorem State.setHbit_remote : (s.setHbit fd k v).remote = s.remote := rfl
@[simp] theorem State.setHbit_xferC : (s.setHbit fd k v).xferC = s.xferC := rfl
@[simp] theorem State.setHbit_xferF : (s.setHbit fd k v).xferF = s.xferF := rfl
@[simp] theorem State.setHbit_xferSeq : (s.setHbit fd k v).xferSeq = s.xferSeq := rfl
@[simp] theorem State.setHbit_fwStaged : (s.setHbit fd k v).fwStaged = s.fwStaged := rfl
@[simp] theorem State.setHbit_image : (s.setHbit fd k v).image = s.image := rfl
@[simp] theorem State.setHbit_soak : (s.setHbit fd k v).soak = s.soak := rfl
@[simp] theorem State.setHbit_standby : (s.setHbit fd k v).standby = s.standby := rfl
@[simp] theorem State.setHbit_seals : (s.setHbit fd k v).seals = s.seals := rfl
@[simp] theorem State.setHbit_spm : (s.setHbit fd k v).spm = s.spm := rfl
@[simp] theorem State.setHbit_tap : (s.setHbit fd k v).tap = s.tap := rfl
@[simp] theorem State.setHbit_tapRegs : (s.setHbit fd k v).tapRegs = s.tapRegs := rfl
@[simp] theorem State.setHbit_prpg : (s.setHbit fd k v).prpg = s.prpg := rfl
@[simp] theorem State.setHbit_vaultIn : (s.setHbit fd k v).vaultIn = s.vaultIn := rfl
@[simp] theorem State.setHbit_vaultOpen : (s.setHbit fd k v).vaultOpen = s.vaultOpen := rfl
@[simp] theorem State.setHbit_host : (s.setHbit fd k v).host = s.host := rfl
@[simp] theorem State.setHbit_bootRec : (s.setHbit fd k v).bootRec = s.bootRec := rfl
@[simp] theorem State.setHbit_otpOp : (s.setHbit fd k v).otpOp = s.otpOp := rfl
@[simp] theorem State.setHbit_sent : (s.setHbit fd k v).sent = s.sent := rfl
@[simp] theorem State.setHbit_results : (s.setHbit fd k v).results = s.results := rfl
@[simp] theorem State.setHbit_busErr : (s.setHbit fd k v).busErr = s.busErr := rfl
@[simp] theorem State.setHbit_freeCtr : (s.setHbit fd k v).freeCtr = s.freeCtr := rfl
@[simp] theorem State.setHbit_pending : (s.setHbit fd k v).pending = s.pending := rfl
@[simp] theorem State.setHbit_lane (ld l : Nat) : (s.setHbit fd k v).lane ld l = s.lane ld l := rfl
@[simp] theorem State.setHbit_inst (iid : Nat) : (s.setHbit fd k v).inst iid = s.inst iid := rfl
@[simp] theorem State.setHbit_bus (iid b : Nat) : (s.setHbit fd k v).bus iid b = s.bus iid b := rfl
@[simp] theorem State.setHbit_words (ld fd' : Nat) : (s.setHbit fd k v).words ld fd' = s.words ld fd' := rfl
@[simp] theorem State.setHbit_frozenWord (ld fd' t : Nat) : (s.setHbit fd k v).frozenWord ld fd' t = s.frozenWord ld fd' t := rfl
@[simp] theorem State.setHbit_frozenAt (ld fd' : Nat) : (s.setHbit fd k v).frozenAt ld fd' = s.frozenAt ld fd' := rfl
@[simp] theorem State.setHbit_pRead (ld fd' t : Nat) : (s.setHbit fd k v).pRead ld fd' t = s.pRead ld fd' t := rfl
@[simp] theorem State.setHbit_capDue (die n : Nat) : (s.setHbit fd k v).capDue die n = s.capDue die n := rfl
@[simp] theorem State.setHbit_cell (fd' c : Nat) : (s.setHbit fd k v).cell fd' c = s.cell fd' c := rfl
@[simp] theorem State.setHbit_term (fd' t : Nat) : (s.setHbit fd k v).term fd' t = s.term fd' t := rfl
@[simp] theorem State.setHbit_field (fd' : Nat) : (s.setHbit fd k v).field fd' = s.field fd' := rfl
@[simp] theorem State.setHbit_svP (ld iid : Nat) : (s.setHbit fd k v).svP ld iid = s.svP ld iid := rfl
@[simp] theorem State.setHbit_svH (fd' c : Nat) : (s.setHbit fd k v).svH fd' c = s.svH fd' c := rfl
@[simp] theorem State.setHbit_svDie (die : Nat) : (s.setHbit fd k v).svDie die = s.svDie die := rfl
@[simp] theorem State.setHbit_ring (ld : Nat) : (s.setHbit fd k v).ring ld = s.ring ld := rfl
@[simp] theorem State.setHbit_port (ld p : Nat) : (s.setHbit fd k v).port ld p = s.port ld p := rfl
@[simp] theorem State.setHbit_job (ld e : Nat) : (s.setHbit fd k v).job ld e = s.job ld e := rfl
@[simp] theorem State.setHbit_svst (ld : Nat) : (s.setHbit fd k v).svst ld = s.svst ld := rfl
@[simp] theorem State.setHbit_rem (ld mb : Nat) : (s.setHbit fd k v).rem ld mb = s.rem ld mb := rfl
@[simp] theorem State.setHbit_stby (ld n : Nat) : (s.setHbit fd k v).stby ld n = s.stby ld n := rfl
@[simp] theorem State.setHbit_sealSt (die : Nat) : (s.setHbit fd k v).sealSt die = s.sealSt die := rfl
@[simp] theorem State.setHbit_spmSt (ld : Nat) : (s.setHbit fd k v).spmSt ld = s.spmSt ld := rfl
@[simp] theorem State.setHbit_otpWord (w : Nat) : (s.setHbit fd k v).otpWord w = s.otpWord w := rfl
@[simp] theorem State.setHbit_byte (a : Nat) : (s.setHbit fd k v).byte a = s.byte a := rfl
@[simp] theorem State.setHbit_eccClass (ld off : Nat) : (s.setHbit fd k v).eccClass ld off = s.eccClass ld off := rfl
@[simp] theorem State.setHbit_flashByte (a : Nat) : (s.setHbit fd k v).flashByte a = s.flashByte a := rfl
@[simp] theorem State.setHbit_get (G : Fld) (e j : Nat) : (s.setHbit fd k v).get G e j = s.get G e j := rfl
@[simp] theorem State.setHbit_flag (G : Fld) (e j : Nat) : (s.setHbit fd k v).flag G e j = s.flag G e j := rfl
@[simp] theorem State.setHbit_outBit (ld e : Nat) : (s.setHbit fd k v).outBit ld e = s.outBit ld e := rfl
@[simp] theorem State.setHbit_free : (s.setHbit fd k v).free = s.free := rfl
@[simp] theorem State.setHbit_choice : (s.setHbit fd k v).choice = s.choice := rfl

end

/-! ### `State.setSvP` -/

section
variable (s : State) (ld iid : Nat) (v : SieveSt)

@[simp] theorem State.setSvP_variant : (s.setSvP ld iid v).variant = s.variant := rfl
@[simp] theorem State.setSvP_rev : (s.setSvP ld iid v).rev = s.rev := rfl
@[simp] theorem State.setSvP_regs : (s.setSvP ld iid v).regs = s.regs := rfl
@[simp] theorem State.setSvP_mem : (s.setSvP ld iid v).mem = s.mem := rfl
@[simp] theorem State.setSvP_ecc : (s.setSvP ld iid v).ecc = s.ecc := rfl
@[simp] theorem State.setSvP_flash : (s.setSvP ld iid v).flash = s.flash := rfl
@[simp] theorem State.setSvP_otp : (s.setSvP ld iid v).otp = s.otp := rfl
@[simp] theorem State.setSvP_part : (s.setSvP ld iid v).part = s.part := rfl
@[simp] theorem State.setSvP_tick : (s.setSvP ld iid v).tick = s.tick := rfl
@[simp] theorem State.setSvP_tnumLatch : (s.setSvP ld iid v).tnumLatch = s.tnumLatch := rfl
@[simp] theorem State.setSvP_extRun : (s.setSvP ld iid v).extRun = s.extRun := rfl
@[simp] theorem State.setSvP_jobs : (s.setSvP ld iid v).jobs = s.jobs := rfl
@[simp] theorem State.setSvP_flog : (s.setSvP ld iid v).flog = s.flog := rfl
@[simp] theorem State.setSvP_sv : (s.setSvP ld iid v).sv = s.sv := rfl
@[simp] theorem State.setSvP_fences : (s.setSvP ld iid v).fences = s.fences := rfl
@[simp] theorem State.setSvP_lanes : (s.setSvP ld iid v).lanes = s.lanes := rfl
@[simp] theorem State.setSvP_pinst : (s.setSvP ld iid v).pinst = s.pinst := rfl
@[simp] theorem State.setSvP_busBits : (s.setSvP ld iid v).busBits = s.busBits := rfl
@[simp] theorem State.setSvP_outImg : (s.setSvP ld iid v).outImg = s.outImg := rfl
@[simp] theorem State.setSvP_outWords : (s.setSvP ld iid v).outWords = s.outWords := rfl
@[simp] theorem State.setSvP_frozen : (s.setSvP ld iid v).frozen = s.frozen := rfl
@[simp] theorem State.setSvP_frozenTick : (s.setSvP ld iid v).frozenTick = s.frozenTick := rfl
@[simp] theorem State.setSvP_pIn : (s.setSvP ld iid v).pIn = s.pIn := rfl
@[simp] theorem State.setSvP_capIn : (s.setSvP ld iid v).capIn = s.capIn := rfl
@[simp] theorem State.setSvP_cells : (s.setSvP ld iid v).cells = s.cells := rfl
@[simp] theorem State.setSvP_terms : (s.setSvP ld iid v).terms = s.terms := rfl
@[simp] theorem State.setSvP_fields : (s.setSvP ld iid v).fields = s.fields := rfl
@[simp] theorem State.setSvP_hbus : (s.setSvP ld iid v).hbus = s.hbus := rfl
@[simp] theorem State.setSvP_sieveH : (s.setSvP ld iid v).sieveH = s.sieveH := rfl
@[simp] theorem State.setSvP_sieveDie : (s.setSvP ld iid v).sieveDie = s.sieveDie := rfl
@[simp] theorem State.setSvP_rings : (s.setSvP ld iid v).rings = s.rings := rfl
@[simp] theorem State.setSvP_ports : (s.setSvP ld iid v).ports = s.ports := rfl
@[simp] theorem State.setSvP_furP : (s.setSvP ld iid v).furP = s.furP := rfl
@[simp] theorem State.setSvP_furH : (s.setSvP ld iid v).furH = s.furH := rfl
@[simp] theorem State.setSvP_marksP : (s.setSvP ld iid v).marksP = s.marksP := rfl
@[simp] theorem State.setSvP_marksH : (s.setSvP ld iid v).marksH = s.marksH := rfl
@[simp] theorem State.setSvP_zoneP : (s.setSvP ld iid v).zoneP = s.zoneP := rfl
@[simp] theorem State.setSvP_htxH : (s.setSvP ld iid v).htxH = s.htxH := rfl
@[simp] theorem State.setSvP_htxMarks : (s.setSvP ld iid v).htxMarks = s.htxMarks := rfl
@[simp] theorem State.setSvP_mbOrder : (s.setSvP ld iid v).mbOrder = s.mbOrder := rfl
@[simp] theorem State.setSvP_remote : (s.setSvP ld iid v).remote = s.remote := rfl
@[simp] theorem State.setSvP_xferC : (s.setSvP ld iid v).xferC = s.xferC := rfl
@[simp] theorem State.setSvP_xferF : (s.setSvP ld iid v).xferF = s.xferF := rfl
@[simp] theorem State.setSvP_xferSeq : (s.setSvP ld iid v).xferSeq = s.xferSeq := rfl
@[simp] theorem State.setSvP_fwStaged : (s.setSvP ld iid v).fwStaged = s.fwStaged := rfl
@[simp] theorem State.setSvP_image : (s.setSvP ld iid v).image = s.image := rfl
@[simp] theorem State.setSvP_soak : (s.setSvP ld iid v).soak = s.soak := rfl
@[simp] theorem State.setSvP_standby : (s.setSvP ld iid v).standby = s.standby := rfl
@[simp] theorem State.setSvP_seals : (s.setSvP ld iid v).seals = s.seals := rfl
@[simp] theorem State.setSvP_spm : (s.setSvP ld iid v).spm = s.spm := rfl
@[simp] theorem State.setSvP_tap : (s.setSvP ld iid v).tap = s.tap := rfl
@[simp] theorem State.setSvP_tapRegs : (s.setSvP ld iid v).tapRegs = s.tapRegs := rfl
@[simp] theorem State.setSvP_prpg : (s.setSvP ld iid v).prpg = s.prpg := rfl
@[simp] theorem State.setSvP_vaultIn : (s.setSvP ld iid v).vaultIn = s.vaultIn := rfl
@[simp] theorem State.setSvP_vaultOpen : (s.setSvP ld iid v).vaultOpen = s.vaultOpen := rfl
@[simp] theorem State.setSvP_host : (s.setSvP ld iid v).host = s.host := rfl
@[simp] theorem State.setSvP_bootRec : (s.setSvP ld iid v).bootRec = s.bootRec := rfl
@[simp] theorem State.setSvP_otpOp : (s.setSvP ld iid v).otpOp = s.otpOp := rfl
@[simp] theorem State.setSvP_sent : (s.setSvP ld iid v).sent = s.sent := rfl
@[simp] theorem State.setSvP_results : (s.setSvP ld iid v).results = s.results := rfl
@[simp] theorem State.setSvP_busErr : (s.setSvP ld iid v).busErr = s.busErr := rfl
@[simp] theorem State.setSvP_freeCtr : (s.setSvP ld iid v).freeCtr = s.freeCtr := rfl
@[simp] theorem State.setSvP_pending : (s.setSvP ld iid v).pending = s.pending := rfl
@[simp] theorem State.setSvP_lane (ld' l : Nat) : (s.setSvP ld iid v).lane ld' l = s.lane ld' l := rfl
@[simp] theorem State.setSvP_inst (iid' : Nat) : (s.setSvP ld iid v).inst iid' = s.inst iid' := rfl
@[simp] theorem State.setSvP_bus (iid' b : Nat) : (s.setSvP ld iid v).bus iid' b = s.bus iid' b := rfl
@[simp] theorem State.setSvP_words (ld' fd : Nat) : (s.setSvP ld iid v).words ld' fd = s.words ld' fd := rfl
@[simp] theorem State.setSvP_frozenWord (ld' fd t : Nat) : (s.setSvP ld iid v).frozenWord ld' fd t = s.frozenWord ld' fd t := rfl
@[simp] theorem State.setSvP_frozenAt (ld' fd : Nat) : (s.setSvP ld iid v).frozenAt ld' fd = s.frozenAt ld' fd := rfl
@[simp] theorem State.setSvP_pRead (ld' fd t : Nat) : (s.setSvP ld iid v).pRead ld' fd t = s.pRead ld' fd t := rfl
@[simp] theorem State.setSvP_capDue (die n : Nat) : (s.setSvP ld iid v).capDue die n = s.capDue die n := rfl
@[simp] theorem State.setSvP_cell (fd c : Nat) : (s.setSvP ld iid v).cell fd c = s.cell fd c := rfl
@[simp] theorem State.setSvP_term (fd t : Nat) : (s.setSvP ld iid v).term fd t = s.term fd t := rfl
@[simp] theorem State.setSvP_field (fd : Nat) : (s.setSvP ld iid v).field fd = s.field fd := rfl
@[simp] theorem State.setSvP_hbit (fd k : Nat) : (s.setSvP ld iid v).hbit fd k = s.hbit fd k := rfl
@[simp] theorem State.setSvP_svH (fd c : Nat) : (s.setSvP ld iid v).svH fd c = s.svH fd c := rfl
@[simp] theorem State.setSvP_svDie (die : Nat) : (s.setSvP ld iid v).svDie die = s.svDie die := rfl
@[simp] theorem State.setSvP_ring (ld' : Nat) : (s.setSvP ld iid v).ring ld' = s.ring ld' := rfl
@[simp] theorem State.setSvP_port (ld' p : Nat) : (s.setSvP ld iid v).port ld' p = s.port ld' p := rfl
@[simp] theorem State.setSvP_job (ld' e : Nat) : (s.setSvP ld iid v).job ld' e = s.job ld' e := rfl
@[simp] theorem State.setSvP_svst (ld' : Nat) : (s.setSvP ld iid v).svst ld' = s.svst ld' := rfl
@[simp] theorem State.setSvP_rem (ld' mb : Nat) : (s.setSvP ld iid v).rem ld' mb = s.rem ld' mb := rfl
@[simp] theorem State.setSvP_stby (ld' n : Nat) : (s.setSvP ld iid v).stby ld' n = s.stby ld' n := rfl
@[simp] theorem State.setSvP_sealSt (die : Nat) : (s.setSvP ld iid v).sealSt die = s.sealSt die := rfl
@[simp] theorem State.setSvP_spmSt (ld' : Nat) : (s.setSvP ld iid v).spmSt ld' = s.spmSt ld' := rfl
@[simp] theorem State.setSvP_otpWord (w : Nat) : (s.setSvP ld iid v).otpWord w = s.otpWord w := rfl
@[simp] theorem State.setSvP_byte (a : Nat) : (s.setSvP ld iid v).byte a = s.byte a := rfl
@[simp] theorem State.setSvP_eccClass (ld' off : Nat) : (s.setSvP ld iid v).eccClass ld' off = s.eccClass ld' off := rfl
@[simp] theorem State.setSvP_flashByte (a : Nat) : (s.setSvP ld iid v).flashByte a = s.flashByte a := rfl
@[simp] theorem State.setSvP_get (G : Fld) (e j : Nat) : (s.setSvP ld iid v).get G e j = s.get G e j := rfl
@[simp] theorem State.setSvP_flag (G : Fld) (e j : Nat) : (s.setSvP ld iid v).flag G e j = s.flag G e j := rfl
@[simp] theorem State.setSvP_outBit (ld' e : Nat) : (s.setSvP ld iid v).outBit ld' e = s.outBit ld' e := rfl
@[simp] theorem State.setSvP_free : (s.setSvP ld iid v).free = s.free := rfl
@[simp] theorem State.setSvP_choice : (s.setSvP ld iid v).choice = s.choice := rfl

end

/-! ### `State.setSvH` -/

section
variable (s : State) (fd c : Nat) (v : SieveSt)

@[simp] theorem State.setSvH_variant : (s.setSvH fd c v).variant = s.variant := rfl
@[simp] theorem State.setSvH_rev : (s.setSvH fd c v).rev = s.rev := rfl
@[simp] theorem State.setSvH_regs : (s.setSvH fd c v).regs = s.regs := rfl
@[simp] theorem State.setSvH_mem : (s.setSvH fd c v).mem = s.mem := rfl
@[simp] theorem State.setSvH_ecc : (s.setSvH fd c v).ecc = s.ecc := rfl
@[simp] theorem State.setSvH_flash : (s.setSvH fd c v).flash = s.flash := rfl
@[simp] theorem State.setSvH_otp : (s.setSvH fd c v).otp = s.otp := rfl
@[simp] theorem State.setSvH_part : (s.setSvH fd c v).part = s.part := rfl
@[simp] theorem State.setSvH_tick : (s.setSvH fd c v).tick = s.tick := rfl
@[simp] theorem State.setSvH_tnumLatch : (s.setSvH fd c v).tnumLatch = s.tnumLatch := rfl
@[simp] theorem State.setSvH_extRun : (s.setSvH fd c v).extRun = s.extRun := rfl
@[simp] theorem State.setSvH_jobs : (s.setSvH fd c v).jobs = s.jobs := rfl
@[simp] theorem State.setSvH_flog : (s.setSvH fd c v).flog = s.flog := rfl
@[simp] theorem State.setSvH_sv : (s.setSvH fd c v).sv = s.sv := rfl
@[simp] theorem State.setSvH_fences : (s.setSvH fd c v).fences = s.fences := rfl
@[simp] theorem State.setSvH_lanes : (s.setSvH fd c v).lanes = s.lanes := rfl
@[simp] theorem State.setSvH_pinst : (s.setSvH fd c v).pinst = s.pinst := rfl
@[simp] theorem State.setSvH_busBits : (s.setSvH fd c v).busBits = s.busBits := rfl
@[simp] theorem State.setSvH_outImg : (s.setSvH fd c v).outImg = s.outImg := rfl
@[simp] theorem State.setSvH_outWords : (s.setSvH fd c v).outWords = s.outWords := rfl
@[simp] theorem State.setSvH_frozen : (s.setSvH fd c v).frozen = s.frozen := rfl
@[simp] theorem State.setSvH_frozenTick : (s.setSvH fd c v).frozenTick = s.frozenTick := rfl
@[simp] theorem State.setSvH_pIn : (s.setSvH fd c v).pIn = s.pIn := rfl
@[simp] theorem State.setSvH_capIn : (s.setSvH fd c v).capIn = s.capIn := rfl
@[simp] theorem State.setSvH_cells : (s.setSvH fd c v).cells = s.cells := rfl
@[simp] theorem State.setSvH_terms : (s.setSvH fd c v).terms = s.terms := rfl
@[simp] theorem State.setSvH_fields : (s.setSvH fd c v).fields = s.fields := rfl
@[simp] theorem State.setSvH_hbus : (s.setSvH fd c v).hbus = s.hbus := rfl
@[simp] theorem State.setSvH_sieveP : (s.setSvH fd c v).sieveP = s.sieveP := rfl
@[simp] theorem State.setSvH_sieveDie : (s.setSvH fd c v).sieveDie = s.sieveDie := rfl
@[simp] theorem State.setSvH_rings : (s.setSvH fd c v).rings = s.rings := rfl
@[simp] theorem State.setSvH_ports : (s.setSvH fd c v).ports = s.ports := rfl
@[simp] theorem State.setSvH_furP : (s.setSvH fd c v).furP = s.furP := rfl
@[simp] theorem State.setSvH_furH : (s.setSvH fd c v).furH = s.furH := rfl
@[simp] theorem State.setSvH_marksP : (s.setSvH fd c v).marksP = s.marksP := rfl
@[simp] theorem State.setSvH_marksH : (s.setSvH fd c v).marksH = s.marksH := rfl
@[simp] theorem State.setSvH_zoneP : (s.setSvH fd c v).zoneP = s.zoneP := rfl
@[simp] theorem State.setSvH_htxH : (s.setSvH fd c v).htxH = s.htxH := rfl
@[simp] theorem State.setSvH_htxMarks : (s.setSvH fd c v).htxMarks = s.htxMarks := rfl
@[simp] theorem State.setSvH_mbOrder : (s.setSvH fd c v).mbOrder = s.mbOrder := rfl
@[simp] theorem State.setSvH_remote : (s.setSvH fd c v).remote = s.remote := rfl
@[simp] theorem State.setSvH_xferC : (s.setSvH fd c v).xferC = s.xferC := rfl
@[simp] theorem State.setSvH_xferF : (s.setSvH fd c v).xferF = s.xferF := rfl
@[simp] theorem State.setSvH_xferSeq : (s.setSvH fd c v).xferSeq = s.xferSeq := rfl
@[simp] theorem State.setSvH_fwStaged : (s.setSvH fd c v).fwStaged = s.fwStaged := rfl
@[simp] theorem State.setSvH_image : (s.setSvH fd c v).image = s.image := rfl
@[simp] theorem State.setSvH_soak : (s.setSvH fd c v).soak = s.soak := rfl
@[simp] theorem State.setSvH_standby : (s.setSvH fd c v).standby = s.standby := rfl
@[simp] theorem State.setSvH_seals : (s.setSvH fd c v).seals = s.seals := rfl
@[simp] theorem State.setSvH_spm : (s.setSvH fd c v).spm = s.spm := rfl
@[simp] theorem State.setSvH_tap : (s.setSvH fd c v).tap = s.tap := rfl
@[simp] theorem State.setSvH_tapRegs : (s.setSvH fd c v).tapRegs = s.tapRegs := rfl
@[simp] theorem State.setSvH_prpg : (s.setSvH fd c v).prpg = s.prpg := rfl
@[simp] theorem State.setSvH_vaultIn : (s.setSvH fd c v).vaultIn = s.vaultIn := rfl
@[simp] theorem State.setSvH_vaultOpen : (s.setSvH fd c v).vaultOpen = s.vaultOpen := rfl
@[simp] theorem State.setSvH_host : (s.setSvH fd c v).host = s.host := rfl
@[simp] theorem State.setSvH_bootRec : (s.setSvH fd c v).bootRec = s.bootRec := rfl
@[simp] theorem State.setSvH_otpOp : (s.setSvH fd c v).otpOp = s.otpOp := rfl
@[simp] theorem State.setSvH_sent : (s.setSvH fd c v).sent = s.sent := rfl
@[simp] theorem State.setSvH_results : (s.setSvH fd c v).results = s.results := rfl
@[simp] theorem State.setSvH_busErr : (s.setSvH fd c v).busErr = s.busErr := rfl
@[simp] theorem State.setSvH_freeCtr : (s.setSvH fd c v).freeCtr = s.freeCtr := rfl
@[simp] theorem State.setSvH_pending : (s.setSvH fd c v).pending = s.pending := rfl
@[simp] theorem State.setSvH_lane (ld l : Nat) : (s.setSvH fd c v).lane ld l = s.lane ld l := rfl
@[simp] theorem State.setSvH_inst (iid : Nat) : (s.setSvH fd c v).inst iid = s.inst iid := rfl
@[simp] theorem State.setSvH_bus (iid b : Nat) : (s.setSvH fd c v).bus iid b = s.bus iid b := rfl
@[simp] theorem State.setSvH_words (ld fd' : Nat) : (s.setSvH fd c v).words ld fd' = s.words ld fd' := rfl
@[simp] theorem State.setSvH_frozenWord (ld fd' t : Nat) : (s.setSvH fd c v).frozenWord ld fd' t = s.frozenWord ld fd' t := rfl
@[simp] theorem State.setSvH_frozenAt (ld fd' : Nat) : (s.setSvH fd c v).frozenAt ld fd' = s.frozenAt ld fd' := rfl
@[simp] theorem State.setSvH_pRead (ld fd' t : Nat) : (s.setSvH fd c v).pRead ld fd' t = s.pRead ld fd' t := rfl
@[simp] theorem State.setSvH_capDue (die n : Nat) : (s.setSvH fd c v).capDue die n = s.capDue die n := rfl
@[simp] theorem State.setSvH_cell (fd' c' : Nat) : (s.setSvH fd c v).cell fd' c' = s.cell fd' c' := rfl
@[simp] theorem State.setSvH_term (fd' t : Nat) : (s.setSvH fd c v).term fd' t = s.term fd' t := rfl
@[simp] theorem State.setSvH_field (fd' : Nat) : (s.setSvH fd c v).field fd' = s.field fd' := rfl
@[simp] theorem State.setSvH_hbit (fd' k : Nat) : (s.setSvH fd c v).hbit fd' k = s.hbit fd' k := rfl
@[simp] theorem State.setSvH_svP (ld iid : Nat) : (s.setSvH fd c v).svP ld iid = s.svP ld iid := rfl
@[simp] theorem State.setSvH_svDie (die : Nat) : (s.setSvH fd c v).svDie die = s.svDie die := rfl
@[simp] theorem State.setSvH_ring (ld : Nat) : (s.setSvH fd c v).ring ld = s.ring ld := rfl
@[simp] theorem State.setSvH_port (ld p : Nat) : (s.setSvH fd c v).port ld p = s.port ld p := rfl
@[simp] theorem State.setSvH_job (ld e : Nat) : (s.setSvH fd c v).job ld e = s.job ld e := rfl
@[simp] theorem State.setSvH_svst (ld : Nat) : (s.setSvH fd c v).svst ld = s.svst ld := rfl
@[simp] theorem State.setSvH_rem (ld mb : Nat) : (s.setSvH fd c v).rem ld mb = s.rem ld mb := rfl
@[simp] theorem State.setSvH_stby (ld n : Nat) : (s.setSvH fd c v).stby ld n = s.stby ld n := rfl
@[simp] theorem State.setSvH_sealSt (die : Nat) : (s.setSvH fd c v).sealSt die = s.sealSt die := rfl
@[simp] theorem State.setSvH_spmSt (ld : Nat) : (s.setSvH fd c v).spmSt ld = s.spmSt ld := rfl
@[simp] theorem State.setSvH_otpWord (w : Nat) : (s.setSvH fd c v).otpWord w = s.otpWord w := rfl
@[simp] theorem State.setSvH_byte (a : Nat) : (s.setSvH fd c v).byte a = s.byte a := rfl
@[simp] theorem State.setSvH_eccClass (ld off : Nat) : (s.setSvH fd c v).eccClass ld off = s.eccClass ld off := rfl
@[simp] theorem State.setSvH_flashByte (a : Nat) : (s.setSvH fd c v).flashByte a = s.flashByte a := rfl
@[simp] theorem State.setSvH_get (G : Fld) (e j : Nat) : (s.setSvH fd c v).get G e j = s.get G e j := rfl
@[simp] theorem State.setSvH_flag (G : Fld) (e j : Nat) : (s.setSvH fd c v).flag G e j = s.flag G e j := rfl
@[simp] theorem State.setSvH_outBit (ld e : Nat) : (s.setSvH fd c v).outBit ld e = s.outBit ld e := rfl
@[simp] theorem State.setSvH_free : (s.setSvH fd c v).free = s.free := rfl
@[simp] theorem State.setSvH_choice : (s.setSvH fd c v).choice = s.choice := rfl

end

/-! ### `State.setSvDie` -/

section
variable (s : State) (die : Nat) (v : SieveDie)

@[simp] theorem State.setSvDie_variant : (s.setSvDie die v).variant = s.variant := rfl
@[simp] theorem State.setSvDie_rev : (s.setSvDie die v).rev = s.rev := rfl
@[simp] theorem State.setSvDie_regs : (s.setSvDie die v).regs = s.regs := rfl
@[simp] theorem State.setSvDie_mem : (s.setSvDie die v).mem = s.mem := rfl
@[simp] theorem State.setSvDie_ecc : (s.setSvDie die v).ecc = s.ecc := rfl
@[simp] theorem State.setSvDie_flash : (s.setSvDie die v).flash = s.flash := rfl
@[simp] theorem State.setSvDie_otp : (s.setSvDie die v).otp = s.otp := rfl
@[simp] theorem State.setSvDie_part : (s.setSvDie die v).part = s.part := rfl
@[simp] theorem State.setSvDie_tick : (s.setSvDie die v).tick = s.tick := rfl
@[simp] theorem State.setSvDie_tnumLatch : (s.setSvDie die v).tnumLatch = s.tnumLatch := rfl
@[simp] theorem State.setSvDie_extRun : (s.setSvDie die v).extRun = s.extRun := rfl
@[simp] theorem State.setSvDie_jobs : (s.setSvDie die v).jobs = s.jobs := rfl
@[simp] theorem State.setSvDie_flog : (s.setSvDie die v).flog = s.flog := rfl
@[simp] theorem State.setSvDie_sv : (s.setSvDie die v).sv = s.sv := rfl
@[simp] theorem State.setSvDie_fences : (s.setSvDie die v).fences = s.fences := rfl
@[simp] theorem State.setSvDie_lanes : (s.setSvDie die v).lanes = s.lanes := rfl
@[simp] theorem State.setSvDie_pinst : (s.setSvDie die v).pinst = s.pinst := rfl
@[simp] theorem State.setSvDie_busBits : (s.setSvDie die v).busBits = s.busBits := rfl
@[simp] theorem State.setSvDie_outImg : (s.setSvDie die v).outImg = s.outImg := rfl
@[simp] theorem State.setSvDie_outWords : (s.setSvDie die v).outWords = s.outWords := rfl
@[simp] theorem State.setSvDie_frozen : (s.setSvDie die v).frozen = s.frozen := rfl
@[simp] theorem State.setSvDie_frozenTick : (s.setSvDie die v).frozenTick = s.frozenTick := rfl
@[simp] theorem State.setSvDie_pIn : (s.setSvDie die v).pIn = s.pIn := rfl
@[simp] theorem State.setSvDie_capIn : (s.setSvDie die v).capIn = s.capIn := rfl
@[simp] theorem State.setSvDie_cells : (s.setSvDie die v).cells = s.cells := rfl
@[simp] theorem State.setSvDie_terms : (s.setSvDie die v).terms = s.terms := rfl
@[simp] theorem State.setSvDie_fields : (s.setSvDie die v).fields = s.fields := rfl
@[simp] theorem State.setSvDie_hbus : (s.setSvDie die v).hbus = s.hbus := rfl
@[simp] theorem State.setSvDie_sieveP : (s.setSvDie die v).sieveP = s.sieveP := rfl
@[simp] theorem State.setSvDie_sieveH : (s.setSvDie die v).sieveH = s.sieveH := rfl
@[simp] theorem State.setSvDie_rings : (s.setSvDie die v).rings = s.rings := rfl
@[simp] theorem State.setSvDie_ports : (s.setSvDie die v).ports = s.ports := rfl
@[simp] theorem State.setSvDie_furP : (s.setSvDie die v).furP = s.furP := rfl
@[simp] theorem State.setSvDie_furH : (s.setSvDie die v).furH = s.furH := rfl
@[simp] theorem State.setSvDie_marksP : (s.setSvDie die v).marksP = s.marksP := rfl
@[simp] theorem State.setSvDie_marksH : (s.setSvDie die v).marksH = s.marksH := rfl
@[simp] theorem State.setSvDie_zoneP : (s.setSvDie die v).zoneP = s.zoneP := rfl
@[simp] theorem State.setSvDie_htxH : (s.setSvDie die v).htxH = s.htxH := rfl
@[simp] theorem State.setSvDie_htxMarks : (s.setSvDie die v).htxMarks = s.htxMarks := rfl
@[simp] theorem State.setSvDie_mbOrder : (s.setSvDie die v).mbOrder = s.mbOrder := rfl
@[simp] theorem State.setSvDie_remote : (s.setSvDie die v).remote = s.remote := rfl
@[simp] theorem State.setSvDie_xferC : (s.setSvDie die v).xferC = s.xferC := rfl
@[simp] theorem State.setSvDie_xferF : (s.setSvDie die v).xferF = s.xferF := rfl
@[simp] theorem State.setSvDie_xferSeq : (s.setSvDie die v).xferSeq = s.xferSeq := rfl
@[simp] theorem State.setSvDie_fwStaged : (s.setSvDie die v).fwStaged = s.fwStaged := rfl
@[simp] theorem State.setSvDie_image : (s.setSvDie die v).image = s.image := rfl
@[simp] theorem State.setSvDie_soak : (s.setSvDie die v).soak = s.soak := rfl
@[simp] theorem State.setSvDie_standby : (s.setSvDie die v).standby = s.standby := rfl
@[simp] theorem State.setSvDie_seals : (s.setSvDie die v).seals = s.seals := rfl
@[simp] theorem State.setSvDie_spm : (s.setSvDie die v).spm = s.spm := rfl
@[simp] theorem State.setSvDie_tap : (s.setSvDie die v).tap = s.tap := rfl
@[simp] theorem State.setSvDie_tapRegs : (s.setSvDie die v).tapRegs = s.tapRegs := rfl
@[simp] theorem State.setSvDie_prpg : (s.setSvDie die v).prpg = s.prpg := rfl
@[simp] theorem State.setSvDie_vaultIn : (s.setSvDie die v).vaultIn = s.vaultIn := rfl
@[simp] theorem State.setSvDie_vaultOpen : (s.setSvDie die v).vaultOpen = s.vaultOpen := rfl
@[simp] theorem State.setSvDie_host : (s.setSvDie die v).host = s.host := rfl
@[simp] theorem State.setSvDie_bootRec : (s.setSvDie die v).bootRec = s.bootRec := rfl
@[simp] theorem State.setSvDie_otpOp : (s.setSvDie die v).otpOp = s.otpOp := rfl
@[simp] theorem State.setSvDie_sent : (s.setSvDie die v).sent = s.sent := rfl
@[simp] theorem State.setSvDie_results : (s.setSvDie die v).results = s.results := rfl
@[simp] theorem State.setSvDie_busErr : (s.setSvDie die v).busErr = s.busErr := rfl
@[simp] theorem State.setSvDie_freeCtr : (s.setSvDie die v).freeCtr = s.freeCtr := rfl
@[simp] theorem State.setSvDie_pending : (s.setSvDie die v).pending = s.pending := rfl
@[simp] theorem State.setSvDie_lane (ld l : Nat) : (s.setSvDie die v).lane ld l = s.lane ld l := rfl
@[simp] theorem State.setSvDie_inst (iid : Nat) : (s.setSvDie die v).inst iid = s.inst iid := rfl
@[simp] theorem State.setSvDie_bus (iid b : Nat) : (s.setSvDie die v).bus iid b = s.bus iid b := rfl
@[simp] theorem State.setSvDie_words (ld fd : Nat) : (s.setSvDie die v).words ld fd = s.words ld fd := rfl
@[simp] theorem State.setSvDie_frozenWord (ld fd t : Nat) : (s.setSvDie die v).frozenWord ld fd t = s.frozenWord ld fd t := rfl
@[simp] theorem State.setSvDie_frozenAt (ld fd : Nat) : (s.setSvDie die v).frozenAt ld fd = s.frozenAt ld fd := rfl
@[simp] theorem State.setSvDie_pRead (ld fd t : Nat) : (s.setSvDie die v).pRead ld fd t = s.pRead ld fd t := rfl
@[simp] theorem State.setSvDie_capDue (die' n : Nat) : (s.setSvDie die v).capDue die' n = s.capDue die' n := rfl
@[simp] theorem State.setSvDie_cell (fd c : Nat) : (s.setSvDie die v).cell fd c = s.cell fd c := rfl
@[simp] theorem State.setSvDie_term (fd t : Nat) : (s.setSvDie die v).term fd t = s.term fd t := rfl
@[simp] theorem State.setSvDie_field (fd : Nat) : (s.setSvDie die v).field fd = s.field fd := rfl
@[simp] theorem State.setSvDie_hbit (fd k : Nat) : (s.setSvDie die v).hbit fd k = s.hbit fd k := rfl
@[simp] theorem State.setSvDie_svP (ld iid : Nat) : (s.setSvDie die v).svP ld iid = s.svP ld iid := rfl
@[simp] theorem State.setSvDie_svH (fd c : Nat) : (s.setSvDie die v).svH fd c = s.svH fd c := rfl
@[simp] theorem State.setSvDie_ring (ld : Nat) : (s.setSvDie die v).ring ld = s.ring ld := rfl
@[simp] theorem State.setSvDie_port (ld p : Nat) : (s.setSvDie die v).port ld p = s.port ld p := rfl
@[simp] theorem State.setSvDie_job (ld e : Nat) : (s.setSvDie die v).job ld e = s.job ld e := rfl
@[simp] theorem State.setSvDie_svst (ld : Nat) : (s.setSvDie die v).svst ld = s.svst ld := rfl
@[simp] theorem State.setSvDie_rem (ld mb : Nat) : (s.setSvDie die v).rem ld mb = s.rem ld mb := rfl
@[simp] theorem State.setSvDie_stby (ld n : Nat) : (s.setSvDie die v).stby ld n = s.stby ld n := rfl
@[simp] theorem State.setSvDie_sealSt (die' : Nat) : (s.setSvDie die v).sealSt die' = s.sealSt die' := rfl
@[simp] theorem State.setSvDie_spmSt (ld : Nat) : (s.setSvDie die v).spmSt ld = s.spmSt ld := rfl
@[simp] theorem State.setSvDie_otpWord (w : Nat) : (s.setSvDie die v).otpWord w = s.otpWord w := rfl
@[simp] theorem State.setSvDie_byte (a : Nat) : (s.setSvDie die v).byte a = s.byte a := rfl
@[simp] theorem State.setSvDie_eccClass (ld off : Nat) : (s.setSvDie die v).eccClass ld off = s.eccClass ld off := rfl
@[simp] theorem State.setSvDie_flashByte (a : Nat) : (s.setSvDie die v).flashByte a = s.flashByte a := rfl
@[simp] theorem State.setSvDie_get (G : Fld) (e j : Nat) : (s.setSvDie die v).get G e j = s.get G e j := rfl
@[simp] theorem State.setSvDie_flag (G : Fld) (e j : Nat) : (s.setSvDie die v).flag G e j = s.flag G e j := rfl
@[simp] theorem State.setSvDie_outBit (ld e : Nat) : (s.setSvDie die v).outBit ld e = s.outBit ld e := rfl
@[simp] theorem State.setSvDie_free : (s.setSvDie die v).free = s.free := rfl
@[simp] theorem State.setSvDie_choice : (s.setSvDie die v).choice = s.choice := rfl

end

/-! ### `State.setRing` -/

section
variable (s : State) (ld : Nat) (v : RingSt)

@[simp] theorem State.setRing_variant : (s.setRing ld v).variant = s.variant := rfl
@[simp] theorem State.setRing_rev : (s.setRing ld v).rev = s.rev := rfl
@[simp] theorem State.setRing_regs : (s.setRing ld v).regs = s.regs := rfl
@[simp] theorem State.setRing_mem : (s.setRing ld v).mem = s.mem := rfl
@[simp] theorem State.setRing_ecc : (s.setRing ld v).ecc = s.ecc := rfl
@[simp] theorem State.setRing_flash : (s.setRing ld v).flash = s.flash := rfl
@[simp] theorem State.setRing_otp : (s.setRing ld v).otp = s.otp := rfl
@[simp] theorem State.setRing_part : (s.setRing ld v).part = s.part := rfl
@[simp] theorem State.setRing_tick : (s.setRing ld v).tick = s.tick := rfl
@[simp] theorem State.setRing_tnumLatch : (s.setRing ld v).tnumLatch = s.tnumLatch := rfl
@[simp] theorem State.setRing_extRun : (s.setRing ld v).extRun = s.extRun := rfl
@[simp] theorem State.setRing_jobs : (s.setRing ld v).jobs = s.jobs := rfl
@[simp] theorem State.setRing_flog : (s.setRing ld v).flog = s.flog := rfl
@[simp] theorem State.setRing_sv : (s.setRing ld v).sv = s.sv := rfl
@[simp] theorem State.setRing_fences : (s.setRing ld v).fences = s.fences := rfl
@[simp] theorem State.setRing_lanes : (s.setRing ld v).lanes = s.lanes := rfl
@[simp] theorem State.setRing_pinst : (s.setRing ld v).pinst = s.pinst := rfl
@[simp] theorem State.setRing_busBits : (s.setRing ld v).busBits = s.busBits := rfl
@[simp] theorem State.setRing_outImg : (s.setRing ld v).outImg = s.outImg := rfl
@[simp] theorem State.setRing_outWords : (s.setRing ld v).outWords = s.outWords := rfl
@[simp] theorem State.setRing_frozen : (s.setRing ld v).frozen = s.frozen := rfl
@[simp] theorem State.setRing_frozenTick : (s.setRing ld v).frozenTick = s.frozenTick := rfl
@[simp] theorem State.setRing_pIn : (s.setRing ld v).pIn = s.pIn := rfl
@[simp] theorem State.setRing_capIn : (s.setRing ld v).capIn = s.capIn := rfl
@[simp] theorem State.setRing_cells : (s.setRing ld v).cells = s.cells := rfl
@[simp] theorem State.setRing_terms : (s.setRing ld v).terms = s.terms := rfl
@[simp] theorem State.setRing_fields : (s.setRing ld v).fields = s.fields := rfl
@[simp] theorem State.setRing_hbus : (s.setRing ld v).hbus = s.hbus := rfl
@[simp] theorem State.setRing_sieveP : (s.setRing ld v).sieveP = s.sieveP := rfl
@[simp] theorem State.setRing_sieveH : (s.setRing ld v).sieveH = s.sieveH := rfl
@[simp] theorem State.setRing_sieveDie : (s.setRing ld v).sieveDie = s.sieveDie := rfl
@[simp] theorem State.setRing_ports : (s.setRing ld v).ports = s.ports := rfl
@[simp] theorem State.setRing_furP : (s.setRing ld v).furP = s.furP := rfl
@[simp] theorem State.setRing_furH : (s.setRing ld v).furH = s.furH := rfl
@[simp] theorem State.setRing_marksP : (s.setRing ld v).marksP = s.marksP := rfl
@[simp] theorem State.setRing_marksH : (s.setRing ld v).marksH = s.marksH := rfl
@[simp] theorem State.setRing_zoneP : (s.setRing ld v).zoneP = s.zoneP := rfl
@[simp] theorem State.setRing_htxH : (s.setRing ld v).htxH = s.htxH := rfl
@[simp] theorem State.setRing_htxMarks : (s.setRing ld v).htxMarks = s.htxMarks := rfl
@[simp] theorem State.setRing_mbOrder : (s.setRing ld v).mbOrder = s.mbOrder := rfl
@[simp] theorem State.setRing_remote : (s.setRing ld v).remote = s.remote := rfl
@[simp] theorem State.setRing_xferC : (s.setRing ld v).xferC = s.xferC := rfl
@[simp] theorem State.setRing_xferF : (s.setRing ld v).xferF = s.xferF := rfl
@[simp] theorem State.setRing_xferSeq : (s.setRing ld v).xferSeq = s.xferSeq := rfl
@[simp] theorem State.setRing_fwStaged : (s.setRing ld v).fwStaged = s.fwStaged := rfl
@[simp] theorem State.setRing_image : (s.setRing ld v).image = s.image := rfl
@[simp] theorem State.setRing_soak : (s.setRing ld v).soak = s.soak := rfl
@[simp] theorem State.setRing_standby : (s.setRing ld v).standby = s.standby := rfl
@[simp] theorem State.setRing_seals : (s.setRing ld v).seals = s.seals := rfl
@[simp] theorem State.setRing_spm : (s.setRing ld v).spm = s.spm := rfl
@[simp] theorem State.setRing_tap : (s.setRing ld v).tap = s.tap := rfl
@[simp] theorem State.setRing_tapRegs : (s.setRing ld v).tapRegs = s.tapRegs := rfl
@[simp] theorem State.setRing_prpg : (s.setRing ld v).prpg = s.prpg := rfl
@[simp] theorem State.setRing_vaultIn : (s.setRing ld v).vaultIn = s.vaultIn := rfl
@[simp] theorem State.setRing_vaultOpen : (s.setRing ld v).vaultOpen = s.vaultOpen := rfl
@[simp] theorem State.setRing_host : (s.setRing ld v).host = s.host := rfl
@[simp] theorem State.setRing_bootRec : (s.setRing ld v).bootRec = s.bootRec := rfl
@[simp] theorem State.setRing_otpOp : (s.setRing ld v).otpOp = s.otpOp := rfl
@[simp] theorem State.setRing_sent : (s.setRing ld v).sent = s.sent := rfl
@[simp] theorem State.setRing_results : (s.setRing ld v).results = s.results := rfl
@[simp] theorem State.setRing_busErr : (s.setRing ld v).busErr = s.busErr := rfl
@[simp] theorem State.setRing_freeCtr : (s.setRing ld v).freeCtr = s.freeCtr := rfl
@[simp] theorem State.setRing_pending : (s.setRing ld v).pending = s.pending := rfl
@[simp] theorem State.setRing_lane (ld' l : Nat) : (s.setRing ld v).lane ld' l = s.lane ld' l := rfl
@[simp] theorem State.setRing_inst (iid : Nat) : (s.setRing ld v).inst iid = s.inst iid := rfl
@[simp] theorem State.setRing_bus (iid b : Nat) : (s.setRing ld v).bus iid b = s.bus iid b := rfl
@[simp] theorem State.setRing_words (ld' fd : Nat) : (s.setRing ld v).words ld' fd = s.words ld' fd := rfl
@[simp] theorem State.setRing_frozenWord (ld' fd t : Nat) : (s.setRing ld v).frozenWord ld' fd t = s.frozenWord ld' fd t := rfl
@[simp] theorem State.setRing_frozenAt (ld' fd : Nat) : (s.setRing ld v).frozenAt ld' fd = s.frozenAt ld' fd := rfl
@[simp] theorem State.setRing_pRead (ld' fd t : Nat) : (s.setRing ld v).pRead ld' fd t = s.pRead ld' fd t := rfl
@[simp] theorem State.setRing_capDue (die n : Nat) : (s.setRing ld v).capDue die n = s.capDue die n := rfl
@[simp] theorem State.setRing_cell (fd c : Nat) : (s.setRing ld v).cell fd c = s.cell fd c := rfl
@[simp] theorem State.setRing_term (fd t : Nat) : (s.setRing ld v).term fd t = s.term fd t := rfl
@[simp] theorem State.setRing_field (fd : Nat) : (s.setRing ld v).field fd = s.field fd := rfl
@[simp] theorem State.setRing_hbit (fd k : Nat) : (s.setRing ld v).hbit fd k = s.hbit fd k := rfl
@[simp] theorem State.setRing_svP (ld' iid : Nat) : (s.setRing ld v).svP ld' iid = s.svP ld' iid := rfl
@[simp] theorem State.setRing_svH (fd c : Nat) : (s.setRing ld v).svH fd c = s.svH fd c := rfl
@[simp] theorem State.setRing_svDie (die : Nat) : (s.setRing ld v).svDie die = s.svDie die := rfl
@[simp] theorem State.setRing_port (ld' p : Nat) : (s.setRing ld v).port ld' p = s.port ld' p := rfl
@[simp] theorem State.setRing_job (ld' e : Nat) : (s.setRing ld v).job ld' e = s.job ld' e := rfl
@[simp] theorem State.setRing_svst (ld' : Nat) : (s.setRing ld v).svst ld' = s.svst ld' := rfl
@[simp] theorem State.setRing_rem (ld' mb : Nat) : (s.setRing ld v).rem ld' mb = s.rem ld' mb := rfl
@[simp] theorem State.setRing_stby (ld' n : Nat) : (s.setRing ld v).stby ld' n = s.stby ld' n := rfl
@[simp] theorem State.setRing_sealSt (die : Nat) : (s.setRing ld v).sealSt die = s.sealSt die := rfl
@[simp] theorem State.setRing_spmSt (ld' : Nat) : (s.setRing ld v).spmSt ld' = s.spmSt ld' := rfl
@[simp] theorem State.setRing_otpWord (w : Nat) : (s.setRing ld v).otpWord w = s.otpWord w := rfl
@[simp] theorem State.setRing_byte (a : Nat) : (s.setRing ld v).byte a = s.byte a := rfl
@[simp] theorem State.setRing_eccClass (ld' off : Nat) : (s.setRing ld v).eccClass ld' off = s.eccClass ld' off := rfl
@[simp] theorem State.setRing_flashByte (a : Nat) : (s.setRing ld v).flashByte a = s.flashByte a := rfl
@[simp] theorem State.setRing_get (G : Fld) (e j : Nat) : (s.setRing ld v).get G e j = s.get G e j := rfl
@[simp] theorem State.setRing_flag (G : Fld) (e j : Nat) : (s.setRing ld v).flag G e j = s.flag G e j := rfl
@[simp] theorem State.setRing_outBit (ld' e : Nat) : (s.setRing ld v).outBit ld' e = s.outBit ld' e := rfl
@[simp] theorem State.setRing_free : (s.setRing ld v).free = s.free := rfl
@[simp] theorem State.setRing_choice : (s.setRing ld v).choice = s.choice := rfl

end

/-! ### `State.setPort` -/

section
variable (s : State) (ld p : Nat) (v : PortSt)

@[simp] theorem State.setPort_variant : (s.setPort ld p v).variant = s.variant := rfl
@[simp] theorem State.setPort_rev : (s.setPort ld p v).rev = s.rev := rfl
@[simp] theorem State.setPort_regs : (s.setPort ld p v).regs = s.regs := rfl
@[simp] theorem State.setPort_mem : (s.setPort ld p v).mem = s.mem := rfl
@[simp] theorem State.setPort_ecc : (s.setPort ld p v).ecc = s.ecc := rfl
@[simp] theorem State.setPort_flash : (s.setPort ld p v).flash = s.flash := rfl
@[simp] theorem State.setPort_otp : (s.setPort ld p v).otp = s.otp := rfl
@[simp] theorem State.setPort_part : (s.setPort ld p v).part = s.part := rfl
@[simp] theorem State.setPort_tick : (s.setPort ld p v).tick = s.tick := rfl
@[simp] theorem State.setPort_tnumLatch : (s.setPort ld p v).tnumLatch = s.tnumLatch := rfl
@[simp] theorem State.setPort_extRun : (s.setPort ld p v).extRun = s.extRun := rfl
@[simp] theorem State.setPort_jobs : (s.setPort ld p v).jobs = s.jobs := rfl
@[simp] theorem State.setPort_flog : (s.setPort ld p v).flog = s.flog := rfl
@[simp] theorem State.setPort_sv : (s.setPort ld p v).sv = s.sv := rfl
@[simp] theorem State.setPort_fences : (s.setPort ld p v).fences = s.fences := rfl
@[simp] theorem State.setPort_lanes : (s.setPort ld p v).lanes = s.lanes := rfl
@[simp] theorem State.setPort_pinst : (s.setPort ld p v).pinst = s.pinst := rfl
@[simp] theorem State.setPort_busBits : (s.setPort ld p v).busBits = s.busBits := rfl
@[simp] theorem State.setPort_outImg : (s.setPort ld p v).outImg = s.outImg := rfl
@[simp] theorem State.setPort_outWords : (s.setPort ld p v).outWords = s.outWords := rfl
@[simp] theorem State.setPort_frozen : (s.setPort ld p v).frozen = s.frozen := rfl
@[simp] theorem State.setPort_frozenTick : (s.setPort ld p v).frozenTick = s.frozenTick := rfl
@[simp] theorem State.setPort_pIn : (s.setPort ld p v).pIn = s.pIn := rfl
@[simp] theorem State.setPort_capIn : (s.setPort ld p v).capIn = s.capIn := rfl
@[simp] theorem State.setPort_cells : (s.setPort ld p v).cells = s.cells := rfl
@[simp] theorem State.setPort_terms : (s.setPort ld p v).terms = s.terms := rfl
@[simp] theorem State.setPort_fields : (s.setPort ld p v).fields = s.fields := rfl
@[simp] theorem State.setPort_hbus : (s.setPort ld p v).hbus = s.hbus := rfl
@[simp] theorem State.setPort_sieveP : (s.setPort ld p v).sieveP = s.sieveP := rfl
@[simp] theorem State.setPort_sieveH : (s.setPort ld p v).sieveH = s.sieveH := rfl
@[simp] theorem State.setPort_sieveDie : (s.setPort ld p v).sieveDie = s.sieveDie := rfl
@[simp] theorem State.setPort_rings : (s.setPort ld p v).rings = s.rings := rfl
@[simp] theorem State.setPort_furP : (s.setPort ld p v).furP = s.furP := rfl
@[simp] theorem State.setPort_furH : (s.setPort ld p v).furH = s.furH := rfl
@[simp] theorem State.setPort_marksP : (s.setPort ld p v).marksP = s.marksP := rfl
@[simp] theorem State.setPort_marksH : (s.setPort ld p v).marksH = s.marksH := rfl
@[simp] theorem State.setPort_zoneP : (s.setPort ld p v).zoneP = s.zoneP := rfl
@[simp] theorem State.setPort_htxH : (s.setPort ld p v).htxH = s.htxH := rfl
@[simp] theorem State.setPort_htxMarks : (s.setPort ld p v).htxMarks = s.htxMarks := rfl
@[simp] theorem State.setPort_mbOrder : (s.setPort ld p v).mbOrder = s.mbOrder := rfl
@[simp] theorem State.setPort_remote : (s.setPort ld p v).remote = s.remote := rfl
@[simp] theorem State.setPort_xferC : (s.setPort ld p v).xferC = s.xferC := rfl
@[simp] theorem State.setPort_xferF : (s.setPort ld p v).xferF = s.xferF := rfl
@[simp] theorem State.setPort_xferSeq : (s.setPort ld p v).xferSeq = s.xferSeq := rfl
@[simp] theorem State.setPort_fwStaged : (s.setPort ld p v).fwStaged = s.fwStaged := rfl
@[simp] theorem State.setPort_image : (s.setPort ld p v).image = s.image := rfl
@[simp] theorem State.setPort_soak : (s.setPort ld p v).soak = s.soak := rfl
@[simp] theorem State.setPort_standby : (s.setPort ld p v).standby = s.standby := rfl
@[simp] theorem State.setPort_seals : (s.setPort ld p v).seals = s.seals := rfl
@[simp] theorem State.setPort_spm : (s.setPort ld p v).spm = s.spm := rfl
@[simp] theorem State.setPort_tap : (s.setPort ld p v).tap = s.tap := rfl
@[simp] theorem State.setPort_tapRegs : (s.setPort ld p v).tapRegs = s.tapRegs := rfl
@[simp] theorem State.setPort_prpg : (s.setPort ld p v).prpg = s.prpg := rfl
@[simp] theorem State.setPort_vaultIn : (s.setPort ld p v).vaultIn = s.vaultIn := rfl
@[simp] theorem State.setPort_vaultOpen : (s.setPort ld p v).vaultOpen = s.vaultOpen := rfl
@[simp] theorem State.setPort_host : (s.setPort ld p v).host = s.host := rfl
@[simp] theorem State.setPort_bootRec : (s.setPort ld p v).bootRec = s.bootRec := rfl
@[simp] theorem State.setPort_otpOp : (s.setPort ld p v).otpOp = s.otpOp := rfl
@[simp] theorem State.setPort_sent : (s.setPort ld p v).sent = s.sent := rfl
@[simp] theorem State.setPort_results : (s.setPort ld p v).results = s.results := rfl
@[simp] theorem State.setPort_busErr : (s.setPort ld p v).busErr = s.busErr := rfl
@[simp] theorem State.setPort_freeCtr : (s.setPort ld p v).freeCtr = s.freeCtr := rfl
@[simp] theorem State.setPort_pending : (s.setPort ld p v).pending = s.pending := rfl
@[simp] theorem State.setPort_lane (ld' l : Nat) : (s.setPort ld p v).lane ld' l = s.lane ld' l := rfl
@[simp] theorem State.setPort_inst (iid : Nat) : (s.setPort ld p v).inst iid = s.inst iid := rfl
@[simp] theorem State.setPort_bus (iid b : Nat) : (s.setPort ld p v).bus iid b = s.bus iid b := rfl
@[simp] theorem State.setPort_words (ld' fd : Nat) : (s.setPort ld p v).words ld' fd = s.words ld' fd := rfl
@[simp] theorem State.setPort_frozenWord (ld' fd t : Nat) : (s.setPort ld p v).frozenWord ld' fd t = s.frozenWord ld' fd t := rfl
@[simp] theorem State.setPort_frozenAt (ld' fd : Nat) : (s.setPort ld p v).frozenAt ld' fd = s.frozenAt ld' fd := rfl
@[simp] theorem State.setPort_pRead (ld' fd t : Nat) : (s.setPort ld p v).pRead ld' fd t = s.pRead ld' fd t := rfl
@[simp] theorem State.setPort_capDue (die n : Nat) : (s.setPort ld p v).capDue die n = s.capDue die n := rfl
@[simp] theorem State.setPort_cell (fd c : Nat) : (s.setPort ld p v).cell fd c = s.cell fd c := rfl
@[simp] theorem State.setPort_term (fd t : Nat) : (s.setPort ld p v).term fd t = s.term fd t := rfl
@[simp] theorem State.setPort_field (fd : Nat) : (s.setPort ld p v).field fd = s.field fd := rfl
@[simp] theorem State.setPort_hbit (fd k : Nat) : (s.setPort ld p v).hbit fd k = s.hbit fd k := rfl
@[simp] theorem State.setPort_svP (ld' iid : Nat) : (s.setPort ld p v).svP ld' iid = s.svP ld' iid := rfl
@[simp] theorem State.setPort_svH (fd c : Nat) : (s.setPort ld p v).svH fd c = s.svH fd c := rfl
@[simp] theorem State.setPort_svDie (die : Nat) : (s.setPort ld p v).svDie die = s.svDie die := rfl
@[simp] theorem State.setPort_ring (ld' : Nat) : (s.setPort ld p v).ring ld' = s.ring ld' := rfl
@[simp] theorem State.setPort_job (ld' e : Nat) : (s.setPort ld p v).job ld' e = s.job ld' e := rfl
@[simp] theorem State.setPort_svst (ld' : Nat) : (s.setPort ld p v).svst ld' = s.svst ld' := rfl
@[simp] theorem State.setPort_rem (ld' mb : Nat) : (s.setPort ld p v).rem ld' mb = s.rem ld' mb := rfl
@[simp] theorem State.setPort_stby (ld' n : Nat) : (s.setPort ld p v).stby ld' n = s.stby ld' n := rfl
@[simp] theorem State.setPort_sealSt (die : Nat) : (s.setPort ld p v).sealSt die = s.sealSt die := rfl
@[simp] theorem State.setPort_spmSt (ld' : Nat) : (s.setPort ld p v).spmSt ld' = s.spmSt ld' := rfl
@[simp] theorem State.setPort_otpWord (w : Nat) : (s.setPort ld p v).otpWord w = s.otpWord w := rfl
@[simp] theorem State.setPort_byte (a : Nat) : (s.setPort ld p v).byte a = s.byte a := rfl
@[simp] theorem State.setPort_eccClass (ld' off : Nat) : (s.setPort ld p v).eccClass ld' off = s.eccClass ld' off := rfl
@[simp] theorem State.setPort_flashByte (a : Nat) : (s.setPort ld p v).flashByte a = s.flashByte a := rfl
@[simp] theorem State.setPort_get (G : Fld) (e j : Nat) : (s.setPort ld p v).get G e j = s.get G e j := rfl
@[simp] theorem State.setPort_flag (G : Fld) (e j : Nat) : (s.setPort ld p v).flag G e j = s.flag G e j := rfl
@[simp] theorem State.setPort_outBit (ld' e : Nat) : (s.setPort ld p v).outBit ld' e = s.outBit ld' e := rfl
@[simp] theorem State.setPort_free : (s.setPort ld p v).free = s.free := rfl
@[simp] theorem State.setPort_choice : (s.setPort ld p v).choice = s.choice := rfl

end

/-! ### `State.setJob` -/

section
variable (s : State) (ld e : Nat) (v : Job)

@[simp] theorem State.setJob_variant : (s.setJob ld e v).variant = s.variant := rfl
@[simp] theorem State.setJob_rev : (s.setJob ld e v).rev = s.rev := rfl
@[simp] theorem State.setJob_regs : (s.setJob ld e v).regs = s.regs := rfl
@[simp] theorem State.setJob_mem : (s.setJob ld e v).mem = s.mem := rfl
@[simp] theorem State.setJob_ecc : (s.setJob ld e v).ecc = s.ecc := rfl
@[simp] theorem State.setJob_flash : (s.setJob ld e v).flash = s.flash := rfl
@[simp] theorem State.setJob_otp : (s.setJob ld e v).otp = s.otp := rfl
@[simp] theorem State.setJob_part : (s.setJob ld e v).part = s.part := rfl
@[simp] theorem State.setJob_tick : (s.setJob ld e v).tick = s.tick := rfl
@[simp] theorem State.setJob_tnumLatch : (s.setJob ld e v).tnumLatch = s.tnumLatch := rfl
@[simp] theorem State.setJob_extRun : (s.setJob ld e v).extRun = s.extRun := rfl
@[simp] theorem State.setJob_flog : (s.setJob ld e v).flog = s.flog := rfl
@[simp] theorem State.setJob_sv : (s.setJob ld e v).sv = s.sv := rfl
@[simp] theorem State.setJob_fences : (s.setJob ld e v).fences = s.fences := rfl
@[simp] theorem State.setJob_lanes : (s.setJob ld e v).lanes = s.lanes := rfl
@[simp] theorem State.setJob_pinst : (s.setJob ld e v).pinst = s.pinst := rfl
@[simp] theorem State.setJob_busBits : (s.setJob ld e v).busBits = s.busBits := rfl
@[simp] theorem State.setJob_outImg : (s.setJob ld e v).outImg = s.outImg := rfl
@[simp] theorem State.setJob_outWords : (s.setJob ld e v).outWords = s.outWords := rfl
@[simp] theorem State.setJob_frozen : (s.setJob ld e v).frozen = s.frozen := rfl
@[simp] theorem State.setJob_frozenTick : (s.setJob ld e v).frozenTick = s.frozenTick := rfl
@[simp] theorem State.setJob_pIn : (s.setJob ld e v).pIn = s.pIn := rfl
@[simp] theorem State.setJob_capIn : (s.setJob ld e v).capIn = s.capIn := rfl
@[simp] theorem State.setJob_cells : (s.setJob ld e v).cells = s.cells := rfl
@[simp] theorem State.setJob_terms : (s.setJob ld e v).terms = s.terms := rfl
@[simp] theorem State.setJob_fields : (s.setJob ld e v).fields = s.fields := rfl
@[simp] theorem State.setJob_hbus : (s.setJob ld e v).hbus = s.hbus := rfl
@[simp] theorem State.setJob_sieveP : (s.setJob ld e v).sieveP = s.sieveP := rfl
@[simp] theorem State.setJob_sieveH : (s.setJob ld e v).sieveH = s.sieveH := rfl
@[simp] theorem State.setJob_sieveDie : (s.setJob ld e v).sieveDie = s.sieveDie := rfl
@[simp] theorem State.setJob_rings : (s.setJob ld e v).rings = s.rings := rfl
@[simp] theorem State.setJob_ports : (s.setJob ld e v).ports = s.ports := rfl
@[simp] theorem State.setJob_furP : (s.setJob ld e v).furP = s.furP := rfl
@[simp] theorem State.setJob_furH : (s.setJob ld e v).furH = s.furH := rfl
@[simp] theorem State.setJob_marksP : (s.setJob ld e v).marksP = s.marksP := rfl
@[simp] theorem State.setJob_marksH : (s.setJob ld e v).marksH = s.marksH := rfl
@[simp] theorem State.setJob_zoneP : (s.setJob ld e v).zoneP = s.zoneP := rfl
@[simp] theorem State.setJob_htxH : (s.setJob ld e v).htxH = s.htxH := rfl
@[simp] theorem State.setJob_htxMarks : (s.setJob ld e v).htxMarks = s.htxMarks := rfl
@[simp] theorem State.setJob_mbOrder : (s.setJob ld e v).mbOrder = s.mbOrder := rfl
@[simp] theorem State.setJob_remote : (s.setJob ld e v).remote = s.remote := rfl
@[simp] theorem State.setJob_xferC : (s.setJob ld e v).xferC = s.xferC := rfl
@[simp] theorem State.setJob_xferF : (s.setJob ld e v).xferF = s.xferF := rfl
@[simp] theorem State.setJob_xferSeq : (s.setJob ld e v).xferSeq = s.xferSeq := rfl
@[simp] theorem State.setJob_fwStaged : (s.setJob ld e v).fwStaged = s.fwStaged := rfl
@[simp] theorem State.setJob_image : (s.setJob ld e v).image = s.image := rfl
@[simp] theorem State.setJob_soak : (s.setJob ld e v).soak = s.soak := rfl
@[simp] theorem State.setJob_standby : (s.setJob ld e v).standby = s.standby := rfl
@[simp] theorem State.setJob_seals : (s.setJob ld e v).seals = s.seals := rfl
@[simp] theorem State.setJob_spm : (s.setJob ld e v).spm = s.spm := rfl
@[simp] theorem State.setJob_tap : (s.setJob ld e v).tap = s.tap := rfl
@[simp] theorem State.setJob_tapRegs : (s.setJob ld e v).tapRegs = s.tapRegs := rfl
@[simp] theorem State.setJob_prpg : (s.setJob ld e v).prpg = s.prpg := rfl
@[simp] theorem State.setJob_vaultIn : (s.setJob ld e v).vaultIn = s.vaultIn := rfl
@[simp] theorem State.setJob_vaultOpen : (s.setJob ld e v).vaultOpen = s.vaultOpen := rfl
@[simp] theorem State.setJob_host : (s.setJob ld e v).host = s.host := rfl
@[simp] theorem State.setJob_bootRec : (s.setJob ld e v).bootRec = s.bootRec := rfl
@[simp] theorem State.setJob_otpOp : (s.setJob ld e v).otpOp = s.otpOp := rfl
@[simp] theorem State.setJob_sent : (s.setJob ld e v).sent = s.sent := rfl
@[simp] theorem State.setJob_results : (s.setJob ld e v).results = s.results := rfl
@[simp] theorem State.setJob_busErr : (s.setJob ld e v).busErr = s.busErr := rfl
@[simp] theorem State.setJob_freeCtr : (s.setJob ld e v).freeCtr = s.freeCtr := rfl
@[simp] theorem State.setJob_pending : (s.setJob ld e v).pending = s.pending := rfl
@[simp] theorem State.setJob_lane (ld' l : Nat) : (s.setJob ld e v).lane ld' l = s.lane ld' l := rfl
@[simp] theorem State.setJob_inst (iid : Nat) : (s.setJob ld e v).inst iid = s.inst iid := rfl
@[simp] theorem State.setJob_bus (iid b : Nat) : (s.setJob ld e v).bus iid b = s.bus iid b := rfl
@[simp] theorem State.setJob_words (ld' fd : Nat) : (s.setJob ld e v).words ld' fd = s.words ld' fd := rfl
@[simp] theorem State.setJob_frozenWord (ld' fd t : Nat) : (s.setJob ld e v).frozenWord ld' fd t = s.frozenWord ld' fd t := rfl
@[simp] theorem State.setJob_frozenAt (ld' fd : Nat) : (s.setJob ld e v).frozenAt ld' fd = s.frozenAt ld' fd := rfl
@[simp] theorem State.setJob_pRead (ld' fd t : Nat) : (s.setJob ld e v).pRead ld' fd t = s.pRead ld' fd t := rfl
@[simp] theorem State.setJob_capDue (die n : Nat) : (s.setJob ld e v).capDue die n = s.capDue die n := rfl
@[simp] theorem State.setJob_cell (fd c : Nat) : (s.setJob ld e v).cell fd c = s.cell fd c := rfl
@[simp] theorem State.setJob_term (fd t : Nat) : (s.setJob ld e v).term fd t = s.term fd t := rfl
@[simp] theorem State.setJob_field (fd : Nat) : (s.setJob ld e v).field fd = s.field fd := rfl
@[simp] theorem State.setJob_hbit (fd k : Nat) : (s.setJob ld e v).hbit fd k = s.hbit fd k := rfl
@[simp] theorem State.setJob_svP (ld' iid : Nat) : (s.setJob ld e v).svP ld' iid = s.svP ld' iid := rfl
@[simp] theorem State.setJob_svH (fd c : Nat) : (s.setJob ld e v).svH fd c = s.svH fd c := rfl
@[simp] theorem State.setJob_svDie (die : Nat) : (s.setJob ld e v).svDie die = s.svDie die := rfl
@[simp] theorem State.setJob_ring (ld' : Nat) : (s.setJob ld e v).ring ld' = s.ring ld' := rfl
@[simp] theorem State.setJob_port (ld' p : Nat) : (s.setJob ld e v).port ld' p = s.port ld' p := rfl
@[simp] theorem State.setJob_svst (ld' : Nat) : (s.setJob ld e v).svst ld' = s.svst ld' := rfl
@[simp] theorem State.setJob_rem (ld' mb : Nat) : (s.setJob ld e v).rem ld' mb = s.rem ld' mb := rfl
@[simp] theorem State.setJob_stby (ld' n : Nat) : (s.setJob ld e v).stby ld' n = s.stby ld' n := rfl
@[simp] theorem State.setJob_sealSt (die : Nat) : (s.setJob ld e v).sealSt die = s.sealSt die := rfl
@[simp] theorem State.setJob_spmSt (ld' : Nat) : (s.setJob ld e v).spmSt ld' = s.spmSt ld' := rfl
@[simp] theorem State.setJob_otpWord (w : Nat) : (s.setJob ld e v).otpWord w = s.otpWord w := rfl
@[simp] theorem State.setJob_byte (a : Nat) : (s.setJob ld e v).byte a = s.byte a := rfl
@[simp] theorem State.setJob_eccClass (ld' off : Nat) : (s.setJob ld e v).eccClass ld' off = s.eccClass ld' off := rfl
@[simp] theorem State.setJob_flashByte (a : Nat) : (s.setJob ld e v).flashByte a = s.flashByte a := rfl
@[simp] theorem State.setJob_get (G : Fld) (e' j : Nat) : (s.setJob ld e v).get G e' j = s.get G e' j := rfl
@[simp] theorem State.setJob_flag (G : Fld) (e' j : Nat) : (s.setJob ld e v).flag G e' j = s.flag G e' j := rfl
@[simp] theorem State.setJob_outBit (ld' e' : Nat) : (s.setJob ld e v).outBit ld' e' = s.outBit ld' e' := rfl
@[simp] theorem State.setJob_free : (s.setJob ld e v).free = s.free := rfl
@[simp] theorem State.setJob_choice : (s.setJob ld e v).choice = s.choice := rfl

end

/-! ### `State.setSv` -/

section
variable (s : State) (ld : Nat) (v : SvSt)

@[simp] theorem State.setSv_variant : (s.setSv ld v).variant = s.variant := rfl
@[simp] theorem State.setSv_rev : (s.setSv ld v).rev = s.rev := rfl
@[simp] theorem State.setSv_regs : (s.setSv ld v).regs = s.regs := rfl
@[simp] theorem State.setSv_mem : (s.setSv ld v).mem = s.mem := rfl
@[simp] theorem State.setSv_ecc : (s.setSv ld v).ecc = s.ecc := rfl
@[simp] theorem State.setSv_flash : (s.setSv ld v).flash = s.flash := rfl
@[simp] theorem State.setSv_otp : (s.setSv ld v).otp = s.otp := rfl
@[simp] theorem State.setSv_part : (s.setSv ld v).part = s.part := rfl
@[simp] theorem State.setSv_tick : (s.setSv ld v).tick = s.tick := rfl
@[simp] theorem State.setSv_tnumLatch : (s.setSv ld v).tnumLatch = s.tnumLatch := rfl
@[simp] theorem State.setSv_extRun : (s.setSv ld v).extRun = s.extRun := rfl
@[simp] theorem State.setSv_jobs : (s.setSv ld v).jobs = s.jobs := rfl
@[simp] theorem State.setSv_flog : (s.setSv ld v).flog = s.flog := rfl
@[simp] theorem State.setSv_fences : (s.setSv ld v).fences = s.fences := rfl
@[simp] theorem State.setSv_lanes : (s.setSv ld v).lanes = s.lanes := rfl
@[simp] theorem State.setSv_pinst : (s.setSv ld v).pinst = s.pinst := rfl
@[simp] theorem State.setSv_busBits : (s.setSv ld v).busBits = s.busBits := rfl
@[simp] theorem State.setSv_outImg : (s.setSv ld v).outImg = s.outImg := rfl
@[simp] theorem State.setSv_outWords : (s.setSv ld v).outWords = s.outWords := rfl
@[simp] theorem State.setSv_frozen : (s.setSv ld v).frozen = s.frozen := rfl
@[simp] theorem State.setSv_frozenTick : (s.setSv ld v).frozenTick = s.frozenTick := rfl
@[simp] theorem State.setSv_pIn : (s.setSv ld v).pIn = s.pIn := rfl
@[simp] theorem State.setSv_capIn : (s.setSv ld v).capIn = s.capIn := rfl
@[simp] theorem State.setSv_cells : (s.setSv ld v).cells = s.cells := rfl
@[simp] theorem State.setSv_terms : (s.setSv ld v).terms = s.terms := rfl
@[simp] theorem State.setSv_fields : (s.setSv ld v).fields = s.fields := rfl
@[simp] theorem State.setSv_hbus : (s.setSv ld v).hbus = s.hbus := rfl
@[simp] theorem State.setSv_sieveP : (s.setSv ld v).sieveP = s.sieveP := rfl
@[simp] theorem State.setSv_sieveH : (s.setSv ld v).sieveH = s.sieveH := rfl
@[simp] theorem State.setSv_sieveDie : (s.setSv ld v).sieveDie = s.sieveDie := rfl
@[simp] theorem State.setSv_rings : (s.setSv ld v).rings = s.rings := rfl
@[simp] theorem State.setSv_ports : (s.setSv ld v).ports = s.ports := rfl
@[simp] theorem State.setSv_furP : (s.setSv ld v).furP = s.furP := rfl
@[simp] theorem State.setSv_furH : (s.setSv ld v).furH = s.furH := rfl
@[simp] theorem State.setSv_marksP : (s.setSv ld v).marksP = s.marksP := rfl
@[simp] theorem State.setSv_marksH : (s.setSv ld v).marksH = s.marksH := rfl
@[simp] theorem State.setSv_zoneP : (s.setSv ld v).zoneP = s.zoneP := rfl
@[simp] theorem State.setSv_htxH : (s.setSv ld v).htxH = s.htxH := rfl
@[simp] theorem State.setSv_htxMarks : (s.setSv ld v).htxMarks = s.htxMarks := rfl
@[simp] theorem State.setSv_mbOrder : (s.setSv ld v).mbOrder = s.mbOrder := rfl
@[simp] theorem State.setSv_remote : (s.setSv ld v).remote = s.remote := rfl
@[simp] theorem State.setSv_xferC : (s.setSv ld v).xferC = s.xferC := rfl
@[simp] theorem State.setSv_xferF : (s.setSv ld v).xferF = s.xferF := rfl
@[simp] theorem State.setSv_xferSeq : (s.setSv ld v).xferSeq = s.xferSeq := rfl
@[simp] theorem State.setSv_fwStaged : (s.setSv ld v).fwStaged = s.fwStaged := rfl
@[simp] theorem State.setSv_image : (s.setSv ld v).image = s.image := rfl
@[simp] theorem State.setSv_soak : (s.setSv ld v).soak = s.soak := rfl
@[simp] theorem State.setSv_standby : (s.setSv ld v).standby = s.standby := rfl
@[simp] theorem State.setSv_seals : (s.setSv ld v).seals = s.seals := rfl
@[simp] theorem State.setSv_spm : (s.setSv ld v).spm = s.spm := rfl
@[simp] theorem State.setSv_tap : (s.setSv ld v).tap = s.tap := rfl
@[simp] theorem State.setSv_tapRegs : (s.setSv ld v).tapRegs = s.tapRegs := rfl
@[simp] theorem State.setSv_prpg : (s.setSv ld v).prpg = s.prpg := rfl
@[simp] theorem State.setSv_vaultIn : (s.setSv ld v).vaultIn = s.vaultIn := rfl
@[simp] theorem State.setSv_vaultOpen : (s.setSv ld v).vaultOpen = s.vaultOpen := rfl
@[simp] theorem State.setSv_host : (s.setSv ld v).host = s.host := rfl
@[simp] theorem State.setSv_bootRec : (s.setSv ld v).bootRec = s.bootRec := rfl
@[simp] theorem State.setSv_otpOp : (s.setSv ld v).otpOp = s.otpOp := rfl
@[simp] theorem State.setSv_sent : (s.setSv ld v).sent = s.sent := rfl
@[simp] theorem State.setSv_results : (s.setSv ld v).results = s.results := rfl
@[simp] theorem State.setSv_busErr : (s.setSv ld v).busErr = s.busErr := rfl
@[simp] theorem State.setSv_freeCtr : (s.setSv ld v).freeCtr = s.freeCtr := rfl
@[simp] theorem State.setSv_pending : (s.setSv ld v).pending = s.pending := rfl
@[simp] theorem State.setSv_lane (ld' l : Nat) : (s.setSv ld v).lane ld' l = s.lane ld' l := rfl
@[simp] theorem State.setSv_inst (iid : Nat) : (s.setSv ld v).inst iid = s.inst iid := rfl
@[simp] theorem State.setSv_bus (iid b : Nat) : (s.setSv ld v).bus iid b = s.bus iid b := rfl
@[simp] theorem State.setSv_words (ld' fd : Nat) : (s.setSv ld v).words ld' fd = s.words ld' fd := rfl
@[simp] theorem State.setSv_frozenWord (ld' fd t : Nat) : (s.setSv ld v).frozenWord ld' fd t = s.frozenWord ld' fd t := rfl
@[simp] theorem State.setSv_frozenAt (ld' fd : Nat) : (s.setSv ld v).frozenAt ld' fd = s.frozenAt ld' fd := rfl
@[simp] theorem State.setSv_pRead (ld' fd t : Nat) : (s.setSv ld v).pRead ld' fd t = s.pRead ld' fd t := rfl
@[simp] theorem State.setSv_capDue (die n : Nat) : (s.setSv ld v).capDue die n = s.capDue die n := rfl
@[simp] theorem State.setSv_cell (fd c : Nat) : (s.setSv ld v).cell fd c = s.cell fd c := rfl
@[simp] theorem State.setSv_term (fd t : Nat) : (s.setSv ld v).term fd t = s.term fd t := rfl
@[simp] theorem State.setSv_field (fd : Nat) : (s.setSv ld v).field fd = s.field fd := rfl
@[simp] theorem State.setSv_hbit (fd k : Nat) : (s.setSv ld v).hbit fd k = s.hbit fd k := rfl
@[simp] theorem State.setSv_svP (ld' iid : Nat) : (s.setSv ld v).svP ld' iid = s.svP ld' iid := rfl
@[simp] theorem State.setSv_svH (fd c : Nat) : (s.setSv ld v).svH fd c = s.svH fd c := rfl
@[simp] theorem State.setSv_svDie (die : Nat) : (s.setSv ld v).svDie die = s.svDie die := rfl
@[simp] theorem State.setSv_ring (ld' : Nat) : (s.setSv ld v).ring ld' = s.ring ld' := rfl
@[simp] theorem State.setSv_port (ld' p : Nat) : (s.setSv ld v).port ld' p = s.port ld' p := rfl
@[simp] theorem State.setSv_job (ld' e : Nat) : (s.setSv ld v).job ld' e = s.job ld' e := rfl
@[simp] theorem State.setSv_rem (ld' mb : Nat) : (s.setSv ld v).rem ld' mb = s.rem ld' mb := rfl
@[simp] theorem State.setSv_stby (ld' n : Nat) : (s.setSv ld v).stby ld' n = s.stby ld' n := rfl
@[simp] theorem State.setSv_sealSt (die : Nat) : (s.setSv ld v).sealSt die = s.sealSt die := rfl
@[simp] theorem State.setSv_spmSt (ld' : Nat) : (s.setSv ld v).spmSt ld' = s.spmSt ld' := rfl
@[simp] theorem State.setSv_otpWord (w : Nat) : (s.setSv ld v).otpWord w = s.otpWord w := rfl
@[simp] theorem State.setSv_byte (a : Nat) : (s.setSv ld v).byte a = s.byte a := rfl
@[simp] theorem State.setSv_eccClass (ld' off : Nat) : (s.setSv ld v).eccClass ld' off = s.eccClass ld' off := rfl
@[simp] theorem State.setSv_flashByte (a : Nat) : (s.setSv ld v).flashByte a = s.flashByte a := rfl
@[simp] theorem State.setSv_get (G : Fld) (e j : Nat) : (s.setSv ld v).get G e j = s.get G e j := rfl
@[simp] theorem State.setSv_flag (G : Fld) (e j : Nat) : (s.setSv ld v).flag G e j = s.flag G e j := rfl
@[simp] theorem State.setSv_outBit (ld' e : Nat) : (s.setSv ld v).outBit ld' e = s.outBit ld' e := rfl
@[simp] theorem State.setSv_free : (s.setSv ld v).free = s.free := rfl
@[simp] theorem State.setSv_choice : (s.setSv ld v).choice = s.choice := rfl

end

/-! ### `State.setRem` -/

section
variable (s : State) (ld mb : Nat) (v : Remote)

@[simp] theorem State.setRem_variant : (s.setRem ld mb v).variant = s.variant := rfl
@[simp] theorem State.setRem_rev : (s.setRem ld mb v).rev = s.rev := rfl
@[simp] theorem State.setRem_regs : (s.setRem ld mb v).regs = s.regs := rfl
@[simp] theorem State.setRem_mem : (s.setRem ld mb v).mem = s.mem := rfl
@[simp] theorem State.setRem_ecc : (s.setRem ld mb v).ecc = s.ecc := rfl
@[simp] theorem State.setRem_flash : (s.setRem ld mb v).flash = s.flash := rfl
@[simp] theorem State.setRem_otp : (s.setRem ld mb v).otp = s.otp := rfl
@[simp] theorem State.setRem_part : (s.setRem ld mb v).part = s.part := rfl
@[simp] theorem State.setRem_tick : (s.setRem ld mb v).tick = s.tick := rfl
@[simp] theorem State.setRem_tnumLatch : (s.setRem ld mb v).tnumLatch = s.tnumLatch := rfl
@[simp] theorem State.setRem_extRun : (s.setRem ld mb v).extRun = s.extRun := rfl
@[simp] theorem State.setRem_jobs : (s.setRem ld mb v).jobs = s.jobs := rfl
@[simp] theorem State.setRem_flog : (s.setRem ld mb v).flog = s.flog := rfl
@[simp] theorem State.setRem_sv : (s.setRem ld mb v).sv = s.sv := rfl
@[simp] theorem State.setRem_fences : (s.setRem ld mb v).fences = s.fences := rfl
@[simp] theorem State.setRem_lanes : (s.setRem ld mb v).lanes = s.lanes := rfl
@[simp] theorem State.setRem_pinst : (s.setRem ld mb v).pinst = s.pinst := rfl
@[simp] theorem State.setRem_busBits : (s.setRem ld mb v).busBits = s.busBits := rfl
@[simp] theorem State.setRem_outImg : (s.setRem ld mb v).outImg = s.outImg := rfl
@[simp] theorem State.setRem_outWords : (s.setRem ld mb v).outWords = s.outWords := rfl
@[simp] theorem State.setRem_frozen : (s.setRem ld mb v).frozen = s.frozen := rfl
@[simp] theorem State.setRem_frozenTick : (s.setRem ld mb v).frozenTick = s.frozenTick := rfl
@[simp] theorem State.setRem_pIn : (s.setRem ld mb v).pIn = s.pIn := rfl
@[simp] theorem State.setRem_capIn : (s.setRem ld mb v).capIn = s.capIn := rfl
@[simp] theorem State.setRem_cells : (s.setRem ld mb v).cells = s.cells := rfl
@[simp] theorem State.setRem_terms : (s.setRem ld mb v).terms = s.terms := rfl
@[simp] theorem State.setRem_fields : (s.setRem ld mb v).fields = s.fields := rfl
@[simp] theorem State.setRem_hbus : (s.setRem ld mb v).hbus = s.hbus := rfl
@[simp] theorem State.setRem_sieveP : (s.setRem ld mb v).sieveP = s.sieveP := rfl
@[simp] theorem State.setRem_sieveH : (s.setRem ld mb v).sieveH = s.sieveH := rfl
@[simp] theorem State.setRem_sieveDie : (s.setRem ld mb v).sieveDie = s.sieveDie := rfl
@[simp] theorem State.setRem_rings : (s.setRem ld mb v).rings = s.rings := rfl
@[simp] theorem State.setRem_ports : (s.setRem ld mb v).ports = s.ports := rfl
@[simp] theorem State.setRem_furP : (s.setRem ld mb v).furP = s.furP := rfl
@[simp] theorem State.setRem_furH : (s.setRem ld mb v).furH = s.furH := rfl
@[simp] theorem State.setRem_marksP : (s.setRem ld mb v).marksP = s.marksP := rfl
@[simp] theorem State.setRem_marksH : (s.setRem ld mb v).marksH = s.marksH := rfl
@[simp] theorem State.setRem_zoneP : (s.setRem ld mb v).zoneP = s.zoneP := rfl
@[simp] theorem State.setRem_htxH : (s.setRem ld mb v).htxH = s.htxH := rfl
@[simp] theorem State.setRem_htxMarks : (s.setRem ld mb v).htxMarks = s.htxMarks := rfl
@[simp] theorem State.setRem_mbOrder : (s.setRem ld mb v).mbOrder = s.mbOrder := rfl
@[simp] theorem State.setRem_xferC : (s.setRem ld mb v).xferC = s.xferC := rfl
@[simp] theorem State.setRem_xferF : (s.setRem ld mb v).xferF = s.xferF := rfl
@[simp] theorem State.setRem_xferSeq : (s.setRem ld mb v).xferSeq = s.xferSeq := rfl
@[simp] theorem State.setRem_fwStaged : (s.setRem ld mb v).fwStaged = s.fwStaged := rfl
@[simp] theorem State.setRem_image : (s.setRem ld mb v).image = s.image := rfl
@[simp] theorem State.setRem_soak : (s.setRem ld mb v).soak = s.soak := rfl
@[simp] theorem State.setRem_standby : (s.setRem ld mb v).standby = s.standby := rfl
@[simp] theorem State.setRem_seals : (s.setRem ld mb v).seals = s.seals := rfl
@[simp] theorem State.setRem_spm : (s.setRem ld mb v).spm = s.spm := rfl
@[simp] theorem State.setRem_tap : (s.setRem ld mb v).tap = s.tap := rfl
@[simp] theorem State.setRem_tapRegs : (s.setRem ld mb v).tapRegs = s.tapRegs := rfl
@[simp] theorem State.setRem_prpg : (s.setRem ld mb v).prpg = s.prpg := rfl
@[simp] theorem State.setRem_vaultIn : (s.setRem ld mb v).vaultIn = s.vaultIn := rfl
@[simp] theorem State.setRem_vaultOpen : (s.setRem ld mb v).vaultOpen = s.vaultOpen := rfl
@[simp] theorem State.setRem_host : (s.setRem ld mb v).host = s.host := rfl
@[simp] theorem State.setRem_bootRec : (s.setRem ld mb v).bootRec = s.bootRec := rfl
@[simp] theorem State.setRem_otpOp : (s.setRem ld mb v).otpOp = s.otpOp := rfl
@[simp] theorem State.setRem_sent : (s.setRem ld mb v).sent = s.sent := rfl
@[simp] theorem State.setRem_results : (s.setRem ld mb v).results = s.results := rfl
@[simp] theorem State.setRem_busErr : (s.setRem ld mb v).busErr = s.busErr := rfl
@[simp] theorem State.setRem_freeCtr : (s.setRem ld mb v).freeCtr = s.freeCtr := rfl
@[simp] theorem State.setRem_pending : (s.setRem ld mb v).pending = s.pending := rfl
@[simp] theorem State.setRem_lane (ld' l : Nat) : (s.setRem ld mb v).lane ld' l = s.lane ld' l := rfl
@[simp] theorem State.setRem_inst (iid : Nat) : (s.setRem ld mb v).inst iid = s.inst iid := rfl
@[simp] theorem State.setRem_bus (iid b : Nat) : (s.setRem ld mb v).bus iid b = s.bus iid b := rfl
@[simp] theorem State.setRem_words (ld' fd : Nat) : (s.setRem ld mb v).words ld' fd = s.words ld' fd := rfl
@[simp] theorem State.setRem_frozenWord (ld' fd t : Nat) : (s.setRem ld mb v).frozenWord ld' fd t = s.frozenWord ld' fd t := rfl
@[simp] theorem State.setRem_frozenAt (ld' fd : Nat) : (s.setRem ld mb v).frozenAt ld' fd = s.frozenAt ld' fd := rfl
@[simp] theorem State.setRem_pRead (ld' fd t : Nat) : (s.setRem ld mb v).pRead ld' fd t = s.pRead ld' fd t := rfl
@[simp] theorem State.setRem_capDue (die n : Nat) : (s.setRem ld mb v).capDue die n = s.capDue die n := rfl
@[simp] theorem State.setRem_cell (fd c : Nat) : (s.setRem ld mb v).cell fd c = s.cell fd c := rfl
@[simp] theorem State.setRem_term (fd t : Nat) : (s.setRem ld mb v).term fd t = s.term fd t := rfl
@[simp] theorem State.setRem_field (fd : Nat) : (s.setRem ld mb v).field fd = s.field fd := rfl
@[simp] theorem State.setRem_hbit (fd k : Nat) : (s.setRem ld mb v).hbit fd k = s.hbit fd k := rfl
@[simp] theorem State.setRem_svP (ld' iid : Nat) : (s.setRem ld mb v).svP ld' iid = s.svP ld' iid := rfl
@[simp] theorem State.setRem_svH (fd c : Nat) : (s.setRem ld mb v).svH fd c = s.svH fd c := rfl
@[simp] theorem State.setRem_svDie (die : Nat) : (s.setRem ld mb v).svDie die = s.svDie die := rfl
@[simp] theorem State.setRem_ring (ld' : Nat) : (s.setRem ld mb v).ring ld' = s.ring ld' := rfl
@[simp] theorem State.setRem_port (ld' p : Nat) : (s.setRem ld mb v).port ld' p = s.port ld' p := rfl
@[simp] theorem State.setRem_job (ld' e : Nat) : (s.setRem ld mb v).job ld' e = s.job ld' e := rfl
@[simp] theorem State.setRem_svst (ld' : Nat) : (s.setRem ld mb v).svst ld' = s.svst ld' := rfl
@[simp] theorem State.setRem_stby (ld' n : Nat) : (s.setRem ld mb v).stby ld' n = s.stby ld' n := rfl
@[simp] theorem State.setRem_sealSt (die : Nat) : (s.setRem ld mb v).sealSt die = s.sealSt die := rfl
@[simp] theorem State.setRem_spmSt (ld' : Nat) : (s.setRem ld mb v).spmSt ld' = s.spmSt ld' := rfl
@[simp] theorem State.setRem_otpWord (w : Nat) : (s.setRem ld mb v).otpWord w = s.otpWord w := rfl
@[simp] theorem State.setRem_byte (a : Nat) : (s.setRem ld mb v).byte a = s.byte a := rfl
@[simp] theorem State.setRem_eccClass (ld' off : Nat) : (s.setRem ld mb v).eccClass ld' off = s.eccClass ld' off := rfl
@[simp] theorem State.setRem_flashByte (a : Nat) : (s.setRem ld mb v).flashByte a = s.flashByte a := rfl
@[simp] theorem State.setRem_get (G : Fld) (e j : Nat) : (s.setRem ld mb v).get G e j = s.get G e j := rfl
@[simp] theorem State.setRem_flag (G : Fld) (e j : Nat) : (s.setRem ld mb v).flag G e j = s.flag G e j := rfl
@[simp] theorem State.setRem_outBit (ld' e : Nat) : (s.setRem ld mb v).outBit ld' e = s.outBit ld' e := rfl
@[simp] theorem State.setRem_free : (s.setRem ld mb v).free = s.free := rfl
@[simp] theorem State.setRem_choice : (s.setRem ld mb v).choice = s.choice := rfl

end

/-! ### `State.setStby` -/

section
variable (s : State) (ld n : Nat) (v : Standby)

@[simp] theorem State.setStby_variant : (s.setStby ld n v).variant = s.variant := rfl
@[simp] theorem State.setStby_rev : (s.setStby ld n v).rev = s.rev := rfl
@[simp] theorem State.setStby_regs : (s.setStby ld n v).regs = s.regs := rfl
@[simp] theorem State.setStby_mem : (s.setStby ld n v).mem = s.mem := rfl
@[simp] theorem State.setStby_ecc : (s.setStby ld n v).ecc = s.ecc := rfl
@[simp] theorem State.setStby_flash : (s.setStby ld n v).flash = s.flash := rfl
@[simp] theorem State.setStby_otp : (s.setStby ld n v).otp = s.otp := rfl
@[simp] theorem State.setStby_part : (s.setStby ld n v).part = s.part := rfl
@[simp] theorem State.setStby_tick : (s.setStby ld n v).tick = s.tick := rfl
@[simp] theorem State.setStby_tnumLatch : (s.setStby ld n v).tnumLatch = s.tnumLatch := rfl
@[simp] theorem State.setStby_extRun : (s.setStby ld n v).extRun = s.extRun := rfl
@[simp] theorem State.setStby_jobs : (s.setStby ld n v).jobs = s.jobs := rfl
@[simp] theorem State.setStby_flog : (s.setStby ld n v).flog = s.flog := rfl
@[simp] theorem State.setStby_sv : (s.setStby ld n v).sv = s.sv := rfl
@[simp] theorem State.setStby_fences : (s.setStby ld n v).fences = s.fences := rfl
@[simp] theorem State.setStby_lanes : (s.setStby ld n v).lanes = s.lanes := rfl
@[simp] theorem State.setStby_pinst : (s.setStby ld n v).pinst = s.pinst := rfl
@[simp] theorem State.setStby_busBits : (s.setStby ld n v).busBits = s.busBits := rfl
@[simp] theorem State.setStby_outImg : (s.setStby ld n v).outImg = s.outImg := rfl
@[simp] theorem State.setStby_outWords : (s.setStby ld n v).outWords = s.outWords := rfl
@[simp] theorem State.setStby_frozen : (s.setStby ld n v).frozen = s.frozen := rfl
@[simp] theorem State.setStby_frozenTick : (s.setStby ld n v).frozenTick = s.frozenTick := rfl
@[simp] theorem State.setStby_pIn : (s.setStby ld n v).pIn = s.pIn := rfl
@[simp] theorem State.setStby_capIn : (s.setStby ld n v).capIn = s.capIn := rfl
@[simp] theorem State.setStby_cells : (s.setStby ld n v).cells = s.cells := rfl
@[simp] theorem State.setStby_terms : (s.setStby ld n v).terms = s.terms := rfl
@[simp] theorem State.setStby_fields : (s.setStby ld n v).fields = s.fields := rfl
@[simp] theorem State.setStby_hbus : (s.setStby ld n v).hbus = s.hbus := rfl
@[simp] theorem State.setStby_sieveP : (s.setStby ld n v).sieveP = s.sieveP := rfl
@[simp] theorem State.setStby_sieveH : (s.setStby ld n v).sieveH = s.sieveH := rfl
@[simp] theorem State.setStby_sieveDie : (s.setStby ld n v).sieveDie = s.sieveDie := rfl
@[simp] theorem State.setStby_rings : (s.setStby ld n v).rings = s.rings := rfl
@[simp] theorem State.setStby_ports : (s.setStby ld n v).ports = s.ports := rfl
@[simp] theorem State.setStby_furP : (s.setStby ld n v).furP = s.furP := rfl
@[simp] theorem State.setStby_furH : (s.setStby ld n v).furH = s.furH := rfl
@[simp] theorem State.setStby_marksP : (s.setStby ld n v).marksP = s.marksP := rfl
@[simp] theorem State.setStby_marksH : (s.setStby ld n v).marksH = s.marksH := rfl
@[simp] theorem State.setStby_zoneP : (s.setStby ld n v).zoneP = s.zoneP := rfl
@[simp] theorem State.setStby_htxH : (s.setStby ld n v).htxH = s.htxH := rfl
@[simp] theorem State.setStby_htxMarks : (s.setStby ld n v).htxMarks = s.htxMarks := rfl
@[simp] theorem State.setStby_mbOrder : (s.setStby ld n v).mbOrder = s.mbOrder := rfl
@[simp] theorem State.setStby_remote : (s.setStby ld n v).remote = s.remote := rfl
@[simp] theorem State.setStby_xferC : (s.setStby ld n v).xferC = s.xferC := rfl
@[simp] theorem State.setStby_xferF : (s.setStby ld n v).xferF = s.xferF := rfl
@[simp] theorem State.setStby_xferSeq : (s.setStby ld n v).xferSeq = s.xferSeq := rfl
@[simp] theorem State.setStby_fwStaged : (s.setStby ld n v).fwStaged = s.fwStaged := rfl
@[simp] theorem State.setStby_image : (s.setStby ld n v).image = s.image := rfl
@[simp] theorem State.setStby_soak : (s.setStby ld n v).soak = s.soak := rfl
@[simp] theorem State.setStby_seals : (s.setStby ld n v).seals = s.seals := rfl
@[simp] theorem State.setStby_spm : (s.setStby ld n v).spm = s.spm := rfl
@[simp] theorem State.setStby_tap : (s.setStby ld n v).tap = s.tap := rfl
@[simp] theorem State.setStby_tapRegs : (s.setStby ld n v).tapRegs = s.tapRegs := rfl
@[simp] theorem State.setStby_prpg : (s.setStby ld n v).prpg = s.prpg := rfl
@[simp] theorem State.setStby_vaultIn : (s.setStby ld n v).vaultIn = s.vaultIn := rfl
@[simp] theorem State.setStby_vaultOpen : (s.setStby ld n v).vaultOpen = s.vaultOpen := rfl
@[simp] theorem State.setStby_host : (s.setStby ld n v).host = s.host := rfl
@[simp] theorem State.setStby_bootRec : (s.setStby ld n v).bootRec = s.bootRec := rfl
@[simp] theorem State.setStby_otpOp : (s.setStby ld n v).otpOp = s.otpOp := rfl
@[simp] theorem State.setStby_sent : (s.setStby ld n v).sent = s.sent := rfl
@[simp] theorem State.setStby_results : (s.setStby ld n v).results = s.results := rfl
@[simp] theorem State.setStby_busErr : (s.setStby ld n v).busErr = s.busErr := rfl
@[simp] theorem State.setStby_freeCtr : (s.setStby ld n v).freeCtr = s.freeCtr := rfl
@[simp] theorem State.setStby_pending : (s.setStby ld n v).pending = s.pending := rfl
@[simp] theorem State.setStby_lane (ld' l : Nat) : (s.setStby ld n v).lane ld' l = s.lane ld' l := rfl
@[simp] theorem State.setStby_inst (iid : Nat) : (s.setStby ld n v).inst iid = s.inst iid := rfl
@[simp] theorem State.setStby_bus (iid b : Nat) : (s.setStby ld n v).bus iid b = s.bus iid b := rfl
@[simp] theorem State.setStby_words (ld' fd : Nat) : (s.setStby ld n v).words ld' fd = s.words ld' fd := rfl
@[simp] theorem State.setStby_frozenWord (ld' fd t : Nat) : (s.setStby ld n v).frozenWord ld' fd t = s.frozenWord ld' fd t := rfl
@[simp] theorem State.setStby_frozenAt (ld' fd : Nat) : (s.setStby ld n v).frozenAt ld' fd = s.frozenAt ld' fd := rfl
@[simp] theorem State.setStby_pRead (ld' fd t : Nat) : (s.setStby ld n v).pRead ld' fd t = s.pRead ld' fd t := rfl
@[simp] theorem State.setStby_capDue (die n' : Nat) : (s.setStby ld n v).capDue die n' = s.capDue die n' := rfl
@[simp] theorem State.setStby_cell (fd c : Nat) : (s.setStby ld n v).cell fd c = s.cell fd c := rfl
@[simp] theorem State.setStby_term (fd t : Nat) : (s.setStby ld n v).term fd t = s.term fd t := rfl
@[simp] theorem State.setStby_field (fd : Nat) : (s.setStby ld n v).field fd = s.field fd := rfl
@[simp] theorem State.setStby_hbit (fd k : Nat) : (s.setStby ld n v).hbit fd k = s.hbit fd k := rfl
@[simp] theorem State.setStby_svP (ld' iid : Nat) : (s.setStby ld n v).svP ld' iid = s.svP ld' iid := rfl
@[simp] theorem State.setStby_svH (fd c : Nat) : (s.setStby ld n v).svH fd c = s.svH fd c := rfl
@[simp] theorem State.setStby_svDie (die : Nat) : (s.setStby ld n v).svDie die = s.svDie die := rfl
@[simp] theorem State.setStby_ring (ld' : Nat) : (s.setStby ld n v).ring ld' = s.ring ld' := rfl
@[simp] theorem State.setStby_port (ld' p : Nat) : (s.setStby ld n v).port ld' p = s.port ld' p := rfl
@[simp] theorem State.setStby_job (ld' e : Nat) : (s.setStby ld n v).job ld' e = s.job ld' e := rfl
@[simp] theorem State.setStby_svst (ld' : Nat) : (s.setStby ld n v).svst ld' = s.svst ld' := rfl
@[simp] theorem State.setStby_rem (ld' mb : Nat) : (s.setStby ld n v).rem ld' mb = s.rem ld' mb := rfl
@[simp] theorem State.setStby_sealSt (die : Nat) : (s.setStby ld n v).sealSt die = s.sealSt die := rfl
@[simp] theorem State.setStby_spmSt (ld' : Nat) : (s.setStby ld n v).spmSt ld' = s.spmSt ld' := rfl
@[simp] theorem State.setStby_otpWord (w : Nat) : (s.setStby ld n v).otpWord w = s.otpWord w := rfl
@[simp] theorem State.setStby_byte (a : Nat) : (s.setStby ld n v).byte a = s.byte a := rfl
@[simp] theorem State.setStby_eccClass (ld' off : Nat) : (s.setStby ld n v).eccClass ld' off = s.eccClass ld' off := rfl
@[simp] theorem State.setStby_flashByte (a : Nat) : (s.setStby ld n v).flashByte a = s.flashByte a := rfl
@[simp] theorem State.setStby_get (G : Fld) (e j : Nat) : (s.setStby ld n v).get G e j = s.get G e j := rfl
@[simp] theorem State.setStby_flag (G : Fld) (e j : Nat) : (s.setStby ld n v).flag G e j = s.flag G e j := rfl
@[simp] theorem State.setStby_outBit (ld' e : Nat) : (s.setStby ld n v).outBit ld' e = s.outBit ld' e := rfl
@[simp] theorem State.setStby_free : (s.setStby ld n v).free = s.free := rfl
@[simp] theorem State.setStby_choice : (s.setStby ld n v).choice = s.choice := rfl

end

/-! ### `State.setSeal` -/

section
variable (s : State) (die : Nat) (v : SealSt)

@[simp] theorem State.setSeal_variant : (s.setSeal die v).variant = s.variant := rfl
@[simp] theorem State.setSeal_rev : (s.setSeal die v).rev = s.rev := rfl
@[simp] theorem State.setSeal_regs : (s.setSeal die v).regs = s.regs := rfl
@[simp] theorem State.setSeal_mem : (s.setSeal die v).mem = s.mem := rfl
@[simp] theorem State.setSeal_ecc : (s.setSeal die v).ecc = s.ecc := rfl
@[simp] theorem State.setSeal_flash : (s.setSeal die v).flash = s.flash := rfl
@[simp] theorem State.setSeal_otp : (s.setSeal die v).otp = s.otp := rfl
@[simp] theorem State.setSeal_part : (s.setSeal die v).part = s.part := rfl
@[simp] theorem State.setSeal_tick : (s.setSeal die v).tick = s.tick := rfl
@[simp] theorem State.setSeal_tnumLatch : (s.setSeal die v).tnumLatch = s.tnumLatch := rfl
@[simp] theorem State.setSeal_extRun : (s.setSeal die v).extRun = s.extRun := rfl
@[simp] theorem State.setSeal_jobs : (s.setSeal die v).jobs = s.jobs := rfl
@[simp] theorem State.setSeal_flog : (s.setSeal die v).flog = s.flog := rfl
@[simp] theorem State.setSeal_sv : (s.setSeal die v).sv = s.sv := rfl
@[simp] theorem State.setSeal_fences : (s.setSeal die v).fences = s.fences := rfl
@[simp] theorem State.setSeal_lanes : (s.setSeal die v).lanes = s.lanes := rfl
@[simp] theorem State.setSeal_pinst : (s.setSeal die v).pinst = s.pinst := rfl
@[simp] theorem State.setSeal_busBits : (s.setSeal die v).busBits = s.busBits := rfl
@[simp] theorem State.setSeal_outImg : (s.setSeal die v).outImg = s.outImg := rfl
@[simp] theorem State.setSeal_outWords : (s.setSeal die v).outWords = s.outWords := rfl
@[simp] theorem State.setSeal_frozen : (s.setSeal die v).frozen = s.frozen := rfl
@[simp] theorem State.setSeal_frozenTick : (s.setSeal die v).frozenTick = s.frozenTick := rfl
@[simp] theorem State.setSeal_pIn : (s.setSeal die v).pIn = s.pIn := rfl
@[simp] theorem State.setSeal_capIn : (s.setSeal die v).capIn = s.capIn := rfl
@[simp] theorem State.setSeal_cells : (s.setSeal die v).cells = s.cells := rfl
@[simp] theorem State.setSeal_terms : (s.setSeal die v).terms = s.terms := rfl
@[simp] theorem State.setSeal_fields : (s.setSeal die v).fields = s.fields := rfl
@[simp] theorem State.setSeal_hbus : (s.setSeal die v).hbus = s.hbus := rfl
@[simp] theorem State.setSeal_sieveP : (s.setSeal die v).sieveP = s.sieveP := rfl
@[simp] theorem State.setSeal_sieveH : (s.setSeal die v).sieveH = s.sieveH := rfl
@[simp] theorem State.setSeal_sieveDie : (s.setSeal die v).sieveDie = s.sieveDie := rfl
@[simp] theorem State.setSeal_rings : (s.setSeal die v).rings = s.rings := rfl
@[simp] theorem State.setSeal_ports : (s.setSeal die v).ports = s.ports := rfl
@[simp] theorem State.setSeal_furP : (s.setSeal die v).furP = s.furP := rfl
@[simp] theorem State.setSeal_furH : (s.setSeal die v).furH = s.furH := rfl
@[simp] theorem State.setSeal_marksP : (s.setSeal die v).marksP = s.marksP := rfl
@[simp] theorem State.setSeal_marksH : (s.setSeal die v).marksH = s.marksH := rfl
@[simp] theorem State.setSeal_zoneP : (s.setSeal die v).zoneP = s.zoneP := rfl
@[simp] theorem State.setSeal_htxH : (s.setSeal die v).htxH = s.htxH := rfl
@[simp] theorem State.setSeal_htxMarks : (s.setSeal die v).htxMarks = s.htxMarks := rfl
@[simp] theorem State.setSeal_mbOrder : (s.setSeal die v).mbOrder = s.mbOrder := rfl
@[simp] theorem State.setSeal_remote : (s.setSeal die v).remote = s.remote := rfl
@[simp] theorem State.setSeal_xferC : (s.setSeal die v).xferC = s.xferC := rfl
@[simp] theorem State.setSeal_xferF : (s.setSeal die v).xferF = s.xferF := rfl
@[simp] theorem State.setSeal_xferSeq : (s.setSeal die v).xferSeq = s.xferSeq := rfl
@[simp] theorem State.setSeal_fwStaged : (s.setSeal die v).fwStaged = s.fwStaged := rfl
@[simp] theorem State.setSeal_image : (s.setSeal die v).image = s.image := rfl
@[simp] theorem State.setSeal_soak : (s.setSeal die v).soak = s.soak := rfl
@[simp] theorem State.setSeal_standby : (s.setSeal die v).standby = s.standby := rfl
@[simp] theorem State.setSeal_spm : (s.setSeal die v).spm = s.spm := rfl
@[simp] theorem State.setSeal_tap : (s.setSeal die v).tap = s.tap := rfl
@[simp] theorem State.setSeal_tapRegs : (s.setSeal die v).tapRegs = s.tapRegs := rfl
@[simp] theorem State.setSeal_prpg : (s.setSeal die v).prpg = s.prpg := rfl
@[simp] theorem State.setSeal_vaultIn : (s.setSeal die v).vaultIn = s.vaultIn := rfl
@[simp] theorem State.setSeal_vaultOpen : (s.setSeal die v).vaultOpen = s.vaultOpen := rfl
@[simp] theorem State.setSeal_host : (s.setSeal die v).host = s.host := rfl
@[simp] theorem State.setSeal_bootRec : (s.setSeal die v).bootRec = s.bootRec := rfl
@[simp] theorem State.setSeal_otpOp : (s.setSeal die v).otpOp = s.otpOp := rfl
@[simp] theorem State.setSeal_sent : (s.setSeal die v).sent = s.sent := rfl
@[simp] theorem State.setSeal_results : (s.setSeal die v).results = s.results := rfl
@[simp] theorem State.setSeal_busErr : (s.setSeal die v).busErr = s.busErr := rfl
@[simp] theorem State.setSeal_freeCtr : (s.setSeal die v).freeCtr = s.freeCtr := rfl
@[simp] theorem State.setSeal_pending : (s.setSeal die v).pending = s.pending := rfl
@[simp] theorem State.setSeal_lane (ld l : Nat) : (s.setSeal die v).lane ld l = s.lane ld l := rfl
@[simp] theorem State.setSeal_inst (iid : Nat) : (s.setSeal die v).inst iid = s.inst iid := rfl
@[simp] theorem State.setSeal_bus (iid b : Nat) : (s.setSeal die v).bus iid b = s.bus iid b := rfl
@[simp] theorem State.setSeal_words (ld fd : Nat) : (s.setSeal die v).words ld fd = s.words ld fd := rfl
@[simp] theorem State.setSeal_frozenWord (ld fd t : Nat) : (s.setSeal die v).frozenWord ld fd t = s.frozenWord ld fd t := rfl
@[simp] theorem State.setSeal_frozenAt (ld fd : Nat) : (s.setSeal die v).frozenAt ld fd = s.frozenAt ld fd := rfl
@[simp] theorem State.setSeal_pRead (ld fd t : Nat) : (s.setSeal die v).pRead ld fd t = s.pRead ld fd t := rfl
@[simp] theorem State.setSeal_capDue (die' n : Nat) : (s.setSeal die v).capDue die' n = s.capDue die' n := rfl
@[simp] theorem State.setSeal_cell (fd c : Nat) : (s.setSeal die v).cell fd c = s.cell fd c := rfl
@[simp] theorem State.setSeal_term (fd t : Nat) : (s.setSeal die v).term fd t = s.term fd t := rfl
@[simp] theorem State.setSeal_field (fd : Nat) : (s.setSeal die v).field fd = s.field fd := rfl
@[simp] theorem State.setSeal_hbit (fd k : Nat) : (s.setSeal die v).hbit fd k = s.hbit fd k := rfl
@[simp] theorem State.setSeal_svP (ld iid : Nat) : (s.setSeal die v).svP ld iid = s.svP ld iid := rfl
@[simp] theorem State.setSeal_svH (fd c : Nat) : (s.setSeal die v).svH fd c = s.svH fd c := rfl
@[simp] theorem State.setSeal_svDie (die' : Nat) : (s.setSeal die v).svDie die' = s.svDie die' := rfl
@[simp] theorem State.setSeal_ring (ld : Nat) : (s.setSeal die v).ring ld = s.ring ld := rfl
@[simp] theorem State.setSeal_port (ld p : Nat) : (s.setSeal die v).port ld p = s.port ld p := rfl
@[simp] theorem State.setSeal_job (ld e : Nat) : (s.setSeal die v).job ld e = s.job ld e := rfl
@[simp] theorem State.setSeal_svst (ld : Nat) : (s.setSeal die v).svst ld = s.svst ld := rfl
@[simp] theorem State.setSeal_rem (ld mb : Nat) : (s.setSeal die v).rem ld mb = s.rem ld mb := rfl
@[simp] theorem State.setSeal_stby (ld n : Nat) : (s.setSeal die v).stby ld n = s.stby ld n := rfl
@[simp] theorem State.setSeal_spmSt (ld : Nat) : (s.setSeal die v).spmSt ld = s.spmSt ld := rfl
@[simp] theorem State.setSeal_otpWord (w : Nat) : (s.setSeal die v).otpWord w = s.otpWord w := rfl
@[simp] theorem State.setSeal_byte (a : Nat) : (s.setSeal die v).byte a = s.byte a := rfl
@[simp] theorem State.setSeal_eccClass (ld off : Nat) : (s.setSeal die v).eccClass ld off = s.eccClass ld off := rfl
@[simp] theorem State.setSeal_flashByte (a : Nat) : (s.setSeal die v).flashByte a = s.flashByte a := rfl
@[simp] theorem State.setSeal_get (G : Fld) (e j : Nat) : (s.setSeal die v).get G e j = s.get G e j := rfl
@[simp] theorem State.setSeal_flag (G : Fld) (e j : Nat) : (s.setSeal die v).flag G e j = s.flag G e j := rfl
@[simp] theorem State.setSeal_outBit (ld e : Nat) : (s.setSeal die v).outBit ld e = s.outBit ld e := rfl
@[simp] theorem State.setSeal_free : (s.setSeal die v).free = s.free := rfl
@[simp] theorem State.setSeal_choice : (s.setSeal die v).choice = s.choice := rfl

end

/-! ### `State.setSpm` -/

section
variable (s : State) (ld : Nat) (v : SpmSt)

@[simp] theorem State.setSpm_variant : (s.setSpm ld v).variant = s.variant := rfl
@[simp] theorem State.setSpm_rev : (s.setSpm ld v).rev = s.rev := rfl
@[simp] theorem State.setSpm_regs : (s.setSpm ld v).regs = s.regs := rfl
@[simp] theorem State.setSpm_mem : (s.setSpm ld v).mem = s.mem := rfl
@[simp] theorem State.setSpm_ecc : (s.setSpm ld v).ecc = s.ecc := rfl
@[simp] theorem State.setSpm_flash : (s.setSpm ld v).flash = s.flash := rfl
@[simp] theorem State.setSpm_otp : (s.setSpm ld v).otp = s.otp := rfl
@[simp] theorem State.setSpm_part : (s.setSpm ld v).part = s.part := rfl
@[simp] theorem State.setSpm_tick : (s.setSpm ld v).tick = s.tick := rfl
@[simp] theorem State.setSpm_tnumLatch : (s.setSpm ld v).tnumLatch = s.tnumLatch := rfl
@[simp] theorem State.setSpm_extRun : (s.setSpm ld v).extRun = s.extRun := rfl
@[simp] theorem State.setSpm_jobs : (s.setSpm ld v).jobs = s.jobs := rfl
@[simp] theorem State.setSpm_flog : (s.setSpm ld v).flog = s.flog := rfl
@[simp] theorem State.setSpm_sv : (s.setSpm ld v).sv = s.sv := rfl
@[simp] theorem State.setSpm_fences : (s.setSpm ld v).fences = s.fences := rfl
@[simp] theorem State.setSpm_lanes : (s.setSpm ld v).lanes = s.lanes := rfl
@[simp] theorem State.setSpm_pinst : (s.setSpm ld v).pinst = s.pinst := rfl
@[simp] theorem State.setSpm_busBits : (s.setSpm ld v).busBits = s.busBits := rfl
@[simp] theorem State.setSpm_outImg : (s.setSpm ld v).outImg = s.outImg := rfl
@[simp] theorem State.setSpm_outWords : (s.setSpm ld v).outWords = s.outWords := rfl
@[simp] theorem State.setSpm_frozen : (s.setSpm ld v).frozen = s.frozen := rfl
@[simp] theorem State.setSpm_frozenTick : (s.setSpm ld v).frozenTick = s.frozenTick := rfl
@[simp] theorem State.setSpm_pIn : (s.setSpm ld v).pIn = s.pIn := rfl
@[simp] theorem State.setSpm_capIn : (s.setSpm ld v).capIn = s.capIn := rfl
@[simp] theorem State.setSpm_cells : (s.setSpm ld v).cells = s.cells := rfl
@[simp] theorem State.setSpm_terms : (s.setSpm ld v).terms = s.terms := rfl
@[simp] theorem State.setSpm_fields : (s.setSpm ld v).fields = s.fields := rfl
@[simp] theorem State.setSpm_hbus : (s.setSpm ld v).hbus = s.hbus := rfl
@[simp] theorem State.setSpm_sieveP : (s.setSpm ld v).sieveP = s.sieveP := rfl
@[simp] theorem State.setSpm_sieveH : (s.setSpm ld v).sieveH = s.sieveH := rfl
@[simp] theorem State.setSpm_sieveDie : (s.setSpm ld v).sieveDie = s.sieveDie := rfl
@[simp] theorem State.setSpm_rings : (s.setSpm ld v).rings = s.rings := rfl
@[simp] theorem State.setSpm_ports : (s.setSpm ld v).ports = s.ports := rfl
@[simp] theorem State.setSpm_furP : (s.setSpm ld v).furP = s.furP := rfl
@[simp] theorem State.setSpm_furH : (s.setSpm ld v).furH = s.furH := rfl
@[simp] theorem State.setSpm_marksP : (s.setSpm ld v).marksP = s.marksP := rfl
@[simp] theorem State.setSpm_marksH : (s.setSpm ld v).marksH = s.marksH := rfl
@[simp] theorem State.setSpm_zoneP : (s.setSpm ld v).zoneP = s.zoneP := rfl
@[simp] theorem State.setSpm_htxH : (s.setSpm ld v).htxH = s.htxH := rfl
@[simp] theorem State.setSpm_htxMarks : (s.setSpm ld v).htxMarks = s.htxMarks := rfl
@[simp] theorem State.setSpm_mbOrder : (s.setSpm ld v).mbOrder = s.mbOrder := rfl
@[simp] theorem State.setSpm_remote : (s.setSpm ld v).remote = s.remote := rfl
@[simp] theorem State.setSpm_xferC : (s.setSpm ld v).xferC = s.xferC := rfl
@[simp] theorem State.setSpm_xferF : (s.setSpm ld v).xferF = s.xferF := rfl
@[simp] theorem State.setSpm_xferSeq : (s.setSpm ld v).xferSeq = s.xferSeq := rfl
@[simp] theorem State.setSpm_fwStaged : (s.setSpm ld v).fwStaged = s.fwStaged := rfl
@[simp] theorem State.setSpm_image : (s.setSpm ld v).image = s.image := rfl
@[simp] theorem State.setSpm_soak : (s.setSpm ld v).soak = s.soak := rfl
@[simp] theorem State.setSpm_standby : (s.setSpm ld v).standby = s.standby := rfl
@[simp] theorem State.setSpm_seals : (s.setSpm ld v).seals = s.seals := rfl
@[simp] theorem State.setSpm_tap : (s.setSpm ld v).tap = s.tap := rfl
@[simp] theorem State.setSpm_tapRegs : (s.setSpm ld v).tapRegs = s.tapRegs := rfl
@[simp] theorem State.setSpm_prpg : (s.setSpm ld v).prpg = s.prpg := rfl
@[simp] theorem State.setSpm_vaultIn : (s.setSpm ld v).vaultIn = s.vaultIn := rfl
@[simp] theorem State.setSpm_vaultOpen : (s.setSpm ld v).vaultOpen = s.vaultOpen := rfl
@[simp] theorem State.setSpm_host : (s.setSpm ld v).host = s.host := rfl
@[simp] theorem State.setSpm_bootRec : (s.setSpm ld v).bootRec = s.bootRec := rfl
@[simp] theorem State.setSpm_otpOp : (s.setSpm ld v).otpOp = s.otpOp := rfl
@[simp] theorem State.setSpm_sent : (s.setSpm ld v).sent = s.sent := rfl
@[simp] theorem State.setSpm_results : (s.setSpm ld v).results = s.results := rfl
@[simp] theorem State.setSpm_busErr : (s.setSpm ld v).busErr = s.busErr := rfl
@[simp] theorem State.setSpm_freeCtr : (s.setSpm ld v).freeCtr = s.freeCtr := rfl
@[simp] theorem State.setSpm_pending : (s.setSpm ld v).pending = s.pending := rfl
@[simp] theorem State.setSpm_lane (ld' l : Nat) : (s.setSpm ld v).lane ld' l = s.lane ld' l := rfl
@[simp] theorem State.setSpm_inst (iid : Nat) : (s.setSpm ld v).inst iid = s.inst iid := rfl
@[simp] theorem State.setSpm_bus (iid b : Nat) : (s.setSpm ld v).bus iid b = s.bus iid b := rfl
@[simp] theorem State.setSpm_words (ld' fd : Nat) : (s.setSpm ld v).words ld' fd = s.words ld' fd := rfl
@[simp] theorem State.setSpm_frozenWord (ld' fd t : Nat) : (s.setSpm ld v).frozenWord ld' fd t = s.frozenWord ld' fd t := rfl
@[simp] theorem State.setSpm_frozenAt (ld' fd : Nat) : (s.setSpm ld v).frozenAt ld' fd = s.frozenAt ld' fd := rfl
@[simp] theorem State.setSpm_pRead (ld' fd t : Nat) : (s.setSpm ld v).pRead ld' fd t = s.pRead ld' fd t := rfl
@[simp] theorem State.setSpm_capDue (die n : Nat) : (s.setSpm ld v).capDue die n = s.capDue die n := rfl
@[simp] theorem State.setSpm_cell (fd c : Nat) : (s.setSpm ld v).cell fd c = s.cell fd c := rfl
@[simp] theorem State.setSpm_term (fd t : Nat) : (s.setSpm ld v).term fd t = s.term fd t := rfl
@[simp] theorem State.setSpm_field (fd : Nat) : (s.setSpm ld v).field fd = s.field fd := rfl
@[simp] theorem State.setSpm_hbit (fd k : Nat) : (s.setSpm ld v).hbit fd k = s.hbit fd k := rfl
@[simp] theorem State.setSpm_svP (ld' iid : Nat) : (s.setSpm ld v).svP ld' iid = s.svP ld' iid := rfl
@[simp] theorem State.setSpm_svH (fd c : Nat) : (s.setSpm ld v).svH fd c = s.svH fd c := rfl
@[simp] theorem State.setSpm_svDie (die : Nat) : (s.setSpm ld v).svDie die = s.svDie die := rfl
@[simp] theorem State.setSpm_ring (ld' : Nat) : (s.setSpm ld v).ring ld' = s.ring ld' := rfl
@[simp] theorem State.setSpm_port (ld' p : Nat) : (s.setSpm ld v).port ld' p = s.port ld' p := rfl
@[simp] theorem State.setSpm_job (ld' e : Nat) : (s.setSpm ld v).job ld' e = s.job ld' e := rfl
@[simp] theorem State.setSpm_svst (ld' : Nat) : (s.setSpm ld v).svst ld' = s.svst ld' := rfl
@[simp] theorem State.setSpm_rem (ld' mb : Nat) : (s.setSpm ld v).rem ld' mb = s.rem ld' mb := rfl
@[simp] theorem State.setSpm_stby (ld' n : Nat) : (s.setSpm ld v).stby ld' n = s.stby ld' n := rfl
@[simp] theorem State.setSpm_sealSt (die : Nat) : (s.setSpm ld v).sealSt die = s.sealSt die := rfl
@[simp] theorem State.setSpm_otpWord (w : Nat) : (s.setSpm ld v).otpWord w = s.otpWord w := rfl
@[simp] theorem State.setSpm_byte (a : Nat) : (s.setSpm ld v).byte a = s.byte a := rfl
@[simp] theorem State.setSpm_eccClass (ld' off : Nat) : (s.setSpm ld v).eccClass ld' off = s.eccClass ld' off := rfl
@[simp] theorem State.setSpm_flashByte (a : Nat) : (s.setSpm ld v).flashByte a = s.flashByte a := rfl
@[simp] theorem State.setSpm_get (G : Fld) (e j : Nat) : (s.setSpm ld v).get G e j = s.get G e j := rfl
@[simp] theorem State.setSpm_flag (G : Fld) (e j : Nat) : (s.setSpm ld v).flag G e j = s.flag G e j := rfl
@[simp] theorem State.setSpm_outBit (ld' e : Nat) : (s.setSpm ld v).outBit ld' e = s.outBit ld' e := rfl
@[simp] theorem State.setSpm_free : (s.setSpm ld v).free = s.free := rfl
@[simp] theorem State.setSpm_choice : (s.setSpm ld v).choice = s.choice := rfl

end

/-! ### `State.setOtp` -/

section
variable (s : State) (w : Nat) (v : OtpWord)

@[simp] theorem State.setOtp_variant : (s.setOtp w v).variant = s.variant := rfl
@[simp] theorem State.setOtp_rev : (s.setOtp w v).rev = s.rev := rfl
@[simp] theorem State.setOtp_regs : (s.setOtp w v).regs = s.regs := rfl
@[simp] theorem State.setOtp_mem : (s.setOtp w v).mem = s.mem := rfl
@[simp] theorem State.setOtp_ecc : (s.setOtp w v).ecc = s.ecc := rfl
@[simp] theorem State.setOtp_flash : (s.setOtp w v).flash = s.flash := rfl
@[simp] theorem State.setOtp_part : (s.setOtp w v).part = s.part := rfl
@[simp] theorem State.setOtp_tick : (s.setOtp w v).tick = s.tick := rfl
@[simp] theorem State.setOtp_tnumLatch : (s.setOtp w v).tnumLatch = s.tnumLatch := rfl
@[simp] theorem State.setOtp_extRun : (s.setOtp w v).extRun = s.extRun := rfl
@[simp] theorem State.setOtp_jobs : (s.setOtp w v).jobs = s.jobs := rfl
@[simp] theorem State.setOtp_flog : (s.setOtp w v).flog = s.flog := rfl
@[simp] theorem State.setOtp_sv : (s.setOtp w v).sv = s.sv := rfl
@[simp] theorem State.setOtp_fences : (s.setOtp w v).fences = s.fences := rfl
@[simp] theorem State.setOtp_lanes : (s.setOtp w v).lanes = s.lanes := rfl
@[simp] theorem State.setOtp_pinst : (s.setOtp w v).pinst = s.pinst := rfl
@[simp] theorem State.setOtp_busBits : (s.setOtp w v).busBits = s.busBits := rfl
@[simp] theorem State.setOtp_outImg : (s.setOtp w v).outImg = s.outImg := rfl
@[simp] theorem State.setOtp_outWords : (s.setOtp w v).outWords = s.outWords := rfl
@[simp] theorem State.setOtp_frozen : (s.setOtp w v).frozen = s.frozen := rfl
@[simp] theorem State.setOtp_frozenTick : (s.setOtp w v).frozenTick = s.frozenTick := rfl
@[simp] theorem State.setOtp_pIn : (s.setOtp w v).pIn = s.pIn := rfl
@[simp] theorem State.setOtp_capIn : (s.setOtp w v).capIn = s.capIn := rfl
@[simp] theorem State.setOtp_cells : (s.setOtp w v).cells = s.cells := rfl
@[simp] theorem State.setOtp_terms : (s.setOtp w v).terms = s.terms := rfl
@[simp] theorem State.setOtp_fields : (s.setOtp w v).fields = s.fields := rfl
@[simp] theorem State.setOtp_hbus : (s.setOtp w v).hbus = s.hbus := rfl
@[simp] theorem State.setOtp_sieveP : (s.setOtp w v).sieveP = s.sieveP := rfl
@[simp] theorem State.setOtp_sieveH : (s.setOtp w v).sieveH = s.sieveH := rfl
@[simp] theorem State.setOtp_sieveDie : (s.setOtp w v).sieveDie = s.sieveDie := rfl
@[simp] theorem State.setOtp_rings : (s.setOtp w v).rings = s.rings := rfl
@[simp] theorem State.setOtp_ports : (s.setOtp w v).ports = s.ports := rfl
@[simp] theorem State.setOtp_furP : (s.setOtp w v).furP = s.furP := rfl
@[simp] theorem State.setOtp_furH : (s.setOtp w v).furH = s.furH := rfl
@[simp] theorem State.setOtp_marksP : (s.setOtp w v).marksP = s.marksP := rfl
@[simp] theorem State.setOtp_marksH : (s.setOtp w v).marksH = s.marksH := rfl
@[simp] theorem State.setOtp_zoneP : (s.setOtp w v).zoneP = s.zoneP := rfl
@[simp] theorem State.setOtp_htxH : (s.setOtp w v).htxH = s.htxH := rfl
@[simp] theorem State.setOtp_htxMarks : (s.setOtp w v).htxMarks = s.htxMarks := rfl
@[simp] theorem State.setOtp_mbOrder : (s.setOtp w v).mbOrder = s.mbOrder := rfl
@[simp] theorem State.setOtp_remote : (s.setOtp w v).remote = s.remote := rfl
@[simp] theorem State.setOtp_xferC : (s.setOtp w v).xferC = s.xferC := rfl
@[simp] theorem State.setOtp_xferF : (s.setOtp w v).xferF = s.xferF := rfl
@[simp] theorem State.setOtp_xferSeq : (s.setOtp w v).xferSeq = s.xferSeq := rfl
@[simp] theorem State.setOtp_fwStaged : (s.setOtp w v).fwStaged = s.fwStaged := rfl
@[simp] theorem State.setOtp_image : (s.setOtp w v).image = s.image := rfl
@[simp] theorem State.setOtp_soak : (s.setOtp w v).soak = s.soak := rfl
@[simp] theorem State.setOtp_standby : (s.setOtp w v).standby = s.standby := rfl
@[simp] theorem State.setOtp_seals : (s.setOtp w v).seals = s.seals := rfl
@[simp] theorem State.setOtp_spm : (s.setOtp w v).spm = s.spm := rfl
@[simp] theorem State.setOtp_tap : (s.setOtp w v).tap = s.tap := rfl
@[simp] theorem State.setOtp_tapRegs : (s.setOtp w v).tapRegs = s.tapRegs := rfl
@[simp] theorem State.setOtp_prpg : (s.setOtp w v).prpg = s.prpg := rfl
@[simp] theorem State.setOtp_vaultIn : (s.setOtp w v).vaultIn = s.vaultIn := rfl
@[simp] theorem State.setOtp_vaultOpen : (s.setOtp w v).vaultOpen = s.vaultOpen := rfl
@[simp] theorem State.setOtp_host : (s.setOtp w v).host = s.host := rfl
@[simp] theorem State.setOtp_bootRec : (s.setOtp w v).bootRec = s.bootRec := rfl
@[simp] theorem State.setOtp_otpOp : (s.setOtp w v).otpOp = s.otpOp := rfl
@[simp] theorem State.setOtp_sent : (s.setOtp w v).sent = s.sent := rfl
@[simp] theorem State.setOtp_results : (s.setOtp w v).results = s.results := rfl
@[simp] theorem State.setOtp_busErr : (s.setOtp w v).busErr = s.busErr := rfl
@[simp] theorem State.setOtp_freeCtr : (s.setOtp w v).freeCtr = s.freeCtr := rfl
@[simp] theorem State.setOtp_pending : (s.setOtp w v).pending = s.pending := rfl
@[simp] theorem State.setOtp_lane (ld l : Nat) : (s.setOtp w v).lane ld l = s.lane ld l := rfl
@[simp] theorem State.setOtp_inst (iid : Nat) : (s.setOtp w v).inst iid = s.inst iid := rfl
@[simp] theorem State.setOtp_bus (iid b : Nat) : (s.setOtp w v).bus iid b = s.bus iid b := rfl
@[simp] theorem State.setOtp_words (ld fd : Nat) : (s.setOtp w v).words ld fd = s.words ld fd := rfl
@[simp] theorem State.setOtp_frozenWord (ld fd t : Nat) : (s.setOtp w v).frozenWord ld fd t = s.frozenWord ld fd t := rfl
@[simp] theorem State.setOtp_frozenAt (ld fd : Nat) : (s.setOtp w v).frozenAt ld fd = s.frozenAt ld fd := rfl
@[simp] theorem State.setOtp_pRead (ld fd t : Nat) : (s.setOtp w v).pRead ld fd t = s.pRead ld fd t := rfl
@[simp] theorem State.setOtp_capDue (die n : Nat) : (s.setOtp w v).capDue die n = s.capDue die n := rfl
@[simp] theorem State.setOtp_cell (fd c : Nat) : (s.setOtp w v).cell fd c = s.cell fd c := rfl
@[simp] theorem State.setOtp_term (fd t : Nat) : (s.setOtp w v).term fd t = s.term fd t := rfl
@[simp] theorem State.setOtp_field (fd : Nat) : (s.setOtp w v).field fd = s.field fd := rfl
@[simp] theorem State.setOtp_hbit (fd k : Nat) : (s.setOtp w v).hbit fd k = s.hbit fd k := rfl
@[simp] theorem State.setOtp_svP (ld iid : Nat) : (s.setOtp w v).svP ld iid = s.svP ld iid := rfl
@[simp] theorem State.setOtp_svH (fd c : Nat) : (s.setOtp w v).svH fd c = s.svH fd c := rfl
@[simp] theorem State.setOtp_svDie (die : Nat) : (s.setOtp w v).svDie die = s.svDie die := rfl
@[simp] theorem State.setOtp_ring (ld : Nat) : (s.setOtp w v).ring ld = s.ring ld := rfl
@[simp] theorem State.setOtp_port (ld p : Nat) : (s.setOtp w v).port ld p = s.port ld p := rfl
@[simp] theorem State.setOtp_job (ld e : Nat) : (s.setOtp w v).job ld e = s.job ld e := rfl
@[simp] theorem State.setOtp_svst (ld : Nat) : (s.setOtp w v).svst ld = s.svst ld := rfl
@[simp] theorem State.setOtp_rem (ld mb : Nat) : (s.setOtp w v).rem ld mb = s.rem ld mb := rfl
@[simp] theorem State.setOtp_stby (ld n : Nat) : (s.setOtp w v).stby ld n = s.stby ld n := rfl
@[simp] theorem State.setOtp_sealSt (die : Nat) : (s.setOtp w v).sealSt die = s.sealSt die := rfl
@[simp] theorem State.setOtp_spmSt (ld : Nat) : (s.setOtp w v).spmSt ld = s.spmSt ld := rfl
@[simp] theorem State.setOtp_byte (a : Nat) : (s.setOtp w v).byte a = s.byte a := rfl
@[simp] theorem State.setOtp_eccClass (ld off : Nat) : (s.setOtp w v).eccClass ld off = s.eccClass ld off := rfl
@[simp] theorem State.setOtp_flashByte (a : Nat) : (s.setOtp w v).flashByte a = s.flashByte a := rfl
@[simp] theorem State.setOtp_get (G : Fld) (e j : Nat) : (s.setOtp w v).get G e j = s.get G e j := rfl
@[simp] theorem State.setOtp_flag (G : Fld) (e j : Nat) : (s.setOtp w v).flag G e j = s.flag G e j := rfl
@[simp] theorem State.setOtp_outBit (ld e : Nat) : (s.setOtp w v).outBit ld e = s.outBit ld e := rfl
@[simp] theorem State.setOtp_free : (s.setOtp w v).free = s.free := rfl
@[simp] theorem State.setOtp_choice : (s.setOtp w v).choice = s.choice := rfl

end

/-! ### `State.setByte` -/

section
variable (s : State) (a : Nat) (v : Byte)

@[simp] theorem State.setByte_variant : (s.setByte a v).variant = s.variant := rfl
@[simp] theorem State.setByte_rev : (s.setByte a v).rev = s.rev := rfl
@[simp] theorem State.setByte_regs : (s.setByte a v).regs = s.regs := rfl
@[simp] theorem State.setByte_ecc : (s.setByte a v).ecc = s.ecc := rfl
@[simp] theorem State.setByte_flash : (s.setByte a v).flash = s.flash := rfl
@[simp] theorem State.setByte_otp : (s.setByte a v).otp = s.otp := rfl
@[simp] theorem State.setByte_part : (s.setByte a v).part = s.part := rfl
@[simp] theorem State.setByte_tick : (s.setByte a v).tick = s.tick := rfl
@[simp] theorem State.setByte_tnumLatch : (s.setByte a v).tnumLatch = s.tnumLatch := rfl
@[simp] theorem State.setByte_extRun : (s.setByte a v).extRun = s.extRun := rfl
@[simp] theorem State.setByte_jobs : (s.setByte a v).jobs = s.jobs := rfl
@[simp] theorem State.setByte_flog : (s.setByte a v).flog = s.flog := rfl
@[simp] theorem State.setByte_sv : (s.setByte a v).sv = s.sv := rfl
@[simp] theorem State.setByte_fences : (s.setByte a v).fences = s.fences := rfl
@[simp] theorem State.setByte_lanes : (s.setByte a v).lanes = s.lanes := rfl
@[simp] theorem State.setByte_pinst : (s.setByte a v).pinst = s.pinst := rfl
@[simp] theorem State.setByte_busBits : (s.setByte a v).busBits = s.busBits := rfl
@[simp] theorem State.setByte_outImg : (s.setByte a v).outImg = s.outImg := rfl
@[simp] theorem State.setByte_outWords : (s.setByte a v).outWords = s.outWords := rfl
@[simp] theorem State.setByte_frozen : (s.setByte a v).frozen = s.frozen := rfl
@[simp] theorem State.setByte_frozenTick : (s.setByte a v).frozenTick = s.frozenTick := rfl
@[simp] theorem State.setByte_pIn : (s.setByte a v).pIn = s.pIn := rfl
@[simp] theorem State.setByte_capIn : (s.setByte a v).capIn = s.capIn := rfl
@[simp] theorem State.setByte_cells : (s.setByte a v).cells = s.cells := rfl
@[simp] theorem State.setByte_terms : (s.setByte a v).terms = s.terms := rfl
@[simp] theorem State.setByte_fields : (s.setByte a v).fields = s.fields := rfl
@[simp] theorem State.setByte_hbus : (s.setByte a v).hbus = s.hbus := rfl
@[simp] theorem State.setByte_sieveP : (s.setByte a v).sieveP = s.sieveP := rfl
@[simp] theorem State.setByte_sieveH : (s.setByte a v).sieveH = s.sieveH := rfl
@[simp] theorem State.setByte_sieveDie : (s.setByte a v).sieveDie = s.sieveDie := rfl
@[simp] theorem State.setByte_rings : (s.setByte a v).rings = s.rings := rfl
@[simp] theorem State.setByte_ports : (s.setByte a v).ports = s.ports := rfl
@[simp] theorem State.setByte_furP : (s.setByte a v).furP = s.furP := rfl
@[simp] theorem State.setByte_furH : (s.setByte a v).furH = s.furH := rfl
@[simp] theorem State.setByte_marksP : (s.setByte a v).marksP = s.marksP := rfl
@[simp] theorem State.setByte_marksH : (s.setByte a v).marksH = s.marksH := rfl
@[simp] theorem State.setByte_zoneP : (s.setByte a v).zoneP = s.zoneP := rfl
@[simp] theorem State.setByte_htxH : (s.setByte a v).htxH = s.htxH := rfl
@[simp] theorem State.setByte_htxMarks : (s.setByte a v).htxMarks = s.htxMarks := rfl
@[simp] theorem State.setByte_mbOrder : (s.setByte a v).mbOrder = s.mbOrder := rfl
@[simp] theorem State.setByte_remote : (s.setByte a v).remote = s.remote := rfl
@[simp] theorem State.setByte_xferC : (s.setByte a v).xferC = s.xferC := rfl
@[simp] theorem State.setByte_xferF : (s.setByte a v).xferF = s.xferF := rfl
@[simp] theorem State.setByte_xferSeq : (s.setByte a v).xferSeq = s.xferSeq := rfl
@[simp] theorem State.setByte_fwStaged : (s.setByte a v).fwStaged = s.fwStaged := rfl
@[simp] theorem State.setByte_image : (s.setByte a v).image = s.image := rfl
@[simp] theorem State.setByte_soak : (s.setByte a v).soak = s.soak := rfl
@[simp] theorem State.setByte_standby : (s.setByte a v).standby = s.standby := rfl
@[simp] theorem State.setByte_seals : (s.setByte a v).seals = s.seals := rfl
@[simp] theorem State.setByte_spm : (s.setByte a v).spm = s.spm := rfl
@[simp] theorem State.setByte_tap : (s.setByte a v).tap = s.tap := rfl
@[simp] theorem State.setByte_tapRegs : (s.setByte a v).tapRegs = s.tapRegs := rfl
@[simp] theorem State.setByte_prpg : (s.setByte a v).prpg = s.prpg := rfl
@[simp] theorem State.setByte_vaultIn : (s.setByte a v).vaultIn = s.vaultIn := rfl
@[simp] theorem State.setByte_vaultOpen : (s.setByte a v).vaultOpen = s.vaultOpen := rfl
@[simp] theorem State.setByte_host : (s.setByte a v).host = s.host := rfl
@[simp] theorem State.setByte_bootRec : (s.setByte a v).bootRec = s.bootRec := rfl
@[simp] theorem State.setByte_otpOp : (s.setByte a v).otpOp = s.otpOp := rfl
@[simp] theorem State.setByte_sent : (s.setByte a v).sent = s.sent := rfl
@[simp] theorem State.setByte_results : (s.setByte a v).results = s.results := rfl
@[simp] theorem State.setByte_busErr : (s.setByte a v).busErr = s.busErr := rfl
@[simp] theorem State.setByte_freeCtr : (s.setByte a v).freeCtr = s.freeCtr := rfl
@[simp] theorem State.setByte_pending : (s.setByte a v).pending = s.pending := rfl
@[simp] theorem State.setByte_lane (ld l : Nat) : (s.setByte a v).lane ld l = s.lane ld l := rfl
@[simp] theorem State.setByte_inst (iid : Nat) : (s.setByte a v).inst iid = s.inst iid := rfl
@[simp] theorem State.setByte_bus (iid b : Nat) : (s.setByte a v).bus iid b = s.bus iid b := rfl
@[simp] theorem State.setByte_words (ld fd : Nat) : (s.setByte a v).words ld fd = s.words ld fd := rfl
@[simp] theorem State.setByte_frozenWord (ld fd t : Nat) : (s.setByte a v).frozenWord ld fd t = s.frozenWord ld fd t := rfl
@[simp] theorem State.setByte_frozenAt (ld fd : Nat) : (s.setByte a v).frozenAt ld fd = s.frozenAt ld fd := rfl
@[simp] theorem State.setByte_pRead (ld fd t : Nat) : (s.setByte a v).pRead ld fd t = s.pRead ld fd t := rfl
@[simp] theorem State.setByte_capDue (die n : Nat) : (s.setByte a v).capDue die n = s.capDue die n := rfl
@[simp] theorem State.setByte_cell (fd c : Nat) : (s.setByte a v).cell fd c = s.cell fd c := rfl
@[simp] theorem State.setByte_term (fd t : Nat) : (s.setByte a v).term fd t = s.term fd t := rfl
@[simp] theorem State.setByte_field (fd : Nat) : (s.setByte a v).field fd = s.field fd := rfl
@[simp] theorem State.setByte_hbit (fd k : Nat) : (s.setByte a v).hbit fd k = s.hbit fd k := rfl
@[simp] theorem State.setByte_svP (ld iid : Nat) : (s.setByte a v).svP ld iid = s.svP ld iid := rfl
@[simp] theorem State.setByte_svH (fd c : Nat) : (s.setByte a v).svH fd c = s.svH fd c := rfl
@[simp] theorem State.setByte_svDie (die : Nat) : (s.setByte a v).svDie die = s.svDie die := rfl
@[simp] theorem State.setByte_ring (ld : Nat) : (s.setByte a v).ring ld = s.ring ld := rfl
@[simp] theorem State.setByte_port (ld p : Nat) : (s.setByte a v).port ld p = s.port ld p := rfl
@[simp] theorem State.setByte_job (ld e : Nat) : (s.setByte a v).job ld e = s.job ld e := rfl
@[simp] theorem State.setByte_svst (ld : Nat) : (s.setByte a v).svst ld = s.svst ld := rfl
@[simp] theorem State.setByte_rem (ld mb : Nat) : (s.setByte a v).rem ld mb = s.rem ld mb := rfl
@[simp] theorem State.setByte_stby (ld n : Nat) : (s.setByte a v).stby ld n = s.stby ld n := rfl
@[simp] theorem State.setByte_sealSt (die : Nat) : (s.setByte a v).sealSt die = s.sealSt die := rfl
@[simp] theorem State.setByte_spmSt (ld : Nat) : (s.setByte a v).spmSt ld = s.spmSt ld := rfl
@[simp] theorem State.setByte_otpWord (w : Nat) : (s.setByte a v).otpWord w = s.otpWord w := rfl
@[simp] theorem State.setByte_eccClass (ld off : Nat) : (s.setByte a v).eccClass ld off = s.eccClass ld off := rfl
@[simp] theorem State.setByte_flashByte (a' : Nat) : (s.setByte a v).flashByte a' = s.flashByte a' := rfl
@[simp] theorem State.setByte_get (G : Fld) (e j : Nat) : (s.setByte a v).get G e j = s.get G e j := rfl
@[simp] theorem State.setByte_flag (G : Fld) (e j : Nat) : (s.setByte a v).flag G e j = s.flag G e j := rfl
@[simp] theorem State.setByte_outBit (ld e : Nat) : (s.setByte a v).outBit ld e = s.outBit ld e := rfl
@[simp] theorem State.setByte_free : (s.setByte a v).free = s.free := rfl
@[simp] theorem State.setByte_choice : (s.setByte a v).choice = s.choice := rfl

end

/-! ### `State.setEcc` -/

section
variable (s : State) (ld off : Nat) (c : WordClass)

@[simp] theorem State.setEcc_variant : (s.setEcc ld off c).variant = s.variant := rfl
@[simp] theorem State.setEcc_rev : (s.setEcc ld off c).rev = s.rev := rfl
@[simp] theorem State.setEcc_regs : (s.setEcc ld off c).regs = s.regs := rfl
@[simp] theorem State.setEcc_mem : (s.setEcc ld off c).mem = s.mem := rfl
@[simp] theorem State.setEcc_flash : (s.setEcc ld off c).flash = s.flash := rfl
@[simp] theorem State.setEcc_otp : (s.setEcc ld off c).otp = s.otp := rfl
@[simp] theorem State.setEcc_part : (s.setEcc ld off c).part = s.part := rfl
@[simp] theorem State.setEcc_tick : (s.setEcc ld off c).tick = s.tick := rfl
@[simp] theorem State.setEcc_tnumLatch : (s.setEcc ld off c).tnumLatch = s.tnumLatch := rfl
@[simp] theorem State.setEcc_extRun : (s.setEcc ld off c).extRun = s.extRun := rfl
@[simp] theorem State.setEcc_jobs : (s.setEcc ld off c).jobs = s.jobs := rfl
@[simp] theorem State.setEcc_flog : (s.setEcc ld off c).flog = s.flog := rfl
@[simp] theorem State.setEcc_sv : (s.setEcc ld off c).sv = s.sv := rfl
@[simp] theorem State.setEcc_fences : (s.setEcc ld off c).fences = s.fences := rfl
@[simp] theorem State.setEcc_lanes : (s.setEcc ld off c).lanes = s.lanes := rfl
@[simp] theorem State.setEcc_pinst : (s.setEcc ld off c).pinst = s.pinst := rfl
@[simp] theorem State.setEcc_busBits : (s.setEcc ld off c).busBits = s.busBits := rfl
@[simp] theorem State.setEcc_outImg : (s.setEcc ld off c).outImg = s.outImg := rfl
@[simp] theorem State.setEcc_outWords : (s.setEcc ld off c).outWords = s.outWords := rfl
@[simp] theorem State.setEcc_frozen : (s.setEcc ld off c).frozen = s.frozen := rfl
@[simp] theorem State.setEcc_frozenTick : (s.setEcc ld off c).frozenTick = s.frozenTick := rfl
@[simp] theorem State.setEcc_pIn : (s.setEcc ld off c).pIn = s.pIn := rfl
@[simp] theorem State.setEcc_capIn : (s.setEcc ld off c).capIn = s.capIn := rfl
@[simp] theorem State.setEcc_cells : (s.setEcc ld off c).cells = s.cells := rfl
@[simp] theorem State.setEcc_terms : (s.setEcc ld off c).terms = s.terms := rfl
@[simp] theorem State.setEcc_fields : (s.setEcc ld off c).fields = s.fields := rfl
@[simp] theorem State.setEcc_hbus : (s.setEcc ld off c).hbus = s.hbus := rfl
@[simp] theorem State.setEcc_sieveP : (s.setEcc ld off c).sieveP = s.sieveP := rfl
@[simp] theorem State.setEcc_sieveH : (s.setEcc ld off c).sieveH = s.sieveH := rfl
@[simp] theorem State.setEcc_sieveDie : (s.setEcc ld off c).sieveDie = s.sieveDie := rfl
@[simp] theorem State.setEcc_rings : (s.setEcc ld off c).rings = s.rings := rfl
@[simp] theorem State.setEcc_ports : (s.setEcc ld off c).ports = s.ports := rfl
@[simp] theorem State.setEcc_furP : (s.setEcc ld off c).furP = s.furP := rfl
@[simp] theorem State.setEcc_furH : (s.setEcc ld off c).furH = s.furH := rfl
@[simp] theorem State.setEcc_marksP : (s.setEcc ld off c).marksP = s.marksP := rfl
@[simp] theorem State.setEcc_marksH : (s.setEcc ld off c).marksH = s.marksH := rfl
@[simp] theorem State.setEcc_zoneP : (s.setEcc ld off c).zoneP = s.zoneP := rfl
@[simp] theorem State.setEcc_htxH : (s.setEcc ld off c).htxH = s.htxH := rfl
@[simp] theorem State.setEcc_htxMarks : (s.setEcc ld off c).htxMarks = s.htxMarks := rfl
@[simp] theorem State.setEcc_mbOrder : (s.setEcc ld off c).mbOrder = s.mbOrder := rfl
@[simp] theorem State.setEcc_remote : (s.setEcc ld off c).remote = s.remote := rfl
@[simp] theorem State.setEcc_xferC : (s.setEcc ld off c).xferC = s.xferC := rfl
@[simp] theorem State.setEcc_xferF : (s.setEcc ld off c).xferF = s.xferF := rfl
@[simp] theorem State.setEcc_xferSeq : (s.setEcc ld off c).xferSeq = s.xferSeq := rfl
@[simp] theorem State.setEcc_fwStaged : (s.setEcc ld off c).fwStaged = s.fwStaged := rfl
@[simp] theorem State.setEcc_image : (s.setEcc ld off c).image = s.image := rfl
@[simp] theorem State.setEcc_soak : (s.setEcc ld off c).soak = s.soak := rfl
@[simp] theorem State.setEcc_standby : (s.setEcc ld off c).standby = s.standby := rfl
@[simp] theorem State.setEcc_seals : (s.setEcc ld off c).seals = s.seals := rfl
@[simp] theorem State.setEcc_spm : (s.setEcc ld off c).spm = s.spm := rfl
@[simp] theorem State.setEcc_tap : (s.setEcc ld off c).tap = s.tap := rfl
@[simp] theorem State.setEcc_tapRegs : (s.setEcc ld off c).tapRegs = s.tapRegs := rfl
@[simp] theorem State.setEcc_prpg : (s.setEcc ld off c).prpg = s.prpg := rfl
@[simp] theorem State.setEcc_vaultIn : (s.setEcc ld off c).vaultIn = s.vaultIn := rfl
@[simp] theorem State.setEcc_vaultOpen : (s.setEcc ld off c).vaultOpen = s.vaultOpen := rfl
@[simp] theorem State.setEcc_host : (s.setEcc ld off c).host = s.host := rfl
@[simp] theorem State.setEcc_bootRec : (s.setEcc ld off c).bootRec = s.bootRec := rfl
@[simp] theorem State.setEcc_otpOp : (s.setEcc ld off c).otpOp = s.otpOp := rfl
@[simp] theorem State.setEcc_sent : (s.setEcc ld off c).sent = s.sent := rfl
@[simp] theorem State.setEcc_results : (s.setEcc ld off c).results = s.results := rfl
@[simp] theorem State.setEcc_busErr : (s.setEcc ld off c).busErr = s.busErr := rfl
@[simp] theorem State.setEcc_freeCtr : (s.setEcc ld off c).freeCtr = s.freeCtr := rfl
@[simp] theorem State.setEcc_pending : (s.setEcc ld off c).pending = s.pending := rfl
@[simp] theorem State.setEcc_lane (ld' l : Nat) : (s.setEcc ld off c).lane ld' l = s.lane ld' l := rfl
@[simp] theorem State.setEcc_inst (iid : Nat) : (s.setEcc ld off c).inst iid = s.inst iid := rfl
@[simp] theorem State.setEcc_bus (iid b : Nat) : (s.setEcc ld off c).bus iid b = s.bus iid b := rfl
@[simp] theorem State.setEcc_words (ld' fd : Nat) : (s.setEcc ld off c).words ld' fd = s.words ld' fd := rfl
@[simp] theorem State.setEcc_frozenWord (ld' fd t : Nat) : (s.setEcc ld off c).frozenWord ld' fd t = s.frozenWord ld' fd t := rfl
@[simp] theorem State.setEcc_frozenAt (ld' fd : Nat) : (s.setEcc ld off c).frozenAt ld' fd = s.frozenAt ld' fd := rfl
@[simp] theorem State.setEcc_pRead (ld' fd t : Nat) : (s.setEcc ld off c).pRead ld' fd t = s.pRead ld' fd t := rfl
@[simp] theorem State.setEcc_capDue (die n : Nat) : (s.setEcc ld off c).capDue die n = s.capDue die n := rfl
@[simp] theorem State.setEcc_cell (fd c' : Nat) : (s.setEcc ld off c).cell fd c' = s.cell fd c' := rfl
@[simp] theorem State.setEcc_term (fd t : Nat) : (s.setEcc ld off c).term fd t = s.term fd t := rfl
@[simp] theorem State.setEcc_field (fd : Nat) : (s.setEcc ld off c).field fd = s.field fd := rfl
@[simp] theorem State.setEcc_hbit (fd k : Nat) : (s.setEcc ld off c).hbit fd k = s.hbit fd k := rfl
@[simp] theorem State.setEcc_svP (ld' iid : Nat) : (s.setEcc ld off c).svP ld' iid = s.svP ld' iid := rfl
@[simp] theorem State.setEcc_svH (fd c' : Nat) : (s.setEcc ld off c).svH fd c' = s.svH fd c' := rfl
@[simp] theorem State.setEcc_svDie (die : Nat) : (s.setEcc ld off c).svDie die = s.svDie die := rfl
@[simp] theorem State.setEcc_ring (ld' : Nat) : (s.setEcc ld off c).ring ld' = s.ring ld' := rfl
@[simp] theorem State.setEcc_port (ld' p : Nat) : (s.setEcc ld off c).port ld' p = s.port ld' p := rfl
@[simp] theorem State.setEcc_job (ld' e : Nat) : (s.setEcc ld off c).job ld' e = s.job ld' e := rfl
@[simp] theorem State.setEcc_svst (ld' : Nat) : (s.setEcc ld off c).svst ld' = s.svst ld' := rfl
@[simp] theorem State.setEcc_rem (ld' mb : Nat) : (s.setEcc ld off c).rem ld' mb = s.rem ld' mb := rfl
@[simp] theorem State.setEcc_stby (ld' n : Nat) : (s.setEcc ld off c).stby ld' n = s.stby ld' n := rfl
@[simp] theorem State.setEcc_sealSt (die : Nat) : (s.setEcc ld off c).sealSt die = s.sealSt die := rfl
@[simp] theorem State.setEcc_spmSt (ld' : Nat) : (s.setEcc ld off c).spmSt ld' = s.spmSt ld' := rfl
@[simp] theorem State.setEcc_otpWord (w : Nat) : (s.setEcc ld off c).otpWord w = s.otpWord w := rfl
@[simp] theorem State.setEcc_byte (a : Nat) : (s.setEcc ld off c).byte a = s.byte a := rfl
@[simp] theorem State.setEcc_flashByte (a : Nat) : (s.setEcc ld off c).flashByte a = s.flashByte a := rfl
@[simp] theorem State.setEcc_get (G : Fld) (e j : Nat) : (s.setEcc ld off c).get G e j = s.get G e j := rfl
@[simp] theorem State.setEcc_flag (G : Fld) (e j : Nat) : (s.setEcc ld off c).flag G e j = s.flag G e j := rfl
@[simp] theorem State.setEcc_outBit (ld' e : Nat) : (s.setEcc ld off c).outBit ld' e = s.outBit ld' e := rfl
@[simp] theorem State.setEcc_free : (s.setEcc ld off c).free = s.free := rfl
@[simp] theorem State.setEcc_choice : (s.setEcc ld off c).choice = s.choice := rfl

end

/-! ### `State.spend` -/

section
variable (s : State) 

@[simp] theorem State.spend_variant : s.spend.variant = s.variant := rfl
@[simp] theorem State.spend_rev : s.spend.rev = s.rev := rfl
@[simp] theorem State.spend_regs : s.spend.regs = s.regs := rfl
@[simp] theorem State.spend_mem : s.spend.mem = s.mem := rfl
@[simp] theorem State.spend_ecc : s.spend.ecc = s.ecc := rfl
@[simp] theorem State.spend_flash : s.spend.flash = s.flash := rfl
@[simp] theorem State.spend_otp : s.spend.otp = s.otp := rfl
@[simp] theorem State.spend_part : s.spend.part = s.part := rfl
@[simp] theorem State.spend_tick : s.spend.tick = s.tick := rfl
@[simp] theorem State.spend_tnumLatch : s.spend.tnumLatch = s.tnumLatch := rfl
@[simp] theorem State.spend_extRun : s.spend.extRun = s.extRun := rfl
@[simp] theorem State.spend_jobs : s.spend.jobs = s.jobs := rfl
@[simp] theorem State.spend_flog : s.spend.flog = s.flog := rfl
@[simp] theorem State.spend_sv : s.spend.sv = s.sv := rfl
@[simp] theorem State.spend_fences : s.spend.fences = s.fences := rfl
@[simp] theorem State.spend_lanes : s.spend.lanes = s.lanes := rfl
@[simp] theorem State.spend_pinst : s.spend.pinst = s.pinst := rfl
@[simp] theorem State.spend_busBits : s.spend.busBits = s.busBits := rfl
@[simp] theorem State.spend_outImg : s.spend.outImg = s.outImg := rfl
@[simp] theorem State.spend_outWords : s.spend.outWords = s.outWords := rfl
@[simp] theorem State.spend_frozen : s.spend.frozen = s.frozen := rfl
@[simp] theorem State.spend_frozenTick : s.spend.frozenTick = s.frozenTick := rfl
@[simp] theorem State.spend_pIn : s.spend.pIn = s.pIn := rfl
@[simp] theorem State.spend_capIn : s.spend.capIn = s.capIn := rfl
@[simp] theorem State.spend_cells : s.spend.cells = s.cells := rfl
@[simp] theorem State.spend_terms : s.spend.terms = s.terms := rfl
@[simp] theorem State.spend_fields : s.spend.fields = s.fields := rfl
@[simp] theorem State.spend_hbus : s.spend.hbus = s.hbus := rfl
@[simp] theorem State.spend_sieveP : s.spend.sieveP = s.sieveP := rfl
@[simp] theorem State.spend_sieveH : s.spend.sieveH = s.sieveH := rfl
@[simp] theorem State.spend_sieveDie : s.spend.sieveDie = s.sieveDie := rfl
@[simp] theorem State.spend_rings : s.spend.rings = s.rings := rfl
@[simp] theorem State.spend_ports : s.spend.ports = s.ports := rfl
@[simp] theorem State.spend_furP : s.spend.furP = s.furP := rfl
@[simp] theorem State.spend_furH : s.spend.furH = s.furH := rfl
@[simp] theorem State.spend_marksP : s.spend.marksP = s.marksP := rfl
@[simp] theorem State.spend_marksH : s.spend.marksH = s.marksH := rfl
@[simp] theorem State.spend_zoneP : s.spend.zoneP = s.zoneP := rfl
@[simp] theorem State.spend_htxH : s.spend.htxH = s.htxH := rfl
@[simp] theorem State.spend_htxMarks : s.spend.htxMarks = s.htxMarks := rfl
@[simp] theorem State.spend_mbOrder : s.spend.mbOrder = s.mbOrder := rfl
@[simp] theorem State.spend_remote : s.spend.remote = s.remote := rfl
@[simp] theorem State.spend_xferC : s.spend.xferC = s.xferC := rfl
@[simp] theorem State.spend_xferF : s.spend.xferF = s.xferF := rfl
@[simp] theorem State.spend_xferSeq : s.spend.xferSeq = s.xferSeq := rfl
@[simp] theorem State.spend_fwStaged : s.spend.fwStaged = s.fwStaged := rfl
@[simp] theorem State.spend_image : s.spend.image = s.image := rfl
@[simp] theorem State.spend_soak : s.spend.soak = s.soak := rfl
@[simp] theorem State.spend_standby : s.spend.standby = s.standby := rfl
@[simp] theorem State.spend_seals : s.spend.seals = s.seals := rfl
@[simp] theorem State.spend_spm : s.spend.spm = s.spm := rfl
@[simp] theorem State.spend_tap : s.spend.tap = s.tap := rfl
@[simp] theorem State.spend_tapRegs : s.spend.tapRegs = s.tapRegs := rfl
@[simp] theorem State.spend_prpg : s.spend.prpg = s.prpg := rfl
@[simp] theorem State.spend_vaultIn : s.spend.vaultIn = s.vaultIn := rfl
@[simp] theorem State.spend_vaultOpen : s.spend.vaultOpen = s.vaultOpen := rfl
@[simp] theorem State.spend_host : s.spend.host = s.host := rfl
@[simp] theorem State.spend_bootRec : s.spend.bootRec = s.bootRec := rfl
@[simp] theorem State.spend_otpOp : s.spend.otpOp = s.otpOp := rfl
@[simp] theorem State.spend_sent : s.spend.sent = s.sent := rfl
@[simp] theorem State.spend_results : s.spend.results = s.results := rfl
@[simp] theorem State.spend_busErr : s.spend.busErr = s.busErr := rfl
@[simp] theorem State.spend_pending : s.spend.pending = s.pending := rfl
@[simp] theorem State.spend_lane (ld l : Nat) : s.spend.lane ld l = s.lane ld l := rfl
@[simp] theorem State.spend_inst (iid : Nat) : s.spend.inst iid = s.inst iid := rfl
@[simp] theorem State.spend_bus (iid b : Nat) : s.spend.bus iid b = s.bus iid b := rfl
@[simp] theorem State.spend_words (ld fd : Nat) : s.spend.words ld fd = s.words ld fd := rfl
@[simp] theorem State.spend_frozenWord (ld fd t : Nat) : s.spend.frozenWord ld fd t = s.frozenWord ld fd t := rfl
@[simp] theorem State.spend_frozenAt (ld fd : Nat) : s.spend.frozenAt ld fd = s.frozenAt ld fd := rfl
@[simp] theorem State.spend_pRead (ld fd t : Nat) : s.spend.pRead ld fd t = s.pRead ld fd t := rfl
@[simp] theorem State.spend_capDue (die n : Nat) : s.spend.capDue die n = s.capDue die n := rfl
@[simp] theorem State.spend_cell (fd c : Nat) : s.spend.cell fd c = s.cell fd c := rfl
@[simp] theorem State.spend_term (fd t : Nat) : s.spend.term fd t = s.term fd t := rfl
@[simp] theorem State.spend_field (fd : Nat) : s.spend.field fd = s.field fd := rfl
@[simp] theorem State.spend_hbit (fd k : Nat) : s.spend.hbit fd k = s.hbit fd k := rfl
@[simp] theorem State.spend_svP (ld iid : Nat) : s.spend.svP ld iid = s.svP ld iid := rfl
@[simp] theorem State.spend_svH (fd c : Nat) : s.spend.svH fd c = s.svH fd c := rfl
@[simp] theorem State.spend_svDie (die : Nat) : s.spend.svDie die = s.svDie die := rfl
@[simp] theorem State.spend_ring (ld : Nat) : s.spend.ring ld = s.ring ld := rfl
@[simp] theorem State.spend_port (ld p : Nat) : s.spend.port ld p = s.port ld p := rfl
@[simp] theorem State.spend_job (ld e : Nat) : s.spend.job ld e = s.job ld e := rfl
@[simp] theorem State.spend_svst (ld : Nat) : s.spend.svst ld = s.svst ld := rfl
@[simp] theorem State.spend_rem (ld mb : Nat) : s.spend.rem ld mb = s.rem ld mb := rfl
@[simp] theorem State.spend_stby (ld n : Nat) : s.spend.stby ld n = s.stby ld n := rfl
@[simp] theorem State.spend_sealSt (die : Nat) : s.spend.sealSt die = s.sealSt die := rfl
@[simp] theorem State.spend_spmSt (ld : Nat) : s.spend.spmSt ld = s.spmSt ld := rfl
@[simp] theorem State.spend_otpWord (w : Nat) : s.spend.otpWord w = s.otpWord w := rfl
@[simp] theorem State.spend_byte (a : Nat) : s.spend.byte a = s.byte a := rfl
@[simp] theorem State.spend_eccClass (ld off : Nat) : s.spend.eccClass ld off = s.eccClass ld off := rfl
@[simp] theorem State.spend_flashByte (a : Nat) : s.spend.flashByte a = s.flashByte a := rfl
@[simp] theorem State.spend_get (G : Fld) (e j : Nat) : s.spend.get G e j = s.get G e j := rfl
@[simp] theorem State.spend_flag (G : Fld) (e j : Nat) : s.spend.flag G e j = s.flag G e j := rfl
@[simp] theorem State.spend_outBit (ld e : Nat) : s.spend.outBit ld e = s.outBit ld e := rfl

end

/-! ### `State.give` -/

section
variable (s : State) (v : List Nat)

@[simp] theorem State.give_variant : (s.give v).variant = s.variant := rfl
@[simp] theorem State.give_rev : (s.give v).rev = s.rev := rfl
@[simp] theorem State.give_regs : (s.give v).regs = s.regs := rfl
@[simp] theorem State.give_mem : (s.give v).mem = s.mem := rfl
@[simp] theorem State.give_ecc : (s.give v).ecc = s.ecc := rfl
@[simp] theorem State.give_flash : (s.give v).flash = s.flash := rfl
@[simp] theorem State.give_otp : (s.give v).otp = s.otp := rfl
@[simp] theorem State.give_part : (s.give v).part = s.part := rfl
@[simp] theorem State.give_tick : (s.give v).tick = s.tick := rfl
@[simp] theorem State.give_tnumLatch : (s.give v).tnumLatch = s.tnumLatch := rfl
@[simp] theorem State.give_extRun : (s.give v).extRun = s.extRun := rfl
@[simp] theorem State.give_jobs : (s.give v).jobs = s.jobs := rfl
@[simp] theorem State.give_flog : (s.give v).flog = s.flog := rfl
@[simp] theorem State.give_sv : (s.give v).sv = s.sv := rfl
@[simp] theorem State.give_fences : (s.give v).fences = s.fences := rfl
@[simp] theorem State.give_lanes : (s.give v).lanes = s.lanes := rfl
@[simp] theorem State.give_pinst : (s.give v).pinst = s.pinst := rfl
@[simp] theorem State.give_busBits : (s.give v).busBits = s.busBits := rfl
@[simp] theorem State.give_outImg : (s.give v).outImg = s.outImg := rfl
@[simp] theorem State.give_outWords : (s.give v).outWords = s.outWords := rfl
@[simp] theorem State.give_frozen : (s.give v).frozen = s.frozen := rfl
@[simp] theorem State.give_frozenTick : (s.give v).frozenTick = s.frozenTick := rfl
@[simp] theorem State.give_pIn : (s.give v).pIn = s.pIn := rfl
@[simp] theorem State.give_capIn : (s.give v).capIn = s.capIn := rfl
@[simp] theorem State.give_cells : (s.give v).cells = s.cells := rfl
@[simp] theorem State.give_terms : (s.give v).terms = s.terms := rfl
@[simp] theorem State.give_fields : (s.give v).fields = s.fields := rfl
@[simp] theorem State.give_hbus : (s.give v).hbus = s.hbus := rfl
@[simp] theorem State.give_sieveP : (s.give v).sieveP = s.sieveP := rfl
@[simp] theorem State.give_sieveH : (s.give v).sieveH = s.sieveH := rfl
@[simp] theorem State.give_sieveDie : (s.give v).sieveDie = s.sieveDie := rfl
@[simp] theorem State.give_rings : (s.give v).rings = s.rings := rfl
@[simp] theorem State.give_ports : (s.give v).ports = s.ports := rfl
@[simp] theorem State.give_furP : (s.give v).furP = s.furP := rfl
@[simp] theorem State.give_furH : (s.give v).furH = s.furH := rfl
@[simp] theorem State.give_marksP : (s.give v).marksP = s.marksP := rfl
@[simp] theorem State.give_marksH : (s.give v).marksH = s.marksH := rfl
@[simp] theorem State.give_zoneP : (s.give v).zoneP = s.zoneP := rfl
@[simp] theorem State.give_htxH : (s.give v).htxH = s.htxH := rfl
@[simp] theorem State.give_htxMarks : (s.give v).htxMarks = s.htxMarks := rfl
@[simp] theorem State.give_mbOrder : (s.give v).mbOrder = s.mbOrder := rfl
@[simp] theorem State.give_remote : (s.give v).remote = s.remote := rfl
@[simp] theorem State.give_xferC : (s.give v).xferC = s.xferC := rfl
@[simp] theorem State.give_xferF : (s.give v).xferF = s.xferF := rfl
@[simp] theorem State.give_xferSeq : (s.give v).xferSeq = s.xferSeq := rfl
@[simp] theorem State.give_fwStaged : (s.give v).fwStaged = s.fwStaged := rfl
@[simp] theorem State.give_image : (s.give v).image = s.image := rfl
@[simp] theorem State.give_soak : (s.give v).soak = s.soak := rfl
@[simp] theorem State.give_standby : (s.give v).standby = s.standby := rfl
@[simp] theorem State.give_seals : (s.give v).seals = s.seals := rfl
@[simp] theorem State.give_spm : (s.give v).spm = s.spm := rfl
@[simp] theorem State.give_tap : (s.give v).tap = s.tap := rfl
@[simp] theorem State.give_tapRegs : (s.give v).tapRegs = s.tapRegs := rfl
@[simp] theorem State.give_prpg : (s.give v).prpg = s.prpg := rfl
@[simp] theorem State.give_vaultIn : (s.give v).vaultIn = s.vaultIn := rfl
@[simp] theorem State.give_vaultOpen : (s.give v).vaultOpen = s.vaultOpen := rfl
@[simp] theorem State.give_host : (s.give v).host = s.host := rfl
@[simp] theorem State.give_bootRec : (s.give v).bootRec = s.bootRec := rfl
@[simp] theorem State.give_otpOp : (s.give v).otpOp = s.otpOp := rfl
@[simp] theorem State.give_sent : (s.give v).sent = s.sent := rfl
@[simp] theorem State.give_busErr : (s.give v).busErr = s.busErr := rfl
@[simp] theorem State.give_freeCtr : (s.give v).freeCtr = s.freeCtr := rfl
@[simp] theorem State.give_pending : (s.give v).pending = s.pending := rfl
@[simp] theorem State.give_lane (ld l : Nat) : (s.give v).lane ld l = s.lane ld l := rfl
@[simp] theorem State.give_inst (iid : Nat) : (s.give v).inst iid = s.inst iid := rfl
@[simp] theorem State.give_bus (iid b : Nat) : (s.give v).bus iid b = s.bus iid b := rfl
@[simp] theorem State.give_words (ld fd : Nat) : (s.give v).words ld fd = s.words ld fd := rfl
@[simp] theorem State.give_frozenWord (ld fd t : Nat) : (s.give v).frozenWord ld fd t = s.frozenWord ld fd t := rfl
@[simp] theorem State.give_frozenAt (ld fd : Nat) : (s.give v).frozenAt ld fd = s.frozenAt ld fd := rfl
@[simp] theorem State.give_pRead (ld fd t : Nat) : (s.give v).pRead ld fd t = s.pRead ld fd t := rfl
@[simp] theorem State.give_capDue (die n : Nat) : (s.give v).capDue die n = s.capDue die n := rfl
@[simp] theorem State.give_cell (fd c : Nat) : (s.give v).cell fd c = s.cell fd c := rfl
@[simp] theorem State.give_term (fd t : Nat) : (s.give v).term fd t = s.term fd t := rfl
@[simp] theorem State.give_field (fd : Nat) : (s.give v).field fd = s.field fd := rfl
@[simp] theorem State.give_hbit (fd k : Nat) : (s.give v).hbit fd k = s.hbit fd k := rfl
@[simp] theorem State.give_svP (ld iid : Nat) : (s.give v).svP ld iid = s.svP ld iid := rfl
@[simp] theorem State.give_svH (fd c : Nat) : (s.give v).svH fd c = s.svH fd c := rfl
@[simp] theorem State.give_svDie (die : Nat) : (s.give v).svDie die = s.svDie die := rfl
@[simp] theorem State.give_ring (ld : Nat) : (s.give v).ring ld = s.ring ld := rfl
@[simp] theorem State.give_port (ld p : Nat) : (s.give v).port ld p = s.port ld p := rfl
@[simp] theorem State.give_job (ld e : Nat) : (s.give v).job ld e = s.job ld e := rfl
@[simp] theorem State.give_svst (ld : Nat) : (s.give v).svst ld = s.svst ld := rfl
@[simp] theorem State.give_rem (ld mb : Nat) : (s.give v).rem ld mb = s.rem ld mb := rfl
@[simp] theorem State.give_stby (ld n : Nat) : (s.give v).stby ld n = s.stby ld n := rfl
@[simp] theorem State.give_sealSt (die : Nat) : (s.give v).sealSt die = s.sealSt die := rfl
@[simp] theorem State.give_spmSt (ld : Nat) : (s.give v).spmSt ld = s.spmSt ld := rfl
@[simp] theorem State.give_otpWord (w : Nat) : (s.give v).otpWord w = s.otpWord w := rfl
@[simp] theorem State.give_byte (a : Nat) : (s.give v).byte a = s.byte a := rfl
@[simp] theorem State.give_eccClass (ld off : Nat) : (s.give v).eccClass ld off = s.eccClass ld off := rfl
@[simp] theorem State.give_flashByte (a : Nat) : (s.give v).flashByte a = s.flashByte a := rfl
@[simp] theorem State.give_get (G : Fld) (e j : Nat) : (s.give v).get G e j = s.get G e j := rfl
@[simp] theorem State.give_flag (G : Fld) (e j : Nat) : (s.give v).flag G e j = s.flag G e j := rfl
@[simp] theorem State.give_outBit (ld e : Nat) : (s.give v).outBit ld e = s.outBit ld e := rfl
@[simp] theorem State.give_free : (s.give v).free = s.free := rfl
@[simp] theorem State.give_choice : (s.give v).choice = s.choice := rfl

end

/-! ### `State.respond` -/

section
variable (s : State) (err : Bool)

@[simp] theorem State.respond_variant : (s.respond err).variant = s.variant := rfl
@[simp] theorem State.respond_rev : (s.respond err).rev = s.rev := rfl
@[simp] theorem State.respond_regs : (s.respond err).regs = s.regs := rfl
@[simp] theorem State.respond_mem : (s.respond err).mem = s.mem := rfl
@[simp] theorem State.respond_ecc : (s.respond err).ecc = s.ecc := rfl
@[simp] theorem State.respond_flash : (s.respond err).flash = s.flash := rfl
@[simp] theorem State.respond_otp : (s.respond err).otp = s.otp := rfl
@[simp] theorem State.respond_part : (s.respond err).part = s.part := rfl
@[simp] theorem State.respond_tick : (s.respond err).tick = s.tick := rfl
@[simp] theorem State.respond_tnumLatch : (s.respond err).tnumLatch = s.tnumLatch := rfl
@[simp] theorem State.respond_extRun : (s.respond err).extRun = s.extRun := rfl
@[simp] theorem State.respond_jobs : (s.respond err).jobs = s.jobs := rfl
@[simp] theorem State.respond_flog : (s.respond err).flog = s.flog := rfl
@[simp] theorem State.respond_sv : (s.respond err).sv = s.sv := rfl
@[simp] theorem State.respond_fences : (s.respond err).fences = s.fences := rfl
@[simp] theorem State.respond_lanes : (s.respond err).lanes = s.lanes := rfl
@[simp] theorem State.respond_pinst : (s.respond err).pinst = s.pinst := rfl
@[simp] theorem State.respond_busBits : (s.respond err).busBits = s.busBits := rfl
@[simp] theorem State.respond_outImg : (s.respond err).outImg = s.outImg := rfl
@[simp] theorem State.respond_outWords : (s.respond err).outWords = s.outWords := rfl
@[simp] theorem State.respond_frozen : (s.respond err).frozen = s.frozen := rfl
@[simp] theorem State.respond_frozenTick : (s.respond err).frozenTick = s.frozenTick := rfl
@[simp] theorem State.respond_pIn : (s.respond err).pIn = s.pIn := rfl
@[simp] theorem State.respond_capIn : (s.respond err).capIn = s.capIn := rfl
@[simp] theorem State.respond_cells : (s.respond err).cells = s.cells := rfl
@[simp] theorem State.respond_terms : (s.respond err).terms = s.terms := rfl
@[simp] theorem State.respond_fields : (s.respond err).fields = s.fields := rfl
@[simp] theorem State.respond_hbus : (s.respond err).hbus = s.hbus := rfl
@[simp] theorem State.respond_sieveP : (s.respond err).sieveP = s.sieveP := rfl
@[simp] theorem State.respond_sieveH : (s.respond err).sieveH = s.sieveH := rfl
@[simp] theorem State.respond_sieveDie : (s.respond err).sieveDie = s.sieveDie := rfl
@[simp] theorem State.respond_rings : (s.respond err).rings = s.rings := rfl
@[simp] theorem State.respond_ports : (s.respond err).ports = s.ports := rfl
@[simp] theorem State.respond_furP : (s.respond err).furP = s.furP := rfl
@[simp] theorem State.respond_furH : (s.respond err).furH = s.furH := rfl
@[simp] theorem State.respond_marksP : (s.respond err).marksP = s.marksP := rfl
@[simp] theorem State.respond_marksH : (s.respond err).marksH = s.marksH := rfl
@[simp] theorem State.respond_zoneP : (s.respond err).zoneP = s.zoneP := rfl
@[simp] theorem State.respond_htxH : (s.respond err).htxH = s.htxH := rfl
@[simp] theorem State.respond_htxMarks : (s.respond err).htxMarks = s.htxMarks := rfl
@[simp] theorem State.respond_mbOrder : (s.respond err).mbOrder = s.mbOrder := rfl
@[simp] theorem State.respond_remote : (s.respond err).remote = s.remote := rfl
@[simp] theorem State.respond_xferC : (s.respond err).xferC = s.xferC := rfl
@[simp] theorem State.respond_xferF : (s.respond err).xferF = s.xferF := rfl
@[simp] theorem State.respond_xferSeq : (s.respond err).xferSeq = s.xferSeq := rfl
@[simp] theorem State.respond_fwStaged : (s.respond err).fwStaged = s.fwStaged := rfl
@[simp] theorem State.respond_image : (s.respond err).image = s.image := rfl
@[simp] theorem State.respond_soak : (s.respond err).soak = s.soak := rfl
@[simp] theorem State.respond_standby : (s.respond err).standby = s.standby := rfl
@[simp] theorem State.respond_seals : (s.respond err).seals = s.seals := rfl
@[simp] theorem State.respond_spm : (s.respond err).spm = s.spm := rfl
@[simp] theorem State.respond_tap : (s.respond err).tap = s.tap := rfl
@[simp] theorem State.respond_tapRegs : (s.respond err).tapRegs = s.tapRegs := rfl
@[simp] theorem State.respond_prpg : (s.respond err).prpg = s.prpg := rfl
@[simp] theorem State.respond_vaultIn : (s.respond err).vaultIn = s.vaultIn := rfl
@[simp] theorem State.respond_vaultOpen : (s.respond err).vaultOpen = s.vaultOpen := rfl
@[simp] theorem State.respond_host : (s.respond err).host = s.host := rfl
@[simp] theorem State.respond_bootRec : (s.respond err).bootRec = s.bootRec := rfl
@[simp] theorem State.respond_otpOp : (s.respond err).otpOp = s.otpOp := rfl
@[simp] theorem State.respond_sent : (s.respond err).sent = s.sent := rfl
@[simp] theorem State.respond_results : (s.respond err).results = s.results := rfl
@[simp] theorem State.respond_freeCtr : (s.respond err).freeCtr = s.freeCtr := rfl
@[simp] theorem State.respond_pending : (s.respond err).pending = s.pending := rfl
@[simp] theorem State.respond_lane (ld l : Nat) : (s.respond err).lane ld l = s.lane ld l := rfl
@[simp] theorem State.respond_inst (iid : Nat) : (s.respond err).inst iid = s.inst iid := rfl
@[simp] theorem State.respond_bus (iid b : Nat) : (s.respond err).bus iid b = s.bus iid b := rfl
@[simp] theorem State.respond_words (ld fd : Nat) : (s.respond err).words ld fd = s.words ld fd := rfl
@[simp] theorem State.respond_frozenWord (ld fd t : Nat) : (s.respond err).frozenWord ld fd t = s.frozenWord ld fd t := rfl
@[simp] theorem State.respond_frozenAt (ld fd : Nat) : (s.respond err).frozenAt ld fd = s.frozenAt ld fd := rfl
@[simp] theorem State.respond_pRead (ld fd t : Nat) : (s.respond err).pRead ld fd t = s.pRead ld fd t := rfl
@[simp] theorem State.respond_capDue (die n : Nat) : (s.respond err).capDue die n = s.capDue die n := rfl
@[simp] theorem State.respond_cell (fd c : Nat) : (s.respond err).cell fd c = s.cell fd c := rfl
@[simp] theorem State.respond_term (fd t : Nat) : (s.respond err).term fd t = s.term fd t := rfl
@[simp] theorem State.respond_field (fd : Nat) : (s.respond err).field fd = s.field fd := rfl
@[simp] theorem State.respond_hbit (fd k : Nat) : (s.respond err).hbit fd k = s.hbit fd k := rfl
@[simp] theorem State.respond_svP (ld iid : Nat) : (s.respond err).svP ld iid = s.svP ld iid := rfl
@[simp] theorem State.respond_svH (fd c : Nat) : (s.respond err).svH fd c = s.svH fd c := rfl
@[simp] theorem State.respond_svDie (die : Nat) : (s.respond err).svDie die = s.svDie die := rfl
@[simp] theorem State.respond_ring (ld : Nat) : (s.respond err).ring ld = s.ring ld := rfl
@[simp] theorem State.respond_port (ld p : Nat) : (s.respond err).port ld p = s.port ld p := rfl
@[simp] theorem State.respond_job (ld e : Nat) : (s.respond err).job ld e = s.job ld e := rfl
@[simp] theorem State.respond_svst (ld : Nat) : (s.respond err).svst ld = s.svst ld := rfl
@[simp] theorem State.respond_rem (ld mb : Nat) : (s.respond err).rem ld mb = s.rem ld mb := rfl
@[simp] theorem State.respond_stby (ld n : Nat) : (s.respond err).stby ld n = s.stby ld n := rfl
@[simp] theorem State.respond_sealSt (die : Nat) : (s.respond err).sealSt die = s.sealSt die := rfl
@[simp] theorem State.respond_spmSt (ld : Nat) : (s.respond err).spmSt ld = s.spmSt ld := rfl
@[simp] theorem State.respond_otpWord (w : Nat) : (s.respond err).otpWord w = s.otpWord w := rfl
@[simp] theorem State.respond_byte (a : Nat) : (s.respond err).byte a = s.byte a := rfl
@[simp] theorem State.respond_eccClass (ld off : Nat) : (s.respond err).eccClass ld off = s.eccClass ld off := rfl
@[simp] theorem State.respond_flashByte (a : Nat) : (s.respond err).flashByte a = s.flashByte a := rfl
@[simp] theorem State.respond_get (G : Fld) (e j : Nat) : (s.respond err).get G e j = s.get G e j := rfl
@[simp] theorem State.respond_flag (G : Fld) (e j : Nat) : (s.respond err).flag G e j = s.flag G e j := rfl
@[simp] theorem State.respond_outBit (ld e : Nat) : (s.respond err).outBit ld e = s.outBit ld e := rfl
@[simp] theorem State.respond_free : (s.respond err).free = s.free := rfl
@[simp] theorem State.respond_choice : (s.respond err).choice = s.choice := rfl

end

/-! ### `State.sending` -/

section
variable (s : State) 

@[simp] theorem State.sending_variant : s.sending.variant = s.variant := rfl
@[simp] theorem State.sending_rev : s.sending.rev = s.rev := rfl
@[simp] theorem State.sending_regs : s.sending.regs = s.regs := rfl
@[simp] theorem State.sending_mem : s.sending.mem = s.mem := rfl
@[simp] theorem State.sending_ecc : s.sending.ecc = s.ecc := rfl
@[simp] theorem State.sending_flash : s.sending.flash = s.flash := rfl
@[simp] theorem State.sending_otp : s.sending.otp = s.otp := rfl
@[simp] theorem State.sending_part : s.sending.part = s.part := rfl
@[simp] theorem State.sending_tick : s.sending.tick = s.tick := rfl
@[simp] theorem State.sending_tnumLatch : s.sending.tnumLatch = s.tnumLatch := rfl
@[simp] theorem State.sending_extRun : s.sending.extRun = s.extRun := rfl
@[simp] theorem State.sending_jobs : s.sending.jobs = s.jobs := rfl
@[simp] theorem State.sending_flog : s.sending.flog = s.flog := rfl
@[simp] theorem State.sending_sv : s.sending.sv = s.sv := rfl
@[simp] theorem State.sending_fences : s.sending.fences = s.fences := rfl
@[simp] theorem State.sending_lanes : s.sending.lanes = s.lanes := rfl
@[simp] theorem State.sending_pinst : s.sending.pinst = s.pinst := rfl
@[simp] theorem State.sending_busBits : s.sending.busBits = s.busBits := rfl
@[simp] theorem State.sending_outImg : s.sending.outImg = s.outImg := rfl
@[simp] theorem State.sending_outWords : s.sending.outWords = s.outWords := rfl
@[simp] theorem State.sending_frozen : s.sending.frozen = s.frozen := rfl
@[simp] theorem State.sending_frozenTick : s.sending.frozenTick = s.frozenTick := rfl
@[simp] theorem State.sending_pIn : s.sending.pIn = s.pIn := rfl
@[simp] theorem State.sending_capIn : s.sending.capIn = s.capIn := rfl
@[simp] theorem State.sending_cells : s.sending.cells = s.cells := rfl
@[simp] theorem State.sending_terms : s.sending.terms = s.terms := rfl
@[simp] theorem State.sending_fields : s.sending.fields = s.fields := rfl
@[simp] theorem State.sending_hbus : s.sending.hbus = s.hbus := rfl
@[simp] theorem State.sending_sieveP : s.sending.sieveP = s.sieveP := rfl
@[simp] theorem State.sending_sieveH : s.sending.sieveH = s.sieveH := rfl
@[simp] theorem State.sending_sieveDie : s.sending.sieveDie = s.sieveDie := rfl
@[simp] theorem State.sending_rings : s.sending.rings = s.rings := rfl
@[simp] theorem State.sending_ports : s.sending.ports = s.ports := rfl
@[simp] theorem State.sending_furP : s.sending.furP = s.furP := rfl
@[simp] theorem State.sending_furH : s.sending.furH = s.furH := rfl
@[simp] theorem State.sending_marksP : s.sending.marksP = s.marksP := rfl
@[simp] theorem State.sending_marksH : s.sending.marksH = s.marksH := rfl
@[simp] theorem State.sending_zoneP : s.sending.zoneP = s.zoneP := rfl
@[simp] theorem State.sending_htxH : s.sending.htxH = s.htxH := rfl
@[simp] theorem State.sending_htxMarks : s.sending.htxMarks = s.htxMarks := rfl
@[simp] theorem State.sending_mbOrder : s.sending.mbOrder = s.mbOrder := rfl
@[simp] theorem State.sending_remote : s.sending.remote = s.remote := rfl
@[simp] theorem State.sending_xferC : s.sending.xferC = s.xferC := rfl
@[simp] theorem State.sending_xferF : s.sending.xferF = s.xferF := rfl
@[simp] theorem State.sending_xferSeq : s.sending.xferSeq = s.xferSeq := rfl
@[simp] theorem State.sending_fwStaged : s.sending.fwStaged = s.fwStaged := rfl
@[simp] theorem State.sending_image : s.sending.image = s.image := rfl
@[simp] theorem State.sending_soak : s.sending.soak = s.soak := rfl
@[simp] theorem State.sending_standby : s.sending.standby = s.standby := rfl
@[simp] theorem State.sending_seals : s.sending.seals = s.seals := rfl
@[simp] theorem State.sending_spm : s.sending.spm = s.spm := rfl
@[simp] theorem State.sending_tap : s.sending.tap = s.tap := rfl
@[simp] theorem State.sending_tapRegs : s.sending.tapRegs = s.tapRegs := rfl
@[simp] theorem State.sending_prpg : s.sending.prpg = s.prpg := rfl
@[simp] theorem State.sending_vaultIn : s.sending.vaultIn = s.vaultIn := rfl
@[simp] theorem State.sending_vaultOpen : s.sending.vaultOpen = s.vaultOpen := rfl
@[simp] theorem State.sending_host : s.sending.host = s.host := rfl
@[simp] theorem State.sending_bootRec : s.sending.bootRec = s.bootRec := rfl
@[simp] theorem State.sending_otpOp : s.sending.otpOp = s.otpOp := rfl
@[simp] theorem State.sending_results : s.sending.results = s.results := rfl
@[simp] theorem State.sending_busErr : s.sending.busErr = s.busErr := rfl
@[simp] theorem State.sending_freeCtr : s.sending.freeCtr = s.freeCtr := rfl
@[simp] theorem State.sending_pending : s.sending.pending = s.pending := rfl
@[simp] theorem State.sending_lane (ld l : Nat) : s.sending.lane ld l = s.lane ld l := rfl
@[simp] theorem State.sending_inst (iid : Nat) : s.sending.inst iid = s.inst iid := rfl
@[simp] theorem State.sending_bus (iid b : Nat) : s.sending.bus iid b = s.bus iid b := rfl
@[simp] theorem State.sending_words (ld fd : Nat) : s.sending.words ld fd = s.words ld fd := rfl
@[simp] theorem State.sending_frozenWord (ld fd t : Nat) : s.sending.frozenWord ld fd t = s.frozenWord ld fd t := rfl
@[simp] theorem State.sending_frozenAt (ld fd : Nat) : s.sending.frozenAt ld fd = s.frozenAt ld fd := rfl
@[simp] theorem State.sending_pRead (ld fd t : Nat) : s.sending.pRead ld fd t = s.pRead ld fd t := rfl
@[simp] theorem State.sending_capDue (die n : Nat) : s.sending.capDue die n = s.capDue die n := rfl
@[simp] theorem State.sending_cell (fd c : Nat) : s.sending.cell fd c = s.cell fd c := rfl
@[simp] theorem State.sending_term (fd t : Nat) : s.sending.term fd t = s.term fd t := rfl
@[simp] theorem State.sending_field (fd : Nat) : s.sending.field fd = s.field fd := rfl
@[simp] theorem State.sending_hbit (fd k : Nat) : s.sending.hbit fd k = s.hbit fd k := rfl
@[simp] theorem State.sending_svP (ld iid : Nat) : s.sending.svP ld iid = s.svP ld iid := rfl
@[simp] theorem State.sending_svH (fd c : Nat) : s.sending.svH fd c = s.svH fd c := rfl
@[simp] theorem State.sending_svDie (die : Nat) : s.sending.svDie die = s.svDie die := rfl
@[simp] theorem State.sending_ring (ld : Nat) : s.sending.ring ld = s.ring ld := rfl
@[simp] theorem State.sending_port (ld p : Nat) : s.sending.port ld p = s.port ld p := rfl
@[simp] theorem State.sending_job (ld e : Nat) : s.sending.job ld e = s.job ld e := rfl
@[simp] theorem State.sending_svst (ld : Nat) : s.sending.svst ld = s.svst ld := rfl
@[simp] theorem State.sending_rem (ld mb : Nat) : s.sending.rem ld mb = s.rem ld mb := rfl
@[simp] theorem State.sending_stby (ld n : Nat) : s.sending.stby ld n = s.stby ld n := rfl
@[simp] theorem State.sending_sealSt (die : Nat) : s.sending.sealSt die = s.sealSt die := rfl
@[simp] theorem State.sending_spmSt (ld : Nat) : s.sending.spmSt ld = s.spmSt ld := rfl
@[simp] theorem State.sending_otpWord (w : Nat) : s.sending.otpWord w = s.otpWord w := rfl
@[simp] theorem State.sending_byte (a : Nat) : s.sending.byte a = s.byte a := rfl
@[simp] theorem State.sending_eccClass (ld off : Nat) : s.sending.eccClass ld off = s.eccClass ld off := rfl
@[simp] theorem State.sending_flashByte (a : Nat) : s.sending.flashByte a = s.flashByte a := rfl
@[simp] theorem State.sending_get (G : Fld) (e j : Nat) : s.sending.get G e j = s.get G e j := rfl
@[simp] theorem State.sending_flag (G : Fld) (e j : Nat) : s.sending.flag G e j = s.flag G e j := rfl
@[simp] theorem State.sending_outBit (ld e : Nat) : s.sending.outBit ld e = s.outBit ld e := rfl
@[simp] theorem State.sending_free : s.sending.free = s.free := rfl
@[simp] theorem State.sending_choice : s.sending.choice = s.choice := rfl

end

/-! ### `State.emit` -/

section
variable (s : State) (ld p : Nat) (bs : List Byte)

@[simp] theorem State.emit_variant : (s.emit ld p bs).variant = s.variant := rfl
@[simp] theorem State.emit_rev : (s.emit ld p bs).rev = s.rev := rfl
@[simp] theorem State.emit_regs : (s.emit ld p bs).regs = s.regs := rfl
@[simp] theorem State.emit_mem : (s.emit ld p bs).mem = s.mem := rfl
@[simp] theorem State.emit_ecc : (s.emit ld p bs).ecc = s.ecc := rfl
@[simp] theorem State.emit_flash : (s.emit ld p bs).flash = s.flash := rfl
@[simp] theorem State.emit_otp : (s.emit ld p bs).otp = s.otp := rfl
@[simp] theorem State.emit_part : (s.emit ld p bs).part = s.part := rfl
@[simp] theorem State.emit_tick : (s.emit ld p bs).tick = s.tick := rfl
@[simp] theorem State.emit_tnumLatch : (s.emit ld p bs).tnumLatch = s.tnumLatch := rfl
@[simp] theorem State.emit_extRun : (s.emit ld p bs).extRun = s.extRun := rfl
@[simp] theorem State.emit_jobs : (s.emit ld p bs).jobs = s.jobs := rfl
@[simp] theorem State.emit_flog : (s.emit ld p bs).flog = s.flog := rfl
@[simp] theorem State.emit_sv : (s.emit ld p bs).sv = s.sv := rfl
@[simp] theorem State.emit_fences : (s.emit ld p bs).fences = s.fences := rfl
@[simp] theorem State.emit_lanes : (s.emit ld p bs).lanes = s.lanes := rfl
@[simp] theorem State.emit_pinst : (s.emit ld p bs).pinst = s.pinst := rfl
@[simp] theorem State.emit_busBits : (s.emit ld p bs).busBits = s.busBits := rfl
@[simp] theorem State.emit_outImg : (s.emit ld p bs).outImg = s.outImg := rfl
@[simp] theorem State.emit_outWords : (s.emit ld p bs).outWords = s.outWords := rfl
@[simp] theorem State.emit_frozen : (s.emit ld p bs).frozen = s.frozen := rfl
@[simp] theorem State.emit_frozenTick : (s.emit ld p bs).frozenTick = s.frozenTick := rfl
@[simp] theorem State.emit_pIn : (s.emit ld p bs).pIn = s.pIn := rfl
@[simp] theorem State.emit_capIn : (s.emit ld p bs).capIn = s.capIn := rfl
@[simp] theorem State.emit_cells : (s.emit ld p bs).cells = s.cells := rfl
@[simp] theorem State.emit_terms : (s.emit ld p bs).terms = s.terms := rfl
@[simp] theorem State.emit_fields : (s.emit ld p bs).fields = s.fields := rfl
@[simp] theorem State.emit_hbus : (s.emit ld p bs).hbus = s.hbus := rfl
@[simp] theorem State.emit_sieveP : (s.emit ld p bs).sieveP = s.sieveP := rfl
@[simp] theorem State.emit_sieveH : (s.emit ld p bs).sieveH = s.sieveH := rfl
@[simp] theorem State.emit_sieveDie : (s.emit ld p bs).sieveDie = s.sieveDie := rfl
@[simp] theorem State.emit_rings : (s.emit ld p bs).rings = s.rings := rfl
@[simp] theorem State.emit_ports : (s.emit ld p bs).ports = s.ports := rfl
@[simp] theorem State.emit_furP : (s.emit ld p bs).furP = s.furP := rfl
@[simp] theorem State.emit_furH : (s.emit ld p bs).furH = s.furH := rfl
@[simp] theorem State.emit_marksP : (s.emit ld p bs).marksP = s.marksP := rfl
@[simp] theorem State.emit_marksH : (s.emit ld p bs).marksH = s.marksH := rfl
@[simp] theorem State.emit_zoneP : (s.emit ld p bs).zoneP = s.zoneP := rfl
@[simp] theorem State.emit_htxH : (s.emit ld p bs).htxH = s.htxH := rfl
@[simp] theorem State.emit_htxMarks : (s.emit ld p bs).htxMarks = s.htxMarks := rfl
@[simp] theorem State.emit_mbOrder : (s.emit ld p bs).mbOrder = s.mbOrder := rfl
@[simp] theorem State.emit_remote : (s.emit ld p bs).remote = s.remote := rfl
@[simp] theorem State.emit_xferC : (s.emit ld p bs).xferC = s.xferC := rfl
@[simp] theorem State.emit_xferF : (s.emit ld p bs).xferF = s.xferF := rfl
@[simp] theorem State.emit_xferSeq : (s.emit ld p bs).xferSeq = s.xferSeq := rfl
@[simp] theorem State.emit_fwStaged : (s.emit ld p bs).fwStaged = s.fwStaged := rfl
@[simp] theorem State.emit_image : (s.emit ld p bs).image = s.image := rfl
@[simp] theorem State.emit_soak : (s.emit ld p bs).soak = s.soak := rfl
@[simp] theorem State.emit_standby : (s.emit ld p bs).standby = s.standby := rfl
@[simp] theorem State.emit_seals : (s.emit ld p bs).seals = s.seals := rfl
@[simp] theorem State.emit_spm : (s.emit ld p bs).spm = s.spm := rfl
@[simp] theorem State.emit_tap : (s.emit ld p bs).tap = s.tap := rfl
@[simp] theorem State.emit_tapRegs : (s.emit ld p bs).tapRegs = s.tapRegs := rfl
@[simp] theorem State.emit_prpg : (s.emit ld p bs).prpg = s.prpg := rfl
@[simp] theorem State.emit_vaultIn : (s.emit ld p bs).vaultIn = s.vaultIn := rfl
@[simp] theorem State.emit_vaultOpen : (s.emit ld p bs).vaultOpen = s.vaultOpen := rfl
@[simp] theorem State.emit_host : (s.emit ld p bs).host = s.host := rfl
@[simp] theorem State.emit_bootRec : (s.emit ld p bs).bootRec = s.bootRec := rfl
@[simp] theorem State.emit_otpOp : (s.emit ld p bs).otpOp = s.otpOp := rfl
@[simp] theorem State.emit_results : (s.emit ld p bs).results = s.results := rfl
@[simp] theorem State.emit_busErr : (s.emit ld p bs).busErr = s.busErr := rfl
@[simp] theorem State.emit_freeCtr : (s.emit ld p bs).freeCtr = s.freeCtr := rfl
@[simp] theorem State.emit_pending : (s.emit ld p bs).pending = s.pending := rfl
@[simp] theorem State.emit_lane (ld' l : Nat) : (s.emit ld p bs).lane ld' l = s.lane ld' l := rfl
@[simp] theorem State.emit_inst (iid : Nat) : (s.emit ld p bs).inst iid = s.inst iid := rfl
@[simp] theorem State.emit_bus (iid b : Nat) : (s.emit ld p bs).bus iid b = s.bus iid b := rfl
@[simp] theorem State.emit_words (ld' fd : Nat) : (s.emit ld p bs).words ld' fd = s.words ld' fd := rfl
@[simp] theorem State.emit_frozenWord (ld' fd t : Nat) : (s.emit ld p bs).frozenWord ld' fd t = s.frozenWord ld' fd t := rfl
@[simp] theorem State.emit_frozenAt (ld' fd : Nat) : (s.emit ld p bs).frozenAt ld' fd = s.frozenAt ld' fd := rfl
@[simp] theorem State.emit_pRead (ld' fd t : Nat) : (s.emit ld p bs).pRead ld' fd t = s.pRead ld' fd t := rfl
@[simp] theorem State.emit_capDue (die n : Nat) : (s.emit ld p bs).capDue die n = s.capDue die n := rfl
@[simp] theorem State.emit_cell (fd c : Nat) : (s.emit ld p bs).cell fd c = s.cell fd c := rfl
@[simp] theorem State.emit_term (fd t : Nat) : (s.emit ld p bs).term fd t = s.term fd t := rfl
@[simp] theorem State.emit_field (fd : Nat) : (s.emit ld p bs).field fd = s.field fd := rfl
@[simp] theorem State.emit_hbit (fd k : Nat) : (s.emit ld p bs).hbit fd k = s.hbit fd k := rfl
@[simp] theorem State.emit_svP (ld' iid : Nat) : (s.emit ld p bs).svP ld' iid = s.svP ld' iid := rfl
@[simp] theorem State.emit_svH (fd c : Nat) : (s.emit ld p bs).svH fd c = s.svH fd c := rfl
@[simp] theorem State.emit_svDie (die : Nat) : (s.emit ld p bs).svDie die = s.svDie die := rfl
@[simp] theorem State.emit_ring (ld' : Nat) : (s.emit ld p bs).ring ld' = s.ring ld' := rfl
@[simp] theorem State.emit_port (ld' p' : Nat) : (s.emit ld p bs).port ld' p' = s.port ld' p' := rfl
@[simp] theorem State.emit_job (ld' e : Nat) : (s.emit ld p bs).job ld' e = s.job ld' e := rfl
@[simp] theorem State.emit_svst (ld' : Nat) : (s.emit ld p bs).svst ld' = s.svst ld' := rfl
@[simp] theorem State.emit_rem (ld' mb : Nat) : (s.emit ld p bs).rem ld' mb = s.rem ld' mb := rfl
@[simp] theorem State.emit_stby (ld' n : Nat) : (s.emit ld p bs).stby ld' n = s.stby ld' n := rfl
@[simp] theorem State.emit_sealSt (die : Nat) : (s.emit ld p bs).sealSt die = s.sealSt die := rfl
@[simp] theorem State.emit_spmSt (ld' : Nat) : (s.emit ld p bs).spmSt ld' = s.spmSt ld' := rfl
@[simp] theorem State.emit_otpWord (w : Nat) : (s.emit ld p bs).otpWord w = s.otpWord w := rfl
@[simp] theorem State.emit_byte (a : Nat) : (s.emit ld p bs).byte a = s.byte a := rfl
@[simp] theorem State.emit_eccClass (ld' off : Nat) : (s.emit ld p bs).eccClass ld' off = s.eccClass ld' off := rfl
@[simp] theorem State.emit_flashByte (a : Nat) : (s.emit ld p bs).flashByte a = s.flashByte a := rfl
@[simp] theorem State.emit_get (G : Fld) (e j : Nat) : (s.emit ld p bs).get G e j = s.get G e j := rfl
@[simp] theorem State.emit_flag (G : Fld) (e j : Nat) : (s.emit ld p bs).flag G e j = s.flag G e j := rfl
@[simp] theorem State.emit_outBit (ld' e : Nat) : (s.emit ld p bs).outBit ld' e = s.outBit ld' e := rfl
@[simp] theorem State.emit_free : (s.emit ld p bs).free = s.free := rfl
@[simp] theorem State.emit_choice : (s.emit ld p bs).choice = s.choice := rfl

end

end Sys2Proof.Machine
end

