-- ==== Sys2Proof/Laws/Store.lean ====
section
/-! SUPPORT. The laws of the sparse store: read after write, and that every operation keeps the canonical form. -/

namespace Sys2Proof.Machine

variable {α : Type} [DecidableEq α] {d : Nat → α}

omit [DecidableEq α] in
@[simp] theorem Store.get_nil (k : Nat) : Store.get d [] k = d k := rfl

omit [DecidableEq α] in
@[simp] theorem Store.get_erase (m : Store α) (k j : Nat) :
    Store.get d (Store.erase m k) j = if j = k then d k else Store.get d m j := by
  induction m with
  | nil => by_cases h : j = k <;> simp [Store.get, Store.erase, h]
  | cons e m ih =>
    obtain ⟨a, v⟩ := e
    by_cases hak : a = k
    · simp only [Store.erase, hak, if_true, ih, Store.get]
      by_cases hjk : j = k
      · simp [hjk]
      · simp [hjk, Ne.symm hjk]
    · simp only [Store.erase, hak, if_false, Store.get, ih]
      by_cases haj : a = j
      · subst haj; simp [hak]
      · simp [haj]

omit [DecidableEq α] in
theorem Store.get_insert (m : Store α) (k j : Nat) (v : α) (h : ∀ e ∈ m, e.1 ≠ k) :
    Store.get d (Store.insert m k v) j = if j = k then v else Store.get d m j := by
  induction m with
  | nil =>
    by_cases hj : j = k
    · simp [Store.insert, Store.get, hj]
    · simp [Store.insert, Store.get, hj, Ne.symm hj]
  | cons e m ih =>
    obtain ⟨a, w⟩ := e
    have ha : a ≠ k := h (a, w) (by simp)
    have hm : ∀ e ∈ m, e.1 ≠ k := fun e he => h e (by simp [he])
    by_cases hlt : k < a
    · by_cases hj : j = k
      · simp [Store.insert, Store.get, hlt, hj]
      · simp [Store.insert, Store.get, hlt, hj, Ne.symm hj]
    · simp only [Store.insert, hlt, if_false, Store.get, ih hm]
      by_cases haj : a = j
      · subst haj; simp [ha]
      · simp [haj]

omit [DecidableEq α] in
theorem Store.mem_erase (m : Store α) (k : Nat) (e : Nat × α) :
    e ∈ Store.erase m k ↔ e ∈ m ∧ e.1 ≠ k := by
  induction m with
  | nil => simp [Store.erase]
  | cons f m ih =>
    obtain ⟨a, v⟩ := f
    by_cases hak : a = k
    · simp only [Store.erase, hak, if_true, ih, List.mem_cons]
      constructor
      · rintro ⟨h1, h2⟩; exact ⟨.inr h1, h2⟩
      · rintro ⟨h1 | h1, h2⟩
        · exact absurd (by rw [h1]) h2
        · exact ⟨h1, h2⟩
    · simp only [Store.erase, hak, if_false, List.mem_cons, ih]
      constructor
      · rintro (h | ⟨h1, h2⟩)
        · exact ⟨.inl h, by rw [h]; exact hak⟩
        · exact ⟨.inr h1, h2⟩
      · rintro ⟨h1 | h1, h2⟩
        · exact .inl h1
        · exact .inr ⟨h1, h2⟩

/-- Read after write: the written key reads as the written value, every other key as before. -/
@[simp] theorem Store.get_set (m : Store α) (k j : Nat) (v : α) :
    Store.get d (Store.set d m k v) j = if j = k then v else Store.get d m j := by
  unfold Store.set
  split
  · next h => by_cases hj : j = k <;> simp [hj, h]
  · rw [Store.get_insert _ _ _ _ (fun e he => ((Store.mem_erase m k e).1 he).2)]
    by_cases hj : j = k <;> simp [hj]

/-- Another key reads as before, whatever an unlisted key reads as there. -/
theorem Store.get_set_ne (d d' : Nat → α) (m : Store α) (k j : Nat) (v : α) (h : j ≠ k) :
    Store.get d' (Store.set d m k v) j = Store.get d' m j := by
  have he : Store.get d' (Store.erase m k) j = Store.get d' m j := by rw [Store.get_erase, if_neg h]
  unfold Store.set
  split
  · exact he
  · rw [Store.get_insert _ _ _ _ (fun e hm => ((Store.mem_erase m k e).1 hm).2), if_neg h, he]

/-- The canonical form as a statement about the list. -/
theorem Store.wf_iff (m : Store α) :
    Store.wf d m = true ↔ m.Pairwise (fun a b => a.1 < b.1) ∧ ∀ e ∈ m, e.2 ≠ d e.1 := by
  induction m with
  | nil => simp [Store.wf]
  | cons e m ih =>
    obtain ⟨k, v⟩ := e
    cases m with
    | nil => simp [Store.wf]
    | cons f m =>
      obtain ⟨j, w⟩ := f
      simp only [Store.wf, Bool.and_eq_true, decide_eq_true_eq, ih]
      constructor
      · rintro ⟨⟨hv, hkj⟩, hp, ha⟩
        refine ⟨List.pairwise_cons.2 ⟨?_, hp⟩, ?_⟩
        · intro e he
          rcases List.mem_cons.1 he with rfl | he
          · exact hkj
          · exact lt_trans hkj ((List.pairwise_cons.1 hp).1 e he)
        · intro e he
          rcases List.mem_cons.1 he with rfl | he
          · exact hv
          · exact ha e he
      · rintro ⟨hp, ha⟩
        have hp' := List.pairwise_cons.1 hp
        exact ⟨⟨ha (k, v) (by simp), hp'.1 (j, w) (by simp)⟩, hp'.2, fun e he => ha e (by simp [he])⟩

omit [DecidableEq α] in
theorem Store.erase_sublist (m : Store α) (k : Nat) : (Store.erase m k).Sublist m := by
  induction m with
  | nil => exact List.Sublist.refl _
  | cons e m ih =>
    obtain ⟨a, v⟩ := e
    by_cases h : a = k
    · simp only [Store.erase, h, if_true]; exact ih.cons _
    · simp only [Store.erase, h, if_false]; exact ih.cons_cons _

omit [DecidableEq α] in
theorem Store.mem_insert (m : Store α) (k : Nat) (v : α) (e : Nat × α) :
    e ∈ Store.insert m k v ↔ e = (k, v) ∨ e ∈ m := by
  induction m with
  | nil => simp [Store.insert]
  | cons f m ih =>
    obtain ⟨a, w⟩ := f
    by_cases h : k < a
    · simp [Store.insert, h]
    · simp only [Store.insert, h, if_false, List.mem_cons, ih]; tauto

omit [DecidableEq α] in
theorem Store.insert_pairwise (m : Store α) (k : Nat) (v : α)
    (hp : m.Pairwise (fun a b => a.1 < b.1)) (hk : ∀ e ∈ m, e.1 ≠ k) :
    (Store.insert m k v).Pairwise (fun a b => a.1 < b.1) := by
  induction m with
  | nil => simp [Store.insert]
  | cons f m ih =>
    obtain ⟨a, w⟩ := f
    have hp' := List.pairwise_cons.1 hp
    have ha : a ≠ k := hk (a, w) (by simp)
    by_cases h : k < a
    · simp only [Store.insert, h, if_true]
      refine List.pairwise_cons.2 ⟨?_, hp⟩
      intro e he
      rcases List.mem_cons.1 he with rfl | he
      · exact h
      · exact lt_trans h (hp'.1 e he)
    · simp only [Store.insert, h, if_false]
      refine List.pairwise_cons.2 ⟨?_, ih hp'.2 (fun e he => hk e (by simp [he]))⟩
      intro e he
      rcases (Store.mem_insert m k v e).1 he with rfl | he
      · show a < k; omega
      · exact hp'.1 e he

theorem Store.wf_erase (m : Store α) (k : Nat) (h : Store.wf d m = true) :
    Store.wf d (Store.erase m k) = true := by
  rw [Store.wf_iff] at h ⊢
  exact ⟨h.1.sublist (Store.erase_sublist m k), fun e he => h.2 e ((Store.mem_erase m k e).1 he).1⟩

/-- Every write keeps the canonical form. -/
theorem Store.wf_set (m : Store α) (k : Nat) (v : α) (h : Store.wf d m = true) :
    Store.wf d (Store.set d m k v) = true := by
  unfold Store.set
  split
  · exact Store.wf_erase m k h
  · next hv =>
    have he := Store.wf_erase m k h
    rw [Store.wf_iff] at he ⊢
    refine ⟨Store.insert_pairwise _ _ _ he.1 (fun e h' => ((Store.mem_erase m k e).1 h').2), ?_⟩
    intro e h'
    rcases (Store.mem_insert _ k v e).1 h' with rfl | h'
    · exact hv
    · exact he.2 e h'

end Sys2Proof.Machine
end

