-- ==== Sys2Proof/Laws/Ops.lean ====
section
/-! SUPPORT. What the operations of Machine/Ops.lean do: answers, register fields, the numbered stores, memory bytes. -/

namespace Sys2Proof.Machine

/-! ### Answers -/

/-- A command always answers a next state: its effect where the unit is there and the event can come about, else none. -/
theorem State.answer_eq_next {s t u : State} {p e : Bool} : s.answer p e t = .next u ↔ (if p && e then t else s) = u := by
  simp [State.answer]

/-- The answer where the unit is there and the event can come about. -/
theorem State.answer_of {s t : State} {p e : Bool} (hp : p = true) (he : e = true) : s.answer p e t = .next t := by
  simp [State.answer, hp, he]

/-- The answer where the unit is not there, or the event cannot come about. -/
theorem State.answer_idle {s t : State} {p e : Bool} (h : (p && e) = false) : s.answer p e t = .next s := by
  simp [State.answer, h]

@[simp] theorem State.answer_true (s t : State) : s.answer true true t = .next t := rfl

@[simp] theorem State.on_true (s : State) (f : State → State) : s.on true f = f s := rfl

@[simp] theorem State.on_false (s : State) (f : State → State) : s.on false f = s := rfl

@[simp] theorem State.on_id (s : State) (c : Bool) : s.on c id = s := by cases c <;> rfl

@[simp] theorem State.each_nil {α : Type} (s : State) (f : State → α → State) : s.each [] f = s := rfl

@[simp] theorem State.each_cons {α : Type} (s : State) (x : α) (l : List α) (f : State → α → State) :
    s.each (x :: l) f = (f s x).each l f := rfl

/-! ### Register fields -/

theorem Reg.ctorIdx_inj {a b : Reg} (h : a.ctorIdx = b.ctorIdx) : a = b := by
  rw [← Reg.ofNat_ctorIdx a, ← Reg.ofNat_ctorIdx b, h]

/-- Two fields share a key exactly where they are the same register and low bit of the same copy. -/
theorem Fld.key_eq {F G : Fld} {d i e j : Nat} :
    F.key d i = G.key e j ↔ F.reg = G.reg ∧ F.lo = G.lo ∧ d = e ∧ i = j := by
  simp only [Fld.key, Nat.pair_eq_pair]
  constructor
  · rintro ⟨⟨h1, h2⟩, h3⟩; exact ⟨Reg.ctorIdx_inj h1, h2, h3⟩
  · rintro ⟨h1, h2, h3⟩; exact ⟨⟨by rw [h1], h2⟩, h3⟩

/-- Whether two fields lie at the same place. -/
abbrev Fld.same (F G : Fld) : Bool := decide (F.reg = G.reg ∧ F.lo = G.lo)

/-- What a field reads after it was written: the value within its width; every other copy as before. -/
@[simp] theorem State.get_put (s : State) (F : Fld) (d i v e j : Nat) :
    (s.put F d i v).get F e j = if e = d ∧ j = i then v % 2 ^ F.w else s.get F e j := by
  unfold State.get State.put
  by_cases h : e = d ∧ j = i
  · obtain ⟨rfl, rfl⟩ := h
    simp
  · rw [if_neg h]
    exact Store.get_set_ne (fun _ => F.resetAt d i) (fun _ => F.resetAt e j) s.regs _ _ _ (fun hk => h ⟨(Fld.key_eq.1 hk).2.2.1, (Fld.key_eq.1 hk).2.2.2⟩)

/-- A field reads as before where another copy or another field was written. -/
theorem State.get_put_key (s : State) (F G : Fld) (d i v e j : Nat) (h : G.key e j ≠ F.key d i) :
    (s.put F d i v).get G e j = s.get G e j  :=
  Store.get_set_ne (fun _ => F.resetAt d i) (fun _ => G.resetAt e j) s.regs _ _ _ h

@[simp] theorem State.get_put_other (s : State) (F G : Fld) (d i v e j : Nat) (h : F.same G = false) :
    (s.put F d i v).get G e j = s.get G e j := by
  refine State.get_put_key s F G d i v e j fun hk => ?_
  have := Fld.key_eq.1 hk
  simp [Fld.same, this.1, this.2.1] at h

theorem State.putB_eq (s : State) (F : Fld) (d i : Nat) (b : Bool) : s.putB F d i b = s.put F d i b.toNat := rfl

theorem State.clear_eq (s : State) (F : Fld) (d i : Nat) : s.clear F d i = s.put F d i (F.resetAt d i) := rfl

theorem State.flag_eq (s : State) (F : Fld) (d i : Nat) : s.flag F d i = decide (s.get F d i ≠ 0) := rfl

/-! ### The numbered stores: what a unit reads as after a unit was written -/

@[simp] theorem State.lane_setLane (s : State) (ld l : Nat) (v : LaneSt) (ld' l' : Nat) :
    (s.setLane ld l v).lane ld' l' = if 8 * ld' + l' = 8 * ld + l then v else s.lane ld' l' :=
  Store.get_set _ _ _ _

@[simp] theorem State.inst_setInst (s : State) (iid : Nat) (v : PInst) (iid' : Nat) :
    (s.setInst iid v).inst iid' = if iid' = iid then v else s.inst iid' :=
  Store.get_set _ _ _ _

@[simp] theorem State.bus_setBus (s : State) (iid b : Nat) (v : BusBit) (iid' b' : Nat) :
    (s.setBus iid b v).bus iid' b' = if 2 * iid' + b' % 2 = 2 * iid + b % 2 then v else s.bus iid' b' :=
  Store.get_set _ _ _ _

@[simp] theorem State.words_setWords (s : State) (ld fd : Nat) (v : SentWords) (ld' fd' : Nat) :
    (s.setWords ld fd v).words ld' fd' = if 8 * ld' + fd' = 8 * ld + fd then v else s.words ld' fd' :=
  Store.get_set _ _ _ _

@[simp] theorem State.frozenWord_setFrozen (s : State) (ld fd t v : Nat) (ld' fd' t' : Nat) :
    (s.setFrozen ld fd t v).frozenWord ld' fd' t' = if 384 * ld' + 64 * fd' + t' = 384 * ld + 64 * fd + t then v else s.frozenWord ld' fd' t' :=
  Store.get_set _ _ _ _

@[simp] theorem State.frozenAt_setFrozenAt (s : State) (ld fd v : Nat) (ld' fd' : Nat) :
    (s.setFrozenAt ld fd v).frozenAt ld' fd' = if 8 * ld' + fd' = 8 * ld + fd then v else s.frozenAt ld' fd' :=
  Store.get_set _ _ _ _

@[simp] theorem State.pRead_setPRead (s : State) (ld fd t : Nat) (v : PRead) (ld' fd' t' : Nat) :
    (s.setPRead ld fd t v).pRead ld' fd' t' = if 384 * ld' + 64 * fd' + t' = 384 * ld + 64 * fd + t then v else s.pRead ld' fd' t' :=
  Store.get_set _ _ _ _

@[simp] theorem State.cell_setCell (s : State) (fd c : Nat) (v : HCell) (fd' c' : Nat) :
    (s.setCell fd c v).cell fd' c' = if 144 * fd' + c' = 144 * fd + c then v else s.cell fd' c' :=
  Store.get_set _ _ _ _

@[simp] theorem State.term_setTerm (s : State) (fd t : Nat) (v : TermSt) (fd' t' : Nat) :
    (s.setTerm fd t v).term fd' t' = if 64 * fd' + t' = 64 * fd + t then v else s.term fd' t' :=
  Store.get_set _ _ _ _

@[simp] theorem State.field_setField (s : State) (fd : Nat) (v : FieldSt) (fd' : Nat) :
    (s.setField fd v).field fd' = if fd' = fd then v else s.field fd' :=
  Store.get_set _ _ _ _

@[simp] theorem State.hbit_setHbit (s : State) (fd k : Nat) (v : HBusBit) (fd' k' : Nat) :
    (s.setHbit fd k v).hbit fd' k' = if 320 * fd' + k' = 320 * fd + k then v else s.hbit fd' k' :=
  Store.get_set _ _ _ _

@[simp] theorem State.svP_setSvP (s : State) (ld iid : Nat) (v : SieveSt) (ld' iid' : Nat) :
    (s.setSvP ld iid v).svP ld' iid' = if 768 * ld' + iid' = 768 * ld + iid then v else s.svP ld' iid' :=
  Store.get_set _ _ _ _

@[simp] theorem State.svH_setSvH (s : State) (fd c : Nat) (v : SieveSt) (fd' c' : Nat) :
    (s.setSvH fd c v).svH fd' c' = if 144 * fd' + c' = 144 * fd + c then v else s.svH fd' c' :=
  Store.get_set _ _ _ _

@[simp] theorem State.svDie_setSvDie (s : State) (die : Nat) (v : SieveDie) (die' : Nat) :
    (s.setSvDie die v).svDie die' = if die' = die then v else s.svDie die' :=
  Store.get_set _ _ _ _

@[simp] theorem State.ring_setRing (s : State) (ld : Nat) (v : RingSt) (ld' : Nat) :
    (s.setRing ld v).ring ld' = if ld' = ld then v else s.ring ld' :=
  Store.get_set _ _ _ _

@[simp] theorem State.port_setPort (s : State) (ld p : Nat) (v : PortSt) (ld' p' : Nat) :
    (s.setPort ld p v).port ld' p' = if 2 * ld' + p' = 2 * ld + p then v else s.port ld' p' :=
  Store.get_set _ _ _ _

@[simp] theorem State.job_setJob (s : State) (ld e : Nat) (v : Job) (ld' e' : Nat) :
    (s.setJob ld e v).job ld' e' = if 8 * ld' + e' = 8 * ld + e then v else s.job ld' e' :=
  Store.get_set _ _ _ _

@[simp] theorem State.svst_setSv (s : State) (ld : Nat) (v : SvSt) (ld' : Nat) :
    (s.setSv ld v).svst ld' = if ld' = ld then v else s.svst ld' :=
  Store.get_set _ _ _ _

@[simp] theorem State.rem_setRem (s : State) (ld mb : Nat) (v : Remote) (ld' mb' : Nat) :
    (s.setRem ld mb v).rem ld' mb' = if 8 * ld' + mb' = 8 * ld + mb then v else s.rem ld' mb' :=
  Store.get_set _ _ _ _

@[simp] theorem State.stby_setStby (s : State) (ld n : Nat) (v : Standby) (ld' n' : Nat) :
    (s.setStby ld n v).stby ld' n' = if 8 * ld' + n' = 8 * ld + n then v else s.stby ld' n' :=
  Store.get_set _ _ _ _

@[simp] theorem State.sealSt_setSeal (s : State) (die : Nat) (v : SealSt) (die' : Nat) :
    (s.setSeal die v).sealSt die' = if die' = die then v else s.sealSt die' :=
  Store.get_set _ _ _ _

@[simp] theorem State.spmSt_setSpm (s : State) (ld : Nat) (v : SpmSt) (ld' : Nat) :
    (s.setSpm ld v).spmSt ld' = if ld' = ld then v else s.spmSt ld' :=
  Store.get_set _ _ _ _

@[simp] theorem State.outBit_setOutBit (s : State) (ld e : Nat) (b : Bool) (ld' e' : Nat) :
    (s.setOutBit ld e b).outBit ld' e' = if ld' = ld ∧ e' = e then b else s.outBit ld' e' := by
  simp only [State.outBit, State.setOutBit, Store.get_set, Nat.pair_eq_pair]
  split_ifs
  · cases b <;> rfl
  · rfl

@[simp] theorem State.capDue_setCapDue (s : State) (die n v die' n' : Nat) :
    (s.setCapDue die n v).capDue die' n' = if die' = die ∧ n' = n then v else s.capDue die' n' := by
  simp only [State.capDue, State.setCapDue, Store.get_set, Nat.pair_eq_pair]

/-! ### Values handed out -/

@[simp] theorem State.results_give (s : State) (v : List Nat) : (s.give v).results = v := rfl

@[simp] theorem State.sent_sending (s : State) : s.sending.sent = [] := rfl

@[simp] theorem State.sent_emit (s : State) (ld p : Nat) (bs : List Byte) : (s.emit ld p bs).sent = s.sent ++ [(2 * ld + p, bs)] := rfl

/-! ### Memory bytes -/

/-- Read after write. -/
@[simp] theorem State.byte_setByte (s : State) (a : Nat) (v : Byte) (b : Nat) :
    (s.setByte a v).byte b = if b = a then v else s.byte b := Store.get_set _ _ _ _

/-- A run of bytes reads as written; every other byte as before. -/
theorem State.byte_setBytes (s : State) (a : Nat) (l : List Byte) (b : Nat) :
    (s.setBytes a l).byte b = if a ≤ b ∧ b < a + l.length then l.getD (b - a) 0 else s.byte b := by
  induction l generalizing s a with
  | nil =>
    have h : ¬(a ≤ b ∧ b < a + 0) := by omega
    simp only [State.setBytes, List.length_nil, if_neg h]
  | cons x l ih =>
    rw [State.setBytes, ih, State.byte_setByte]
    by_cases h : b = a
    · subst h; simp
    · by_cases h1 : a ≤ b ∧ b < a + (x :: l).length
      · have h2 : a + 1 ≤ b ∧ b < a + 1 + l.length := by simp at h1; omega
        have h3 : b - a = (b - (a + 1)) + 1 := by omega
        rw [if_pos h1, if_pos h2, h3]; simp
      · have h2 : ¬(a + 1 ≤ b ∧ b < a + 1 + l.length) := by simp at h1; omega
        rw [if_neg h1, if_neg h2, if_neg h]

/-- A run of bytes is all that a write of it changes. -/
theorem State.setBytes_eq (s : State) (a : Nat) (l : List Byte) :
    s.setBytes a l = { s with mem := (s.setBytes a l).mem } := by
  induction l generalizing s a with
  | nil => rfl
  | cons x l ih => exact (ih (s.setByte a x) (a + 1)).trans rfl

/-! ### OTP words -/


/-- The code of 64 data bits reads without error as those bits. -/
@[simp] theorem otpDecode_otpCode (d : Nat) : otpDecode (otpCode d) = (.good, d % 2 ^ 64) := by
  have h1 : otpCode d % 2 ^ 64 = d % 2 ^ 64 := by simp only [otpCode]; omega
  have h2 : otpCode d / 2 ^ 64 = Config.otpCheck (d % 2 ^ 64) % 2 ^ 8 := by simp only [otpCode]; omega
  rw [otpDecode, if_pos (by rw [otpClean, h1, h2]; exact beq_self_eq_true _), h1]

/-- A code fits the 72 stored bits. -/
theorem otpCode_lt (d : Nat) : otpCode d < 2 ^ 72 := by simp only [otpCode]; omega

/-- A blank word that is programmed reads as the bits programmed; every other word as before. -/
theorem State.otpWord_setOtp {s : State} {w : Nat} (h : s.otpWord w = OtpWord.blank) {x : OtpWord} (hl : x.low < 2 ^ 72)
    (hn : x.norm < 2 ^ 72) (hh : x.high < 2 ^ 72) (w' : Nat) : (s.setOtp w x).otpWord w' = if w' = w then x else s.otpWord w' := by
  have z : s.otpWord w = ⟨0, 0, 0⟩ := h
  simp only [State.setOtp, z, Nat.zero_or, Nat.mod_eq_of_lt hl, Nat.mod_eq_of_lt hn, Nat.mod_eq_of_lt hh]
  exact Store.get_set _ _ _ _

/-- The code of other data is another. -/
theorem otpCode_ne {d e : Nat} (h : d % 2 ^ 64 ≠ e % 2 ^ 64) : otpCode d ≠ otpCode e := by simp only [otpCode]; omega

/-- The code of data that are not all zero is not blank. -/
theorem otpCode_pos {d : Nat} (h : d % 2 ^ 64 ≠ 0) : otpCode d ≠ 0 := by simp only [otpCode]; omega

/-- A word that reads as the code of its data at every margin is programmed, good, and reads as those data. -/
theorem otpWord_of_code {d : Nat} (h : d % 2 ^ 64 ≠ 0) :
    let w : OtpWord := ⟨otpCode d, otpCode d, otpCode d⟩
    w.prog = true ∧ w.cls = .good ∧ w.data = d % 2 ^ 64 := by
  simp [OtpWord.prog, OtpWord.cls, OtpWord.data, otpCode_pos h]

end Sys2Proof.Machine
end

