-- ==== Sys2Proof/Laws/Claims.lean ====
section
/-! SUPPORT. The terms of Safety.lean: register-only changes, admitted register writes, requests that a supervisor serves. -/

namespace Sys2Proof.Machine

/-! ### Register-only changes -/

theorem onlyFields_put (s : State) (F : Fld) (d i v : Nat) : OnlyFields s (s.put F d i v) [(F, d, i)] :=
  ⟨rfl, fun G e j h => State.get_put_key s F G d i v e j (h _ (List.mem_singleton.2 rfl))⟩

theorem withRegs_trans {s t u : State} (h : t = s.withRegs t.regs) (g : u = t.withRegs u.regs) : u = s.withRegs u.regs := by
  rw [h] at g; exact g

theorem onlyFields_trans {s t u : State} {l m : List (Fld × Nat × Nat)} (h : OnlyFields s t l) (g : OnlyFields t u m) :
    OnlyFields s u (l ++ m) := by
  refine ⟨withRegs_trans h.1 g.1, fun G d i hk => ?_⟩
  rw [g.2 G d i fun x hx => hk x (List.mem_append_right _ hx), h.2 G d i fun x hx => hk x (List.mem_append_left _ hx)]

theorem onlyFields_mono {s t : State} {l m : List (Fld × Nat × Nat)} (h : OnlyFields s t l) (hs : ∀ x ∈ l, x ∈ m) :
    OnlyFields s t m :=
  ⟨h.1, fun G d i hk => h.2 G d i fun x hx => hk x (hs x hx)⟩

/-- A chain of register-only changes is one. -/
theorem each_withRegs {α : Type} {l : List α} {f : State → α → State} (hf : ∀ s x, f s x = s.withRegs (f s x).regs) (s : State) :
    s.each l f = s.withRegs (s.each l f).regs := by
  induction l generalizing s with
  | nil => rfl
  | cons x l ih => exact withRegs_trans (hf s x) (ih (f s x))

/-- A register write that is admitted does what its field says, and completes without an error response. -/
theorem asWrite_admitted {s : State} {r : Reg} {d i : Nat} {m : Master} {a b : Bool} {f : State → State}
    (h : WriteAdmitted s m r d i a b) : s.asWrite r d i m a b f = (f s).respond false := by
  simp [State.asWrite, h.1, h.2.1, h.2.2.1, h.2.2.2]

/-! ### The dies present -/

theorem lds_cases (s : State) : s.lds = [0] ∨ s.lds = [0, 1] := by
  unfold State.lds Variant.logics; cases s.variant <;> simp [List.range_succ]

theorem hasLd_iff {s : State} {d : Nat} : s.hasLd d = true ↔ d ∈ s.lds := by simp [State.lds, State.hasLd]

/-! ### Requests that a supervisor serves -/

/-- What a command answers whose request passes the checks before it: its own answer, written as the response. -/
theorem command_serves {s : State} {ld mb op : Nat} {sub : Bool} {len : List Byte → Bool} {f : Nat → Nat → State → List Byte → Reply}
    {after : State → State} (h : s.Serves ld mb op) (hs : sub = true) (hl : len (s.req ld mb).own = true) {r : Reply}
    (hr : f (s.serverDie ld mb) (s.req ld mb).tag (s.accepted ld mb) (s.req ld mb).own = r) :
    s.command ld mb op sub len f after =
      .next ((s.answered r.st ld mb r.status r.payload).on (decide (r.status = St.ok)) after) := by
  subst hr
  obtain ⟨h1, h2, h3, ho, h4, h5, ⟨r, hr, h6, h7, h8⟩, h9⟩ := h
  have ha : s.accepted ld mb = (s.authorise mb (s.req ld mb) r).1 := by unfold State.accepted; rw [ho, hr]
  rw [ha] at h8 ⊢
  have e : s.answerReq mb (s.serverDie ld mb) (s.req ld mb) len (f (s.serverDie ld mb) (s.req ld mb).tag) =
      f (s.serverDie ld mb) (s.req ld mb).tag (s.authorise mb (s.req ld mb) r).1 (s.req ld mb).own := by
    unfold State.answerReq; rw [ho, hr]; dsimp only
    rw [if_neg (by rw [h9]; simp), if_neg (by rw [h6]; simp), if_neg (by rw [h7]; simp), if_neg (by rw [h8]; simp),
      if_neg (by rw [hl]; simp)]
  unfold State.command State.serve State.canServe
  dsimp only
  rw [if_neg (by rw [h4]; simp), h5]; dsimp only
  rw [e, h1, h3, hs, ho, decide_eq_true h2, decide_eq_true rfl, Bool.true_and, Bool.true_and, Bool.or_true]
  rfl

/-- A command that executes, with nothing to do once it is complete. -/
theorem command_done {s : State} {ld mb op : Nat} {sub : Bool} {len : List Byte → Bool} {f : Nat → Nat → State → List Byte → Reply}
    {t : State} {payload : List Byte} (h : s.Serves ld mb op) (hs : sub = true) (hl : len (s.req ld mb).own = true)
    (hr : f (s.serverDie ld mb) (s.req ld mb).tag (s.accepted ld mb) (s.req ld mb).own = done t payload) :
    s.command ld mb op sub len f = .next (s.answered t ld mb St.ok payload) := by
  rw [command_serves h hs hl hr, State.on_id]; unfold done; rfl

/-- A command that answers with a status of its own. -/
theorem command_status {s : State} {ld mb op : Nat} {sub : Bool} {len : List Byte → Bool} {f : Nat → Nat → State → List Byte → Reply}
    {t : State} {n : Nat} {payload : List Byte} (h : s.Serves ld mb op) (hs : sub = true) (hl : len (s.req ld mb).own = true)
    (hr : f (s.serverDie ld mb) (s.req ld mb).tag (s.accepted ld mb) (s.req ld mb).own = ⟨t, n, payload⟩) :
    s.command ld mb op sub len f = .next (s.answered t ld mb n payload) := by
  rw [command_serves h hs hl hr, State.on_id]

/-- A command that executes, and acts once COMPLETE is set. -/
theorem command_done_after {s : State} {ld mb op : Nat} {sub : Bool} {len : List Byte → Bool}
    {f : Nat → Nat → State → List Byte → Reply} {after : State → State} {t : State} {payload : List Byte} (h : s.Serves ld mb op)
    (hs : sub = true) (hl : len (s.req ld mb).own = true)
    (hr : f (s.serverDie ld mb) (s.req ld mb).tag (s.accepted ld mb) (s.req ld mb).own = done t payload) :
    s.command ld mb op sub len f after = .next (after (s.answered t ld mb St.ok payload)) := by
  rw [command_serves h hs hl hr]; rfl

end Sys2Proof.Machine
end

