-- ==== Sys2Proof/Laws/Fences.lean ====
section
/-! SUPPORT. What the fences of the units read as after one is set. -/

namespace Sys2Proof.Machine

/-- Each unit has a key of its own. -/
theorem unitKey_inj {k d i k' d' i' : Nat} : unitKey k d i = unitKey k' d' i' ↔ k = k' ∧ d = d' ∧ i = i' := by
  simp only [unitKey, Nat.pair_eq_pair]

/-- Read after write of a unit's fence. -/
@[simp] theorem State.fence_setFence (s : State) (k d i : Nat) (v : Fence) (k' d' i' : Nat) :
    (s.setFence k d i v).fence k' d' i' = if k' = k ∧ d' = d ∧ i' = i then v else s.fence k' d' i' := by
  simp only [State.fence, State.setFence, Store.get_set, unitKey_inj]

end Sys2Proof.Machine
end

