-- ==== Sys2Proof/Laws/Keeps.lean ====
section
/-!
SUPPORT. What no operation of the model does. `Keeps k s t` says that going from `s` to `t` keeps the invariant, takes back no
OTP word, leaves the queue, the variant and the revision as they are, and leaves alone what the promise `k` names: memory, flash,
OTP, the tick number, the running image. This file holds the relation and its laws for the operations of Machine/Ops.lean; the files
beside it carry it up to every command, one lemma per operation. An operation that may touch memory, flash, OTP, the tick or the
image says so by a premise of its lemma.
-/

namespace Sys2Proof.Machine

/-- What a run of operations is promised to leave alone. -/
structure Promise where
  mem : Bool
  flash : Bool
  otp : Bool
  tick : Bool
  image : Bool

/-- Going from `s` to `t` breaks none of the promises of the whole machine, nor those of `k`. -/
structure Keeps (k : Promise) (s t : State) : Prop where
  inv : s.Inv → t.Inv
  grows : OtpGrows s t
  pending : t.pending = s.pending
  variant : t.variant = s.variant
  rev : t.rev = s.rev
  ctr : s.freeCtr ≤ t.freeCtr
  mem : k.mem = true → t.mem = s.mem
  flash : k.flash = true → t.flash = s.flash
  otp : k.otp = true → t.otp = s.otp
  tick : k.tick = true → t.tick = s.tick
  image : k.image = true → t.image = s.image

variable {k : Promise}

theorem OtpGrows.refl (s : State) : OtpGrows s s := fun _ => ⟨id, by simp⟩

theorem OtpGrows.trans {s t u : State} (h : OtpGrows s t) (g : OtpGrows t u) : OtpGrows s u := by
  intro w
  obtain ⟨hp, hl, hn, hh⟩ := h w
  obtain ⟨gp, gl, gn, gh⟩ := g w
  exact ⟨fun e => gp (hp e), by rw [← hl, Nat.and_assoc, gl], by rw [← hn, Nat.and_assoc, gn], by rw [← hh, Nat.and_assoc, gh]⟩

theorem Keeps.refl (s : State) : Keeps k s s :=
  ⟨id, OtpGrows.refl s, rfl, rfl, rfl, le_refl _, fun _ => rfl, fun _ => rfl, fun _ => rfl, fun _ => rfl, fun _ => rfl⟩

theorem Keeps.trans {s t u : State} (h : Keeps k s t) (g : Keeps k t u) : Keeps k s u :=
  ⟨fun hi => g.inv (h.inv hi), h.grows.trans g.grows, g.pending.trans h.pending, g.variant.trans h.variant, g.rev.trans h.rev,
    h.ctr.trans g.ctr, fun e => (g.mem e).trans (h.mem e), fun e => (g.flash e).trans (h.flash e),
    fun e => (g.otp e).trans (h.otp e), fun e => (g.tick e).trans (h.tick e), fun e => (g.image e).trans (h.image e)⟩

/-- A change of fields that no promise is about. -/
theorem Keeps.upd {s0 s t : State} (h : Keeps k s0 s) (hm : t.mem = s.mem) (hf : t.flash = s.flash) (he : t.ecc = s.ecc)
    (ho : t.otp = s.otp) (hl : t.flog = s.flog) (hp : t.pending = s.pending) (hv : t.variant = s.variant)
    (hr : t.rev = s.rev) (hc : t.freeCtr = s.freeCtr) (ht : t.tick = s.tick) (hi : t.image = s.image) : Keeps k s0 t := by
  refine h.trans ⟨fun hi => ⟨?_, ?_, ?_⟩, ?_, hp, hv, hr, hc.ge, fun _ => hm, fun _ => hf, fun _ => ho, fun _ => ht, fun _ => hi⟩
  · simpa only [State.memWf, hm, hf, he, ho] using hi.mem
  · simpa only [State.otpFits, State.otpWord, ho] using hi.otp
  · simpa only [State.logBounded, hl] using hi.log
  · intro w
    simp only [State.otpWord, ho]
    exact ⟨id, by simp⟩

/-- A record update of fields that no promise is about. -/
theorem State.mk_keeps {s0 s : State} (h : Keeps k s0 s)
    (regs : Store Nat) (part : PartSt) (tnumLatch : Store Nat) (extRun : Nat) (jobs : Store Job) (sv : Store SvSt)
    (fences : Store Fence) (lanes : Store LaneSt) (pinst : Store PInst) (busBits : Store BusBit) (outImg : Store Nat)
    (outWords : Store SentWords) (frozen : Store Nat) (frozenTick : Store Nat) (pIn : Store PRead)
    (capIn : Store Nat) (cells : Store HCell) (terms : Store TermSt) (fields : Store FieldSt) (hbus : Store HBusBit)
    (sieveP : Store SieveSt) (sieveH : Store SieveSt) (sieveDie : Store SieveDie) (rings : Store RingSt)
    (ports : Store PortSt) (furP : Store (List FurEntry)) (furH : Store (List FurEntry))
    (marksP : Store (List MarkArr)) (marksH : Store (List MarkArr)) (zoneP : Store Nat) (htxH : Store Nat)
    (htxMarks : List HMark) (mbOrder : List (Nat × Nat)) (remote : Store Remote) (xferC : Transfer)
    (xferF : Transfer) (xferSeq : Nat) (fwStaged : Option Nat) (soak : Option Soak) (standby : Store Standby)
    (seals : Store SealSt) (spm : Store SpmSt) (tap : TapIns) (tapRegs : TapRegs) (prpg : Store Nat) (vaultIn : List Byte) (vaultOpen : Bool)
    (host : HostSt) (bootRec : BootRec) (otpOp : OtpOp) (sent : List (Nat × List Byte)) (results : List Nat)
    (busErr : Bool) :
    Keeps k s0 (State.mk s.variant s.rev regs s.mem s.ecc s.flash s.otp part s.tick tnumLatch extRun jobs s.flog sv
    fences lanes pinst busBits outImg outWords frozen frozenTick pIn capIn cells terms fields hbus sieveP sieveH
    sieveDie rings ports furP furH marksP marksH zoneP htxH htxMarks mbOrder remote xferC xferF xferSeq fwStaged
    s.image soak standby seals spm tap tapRegs prpg vaultIn vaultOpen host bootRec otpOp sent results busErr s.freeCtr s.pending)
    :=
  h.upd rfl rfl rfl rfl rfl rfl rfl rfl rfl rfl rfl

theorem Keeps.ite {s0 a b : State} {c : Prop} [Decidable c] (ha : c → Keeps k s0 a) (hb : ¬c → Keeps k s0 b) :
    Keeps k s0 (if c then a else b) := by
  split <;> simp_all

theorem Keeps.ident {s0 s : State} (h : Keeps k s0 s) : Keeps k s0 (id s) := h

theorem Keeps.fst {α : Type} {s0 a : State} {x : State × α} {b : α} (e : x = (a, b)) (h : Keeps k s0 x.1) : Keeps k s0 a := by
  subst e; exact h

theorem Keeps.fst3 {α β : Type} {s0 a : State} {x : State × α × β} {b : α} {c : β} (e : x = (a, b, c)) (h : Keeps k s0 x.1) :
    Keeps k s0 a := by
  subst e; exact h

theorem Keeps.foldl {α : Type} {s0 s : State} {f : State → α → State} (l : List α)
    (hf : ∀ s x, Keeps k s0 s → Keeps k s0 (f s x)) (h : Keeps k s0 s) : Keeps k s0 (l.foldl f s) := by
  induction l generalizing s with
  | nil => exact h
  | cons x l ih => exact ih (hf s x h)

theorem Keeps.foldlFst {α β : Type} {s0 : State} {p : State × β} {f : State × β → α → State × β} (l : List α)
    (hf : ∀ p x, Keeps k s0 p.1 → Keeps k s0 (f p x).1) (h : Keeps k s0 p.1) : Keeps k s0 (l.foldl f p).1 := by
  induction l generalizing p with
  | nil => exact h
  | cons x l ih => exact ih (hf p x h)

theorem Keeps.each {α : Type} {s0 s : State} {l : List α} {f : State → α → State}
    (hf : ∀ s x, Keeps k s0 s → Keeps k s0 (f s x)) (h : Keeps k s0 s) : Keeps k s0 (s.each l f) := Keeps.foldl l hf h

theorem Keeps.on {s0 s : State} {c : Bool} {f : State → State} (hf : ∀ s, Keeps k s0 s → Keeps k s0 (f s)) (h : Keeps k s0 s) :
    Keeps k s0 (s.on c f) := by
  unfold State.on; split
  · exact hf s h
  · exact h

/-- The answer of a command is kept where the state before it and that of its effect are. -/
theorem Keeps.answer {s0 s t u : State} {p e : Bool} (h : Keeps k s0 s) (h' : Keeps k s0 u) (ht : s.answer p e u = .next t) :
    Keeps k s0 t := by
  unfold State.answer at ht
  cases ht
  split
  · exact h'
  · exact h

/-! ### The operations that touch what the promises are about -/

theorem State.Inv.withMem {s : State} {m : Store Byte} (h : s.Inv) (hm : Store.wf (fun _ => (0 : Byte)) m = true) :
    State.Inv { s with mem := m } := ⟨⟨hm, h.mem.2⟩, h.otp, h.log⟩

theorem Store.wf_dropRange {α : Type} [DecidableEq α] {d : Nat → α} (m : Store α) (a b : Nat) (h : Store.wf d m = true) :
    Store.wf d (Store.dropRange m a b) = true := by
  rw [Store.wf_iff] at h ⊢
  exact ⟨h.1.sublist List.filter_sublist, fun e he => h.2 e (List.mem_of_mem_filter he)⟩

/-- Any canonical memory in place of the memory. -/
theorem Keeps.withMem {s0 s : State} {m : Store Byte} (h : Keeps k s0 s) (hmem : k.mem = false)
    (hm : Store.wf (fun _ => (0 : Byte)) s.mem = true → Store.wf (fun _ => (0 : Byte)) m = true) :
    Keeps k s0 { s with mem := m } :=
  h.trans ⟨fun hi => hi.withMem (hm hi.mem.1), OtpGrows.refl s, rfl, rfl, rfl, le_refl _,
    fun e => absurd (hmem.symm.trans e) (by simp), fun _ => rfl, fun _ => rfl, fun _ => rfl, fun _ => rfl⟩

theorem State.setByte_keeps {s0 s : State} (h : Keeps k s0 s) (hmem : k.mem = false) (a : Nat) (v : Byte) : Keeps k s0 (s.setByte a v) :=
  h.withMem hmem (Store.wf_set _ _ _)

theorem State.setBytes_keeps {s0 s : State} (h : Keeps k s0 s) (hmem : k.mem = false) (a : Nat) (l : List Byte) : Keeps k s0 (s.setBytes a l) := by
  induction l generalizing a s with
  | nil => exact h
  | cons b l ih => exact ih (State.setByte_keeps h hmem a b) (a + 1)

/-- Any canonical flash in place of the flash. -/
theorem Keeps.withFlash {s0 s : State} {m : Store Byte} (h : Keeps k s0 s) (hflash : k.flash = false)
    (hm : Store.wf (fun _ => (0xFF : Byte)) s.flash = true → Store.wf (fun _ => (0xFF : Byte)) m = true) :
    Keeps k s0 { s with flash := m } :=
  h.trans ⟨fun hi => ⟨⟨hi.mem.1, hm hi.mem.2.1, hi.mem.2.2⟩, hi.otp, hi.log⟩, OtpGrows.refl s, rfl, rfl, rfl, le_refl _,
    fun _ => rfl, fun e => absurd (hflash.symm.trans e) (by simp), fun _ => rfl, fun _ => rfl, fun _ => rfl⟩

theorem State.setFlash_keeps {s0 s : State} (h : Keeps k s0 s) (hflash : k.flash = false) (a : Nat) (l : List Byte) : Keeps k s0 (s.setFlash a l) := by
  induction l generalizing a s with
  | nil => exact h
  | cons b l ih => exact ih (h.withFlash hflash (Store.wf_set _ _ _)) (a + 1)

/-- Any canonical table of error classes in place of the present one. -/
theorem Keeps.withEcc {s0 s : State} {m : Store WordClass} (h : Keeps k s0 s)
    (hm : Store.wf (fun _ => WordClass.good) s.ecc = true → Store.wf (fun _ => WordClass.good) m = true) :
    Keeps k s0 { s with ecc := m } :=
  h.trans ⟨fun hi => ⟨⟨hi.mem.1, hi.mem.2.1, hm hi.mem.2.2.1, hi.mem.2.2.2⟩, hi.otp, hi.log⟩, OtpGrows.refl s, rfl, rfl, rfl,
    le_refl _, fun _ => rfl, fun _ => rfl, fun _ => rfl, fun _ => rfl, fun _ => rfl⟩

/-- Any bounded log in place of the log. -/
theorem Keeps.withLog {s0 s : State} {m : Store (List LogEntry)} (h : Keeps k s0 s)
    (hm : s.logBounded → ∀ die, (Store.get (fun _ => ([] : List LogEntry)) m die).length ≤ 64) :
    Keeps k s0 { s with flog := m } :=
  h.trans ⟨fun hi => ⟨hi.mem, hi.otp, hm hi.log⟩, OtpGrows.refl s, rfl, rfl, rfl, le_refl _, fun _ => rfl, fun _ => rfl,
    fun _ => rfl, fun _ => rfl, fun _ => rfl⟩

/-- A word that reads 0 at every margin is the blank word. -/
theorem OtpWord.prog_false (w : OtpWord) (h : w.prog = false) : w = OtpWord.blank := by
  cases w
  simp_all [OtpWord.prog, OtpWord.blank]

theorem nat_and_or (a b : Nat) : a &&& (a ||| b) = a := Nat.eq_of_testBit_eq fun i => by simp; exact Or.inl

theorem State.setOtp_keeps {s0 s : State} (h : Keeps k s0 s) (hotp : k.otp = false) (w : Nat) (v : OtpWord) : Keeps k s0 (s.setOtp w v) := by
  refine h.trans ⟨fun hi => ⟨⟨hi.mem.1, hi.mem.2.1, hi.mem.2.2.1, Store.wf_set _ _ _ hi.mem.2.2.2⟩, ?_, hi.log⟩, ?_, rfl, rfl,
    rfl, le_refl _, fun _ => rfl, fun _ => rfl, fun e => absurd (hotp.symm.trans e) (by simp), fun _ => rfl, fun _ => rfl⟩
  · intro k
    have hk := hi.otp k
    have h72 (n : Nat) : n % 2 ^ 72 < 2 ^ 72 := Nat.mod_lt _ (by decide)
    simp only [State.otpWord, State.setOtp, Store.get_set] at hk ⊢
    by_cases h1 : k = w
    · subst h1
      obtain ⟨hl, hn, hh, -⟩ := hk
      simp only [if_true]
      exact ⟨Nat.or_lt_two_pow hl (h72 _), Nat.or_lt_two_pow hn (h72 _), Nat.or_lt_two_pow hh (h72 _), OtpWord.prog_false _⟩
    · simpa only [h1, if_false] using hk
  · intro k
    simp only [State.otpWord, State.setOtp, Store.get_set]
    by_cases h1 : k = w
    · subst h1
      simp only [if_true]
      refine ⟨?_, nat_and_or _ _, nat_and_or _ _, nat_and_or _ _⟩
      simp only [OtpWord.prog, Bool.or_eq_true, bne_iff_ne, ne_eq, Nat.or_eq_zero_iff]
      tauto
    · simp [h1]

/-- Any tick number in place of the present one. -/
theorem Keeps.withTick {s0 s : State} (h : Keeps k s0 s) (htick : k.tick = false) (n : Nat) : Keeps k s0 { s with tick := n } :=
  h.trans ⟨fun hi => ⟨hi.mem, hi.otp, hi.log⟩, OtpGrows.refl s, rfl, rfl, rfl, le_refl _, fun _ => rfl, fun _ => rfl,
    fun _ => rfl, fun e => absurd (htick.symm.trans e) (by simp), fun _ => rfl⟩

/-- Any running image in place of the present one. -/
theorem Keeps.withImage {s0 s : State} (h : Keeps k s0 s) (himage : k.image = false) (i : RunImage) :
    Keeps k s0 { s with image := i } :=
  h.trans ⟨fun hi => ⟨hi.mem, hi.otp, hi.log⟩, OtpGrows.refl s, rfl, rfl, rfl, le_refl _, fun _ => rfl, fun _ => rfl,
    fun _ => rfl, fun _ => rfl, fun e => absurd (himage.symm.trans e) (by simp)⟩

/-- The same, with another tick number. -/
theorem State.mkTick_keeps {s0 s : State} (h : Keeps k s0 s) (htick : k.tick = false)
    (regs : Store Nat) (part : PartSt) (tick : Nat) (tnumLatch : Store Nat) (extRun : Nat) (jobs : Store Job)
    (sv : Store SvSt) (fences : Store Fence) (lanes : Store LaneSt) (pinst : Store PInst) (busBits : Store BusBit)
    (outImg : Store Nat) (outWords : Store SentWords) (frozen : Store Nat) (frozenTick : Store Nat)
    (pIn : Store PRead) (capIn : Store Nat) (cells : Store HCell) (terms : Store TermSt) (fields : Store FieldSt)
    (hbus : Store HBusBit) (sieveP : Store SieveSt) (sieveH : Store SieveSt) (sieveDie : Store SieveDie)
    (rings : Store RingSt) (ports : Store PortSt) (furP : Store (List FurEntry)) (furH : Store (List FurEntry))
    (marksP : Store (List MarkArr)) (marksH : Store (List MarkArr)) (zoneP : Store Nat) (htxH : Store Nat)
    (htxMarks : List HMark) (mbOrder : List (Nat × Nat)) (remote : Store Remote) (xferC : Transfer)
    (xferF : Transfer) (xferSeq : Nat) (fwStaged : Option Nat) (soak : Option Soak) (standby : Store Standby)
    (seals : Store SealSt) (spm : Store SpmSt) (tap : TapIns) (tapRegs : TapRegs) (prpg : Store Nat) (vaultIn : List Byte) (vaultOpen : Bool)
    (host : HostSt) (bootRec : BootRec) (otpOp : OtpOp) (sent : List (Nat × List Byte)) (results : List Nat)
    (busErr : Bool) :
    Keeps k s0 (State.mk s.variant s.rev regs s.mem s.ecc s.flash s.otp part tick tnumLatch extRun jobs s.flog sv
    fences lanes pinst busBits outImg outWords frozen frozenTick pIn capIn cells terms fields hbus sieveP sieveH
    sieveDie rings ports furP furH marksP marksH zoneP htxH htxMarks mbOrder remote xferC xferF xferSeq fwStaged
    s.image soak standby seals spm tap tapRegs prpg vaultIn vaultOpen host bootRec otpOp sent results busErr s.freeCtr s.pending)
    :=
  Keeps.upd (h.withTick htick tick) rfl rfl rfl rfl rfl rfl rfl rfl rfl rfl rfl

/-- The same, with another running image. -/
theorem State.mkImage_keeps {s0 s : State} (h : Keeps k s0 s) (himage : k.image = false)
    (regs : Store Nat) (part : PartSt) (tnumLatch : Store Nat) (extRun : Nat) (jobs : Store Job) (sv : Store SvSt)
    (fences : Store Fence) (lanes : Store LaneSt) (pinst : Store PInst) (busBits : Store BusBit) (outImg : Store Nat)
    (outWords : Store SentWords) (frozen : Store Nat) (frozenTick : Store Nat) (pIn : Store PRead)
    (capIn : Store Nat) (cells : Store HCell) (terms : Store TermSt) (fields : Store FieldSt) (hbus : Store HBusBit)
    (sieveP : Store SieveSt) (sieveH : Store SieveSt) (sieveDie : Store SieveDie) (rings : Store RingSt)
    (ports : Store PortSt) (furP : Store (List FurEntry)) (furH : Store (List FurEntry))
    (marksP : Store (List MarkArr)) (marksH : Store (List MarkArr)) (zoneP : Store Nat) (htxH : Store Nat)
    (htxMarks : List HMark) (mbOrder : List (Nat × Nat)) (remote : Store Remote) (xferC : Transfer)
    (xferF : Transfer) (xferSeq : Nat) (fwStaged : Option Nat) (image : RunImage) (soak : Option Soak)
    (standby : Store Standby) (seals : Store SealSt) (spm : Store SpmSt) (tap : TapIns) (tapRegs : TapRegs) (prpg : Store Nat) (vaultIn : List Byte)
    (vaultOpen : Bool) (host : HostSt) (bootRec : BootRec) (otpOp : OtpOp) (sent : List (Nat × List Byte))
    (results : List Nat) (busErr : Bool) :
    Keeps k s0 (State.mk s.variant s.rev regs s.mem s.ecc s.flash s.otp part s.tick tnumLatch extRun jobs s.flog sv
    fences lanes pinst busBits outImg outWords frozen frozenTick pIn capIn cells terms fields hbus sieveP sieveH
    sieveDie rings ports furP furH marksP marksH zoneP htxH htxMarks mbOrder remote xferC xferF xferSeq fwStaged
    image soak standby seals spm tap tapRegs prpg vaultIn vaultOpen host bootRec otpOp sent results busErr s.freeCtr s.pending) :=
  Keeps.upd (h.withImage himage image) rfl rfl rfl rfl rfl rfl rfl rfl rfl rfl rfl

theorem State.spend_keeps {s0 s : State} (h : Keeps k s0 s) : Keeps k s0 s.spend :=
  h.trans ⟨fun hi => ⟨hi.mem, hi.otp, hi.log⟩, OtpGrows.refl s, rfl, rfl, rfl, Nat.le_succ _, fun _ => rfl,
    fun _ => rfl, fun _ => rfl, fun _ => rfl, fun _ => rfl⟩

end Sys2Proof.Machine
end

