-- ==== Sys2Proof/Laws/KeepsFences.lean ====
section
/-! SUPPORT. The promises of `Keeps` for the register, flag and fence operations, one lemma per operation. -/

namespace Sys2Proof.Machine

variable {k : Promise}

/-! ### Machine/Ops.lean -/

theorem State.put_keeps {s0 s : State} (h : Keeps k s0 s) (F : Fld) (die idx v : Nat) : Keeps k s0 (State.put s F die
    idx v) := by
  exact h.upd rfl rfl rfl rfl rfl rfl rfl rfl rfl rfl rfl

theorem State.putB_keeps {s0 s : State} (h : Keeps k s0 s) (F : Fld) (die idx : Nat) (b : Bool) : Keeps k s0
    (State.putB s F die idx b) := by
  exact h.upd rfl rfl rfl rfl rfl rfl rfl rfl rfl rfl rfl

theorem State.clear_keeps {s0 s : State} (h : Keeps k s0 s) (F : Fld) (die idx : Nat) : Keeps k s0 (State.clear s F
    die idx) := by
  exact h.upd rfl rfl rfl rfl rfl rfl rfl rfl rfl rfl rfl

theorem State.setLane_keeps {s0 s : State} (h : Keeps k s0 s) (ld l : Nat) (v : LaneSt) : Keeps k s0 (State.setLane s
    ld l v) := by
  exact h.upd rfl rfl rfl rfl rfl rfl rfl rfl rfl rfl rfl

theorem State.setInst_keeps {s0 s : State} (h : Keeps k s0 s) (iid : Nat) (v : PInst) : Keeps k s0 (State.setInst s
    iid v) := by
  exact h.upd rfl rfl rfl rfl rfl rfl rfl rfl rfl rfl rfl

theorem State.setBus_keeps {s0 s : State} (h : Keeps k s0 s) (iid b : Nat) (v : BusBit) : Keeps k s0 (State.setBus s
    iid b v) := by
  exact h.upd rfl rfl rfl rfl rfl rfl rfl rfl rfl rfl rfl

theorem State.setWords_keeps {s0 s : State} (h : Keeps k s0 s) (ld fd : Nat) (v : SentWords) : Keeps k s0
    (State.setWords s ld fd v) := by
  exact h.upd rfl rfl rfl rfl rfl rfl rfl rfl rfl rfl rfl

theorem State.setOutBit_keeps {s0 s : State} (h : Keeps k s0 s) (ld e : Nat) (b : Bool) : Keeps k s0 (State.setOutBit
    s ld e b) := by
  exact h.upd rfl rfl rfl rfl rfl rfl rfl rfl rfl rfl rfl

theorem State.setFrozen_keeps {s0 s : State} (h : Keeps k s0 s) (ld fd : Nat) (x3 v : Nat) : Keeps k s0
    (State.setFrozen s ld fd x3 v) := by
  exact h.upd rfl rfl rfl rfl rfl rfl rfl rfl rfl rfl rfl

theorem State.setFrozenAt_keeps {s0 s : State} (h : Keeps k s0 s) (ld fd v : Nat) : Keeps k s0 (State.setFrozenAt s ld
    fd v) := by
  exact h.upd rfl rfl rfl rfl rfl rfl rfl rfl rfl rfl rfl

theorem State.setPRead_keeps {s0 s : State} (h : Keeps k s0 s) (ld fd x3 : Nat) (v : PRead) : Keeps k s0
    (State.setPRead s ld fd x3 v) := by
  exact h.upd rfl rfl rfl rfl rfl rfl rfl rfl rfl rfl rfl

theorem State.setCapDue_keeps {s0 s : State} (h : Keeps k s0 s) (die n v : Nat) : Keeps k s0 (State.setCapDue s die n
    v) := by
  exact h.upd rfl rfl rfl rfl rfl rfl rfl rfl rfl rfl rfl

theorem State.setPrpg_keeps {s0 s : State} (h : Keeps k s0 s) (x2 v : Nat) : Keeps k s0 (State.setPrpg s x2 v) := by
  unfold State.setPrpg
  try dsimp only
  repeat' (first | with_reducible assumption  | with_reducible apply Keeps.ident | with_reducible apply Keeps.each |
    with_reducible apply Keeps.on | with_reducible apply Keeps.ite | with_reducible apply Keeps.foldl | with_reducible
    apply Keeps.foldlFst | (intro _; try dsimp only) | with_reducible refine Keeps.fst ‹_ = (_, _)› ?_ |
    with_reducible refine Keeps.fst3 ‹_ = (_, _, _)› ?_ | (split <;> try dsimp only) | (fail_if_no_progress
    (with_reducible apply State.mk_keeps)))

theorem State.setCell_keeps {s0 s : State} (h : Keeps k s0 s) (fd c : Nat) (v : HCell) : Keeps k s0 (State.setCell s
    fd c v) := by
  exact h.upd rfl rfl rfl rfl rfl rfl rfl rfl rfl rfl rfl

theorem State.setTerm_keeps {s0 s : State} (h : Keeps k s0 s) (fd x2 : Nat) (v : TermSt) : Keeps k s0 (State.setTerm s
    fd x2 v) := by
  exact h.upd rfl rfl rfl rfl rfl rfl rfl rfl rfl rfl rfl

theorem State.setField_keeps {s0 s : State} (h : Keeps k s0 s) (fd : Nat) (v : FieldSt) : Keeps k s0 (State.setField s
    fd v) := by
  exact h.upd rfl rfl rfl rfl rfl rfl rfl rfl rfl rfl rfl

theorem State.setHbit_keeps {s0 s : State} (h : Keeps k s0 s) (fd x2 : Nat) (v : HBusBit) : Keeps k s0 (State.setHbit
    s fd x2 v) := by
  exact h.upd rfl rfl rfl rfl rfl rfl rfl rfl rfl rfl rfl

theorem State.setSvP_keeps {s0 s : State} (h : Keeps k s0 s) (ld iid : Nat) (v : SieveSt) : Keeps k s0 (State.setSvP s
    ld iid v) := by
  exact h.upd rfl rfl rfl rfl rfl rfl rfl rfl rfl rfl rfl

theorem State.setSvH_keeps {s0 s : State} (h : Keeps k s0 s) (fd c : Nat) (v : SieveSt) : Keeps k s0 (State.setSvH s
    fd c v) := by
  exact h.upd rfl rfl rfl rfl rfl rfl rfl rfl rfl rfl rfl

theorem State.setSvDie_keeps {s0 s : State} (h : Keeps k s0 s) (die : Nat) (v : SieveDie) : Keeps k s0 (State.setSvDie
    s die v) := by
  exact h.upd rfl rfl rfl rfl rfl rfl rfl rfl rfl rfl rfl

theorem State.setRing_keeps {s0 s : State} (h : Keeps k s0 s) (ld : Nat) (v : RingSt) : Keeps k s0 (State.setRing s ld
    v) := by
  exact h.upd rfl rfl rfl rfl rfl rfl rfl rfl rfl rfl rfl

theorem State.setPort_keeps {s0 s : State} (h : Keeps k s0 s) (ld p : Nat) (v : PortSt) : Keeps k s0 (State.setPort s
    ld p v) := by
  exact h.upd rfl rfl rfl rfl rfl rfl rfl rfl rfl rfl rfl

theorem State.setJob_keeps {s0 s : State} (h : Keeps k s0 s) (ld e : Nat) (v : Job) : Keeps k s0 (State.setJob s ld e
    v) := by
  exact h.upd rfl rfl rfl rfl rfl rfl rfl rfl rfl rfl rfl

theorem State.setSv_keeps {s0 s : State} (h : Keeps k s0 s) (ld : Nat) (v : SvSt) : Keeps k s0 (State.setSv s ld v) :=
    by
  exact h.upd rfl rfl rfl rfl rfl rfl rfl rfl rfl rfl rfl

theorem State.setRem_keeps {s0 s : State} (h : Keeps k s0 s) (ld mb : Nat) (v : Remote) : Keeps k s0 (State.setRem s
    ld mb v) := by
  exact h.upd rfl rfl rfl rfl rfl rfl rfl rfl rfl rfl rfl

theorem State.setStby_keeps {s0 s : State} (h : Keeps k s0 s) (ld n : Nat) (v : Standby) : Keeps k s0 (State.setStby s
    ld n v) := by
  exact h.upd rfl rfl rfl rfl rfl rfl rfl rfl rfl rfl rfl

theorem State.setSeal_keeps {s0 s : State} (h : Keeps k s0 s) (die : Nat) (v : SealSt) : Keeps k s0 (State.setSeal s
    die v) := by
  exact h.upd rfl rfl rfl rfl rfl rfl rfl rfl rfl rfl rfl

theorem State.setSpm_keeps {s0 s : State} (h : Keeps k s0 s) (ld : Nat) (v : SpmSt) : Keeps k s0 (State.setSpm s ld v)
    := by
  exact h.upd rfl rfl rfl rfl rfl rfl rfl rfl rfl rfl rfl

theorem State.setEcc_keeps {s0 s : State} (h : Keeps k s0 s) (ld off : Nat) (c : WordClass) : Keeps k s0 (s.setEcc ld
    off c) := by
  exact h.withEcc (Store.wf_set _ _ _)

theorem State.give_keeps {s0 s : State} (h : Keeps k s0 s) (v : List Nat) : Keeps k s0 (State.give s v) := by
  exact h.upd rfl rfl rfl rfl rfl rfl rfl rfl rfl rfl rfl

theorem State.respond_keeps {s0 s : State} (h : Keeps k s0 s) (err : Bool) : Keeps k s0 (State.respond s err) := by
  unfold State.respond
  try dsimp only
  repeat' (first | with_reducible assumption  | with_reducible apply Keeps.ident | with_reducible apply Keeps.each |
    with_reducible apply Keeps.on | with_reducible apply Keeps.ite | with_reducible apply Keeps.foldl | with_reducible
    apply Keeps.foldlFst | (intro _; try dsimp only) | with_reducible refine Keeps.fst ‹_ = (_, _)› ?_ |
    with_reducible refine Keeps.fst3 ‹_ = (_, _, _)› ?_ | (split <;> try dsimp only) | (fail_if_no_progress
    (with_reducible apply State.mk_keeps)))

theorem State.sending_keeps {s0 s : State} (h : Keeps k s0 s) : Keeps k s0 (State.sending s) := by
  exact h.upd rfl rfl rfl rfl rfl rfl rfl rfl rfl rfl rfl

theorem State.emit_keeps {s0 s : State} (h : Keeps k s0 s) (ld p : Nat) (bs : List Byte) : Keeps k s0 (State.emit s ld
    p bs) := by
  exact h.upd rfl rfl rfl rfl rfl rfl rfl rfl rfl rfl rfl

/-! ### Machine/Flags.lean -/

theorem State.count_keeps {s0 s : State} (h : Keeps k s0 s) (F : Fld) (die idx : Nat) : Keeps k s0 (State.count s F
    die idx) := by
  exact h.upd rfl rfl rfl rfl rfl rfl rfl rfl rfl rfl rfl

theorem State.countN_keeps {s0 s : State} (h : Keeps k s0 s) (F : Fld) (die idx n : Nat) : Keeps k s0 (State.countN s
    F die idx n) := by
  exact h.upd rfl rfl rfl rfl rfl rfl rfl rfl rfl rfl rfl

theorem State.countWrap_keeps {s0 s : State} (h : Keeps k s0 s) (F : Fld) (die idx : Nat) : Keeps k s0
    (State.countWrap s F die idx) := by
  exact h.upd rfl rfl rfl rfl rfl rfl rfl rfl rfl rfl rfl

theorem State.raiseFlag_keeps {s0 s : State} (h : Keeps k s0 s) (F : Fld) (die idx : Nat) : Keeps k s0
    (State.raiseFlag s F die idx) := by
  exact h.upd rfl rfl rfl rfl rfl rfl rfl rfl rfl rfl rfl

theorem State.orFlags_keeps {s0 s : State} (h : Keeps k s0 s) (F : Fld) (die idx v : Nat) : Keeps k s0 (State.orFlags
    s F die idx v) := by
  exact h.upd rfl rfl rfl rfl rfl rfl rfl rfl rfl rfl rfl

theorem State.w1c_keeps {s0 s : State} (h : Keeps k s0 s) (F : Fld) (die idx v : Nat) : Keeps k s0 (State.w1c s F die
    idx v) := by
  exact h.upd rfl rfl rfl rfl rfl rfl rfl rfl rfl rfl rfl

/-! ### Machine/Network.lean -/

theorem State.setFence_keeps {s0 s : State} (h : Keeps k s0 s) (kind die idx : Nat) (v : Fence) : Keeps k s0
    (State.setFence s kind die idx v) := by
  exact h.upd rfl rfl rfl rfl rfl rfl rfl rfl rfl rfl rfl

theorem State.setDcnt_keeps {s0 s : State} (h : Keeps k s0 s) (die n v : Nat) : Keeps k s0 (State.setDcnt s die n v)
    := by
  exact h.upd rfl rfl rfl rfl rfl rfl rfl rfl rfl rfl rfl

theorem State.reachPoint_keeps {s0 s : State} (h : Keeps k s0 s) (ld p : Nat) : Keeps k s0 (State.reachPoint s ld p)
    := by
  exact h.upd rfl rfl rfl rfl rfl rfl rfl rfl rfl rfl rfl

theorem State.readPos_keeps {s0 s : State} (h : Keeps k s0 s) (ld : Nat) : Keeps k s0 (State.readPos s ld) := by
  unfold State.readPos
  with_reducible repeat' first
    | assumption | apply State.spend_keeps | apply State.put_keeps | apply Keeps.on | apply Keeps.each
    | apply Keeps.foldlFst | (intro _; try dsimp only)

theorem State.putOut_keeps {s0 s : State} (h : Keeps k s0 s) (ld : Nat) (r : InstRec) (bits : Nat) : Keeps k s0
    (State.putOut s ld r bits) := by
  unfold State.putOut
  try dsimp only
  with_reducible repeat' first
    | assumption | apply State.setOutBit_keeps | apply Keeps.each | (intro _; try dsimp only)

/-! ### Machine/TimerRegs.lean -/

theorem State.capArm_keeps {s0 s : State} (h : Keeps k s0 s) (die n : Nat) (rising : Bool) : Keeps k s0 (State.capArm
    s die n rising) := by
  unfold State.capArm
  try dsimp only
  with_reducible repeat' first
    | assumption | apply State.setCapDue_keeps | apply Keeps.on | apply Keeps.ite | (intro _; try dsimp only)


theorem State.eventEdge_keeps {s0 s : State} (h : Keeps k s0 s) (die n : Nat) (rising : Bool) : Keeps k s0
    (State.eventEdge s die n rising) := by
  unfold State.eventEdge
  try dsimp only
  with_reducible repeat' first
    | assumption | apply State.capArm_keeps | apply Keeps.each | (intro _; try dsimp only)

/-! ### Machine/Fencing.lean -/

theorem State.onFenceFld_keeps {s0 s : State} (h : Keeps k s0 s) (die idx : Nat) (F : Fld) : Keeps k s0
    (State.onFenceFld s die idx F) := by
  unfold State.onFenceFld
  with_reducible repeat' first
    | assumption | apply State.clear_keeps | apply State.put_keeps | apply Keeps.on | apply Keeps.each
    | apply Keeps.foldlFst | apply Keeps.ite | intro _ | (split <;> try dsimp only)

theorem State.onFence_keeps {s0 s : State} (h : Keeps k s0 s) (regs : List Reg) (die idx : Nat) : Keeps k s0
    (State.onFence s regs die idx) := by
  unfold State.onFence
  with_reducible repeat' first
    | assumption | apply State.onFenceFld_keeps | apply Keeps.on | apply Keeps.each | apply Keeps.foldlFst
    | (intro _; try dsimp only)

theorem State.resetRegs_keeps {s0 s : State} (h : Keeps k s0 s) (regs : List Reg) (die idx : Nat) : Keeps k s0
    (State.resetRegs s regs die idx) := by
  unfold State.resetRegs
  with_reducible repeat' first
    | assumption | apply State.clear_keeps | apply Keeps.on | apply Keeps.each | apply Keeps.foldlFst
    | (intro _; try dsimp only)

theorem State.logFence_keeps {s0 s : State} (h : Keeps k s0 s) (die kind idx reason : Nat) : Keeps k s0 (s.logFence
    die kind idx reason) := by
  unfold State.logFence
  dsimp only
  have hl : Keeps k s0 { s with flog := Store.set (fun _ => []) s.flog die (keepNewest 64 ⟨s.tickOf die, die, kind,
    idx, reason⟩
      (Store.get (fun _ => []) s.flog die)) } := by
    refine h.withLog fun hb d => ?_
    rw [Store.get_set]
    split_ifs
    · simp [keepNewest]
    · exact hb d
  repeat' (first
    | with_reducible assumption | with_reducible apply State.countWrap_keeps | with_reducible apply Keeps.ident
    | with_reducible apply Keeps.each | with_reducible apply Keeps.on | with_reducible apply Keeps.ite
    | with_reducible apply Keeps.foldl | with_reducible apply Keeps.foldlFst | (intro _; try dsimp only)
    )

theorem State.fenceOn_keeps {s0 s : State} (h : Keeps k s0 s) (kind die : Nat) (idx reason : Nat) : Keeps k s0
    (State.fenceOn s kind die idx reason) := by
  exact h.upd rfl rfl rfl rfl rfl rfl rfl rfl rfl rfl rfl

theorem State.unfence_keeps {s0 s : State} (h : Keeps k s0 s) (kind die idx : Nat) : Keeps k s0 (State.unfence s kind
    die idx) := by
  exact h.upd rfl rfl rfl rfl rfl rfl rfl rfl rfl rfl rfl

theorem State.endJob_keeps {s0 s : State} (h : Keeps k s0 s) (ld e : Nat) (fstatus result : Nat) : Keeps k s0
    (State.endJob s ld e fstatus result) := by
  unfold State.endJob
  with_reducible repeat' first
    | assumption | apply State.setJob_keeps | apply Keeps.on | apply Keeps.each | apply Keeps.foldlFst
    | (intro _; try dsimp only)

theorem State.cutBist_keeps {s0 s : State} (h : Keeps k s0 s) (ld e acause : Nat) : Keeps k s0 (State.cutBist s ld e
    acause) := by
  unfold State.cutBist
  try dsimp only
  with_reducible repeat' first
    | assumption | apply State.spend_keeps | apply State.setPrpg_keeps | apply State.put_keeps | apply Keeps.on
    | (intro _; try dsimp only)

theorem State.bistJobEnd_keeps {s0 s : State} (h : Keeps k s0 s) (ld e : Nat) (fstatus result : Nat) : Keeps k s0
    (State.bistJobEnd s ld e fstatus result) := by
  unfold State.bistJobEnd
  with_reducible repeat' first
    | assumption | apply State.endJob_keeps | apply State.setSv_keeps | apply Keeps.on | apply Keeps.each
    | apply Keeps.foldlFst | (intro _; try dsimp only)

theorem State.bistFence_keeps {s0 s : State} (h : Keeps k s0 s) (die kind idx : Nat) : Keeps k s0 (State.bistFence s
    die kind idx) := by
  unfold State.bistFence
  with_reducible repeat' first
    | assumption | apply State.cutBist_keeps | apply State.put_keeps | apply State.bistJobEnd_keeps | apply Keeps.on
    | apply Keeps.each | apply Keeps.foldlFst | (intro _; try dsimp only)

theorem State.raise_keeps {s0 s : State} (h : Keeps k s0 s) (kind die : Nat) (idx reason : Nat) : Keeps k s0
    (State.raise s kind die idx reason) := by
  unfold State.raise
  with_reducible repeat' first
    | assumption | apply State.bistFence_keeps | apply State.onFence_keeps | apply State.logFence_keeps
    | apply State.fenceOn_keeps | apply Keeps.on | apply Keeps.each | apply Keeps.foldlFst | (intro _; try dsimp only)

theorem State.dropSoak_keeps {s0 s : State} (h : Keeps k s0 s) (fstatus result : Nat) : Keeps k s0 (State.dropSoak s
    fstatus result) := by
  unfold State.dropSoak
  try dsimp only
  with_reducible repeat' first
    | assumption | apply State.endJob_keeps | apply State.put_keeps | apply Keeps.on | apply Keeps.each
    | apply Keeps.foldlFst | apply Keeps.ite | (intro _; try dsimp only) | (split <;> try dsimp only)
    | (fail_if_no_progress apply State.mk_keeps)

theorem State.idleCrc_keeps {s0 s : State} (h : Keeps k s0 s) (ld n : Nat) : Keeps k s0 (State.idleCrc s ld n) := by
  unfold State.idleCrc
  try dsimp only
  with_reducible repeat' first
    | assumption | apply State.endJob_keeps | apply State.onFence_keeps | apply State.setSv_keeps
    | apply State.put_keeps | apply Keeps.each | (intro _; try dsimp only)


theorem State.dropWaits_keeps {s0 s : State} (h : Keeps k s0 s) (ld pri : Nat) : Keeps k s0 (State.dropWaits s ld pri)
    := by
  unfold State.dropWaits
  try dsimp only
  with_reducible repeat' first
    | assumption | apply State.setSpm_keeps

theorem State.idleScan_keeps {s0 s : State} (h : Keeps k s0 s) (ld n : Nat) : Keeps k s0 (State.idleScan s ld n) := by
  unfold State.idleScan
  try dsimp only
  with_reducible repeat' first
    | assumption | apply State.dropWaits_keeps | apply State.onFence_keeps | apply State.put_keeps

theorem State.revokeUnit_keeps {s0 s : State} (h : Keeps k s0 s) (ld n : Nat) : Keeps k s0 (State.revokeUnit s ld n)
    := by
  unfold State.revokeUnit
  try dsimp only
  with_reducible repeat' first
    | assumption | apply State.idleScan_keeps | apply State.idleCrc_keeps | apply Keeps.on | (intro _; try dsimp only)

theorem State.idleTimer_keeps {s0 s : State} (h : Keeps k s0 s) (die n : Nat) : Keeps k s0 (State.idleTimer s die n)
    := by
  unfold State.idleTimer
  try dsimp only
  with_reducible repeat' first
    | assumption | apply State.onFence_keeps | apply State.eventEdge_keeps | apply State.setCapDue_keeps
    | apply Keeps.on | apply Keeps.ite | (intro _; try dsimp only)

theorem State.revoke_keeps {s0 s : State} (h : Keeps k s0 s) (ld code : Nat) (keepTimers : Bool) : Keeps k s0
    (State.revoke s ld code keepTimers) := by
  unfold State.revoke
  try dsimp only
  repeat' (first | with_reducible assumption | with_reducible apply State.idleTimer_keeps | with_reducible apply
    State.revokeUnit_keeps | with_reducible apply State.dropWaits_keeps | with_reducible apply State.put_keeps |
    with_reducible apply State.each_keeps | with_reducible apply Keeps.ident | with_reducible apply Keeps.each |
    with_reducible apply Keeps.on | with_reducible apply Keeps.ite | with_reducible apply Keeps.foldl | with_reducible
    apply Keeps.foldlFst | (intro _; try dsimp only) |
    with_reducible refine Keeps.fst3 ‹_ = (_, _, _)› ?_ )

theorem State.revokeFieldOn_keeps {s0 s : State} (h : Keeps k s0 s) (fd code : Nat) : Keeps k s0 (State.revokeFieldOn
    s fd code) := by
  unfold State.revokeFieldOn
  try dsimp only
  with_reducible repeat' first
    | assumption | apply State.idleTimer_keeps | apply Keeps.each | (intro _; try dsimp only)

theorem State.revokeField_keeps {s0 s : State} (h : Keeps k s0 s) : Keeps k s0 (State.revokeField s) := by
  unfold State.revokeField
  with_reducible repeat' first
    | assumption | apply State.revokeFieldOn_keeps | apply Keeps.on | apply Keeps.each | apply Keeps.foldlFst
    | (intro _; try dsimp only)

theorem State.fenceInst_keeps {s0 s : State} (h : Keeps k s0 s) (die iid reason : Nat) : Keeps k s0 (State.fenceInst s
    die iid reason) := by
  unfold State.fenceInst
  with_reducible repeat' first
    | assumption | apply State.logFence_keeps | apply State.fenceOn_keeps | apply Keeps.on | apply Keeps.each
    | apply Keeps.foldlFst | (intro _; try dsimp only)

theorem State.movedInst_keeps {s0 s : State} (h : Keeps k s0 s) (iid : Nat) : Keeps k s0 (State.movedInst s iid) := by
  unfold State.movedInst
  try dsimp only
  with_reducible repeat' first
    | assumption | apply State.setFence_keeps

theorem State.setReadmit_keeps {s0 s : State} (h : Keeps k s0 s) (iid edge : Nat) : Keeps k s0 (State.setReadmit s iid
    edge) := by
  unfold State.setReadmit
  with_reducible repeat' first
    | assumption | apply State.setFence_keeps | apply Keeps.on | apply Keeps.each | apply Keeps.foldlFst
    | (intro _; try dsimp only)

theorem State.startP_keeps {s0 s : State} (h : Keeps k s0 s) (r : InstRec) (x2 : Nat) : Keeps k s0 (State.startP s r
    x2) := by
  unfold State.startP
  try dsimp only
  with_reducible repeat' first
    | assumption | apply State.putOut_keeps | apply State.setSvP_keeps | apply State.setInst_keeps | apply Keeps.each
    | (intro _; try dsimp only)

theorem State.startH_keeps {s0 s : State} (h : Keeps k s0 s) (r : InstRec) (x2 : Nat) : Keeps k s0 (State.startH s r
    x2) := by
  exact h.upd rfl rfl rfl rfl rfl rfl rfl rfl rfl rfl rfl

theorem State.stateWrite_keeps {s0 s : State} (h : Keeps k s0 s) (hmem : k.mem = false) (ld : Nat) (e : TraceEntry) :
    Keeps k s0 (State.stateWrite s ld e) := by
  unfold State.stateWrite
  with_reducible repeat' first
    | assumption | apply State.setByte_keeps | apply State.setEcc_keeps | apply Keeps.on | apply Keeps.each
    | apply Keeps.foldlFst | (intro _; try dsimp only)

theorem State.haltLane_keeps {s0 s : State} (h : Keeps k s0 s) (hmem : k.mem = false) (ld l : Nat) : Keeps k s0
    (State.haltLane s ld l) := by
  unfold State.haltLane
  with_reducible repeat' first
    | assumption | apply State.spend_keeps | apply State.stateWrite_keeps | apply State.setLane_keeps
    | apply Keeps.on | apply Keeps.each | apply Keeps.foldlFst | (intro _; try dsimp only)

theorem State.startLane_keeps {s0 s : State} (h : Keeps k s0 s) (ld l : Nat) : Keeps k s0 (State.startLane s ld l) := by
  unfold State.startLane
  with_reducible repeat' first
    | assumption | apply State.put_keeps | apply Keeps.on | apply Keeps.each | apply Keeps.foldlFst
    | (intro _; try dsimp only)

theorem State.remap_keeps {s0 s : State} (h : Keeps k s0 s) (ld n l : Nat) : Keeps k s0 (State.remap s ld n l) := by
  unfold State.remap
  try dsimp only
  with_reducible repeat' first
    | assumption | apply State.startLane_keeps | apply State.setReadmit_keeps | apply State.movedInst_keeps
    | apply State.put_keeps | apply Keeps.each | (intro _; try dsimp only)

theorem State.moveLogical_keeps {s0 s : State} (h : Keeps k s0 s) (ld n : Nat) : Keeps k s0 (State.moveLogical s ld n)
    := by
  unfold State.moveLogical
  with_reducible repeat' first
    | assumption | apply State.remap_keeps | apply Keeps.on | apply Keeps.each | apply Keeps.foldlFst
    | apply Keeps.ite | intro _ | (split <;> try dsimp only)

theorem State.takeover_keeps {s0 s : State} (h : Keeps k s0 s) (ild n : Nat) : Keeps k s0 (State.takeover s ild n) :=
    by
  unfold State.takeover
  try dsimp only
  repeat' (first | with_reducible assumption | with_reducible apply State.movedInst_keeps | with_reducible apply
    State.setStby_keeps | with_reducible apply State.setBus_keeps | with_reducible apply State.setInst_keeps |
    with_reducible apply State.each_keeps | with_reducible apply Keeps.ident | with_reducible apply Keeps.each |
    with_reducible apply Keeps.on | with_reducible apply Keeps.ite | with_reducible apply Keeps.foldl | with_reducible
    apply Keeps.foldlFst | (intro _; try dsimp only) | with_reducible refine Keeps.fst ‹_ = (_, _)› ?_ |
    with_reducible refine Keeps.fst3 ‹_ = (_, _, _)› ?_ | (split <;> try dsimp only) )

theorem State.soakLane_keeps {s0 s : State} (h : Keeps k s0 s) (ld l : Nat) : Keeps k s0 (State.soakLane s ld l).1 := by
  unfold State.soakLane
  try dsimp only
  with_reducible repeat' first
    | assumption | apply State.dropSoak_keeps | apply Keeps.on | apply Keeps.each | apply Keeps.foldlFst
    | apply Keeps.ite | intro _ | (split <;> try dsimp only)
    | (fail_if_no_progress apply State.mk_keeps)

theorem State.setSource_keeps {s0 s : State} (h : Keeps k s0 s) (fd x2 ld : Nat) : Keeps k s0 (State.setSource s fd x2
    ld) := by
  exact h.upd rfl rfl rfl rfl rfl rfl rfl rfl rfl rfl rfl

theorem State.carryAcross_keeps {s0 s : State} (h : Keeps k s0 s) (x2 : Soak) (n : Nat) : Keeps k s0
    (State.carryAcross s x2 n) := by
  unfold State.carryAcross
  try dsimp only
  repeat' (first | with_reducible assumption | with_reducible apply State.startLane_keeps | with_reducible apply
    State.setReadmit_keeps | with_reducible apply State.movedInst_keeps | with_reducible apply State.setStby_keeps |
    with_reducible apply State.put_keeps | with_reducible apply Keeps.ident | with_reducible apply Keeps.each |
    with_reducible apply Keeps.on | with_reducible apply Keeps.ite | with_reducible apply Keeps.foldl | with_reducible
    apply Keeps.foldlFst | (intro _; try dsimp only) |
    with_reducible refine Keeps.fst3 ‹_ = (_, _, _)› ?_ )

theorem State.soakCarrier_keeps {s0 s : State} (h : Keeps k s0 s) (ld l n : Nat) : Keeps k s0 (State.soakCarrier s ld
    l n) := by
  unfold State.soakCarrier
  try dsimp only
  with_reducible repeat' first
    | assumption | apply State.put_keeps | apply State.endJob_keeps | apply State.remap_keeps
    | apply State.moveLogical_keeps | apply State.carryAcross_keeps | apply Keeps.on | apply Keeps.each
    | apply Keeps.foldlFst | apply Keeps.ite | (intro _; try dsimp only) | (split <;> try dsimp only)
    | (fail_if_no_progress apply State.mk_keeps)

theorem State.stopLogical_keeps {s0 s : State} (h : Keeps k s0 s) (ld l n : Nat) : Keeps k s0 (State.stopLogical s ld
    l n) := by
  unfold State.stopLogical
  with_reducible repeat' first
    | assumption | apply State.fenceInst_keeps | apply State.soakCarrier_keeps | apply Keeps.on | apply Keeps.each
    | apply Keeps.foldlFst | (intro _; try dsimp only)

theorem State.loseLogical_keeps {s0 s : State} (h : Keeps k s0 s) (ld l n : Nat) : Keeps k s0 (State.loseLogical s ld
    l n) := by
  unfold State.loseLogical
  try dsimp only
  with_reducible repeat' first
    | assumption | apply State.stopLogical_keeps | apply State.takeover_keeps | apply State.moveLogical_keeps
    | apply State.setStby_keeps | apply Keeps.ite | (intro _; try dsimp only) | (split <;> try dsimp only)

theorem State.haltFenced_keeps {s0 s : State} (h : Keeps k s0 s) (ld l : Nat) : Keeps k s0 (State.haltFenced s ld l)
    := by
  unfold State.haltFenced
  try dsimp only
  with_reducible repeat' first
    | assumption | apply State.fenceOn_keeps | apply State.logFence_keeps

theorem State.fenceLane_keeps {s0 s : State} (h : Keeps k s0 s) (hmem : k.mem = false) (ld l reason : Nat) : Keeps k
    s0 (State.fenceLane s ld l reason) := by
  unfold State.fenceLane
  try dsimp only
  with_reducible repeat' first
    | assumption | apply State.haltFenced_keeps | apply State.loseLogical_keeps | apply State.soakLane_keeps
    | apply State.haltLane_keeps | apply State.revoke_keeps | apply State.raise_keeps | apply Keeps.on
    | apply Keeps.each | apply Keeps.ite | (intro _; try dsimp only)

theorem State.switchOff_keeps {s0 s : State} (h : Keeps k s0 s) (fd x2 : Nat) : Keeps k s0 (State.switchOff s fd x2)
    := by
  exact h.upd rfl rfl rfl rfl rfl rfl rfl rfl rfl rfl rfl

theorem State.outFault_keeps {s0 s : State} (h : Keeps k s0 s) (fd x2 reason : Nat) : Keeps k s0 (State.outFault s fd
    x2 reason) := by
  unfold State.outFault
  with_reducible repeat' first
    | assumption | apply State.setTerm_keeps | apply State.fenceInst_keeps | apply Keeps.on | apply Keeps.each
    | apply Keeps.foldlFst | (intro _; try dsimp only)

theorem State.raiseTerm_keeps {s0 s : State} (h : Keeps k s0 s) (fd x2 reason : Nat) : Keeps k s0 (State.raiseTerm s
    fd x2 reason) := by
  unfold State.raiseTerm
  with_reducible repeat' first
    | assumption | apply State.switchOff_keeps | apply State.logFence_keeps | apply State.fenceOn_keeps
    | apply State.put_keeps | apply State.onFence_keeps | apply State.setTerm_keeps

theorem State.fenceTerm_keeps {s0 s : State} (h : Keeps k s0 s) (fd x2 reason : Nat) : Keeps k s0 (State.fenceTerm s
    fd x2 reason) := by
  unfold State.fenceTerm
  with_reducible repeat' first
    | assumption | apply State.raiseTerm_keeps | apply State.outFault_keeps | apply Keeps.on | apply Keeps.each
    | apply Keeps.foldlFst | (intro _; try dsimp only)

theorem State.markCell_keeps {s0 s : State} (h : Keeps k s0 s) (fd c : Nat) (b : Bool) : Keeps k s0 (State.markCell s
    fd c b) := by
  exact h.upd rfl rfl rfl rfl rfl rfl rfl rfl rfl rfl rfl

theorem State.mapCell_keeps {s0 s : State} (h : Keeps k s0 s) (fd c p : Nat) : Keeps k s0 (State.mapCell s fd c p) := by
  unfold State.mapCell
  with_reducible repeat' first
    | assumption | apply State.put_keeps | apply Keeps.on | apply Keeps.each | apply Keeps.foldlFst
    | apply Keeps.ite | intro _ | (split <;> try dsimp only)

theorem State.copyCell_keeps {s0 s : State} (h : Keeps k s0 s) (fd a b : Nat) : Keeps k s0 (State.copyCell s fd a b)
    := by
  unfold State.copyCell
  with_reducible repeat' first
    | assumption | apply State.put_keeps | apply Keeps.on | apply Keeps.each | apply Keeps.foldlFst
    | (intro _; try dsimp only)

theorem State.dropCell_keeps {s0 s : State} (h : Keeps k s0 s) (fd c : Nat) : Keeps k s0 (State.dropCell s fd c) := by
  unfold State.dropCell
  try dsimp only
  with_reducible repeat' first
    | assumption | apply State.setCell_keeps | apply State.put_keeps | apply Keeps.on | (intro _; try dsimp only)

theorem State.soakCell_keeps {s0 s : State} (h : Keeps k s0 s) (fd c : Nat) : Keeps k s0 (State.soakCell s fd c).1 := by
  unfold State.soakCell
  try dsimp only
  with_reducible repeat' first
    | assumption | apply State.dropSoak_keeps | apply Keeps.on | apply Keeps.each | apply Keeps.foldlFst
    | apply Keeps.ite | intro _ | (split <;> try dsimp only)
    | (fail_if_no_progress apply State.mk_keeps)

theorem State.revokeCellTimers_keeps {s0 s : State} (h : Keeps k s0 s) (fd c : Nat) : Keeps k s0
    (State.revokeCellTimers s fd c) := by
  unfold State.revokeCellTimers
  try dsimp only
  with_reducible repeat' first
    | assumption | apply State.idleTimer_keeps | apply Keeps.each | (intro _; try dsimp only)

theorem State.cellCarrier_keeps {s0 s : State} (h : Keeps k s0 s) (fd c : Nat) (r : InstRec) : Keeps k s0
    (State.cellCarrier s fd c r) := by
  unfold State.cellCarrier
  try dsimp only
  with_reducible repeat' first
    | assumption | apply State.cellSwap_keeps | apply State.dropCell_keeps | apply State.copyCell_keeps
    | apply State.mapCell_keeps | apply State.setReadmit_keeps | apply State.movedInst_keeps
    | apply State.endJob_keeps | apply State.put_keeps | apply Keeps.on | (intro _; try dsimp only)
    | (split <;> try dsimp only) | (fail_if_no_progress apply State.mk_keeps)

theorem State.fenceCell_keeps {s0 s : State} (h : Keeps k s0 s) (fd c reason : Nat) : Keeps k s0 (State.fenceCell s fd
    c reason) := by
  unfold State.fenceCell
  with_reducible repeat' first
    | assumption | apply State.markCell_keeps | apply State.raise_keeps | apply State.soakCell_keeps
    | apply State.revokeCellTimers_keeps | apply State.cellCarrier_keeps | apply State.fenceInst_keeps
    | apply Keeps.on | apply Keeps.each | apply Keeps.foldlFst | apply Keeps.ite | (intro _; try dsimp only)
    | (split <;> try dsimp only)

theorem State.fenceTimer_keeps {s0 s : State} (h : Keeps k s0 s) (die n reason : Nat) : Keeps k s0 (State.fenceTimer s
    die n reason) := by
  unfold State.fenceTimer
  try dsimp only
  with_reducible repeat' first
    | assumption | apply State.idleTimer_keeps | apply State.raise_keeps | apply Keeps.on | apply Keeps.ite
    | (intro _; try dsimp only)

theorem State.termsOff_keeps {s0 s : State} (h : Keeps k s0 s) (fd : Nat) : Keeps k s0 (State.termsOff s fd) := by
  unfold State.termsOff
  with_reducible repeat' first
    | assumption | apply State.switchOff_keeps | apply Keeps.on | apply Keeps.each | apply Keeps.foldlFst
    | (intro _; try dsimp only)

theorem State.soakField_keeps {s0 s : State} (h : Keeps k s0 s) (fd : Nat) : Keeps k s0 (State.soakField s fd) := by
  unfold State.soakField
  with_reducible repeat' first
    | assumption | apply State.dropSoak_keeps | apply Keeps.on | apply Keeps.each | apply Keeps.foldlFst
    | apply Keeps.ite | (intro _; try dsimp only) | (split <;> try dsimp only)

theorem State.cutFbist_keeps {s0 s : State} (h : Keeps k s0 s) (fd : Nat) : Keeps k s0 (State.cutFbist s fd) := by
  unfold State.cutFbist
  try dsimp only
  with_reducible repeat' first
    | assumption | apply State.setField_keeps | apply State.put_keeps | apply Keeps.on | (intro _; try dsimp only)


theorem State.gateClosed_keeps {s0 s : State} (h : Keeps k s0 s) : Keeps k s0 (State.gateClosed s) := by
  unfold State.gateClosed
  try dsimp only
  with_reducible repeat' first
    | assumption | apply State.dropSoak_keeps | apply Keeps.ite | (intro _; try dsimp only)
    | (split <;> try dsimp only) | (fail_if_no_progress apply State.mk_keeps)

theorem State.gateFell_keeps {s0 s : State} (h : Keeps k s0 s) (die : Nat) : Keeps k s0 (State.gateFell s die) := by
  unfold State.gateFell
  try dsimp only
  with_reducible repeat' first
    | assumption | apply State.hold_keeps | apply State.gateClosed_keeps | apply State.count_keeps | apply Keeps.on
    | (intro _; try dsimp only)

theorem State.fenceField_keeps {s0 s : State} (h : Keeps k s0 s) (fd reason : Nat) : Keeps k s0 (State.fenceField s fd
    reason) := by
  unfold State.fenceField
  try dsimp only
  with_reducible repeat' first
    | assumption | apply State.gateFell_keeps | apply State.cutFbist_keeps | apply State.soakField_keeps
    | apply State.termsOff_keeps | apply State.fenceInst_keeps | apply State.revokeFieldOn_keeps
    | apply State.raise_keeps | apply State.setField_keeps | apply State.put_keeps | apply Keeps.on | apply Keeps.each
    | (intro _; try dsimp only)

theorem State.moveLeases_keeps {s0 s : State} (h : Keeps k s0 s) : Keeps k s0 (State.moveLeases s) := by
  unfold State.moveLeases
  with_reducible repeat' first
    | assumption | apply State.put_keeps | apply Keeps.on | apply Keeps.each | apply Keeps.foldlFst
    | (intro _; try dsimp only)

theorem State.abortJob_keeps {s0 s : State} (h : Keeps k s0 s) (ld e : Nat) : Keeps k s0 (State.abortJob s ld e) := by
  unfold State.abortJob
  try dsimp only
  repeat' (first | with_reducible assumption | with_reducible apply State.revokeUnit_keeps | with_reducible apply
    State.dropSoak_keeps | with_reducible apply State.cutBist_keeps | with_reducible apply State.endJob_keeps |
    with_reducible apply State.setSv_keeps | with_reducible apply Keeps.ident | with_reducible apply Keeps.each |
    with_reducible apply Keeps.on | with_reducible apply Keeps.ite | with_reducible apply Keeps.foldl | with_reducible
    apply Keeps.foldlFst | (intro _; try dsimp only) | with_reducible refine Keeps.fst ‹_ = (_, _)› ?_ |
    with_reducible refine Keeps.fst3 ‹_ = (_, _, _)› ?_ | (split <;> try dsimp only) )

theorem State.abortJobs_keeps {s0 s : State} (h : Keeps k s0 s) (sv : Nat) : Keeps k s0 (State.abortJobs s sv) := by
  unfold State.abortJobs
  try dsimp only
  with_reducible repeat' first
    | assumption | apply State.abortJob_keeps | apply Keeps.on | apply Keeps.each | (intro _; try dsimp only)


theorem State.stopSv_keeps {s0 s : State} (h : Keeps k s0 s) (ld : Nat) : Keeps k s0 (State.stopSv s ld) := by
  unfold State.stopSv
  with_reducible repeat' first
    | assumption | apply State.moveLeases_keeps | apply State.abortJobs_keeps | apply State.revokeField_keeps
    | apply State.revoke_keeps

theorem State.fenceSv_keeps {s0 s : State} (h : Keeps k s0 s) (ld reason : Nat) : Keeps k s0 (State.fenceSv s ld
    reason) := by
  unfold State.fenceSv
  try dsimp only
  with_reducible repeat' first
    | assumption | apply State.stopSv_keeps | apply State.raise_keeps | apply State.setSv_keeps
    | apply State.put_keeps | apply Keeps.ite | (intro _; try dsimp only)


theorem State.fencePort_keeps {s0 s : State} (h : Keeps k s0 s) (ld p reason : Nat) : Keeps k s0 (State.fencePort s ld
    p reason) := by
  unfold State.fencePort
  with_reducible repeat' first
    | assumption | apply State.count_keeps | apply State.setPort_keeps | apply State.revoke_keeps
    | apply State.raise_keeps | apply Keeps.on | apply Keeps.each | apply Keeps.foldlFst | (intro _; try dsimp only)

theorem State.fenceEngine_keeps {s0 s : State} (h : Keeps k s0 s) (ld reason : Nat) : Keeps k s0 (State.fenceEngine s
    ld reason) := by
  unfold State.fenceEngine
  try dsimp only
  with_reducible repeat' first
    | assumption | apply State.fencePort_keeps | apply State.raise_keeps | apply State.put_keeps | apply Keeps.on
    | apply Keeps.ite | (intro _; try dsimp only)

theorem State.fenceLink_keeps {s0 s : State} (h : Keeps k s0 s) (ld x2 reason : Nat) : Keeps k s0 (State.fenceLink s
    ld x2 reason) := by
  unfold State.fenceLink
  with_reducible repeat' first
    | assumption | apply State.putB_keeps | apply State.raise_keeps | apply State.revoke_keeps | apply Keeps.on
    | apply Keeps.each | apply Keeps.foldlFst | (intro _; try dsimp only)

theorem State.tillerIdle_keeps {s0 s : State} (h : Keeps k s0 s) (ld : Nat) : Keeps k s0 (State.tillerIdle s ld) := by
  exact h.upd rfl rfl rfl rfl rfl rfl rfl rfl rfl rfl rfl

theorem State.fenceLogic_keeps {s0 s : State} (h : Keeps k s0 s) (hmem : k.mem = false) (ld reason : Nat) : Keeps k s0
    (State.fenceLogic s ld reason) := by
  unfold State.fenceLogic
  try dsimp only
  repeat' (first | with_reducible assumption | with_reducible apply State.tillerIdle_keeps | with_reducible apply
    State.fenceLink_keeps | with_reducible apply State.fenceEngine_keeps | with_reducible apply State.fenceSv_keeps |
    with_reducible apply State.gateFell_keeps | with_reducible apply State.fenceLane_keeps | with_reducible apply
    State.fenceOn_keeps | with_reducible apply State.logFence_keeps | with_reducible apply State.onFence_keeps |
    with_reducible apply State.setSv_keeps | with_reducible apply Keeps.ident | with_reducible apply Keeps.each |
    with_reducible apply Keeps.on | with_reducible apply Keeps.ite | with_reducible apply Keeps.foldl | with_reducible
    apply Keeps.foldlFst | (intro _; try dsimp only) |
    with_reducible refine Keeps.fst3 ‹_ = (_, _, _)› ?_ )

theorem State.clearLane_keeps {s0 s : State} (h : Keeps k s0 s) (ld l : Nat) : Keeps k s0 (State.clearLane s ld l) := by
  unfold State.clearLane
  dsimp only
  with_reducible repeat' first
    | assumption | apply State.put_keeps | apply State.unfence_keeps | apply State.remap_keeps | apply Keeps.on
    | apply Keeps.each | apply Keeps.foldlFst | apply Keeps.ite | intro _ | (split <;> try dsimp only)

theorem State.clearInst_keeps {s0 s : State} (h : Keeps k s0 s) (iid : Nat) : Keeps k s0 (State.clearInst s iid) := by
  exact State.setReadmit_keeps h ..

theorem State.clearLink_keeps {s0 s : State} (h : Keeps k s0 s) (ld x2 : Nat) : Keeps k s0 (State.clearLink s ld x2)
    := by
  exact h.upd rfl rfl rfl rfl rfl rfl rfl rfl rfl rfl rfl

theorem State.senseStart_keeps {s0 s : State} (h : Keeps k s0 s) (fd x2 : Nat) : Keeps k s0 (State.senseStart s fd x2)
    := by
  unfold State.senseStart
  with_reducible repeat' first | assumption | apply State.setTerm_keeps | apply State.setPRead_keeps

theorem State.clearTerm_keeps {s0 s : State} (h : Keeps k s0 s) (fd x2 : Nat) : Keeps k s0 (State.clearTerm s fd x2)
    := by
  unfold State.clearTerm
  with_reducible repeat' first
    | assumption | apply State.senseStart_keeps | apply State.put_keeps | apply State.unfence_keeps
    | apply State.setTerm_keeps

theorem State.clearCell_keeps {s0 s : State} (h : Keeps k s0 s) (fd c : Nat) : Keeps k s0 (State.clearCell s fd c) := by
  exact h.upd rfl rfl rfl rfl rfl rfl rfl rfl rfl rfl rfl

theorem State.clearPort_keeps {s0 s : State} (h : Keeps k s0 s) (ld p : Nat) : Keeps k s0 (State.clearPort s ld p) := by
  exact h.upd rfl rfl rfl rfl rfl rfl rfl rfl rfl rfl rfl

theorem State.clearEngine_keeps {s0 s : State} (h : Keeps k s0 s) (ld : Nat) : Keeps k s0 (State.clearEngine s ld) := by
  unfold State.clearEngine
  with_reducible repeat' first | assumption | apply State.clearPort_keeps | apply State.unfence_keeps

/-! ### Machine/Seal.lean -/

theorem State.setGate_keeps {s0 s : State} (h : Keeps k s0 s) (die : Nat) : Keeps k s0 (State.setGate s die) := by
  unfold State.setGate
  try dsimp only
  with_reducible repeat' first
    | assumption | apply State.gateFell_keeps | apply State.putB_keeps | apply Keeps.on | apply Keeps.ite
    | (intro _; try dsimp only)

theorem State.setGates_keeps {s0 s : State} (h : Keeps k s0 s) : Keeps k s0 (State.setGates s) := by
  unfold State.setGates
  with_reducible repeat' first
    | assumption | apply State.setGate_keeps | apply Keeps.on | apply Keeps.each | apply Keeps.foldlFst
    | (intro _; try dsimp only)

theorem State.sealSample_keeps {s0 s : State} (h : Keeps k s0 s) (die : Nat) (a an : Bool) (b bn : Bool) : Keeps k s0
    (State.sealSample s die a an b bn) := by
  unfold State.sealSample
  with_reducible repeat' first
    | assumption | apply State.put_keeps | apply State.putB_keeps | apply State.setGate_keeps
    | apply State.setSeal_keeps | apply Keeps.on | apply Keeps.each | apply Keeps.foldlFst | (intro _; try dsimp only)

theorem execSealSample_keeps {s0 s t : State} (h : Keeps k s0 s) (f0 a : Bool) (an b bn : Bool) (ht : execSealSample
    f0 a an b bn s = .next t) : Keeps k s0 t := by
  exact Keeps.answer h (State.sealSample_keeps h ..) ht

theorem State.sealTake_keeps {s0 s : State} (h : Keeps k s0 s) (die : Nat) : Keeps k s0 (State.sealTake s die) := by
  exact h.upd rfl rfl rfl rfl rfl rfl rfl rfl rfl rfl rfl

theorem State.sealMessage_keeps {s0 s : State} (h : Keeps k s0 s) (die : Nat) (fromF0 : Bool) (x : Transit) : Keeps k
    s0 (State.sealMessage s die fromF0 x) := by
  unfold State.sealMessage
  with_reducible repeat' first
    | assumption | apply State.setGate_keeps | apply State.setSeal_keeps | apply Keeps.on | apply Keeps.each
    | apply Keeps.foldlFst | apply Keeps.ite | intro _ | (split <;> try dsimp only)

theorem execSealMessage_keeps {s0 s t : State} (h : Keeps k s0 s) (die : Nat) (fromF0 : Bool) (tick : Nat) (flips : List (Nat × Nat)) (complete : Bool)
    (ht : execSealMessage die fromF0 tick flips complete s = .next t) : Keeps k s0 t := by
  exact Keeps.answer h (State.sealMessage_keeps h ..) ht

/-! ### Machine/Operands.lean -/

theorem State.logErr_keeps {s0 s : State} (h : Keeps k s0 s) (die : Nat) (m : Master) (addr kind : Nat) (w : Bool) :
    Keeps k s0 (State.logErr s die m addr kind w) := by
  unfold State.logErr
  with_reducible repeat' first
    | assumption | apply State.respond_keeps | apply State.put_keeps | apply State.count_keeps
    | apply State.putB_keeps | apply Keeps.on | apply Keeps.each | apply Keeps.foldlFst | apply Keeps.ite
    | (intro _; try dsimp only)

theorem State.refuse_keeps {s0 s : State} (h : Keeps k s0 s) (r : Reg) (die idx : Nat) (m : Master) (kind : Nat) :
    Keeps k s0 (State.refuse s r die idx m kind) := by
  exact State.logErr_keeps h ..

theorem State.asWrite_keeps {s0 s : State} (h : Keeps k s0 s) (r : Reg) (die idx : Nat) (m : Master) (a b : Bool) {f :
    State → State}
    (hf : ∀ s, Keeps k s0 s → Keeps k s0 (f s)) : Keeps k s0 (s.asWrite r die idx m a b f) := by
  unfold State.asWrite
  try dsimp only
  repeat' (first
    | with_reducible assumption | with_reducible apply hf | with_reducible apply State.logErr_keeps
    | with_reducible apply State.refuse_keeps | with_reducible apply State.respond_keeps
    | with_reducible apply Keeps.ident | with_reducible apply Keeps.each | with_reducible apply Keeps.on
    | with_reducible apply Keeps.ite | with_reducible apply Keeps.foldl | with_reducible apply Keeps.foldlFst
    | (intro _; try dsimp only)
    )

theorem State.readRefused_keeps {s0 s : State} (h : Keeps k s0 s) (die : Nat) (m : Master) (addr kind : Nat) : Keeps k
    s0 (State.readRefused s die m addr kind) := by
  unfold State.readRefused
  with_reducible repeat' first | assumption | apply State.give_keeps | apply State.logErr_keeps

end Sys2Proof.Machine
end

