-- ==== Sys2Proof/Laws/KeepsMemory.lean ====
section
/-! SUPPORT. The promises of `Keeps` for the memories, the engines, the OTP array, self-test, terminals, timers and the test access port, one lemma per operation. -/

namespace Sys2Proof.Machine

variable {k : Promise}

/-! ### Machine/Scratchpad.lean -/

theorem State.spmErr_keeps {s0 s : State} (h : Keeps k s0 s) (ld off : Nat) (pri kind synd : Nat) : Keeps k s0
    (State.spmErr s ld off pri kind synd) := by
  exact h.upd rfl rfl rfl rfl rfl rfl rfl rfl rfl rfl rfl

theorem State.badWord_keeps {s0 s : State} (h : Keeps k s0 s) (ld off : Nat) (pri kind : Nat) : Keeps k s0
    (State.badWord s ld off pri kind) := by
  unfold State.badWord
  with_reducible repeat' first
    | assumption | apply State.count_keeps | apply State.spmErr_keeps | apply State.setSpm_keeps
    | apply State.fenceInst_keeps | apply Keeps.on | apply Keeps.each | apply Keeps.foldlFst | (intro _; try dsimp only)

theorem State.correctWord_keeps {s0 s : State} (h : Keeps k s0 s) (ld off : Nat) : Keeps k s0 (State.correctWord s ld
    off) := by
  exact h.upd rfl rfl rfl rfl rfl rfl rfl rfl rfl rfl rfl

theorem State.readWord_keeps {s0 s : State} (h : Keeps k s0 s) (ld pri off : Nat) : Keeps k s0 (State.readWord s ld
    pri off).1 := by
  unfold State.readWord
  with_reducible repeat' first
    | assumption | apply State.spmErr_keeps | apply State.badWord_keeps | apply State.correctWord_keeps
    | apply Keeps.on | apply Keeps.each | apply Keeps.foldlFst | apply Keeps.ite | intro _
    | (split <;> try dsimp only)

theorem State.crcFeed_keeps {s0 s : State} (h : Keeps k s0 s) (ld n b : Nat) : Keeps k s0 (State.crcFeed s ld n b) :=
    by
  unfold State.crcFeed
  try dsimp only
  with_reducible repeat' first
    | assumption | apply State.put_keeps

theorem State.scanTake_keeps {s0 : State} {r : State × Nat × Bool} (h : Keeps k s0 r.1) (ld n : Nat) : Keeps k s0
    (State.scanTake r ld n) := by
  unfold State.scanTake
  try dsimp only
  with_reducible repeat' first
    | assumption | apply State.crcFeed_keeps | apply State.put_keeps | apply Keeps.on | apply Keeps.each
    | (intro _; try dsimp only)

theorem State.tillerAbort_keeps {s0 s : State} (h : Keeps k s0 s) (ld : Nat) : Keeps k s0 (State.tillerAbort s ld) := by
  exact h.upd rfl rfl rfl rfl rfl rfl rfl rfl rfl rfl rfl

theorem State.tillerWord_keeps {s0 s : State} (h : Keeps k s0 s) (ld off : Nat) : Keeps k s0 (State.tillerWord s ld
    off) := by
  unfold State.tillerWord
  try dsimp only
  with_reducible repeat' first
    | assumption | apply State.badWord_keeps | apply State.count_keeps | apply State.setEcc_keeps | apply Keeps.on
    | (intro _; try dsimp only) | (split <;> try dsimp only)

theorem State.tillerSave_keeps {s0 s : State} (h : Keeps k s0 s) (ld n : Nat) : Keeps k s0 (State.tillerSave s ld n)
    := by
  unfold State.tillerSave
  try dsimp only
  with_reducible repeat' first
    | assumption | apply State.tillerWord_keeps | apply State.setSpm_keeps | apply Keeps.each
    | (intro _; try dsimp only)

theorem State.tillerAt_keeps {s0 s : State} (h : Keeps k s0 s) (ld c : Nat) : Keeps k s0 (State.tillerAt s ld c) := by
  unfold State.tillerAt
  try dsimp only
  with_reducible repeat' first
    | assumption | apply State.tillerSave_keeps | apply State.setSpm_keeps | apply State.put_keeps | apply Keeps.on
    | (intro _; try dsimp only)

theorem State.tillerFails_keeps {s0 s : State} (h : Keeps k s0 s) (ld : Nat) (bad : List Nat) : Keeps k s0
    (State.tillerFails s ld bad) := by
  unfold State.tillerFails
  try dsimp only
  with_reducible repeat' first
    | assumption | apply State.badWord_keeps | apply Keeps.each | (intro _; try dsimp only)

theorem State.spmMeets_keeps {s0 s : State} (h : Keeps k s0 s) (ld pri off : Nat) : Keeps k s0 (State.spmMeets s ld
    pri off) := by
  unfold State.spmMeets
  try dsimp only
  with_reducible repeat' first
    | assumption | apply State.tillerAt_keeps | apply State.tillerAbort_keeps | apply State.spend_keeps
    | apply Keeps.on | (intro _; try dsimp only)

theorem State.spmRead_keeps {s0 s : State} (h : Keeps k s0 s) (ld pri off : Nat) : Keeps k s0 (State.spmRead s ld pri
    off).1 := by
  unfold State.spmRead
  try dsimp only
  with_reducible repeat' first
    | assumption | apply State.spmMeets_keeps | apply State.readWord_keeps

theorem State.scanWord_keeps {s0 s : State} (h : Keeps k s0 s) (ld n : Nat) : Keeps k s0 (State.scanWord s ld n) := by
  unfold State.scanWord
  try dsimp only
  with_reducible repeat' first
    | assumption | apply State.spmRead_keeps | apply State.scanTake_keeps

theorem State.scanWords_keeps {s0 s : State} (h : Keeps k s0 s) (ld n x2 : Nat) : Keeps k s0 (State.scanWords s ld n
    x2) := by
  unfold State.scanWords
  try dsimp only
  with_reducible repeat' first
    | assumption | apply State.scanWord_keeps | apply Keeps.each | (intro _; try dsimp only)

theorem State.scansMeet_keeps {s0 s : State} (h : Keeps k s0 s) (ld off : Nat) : Keeps k s0 (State.scansMeet s ld off)
    := by
  unfold State.scansMeet
  try dsimp only
  with_reducible repeat' first
    | assumption | apply State.scanWords_keeps | apply State.spend_keeps | apply Keeps.each
    | (intro _; try dsimp only)

theorem State.storeWord_keeps {s0 s : State} (h : Keeps k s0 s) (hmem : k.mem = false) (ld off v be : Nat) : Keeps k
    s0 (State.storeWord s ld off v be) := by
  unfold State.storeWord
  try dsimp only
  with_reducible repeat' first
    | assumption | apply State.scansMeet_keeps | apply State.setEcc_keeps | apply State.setByte_keeps
    | apply State.setSpm_keeps | apply Keeps.each | (intro _; try dsimp only)


theorem State.writeWord_keeps {s0 s : State} (h : Keeps k s0 s) (hmem : k.mem = false) (ld pri off v be : Nat) : Keeps
    k s0 (State.writeWord s ld pri off v be).1 := by
  unfold State.writeWord
  try dsimp only
  with_reducible repeat' first
    | assumption | apply State.storeWord_keeps | apply State.badWord_keeps | apply State.spmErr_keeps
    | apply State.logErr_keeps | apply State.count_keeps | apply Keeps.ite | (intro _; try dsimp only)
    | (split <;> try dsimp only)

theorem State.spmLoad_keeps {s0 s : State} (h : Keeps k s0 s) (ld pri off size : Nat) : Keeps k s0 (State.spmLoad s ld
    pri off size).1 := by
  unfold State.spmLoad
  try dsimp only
  with_reducible repeat' first
    | assumption | apply State.spmRead_keeps | apply State.spmErr_keeps | apply Keeps.ite | (intro _; try dsimp only)
    | (split <;> try dsimp only)

theorem State.spmStore_keeps {s0 s : State} (h : Keeps k s0 s) (hmem : k.mem = false) (ld pri off v be : Nat) : Keeps
    k s0 (State.spmStore s ld pri off v be).1 := by
  unfold State.spmStore
  try dsimp only
  with_reducible repeat' first
    | assumption | apply State.writeWord_keeps | apply State.spmMeets_keeps | apply State.spmErr_keeps
    | apply Keeps.ite | (intro _; try dsimp only) | (split <;> try dsimp only)

theorem State.setRot_keeps {s0 s : State} (h : Keeps k s0 s) (ld v : Nat) : Keeps k s0 (State.setRot s ld v) := by
  exact State.put_keeps h ..

theorem State.softRepair_keeps {s0 s : State} (h : Keeps k s0 s) (hmem : k.mem = false) (ld off : Nat) : Keeps k s0
    (State.softRepair s ld off) := by
  unfold State.softRepair
  try dsimp only
  with_reducible repeat' first
    | assumption | apply State.storeWord_keeps | apply State.count_keeps | apply State.setSpm_keeps
    | apply State.put_keeps | apply Keeps.ite | (intro _; try dsimp only)


theorem execEccWriteback_keeps {s0 s t : State} (h : Keeps k s0 s) (ld off : Nat) (ht : execEccWriteback ld off s =
    .next t) : Keeps k s0 t := by
  refine Keeps.answer h ?_ ht
  with_reducible repeat' first | assumption | apply State.setEcc_keeps | apply State.setSpm_keeps

theorem execSoftRepair_keeps {s0 s t : State} (h : Keeps k s0 s) (hmem : k.mem = false) (ld off : Nat) (ht :
    execSoftRepair ld off s = .next t) : Keeps k s0 t := by
  exact Keeps.answer h (State.softRepair_keeps h hmem ..) ht

theorem State.tillerStart_keeps {s0 s : State} (h : Keeps k s0 s) (ld : Nat) : Keeps k s0 (State.tillerStart s ld) := by
  unfold State.tillerStart
  with_reducible repeat' first
    | assumption | apply State.put_keeps | apply State.count_keeps | apply State.setSpm_keeps | apply Keeps.on
    | apply Keeps.each | apply Keeps.foldlFst | apply Keeps.ite | (intro _; try dsimp only)

theorem State.tillerDone_keeps {s0 s : State} (h : Keeps k s0 s) (ld : Nat) (bad : List Nat) : Keeps k s0
    (State.tillerDone s ld bad) := by
  unfold State.tillerDone
  try dsimp only
  with_reducible repeat' first
    | assumption | apply State.tillerFails_keeps | apply State.tillerSave_keeps | apply State.tillerIdle_keeps
    | apply State.countWrap_keeps | apply State.put_keeps | apply Keeps.on | (intro _; try dsimp only)

theorem execTillerAttemptStart_keeps {s0 s t : State} (h : Keeps k s0 s) (ld : Nat) (ht : execTillerAttemptStart ld s
    = .next t) : Keeps k s0 t := by
  exact Keeps.answer h (State.tillerStart_keeps h ..) ht

theorem execTillerAttemptDone_keeps {s0 s t : State} (h : Keeps k s0 s) (ld : Nat) (bad : List Nat) (ht :
    execTillerAttemptDone ld bad s = .next t) : Keeps k s0 t := by
  exact Keeps.answer h (State.tillerDone_keeps h ..) ht

theorem State.clearSegment_keeps {s0 s : State} (h : Keeps k s0 s) (hmem : k.mem = false) (ld seg : Nat) : Keeps k s0
    (s.clearSegment ld seg) := by
  exact Keeps.upd (Keeps.withEcc (h.withMem hmem (Store.wf_dropRange _ (ld * 2 ^ 28 + seg * 2 ^ 20) (ld * 2 ^ 28 + (seg + 1) * 2 ^ 20)))
    (Store.wf_dropRange _ (ld * 2 ^ 22 + seg * 2 ^ 20) (ld * 2 ^ 22 + (seg + 1) * 2 ^ 20))) rfl rfl rfl rfl rfl rfl rfl rfl rfl rfl rfl

theorem State.setSegments_keeps {s0 s : State} (h : Keeps k s0 s) (ld off : Nat) : Keeps k s0 (State.setSegments s ld
    off) := by
  exact h.upd rfl rfl rfl rfl rfl rfl rfl rfl rfl rfl rfl

theorem execSegmentPowerOff_keeps {s0 s t : State} (h : Keeps k s0 s) (m : Master) (ld seg : Nat) (ht :
    execSegmentPowerOff m ld seg s = .next t) : Keeps k s0 t := by
  refine Keeps.answer h ?_ ht
  with_reducible repeat' first
    | assumption | apply State.asWrite_keeps | apply State.setSegments_keeps | apply Keeps.on | apply Keeps.each
    | apply Keeps.foldlFst | (intro _; try dsimp only)

theorem execSegmentPowerOn_keeps {s0 s t : State} (h : Keeps k s0 s) (m : Master) (ld seg : Nat) (ht :
    execSegmentPowerOn m ld seg s = .next t) : Keeps k s0 t := by
  refine Keeps.answer h ?_ ht
  with_reducible repeat' first
    | assumption | apply State.asWrite_keeps | apply State.setSegments_keeps | apply Keeps.on | apply Keeps.each
    | apply Keeps.foldlFst | (intro _; try dsimp only)

theorem execSegmentClearDone_keeps {s0 s t : State} (h : Keeps k s0 s) (hmem : k.mem = false) (ld seg : Nat) (ht :
    execSegmentClearDone ld seg s = .next t) : Keeps k s0 t := by
  refine Keeps.answer h ?_ ht
  with_reducible repeat' first | assumption | apply State.put_keeps | apply State.clearSegment_keeps

/-! ### Machine/CrcScan.lean -/

theorem State.crcWrite_keeps {s0 s : State} (h : Keeps k s0 s) (r : Reg) (ld n : Nat) (m : Master) {f : State → State}
    (hf : ∀ s, Keeps k s0 s → Keeps k s0 (f s)) : Keeps k s0 (s.crcWrite r ld n m f) := by
  unfold State.crcWrite
  try dsimp only
  repeat' (first
    | with_reducible assumption | with_reducible apply hf | with_reducible apply State.asWrite_keeps
    | with_reducible apply State.put_keeps | with_reducible apply Keeps.ident | with_reducible apply Keeps.each
    | with_reducible apply Keeps.on | with_reducible apply Keeps.ite | with_reducible apply Keeps.foldl
    | with_reducible apply Keeps.foldlFst | (intro _; try dsimp only)
    )

theorem execCrcDin_keeps {s0 s t : State} (h : Keeps k s0 s) (m : Master) (ld n : Nat) (data be : Nat) (ht :
    execCrcDin m ld n data be s = .next t) : Keeps k s0 t := by
  refine Keeps.answer h ?_ ht
  with_reducible repeat' first
    | assumption | apply State.crcWrite_keeps | apply State.crcFeed_keeps | apply Keeps.on | apply Keeps.each
    | apply Keeps.foldlFst | (intro _; try dsimp only)

theorem execCrcLoad_keeps {s0 s t : State} (h : Keeps k s0 s) (m : Master) (ld n : Nat) (ht : execCrcLoad m ld n s =
    .next t) : Keeps k s0 t := by
  refine Keeps.answer h ?_ ht
  with_reducible repeat' first
    | assumption | apply State.crcWrite_keeps | apply State.put_keeps | apply Keeps.on | apply Keeps.each
    | apply Keeps.foldlFst | (intro _; try dsimp only)

theorem execCrcValWrite_keeps {s0 s t : State} (h : Keeps k s0 s) (m : Master) (ld n val : Nat) (ht : execCrcValWrite
    m ld n val s = .next t) : Keeps k s0 t := by
  refine Keeps.answer h ?_ ht
  with_reducible repeat' first
    | assumption | apply State.crcWrite_keeps | apply State.put_keeps | apply Keeps.on | apply Keeps.each
    | apply Keeps.foldlFst | (intro _; try dsimp only)

theorem State.scanStart_keeps {s0 s : State} (h : Keeps k s0 s) (ld n : Nat) (cont : Bool) : Keeps k s0
    (State.scanStart s ld n cont) := by
  unfold State.scanStart
  with_reducible repeat' first
    | assumption | apply State.putB_keeps | apply State.put_keeps | apply Keeps.on | apply Keeps.each
    | apply Keeps.foldlFst | apply Keeps.ite | (intro _; try dsimp only)

theorem execScanGo_keeps {s0 s t : State} (h : Keeps k s0 s) (m : Master) (ld n : Nat) (cont : Bool) (ht : execScanGo
    m ld n cont s = .next t) : Keeps k s0 t := by
  refine Keeps.answer h ?_ ht
  with_reducible repeat' first
    | assumption | apply State.asWrite_keeps | apply State.scanStart_keeps | apply Keeps.on | apply Keeps.each
    | apply Keeps.foldlFst | (intro _; try dsimp only)

theorem State.scanIdle_keeps {s0 s : State} (h : Keeps k s0 s) (ld n : Nat) : Keeps k s0 (State.scanIdle s ld n) := by
  exact h.upd rfl rfl rfl rfl rfl rfl rfl rfl rfl rfl rfl

theorem State.crcJobEnd_keeps {s0 s : State} (h : Keeps k s0 s) (ld n : Nat) : Keeps k s0 (State.crcJobEnd s ld n) := by
  unfold State.crcJobEnd
  dsimp only
  with_reducible repeat' first
    | assumption | apply State.setJob_keeps | apply State.setSv_keeps | apply State.endJob_keeps
    | apply State.put_keeps | apply Keeps.on | apply Keeps.each | apply Keeps.foldlFst | apply Keeps.ite
    | intro _ | (split <;> try dsimp only)

theorem State.scanComplete_keeps {s0 s : State} (h : Keeps k s0 s) (ld n : Nat) : Keeps k s0 (State.scanComplete s ld
    n) := by
  unfold State.scanComplete
  with_reducible repeat' first
    | assumption | apply State.crcJobEnd_keeps | apply State.put_keeps | apply State.scanIdle_keeps
    | apply State.scanWords_keeps

theorem State.scanStop_keeps {s0 s : State} (h : Keeps k s0 s) (ld n words : Nat) : Keeps k s0 (State.scanStop s ld n
    words) := by
  unfold State.scanStop
  with_reducible repeat' first
    | assumption | apply State.scanComplete_keeps | apply State.put_keeps | apply State.scanIdle_keeps
    | apply State.scanWords_keeps | apply Keeps.on | apply Keeps.each | apply Keeps.foldlFst | apply Keeps.ite
    | (intro _; try dsimp only)

theorem execScanStop_keeps {s0 s t : State} (h : Keeps k s0 s) (m : Master) (ld n words : Nat) (ht : execScanStop m ld
    n words s = .next t) : Keeps k s0 t := by
  refine Keeps.answer h ?_ ht
  with_reducible repeat' first
    | assumption | apply State.asWrite_keeps | apply State.scanStop_keeps | apply Keeps.on | apply Keeps.each
    | apply Keeps.foldlFst | (intro _; try dsimp only)

theorem execScanDone_keeps {s0 s t : State} (h : Keeps k s0 s) (ld n : Nat) (ht : execScanDone ld n s = .next t) :
    Keeps k s0 t := by
  exact Keeps.answer h (State.scanComplete_keeps h ..) ht

/-! ### Machine/Arbiter.lean -/

theorem State.spmServe_keeps {s0 s : State} (h : Keeps k s0 s) (hmem : k.mem = false) (ld : Nat) (w : SpmWait) : Keeps
    k s0 (State.spmServe s ld w).1 := by
  unfold State.spmServe
  try dsimp only
  with_reducible repeat' first
    | assumption | apply State.spmStore_keeps | apply State.spmLoad_keeps | apply State.scanTake_keeps
    | apply State.readWord_keeps | apply Keeps.ite | (intro _; try dsimp only) | (split <;> try dsimp only)

theorem State.spmServeAll_keeps {s0 s : State} (h : Keeps k s0 s) (hmem : k.mem = false) (ld : Nat) (l : List SpmWait)
    : Keeps k s0 (s.spmServeAll ld l).1 := by
  induction l generalizing s with
  | nil => exact h
  | cons w l ih =>
    unfold State.spmServeAll
    exact ih (State.spmServe_keeps h hmem ld w)

theorem State.spmCycle_keeps {s0 s : State} (h : Keeps k s0 s) (hmem : k.mem = false) (ld : Nat) (c : SpmCycle) :
    Keeps k s0 (State.spmCycle s ld c) := by
  unfold State.spmCycle
  try dsimp only
  with_reducible repeat' first
    | assumption | apply State.hold_keeps | apply done_keeps | apply State.spmServeAll_keeps
    | apply State.tillerFails_keeps | apply State.tillerAt_keeps | apply State.tillerAbort_keeps
    | apply State.respond_keeps | apply State.give_keeps | apply State.setSpm_keeps | apply Keeps.on
    | (intro _; try dsimp only)

theorem State.spmOutside_keeps {s0 s : State} (h : Keeps k s0 s) (ld : Nat) (q : SpmReq) : Keeps k s0
    (State.spmOutside s ld q) := by
  unfold State.spmOutside
  try dsimp only
  with_reducible repeat' first
    | assumption | apply State.logErr_keeps

theorem execScratchpadAccess_keeps {s0 s t : State} (h : Keeps k s0 s) (hmem : k.mem = false) (ld : Nat) (c :
    SpmCycle) (ht : execScratchpadAccess ld c s = .next t) : Keeps k s0 t := by
  unfold execScratchpadAccess at ht
  refine Keeps.answer h ?_ ht
  all_goals with_reducible repeat' first
    | assumption | apply State.spmOutside_keeps | apply State.spmCycle_keeps | apply State.respond_keeps
    | apply Keeps.each | (intro _; try dsimp only)

/-! ### Machine/Otp.lean -/

theorem State.otpReport_keeps {s0 s : State} (h : Keeps k s0 s) (ld w : Nat) (c : WordClass) : Keeps k s0
    (State.otpReport s ld w c) := by
  unfold State.otpReport
  with_reducible repeat' first
    | assumption | apply State.count_keeps | apply State.put_keeps | apply Keeps.on | apply Keeps.each
    | apply Keeps.foldlFst | apply Keeps.ite | (intro _; try dsimp only) | (split <;> try dsimp only)

theorem State.otpMargins_keeps {s0 s : State} (h : Keeps k s0 s) : Keeps k s0 (State.otpMargins s) := by
  unfold State.otpMargins
  with_reducible repeat' first
    | assumption | apply State.otpReport_keeps | apply Keeps.on | apply Keeps.each | apply Keeps.foldlFst
    | (intro _; try dsimp only)

theorem State.otpLocks_keeps {s0 s : State} (h : Keeps k s0 s) : Keeps k s0 (State.otpLocks s) := by
  unfold State.otpLocks
  with_reducible repeat' first
    | assumption | apply State.orFlags_keeps | apply State.put_keeps | apply Keeps.on | apply Keeps.each
    | apply Keeps.foldlFst | (intro _; try dsimp only)

theorem State.otpLife_keeps {s0 s : State} (h : Keeps k s0 s) : Keeps k s0 (State.otpLife s) := by
  unfold State.otpLife
  with_reducible repeat' first
    | assumption | apply State.putB_keeps | apply State.put_keeps | apply Keeps.on | apply Keeps.each
    | apply Keeps.foldlFst | (intro _; try dsimp only)

theorem State.vaultLoad_keeps {s0 s : State} (h : Keeps k s0 s) : Keeps k s0 (State.vaultLoad s) := by
  unfold State.vaultLoad
  with_reducible repeat' first
    | assumption | apply State.put_keeps | apply Keeps.on | apply Keeps.each | apply Keeps.foldlFst
    | apply Keeps.ite | (intro _; try dsimp only) | (split <;> try dsimp only)

theorem State.patchLoad_keeps {s0 s : State} (h : Keeps k s0 s) : Keeps k s0 (State.patchLoad s) := by
  unfold State.patchLoad
  with_reducible repeat' first
    | assumption | apply State.put_keeps | apply Keeps.on | apply Keeps.each | apply Keeps.foldlFst
    | (intro _; try dsimp only)

theorem State.hardRepair_keeps {s0 s : State} (h : Keeps k s0 s) (taken : List (Nat × Nat × Nat)) (d : Nat) : Keeps k
    s0 (State.hardRepair s taken d).1 := by
  unfold State.hardRepair
  dsimp only
  with_reducible repeat' first
    | assumption | apply State.count_keeps | apply State.put_keeps | apply Keeps.on | apply Keeps.each
    | apply Keeps.foldlFst | apply Keeps.ite | (intro _; try dsimp only) | (split <;> try dsimp only)

theorem State.hardRepairs_keeps {s0 s : State} (h : Keeps k s0 s) : Keeps k s0 (State.hardRepairs s).1 := by
  unfold State.hardRepairs
  try dsimp only
  with_reducible repeat' first
    | assumption | apply State.hardRepair_keeps | apply State.count_keeps | apply Keeps.each | apply Keeps.foldl
    | apply Keeps.foldlFst | (intro _; try dsimp only) | (split <;> try dsimp only)

theorem State.otpRead_keeps {s0 s : State} (h : Keeps k s0 s) (ld : Nat) : Keeps k s0 (State.otpRead s ld) := by
  exact h.upd rfl rfl rfl rfl rfl rfl rfl rfl rfl rfl rfl

theorem State.otpStart_keeps {s0 s : State} (h : Keeps k s0 s) (kind w d : Nat) : Keeps k s0 (State.otpStart s kind w
    d) := by
  exact h.upd rfl rfl rfl rfl rfl rfl rfl rfl rfl rfl rfl

theorem State.otpRequest_keeps {s0 s : State} (h : Keeps k s0 s) (ld kind : Nat) : Keeps k s0 (State.otpRequest s ld
    kind) := by
  unfold State.otpRequest
  with_reducible repeat' first
    | assumption | apply State.otpStart_keeps | apply State.put_keeps | apply Keeps.on | apply Keeps.each
    | apply Keeps.foldlFst | apply Keeps.ite | intro _ | (split <;> try dsimp only)

theorem State.otpFinish_keeps {s0 s : State} (h : Keeps k s0 s) (hotp : k.otp = false) (w : OtpWord) : Keeps k s0
    (State.otpFinish s w) := by
  unfold State.otpFinish
  try dsimp only
  with_reducible repeat' first
    | assumption | apply State.setOtp_keeps | apply State.putB_keeps | apply State.put_keeps | apply Keeps.each
    | (intro _; try dsimp only) | (fail_if_no_progress apply State.mk_keeps)

theorem State.otpEnds_keeps {s0 s : State} (h : Keeps k s0 s) (hotp : k.otp = false) : Keeps k s0 (State.otpEnds s) :=
    by
  unfold State.otpEnds
  try dsimp only
  with_reducible repeat' first
    | assumption | apply State.otpFinish_keeps | apply State.spend_keeps

theorem execOcmdRead_keeps {s0 s t : State} (h : Keeps k s0 s) (m : Master) (ld : Nat) (ht : execOcmdRead m ld s =
    .next t) : Keeps k s0 t := by
  refine Keeps.answer h ?_ ht
  with_reducible repeat' first
    | assumption | apply State.asWrite_keeps | apply State.otpRead_keeps | apply Keeps.on | apply Keeps.each
    | apply Keeps.foldlFst | (intro _; try dsimp only)

theorem execOcmdProg_keeps {s0 s t : State} (h : Keeps k s0 s) (m : Master) (ld : Nat) (ht : execOcmdProg m ld s =
    .next t) : Keeps k s0 t := by
  refine Keeps.answer h ?_ ht
  with_reducible repeat' first
    | assumption | apply State.asWrite_keeps | apply State.otpRequest_keeps | apply Keeps.on | apply Keeps.each
    | apply Keeps.foldlFst | (intro _; try dsimp only)

theorem execOcmdReburn_keeps {s0 s t : State} (h : Keeps k s0 s) (m : Master) (ld : Nat) (ht : execOcmdReburn m ld s =
    .next t) : Keeps k s0 t := by
  refine Keeps.answer h ?_ ht
  with_reducible repeat' first
    | assumption | apply State.asWrite_keeps | apply State.otpRequest_keeps | apply Keeps.on | apply Keeps.each
    | apply Keeps.foldlFst | (intro _; try dsimp only)

theorem execOtpOperationDone_keeps {s0 s t : State} (h : Keeps k s0 s) (hotp : k.otp = false) (w : OtpWord) (ht :
    execOtpOperationDone w s = .next t) : Keeps k s0 t := by
  unfold execOtpOperationDone at ht
  refine Keeps.answer h ?_ ht
  all_goals with_reducible repeat' first
    | assumption | apply State.otpFinish_keeps

theorem execOtpTokenGain_keeps {s0 s t : State} (h : Keeps k s0 s) (ht : execOtpTokenGain s = .next t) : Keeps k s0 t
    := by
  exact Keeps.answer h (State.put_keeps h ..) ht

theorem execOlockset_keeps {s0 s t : State} (h : Keeps k s0 s) (m : Master) (ld set : Nat) (ht : execOlockset m ld set
    s = .next t) : Keeps k s0 t := by
  refine Keeps.answer h ?_ ht
  with_reducible repeat' first
    | assumption | apply State.asWrite_keeps | apply State.orFlags_keeps | apply Keeps.on | apply Keeps.each
    | apply Keeps.foldlFst | (intro _; try dsimp only)

/-! ### Machine/Lbist.lean -/

theorem State.bistStart_keeps {s0 s : State} (h : Keeps k s0 s) (ld e : Nat) : Keeps k s0 (State.bistStart s ld e) :=
    by
  unfold State.bistStart
  try dsimp only
  with_reducible repeat' first
    | assumption | apply State.stopSv_keeps | apply State.revoke_keeps | apply State.setSv_keeps
    | apply State.setPrpg_keeps | apply State.putB_keeps | apply State.put_keeps | apply Keeps.on | apply Keeps.each
    | (intro _; try dsimp only)

theorem State.fenceEngineUnit_keeps {s0 s : State} (h : Keeps k s0 s) (hmem : k.mem = false) (ld e reason : Nat) :
    Keeps k s0 (State.fenceEngineUnit s ld e reason) := by
  unfold State.fenceEngineUnit
  with_reducible repeat' first
    | assumption | apply State.fenceLane_keeps | apply State.fenceSv_keeps | apply State.setSv_keeps
    | apply State.fenceEngine_keeps | apply Keeps.on | apply Keeps.each | apply Keeps.foldlFst | apply Keeps.ite
    | (intro _; try dsimp only)

theorem State.bistShow_keeps {s0 s : State} (h : Keeps k s0 s) (ld e : Nat) (result token : Nat) (pdone misr : Nat) :
    Keeps k s0 (State.bistShow s ld e result token pdone misr) := by
  exact h.upd rfl rfl rfl rfl rfl rfl rfl rfl rfl rfl rfl

theorem State.bistDone_keeps {s0 s : State} (h : Keeps k s0 s) (hmem : k.mem = false) (ld e misr : Nat) : Keeps k s0
    (State.bistDone s ld e misr) := by
  unfold State.bistDone
  try dsimp only
  with_reducible repeat' first
    | assumption | apply State.bistShow_keeps | apply State.fenceEngineUnit_keeps | apply State.setPrpg_keeps
    | apply State.putB_keeps | apply State.put_keeps | apply Keeps.on | apply Keeps.ite | (intro _; try dsimp only)


theorem State.reinit_keeps {s0 s : State} (h : Keeps k s0 s) (hmem : k.mem = false) (ld e : Nat) : Keeps k s0
    (State.reinit s ld e) := by
  unfold State.reinit
  try dsimp only
  with_reducible repeat' first
    | assumption | apply State.resetRegs_keeps | apply State.setSv_keeps | apply State.setPort_keeps
    | apply State.setRing_keeps | apply State.setLane_keeps | apply State.put_keeps | apply Keeps.each
    | apply Keeps.ite | (intro _; try dsimp only) | refine Keeps.withMem ?_ hmem (Store.wf_dropRange _ _ _)

theorem execLbistGo_keeps {s0 s t : State} (h : Keeps k s0 s) (m : Master) (ld e : Nat) (ht : execLbistGo m ld e s =
    .next t) : Keeps k s0 t := by
  refine Keeps.answer h ?_ ht
  with_reducible repeat' first
    | assumption | apply State.asWrite_keeps | apply State.bistStart_keeps | apply Keeps.on | apply Keeps.each
    | apply Keeps.foldlFst | (intro _; try dsimp only)

theorem execLbistIsolationTimeout_keeps {s0 s t : State} (h : Keeps k s0 s) (ld e : Nat) (ht :
    execLbistIsolationTimeout ld e s = .next t) : Keeps k s0 t := by
  refine Keeps.answer h ?_ ht
  with_reducible repeat' first
    | assumption | apply State.bistJobEnd_keeps | apply State.put_keeps | apply State.moveLeases_keeps
    | apply State.setSv_keeps | apply Keeps.on | apply Keeps.each | apply Keeps.foldlFst | (intro _; try dsimp only)

theorem execLbistAbort_keeps {s0 s t : State} (h : Keeps k s0 s) (m : Master) (ld e : Nat) (ht : execLbistAbort m ld e
    s = .next t) : Keeps k s0 t := by
  refine Keeps.answer h ?_ ht
  with_reducible repeat' first
    | assumption | apply State.asWrite_keeps | apply State.cutBist_keeps | apply Keeps.on | apply Keeps.each
    | apply Keeps.foldlFst | (intro _; try dsimp only)

theorem execLbistPatternsDone_keeps {s0 s t : State} (h : Keeps k s0 s) (hmem : k.mem = false) (ld e misr : Nat) (ht :
    execLbistPatternsDone ld e misr s = .next t) : Keeps k s0 t := by
  exact Keeps.answer h (State.bistDone_keeps h hmem ..) ht

theorem execLbistReinitDone_keeps {s0 s t : State} (h : Keeps k s0 s) (hmem : k.mem = false) (ld e : Nat) (ht :
    execLbistReinitDone ld e s = .next t) : Keeps k s0 t := by
  refine Keeps.answer h ?_ ht
  with_reducible repeat' first | assumption | apply State.bistJobEnd_keeps | apply State.reinit_keeps

theorem State.fbistStart_keeps {s0 s : State} (h : Keeps k s0 s) (fd : Nat) : Keeps k s0 (State.fbistStart s fd) := by
  unfold State.fbistStart
  try dsimp only
  with_reducible repeat' first
    | assumption | apply State.termsOff_keeps | apply State.setField_keeps | apply State.setPrpg_keeps
    | apply State.put_keeps | apply Keeps.on | (intro _; try dsimp only)

theorem State.ringIdle_keeps {s0 s : State} (h : Keeps k s0 s) (ld : Nat) : Keeps k s0 (State.ringIdle s ld) := by
  exact h.upd rfl rfl rfl rfl rfl rfl rfl rfl rfl rfl rfl

theorem State.shutdownFence_keeps {s0 s : State} (h : Keeps k s0 s) : Keeps k s0 (State.shutdownFence s) := by
  unfold State.shutdownFence
  try dsimp only
  with_reducible repeat' first
    | assumption | apply State.fenceInst_keeps | apply State.ringIdle_keeps | apply State.bistStart_keeps
    | apply State.fbistStart_keeps | apply Keeps.on | apply Keeps.each | apply Keeps.foldlFst | apply Keeps.ite
    | (intro _; try dsimp only) | split | (fail_if_no_progress apply State.mk_keeps)

theorem State.shutdown_keeps {s0 s : State} (h : Keeps k s0 s) : Keeps k s0 (State.shutdown s) := by
  unfold State.shutdown
  try dsimp only
  with_reducible repeat' first
    | assumption | apply State.put_keeps | apply State.shutdownFence_keeps | apply Keeps.on | apply Keeps.each
    | apply Keeps.foldlFst | apply Keeps.ite | (intro _; try dsimp only) | split
    | (fail_if_no_progress apply State.mk_keeps)

theorem State.shutdownEngine_keeps {s0 s : State} (h : Keeps k s0 s) (hmem : k.mem = false) (ld e : Nat) (fail : Bool)
    : Keeps k s0 (State.shutdownEngine s ld e fail) := by
  unfold State.shutdownEngine
  try dsimp only
  with_reducible repeat' first
    | assumption | apply State.reinit_keeps | apply State.bistDone_keeps | apply State.spend_keeps | apply Keeps.on
    | apply Keeps.ite | (intro _; try dsimp only)

theorem State.shutdownField_keeps {s0 s : State} (h : Keeps k s0 s) (fd : Nat) (fail : Bool) : Keeps k s0
    (State.shutdownField s fd fail) := by
  unfold State.shutdownField
  with_reducible repeat' first
    | assumption | apply State.put_keeps | apply State.putB_keeps | apply State.setField_keeps
    | apply State.fenceField_keeps | apply Keeps.on | apply Keeps.each | apply Keeps.foldlFst | apply Keeps.ite
    | (intro _; try dsimp only)

theorem State.shutdownDone_keeps {s0 s : State} (h : Keeps k s0 s) (hmem : k.mem = false) (fails : List Nat) : Keeps k
    s0 (State.shutdownDone s fails) := by
  unfold State.shutdownDone
  try dsimp only
  with_reducible repeat' first
    | assumption | apply State.bistStart_keeps | apply State.shutdownEngine_keeps | apply State.shutdownField_keeps
    | apply State.put_keeps | apply Keeps.on | apply Keeps.each | apply Keeps.foldlFst | apply Keeps.ite
    | (intro _; try dsimp only) | split | (fail_if_no_progress apply State.mk_keeps)

theorem execOrderlyShutdown_keeps {s0 s t : State} (h : Keeps k s0 s) (m : Master) (ht : execOrderlyShutdown m s =
    .next t) : Keeps k s0 t := by
  refine Keeps.answer h ?_ ht
  with_reducible repeat' first | assumption | apply State.asWrite_keeps | apply State.shutdown_keeps

theorem execShutdownDone_keeps {s0 s t : State} (h : Keeps k s0 s) (hmem : k.mem = false) (fails : List Nat) (ht :
    execShutdownDone fails s = .next t) : Keeps k s0 t := by
  exact Keeps.answer h (State.shutdownDone_keeps h hmem ..) ht

theorem State.fbistShift_keeps {s0 s : State} (h : Keeps k s0 s) (fd : Nat) : Keeps k s0 (State.fbistShift s fd) := by
  unfold State.fbistShift
  try dsimp only
  with_reducible repeat' first
    | assumption | apply State.setPrpg_keeps

theorem State.fbistDone_keeps {s0 s : State} (h : Keeps k s0 s) (fd : Nat) (token : Bool) (misr : Nat) : Keeps k s0
    (State.fbistDone s fd token misr) := by
  unfold State.fbistDone
  try dsimp only
  with_reducible repeat' first
    | assumption | apply State.fbistShift_keeps | apply State.fenceField_keeps | apply State.setField_keeps
    | apply State.putB_keeps | apply State.put_keeps | apply Keeps.ite | (intro _; try dsimp only)


theorem execFbistDone_keeps {s0 s t : State} (h : Keeps k s0 s) (fd : Nat) (token : Bool) (misr : Nat) (ht :
    execFbistDone fd token misr s = .next t) : Keeps k s0 t := by
  exact Keeps.answer h (State.fbistDone_keeps h ..) ht

/-! ### Machine/Terminals.lean -/

theorem State.modeSet_keeps {s0 s : State} (h : Keeps k s0 s) (fd x2 : Nat) : Keeps k s0 (State.modeSet s fd x2) := by
  unfold State.modeSet
  with_reducible repeat' first
    | assumption | apply State.switchOff_keeps | apply Keeps.on | apply Keeps.each | apply Keeps.foldlFst
    | (intro _; try dsimp only)

theorem State.openMasks_keeps {s0 s : State} (h : Keeps k s0 s) (fd src : Nat) (x3 : Bool) (time : Nat) : Keeps k s0
    (State.openMasks s fd src x3 time) := by
  unfold State.openMasks
  with_reducible repeat' first
    | assumption | apply State.setTerm_keeps | apply Keeps.on | apply Keeps.each | apply Keeps.foldlFst
    | (intro _; try dsimp only)

theorem State.voltage_keeps {s0 s : State} (h : Keeps k s0 s) (fd x2 : Nat) (x3 : Bool) (code time : Nat) : Keeps k s0
    (State.voltage s fd x2 x3 code time) := by
  unfold State.voltage
  with_reducible repeat' first
    | assumption | apply State.setTerm_keeps | apply State.capArm_keeps | apply State.openMasks_keeps
    | apply Keeps.on | apply Keeps.each | apply Keeps.foldlFst | (intro _; try dsimp only)

theorem execTerminalVoltageChange_keeps {s0 s t : State} (h : Keeps k s0 s) (fd x1 : Nat) (x2 : Bool) (code time :
    Nat) (ht : execTerminalVoltageChange fd x1 x2 code time s = .next t) : Keeps k s0 t := by
  exact Keeps.answer h (State.voltage_keeps h ..) ht

theorem State.maskClose_keeps {s0 s : State} (h : Keeps k s0 s) (fd x2 : Nat) (x3 : Bool) : Keeps k s0
    (State.maskClose s fd x2 x3) := by
  exact h.upd rfl rfl rfl rfl rfl rfl rfl rfl rfl rfl rfl

theorem execMaskClose_keeps {s0 s t : State} (h : Keeps k s0 s) (fd x1 : Nat) (x2 : Bool) (ht : execMaskClose fd x1 x2
    s = .next t) : Keeps k s0 t := by
  exact Keeps.answer h (State.maskClose_keeps h ..) ht

theorem State.pendFence_keeps {s0 s : State} (h : Keeps k s0 s) (fd x2 x3 : Nat) : Keeps k s0 (State.pendFence s fd x2
    x3) := by
  exact h.upd rfl rfl rfl rfl rfl rfl rfl rfl rfl rfl rfl

theorem State.flagPend_keeps {s0 s : State} (h : Keeps k s0 s) (fd x2 x3 : Nat) : Keeps k s0 (State.flagPend s fd x2
    x3) := by
  exact h.upd rfl rfl rfl rfl rfl rfl rfl rfl rfl rfl rfl

theorem State.slotEndIn_keeps {s0 s : State} (h : Keeps k s0 s) (fd x2 slot : Nat) (x4 : Bool) : Keeps k s0
    (State.slotEndIn s fd x2 slot x4) := by
  unfold State.slotEndIn
  with_reducible repeat' first
    | assumption | apply State.setTerm_keeps | apply State.count_keeps | apply Keeps.on | apply Keeps.each
    | apply Keeps.foldlFst | (intro _; try dsimp only)

theorem State.slotEndSource_keeps {s0 s : State} (h : Keeps k s0 s) (fd x2 : Nat) (x3 : Bool) (ic : Nat) : Keeps k s0
    (State.slotEndSource s fd x2 x3 ic) := by
  unfold State.slotEndSource
  with_reducible repeat' first
    | assumption | apply State.setTerm_keeps | apply State.count_keeps | apply State.flagPend_keeps | apply Keeps.on
    | apply Keeps.each | apply Keeps.foldlFst | apply Keeps.ite | (intro _; try dsimp only)

theorem State.setSlot_keeps {s0 s : State} (h : Keeps k s0 s) (fd : Nat) (hSide : Bool) (x2 : Nat) : Keeps k s0
    (State.setSlot s fd hSide x2) := by
  unfold State.setSlot
  try dsimp only
  with_reducible repeat' first
    | assumption | apply State.setField_keeps


theorem State.restartSlot_keeps {s0 s : State} (h : Keeps k s0 s) (fd now : Nat) (hSide : Bool) : Keeps k s0
    (State.restartSlot s fd now hSide) := by
  unfold State.restartSlot
  try dsimp only
  with_reducible repeat' first
    | assumption | apply State.setSlot_keeps | apply Keeps.on | (intro _; try dsimp only)

theorem State.slotEnd_keeps {s0 s : State} (h : Keeps k s0 s) (fd slot : Nat) (hSide : Bool) (ic : List (Nat × Nat)) :
    Keeps k s0 (State.slotEnd s fd slot hSide ic) := by
  unfold State.slotEnd
  try dsimp only
  with_reducible repeat' first
    | assumption | apply State.setSlot_keeps | apply State.slotEndSource_keeps | apply State.slotEndIn_keeps
    | apply State.put_keeps | apply Keeps.on | apply Keeps.each | (intro _; try dsimp only)

theorem execTestPulseSlotEnd_keeps {s0 s t : State} (h : Keeps k s0 s) (fd slot : Nat) (v : SlotView)
    (ht : execTestPulseSlotEnd fd slot v s = .next t) : Keeps k s0 t := by
  exact Keeps.answer h (State.slotEnd_keeps h ..) ht

theorem State.engage_keeps {s0 s : State} (h : Keeps k s0 s) (fd x2 : Nat) : Keeps k s0 (State.engage s fd x2) := by
  exact h.upd rfl rfl rfl rfl rfl rfl rfl rfl rfl rfl rfl

theorem State.disengage_keeps {s0 s : State} (h : Keeps k s0 s) (fd x2 : Nat) : Keeps k s0 (State.disengage s fd x2)
    := by
  exact h.upd rfl rfl rfl rfl rfl rfl rfl rfl rfl rfl rfl

theorem execCurrentLimitEngage_keeps {s0 s t : State} (h : Keeps k s0 s) (fd x1 : Nat) (ht : execCurrentLimitEngage fd
    x1 s = .next t) : Keeps k s0 t := by
  exact Keeps.answer h (State.engage_keeps h ..) ht

theorem execCurrentLimitRelease_keeps {s0 s t : State} (h : Keeps k s0 s) (fd x1 : Nat) (ht : execCurrentLimitRelease
    fd x1 s = .next t) : Keeps k s0 t := by
  exact Keeps.answer h (State.disengage_keeps h ..) ht

theorem execShortGndTimeout_keeps {s0 s t : State} (h : Keeps k s0 s) (fd x1 : Nat) (ht : execShortGndTimeout fd x1 s
    = .next t) : Keeps k s0 t := by
  refine Keeps.answer h ?_ ht
  with_reducible repeat' first
    | assumption | apply State.flagPend_keeps | apply State.disengage_keeps | apply State.switchOff_keeps

theorem State.gdTrip_keeps {s0 s : State} (h : Keeps k s0 s) (fd x2 : Nat) : Keeps k s0 (State.gdTrip s fd x2) := by
  unfold State.gdTrip
  with_reducible repeat' first
    | assumption | apply State.switchOff_keeps | apply State.flagPend_keeps | apply State.put_keeps
    | apply State.setTerm_keeps

theorem execGdTrip_keeps {s0 s t : State} (h : Keeps k s0 s) (fd x1 : Nat) (ht : execGdTrip fd x1 s = .next t) : Keeps
    k s0 t := by
  exact Keeps.answer h (State.gdTrip_keeps h ..) ht

theorem State.gdCross_keeps {s0 s : State} (h : Keeps k s0 s) (fd x2 : Nat) (above : Bool) : Keeps k s0 (State.gdCross
    s fd x2 above) := by
  unfold State.gdCross
  with_reducible repeat' first
    | assumption | apply State.setTerm_keeps | apply State.put_keeps | apply Keeps.on | apply Keeps.each
    | apply Keeps.foldlFst | (intro _; try dsimp only)

theorem execGdtripThresholdCrossing_keeps {s0 s t : State} (h : Keeps k s0 s) (fd x1 : Nat) (above : Bool) (ht :
    execGdtripThresholdCrossing fd x1 above s = .next t) : Keeps k s0 t := by
  exact Keeps.answer h (State.gdCross_keeps h ..) ht

theorem execThermalShutdown_keeps {s0 s t : State} (h : Keeps k s0 s) (fd x1 : Nat) (ht : execThermalShutdown fd x1 s
    = .next t) : Keeps k s0 t := by
  refine Keeps.answer h ?_ ht
  with_reducible repeat' first
    | assumption | apply State.switchOff_keeps | apply State.put_keeps | apply State.setTerm_keeps

theorem execReversedSuppressionEnd_keeps {s0 s t : State} (h : Keeps k s0 s) (fd x1 : Nat) (ht :
    execReversedSuppressionEnd fd x1 s = .next t) : Keeps k s0 t := by
  exact Keeps.answer h (State.setTerm_keeps h ..) ht

theorem execOpenLoadDetect_keeps {s0 s t : State} (h : Keeps k s0 s) (fd x1 : Nat) (ht : execOpenLoadDetect fd x1 s =
    .next t) : Keeps k s0 t := by
  exact Keeps.answer h (State.raiseFlag_keeps h ..) ht

theorem execTermFenceClr_keeps {s0 s t : State} (h : Keeps k s0 s) (m : Master) (fd x2 : Nat) (ht : execTermFenceClr m
    fd x2 s = .next t) : Keeps k s0 t := by
  refine Keeps.answer h ?_ ht
  with_reducible repeat' first
    | assumption | apply State.asWrite_keeps | apply State.setTerm_keeps | apply Keeps.on | apply Keeps.each
    | apply Keeps.foldlFst | (intro _; try dsimp only)

theorem State.judge_keeps {s0 s : State} (h : Keeps k s0 s) (fd x2 bits : Nat) : Keeps k s0 (State.judge s fd x2 bits)
    := by
  unfold State.judge
  with_reducible repeat' first
    | assumption | apply State.raiseFlag_keeps | apply State.fenceTerm_keeps | apply Keeps.on | apply Keeps.each
    | apply Keeps.foldlFst | (intro _; try dsimp only)

theorem State.report_keeps {s0 s : State} (h : Keeps k s0 s) (fd x2 : Nat) (f : Filt) : Keeps k s0 (State.report s fd
    x2 f) := by
  unfold State.report
  with_reducible repeat' first
    | assumption | apply State.raiseFlag_keeps | apply Keeps.on | apply Keeps.each | apply Keeps.foldlFst
    | (intro _; try dsimp only)

theorem State.pJudge_keeps {s0 s : State} (h : Keeps k s0 s) (fd x2 now : Nat) : Keeps k s0 (State.pJudge s fd x2 now)
    := by
  unfold State.pJudge
  with_reducible repeat' first
    | assumption | apply State.setTerm_keeps | apply State.report_keeps | apply State.raiseFlag_keeps
    | apply State.judge_keeps | apply State.put_keeps | apply Keeps.on | apply Keeps.each | apply Keeps.foldlFst
    | (intro _; try dsimp only)

theorem State.pEdge_keeps {s0 s : State} (h : Keeps k s0 s) (fd now : Nat) : Keeps k s0 (State.pEdge s fd now) := by
  unfold State.pEdge
  try dsimp only
  with_reducible repeat' first
    | assumption | apply State.pJudge_keeps | apply State.restartSlot_keeps | apply Keeps.each
    | (intro _; try dsimp only)

theorem State.hJudge_keeps {s0 s : State} (h : Keeps k s0 s) (fd x2 now : Nat) : Keeps k s0 (State.hJudge s fd x2 now)
    := by
  unfold State.hJudge
  with_reducible repeat' first
    | assumption | apply State.setTerm_keeps | apply State.putB_keeps | apply State.put_keeps
    | apply State.judge_keeps | apply State.report_keeps | apply State.clearTerm_keeps | apply Keeps.on
    | apply Keeps.each | apply Keeps.foldlFst | apply Keeps.ite | (intro _; try dsimp only)

theorem State.hEdge_keeps {s0 s : State} (h : Keeps k s0 s) (fd now : Nat) : Keeps k s0 (State.hEdge s fd now) := by
  unfold State.hEdge
  with_reducible repeat' first
    | assumption | apply State.hJudge_keeps | apply Keeps.on | apply Keeps.each | apply Keeps.foldlFst
    | (intro _; try dsimp only)

theorem State.measure_keeps {s0 s : State} (h : Keeps k s0 s) (m : Meas) (now : Nat) : Keeps k s0 (State.measure s m
    now) := by
  unfold State.measure
  with_reducible repeat' first
    | assumption | apply State.voltage_keeps | apply State.put_keeps | apply State.setTerm_keeps

theorem State.sampleP_keeps {s0 s : State} (h : Keeps k s0 s) (ld fd x3 : Nat) : Keeps k s0 (State.sampleP s ld fd x3)
    := by
  exact h.upd rfl rfl rfl rfl rfl rfl rfl rfl rfl rfl rfl

/-! ### Machine/Timers.lean -/

theorem State.settle_keeps {s0 s : State} (h : Keeps k s0 s) (die n : Nat) : Keeps k s0 (State.settle s die n) := by
  unfold State.settle
  with_reducible repeat' first
    | assumption | apply State.spend_keeps | apply State.put_keeps | apply Keeps.on | apply Keeps.each
    | apply Keeps.foldlFst | (intro _; try dsimp only)

theorem State.settleOwned_keeps {s0 s : State} (h : Keeps k s0 s) (ld code : Nat) : Keeps k s0 (State.settleOwned s ld
    code) := by
  unfold State.settleOwned
  try dsimp only
  with_reducible repeat' first
    | assumption | apply State.settle_keeps | apply State.setCapDue_keeps | apply Keeps.on | apply Keeps.each
    | (intro _; try dsimp only)

theorem State.pinSet_keeps {s0 s : State} (h : Keeps k s0 s) (die n : Nat) (b : Bool) : Keeps k s0 (State.pinSet s die
    n b) := by
  unfold State.pinSet
  with_reducible repeat' first
    | assumption | apply State.putB_keeps | apply State.eventEdge_keeps | apply Keeps.on | apply Keeps.each
    | apply Keeps.foldlFst | (intro _; try dsimp only)

theorem State.pinAct_keeps {s0 s : State} (h : Keeps k s0 s) (die n code : Nat) : Keeps k s0 (State.pinAct s die n
    code) := by
  unfold State.pinAct
  with_reducible repeat' first
    | assumption | apply State.pinSet_keeps | apply Keeps.on | apply Keeps.each | apply Keeps.foldlFst
    | apply Keeps.ite | intro _ | (split <;> try dsimp only)

theorem State.strobeCapture_keeps {s0 s : State} (h : Keeps k s0 s) (die : Nat) : Keeps k s0 (State.strobeCapture s
    die) := by
  unfold State.strobeCapture
  with_reducible repeat' first
    | assumption | apply State.capArm_keeps | apply Keeps.on | apply Keeps.each | apply Keeps.foldlFst
    | (intro _; try dsimp only)

theorem State.wrap_keeps {s0 s : State} (h : Keeps k s0 s) (die n : Nat) : Keeps k s0 (State.wrap s die n) := by
  exact h.upd rfl rfl rfl rfl rfl rfl rfl rfl rfl rfl rfl

theorem State.engineSet_keeps {s0 s : State} (h : Keeps k s0 s) (fd n : Nat) (fromB : Bool) : Keeps k s0
    (State.engineSet s fd n fromB) := by
  exact h.upd rfl rfl rfl rfl rfl rfl rfl rfl rfl rfl rfl

theorem State.engineRunAt_keeps {s0 s : State} (h : Keeps k s0 s) (fd n now : Nat) : Keeps k s0 (State.engineRunAt s
    fd n now) := by
  unfold State.engineRunAt
  try dsimp only
  with_reducible repeat' first
    | assumption | apply State.engineSet_keeps | apply State.wrap_keeps | apply State.setTerm_keeps
    | apply State.put_keeps

theorem State.engineRun_keeps {s0 s : State} (h : Keeps k s0 s) (fd n : Nat) : Keeps k s0 (State.engineRun s fd n) :=
    by
  unfold State.engineRun
  try dsimp only
  with_reducible repeat' first
    | assumption | apply State.engineRunAt_keeps | apply State.spend_keeps

theorem State.engineHalt_keeps {s0 s : State} (h : Keeps k s0 s) (fd n : Nat) : Keeps k s0 (State.engineHalt s fd n)
    := by
  unfold State.engineHalt
  try dsimp only
  with_reducible repeat' first
    | assumption | apply State.idleTimer_keeps | apply State.put_keeps

theorem State.engineTake_keeps {s0 s : State} (h : Keeps k s0 s) (fd n : Nat) : Keeps k s0 (State.engineTake s fd n)
    := by
  unfold State.engineTake
  with_reducible repeat' first
    | assumption | apply State.engineHalt_keeps | apply State.engineRun_keeps | apply Keeps.on | apply Keeps.each
    | apply Keeps.foldlFst | (intro _; try dsimp only)

theorem State.engineDrop_keeps {s0 s : State} (h : Keeps k s0 s) (fd n : Nat) : Keeps k s0 (State.engineDrop s fd n)
    := by
  unfold State.engineDrop
  try dsimp only
  with_reducible repeat' first
    | assumption | apply State.idleTimer_keeps

theorem State.dropMasks_keeps {s0 s : State} (h : Keeps k s0 s) (fd : Nat) : Keeps k s0 (State.dropMasks s fd) := by
  unfold State.dropMasks
  try dsimp only
  with_reducible repeat' first
    | assumption | apply State.maskClose_keeps | apply Keeps.on | apply Keeps.each | (intro _; try dsimp only)

theorem State.frameSet_keeps {s0 s : State} (h : Keeps k s0 s) (fd : Nat) : Keeps k s0 (State.frameSet s fd) := by
  unfold State.frameSet
  try dsimp only
  with_reducible repeat' first
    | assumption | apply State.dropMasks_keeps | apply State.engineTake_keeps | apply Keeps.each
    | (intro _; try dsimp only)

theorem State.realign_keeps {s0 s : State} (h : Keeps k s0 s) (fd : Nat) : Keeps k s0 (State.realign s fd) := by
  unfold State.realign
  try dsimp only
  with_reducible repeat' first
    | assumption | apply State.engineRunAt_keeps | apply Keeps.each | (intro _; try dsimp only)

theorem State.setCode_keeps {s0 s : State} (h : Keeps k s0 s) (fd n val : Nat) : Keeps k s0 (State.setCode s fd n val)
    := by
  unfold State.setCode
  with_reducible repeat' first
    | assumption | apply State.put_keeps | apply State.putB_keeps | apply State.engineTake_keeps
    | apply State.engineDrop_keeps | apply Keeps.on | apply Keeps.each | apply Keeps.foldlFst | apply Keeps.ite
    | (intro _; try dsimp only)

theorem State.engineRetake_keeps {s0 s : State} (h : Keeps k s0 s) (fd n : Nat) : Keeps k s0 (State.engineRetake s fd
    n) := by
  unfold State.engineRetake
  with_reducible repeat' first
    | assumption | apply State.engineTake_keeps | apply Keeps.on | apply Keeps.each | apply Keeps.foldlFst
    | (intro _; try dsimp only)

theorem State.leaseH_keeps {s0 s : State} (h : Keeps k s0 s) (fd : Nat) : Keeps k s0 (State.leaseH s fd) := by
  unfold State.leaseH
  with_reducible repeat' first
    | assumption | apply State.put_keeps | apply Keeps.on | apply Keeps.each | apply Keeps.foldlFst
    | (intro _; try dsimp only)

theorem execTpcodeWrite_keeps {s0 s t : State} (h : Keeps k s0 s) (m : Master) (fd n val : Nat) (ht : execTpcodeWrite
    m fd n val s = .next t) : Keeps k s0 t := by
  refine Keeps.answer h ?_ ht
  with_reducible repeat' first
    | assumption | apply State.asWrite_keeps | apply State.setCode_keeps | apply Keeps.on | apply Keeps.each
    | apply Keeps.foldlFst | (intro _; try dsimp only)

theorem State.pulseStart_keeps {s0 s : State} (h : Keeps k s0 s) (fd n : Nat) (on : Bool) : Keeps k s0
    (State.pulseStart s fd n on) := by
  exact h.upd rfl rfl rfl rfl rfl rfl rfl rfl rfl rfl rfl

theorem State.timerZero_keeps {s0 s : State} (h : Keeps k s0 s) (die n : Nat) : Keeps k s0 (State.timerZero s die n)
    := by
  unfold State.timerZero
  with_reducible repeat' first
    | assumption | apply State.raiseFlag_keeps | apply State.wrap_keeps | apply State.pinAct_keeps
    | apply State.pulseStart_keeps | apply Keeps.on | apply Keeps.each | apply Keeps.foldlFst
    | (intro _; try dsimp only)

theorem State.timerMatch_keeps {s0 s : State} (h : Keeps k s0 s) (die n : Nat) : Keeps k s0 (State.timerMatch s die n)
    := by
  unfold State.timerMatch
  with_reducible repeat' first
    | assumption | apply State.put_keeps | apply State.pinAct_keeps | apply State.raiseFlag_keeps

theorem execTimerZero_keeps {s0 s t : State} (h : Keeps k s0 s) (die n : Nat) (ht : execTimerZero die n s = .next t) :
    Keeps k s0 t := by
  exact Keeps.answer h (State.timerZero_keeps h ..) ht

theorem execTimerMatch_keeps {s0 s t : State} (h : Keeps k s0 s) (die n : Nat) (ht : execTimerMatch die n s = .next t)
    : Keeps k s0 t := by
  exact Keeps.answer h (State.timerMatch_keeps h ..) ht

theorem State.timerEnable_keeps {s0 s : State} (h : Keeps k s0 s) (die n : Nat) : Keeps k s0 (State.timerEnable s die
    n) := by
  unfold State.timerEnable
  with_reducible repeat' first
    | assumption | apply State.wrap_keeps | apply State.put_keeps | apply Keeps.on | apply Keeps.each
    | apply Keeps.foldlFst | (intro _; try dsimp only)

theorem State.timerDisable_keeps {s0 s : State} (h : Keeps k s0 s) (die n elapsed : Nat) : Keeps k s0
    (State.timerDisable s die n elapsed) := by
  unfold State.timerDisable
  with_reducible repeat' first
    | assumption | apply State.put_keeps | apply Keeps.on | apply Keeps.each | apply Keeps.foldlFst
    | (intro _; try dsimp only)

theorem execTimerEnable_keeps {s0 s t : State} (h : Keeps k s0 s) (m : Master) (die n : Nat) (ht : execTimerEnable m
    die n s = .next t) : Keeps k s0 t := by
  refine Keeps.answer h ?_ ht
  with_reducible repeat' first
    | assumption | apply State.asWrite_keeps | apply State.timerEnable_keeps | apply Keeps.on | apply Keeps.each
    | apply Keeps.foldlFst | (intro _; try dsimp only)

theorem execTimerDisable_keeps {s0 s t : State} (h : Keeps k s0 s) (m : Master) (die n elapsed : Nat) (ht :
    execTimerDisable m die n elapsed s = .next t) : Keeps k s0 t := by
  refine Keeps.answer h ?_ ht
  with_reducible repeat' first
    | assumption | apply State.asWrite_keeps | apply State.timerDisable_keeps | apply Keeps.on | apply Keeps.each
    | apply Keeps.foldlFst | (intro _; try dsimp only)

theorem execTimerRldnow_keeps {s0 s t : State} (h : Keeps k s0 s) (m : Master) (die n : Nat) (ht : execTimerRldnow m
    die n s = .next t) : Keeps k s0 t := by
  refine Keeps.answer h ?_ ht
  with_reducible repeat' first
    | assumption | apply State.asWrite_keeps | apply State.wrap_keeps | apply Keeps.on | apply Keeps.each
    | apply Keeps.foldlFst | (intro _; try dsimp only)

theorem State.timerCtl_keeps {s0 s : State} (h : Keeps k s0 s) (die n v : Nat) : Keeps k s0 (State.timerCtl s die n v)
    := by
  unfold State.timerCtl
  with_reducible repeat' first
    | assumption | apply State.put_keeps | apply State.timerEnable_keeps | apply State.timerDisable_keeps
    | apply State.settle_keeps | apply State.wrap_keeps | apply State.setCapDue_keeps | apply Keeps.on
    | apply Keeps.each | apply Keeps.foldlFst | apply Keeps.ite | (intro _; try dsimp only)

theorem State.timerWord_keeps {s0 s : State} (h : Keeps k s0 s) (die n : Nat) (x3 v : Nat) : Keeps k s0
    (State.timerWord s die n x3 v) := by
  unfold State.timerWord
  with_reducible repeat' first
    | assumption | apply State.timerCtl_keeps | apply State.put_keeps | apply State.w1c_keeps | apply Keeps.on
    | apply Keeps.each | apply Keeps.foldlFst | apply Keeps.ite | (intro _; try dsimp only) | (split <;> try dsimp only)

theorem State.capture_keeps {s0 s : State} (h : Keeps k s0 s) (die n elapsed due : Nat) : Keeps k s0 (State.capture s die
    n elapsed due) := by
  unfold State.capture
  with_reducible repeat' first
    | assumption | apply State.setCapDue_keeps | apply State.raiseFlag_keeps | apply State.put_keeps
    | apply Keeps.on | apply Keeps.each | apply Keeps.foldlFst | (intro _; try dsimp only)

theorem execTimerCapture_keeps {s0 s t : State} (h : Keeps k s0 s) (die n elapsed : Nat) (rising : Bool)
    (ht : execTimerCapture die n elapsed rising s = .next t) : Keeps k s0 t := by
  exact Keeps.answer h (State.capture_keeps h ..) ht

theorem State.capRead_keeps {s0 s : State} (h : Keeps k s0 s) (die n : Nat) (same : Option Nat) : Keeps k s0
    (State.capRead s die n same) := by
  unfold State.capRead
  try dsimp only
  with_reducible repeat' first
    | assumption | apply State.capture_keeps | apply State.respond_keeps | apply State.give_keeps
    | apply State.spend_keeps | apply State.put_keeps | (split <;> try dsimp only)

theorem execTimerCapRead_keeps {s0 s t : State} (h : Keeps k s0 s) (m : Master) (die n : Nat) (same : Option Nat) (ht
    : execTimerCapRead m die n same s = .next t) : Keeps k s0 t := by
  refine Keeps.answer h ?_ ht
  with_reducible repeat' first
    | assumption | apply State.capRead_keeps | apply State.readRefused_keeps | apply Keeps.on | apply Keeps.each
    | apply Keeps.foldlFst | (intro _; try dsimp only) | apply Keeps.ite

/-! ### Machine/Tap.lean -/

theorem State.tapSelect_keeps {s0 s : State} (h : Keeps k s0 s) (i : TapIns) : Keeps k s0 (State.tapSelect s i) := by
  unfold State.tapSelect
  try dsimp only
  with_reducible repeat' first
    | assumption | apply State.spend_keeps | apply Keeps.on | apply Keeps.ite | (intro _; try dsimp only)
    | (split <;> try dsimp only) | (fail_if_no_progress apply State.mk_keeps)

theorem State.tapRefuse_keeps {s0 s : State} (h : Keeps k s0 s) : Keeps k s0 (State.tapRefuse s) := by
  unfold State.tapRefuse
  try dsimp only
  with_reducible repeat' first
    | assumption | apply State.tapSelect_keeps | apply State.put_keeps | apply Keeps.on | apply Keeps.each
    | (intro _; try dsimp only)

theorem execTapBypass_keeps {s0 s t : State} (h : Keeps k s0 s) (code : Nat) (ht : execTapBypass code s = .next t) :
    Keeps k s0 t := by
  refine Keeps.answer h ?_ ht
  with_reducible repeat' first
    | assumption | apply State.tapSelect_keeps | apply State.tapRefuse_keeps | apply Keeps.on | apply Keeps.each
    | apply Keeps.foldlFst | (intro _; try dsimp only) | apply Keeps.ite

theorem execTapIdcode_keeps {s0 s t : State} (h : Keeps k s0 s) (ht : execTapIdcode s = .next t) : Keeps k s0 t := by
  refine Keeps.answer h ?_ ht
  with_reducible repeat' first
    | assumption | apply State.tapSelect_keeps | apply State.give_keeps | apply Keeps.on | apply Keeps.each
    | apply Keeps.foldlFst | (intro _; try dsimp only)

theorem execTapSamplePreload_keeps {s0 s t : State} (h : Keeps k s0 s) (ht : execTapSamplePreload s = .next t) : Keeps
    k s0 t := by
  exact Keeps.answer h (State.tapSelect_keeps h ..) ht

theorem State.tapSafeState_keeps {s0 s : State} (h : Keeps k s0 s) : Keeps k s0 (State.tapSafeState s) := by
  unfold State.tapSafeState
  try dsimp only
  with_reducible repeat' first
    | assumption | apply State.termsOff_keeps | apply Keeps.on | apply Keeps.each | apply Keeps.foldlFst
    | apply Keeps.ite | (intro _; try dsimp only) | split
    | (fail_if_no_progress apply State.mk_keeps)

theorem execTapExtest_keeps {s0 s t : State} (h : Keeps k s0 s) (ht : execTapExtest s = .next t) : Keeps k s0 t := by
  refine Keeps.answer h ?_ ht
  with_reducible repeat' first
    | assumption | apply State.tapRefuse_keeps | apply State.tapSelect_keeps | apply State.tapSafeState_keeps
    | apply Keeps.on | apply Keeps.each | apply Keeps.foldlFst | (intro _; try dsimp only) | apply Keeps.ite

theorem execTapDbgacc_keeps {s0 s t : State} (h : Keeps k s0 s) (ht : execTapDbgacc s = .next t) : Keeps k s0 t := by
  exact Keeps.answer h (State.tapSelect_keeps h ..) ht

theorem State.scanen_keeps {s0 s : State} (h : Keeps k s0 s) (hmem : k.mem = false) : Keeps k s0 (State.scanen s) := by
  unfold State.scanen
  with_reducible repeat' first
    | assumption | apply State.put_keeps | apply State.spend_keeps | apply State.fenceField_keeps
    | apply State.fenceLogic_keeps | apply State.tapSafeState_keeps | apply Keeps.on | apply Keeps.each
    | apply Keeps.foldlFst | (intro _; try dsimp only)

theorem execTapScanen_keeps {s0 s t : State} (h : Keeps k s0 s) (hmem : k.mem = false) (ht : execTapScanen s = .next
    t) : Keeps k s0 t := by
  refine Keeps.answer h ?_ ht
  with_reducible repeat' first
    | assumption | apply State.tapSelect_keeps | apply State.scanen_keeps | apply State.tapRefuse_keeps
    | apply Keeps.on | apply Keeps.each | apply Keeps.foldlFst | (intro _; try dsimp only) | apply Keeps.ite

theorem execTrstN_keeps {s0 s t : State} (h : Keeps k s0 s) (ht : execTrstN s = .next t) : Keeps k s0 t := by
  unfold execTrstN at ht
  refine Keeps.answer h ?_ ht
  all_goals repeat' (first
    | with_reducible assumption | with_reducible apply Keeps.ident | with_reducible apply Keeps.each
    | with_reducible apply Keeps.on | with_reducible apply Keeps.ite | with_reducible apply Keeps.foldl
    | with_reducible apply Keeps.foldlFst | intro _
    | with_reducible refine Keeps.fst ‹_ = (_, _)› ?_ | with_reducible refine Keeps.fst3 ‹_ = (_, _, _)› ?_
    | split | (fail_if_no_progress (with_reducible apply State.mk_keeps)))

theorem State.haltRefused_keeps {s0 s : State} (h : Keeps k s0 s) (ld : Nat) : Keeps k s0 (State.haltRefused s ld) := by
  exact h.upd rfl rfl rfl rfl rfl rfl rfl rfl rfl rfl rfl

theorem State.haltCore_keeps {s0 s : State} (h : Keeps k s0 s) (hmem : k.mem = false) (ld l : Nat) : Keeps k s0
    (State.haltCore s ld l) := by
  unfold State.haltCore
  with_reducible repeat' first
    | assumption | apply State.put_keeps | apply State.fenceLane_keeps | apply State.settleOwned_keeps
    | apply State.orFlags_keeps | apply State.setLane_keeps

theorem execDebugHaltLane_keeps {s0 s t : State} (h : Keeps k s0 s) (hmem : k.mem = false) (ld lane : Nat) (ht :
    execDebugHaltLane ld lane s = .next t) : Keeps k s0 t := by
  refine Keeps.answer h ?_ ht
  with_reducible repeat' first
    | assumption | apply State.haltCore_keeps | apply State.haltRefused_keeps | apply Keeps.on | apply Keeps.each
    | apply Keeps.foldlFst | (intro _; try dsimp only) | apply Keeps.ite

theorem State.haltSv_keeps {s0 s : State} (h : Keeps k s0 s) (ld : Nat) : Keeps k s0 (State.haltSv s ld) := by
  unfold State.haltSv
  with_reducible repeat' first
    | assumption | apply State.settleOwned_keeps | apply State.moveLeases_keeps | apply State.put_keeps
    | apply State.setSv_keeps

theorem execDebugHaltSupervisor_keeps {s0 s t : State} (h : Keeps k s0 s) (ld : Nat) (ht : execDebugHaltSupervisor ld
    s = .next t) : Keeps k s0 t := by
  refine Keeps.answer h ?_ ht
  with_reducible repeat' first
    | assumption | apply State.haltSv_keeps | apply State.haltRefused_keeps | apply Keeps.on | apply Keeps.each
    | apply Keeps.foldlFst | (intro _; try dsimp only) | apply Keeps.ite

theorem State.resumeLane_keeps {s0 s : State} (h : Keeps k s0 s) (ld l : Nat) : Keeps k s0 (State.resumeLane s ld l)
    := by
  exact h.upd rfl rfl rfl rfl rfl rfl rfl rfl rfl rfl rfl

theorem State.resumeSv_keeps {s0 s : State} (h : Keeps k s0 s) (ld : Nat) : Keeps k s0 (State.resumeSv s ld) := by
  unfold State.resumeSv
  with_reducible repeat' first
    | assumption | apply State.moveLeases_keeps | apply State.put_keeps | apply State.setSv_keeps

theorem execDebugResume_keeps {s0 s t : State} (h : Keeps k s0 s) (ld core : Nat) (ht : execDebugResume ld core s =
    .next t) : Keeps k s0 t := by
  refine Keeps.answer h ?_ ht
  with_reducible repeat' first
    | assumption | apply State.resumeLane_keeps | apply State.resumeSv_keeps | apply Keeps.on | apply Keeps.each
    | apply Keeps.foldlFst | (intro _; try dsimp only) | apply Keeps.ite

theorem State.vaultDone_keeps {s0 s : State} (h : Keeps k s0 s) : Keeps k s0 (State.vaultDone s) := by
  unfold State.vaultDone
  try dsimp only
  with_reducible repeat' first
    | assumption | apply State.put_keeps | apply State.spend_keeps | apply Keeps.on | apply Keeps.each
    | apply Keeps.foldlFst | apply Keeps.ite | (intro _; try dsimp only) | (split <;> try dsimp only)
    | (fail_if_no_progress apply State.mk_keeps)

theorem execVaultStart_keeps {s0 s t : State} (h : Keeps k s0 s) (m : Master) (ht : execVaultStart m s = .next t) :
    Keeps k s0 t := by
  unfold execVaultStart at ht
  refine Keeps.answer h ?_ ht
  all_goals repeat' (first
    | with_reducible assumption | with_reducible apply State.asWrite_keeps | with_reducible apply Keeps.ident
    | with_reducible apply Keeps.each | with_reducible apply Keeps.on | with_reducible apply Keeps.ite
    | with_reducible apply Keeps.foldl | with_reducible apply Keeps.foldlFst | (intro _; try dsimp only)
    | with_reducible refine Keeps.fst ‹_ = (_, _)› ?_ | with_reducible refine Keeps.fst3 ‹_ = (_, _, _)› ?_
    | split | (fail_if_no_progress (with_reducible apply State.mk_keeps)))

theorem State.vaultFeed_keeps {s0 s : State} (h : Keeps k s0 s) (data be : Nat) : Keeps k s0 (State.vaultFeed s data
    be) := by
  unfold State.vaultFeed
  try dsimp only
  with_reducible repeat' first
    | assumption | apply Keeps.on | apply Keeps.each | apply Keeps.foldlFst | apply Keeps.ite
    | (intro _; try dsimp only) | split | (fail_if_no_progress apply State.mk_keeps)

theorem execVaultDin_keeps {s0 s t : State} (h : Keeps k s0 s) (m : Master) (data be : Nat) (ht : execVaultDin m data
    be s = .next t) : Keeps k s0 t := by
  refine Keeps.answer h ?_ ht
  with_reducible repeat' first
    | assumption | apply State.asWrite_keeps | apply State.vaultFeed_keeps | apply Keeps.on | apply Keeps.each
    | apply Keeps.foldlFst | (intro _; try dsimp only)

theorem State.vaultGo_keeps {s0 s : State} (h : Keeps k s0 s) : Keeps k s0 (State.vaultGo s) := by
  unfold State.vaultGo
  try dsimp only
  with_reducible repeat' first
    | assumption | apply State.put_keeps | (fail_if_no_progress apply State.mk_keeps)

theorem execVaultGo_keeps {s0 s t : State} (h : Keeps k s0 s) (m : Master) (ht : execVaultGo m s = .next t) : Keeps k
    s0 t := by
  unfold execVaultGo at ht
  refine Keeps.answer h ?_ ht
  all_goals with_reducible repeat' first
    | assumption | apply State.vaultGo_keeps | apply State.asWrite_keeps

theorem execVaultMacDone_keeps {s0 s t : State} (h : Keeps k s0 s) (ht : execVaultMacDone s = .next t) : Keeps k s0 t
    := by
  exact Keeps.answer h (State.vaultDone_keeps h ..) ht

/-! ### Machine/Firmware.lean -/

theorem State.writeRecord_keeps {s0 s : State} (h : Keeps k s0 s) (hflash : k.flash = false) (a : Nat) (r : List Byte)
    : Keeps k s0 (State.writeRecord s a r) := by
  unfold State.writeRecord
  with_reducible repeat' first
    | assumption | apply State.setFlash_keeps | apply State.spend_keeps | apply Keeps.on

theorem State.putCounter_keeps {s0 s : State} (h : Keeps k s0 s) (hflash : k.flash = false) (v : Nat) : Keeps k s0
    (State.putCounter s v) := by
  unfold State.putCounter
  try dsimp only
  with_reducible repeat' first
    | assumption | apply State.writeRecord_keeps | apply Keeps.ite | (intro _; try dsimp only)
    | (split <;> try dsimp only) | (fail_if_no_progress apply State.mk_keeps)

theorem State.loadFw_keeps {s0 s : State} (h : Keeps k s0 s) (ld : Nat) : Keeps k s0 (State.loadFw s ld) := by
  unfold State.loadFw
  with_reducible repeat' first
    | assumption | apply State.setSv_keeps | apply Keeps.on | apply Keeps.each | apply Keeps.foldlFst
    | apply Keeps.ite | intro _ | (split <;> try dsimp only)

end Sys2Proof.Machine
end

