-- ==== Sys2Proof/Laws/KeepsTick.lean ====
section
/-! SUPPORT. The promises of `Keeps` for lanes, the latch point, field dies and the soak, one lemma per operation. -/

namespace Sys2Proof.Machine

variable {k : Promise}

/-! ### Machine/ChannelP.lean -/

theorem State.addFurP_keeps {s0 s : State} (h : Keeps k s0 s) (ld x2 : Nat) (e : FurEntry) : Keeps k s0 (State.addFurP
    s ld x2 e) := by
  exact h.upd rfl rfl rfl rfl rfl rfl rfl rfl rfl rfl rfl

theorem State.commitInst_keeps {s0 s : State} (h : Keeps k s0 s) (ld : Nat) (r : InstRec) : Keeps k s0
    (State.commitInst s ld r) := by
  unfold State.commitInst
  with_reducible repeat' first
    | assumption | apply State.putOut_keeps | apply State.setBus_keeps | apply State.setInst_keeps | apply Keeps.on
    | apply Keeps.each | apply Keeps.foldlFst | (intro _; try dsimp only)

theorem State.commitSegment_keeps {s0 s : State} (h : Keeps k s0 s) (ld l seg : Nat) : Keeps k s0 (State.commitSegment
    s ld l seg) := by
  unfold State.commitSegment
  try dsimp only
  with_reducible repeat' first
    | assumption | apply State.commitInst_keeps | apply State.setStby_keeps | apply State.putOut_keeps
    | apply Keeps.on | apply Keeps.each | apply Keeps.foldlFst | apply Keeps.ite | (intro _; try dsimp only)
    | (split <;> try dsimp only) | (fail_if_no_progress apply State.mk_keeps)

/-! ### Machine/Lanes.lean -/

theorem State.setPhase_keeps {s0 s : State} (h : Keeps k s0 s) (ld l : Nat) (p : LanePhase) : Keeps k s0
    (State.setPhase s ld l p) := by
  exact h.upd rfl rfl rfl rfl rfl rfl rfl rfl rfl rfl rfl

theorem State.imageIn_keeps {s0 s : State} (h : Keeps k s0 s) (ld fd : Nat) (x : Transit) : Keeps k s0 (State.imageIn
    s ld fd x) := by
  unfold State.imageIn
  with_reducible repeat' first
    | assumption | apply State.setFrozen_keeps | apply State.count_keeps | apply State.setFrozenAt_keeps
    | apply State.put_keeps | apply Keeps.on | apply Keeps.each | apply Keeps.foldlFst | apply Keeps.ite
    | (intro _; try dsimp only) | (split <;> try dsimp only)

theorem execInputImageReceived_keeps {s0 s t : State} (h : Keeps k s0 s) (ld fd tick : Nat) (flips : List (Nat × Nat)) (complete : Bool)
    (ht : execInputImageReceived ld fd tick flips complete s = .next t) : Keeps k s0 t := by
  exact Keeps.answer h (State.imageIn_keeps h ..) ht

theorem State.imageCheck_keeps {s0 s : State} (h : Keeps k s0 s) (ld fd : Nat) : Keeps k s0 (State.imageCheck s ld fd)
    := by
  unfold State.imageCheck
  with_reducible repeat' first
    | assumption | apply State.put_keeps | apply State.count_keeps | apply State.fenceLink_keeps | apply Keeps.on
    | apply Keeps.each | apply Keeps.foldlFst | apply Keeps.ite | (intro _; try dsimp only)

theorem State.wakeLane_keeps {s0 s : State} (h : Keeps k s0 s) (clk : Bool) (ld l : Nat) : Keeps k s0 (State.wakeLane
    s clk ld l) := by
  unfold State.wakeLane
  with_reducible repeat' first
    | assumption | apply State.setPhase_keeps | apply State.put_keeps | apply State.setLane_keeps | apply Keeps.on
    | apply Keeps.each | apply Keeps.foldlFst | apply Keeps.ite | (intro _; try dsimp only)

theorem State.takeRing_keeps {s0 s : State} (h : Keeps k s0 s) (ld : Nat) (bs : List Byte) : Keeps k s0
    (State.takeRing s ld bs) := by
  unfold State.takeRing
  try dsimp only
  with_reducible repeat' first
    | assumption | apply State.addFurP_keeps | apply Keeps.on | apply Keeps.each | apply Keeps.foldlFst
    | apply Keeps.ite | (intro _; try dsimp only) | split
    | (fail_if_no_progress apply State.mk_keeps)

theorem State.ringIn_keeps {s0 s : State} (h : Keeps k s0 s) (ld : Nat) (x : Transit) : Keeps k s0 (State.ringIn s ld
    x) := by
  unfold State.ringIn
  with_reducible repeat' first
    | assumption | apply State.takeRing_keeps | apply Keeps.on | apply Keeps.each | apply Keeps.foldlFst
    | apply Keeps.ite | (intro _; try dsimp only) | (split <;> try dsimp only)

theorem State.laneWake_keeps {s0 s : State} (h : Keeps k s0 s) (ld : Nat) (x : Transit) : Keeps k s0 (State.laneWake s
    ld x) := by
  unfold State.laneWake
  try dsimp only
  with_reducible repeat' first
    | assumption | apply State.ringIn_keeps | apply State.reachPoint_keeps | apply State.imageCheck_keeps
    | apply State.sampleP_keeps | apply State.count_keeps | apply State.raiseFlag_keeps | apply State.wakeLane_keeps
    | apply Keeps.on | apply Keeps.each | apply Keeps.foldlFst | apply Keeps.ite | (intro _; try dsimp only)
    | split | (fail_if_no_progress apply State.mk_keeps)

theorem execLaneWake_keeps {s0 s t : State} (h : Keeps k s0 s) (c : Crossing)
    (ht : execLaneWake c s = .next t) : Keeps k s0 t := by
  exact Keeps.answer h (State.laneWake_keeps h ..) ht

theorem State.mismatch_keeps {s0 s : State} (h : Keeps k s0 s) (hmem : k.mem = false) (ld l : Nat) (kind idx cyc :
    Nat) : Keeps k s0 (State.mismatch s ld l kind idx cyc) := by
  unfold State.mismatch
  with_reducible repeat' first
    | assumption | apply State.setLane_keeps | apply State.put_keeps | apply State.count_keeps
    | apply State.putB_keeps | apply State.setPhase_keeps | apply State.fenceLane_keeps | apply Keeps.on
    | apply Keeps.each | apply Keeps.foldlFst | (intro _; try dsimp only)

theorem State.laneResetDone_keeps {s0 s : State} (h : Keeps k s0 s) (ld l cyc : Nat) : Keeps k s0 (State.laneResetDone
    s ld l cyc) := by
  exact h.upd rfl rfl rfl rfl rfl rfl rfl rfl rfl rfl rfl

theorem execLaneResetDone_keeps {s0 s t : State} (h : Keeps k s0 s) (ld lane cyc : Nat) (ht : execLaneResetDone ld
    lane cyc s = .next t) : Keeps k s0 t := by
  exact Keeps.answer h (State.laneResetDone_keeps h ..) ht

theorem State.writeEnabled_keeps {s0 s : State} (h : Keeps k s0 s) (hmem : k.mem = false) (a data be : Nat) : Keeps k
    s0 (State.writeEnabled s a data be) := by
  unfold State.writeEnabled
  with_reducible repeat' first
    | assumption | apply State.setByte_keeps | apply Keeps.on | apply Keeps.each | apply Keeps.foldlFst
    | (intro _; try dsimp only)

theorem State.localWrite_keeps {s0 s : State} (h : Keeps k s0 s) (hmem : k.mem = false) (q : Bool) (ld l : Nat) (x :
    LaneTxn) : Keeps k s0 (State.localWrite s q ld l x) := by
  unfold State.localWrite
  with_reducible repeat' first
    | assumption | apply State.writeEnabled_keeps | apply Keeps.on | apply Keeps.each | apply Keeps.foldlFst
    | (intro _; try dsimp only)

theorem State.laneRead_keeps {s0 s : State} (h : Keeps k s0 s) (ld l : Nat) (x : LaneTxn) : Keeps k s0 (s.laneRead ld
    l x).1 := by
  rw [State.laneRead]
  dsimp only
  split_ifs
  · exact h
  · exact h
  · exact h
  · exact State.spmRead_keeps h _ _ _
  · exact State.spmRead_keeps h _ _ _
  · exact State.spmRead_keeps h _ _ _
  · exact State.spmLoad_keeps h _ _ _ _

theorem State.issue_keeps {s0 s : State} (h : Keeps k s0 s) (hmem : k.mem = false) (q : Bool) (ld l : Nat) (x :
    LaneTxn) : Keeps k s0 (State.issue s q ld l x).1 := by
  unfold State.issue
  try dsimp only
  with_reducible repeat' first
    | assumption | apply State.laneRead_keeps | apply State.localWrite_keeps | apply State.logErr_keeps
    | apply State.give_keeps | apply Keeps.on | apply Keeps.ite | (intro _; try dsimp only)
    | (split <;> try dsimp only)

theorem State.pTxn_keeps {s0 s : State} (h : Keeps k s0 s) (hmem : k.mem = false) (ld l : Nat) (x : LaneTxn) : Keeps k
    s0 (State.pTxn s ld l x) := by
  unfold State.pTxn
  with_reducible repeat' first
    | assumption | apply State.issue_keeps | apply State.mismatch_keeps | apply State.setLane_keeps | apply Keeps.on
    | apply Keeps.each | apply Keeps.foldlFst | apply Keeps.ite | (intro _; try dsimp only)

theorem State.injected_keeps {s0 s : State} (h : Keeps k s0 s) (hmem : k.mem = false) (ld l : Nat) (e q : TraceEntry)
    (x : LaneTxn) : Keeps k s0 (State.injected s ld l e q x) := by
  unfold State.injected
  with_reducible repeat' first
    | assumption | apply State.put_keeps | apply State.putB_keeps | apply State.fenceLane_keeps | apply Keeps.on
    | apply Keeps.each | apply Keeps.foldlFst | (intro _; try dsimp only)

theorem State.qCompare_keeps {s0 s : State} (h : Keeps k s0 s) (hmem : k.mem = false) (ld l : Nat) (e q : TraceEntry)
    (x : LaneTxn) : Keeps k s0 (State.qCompare s ld l e q x) := by
  unfold State.qCompare
  with_reducible repeat' first
    | assumption | apply State.fenceLane_keeps | apply State.mismatch_keeps | apply State.setLane_keeps
    | apply Keeps.on | apply Keeps.each | apply Keeps.foldlFst | apply Keeps.ite | (intro _; try dsimp only)
    | (split <;> try dsimp only)

theorem State.qTxn_keeps {s0 s : State} (h : Keeps k s0 s) (hmem : k.mem = false) (ld l : Nat) (x : LaneTxn) : Keeps k
    s0 (State.qTxn s ld l x) := by
  unfold State.qTxn
  with_reducible repeat' first
    | assumption | apply State.issue_keeps | apply State.mismatch_keeps | apply State.injected_keeps
    | apply State.qCompare_keeps | apply Keeps.on | apply Keeps.each | apply Keeps.foldlFst | apply Keeps.ite
    | (intro _; try dsimp only) | (split <;> try dsimp only)

theorem execLaneTransaction_keeps {s0 s t : State} (h : Keeps k s0 s) (hmem : k.mem = false) (ld lane : Nat) (x :
    LaneTxn) (ht : execLaneTransaction ld lane x s = .next t) : Keeps k s0 t := by
  refine Keeps.answer h ?_ ht
  with_reducible repeat' first
    | assumption | apply State.pTxn_keeps | apply State.qTxn_keeps | apply Keeps.on | apply Keeps.each
    | apply Keeps.foldlFst | (intro _; try dsimp only) | apply Keeps.ite

theorem State.pPassEnd_keeps {s0 s : State} (h : Keeps k s0 s) (ld l cyc : Nat) : Keeps k s0 (State.pPassEnd s ld l
    cyc) := by
  exact h.upd rfl rfl rfl rfl rfl rfl rfl rfl rfl rfl rfl

theorem execPPassEnd_keeps {s0 s t : State} (h : Keeps k s0 s) (ld lane cyc : Nat) (ht : execPPassEnd ld lane cyc s =
    .next t) : Keeps k s0 t := by
  exact Keeps.answer h (State.pPassEnd_keeps h ..) ht

theorem State.qPassEnd_keeps {s0 s : State} (h : Keeps k s0 s) (hmem : k.mem = false) (ld l cyc : Nat) : Keeps k s0
    (State.qPassEnd s ld l cyc) := by
  unfold State.qPassEnd
  with_reducible repeat' first
    | assumption | apply State.mismatch_keeps | apply State.setLane_keeps | apply State.setPhase_keeps
    | apply Keeps.on | apply Keeps.each | apply Keeps.foldlFst | apply Keeps.ite | (intro _; try dsimp only)

theorem execQPassEnd_keeps {s0 s t : State} (h : Keeps k s0 s) (hmem : k.mem = false) (ld lane cyc : Nat) (ht :
    execQPassEnd ld lane cyc s = .next t) : Keeps k s0 t := by
  exact Keeps.answer h (State.qPassEnd_keeps h hmem ..) ht

theorem State.setBusEntry_keeps {s0 s : State} (h : Keeps k s0 s) (bank n : Nat) (b : Bool) : Keeps k s0
    (State.setBusEntry s bank n b) := by
  exact h.upd rfl rfl rfl rfl rfl rfl rfl rfl rfl rfl rfl

theorem State.entryWrite_keeps {s0 s : State} (h : Keeps k s0 s) (ld l off : Nat) {f : State → State} (hf0 : ∀ s,
    Keeps k s0 s → Keeps k s0 (f s)) : Keeps k s0 (State.entryWrite s ld l off f) := by
  unfold State.entryWrite
  try dsimp only
  with_reducible repeat' first
    | assumption | apply hf0 | apply State.spmMeets_keeps | apply State.spmErr_keeps | apply Keeps.ite
    | (intro _; try dsimp only)

theorem State.laneTimer_keeps {s0 s : State} (h : Keeps k s0 s) (ld l n x2 v same : Nat) : Keeps k s0 (State.laneTimer
    s ld l n x2 v same) := by
  unfold State.laneTimer
  try dsimp only
  with_reducible repeat' first
    | assumption | apply State.timerWord_keeps | apply State.asWrite_keeps | apply State.idleTimer_keeps
    | apply State.respond_keeps | apply State.put_keeps | apply Keeps.on | apply Keeps.ite | (intro _; try dsimp only)


theorem State.stagedWrite_keeps {s0 s : State} (h : Keeps k s0 s) (hmem : k.mem = false) (ld l : Nat) (same : List
    (Nat × Nat)) (e : TraceEntry) : Keeps k s0 (State.stagedWrite s ld l same e) := by
  unfold State.stagedWrite
  try dsimp only
  with_reducible repeat' first
    | assumption | apply State.laneTimer_keeps | apply State.entryWrite_keeps | apply State.setBusEntry_keeps
    | apply State.spmStore_keeps | apply State.setOutBit_keeps | apply Keeps.each | (intro _; try dsimp only)
    | (split <;> try dsimp only)

theorem State.commitEnd_keeps {s0 s : State} (h : Keeps k s0 s) (hmem : k.mem = false) (ld l : Nat) (c : CommitAt) :
    Keeps k s0 (State.commitEnd s ld l c) := by
  unfold State.commitEnd
  try dsimp only
  with_reducible repeat' first
    | assumption | apply done_keeps | apply State.stagedWrite_keeps | apply State.setPhase_keeps
    | apply State.commitSegment_keeps | apply State.setLane_keeps | apply State.put_keeps | apply Keeps.each
    | apply Keeps.ite | (intro _; try dsimp only)


theorem execCommitEnd_keeps {s0 s t : State} (h : Keeps k s0 s) (hmem : k.mem = false) (ld lane : Nat) (e : CommitAt)
    (ht : execCommitEnd ld lane e s = .next t) : Keeps k s0 t := by
  unfold execCommitEnd at ht
  refine Keeps.answer h ?_ ht
  all_goals with_reducible repeat' first
    | assumption | apply State.commitEnd_keeps

/-! ### Machine/Frames.lean -/

theorem State.sendSpate_keeps {s0 s : State} (h : Keeps k s0 s) (ld p : Nat) (f : SpateFrame) (good : Bool) : Keeps k
    s0 (State.sendSpate s ld p f good) := by
  exact h.upd rfl rfl rfl rfl rfl rfl rfl rfl rfl rfl rfl

theorem State.localMark_keeps {s0 s : State} (h : Keeps k s0 s) (ld p : Nat) (f : SpateFrame) : Keeps k s0
    (State.localMark s ld p f) := by
  unfold State.localMark
  with_reducible repeat' first
    | assumption | apply State.sendSpate_keeps | apply State.setPort_keeps | apply State.count_keeps
    | apply Keeps.on | apply Keeps.each | apply Keeps.foldlFst | apply Keeps.ite | (intro _; try dsimp only)

theorem State.sendHeld_keeps {s0 s : State} (h : Keeps k s0 s) (ld p : Nat) : Keeps k s0 (State.sendHeld s ld p) := by
  unfold State.sendHeld
  with_reducible repeat' first
    | assumption | apply State.setPort_keeps | apply State.sendSpate_keeps | apply Keeps.on | apply Keeps.each
    | apply Keeps.foldlFst | (intro _; try dsimp only)

/-! ### Machine/Latch.lean -/

theorem State.latchLane_keeps {s0 s : State} (h : Keeps k s0 s) (ld l : Nat) : Keeps k s0 (State.latchLane s ld l) := by
  unfold State.latchLane
  with_reducible repeat' first
    | assumption | apply State.putB_keeps | apply State.put_keeps | apply State.setLane_keeps
    | apply State.setPhase_keeps | apply State.count_keeps | apply Keeps.on | apply Keeps.each
    | apply Keeps.foldlFst | apply Keeps.ite | (intro _; try dsimp only)

theorem State.latchInst_keeps {s0 s : State} (h : Keeps k s0 s) (r : InstRec) : Keeps k s0 (State.latchInst s r) := by
  unfold State.latchInst
  with_reducible repeat' first
    | assumption | apply State.setBus_keeps | apply State.setInst_keeps | apply State.setSvP_keeps | apply Keeps.on
    | apply Keeps.each | apply Keeps.foldlFst | apply Keeps.ite | (intro _; try dsimp only)

theorem State.takeLive_keeps {s0 s : State} (h : Keeps k s0 s) : Keeps k s0 (State.takeLive s) := by
  unfold State.takeLive
  with_reducible repeat' first
    | assumption | apply State.putOut_keeps | apply State.setBus_keeps | apply State.setInst_keeps | apply Keeps.on
    | apply Keeps.each | apply Keeps.foldlFst | apply Keeps.ite | (intro _; try dsimp only) | (split <;> try dsimp only)

theorem State.sendWords_keeps {s0 s : State} (h : Keeps k s0 s) (ld fd : Nat) : Keeps k s0 (State.sendWords s ld fd)
    := by
  exact h.upd rfl rfl rfl rfl rfl rfl rfl rfl rfl rfl rfl

theorem State.ownArrival_keeps {s0 s : State} (h : Keeps k s0 s) (ld : Nat) (m : Nat × Nat) : Keeps k s0
    (State.ownArrival s ld m) := by
  exact h.upd rfl rfl rfl rfl rfl rfl rfl rfl rfl rfl rfl

theorem State.handMark_keeps {s0 s : State} (h : Keeps k s0 s) (m : Nat × Nat) (pPart : Bool) : Keeps k s0
    (State.handMark s m pPart) := by
  unfold State.handMark
  with_reducible repeat' first
    | assumption | apply State.localMark_keeps | apply Keeps.on | apply Keeps.each | apply Keeps.foldlFst
    | (intro _; try dsimp only)

theorem State.handMarks_keeps {s0 s : State} (h : Keeps k s0 s) : Keeps k s0 (State.handMarks s) := by
  unfold State.handMarks
  try dsimp only
  with_reducible repeat' first
    | assumption | apply State.ownArrival_keeps | apply State.handMark_keeps | apply Keeps.on | apply Keeps.each
    | apply Keeps.foldlFst | apply Keeps.ite | (intro _; try dsimp only) | split
    | (fail_if_no_progress apply State.mk_keeps)

theorem State.soakDecide_keeps {s0 s : State} (h : Keeps k s0 s) (hmem : k.mem = false) (x1 : Soak) : Keeps k s0
    (State.soakDecide s x1) := by
  unfold State.soakDecide
  try dsimp only
  with_reducible repeat' first
    | assumption | apply State.fenceLane_keeps | apply State.dropSoak_keeps | apply State.fenceCell_keeps
    | apply Keeps.on | apply Keeps.each | apply Keeps.foldlFst | apply Keeps.ite | (intro _; try dsimp only)
    | (split <;> try dsimp only) | (fail_if_no_progress apply State.mk_keeps)

theorem State.latchSoak_keeps {s0 s : State} (h : Keeps k s0 s) (hmem : k.mem = false) : Keeps k s0 (State.latchSoak
    s) := by
  unfold State.latchSoak
  with_reducible repeat' first
    | assumption | apply State.soakDecide_keeps | apply Keeps.on | apply Keeps.each | apply Keeps.foldlFst
    | apply Keeps.ite | (intro _; try dsimp only) | (split <;> try dsimp only)

theorem State.latchStandby_keeps {s0 s : State} (h : Keeps k s0 s) (hmem : k.mem = false) (ild n : Nat) : Keeps k s0
    (State.latchStandby s ild n) := by
  unfold State.latchStandby
  with_reducible repeat' first
    | assumption | apply State.setStby_keeps | apply State.fenceLane_keeps | apply Keeps.on | apply Keeps.each
    | apply Keeps.foldlFst | (intro _; try dsimp only)

theorem State.lpllDown_keeps {s0 s : State} (h : Keeps k s0 s) (ld : Nat) : Keeps k s0 (State.lpllDown s ld) := by
  unfold State.lpllDown
  with_reducible repeat' first
    | assumption | apply State.put_keeps | apply Keeps.on | apply Keeps.each | apply Keeps.foldlFst
    | (intro _; try dsimp only)

theorem State.latch_keeps {s0 s : State} (h : Keeps k s0 s) (hmem : k.mem = false) : Keeps k s0
    (State.latch s) := by
  unfold State.latch
  try dsimp only
  with_reducible repeat' first
    | assumption | apply State.reachPoint_keeps | apply State.latchLane_keeps | apply State.takeLive_keeps
    | apply State.latchInst_keeps | apply State.fenceLane_keeps | apply State.latchSoak_keeps
    | apply State.latchStandby_keeps | apply State.sendWords_keeps | apply State.handMarks_keeps
    | apply State.lpllDown_keeps | apply Keeps.on | apply Keeps.each | apply Keeps.foldlFst | apply Keeps.ite
    | (intro _; try dsimp only) | split | (fail_if_no_progress apply State.mk_keeps)

theorem execLatchPoint_keeps {s0 s t : State} (h : Keeps k s0 s) (hmem : k.mem = false) (ht :
    execLatchPoint s = .next t) : Keeps k s0 t := by
  refine Keeps.answer h ?_ ht
  with_reducible repeat' first | assumption | apply State.latch_keeps | apply State.sending_keeps

theorem execSoakTimeout_keeps {s0 s t : State} (h : Keeps k s0 s) (ht : execSoakTimeout s = .next t) : Keeps k s0 t :=
    by
  exact Keeps.answer h (State.dropSoak_keeps h ..) ht

/-! ### Machine/FieldDie.lean -/

theorem State.resetDie_keeps {s0 s : State} (h : Keeps k s0 s) (die : Nat) (keep : List Reg) : Keeps k s0
    (State.resetDie s die keep) := by
  exact h.upd rfl rfl rfl rfl rfl rfl rfl rfl rfl rfl rfl

theorem State.dropFences_keeps {s0 s : State} (h : Keeps k s0 s) (die : Nat) (kinds : List Nat) : Keeps k s0
    (State.dropFences s die kinds) := by
  exact h.upd rfl rfl rfl rfl rfl rfl rfl rfl rfl rfl rfl

theorem State.resetFieldUnits_keeps {s0 s : State} (h : Keeps k s0 s) (fd : Nat) : Keeps k s0 (s.resetFieldUnits fd)
    := by
  have hl : Keeps k s0 { s with flog := s.flog.erase (fdie fd) } := by
    refine h.withLog fun hb d => ?_
    rw [Store.get_erase]
    split_ifs
    · simp
    · exact hb d
  exact hl.upd rfl rfl rfl rfl rfl rfl rfl rfl rfl rfl rfl

theorem State.resetField_keeps {s0 s : State} (h : Keeps k s0 s) (fd : Nat) (keep : List Reg) (ends : Bool) : Keeps k
    s0 (State.resetField s fd keep ends) := by
  unfold State.resetField
  with_reducible repeat' first
    | assumption | apply State.resetFieldUnits_keeps | apply State.dropFences_keeps | apply State.resetDie_keeps
    | apply State.setField_keeps | apply State.put_keeps | apply State.onFence_keeps | apply Keeps.on
    | apply Keeps.each | apply Keeps.foldlFst | (intro _; try dsimp only)

theorem State.setWin_keeps {s0 s : State} (h : Keeps k s0 s) (die v : Nat) : Keeps k s0 (State.setWin s die v) := by
  unfold State.setWin
  try dsimp only
  with_reducible repeat' first
    | assumption | apply State.setSvDie_keeps | apply State.put_keeps | apply Keeps.on | apply Keeps.ite
    | (intro _; try dsimp only)

theorem State.cellSet_keeps {s0 s : State} (h : Keeps k s0 s) (u : State) (fd p : Nat) : Keeps k s0 (State.cellSet u s
    fd p) := by
  unfold State.cellSet
  try dsimp only
  repeat' (first
    | with_reducible assumption | with_reducible apply State.setCell_keeps | with_reducible apply State.put_keeps
    | with_reducible apply Keeps.ident | with_reducible apply Keeps.each | with_reducible apply Keeps.on
    | with_reducible apply Keeps.ite | with_reducible apply Keeps.foldl | with_reducible apply Keeps.foldlFst
    | (intro _; try dsimp only)
    )

theorem State.loadReg_keeps {s0 s : State} (h : Keeps k s0 s) (r : Reg) (die i v : Nat) : Keeps k s0 (State.loadReg s
    r die i v) := by
  unfold State.loadReg
  with_reducible repeat' first
    | assumption | apply State.put_keeps | apply Keeps.on | apply Keeps.each | apply Keeps.foldlFst
    | (intro _; try dsimp only)

theorem State.loadWord_keeps {s0 s : State} (h : Keeps k s0 s) (die off v : Nat) : Keeps k s0 (State.loadWord s die
    off v) := by
  unfold State.loadWord
  with_reducible repeat' first
    | assumption | apply State.setCode_keeps | apply State.frameSet_keeps | apply State.loadReg_keeps
    | apply State.modeSet_keeps | apply State.setWin_keeps | apply State.cellSet_keeps | apply Keeps.on
    | apply Keeps.each | apply Keeps.foldlFst | apply Keeps.ite | intro _ | (split <;> try dsimp only)

theorem State.loadRecs_keeps {s0 s : State} (h : Keeps k s0 s) (recs : List RegRec) (die : Nat) : Keeps k s0
    (State.loadRecs s recs die) := by
  unfold State.loadRecs
  with_reducible repeat' first
    | assumption | apply State.loadWord_keeps | apply Keeps.on | apply Keeps.each | apply Keeps.foldlFst
    | (intro _; try dsimp only)

theorem State.loadSources_keeps {s0 s : State} (h : Keeps k s0 s) (fd : Nat) : Keeps k s0 (State.loadSources s fd) := by
  unfold State.loadSources
  with_reducible repeat' first | assumption | apply State.put_keeps

theorem State.loadField_keeps {s0 s : State} (h : Keeps k s0 s) (fd : Nat) : Keeps k s0 (State.loadField s fd) := by
  unfold State.loadField
  with_reducible repeat' first
    | assumption | apply State.put_keeps | apply State.leaseH_keeps | apply State.loadSources_keeps
    | apply State.loadRecs_keeps | apply State.setField_keeps | apply State.senseStart_keeps | apply Keeps.on
    | apply Keeps.each | apply Keeps.foldlFst | (intro _; try dsimp only)

theorem State.readmitDie_keeps {s0 s : State} (h : Keeps k s0 s) (fd edge : Nat) : Keeps k s0 (State.readmitDie s fd
    edge) := by
  unfold State.readmitDie
  with_reducible repeat' first
    | assumption | apply State.setField_keeps | apply State.setReadmit_keeps | apply Keeps.on | apply Keeps.each
    | apply Keeps.foldlFst | (intro _; try dsimp only)

theorem State.vfnUp_keeps {s0 s : State} (h : Keeps k s0 s) (fd : Nat) : Keeps k s0 (State.vfnUp s fd) := by
  unfold State.vfnUp
  with_reducible repeat' first | assumption | apply State.resetField_keeps | apply State.setField_keeps

theorem execVfnPowerUp_keeps {s0 s t : State} (h : Keeps k s0 s) (fd : Nat) (ht : execVfnPowerUp fd s = .next t) :
    Keeps k s0 t := by
  exact Keeps.answer h (State.vfnUp_keeps h ..) ht

theorem State.stopDie_keeps {s0 s : State} (h : Keeps k s0 s) (fd : Nat) : Keeps k s0 (State.stopDie s fd) := by
  unfold State.stopDie
  with_reducible repeat' first
    | assumption | apply State.setField_keeps | apply State.fenceInst_keeps | apply Keeps.on | apply Keeps.each
    | apply Keeps.foldlFst | (intro _; try dsimp only)

theorem State.vfnDown_keeps {s0 s : State} (h : Keeps k s0 s) (fd : Nat) : Keeps k s0 (State.vfnDown s fd) := by
  unfold State.vfnDown
  with_reducible repeat' first
    | assumption | apply State.resetField_keeps | apply State.stopDie_keeps | apply State.setField_keeps

theorem execVfnPowerLoss_keeps {s0 s t : State} (h : Keeps k s0 s) (fd : Nat) (ht : execVfnPowerLoss fd s = .next t) :
    Keeps k s0 t := by
  exact Keeps.answer h (State.vfnDown_keeps h ..) ht

theorem State.vfnOut_keeps {s0 s : State} (h : Keeps k s0 s) (fd : Nat) : Keeps k s0 (State.vfnOut s fd) := by
  unfold State.vfnOut
  with_reducible repeat' first
    | assumption | apply State.setField_keeps | apply State.termsOff_keeps | apply State.raiseFlag_keeps

theorem execVfnOutOfRange_keeps {s0 s t : State} (h : Keeps k s0 s) (fd : Nat) (ht : execVfnOutOfRange fd s = .next t)
    : Keeps k s0 t := by
  exact Keeps.answer h (State.vfnOut_keeps h ..) ht

theorem State.vfnBack_keeps {s0 s : State} (h : Keeps k s0 s) (fd : Nat) : Keeps k s0 (State.vfnBack s fd) := by
  unfold State.vfnBack
  with_reducible repeat' first
    | assumption | apply State.setField_keeps | apply State.senseStart_keeps | apply Keeps.on | apply Keeps.each
    | apply Keeps.foldlFst | (intro _; try dsimp only)

theorem execVfnRecovered_keeps {s0 s t : State} (h : Keeps k s0 s) (fd : Nat) (ht : execVfnRecovered fd s = .next t) :
    Keeps k s0 t := by
  exact Keeps.answer h (State.vfnBack_keeps h ..) ht

theorem State.groundFault_keeps {s0 s : State} (h : Keeps k s0 s) (fd groups : Nat) (offset : Bool) : Keeps k s0
    (State.groundFault s fd groups offset) := by
  unfold State.groundFault
  with_reducible repeat' first
    | assumption | apply State.fenceField_keeps | apply State.raiseFlag_keeps | apply Keeps.on | apply Keeps.each
    | apply Keeps.foldlFst | apply Keeps.ite | (intro _; try dsimp only)

theorem execGroundFault_keeps {s0 s t : State} (h : Keeps k s0 s) (fd groups : Nat) (offset : Bool) (ht :
    execGroundFault fd groups offset s = .next t) : Keeps k s0 t := by
  exact Keeps.answer h (State.groundFault_keeps h ..) ht

theorem execDieOverload_keeps {s0 s t : State} (h : Keeps k s0 s) (fd : Nat) (ht : execDieOverload fd s = .next t) :
    Keeps k s0 t := by
  exact Keeps.answer h (State.raiseFlag_keeps h ..) ht

theorem execHclkStopped_keeps {s0 s t : State} (h : Keeps k s0 s) (fd : Nat) (ht : execHclkStopped fd s = .next t) :
    Keeps k s0 t := by
  refine Keeps.answer h ?_ ht
  with_reducible repeat' first | assumption | apply State.fenceField_keeps | apply State.put_keeps

theorem execFaonFailure_keeps {s0 s t : State} (h : Keeps k s0 s) (fd : Nat) (ht : execFaonFailure fd s = .next t) :
    Keeps k s0 t := by
  refine Keeps.answer h ?_ ht
  with_reducible repeat' first | assumption | apply State.fenceField_keeps | apply State.put_keeps

theorem State.frst_keeps {s0 s : State} (h : Keeps k s0 s) (fd : Nat) : Keeps k s0 (State.frst s fd) := by
  unfold State.frst
  with_reducible repeat' first | assumption | apply State.resetField_keeps | apply State.setField_keeps

theorem execFieldDieReset_keeps {s0 s t : State} (h : Keeps k s0 s) (m : Master) (fd : Nat) (ht : execFieldDieReset m
    fd s = .next t) : Keeps k s0 t := by
  refine Keeps.answer h ?_ ht
  with_reducible repeat' first
    | assumption | apply State.asWrite_keeps | apply State.frst_keeps | apply Keeps.on | apply Keeps.each
    | apply Keeps.foldlFst | (intro _; try dsimp only)

/-! ### Machine/Soak.lean -/

theorem State.setRuns_keeps {s0 s : State} (h : Keeps k s0 s) (ld : Nat) : Keeps k s0 (State.setRuns s ld) := by
  unfold State.setRuns
  with_reducible repeat' first
    | assumption | apply State.startLane_keeps | apply State.put_keeps | apply Keeps.on | apply Keeps.each
    | apply Keeps.foldlFst | apply Keeps.ite | (intro _; try dsimp only)

theorem State.takeWaiting_keeps {s0 s : State} (h : Keeps k s0 s) (ld l : Nat) : Keeps k s0 (State.takeWaiting s ld l)
    := by
  unfold State.takeWaiting
  with_reducible repeat' first
    | assumption | apply State.remap_keeps | apply Keeps.on | apply Keeps.each | apply Keeps.foldlFst
    | apply Keeps.ite | intro _ | (split <;> try dsimp only)

theorem State.soakBegin_keeps {s0 s : State} (h : Keeps k s0 s) (x1 : Soak) : Keeps k s0 (State.soakBegin s x1) := by
  unfold State.soakBegin
  try dsimp only
  with_reducible repeat' first
    | assumption | apply State.startLane_keeps | apply State.put_keeps | apply State.copyCell_keeps
    | apply State.dropSoak_keeps | apply Keeps.on | apply Keeps.each | apply Keeps.foldlFst | apply Keeps.ite
    | (intro _; try dsimp only) | (split <;> try dsimp only) | (fail_if_no_progress apply State.mk_keeps)

theorem State.soakCopy_keeps {s0 s : State} (h : Keeps k s0 s) (x1 : Soak) : Keeps k s0 (State.soakCopy s x1) := by
  unfold State.soakCopy
  try dsimp only
  with_reducible repeat' first
    | assumption | apply Keeps.on | apply Keeps.each | apply Keeps.foldlFst | apply Keeps.ite
    | intro _ | (split <;> try dsimp only) | (fail_if_no_progress apply State.mk_keeps)

theorem State.movedSources_keeps {s0 s : State} (h : Keeps k s0 s) (ild n : Nat) : Keeps k s0 (State.movedSources s
    ild n) := by
  unfold State.movedSources
  try dsimp only
  with_reducible repeat' first
    | assumption | apply State.setSource_keeps | apply State.setStby_keeps | apply Keeps.on | apply Keeps.each
    | apply Keeps.ite | (intro _; try dsimp only)


theorem State.standbyRun_keeps {s0 s : State} (h : Keeps k s0 s) (ild n : Nat) : Keeps k s0 (State.standbyRun s ild n)
    := by
  unfold State.standbyRun
  try dsimp only
  with_reducible repeat' first
    | assumption | apply State.startLane_keeps | apply State.put_keeps | apply Keeps.on | apply Keeps.ite
    | (intro _; try dsimp only)

theorem State.standbyCopy_keeps {s0 s : State} (h : Keeps k s0 s) : Keeps k s0 (State.standbyCopy s) := by
  unfold State.standbyCopy
  try dsimp only
  with_reducible repeat' first
    | assumption | apply State.standbyRun_keeps | apply State.setStby_keeps | apply Keeps.on | apply Keeps.each
    | apply Keeps.ite | (intro _; try dsimp only)


theorem State.sieveFrom_keeps {s0 s : State} (h : Keeps k s0 s) (r : InstRec) : Keeps k s0 (State.sieveFrom s r) := by
  unfold State.sieveFrom
  with_reducible repeat' first
    | assumption | apply State.setSvH_keeps | apply State.setSvP_keeps | apply State.setDcnt_keeps

theorem State.takeShadowP_keeps {s0 s : State} (h : Keeps k s0 s) (x1 : Soak) (r : InstRec) : Keeps k s0
    (State.takeShadowP s x1 r) := by
  unfold State.takeShadowP
  with_reducible repeat' first
    | assumption | apply State.setInst_keeps | apply State.setBus_keeps | apply Keeps.on | apply Keeps.each
    | apply Keeps.foldlFst | apply Keeps.ite | intro _ | (split <;> try dsimp only)

theorem State.takeShadowH_keeps {s0 s : State} (h : Keeps k s0 s) (x1 : Soak) (r : InstRec) : Keeps k s0
    (State.takeShadowH s x1 r) := by
  unfold State.takeShadowH
  with_reducible repeat' first
    | assumption | apply State.setCell_keeps | apply Keeps.on | apply Keeps.each | apply Keeps.foldlFst
    | apply Keeps.ite | intro _ | (split <;> try dsimp only)

theorem State.switchMigration_keeps {s0 s : State} (h : Keeps k s0 s) (x1 : Soak) : Keeps k s0 (State.switchMigration
    s x1) := by
  unfold State.switchMigration
  with_reducible repeat' first
    | assumption | apply State.put_keeps | apply State.takeShadowP_keeps | apply State.setStby_keeps
    | apply State.setSource_keeps | apply State.sieveFrom_keeps | apply State.setRuns_keeps
    | apply State.takeWaiting_keeps | apply State.bistStart_keeps | apply Keeps.on | apply Keeps.each
    | apply Keeps.foldlFst | apply Keeps.ite | (intro _; try dsimp only)

theorem State.switchCell_keeps {s0 s : State} (h : Keeps k s0 s) (x1 : Soak) : Keeps k s0 (State.switchCell s x1) := by
  unfold State.switchCell
  with_reducible repeat' first
    | assumption | apply State.put_keeps | apply State.dropCell_keeps | apply State.mapCell_keeps
    | apply State.sieveFrom_keeps | apply State.takeShadowH_keeps | apply Keeps.on | apply Keeps.each
    | apply Keeps.foldlFst | apply Keeps.ite | intro _ | (split <;> try dsimp only)

theorem State.switchSources_keeps {s0 s : State} (h : Keeps k s0 s) (old new_ : List Nat) : Keeps k s0
    (State.switchSources s old new_) := by
  unfold State.switchSources
  with_reducible repeat' first
    | assumption | apply State.setSource_keeps | apply Keeps.on | apply Keeps.each | apply Keeps.foldlFst
    | (intro _; try dsimp only)

theorem State.switchConfig_keeps {s0 s : State} (h : Keeps k s0 s) (himage : k.image = false) (x1 : Soak) : Keeps k s0
    (State.switchConfig s x1) := by
  unfold State.switchConfig
  try dsimp only
  repeat' (first
    | with_reducible assumption | with_reducible apply State.dropCell_keeps
    | with_reducible apply State.unfence_keeps | with_reducible apply State.setBus_keeps
    | with_reducible apply State.setInst_keeps | with_reducible apply State.mapCell_keeps
    | with_reducible apply State.loadRecs_keeps | with_reducible apply State.switchSources_keeps
    | with_reducible apply State.startH_keeps | with_reducible apply State.startP_keeps
    | with_reducible apply State.setCell_keeps | with_reducible apply State.takeShadowH_keeps
    | with_reducible apply State.takeShadowP_keeps | with_reducible apply State.sieveFrom_keeps
    | with_reducible apply State.setRuns_keeps | with_reducible apply Keeps.ident | with_reducible apply Keeps.each
    | with_reducible apply Keeps.on | with_reducible apply Keeps.ite | with_reducible apply Keeps.foldl
    | with_reducible apply Keeps.foldlFst | (intro _; try dsimp only)
    | with_reducible refine Keeps.fst ‹_ = (_, _)› ?_ | with_reducible refine Keeps.fst3 ‹_ = (_, _, _)› ?_
    | (split <;> try dsimp only) | (fail_if_no_progress (with_reducible apply State.mk_keeps))
    | with_reducible apply State.mkImage_keeps)

theorem State.switchover_keeps {s0 s : State} (h : Keeps k s0 s) (himage : k.image = false) (x1 : Soak) : Keeps k s0
    (State.switchover s x1) := by
  unfold State.switchover
  try dsimp only
  with_reducible repeat' first
    | assumption | apply State.endJob_keeps | apply State.switchMigration_keeps | apply State.switchCell_keeps
    | apply State.switchConfig_keeps | apply Keeps.on | apply Keeps.each | apply Keeps.foldlFst | apply Keeps.ite
    | intro _ | (split <;> try dsimp only) | (fail_if_no_progress apply State.mk_keeps)

theorem State.soakEdge_keeps {s0 s : State} (h : Keeps k s0 s) (himage : k.image = false) : Keeps k s0 (State.soakEdge
    s) := by
  unfold State.soakEdge
  try dsimp only
  with_reducible repeat' first
    | assumption | apply State.switchover_keeps | apply State.standbyCopy_keeps | apply State.movedSources_keeps
    | apply State.soakCopy_keeps | apply State.soakBegin_keeps | apply Keeps.each | apply Keeps.ite
    | (intro _; try dsimp only) | (split <;> try dsimp only)

/-! ### Machine/Tick.lean -/

theorem State.sieveClose_keeps {s0 s : State} (h : Keeps k s0 s) (die : Nat) : Keeps k s0 (State.sieveClose s die) := by
  unfold State.sieveClose
  with_reducible repeat' first
    | assumption | apply State.setSvDie_keeps | apply State.setSvP_keeps | apply State.setSvH_keeps | apply Keeps.on
    | apply Keeps.each | apply Keeps.foldlFst | apply Keeps.ite | (intro _; try dsimp only)

theorem State.sieveEdge_keeps {s0 s : State} (h : Keeps k s0 s) (die : Nat) : Keeps k s0 (State.sieveEdge s die) := by
  unfold State.sieveEdge
  with_reducible repeat' first
    | assumption | apply State.setSvDie_keeps | apply State.setDcnt_keeps | apply Keeps.on | apply Keeps.each
    | apply Keeps.foldlFst | (intro _; try dsimp only)

theorem State.commissionEdge_keeps {s0 s : State} (h : Keeps k s0 s) : Keeps k s0 (State.commissionEdge s) := by
  unfold State.commissionEdge
  try dsimp only
  with_reducible repeat' first
    | assumption | apply State.fenceInst_keeps | apply Keeps.on | apply Keeps.each | (intro _; try dsimp only)
    | (fail_if_no_progress apply State.mk_keeps)

theorem State.readmitP_keeps {s0 s : State} (h : Keeps k s0 s) : Keeps k s0 (State.readmitP s) := by
  unfold State.readmitP
  with_reducible repeat' first
    | assumption | apply State.setDcnt_keeps | apply State.startP_keeps | apply State.unfence_keeps
    | apply State.setFence_keeps | apply Keeps.on | apply Keeps.each | apply Keeps.foldlFst | apply Keeps.ite
    | (intro _; try dsimp only)

theorem State.fieldLoads_keeps {s0 s : State} (h : Keeps k s0 s) : Keeps k s0 (State.fieldLoads s) := by
  unfold State.fieldLoads
  with_reducible repeat' first
    | assumption | apply State.readmitDie_keeps | apply State.loadField_keeps | apply Keeps.on | apply Keeps.each
    | apply Keeps.foldlFst | (intro _; try dsimp only)

theorem State.latchInputs_keeps {s0 s : State} (h : Keeps k s0 s) (meas : List Meas) : Keeps k s0 (State.latchInputs s
    meas) := by
  unfold State.latchInputs
  with_reducible repeat' first
    | assumption | apply State.measure_keeps | apply State.pEdge_keeps | apply State.put_keeps | apply Keeps.on
    | apply Keeps.each | apply Keeps.foldlFst | (intro _; try dsimp only)

theorem State.lpllUp_keeps {s0 s : State} (h : Keeps k s0 s) : Keeps k s0 (State.lpllUp s) := by
  unfold State.lpllUp
  with_reducible repeat' first
    | assumption | apply State.putB_keeps | apply State.put_keeps | apply Keeps.on | apply Keeps.each
    | apply Keeps.foldlFst | (intro _; try dsimp only)

theorem State.edge_keeps {s0 s : State} (h : Keeps k s0 s) (himage : k.image = false) (meas : List Meas) : Keeps k s0
    (State.edge s meas) := by
  unfold State.edge
  try dsimp only
  with_reducible repeat' first
    | assumption | apply State.strobeCapture_keeps | apply State.put_keeps | apply State.commissionEdge_keeps
    | apply State.shutdownFence_keeps | apply State.sieveEdge_keeps | apply State.latchInputs_keeps
    | apply State.fieldLoads_keeps | apply State.readmitP_keeps | apply State.soakEdge_keeps
    | apply State.lpllUp_keeps | apply State.setGates_keeps | apply State.sealTake_keeps | apply Keeps.on
    | apply Keeps.each | apply Keeps.foldlFst | apply Keeps.ite | (intro _; try dsimp only)
    | split | (fail_if_no_progress apply State.mk_keeps)

theorem State.tickEdge_keeps {s0 s : State} (h : Keeps k s0 s) (htick : k.tick = false) (himage : k.image = false)
    (meas : List Meas) : Keeps k s0 (State.tickEdge s meas) := by
  unfold State.tickEdge
  try dsimp only
  repeat' (first
    | with_reducible assumption | with_reducible apply State.edge_keeps
    | with_reducible apply State.sieveClose_keeps | with_reducible apply Keeps.ident
    | with_reducible apply Keeps.each | with_reducible apply Keeps.on | with_reducible apply Keeps.ite
    | with_reducible apply Keeps.foldl | with_reducible apply Keeps.foldlFst | (intro _; try dsimp only)
    | with_reducible refine Keeps.fst ‹_ = (_, _)› ?_ | with_reducible refine Keeps.fst3 ‹_ = (_, _, _)› ?_
    | split | (fail_if_no_progress (with_reducible apply State.mk_keeps))
    | with_reducible apply State.mkTick_keeps)

theorem execTickEdge_keeps {s0 s t : State} (h : Keeps k s0 s) (htick : k.tick = false) (himage : k.image = false)
    (meas : List Meas) (ht : execTickEdge meas s = .next t) : Keeps k s0 t := by
  exact Keeps.answer h (State.tickEdge_keeps h htick himage ..) ht

theorem State.pinEdge_keeps {s0 s : State} (h : Keeps k s0 s) (htick : k.tick = false) (himage : k.image = false) (dev
    : ℤ) (meas : List Meas) : Keeps k s0 (State.pinEdge s dev meas) := by
  unfold State.pinEdge
  try dsimp only
  with_reducible repeat' first
    | assumption | apply State.put_keeps | apply State.tickEdge_keeps | apply Keeps.on | apply Keeps.each
    | apply Keeps.foldlFst | apply Keeps.ite | (intro _; try dsimp only) | split
    | (fail_if_no_progress apply State.mk_keeps)

theorem execTickPinEdge_keeps {s0 s t : State} (h : Keeps k s0 s) (htick : k.tick = false) (himage : k.image = false)
    (dev : ℤ) (meas : List Meas) (ht : execTickPinEdge dev meas s = .next t) : Keeps k s0 t := by
  exact Keeps.answer h (State.pinEdge_keeps h htick himage ..) ht

theorem State.madeEdge_keeps {s0 s : State} (h : Keeps k s0 s) (htick : k.tick = false) (himage : k.image = false)
    (meas : List Meas) : Keeps k s0 (State.madeEdge s meas) := by
  unfold State.madeEdge
  try dsimp only
  with_reducible repeat' first
    | assumption | apply State.count_keeps | apply State.put_keeps | apply State.tickEdge_keeps | apply Keeps.on
    | apply Keeps.each | apply Keeps.foldlFst | apply Keeps.ite | (intro _; try dsimp only)
    | split | (fail_if_no_progress apply State.mk_keeps)

theorem execTickEdgeMade_keeps {s0 s t : State} (h : Keeps k s0 s) (htick : k.tick = false) (himage : k.image = false)
    (meas : List Meas) (ht : execTickEdgeMade meas s = .next t) : Keeps k s0 t := by
  exact Keeps.answer h (State.madeEdge_keeps h htick himage ..) ht

theorem State.endLate_keeps {s0 s : State} (h : Keeps k s0 s) : Keeps k s0 (State.endLate s) := by
  unfold State.endLate
  try dsimp only
  with_reducible repeat' first
    | assumption | apply State.endJob_keeps | (split <;> try dsimp only) | (fail_if_no_progress apply State.mk_keeps)

theorem State.runStart_keeps {s0 s : State} (h : Keeps k s0 s) (htick : k.tick = false) (himage : k.image = false)
    (meas : List Meas) : Keeps k s0 (State.runStart s meas) := by
  unfold State.runStart
  try dsimp only
  repeat' (first
    | with_reducible assumption | with_reducible apply State.put_keeps | with_reducible apply State.senseStart_keeps
    | with_reducible apply State.startH_keeps | with_reducible apply State.startP_keeps
    | with_reducible apply State.endLate_keeps | with_reducible apply State.edge_keeps | with_reducible apply Keeps.each
    | (intro _; try dsimp only) | with_reducible apply State.mkTick_keeps)

theorem execRunStart_keeps {s0 s t : State} (h : Keeps k s0 s) (htick : k.tick = false) (himage : k.image = false)
    (meas : List Meas) (ht : execRunStart meas s = .next t) : Keeps k s0 t := by
  unfold execRunStart at ht
  refine Keeps.answer h ?_ ht
  all_goals with_reducible repeat' first
    | assumption | apply State.runStart_keeps

theorem State.readTnum_keeps {s0 s : State} (h : Keeps k s0 s) (ld : Nat) (m : Master) : Keeps k s0 (State.readTnum s
    ld m) := by
  exact h.upd rfl rfl rfl rfl rfl rfl rfl rfl rfl rfl rfl

theorem execTnum0Read_keeps {s0 s t : State} (h : Keeps k s0 s) (ld : Nat) (m : Master) (ht : execTnum0Read ld m s =
    .next t) : Keeps k s0 t := by
  refine Keeps.answer h ?_ ht
  with_reducible repeat' first
    | assumption | apply State.readTnum_keeps | apply State.readRefused_keeps | apply Keeps.on | apply Keeps.each
    | apply Keeps.foldlFst | (intro _; try dsimp only) | apply Keeps.ite

end Sys2Proof.Machine
end

