-- ==== Sys2Proof/Laws/KeepsRing.lean ====
section
/-! SUPPORT. The promises of `Keeps` for the ring ports, the turn, channel H and the frames, one lemma per operation. -/

namespace Sys2Proof.Machine

variable {k : Promise}

/-! ### Machine/Ports.lean -/

theorem State.setSync_keeps {s0 s : State} (h : Keeps k s0 s) (ld st : Nat) : Keeps k s0 (State.setSync s ld st) := by
  unfold State.setSync
  with_reducible repeat' first
    | assumption | apply State.put_keeps | apply State.putB_keeps | apply Keeps.on | apply Keeps.each
    | apply Keeps.foldlFst | (intro _; try dsimp only)

theorem State.enterListen_keeps {s0 s : State} (h : Keeps k s0 s) (ld : Nat) : Keeps k s0 (State.enterListen s ld) := by
  unfold State.enterListen
  with_reducible repeat' first
    | assumption | apply State.put_keeps | apply State.setSync_keeps | apply State.setRing_keeps

theorem State.admitPort_keeps {s0 s : State} (h : Keeps k s0 s) (ld p : Nat) : Keeps k s0 (State.admitPort s ld p) := by
  unfold State.admitPort
  with_reducible repeat' first
    | assumption | apply State.putB_keeps | apply State.setPort_keeps | apply State.put_keeps
    | apply State.enterListen_keeps | apply Keeps.on | apply Keeps.each | apply Keeps.foldlFst
    | (intro _; try dsimp only)

theorem State.setLink_keeps {s0 s : State} (h : Keeps k s0 s) (ld p : Nat) (up : Bool) : Keeps k s0 (State.setLink s
    ld p up) := by
  unfold State.setLink
  with_reducible repeat' first
    | assumption | apply State.putB_keeps | apply State.setPort_keeps | apply State.put_keeps | apply Keeps.on
    | apply Keeps.each | apply Keeps.foldlFst | (intro _; try dsimp only)

theorem State.pcsSync_keeps {s0 s : State} (h : Keeps k s0 s) (ld p : Nat) (sync : Bool) : Keeps k s0 (State.pcsSync s
    ld p sync) := by
  unfold State.pcsSync
  with_reducible repeat' first
    | assumption | apply State.setPort_keeps | apply State.putB_keeps | apply State.setLink_keeps
    | apply State.admitPort_keeps | apply Keeps.on | apply Keeps.each | apply Keeps.foldlFst | (intro _; try dsimp only)

theorem State.portConf_keeps {s0 s : State} (h : Keeps k s0 s) (ld p : Nat) : Keeps k s0 (State.portConf s ld p) := by
  unfold State.portConf
  with_reducible repeat' first
    | assumption | apply State.pcsSync_keeps | apply Keeps.on | apply Keeps.each | apply Keeps.foldlFst
    | (intro _; try dsimp only)

theorem State.ringConf_keeps {s0 s : State} (h : Keeps k s0 s) (ld : Nat) : Keeps k s0 (State.ringConf s ld) := by
  unfold State.ringConf
  with_reducible repeat' first
    | assumption | apply State.setRing_keeps | apply State.put_keeps | apply State.setSync_keeps
    | apply State.admitPort_keeps | apply State.portConf_keeps | apply Keeps.on | apply Keeps.each
    | apply Keeps.foldlFst | (intro _; try dsimp only)

theorem execPcsSyncChange_keeps {s0 s t : State} (h : Keeps k s0 s) (ld p : Nat) (sync : Bool) (ht : execPcsSyncChange
    ld p sync s = .next t) : Keeps k s0 t := by
  refine Keeps.answer h ?_ ht
  with_reducible repeat' first
    | assumption | apply State.pcsSync_keeps | apply Keeps.on | apply Keeps.each | apply Keeps.foldlFst
    | (intro _; try dsimp only)

theorem State.autoneg_keeps {s0 s : State} (h : Keeps k s0 s) (ld p w : Nat) : Keeps k s0 (State.autoneg s ld p w) :=
    by
  unfold State.autoneg
  try dsimp only
  with_reducible repeat' first
    | assumption | apply State.setLink_keeps | apply State.admitPort_keeps | apply State.setPort_keeps
    | apply State.putB_keeps | apply State.put_keeps


theorem execAutonegComplete_keeps {s0 s t : State} (h : Keeps k s0 s) (ld p lpabil : Nat) (ht : execAutonegComplete ld
    p lpabil s = .next t) : Keeps k s0 t := by
  exact Keeps.answer h (State.autoneg_keeps h ..) ht

theorem State.partnerFault_keeps {s0 s : State} (h : Keeps k s0 s) (ld p w : Nat) : Keeps k s0 (State.partnerFault s
    ld p w) := by
  unfold State.partnerFault
  with_reducible repeat' first
    | assumption | apply State.putB_keeps | apply State.put_keeps | apply State.setPort_keeps
    | apply State.admitPort_keeps | apply State.setLink_keeps

theorem execAutonegPartnerFault_keeps {s0 s t : State} (h : Keeps k s0 s) (ld p lpabil : Nat) (ht :
    execAutonegPartnerFault ld p lpabil s = .next t) : Keeps k s0 t := by
  exact Keeps.answer h (State.partnerFault_keeps h ..) ht

theorem State.sgmiiWord_keeps {s0 s : State} (h : Keeps k s0 s) (ld p w : Nat) : Keeps k s0 (State.sgmiiWord s ld p w)
    := by
  unfold State.sgmiiWord
  with_reducible repeat' first
    | assumption | apply State.put_keeps | apply State.admitPort_keeps | apply State.setLink_keeps

theorem execSgmiiLinkStatusChange_keeps {s0 s t : State} (h : Keeps k s0 s) (ld p word : Nat) (ht :
    execSgmiiLinkStatusChange ld p word s = .next t) : Keeps k s0 t := by
  exact Keeps.answer h (State.sgmiiWord_keeps h ..) ht

theorem execVerifyComplete_keeps {s0 s t : State} (h : Keeps k s0 s) (ld p : Nat) (ht : execVerifyComplete ld p s =
    .next t) : Keeps k s0 t := by
  refine Keeps.answer h ?_ ht
  with_reducible repeat' first
    | assumption | apply State.admitPort_keeps | apply State.setPort_keeps | apply State.put_keeps

theorem execVerifyFailure_keeps {s0 s t : State} (h : Keeps k s0 s) (ld p : Nat) (ht : execVerifyFailure ld p s =
    .next t) : Keeps k s0 t := by
  refine Keeps.answer h ?_ ht
  with_reducible repeat' first | assumption | apply State.admitPort_keeps | apply State.setPort_keeps

theorem State.countFilter_keeps {s0 s : State} (h : Keeps k s0 s) (ld p : Nat) (x3 : FrameHdr) : Keeps k s0
    (State.countFilter s ld p x3) := by
  unfold State.countFilter
  with_reducible repeat' first
    | assumption | apply State.count_keeps | apply State.admitPort_keeps | apply State.setPort_keeps
    | apply Keeps.on | apply Keeps.each | apply Keeps.foldlFst | apply Keeps.ite | (intro _; try dsimp only)

/-! ### Machine/Turn.lean -/

theorem State.setHoldover_keeps {s0 s : State} (h : Keeps k s0 s) (ld : Nat) (b : Bool) : Keeps k s0
    (State.setHoldover s ld b) := by
  exact h.upd rfl rfl rfl rfl rfl rfl rfl rfl rfl rfl rfl

theorem State.stopSending_keeps {s0 s : State} (h : Keeps k s0 s) (ld : Nat) : Keeps k s0 (State.stopSending s ld) := by
  unfold State.stopSending
  with_reducible repeat' first
    | assumption | apply State.setRing_keeps | apply State.put_keeps | apply State.setHoldover_keeps
    | apply Keeps.on | apply Keeps.each | apply Keeps.foldlFst | (intro _; try dsimp only)

theorem State.enterQuiet_keeps {s0 s : State} (h : Keeps k s0 s) (ld : Nat) : Keeps k s0 (State.enterQuiet s ld) := by
  unfold State.enterQuiet
  with_reducible repeat' first
    | assumption | apply State.put_keeps | apply State.count_keeps | apply State.stopSending_keeps
    | apply State.setSync_keeps

theorem State.turnPort_keeps {s0 s : State} (h : Keeps k s0 s) (ld p : Nat) : Keeps k s0 (State.turnPort s ld p) := by
  unfold State.turnPort
  with_reducible repeat' first
    | assumption | apply State.setPort_keeps | apply State.put_keeps | apply Keeps.on | apply Keeps.each
    | apply Keeps.foldlFst | (intro _; try dsimp only)

theorem State.wrapPort_keeps {s0 s : State} (h : Keeps k s0 s) (ld p : Nat) : Keeps k s0 (State.wrapPort s ld p) := by
  unfold State.wrapPort
  with_reducible repeat' first
    | assumption | apply State.putB_keeps | apply State.put_keeps | apply State.count_keeps | apply Keeps.on
    | apply Keeps.each | apply Keeps.foldlFst | apply Keeps.ite | (intro _; try dsimp only)

theorem State.portEdges_keeps {s0 s : State} (h : Keeps k s0 s) (ld : Nat) : Keeps k s0 (State.portEdges s ld) := by
  unfold State.portEdges
  with_reducible repeat' first
    | assumption | apply State.wrapPort_keeps | apply State.turnPort_keeps | apply Keeps.on | apply Keeps.each
    | apply Keeps.foldlFst | (intro _; try dsimp only)

theorem State.tickFollows_keeps {s0 s : State} (h : Keeps k s0 s) (htick : k.tick = false) (ld n : Nat) : Keeps k s0
    (State.tickFollows s ld n) := by
  unfold State.tickFollows
  try dsimp only
  with_reducible repeat' first
    | assumption | apply Keeps.ite | (intro _; try dsimp only) | (split <;> try dsimp only) | apply State.mkTick_keeps

theorem State.begin_keeps {s0 s : State} (h : Keeps k s0 s) (htick : k.tick = false) (ld n : Nat) : Keeps k s0
    (State.begin s ld n) := by
  unfold State.begin
  try dsimp only
  with_reducible repeat' first
    | assumption | apply State.hold_keeps | apply State.tickFollows_keeps | apply State.setHoldover_keeps
    | apply State.setSync_keeps | apply State.setRing_keeps | apply State.put_keeps


theorem State.stepTurn_keeps {s0 s : State} (h : Keeps k s0 s) (htick : k.tick = false) (ld p : Nat) (b : BeaconFrame)
    : Keeps k s0 (State.stepTurn s ld p b) := by
  unfold State.stepTurn
  try dsimp only
  with_reducible repeat' first
    | assumption | apply State.hold_keeps | apply State.tickFollows_keeps | apply State.setHoldover_keeps
    | apply State.setSync_keeps | apply State.setRing_keeps | apply State.put_keeps | apply Keeps.each
    | (intro _; try dsimp only)

theorem State.keepFirst_keeps {s0 s : State} (h : Keeps k s0 s) (ld p : Nat) (b : BeaconFrame) (x4 : ℤ) : Keeps k s0
    (State.keepFirst s ld p b x4) := by
  exact h.upd rfl rfl rfl rfl rfl rfl rfl rfl rfl rfl rfl

theorem State.fullTurn_keeps {s0 s : State} (h : Keeps k s0 s) (htick : k.tick = false) (ld p : Nat) (b : BeaconFrame)
    (theta : ℤ) : Keeps k s0 (State.fullTurn s ld p b theta) := by
  unfold State.fullTurn
  with_reducible repeat' first
    | assumption | apply State.stepTurn_keeps | apply State.setRing_keeps | apply State.put_keeps | apply Keeps.on
    | apply Keeps.each | apply Keeps.foldlFst | apply Keeps.ite | (intro _; try dsimp only)

theorem State.joinBeacon_keeps {s0 s : State} (h : Keeps k s0 s) (htick : k.tick = false) (ld p : Nat) (b :
    BeaconFrame) (x4 : ℤ) : Keeps k s0 (State.joinBeacon s ld p b x4) := by
  unfold State.joinBeacon
  with_reducible repeat' first
    | assumption | apply State.keepFirst_keeps | apply State.fullTurn_keeps | apply Keeps.on | apply Keeps.each
    | apply Keeps.foldlFst | apply Keeps.ite | (intro _; try dsimp only) | (split <;> try dsimp only)

theorem State.voidFirst_keeps {s0 s : State} (h : Keeps k s0 s) (ld : Nat) (b : BeaconFrame) : Keeps k s0
    (State.voidFirst s ld b) := by
  unfold State.voidFirst
  with_reducible repeat' first
    | assumption | apply State.setRing_keeps | apply Keeps.on | apply Keeps.each | apply Keeps.foldlFst
    | apply Keeps.ite | (intro _; try dsimp only) | (split <;> try dsimp only)

theorem State.candidate_keeps {s0 s : State} (h : Keeps k s0 s) (ld p : Nat) (b : BeaconFrame) (theta : ℤ) : Keeps k
    s0 (State.candidate s ld p b theta) := by
  unfold State.candidate
  with_reducible repeat' first
    | assumption | apply State.setHoldover_keeps | apply State.setSync_keeps | apply State.put_keeps
    | apply State.setRing_keeps | apply Keeps.on | apply Keeps.each | apply Keeps.foldlFst | (intro _; try dsimp only)

theorem State.badBeacon_keeps {s0 s : State} (h : Keeps k s0 s) (ld : Nat) : Keeps k s0 (State.badBeacon s ld) := by
  unfold State.badBeacon
  with_reducible repeat' first
    | assumption | apply State.setRing_keeps | apply State.enterQuiet_keeps | apply Keeps.on | apply Keeps.each
    | apply Keeps.foldlFst | (intro _; try dsimp only)

theorem State.trackBeacon_keeps {s0 s : State} (h : Keeps k s0 s) (ld p : Nat) (b : BeaconFrame) (x4 : ℤ) : Keeps k s0
    (State.trackBeacon s ld p b x4) := by
  unfold State.trackBeacon
  with_reducible repeat' first
    | assumption | apply State.enterQuiet_keeps | apply State.keepFirst_keeps | apply State.count_keeps
    | apply State.candidate_keeps | apply State.badBeacon_keeps | apply Keeps.on | apply Keeps.each
    | apply Keeps.foldlFst | apply Keeps.ite | (intro _; try dsimp only)

theorem State.headBeacon_keeps {s0 s : State} (h : Keeps k s0 s) (ld p : Nat) (b : BeaconFrame) (x4 : ℤ) : Keeps k s0
    (State.headBeacon s ld p b x4) := by
  unfold State.headBeacon
  with_reducible repeat' first
    | assumption | apply State.setSync_keeps | apply State.stopSending_keeps | apply State.keepFirst_keeps
    | apply State.count_keeps | apply Keeps.on | apply Keeps.each | apply Keeps.foldlFst | apply Keeps.ite
    | (intro _; try dsimp only)

theorem State.listenBeacon_keeps {s0 s : State} (h : Keeps k s0 s) (htick : k.tick = false) (ld p : Nat) (b :
    BeaconFrame) (x4 : ℤ) : Keeps k s0 (State.listenBeacon s ld p b x4) := by
  unfold State.listenBeacon
  with_reducible repeat' first
    | assumption | apply State.stepTurn_keeps | apply State.keepFirst_keeps | apply State.setSync_keeps
    | apply Keeps.on | apply Keeps.each | apply Keeps.foldlFst | apply Keeps.ite | (intro _; try dsimp only)

theorem State.beacon_keeps {s0 s : State} (h : Keeps k s0 s) (htick : k.tick = false) (ld p : Nat) (b : BeaconFrame)
    (x4 : ℤ) : Keeps k s0 (State.beacon s ld p b x4) := by
  unfold State.beacon
  with_reducible repeat' first
    | assumption | apply State.countFilter_keeps | apply State.count_keeps | apply State.listenBeacon_keeps
    | apply State.joinBeacon_keeps | apply State.voidFirst_keeps | apply State.headBeacon_keeps
    | apply State.trackBeacon_keeps | apply Keeps.on | apply Keeps.each | apply Keeps.foldlFst | apply Keeps.ite
    | (intro _; try dsimp only)

theorem execBeaconReceived_keeps {s0 s t : State} (h : Keeps k s0 s) (htick : k.tick = false) (ld p : Nat) (b :
    BeaconFrame) (tArr : ℤ) (ht : execBeaconReceived ld p b tArr s = .next t) : Keeps k s0 t := by
  refine Keeps.answer h ?_ ht
  with_reducible repeat' first
    | assumption | apply State.beacon_keeps | apply Keeps.on | apply Keeps.each | apply Keeps.foldlFst
    | (intro _; try dsimp only)

theorem State.endTurn_keeps {s0 s : State} (h : Keeps k s0 s) (ld : Nat) : Keeps k s0 (State.endTurn s ld) := by
  unfold State.endTurn
  with_reducible repeat' first
    | assumption | apply State.put_keeps | apply State.setRing_keeps | apply State.count_keeps
    | apply State.setHoldover_keeps | apply State.setSync_keeps | apply Keeps.on | apply Keeps.each
    | apply Keeps.foldlFst | apply Keeps.ite | (intro _; try dsimp only) | (split <;> try dsimp only)

theorem State.sendBeacons_keeps {s0 s : State} (h : Keeps k s0 s) (ld ra rb : Nat) : Keeps k s0 (State.sendBeacons s
    ld ra rb) := by
  unfold State.sendBeacons
  with_reducible repeat' first
    | assumption | apply State.emit_keeps | apply Keeps.on | apply Keeps.each | apply Keeps.foldlFst
    | (intro _; try dsimp only)

theorem State.beginNow_keeps {s0 s : State} (h : Keeps k s0 s) (htick : k.tick = false) (ld ra rb : Nat) : Keeps k s0
    (State.beginNow s ld ra rb) := by
  unfold State.beginNow
  try dsimp only
  with_reducible repeat' first
    | assumption | apply State.sendBeacons_keeps | apply State.begin_keeps | apply State.portEdges_keeps
    | apply State.setRing_keeps | apply Keeps.on | (intro _; try dsimp only)


theorem State.turnEdge_keeps {s0 s : State} (h : Keeps k s0 s) (htick : k.tick = false) (ld ra rb : Nat) (skew : Int)
    : Keeps k s0 (State.turnEdge s ld ra rb skew) := by
  unfold State.turnEdge
  try dsimp only
  with_reducible repeat' first
    | assumption | apply State.hold_keeps | apply State.sendBeacons_keeps | apply State.endTurn_keeps
    | apply State.begin_keeps | apply State.portEdges_keeps | apply State.sendHeld_keeps | apply State.setRing_keeps
    | apply Keeps.on | apply Keeps.each | apply Keeps.ite | (intro _; try dsimp only)


theorem execTurnEdge_keeps {s0 s t : State} (h : Keeps k s0 s) (htick : k.tick = false) (e : TurnStart) (ht :
    execTurnEdge e s = .next t) : Keeps k s0 t := by
  unfold execTurnEdge at ht
  refine Keeps.answer h ?_ ht
  all_goals with_reducible repeat' first
    | assumption | apply State.turnEdge_keeps | apply State.sending_keeps

theorem execTickLock_keeps {s0 s t : State} (h : Keeps k s0 s) (ld : Nat) (ht : execTickLock ld s = .next t) : Keeps k
    s0 t := by
  exact Keeps.answer h (State.put_keeps h ..) ht

theorem execHoldoverTimeout_keeps {s0 s t : State} (h : Keeps k s0 s) (ld : Nat) (ht : execHoldoverTimeout ld s =
    .next t) : Keeps k s0 t := by
  exact Keeps.answer h (State.enterQuiet_keeps h ..) ht

theorem execHeadgateTakeover_keeps {s0 s t : State} (h : Keeps k s0 s) (htick : k.tick = false) (ld : Nat) (ht :
    execHeadgateTakeover ld s = .next t) : Keeps k s0 t := by
  unfold execHeadgateTakeover at ht
  refine Keeps.answer h ?_ ht
  all_goals with_reducible repeat' first
    | assumption | apply State.begin_keeps

theorem execListenTimeout_keeps {s0 s t : State} (h : Keeps k s0 s) (htick : k.tick = false) (e : ListenEnd) (ht :
    execListenTimeout e s = .next t) : Keeps k s0 t := by
  unfold execListenTimeout at ht
  refine Keeps.answer h ?_ ht
  all_goals with_reducible repeat' first
    | assumption | apply State.beginNow_keeps | apply State.sending_keeps

theorem execJoinTimeout_keeps {s0 s t : State} (h : Keeps k s0 s) (ld : Nat) (ht : execJoinTimeout ld s = .next t) :
    Keeps k s0 t := by
  exact Keeps.answer h (State.enterListen_keeps h ..) ht

theorem State.windowEnd_keeps {s0 s : State} (h : Keeps k s0 s) (ld p : Nat) : Keeps k s0 (State.windowEnd s ld p) := by
  unfold State.windowEnd
  with_reducible repeat' first
    | assumption | apply State.setPort_keeps | apply State.put_keeps | apply State.count_keeps | apply Keeps.on
    | apply Keeps.each | apply Keeps.foldlFst | apply Keeps.ite | (intro _; try dsimp only)

theorem execFurrowWindowEnd_keeps {s0 s t : State} (h : Keeps k s0 s) (ld p : Nat) (ht : execFurrowWindowEnd ld p s =
    .next t) : Keeps k s0 t := by
  exact Keeps.answer h (State.windowEnd_keeps h ..) ht

theorem execDirectionStale_keeps {s0 s t : State} (h : Keeps k s0 s) (ld p : Nat) (ht : execDirectionStale ld p s =
    .next t) : Keeps k s0 t := by
  exact Keeps.answer h (State.put_keeps h ..) ht

theorem State.truncate_keeps {s0 s : State} (h : Keeps k s0 s) (ld p : Nat) : Keeps k s0 (State.truncate s ld p) := by
  unfold State.truncate
  with_reducible repeat' first
    | assumption | apply State.count_keeps | apply State.put_keeps | apply State.setPort_keeps
    | apply State.enterQuiet_keeps | apply State.setRing_keeps | apply State.fencePort_keeps | apply Keeps.on
    | apply Keeps.each | apply Keeps.foldlFst | (intro _; try dsimp only)

theorem State.delaySample_keeps {s0 s : State} (h : Keeps k s0 s) (ld p d : Nat) : Keeps k s0 (State.delaySample s ld
    p d) := by
  exact h.upd rfl rfl rfl rfl rfl rfl rfl rfl rfl rfl rfl

theorem State.emitService_keeps {s0 s : State} (h : Keeps k s0 s) (ld p : Nat) (f : ServiceFrame) : Keeps k s0
    (State.emitService s ld p f) := by
  exact h.upd rfl rfl rfl rfl rfl rfl rfl rfl rfl rfl rfl

theorem State.delayIn_keeps {s0 s : State} (h : Keeps k s0 s) (ld p : Nat) (x : ServiceFrame) (a : Arrival) {f : State
    → State}
    (hf : ∀ s, Keeps k s0 s → Keeps k s0 (f s)) : Keeps k s0 (s.delayIn ld p x a f) := by
  unfold State.delayIn
  try dsimp only
  repeat' (first
    | with_reducible assumption | with_reducible apply hf | with_reducible apply State.countFilter_keeps
    | with_reducible apply State.countWrap_keeps | with_reducible apply State.count_keeps
    | with_reducible apply Keeps.ident | with_reducible apply Keeps.each | with_reducible apply Keeps.on
    | with_reducible apply Keeps.ite | with_reducible apply Keeps.foldl | with_reducible apply Keeps.foldlFst
    | (intro _; try dsimp only)
    )

theorem State.delayResponse_keeps {s0 s : State} (h : Keeps k s0 s) (htick : k.tick = false) (ld p : Nat) (f :
    ServiceFrame) (t4 ra rb : Nat) : Keeps k s0 (State.delayResponse s ld p f t4 ra rb) := by
  unfold State.delayResponse
  try dsimp only
  with_reducible repeat' first
    | assumption | apply State.delaySample_keeps | apply State.beginNow_keeps | apply State.setPort_keeps
    | apply Keeps.on | (intro _; try dsimp only)

theorem execLinkDelayResponse_keeps {s0 s t : State} (h : Keeps k s0 s) (htick : k.tick = false) (ld p : Nat) (f :
    ServiceFrame) (a : Arrival) (t4 : Nat) (out : BeaconTimes) (ht : execLinkDelayResponse ld p f a t4 out s = .next
    t) : Keeps k s0 t := by
  unfold execLinkDelayResponse at ht
  refine Keeps.answer h ?_ ht
  all_goals with_reducible repeat' first
    | assumption | apply State.delayResponse_keeps | apply State.delayIn_keeps | apply State.sending_keeps
    | apply Keeps.on | (intro _; try dsimp only)

theorem execLinkDelayRequest_keeps {s0 s t : State} (h : Keeps k s0 s) (ld p : Nat) (f : ServiceFrame) (a : Arrival) (ts : LinkTimes)
    (ht : execLinkDelayRequest ld p f a ts s = .next t) : Keeps k s0 t := by
  refine Keeps.answer h ?_ ht
  with_reducible repeat' first
    | assumption | apply State.sending_keeps | apply State.delayIn_keeps | apply State.emitService_keeps
    | apply Keeps.on | apply Keeps.each | apply Keeps.foldlFst | (intro _; try dsimp only)

theorem execLinkDelayRequestSend_keeps {s0 s t : State} (h : Keeps k s0 s) (ld : Nat) (q : SendAt) (t1 : Nat)
    (ht : execLinkDelayRequestSend ld q t1 s = .next t) : Keeps k s0 t := by
  refine Keeps.answer h ?_ ht
  with_reducible repeat' first
    | assumption | apply State.emitService_keeps | apply State.setPort_keeps | apply State.sending_keeps

/-! ### Machine/ChannelH.lean -/

theorem State.showCell_keeps {s0 s : State} (h : Keeps k s0 s) (fd p : Nat) (f : FnSt) : Keeps k s0 (State.showCell s
    fd p f) := by
  exact h.upd rfl rfl rfl rfl rfl rfl rfl rfl rfl rfl rfl

theorem State.evalCell_keeps {s0 s : State} (h : Keeps k s0 s) (fd p : Nat) : Keeps k s0 (State.evalCell s fd p) := by
  unfold State.evalCell
  with_reducible repeat' first
    | assumption | apply State.showCell_keeps | apply State.setCell_keeps | apply State.setSvH_keeps
    | apply State.put_keeps | apply Keeps.on | apply Keeps.each | apply Keeps.foldlFst | apply Keeps.ite
    | (intro _; try dsimp only)

theorem State.soakH_keeps {s0 s : State} (h : Keeps k s0 s) (fd : Nat) : Keeps k s0 (State.soakH s fd) := by
  unfold State.soakH
  try dsimp only
  with_reducible repeat' first
    | assumption | apply Keeps.on | apply Keeps.each | apply Keeps.foldlFst | apply Keeps.ite
    | (intro _; try dsimp only) | (split <;> try dsimp only) | (fail_if_no_progress apply State.mk_keeps)

theorem State.putRxh_keeps {s0 s : State} (h : Keeps k s0 s) (fd j : Nat) (e : RxhEntry) : Keeps k s0 (State.putRxh s
    fd j e) := by
  unfold State.putRxh
  with_reducible repeat' first
    | assumption | apply State.put_keeps | apply Keeps.on | apply Keeps.each | apply Keeps.foldlFst
    | (intro _; try dsimp only)

theorem State.checkRxh_keeps {s0 s : State} (h : Keeps k s0 s) (fd x2 j : Nat) : Keeps k s0 (State.checkRxh s fd x2 j)
    := by
  unfold State.checkRxh
  try dsimp only
  with_reducible repeat' first
    | assumption | apply State.put_keeps | apply State.count_keeps | apply Keeps.on | apply Keeps.each
    | apply Keeps.foldlFst | apply Keeps.ite | (intro _; try dsimp only) | (split <;> try dsimp only)
    | (fail_if_no_progress apply State.mk_keeps)

theorem State.rxhCheck_keeps {s0 s : State} (h : Keeps k s0 s) (fd : Nat) : Keeps k s0 (State.rxhCheck s fd) := by
  unfold State.rxhCheck
  with_reducible repeat' first
    | assumption | apply State.checkRxh_keeps | apply Keeps.on | apply Keeps.each | apply Keeps.foldlFst
    | (intro _; try dsimp only)

theorem State.rxhWrite_keeps {s0 s : State} (h : Keeps k s0 s) (ld fd : Nat) : Keeps k s0 (State.rxhWrite s ld fd) := by
  unfold State.rxhWrite
  with_reducible repeat' first
    | assumption | apply State.putRxh_keeps | apply Keeps.on | apply Keeps.each | apply Keeps.foldlFst
    | (intro _; try dsimp only)

theorem execRxhWrite_keeps {s0 s t : State} (h : Keeps k s0 s) (ld fd : Nat) (ht : execRxhWrite ld fd s = .next t) :
    Keeps k s0 t := by
  exact Keeps.answer h (State.rxhWrite_keeps h ..) ht

theorem State.dueRxs_keeps {s0 s : State} (h : Keeps k s0 s) (ld dom : Nat) (x3 x4 oturn : Nat) : Keeps k s0
    (State.dueRxs s ld dom x3 x4 oturn) := by
  exact h.upd rfl rfl rfl rfl rfl rfl rfl rfl rfl rfl rfl

theorem State.rxsWrite_keeps {s0 s : State} (h : Keeps k s0 s) (ld fd : Nat) (x3 x4 oturn : Nat) : Keeps k s0
    (State.rxsWrite s ld fd x3 x4 oturn) := by
  unfold State.rxsWrite
  try dsimp only
  with_reducible repeat' first
    | assumption | apply State.put_keeps | apply State.count_keeps | apply Keeps.on | apply Keeps.each
    | apply Keeps.foldlFst | apply Keeps.ite | (intro _; try dsimp only) | (split <;> try dsimp only)
    | (fail_if_no_progress apply State.mk_keeps)

theorem execRxsWrite_keeps {s0 s t : State} (h : Keeps k s0 s) (ld fd hmark hmcrc oturn : Nat)
    (ht : execRxsWrite ld fd hmark hmcrc oturn s = .next t) : Keeps k s0 t := by
  exact Keeps.answer h (State.rxsWrite_keeps (State.setRing_keeps h ..) ..) ht

theorem State.readmitH_keeps {s0 s : State} (h : Keeps k s0 s) (fd : Nat) : Keeps k s0 (State.readmitH s fd) := by
  unfold State.readmitH
  with_reducible repeat' first
    | assumption | apply State.setDcnt_keeps | apply State.startH_keeps | apply State.unfence_keeps
    | apply State.setFence_keeps | apply Keeps.on | apply Keeps.each | apply Keeps.foldlFst | apply Keeps.ite
    | (intro _; try dsimp only)

theorem State.hTurnover_keeps {s0 s : State} (h : Keeps k s0 s) (fd : Nat) : Keeps k s0 (State.hTurnover s fd) := by
  unfold State.hTurnover
  with_reducible repeat' first
    | assumption | apply State.setHbit_keeps | apply State.setField_keeps | apply State.put_keeps
    | apply State.countWrap_keeps | apply State.setCell_keeps | apply Keeps.on | apply Keeps.each
    | apply Keeps.foldlFst | (intro _; try dsimp only)

theorem State.hTick_keeps {s0 s : State} (h : Keeps k s0 s) (fd : Nat) (meas : List Meas) : Keeps k s0 (State.hTick s
    fd meas) := by
  unfold State.hTick
  try dsimp only
  with_reducible repeat' first
    | assumption | apply State.hTurnover_keeps | apply State.readmitH_keeps | apply State.rxhCheck_keeps
    | apply State.soakH_keeps | apply State.evalCell_keeps | apply State.sieveEdge_keeps | apply State.measure_keeps
    | apply State.hEdge_keeps | apply State.restartSlot_keeps | apply State.sealTake_keeps | apply State.setGate_keeps
    | apply Keeps.on | apply Keeps.each | (intro _; try dsimp only)

theorem State.putDev_keeps {s0 s : State} (h : Keeps k s0 s) (fd : Nat) (dev : ℤ) : Keeps k s0 (State.putDev s fd dev)
    := by
  exact h.upd rfl rfl rfl rfl rfl rfl rfl rfl rfl rfl rfl

theorem State.clockCheck_keeps {s0 s : State} (h : Keeps k s0 s) (fd : Nat) (l : List (Bool × Nat)) : Keeps k s0
    (State.clockCheck s fd l) := by
  unfold State.clockCheck
  with_reducible repeat' first
    | assumption | apply State.putDev_keeps | apply State.fenceField_keeps | apply Keeps.on | apply Keeps.each
    | apply Keeps.foldlFst | apply Keeps.ite | (intro _; try dsimp only) | (split <;> try dsimp only)

theorem State.strobe_keeps {s0 s : State} (h : Keeps k s0 s) (fd ld cycles : Nat) (meas : List Meas) : Keeps k s0
    (State.strobe s fd ld cycles meas) := by
  unfold State.strobe
  try dsimp only
  with_reducible repeat' first
    | assumption | apply State.clockCheck_keeps | apply State.hTick_keeps | apply State.sieveClose_keeps
    | apply State.realign_keeps | apply State.setField_keeps | apply State.put_keeps | apply Keeps.on
    | (intro _; try dsimp only)

theorem State.strobeIn_keeps {s0 s : State} (h : Keeps k s0 s) (fd ld : Nat) (x : Transit) (cycles : Nat) (meas : List
    Meas) : Keeps k s0 (State.strobeIn s fd ld x cycles meas) := by
  unfold State.strobeIn
  with_reducible repeat' first
    | assumption | apply State.strobe_keeps | apply State.setField_keeps | apply Keeps.on | apply Keeps.each
    | apply Keeps.foldlFst | apply Keeps.ite | (intro _; try dsimp only)

theorem execHTickStart_keeps {s0 s t : State} (h : Keeps k s0 s) (fd ld flips : Nat) (complete : Bool) (cycles : Nat) (meas : List Meas)
    (ht : execHTickStart fd ld flips complete cycles meas s = .next t) : Keeps k s0 t := by
  exact Keeps.answer h (State.strobeIn_keeps h ..) ht

theorem State.selfStart_keeps {s0 s : State} (h : Keeps k s0 s) (fd cycles : Nat) (meas : List Meas) : Keeps k s0
    (State.selfStart s fd cycles meas) := by
  unfold State.selfStart
  with_reducible repeat' first
    | assumption | apply State.setField_keeps | apply State.count_keeps | apply State.hTick_keeps
    | apply State.sieveClose_keeps | apply State.fenceField_keeps | apply Keeps.on | apply Keeps.each
    | apply Keeps.foldlFst | (intro _; try dsimp only)

theorem execHTickSelfStart_keeps {s0 s t : State} (h : Keeps k s0 s) (fd cycles : Nat) (meas : List Meas) (ht :
    execHTickSelfStart fd cycles meas s = .next t) : Keeps k s0 t := by
  exact Keeps.answer h (State.selfStart_keeps h ..) ht

theorem State.evalEvent_keeps {s0 s : State} (h : Keeps k s0 s) (x1 : Bool) (iid : Nat) : Keeps k s0 (State.evalEvent
    s x1 iid) := by
  unfold State.evalEvent
  with_reducible repeat' first
    | assumption | apply State.evalCell_keeps | apply Keeps.on | apply Keeps.each | apply Keeps.foldlFst
    | apply Keeps.ite | (intro _; try dsimp only) | (split <;> try dsimp only)

theorem execFunctionTimerExpiry_keeps {s0 s t : State} (h : Keeps k s0 s) (x0 : Bool) (iid : Nat) (ht :
    execFunctionTimerExpiry x0 iid s = .next t) : Keeps k s0 t := by
  exact Keeps.answer h (State.evalEvent_keeps h ..) ht

theorem execLampProbe_keeps {s0 s t : State} (h : Keeps k s0 s) (x0 : Bool) (iid : Nat) (ht : execLampProbe x0 iid s =
    .next t) : Keeps k s0 t := by
  exact Keeps.answer h (State.evalEvent_keeps h ..) ht

theorem execSpateRepeat_keeps {s0 s t : State} (h : Keeps k s0 s) (x0 : Bool) (iid : Nat) (ht : execSpateRepeat x0 iid
    s = .next t) : Keeps k s0 t := by
  exact Keeps.answer h (State.evalEvent_keeps h ..) ht

theorem State.slotSend_keeps {s0 s : State} (h : Keeps k s0 s) (fd : Nat) : Keeps k s0 (State.slotSend s fd) := by
  exact h.upd rfl rfl rfl rfl rfl rfl rfl rfl rfl rfl rfl

theorem execHbusSlotSend_keeps {s0 s t : State} (h : Keeps k s0 s) (fd : Nat) (ht : execHbusSlotSend fd s = .next t) :
    Keeps k s0 t := by
  exact Keeps.answer h (State.slotSend_keeps h ..) ht

theorem State.slotIn_keeps {s0 s : State} (h : Keeps k s0 s) (fd x2 : Nat) (cyc : ℤ) (beats : List Nat) : Keeps k s0
    (State.slotIn s fd x2 cyc beats) := by
  unfold State.slotIn
  with_reducible repeat' first
    | assumption | apply State.setHbit_keeps | apply State.setField_keeps | apply State.count_keeps | apply Keeps.on
    | apply Keeps.each | apply Keeps.foldlFst | apply Keeps.ite | (intro _; try dsimp only)

theorem execHbusSlotReceive_keeps {s0 s t : State} (h : Keeps k s0 s) (fd x1 : Nat) (cyc : ℤ) (x : Transit) (ht :
    execHbusSlotReceive fd x1 cyc x s = .next t) : Keeps k s0 t := by
  exact Keeps.answer h (State.slotIn_keeps h ..) ht

theorem State.putHtx_keeps {s0 s : State} (h : Keeps k s0 s) (fd w : Nat) (bs : List Byte) : Keeps k s0 (State.putHtx
    s fd w bs) := by
  unfold State.putHtx
  with_reducible repeat' first
    | assumption | apply State.put_keeps | apply Keeps.on | apply Keeps.each | apply Keeps.foldlFst
    | (intro _; try dsimp only)

theorem State.htxRing_keeps {s0 s : State} (h : Keeps k s0 s) (ring : Nat) : Keeps k s0 (State.htxRing s ring) := by
  exact State.putHtx_keeps h ..

theorem State.htxMark_keeps {s0 s : State} (h : Keeps k s0 s) (fd m p : Nat) : Keeps k s0 (State.htxMark s fd m p) := by
  unfold State.htxMark
  with_reducible repeat' first | assumption | apply State.put_keeps | apply State.putHtx_keeps

theorem State.htxBuild_keeps {s0 s : State} (h : Keeps k s0 s) (fd : Nat) : Keeps k s0 (State.htxBuild s fd) := by
  unfold State.htxBuild
  with_reducible repeat' first
    | assumption | apply State.htxRing_keeps | apply State.setField_keeps | apply State.put_keeps
    | apply State.htxMark_keeps | apply Keeps.on | apply Keeps.each | apply Keeps.foldlFst | (intro _; try dsimp only)

theorem execHtxBuild_keeps {s0 s t : State} (h : Keeps k s0 s) (fd : Nat) (ht : execHtxBuild fd s = .next t) : Keeps k
    s0 t := by
  refine Keeps.answer h ?_ ht
  with_reducible repeat' first
    | assumption | apply State.htxBuild_keeps | apply State.reachPoint_keeps | apply Keeps.on | apply Keeps.each
    | apply Keeps.foldlFst | (intro _; try dsimp only)

theorem State.htxRead_keeps {s0 s : State} (h : Keeps k s0 s) (ld fd : Nat) : Keeps k s0 (State.htxRead s ld fd) := by
  unfold State.htxRead
  try dsimp only
  with_reducible repeat' first
    | assumption | apply State.dueRxs_keeps | apply Keeps.on | apply Keeps.each | apply Keeps.foldlFst
    | apply Keeps.ite | (intro _; try dsimp only) | (split <;> try dsimp only)
    | (fail_if_no_progress apply State.mk_keeps)

theorem execHtxRead_keeps {s0 s t : State} (h : Keeps k s0 s) (ld fd : Nat) (ht : execHtxRead ld fd s = .next t) :
    Keeps k s0 t := by
  refine Keeps.answer h ?_ ht
  with_reducible repeat' first | assumption | apply State.htxRead_keeps | apply State.reachPoint_keeps

theorem State.wordsIn_keeps {s0 s : State} (h : Keeps k s0 s) (fd ld : Nat) (x : Transit) : Keeps k s0 (State.wordsIn
    s fd ld x) := by
  exact h.upd rfl rfl rfl rfl rfl rfl rfl rfl rfl rfl rfl

theorem execPEnableWordsReceived_keeps {s0 s t : State} (h : Keeps k s0 s) (fd ld tick : Nat) (flips : List (Nat × Nat)) (crc : Nat) (complete : Bool)
    (ht : execPEnableWordsReceived fd ld tick flips crc complete s = .next t) : Keeps k s0 t := by
  exact Keeps.answer h (State.wordsIn_keeps h ..) ht

theorem State.countWord_keeps {s0 s : State} (h : Keeps k s0 s) (fd ld : Nat) (x3 w : Nat) : Keeps k s0
    (State.countWord s fd ld x3 w) := by
  unfold State.countWord
  with_reducible repeat' first
    | assumption | apply State.count_keeps | apply Keeps.on | apply Keeps.each | apply Keeps.foldlFst
    | apply Keeps.ite | (intro _; try dsimp only)

theorem State.sourceTakeover_keeps {s0 s : State} (h : Keeps k s0 s) (fd x2 : Nat) : Keeps k s0 (State.sourceTakeover
    s fd x2) := by
  unfold State.sourceTakeover
  with_reducible repeat' first
    | assumption | apply State.count_keeps | apply State.setSource_keeps | apply Keeps.on | apply Keeps.each
    | apply Keeps.foldlFst | (intro _; try dsimp only)

theorem State.applyTerm_keeps {s0 s : State} (h : Keeps k s0 s) (fd x2 : Nat) : Keeps k s0 (State.applyTerm s fd x2)
    := by
  unfold State.applyTerm
  with_reducible repeat' first
    | assumption | apply State.sourceTakeover_keeps | apply State.countWord_keeps | apply State.putB_keeps
    | apply State.setTerm_keeps | apply Keeps.on | apply Keeps.each | apply Keeps.foldlFst | (intro _; try dsimp only)

theorem State.countAbsent_keeps {s0 s : State} (h : Keeps k s0 s) (fd : Nat) (outs : List Nat) : Keeps k s0
    (State.countAbsent s fd outs) := by
  unfold State.countAbsent
  with_reducible repeat' first
    | assumption | apply State.count_keeps | apply Keeps.on | apply Keeps.each | apply Keeps.foldlFst
    | (intro _; try dsimp only)

theorem State.apply_keeps {s0 s : State} (h : Keeps k s0 s) (fd : Nat) : Keeps k s0 (State.apply s fd) := by
  unfold State.apply
  with_reducible repeat' first
    | assumption | apply State.countAbsent_keeps | apply State.applyTerm_keeps | apply Keeps.on | apply Keeps.each
    | apply Keeps.foldlFst | (intro _; try dsimp only)

theorem execApplyPoint_keeps {s0 s t : State} (h : Keeps k s0 s) (fd : Nat) (ht : execApplyPoint fd s = .next t) :
    Keeps k s0 t := by
  refine Keeps.answer h ?_ ht
  with_reducible repeat' first
    | assumption | apply State.apply_keeps | apply State.reachPoint_keeps | apply Keeps.on | apply Keeps.each
    | apply Keeps.foldlFst | (intro _; try dsimp only)

/-! ### Machine/RingFrames.lean -/

theorem State.furrowSend_keeps {s0 s : State} (h : Keeps k s0 s) (ld p : Nat) (x : Transit) : Keeps k s0
    (State.furrowSend s ld p x) := by
  exact h.upd rfl rfl rfl rfl rfl rfl rfl rfl rfl rfl rfl

theorem execFurrowFrameSend_keeps {s0 s t : State} (h : Keeps k s0 s) (ld : Nat) (q : FurrowSend)
    (ht : execFurrowFrameSend ld q s = .next t) : Keeps k s0 t := by
  refine Keeps.answer h ?_ ht
  with_reducible repeat' first | assumption | apply State.furrowSend_keeps | apply State.sending_keeps

theorem State.takeEntry_keeps {s0 s : State} (h : Keeps k s0 s) (ld p : Nat) (e : FurrowEntry) : Keeps k s0
    (State.takeEntry s ld p e) := by
  unfold State.takeEntry
  with_reducible repeat' first
    | assumption | apply State.setPort_keeps | apply State.addFurP_keeps | apply State.count_keeps | apply Keeps.on
    | apply Keeps.each | apply Keeps.foldlFst | apply Keeps.ite | intro _ | (split <;> try dsimp only)

theorem State.takeFurrow_keeps {s0 s : State} (h : Keeps k s0 s) (ld p : Nat) (f : FurrowFrame) : Keeps k s0
    (State.takeFurrow s ld p f) := by
  unfold State.takeFurrow
  with_reducible repeat' first
    | assumption | apply State.takeEntry_keeps | apply State.countWrap_keeps | apply State.count_keeps
    | apply Keeps.on | apply Keeps.each | apply Keeps.foldlFst | apply Keeps.ite | (intro _; try dsimp only)

theorem State.furrow_keeps {s0 s : State} (h : Keeps k s0 s) (ld p : Nat) (f : FurrowFrame) (a : Arrival) : Keeps k s0
    (State.furrow s ld p f a) := by
  unfold State.furrow
  with_reducible repeat' first
    | assumption | apply State.countFilter_keeps | apply State.takeFurrow_keeps | apply State.count_keeps
    | apply Keeps.on | apply Keeps.each | apply Keeps.foldlFst | apply Keeps.ite | (intro _; try dsimp only)

theorem execFurrowFrameReceived_keeps {s0 s t : State} (h : Keeps k s0 s) (ld p : Nat) (f : FurrowFrame) (a : Arrival)
    (ht : execFurrowFrameReceived ld p f a s = .next t) : Keeps k s0 t := by
  refine Keeps.answer h ?_ ht
  with_reducible repeat' first
    | assumption | apply State.furrow_keeps | apply Keeps.on | apply Keeps.each | apply Keeps.foldlFst
    | (intro _; try dsimp only)

theorem State.takeSpate_keeps {s0 s : State} (h : Keeps k s0 s) (ld p : Nat) (f : SpateFrame) : Keeps k s0
    (State.takeSpate s ld p f) := by
  unfold State.takeSpate
  try dsimp only
  with_reducible repeat' first
    | assumption | apply State.count_keeps | apply State.dueRxs_keeps | apply Keeps.on | apply Keeps.each
    | apply Keeps.foldlFst | apply Keeps.ite | (intro _; try dsimp only) | split
    | (fail_if_no_progress apply State.mk_keeps)

theorem execSpateFrameReceived_keeps {s0 s t : State} (h : Keeps k s0 s) (ld p : Nat) (f : SpateFrame) (ht :
    execSpateFrameReceived ld p f s = .next t) : Keeps k s0 t := by
  refine Keeps.answer h ?_ ht
  with_reducible repeat' first
    | assumption | apply State.countFilter_keeps | apply State.takeSpate_keeps | apply Keeps.on | apply Keeps.each
    | apply Keeps.foldlFst | (intro _; try dsimp only) | apply Keeps.ite

theorem State.cutThrough_keeps {s0 s : State} (h : Keeps k s0 s) (ld p : Nat) (f : SpateFrame) : Keeps k s0
    (State.cutThrough s ld p f) := by
  unfold State.cutThrough
  with_reducible repeat' first
    | assumption | apply State.countWrap_keeps | apply State.sendSpate_keeps | apply State.count_keeps
    | apply Keeps.on | apply Keeps.each | apply Keeps.foldlFst | apply Keeps.ite | (intro _; try dsimp only)

theorem execSpateCutThrough_keeps {s0 s t : State} (h : Keeps k s0 s) (ld p : Nat) (f : SpateFrame) (ht :
    execSpateCutThrough ld p f s = .next t) : Keeps k s0 t := by
  refine Keeps.answer h ?_ ht
  with_reducible repeat' first
    | assumption | apply State.sending_keeps | apply State.cutThrough_keeps | apply Keeps.on | apply Keeps.each
    | apply Keeps.foldlFst | (intro _; try dsimp only)

/-! ### Machine/Service.lean -/

theorem State.enqueue_keeps {s0 s : State} (h : Keeps k s0 s) (ld p : Nat) (q : QFrame) : Keeps k s0 (State.enqueue s
    ld p q) := by
  unfold State.enqueue
  with_reducible repeat' first
    | assumption | apply State.setPort_keeps | apply State.count_keeps | apply Keeps.on | apply Keeps.each
    | apply Keeps.foldlFst | apply Keeps.ite | (intro _; try dsimp only)

theorem State.originate_keeps {s0 s : State} (h : Keeps k s0 s) (ld dst : Nat) (stype sflg sseq : Nat) (payload : List
    Byte) : Keeps k s0 (State.originate s ld dst stype sflg sseq payload) := by
  exact State.enqueue_keeps h ..

theorem State.svForward_keeps {s0 s : State} (h : Keeps k s0 s) (ld p : Nat) (f : ServiceFrame) : Keeps k s0
    (State.svForward s ld p f) := by
  unfold State.svForward
  with_reducible repeat' first
    | assumption | apply State.enqueue_keeps | apply Keeps.on | apply Keeps.each | apply Keeps.foldlFst
    | (intro _; try dsimp only)

theorem State.svSeen_keeps {s0 s : State} (h : Keeps k s0 s) (ld : Nat) (f : ServiceFrame) : Keeps k s0 (State.svSeen
    s ld f) := by
  unfold State.svSeen
  with_reducible repeat' first
    | assumption | apply State.setRing_keeps | apply Keeps.on | apply Keeps.each | apply Keeps.foldlFst
    | (intro _; try dsimp only)

theorem State.svTaken_keeps {s0 s : State} (h : Keeps k s0 s) (ld p : Nat) (q : QFrame) : Keeps k s0 (State.svTaken s
    ld p q) := by
  exact h.upd rfl rfl rfl rfl rfl rfl rfl rfl rfl rfl rfl

theorem State.svSend_keeps {s0 s : State} (h : Keeps k s0 s) (ld p : Nat) (q : QFrame) : Keeps k s0 (State.svSend s ld
    p q) := by
  exact h.upd rfl rfl rfl rfl rfl rfl rfl rfl rfl rfl rfl

theorem execServiceFrameSend_keeps {s0 s t : State} (h : Keeps k s0 s) (ld : Nat) (q : SendAt)
    (ht : execServiceFrameSend ld q s = .next t) : Keeps k s0 t := by
  unfold execServiceFrameSend at ht
  split at ht <;> refine Keeps.answer h ?_ ht <;> with_reducible repeat' first
    | assumption | apply State.svSend_keeps | apply State.sending_keeps

theorem State.cutFrame_keeps {s0 s : State} (h : Keeps k s0 s) (ld p : Nat) (x3 start : Nat) (bs : List Byte) : Keeps
    k s0 (State.cutFrame s ld p x3 start bs) := by
  exact h.upd rfl rfl rfl rfl rfl rfl rfl rfl rfl rfl rfl

theorem State.cutTaken_keeps {s0 s : State} (h : Keeps k s0 s) (ld p cls : Nat) : Keeps k s0 (State.cutTaken s ld p
    cls) := by
  unfold State.cutTaken
  with_reducible repeat' first
    | assumption | apply State.setPort_keeps | apply State.countWrap_keeps | apply State.svTaken_keeps
    | apply Keeps.on | apply Keeps.each | apply Keeps.foldlFst | apply Keeps.ite | (intro _; try dsimp only)
    | (split <;> try dsimp only)

theorem State.sluice_keeps {s0 s : State} (h : Keeps k s0 s) (ld p : Nat) (cls start : Nat) (bs : List Byte) : Keeps k
    s0 (State.sluice s ld p cls start bs) := by
  unfold State.sluice
  with_reducible repeat' first
    | assumption | apply State.truncate_keeps | apply State.cutTaken_keeps | apply State.cutFrame_keeps
    | apply Keeps.on | apply Keeps.each | apply Keeps.foldlFst | apply Keeps.ite | (intro _; try dsimp only)

theorem execSluiceTruncation_keeps {s0 s t : State} (h : Keeps k s0 s) (ld : Nat) (q : SluiceStart)
    (ht : execSluiceTruncation ld q s = .next t) : Keeps k s0 t := by
  unfold execSluiceTruncation at ht
  split at ht <;> refine Keeps.answer h ?_ ht <;> with_reducible repeat' first
    | assumption | apply State.sluice_keeps | apply State.sending_keeps

end Sys2Proof.Machine
end

