-- ==== Sys2Proof/Laws/KeepsCommands.lean ====
section
/-! SUPPORT. The promises of `Keeps` for mailboxes, the host port, register writes, the image, boot and the supervisors' commands, one lemma per operation. -/

namespace Sys2Proof.Machine

variable {k : Promise}

/-! ### Machine/Mailbox.lean -/

theorem State.ownErr_keeps {s0 s : State} (h : Keeps k s0 s) (ld mb : Nat) (x3 : Bool) : Keeps k s0 (State.ownErr s ld
    mb x3) := by
  unfold State.ownErr
  with_reducible repeat' first
    | assumption | apply State.count_keeps | apply State.put_keeps | apply Keeps.on | apply Keeps.each
    | apply Keeps.foldlFst | (intro _; try dsimp only)

theorem State.clientErr_keeps {s0 s : State} (h : Keeps k s0 s) (ld mb : Nat) : Keeps k s0 (State.clientErr s ld mb)
    := by
  exact State.ownErr_keeps h ..

theorem State.mbRing_keeps {s0 s : State} (h : Keeps k s0 s) (ld mb : Nat) : Keeps k s0 (State.mbRing s ld mb) := by
  unfold State.mbRing
  try dsimp only
  with_reducible repeat' first
    | assumption | apply State.clientErr_keeps | apply State.countWrap_keeps | apply State.put_keeps
    | apply Keeps.on | apply Keeps.each | apply Keeps.foldlFst | apply Keeps.ite | (intro _; try dsimp only)
    | split | (fail_if_no_progress apply State.mk_keeps)

theorem State.mbAck_keeps {s0 s : State} (h : Keeps k s0 s) (ld mb : Nat) : Keeps k s0 (State.mbAck s ld mb) := by
  unfold State.mbAck
  with_reducible repeat' first
    | assumption | apply State.put_keeps | apply State.clientErr_keeps | apply Keeps.on | apply Keeps.each
    | apply Keeps.foldlFst | apply Keeps.ite | (intro _; try dsimp only)

theorem State.byClient_keeps {s0 s : State} (h : Keeps k s0 s) (m : Master) (ld mb : Nat) {f : State → State}
    (hf : ∀ s, Keeps k s0 s → Keeps k s0 (f s)) : Keeps k s0 (s.byClient m ld mb f) := by
  unfold State.byClient
  try dsimp only
  repeat' (first
    | with_reducible assumption | with_reducible apply hf | with_reducible apply State.refuse_keeps
    | with_reducible apply State.asWrite_keeps | with_reducible apply Keeps.ident | with_reducible apply Keeps.each
    | with_reducible apply Keeps.on | with_reducible apply Keeps.ite | with_reducible apply Keeps.foldl
    | with_reducible apply Keeps.foldlFst | (intro _; try dsimp only)
    )

theorem execMailboxRing_keeps {s0 s t : State} (h : Keeps k s0 s) (m : Master) (ld mb : Nat) (ht : execMailboxRing m
    ld mb s = .next t) : Keeps k s0 t := by
  refine Keeps.answer h ?_ ht
  with_reducible repeat' first
    | assumption | apply State.byClient_keeps | apply State.mbRing_keeps | apply Keeps.on | apply Keeps.each
    | apply Keeps.foldlFst | (intro _; try dsimp only)

theorem execMailboxAck_keeps {s0 s t : State} (h : Keeps k s0 s) (m : Master) (ld mb : Nat) (ht : execMailboxAck m ld
    mb s = .next t) : Keeps k s0 t := by
  refine Keeps.answer h ?_ ht
  with_reducible repeat' first
    | assumption | apply State.byClient_keeps | apply State.mbAck_keeps | apply Keeps.on | apply Keeps.each
    | apply Keeps.foldlFst | (intro _; try dsimp only)

theorem State.sendRemote_keeps {s0 s : State} (h : Keeps k s0 s) (ld mb : Nat) : Keeps k s0 (State.sendRemote s ld mb)
    := by
  unfold State.sendRemote
  with_reducible repeat' first
    | assumption | apply State.originate_keeps | apply State.put_keeps | apply State.setRem_keeps | apply Keeps.on
    | apply Keeps.each | apply Keeps.foldlFst | (intro _; try dsimp only)

theorem State.mbFinish_keeps {s0 s : State} (h : Keeps k s0 s) (ld mb warden : Nat) : Keeps k s0 (State.mbFinish s ld
    mb warden) := by
  unfold State.mbFinish
  try dsimp only
  with_reducible repeat' first
    | assumption | apply State.put_keeps | apply State.sendRemote_keeps | apply Keeps.on | apply Keeps.each
    | apply Keeps.foldlFst | apply Keeps.ite | intro _ | split
    | (fail_if_no_progress apply State.mk_keeps)

theorem State.mbComplete_keeps {s0 s : State} (h : Keeps k s0 s) (ld mb : Nat) : Keeps k s0 (State.mbComplete s ld mb)
    := by
  unfold State.mbComplete
  with_reducible repeat' first
    | assumption | apply State.put_keeps | apply State.mbFinish_keeps | apply Keeps.on | apply Keeps.each
    | apply Keeps.foldlFst | (intro _; try dsimp only)

theorem State.mbRespond_keeps {s0 s : State} (h : Keeps k s0 s) (hmem : k.mem = false) (ld mb : Nat) (resp : List
    Byte) : Keeps k s0 (State.mbRespond s ld mb resp) := by
  unfold State.mbRespond
  with_reducible repeat' first | assumption | apply State.mbComplete_keeps | apply State.setBytes_keeps

theorem execMailboxComplete_keeps {s0 s t : State} (h : Keeps k s0 s) (hmem : k.mem = false) (ld mb : Nat) (resp :
    List Byte) (ht : execMailboxComplete ld mb resp s = .next t) : Keeps k s0 t := by
  refine Keeps.answer h ?_ ht
  with_reducible repeat' first
    | assumption | apply State.mbRespond_keeps | apply State.ownErr_keeps | apply Keeps.on | apply Keeps.each
    | apply Keeps.foldlFst | (intro _; try dsimp only) | apply Keeps.ite

theorem State.wardenReply_keeps {s0 s : State} (h : Keeps k s0 s) (hmem : k.mem = false) (ld mb : Nat) : Keeps k s0
    (State.wardenReply s ld mb) := by
  unfold State.wardenReply
  with_reducible repeat' first
    | assumption | apply State.put_keeps | apply State.setBytes_keeps | apply State.mbFinish_keeps
    | apply State.count_keeps

theorem execWardenAnswer_keeps {s0 s t : State} (h : Keeps k s0 s) (hmem : k.mem = false) (ld mb : Nat) (ht :
    execWardenAnswer ld mb s = .next t) : Keeps k s0 t := by
  exact Keeps.answer h (State.wardenReply_keeps h hmem ..) ht

theorem State.writeMbctl_keeps {s0 s : State} (h : Keeps k s0 s) (m : Master) (ld mb v : Nat) : Keeps k s0
    (State.writeMbctl s m ld mb v) := by
  unfold State.writeMbctl
  with_reducible repeat' first
    | assumption | apply State.ownErr_keeps | apply State.putB_keeps | apply State.mbComplete_keeps
    | apply State.mbRing_keeps | apply State.mbAck_keeps | apply Keeps.on | apply Keeps.each | apply Keeps.foldlFst
    | apply Keeps.ite | (intro _; try dsimp only)

/-! ### Machine/HostPort.lean -/

theorem State.disarm_keeps {s0 s : State} (h : Keeps k s0 s) : Keeps k s0 (State.disarm s) := by
  exact h.upd rfl rfl rfl rfl rfl rfl rfl rfl rfl rfl rfl

theorem State.hostWord_keeps {s0 s : State} (h : Keeps k s0 s) (a v : Nat) : Keeps k s0 (State.hostWord s a v) := by
  unfold State.hostWord
  with_reducible repeat' first
    | assumption | apply State.writeMbctl_keeps | apply State.w1c_keeps | apply State.put_keeps | apply Keeps.on
    | apply Keeps.each | apply Keeps.foldlFst | apply Keeps.ite | intro _ | (split <;> try dsimp only)

theorem State.hostByte_keeps {s0 s : State} (h : Keeps k s0 s) (hmem : k.mem = false) (a : Nat) (b : Byte) : Keeps k
    s0 (State.hostByte s a b) := by
  unfold State.hostByte
  with_reducible repeat' first
    | assumption | apply State.setByte_keeps | apply State.put_keeps | apply Keeps.on | apply Keeps.each
    | apply Keeps.foldlFst | apply Keeps.ite | (intro _; try dsimp only) | (split <;> try dsimp only)

theorem State.hostOwn_keeps {s0 s : State} (h : Keeps k s0 s) (addr n lo : Nat) : Keeps k s0 (State.hostOwn s addr n
    lo) := by
  unfold State.hostOwn
  with_reducible repeat' first
    | assumption | apply State.clientErr_keeps | apply Keeps.on | apply Keeps.each | apply Keeps.foldlFst
    | (intro _; try dsimp only)

theorem State.hostBytes_keeps {s0 s : State} (h : Keeps k s0 s) (hmem : k.mem = false) (a : Nat) (l : List Byte) :
    Keeps k s0 (s.hostBytes a l) := by
  induction l generalizing a s with
  | nil => exact h
  | cons b l ih => exact ih (State.hostByte_keeps h hmem a b) (a + 1)

theorem State.hostWrite_keeps {s0 s : State} (h : Keeps k s0 s) (hmem : k.mem = false) (addr : Nat) (bs : List Byte) :
    Keeps k s0 (State.hostWrite s addr bs) := by
  unfold State.hostWrite
  with_reducible repeat' first
    | assumption | apply State.hostWord_keeps | apply State.hostBytes_keeps | apply State.hostOwn_keeps
    | apply Keeps.on | apply Keeps.each | apply Keeps.foldlFst | apply Keeps.ite | (intro _; try dsimp only)

theorem execHostWrite_keeps {s0 s t : State} (h : Keeps k s0 s) (hmem : k.mem = false) (addr : Nat) (bytes : List
    Byte) (ht : execHostWrite addr bytes s = .next t) : Keeps k s0 t := by
  refine Keeps.answer h ?_ ht
  with_reducible repeat' first
    | assumption | apply State.hostWrite_keeps | apply State.disarm_keeps | apply Keeps.on | apply Keeps.each
    | apply Keeps.foldlFst | (intro _; try dsimp only)

theorem State.hostRead_keeps {s0 s : State} (h : Keeps k s0 s) (addr n : Nat) : Keeps k s0 (State.hostRead s addr n)
    := by
  unfold State.hostRead
  with_reducible repeat' first
    | assumption | apply State.give_keeps | apply State.hostOwn_keeps | apply State.put_keeps | apply Keeps.on
    | apply Keeps.each | apply Keeps.foldlFst | (intro _; try dsimp only)

theorem execHostRead_keeps {s0 s t : State} (h : Keeps k s0 s) (addr n : Nat) (ht : execHostRead addr n s = .next t) :
    Keeps k s0 t := by
  refine Keeps.answer h ?_ ht
  with_reducible repeat' first
    | assumption | apply State.hostRead_keeps | apply State.disarm_keeps | apply Keeps.on | apply Keeps.each
    | apply Keeps.foldlFst | (intro _; try dsimp only)

theorem execReadHstat_keeps {s0 s t : State} (h : Keeps k s0 s) (ht : execReadHstat s = .next t) : Keeps k s0 t := by
  refine Keeps.answer h ?_ ht
  with_reducible repeat' first
    | assumption | apply State.give_keeps | apply State.disarm_keeps | apply Keeps.on | apply Keeps.each
    | apply Keeps.foldlFst | (intro _; try dsimp only)

theorem execReadId_keeps {s0 s t : State} (h : Keeps k s0 s) (ht : execReadId s = .next t) : Keeps k s0 t := by
  refine Keeps.answer h ?_ ht
  with_reducible repeat' first
    | assumption | apply State.give_keeps | apply State.disarm_keeps | apply Keeps.on | apply Keeps.each
    | apply Keeps.foldlFst | (intro _; try dsimp only)

theorem execResetEn_keeps {s0 s t : State} (h : Keeps k s0 s) (ht : execResetEn s = .next t) : Keeps k s0 t := by
  unfold execResetEn at ht
  refine Keeps.answer h ?_ ht
  all_goals repeat' (first
    | with_reducible assumption | with_reducible apply Keeps.ident | with_reducible apply Keeps.each
    | with_reducible apply Keeps.on | with_reducible apply Keeps.ite | with_reducible apply Keeps.foldl
    | with_reducible apply Keeps.foldlFst | (intro _; try dsimp only)
    | with_reducible refine Keeps.fst ‹_ = (_, _)› ?_ | with_reducible refine Keeps.fst3 ‹_ = (_, _, _)› ?_
    | split | (fail_if_no_progress (with_reducible apply State.mk_keeps)))

theorem execHostReset_keeps {s0 s t : State} (h : Keeps k s0 s) (ht : execHostReset s = .next t) : Keeps k s0 t := by
  refine Keeps.answer h ?_ ht
  with_reducible repeat' first
    | assumption | apply State.disarm_keeps | apply State.put_keeps | apply Keeps.on | apply Keeps.each
    | apply Keeps.foldlFst | (intro _; try dsimp only)

theorem execHostUnknownInstruction_keeps {s0 s t : State} (h : Keeps k s0 s) (code : Nat) (ht :
    execHostUnknownInstruction code s = .next t) : Keeps k s0 t := by
  refine Keeps.answer h ?_ ht
  with_reducible repeat' first
    | assumption | apply State.put_keeps | apply State.disarm_keeps | apply Keeps.on | apply Keeps.each
    | apply Keeps.foldlFst | (intro _; try dsimp only)

/-! ### Machine/FenceRows.lean -/

theorem State.fenceP_keeps {s0 s : State} (h : Keeps k s0 s) (ld iid reason : Nat) : Keeps k s0 (State.fenceP s ld iid
    reason) := by
  unfold State.fenceP
  with_reducible repeat' first
    | assumption | apply State.fenceOn_keeps | apply State.logFence_keeps | apply Keeps.on | apply Keeps.each
    | apply Keeps.foldlFst | (intro _; try dsimp only)

theorem State.fenceLogicUnit_keeps {s0 s : State} (h : Keeps k s0 s) (hmem : k.mem = false) (ld kind idx reason : Nat)
    : Keeps k s0 (State.fenceLogicUnit s ld kind idx reason) := by
  unfold State.fenceLogicUnit
  try dsimp only
  with_reducible repeat' first
    | assumption | apply State.fenceLink_keeps | apply State.fenceEngine_keeps | apply State.fencePort_keeps
    | apply State.fenceSv_keeps | apply State.fenceTimer_keeps | apply State.fenceLane_keeps
    | apply State.revoke_keeps | apply State.revokeUnit_keeps | apply State.raise_keeps | apply Keeps.on
    | apply Keeps.ite | (intro _; try dsimp only)

theorem State.fenceFieldUnit_keeps {s0 s : State} (h : Keeps k s0 s) (fd kind idx reason : Nat) : Keeps k s0
    (State.fenceFieldUnit s fd kind idx reason) := by
  unfold State.fenceFieldUnit
  try dsimp only
  with_reducible repeat' first
    | assumption | apply State.fenceField_keeps | apply State.fenceTimer_keeps | apply State.fenceCell_keeps
    | apply State.fenceTerm_keeps | apply Keeps.ite | (intro _; try dsimp only)

theorem State.clearLogicUnit_keeps {s0 s : State} (h : Keeps k s0 s) (ld kind idx : Nat) : Keeps k s0
    (State.clearLogicUnit s ld kind idx) := by
  unfold State.clearLogicUnit
  try dsimp only
  with_reducible repeat' first
    | assumption | apply State.admitPort_keeps | apply State.clearEngine_keeps | apply State.clearPort_keeps
    | apply State.clearLink_keeps | apply State.clearLane_keeps | apply State.unfence_keeps | apply Keeps.ite
    | (intro _; try dsimp only)

theorem State.clearP_keeps {s0 s : State} (h : Keeps k s0 s) (iid : Nat) : Keeps k s0 (State.clearP s iid) := by
  unfold State.clearP
  with_reducible repeat' first
    | assumption | apply State.setFence_keeps | apply Keeps.on | apply Keeps.each | apply Keeps.foldlFst
    | (intro _; try dsimp only)

theorem State.putFreq_keeps {s0 s : State} (h : Keeps k s0 s) (ld kind : Nat) (idx op : Nat) : Keeps k s0
    (State.putFreq s ld kind idx op) := by
  exact h.upd rfl rfl rfl rfl rfl rfl rfl rfl rfl rfl rfl

theorem State.putFfreq_keeps {s0 s : State} (h : Keeps k s0 s) (fd kind : Nat) (idx op : Nat) : Keeps k s0
    (State.putFfreq s fd kind idx op) := by
  exact h.upd rfl rfl rfl rfl rfl rfl rfl rfl rfl rfl rfl

theorem State.freqFence_keeps {s0 s : State} (h : Keeps k s0 s) (hmem : k.mem = false) (ld kind idx : Nat) : Keeps k
    s0 (State.freqFence s ld kind idx) := by
  unfold State.freqFence
  with_reducible repeat' first
    | assumption | apply State.putFreq_keeps | apply State.fenceP_keeps | apply State.fenceLogicUnit_keeps
    | apply Keeps.on | apply Keeps.each | apply Keeps.foldlFst | apply Keeps.ite | (intro _; try dsimp only)

theorem State.freqClear_keeps {s0 s : State} (h : Keeps k s0 s) (ld kind idx : Nat) : Keeps k s0 (State.freqClear s ld
    kind idx) := by
  unfold State.freqClear
  with_reducible repeat' first
    | assumption | apply State.putFreq_keeps | apply State.clearP_keeps | apply State.clearLogicUnit_keeps
    | apply Keeps.on | apply Keeps.each | apply Keeps.foldlFst | apply Keeps.ite | (intro _; try dsimp only)

theorem State.ffreqFence_keeps {s0 s : State} (h : Keeps k s0 s) (fd kind idx : Nat) : Keeps k s0 (State.ffreqFence s
    fd kind idx) := by
  unfold State.ffreqFence
  with_reducible repeat' first | assumption | apply State.fenceFieldUnit_keeps | apply State.putFfreq_keeps

theorem State.ffreqClear_keeps {s0 s : State} (h : Keeps k s0 s) (fd kind idx : Nat) : Keeps k s0 (State.ffreqClear s
    fd kind idx) := by
  unfold State.ffreqClear
  with_reducible repeat' first
    | assumption | apply State.putFfreq_keeps | apply State.clearCell_keeps | apply State.unfence_keeps
    | apply State.engineRetake_keeps | apply Keeps.on | apply Keeps.each | apply Keeps.foldlFst | apply Keeps.ite
    | (intro _; try dsimp only)

theorem execFreqFence_keeps {s0 s t : State} (h : Keeps k s0 s) (hmem : k.mem = false) (m : Master) (ld kind idx :
    Nat) (ht : execFreqFence m ld kind idx s = .next t) : Keeps k s0 t := by
  refine Keeps.answer h ?_ ht
  with_reducible repeat' first
    | assumption | apply State.asWrite_keeps | apply State.freqFence_keeps | apply Keeps.on | apply Keeps.each
    | apply Keeps.foldlFst | (intro _; try dsimp only)

theorem execFreqClear_keeps {s0 s t : State} (h : Keeps k s0 s) (m : Master) (ld kind idx : Nat) (ht : execFreqClear m
    ld kind idx s = .next t) : Keeps k s0 t := by
  refine Keeps.answer h ?_ ht
  with_reducible repeat' first
    | assumption | apply State.asWrite_keeps | apply State.freqClear_keeps | apply Keeps.on | apply Keeps.each
    | apply Keeps.foldlFst | (intro _; try dsimp only)

theorem execFfreqFence_keeps {s0 s t : State} (h : Keeps k s0 s) (m : Master) (fd kind idx : Nat) (ht : execFfreqFence
    m fd kind idx s = .next t) : Keeps k s0 t := by
  refine Keeps.answer h ?_ ht
  with_reducible repeat' first
    | assumption | apply State.asWrite_keeps | apply State.ffreqFence_keeps | apply Keeps.on | apply Keeps.each
    | apply Keeps.foldlFst | (intro _; try dsimp only)

theorem execFfreqClear_keeps {s0 s t : State} (h : Keeps k s0 s) (m : Master) (fd kind idx : Nat) (ht : execFfreqClear
    m fd kind idx s = .next t) : Keeps k s0 t := by
  refine Keeps.answer h ?_ ht
  with_reducible repeat' first
    | assumption | apply State.asWrite_keeps | apply State.ffreqClear_keeps | apply Keeps.on | apply Keeps.each
    | apply Keeps.foldlFst | (intro _; try dsimp only)

theorem State.fenceMessage_keeps {s0 s : State} (h : Keeps k s0 s) (iid : Nat) (clear : Bool) : Keeps k s0
    (State.fenceMessage s iid clear) := by
  unfold State.fenceMessage
  with_reducible repeat' first
    | assumption | apply State.setFence_keeps | apply State.fenceOn_keeps | apply Keeps.on | apply Keeps.each
    | apply Keeps.foldlFst | apply Keeps.ite | (intro _; try dsimp only)

theorem execFenceMessage_keeps {s0 s t : State} (h : Keeps k s0 s) (fd iid : Nat) (clear : Bool) (ht :
    execFenceMessage fd iid clear s = .next t) : Keeps k s0 t := by
  exact Keeps.answer h (State.fenceMessage_keeps h ..) ht

theorem State.claim_keeps {s0 s : State} (h : Keeps k s0 s) (ld n code : Nat) : Keeps k s0 (State.claim s ld n code)
    := by
  unfold State.claim
  with_reducible repeat' first
    | assumption | apply State.put_keeps | apply Keeps.on | apply Keeps.each | apply Keeps.foldlFst
    | apply Keeps.ite | (intro _; try dsimp only)

theorem State.release_keeps {s0 s : State} (h : Keeps k s0 s) (ld n code : Nat) : Keeps k s0 (State.release s ld n
    code) := by
  unfold State.release
  with_reducible repeat' first
    | assumption | apply State.revokeUnit_keeps | apply Keeps.on | apply Keeps.each | apply Keeps.foldlFst
    | (intro _; try dsimp only)

theorem execLeaseClaim_keeps {s0 s t : State} (h : Keeps k s0 s) (m : Master) (ld n : Nat) (ht : execLeaseClaim m ld n
    s = .next t) : Keeps k s0 t := by
  refine Keeps.answer h ?_ ht
  with_reducible repeat' first
    | assumption | apply State.asWrite_keeps | apply State.claim_keeps | apply Keeps.on | apply Keeps.each
    | apply Keeps.foldlFst | (intro _; try dsimp only)

theorem execLeaseRelease_keeps {s0 s t : State} (h : Keeps k s0 s) (m : Master) (ld n : Nat) (ht : execLeaseRelease m
    ld n s = .next t) : Keeps k s0 t := by
  refine Keeps.answer h ?_ ht
  with_reducible repeat' first
    | assumption | apply State.asWrite_keeps | apply State.release_keeps | apply Keeps.on | apply Keeps.each
    | apply Keeps.foldlFst | (intro _; try dsimp only)

theorem execWatchdogKick_keeps {s0 s t : State} (h : Keeps k s0 s) (m : Master) (ld : Nat) (ht : execWatchdogKick m ld
    s = .next t) : Keeps k s0 t := by
  refine Keeps.answer h ?_ ht
  with_reducible repeat' first
    | assumption | apply State.asWrite_keeps | apply State.put_keeps | apply Keeps.on | apply Keeps.each
    | apply Keeps.foldlFst | (intro _; try dsimp only)

theorem execWatchdogExpiry_keeps {s0 s t : State} (h : Keeps k s0 s) (ld : Nat) (ht : execWatchdogExpiry ld s = .next
    t) : Keeps k s0 t := by
  exact Keeps.answer h (State.fenceSv_keeps h ..) ht

theorem State.svRestarted_keeps {s0 s : State} (h : Keeps k s0 s) (ld : Nat) : Keeps k s0 (State.svRestarted s ld) := by
  unfold State.svRestarted
  with_reducible repeat' first
    | assumption | apply State.loadFw_keeps | apply State.moveLeases_keeps | apply State.put_keeps
    | apply State.unfence_keeps | apply State.setSv_keeps

theorem execSupervisorRestartDone_keeps {s0 s t : State} (h : Keeps k s0 s) (ld : Nat) (ht : execSupervisorRestartDone
    ld s = .next t) : Keeps k s0 t := by
  exact Keeps.answer h (State.svRestarted_keeps h ..) ht

theorem State.takeSafe_keeps {s0 s : State} (h : Keeps k s0 s) : Keeps k s0 (State.takeSafe s) := by
  unfold State.takeSafe
  try dsimp only
  with_reducible repeat' first
    | assumption | apply State.termsOff_keeps | apply Keeps.on | apply Keeps.each | apply Keeps.foldlFst
    | apply Keeps.ite | (intro _; try dsimp only) | split
    | (fail_if_no_progress apply State.mk_keeps)

theorem State.loseLogicDie_keeps {s0 s : State} (h : Keeps k s0 s) (hmem : k.mem = false) (ld : Nat) : Keeps k s0
    (State.loseLogicDie s ld) := by
  unfold State.loseLogicDie
  with_reducible repeat' first
    | assumption | apply State.fenceLogic_keeps | apply State.takeSafe_keeps | apply Keeps.on | apply Keeps.each
    | apply Keeps.foldlFst | apply Keeps.ite | (intro _; try dsimp only)

theorem execLogicDieLost_keeps {s0 s t : State} (h : Keeps k s0 s) (hmem : k.mem = false) (ld : Nat) (ht :
    execLogicDieLost ld s = .next t) : Keeps k s0 t := by
  exact Keeps.answer h (State.loseLogicDie_keeps h hmem ..) ht

/-! ### Machine/RegWrite.lean -/

theorem State.putFld_keeps {s0 s : State} (h : Keeps k s0 s) (f : Fld) (die idx v : Nat) : Keeps k s0 (State.putFld s
    f die idx v) := by
  unfold State.putFld
  with_reducible repeat' first
    | assumption | apply State.put_keeps | apply State.w1c_keeps | apply Keeps.on | apply Keeps.each
    | apply Keeps.foldlFst | apply Keeps.ite | (intro _; try dsimp only) | (split <;> try dsimp only)

theorem State.putWord_keeps {s0 s : State} (h : Keeps k s0 s) (r : Reg) (die idx v : Nat) : Keeps k s0 (State.putWord
    s r die idx v) := by
  unfold State.putWord
  with_reducible repeat' first
    | assumption | apply State.putFld_keeps | apply Keeps.on | apply Keeps.each | apply Keeps.foldlFst
    | (intro _; try dsimp only)

theorem State.either_keeps {s0 s : State} (h : Keeps k s0 s) (a b : Bool) {f g : State → State}
    (hf : ∀ s, Keeps k s0 s → Keeps k s0 (f s)) (hg : ∀ s, Keeps k s0 s → Keeps k s0 (g s)) : Keeps k s0 (s.either a b
      f g) := by
  unfold State.either
  try dsimp only
  repeat' (first
    | with_reducible assumption | with_reducible apply hf | with_reducible apply hg
    | with_reducible apply State.spend_keeps | with_reducible apply Keeps.ident | with_reducible apply Keeps.each
    | with_reducible apply Keeps.on | with_reducible apply Keeps.ite | with_reducible apply Keeps.foldl
    | with_reducible apply Keeps.foldlFst | (intro _; try dsimp only)
    )

theorem State.doWrite_keeps {s0 s : State} (h : Keeps k s0 s) (hmem : k.mem = false) (m : Master) (r : Reg) (die idx v
    be : Nat) : Keeps k s0 (State.doWrite s m r die idx v be) := by
  unfold State.doWrite
  try dsimp only
  with_reducible repeat' first
    | assumption | apply State.either_keeps | apply State.putWord_keeps | apply State.release_keeps
    | apply State.claim_keeps | apply State.ffreqClear_keeps | apply State.ffreqFence_keeps
    | apply State.freqClear_keeps | apply State.freqFence_keeps | apply State.writeMbctl_keeps
    | apply State.ringConf_keeps | apply State.frst_keeps | apply State.cellSet_keeps | apply State.setWin_keeps
    | apply State.vaultGo_keeps | apply State.vaultFeed_keeps | apply State.timerWord_keeps
    | apply State.setCode_keeps | apply State.frameSet_keeps | apply State.modeSet_keeps | apply State.shutdown_keeps
    | apply State.bistStart_keeps | apply State.otpRequest_keeps | apply State.otpRead_keeps
    | apply State.scanStop_keeps | apply State.scanStart_keeps | apply State.setSegments_keeps
    | apply State.setRot_keeps | apply State.crcFeed_keeps | apply State.startLane_keeps | apply State.cutBist_keeps
    | apply State.orFlags_keeps | apply State.spend_keeps | apply State.setTerm_keeps | apply State.put_keeps
    | apply Keeps.on | apply Keeps.each | apply Keeps.ite | (intro _; try dsimp only) | (split <;> try dsimp only)
    | (fail_if_no_progress apply State.mk_keeps)

theorem State.patchIds_keeps {s0 s : State} (h : Keeps k s0 s) (ld l : Nat) : Keeps k s0 (State.patchIds s ld l) := by
  exact h.upd rfl rfl rfl rfl rfl rfl rfl rfl rfl rfl rfl

theorem State.memWrite_keeps {s0 s : State} (h : Keeps k s0 s) (hmem : k.mem = false) (m : Master) (addr v be : Nat) :
    Keeps k s0 (State.memWrite s m addr v be).1 := by
  unfold State.memWrite
  try dsimp only
  with_reducible repeat' first
    | assumption | apply State.patchIds_keeps | apply State.clientErr_keeps | apply State.writeEnabled_keeps
    | apply State.spmStore_keeps | apply State.logErr_keeps | apply Keeps.ite | (intro _; try dsimp only)
    | (split <;> try dsimp only)

theorem State.busWrite_keeps {s0 s : State} (h : Keeps k s0 s) (hmem : k.mem = false) (m : Master) (addr v be : Nat) :
    Keeps k s0 (State.busWrite s m addr v be).1 := by
  unfold State.busWrite
  try dsimp only
  with_reducible repeat' first
    | assumption | apply State.memWrite_keeps | apply State.doWrite_keeps | apply State.logErr_keeps
    | apply State.put_keeps | apply Keeps.on | apply Keeps.ite | (intro _; try dsimp only)
    | (split <;> try dsimp only)

theorem State.present_keeps {s0 s : State} (h : Keeps k s0 s) (r : Reg) (die idx : Nat) : Keeps k s0 (State.present s
    r die idx) := by
  unfold State.present
  with_reducible repeat' first
    | assumption | apply State.settle_keeps | apply State.readPos_keeps | apply State.spend_keeps
    | apply State.put_keeps | apply State.tillerAt_keeps | apply State.scanWords_keeps | apply Keeps.on
    | apply Keeps.each | apply Keeps.foldlFst | apply Keeps.ite | (intro _; try dsimp only) | (split <;> try dsimp only)

theorem State.readTnum1_keeps {s0 s : State} (h : Keeps k s0 s) (die : Nat) (m : Master) : Keeps k s0 (State.readTnum1
    s die m).1 := by
  unfold State.readTnum1
  try dsimp only
  with_reducible repeat' first
    | assumption | apply Keeps.on | apply Keeps.each | apply Keeps.foldlFst | apply Keeps.ite
    | intro _ | (split <;> try dsimp only) | (fail_if_no_progress apply State.mk_keeps)

theorem State.busRead_keeps {s0 s : State} (h : Keeps k s0 s) (m : Master) (addr : Nat) : Keeps k s0 (State.busRead s
    m addr).1 := by
  unfold State.busRead
  try dsimp only
  with_reducible repeat' first
    | assumption | apply State.readTnum1_keeps | apply State.present_keeps | apply State.clientErr_keeps
    | apply State.readTnum_keeps | apply State.capRead_keeps | apply State.spmLoad_keeps | apply State.logErr_keeps
    | apply Keeps.ite | (intro _; try dsimp only) | (split <;> try dsimp only)

theorem execRegisterWrite_keeps {s0 s t : State} (h : Keeps k s0 s) (hmem : k.mem = false) (m : Master) (addr :
    Nat) (d : BusData) (same : Nat) (ht : execRegisterWrite m addr d same s = .next t) : Keeps k s0 t := by
  refine Keeps.answer h ?_ ht
  with_reducible repeat' first | assumption | apply State.busWrite_keeps | apply State.respond_keeps

/-! ### Machine/Image.lean -/

theorem State.loadLogic_keeps {s0 s : State} (h : Keeps k s0 s) : Keeps k s0 (State.loadLogic s) := by
  unfold State.loadLogic
  with_reducible repeat' first
    | assumption | apply State.setRuns_keeps | apply State.loadRecs_keeps | apply Keeps.on | apply Keeps.each
    | apply Keeps.foldlFst | (intro _; try dsimp only)

theorem State.placeLanes_keeps {s0 s : State} (h : Keeps k s0 s) (ld : Nat) : Keeps k s0 (State.placeLanes s ld) := by
  unfold State.placeLanes
  try dsimp only
  with_reducible repeat' first
    | assumption | apply State.remap_keeps | apply State.fenceInst_keeps | apply State.put_keeps | apply Keeps.on
    | apply Keeps.each | (intro _; try dsimp only) | (split <;> try dsimp only)

theorem State.startUp_keeps {s0 s : State} (h : Keeps k s0 s) : Keeps k s0 (State.startUp s) := by
  unfold State.startUp
  with_reducible repeat' first
    | assumption | apply State.ringConf_keeps | apply Keeps.on | apply Keeps.each | apply Keeps.foldlFst
    | (intro _; try dsimp only)

theorem State.adoptLogic_keeps {s0 s : State} (h : Keeps k s0 s) (himage : k.image = false) (i : RunImage) : Keeps k
    s0 (State.adoptLogic s i) := by
  unfold State.adoptLogic
  try dsimp only
  repeat' (first
    | with_reducible assumption | with_reducible apply State.loadLogic_keeps
    | with_reducible apply State.setRuns_keeps | with_reducible apply State.placeLanes_keeps
    | with_reducible apply Keeps.ident | with_reducible apply Keeps.each | with_reducible apply Keeps.on
    | with_reducible apply Keeps.ite | with_reducible apply Keeps.foldl | with_reducible apply Keeps.foldlFst
    | (intro _; try dsimp only) | with_reducible refine Keeps.fst ‹_ = (_, _)› ?_
    | with_reducible refine Keeps.fst3 ‹_ = (_, _, _)› ?_ | split
    | (fail_if_no_progress (with_reducible apply State.mk_keeps)) | with_reducible apply State.mkImage_keeps)

theorem State.adoptImage_keeps {s0 s : State} (h : Keeps k s0 s) (himage : k.image = false) (i : RunImage) : Keeps k
    s0 (State.adoptImage s i) := by
  unfold State.adoptImage
  with_reducible repeat' first
    | assumption | apply State.adoptLogic_keeps | apply State.startUp_keeps | apply State.loadField_keeps
    | apply Keeps.on | apply Keeps.each | apply Keeps.foldlFst | (intro _; try dsimp only)

/-! ### Machine/Serve.lean -/

theorem State.authorise_keeps {s0 s : State} (h : Keeps k s0 s) (hflash : k.flash = false) (mb : Nat) (q : Req) (r :
    OpRow) : Keeps k s0 (State.authorise s mb q r).1 := by
  unfold State.authorise
  with_reducible repeat' first
    | assumption | apply State.putCounter_keeps | apply Keeps.on | apply Keeps.each | apply Keeps.foldlFst
    | apply Keeps.ite | intro _ | (split <;> try dsimp only)

theorem refused_keeps {s0 s : State} (h : Keeps k s0 s) (status : Nat) : Keeps k s0 (refused s status).st := by
  exact h.upd rfl rfl rfl rfl rfl rfl rfl rfl rfl rfl rfl

theorem done_keeps {s0 s : State} (h : Keeps k s0 s) (payload : List Byte) : Keeps k s0 (done s payload).st := by
  exact h.upd rfl rfl rfl rfl rfl rfl rfl rfl rfl rfl rfl

theorem State.reply_keeps {s0 s : State} (h : Keeps k s0 s) (hmem : k.mem = false) (ld mb : Nat) (q : Req) (status :
    Nat) (payload : List Byte) : Keeps k s0 (State.reply s ld mb q status payload) := by
  exact State.mbRespond_keeps h hmem ..

theorem State.answerReq_keeps {s0 s : State} (h : Keeps k s0 s) (hflash : k.flash = false) (mb sv : Nat) (q : Req)
    (len : List Byte → Bool)
    {f : State → List Byte → Reply} (hf : ∀ s p, Keeps k s0 s → Keeps k s0 (f s p).st) : Keeps k s0 (s.answerReq mb sv
      q len f).st := by
  unfold State.answerReq
  have ha : ∀ r, Keeps k s0 (s.authorise mb q r).1 := fun r => State.authorise_keeps h hflash mb q r
  split
  · exact h
  · dsimp only
    split_ifs <;> first | exact h | exact ha _ | exact hf _ _ (ha _)
  repeat' (first
    | with_reducible assumption | with_reducible apply refused_keeps | with_reducible apply State.authorise_keeps
    | with_reducible apply Keeps.ident | with_reducible apply Keeps.each | with_reducible apply Keeps.on
    | with_reducible apply Keeps.ite | with_reducible apply Keeps.foldl | with_reducible apply Keeps.foldlFst
    | (intro _; try dsimp only) | with_reducible refine Keeps.fst ‹_ = (_, _)› ?_
    | with_reducible refine Keeps.fst3 ‹_ = (_, _, _)› ?_ | (split <;> try dsimp only)
    | (fail_if_no_progress (with_reducible apply State.mk_keeps)))

theorem State.serve_keeps {s0 s : State} (h : Keeps k s0 s) (hmem : k.mem = false) (hflash : k.flash = false) (ld mb :
    Nat) (len : List Byte → Bool) {f : Nat → Nat → State → List Byte → Reply}
    {after : State → State} (hf : ∀ sv tag s p, Keeps k s0 s → Keeps k s0 (f sv tag s p).st)
    (ha : ∀ s, Keeps k s0 s → Keeps k s0 (after s)) : Keeps k s0 (s.serve ld mb len f after) := by
  unfold State.serve
  try dsimp only
  repeat' (first
    | with_reducible assumption | with_reducible apply hf | with_reducible apply ha
    | with_reducible apply State.reply_keeps | with_reducible apply State.mbFinish_keeps
    | with_reducible apply State.answerReq_keeps | with_reducible apply Keeps.ident
    | with_reducible apply Keeps.each | with_reducible apply Keeps.on | with_reducible apply Keeps.ite
    | with_reducible apply Keeps.foldl | with_reducible apply Keeps.foldlFst | (intro _; try dsimp only)
    | with_reducible refine Keeps.fst ‹_ = (_, _)› ?_ | with_reducible refine Keeps.fst3 ‹_ = (_, _, _)› ?_
    | (split <;> try dsimp only))

theorem State.command_keeps {s0 s t : State} (h : Keeps k s0 s) (hmem : k.mem = false) (hflash : k.flash = false) (ld
    mb op : Nat) (sub : Bool) (len : List Byte → Bool)
    {f : Nat → Nat → State → List Byte → Reply} {after : State → State}
    (ht : s.command ld mb op sub len f after = .next t) (hf : ∀ sv tag s p, Keeps k s0 s → Keeps k s0 (f sv tag s p).st)
    (ha : ∀ s, Keeps k s0 s → Keeps k s0 (after s)) : Keeps k s0 t := by
  refine Keeps.answer h ?_ ht
  with_reducible repeat' first | assumption | apply State.serve_keeps

theorem State.startJob_keeps {s0 s : State} (h : Keeps k s0 s) (ld sv e op tag : Nat) : Keeps k s0 (State.startJob s
    ld sv e op tag).1 := by
  unfold State.startJob
  try dsimp only
  with_reducible repeat' first
    | assumption | apply State.setSv_keeps | apply State.setJob_keeps

theorem State.asJob_keeps {s0 s : State} (h : Keeps k s0 s) (ld sv op tag : Nat) {f : State → Nat → State} (hf0 : ∀ s
    y1, Keeps k s0 s → Keeps k s0 (f s y1)) : Keeps k s0 (State.asJob s ld sv op tag f).st := by
  unfold State.asJob
  try dsimp only
  with_reducible repeat' first
    | assumption | apply hf0 | apply State.startJob_keeps | apply refused_keeps | (split <;> try dsimp only)

theorem State.readRun_keeps {s0 s : State} (h : Keeps k s0 s) (m : Master) (addr n : Nat) : Keeps k s0 (s.readRun m
    addr n).1 := by
  induction n generalizing addr s with
  | zero => exact h
  | succ n ih =>
    have hr := State.busRead_keeps h m addr
    unfold State.readRun
    dsimp only
    split_ifs
    · exact hr
    · exact ih hr _

/-! ### Machine/ConfigCommands.lean -/

theorem State.configBegin_keeps {s0 s : State} (h : Keeps k s0 s) (p : List Byte) : Keeps k s0 (State.configBegin s
    p).st := by
  unfold State.configBegin
  try dsimp only
  with_reducible repeat' first
    | assumption | apply refused_keeps | apply done_keeps | apply Keeps.on | apply Keeps.each | apply Keeps.foldlFst
    | apply Keeps.ite | intro _ | (split <;> try dsimp only)
    | (fail_if_no_progress apply State.mk_keeps)

theorem execConfigBegin_keeps {s0 s t : State} (h : Keeps k s0 s) (hmem : k.mem = false) (hflash : k.flash = false)
    (ld mb : Nat) (ht : execConfigBegin ld mb s = .next t) : Keeps k s0 t := by
  refine State.command_keeps h hmem hflash _ _ _ _ _ ht ?_ ?_ <;> with_reducible repeat' first
    | assumption | apply State.configBegin_keeps | apply Keeps.ident | (intro _; try dsimp only)

theorem State.configChunk_keeps {s0 s : State} (h : Keeps k s0 s) (p : List Byte) : Keeps k s0 (State.configChunk s
    p).st := by
  unfold State.configChunk
  try dsimp only
  with_reducible repeat' first
    | assumption | apply refused_keeps | apply done_keeps | apply Keeps.on | apply Keeps.each | apply Keeps.foldlFst
    | apply Keeps.ite | intro _ | (split <;> try dsimp only)
    | (fail_if_no_progress apply State.mk_keeps)

theorem execConfigChunk_keeps {s0 s t : State} (h : Keeps k s0 s) (hmem : k.mem = false) (hflash : k.flash = false)
    (ld mb : Nat) (ht : execConfigChunk ld mb s = .next t) : Keeps k s0 t := by
  refine State.command_keeps h hmem hflash _ _ _ _ _ ht ?_ ?_ <;> with_reducible repeat' first
    | assumption | apply State.configChunk_keeps | apply Keeps.ident | (intro _; try dsimp only)

theorem State.flashWrite_keeps {s0 s : State} (h : Keeps k s0 s) (hflash : k.flash = false) (a : Nat) (bs : List Byte)
    : Keeps k s0 (State.flashWrite s a bs).1 := by
  unfold State.flashWrite
  with_reducible repeat' first
    | assumption | apply State.spend_keeps | apply State.setFlash_keeps | apply Keeps.on | apply Keeps.each
    | apply Keeps.foldlFst | apply Keeps.ite | intro _ | (split <;> try dsimp only)

theorem State.commitSwitch_keeps {s0 s : State} (h : Keeps k s0 s) (himage : k.image = false) (ld e x3 : Nat) (x4 :
    Transfer) : Keeps k s0 (State.commitSwitch s ld e x3 x4) := by
  unfold State.commitSwitch
  try dsimp only
  with_reducible repeat' first
    | assumption | apply State.endJob_keeps | apply State.adoptImage_keeps | apply Keeps.on | apply Keeps.each
    | apply Keeps.foldlFst | apply Keeps.ite | (intro _; try dsimp only) | (split <;> try dsimp only)
    | (fail_if_no_progress apply State.mk_keeps)

theorem State.commitJob_keeps {s0 s : State} (h : Keeps k s0 s) (hflash : k.flash = false) (himage : k.image = false)
    (ld e : Nat) : Keeps k s0 (State.commitJob s ld e) := by
  unfold State.commitJob
  try dsimp only
  with_reducible repeat' first
    | assumption | apply State.endJob_keeps | apply State.spend_keeps | apply State.flashWrite_keeps
    | apply State.commitSwitch_keeps | apply State.writeRecord_keeps | apply Keeps.on | apply Keeps.each
    | apply Keeps.foldlFst | apply Keeps.ite | (intro _; try dsimp only) | split
    | (fail_if_no_progress apply State.mk_keeps)

theorem State.configCommit_keeps {s0 s : State} (h : Keeps k s0 s) (hflash : k.flash = false) (himage : k.image =
    false) (ld sv tag : Nat) (p : List Byte) : Keeps k s0 (State.configCommit s ld sv tag p).st := by
  unfold State.configCommit
  try dsimp only
  with_reducible repeat' first
    | assumption | apply State.commitJob_keeps | apply State.asJob_keeps | apply refused_keeps | apply Keeps.ite
    | (intro _; try dsimp only) | (split <;> try dsimp only)

theorem execConfigCommit_keeps {s0 s t : State} (h : Keeps k s0 s) (hmem : k.mem = false) (hflash : k.flash = false)
    (himage : k.image = false) (ld mb : Nat) (ht : execConfigCommit ld mb s = .next t) : Keeps k s0 t := by
  refine State.command_keeps h hmem hflash _ _ _ _ _ ht ?_ ?_ <;> with_reducible repeat' first
    | assumption | apply State.configCommit_keeps | apply Keeps.ident | (intro _; try dsimp only)

theorem State.commission_keeps {s0 s : State} (h : Keeps k s0 s) (hflash : k.flash = false) (himage : k.image = false)
    : Keeps k s0 (State.commission s) := by
  unfold State.commission
  try dsimp only
  repeat' (first
    | with_reducible assumption | with_reducible apply State.writeRecord_keeps
    | with_reducible apply State.setReadmit_keeps | with_reducible apply Keeps.ident
    | with_reducible apply Keeps.each | with_reducible apply Keeps.on | with_reducible apply Keeps.ite
    | with_reducible apply Keeps.foldl | with_reducible apply Keeps.foldlFst | (intro _; try dsimp only)
    | with_reducible refine Keeps.fst ‹_ = (_, _)› ?_ | with_reducible refine Keeps.fst3 ‹_ = (_, _, _)› ?_
    | split | (fail_if_no_progress (with_reducible apply State.mk_keeps))
    | with_reducible apply State.mkImage_keeps)

theorem State.commissionAck_keeps {s0 s : State} (h : Keeps k s0 s) (hflash : k.flash = false) (himage : k.image =
    false) (p : List Byte) : Keeps k s0 (State.commissionAck s p).st := by
  unfold State.commissionAck
  with_reducible repeat' first
    | assumption | apply refused_keeps | apply done_keeps | apply State.commission_keeps | apply Keeps.on
    | apply Keeps.each | apply Keeps.foldlFst | apply Keeps.ite | intro _ | (split <;> try dsimp only)

theorem execCommissionAck_keeps {s0 s t : State} (h : Keeps k s0 s) (hmem : k.mem = false) (hflash : k.flash = false)
    (himage : k.image = false) (ld mb : Nat) (ht : execCommissionAck ld mb s = .next t) : Keeps k s0 t := by
  refine State.command_keeps h hmem hflash _ _ _ _ _ ht ?_ ?_ <;> with_reducible repeat' first
    | assumption | apply State.commissionAck_keeps | apply Keeps.ident | (intro _; try dsimp only)

theorem State.fwOpen_keeps {s0 s : State} (h : Keeps k s0 s) (p : List Byte) : Keeps k s0 (State.fwOpen s p).st := by
  unfold State.fwOpen
  try dsimp only
  with_reducible repeat' first
    | assumption | apply refused_keeps | apply done_keeps | apply Keeps.on | apply Keeps.each | apply Keeps.foldlFst
    | apply Keeps.ite | intro _ | (split <;> try dsimp only)
    | (fail_if_no_progress apply State.mk_keeps)

theorem execFwStageOpen_keeps {s0 s t : State} (h : Keeps k s0 s) (hmem : k.mem = false) (hflash : k.flash = false)
    (ld mb : Nat) (ht : execFwStageOpen ld mb s = .next t) : Keeps k s0 t := by
  refine State.command_keeps h hmem hflash _ _ _ _ _ ht ?_ ?_ <;> with_reducible repeat' first
    | assumption | apply State.fwOpen_keeps | apply Keeps.ident | (intro _; try dsimp only)

theorem State.fwData_keeps {s0 s : State} (h : Keeps k s0 s) (p : List Byte) : Keeps k s0 (State.fwData s p).st := by
  unfold State.fwData
  try dsimp only
  with_reducible repeat' first
    | assumption | apply refused_keeps | apply done_keeps | apply Keeps.on | apply Keeps.each | apply Keeps.foldlFst
    | apply Keeps.ite | intro _ | (split <;> try dsimp only)
    | (fail_if_no_progress apply State.mk_keeps)

theorem execFwStageData_keeps {s0 s t : State} (h : Keeps k s0 s) (hmem : k.mem = false) (hflash : k.flash = false)
    (ld mb : Nat) (ht : execFwStageData ld mb s = .next t) : Keeps k s0 t := by
  refine State.command_keeps h hmem hflash _ _ _ _ _ ht ?_ ?_ <;> with_reducible repeat' first
    | assumption | apply State.fwData_keeps | apply Keeps.ident | (intro _; try dsimp only)

theorem State.fwClose_keeps {s0 s : State} (h : Keeps k s0 s) (hflash : k.flash = false) (ld sv e : Nat) : Keeps k s0
    (State.fwClose s ld sv e) := by
  unfold State.fwClose
  try dsimp only
  with_reducible repeat' first
    | assumption | apply State.endJob_keeps | apply State.spend_keeps | apply State.flashWrite_keeps
    | apply Keeps.on | apply Keeps.each | apply Keeps.foldlFst | apply Keeps.ite | (intro _; try dsimp only)
    | split | (fail_if_no_progress apply State.mk_keeps)

theorem State.fwCloseReq_keeps {s0 s : State} (h : Keeps k s0 s) (hflash : k.flash = false) (ld sv tag : Nat) (p :
    List Byte) : Keeps k s0 (State.fwCloseReq s ld sv tag p).st := by
  unfold State.fwCloseReq
  try dsimp only
  with_reducible repeat' first
    | assumption | apply State.fwClose_keeps | apply State.asJob_keeps | apply refused_keeps | apply Keeps.ite
    | (intro _; try dsimp only) | (split <;> try dsimp only)

theorem execFwStageClose_keeps {s0 s t : State} (h : Keeps k s0 s) (hmem : k.mem = false) (hflash : k.flash = false)
    (ld mb : Nat) (ht : execFwStageClose ld mb s = .next t) : Keeps k s0 t := by
  refine State.command_keeps h hmem hflash _ _ _ _ _ ht ?_ ?_ <;> with_reducible repeat' first
    | assumption | apply State.fwCloseReq_keeps | apply Keeps.ident | (intro _; try dsimp only)

theorem State.hoRestart_keeps {s0 s : State} (h : Keeps k s0 s) (p : List Byte) : Keeps k s0 (State.hoRestart s p).st
    := by
  unfold State.hoRestart
  dsimp only
  with_reducible repeat' first
    | assumption | apply refused_keeps | apply done_keeps | apply Keeps.on | apply Keeps.each | apply Keeps.foldlFst
    | apply Keeps.ite | intro _ | (split <;> try dsimp only)

theorem State.serveHoRestart_keeps {s0 s : State} (h : Keeps k s0 s) (hmem : k.mem = false) (hflash : k.flash = false)
    (ld mb : Nat) : Keeps k s0 (State.serveHoRestart s ld mb) := by
  unfold State.serveHoRestart
  try dsimp only
  repeat' (first
    | with_reducible assumption | with_reducible apply State.serve_keeps
    | with_reducible apply State.hoRestart_keeps | with_reducible apply Keeps.ident
    | with_reducible apply Keeps.each | with_reducible apply Keeps.on | with_reducible apply Keeps.ite
    | with_reducible apply Keeps.foldl | with_reducible apply Keeps.foldlFst | (intro _; try dsimp only)
    )

theorem execHoRestart_keeps {s0 s t : State} (h : Keeps k s0 s) (hmem : k.mem = false) (hflash : k.flash = false) (ld
    mb : Nat) (ht : execHoRestart ld mb s = .next t) : Keeps k s0 t := by
  exact Keeps.answer h (State.serveHoRestart_keeps h hmem hflash ..) ht

theorem State.hoDone_keeps {s0 s : State} (h : Keeps k s0 s) : Keeps k s0 (State.hoDone s).st := by
  unfold State.hoDone
  with_reducible repeat' first | assumption | apply done_keeps | apply State.moveLeases_keeps

theorem execHoDone_keeps {s0 s t : State} (h : Keeps k s0 s) (hmem : k.mem = false) (hflash : k.flash = false) (ld mb
    : Nat) (ht : execHoDone ld mb s = .next t) : Keeps k s0 t := by
  refine State.command_keeps h hmem hflash _ _ _ _ _ ht ?_ ?_ <;> with_reducible repeat' first
    | assumption | apply State.hoDone_keeps | apply Keeps.ident | (intro _; try dsimp only)

theorem State.sendHoRestart_keeps {s0 s : State} (h : Keeps k s0 s) (hmem : k.mem = false) (hflash : k.flash = false)
    (ld : Nat) : Keeps k s0 (State.sendHoRestart s ld).1 := by
  unfold State.sendHoRestart
  try dsimp only
  with_reducible repeat' first
    | assumption | apply State.serveHoRestart_keeps | apply State.wardenReply_keeps | apply State.mbAck_keeps
    | apply State.mbRing_keeps | apply State.clientErr_keeps | apply State.setBytes_keeps | apply Keeps.ite
    | (intro _; try dsimp only) | (split <;> try dsimp only)

theorem State.restartSv_keeps {s0 s : State} (h : Keeps k s0 s) (ld : Nat) : Keeps k s0 (State.restartSv s ld) := by
  unfold State.restartSv
  with_reducible repeat' first | assumption | apply State.stopSv_keeps | apply State.setSv_keeps

theorem State.activate_keeps {s0 s : State} (h : Keeps k s0 s) (hflash : k.flash = false) (ver : Nat) : Keeps k s0
    (State.activate s ver) := by
  unfold State.activate
  try dsimp only
  with_reducible repeat' first
    | assumption | apply State.writeRecord_keeps | apply Keeps.on | apply Keeps.each | apply Keeps.foldlFst
    | apply Keeps.ite | intro _ | split
    | (fail_if_no_progress apply State.mk_keeps)

theorem State.fwActivate_keeps {s0 s : State} (h : Keeps k s0 s) (hmem : k.mem = false) (hflash : k.flash = false) (ld
    : Nat) (p : List Byte) : Keeps k s0 (State.fwActivate s ld p).st := by
  unfold State.fwActivate
  with_reducible repeat' first
    | assumption | apply refused_keeps | apply State.sendHoRestart_keeps | apply done_keeps
    | apply State.activate_keeps | apply Keeps.on | apply Keeps.each | apply Keeps.foldlFst | apply Keeps.ite
    | intro _ | (split <;> try dsimp only)

theorem execFwActivate_keeps {s0 s t : State} (h : Keeps k s0 s) (hmem : k.mem = false) (hflash : k.flash = false) (ld
    mb : Nat) (ht : execFwActivate ld mb s = .next t) : Keeps k s0 t := by
  refine State.command_keeps h hmem hflash _ _ _ _ _ ht ?_ ?_ <;> with_reducible repeat' first
    | assumption | apply State.fwActivate_keeps | apply State.restartSv_keeps | apply Keeps.ident
    | (intro _; try dsimp only)

theorem State.prepareLane_keeps {s0 s : State} (h : Keeps k s0 s) (sd sl : Nat) (td tl : Nat) : Keeps k s0
    (State.prepareLane s sd sl td tl) := by
  exact h.upd rfl rfl rfl rfl rfl rfl rfl rfl rfl rfl rfl

theorem State.laneMigrate_keeps {s0 s : State} (h : Keeps k s0 s) (ld sv tag : Nat) (p : List Byte) : Keeps k s0
    (State.laneMigrate s ld sv tag p).st := by
  unfold State.laneMigrate
  try dsimp only
  with_reducible repeat' first
    | assumption | apply State.prepareLane_keeps | apply State.asJob_keeps | apply refused_keeps | apply Keeps.ite
    | (intro _; try dsimp only) | (split <;> try dsimp only) | (fail_if_no_progress apply State.mk_keeps)

theorem execLaneMigrate_keeps {s0 s t : State} (h : Keeps k s0 s) (hmem : k.mem = false) (hflash : k.flash = false)
    (ld mb : Nat) (ht : execLaneMigrate ld mb s = .next t) : Keeps k s0 t := by
  refine State.command_keeps h hmem hflash _ _ _ _ _ ht ?_ ?_ <;> with_reducible repeat' first
    | assumption | apply State.laneMigrate_keeps | apply Keeps.ident | (intro _; try dsimp only)

theorem State.swapFenced_keeps {s0 s : State} (h : Keeps k s0 s) (fd a b : Nat) : Keeps k s0 (State.swapFenced s fd a
    b) := by
  unfold State.swapFenced
  with_reducible repeat' first
    | assumption | apply State.put_keeps | apply State.dropCell_keeps | apply State.mapCell_keeps
    | apply State.copyCell_keeps | apply State.setReadmit_keeps | apply Keeps.on | apply Keeps.each
    | apply Keeps.foldlFst | apply Keeps.ite | intro _ | (split <;> try dsimp only)

theorem State.cellSwap_keeps {s0 s : State} (h : Keeps k s0 s) (ld sv tag : Nat) (p : List Byte) : Keeps k s0
    (State.cellSwap s ld sv tag p).st := by
  unfold State.cellSwap
  try dsimp only
  with_reducible repeat' first
    | assumption | apply State.swapFenced_keeps | apply State.asJob_keeps | apply refused_keeps
    | apply State.endJob_keeps | apply Keeps.ite | (intro _; try dsimp only) | (split <;> try dsimp only)
    | (fail_if_no_progress apply State.mk_keeps)

theorem execCellSwap_keeps {s0 s t : State} (h : Keeps k s0 s) (hmem : k.mem = false) (hflash : k.flash = false) (ld
    mb : Nat) (ht : execCellSwap ld mb s = .next t) : Keeps k s0 t := by
  refine State.command_keeps h hmem hflash _ _ _ _ _ ht ?_ ?_ <;> with_reducible repeat' first
    | assumption | apply State.cellSwap_keeps | apply Keeps.ident | (intro _; try dsimp only)

/-! ### Machine/Deliver.lean -/

theorem State.remoteRequest_keeps {s0 s : State} (h : Keeps k s0 s) (hmem : k.mem = false) (ld : Nat) (f :
    ServiceFrame) : Keeps k s0 (State.remoteRequest s ld f) := by
  unfold State.remoteRequest
  try dsimp only
  with_reducible repeat' first
    | assumption | apply State.reply_keeps | apply State.mbRing_keeps | apply State.originate_keeps
    | apply State.setBytes_keeps | apply State.setRem_keeps | apply State.put_keeps | apply Keeps.on | apply Keeps.ite
    | (intro _; try dsimp only)

theorem State.bulkFrame_keeps {s0 s : State} (h : Keeps k s0 s) (f : ServiceFrame) : Keeps k s0 (State.bulkFrame s f)
    := by
  unfold State.bulkFrame
  try dsimp only
  with_reducible repeat' first
    | assumption | apply Keeps.on | apply Keeps.each | apply Keeps.foldlFst | apply Keeps.ite
    | (intro _; try dsimp only) | split | (fail_if_no_progress apply State.mk_keeps)

theorem State.diagRequest_keeps {s0 s : State} (h : Keeps k s0 s) (ld : Nat) (f : ServiceFrame) : Keeps k s0
    (State.diagRequest s ld f) := by
  unfold State.diagRequest
  with_reducible repeat' first
    | assumption | apply State.originate_keeps | apply Keeps.on | apply Keeps.each | apply Keeps.foldlFst
    | (intro _; try dsimp only)

theorem State.svDeliver_keeps {s0 s : State} (h : Keeps k s0 s) (hmem : k.mem = false) (ld : Nat) (f : ServiceFrame) :
    Keeps k s0 (State.svDeliver s ld f) := by
  unfold State.svDeliver
  with_reducible repeat' first
    | assumption | apply State.remoteRequest_keeps | apply State.bulkFrame_keeps | apply State.diagRequest_keeps
    | apply Keeps.on | apply Keeps.each | apply Keeps.foldlFst | apply Keeps.ite | intro _
    | (split <;> try dsimp only)

theorem State.svTake_keeps {s0 s : State} (h : Keeps k s0 s) (hmem : k.mem = false) (ld p : Nat) (f : ServiceFrame) :
    Keeps k s0 (State.svTake s ld p f) := by
  unfold State.svTake
  with_reducible repeat' first
    | assumption | apply State.svSeen_keeps | apply State.svDeliver_keeps | apply State.svForward_keeps
    | apply Keeps.on | apply Keeps.each | apply Keeps.foldlFst | (intro _; try dsimp only)

theorem State.svReceive_keeps {s0 s : State} (h : Keeps k s0 s) (hmem : k.mem = false) (ld p : Nat) (f : ServiceFrame)
    (a : Arrival) : Keeps k s0 (State.svReceive s ld p f a) := by
  unfold State.svReceive
  with_reducible repeat' first
    | assumption | apply State.countFilter_keeps | apply State.count_keeps | apply State.countWrap_keeps
    | apply State.svTake_keeps | apply Keeps.on | apply Keeps.each | apply Keeps.foldlFst | apply Keeps.ite
    | (intro _; try dsimp only)

theorem State.svRow_keeps {s0 s t : State} (h : Keeps k s0 s) (hmem : k.mem = false) (ld p : Nat) (f : ServiceFrame)
    (a : Arrival) (is : Bool) (ht : State.svRow s ld p f a is = .next t) : Keeps k s0 t := by
  exact Keeps.answer h (State.svReceive_keeps h hmem ..) ht

theorem execServiceFrameForward_keeps {s0 s t : State} (h : Keeps k s0 s) (hmem : k.mem = false) (ld p : Nat) (f :
    ServiceFrame) (a : Arrival) (ht : execServiceFrameForward ld p f a s = .next t) : Keeps k s0 t := by
  exact State.svRow_keeps h hmem _ _ _ _ _ ht

theorem execRemoteMailboxRequest_keeps {s0 s t : State} (h : Keeps k s0 s) (hmem : k.mem = false) (ld p : Nat) (f :
    ServiceFrame) (a : Arrival) (ht : execRemoteMailboxRequest ld p f a s = .next t) : Keeps k s0 t := by
  exact State.svRow_keeps h hmem _ _ _ _ _ ht

theorem execBulkTransfer_keeps {s0 s t : State} (h : Keeps k s0 s) (hmem : k.mem = false) (ld p : Nat) (f :
    ServiceFrame) (a : Arrival) (ht : execBulkTransfer ld p f a s = .next t) : Keeps k s0 t := by
  exact State.svRow_keeps h hmem _ _ _ _ _ ht

theorem execDiagnosticsRequest_keeps {s0 s t : State} (h : Keeps k s0 s) (hmem : k.mem = false) (ld p : Nat) (f :
    ServiceFrame) (a : Arrival) (ht : execDiagnosticsRequest ld p f a s = .next t) : Keeps k s0 t := by
  exact State.svRow_keeps h hmem _ _ _ _ _ ht

/-! ### Machine/Boot.lean -/

theorem State.hold_keeps {s0 s : State} (h : Keeps k s0 s) : Keeps k s0 (State.hold s) := by
  unfold State.hold
  try dsimp only
  with_reducible repeat' first
    | assumption | apply State.termsOff_keeps | apply State.put_keeps | apply State.pcsSync_keeps | apply Keeps.on
    | apply Keeps.each | apply Keeps.foldlFst | apply Keeps.ite | (intro _; try dsimp only)
    | split | (fail_if_no_progress apply State.mk_keeps)

theorem State.resetLogicRegs_keeps {s0 s : State} (h : Keeps k s0 s) (cause : Nat) : Keeps k s0 (State.resetLogicRegs
    s cause) := by
  unfold State.resetLogicRegs
  with_reducible repeat' first
    | assumption | apply State.resetDie_keeps | apply State.put_keeps | apply Keeps.on | apply Keeps.each
    | apply Keeps.foldlFst | (intro _; try dsimp only)

theorem State.cutOtp_keeps {s0 s : State} (h : Keeps k s0 s) (hotp : k.otp = false) : Keeps k s0 (State.cutOtp s) := by
  unfold State.cutOtp
  with_reducible repeat' first
    | assumption | apply State.spend_keeps | apply State.setOtp_keeps | apply Keeps.on | apply Keeps.each
    | apply Keeps.foldlFst | (intro _; try dsimp only)

theorem State.bootReset_keeps {s0 s : State} (h : Keeps k s0 s) (fd : Nat) : Keeps k s0 (State.bootReset s fd) := by
  unfold State.bootReset
  try dsimp only
  with_reducible repeat' first
    | assumption | apply State.resetField_keeps | apply State.setField_keeps


theorem State.resetFields_keeps {s0 s : State} (h : Keeps k s0 s) : Keeps k s0 (State.resetFields s) := by
  unfold State.resetFields
  try dsimp only
  with_reducible repeat' first
    | assumption | apply State.bootReset_keeps | apply Keeps.each | (intro _; try dsimp only)

theorem State.bistReset_keeps {s0 s t : State} (h : Keeps k s0 t) : Keeps k s0 (State.bistReset s t) := by
  unfold State.bistReset
  try dsimp only
  with_reducible repeat' first | assumption | apply State.put_keeps | apply Keeps.each | (intro _; try dsimp only)

theorem State.resetPart_keeps {s0 s : State} (h : Keeps k s0 s) (hmem : k.mem = false) (hotp : k.otp = false) (htick :
    k.tick = false) (himage : k.image = false) (cause : Nat) : Keeps k s0 (s.resetPart cause) := by
  unfold State.resetPart
  have hr : Keeps k s0 ((s.cutOtp.resetLogicRegs cause).resetFields) := State.resetFields_keeps
    (State.resetLogicRegs_keeps (State.cutOtp_keeps h hotp) cause)
  generalize (s.cutOtp.resetLogicRegs cause).resetFields = r at hr ⊢
  dsimp only
  refine Keeps.on (fun s h => State.count_keeps (State.bistReset_keeps h) _ _ _)
    (State.putB_keeps (State.put_keeps (hr.trans ?_) _ _ _ _) _ _ _ _)
  exact ⟨fun hi => ⟨⟨rfl, hi.mem.2.1, rfl, hi.mem.2.2.2⟩, hi.otp, fun _ => Nat.zero_le _⟩, OtpGrows.refl r, rfl, rfl,
    rfl, le_refl _, fun e => absurd (hmem.symm.trans e) (by simp), fun _ => rfl, fun _ => rfl, fun e => absurd
    (htick.symm.trans e) (by simp), fun e => absurd (himage.symm.trans e) (by simp)⟩

theorem State.bootAon_keeps {s0 s : State} (h : Keeps k s0 s) (b : BootIn) : Keeps k s0 (State.bootAon s b) := by
  unfold State.bootAon
  try dsimp only
  with_reducible repeat' first
    | assumption | apply State.putB_keeps | apply Keeps.on | apply Keeps.each | apply Keeps.foldlFst
    | apply Keeps.ite | (intro _; try dsimp only) | split
    | (fail_if_no_progress apply State.mk_keeps)

theorem State.bootPlls_keeps {s0 s : State} (h : Keeps k s0 s) : Keeps k s0 (State.bootPlls s) := by
  unfold State.bootPlls
  with_reducible repeat' first
    | assumption | apply State.put_keeps | apply Keeps.on | apply Keeps.each | apply Keeps.foldlFst
    | (intro _; try dsimp only)

theorem State.bootClear_keeps {s0 s : State} (h : Keeps k s0 s) : Keeps k s0 (State.bootClear s) := by
  unfold State.bootClear
  with_reducible repeat' first
    | assumption | apply State.put_keeps | apply Keeps.on | apply Keeps.each | apply Keeps.foldlFst
    | (intro _; try dsimp only)

theorem State.bootOtp_keeps {s0 s : State} (h : Keeps k s0 s) : Keeps k s0 (State.bootOtp s) := by
  unfold State.bootOtp
  with_reducible repeat' first
    | assumption | apply State.patchLoad_keeps | apply State.vaultLoad_keeps | apply State.otpLife_keeps
    | apply State.otpLocks_keeps | apply State.otpMargins_keeps

theorem State.ramFault_keeps {s0 : State} {x : State × List (Nat × Nat × Nat)} (h : Keeps k s0 x.1) (hmem : k.mem =
    false) (f : Nat × Nat × Bool × Nat) :
    Keeps k s0 (State.ramFault x f).1 := by
  obtain ⟨ld, n, col, addr⟩ := f
  unfold State.ramFault
  dsimp only
  split
  · exact h
  · split
    · exact State.count_keeps (State.put_keeps (State.put_keeps (State.put_keeps h _ _ _ _) _ _ _ _) _ _ _ _) _ _ _
    · exact State.fenceEngineUnit_keeps h hmem _ _ _

theorem State.bootBist_keeps {s0 s : State} (h : Keeps k s0 s) (hmem : k.mem = false) (b : BootIn) (ld e : Nat) :
    Keeps k s0 (State.bootBist s b ld e) := by
  unfold State.bootBist
  with_reducible repeat' first
    | assumption | apply State.spend_keeps | apply State.put_keeps | apply State.bistShow_keeps
    | apply State.fenceEngineUnit_keeps | apply Keeps.on | apply Keeps.each | apply Keeps.foldlFst | apply Keeps.ite
    | (intro _; try dsimp only)

theorem State.bootTests_keeps {s0 s : State} (h : Keeps k s0 s) (hmem : k.mem = false) (b : BootIn) (taken : List (Nat
    × Nat × Nat)) : Keeps k s0 (s.bootTests b taken) := by
  unfold State.bootTests
  have hr : Keeps k s0 (b.ramFail.foldl State.ramFault (s, taken)).1 := Keeps.foldlFst _ (fun _ x hp =>
    State.ramFault_keeps hp hmem x) h
  dsimp only
  repeat' (first
    | with_reducible assumption | with_reducible apply State.ramFault_keeps
    | with_reducible apply State.bootBist_keeps | with_reducible apply State.fenceLane_keeps
    | with_reducible apply Keeps.ident | with_reducible apply Keeps.each | with_reducible apply Keeps.on
    | with_reducible apply Keeps.ite | with_reducible apply Keeps.foldl | with_reducible apply Keeps.foldlFst
    | (intro _; try dsimp only)
    )

theorem State.atStep_keeps {s0 s : State} (h : Keeps k s0 s) (n : Nat) : Keeps k s0 (State.atStep s n) := by
  exact h.upd rfl rfl rfl rfl rfl rfl rfl rfl rfl rfl rfl

theorem State.bootFirmware_keeps {s0 s : State} (h : Keeps k s0 s) : Keeps k s0 (State.bootFirmware s) := by
  unfold State.bootFirmware
  try dsimp only
  with_reducible repeat' first
    | assumption | apply State.loadFw_keeps | apply Keeps.on | apply Keeps.each | apply Keeps.foldlFst
    | apply Keeps.ite | (intro _; try dsimp only) | (split <;> try dsimp only)
    | (fail_if_no_progress apply State.mk_keeps)

theorem State.bootLanes_keeps {s0 s : State} (h : Keeps k s0 s) : Keeps k s0 (State.bootLanes s) := by
  unfold State.bootLanes
  with_reducible repeat' first
    | assumption | apply State.patchIds_keeps | apply Keeps.on | apply Keeps.each | apply Keeps.foldlFst
    | (intro _; try dsimp only)

theorem State.bootImage_keeps {s0 s : State} (h : Keeps k s0 s) (himage : k.image = false) : Keeps k s0
    (State.bootImage s) := by
  unfold State.bootImage
  try dsimp only
  with_reducible repeat' first
    | assumption | apply State.adoptLogic_keeps | apply Keeps.on | apply Keeps.each | apply Keeps.foldlFst
    | apply Keeps.ite | intro _ | (split <;> try dsimp only)
    | (fail_if_no_progress apply State.mk_keeps)

theorem State.bootFields_keeps {s0 s : State} (h : Keeps k s0 s) (b : BootIn) : Keeps k s0 (State.bootFields s b) :=
    by
  unfold State.bootFields
  try dsimp only
  with_reducible repeat' first
    | assumption | apply State.bootReset_keeps | apply State.stopDie_keeps | apply State.loadField_keeps
    | apply State.fenceField_keeps | apply State.spend_keeps | apply Keeps.each | apply Keeps.ite
    | (intro _; try dsimp only)

theorem State.enterService_keeps {s0 s : State} (h : Keeps k s0 s) : Keeps k s0 (State.enterService s) := by
  unfold State.enterService
  with_reducible repeat' first
    | assumption | apply State.put_keeps | apply Keeps.on | apply Keeps.each | apply Keeps.foldlFst
    | (intro _; try dsimp only)

theorem State.bootRest_keeps {s0 s : State} (h : Keeps k s0 s) (himage : k.image = false) (b : BootIn) : Keeps k s0
    (State.bootRest s b) := by
  unfold State.bootRest
  try dsimp only
  with_reducible repeat' first
    | assumption | apply State.atStep_keeps | apply State.bootLanes_keeps | apply State.bootImage_keeps
    | apply State.startUp_keeps | apply State.bootFields_keeps | apply Keeps.on | apply Keeps.each
    | apply Keeps.foldlFst | apply Keeps.ite | (intro _; try dsimp only) | (split <;> try dsimp only)
    | (fail_if_no_progress apply State.mk_keeps)

theorem State.bootSv_keeps {s0 s : State} (h : Keeps k s0 s) (himage : k.image = false) (b : BootIn) : Keeps k s0
    (State.bootSv s b) := by
  unfold State.bootSv
  try dsimp only
  with_reducible repeat' first
    | assumption | apply State.bootRest_keeps | apply State.bootFirmware_keeps | apply State.atStep_keeps
    | apply Keeps.ite | (intro _; try dsimp only) | (split <;> try dsimp only)
    | (fail_if_no_progress apply State.mk_keeps)

theorem State.bootOn_keeps {s0 s : State} (h : Keeps k s0 s) (hmem : k.mem = false) (himage : k.image = false) (b :
    BootIn) : Keeps k s0 (State.bootOn s b) := by
  unfold State.bootOn
  with_reducible repeat' first
    | assumption | apply State.hardRepairs_keeps | apply State.bootOtp_keeps | apply State.bootClear_keeps
    | apply State.bootPlls_keeps | apply State.atStep_keeps | apply State.bootTests_keeps
    | apply State.enterService_keeps | apply State.bootSv_keeps | apply Keeps.on | apply Keeps.each
    | apply Keeps.foldlFst | apply Keeps.ite | (intro _; try dsimp only)

theorem State.boot_keeps {s0 s : State} (h : Keeps k s0 s) (hmem : k.mem = false) (himage : k.image = false) (b :
    BootIn) : Keeps k s0 (State.boot s b) := by
  unfold State.boot
  with_reducible repeat' first
    | assumption | apply State.bootAon_keeps | apply State.bootOn_keeps | apply Keeps.on | apply Keeps.each
    | apply Keeps.foldlFst | apply Keeps.ite | (intro _; try dsimp only)

theorem State.powerOn_keeps {s0 s : State} (h : Keeps k s0 s) (hmem : k.mem = false) (hotp : k.otp = false) (htick :
    k.tick = false) (himage : k.image = false) (b : BootIn) : Keeps k s0 (State.powerOn s b) := by
  unfold State.powerOn
  try dsimp only
  with_reducible repeat' first
    | assumption | apply State.boot_keeps | apply State.resetPart_keeps | apply Keeps.on | apply Keeps.each
    | apply Keeps.foldlFst | apply Keeps.ite | intro _ | split
    | (fail_if_no_progress apply State.mk_keeps)

theorem execPowerOnReset_keeps {s0 s t : State} (h : Keeps k s0 s) (hmem : k.mem = false) (hotp : k.otp = false)
    (htick : k.tick = false) (himage : k.image = false) (b : BootIn) (ht : execPowerOnReset b s = .next t) : Keeps k
    s0 t := by
  exact Keeps.answer h (State.powerOn_keeps h hmem hotp htick himage ..) ht

theorem State.porstLow_keeps {s0 s : State} (h : Keeps k s0 s) (hmem : k.mem = false) (hotp : k.otp = false) (htick :
    k.tick = false) (himage : k.image = false) : Keeps k s0 (State.porstLow s) := by
  unfold State.porstLow
  try dsimp only
  with_reducible repeat' first
    | assumption | apply State.hold_keeps | apply State.resetPart_keeps | apply Keeps.on | apply Keeps.each
    | apply Keeps.foldlFst | apply Keeps.ite | (intro _; try dsimp only) | split
    | (fail_if_no_progress apply State.mk_keeps)

theorem execPorstN_keeps {s0 s t : State} (h : Keeps k s0 s) (hmem : k.mem = false) (hotp : k.otp = false) (htick :
    k.tick = false) (himage : k.image = false) (ns : Nat) (ht : execPorstN ns s = .next t) : Keeps k s0 t := by
  refine Keeps.answer h ?_ ht
  with_reducible repeat' first
    | assumption | apply State.porstLow_keeps | apply State.spend_keeps | apply Keeps.on | apply Keeps.each
    | apply Keeps.foldlFst | (intro _; try dsimp only) | apply Keeps.ite

theorem State.porstHigh_keeps {s0 s : State} (h : Keeps k s0 s) (hmem : k.mem = false) (himage : k.image = false) (b :
    BootIn) : Keeps k s0 (State.porstHigh s b) := by
  unfold State.porstHigh
  try dsimp only
  with_reducible repeat' first
    | assumption | apply State.boot_keeps | apply Keeps.on | apply Keeps.each | apply Keeps.foldlFst
    | apply Keeps.ite | intro _ | split
    | (fail_if_no_progress apply State.mk_keeps)

theorem execPorstNRelease_keeps {s0 s t : State} (h : Keeps k s0 s) (hmem : k.mem = false) (himage : k.image = false)
    (b : BootIn) (ht : execPorstNRelease b s = .next t) : Keeps k s0 t := by
  exact Keeps.answer h (State.porstHigh_keeps h hmem himage ..) ht

theorem execVauxTrip_keeps {s0 s t : State} (h : Keeps k s0 s) (ht : execVauxTrip s = .next t) : Keeps k s0 t := by
  unfold execVauxTrip at ht
  refine Keeps.answer h ?_ ht
  all_goals repeat' (first
    | with_reducible assumption | with_reducible apply State.hold_keeps | with_reducible apply Keeps.ident
    | with_reducible apply Keeps.each | with_reducible apply Keeps.on | with_reducible apply Keeps.ite
    | with_reducible apply Keeps.foldl | with_reducible apply Keeps.foldlFst | intro _
    | with_reducible refine Keeps.fst ‹_ = (_, _)› ?_ | with_reducible refine Keeps.fst3 ‹_ = (_, _, _)› ?_
    | split | (fail_if_no_progress (with_reducible apply State.mk_keeps)))

theorem State.vcoreDown_keeps {s0 s : State} (h : Keeps k s0 s) : Keeps k s0 (State.vcoreDown s) := by
  unfold State.vcoreDown
  try dsimp only
  with_reducible repeat' first
    | assumption | apply State.count_keeps | apply State.put_keeps | apply State.hold_keeps | apply Keeps.on
    | apply Keeps.each | apply Keeps.foldlFst | apply Keeps.ite | (intro _; try dsimp only)
    | split | (fail_if_no_progress apply State.mk_keeps)

theorem execVcoreTrip_keeps {s0 s t : State} (h : Keeps k s0 s) (ht : execVcoreTrip s = .next t) : Keeps k s0 t := by
  exact Keeps.answer h (State.vcoreDown_keeps h ..) ht

theorem State.vcoreUp_keeps {s0 s : State} (h : Keeps k s0 s) (hmem : k.mem = false) (hotp : k.otp = false) (htick :
    k.tick = false) (himage : k.image = false) (b : BootIn) : Keeps k s0 (State.vcoreUp s b) := by
  unfold State.vcoreUp
  try dsimp only
  with_reducible repeat' first
    | assumption | apply State.boot_keeps | apply State.bootOn_keeps | apply State.resetPart_keeps
    | apply State.put_keeps | apply Keeps.each | apply Keeps.ite | (intro _; try dsimp only)
    | (split <;> try dsimp only) | (fail_if_no_progress apply State.mk_keeps)

theorem execVcoreRelease_keeps {s0 s t : State} (h : Keeps k s0 s) (hmem : k.mem = false) (hotp : k.otp = false)
    (htick : k.tick = false) (himage : k.image = false) (b : BootIn) (ht : execVcoreRelease b s = .next t) : Keeps k
    s0 t := by
  unfold execVcoreRelease at ht
  refine Keeps.answer h ?_ ht
  all_goals with_reducible repeat' first
    | assumption | apply State.vcoreUp_keeps

theorem execVioTrip_keeps {s0 s t : State} (h : Keeps k s0 s) (ht : execVioTrip s = .next t) : Keeps k s0 t := by
  unfold execVioTrip at ht
  refine Keeps.answer h ?_ ht
  all_goals repeat' (first
    | with_reducible assumption | with_reducible apply State.count_keeps | with_reducible apply State.put_keeps
    | with_reducible apply Keeps.ident | with_reducible apply Keeps.each | with_reducible apply Keeps.on
    | with_reducible apply Keeps.ite | with_reducible apply Keeps.foldl | with_reducible apply Keeps.foldlFst
    | (intro _; try dsimp only) | with_reducible refine Keeps.fst ‹_ = (_, _)› ?_
    | with_reducible refine Keeps.fst3 ‹_ = (_, _, _)› ?_ | split
    | (fail_if_no_progress (with_reducible apply State.mk_keeps)))

theorem execVioRelease_keeps {s0 s t : State} (h : Keeps k s0 s) (ht : execVioRelease s = .next t) : Keeps k s0 t := by
  unfold execVioRelease at ht
  refine Keeps.answer h ?_ ht
  all_goals repeat' (first
    | with_reducible assumption | with_reducible apply State.put_keeps | with_reducible apply Keeps.ident
    | with_reducible apply Keeps.each | with_reducible apply Keeps.on | with_reducible apply Keeps.ite
    | with_reducible apply Keeps.foldl | with_reducible apply Keeps.foldlFst | (intro _; try dsimp only)
    | with_reducible refine Keeps.fst ‹_ = (_, _)› ?_ | with_reducible refine Keeps.fst3 ‹_ = (_, _, _)› ?_
    | split | (fail_if_no_progress (with_reducible apply State.mk_keeps)))

theorem execPartReset_keeps {s0 s t : State} (h : Keeps k s0 s) (hmem : k.mem = false) (hotp : k.otp = false) (htick :
    k.tick = false) (himage : k.image = false) (m : Master) (key : Nat) (b : BootIn) (ht : execPartReset m key b s =
    .next t) : Keeps k s0 t := by
  refine Keeps.answer h ?_ ht
  with_reducible repeat' first
    | assumption | apply State.boot_keeps | apply State.resetPart_keeps | apply State.asWrite_keeps | apply Keeps.on
    | apply Keeps.each | apply Keeps.foldlFst | (intro _; try dsimp only) | apply Keeps.ite

theorem execTapExit_keeps {s0 s t : State} (h : Keeps k s0 s) (hmem : k.mem = false) (hotp : k.otp = false) (htick :
    k.tick = false) (himage : k.image = false) (b : BootIn) (ht : execTapExit b s = .next t) : Keeps k s0 t := by
  refine Keeps.answer h ?_ ht
  with_reducible repeat' first | assumption | apply State.boot_keeps | apply State.resetPart_keeps

theorem execAonFailure_keeps {s0 s t : State} (h : Keeps k s0 s) (ht : execAonFailure s = .next t) : Keeps k s0 t := by
  unfold execAonFailure at ht
  refine Keeps.answer h ?_ ht
  all_goals repeat' (first
    | with_reducible assumption | with_reducible apply State.hold_keeps | with_reducible apply Keeps.ident
    | with_reducible apply Keeps.each | with_reducible apply Keeps.on | with_reducible apply Keeps.ite
    | with_reducible apply Keeps.foldl | with_reducible apply Keeps.foldlFst | intro _
    | with_reducible refine Keeps.fst ‹_ = (_, _)› ?_ | with_reducible refine Keeps.fst3 ‹_ = (_, _, _)› ?_
    | split | (fail_if_no_progress (with_reducible apply State.mk_keeps)))

theorem State.aonBack_keeps {s0 s : State} (h : Keeps k s0 s) (hmem : k.mem = false) (hotp : k.otp = false) (htick :
    k.tick = false) (himage : k.image = false) (b : BootIn) : Keeps k s0 (State.aonBack s b) := by
  unfold State.aonBack
  try dsimp only
  with_reducible repeat' first
    | assumption | apply State.boot_keeps | apply State.resetPart_keeps | apply Keeps.on | apply Keeps.each
    | apply Keeps.foldlFst | apply Keeps.ite | (intro _; try dsimp only) | split
    | (fail_if_no_progress apply State.mk_keeps)

theorem execAonRecovery_keeps {s0 s t : State} (h : Keeps k s0 s) (hmem : k.mem = false) (hotp : k.otp = false) (htick
    : k.tick = false) (himage : k.image = false) (b : BootIn) (ht : execAonRecovery b s = .next t) : Keeps k s0 t := by
  exact Keeps.answer h (State.aonBack_keeps h hmem hotp htick himage ..) ht

theorem State.spllFail_keeps {s0 s : State} (h : Keeps k s0 s) (hmem : k.mem = false) (ld : Nat) : Keeps k s0
    (State.spllFail s ld) := by
  unfold State.spllFail
  try dsimp only
  with_reducible repeat' first
    | assumption | apply State.loseLogicDie_keeps | apply State.cutBist_keeps | apply State.put_keeps
    | apply Keeps.on | apply Keeps.each | apply Keeps.foldlFst | apply Keeps.ite | intro _
    | (split <;> try dsimp only) | (fail_if_no_progress apply State.mk_keeps)

theorem execSpllFailure_keeps {s0 s t : State} (h : Keeps k s0 s) (hmem : k.mem = false) (ld : Nat) (ht :
    execSpllFailure ld s = .next t) : Keeps k s0 t := by
  exact Keeps.answer h (State.spllFail_keeps h hmem ..) ht

theorem State.lpllFail_keeps {s0 s : State} (h : Keeps k s0 s) (hmem : k.mem = false) (ld : Nat) : Keeps k s0
    (State.lpllFail s ld) := by
  unfold State.lpllFail
  with_reducible repeat' first
    | assumption | apply State.put_keeps | apply State.raiseFlag_keeps | apply State.setPhase_keeps
    | apply State.haltLane_keeps | apply State.setLane_keeps | apply State.cutBist_keeps | apply Keeps.on
    | apply Keeps.each | apply Keeps.foldlFst | (intro _; try dsimp only)

theorem execLpllFailure_keeps {s0 s t : State} (h : Keeps k s0 s) (hmem : k.mem = false) (ld : Nat) (ht :
    execLpllFailure ld s = .next t) : Keeps k s0 t := by
  exact Keeps.answer h (State.lpllFail_keeps h hmem ..) ht

theorem State.setTx_keeps {s0 s : State} (h : Keeps k s0 s) (ld : Nat) (bad : Bool) : Keeps k s0 (State.setTx s ld
    bad) := by
  exact h.upd rfl rfl rfl rfl rfl rfl rfl rfl rfl rfl rfl

theorem execTxClockFailure_keeps {s0 s t : State} (h : Keeps k s0 s) (ld : Nat) (ht : execTxClockFailure ld s = .next
    t) : Keeps k s0 t := by
  refine Keeps.answer h ?_ ht
  with_reducible repeat' first
    | assumption | apply State.cutBist_keeps | apply State.raiseFlag_keeps | apply State.setTx_keeps

theorem execTxClockRecovery_keeps {s0 s t : State} (h : Keeps k s0 s) (ld : Nat) (ht : execTxClockRecovery ld s =
    .next t) : Keeps k s0 t := by
  exact Keeps.answer h (State.setTx_keeps h ..) ht

/-! ### Machine/ReadCommands.lean -/

theorem execIdentify_keeps {s0 s t : State} (h : Keeps k s0 s) (hmem : k.mem = false) (hflash : k.flash = false) (ld
    mb : Nat) (ht : execIdentify ld mb s = .next t) : Keeps k s0 t := by
  refine State.command_keeps h hmem hflash _ _ _ _ _ ht ?_ ?_ <;> with_reducible repeat' first
    | assumption | apply done_keeps | apply Keeps.ident | (intro _; try dsimp only)

theorem State.progress_keeps {s0 s : State} (h : Keeps k s0 s) (ld e : Nat) : Keeps k s0 (State.progress s ld e) := by
  unfold State.progress
  with_reducible repeat' first
    | assumption | apply State.present_keeps | apply State.setJob_keeps | apply State.spend_keeps | apply Keeps.on
    | apply Keeps.each | apply Keeps.foldlFst | apply Keeps.ite | (intro _; try dsimp only) | (split <;> try dsimp only)

theorem State.statusNow_keeps {s0 s : State} (h : Keeps k s0 s) (ld sv : Nat) : Keeps k s0 (State.statusNow s ld
    sv).st := by
  unfold State.statusNow
  with_reducible repeat' first
    | assumption | apply State.progress_keeps | apply done_keeps | apply Keeps.on | apply Keeps.each
    | apply Keeps.foldlFst | (intro _; try dsimp only)

theorem execStatus_keeps {s0 s t : State} (h : Keeps k s0 s) (hmem : k.mem = false) (hflash : k.flash = false) (ld mb
    : Nat) (ht : execStatus ld mb s = .next t) : Keeps k s0 t := by
  refine State.command_keeps h hmem hflash _ _ _ _ _ ht ?_ ?_ <;> with_reducible repeat' first
    | assumption | apply State.statusNow_keeps | apply Keeps.ident | (intro _; try dsimp only)

theorem State.diagRead_keeps {s0 s : State} (h : Keeps k s0 s) (p : List Byte) : Keeps k s0 (State.diagRead s p).st :=
    by
  unfold State.diagRead
  dsimp only
  with_reducible repeat' first
    | assumption | apply refused_keeps | apply done_keeps | apply Keeps.on | apply Keeps.each | apply Keeps.foldlFst
    | apply Keeps.ite | intro _ | (split <;> try dsimp only)

theorem execDiagRead_keeps {s0 s t : State} (h : Keeps k s0 s) (hmem : k.mem = false) (hflash : k.flash = false) (ld
    mb : Nat) (ht : execDiagRead ld mb s = .next t) : Keeps k s0 t := by
  refine State.command_keeps h hmem hflash _ _ _ _ _ ht ?_ ?_ <;> with_reducible repeat' first
    | assumption | apply State.diagRead_keeps | apply Keeps.ident | (intro _; try dsimp only)

theorem State.ringStatus_keeps {s0 s : State} (h : Keeps k s0 s) (p : List Byte) : Keeps k s0 (State.ringStatus s
    p).st := by
  unfold State.ringStatus
  dsimp only
  with_reducible repeat' first
    | assumption | apply refused_keeps | apply done_keeps | apply Keeps.on | apply Keeps.each | apply Keeps.foldlFst
    | apply Keeps.ite | intro _ | (split <;> try dsimp only)

theorem execRingStatus_keeps {s0 s t : State} (h : Keeps k s0 s) (hmem : k.mem = false) (hflash : k.flash = false) (ld
    mb : Nat) (ht : execRingStatus ld mb s = .next t) : Keeps k s0 t := by
  refine State.command_keeps h hmem hflash _ _ _ _ _ ht ?_ ?_ <;> with_reducible repeat' first
    | assumption | apply State.ringStatus_keeps | apply Keeps.ident | (intro _; try dsimp only)

theorem State.countersRead_keeps {s0 s : State} (h : Keeps k s0 s) (p : List Byte) : Keeps k s0 (State.countersRead s
    p).st := by
  unfold State.countersRead
  dsimp only
  with_reducible repeat' first
    | assumption | apply refused_keeps | apply done_keeps | apply Keeps.on | apply Keeps.each | apply Keeps.foldlFst
    | apply Keeps.ite | intro _ | (split <;> try dsimp only)

theorem execCountersRead_keeps {s0 s t : State} (h : Keeps k s0 s) (hmem : k.mem = false) (hflash : k.flash = false)
    (ld mb : Nat) (ht : execCountersRead ld mb s = .next t) : Keeps k s0 t := by
  refine State.command_keeps h hmem hflash _ _ _ _ _ ht ?_ ?_ <;> with_reducible repeat' first
    | assumption | apply State.countersRead_keeps | apply Keeps.ident | (intro _; try dsimp only)

theorem State.regRead_keeps {s0 s : State} (h : Keeps k s0 s) (sv : Nat) (p : List Byte) : Keeps k s0 (State.regRead s
    sv p).st := by
  unfold State.regRead
  dsimp only
  with_reducible repeat' first
    | assumption | apply refused_keeps | apply State.readRun_keeps | apply Keeps.on | apply Keeps.each
    | apply Keeps.foldlFst | apply Keeps.ite | intro _ | (split <;> try dsimp only)

theorem execRegRead_keeps {s0 s t : State} (h : Keeps k s0 s) (hmem : k.mem = false) (hflash : k.flash = false) (ld mb
    : Nat) (ht : execRegRead ld mb s = .next t) : Keeps k s0 t := by
  refine State.command_keeps h hmem hflash _ _ _ _ _ ht ?_ ?_ <;> with_reducible repeat' first
    | assumption | apply State.regRead_keeps | apply Keeps.ident | (intro _; try dsimp only)

/-! ### Machine/Sieve.lean -/

theorem State.setSieve_keeps {s0 s : State} (h : Keeps k s0 s) (die : Nat) (r : InstRec) (v : SieveSt) : Keeps k s0
    (State.setSieve s die r v) := by
  unfold State.setSieve
  with_reducible repeat' first
    | assumption | apply State.setSvP_keeps | apply State.setSvH_keeps | apply Keeps.on | apply Keeps.each
    | apply Keeps.foldlFst | apply Keeps.ite | (intro _; try dsimp only)

theorem State.sieveSend_keeps {s0 s : State} (h : Keeps k s0 s) (die : Nat) : Keeps k s0 (State.sieveSend s die) := by
  unfold State.sieveSend
  with_reducible repeat' first
    | assumption | apply State.give_keeps | apply State.setSvDie_keeps | apply State.reachPoint_keeps
    | apply Keeps.on | apply Keeps.each | apply Keeps.foldlFst | (intro _; try dsimp only)

theorem execSieveExchangeStart_keeps {s0 s t : State} (h : Keeps k s0 s) (die : Nat) (ht : execSieveExchangeStart die
    s = .next t) : Keeps k s0 t := by
  exact Keeps.answer h (State.sieveSend_keeps h ..) ht

theorem State.sieveReceive_keeps {s0 s : State} (h : Keeps k s0 s) (die src : Nat) (x : Transit) : Keeps k s0
    (State.sieveReceive s die src x) := by
  unfold State.sieveReceive
  with_reducible repeat' first
    | assumption | apply State.setSvDie_keeps | apply State.setSieve_keeps | apply Keeps.on | apply Keeps.each
    | apply Keeps.foldlFst | apply Keeps.ite | (intro _; try dsimp only) | (split <;> try dsimp only)

theorem execSieveRecordReceived_keeps {s0 s t : State} (h : Keeps k s0 s) (die src : Nat) (x : Transit) (ht :
    execSieveRecordReceived die src x s = .next t) : Keeps k s0 t := by
  exact Keeps.answer h (State.sieveReceive_keeps h ..) ht

theorem State.sieveLast_keeps {s0 s : State} (h : Keeps k s0 s) (die : Nat) (r : InstRec) : Keeps k s0
    (State.sieveLast s die r) := by
  unfold State.sieveLast
  with_reducible repeat' first | assumption | apply State.put_keeps | apply State.count_keeps

theorem State.sieveFence_keeps {s0 s : State} (h : Keeps k s0 s) (die : Nat) (r : InstRec) : Keeps k s0
    (State.sieveFence s die r) := by
  unfold State.sieveFence
  with_reducible repeat' first
    | assumption | apply State.sieveLast_keeps | apply State.fenceOn_keeps | apply State.logFence_keeps

theorem State.compareInst_keeps {s0 s : State} (h : Keeps k s0 s) (die : Nat) (r : InstRec) : Keeps k s0
    (State.compareInst s die r) := by
  unfold State.compareInst
  with_reducible repeat' first
    | assumption | apply State.setDcnt_keeps | apply State.count_keeps | apply State.sieveFence_keeps
    | apply Keeps.on | apply Keeps.each | apply Keeps.foldlFst | apply Keeps.ite | (intro _; try dsimp only)

theorem State.sieveCompare_keeps {s0 s : State} (h : Keeps k s0 s) (die : Nat) : Keeps k s0 (State.sieveCompare s die)
    := by
  unfold State.sieveCompare
  with_reducible repeat' first
    | assumption | apply State.putB_keeps | apply State.put_keeps | apply State.reachPoint_keeps
    | apply State.compareInst_keeps | apply Keeps.on | apply Keeps.each | apply Keeps.foldlFst
    | (intro _; try dsimp only)

theorem execSieveCompare_keeps {s0 s t : State} (h : Keeps k s0 s) (die : Nat) (ht : execSieveCompare die s = .next t)
    : Keeps k s0 t := by
  exact Keeps.answer h (State.sieveCompare_keeps h ..) ht

theorem execSieveFenceMessage_keeps {s0 s t : State} (h : Keeps k s0 s) (die iid : Nat) (ht : execSieveFenceMessage
    die iid s = .next t) : Keeps k s0 t := by
  exact Keeps.answer h (State.fenceOn_keeps h ..) ht

/-! ### Machine/UnitCommands.lean -/

theorem State.writeRun_keeps {s0 s : State} (h : Keeps k s0 s) (hmem : k.mem = false) (m : Master) (same : List Nat)
    (l : List RegEntry) : Keeps k s0 (s.writeRun m same l).1 := by
  induction l generalizing s same with
  | nil => exact h
  | cons e l ih =>
    have hr := State.busWrite_keeps h hmem m e.addr (wordBeside e.addr (s.entryValue e) (same.headD 0)) 15
    unfold State.writeRun
    dsimp only
    split_ifs
    · exact ih hr _
    · exact hr

theorem State.regWrite_keeps {s0 s : State} (h : Keeps k s0 s) (hmem : k.mem = false) (sv : Nat) (same : List Nat) (p
    : List Byte) : Keeps k s0 (State.regWrite s sv same p).st := by
  unfold State.regWrite
  dsimp only
  with_reducible repeat' first
    | assumption | apply refused_keeps | apply State.writeRun_keeps | apply Keeps.on | apply Keeps.each
    | apply Keeps.foldlFst | apply Keeps.ite | intro _ | (split <;> try dsimp only)

theorem execRegWrite_keeps {s0 s t : State} (h : Keeps k s0 s) (hmem : k.mem = false) (hflash : k.flash = false) (ld
    : Nat) (w : WriteTurn) (ht : execRegWrite ld w s = .next t) : Keeps k s0 t := by
  refine State.command_keeps h hmem hflash _ _ _ _ _ ht ?_ ?_ <;> with_reducible repeat' first
    | assumption | apply State.regWrite_keeps | apply Keeps.ident | (intro _; try dsimp only)

theorem State.svWrite_keeps {s0 s : State} (h : Keeps k s0 s) (sv : Nat) (r : Reg) (die idx : Nat) (other : Bool)
    {x : Reply} (hx : Keeps k s0 x.st) : Keeps k s0 (State.svWrite s sv r die idx other x).st := by
  rw [State.svWrite]
  refine iteInduction (motive := fun q : Reply => Keeps k s0 q.st) (fun _ => ?_) fun _ =>
    iteInduction (motive := fun q : Reply => Keeps k s0 q.st) (fun _ => ?_) fun _ => ?_
  · exact refused_keeps (State.logErr_keeps h ..) _
  · exact refused_keeps (State.logErr_keeps h ..) _
  · exact hx

theorem State.sendMessage_keeps {s0 s : State} (h : Keeps k s0 s) (iid : Nat) (clear : Bool) : Keeps k s0
    (State.sendMessage s iid clear) := by
  unfold State.sendMessage
  try dsimp only
  with_reducible repeat' first
    | assumption | apply State.fenceMessage_keeps | apply State.clear_keeps | apply Keeps.on
    | (intro _; try dsimp only) | (split <;> try dsimp only)

theorem State.ctlFence_keeps {s0 s : State} (h : Keeps k s0 s) (hmem : k.mem = false) (die kind idx : Nat) : Keeps k
    s0 (State.ctlFence s die kind idx) := by
  unfold State.ctlFence
  try dsimp only
  with_reducible repeat' first
    | assumption | apply State.sendMessage_keeps | apply State.ffreqFence_keeps | apply State.freqFence_keeps
    | apply Keeps.on | apply Keeps.ite | (intro _; try dsimp only)

theorem State.ctlClear_keeps {s0 s : State} (h : Keeps k s0 s) (die kind idx : Nat) : Keeps k s0 (State.ctlClear s die
    kind idx) := by
  unfold State.ctlClear
  try dsimp only
  with_reducible repeat' first
    | assumption | apply State.sendMessage_keeps | apply State.ffreqClear_keeps | apply State.freqClear_keeps
    | apply Keeps.on | apply Keeps.ite | (intro _; try dsimp only)

theorem State.fenceCtlFence_keeps {s0 s : State} (h : Keeps k s0 s) (hmem : k.mem = false) (sv : Nat) (p : List Byte)
    : Keeps k s0 (State.fenceCtlFence s sv p).st := by
  unfold State.fenceCtlFence
  try dsimp only
  with_reducible repeat' first
    | assumption | apply State.ctlFence_keeps | apply State.svWrite_keeps | apply done_keeps | apply refused_keeps
    | apply Keeps.ite | (intro _; try dsimp only) | (split <;> try dsimp only)

theorem execFenceCtlFence_keeps {s0 s t : State} (h : Keeps k s0 s) (hmem : k.mem = false) (hflash : k.flash = false)
    (ld mb : Nat) (ht : execFenceCtlFence ld mb s = .next t) : Keeps k s0 t := by
  refine State.command_keeps h hmem hflash _ _ _ _ _ ht ?_ ?_ <;> with_reducible repeat' first
    | assumption | apply State.fenceCtlFence_keeps | apply Keeps.ident | (intro _; try dsimp only)

theorem State.fenceCtlClear_keeps {s0 s : State} (h : Keeps k s0 s) (sv : Nat) (p : List Byte) : Keeps k s0
    (State.fenceCtlClear s sv p).st := by
  unfold State.fenceCtlClear
  try dsimp only
  with_reducible repeat' first
    | assumption | apply State.ctlClear_keeps | apply State.svWrite_keeps | apply done_keeps | apply refused_keeps
    | apply Keeps.ite | (intro _; try dsimp only) | (split <;> try dsimp only)

theorem execFenceCtlClear_keeps {s0 s t : State} (h : Keeps k s0 s) (hmem : k.mem = false) (hflash : k.flash = false)
    (ld mb : Nat) (ht : execFenceCtlClear ld mb s = .next t) : Keeps k s0 t := by
  refine State.command_keeps h hmem hflash _ _ _ _ _ ht ?_ ?_ <;> with_reducible repeat' first
    | assumption | apply State.fenceCtlClear_keeps | apply Keeps.ident | (intro _; try dsimp only)

theorem State.bistJob_keeps {s0 s : State} (h : Keeps k s0 s) (ld sv tag d e n : Nat) : Keeps k s0 (State.bistJob s ld
    sv tag d e n).st := by
  unfold State.bistJob
  try dsimp only
  with_reducible repeat' first
    | assumption | apply State.asJob_keeps | apply refused_keeps | apply State.bistStart_keeps
    | apply State.setSv_keeps | apply State.put_keeps | (intro _; try dsimp only) | (split <;> try dsimp only)


theorem State.bistRun_keeps {s0 s : State} (h : Keeps k s0 s) (ld sv tag : Nat) (p : List Byte) : Keeps k s0
    (State.bistRun s ld sv tag p).st := by
  unfold State.bistRun
  try dsimp only
  with_reducible repeat' first
    | assumption | apply State.bistJob_keeps | apply State.svWrite_keeps | apply refused_keeps | apply Keeps.ite
    | (intro _; try dsimp only) | (split <;> try dsimp only)

theorem execBistRun_keeps {s0 s t : State} (h : Keeps k s0 s) (hmem : k.mem = false) (hflash : k.flash = false) (ld mb
    : Nat) (ht : execBistRun ld mb s = .next t) : Keeps k s0 t := by
  refine State.command_keeps h hmem hflash _ _ _ _ _ ht ?_ ?_ <;> with_reducible repeat' first
    | assumption | apply State.bistRun_keeps | apply Keeps.ident | (intro _; try dsimp only)

theorem State.tiller_keeps {s0 s : State} (h : Keeps k s0 s) (p : List Byte) (ok : Bool) (status : Nat) {f : Nat →
    State}
    (hf : ∀ d, Keeps k s0 (f d)) : Keeps k s0 (s.tiller p ok status f).st := by
  unfold State.tiller
  try dsimp only
  repeat' (first
    | with_reducible assumption | with_reducible apply hf | with_reducible apply refused_keeps
    | with_reducible apply done_keeps | with_reducible apply Keeps.ident | with_reducible apply Keeps.each
    | with_reducible apply Keeps.on | with_reducible apply Keeps.ite | with_reducible apply Keeps.foldl
    | with_reducible apply Keeps.foldlFst | intro _
    | with_reducible refine Keeps.fst ‹_ = (_, _)› ?_ | with_reducible refine Keeps.fst3 ‹_ = (_, _, _)› ?_
    | (split <;> try dsimp only))

theorem State.tillerWrite_keeps {s0 s : State} (h : Keeps k s0 s) (sv : Nat) (p : List Byte) (ok : Bool) (status :
    Nat) {f : Nat → State} (hf0 : ∀ y0, Keeps k s0 s → Keeps k s0 (f y0)) : Keeps k s0 (State.tillerWrite s sv p ok
    status f).st := by
  unfold State.tillerWrite
  try dsimp only
  with_reducible repeat' first
    | assumption | apply hf0 | apply State.tiller_keeps | apply State.svWrite_keeps | apply Keeps.ite
    | (intro _; try dsimp only) | (split <;> try dsimp only)

theorem execTillerCtlRead_keeps {s0 s t : State} (h : Keeps k s0 s) (hmem : k.mem = false) (hflash : k.flash = false)
    (ld mb : Nat) (ht : execTillerCtlRead ld mb s = .next t) : Keeps k s0 t := by
  refine State.command_keeps h hmem hflash _ _ _ _ _ ht ?_ ?_ <;> with_reducible repeat' first
    | assumption | apply State.tiller_keeps | apply Keeps.ident | (intro _; try dsimp only)

theorem execTillerCtlSetPace_keeps {s0 s t : State} (h : Keeps k s0 s) (hmem : k.mem = false) (hflash : k.flash =
    false) (ld mb : Nat) (ht : execTillerCtlSetPace ld mb s = .next t) : Keeps k s0 t := by
  refine State.command_keeps h hmem hflash _ _ _ _ _ ht ?_ ?_ <;> with_reducible repeat' first
    | assumption | apply State.tillerWrite_keeps | apply State.put_keeps | apply Keeps.ident
    | (intro _; try dsimp only)

theorem execTillerCtlPause_keeps {s0 s t : State} (h : Keeps k s0 s) (hmem : k.mem = false) (hflash : k.flash = false)
    (ld mb : Nat) (ht : execTillerCtlPause ld mb s = .next t) : Keeps k s0 t := by
  refine State.command_keeps h hmem hflash _ _ _ _ _ ht ?_ ?_ <;> with_reducible repeat' first
    | assumption | apply State.tillerWrite_keeps | apply State.put_keeps | apply Keeps.ident
    | (intro _; try dsimp only)

theorem execTillerCtlResume_keeps {s0 s t : State} (h : Keeps k s0 s) (hmem : k.mem = false) (hflash : k.flash =
    false) (ld mb : Nat) (ht : execTillerCtlResume ld mb s = .next t) : Keeps k s0 t := by
  refine State.command_keeps h hmem hflash _ _ _ _ _ ht ?_ ?_ <;> with_reducible repeat' first
    | assumption | apply State.tillerWrite_keeps | apply State.put_keeps | apply Keeps.ident
    | (intro _; try dsimp only)

theorem State.putCrc_keeps {s0 s : State} (h : Keeps k s0 s) (d n : Nat) (c : CrcSet) : Keeps k s0 (State.putCrc s d n
    c) := by
  unfold State.putCrc
  with_reducible repeat' first | assumption | apply State.put_keeps | apply State.putB_keeps

theorem State.crcStart_keeps {s0 s : State} (h : Keeps k s0 s) (d n : Nat) (start len : Nat) (c : CrcSet) : Keeps k s0
    (State.crcStart s d n start len c) := by
  unfold State.crcStart
  with_reducible repeat' first
    | assumption | apply State.putCrc_keeps | apply State.put_keeps | apply State.scanStart_keeps

theorem State.crcJob_keeps {s0 s : State} (h : Keeps k s0 s) (ld sv tag : Nat) (p : List Byte) : Keeps k s0
    (State.crcJob s ld sv tag p).st := by
  unfold State.crcJob
  try dsimp only
  with_reducible repeat' first
    | assumption | apply State.crcStart_keeps | apply State.svWrite_keeps | apply State.asJob_keeps
    | apply refused_keeps | apply State.setSv_keeps | apply Keeps.ite | (intro _; try dsimp only)
    | (split <;> try dsimp only)

theorem execCrcJob_keeps {s0 s t : State} (h : Keeps k s0 s) (hmem : k.mem = false) (hflash : k.flash = false) (ld mb
    : Nat) (ht : execCrcJob ld mb s = .next t) : Keeps k s0 t := by
  refine State.command_keeps h hmem hflash _ _ _ _ _ ht ?_ ?_ <;> with_reducible repeat' first
    | assumption | apply State.crcJob_keeps | apply Keeps.ident | (intro _; try dsimp only)

theorem State.timerReply_keeps {s0 s : State} (h : Keeps k s0 s) (sv d n : Nat) : Keeps k s0 (State.timerReply s sv d
    n).st := by
  unfold State.timerReply
  with_reducible repeat' first | assumption | apply State.readRun_keeps | apply done_keeps

theorem State.timerCmd_keeps {s0 s : State} (h : Keeps k s0 s) (sv : Nat) (p : List Byte) (op : Nat) (wantFree : Bool)
    {f : Nat → Nat → State × Nat} (hf : ∀ d n, Keeps k s0 (f d n).1) : Keeps k s0 (s.timerCmd sv p op wantFree f).st := by
  unfold State.timerCmd
  try dsimp only
  with_reducible repeat' first
    | assumption | apply hf | apply State.timerReply_keeps | apply State.svWrite_keeps | apply refused_keeps
    | (intro _; try dsimp only) | (split <;> try dsimp only)

theorem execTimerCtlAcquire_keeps {s0 s t : State} (h : Keeps k s0 s) (hmem : k.mem = false) (hflash : k.flash =
    false) (ld mb : Nat) (ht : execTimerCtlAcquire ld mb s = .next t) : Keeps k s0 t := by
  refine State.command_keeps h hmem hflash _ _ _ _ _ ht ?_ ?_ <;> with_reducible repeat' first
    | assumption | apply State.timerCmd_keeps | apply State.put_keeps | apply Keeps.ident | (intro _; try dsimp only)

theorem State.timerFree_keeps {s0 s : State} (h : Keeps k s0 s) (d n : Nat) : Keeps k s0 (State.timerFree s d n) := by
  unfold State.timerFree
  try dsimp only
  with_reducible repeat' first
    | assumption | apply State.idleTimer_keeps

theorem execTimerCtlRelease_keeps {s0 s t : State} (h : Keeps k s0 s) (hmem : k.mem = false) (hflash : k.flash =
    false) (ld mb : Nat) (ht : execTimerCtlRelease ld mb s = .next t) : Keeps k s0 t := by
  refine State.command_keeps h hmem hflash _ _ _ _ _ ht ?_ ?_ <;> with_reducible repeat' first
    | assumption | apply State.timerCmd_keeps | apply State.timerFree_keeps | apply Keeps.ident
    | (intro _; try dsimp only)

theorem State.timerSet_keeps {s0 s : State} (h : Keeps k s0 s) (p : List Byte) (d n : Nat) : Keeps k s0
    (State.timerSet s p d n).1 := by
  unfold State.timerSet
  dsimp only
  with_reducible repeat' first
    | assumption | apply State.timerWord_keeps | apply Keeps.on | apply Keeps.each | apply Keeps.foldlFst
    | apply Keeps.ite | intro _ | (split <;> try dsimp only)

theorem execTimerCtlSet_keeps {s0 s t : State} (h : Keeps k s0 s) (hmem : k.mem = false) (hflash : k.flash = false)
    (ld mb : Nat) (ht : execTimerCtlSet ld mb s = .next t) : Keeps k s0 t := by
  refine State.command_keeps h hmem hflash _ _ _ _ _ ht ?_ ?_ <;> with_reducible repeat' first
    | assumption | apply State.timerCmd_keeps | apply State.timerSet_keeps | apply Keeps.ident
    | (intro _; try dsimp only)

theorem execTimerCtlRead_keeps {s0 s t : State} (h : Keeps k s0 s) (hmem : k.mem = false) (hflash : k.flash = false)
    (ld mb : Nat) (ht : execTimerCtlRead ld mb s = .next t) : Keeps k s0 t := by
  refine State.command_keeps h hmem hflash _ _ _ _ _ ht ?_ ?_ <;> with_reducible repeat' first
    | assumption | apply State.timerCmd_keeps | apply Keeps.ident | (intro _; try dsimp only)

theorem State.ringSchedule_keeps {s0 s : State} (h : Keeps k s0 s) (hmem : k.mem = false) (sv : Nat) (p : List Byte) :
    Keeps k s0 (State.ringSchedule s sv p).st := by
  unfold State.ringSchedule
  dsimp only
  with_reducible repeat' first
    | assumption | apply refused_keeps | apply State.writeRun_keeps | apply done_keeps | apply State.logErr_keeps
    | apply Keeps.on | apply Keeps.each | apply Keeps.foldlFst | apply Keeps.ite | (intro _; try dsimp only)
    | (split <;> try dsimp only)

theorem execRingSchedule_keeps {s0 s t : State} (h : Keeps k s0 s) (hmem : k.mem = false) (hflash : k.flash = false)
    (ld mb : Nat) (ht : execRingSchedule ld mb s = .next t) : Keeps k s0 t := by
  refine State.command_keeps h hmem hflash _ _ _ _ _ ht ?_ ?_ <;> with_reducible repeat' first
    | assumption | apply State.ringSchedule_keeps | apply Keeps.ident | (intro _; try dsimp only)

theorem State.otpSettle_keeps {s0 s : State} (h : Keeps k s0 s) (hotp : k.otp = false) : Keeps k s0 (State.otpSettle
    s) := by
  unfold State.otpSettle
  try dsimp only
  with_reducible repeat' first
    | assumption | apply State.otpEnds_keeps | apply Keeps.ite | (intro _; try dsimp only)


theorem State.otpRun_keeps {s0 s : State} (h : Keeps k s0 s) (hotp : k.otp = false) (kind w d : Nat) : Keeps k s0
    (State.otpRun s kind w d) := by
  unfold State.otpRun
  try dsimp only
  with_reducible repeat' first
    | assumption | apply State.otpEnds_keeps | apply State.otpStart_keeps

theorem State.otpCommand_keeps {s0 s : State} (h : Keeps k s0 s) (hotp : k.otp = false) (sv : Nat) (p : List Byte)
    (reburn : Bool) : Keeps k s0 (State.otpCommand s sv p reburn).st := by
  unfold State.otpCommand
  with_reducible repeat' first
    | assumption | apply refused_keeps | apply State.otpSettle_keeps | apply State.otpRun_keeps | apply done_keeps
    | apply Keeps.on | apply Keeps.each | apply Keeps.foldlFst | apply Keeps.ite | intro _
    | (split <;> try dsimp only)

theorem execOtpProgram_keeps {s0 s t : State} (h : Keeps k s0 s) (hmem : k.mem = false) (hflash : k.flash = false)
    (hotp : k.otp = false) (ld mb : Nat) (ht : execOtpProgram ld mb s = .next t) : Keeps k s0 t := by
  refine State.command_keeps h hmem hflash _ _ _ _ _ ht ?_ ?_ <;> with_reducible repeat' first
    | assumption | apply State.otpCommand_keeps | apply Keeps.ident | (intro _; try dsimp only)

theorem execOtpReburn_keeps {s0 s t : State} (h : Keeps k s0 s) (hmem : k.mem = false) (hflash : k.flash = false)
    (hotp : k.otp = false) (ld mb : Nat) (ht : execOtpReburn ld mb s = .next t) : Keeps k s0 t := by
  refine State.command_keeps h hmem hflash _ _ _ _ _ ht ?_ ?_ <;> with_reducible repeat' first
    | assumption | apply State.otpCommand_keeps | apply Keeps.ident | (intro _; try dsimp only)

theorem State.lcAdvance_keeps {s0 s : State} (h : Keeps k s0 s) (hotp : k.otp = false) (sv : Nat) (p : List Byte) :
    Keeps k s0 (State.lcAdvance s sv p).st := by
  unfold State.lcAdvance
  with_reducible repeat' first
    | assumption | apply refused_keeps | apply State.otpSettle_keeps | apply done_keeps | apply State.otpRun_keeps
    | apply Keeps.on | apply Keeps.each | apply Keeps.foldlFst | apply Keeps.ite | intro _
    | (split <;> try dsimp only)

theorem execLcAdvance_keeps {s0 s t : State} (h : Keeps k s0 s) (hmem : k.mem = false) (hflash : k.flash = false)
    (hotp : k.otp = false) (ld mb : Nat) (ht : execLcAdvance ld mb s = .next t) : Keeps k s0 t := by
  refine State.command_keeps h hmem hflash _ _ _ _ _ ht ?_ ?_ <;> with_reducible repeat' first
    | assumption | apply State.lcAdvance_keeps | apply Keeps.ident | (intro _; try dsimp only)

end Sys2Proof.Machine
end

