-- ==== Sys2Proof/WellFormed.lean ====
section
/-!
DEFINITION. Which commands are well formed: every unit number within the largest variant (R1, R5, R16, R17), every value
within the width that the spec gives what it stands for.
-/

namespace Sys2Proof

/-- A master of R353 on a die of R5. -/
def Master.wellFormed (m : Master) : Bool := decide (m.die < 8) && decide (m.code < 256)

/-- A conversion: terminal codes of R44. -/
def Meas.wellFormed (m : Meas) : Bool :=
  decide (m.fd < 6) && decide (m.t < 64) && decide (m.vp < 1024) && decide (m.vh < 1024) && decide (m.ic < 1024) && decide (m.temp < 1024)

/-- What boot finds names units of the part. -/
def BootIn.wellFormed (b : BootIn) : Bool :=
  b.ramFail.all (fun x => decide (x.1 < 2) && decide (x.2.1 < 33)) && b.bistFail.all (fun k => decide (k < 32)) &&
    b.bistInc.all (fun k => decide (k < 32)) && b.loadFail.all fun fd => decide (fd < 6)

/-- Masks over the 73 compared bits (R158). -/
def RailFault.wellFormed (r : RailFault) : Bool := decide (r.dead < 2 ^ 73) && decide (r.stuck < 2 ^ 73)

/-- A transaction entry (R149). -/
def LaneTxn.wellFormed (x : LaneTxn) : Bool :=
  decide (x.addr < 2 ^ 32) && decide (x.data < 2 ^ 32) && decide (x.be < 16) && decide (x.type < 3) && decide (x.flips < 2 ^ 75) &&
    x.rail0.wellFormed && x.rail1.wellFormed

/-- Masks of bits that arrive inverted, one for a byte. -/
def flipsOk (l : List (Nat × Nat)) : Bool := l.all fun f => decide (f.2 < 256)

/-- Inverted bits of a transfer, by byte (R21). -/
def Transit.wellFormed (x : Transit) : Bool := flipsOk x.flips

/-- A common header (R210, R211). -/
def FrameHdr.wellFormed (h : FrameHdr) : Bool :=
  decide (h.dst < 2 ^ 48) && decide (h.etype < 2 ^ 16) && decide (h.ver < 2 ^ 8) && decide (h.cls < 2 ^ 8) && decide (h.rid < 2 ^ 16) &&
    decide (h.snd < 2 ^ 13) && decide (h.sturn < 2 ^ 16)

/-- A beacon (R220). -/
def BeaconFrame.wellFormed (b : BeaconFrame) : Bool :=
  b.hdr.wellFormed && decide (b.turn < 2 ^ 48) && decide (b.hgId < 2 ^ 13) && decide (b.hgRank < 4) && decide (b.per < 8) &&
    decide (b.mode < 2) && decide (b.bhops < 2 ^ 16) && decide (b.cfgHash < 2 ^ 32)

/-- A furrow entry (R214). -/
def FurrowEntry.wellFormed (e : FurrowEntry) : Bool :=
  decide (e.src < 2 ^ 13) && decide (e.age < 16) && decide (e.eturn < 2 ^ 15) && decide (e.pzw < 2 ^ 64) &&
    decide (e.pcrc < 2 ^ 32) && decide (e.hzw < 2 ^ 64) && decide (e.hcrc < 2 ^ 32) && decide (e.nstat < 2 ^ 32)

/-- A furrow frame: at most 16 entries (R213). -/
def FurrowFrame.wellFormed (f : FurrowFrame) : Bool :=
  f.hdr.wellFormed && decide (f.entries.length ≤ 16) && f.entries.all FurrowEntry.wellFormed

/-- A spate frame (R221). -/
def SpateFrame.wellFormed (f : SpateFrame) : Bool :=
  f.hdr.wellFormed && decide (f.pmark < 2 ^ 32) && decide (f.pmcrc < 2 ^ 32) && decide (f.hmark < 2 ^ 32) &&
    decide (f.hmcrc < 2 ^ 32) && decide (f.oturn < 2 ^ 16)

/-- A service frame: at most 1,280 bytes of payload (R226). -/
def ServiceFrame.wellFormed (f : ServiceFrame) : Bool :=
  f.hdr.wellFormed && decide (f.dst < 2 ^ 13) && decide (f.orig < 2 ^ 13) && decide (f.stype < 2 ^ 8) && decide (f.sflg < 2 ^ 8) &&
    decide (f.sseq < 2 ^ 16) && decide (f.payload.length ≤ 1280)

/-- A scratchpad request within the 4 MiB of a die (R375). -/
def SpmReq.wellFormed (q : SpmReq) : Bool := decide (q.off < 0x400000)

/-- Timers of a die (R64, R65). -/
def timerLimit (die : Nat) : Nat := if die < 2 then 32 else 80

/-- Whether a command is well formed. -/
def Instr.wellFormed (i : Instr) : Bool :=
  match i with
  | .powerOnReset b => b.wellFormed
  | .porstN _ => true
  | .vauxTrip => true
  | .vcoreTrip => true
  | .vcoreRelease b => b.wellFormed
  | .vioTrip => true
  | .vioRelease => true
  | .vfnPowerUp fd => decide (fd < 6)
  | .vfnPowerLoss fd => decide (fd < 6)
  | .vfnOutOfRange fd => decide (fd < 6)
  | .vfnRecovered fd => decide (fd < 6)
  | .groundFault fd groups _ => decide (fd < 6) && decide (groups < 5)
  | .dieOverload fd => decide (fd < 6)
  | .partReset m key b => m.wellFormed && decide (key < 2 ^ 16) && b.wellFormed
  | .aonFailure => true
  | .aonRecovery b => b.wellFormed
  | .spllFailure ld => decide (ld < 2)
  | .lpllFailure ld => decide (ld < 2)
  | .txClockFailure ld => decide (ld < 2)
  | .txClockRecovery ld => decide (ld < 2)
  | .hclkStopped fd => decide (fd < 6)
  | .faonFailure fd => decide (fd < 6)
  | .tickEdge meas => meas.all Meas.wellFormed
  | .tickPinEdge _ meas => meas.all Meas.wellFormed
  | .tickEdgeMade meas => meas.all Meas.wellFormed
  | .runStart meas => meas.all Meas.wellFormed
  | .tnum0Read ld m => decide (ld < 2) && m.wellFormed
  | .laneWake c => decide (c.ld < 2) && c.x.wellFormed
  | .inputImageReceived ld fd tick flips _ => decide (ld < 2) && decide (fd < 6) && decide (tick < 256) && flipsOk flips
  | .laneTransaction ld lane x => decide (ld < 2) && decide (lane < 8) && x.wellFormed
  | .laneResetDone ld lane _ => decide (ld < 2) && decide (lane < 8)
  | .pPassEnd ld lane _ => decide (ld < 2) && decide (lane < 8)
  | .qPassEnd ld lane _ => decide (ld < 2) && decide (lane < 8)
  | .commitEnd ld lane e => decide (ld < 2) && decide (lane < 8) && e.same.all fun x => decide (x.1 < 32) && decide (x.2 < 32)
  | .latchPoint => true
  | .soakTimeout => true
  | .pEnableWordsReceived fd ld tick flips crc _ =>
    decide (fd < 6) && decide (ld < 2) && decide (tick < 256) && flipsOk flips && decide (crc < 2 ^ 16)
  | .applyPoint fd => decide (fd < 6)
  | .hTickStart fd ld flips _ _ meas => decide (fd < 6) && decide (ld < 2) && decide (flips < 2 ^ 24) && meas.all Meas.wellFormed
  | .hTickSelfStart fd _ meas => decide (fd < 6) && meas.all Meas.wellFormed
  | .hbusSlotSend fd => decide (fd < 6)
  | .hbusSlotReceive fd k _ x => decide (fd < 6) && decide (k < 6) && x.wellFormed
  | .htxBuild fd => decide (fd < 6)
  | .htxRead ld fd => decide (ld < 2) && decide (fd < 6)
  | .rxhWrite ld fd => decide (ld < 2) && decide (fd < 6)
  | .rxsWrite ld fd hmark hmcrc oturn =>
    decide (ld < 2) && decide (fd < 6) && decide (hmark < 2 ^ 32) && decide (hmcrc < 2 ^ 32) && decide (oturn < 2 ^ 16)
  | .sieveExchangeStart die => decide (die < 8)
  | .sieveRecordReceived die src x =>
    decide (die < 8) && decide (src < 8) && x.wellFormed && (decide (die < 2) != decide (src < 2))
  | .sieveCompare die => decide (die < 8)
  | .sieveFenceMessage die iid => decide (die < 8) && decide (iid < 768)
  | .fenceMessage fd iid _ => decide (fd < 6) && decide (iid < 768)
  | .terminalVoltageChange fd t _ code _ => decide (fd < 6) && decide (t < 64) && decide (code < 1024)
  | .maskClose fd t _ => decide (fd < 6) && decide (t < 64)
  | .testPulseSlotEnd fd slot _ => decide (fd < 6) && decide (slot < 32)
  | .currentLimitEngage fd t => decide (fd < 6) && decide (t < 64)
  | .shortGndTimeout fd t => decide (fd < 6) && decide (t < 64)
  | .gdTrip fd t => decide (fd < 6) && decide (t < 64)
  | .thermalShutdown fd t => decide (fd < 6) && decide (t < 64)
  | .reversedSuppressionEnd fd t => decide (fd < 6) && decide (t < 64)
  | .openLoadDetect fd t => decide (fd < 6) && decide (t < 64)
  | .termFenceClr m fd t => m.wellFormed && decide (fd < 6) && decide (t < 64)
  | .timerZero die n => decide (die < 8) && decide (n < timerLimit die)
  | .timerMatch die n => decide (die < 8) && decide (n < timerLimit die)
  | .timerEnable m die n => m.wellFormed && decide (die < 8) && decide (n < timerLimit die)
  | .timerDisable m die n _ => m.wellFormed && decide (die < 8) && decide (n < timerLimit die)
  | .timerRldnow m die n => m.wellFormed && decide (die < 8) && decide (n < timerLimit die)
  | .timerCapture die n _ _ => decide (die < 8) && decide (n < timerLimit die)
  | .timerCapRead m die n _ => m.wellFormed && decide (die < 8) && decide (n < timerLimit die)
  | .tpcodeWrite m fd n val => m.wellFormed && decide (fd < 6) && decide (n < 64) && decide (val < 2 ^ 32)
  | .functionTimerExpiry _ iid => decide (iid < 768)
  | .lampProbe _ iid => decide (iid < 768)
  | .spateRepeat _ iid => decide (iid < 768)
  | .pcsSyncChange ld p _ => decide (ld < 2) && decide (p < 2)
  | .autonegComplete ld p lpabil => decide (ld < 2) && decide (p < 2) && decide (lpabil < 2 ^ 16)
  | .autonegPartnerFault ld p lpabil => decide (ld < 2) && decide (p < 2) && decide (lpabil < 2 ^ 16)
  | .verifyComplete ld p => decide (ld < 2) && decide (p < 2)
  | .verifyFailure ld p => decide (ld < 2) && decide (p < 2)
  | .turnEdge e => decide (e.ld < 2)
  | .beaconReceived ld p b _ => decide (ld < 2) && decide (p < 2) && b.wellFormed
  | .tickLock ld => decide (ld < 2)
  | .holdoverTimeout ld => decide (ld < 2)
  | .headgateTakeover ld => decide (ld < 2)
  | .listenTimeout e => decide (e.ld < 2)
  | .joinTimeout ld => decide (ld < 2)
  | .furrowFrameSend ld q => decide (ld < 2) && decide (q.p < 2) && q.dbll.wellFormed
  | .furrowFrameReceived ld p f _ => decide (ld < 2) && decide (p < 2) && f.wellFormed
  | .furrowWindowEnd ld p => decide (ld < 2) && decide (p < 2)
  | .directionStale ld p => decide (ld < 2) && decide (p < 2)
  | .sluiceTruncation ld q => decide (ld < 2) && decide (q.p < 2) && decide (q.cls < 256) && q.dbll.wellFormed
  | .spateCutThrough ld p f => decide (ld < 2) && decide (p < 2) && f.wellFormed
  | .spateFrameReceived ld p f => decide (ld < 2) && decide (p < 2) && f.wellFormed
  | .serviceFrameForward ld p f _ => decide (ld < 2) && decide (p < 2) && f.wellFormed
  | .serviceFrameSend ld q => decide (ld < 2) && decide (q.p < 2)
  | .remoteMailboxRequest ld p f _ => decide (ld < 2) && decide (p < 2) && f.wellFormed
  | .bulkTransfer ld p f _ => decide (ld < 2) && decide (p < 2) && f.wellFormed
  | .diagnosticsRequest ld p f _ => decide (ld < 2) && decide (p < 2) && f.wellFormed
  | .linkDelayRequest ld p f _ t =>
    decide (ld < 2) && decide (p < 2) && f.wellFormed && decide (t.t2 < 2 ^ 64) && decide (t.t3 < 2 ^ 64)
  | .linkDelayResponse ld p f _ t4 _ => decide (ld < 2) && decide (p < 2) && f.wellFormed && decide (t4 < 2 ^ 64)
  | .linkDelayRequestSend ld q t1 => decide (ld < 2) && decide (q.p < 2) && decide (t1 < 2 ^ 64)
  | .sealSample _ _ _ _ _ => true
  | .sealMessage die _ tick flips _ => decide (die < 8) && decide (tick < 256) && flipsOk flips
  | .mailboxRing m ld mb => m.wellFormed && decide (ld < 2) && decide (mb < 8)
  | .mailboxAck m ld mb => m.wellFormed && decide (ld < 2) && decide (mb < 8)
  | .mailboxComplete ld mb resp => decide (ld < 2) && decide (mb < 8) && decide (resp.length ≤ 512)
  | .wardenAnswer ld mb => decide (ld < 2) && decide (mb < 8)
  | .hostWrite addr bytes => decide (addr < 2 ^ 24) && decide (1 ≤ bytes.length)
  | .hostRead addr n => decide (addr < 2 ^ 24) && decide (1 ≤ n)
  | .readHstat => true
  | .readId => true
  | .resetEn => true
  | .hostReset => true
  | .hostUnknownInstruction code => decide (code < 256)
  | .identify ld mb => decide (ld < 2) && decide (mb < 8)
  | .status ld mb => decide (ld < 2) && decide (mb < 8)
  | .diagRead ld mb => decide (ld < 2) && decide (mb < 8)
  | .configBegin ld mb => decide (ld < 2) && decide (mb < 8)
  | .configChunk ld mb => decide (ld < 2) && decide (mb < 8)
  | .configCommit ld mb => decide (ld < 2) && decide (mb < 8)
  | .commissionAck ld mb => decide (ld < 2) && decide (mb < 8)
  | .fwStageOpen ld mb => decide (ld < 2) && decide (mb < 8)
  | .fwStageData ld mb => decide (ld < 2) && decide (mb < 8)
  | .fwStageClose ld mb => decide (ld < 2) && decide (mb < 8)
  | .fwActivate ld mb => decide (ld < 2) && decide (mb < 8)
  | .ringStatus ld mb => decide (ld < 2) && decide (mb < 8)
  | .countersRead ld mb => decide (ld < 2) && decide (mb < 8)
  | .regRead ld mb => decide (ld < 2) && decide (mb < 8)
  | .regWrite ld w => decide (ld < 2) && decide (w.mb < 8) && w.same.all fun w => decide (w < 2 ^ 32)
  | .laneMigrate ld mb => decide (ld < 2) && decide (mb < 8)
  | .cellSwap ld mb => decide (ld < 2) && decide (mb < 8)
  | .fenceCtlFence ld mb => decide (ld < 2) && decide (mb < 8)
  | .fenceCtlClear ld mb => decide (ld < 2) && decide (mb < 8)
  | .bistRun ld mb => decide (ld < 2) && decide (mb < 8)
  | .tillerCtlRead ld mb => decide (ld < 2) && decide (mb < 8)
  | .tillerCtlSetPace ld mb => decide (ld < 2) && decide (mb < 8)
  | .tillerCtlPause ld mb => decide (ld < 2) && decide (mb < 8)
  | .tillerCtlResume ld mb => decide (ld < 2) && decide (mb < 8)
  | .crcJob ld mb => decide (ld < 2) && decide (mb < 8)
  | .timerCtlAcquire ld mb => decide (ld < 2) && decide (mb < 8)
  | .timerCtlRelease ld mb => decide (ld < 2) && decide (mb < 8)
  | .timerCtlSet ld mb => decide (ld < 2) && decide (mb < 8)
  | .timerCtlRead ld mb => decide (ld < 2) && decide (mb < 8)
  | .ringSchedule ld mb => decide (ld < 2) && decide (mb < 8)
  | .otpProgram ld mb => decide (ld < 2) && decide (mb < 8)
  | .otpReburn ld mb => decide (ld < 2) && decide (mb < 8)
  | .lcAdvance ld mb => decide (ld < 2) && decide (mb < 8)
  | .hoRestart ld mb => decide (ld < 2) && decide (mb < 8)
  | .hoDone ld mb => decide (ld < 2) && decide (mb < 8)
  | .freqFence m ld kind idx => m.wellFormed && decide (ld < 2) && decide (kind < 256) && decide (idx < 2 ^ 16)
  | .freqClear m ld kind idx => m.wellFormed && decide (ld < 2) && decide (kind < 256) && decide (idx < 2 ^ 16)
  | .ffreqFence m fd kind idx => m.wellFormed && decide (fd < 6) && decide (kind < 256) && decide (idx < 2 ^ 16)
  | .ffreqClear m fd kind idx => m.wellFormed && decide (fd < 6) && decide (kind < 256) && decide (idx < 2 ^ 16)
  | .fieldDieReset m fd => m.wellFormed && decide (fd < 6)
  | .leaseClaim m ld n => m.wellFormed && decide (ld < 2) && decide (n < 16)
  | .leaseRelease m ld n => m.wellFormed && decide (ld < 2) && decide (n < 16)
  | .watchdogKick m ld => m.wellFormed && decide (ld < 2)
  | .watchdogExpiry ld => decide (ld < 2)
  | .supervisorRestartDone ld => decide (ld < 2)
  | .logicDieLost ld => decide (ld < 2)
  | .scratchpadAccess ld c => decide (ld < 2) && c.reqs.all SpmReq.wellFormed
  | .eccWriteback ld off => decide (ld < 2) && decide (off < 0x400000)
  | .softRepair ld off => decide (ld < 2) && decide (off < 0x400000)
  | .segmentPowerOff m ld seg => m.wellFormed && decide (ld < 2) && decide (seg < 4)
  | .segmentPowerOn m ld seg => m.wellFormed && decide (ld < 2) && decide (seg < 4)
  | .segmentClearDone ld seg => decide (ld < 2) && decide (seg < 4)
  | .tillerAttemptStart ld => decide (ld < 2)
  | .tillerAttemptDone ld _ => decide (ld < 2)
  | .crcDin m ld n data be =>
    m.wellFormed && decide (ld < 2) && decide (n < 8) && decide (data < 2 ^ 32) && decide (be < 16)
  | .crcLoad m ld n => m.wellFormed && decide (ld < 2) && decide (n < 8)
  | .crcValWrite m ld n val => m.wellFormed && decide (ld < 2) && decide (n < 8) && decide (val < 2 ^ 32)
  | .scanGo m ld n _ => m.wellFormed && decide (ld < 2) && decide (n < 8)
  | .scanStop m ld n _ => m.wellFormed && decide (ld < 2) && decide (n < 8)
  | .scanDone ld n => decide (ld < 2) && decide (n < 8)
  | .lbistGo m ld e => m.wellFormed && decide (ld < 2) && decide (e < 10)
  | .lbistIsolationTimeout ld e => decide (ld < 2) && decide (e < 10)
  | .lbistAbort m ld e => m.wellFormed && decide (ld < 2) && decide (e < 10)
  | .lbistPatternsDone ld e misr => decide (ld < 2) && decide (e < 10) && decide (misr < 2 ^ 64)
  | .lbistReinitDone ld e => decide (ld < 2) && decide (e < 10)
  | .orderlyShutdown m => m.wellFormed
  | .shutdownDone _ => true
  | .fbistDone fd _ misr => decide (fd < 6) && decide (misr < 2 ^ 64)
  | .tapBypass code => decide (code < 256)
  | .tapIdcode => true
  | .tapSamplePreload => true
  | .tapExtest => true
  | .tapDbgacc => true
  | .tapScanen => true
  | .tapExit b => b.wellFormed
  | .trstN => true
  | .debugHaltLane ld lane => decide (ld < 2) && decide (lane < 8)
  | .debugHaltSupervisor ld => decide (ld < 2)
  | .debugResume ld core => decide (ld < 2) && decide (core < 9)
  | .vaultStart m => m.wellFormed
  | .vaultDin m data be => m.wellFormed && decide (data < 2 ^ 32) && decide (be < 16)
  | .vaultGo m => m.wellFormed
  | .vaultMacDone => true
  | .ocmdRead m ld => m.wellFormed && decide (ld < 2)
  | .ocmdProg m ld => m.wellFormed && decide (ld < 2)
  | .ocmdReburn m ld => m.wellFormed && decide (ld < 2)
  | .otpOperationDone w => decide (w.low < 2 ^ 72) && decide (w.norm < 2 ^ 72) && decide (w.high < 2 ^ 72)
  | .otpTokenGain => true
  | .olockset m ld set => m.wellFormed && decide (ld < 2) && decide (set < 256)
  | .registerWrite m addr w same =>
    m.wellFormed && decide (addr < 2 ^ 32) && decide (w.val < 2 ^ 32) && decide (w.be < 16) && decide (same < 2 ^ 32)
  | .porstNRelease b => b.wellFormed
  | .sgmiiLinkStatusChange ld p word => decide (ld < 2) && decide (p < 2) && decide (word < 2 ^ 16)
  | .currentLimitRelease fd t => decide (fd < 6) && decide (t < 64)
  | .gdtripThresholdCrossing fd t _ => decide (fd < 6) && decide (t < 64)

end Sys2Proof
end

