-- ==== Sys2Proof/Tests/Slice0.lean ====
section
/-!
SUPPORT. Tests: what the well-formedness checks refuse, values worked out in the spec, and for every statement with
hypotheses a state and operands that meet them, clause by clause, at values on the edge of their ranges.
-/

namespace Sys2Proof.Tests

set_option Elab.async false

open Sys2Proof Sys2Proof.Machine

/-! What the checks refuse. -/

/-- Supervisor `ld` as a bus master. -/
def svM (ld : Nat) : Master := Master.sv ld

/-- The host port as a master (log entry 21). -/
def hostM : Master := ⟨0, 0x20⟩

def boot0 : BootIn := ⟨true, [], [], [], []⟩
def badBoot : BootIn := ⟨true, [], [32], [], []⟩
def badMeas : Meas := ⟨6, 0, 0, 0, 0, false, 0⟩
def clean : Transit := ⟨[], true⟩
def cut : Transit := ⟨[], false⟩
def badFlips : Transit := ⟨[(0, 256)], true⟩
def arr0 : Arrival := ⟨0, 0⟩
def sound : RailFault := ⟨0, 0⟩
def txn0 : LaneTxn := ⟨0x10000, 0, 15, 0, 0, 0, sound, sound⟩
def hdr0 : FrameHdr := ⟨true, 0x01C9E0000000, 0x88B5, 1, 2, 0x1234, 2, false, 0, false⟩
def beacon0 : BeaconFrame := ⟨hdr0, 7, 2, 1, 0, 0, 1, 0, 0⟩
def entry0 : FurrowEntry := ⟨2, 1, 0, 0, 0, 0, 0, 0⟩
def furrow0 : FurrowFrame := ⟨hdr0, 8, [entry0]⟩
def spate0 : SpateFrame := ⟨hdr0, 0, 0, 0, 0, 0, 0⟩
def service0 : ServiceFrame := ⟨hdr0, 0, 2, 1, 0, 0, []⟩
def meas0 : Meas := ⟨0, 0, 0, 0, 0, false, 300⟩

theorem test_wellFormed_accepts : (Instr.tickEdge [meas0]).wellFormed = true ∧ (Instr.powerOnReset boot0).wellFormed = true ∧
    (Instr.laneTransaction 1 7 txn0).wellFormed = true ∧ (Instr.beaconReceived 1 1 beacon0 0).wellFormed = true ∧
    (Instr.furrowFrameReceived 0 0 furrow0 arr0).wellFormed = true ∧ (Instr.spateFrameReceived 0 0 spate0).wellFormed = true ∧
    (Instr.serviceFrameForward 0 0 service0 arr0).wellFormed = true ∧ (Instr.mailboxRing (svM 1) 1 7).wellFormed = true := by decide

/-- Each term breaks one check of `Instr.wellFormed` or of a part of a command. -/
theorem test_wellFormed_refuses_units : ([.vfnPowerUp 6, .spllFailure 2, .hclkStopped 6, .groundFault 0 5 false, .groundFault 6 0 true,
    .partReset ⟨8, 9⟩ 0 boot0, .partReset ⟨0, 256⟩ 0 boot0, .partReset (svM 0) 0x10000 boot0, .laneWake ⟨2, clean⟩, .laneWake ⟨0, badFlips⟩,
    .tnum0Read 2 (svM 0), .inputImageReceived 2 0 0 [] true, .inputImageReceived 0 6 0 [] true,
    .inputImageReceived 0 0 256 [] true, .inputImageReceived 0 0 0 badFlips.flips true,
    .laneResetDone 0 8 0, .pPassEnd 2 0 0, .qPassEnd 0 8 0, .commitEnd 2 0 ⟨0, []⟩,
    .pEnableWordsReceived 6 0 0 [] 0 true, .pEnableWordsReceived 0 2 0 [] 0 true, .pEnableWordsReceived 0 0 256 [] 0 true,
    .pEnableWordsReceived 0 0 0 badFlips.flips 0 true, .pEnableWordsReceived 0 0 0 [] 65536 true, .applyPoint 6,
    .hTickStart 6 0 0 true 0 [], .hTickStart 0 2 0 true 0 [], .hTickStart 0 0 (2 ^ 24) true 0 [], .hTickSelfStart 6 0 [], .hbusSlotSend 6,
    .hbusSlotReceive 6 0 0 clean, .hbusSlotReceive 0 6 0 clean, .hbusSlotReceive 0 0 0 badFlips, .htxBuild 6, .htxRead 2 0, .htxRead 0 6,
    .rxhWrite 2 0, .rxhWrite 0 6, .rxsWrite 2 0 0 0 0, .rxsWrite 0 6 0 0 0, .rxsWrite 0 0 (2 ^ 32) 0 0, .rxsWrite 0 0 0 (2 ^ 32) 0,
    .rxsWrite 0 0 0 0 (2 ^ 16),
    .powerOnReset badBoot, .vcoreRelease badBoot, .aonRecovery badBoot, .tapExit badBoot, .porstNRelease badBoot, .partReset (svM 0) 0 badBoot,
    .vfnPowerLoss 6, .vfnOutOfRange 6, .vfnRecovered 6, .dieOverload 6, .faonFailure 6, .lpllFailure 2, .txClockFailure 2, .txClockRecovery 2,
    .tickEdge [badMeas], .tickPinEdge 0 [badMeas], .tickEdgeMade [badMeas], .runStart [badMeas], .hTickStart 0 0 0 true 0 [badMeas],
    .hTickSelfStart 0 0 [badMeas], .laneTransaction 2 0 txn0, .laneTransaction 0 8 txn0, .laneTransaction 0 0 { txn0 with type := 3 }] : List Instr).all (fun i => !i.wellFormed) = true := by decide

theorem test_wellFormed_refuses_field : ([.sieveExchangeStart 8, .sieveRecordReceived 8 0 clean, .sieveRecordReceived 2 8 clean,
    .sieveRecordReceived 0 1 clean, .sieveRecordReceived 0 2 badFlips, .sieveCompare 8, .sieveFenceMessage 8 0, .sieveFenceMessage 0 768,
    .fenceMessage 6 0 false, .fenceMessage 0 768 false, .terminalVoltageChange 6 0 true 0 0, .terminalVoltageChange 0 64 true 0 0,
    .terminalVoltageChange 0 0 true 1024 0, .maskClose 6 0 true, .maskClose 0 64 true, .testPulseSlotEnd 6 0 ⟨true, []⟩,
    .testPulseSlotEnd 0 32 ⟨true, []⟩, .currentLimitEngage 6 0, .currentLimitEngage 0 64, .currentLimitRelease 6 0, .currentLimitRelease 0 64,
    .shortGndTimeout 6 0, .shortGndTimeout 0 64, .gdTrip 6 0, .gdTrip 0 64, .gdtripThresholdCrossing 6 0 true,
    .gdtripThresholdCrossing 0 64 true, .thermalShutdown 6 0, .thermalShutdown 0 64, .reversedSuppressionEnd 6 0,
    .reversedSuppressionEnd 0 64, .openLoadDetect 6 0, .openLoadDetect 0 64, .termFenceClr ⟨8, 0⟩ 0 0, .termFenceClr (svM 0) 6 0,
    .termFenceClr (svM 0) 0 64, .timerZero 8 0, .timerZero 0 32, .timerZero 2 80, .timerMatch 8 0, .timerMatch 1 32,
    .timerEnable ⟨0, 256⟩ 0 0, .timerEnable (svM 0) 8 0, .timerEnable (svM 0) 0 32, .timerDisable (svM 0) 8 0 0,
    .timerDisable (svM 0) 2 80 0, .timerRldnow (svM 0) 8 0, .timerRldnow (svM 0) 0 32, .timerCapture 8 0 0 true,
    .timerCapture 0 32 0 true, .timerCapRead (svM 0) 8 0 none, .timerCapRead (svM 0) 0 32 none, .tpcodeWrite ⟨8, 0⟩ 0 0 0,
    .tpcodeWrite (svM 0) 6 0 0, .tpcodeWrite (svM 0) 0 64 0, .tpcodeWrite (svM 0) 0 0 0x100000000, .functionTimerExpiry true 768,
    .lampProbe false 768, .spateRepeat true 768] : List Instr).all (fun i => !i.wellFormed) = true := by decide

theorem test_wellFormed_refuses_ring : ([.pcsSyncChange 2 0 true, .pcsSyncChange 0 2 true, .autonegComplete 2 0 0, .autonegComplete 0 2 0,
    .autonegComplete 0 0 0x10000, .autonegPartnerFault 0 0 0x10000, .verifyComplete 2 0, .verifyFailure 0 2, .turnEdge ⟨2, ⟨0, 0⟩, 0⟩,
    .beaconReceived 2 0 beacon0 0, .beaconReceived 0 2 beacon0 0, .beaconReceived 0 0 { beacon0 with mode := 2 } 0, .tickLock 2,
    .holdoverTimeout 2, .headgateTakeover 2, .listenTimeout ⟨2, ⟨0, 0⟩⟩, .joinTimeout 2, .furrowFrameSend 2 ⟨0, 0, clean⟩, .furrowFrameSend 0 ⟨2, 0, clean⟩,
    .furrowFrameSend 0 ⟨0, 0, badFlips⟩,
    .furrowFrameReceived 0 2 furrow0 arr0, .furrowFrameReceived 0 0 { furrow0 with entries := List.replicate 17 entry0 } arr0,
    .furrowWindowEnd 2 0, .directionStale 0 2, .sluiceTruncation 2 ⟨0, 1, 0, clean⟩, .sluiceTruncation 0 ⟨0, 256, 0, clean⟩,
    .sluiceTruncation 0 ⟨2, 1, 0, clean⟩, .sluiceTruncation 0 ⟨0, 1, 0, badFlips⟩, .spateCutThrough 2 0 spate0,
    .spateFrameReceived 0 2 spate0, .spateFrameReceived 0 0 { spate0 with oturn := 2 ^ 16 }, .serviceFrameForward 2 0 service0 arr0,
    .serviceFrameForward 0 0 { service0 with stype := 256 } arr0, .serviceFrameSend 0 ⟨2, 0⟩, .remoteMailboxRequest 0 2 service0 arr0,
    .bulkTransfer 2 0 service0 arr0, .diagnosticsRequest 0 2 service0 arr0, .linkDelayRequest 2 0 service0 arr0 ⟨0, 0⟩,
    .linkDelayRequest 0 0 { service0 with sseq := 2 ^ 16 } arr0 ⟨0, 0⟩, .linkDelayRequest 0 0 service0 arr0 ⟨2 ^ 64, 0⟩,
    .linkDelayRequest 0 0 service0 arr0 ⟨0, 2 ^ 64⟩, .linkDelayResponse 0 2 service0 arr0 0 ⟨0, 0⟩,
    .linkDelayResponse 0 0 service0 arr0 (2 ^ 64) ⟨0, 0⟩,
    .linkDelayRequestSend 0 ⟨0, 0⟩ (2 ^ 64), .sgmiiLinkStatusChange 0 0 0x10000, .sgmiiLinkStatusChange 2 0 0] : List Instr).all
    (fun i => !i.wellFormed) = true := by decide

theorem test_wellFormed_refuses_host : ([.sealMessage 8 true 0 [] true, .sealMessage 0 true 256 [] true,
    .sealMessage 0 true 0 badFlips.flips true, .mailboxRing ⟨8, 0⟩ 0 0,
    .mailboxRing hostM 2 0, .mailboxAck hostM 0 8, .mailboxComplete 0 0 (List.replicate 513 0), .mailboxComplete 2 0 [],
    .wardenAnswer 0 8, .hostWrite 0x1000000 [0], .hostWrite 0 [], .hostRead 0x1000000 1, .hostRead 0 0, .hostUnknownInstruction 256,
    .identify 2 0, .status 0 8, .diagRead 2 0, .configBegin 0 8, .configChunk 2 0, .configCommit 0 8, .commissionAck 2 0,
    .fwStageOpen 0 8, .fwStageData 2 0, .fwStageClose 0 8, .fwActivate 2 0, .ringStatus 0 8, .countersRead 2 0, .regRead 0 8,
    .regWrite 2 ⟨0, []⟩, .regWrite 0 ⟨8, []⟩, .regWrite 0 ⟨0, [2 ^ 32]⟩, .laneMigrate 0 8, .cellSwap 2 0, .fenceCtlFence 0 8, .fenceCtlClear 2 0,
    .bistRun 0 8, .tillerCtlRead 2 0, .tillerCtlSetPace 0 8, .tillerCtlPause 2 0, .tillerCtlResume 0 8, .crcJob 2 0, .timerCtlAcquire 0 8,
    .timerCtlRelease 2 0, .timerCtlSet 0 8, .timerCtlRead 2 0, .ringSchedule 0 8, .otpProgram 2 0, .otpReburn 0 8, .lcAdvance 2 0,
    .hoRestart 0 8, .hoDone 2 0] : List Instr).all (fun i => !i.wellFormed) = true := by decide +kernel

theorem test_wellFormed_refuses_units_of_a_die : ([.freqFence ⟨8, 0⟩ 0 0 0, .freqFence (svM 0) 2 0 0, .freqClear (svM 0) 0 256 0,
    .freqClear (svM 0) 0 0 0x10000, .ffreqFence (svM 0) 6 0 0, .ffreqFence (svM 0) 0 256 0, .ffreqClear (svM 0) 0 0 0x10000,
    .fieldDieReset (svM 0) 6, .leaseClaim (svM 0) 2 0, .leaseClaim (svM 0) 0 16, .leaseRelease (svM 0) 0 16, .watchdogKick (svM 0) 2,
    .watchdogExpiry 2, .supervisorRestartDone 2, .logicDieLost 2, .scratchpadAccess 2 ⟨[], 0, []⟩, .scratchpadAccess 0 ⟨[⟨1, 0x400000, 4, none⟩], 0, []⟩,
    .eccWriteback 0 0x400000, .softRepair 2 0, .softRepair 0 0x400000, .segmentPowerOff (svM 0) 0 4, .segmentPowerOn (svM 0) 2 1,
    .segmentClearDone 0 4, .tillerAttemptStart 2, .tillerAttemptDone 2 [], .crcDin (svM 0) 0 8 0 15, .crcDin (svM 0) 0 0 0x100000000 15,
    .crcDin (svM 0) 0 0 0 16, .crcLoad (svM 0) 0 8, .crcValWrite (svM 0) 0 0 0x100000000, .scanGo (svM 0) 0 8 false,
    .scanStop (svM 0) 2 0 0, .scanDone 0 8, .lbistGo (svM 0) 0 10, .lbistIsolationTimeout 0 10, .lbistAbort (svM 0) 2 0,
    .lbistPatternsDone 0 0 (2 ^ 64), .lbistReinitDone 0 10, .orderlyShutdown ⟨8, 0⟩, .fbistDone 6 true 0, .fbistDone 0 true (2 ^ 64),
    .tapBypass 256, .debugHaltLane 0 8, .debugHaltSupervisor 2, .debugResume 0 9, .vaultStart ⟨8, 0⟩, .vaultDin (svM 0) 0x100000000 15,
    .vaultDin (svM 0) 0 16, .vaultGo ⟨0, 256⟩, .ocmdRead (svM 0) 2, .ocmdProg ⟨8, 0⟩ 0, .ocmdReburn (svM 0) 2, .olockset (svM 0) 0 256,
    .registerWrite (svM 0) 0x100000000 ⟨0, 15⟩ 0, .registerWrite (svM 0) 0 ⟨0x100000000, 15⟩ 0, .registerWrite (svM 0) 0 ⟨0, 16⟩ 0,
    .registerWrite (svM 0) 0 ⟨0, 15⟩ 0x100000000] : List Instr).all (fun i => !i.wellFormed) = true := by decide

theorem test_wellFormed_refuses_parts : (⟨8, 9⟩ : Master).wellFormed = false ∧ (⟨0, 256⟩ : Master).wellFormed = false ∧
    badFlips.wellFormed = false ∧ (⟨2 ^ 73, 0⟩ : RailFault).wellFormed = false ∧ (⟨0, 2 ^ 73⟩ : RailFault).wellFormed = false ∧
    ([⟨6, 0, 0, 0, 0, false, 0⟩, ⟨0, 64, 0, 0, 0, false, 0⟩, ⟨0, 0, 1024, 0, 0, false, 0⟩, ⟨0, 0, 0, 1024, 0, false, 0⟩,
      ⟨0, 0, 0, 0, 1024, false, 0⟩, ⟨0, 0, 0, 0, 0, false, 1024⟩] : List Meas).all (fun m => !m.wellFormed) = true ∧
    ([⟨true, [(2, 0, true, 0)], [], [], []⟩, ⟨true, [(0, 33, true, 0)], [], [], []⟩, ⟨true, [], [32], [], []⟩,
      ⟨true, [], [], [32], []⟩, ⟨true, [], [], [], [6]⟩] : List BootIn).all (fun b => !b.wellFormed) = true ∧
    ([{ txn0 with addr := 2 ^ 32 }, { txn0 with data := 2 ^ 32 }, { txn0 with be := 16 }, { txn0 with type := 3 }, { txn0 with flips := 2 ^ 75 },
      { txn0 with rail0 := ⟨2 ^ 73, 0⟩ }, { txn0 with rail1 := ⟨0, 2 ^ 73⟩ }] : List LaneTxn).all (fun x => !x.wellFormed) = true ∧
    ([{ hdr0 with dst := 2 ^ 48 }, { hdr0 with etype := 2 ^ 16 }, { hdr0 with ver := 256 }, { hdr0 with cls := 256 },
      { hdr0 with rid := 2 ^ 16 }, { hdr0 with snd := 2 ^ 13 }, { hdr0 with sturn := 2 ^ 16 }] : List FrameHdr).all
      (fun h => !h.wellFormed) = true ∧
    ([{ beacon0 with hdr := { hdr0 with cls := 256 } }, { beacon0 with turn := 2 ^ 48 }, { beacon0 with hgId := 2 ^ 13 },
      { beacon0 with hgRank := 4 }, { beacon0 with per := 8 }, { beacon0 with mode := 2 }, { beacon0 with bhops := 2 ^ 16 },
      { beacon0 with cfgHash := 2 ^ 32 }] : List BeaconFrame).all (fun b => !b.wellFormed) = true ∧
    ([{ entry0 with src := 2 ^ 13 }, { entry0 with age := 16 }, { entry0 with eturn := 2 ^ 15 }, { entry0 with pzw := 2 ^ 64 },
      { entry0 with pcrc := 2 ^ 32 }, { entry0 with hzw := 2 ^ 64 }, { entry0 with hcrc := 2 ^ 32 },
      { entry0 with nstat := 2 ^ 32 }] : List FurrowEntry).all (fun e => !e.wellFormed) = true ∧
    ([{ furrow0 with hdr := { hdr0 with cls := 256 } }, { furrow0 with entries := List.replicate 17 entry0 },
      { furrow0 with entries := [{ entry0 with age := 16 }] }] : List FurrowFrame).all (fun f => !f.wellFormed) = true ∧
    ([{ spate0 with hdr := { hdr0 with cls := 256 } }, { spate0 with pmark := 2 ^ 32 }, { spate0 with pmcrc := 2 ^ 32 },
      { spate0 with hmark := 2 ^ 32 }, { spate0 with hmcrc := 2 ^ 32 }, { spate0 with oturn := 2 ^ 16 }] : List SpateFrame).all
      (fun f => !f.wellFormed) = true ∧
    ([{ service0 with hdr := { hdr0 with cls := 256 } }, { service0 with dst := 2 ^ 13 }, { service0 with orig := 2 ^ 13 },
      { service0 with stype := 256 }, { service0 with sflg := 256 }, { service0 with sseq := 2 ^ 16 },
      { service0 with payload := List.replicate 1281 0 }] : List ServiceFrame).all (fun f => !f.wellFormed) = true ∧
    (⟨1, 0x400000, 4, none⟩ : SpmReq).wellFormed = false := by decide +kernel

/-- The table gives its rows no bits: no word spells a command. -/
theorem test_no_word_spells_a_command : decodeTableWord 8 0 = none ∧ decodeTableWord 16 0xFFFF = none := by decide

/-! ### States -/

/-- The part in Run, VENDOR, every field die powered, both supervisors in service on their firmware. -/
def inRun : State :=
  let s : State := { State.reset with part := { State.reset.part with phase := .run, bootStep := 10 },
                                      fields := (List.range 6).map fun fd => (fd, { FieldSt.zero with power := true }) }
  let s := (((s.put F.LBIST_LCSTAT_LC 0 0 1).put F.LBIST_LCSTAT_LC 1 0 1).put F.SPM_PWR_CLEARING 0 0 0).put F.SPM_PWR_CLEARING 1 0 0
  ((s.setSv 0 { SvSt.zero with romOnly := false }).setSv 1 { SvSt.zero with romOnly := false }).moveLeases

/-- `inRun` with the gate of die 0 open. -/
def gateOpen : State := inRun.put F.SYSCTL_SEAL_GATE 0 0 1

/-- An unsigned request posted in a mailbox. -/
def posted (s : State) (ld mb op : Nat) (payload : List Byte) : State :=
  (s.setBytes (mbBase ld mb) (message op 0x77 0 (isExpert op).toNat 1 0 payload)).mbRing ld mb

/-- `State.Serves` as a check. -/
def servesB (s : State) (ld mb op : Nat) : Bool :=
  s.hasLd ld && decide (mb < 8) && s.serverReady ld mb && decide ((s.req ld mb).op = op) && decide ((s.req ld mb).formStatus = 0) &&
    decide (s.seqCase ld mb (s.req ld mb).seq = .new) && decide ((fieldAt (s.req ld mb).bytes 7 1).testBit 0 = isExpert op) &&
    match opRow op with
    | some r => s.mbAdmits mb op r && decide ((s.authorise mb (s.req ld mb) r).2 = 0) &&
        decide ((s.accepted ld mb).columnStatus op r (s.serverDie ld mb) = 0)
    | none => false

theorem serves_of_servesB {s : State} {ld mb op : Nat} (h : servesB s ld mb op = true) : s.Serves ld mb op := by
  unfold servesB at h
  cases hr : opRow op with
  | none => simp [hr] at h
  | some r =>
    simp only [hr, Bool.and_eq_true, decide_eq_true_eq] at h
    exact ⟨h.1.1.1.1.1.1.1, h.1.1.1.1.1.1.2, h.1.1.1.1.1.2, h.1.1.1.1.2, h.1.1.1.2, h.1.1.2, ⟨r, hr, h.2.1.1, h.2.1.2, h.2.2⟩, h.1.2⟩

/-! ### The hypotheses of the statements are met -/

/-- StepRunsTheFrontCommand, StepKeepsTheInvariant, NoStepTakesBackAnOtpWord: a queue that is empty, and one whose step answers. -/
theorem witness_StepRunsTheFrontCommand : inRun.pending = [] ∧ ∃ t, step { inRun with pending := [.resetEn, .hostReset] } = .next t :=
  ⟨by decide, _, rfl⟩

/-- A programmed word that reads as `d` at every margin. -/
def otpGood (d : Nat) : OtpWord := ⟨otpCode d, otpCode d, otpCode d⟩

def otpMarked : State := { State.reset with otp := [(3, otpGood 5)], pending := [.tapIdcode] }

theorem otpMarked_word (w : Nat) : otpMarked.otpWord w = if w = 3 then otpGood 5 else OtpWord.blank := by
  by_cases h : w = 3
  · subst h; rfl
  · simp [otpMarked, State.otpWord, Store.get, h, Ne.symm h]

theorem witness_StepKeepsTheInvariant : otpMarked.Inv ∧ ∃ t, step otpMarked = .next t := by
  have p := otpCode_pos (show 5 % 2 ^ 64 ≠ 0 by decide)
  refine ⟨⟨⟨rfl, rfl, rfl, ?_⟩, fun w => ?_, fun die => by simp [otpMarked, State.reset, Store.get]⟩, _, rfl⟩
  · simp [otpMarked, Store.wf, otpGood, OtpWord.blank, p]
  · rw [otpMarked_word]
    split
    · exact ⟨otpCode_lt 5, otpCode_lt 5, otpCode_lt 5, fun h => by simp [otpGood, OtpWord.prog, p] at h⟩
    · exact ⟨by decide, by decide, by decide, fun _ => rfl⟩

theorem witness_NoStepTakesBackAnOtpWord : (∃ t, step otpMarked = .next t) ∧ (otpMarked.otpWord 3).prog = true ∧
    (otpMarked.otpWord 3).data = 5 := by
  rw [otpMarked_word]
  exact ⟨⟨_, rfl⟩, (otpWord_of_code (d := 5) (by decide)).1, (otpWord_of_code (d := 5) (by decide)).2.2⟩

/-- The frames of memory, flash, OTP words, tick and image: a command that each of them speaks of, and that answers. -/
theorem witness_OnlyTheseCommandsTouchMemory : ∃ t, exec .vioTrip inRun = .next t := ⟨_, rfl⟩
theorem witness_OnlySupervisorCommandsTouchFlash : ∃ t, exec (.watchdogKick (svM 0) 0) inRun = .next t := ⟨_, rfl⟩
theorem witness_OnlyTheseCommandsTouchOtp : ∃ t, exec (.ocmdRead (svM 0) 0) inRun = .next t := ⟨_, rfl⟩
theorem witness_OnlyTheseCommandsMoveTheTick : ∃ t, exec .latchPoint inRun = .next t := ⟨_, rfl⟩
theorem witness_OnlyTheseCommandsChangeTheImage : ∃ t, exec (.otpOperationDone (otpGood 1)) { inRun with otpOp := ⟨1, 3, 1⟩ } = .next t := ⟨_, rfl⟩

theorem witness_ResetSourcesResetThePart :
    let held : State := { inRun with part := { inRun.part with phase := .held } }
    inRun.part.porst = false ∧ 99 < 100 ∧ inRun.part.vaux = false ∧ 1000 ≤ 1000 ∧ 100 ≤ 100 ∧ 100 ≤ 999 ∧ 999 < 1000 ∧
    ({ held with part := { held.part with porst := true } } : State).part.porst = true ∧
    ({ held with part := { held.part with vcore := true } } : State).part.vcore = true ∧ held.part.aon = false ∧ held.part.phase ≠ .boot ∧
    inRun.part.rstDue = false ∧ WriteAdmitted inRun (svM 0) .CLKPWR_RSTCTL 0 0 ((svM 0).isSvOf 0) true ∧
    ({ inRun with part := { inRun.part with tapSafe := true } } : State).part.tapSafe = true ∧
    ({ held with part := { held.part with aon := true } } : State).part.aon = true ∧ inRun.part.vcore = false ∧ inRun.hasLd 1 = true := by
  unfold WriteAdmitted; decide

theorem witness_SupplyAndClockFlagsShow :
    inRun.part.vio = false ∧ ({ inRun with part := { inRun.part with vio := true } } : State).part.vio = true ∧
    inRun.hasLd 1 = true ∧ inRun.txGood 1 = true ∧
    (∃ t, exec (.txClockFailure 1) inRun = .next t ∧ t.txGood 1 = false) ∧
    (inRun.put F.CLKPWR_CLKSTAT_LPLLON 1 0 1).flag F.CLKPWR_CLKSTAT_LPLLON 1 0 = true ∧ inRun.hasFd 5 = true :=
  ⟨by decide, rfl, by decide, by decide, ⟨_, rfl, by decide⟩, by decide, by decide⟩

def noPower : State := inRun.setField 5 { inRun.field 5 with power := false }
def outOfRange : State := inRun.setField 5 { inRun.field 5 with vfSafe := true }

theorem witness_FieldSupplyRowsSetTheDie : noPower.hasFd 5 = true ∧ (noPower.field 5).power = false ∧
    (inRun.field 5).power = true ∧ (inRun.field 5).vfSafe = false ∧ (outOfRange.field 5).power = true ∧ (outOfRange.field 5).vfSafe = true ∧
    WriteAdmitted inRun (svM 1) .FSYS_FRST (fdie 5) 0 (svM 1).isSv true ∧
    (inRun.fenced U.field (fdie 5) 0 || (inRun.field 5).vfSafe) = false ∧
    WriteAdmitted outOfRange (svM 0) .FSYS_FRST (fdie 5) 0 (svM 0).isSv true ∧
    (outOfRange.fenced U.field (fdie 5) 0 || (outOfRange.field 5).vfSafe) = true := by
  unfold WriteAdmitted; decide

theorem witness_AFaultOfAFieldDieFencesIt : inRun.hasFd 0 = true ∧ inRun.hasFd 5 = true ∧ inRun.fenced U.field (fdie 0) 0 = false ∧
    inRun.fenced U.field (fdie 5) 0 = false ∧ 0 ≤ 4 ∧ 2 ≤ 2 ∧ 2 ≤ 4 := by decide

theorem witness_TickEdgesNumberTheTicks :
    let pin := (inRun.put F.TICK_TSTAT_SRCNOW 0 0 2).put F.TICK_TPOS_NPER 0 0 200000
    let locked := inRun.put F.TICK_TSTAT_LOCKED 0 0 1
    inRun.inRun = true ∧ inRun.get F.TICK_TSTAT_SRCNOW 0 0 ≠ 2 ∧ pin.inRun = true ∧ pin.get F.TICK_TSTAT_SRCNOW 0 0 = 2 ∧
    (Int.natAbs (-(pin.nper / 100 : Nat)) * 100 ≤ pin.nper ∧ pin.nper < Int.natAbs (pin.nper / 100 + 1 : Nat) * 100) ∧
    ({ locked with part := { locked.part with phase := .wait } } : State).mayRun = true := by decide

/-- Address `off` of the window of LANE7 of L1. -/
def win (off : Nat) : Nat := 2 ^ 28 + 0x4710000 + off

/-- A lane that is in a pass, with a trace. -/
def inPass (p : LanePhase) (tr : List TraceEntry) (q : Nat) : State :=
  inRun.setLane 1 7 { LaneSt.zero with ph := p, trace := tr, qIdx := q, seg := 1 }

def sealedEntry (e : TraceEntry) : TraceEntry := { e with par := e.parity }
def firstEntry : TraceEntry := sealedEntry ⟨0x10, 5, 15, 1, 0, 0⟩
def marker : TraceEntry := sealedEntry ⟨0, 1, 15, 2, 7, 0⟩

/-- A transaction without hardware faults. -/
def txn (addr data type : Nat) : LaneTxn := ⟨addr, data, 15, type, 0, 0, sound, sound⟩

theorem witness_LanePassesAnswer :
    let full := inPass .pPass (List.replicate 3 firstEntry) 0
    inRun.hasLd 1 = true ∧ 7 < 8 ∧ inRun.inRun = true ∧ inRun.fenced U.logic 1 0 = false ∧
    inRun.fenced U.lane 1 7 = false ∧ (false && inRun.mayWake 1 7) = false ∧
    (inRun.setFence U.lane 1 7 { Fence.zero with on := true }).fenced U.lane 1 7 = true ∧
    (inRun.put F.LANE_LCTL_RUN 1 7 1).mayWake 1 7 = true ∧
    full.inPhase 1 7 .pPass = true ∧ (full.lane 1 7).trace.length < 4096 ∧
    targetBad 1 7 (txn (win 0x10) 5 1) = false ∧ halfBad false 1 7 (txn (win 0x10) 5 1) = false ∧
    (windowOff 1 7 (win 0x3FFF)).isSome = true ∧ halfBad false 1 7 (txn (win 0x3FFF) 5 0) = false ∧
    targetBad 1 7 (txn 0 0 2) = false ∧ halfBad false 1 7 (txn 0 0 2) = false ∧
    (inPass .pPass [firstEntry, marker] 0).inPhase 1 7 .pPass = true ∧
    (((inPass .pPass [firstEntry, marker] 0).lane 1 7).trace.getLast?.map TraceEntry.type) = some 2 ∧
    (inPass .qPass [firstEntry, marker] 2).inPhase 1 7 .qPass = true ∧
    ((inPass .qPass [firstEntry, marker] 2).lane 1 7).trace.length ≤ ((inPass .qPass [firstEntry, marker] 2).lane 1 7).qIdx ∧
    (inPass .commit [firstEntry, marker] 2).inPhase 1 7 .commit = true ∧ (inPass .reset [] 0).inPhase 1 7 .reset = true := by decide +kernel

/-- The Q transaction that agrees with `firstEntry` (rails complemented, address mirrored in its half), one that does not, one
whose rails disagree, an entry whose parity fails. -/
theorem witness_AMismatchDiscardsTheSegment :
    let s := inPass .qPass [firstEntry, marker] 0
    let good := txn (win (Nat.xor 0x10 0x7FFC)) 0xFFFFFFFA 1
    let bad := txn (win (Nat.xor 0x10 0x7FFC)) 0xFFFFFFF8 1
    let diff (x : LaneTxn) := Nat.xor firstEntry.bits (entryOf true 1 7 x).bits &&& compareMask firstEntry
    s.inPhase 1 7 .qPass = true ∧ good.type < 3 ∧ good.be < 16 ∧ good.addr < 2 ^ 32 ∧ good.data < 2 ^ 32 ∧ good.flips = 0 ∧
    (s.issue true 1 7 good).2 = false ∧ (s.issue true 1 7 bad).2 = false ∧ halfBad true 1 7 good = false ∧ halfBad true 1 7 bad = false ∧
    ¬((s.lane 1 7).seg = 0 ∧ (s.lane 1 7).inj = some (s.lane 1 7).qIdx) ∧
    (s.lane 1 7).trace[(s.lane 1 7).qIdx]? = some firstEntry ∧ firstEntry.par = firstEntry.parity ∧ firstEntry.par < 4 ∧
    diff good = 0 ∧ diff bad = 2 * 2 ^ 32 ∧
    firstEntry.addr = Nat.xor (Nat.xor 0x10 0x7FFC) 0x7FFC ∧ (txnClass 1 7 good).getD 0 = firstEntry.cls ∧
    railShows ⟨2 * 2 ^ 32, 0⟩ (diff bad) ≠ railShows sound (diff bad) ∧ railShows ⟨0, 2 ^ 72⟩ (diff good) ≠ railShows sound (diff good) ∧
    (let e := { firstEntry with par := 3 - firstEntry.parity }
     e.par ≠ e.parity ∧ e.par < 4) := by decide +kernel

theorem witness_InputImagesAreFrozenOrDropped :
    let s := { inRun with tick := 9 }
    let now := s.setField 5 { s.field 5 with htick := 9 }
    inRun.hasLd 1 = true ∧ inRun.hasFd 5 = true ∧ (inRun.field 5).power = true ∧ (now.field 5).htick = now.tick ∧
    (Transit.parts 0 [] true).receive now.tick (now.field 5).htick (now.imageBody 5) = some (now.imageBody 5) ∧
    (Transit.parts 0 [] false).receive now.tick (now.field 5).htick (now.imageBody 5) = none ∧
    (Transit.parts 1 [] true).receive now.tick (now.field 5).htick (now.imageBody 5) = none ∧
    (Transit.parts 0 [(257, 128)] true).crcFails (now.field 5).htick (now.imageBody 5) = true ∧
    (Transit.parts 0 [] true).receive s.tick (s.field 5).htick (s.imageBody 5) = none ∧
    (Transit.parts 0 [] true).crcFails (s.field 5).htick (s.imageBody 5) = false ∧
    inRun.route (svM 1) (regAddr .TICK_TNUM0 1 0) = 0 := by decide +kernel

/-- A soak of a configuration change that began at tick 0 and times out at tick 1,048,576. -/
def soaking (tick : Nat) : State :=
  { inRun with tick := tick, soak := some (newSoak .config 0 0 0 0 0 0 4096 0 0 0) }

theorem witness_LateTicksAreMarkedAtTheLatchPoint :
    let ran (p : LanePhase) := inRun.setLane 1 7 { LaneSt.zero with ph := p, ran := true }
    inRun.inRun = true ∧ ((ran .done).lane 1 7).ran = true ∧ (ran .done).fenced U.lane 1 7 = false ∧ ((ran .done).lane 1 7).ph = .done ∧
    ((ran .qPass).lane 1 7).ran = true ∧ ((ran .qPass).lane 1 7).ph ≠ .done ∧
    ((inRun.setLane 1 7 { LaneSt.zero with ph := .reset, ran := true, misNow := true }).lane 1 7).misNow = true ∧
    (soaking 1048576).soakOver = true ∧ (soaking 1048575).soakOver = false := by decide

/-- `inRun` with field die 5 loaded and in tick 9. -/
def serving : State :=
  let s := ({ inRun with tick := 9 } : State).put F.FSYS_FPWR_LOADED (fdie 5) 0 1
  s.setField 5 { s.field 5 with htick := 9 }

theorem witness_ApplyPointTakesBothEnables :
    let s := (serving.put F.TERM_CFG_MODE (fdie 5) 63 2).setWords 1 5 ⟨9, List.replicate 63 4 ++ [2]⟩
    let got := s.setField 5 { s.field 5 with x0 := ⟨true, 9, List.replicate 63 4 ++ [2]⟩ }
    s.hasFd 5 = true ∧ s.hasLd 1 = true ∧ (s.field 5).power = true ∧
    (s.words 1 5).tick = s.tick ∧ (s.words 1 5).words ≠ [] ∧ s.fenced U.link 1 5 = false ∧ s.fenced U.logic 1 0 = false ∧
    (s.words 1 5).words.length ≤ 64 ∧ (s.words 1 5).words.getD 63 4 < 4 ∧
    (let x (tick crc : Nat) (ok : Bool) :=
       (Transit.framed (wordBody (s.words 1 5).words).length tick [] crc ok).receive (s.field 5).htick s.tick (wordBody (s.words 1 5).words)
     x 0 0 true = some (wordBody (s.words 1 5).words) ∧ x 0 0 false = none ∧ x 1 0 true = none ∧ x 0 0x8000 true = none) ∧ (inRun.words 1 5).words = [] ∧
    s.mode 5 63 = 2 ∧ (s.put F.TERM_CFG_MODE (fdie 5) 0 4).mode 5 0 = 4 ∧ s.mode 5 1 ≠ 2 ∧ s.mode 5 1 ≠ 4 ∧
    (got.fieldSafe 5 || got.fenced U.term (fdie 5) 63 || got.heldOff 5 63) = false ∧ got.heldWord 5 (got.pSource 5 63) 63 = 2 ∧
    inRun.fieldSafe 5 = true ∧ (got.setTerm 5 63 { TermSt.zero with therm := true }).heldOff 5 63 = true := by decide +kernel

theorem witness_HTicksStartByStrobeOrByThemselves :
    let s := { inRun with tick := 9 }
    let src1 := s.put F.HGLB_HTCTL_STRSRC (fdie 5) 0 1
    let started := s.setField 5 { s.field 5 with htick := 9, gotStrobe := true }
    let late := (inRun.setField 5 { inRun.field 5 with gotStrobe := true }).put F.HGLB_HTCTL_NH (fdie 5) 0 100000
    let strobes (c : Nat) := List.replicate 15 (true, 100000) ++ [(true, c)]
    s.hasFd 5 = true ∧ s.hasLd 0 = true ∧ s.hasLd 1 = true ∧ (s.field 5).power = true ∧ s.inRun = true ∧
    s.strobeOk 5 0 (.bare 0 true) = true ∧ s.strobeOk 5 0 (.bare 0 false) = false ∧ src1.strobeOk 5 1 (.bare 0 true) = true ∧
    s.get F.HGLB_HTCTL_STRSRC (fdie 5) 0 = 0 ∧ s.strobeAbsent 5 = false ∧ s.strobeOk 5 1 (.bare 0 true) = false ∧
    (s.setField 5 { s.field 5 with noL0 := 10 }).strobeOk 5 1 (.bare 0 true) = true ∧
    (s.setFence U.link 1 5 { Fence.zero with on := true }).fenced U.link 1 5 = true ∧
    (s.setFence U.logic 0 0 { Fence.zero with on := true }).fenced U.logic 0 0 = true ∧
    (started.field 5).htick = started.tick ∧ (started.field 5).gotStrobe = true ∧ started.strobeOk 5 0 (.bare 0 true) = false ∧
    (late.field 5).gotStrobe = true ∧ late.get F.HGLB_HTCTL_NH (fdie 5) 0 + 32 ≤ 100032 ∧
    (strobes 1632000)[15]? = some (true, 1632000) ∧ late.fenced U.field (fdie 5) 0 = false ∧
    50 * (Int.ofNat 1632000 - 16 * Int.ofNat 100000).natAbs ≤ 16 * 100000 ∧
    16 * 100000 < 50 * (Int.ofNat 1632001 - 16 * Int.ofNat 100000).natAbs ∧ (∀ x, (strobes 0).dropLast[15]? ≠ some (true, x)) := by
  refine ⟨by decide, by decide, by decide, by decide, by decide, by decide +kernel, by decide +kernel, by decide +kernel, by decide,
    by decide, by decide +kernel, by decide +kernel, by decide, by decide, by decide, by decide, by decide +kernel, by decide, by decide,
    by decide, by decide, by decide, by decide, fun x => by simp⟩

theorem witness_HbusSlotsAreSentAndChecked :
    let s := inRun.setField 5 { inRun.field 5 with htick := 77 }
    let head := slotHeader 2 77
    let sent := s.setField 2 { s.field 2 with beats := [head, slotCrc [head]] }
    s.hasFd 5 = true ∧ s.hasFd 2 = true ∧ (s.field 5).power = true ∧ 5 < 8 ∧
    sent.beatsIn 2 clean = [head, slotCrc [head]] ∧ sent.beatsIn 2 cut = [] ∧ (∀ b ∈ (sent.field 2).beats, b < 2 ^ 16) ∧
    s.slotOk 5 2 (72 + 80 * 2 + 24) [head, slotCrc [head]] = true ∧ s.slotOk 5 2 (72 + 80 * 2 - 24) [head, slotCrc [head]] = true ∧
    s.slotOk 5 2 (72 + 80 * 2) [head, slotCrc [head] + 1] = false ∧ s.slotOk 5 2 (72 + 80 * 2) (sent.beatsIn 2 cut) = false ∧
    24 < ((72 + 80 * 2 + 25 : Int) - (72 + 80 * (2 : Nat))).natAbs := by decide +kernel

/-- Instances for the rows that name one: a pair of contacts, a muting function, a spate output and a spate input. -/
def dual0 : InstRec :=
  { iid := 0, code := 1, iflg := 0, ldie := 0, lane := 0, seg := 1, fdie := 0, cell := 0, opt := 0, rank := 0, par0 := 10, par1 := 0,
    par2 := 0, par3 := 0, tslot := [0, 1, 255, 255, 255, 255, 255, 255], lnk0 := none, lnk1 := none, rst := none }
def mute1 : InstRec := { dual0 with iid := 1, code := 6, cell := 1 }
def spateOut2 : InstRec := { dual0 with iid := 2, code := 0x17, cell := 2, par1 := 5 }

/-- `inRun` with these instances. -/
def withInsts : State :=
  { inRun with image := { inRun.image with img := { inRun.image.img with insts := [dual0, mute1, spateOut2] }, loaded := true } }

/-- The H part of a mark of domain 3 from node 9 that awaits RXS of field die 5 on ring 1, and one with a wrong code. -/
def markWord : Nat := 3 + 2 ^ 8 * 1 + 2 ^ 12 * 9
def markCode : Nat := paeshCode polyH (inRun.hRid 5 1) 9 0 (msbBytes 4 markWord)
def awaiting (code : Nat) : State := inRun.setRing 1 { inRun.ring 1 with rxs := [(5, not32 markWord, code, 0)] }

theorem witness_RingDataCrossesTheFieldDie :
    let ok := inRun.put F.FSYS_FPWR_LOADED (fdie 5) 0 1
    let built := ((inRun.setField 5 { inRun.field 5 with htx := 1 }).put F.HTX_W (fdie 5) 11 (2 ^ 31 + 2)).setField 0 { inRun.field 0 with htx := 1 }
    ok.hasFd 5 = true ∧ ok.fieldOff 5 = false ∧
    inRun.hasLd 1 = true ∧ inRun.reaches 1 5 = true ∧ inRun.hasFd 0 = true ∧ inRun.reaches 1 0 = true ∧
    (built.field 5).htx = built.tick + 1 ∧ (built.field 0).htx = built.tick + 1 ∧ (inRun.field 5).htx ≠ inRun.tick + 1 ∧
    (built.get F.HTX_W (fdie 5) (8 + 4 * 0 + 3)).testBit 31 = true ∧ (built.get F.HTX_W (fdie 5) (8 + 4 * 0 + 3)).testBit 1 = true ∧
    (5, not32 markWord, markCode, 0) ∉ (inRun.ring 1).rxs ∧ (5, not32 markWord, markCode, 0) ∈ ((awaiting markCode).ring 1).rxs ∧
    lastTurn ((awaiting markCode).field 5).htick 16 0 = some 0 ∧ bitsOf (not32 (not32 markWord)) 12 13 = 9 ∧
    paeshCode polyH ((awaiting markCode).hRid 5 1) 9 0 (msbBytes 4 (not32 markWord)) ≠ 2 ^ 32 ∧
    not32 (not32 markWord) = markWord ∧
    ((awaiting markCode).field 5).htick ≤ 0 + markDelay ((awaiting markCode).get F.RNG_NODES_N 1 0) (awaiting markCode).tickUs + 1 := by
  decide +kernel

/-- Both cases of a mark awaiting RXS: the code of the mark as sent, and another. -/
theorem witness_RingDataCrossesTheFieldDie_code :
    let code (s : State) := paeshCode polyH (s.hRid 5 1) 9 0 (msbBytes 4 (not32 markWord))
    code (awaiting (code inRun)) = code inRun ∧ code (awaiting (code inRun + 1)) ≠ code inRun + 1 := by decide +kernel

/-- F0's record for L1 of a window without instances, sent in this tick. -/
def emptyRecord : List Byte := withInsts.sieveRecord 2 1

theorem witness_SieveWindowsAreExchangedAndCompared :
    let s := { withInsts with sieveDie := [(1, { SieveDie.zero with ended := 1 }), (2, { SieveDie.zero with out := [(1, emptyRecord)] })] }
    let fencedP := withInsts.setFence U.inst 0 0 { Fence.zero with on := true, reason := 6 }
    let fencedBoth := (withInsts.setFence U.inst 0 0 { Fence.zero with on := true, reason := 6, readmit := 9 }).setFence U.inst 1 0
      { Fence.zero with on := true, reason := 6 }
    let heard := withInsts.setSvP 0 0 { SieveSt.zero with last := 5, other := some 5 }
    let unlike := (withInsts.setSvP 0 0 { SieveSt.zero with last := 5, other := some 6 }).setDcnt 0 0 2
    s.hasDie 1 = true ∧ s.windowEnded 1 = true ∧ s.hasDie 2 = true ∧ (decide (1 < 2) != decide (2 < 2)) = true ∧ s.bridgeUp 1 2 = true ∧
    (s.svDie 2).out.lookup 1 = some emptyRecord ∧ recGood emptyRecord = true ∧ s.recordIn 1 2 clean = some emptyRecord ∧
    s.recordIn 1 2 ⟨[(0, 1)], true⟩ = none ∧ s.recordIn 1 2 cut = none ∧ fencedP.sieveMessageDue 2 0 = true ∧
    dual0 ∈ withInsts.paired 0 ∧ withInsts.partner 0 dual0 = 2 ∧
    withInsts.hasFd 0 = true ∧ dual0 ∈ fencedP.image.img.insts ∧ dual0.fdie = 0 ∧ fencedP.messageDue dual0 false = true ∧
    dual0 ∈ fencedBoth.image.img.insts ∧ fencedBoth.messageDue dual0 true = true ∧
    (heard.sieveOf 0 dual0).other = some (heard.sieveOf 0 dual0).last ∧
    (unlike.sieveOf 0 dual0).other ≠ some (unlike.sieveOf 0 dual0).last ∧
    min 3 (unlike.dcnt 0 (unlike.sieveIdx 0 dual0) + 1) = 3 ∧
    (withInsts.sieveOf 0 dual0).other ≠ some (withInsts.sieveOf 0 dual0).last ∧
    min 3 (withInsts.dcnt 0 (withInsts.sieveIdx 0 dual0) + 1) < 3 := by decide +kernel

theorem witness_TerminalEventsActOnTheirTerminal :
    let out := inRun.put F.TERM_CFG_MODE (fdie 5) 63 2
    let pulse := inRun.put F.TERM_CFG_MODE (fdie 5) 63 3
    let gd := inRun.put F.TERM_CFG_MODE (fdie 5) 63 4
    let with_ (s : State) (x : TermSt) := s.setTerm 5 63 x
    inRun.hasFd 5 = true ∧ 63 < 64 ∧ out.limited 5 63 = true ∧ pulse.limited 5 63 = true ∧ (out.term 5 63).lim = false ∧
    ((with_ out { TermSt.zero with lim := true }).term 5 63).lim = true ∧ (with_ gd { TermSt.zero with gdOver := true }).mode 5 63 = 4 ∧
    ((with_ gd { TermSt.zero with gdOver := true }).term 5 63).gdOver = true ∧
    ((with_ gd { TermSt.zero with gdTrip := true }).term 5 63).gdTrip = true ∧ 2 ≤ out.mode 5 63 ∧ gd.mode 5 63 ≤ 4 ∧
    ((with_ out { TermSt.zero with supp := true }).term 5 63).supp = true ∧
    16 ≤ ((with_ out { TermSt.zero with olOn := 16 }).term 5 63).olOn ∧ 16 ≤ ((with_ out { TermSt.zero with olOff := 16 }).term 5 63).olOff ∧
    WriteAdmitted inRun (svM 1) .TERM_FCTL (fdie 5) 63 (svM 1).isSv true := by unfold WriteAdmitted; decide

theorem witness_VoltagesAndSlotsReachTheCheckers :
    let masked (h : Bool) := (inRun.setTerm 5 63 { TermSt.zero with
        p := { SensePath.zero with chk := { Checker.zero with mask := !h } }, h := { SensePath.zero with chk := { Checker.zero with mask := h } } }).setTerm
      5 0 { TermSt.zero with p := { SensePath.zero with code := 432 }, h := { SensePath.zero with code := 432 } }
    inRun.hasFd 5 = true ∧ 63 < 64 ∧ 1023 < 1024 ∧ 127999 < 32 * inRun.slotLen 5 ∧ 31 < 32 ∧
    ((masked true).term 5 63).h.chk.mask = true ∧ 432 ≤ ((masked true).term 5 ((masked true).get F.TERM_CFG_TPSRC (fdie 5) 63)).h.code ∧
    ((masked false).term 5 63).p.chk.mask = true ∧ 432 ≤ ((masked false).term 5 ((masked false).get F.TERM_CFG_TPSRC (fdie 5) 63)).p.code ∧
    (inRun.put F.TP_FRAME_TPON (fdie 5) 0 1).tpOn 5 = true ∧ (inRun.put F.TP_FRAME_TPON (fdie 5) 0 0).tpOn 5 = false := by
  decide

theorem witness_TimersWrapMatchAndCapture :
    let f := tmr 2
    let run := ((inRun.put f.en 2 79 1).put f.cnt 2 79 100).put f.owner 2 79 1
    let cmp := run.put f.cmp 2 79 100
    let lf := tmr 1
    let lrun := ((inRun.put lf.en 1 31 1).put lf.cnt 1 31 7).put lf.owner 1 31 9
    let cap := (run.put f.capen 2 79 1).setCapDue 2 79 1
    run.hasTimer 2 79 = true ∧ lrun.hasTimer 1 31 = true ∧ run.hasTimer 2 80 = false ∧ run.counts 2 79 = true ∧
    cmp.get f.cmp 2 79 ≤ cmp.get f.cnt 2 79 ∧ 0 < cmp.get f.cmp 2 79 ∧ run.get f.cmp 2 79 = 0 ∧ (run.put f.mact 2 79 3).get f.mact 2 79 ≠ 0 ∧
    WriteAdmitted run (svM 0) (ctlReg 2) 2 79 (run.ownsTimer (svM 0) 2 79) true ∧
    WriteAdmitted lrun (svM 1) (ctlReg 1) 1 31 (lrun.ownsTimer (svM 1) 1 31) true ∧
    run.flag f.en 2 79 = true ∧ (run.put f.en 2 79 0).flag f.en 2 79 = false ∧
    (run.put f.en 2 79 0).ownsTimer (svM 0) 2 79 = true ∧
    run.fenced (timerKind 2) 2 79 = false ∧ 100 ≤ run.mayElapse 2 79 ∧ cmp.mayElapse 2 79 = 0 ∧ lrun.fenced (timerKind 1) 1 31 = false ∧
    inRun.route (svM 0) (regAddr (ctlReg 2) 2 79) = 0 ∧ inRun.ownsTimer (svM 0) 2 79 = false ∧
    cap.canCapture 2 79 100 = true ∧ cap.edgeDue 2 79 true = true ∧ cap.edgeDue 2 79 false = false ∧
    (cap.setCapDue 2 79 3).edgeDue 2 79 false = true ∧ cap.canCapture 2 79 101 = false ∧ run.canCapture 2 79 0 = false ∧
    (cap.put f.captured 2 79 1).flag f.captured 2 79 = true ∧ run.route (svM 0) (regAddr (capReg 2) 2 79) = 0 ∧
    (run.setFence U.link 0 0 { Fence.zero with on := true }).route (svM 0) (regAddr (capReg 2) 2 79) ≠ 0 := by unfold WriteAdmitted; decide

theorem witness_TestPulseCodesAreCheckedAndAssigned :
    let open_ := inRun.put F.FSYS_SEAL_GATE (fdie 5) 0 1
    let code (a b w : Nat) := a + 2 ^ 8 * b + 2 ^ 16 * w + 2 ^ 31
    let off := (inRun.put F.TERM_CFG_MODE (fdie 5) 63 2).put F.TERM_OUTCFG_OFFTEST (fdie 5) 63 1
    let used := (((inRun.put F.TP_CODE_SLOTA (fdie 5) 0 3).put F.TP_CODE_SLOTB (fdie 5) 0 4).put F.TP_CODE_WIDTH (fdie 5) 0 1600).put
      F.TP_CODE_ASSIGNED (fdie 5) 0 1
    inRun.hasFd 5 = true ∧ WriteAdmitted open_ (svM 0) .TP_CODE (fdie 5) 63 (svM 0).isSv (open_.codeFieldOk 5 63 (code 0 31 1600)) ∧
    open_.word .TP_CODE (fdie 5) 63 ≠ code 0 31 1600 % 2 ^ 32 ∧
    (let same := open_.word .TP_CODE (fdie 5) 63
     WriteAdmitted inRun (svM 0) .TP_CODE (fdie 5) 63 (svM 0).isSv (inRun.codeFieldOk 5 63 same) ∧ inRun.word .TP_CODE (fdie 5) 63 = same % 2 ^ 32) ∧
    (code 0 31 1600).testBit 31 = true ∧ (code 0 31 1600 - 2 ^ 31).testBit 31 = false ∧ used.flag F.TP_CODE_ASSIGNED (fdie 5) 0 = true ∧
    open_.fenced U.ftimer (fdie 5) 63 = false ∧
    inRun.route (svM 0) (regAddr .TP_CODE (fdie 5) 63) = 0 ∧ (svM 0).isSv = true ∧ (code 4 4 1600).testBit 31 = true ∧
    inRun.word .TP_CODE (fdie 5) 63 ≠ code 4 4 1600 % 2 ^ 32 ∧ bitsOf (code 4 4 1600) 8 5 ≤ bitsOf (code 4 4 1600) 0 5 ∧
    bitsOf (code 0 1 1599) 16 14 < 1600 ∧ 16000 < bitsOf (code 0 1 16001) 16 14 ∧ (inRun.put F.TP_FRAME_FLEN (fdie 5) 0 0).slotLen 5 < bitsOf (code 0 1 4001) 16 14 ∧
    used.codeSlots 5 0 = [bitsOf (code 3 4 1600) 0 5, bitsOf (code 3 4 1600) 8 5] ∧
    off.mode 5 63 = 2 ∧ off.flag F.TERM_OUTCFG_OFFTEST (fdie 5) 63 = true ∧ 8000 < bitsOf (code 0 1 8001) 16 14 := by
  unfold WriteAdmitted; decide +kernel

/-- The states and inputs of the tables: every state number with every count of closed contacts. -/
def cfgOf (t : FnType) : FnCfg := ⟨t, 10, 0, 0, 0, 1⟩
def contacts (n : Nat) (reset zone : Bool) : FnIn :=
  { t := 20, terms := (List.range 2).map fun k => { TermRead.absent with closed := decide (k < n), mat := .free }, link0 := false, link1 := false,
    reset := reset, zone := zone, zoneValid := true, mark := false, quiet := false, gap := 0 }

theorem witness_NoReleaseWithoutClosedContacts :
    ((contacts 1 true true).closed 0 && (contacts 1 true true).closed 1) = false ∧ (cfgOf .estop).type = .estop ∧
    ({ FnSt.zero with st := 2 } : FnSt).st ≠ 3 ∧ (contacts 2 false true).reset = false ∧
    (cfgOf .mat).opt2 1 = 0 ∧ ((({ contacts 2 true true with terms := [{ TermRead.absent with mat := .stepped }] } : FnIn).term 0).mat ≠ .free) ∧
    (contacts 2 true true).link0 = false ∧
    (Fn.eval (cfgOf .restart) { contacts 0 true true with link0 := true } { FnSt.zero with st := 1, bits := 0 }).bits = 0 ∧
    withInsts.recOf 0 = some dual0 ∧ withInsts.recOf 1 = some mute1 ∧ withInsts.recOf 2 = some spateOut2 ∧
    (withInsts.fnState false 0).tmr ≤ withInsts.fnTick false 0 ∧
    (let lamp := withInsts.setCell 0 (withInsts.cellOf mute1) { HCell.zero with fs := { FnSt.zero with mute := { FnSt.zero.mute with lampFail := true } } }
     (lamp.fnState true 1).mute.lampFail = true ∧ (lamp.fnState true 1).st = 0) ∧
    ((withInsts.fnState true 2).lastMark + spateOut2.par1 ≤
      ({ withInsts with fields := (withInsts.setField 0 { withInsts.field 0 with htick := 5 }).fields } : State).fnTick true 2) ∧
    ((withInsts.setCell 0 0 { HCell.zero with tick := 1 }).cell dual0.fdie (withInsts.cellOf dual0)).tick = (withInsts.field dual0.fdie).htick + 1 ∧
    (let live := ((withInsts.put F.FSYS_FPWR_LOADED 2 0 1).put F.HC_HCFG_ACTIVE 2 0 1).put F.HC_HCFG_TYPE 2 0 1
     live.cellLive 0 (live.cellOf dual0) = true ∧ (live.cell 0 (live.cellOf dual0)).tick ≠ (live.field 0).htick + 1) := by
  decide

theorem witness_StopTablesAreTheSpecs :
    (cfgOf .dualEq).type = .dualEq ∧ (cfgOf .estop).type = .estop ∧ (cfgOf .zoneIn).type = .zoneIn ∧ (cfgOf .zoneIn).optBit 0 = true ∧
    (⟨.zoneIn, 0, 0, 0, 0, 0⟩ : FnCfg).optBit 0 = false ∧
    (List.range 3).all (fun n => decide (((contacts n true true).closed 0).toNat + ((contacts n true true).closed 1).toNat = n)) = true ∧
    (List.range 6).all (fun k => decide (({ FnSt.zero with st := k, tmr := 20 } : FnSt).st = k)) = true ∧
    ({ FnSt.zero with tmr := 20 } : FnSt).tmr ≤ (contacts 1 true true).t ∧ (contacts 1 true true).t < ({ FnSt.zero with tmr := 21 } : FnSt).tmr ∧
    (contacts 2 true true).zone = true ∧ (contacts 2 true false).zone = false ∧ (contacts 2 false true).reset = false := by decide

/-- Ring 1 on, both ports admitted, in the state of synchronisation `st`: node 3, ring 0x1234, turn and tick 20. -/
def ringUp (st : Nat) : State :=
  let s := { inRun with tick := 20 }
  let s := ((s.put F.RNG_RINGCFG_ENABLE 1 0 1).put F.RNG_RINGCFG_NODE 1 0 3).put F.RNG_RINGCFG_REACH 1 0 8
  let s := ((s.put F.RNG_RINGID_RID 1 0 0x1234).put F.RNG_ETYPE_ETYPE 1 0 0x88B5).put F.RNG_TSYNC_STATE 1 0 st
  let s := [0, 1].foldl (fun s p => [F.RNG_PCFG_MODE, F.RNG_PSTAT_SYNC, F.RNG_PSTAT_LINK, F.RNG_PSTAT_PREACT, F.RNG_PSTAT_ADMIT].foldl
    (fun s f => s.put f 1 p 1) s) s
  s.setRing 1 { s.ring 1 with turn := 20, sends := true, good := 16 }

/-- A header that port B of `ringUp` takes, for class `c`. -/
def hdrB (c : Nat) : FrameHdr := ⟨true, c, 0x88B5, 1, c, 0x1234, 2, true, 0, false⟩

/-- The start of the window of class `cls` on ring 1, and an arrival there. -/
def winStart (cls : Nat) : Nat := ((ringUp 3).window 1 cls).1
def arrived (cls : Nat) : Arrival := ⟨(winStart cls * 8 * 65536 : Nat), (winStart cls * 8 * 65536 : Nat)⟩

theorem witness_PortsAreAdmittedByTheirConditions :
    let s := ringUp syncTrack
    s.portCause 1 1 = 0 ∧ (ringUp syncTrack |>.put F.RNG_PSTAT_SYNC 1 1 0).portCause 1 1 ≠ 0 ∧
    (let c := (s.put F.RNG_PSTAT_SYNC 1 1 0).portCause 1 1; 1 ≤ c ∧ c ≤ 7) ∧ s.hasLd 1 = true ∧ 1 < 2 ∧
    inRun.portActs 1 1 = false ∧ s.portActs 1 1 = true ∧ (s.put F.RNG_PCFG_ANEN 1 1 1).negotiates 1 1 = true ∧ baseFd 0x20 = true ∧
    (let m := (s.put F.RNG_PCFG_MODE 1 1 2).put F.RNG_PCFG_ANEN 1 1 1
     m.get F.RNG_PCFG_MODE 1 1 = 2 ∧ m.negotiates 1 1 = true ∧ m.portActs 1 1 = true ∧ m.flag F.RNG_PSTAT_SYNC 1 1 = true) ∧
    (s.put F.RNG_PSTAT_PREACT 1 1 0).verifies 1 1 = true ∧ s.fenced U.port 1 1 = false ∧
    (s.setPort 1 1 { s.port 1 1 with miswired := true }).portCause 1 1 ≠ 0 := by decide

theorem witness_SyncStatesFollowTheirRules :
    let delays (s : State) := s.put F.RNG_LDELAY_VALID 1 0 1
    let hold := ringUp syncHoldover
    let full := hold.put F.RNG_TCNT_HOLDT 1 0 (hold.holdMax 1)
    let gen := delays ((((hold.put F.RNG_TURNCFG_HGEN 1 0 1).put F.RNG_TURNCFG_RANK 1 0 1).put F.RNG_TURNCFG_MODE 1 0 1))
    let due := gen.put F.RNG_TCNT_HOLDT 1 0 (gen.tkovr 1)
    let l0 := (((inRun.put F.RNG_RINGCFG_ENABLE 0 0 1).put F.RNG_TSYNC_STATE 0 0 syncListen).put F.RNG_PSTAT_ADMIT 0 0 1).put F.RNG_LDELAY_VALID 0 0 1
    let cand := (ringUp syncTrack).setRing 1 { (ringUp syncTrack).ring 1 with cand := some (2, 1, 0) }
    hold.hasLd 1 = true ∧ (ringUp syncTrack).sync 1 = syncTrack ∧ (ringUp syncHeadgate).sync 1 = syncHeadgate ∧
    16 ≤ ((ringUp syncTrack).ring 1).good ∧ full.sync 1 = syncHoldover ∧ full.holdMax 1 ≤ full.get F.RNG_TCNT_HOLDT 1 0 ∧
    full.fenced U.port 1 1 = false ∧ full.inRun = true ∧
    due.sync 1 = syncHoldover ∧ due.hgBegins 1 = true ∧ due.flag F.RNG_TURNCFG_HGEN 1 0 = true ∧ 1 ≤ due.get F.RNG_TURNCFG_RANK 1 0 ∧
    due.tkovr 1 ≤ due.get F.RNG_TCNT_HOLDT 1 0 ∧ due.anyDelay 1 = true ∧
    (delays (ringUp syncListen)).sync 1 = syncListen ∧ (delays (ringUp syncListen)).anyDelay 1 = true ∧ (ringUp syncListen).ringOn 1 = true ∧
    ((ringUp syncListen).put F.RNG_TURNCFG_R1SRC 1 0 1).r1src 1 = true ∧ ((ringUp syncListen).put F.RNG_TURNCFG_HGEN 1 0 1).flag F.RNG_TURNCFG_HGEN 1 0 = true ∧
    l0.sync 0 = syncListen ∧ l0.anyDelay 0 = true ∧ l0.ringOn 0 = true ∧ l0.hgBegins 0 = false ∧ l0.txGood 0 = true ∧ l0.delayValid 0 0 = true ∧
    1480 * 65536 + 520 * 65536 ≤ 2000 * 65536 ∧
    (ringUp syncJoining).sync 1 = syncJoining ∧ (ringUp syncTrack).ringOn 1 = true ∧ (ringUp syncTrack).sync 1 ≠ syncListen ∧
    (cand.ring 1).cand = some (2, 1, 0) ∧ ((ringUp syncTrack).ring 1).cand = none := by decide

theorem witness_BeaconsCountOnlyUnderTheirRules :
    let s := (ringUp syncTrack |>.put F.RNG_THG_HGRANK 1 0 1).put F.RNG_THG_HGID 1 0 5
    let s := (s.put F.RNG_LDELAY_VALID 1 1 1).put F.RNG_TSYNC_BHOPS 1 0 2
    let b : BeaconFrame := ⟨hdrB 2, 20, 9, 1, s.get F.RNG_TURNCFG_PERIOD 1 0, 1, 1, s.get F.RNG_CFGHASH_HASH 1 0, 0⟩
    s.hasLd 1 = true ∧ 1 < 2 ∧ s.admitted 1 1 = true ∧ s.ringOn 1 = true ∧ ({ b with hdr := { b.hdr with fcs := false } } : BeaconFrame).hdr.fcs = false ∧
    b.hdr.fcs = true ∧ s.wrongSide 1 1 b.hdr = false ∧ s.filtered 1 1 2 b.hdr = false ∧ s.filtered 1 1 2 { b.hdr with rid := 0x1235 } = true ∧
    s.wrongSide 1 1 { b.hdr with rid := 0x1235 } = false ∧ s.wrongSide 1 1 { b.hdr with d := false } = true ∧
    s.ownKind 1 b = true ∧ s.ownKind 1 { b with mode := 1 - b.mode } = false ∧ s.r1src 1 = false ∧ (s.put F.RNG_TURNCFG_R1SRC 1 0 1).r1src 1 = true ∧
    s.sync 1 = syncTrack ∧ (ringUp syncHoldover).sync 1 = syncHoldover ∧
    better (s.followed 1) (b.hgRank, b.hgId) = true ∧ better (b.hgRank, b.hgId) (s.followed 1) = false ∧ better (1, 4) (s.followed 1) = true ∧
    (1, 5) = s.followed 1 ∧ 1 < (if (s.ring 1).sends then s.get F.RNG_TSYNC_BHOPS 1 0 else 0x1FFF) ∧ 20 = (s.ring 1).turn ∧
    (3 * 65536000 - (0 : Int)).natAbs ≤ 3 * 65536000 ∧ s.delayValid 1 1 = true ∧ s.inBeaconWindow 1 1 0 = true ∧ (s.ring 1).cand = none := by
  decide

theorem witness_FurrowDataIsSentAndAcceptedByTheRules :
    let s := (ringUp syncTrack).setPort 1 0 { (ringUp syncTrack).port 1 0 with accLast := [⟨5, 7, 19, 0, 0, 0, 0, 0⟩] }
    let good : FurrowEntry := ⟨5, 8, 11, 1, paeshCode polyP 0x1234 5 11 (msbBytes 8 1), 0, 0, 0⟩
    let may (s : State) (pos : Nat) := s.maySend 1 1 && !(s.port 1 1).furSent && s.fits 1 1 pos ((s.furrowFrame 1 1 clean).length + 4)
    s.hasLd 1 = true ∧ may s (winStart 1) = true ∧ may s (winStart 1 - 1) = false ∧ (s.forwarded 1 1).length = 1 ∧ s.part.phase ≠ .held ∧
    ((s.port 1 1).filled && s.joined 1 && s.admitted 1 1) = false ∧
    (((s.setPort 1 1 { s.port 1 1 with filled := true }).port 1 1).filled && s.joined 1 && s.admitted 1 1) = true ∧
    (s.setFence U.port 1 1 { Fence.zero with on := true }).staleP 1 1 1 = true ∧ s.admitted 1 1 = true ∧ s.ringRuns 1 = true ∧
    s.filtered 1 1 1 (hdrB 1) = false ∧ s.joined 1 = true ∧ s.inWindow 1 1 1 (arrived 1) = true ∧
    s.inWindow 1 1 1 ⟨(arrived 1).t - 3001 * 65536, 0⟩ = false ∧ s.acceptP 1 good = some 11 ∧
    s.acceptP 1 { good with eturn := 10 } = none ∧ s.acceptP 1 { good with pcrc := good.pcrc + 1 } = none := by decide +kernel

theorem witness_SpateMarksAreCheckedAndForwarded :
    let s := (ringUp syncTrack).put F.RNG_SPFWD_FWD 1 7 (2 ^ 31)
    let mark (dom node : Nat) := dom + 2 ^ 8 * 2 + 2 ^ 12 * node
    let f : SpateFrame := { spate0 with hdr := hdrB 3, pmark := mark 255 9, pmcrc := paeshCode polyP 0x1234 9 20 (msbBytes 4 (mark 255 9)), oturn := 20 }
    let e := (s.window 1 1).2
    let n := (s.furrowFrame 1 1 clean).length
    s.hasLd 1 = true ∧ 1 < 2 ∧ s.admitted 1 1 = true ∧ s.ringRuns 1 = true ∧ s.filtered 1 1 3 f.hdr = false ∧
    bitsOf (spateWord f) 12 13 ≠ s.node 1 ∧ bitsOf (spateWord { f with pmark := mark 255 3 }) 12 13 = s.node 1 ∧
    s.markOk 1 f = true ∧ s.markOk 1 { f with pmcrc := f.pmcrc + 1 } = false ∧ s.goesOn 1 1 f = true ∧ s.goesOn 1 1 { f with pmark := mark 254 9 } = false ∧
    (s.port 1 0).sentKeys.contains f.key = false ∧ ((s.setPort 1 0 { s.port 1 0 with sentKeys := [f.key] }).port 1 0).sentKeys.contains f.key = true ∧
    (s.port 1 0).sentNow < s.get F.RNG_SLSPATE_SPLIM 1 0 ∧
    s.maySend 1 1 = true ∧ (∀ start, s.dueFrame 1 1 1 start clean = some (s.furrowFrame 1 1 clean)) ∧ winStart 1 - 1 < (s.window 1 1).1 ∧ e ≤ e ∧
    ((s.window 1 1).1 ≤ e - 1 ∧ e - 1 < e ∧ e - 4 < e - 1 + 8 + n + 4) ∧
    ((s.window 1 1).1 ≤ e - 16 - n ∧ e - 16 - n + 8 + n + 4 ≤ e - 4) ∧
    (s.port 1 1).trunc = false ∧ s.get F.RNG_TXSTAT_TRUNCRUN 1 1 < 2 ∧
    ((s.put F.RNG_TXSTAT_TRUNCRUN 1 1 1).get F.RNG_TXSTAT_TRUNCRUN 1 1 < 2 ∧ 2 ≤ (s.put F.RNG_TXSTAT_TRUNCRUN 1 1 2).get F.RNG_TXSTAT_TRUNCRUN 1 1) ∧
    ((s.setPort 1 1 { s.port 1 1 with trunc := true }).port 1 1).trunc = true := by
  refine ⟨?_, ?_, ?_, ?_, ?_, ?_, ?_, ?_, ?_, ?_, ?_, ?_, ?_, ?_, ?_, fun _ => rfl, ?_⟩ <;> decide +kernel

theorem witness_ServiceFramesAreDeliveredForwardedOrCounted :
    let s := ringUp syncTrack
    let f : ServiceFrame := { service0 with hdr := hdrB 0x10, stype := 1, dst := 3 }
    let full := s.setPort 1 1 { s.port 1 1 with queue := List.replicate 15 ⟨false, f⟩ ++ [⟨true, f⟩] }
    let waits := s.setPort 1 1 { s.port 1 1 with reqOut := true, reqSeq := 7 }
    s.hasLd 1 = true ∧ 1 < 2 ∧ f.stype = 1 ∧ (s.admitted 1 1 && s.ringRuns 1) = true ∧ (inRun.admitted 1 1 && inRun.ringRuns 1) = false ∧
    s.filtered 1 1 0x10 f.hdr = false ∧ 6 < ({ f with stype := 7 } : ServiceFrame).stype ∧ 1 ≤ f.stype ∧ f.stype ≤ 6 ∧ s.joined 1 = true ∧
    s.inWindow 1 1 0x10 (arrived 0x10) = true ∧ s.inWindow 1 1 0x10 ⟨(arrived 0x10).t - 3001 * 65536, 0⟩ = false ∧
    f.dst = s.node 1 ∧ ({ f with orig := 3 } : ServiceFrame).orig = s.node 1 ∧
    full.maySend 1 1 = true ∧ nextFrame (full.port 1 1).queue = some ⟨true, f⟩ ∧ (full.port 1 1).queue.length ≤ 16 ∧
    full.fits 1 0x10 (winStart 0x10) ((full.svBytes 1 1 ⟨true, f⟩).length + 4) = true ∧
    (∃ x ∈ (full.port 1 1).queue, x.fwd = true) ∧ s.measures 1 1 = true ∧ (ringUp syncListen).joined 1 = false ∧
    s.delaySends 1 (((arrived 0x10).t + stampDiff (2 ^ 27) 0) / (8 * 65536) - 7).toNat = true ∧ s.delaySends 1 (winStart 0x10) = true ∧
    s.requestDue 1 1 0 = true ∧ (s.port 1 1).reqOut = false ∧ (waits.port 1 1).reqOut = true ∧ waits.measures 1 1 = true ∧
    7 = (waits.port 1 1).reqSeq ∧ 8 ≠ (waits.port 1 1).reqSeq ∧ (List.replicate 16 (0 : Byte)).length = 16 := by decide +kernel

theorem witness_TheSealGateFollowsBothReaders :
    let got (tick : Nat) (flips : List (Nat × Nat)) (ok b : Bool) :=
      (Transit.parts tick flips ok).receive (inRun.tickOf 7) (inRun.tickOf 0) [BitVec.ofNat 8 b.toNat]
    inRun.hasDie 7 = true ∧ inRun.hasDie 1 = true ∧ inRun.hasDie 0 = true ∧ (7 ≠ 2 ∨ false = false) ∧
    inRun.sealContent 7 false = some (inRun.sealSent 0) ∧ inRun.tickOf 7 = inRun.tickOf 0 ∧ (inRun.sealContent 0 true).isSome = true ∧
    (got 0 [] true true).isSome = true ∧ got 0 [] false true = none ∧ got 0 [(0, 1)] true true = none ∧ got 1 [] true true = none ∧
    20 ≤ min ((inRun.put F.SYSCTL_SEAL_GATE 0 0 0 |>.put (sealFld 0 16 8 .rst) 0 0 19).get (sealFld 0 16 8 .rst) 0 0 + 1) 20 := by decide +kernel

theorem witness_MailboxesMoveByTheirStateTable :
    let done := inRun.put F.MB_MBCTL_STATE 1 0 mbDoneSt
    let full := inRun.put F.MB_MBCTL_STATE 1 0 mbPosted
    inRun.hasLd 1 = true ∧ 7 < 8 ∧ hostM.clientOf 1 0 = true ∧ 0x20 ≤ hostM.code ∧ inRun.mbState 1 0 ≠ mbPosted ∧ inRun.mbState 1 0 ≠ mbDoneSt ∧
    done.mbState 1 0 = mbDoneSt ∧ full.mbState 1 0 = mbPosted ∧ hostM.clientOf 1 7 = false ∧
    (svM 0).clientOf 1 7 = true ∧ inRun.route (svM 0) (regAddr .MB_MBCTL 1 7) = 0 ∧ full.get F.MB_MBCTL_SERVER 1 0 ≠ 0 ∧
    full.svReaches (full.get F.MB_MBCTL_SERVER 1 0 - 1) 1 0 = true ∧
    ((full.setRem 1 0 { full.rem 1 0 with on := true }).rem 1 0).on = true ∧ full.fenced U.sv 1 0 = false ∧
    (full.put F.MB_MBCTL_SERVER 1 0 0).get F.MB_MBCTL_SERVER 1 0 = 0 ∧ (full.put F.MB_MBCTL_SERVER 1 0 0).mbState 1 0 = mbPosted := by decide

theorem witness_HostAccessesFollowTheirMap :
    inRun.hostUp = true ∧ inRun.hostArea 0x3FFF = .mbox 0 3 0xFFF ∧ inRun.hostArea 0x31FF = .mbox 0 3 0x1FF ∧ inRun.hostArea 0xB400 = .mbox 1 3 0x400 ∧
    0xFFF < 2 ^ 24 ∧ 0x1FF < 0x400 ∧ inRun.mbState 0 3 ≠ mbPosted ∧ (inRun.put F.MB_MBCTL_STATE 0 3 mbPosted).mbState 0 3 = mbPosted ∧
    (inRun.hostArea 0xB400).isWordReg = true ∧ (inRun.hostArea 0xF003).isWordReg = true ∧ inRun.hostArea 0x4000 = .unmapped ∧
    inRun.hostArea 0xF008 = .unmapped ∧ ([1, 2, 3, 4] : List Byte).length = 4 ∧ 1 ≤ 2 ∧
    (inRun.hostArea (0x3FFF + 1) = .unmapped) ∧ inRun.host.armed = false ∧ ({ inRun with host := ⟨true⟩ } : State).host.armed = true ∧
    255 < 256 ∧ 255 ∉ hostCodes ∧ ({ inRun with part := { inRun.part with phase := .held } } : State).hostUp = false ∧ ([0] : List Byte) ≠ [] := by decide

theorem witness_AResponseStandsInItsBuffer : 7 < 8 ∧ (List.replicate 492 (0 : Byte)).length ≤ 492 ∧ 0xFFFF < 2 ^ 16 ∧
    keepsSeq St.ok = false ∧ keepsSeq St.badCrc = true := by decide +kernel

theorem witness_RequestsAreCheckedBeforeTheyAct :
    let s := posted inRun 1 3 0x0001 []
    let wrong (k : Nat) (b : Byte) := s.setByte (mbBase 1 3 + k) b
    let reset_ (m : List Byte) := s.setBytes (mbBase 1 3) m
    let synced (last : Nat) (held : Nat) :=
      ((s.put F.MB_MBSEQ_SYNC 1 3 1).put F.MB_MBSEQ_LAST 1 3 last).put F.MB_MBSEQ_RSPHELD 1 3 held
    s.hasLd 1 = true ∧ s.serverReady 1 3 = true ∧ ((wrong 4 237).setByte (mbBase 1 3 + 5) 1).serverReady 1 3 = true ∧
    (492 < (((wrong 4 237).setByte (mbBase 1 3 + 5) 1).req 1 3).len) ∧
    ((wrong 16 0xFF).req 1 3).len ≤ 492 ∧ fieldAt ((wrong 16 0xFF).req 1 3).bytes 16 4 ≠ crc32c (((wrong 16 0xFF).req 1 3).bytes.take 16) ∧
    fieldAt (s.req 1 3).bytes 16 4 = crc32c ((s.req 1 3).bytes.take 16) ∧
    (let q := (reset_ (message 1 0x77 2 0 1 0 [])).req 1 3
     fieldAt q.bytes 16 4 = crc32c (q.bytes.take 16) ∧ 2 ≤ fieldAt q.bytes 6 1) ∧
    (let q := (reset_ (message 1 0x77 0 0 1 1 [])).req 1 3
     fieldAt q.bytes 16 4 = crc32c (q.bytes.take 16) ∧ fieldAt q.bytes 10 2 ≠ 0) ∧
    (s.req 1 3).formStatus = 0 ∧ (s.req 1 3).seq = 1 ∧ (synced 1 1).flag F.MB_MBSEQ_SYNC 1 3 = true ∧
    (s.req 1 3).seq = (synced 1 1).get F.MB_MBSEQ_LAST 1 3 ∧ (s.req 1 3).seq ≠ ((synced 1 1).get F.MB_MBSEQ_LAST 1 3 + 1) % 65536 ∧
    (s.req 1 3).seq ≠ (synced 7 0).get F.MB_MBSEQ_LAST 1 3 ∧ (s.req 1 3).seq ≠ ((synced 7 0).get F.MB_MBSEQ_LAST 1 3 + 1) % 65536 ∧
    s.seqCase 1 3 1 = .new ∧ (synced 0 0).seqCase 1 3 1 = .new ∧ (opRow 1).isSome = true ∧
    (fieldAt (s.req 1 3).bytes 7 1).testBit 0 = isExpert 1 ∧
    (fieldAt ((reset_ (message 1 0x77 0 1 1 0 [])).req 1 3).bytes 7 1).testBit 0 ≠ isExpert 1 := by decide +kernel

/-- The checks that name the mailbox: a local command on MB5, a changing one on MB4 without a signature, a signed one. -/
theorem witness_RequestsAreChecked_by_mailbox :
    (match opRow 0x0140 with
      | some r => decide (inRun.mbAdmits 5 0x0140 r = false)
      | none => false) = true ∧
    (match opRow 0x0010 with
      | some r => inRun.mbAdmits 4 0x0010 r && !((posted inRun 0 4 0x0010 []).req 0 4).signed && r.changing
      | none => false) = true ∧
    (((posted inRun 0 0 0x0001 []).setBytes (mbBase 0 0) (message 1 0x77 1 0 1 0 [])).req 0 0).signed = true ∧
    (match opRow 0x0001 with
      | some r => decide ((inRun.authorise 0 ((posted inRun 0 0 0x0001 []).req 0 0) r).2 = 0 ∧ inRun.columnStatus 0x0001 r 0 = 0)
      | none => false) = true ∧
    (match opRow 0x0012 with
      | some r => decide (inRun.columnStatus 0x0012 r 0 ≠ 0)
      | none => false) = true ∧ lenIs 0 ((posted inRun 0 0 0x0001 [1, 2, 3, 4]).req 0 0).own = false := by decide +kernel

/-- What a payload of the request in MB0 of L0 spells. -/
def payloadOf (op : Nat) (p : List Byte) : State × List Byte := (posted gateOpen 0 0 op p, ((posted gateOpen 0 0 op p).req 0 0).own)

theorem witness_ReadCommandsAnswer :
    (posted inRun 0 0 0x0001 []).Serves 0 0 0x0001 ∧ (posted inRun 0 0 0x0002 []).Serves 0 0 0x0002 ∧
    (posted inRun 0 0 0x0003 [3, 1, 7, 0, 1, 0, 0, 0]).Serves 0 0 0x0003 ∧
    (posted inRun 0 0 0x0030 [0, 0, 0, 0]).Serves 0 0 0x0030 ∧
    ((posted inRun 0 0 0x0030 [1, 0, 0, 0]).put F.RNG_RINGCFG_ENABLE 1 0 1).Serves 0 0 0x0030 ∧
    (posted inRun 0 0 0x0031 [5, 0, 0, 0]).Serves 0 0 0x0031 ∧
    (posted inRun 0 0 0x0101 (leBytes 4 (regAddr .SYSCTL_DEVID 0 0) ++ [1, 0, 0, 0])).Serves 0 0 0x0101 :=
  ⟨serves_of_servesB (by decide +kernel), serves_of_servesB (by decide +kernel), serves_of_servesB (by decide +kernel),
    serves_of_servesB (by decide +kernel), serves_of_servesB (by decide +kernel), serves_of_servesB (by decide +kernel),
    serves_of_servesB (by decide +kernel)⟩

theorem witness_ReadCommandsAnswer_payloads :
    (let x := payloadOf 0x0003 [3, 1, 7, 0, 1, 0, 0, 0]
     let c := x.1.accepted 0 0
     x.2.length = 8 ∧ zeros x.2 6 2 = true ∧ (((c.diagRecords 3 1).drop 7).take (min 1 (488 / diagSize 3))).length = 1) ∧
    (let x := payloadOf 0x0030 [1, 0, 0, 0]
     x.2.length = 4 ∧ zeros x.2 1 3 = true ∧ x.1.hasLd (fieldAt x.2 0 1) = true) ∧
    (let x := payloadOf 0x0031 [5, 0, 0, 0]
     x.2.length = 4 ∧ zeros x.2 2 2 = true ∧ (x.1.counterWords (fieldAt x.2 0 1) (fieldAt x.2 1 1)).length = 8) ∧
    (let x := payloadOf 0x0101 (leBytes 4 (regAddr .LANE_LSTAT 0 0) ++ [120, 0, 0, 0])
     x.2.length = 8 ∧ fieldAt x.2 0 4 % 4 = 0 ∧ fieldAt x.2 4 2 ≤ 120) ∧
    (((posted gateOpen 0 0 0x0101 []).accepted 0 0).readRun (svM 0) (regAddr .SYSCTL_DEVID 0 0) 1).2.2 = true := by decide +kernel

/-- An open configuration transfer 9 of 64 bytes and an open firmware transfer 8 of 1,024. -/
def withTransfers : State :=
  { gateOpen with xferC := { Transfer.zero with xfer := 9, len := 64 }, xferF := { Transfer.zero with xfer := 8, len := 1024 },
                  fwStaged := some 7, image := { gateOpen.image with loaded := true } }

theorem witness_TransfersOpenAndTakeTheirData :
    (posted gateOpen 0 0 0x0010 (leBytes 4 64 ++ leBytes 4 1 ++ leBytes 4 1 ++ [1, 0, 16, 0])).Serves 0 0 0x0010 ∧
    (posted withTransfers 0 0 0x0011 ([9, 0, 0, 0] ++ leBytes 4 63 ++ [0xAA])).Serves 0 0 0x0011 ∧
    ((posted withTransfers 0 0 0x0013 (List.replicate 36 0)).put F.LBIST_LCSTAT_LC 0 0 2).Serves 0 0 0x0013 ∧
    (posted gateOpen 0 0 0x0020 (leBytes 4 0 ++ leBytes 4 1024 ++ leBytes 4 7)).Serves 0 0 0x0020 ∧
    (posted withTransfers 0 0 0x0021 [7, 0, 0, 0, 1, 0, 0, 0]).Serves 0 0 0x0021 ∧
    (posted gateOpen 0 7 0x0201 [2, 0, 0, 0]).Serves 0 7 0x0201 ∧ (posted gateOpen 0 7 0x0202 [0, 0, 0, 0]).Serves 0 7 0x0202 :=
  ⟨serves_of_servesB (by decide +kernel), serves_of_servesB (by decide +kernel), serves_of_servesB (by decide +kernel),
    serves_of_servesB (by decide +kernel), serves_of_servesB (by decide +kernel), serves_of_servesB (by decide +kernel),
    serves_of_servesB (by decide +kernel)⟩

theorem witness_TransfersOpenAndTakeTheirData_payloads :
    soakN 16 = some 16 ∧ soakN 15 = none ∧ 64 ≤ 64 ∧ 1048576 ≤ 1048576 ∧ gateOpen.busyJob = false ∧
    (let x := payloadOf 0x0011 ([9, 0, 0, 0] ++ leBytes 4 63 ++ [0xAA])
     9 ≤ x.2.length ∧ zeros x.2 2 2 = true ∧ withTransfers.xferC.is (fieldAt x.2 0 2) = true ∧ gateOpen.xferC.is (fieldAt x.2 0 2) = false ∧
     fieldAt x.2 4 4 + (x.2.length - 8) ≤ withTransfers.xferC.len ∧ withTransfers.xferC.len < fieldAt x.2 4 4 + 1 + (x.2.length - 8)) ∧
    withTransfers.image.loaded = true ∧ withTransfers.part.vio = false ∧ (List.replicate 36 (0 : Byte)).take 32 = beBytes 32 withTransfers.image.hash ∧
    fieldAt (List.replicate 36 0) 32 4 = withTransfers.image.img.imgver ∧
    (let x := payloadOf 0x0020 ([1, 0, 8, 0] ++ leBytes 4 1023 ++ [0xAA])
     9 ≤ x.2.length ∧ fieldAt x.2 0 1 = 1 ∧ zeros x.2 1 1 = true ∧ withTransfers.xferF.is (fieldAt x.2 2 2) = true ∧
     fieldAt x.2 4 4 + (x.2.length - 8) ≤ withTransfers.xferF.len) ∧
    (withTransfers.sendHoRestart 0).2 = true ∧ ((withTransfers.setFence U.sv 1 0 { Fence.zero with on := true }).sendHoRestart 0).2 = false ∧
    withTransfers.fwStaged = some (fieldAt [7, 0, 0, 0, 1, 0, 0, 0] 0 4) ∧ withTransfers.hasLd 1 = true ∧
    fieldAt [7, 0, 0, 0, 1, 0, 0, 0] 4 1 = 1 := by decide +kernel

/-- The lane of logical lane 0 of L0 migrates to lane 1, in the image of `withInsts`. -/
def migrating : State := { gateOpen with image := withInsts.image }

theorem witness_JobsStartWithTheirIdentity :
    (posted withTransfers 0 0 0x0012 [9, 0, 0, 0]).Serves 0 0 0x0012 ∧ (posted withTransfers 0 0 0x0020 [2, 0, 8, 0]).Serves 0 0 0x0020 ∧
    (posted migrating 0 0 0x0110 [0, 0, 0, 1, 16, 0, 0, 0]).Serves 0 0 0x0110 ∧
    (posted (gateOpen.put F.HC_HCFG_ACTIVE 7 143 1) 0 0 0x0111 [7, 0, 143, 0, 0, 0, 16, 0]).Serves 0 0 0x0111 ∧
    (posted gateOpen 0 0 0x0120 [1, 1, 7, 0, 0, 4, 0, 0]).Serves 0 0 0x0120 ∧
    (posted gateOpen 0 0 0x0122 ([1, 7, 1] ++ List.replicate 17 0 ++ leBytes 4 0x3FFFFF ++ leBytes 4 1)).Serves 0 0 0x0122 :=
  ⟨serves_of_servesB (by decide +kernel), serves_of_servesB (by decide +kernel), serves_of_servesB (by decide +kernel),
    serves_of_servesB (by decide +kernel), serves_of_servesB (by decide +kernel), serves_of_servesB (by decide +kernel)⟩

theorem witness_JobsStartWithTheirIdentity_jobs :
    gateOpen.jobSlot 0 = some 0 ∧ withTransfers.busyJob = false ∧ (soaking 0).busyJob = true ∧
    ((List.range 8).foldl (fun s e => s.setJob 0 e { Job.zero with id := e + 1, state := 1 }) gateOpen).jobSlot 0 = none ∧
    withTransfers.xferC.is (fieldAt [9, 0, 0, 0] 0 2) = true ∧ withTransfers.xferF.is (fieldAt [2, 0, 8, 0] 2 2) = true ∧
    fieldAt [2, 0, 8, 0] 0 1 = 2 ∧ 3 ≠ 0 ∧ 3 < 8 ∧ 0 < 8 := by decide

theorem witness_JobsStartWithTheirIdentity_units :
    (migrating.hasLd 0 = true ∧ migrating.logicalOn 0 0 = some 0 ∧ migrating.fenced U.lane 0 0 = false ∧
      migrating.targetOk 0 0 0 1 0 = true ∧ 7 < 8 ∧ soakN 16 = some 16) ∧
    (let s := gateOpen.put F.HC_HCFG_ACTIVE 7 143 1
     2 ≤ 7 ∧ s.hasDie 7 = true ∧ 143 < 144 ∧ s.flag F.HC_HCFG_ACTIVE 7 143 = true ∧ s.flag F.HC_HCFG_ACTIVE 7 0 = false ∧
     s.fenced U.cell 7 0 = false ∧ s.fenced U.cell 7 143 = false) ∧
    (patternCount 0x400 = some 0x400 ∧ patternCount 0x100000 = some 0x100000 ∧ gateOpen.hasDie 1 = true ∧ 7 < freqCount 1 ∧
      gateOpen.bistBusy 0 1 (bistEngine 1 7) = false ∧ (gateOpen.put F.LBIST_STAT_STATE 1 7 2).bistBusy 0 1 (bistEngine 1 7) = true ∧
      ((gateOpen.put F.LBIST_CFG_PCNT 1 7 0x400).bistStart 1 7).jobSlot 0 = some 0) ∧
    (let p : List Byte := [1, 7, 1] ++ List.replicate 17 0 ++ leBytes 4 0x3FFFFF ++ leBytes 4 1
     p.length = 28 ∧ (crcSetOf p).isSome = true ∧ gateOpen.hasLd (fieldAt p 0 1) = true ∧ fieldAt p 1 1 < 8 ∧ zeros p 17 3 = true ∧
     1 ≤ fieldAt p 24 4 ∧ fieldAt p 20 4 + fieldAt p 24 4 ≤ 0x400000 ∧ gateOpen.pairBusy 1 7 = false ∧
     (gateOpen.put F.FENCE_LEASE_OWNER 1 7 9).pairBusy 1 7 = true) := by decide

/-- Entries of REG_WRITE: one in bounds, one past the map. -/
def regPayload (addr v : Nat) : List Byte := leBytes 2 1 ++ [0, 0] ++ leBytes 4 addr ++ leBytes 4 0xFFFFFFFF ++ leBytes 4 v

theorem witness_ExpertCommandsActThroughTheirUnits :
    (posted gateOpen 0 0 0x0102 (regPayload (regAddr .OTP_OADDR 0 0) 10)).Serves 0 0 0x0102 ∧
    (posted gateOpen 0 0 0x0112 [1, 0, 1, 0, 7, 0, 0, 0]).Serves 0 0 0x0112 ∧
    (posted gateOpen 0 0 0x0130 ([1, 0, 0, 0] ++ List.replicate 16 0)).Serves 0 0 0x0130 ∧
    (posted gateOpen 0 0 0x0140 ([7, 0, 0xFE, 0] ++ leBytes 8 5 ++ [0, 0, 0, 0])).Serves 0 0 0x0140 ∧
    (posted gateOpen 0 0 0x0141 ([2, 0, 0, 0] ++ leBytes 4 0x4C430002)).Serves 0 0 0x0141 :=
  ⟨serves_of_servesB (by decide +kernel), serves_of_servesB (by decide +kernel), serves_of_servesB (by decide +kernel),
    serves_of_servesB (by decide +kernel), serves_of_servesB (by decide +kernel)⟩

theorem witness_ExpertCommandsActThroughTheirUnits_payloads :
    (let p := regPayload (regAddr .OTP_OADDR 0 0) 10
     lenEntries p = true ∧ (regEntries p).length = 1 ∧ zeros p 2 2 = true ∧ (regEntries p).findIdx? (fun e => !gateOpen.boundsOk e) = none ∧
     (gateOpen.writeRun (svM 0) [0] (regEntries p)).2 = 1) ∧
    (regEntries (regPayload 0x80000000 0)).findIdx? (fun e => !gateOpen.boundsOk e) = some 0 ∧
    (let p : List Byte := [1, 0, 1, 0, 7, 0, 0, 0]
     gateOpen.unitOf (fieldAt p 1 1) (fieldAt p 2 1) (fieldAt p 4 2) = some (0, 7) ∧ fieldAt p 0 1 = 1 ∧ ¬(fieldAt p 2 1 = U.sv ∧ 0 = 0)) ∧
    (let p : List Byte := [2, 0, 1, 0, 7, 0, 0, 0]
     gateOpen.unitOf (fieldAt p 1 1) (fieldAt p 2 1) (fieldAt p 4 2) = some (0, 7) ∧ fieldAt p 0 1 = 2 ∧ fieldAt p 2 1 ≠ U.term ∧
     fieldAt p 2 1 ≠ U.field) ∧
    (gateOpen.put F.RNG_RINGCFG_ENABLE 1 0 1).flag F.RNG_RINGCFG_ENABLE 1 0 = true ∧ gateOpen.flag F.RNG_RINGCFG_ENABLE 1 0 = false ∧
    (let s := gateOpen
     s.otpSettle.otpRefusal 0 0x7FE 5 false = 0 ∧ (s.put F.OTP_OLOCK_LOCK 0 0 0x80).otpSettle.otpRefusal 0 0x7FE 5 false = 1 ∧
     (s.put F.OTP_OSTAT_TOKENS 0 0 0).otpSettle.otpRefusal 0 0x7FE 5 false = 2 ∧ s.otpSettle.otpRefusal 0 0x7FE 0 true = 3) ∧
    (fieldAt (leBytes 4 0x4C430002) 0 4 = 0x4C430000 + 2 ∧ lcNext 1 2 = true ∧ lcNext 1 1 = false ∧ gateOpen.lc = 1 ∧
      (gateOpen.put F.OTP_OSTAT_TOKENS 0 0 0).otpSettle.get F.OTP_OSTAT_TOKENS 0 0 = 0 ∧ gateOpen.otpSettle.get F.OTP_OSTAT_TOKENS 0 0 ≠ 0 ∧
      (gateOpen.otpSettle.otpWord (3 + 2)).prog = false) := by decide +kernel

theorem witness_ExpertCommandsActThroughTheirUnits_schedule :
    (gateOpen.writeRun (svM 0) [] (gateOpen.scheduleWords 1 ((posted gateOpen 0 0 0x0130 ([1, 0, 0, 0] ++ leBytes 4 (gateOpen.word .RNG_TURNCFG 1 0) ++
      leBytes 4 (gateOpen.word .RNG_SLSERV 1 0) ++ leBytes 4 (gateOpen.word .RNG_SLFURR 1 0) ++
      leBytes 4 (gateOpen.word .RNG_SLSPATE 1 0))).req 0 0).own)).2 = 4 := by decide +kernel

/-- A payload of TIMER_CTL for a timer of field die 5. -/
def timerPayload (d op t : Nat) (ctl rel cmp : Nat) : List Byte :=
  [BitVec.ofNat 8 d, BitVec.ofNat 8 op, BitVec.ofNat 8 t, 0] ++ leBytes 4 ctl ++ leBytes 4 rel ++ leBytes 4 cmp ++ leBytes 4 0

theorem witness_TillerAndTimerCommandsAct :
    (posted gateOpen 0 0 0x0121 ([1, 1, 0, 0] ++ leBytes 4 1000)).Serves 0 0 0x0121 ∧
    (posted gateOpen 0 0 0x0123 (timerPayload 7 1 15 0 0 0)).Serves 0 0 0x0123 ∧
    (let p : List Byte := [1, 1, 0, 0] ++ leBytes 4 1000
     p.length = 8 ∧ gateOpen.hasLd (fieldAt p 0 1) = true ∧ zeros p 2 2 = true ∧ fieldAt p 1 1 = 1 ∧ 10 ≤ fieldAt p 4 4 ∧ fieldAt p 4 4 ≤ 1000) ∧
    (let p := timerPayload 7 1 15 0 0 0
     p.length = 20 ∧ zeros p 3 1 = true ∧ zeros p 16 4 = true ∧ gateOpen.ctlTimer (fieldAt p 0 1) (fieldAt p 2 1) = some 79 ∧
     gateOpen.get (tmr 7).owner 7 79 = 0 ∧ gateOpen.fenced (timerKind 7) 7 79 = false ∧
     (gateOpen.put (tmr 7).owner 7 79 1).get (tmr 7).owner 7 79 = svTimerCode 7 ∧
     (gateOpen.timerSet (timerPayload 7 3 15 0 0xFFFFFF 0xFFFFFF) 7 79).2 = 0 ∧
     (gateOpen.timerSet (timerPayload 7 3 15 0xFFFFFFFF 0 0) 7 79).2 ≠ 0) :=
  ⟨serves_of_servesB (by decide +kernel), serves_of_servesB (by decide +kernel), by decide, by decide +kernel⟩

theorem witness_CustomCrcSetsAreChecked :
    (let p : List Byte := [1, 7, 0, 32] ++ leBytes 4 0xFFFFFFFF ++ leBytes 4 0xFFFFFFFF ++ leBytes 4 0xFFFFFFFF ++ [3, 0, 0, 0] ++ leBytes 4 0 ++
       leBytes 4 0x400000
     (posted gateOpen 0 0 0x0122 p).Serves 0 0 0x0122 ∧ p.length = 28 ∧ fieldAt p 2 1 = 0 ∧ fieldAt p 16 1 < 4 ∧ zeros p 17 3 = true ∧
     8 ≤ fieldAt p 3 1 ∧ fieldAt p 3 1 ≤ 32 ∧ fieldAt p 4 4 < 2 ^ 32 ∧ fieldAt p 4 4 % 2 = 1 ∧ 1 ≤ fieldAt p 24 4 ∧
     fieldAt p 20 4 + fieldAt p 24 4 ≤ 0x400000) ∧
    (let p : List Byte := [1, 7, 0, 8] ++ leBytes 4 0x101 ++ List.replicate 12 0 ++ leBytes 4 0 ++ leBytes 4 1
     (posted gateOpen 0 0 0x0122 p).Serves 0 0 0x0122 ∧ ¬fieldAt p 4 4 < 2 ^ fieldAt p 3 1) ∧
    (let s := (gateOpen.put F.FENCE_LEASE_OWNER 1 7 9)
     s.hasLd 1 = true ∧ (svM 1).die = 1 ∧ (svM 1).code ≠ 0 ∧ s.get F.FENCE_LEASE_OWNER 1 7 = (svM 1).code ∧ s.flag F.CRC_STAT_BUSY 1 7 = false ∧
     7 % 64 < 8 ∧ 32 < 33 % 64) :=
  ⟨⟨serves_of_servesB (by decide +kernel), by decide⟩, ⟨serves_of_servesB (by decide +kernel), by decide⟩, by decide⟩

theorem witness_RaisingAFenceSetsItsUnitAside :
    inRun.fenced U.lane 1 7 = false ∧ (inRun.raise U.lane 1 7 5).fenced U.lane 1 7 = true ∧ bistEngine U.lane 7 < 10 ∧
    ¬(U.lane = U.lane ∧ 1 = 1 ∧ 6 = 7) ∧ (0 : Nat) ≠ 1 ∧ Reg.LANE_LCTL ∈ unitRegs U.lane := by decide

theorem witness_FenceRequestsActOnTheirUnit :
    let fenced := inRun.raise U.crc 1 7 1
    let both := (withInsts.setFence U.inst 0 0 { Fence.zero with on := true, reason := 1 }).setFence U.inst 1 0 { Fence.zero with on := true, reason := 1 }
    inRun.hasLd 1 = true ∧ WriteAdmitted inRun (svM 1) .FENCE_FREQ 1 0 ((svM 1).isSvOf 1) (inRun.freqNames 1 U.crc 7) ∧
    WriteAdmitted withInsts (svM 0) .FENCE_FREQ 0 0 ((svM 0).isSvOf 0) (withInsts.freqNames 0 U.inst 0) ∧
    (inRun.putFreq 1 U.crc 7 1).clearLogicOk 1 U.crc 7 = false ∧ (fenced.putFreq 1 U.crc 7 1).clearLogicOk 1 U.crc 7 = true ∧ U.crc ≠ U.inst ∧
    both.instFencedP 0 = true ∧ inRun.hasFd 5 = true ∧
    WriteAdmitted inRun (svM 0) .FSYS_FFREQ (fdie 5) 0 (svM 0).isSv (decide (143 < ffreqCount U.cell)) ∧
    WriteAdmitted inRun (svM 0) .FSYS_FFREQ (fdie 5) 0 (svM 0).isSv (decide (79 < ffreqCount U.ftimer)) ∧
    inRun.route (svM 0) (regAddr .FSYS_FFREQ (fdie 5) 0) = 0 ∧ (svM 0).isSv = true := by unfold WriteAdmitted; decide

/-- A fenced instance of which both records are clean may be re-admitted. -/
theorem witness_FenceRequestsActOnTheirUnit_instance :
    let both := (withInsts.setFence U.inst 0 0 { Fence.zero with on := true, reason := 1 }).setFence U.inst 1 0 { Fence.zero with on := true, reason := 1 }
    let later := { both with tick := 16, fields := (both.setField 0 { both.field 0 with htick := 16 }).fields }.put F.FSYS_FPWR_LOADED 2 0 1
    (later.putFreq 0 U.inst 0 1).clearLogicOk 0 U.inst 0 = true ∧ later.instFencedP 0 = true := by decide

theorem witness_LeasesGoToOneMaster :
    let lane7 : Master := ⟨1, 8⟩
    let owned := inRun.put F.FENCE_LEASE_OWNER 1 15 8
    inRun.hasLd 1 = true ∧ 15 < 16 ∧ WriteAdmitted inRun lane7 .FENCE_LEASE 1 15 (decide (lane7.die = 1)) true ∧
    inRun.get F.FENCE_LEASE_OWNER 1 15 = 0 ∧ inRun.codeFenced 1 lane7.code = false ∧
    ¬(owned.get F.FENCE_LEASE_OWNER 1 15 = 0 ∧ owned.codeFenced 1 lane7.code = false) ∧
    WriteAdmitted owned lane7 .FENCE_LEASE 1 15 (decide (lane7.die = 1)) true ∧ lane7.code ≠ 0 ∧
    owned.get F.FENCE_LEASE_OWNER 1 15 = lane7.code ∧ inRun.get F.FENCE_LEASE_OWNER 1 15 ≠ lane7.code ∧ ¬(15 < 8) ∧ 8 ≤ 15 ∧ 7 < 8 ∧ 9 ≠ 0 ∧ 9 ≤ 9 := by
  unfold WriteAdmitted; decide

theorem witness_SupervisorsStopAndReturn :
    let one := inRun.raise U.logic 0 0 0x24
    inRun.hasLd 1 = true ∧ WriteAdmitted inRun (svM 1) .FENCE_SVKICK 1 0 ((svM 1).isSvOf 1) true ∧ inRun.fenced U.sv 1 0 = false ∧
    (inRun.raise U.sv 1 0 0x0B).fenced U.sv 1 0 = true ∧ (inRun.svst 1).halted = false ∧ (inRun.svst 1).restarting = false ∧
    (let s := (inRun.setSv 1 { inRun.svst 1 with restarting := true }).raise U.sv 1 0 0x0B
     (s.svst 1).restarting = true ∧ (s.svst 1).dead = false ∧ s.fenced U.logic 1 0 = false ∧ s.get F.LBIST_STAT_STATE 1 8 = 0) ∧
    inRun.hasLd (1 - 1) = true ∧ inRun.variant.logics = 2 ∧ inRun.fenced U.logic (1 - 1) 0 = false ∧ inRun.fenced U.logic 1 0 = false ∧
    one.fenced U.logic (1 - 1) 0 = true := by unfold WriteAdmitted; decide

theorem witness_ScratchpadAccessesServeTheirWord :
    let at_ (off size : Nat) : SpmReq := ⟨1, off, size, none⟩
    let rot := inRun.put F.SPM_MODE_ROT 1 0 1
    let bad := inRun.setEcc 1 0x3FFFFC .uncorrectable
    let rowOff := (inRun.put F.SPM_FROW_FENCED 1 31 1).put F.SPM_FROW_ROW 1 31 255
    let waiting (x : SpmSt) := inRun.setSpm 1 x
    (inRun.spmSt 1).waits = [] ∧ (inRun.spmSt 1).busy = false ∧ (inRun.spmSt 1).rmw = [] ∧ inRun.hasLd 1 = true ∧ (at_ 0x3FFFFC 4).off < 0x400000 ∧
    inRun.accessKind 1 0x3FFFFC = 0 ∧ inRun.eccClass 1 0x3FFFFC = .good ∧ 0x3FFFFC % 4 + 4 ≤ 4 ∧ (inRun.get F.SPM_MODE_ROT 1 0).testBit (1 - 1) = false ∧
    (rot.get F.SPM_MODE_ROT 1 0).testBit (1 - 1) = true ∧ rot.accessKind 1 1 = 0 ∧ rot.eccClass 1 1 = .good ∧ (at_ 1 4).pri ≠ 0 ∧ 4 < 1 % 4 + 4 ∧
    rowOff.accessKind 1 0x3FFFFC ≠ 0 ∧ bad.accessKind 1 0x3FFFFC = 0 ∧ bad.eccClass 1 0x3FFFFC = .uncorrectable ∧ 2 ≠ (at_ 0 4).pri ∧
    ((waiting { SpmSt.zero with wback := [8] }).spmSt 1).wback.contains (wordOff 11) = true ∧
    ((waiting { SpmSt.zero with repair := [0x3FFFFC] }).spmSt 1).repair.contains (wordOff 0x3FFFFF) = true ∧
    inRun.flag F.SPM_REP_USE0 1 (spmBank 0x3FFFFF) = false ∧
    (let u0 := inRun.put F.SPM_REP_USE0 1 (spmBank 0x3FFFFF) 1
     u0.flag F.SPM_REP_USE0 1 (spmBank 0x3FFFFF) = true ∧ u0.flag F.SPM_REP_USE1 1 (spmBank 0x3FFFFF) = false ∧
     (u0.put F.SPM_REP_USE1 1 (spmBank 0x3FFFFF) 1).flag F.SPM_REP_USE1 1 (spmBank 0x3FFFFF) = true ∧
     u0.flag F.SPM_FROW_FENCED 1 (spmBank 0x3FFFFF) = false ∧ rowOff.flag F.SPM_FROW_FENCED 1 (spmBank 0x3FFFFF) = true) := by decide

theorem witness_SegmentsAndTillerKeepTheirRules :
    let off3 := inRun.put F.SPM_PWR_OFF 1 0 4
    let clearing := inRun.put F.SPM_PWR_CLEARING 1 0 8
    let held := (inRun.put F.SPM_TSTAT_ABORTS 1 0 8).setSpm 1 { SpmSt.zero with holdTick := some 0 }
    let busy := (inRun.put F.SPM_TSTAT_REGION 1 0 16383).setSpm 1 { SpmSt.zero with busy := true }
    let flawed := (busy.setEcc 1 (256 * 16383) .corrected).setEcc 1 (256 * 16383 + 4 * 63) .uncorrectable
    inRun.hasLd 1 = true ∧ 3 < 4 ∧ WriteAdmitted inRun (svM 1) .SPM_PWR 1 0 ((svM 1).isSvOf 1) (decide (3 ≠ 0)) ∧
    inRun.route (svM 1) (regAddr .SPM_PWR 1 0) = 0 ∧ (svM 1).isSvOf 1 = true ∧ spmSeg 0x3FFFFF = 3 ∧ spmSeg 0x300000 = 3 ∧
    WriteAdmitted off3 (svM 1) .SPM_PWR 1 0 ((svM 1).isSvOf 1) true ∧ (off3.get F.SPM_PWR_OFF 1 0).testBit (3 - 1) = true ∧
    (clearing.get F.SPM_PWR_CLEARING 1 0).testBit 3 = true ∧ (inRun.spmSt 1).busy = false ∧
    (inRun.put F.SPM_TCTL_PAUSE 1 0 1).flag F.SPM_TCTL_PAUSE 1 0 = true ∧ inRun.flag F.SPM_TCTL_PAUSE 1 0 = false ∧
    inRun.segDown 1 (inRun.tillerRegion 1 (inRun.get F.SPM_TSTAT_REGION 1 0) * 256) = false ∧ inRun.get F.SPM_TSTAT_ABORTS 1 0 < 8 ∧
    8 ≤ held.get F.SPM_TSTAT_ABORTS 1 0 ∧ (held.spmSt 1).holdTick = some held.tick ∧ (held.spmSt 1).busy = false ∧
    8 ≤ (inRun.put F.SPM_TSTAT_ABORTS 1 0 8).get F.SPM_TSTAT_ABORTS 1 0 ∧ ((inRun.put F.SPM_TSTAT_ABORTS 1 0 8).spmSt 1).holdTick ≠ some inRun.tick ∧
    (busy.spmSt 1).busy = true ∧ busy.get F.SPM_TSTAT_REGION 1 0 = 16383 ∧ (busy.put F.SPM_TSTAT_REGION 1 0 0).get F.SPM_TSTAT_REGION 1 0 ≠ 16383 ∧
    flawed.eccClass 1 (256 * flawed.get F.SPM_TSTAT_REGION 1 0 + 4 * 0) = .corrected ∧
    flawed.eccClass 1 (256 * flawed.get F.SPM_TSTAT_REGION 1 0 + 4 * 63) = .uncorrectable := by unfold WriteAdmitted; decide

theorem witness_CrcUnitsTakeBytesFromTheirOwner :
    let s := inRun.put F.FENCE_LEASE_OWNER 1 7 9
    let busy := s.put F.CRC_STAT_BUSY 1 7 1
    s.hasLd 1 = true ∧ 7 < 8 ∧ (svM 1).die = 1 ∧ (svM 1).code ≠ 0 ∧ s.get F.FENCE_LEASE_OWNER 1 7 = (svM 1).code ∧
    s.flag F.CRC_STAT_BUSY 1 7 = false ∧ s.fenced U.crc 1 7 = false ∧ 0xFFFFFFFF < 2 ^ 32 ∧ busy.hasDie (svM 0).die = true ∧
    busy.flag F.CRC_STAT_BUSY 1 7 = true ∧ busy.route (svM 0) (regAddr .CRC_DIN 1 7) = 0 := by decide

theorem witness_ScansFeedTheirRangeInOrder :
    let s := (((inRun.put F.FENCE_LEASE_OWNER 1 7 9).put F.FENCE_LEASE_OWNER 1 15 9).put F.SCAN_START_START 1 7 0x3FFFFF).put F.SCAN_LEN_LEN 1 7 1
    let busy := ((s.put F.SCAN_STAT_BUSY 1 7 1).put F.SCAN_NEXT_NEXT 1 7 0x3FFFFF).put F.SCAN_REM_REM 1 7 1
    s.hasLd 1 = true ∧ 7 < 8 ∧ (svM 1).die = 1 ∧ (svM 1).code ≠ 0 ∧ s.get F.FENCE_LEASE_OWNER 1 (7 + 8) = (svM 1).code ∧
    (s.get F.FENCE_LEASE_OWNER 1 7 = (svM 1).code ∧ s.flag F.SCAN_STAT_BUSY 1 7 = false ∧ 1 ≤ s.get F.SCAN_LEN_LEN 1 7 ∧
      s.get F.SCAN_LEN_LEN 1 7 ≤ 0x400000 ∧ s.get F.SCAN_START_START 1 7 + s.get F.SCAN_LEN_LEN 1 7 ≤ 0x400000) ∧
    ¬((s.put F.SCAN_LEN_LEN 1 7 2).get F.SCAN_START_START 1 7 + (s.put F.SCAN_LEN_LEN 1 7 2).get F.SCAN_LEN_LEN 1 7 ≤ 0x400000) ∧
    busy.flag F.SCAN_STAT_BUSY 1 7 = true ∧ busy.get F.SCAN_NEXT_NEXT 1 7 + busy.get F.SCAN_REM_REM 1 7 ≤ 0x400000 ∧
    busy.scanLeft 1 7 ≤ 1 ∧ 0 < busy.scanLeft 1 7 := by decide

/-- A scratchpad without errors, every segment on: the premise of SCAN_DONE. -/
theorem witness_ScansFeedTheirRangeInOrder_memory : ∀ off, off < 0x400000 → inRun.accessKind 1 off = 0 ∧ inRun.eccClass 1 off = .good := by
  intro off _
  have e : (2 * inRun.get F.SPM_PWR_OFF 1 0 ||| inRun.get F.SPM_PWR_CLEARING 1 0) = 0 := by decide
  have f (b : Nat) (h : b < 32) : inRun.flag F.SPM_FROW_FENCED 1 b = false := by revert b; decide
  refine ⟨?_, rfl⟩
  have hb : spmBank off < 32 := Nat.mod_lt _ (by decide)
  simp [State.accessKind, State.segDown, State.rowFenced, e, f _ hb]

theorem witness_BistRunsEndWithTheirRecord :
    let st (k : Nat) := inRun.put F.LBIST_STAT_STATE 1 9 k
    let custom := (st 2).put F.LBIST_STAT_CUSTOM 1 9 1
    inRun.hasLd 1 = true ∧ 9 < 10 ∧ WriteAdmitted inRun (svM 1) .LBIST_CTL 1 9 ((svM 1).isSvOf 1) (inRun.bistMay 1 9) ∧
    (st 1).bistMay 1 9 = false ∧ (st 1).route (svM 1) (regAddr .LBIST_CTL 1 9) = 0 ∧ (svM 1).isSvOf 1 = true ∧
    WriteAdmitted (st 2) (svM 1) .LBIST_CTL 1 9 ((svM 1).isSvOf 1) true ∧ (st 1).get F.LBIST_STAT_STATE 1 9 = 1 ∧ (st 2).get F.LBIST_STAT_STATE 1 9 = 2 ∧
    inRun.get F.LBIST_STAT_STATE 1 9 = 0 ∧ (st 3).get F.LBIST_STAT_STATE 1 9 = 3 ∧ custom.flag F.LBIST_STAT_CUSTOM 1 9 = true ∧
    (st 2).flag F.LBIST_STAT_CUSTOM 1 9 = false ∧ custom.bistExpected 1 9 % 2 ^ 64 = 0 ∧ 1 ≠ custom.bistExpected 1 9 % 2 ^ 64 ∧ 8 ≤ 9 ∧ 7 < 8 ∧
    WriteAdmitted inRun (svM 0) .LBIST_SDCTL 0 0 ((svM 0).isSvOf 0) true ∧ inRun.inRun = true ∧
    ({ inRun with part := { inRun.part with phase := .wait } } : State).inRun = false ∧
    ({ inRun with part := { inRun.part with shut := 2 } } : State).part.shut = 2 ∧ 0 ∈ inRun.lds ∧ 5 ∈ inRun.fds ∧
    16 * 1 + 9 ∈ [25] ∧ 32 + 5 ∈ [37] ∧ inRun.hasFd 5 = true ∧ ((inRun.setField 5 { inRun.field 5 with fbist := true }).field 5).fbist = true ∧
    inRun.flag F.FBIST_FBSTAT_RETRY (fdie 5) 0 = false ∧
    (inRun.put F.FBIST_FBSTAT_RETRY (fdie 5) 0 1).flag F.FBIST_FBSTAT_RETRY (fdie 5) 0 = true := by unfold WriteAdmitted; decide

/-- A signature that is that of the ROM, and one that is not (the value itself is open: log entry 10). -/
theorem witness_BistRunsEndWithTheirRecord_signatures :
    (∃ misr, misr % 2 ^ 64 = (inRun.put F.LBIST_STAT_STATE 1 9 2).bistExpected 1 9 % 2 ^ 64) ∧
    (∃ misr, misr % 2 ^ 64 ≠ (inRun.put F.LBIST_STAT_STATE 1 9 2).bistExpected 1 9 % 2 ^ 64) ∧
    (∃ misr, misr % 2 ^ 64 = Config.bistSignature 16 % 2 ^ 64) ∧ ∃ misr, misr % 2 ^ 64 ≠ Config.bistSignature 16 % 2 ^ 64 :=
  ⟨⟨_, rfl⟩, ⟨(inRun.put F.LBIST_STAT_STATE 1 9 2).bistExpected 1 9 + 1, by omega⟩, ⟨_, rfl⟩, ⟨Config.bistSignature 16 + 1, by omega⟩⟩

theorem witness_IdcodeReadsThePart : inRun.tapLive = true ∧ ({ inRun with part := { inRun.part with vaux := true } } : State).tapLive = false ∧
    inRun.rev = .a1 ∧ inRun.variant = .cvsl808 ∧ ({ inRun with rev := .a0 } : State).rev = .a0 ∧
    ({ inRun with rev := .b0 } : State).rev = .b0 := by decide

theorem witness_TapAndDebugFollowTheLifeCycle :
    let lc (k : Nat) := inRun.put F.LBIST_LCSTAT_LC 0 0 k
    let dbg (s : State) : State := { s with tap := .dbgacc }
    let open_ := (dbg (lc 2)).put F.SYSCTL_SEAL_GATE 1 0 1
    inRun.tapLive = true ∧ ({ inRun with part := { inRun.part with vio := true } } : State).tapLive = false ∧ 0 ≠ 0xFF ∧ (lc 2).lc = 2 ∧ (lc 0).lc ≠ 1 ∧ (lc 0).lc ≠ 3 ∧ inRun.lc ≠ 2 ∧ inRun.lc = 1 ∧ (lc 3).lc = 3 ∧
    inRun.hasLd 1 = true ∧ 7 < 8 ∧ (dbg inRun).tap = .dbgacc ∧ (dbg inRun).lc = 1 ∧ open_.lc = 2 ∧ open_.gate 1 = true ∧
    ¬((dbg (lc 2)).lc = 1 ∨ (dbg (lc 2)).lc = 2 ∧ (dbg (lc 2)).gate 1 = true) ∧ (dbg (lc 2)).lc ≠ 1 ∧ inRun.fenced U.lane 1 7 = false ∧
    ((inRun.setLane 1 7 { LaneSt.zero with halted := true }).lane 1 7).halted = true ∧
    ((inRun.setSv 1 { inRun.svst 1 with halted := true }).svst 1).halted = true := by decide

theorem witness_VaultAndOtpKeepTheirRules :
    let busy := (inRun.put F.SYSCTL_VSTAT_BUSY 0 0 1).put F.SYSCTL_VSTAT_LOADED 0 0 1
    let w : Nat := 0x6FE
    let named := (inRun.put F.OTP_OADDR_WORD 0 0 w).put F.OTP_ODATA0_DATA 0 0 5
    WriteAdmitted inRun (svM 0) .SYSCTL_VCTL 0 0 (svM 0).isSv (!inRun.flag F.SYSCTL_VSTAT_BUSY 0 0) ∧ busy.flag F.SYSCTL_VSTAT_BUSY 0 0 = true ∧
    busy.route (svM 0) (regAddr .SYSCTL_VCTL 0 0) = 0 ∧ (svM 0).isSv = true ∧ WriteAdmitted inRun (svM 0) .SYSCTL_VDIN 0 0 (svM 0).isSv true ∧
    ({ inRun with vaultOpen := true } : State).vaultOpen = true ∧ inRun.vaultOpen = false ∧
    busy.flag F.SYSCTL_VSTAT_LOADED 0 0 = true ∧ busy.vaultKey = some (List.replicate 32 0) ∧
    WriteAdmitted named (svM 0) .OTP_OCMD 0 0 ((svM 0).isSvOf 0) true ∧
    WriteAdmitted named (svM 0) .OTP_OCMD 0 0 ((svM 0).isSvOf 0) (!named.flag F.OTP_OSTAT_BUSY 0 0) ∧
    named.otpRefusal 0 w 5 false = 0 ∧ named.otpRefusal 0 w 5 true = 3 ∧ (named.put F.OTP_OSTAT_TOKENS 0 0 0).otpRefusal 0 w 5 false = 2 ∧
    (named.put F.OTP_OLOCK_LOCK 0 0 0x40).otpRefusal 0 w 5 false = 1 ∧ 256 * 6 ≤ w ∧ w < 256 * 6 + 256 ∧
    ((named.put F.OTP_OLOCK_LOCK 0 0 0x40).get F.OTP_OLOCK_LOCK 0 0).testBit 6 = true ∧
    WriteAdmitted inRun (svM 1) .OTP_OLOCKSET 1 0 ((svM 1).isSvOf 1) (decide (0xFF < 256)) ∧
    ({ inRun with otpOp := ⟨1, w, 5⟩ } : State).otpOp.kind ≠ 0 ∧ 5 % 2 ^ 64 ≠ 0 ∧
    0 ∈ inRun.lds ∧ 7 < 8 ∧ named.otpRefusal 0 4 5 false = 1 ∧ named.otpRefusal 0 6 5 true = 1 := by unfold WriteAdmitted; decide

theorem gateOpen_good (w : Nat) : (gateOpen.setOtp 0x6FE (otpGood 5)).otpWord w = if w = 0x6FE then otpGood 5 else gateOpen.otpWord w :=
  State.otpWord_setOtp (by decide) (otpCode_lt _) (otpCode_lt _) (otpCode_lt _) w

/-- A reburn of what the word holds, a closed region, and a word whose margins read apart. -/
theorem witness_VaultAndOtpKeepTheirRules_words :
    (gateOpen.setOtp 0x6FE (otpGood 5)).otpRefusal 0 0x6FE 5 true = 0 ∧
    ((gateOpen.setOtp (256 * 6 + 255) (otpGood 0xC105ED06)).otpWord (256 * 6 + 255)).prog = true ∧
    ((gateOpen.setOtp 0x6FE ⟨otpCode 5, otpCode 5, otpCode 6⟩).otpWord 0x6FE).cls = .uncorrectable := by
  have w5 := otpWord_of_code (d := 5) (by decide)
  have h : otpCode 5 ≠ otpCode 6 := otpCode_ne (by decide)
  refine ⟨?_, ?_, ?_⟩
  · have e : (gateOpen.otpWord 1791).prog = false := by decide
    have l : (gateOpen.get F.OTP_OLOCK_LOCK 0 0).testBit 6 = false := by decide
    have k : gateOpen.get F.OTP_OSTAT_TOKENS 0 0 ≠ 0 := by decide
    have d : OtpWord.prog (otpGood 5) = true := w5.1
    have v : OtpWord.data (otpGood 5) = 5 := w5.2.2
    simp [State.otpRefusal, State.otpClosed, e, l, k, d, v, gateOpen_good]
  · have d : OtpWord.prog (otpGood 0xC105ED06) = true := (otpWord_of_code (by decide)).1
    rw [State.otpWord_setOtp (by decide) (otpCode_lt _) (otpCode_lt _) (otpCode_lt _)]
    simp [d]
  · rw [State.otpWord_setOtp (by decide) (otpCode_lt _) (otpCode_lt _) (otpCode_lt _)]
    simp [OtpWord.cls, OtpWord.prog, otpCode_pos (show 5 % 2 ^ 64 ≠ 0 by decide), h]

theorem witness_RegisterWritesTakeTheFirstRowOfTheMap :
    let a := regAddr .OTP_OADDR 1 0
    let cfg := regAddr .TERM_CFG (fdie 5) 63
    inRun.hasDie (svM 0).die = true ∧ a < 2 ^ 32 ∧ inRun.route (svM 0) 0x80000000 ≠ 0 ∧ inRun.route (svM 1) a = 0 ∧
    memArea (a / 2 ^ 28) (a % 2 ^ 28) = .none ∧ a % 2 ^ 28 % 4 = 0 ∧ findReg (a / 2 ^ 28) (a % 2 ^ 28) = some (.OTP_OADDR, 0) ∧
    (Reg.OTP_OADDR).writers ≠ .crc ∧ inRun.writerOk (svM 1) .OTP_OADDR 1 0 10 = true ∧ inRun.writerOk ⟨1, 1⟩ .OTP_OADDR 1 0 10 = false ∧
    inRun.wordOk .OTP_OADDR 1 0 10 = true ∧ inRun.wordOk .OTP_OADDR 1 0 0xFFFFFFFF = false ∧
    findReg 1 (0x0FFFFFFC) = none ∧ memArea 1 0x0FFFFFFC = .none ∧ inRun.route (svM 1) (2 ^ 28 + 0x0FFFFFFC) = 0 ∧
    findReg (cfg / 2 ^ 28) (cfg % 2 ^ 28) = some (.TERM_CFG, 63) ∧ inRun.writerOk (svM 0) .TERM_CFG (fdie 5) 63 1 = true ∧
    inRun.gate (fdie 5) = false ∧ F.TERM_CFG_MODE ∈ Reg.fields .TERM_CFG ∧ F.TERM_CFG_MODE.acc = .rwl ∧
    bitsOf 1 F.TERM_CFG_MODE.lo F.TERM_CFG_MODE.w ≠ inRun.fieldValue F.TERM_CFG_MODE (fdie 5) 63 % 2 ^ F.TERM_CFG_MODE.w ∧
    inRun.ownerFenced .OTP_OADDR 1 0 = false := by decide

/-- A word that the model does not place (log entry 15) is written by one of two masters whatever it holds; one that holds the
tables is refused to a lane, and to a supervisor while the gate is closed. -/
theorem witness_ScratchpadAccessesServeTheirWord_writers (off : Nat) :
    (Config.spmUse 1 (wordOff off) ≠ 2 → ∃ pri ∈ [3, 5], ({ inRun with part := { inRun.part with phase := .wait } } : State).put F.SYSCTL_SEAL_GATE 1 0 1 |>.spmWriteOk 1 pri off) ∧
    (Config.spmUse 1 (wordOff off) = 1 → inRun.spmWriteOk 1 5 off = false ∧ inRun.spmWriteOk 1 12 off = false) ∧
    (Config.spmUse 1 (wordOff off) = 2 → inRun.spmWriteOk 1 5 off = false) := by
  have g : (({ inRun with part := { inRun.part with phase := .wait } } : State).put F.SYSCTL_SEAL_GATE 1 0 1).gate 1 = true := by decide
  have r : (({ inRun with part := { inRun.part with phase := .wait } } : State).put F.SYSCTL_SEAL_GATE 1 0 1).inRun = false := by decide
  have c : inRun.gate 1 = false := by decide
  refine ⟨fun n => ?_, fun h => by simp [State.spmWriteOk, h, c], fun h => by simp [State.spmWriteOk, h]⟩
  by_cases h : Config.spmUse 1 (wordOff off) = 5
  · exact ⟨5, by simp, by simp [State.spmWriteOk, h]⟩
  · refine ⟨3, by simp, ?_⟩
    unfold State.spmWriteOk
    split <;> simp_all

/-! ### Further clauses -/

/-- Ports held by a self-test, and free ones (R405). -/
def testing : State := inRun.put F.LBIST_STAT_STATE 1 7 2

theorem witness_ports : inRun.portHeld (svM 0) = false ∧ inRun.portHeld ⟨1, 8⟩ = false ∧ testing.portHeld ⟨1, 8⟩ = true ∧
    testing.portHeld (svM 1) = false ∧ testing.hasDie 1 = true ∧ inRun.part.phase ≠ .boot ∧
    (let t := inRun.put F.LBIST_STAT_STATE 1 9 1; t.hasLd 1 = true ∧ t.txGood 1 = true ∧ t.get F.LBIST_STAT_STATE 1 9 = 1) ∧
    inRun.get F.LBIST_STAT_STATE 1 9 ≠ 1 ∧ inRun.get F.LBIST_STAT_STATE 1 9 ≠ 2 ∧ Reg.OTP_OADDR.writers ≠ .crc := by decide

theorem witness_LanePassesAnswer_targets :
    let full := inPass .pPass (List.replicate 3 firstEntry) 0
    full.txnRefused 1 7 (txn (win 0x10) 5 1) = false ∧ full.txnRefused 1 7 (txn 0 0 2) = false ∧
    full.txnRefused 1 7 (txn (win 0x3FFF) 5 0) = false := by decide +kernel

theorem witness_InputImagesAreFrozenOrDropped_window :
    inRun.imageClosed 1 = false ∧ (inRun.put F.TICK_TPOS_POS 1 0 250).imageClosed 1 = true := by decide

theorem witness_HbusSlotsAreSentAndChecked_sender : (inRun.field 5).fbist = false ∧ inRun.fenced U.field (fdie 5) 0 = false := by decide

/-- The first slot of a frame ends in its eighth tick on either side; another is not due. -/
theorem witness_VoltagesAndSlotsReachTheCheckers_time (h : Bool) :
    let s := { inRun.put F.TP_FRAME_TPON (fdie 5) 0 1 with tick := 7 }
    let s := s.setField 5 { s.field 5 with htick := 7 }
    s.inTick 5 14001 h = true ∧ 14001 < 32 * s.slotLen 5 ∧ s.slotDue 5 0 h = true ∧ s.tpOn 5 = true ∧ s.inRun = true ∧ (s.field 5).slot h ≠ 31 := by
  cases h <;> decide

theorem witness_TimersWrapMatchAndCapture_wrap :
    let f := tmr 1
    let lrun := ((inRun.put f.en 1 31 1).put f.cnt 1 31 7).put f.owner 1 31 9
    lrun.counts 1 31 = true ∧ lrun.get f.cmp 1 31 = 0 ∧ (lrun.put f.cmp 1 31 8).get f.cnt 1 31 < (lrun.put f.cmp 1 31 8).get f.cmp 1 31 ∧
    (lrun.put f.cmp 1 31 8).counts 1 31 = true := by decide

theorem witness_PortsAreAdmittedByTheirConditions_halfDuplex :
    let s := (ringUp syncTrack).put F.RNG_PCFG_ANEN 1 1 1
    s.negotiates 1 1 = true ∧ s.get F.RNG_PCFG_MODE 1 1 = 1 ∧ baseFd 0x40 = false := by decide

/-- Frames of a node to another, and to this one. -/
def toOther : ServiceFrame := { service0 with hdr := hdrB 0x10, stype := 1, dst := 9, orig := 5 }
def toHere (stype : Nat) (pl : List Byte) : ServiceFrame := { toOther with stype := stype, dst := 3, payload := pl }

theorem witness_ServiceFramesAreDeliveredForwardedOrCounted_effects :
    let s := ringUp syncTrack
    let q := if s.portOut 1 0 = true then 1 else 0
    let full := s.setPort 1 q { s.port 1 q with queue := List.replicate 16 ⟨false, toOther⟩ }
    let mail : List Byte := [4, 1, 0, 0] ++ message 1 0x77 0 0 1 0 []
    s.admitted 1 1 = true ∧ s.ringRuns 1 = true ∧ s.filtered 1 1 0x10 toOther.hdr = false ∧ s.joined 1 = true ∧
    s.inWindow 1 1 0x10 (arrived 0x10) = true ∧ toOther.dst ≠ s.node 1 ∧ toOther.dst ≠ 0 ∧ toOther.dst ≠ 8191 ∧ toOther.orig ≠ s.node 1 ∧
    s.sentOn 1 { toOther with orig := 3 } = s.svPort 1 ∧
    (s.port 1 q).queue.length < 16 ∧ 16 ≤ (full.port 1 q).queue.length ∧ full.admitted 1 1 = true ∧
    (toHere 1 mail).dst = s.node 1 ∧ (toHere 1 mail).orig ≠ s.node 1 ∧ s.namesMailbox mail = true ∧
    s.mbState (fieldAt mail 1 1) (fieldAt mail 0 1) ≠ mbPosted ∧ (s.port 1 (s.svPort 1)).queue.length < 16 ∧
    (s.put F.MB_MBCTL_STATE 1 4 mbPosted).mbState 1 4 = mbPosted ∧ (toHere 4 []).payload = [] ∧ (toHere 4 []).sflg.testBit 1 = false ∧
    (toHere 3 [1, 0, 0, 1, 0, 0, 0, 0, 0xAA]).payload.length = 9 ∧ s.lds.any s.svUp = true ∧ (s.port 1 1).samples = [] := by decide +kernel

/-- A piece that names the open transfer and lies within it; one past it; one of another transfer. -/
theorem witness_ServiceFramesAreDeliveredForwardedOrCounted_pieces :
    let x : Transfer := ⟨0x0102, 10, 0, 0, 0, 0, []⟩
    let pl : List Byte := [1, 0, 1, 2, 0, 0, 0, 9, 0xAA]
    x.xfer ≠ 0 ∧ beNat ((pl.drop 2).take 2) = x.xfer ∧ 9 ≤ pl.length ∧ fieldAt pl 1 1 = 0 ∧
    beNat ((pl.drop 4).take 4) + (pl.length - 8) ≤ x.len ∧ x.len < beNat ((([1, 0, 1, 2, 0, 0, 0, 10, 0xAA] : List Byte).drop 4).take 4) + 1 ∧
    beNat ((([1, 0, 2, 1] : List Byte).drop 2).take 2) ≠ x.xfer := by decide

theorem witness_TheSealGateFollowsBothReaders_window :
    let late := inRun.put F.TICK_TPOS_POS 0 0 3749
    late.sealWindow = true ∧ late.sealContent 7 false = some (late.sealSent 0) ∧ late.tickOf 7 = late.tickOf 0 ∧
    inRun.sealWindow = false ∧ (inRun.put F.TICK_TPOS_POS 0 0 3750).sealWindow = false := by decide +kernel

theorem witness_MailboxesMoveByTheirStateTable_order :
    let full := inRun.mbRing 1 0
    full.get F.MB_MBCTL_SERVER 1 0 ≠ 0 ∧ full.svReaches (full.get F.MB_MBCTL_SERVER 1 0 - 1) 1 0 = true ∧ full.mbState 1 0 = mbPosted ∧
    full.servedNext 1 0 = true ∧ inRun.isClient hostM 1 0 = true ∧ inRun.isClient hostM 1 7 = false ∧ inRun.isClient (svM 0) 1 7 = true ∧
    inRun.portHeld (svM 0) = false := by decide

theorem witness_commands_where :
    gateOpen.SvMayWrite 0 (freqReg 0) 0 0 (freqOther U.lane) ∧ gateOpen.SvMayWrite 0 (freqReg 1) 1 0 (freqOther U.sv) ∧ gateOpen.SvMayWrite 1 .SPM_TCTL 1 0 false ∧
    gateOpen.SvMayWrite 0 (ctlReg 7) 7 79 false ∧ gateOpen.SvMayWrite 0 .LBIST_CTL 0 (bistEngine 1 7) (decide (1 = U.sv)) ∧
    gateOpen.SvMayWrite 0 .FENCE_LEASE 0 7 false := by unfold State.SvMayWrite; decide

theorem witness_TransfersOpenAndTakeTheirData_other :
    (posted withTransfers 0 0 0x0021 [7, 0, 0, 0, 1, 0, 0, 0]).otherFree 0 0 = true ∧
    (posted withTransfers 0 0 0x0021 [7, 0, 0, 0, 0, 0, 0, 0]).otherFree 0 0 = true := by decide +kernel

theorem witness_TapAndDebugFollowTheLifeCycle_selected :
    (let d : State := { inRun with tap := .dbgacc }; d.dbgOn = true ∧ d.tapLive = true) ∧ inRun.dbgOn = false := by decide

/-- The end of an orderly shutdown: no job runs, and an engine that still runs its standard test. -/
theorem witness_BistRunsEndWithTheirRecord_shutdown :
    let s := (State.put { inRun with part := { inRun.part with shut := 2 } } F.LBIST_STAT_STATE 1 7 2)
    s.part.shut = 2 ∧ (∀ a b, (s.job a b).state ≠ 1) ∧ s.get F.LBIST_STAT_STATE 1 7 = 2 ∧ s.flag F.LBIST_STAT_CUSTOM 1 7 = false ∧
    s.flag F.SYSCTL_SEAL_GATE 0 0 = false := by
  refine ⟨rfl, fun a b => ?_, by decide, by decide, by decide⟩
  have h : inRun.jobs = [] := by decide
  simp [State.job, h, Store.get, Job.zero]

theorem witness_RaisingAFenceSetsItsUnitAside_again :
    let s := inRun.raise U.lane 1 7 5
    s.fenced U.lane 1 7 = true ∧ bistEngine U.lane 7 < 10 ∧ (inRun.raise U.crc 1 7 5).fenced U.crc 1 7 = true ∧ 10 ≤ bistEngine U.crc 7 := by decide

theorem witness_ScratchpadAccessesServeTheirWord_plain :
    inRun.scanServed 1 ⟨1, 0, 4, none⟩ = false ∧ inRun.scanServed 1 ⟨14, 0, 4, none⟩ = false ∧ 4 < 3 % 4 + 4 := by decide

theorem witness_SegmentsAndTillerKeepTheirRules_attempt :
    let busy := (inRun.put F.SPM_TSTAT_REGION 1 0 16383).setSpm 1 { SpmSt.zero with busy := true }
    let again := inRun.setSpm 1 { SpmSt.zero with holdTick := some inRun.tick }
    busy.rowFenced 1 (256 * 16383) = false ∧ (busy.spmSt 1).saved ≤ 0 ∧ 256 * 16383 ∈ [256 * 16383] ∧
    inRun.tillerRegion 1 (inRun.get F.SPM_TSTAT_REGION 1 0) = inRun.get F.SPM_TSTAT_REGION 1 0 ∧
    (again.spmSt 1).holdTick = some again.tick := by decide

theorem witness_ScansFeedTheirRangeInOrder_stop :
    let busy := ((inRun.put F.SCAN_STAT_BUSY 1 7 1).put F.SCAN_NEXT_NEXT 1 7 0x3FFFF0).put F.SCAN_REM_REM 1 7 16
    busy.scanLeft 1 7 ≤ max 1 4 ∧ max 1 0 < busy.scanLeft 1 7 ∧
    busy.get F.SCAN_NEXT_NEXT 1 7 + busy.get F.SCAN_REM_REM 1 7 ≤ 0x400000 ∧ inRun.portHeld (svM 1) = false := by decide

/-! ### Values worked out in the spec -/

/-- The state after a command that answers a next state. -/
def after (c : Instr) (s : State) : State :=
  match exec c s with
  | .next t => t
  | _ => s

/-- A CVSL-804 of revision B0 in FIELD, without configuration, the seal closed (R490's worked example). -/
def field804 : State :=
  let s : State := { inRun with variant := .cvsl804, rev := .b0, part := { inRun.part with phase := .wait, noconfig := true } }
  (s.put F.LBIST_LCSTAT_LC 0 0 2).moveLeases

/-- Register map, request 1: refused in row 4, logged on F2 as 0x8001_F009. -/
theorem test_registerWrite_gate_closed : let t := after (.registerWrite (svM 0) 0x400004C0 ⟨1, 15⟩ 0) field804
    t.word .FSYS_ERRLOG0 4 0 = 0x400004C0 ∧ t.word .FSYS_ERRLOG1 4 0 = 0x8001F009 ∧ t.get F.TERM_CFG_MODE 4 19 = 0 := by decide +kernel

/-- Register map: the same write with F2's gate open; and 0x7000_0040 on a part without F5, KIND 0b010 at the issuer. -/
theorem test_registerWrite_gate_open_and_no_die :
    (after (.registerWrite (svM 0) 0x400004C0 ⟨1, 15⟩ 0) (field804.put F.FSYS_SEAL_GATE 4 0 1)).get F.TERM_CFG_MODE 4 19 = 1 ∧
    (let t := after (.registerWrite (svM 0) 0x70000040 ⟨0, 15⟩ 0) field804
     t.word .SYSCTL_ERRLOG0 0 0 = 0x70000040 ∧ t.word .SYSCTL_ERRLOG1 0 0 = 0x8001A009) := by decide +kernel

/-- The example of IDCODE (R419) and DEVID's part code. -/
theorem test_tapIdcode : (after .tapIdcode inRun).results = [0x10808347] := by decide +kernel

/-- Addresses of R63, R76, R486: TERM.CFG and TERM.FAULT of T147, LTMR05.RELOAD, HGLB.HRINGID of F3, GTMRn. -/
theorem test_addresses : regAddr .TERM_CFG 4 19 = 0x400004C0 ∧ regAddr .TERM_FAULT 4 19 = 0x400004D4 ∧
    regAddr .HGLB_HRINGID 5 0 = 0x5002280C ∧ findReg 5 0x22400 = none := by decide +kernel

/-- R381: the word 0x4433_2211 at 0x100, read at 0x102, with and without ROT. -/
def rotated (rot : Nat) : State := ((inRun.setBytes 0x100 [0x11, 0x22, 0x33, 0x44]).put F.SPM_MODE_ROT 0 0 rot)
theorem test_scratchpadAccess_rotates : (after (.scratchpadAccess 0 ⟨[⟨1, 0x102, 4, none⟩], 0, []⟩) (rotated 1)).results = [0x22114433] ∧
    (let t := after (.scratchpadAccess 0 ⟨[⟨1, 0x102, 4, none⟩], 0, []⟩) (rotated 0)
     t.results = [0] ∧ t.get F.SPM_ERRLOG1_KIND 0 0 = 5) := by decide +kernel

/-- R375: bytes in memory order, the least significant first. -/
theorem test_storeBytes_order : (inRun.storeWord 0 0x3FFFFC 0xDEADBEEF 15).bytes 0x3FFFFC 4 = [0xEF, 0xBE, 0xAD, 0xDE] := by
  decide +kernel

/-- R400: the nine bytes "123456789" at 0x10_0001: VAL 0x3EB6_9F38, RESULT 0xE306_9283. -/
def nine : State :=
  let s := inRun.setBytes 0x100001 [0x31, 0x32, 0x33, 0x34, 0x35, 0x36, 0x37, 0x38, 0x39]
  let s := (((s.put F.FENCE_LEASE_OWNER 0 2 9).put F.FENCE_LEASE_OWNER 0 10 9).put F.SCAN_START_START 0 2 0x100001).put F.SCAN_LEN_LEN 0 2 9
  after (.scanGo (svM 0) 0 2 false) s
theorem test_scanDone_check_value : let t := after (.scanDone 0 2) nine
    nine.get F.CRC_VAL_VAL 0 2 = 0xFFFFFFFF ∧ t.get F.CRC_VAL_VAL 0 2 = 0x3EB69F38 ∧ t.fieldValue F.CRC_RESULT_RESULT 0 2 = 0xE3069283 ∧
    t.get F.SCAN_STAT_DONE 0 2 = 1 := by decide +kernel
theorem test_scanStop_ends_after_its_words : let t := after (.scanStop (svM 0) 0 2 1) nine
    t.get F.SCAN_NEXT_NEXT 0 2 = 0x100004 ∧ t.get F.SCAN_REM_REM 0 2 = 6 ∧ t.get F.SCAN_STAT_STOPPED 0 2 = 1 := by decide +kernel
theorem test_crc32c_check_value : crc32c [0x31, 0x32, 0x33, 0x34, 0x35, 0x36, 0x37, 0x38, 0x39] = 0xE3069283 := by decide +kernel

/-- The same bytes by DIN, in lane order (R389). -/
theorem test_crcDin_in_lane_order :
    let s := after (.crcLoad (svM 0) 0 2) (inRun.put F.FENCE_LEASE_OWNER 0 2 9)
    let t := after (.crcDin (svM 0) 0 2 0x39 1) (after (.crcDin (svM 0) 0 2 0x38373635 15) (after (.crcDin (svM 0) 0 2 0x34333231 15) s))
    t.get F.CRC_VAL_VAL 0 2 = 0x3EB69F38 := by decide +kernel

/-- R67's example: RELOAD 3, CMPPRE 1 at the zero of c4; the match of c2. -/
def counting (cnt rel cmp pre : Nat) : State :=
  let f := tmr 0
  ((((inRun.put f.en 0 5 1).put f.cnt 0 5 cnt).put f.reload 0 5 rel).put f.cmp 0 5 cmp).put f.cmppre 0 5 pre
theorem test_timerZero_wraps_with_preloads : let t := after (.timerZero 0 5) (counting 1 3 2 1)
    t.get F.LTMR_CNT_CNT 0 5 = 3 ∧ t.get F.LTMR_CMP_CMP 0 5 = 1 ∧ t.get F.LTMR_STAT_ZERO 0 5 = 1 ∧ t.get F.LTMR_STAT_MATCH 0 5 = 0 := by decide +kernel
theorem test_timerMatch_sets_match : let t := after (.timerMatch 0 5) (counting 4 3 2 1)
    t.get F.LTMR_STAT_MATCH 0 5 = 1 ∧ t.get F.LTMR_STAT_ZERO 0 5 = 0 := by decide +kernel
/-- R70's example: RLDNOW with RELOAD 2 gives CNT 2, no zero event. -/
theorem test_timerRldnow : let t := after (.timerRldnow (svM 0) 0 5) ((counting 6 2 0 0).put (tmr 0).owner 0 5 9)
    t.get F.LTMR_CNT_CNT 0 5 = 2 ∧ t.get F.LTMR_STAT_ZERO 0 5 = 0 := by decide +kernel
/-- R72's example, c0: the read returns 0x00_0A00, CAP holds 0x00_1200 and CAPTURED 1; c3 overwrites with OVERCAP. -/
def captured : State := ((((counting 0x1200 0xFFFF 0 0).put (tmr 0).cap 0 5 0xA00).put (tmr 0).capen 0 5 1).put (tmr 0).captured 0 5 1).setCapDue 0 5 1
theorem test_timerCapRead_with_capture : let t := after (.timerCapRead (svM 0) 0 5 (some 0)) captured
    t.results = [0xA00] ∧ t.get (tmr 0).cap 0 5 = 0x1200 ∧ t.get (tmr 0).captured 0 5 = 1 ∧ t.get (tmr 0).overcap 0 5 = 0 := by decide +kernel
theorem test_timerCapture_overcap : let t := after (.timerCapture 0 5 0x400 true) captured
    t.get (tmr 0).cap 0 5 = 0xE00 ∧ t.get (tmr 0).overcap 0 5 = 1 := by decide +kernel

/-- R148's example: the Q transaction at window offset 0x7EFC with 0xFFFF_FFBD agrees with the P write of 0x42 at 0x100, not
with 0x46. -/
def written (v : Nat) : State := inPass .qPass [sealedEntry ⟨0x100, v, 15, 1, 0, 0⟩] 0
theorem test_laneTransaction_q : let x := { txn (win 0x7EFC) 0xFFFFFFBD 1 with cyc := 22000 }
    ((after (.laneTransaction 1 7 x) (written 0x42)).lane 1 7).qIdx = 1 ∧
    (after (.laneTransaction 1 7 x) (written 0x42)).get F.LANE_LMCNT_MISCNT 1 7 = 0 ∧
    (after (.laneTransaction 1 7 x) (written 0x46)).get F.LANE_LMCNT_MISCNT 1 7 = 1 := by decide +kernel

/-- R218's example: in turn 65,538 with H = 2, an entry of turn 65,536 is accepted and 0x7FFE (65,534) is not. -/
def ring0 (turn : Nat) : State :=
  ((inRun.put F.RNG_RINGCFG_REACH 0 0 2).put F.RNG_RINGCFG_NODE 0 0 303).setRing 0 { inRun.ring 0 with turn := turn }
theorem test_furrow_age : let e (u : Nat) : FurrowEntry := ⟨300, 2, u % 2 ^ 15, 5, paeshCode polyP (inRun.ringId 0) 300 u (msbBytes 8 5), 0, 0, 0⟩
    (ring0 65538).acceptP 0 (e 65536) = some 65536 ∧ (ring0 65538).acceptP 0 (e 65534) = none ∧ (ring0 65538).acceptP 0 (e 32766) = none := by
  decide +kernel

/-- R339: the twentieth open sample in a row opens a reader; the nineteenth does not. -/
def sampled (n : Nat) : State := (List.range n).foldl (fun s _ => after (.sealSample false true false true false) s) inRun
theorem test_sealSample_twenty : ((sampled 19).sealSt 0).own = false ∧ ((sampled 20).sealSt 0).own = true ∧
    ((after (.sealSample false false true true false) (sampled 20)).sealSt 0).own = false := by decide +kernel

/-- The example of LANE_MIGRATE (R358): a job started in tick 49,999 soaks from tick 50,001. -/
theorem test_laneMigrate_starts : let s := posted { migrating with tick := 49999 } 0 0 0x0110 [0, 0, 0, 7, 16, 0, 1, 0]
    let t := after (.laneMigrate 0 0) s
    t.soak.map Soak.start = some 50001 ∧ (t.job 0 0).state = 1 ∧ fieldAt (t.response 0 0) 10 2 = 1 ∧ fieldAt (t.response 0 0) 16 1 = (t.job 0 0).id := by
  decide +kernel

/-- The worked example of REG_WRITE: TERM.FAULT of T147 is written, LTMR05.RELOAD refused (owner LANE2), NDONE = FAILIDX = 1. -/
def threeWrites : List Byte := leBytes 2 3 ++ [0, 0] ++ leBytes 4 0x400004D4 ++ leBytes 4 0x40 ++ leBytes 4 0x40 ++
  leBytes 4 0x080400A8 ++ leBytes 4 0xFFFFFF ++ leBytes 4 0x4E20 ++ leBytes 4 0x40000514 ++ leBytes 4 0x40 ++ leBytes 4 0x40
def withFlags : State :=
  (((gateOpen.put F.TERM_FAULT_TPMISS 4 19 1).put F.TERM_FAULT_TPMISS 4 20 1).put F.LTMR_CTL_OWNER 0 5 3)
theorem test_regWrite_stops_at_a_refusal : let t := after (.regWrite 0 ⟨0, []⟩) (posted withFlags 0 0 0x0102 threeWrites)
    fieldAt (t.response 0 0) 10 2 = St.writeRefused ∧ fieldAt (t.response 0 0) 16 2 = 1 ∧ fieldAt (t.response 0 0) 18 2 = 1 ∧
    t.get F.TERM_FAULT_TPMISS 4 19 = 0 ∧ t.get F.TERM_FAULT_TPMISS 4 20 = 1 := by decide +kernel

/-- R275: IDLE to POSTED by the doorbell of the host at 0x00_0400, refused while POSTED (R275, R276). -/
theorem test_hostWrite_rings : let t := after (.hostWrite 0x400 [4, 0, 0, 0]) inRun
    t.mbState 0 0 = mbPosted ∧ t.mbOrder = [(0, 0)] ∧ (after (.hostWrite 0x400 [4, 0, 0, 0]) t).get F.MB_HPSTAT_OWN 0 0 = 1 := by decide +kernel

/-- R285: the warden answers with RSPHELD cleared and LAST kept. -/
theorem test_wardenAnswer : let s := (posted inRun 0 0 1 []).put F.MB_MBCTL_SERVER 0 0 0
    let t := after (.wardenAnswer 0 0) s
    t.mbState 0 0 = mbDoneSt ∧ fieldAt (t.response 0 0) 10 2 = 0x30 ∧ t.get F.MB_MBCTL_WARDEN 0 0 = 1 := by decide +kernel

/-- R276: a host read past the map reads 0 and sets RANGE; READ_ID reads DEVID. -/
theorem test_hostRead_range : let t := after (.hostRead 0x4000 2) inRun
    t.results = [0, 0] ∧ t.get F.MB_HPSTAT_RANGE 0 0 = 1 := by decide +kernel

/-- R348: losing the supply of a field die fences its instances and drops its outputs. -/
theorem test_vfnPowerLoss : let t := after (.vfnPowerLoss 0) ((withInsts.put F.TERM_HSTAT_PENA 2 5 1).put F.TERM_HSTAT_HENA 2 5 1)
    t.get F.TERM_HSTAT_PENA 2 5 = 0 ∧ t.get F.TERM_HSTAT_HENA 2 5 = 0 ∧ t.instFencedH 0 = true := by decide +kernel

/-- R27: both enables at the apply point: 0b01 in an even tick with the demand of an STO cell, off without it. -/
def sto : State :=
  let s := ((((inRun.put F.FSYS_FPWR_LOADED 2 0 1).put F.HC_HCFG_ACTIVE 2 0 1).put F.HC_HCFG_TYPE 2 0 0x10).put F.TERM_CFG_MODE 2 5 2)
  let s := (s.put (fldUse 0) 2 0 1).put (fldIdx 0) 2 0 5
  s.setField 0 { s.field 0 with htick := 4, x0 := ⟨true, 4, (List.range 64).map fun k => if k = 5 then 1 else 0⟩ }
def stoOn (bits : Nat) : State := sto.setCell 0 0 { HCell.zero with fs := { FnSt.zero with bits := bits, valid := true }, tick := 5 }
theorem test_applyPoint_takes_both : (after (.applyPoint 0) (stoOn 1)).get F.TERM_HSTAT_PENA 2 5 = 1 ∧
    (after (.applyPoint 0) (stoOn 1)).get F.TERM_HSTAT_HENA 2 5 = 1 ∧ (after (.applyPoint 0) (stoOn 0)).get F.TERM_HSTAT_HENA 2 5 = 0 ∧
    (after (.applyPoint 0) ((stoOn 1).setField 0 { (stoOn 1).field 0 with htick := 5 })).get F.TERM_HSTAT_PENA 2 5 = 0 := by decide +kernel

/-- R173: the header beat of field die 5 in tick 77, and a slot without payload has two beats. -/
theorem test_hbusSlotSend : (after (.hbusSlotSend 5) (inRun.setField 5 { inRun.field 5 with htick := 77 })).results.length = 2 ∧
    (after (.hbusSlotSend 5) (inRun.setField 5 { inRun.field 5 with htick := 77 })).results.head? = some (5 + 77 * 8) := by decide +kernel

/-- R355: a watchdog expiry fences the supervisor with reason 0x0B and its mailboxes go to the other logic die. -/
theorem test_watchdogExpiry : let t := after (.watchdogExpiry 0) inRun
    (t.fence U.sv 0 0).reason = 0x0B ∧ t.get F.MB_MBCTL_SERVER 0 0 = 2 := by decide +kernel

/-- R353: a claim of a leased unit sets DENIED and leaves the owner. -/
theorem test_leaseClaim_denied : let t := after (.leaseClaim ⟨0, 3⟩ 0 2) (inRun.put F.FENCE_LEASE_OWNER 0 2 9)
    t.get F.FENCE_LEASE_OWNER 0 2 = 9 ∧ t.get F.FENCE_LEASE_DENIED 0 2 = 1 := by decide +kernel

/-- R430: programming a blank word sets its bits when done; a second program operation of the word is a mismatch. -/
theorem test_otpProgram : let s := ((inRun.put F.OTP_OADDR_WORD 0 0 0x6FE).put F.OTP_ODATA0_DATA 0 0 5)
    let t := after (.ocmdProg (svM 0) 0) s
    t.otpOp = ⟨1, 0x6FE, 5⟩ ∧ t.get F.OTP_OSTAT_TOKENS 0 0 = s.get F.OTP_OSTAT_TOKENS 0 0 - 1 := by decide +kernel
theorem test_otpProgram_twice : (gateOpen.setOtp 0x6FE (otpGood 5)).otpRefusal 0 0x6FE 6 false = 3 := by
  have e : (gateOpen.otpWord 1791).prog = false := by decide
  have l : (gateOpen.get F.OTP_OLOCK_LOCK 0 0).testBit 6 = false := by decide
  have k : gateOpen.get F.OTP_OSTAT_TOKENS 0 0 ≠ 0 := by decide
  have d : OtpWord.prog (otpGood 5) = true := (otpWord_of_code (by decide)).1
  simp [State.otpRefusal, State.otpClosed, e, l, k, d, gateOpen_good]

/-- R405, R407: an isolation timeout ends INCOMPLETE; the debugger's halt fences the lane with reason 0x02 (R425). -/
theorem test_lbistIsolationTimeout : let t := after (.lbistIsolationTimeout 1 7) (after (.lbistGo (svM 1) 1 7) inRun)
    t.get F.LBIST_STAT_RESULT 1 7 = 3 ∧ t.get F.LBIST_STAT_STATE 1 7 = 0 := by decide +kernel
theorem test_debugHaltLane : let t := after (.debugHaltLane 0 4) { inRun with tap := .dbgacc }
    (t.fence U.lane 0 4).reason = 2 ∧ t.get F.LBIST_DBGSTAT_HALTED 0 0 = 16 := by decide +kernel

/-- R383: a paused tiller starts no attempt; R382: a segment just cleared reads 0. -/
theorem test_segmentClearDone : let t := after (.segmentClearDone 0 1) ((inRun.setBytes 0x100000 [1, 2, 3, 4]).put F.SPM_PWR_CLEARING 0 0 2)
    t.bytes 0x100000 4 = [0, 0, 0, 0] ∧ t.get F.SPM_PWR_CLEARING 0 0 = 0 := by decide +kernel

/-- R192: the edge numbers the tick and wraps at 2⁴⁸. -/
theorem test_nextTick_wraps : ({ inRun.put F.TICK_TSTAT_SRCNOW 0 0 2 with tick := 2 ^ 48 - 1 } : State).nextTick = 0 := by decide

/-- R207: a port that loses synchronisation is no longer admitted. -/
theorem test_pcsSyncChange : let t := after (.pcsSyncChange 1 1 false) (ringUp syncTrack)
    t.get F.RNG_PSTAT_ADMIT 1 1 = 0 ∧ t.get F.RNG_PSTAT_LINK 1 1 = 0 := by decide +kernel

/-- R238: a beacon that fails its FCS is counted and has no other effect. -/
theorem test_beaconReceived_fcs : let b := { beacon0 with hdr := { hdrB 2 with fcs := false } }
    (after (.beaconReceived 1 1 b 0) (ringUp syncTrack)).get F.RNG_RXERR_FCSERR 1 1 = 1 ∧
    (after (.beaconReceived 1 1 b 0) (ringUp syncTrack)).sync 1 = syncTrack := by decide +kernel

end Sys2Proof.Tests
end

section
/-!
SUPPORT. The tables of DUAL_EQ, ESTOP and ZONE_IN (R93, R97, R132): what taking a row leaves in a function's state, and the
row that one evaluation takes.
-/

namespace Sys2Proof.Machine

@[simp] theorem FnSt.take_bits (s : FnSt) (t : Nat) (r : FnRow) : (s.take t r).bits = r.bits := rfl
@[simp] theorem FnSt.take_st (s : FnSt) (t : Nat) (r : FnRow) : (s.take t r).st = r.st := rfl
@[simp] theorem FnSt.take_raised (s : FnSt) (t : Nat) (r : FnRow) : (s.take t r).raised = r.flags := rfl

/-- Only a row that starts the timer changes it. -/
@[simp] theorem FnSt.take_tmr (s : FnSt) (t : Nat) (r : FnRow) : (s.take t r).tmr = r.tmr.elim s.tmr (t + ·) := by
  obtain ⟨bits, st, tmr, flags⟩ := r
  cases tmr <;> rfl

/-- A timer has expired from the tick of its value on (R87). -/
@[simp] theorem timerExpired_iff {tmr t : Nat} : timerExpired tmr t = true ↔ tmr ≤ t := by
  simp [timerExpired]

/-- A row of a table with a discrepancy timer, as R93 and R97 write it: RELEASE, the next state, whether the timer starts
(with DISC) and the flag. -/
def FnRow.discrepancy (disc release next : Nat) (timer : Bool) (flag : Nat) : FnRow :=
  ⟨release, next, if timer then some disc else none, flag⟩

@[simp] theorem FnRow.discrepancy_starting (disc release next flag : Nat) :
    FnRow.discrepancy disc release next true flag = ⟨release, next, some disc, flag⟩ := rfl
@[simp] theorem FnRow.discrepancy_keeping (disc release next flag : Nat) :
    FnRow.discrepancy disc release next false flag = ⟨release, next, none, flag⟩ := rfl

/-- Going from `x` to `y` in the tick of `i` takes the row that R93 and R97 write so. -/
def FnSt.Goes (c : FnCfg) (i : FnIn) (x y : FnSt) (release next : Nat) (timer : Bool) (flag : Nat) : Prop :=
  y.bits = release ∧ y.st = next ∧ y.raised = flag ∧ y.tmr = if timer then i.t + c.par0 else x.tmr

theorem FnSt.goes_take (c : FnCfg) (i : FnIn) (x : FnSt) (release next : Nat) (timer : Bool) (flag : Nat) :
    FnSt.Goes c i x (x.take i.t (.discrepancy c.par0 release next timer flag)) release next timer flag := by
  cases timer <;> simp [FnSt.Goes]

/-- `FnSt.Goes` does not speak of `first`, which every evaluation clears. -/
theorem FnSt.Goes.clearFirst {c : FnCfg} {i : FnIn} {x y : FnSt} {release next flag : Nat} {timer : Bool}
    (h : FnSt.Goes c i x y release next timer flag) : FnSt.Goes c i x { y with first := false } release next timer flag := h

theorem Fn.eval_dualEq {c : FnCfg} (hc : c.type = .dualEq) (i : FnIn) (x : FnSt) : Fn.eval c i x =
    { x.take i.t (dualRow x.st (closedCount (i.closed 0) (i.closed 1)) (timerExpired x.tmr i.t) c.par0) with first := false } := by
  simp [Fn.eval, Fn.evalDual, hc]

theorem Fn.eval_estop {c : FnCfg} (hc : c.type = .estop) (i : FnIn) (x : FnSt) : Fn.eval c i x =
    { x.take i.t (estopRow x.st (closedCount (i.closed 0) (i.closed 1)) (timerExpired x.tmr i.t) i.reset false c.par0)
      with first := false } := by
  simp [Fn.eval, Fn.evalEstop, hc]

/-- With ZLATCH = 0 the zone bit is the raw value (R132). -/
theorem Fn.eval_zoneIn_bits_of_unlatched {c : FnCfg} (hc : c.type = .zoneIn) (hz : c.optBit 0 = false) (i : FnIn) (x : FnSt) :
    (Fn.eval c i x).bits = i.zone.toNat := by
  simp [Fn.eval, Fn.evalZoneIn, hc, hz]

/-- With ZLATCH = 1 the zone bit and the next state are those of the table's row (R132). -/
theorem Fn.eval_zoneIn_of_latched {c : FnCfg} (hc : c.type = .zoneIn) (hz : c.optBit 0 = true) (i : FnIn) (x : FnSt) :
    (Fn.eval c i x).bits = (zoneInRow x.st i.zone i.reset).bits ∧ (Fn.eval c i x).st = (zoneInRow x.st i.zone i.reset).st := by
  simp [Fn.eval, Fn.evalZoneIn, hc, hz]

/-- DUAL_EQ goes as the row does that its table gives (R93). -/
theorem Fn.dualEq_goes {c : FnCfg} (hc : c.type = .dualEq) {i : FnIn} {x : FnSt} {release next flag : Nat} {timer : Bool}
    (row : dualRow x.st (closedCount (i.closed 0) (i.closed 1)) (timerExpired x.tmr i.t) c.par0 =
      .discrepancy c.par0 release next timer flag) :
    FnSt.Goes c i x (Fn.eval c i x) release next timer flag := by
  rw [Fn.eval_dualEq hc, row]
  exact (FnSt.goes_take ..).clearFirst

/-- ESTOP goes as the row does that its table gives (R97). -/
theorem Fn.estop_goes {c : FnCfg} (hc : c.type = .estop) {i : FnIn} {x : FnSt} {release next flag : Nat} {timer : Bool}
    (row : estopRow x.st (closedCount (i.closed 0) (i.closed 1)) (timerExpired x.tmr i.t) i.reset false c.par0 =
      .discrepancy c.par0 release next timer flag) :
    FnSt.Goes c i x (Fn.eval c i x) release next timer flag := by
  rw [Fn.eval_estop hc, row]
  exact (FnSt.goes_take ..).clearFirst

/-- The initial states: STOPPED, OPEN, and with ZLATCH = 1 HELD. -/
theorem Fn.init_st_of_stopTable (c : FnCfg) (t : Nat) : ((c.type = .dualEq ∨ c.type = .estop) → (Fn.init c t).st = 0) ∧
    (c.type = .zoneIn → c.optBit 0 = true → (Fn.init c t).st = 1) := by
  constructor
  · rintro (hc | hc) <;> simp [Fn.init, hc, FnSt.zero]
  · intro hc hz
    simp [Fn.init, hc, hz]

/-- Settles O59: in each state of a table, the conditions of a row select that row, and the evaluation goes as the row does. -/
theorem stopTablesAreTheSpecs : Obligations.StopTablesAreTheSpecs := by
  refine ⟨Fn.init_st_of_stopTable, ?dualEq, ?estop, ?zoneIn⟩
  case dualEq =>
    intro c i x hc n y goes
    have go : ∀ {release next timer flag}, dualRow x.st n (timerExpired x.tmr i.t) c.par0 =
        .discrepancy c.par0 release next timer flag → goes release next timer flag := Fn.dualEq_goes hc
    refine ⟨fun stopped => ?_, fun closing => ?_, fun run => ?_, fun opening => ?_, fun discFault => ?_⟩
    · simp only [stopped, dualRow] at go
      exact ⟨fun both => go (by simp [both]),
        fun one => go (by simp [one]),
        fun neither => go (by simp [neither])⟩
    · simp only [closing, dualRow] at go
      exact ⟨fun neither => go (by simp [neither]),
        fun both => go (by simp [both]),
        fun one expired => go (by simp [one, expired]),
        fun one running => go (by simp [one, not_le.mpr running])⟩
    · simp only [run, dualRow] at go
      exact ⟨fun neither => go (by simp [neither]),
        fun one => go (by simp [one]),
        fun both => go (by simp [both])⟩
    · simp only [opening, dualRow] at go
      exact ⟨fun neither => go (by simp [neither]),
        fun any expired => go (by simp [any, expired]),
        fun any running => go (by simp [any, not_le.mpr running])⟩
    · simp only [discFault, dualRow] at go
      exact ⟨fun neither => go (by simp [neither]),
        fun any => go (by simp [any])⟩
  case estop =>
    intro c i x hc n y goes
    have go : ∀ {release next timer flag}, estopRow x.st n (timerExpired x.tmr i.t) i.reset false c.par0 =
        .discrepancy c.par0 release next timer flag → goes release next timer flag := Fn.estop_goes hc
    refine ⟨fun opened => ?_, fun closing => ?_, fun armed => ?_, fun run => ?_, fun opening => ?_, fun discFault => ?_⟩
    · simp only [opened, estopRow] at go
      exact ⟨fun neither => go (by simp [neither]),
        fun one => go (by simp [one]),
        fun both => go (by simp [both])⟩
    · simp only [closing, estopRow] at go
      exact ⟨fun neither => go (by simp [neither]),
        fun both => go (by simp [both]),
        fun one expired => go (by simp [one, expired]),
        fun one running => go (by simp [one, not_le.mpr running])⟩
    · simp only [armed, estopRow] at go
      exact ⟨fun neither => go (by simp [neither]),
        fun one => go (by simp [one]),
        fun both reset => go (by simp [both, reset]),
        fun both noReset => go (by simp [both, noReset])⟩
    · simp only [run, estopRow] at go
      exact ⟨fun neither => go (by simp [neither]),
        fun one => go (by simp [one]),
        fun both => go (by simp [both])⟩
    · simp only [opening, estopRow] at go
      exact ⟨fun neither => go (by simp [neither]),
        fun any expired => go (by simp [any, expired]),
        fun any running => go (by simp [any, not_le.mpr running])⟩
    · simp only [discFault, estopRow] at go
      exact ⟨fun neither => go (by simp [neither]),
        fun any => go (by simp [any])⟩
  case zoneIn =>
    intro c i x hc y
    refine ⟨fun unlatched => Fn.eval_zoneIn_bits_of_unlatched hc unlatched i x, fun latched => ?_⟩
    obtain ⟨hbits, hst⟩ : y.bits = _ ∧ y.st = _ := Fn.eval_zoneIn_of_latched hc latched i x
    rw [hbits, hst]
    refine ⟨fun pass low => ?_, fun pass high => ?_, fun held low => ?_, fun held high reset => ?_, fun held high noReset => ?_⟩
    · simp [pass, low, zoneInRow]
    · simp [pass, high, zoneInRow]
    · simp [held, low, zoneInRow]
    · simp [held, high, reset, zoneInRow]
    · simp [held, high, noReset, zoneInRow]

end Sys2Proof.Machine
end

section
/-!
SUPPORT. The registers of the CRC units: where they stand, what any write of one does, and what one refuses (R391, R393, R489).
-/

namespace Sys2Proof.Machine

/-! ### Where the registers stand -/

/-- The registers of the CRC units. -/
def crcRegs : List Reg := [.CRC_CFG, .CRC_POLY, .CRC_INIT, .CRC_XOROUT, .CRC_VAL, .CRC_RESULT, .CRC_STAT, .CRC_DIN, .CRC_CTL]

/-- The write-permission map names the unit's owner for each of them (R490). -/
theorem writers_of_mem_crcRegs {r : Reg} (hr : r ∈ crcRegs) : r.writers = .crc :=
  (by decide : ∀ r ∈ crcRegs, r.writers = .crc) r hr

theorem lt_two_of_hasLd {s : State} {ld : Nat} (h : s.hasLd ld = true) : ld < 2 := by
  have hlt : ld < s.variant.logics := of_decide_eq_true h
  unfold Variant.logics at hlt
  split at hlt <;> omega

theorem hasDie_of_hasLd {s : State} {ld : Nat} (h : s.hasLd ld = true) : s.hasDie ld = true := by
  have hld := lt_two_of_hasLd h
  revert h
  unfold State.hasLd State.hasDie
  interval_cases ld <;> cases s.variant <;> decide

/-- What the address of a CRC register says of it (R18, R478). -/
structure CrcAddress (r : Reg) (ld n : Nat) : Prop where
  die : regAddr r ld n / 2 ^ 28 = ld
  reg : findReg ld (regAddr r ld n % 2 ^ 28) = some (r, n)
  noMemory : memArea ld (regAddr r ld n % 2 ^ 28) = .none
  aligned : regAddr r ld n % 4 = 0
  mapped : regAddr r ld n < 2 ^ 31

theorem crcAddress {r : Reg} {ld n : Nat} (hr : r ∈ crcRegs) (hld : ld < 2) (hn : n < 8) : CrcAddress r ld n := by
  have all : ∀ r ∈ crcRegs, ∀ ld < 2, ∀ n < 8, regAddr r ld n / 2 ^ 28 = ld ∧ findReg ld (regAddr r ld n % 2 ^ 28) = some (r, n) ∧
      memArea ld (regAddr r ld n % 2 ^ 28) = .none ∧ regAddr r ld n % 4 = 0 ∧ regAddr r ld n < 2 ^ 31 := by decide +kernel
  obtain ⟨die, reg, noMemory, aligned, mapped⟩ := all r hr ld hld n hn
  exact ⟨die, reg, noMemory, aligned, mapped⟩

/-- The bus of a die carries its own masters' accesses to its CRC units (R19). -/
theorem route_ownDie {s : State} {m : Master} {r : Reg} {ld n : Nat} (hr : r ∈ crcRegs) (hld : s.hasLd ld = true) (hn : n < 8)
    (hm : m.die = ld) : s.route m (regAddr r ld n) = 0 := by
  obtain ⟨die, -, noMemory, -, mapped⟩ := crcAddress hr (lt_two_of_hasLd hld) hn
  have hholder : holder (regAddr r ld n) = ld := by rw [holder, die, noMemory]
  rw [State.route, if_neg (Nat.not_le.mpr mapped), die, hasDie_of_hasLd hld, hholder, if_pos hm.symm]
  rfl

/-- R8 lets hardware set no bit of a register that has no W1C field. -/
theorem wordBeside_of_noW1c {addr val same : Nat} {r : Reg} {i : Nat} (hf : findReg (addr / 2 ^ 28) (addr % 2 ^ 28) = some (r, i))
    (hr : r.w1cMask = 0) : wordBeside addr val same = val := by
  rw [wordBeside, hf]
  simp [hr]

/-! ### Refusals -/

@[simp] theorem State.logErr_busErr (s : State) (die : Nat) (m : Master) (addr kind : Nat) (w : Bool) :
    (s.logErr die m addr kind w).busErr = true := by
  unfold State.logErr
  split <;> rfl

/-- An entry in the error log leaves every field of another register as it was. -/
theorem State.get_logErr_of_noLog {G : Fld}
    (hG : G.reg ∉ [Reg.SYSCTL_ERRLOG0, .SYSCTL_ERRLOG1, .FSYS_ERRLOG0, .FSYS_ERRLOG1]) (s : State) (die : Nat) (m : Master)
    (addr kind : Nat) (w : Bool) (d i : Nat) : (s.logErr die m addr kind w).get G d i = s.get G d i := by
  simp only [List.mem_cons, List.not_mem_nil, or_false, not_or, ← ne_eq] at hG
  obtain ⟨h0, h1, h2, h3⟩ := hG
  unfold State.logErr
  split <;> simp [State.putB_eq, State.count, h0.symm, h1.symm, h2.symm, h3.symm]

/-- Answering what an access was answered already changes nothing. -/
theorem State.respond_of_busErr {s : State} {b : Bool} (h : s.busErr = b) : s.respond b = s := by
  subst h; rfl

/-- A refused write of a CRC register: the error log, and REFUSED where the unit is busy (R393, R486). -/
def State.crcRefuse (s : State) (r : Reg) (ld n : Nat) (m : Master) (kind : Nat) : State :=
  (s.refuse r ld n m kind).on (s.flag F.CRC_STAT_BUSY ld n) fun s => s.put F.CRC_STAT_REFUSED ld n 1

theorem State.crcRefuse_idle {s : State} {ld n : Nat} (h : s.flag F.CRC_STAT_BUSY ld n = false) (r : Reg) (m : Master) (kind : Nat) :
    s.crcRefuse r ld n m kind = s.refuse r ld n m kind := by
  simp [State.crcRefuse, h]

theorem State.crcRefuse_busErr (s : State) (r : Reg) (ld n : Nat) (m : Master) (kind : Nat) :
    (s.crcRefuse r ld n m kind).busErr = true := by
  unfold State.crcRefuse State.refuse
  cases s.flag F.CRC_STAT_BUSY ld n <;> simp

theorem State.get_crcVal_crcRefuse (s : State) (r : Reg) (ld n : Nat) (m : Master) (kind d i : Nat) :
    (s.crcRefuse r ld n m kind).get F.CRC_VAL_VAL d i = s.get F.CRC_VAL_VAL d i := by
  unfold State.crcRefuse State.refuse
  cases s.flag F.CRC_STAT_BUSY ld n <;> simp [State.get_logErr_of_noLog]

/-! ### Any write of a CRC register -/

/-- A write of a CRC register that the bus carries: refused of a master that does not hold the unit, refused where `ok` does not hold,
else performed by `f` (R393, R489). -/
def State.crcAttempt (s : State) (r : Reg) (ld n : Nat) (m : Master) (ok : Bool) (f : State → State) : State :=
  if !s.holdsLease m ld n then s.crcRefuse r ld n m 6 else if !ok then s.crcRefuse r ld n m 7 else (f s).respond false

section
variable {s : State} {r : Reg} {ld n : Nat} {m : Master}

/-- The commands on CRC units write their registers so. -/
theorem State.crcWrite_eq_crcAttempt (hp : s.portHeld m = false) (hroute : s.route m (regAddr r ld n) = 0) (f : State → State) :
    s.crcWrite r ld n m f = s.crcAttempt r ld n m (!s.flag F.CRC_STAT_BUSY ld n) f := by
  have hown : (decide (m.die = ld) && s.get F.FENCE_LEASE_OWNER ld n == m.code && decide (m.code ≠ 0)) = s.holdsLease m ld n := rfl
  simp only [State.crcWrite, State.asWrite, State.crcAttempt, State.crcRefuse, hown]
  cases s.holdsLease m ld n <;> cases s.flag F.CRC_STAT_BUSY ld n <;> simp [hp, hroute]

theorem State.crcAttempt_owner (hown : s.holdsLease m ld n = true) (f : State → State) :
    s.crcAttempt r ld n m true f = (f s).respond false := by
  simp [State.crcAttempt, hown]

theorem State.crcAttempt_owner_notOk (hown : s.holdsLease m ld n = true) (f : State → State) :
    s.crcAttempt r ld n m false f = s.crcRefuse r ld n m 7 := by
  simp [State.crcAttempt, hown]

/-- A busy unit refuses a write of any master: kind 6, or 7 for one that the lease still names. -/
theorem State.crcAttempt_busy (hbusy : s.flag F.CRC_STAT_BUSY ld n = true) (f : State → State) :
    s.crcAttempt r ld n m false f =
      (s.refuse r ld n m (if s.holdsLease m ld n then 7 else 6)).put F.CRC_STAT_REFUSED ld n 1 := by
  cases hown : s.holdsLease m ld n <;> simp [State.crcAttempt, State.crcRefuse, hown, hbusy]

/-- A write of a master keeps the value of the unit where what it performs does. -/
theorem State.get_crcVal_crcAttempt {f : State → State} {d i : Nat} (hf : (f s).get F.CRC_VAL_VAL d i = s.get F.CRC_VAL_VAL d i)
    (ok : Bool) : (s.crcAttempt r ld n m ok f).get F.CRC_VAL_VAL d i = s.get F.CRC_VAL_VAL d i := by
  unfold State.crcAttempt
  split_ifs
  · exact s.get_crcVal_crcRefuse ..
  · exact s.get_crcVal_crcRefuse ..
  · exact hf

end

/-- The row of R489 that a word write of a register takes which the bus carries. -/
theorem State.busWrite_word {s : State} {m : Master} {addr v : Nat} {r : Reg} {i : Nat} (hroute : s.route m addr = 0)
    (noMemory : memArea (addr / 2 ^ 28) (addr % 2 ^ 28) = .none) (aligned : addr % 4 = 0)
    (reg : findReg (addr / 2 ^ 28) (addr % 2 ^ 28) = some (r, i)) :
    let die := addr / 2 ^ 28
    let no (k : Nat) : State × Bool :=
      ((s.logErr die m addr k true).on (decide (r.writers = .crc) && s.flag F.CRC_STAT_BUSY die i) fun s =>
        s.put F.CRC_STAT_REFUSED die i 1, false)
    s.busWrite m addr v 15 =
      if !s.writerOk m r die i v then no 6 else if !s.wordOk r die i v then no 7 else (s.doWrite m r die i v 15, true) := by
  have hoff : addr % 2 ^ 28 % 4 = 0 := by omega
  simp only [State.busWrite, hroute, noMemory, hoff, aligned, Nat.sub_zero, reg]
  simp

/-- A word write of a present master that sends it: the bus performs or refuses it. -/
theorem exec_registerWrite_word {s : State} {m : Master} {addr v : Nat} (hdie : s.hasDie m.die = true) (hp : s.portHeld m = false)
    (haddr : addr < 2 ^ 32) (hv : v < 2 ^ 32) (same : Nat) :
    exec (.registerWrite m addr ⟨v, 15⟩ same) s =
      .next ((s.busWrite m addr (wordBeside addr v same) 15).1.respond (!(s.busWrite m addr (wordBeside addr v same) 15).2)) := by
  have henabled : (!s.portHeld m && decide (addr < 2 ^ 32) && decide (v < 2 ^ 32) && decide (15 < 16)) = true := by
    rw [hp, decide_eq_true haddr, decide_eq_true hv]; rfl
  exact State.answer_of hdie henabled

/-- What the bus does with a word write of a CRC register, and whether it answers an error. -/
theorem State.respond_busWrite_crc {s : State} {r : Reg} {ld n : Nat} {m : Master} (hr : r ∈ crcRegs) (hld : s.hasLd ld = true)
    (hn : n < 8) (hroute : s.route m (regAddr r ld n) = 0) (w : Nat) :
    (s.busWrite m (regAddr r ld n) w 15).1.respond (!(s.busWrite m (regAddr r ld n) w 15).2) =
      s.crcAttempt r ld n m (s.wordOk r ld n w) fun s => s.doWrite m r ld n w 15 := by
  obtain ⟨die, reg, noMemory, aligned, -⟩ := crcAddress hr (lt_two_of_hasLd hld) hn
  have hk : r.writers = .crc := writers_of_mem_crcRegs hr
  have hwriter : s.writerOk m r ld n w = s.holdsLease m ld n := by rw [State.writerOk, hk]
  have hrefused (k : Nat) : ((s.logErr ld m (regAddr r ld n) k true).on (s.flag F.CRC_STAT_BUSY ld n) fun s =>
      s.put F.CRC_STAT_REFUSED ld n 1).respond true = s.crcRefuse r ld n m k :=
    State.respond_of_busErr (s.crcRefuse_busErr r ld n m k)
  rw [State.busWrite_word hroute (by rw [die, noMemory]) aligned (by rw [die, reg]), die, hwriter, hk]
  unfold State.crcAttempt
  cases s.holdsLease m ld n <;> cases s.wordOk r ld n w <;> simp [hrefused]

/-- A word write of a CRC register over the bus. -/
theorem exec_registerWrite_crc {s : State} {r : Reg} {ld n : Nat} {m : Master} {v w same : Nat} (hr : r ∈ crcRegs)
    (hld : s.hasLd ld = true) (hn : n < 8) (hdie : s.hasDie m.die = true) (hp : s.portHeld m = false)
    (hroute : s.route m (regAddr r ld n) = 0) (hv : v < 2 ^ 32) (hw : wordBeside (regAddr r ld n) v same = w) :
    exec (.registerWrite m (regAddr r ld n) ⟨v, 15⟩ same) s =
      .next (s.crcAttempt r ld n m (s.wordOk r ld n w) fun s => s.doWrite m r ld n w 15) := by
  have haddr : regAddr r ld n < 2 ^ 32 := by have := (crcAddress hr (lt_two_of_hasLd hld) hn).mapped; omega
  rw [exec_registerWrite_word hdie hp haddr hv, hw, State.respond_busWrite_crc hr hld hn hroute]

end Sys2Proof.Machine
end

section
/-!
SUPPORT and proof of O52. Feeding a CRC unit byte by byte (R388), writing the whole-word registers of one, and the statement itself.
-/

namespace Sys2Proof.Machine

/-! ### Feeding bytes -/

/-- The value after one byte of a unit that holds the value `c` (R388), as its 32-bit register keeps it. -/
def State.crcNext (s : State) (ld n c b : Nat) : Nat :=
  crcByte (s.get F.CRC_CFG_WIDTH ld n) (s.get F.CRC_POLY_POLY ld n % 2 ^ s.get F.CRC_CFG_WIDTH ld n)
    (c % 2 ^ s.get F.CRC_CFG_WIDTH ld n) (if s.flag F.CRC_CFG_REFIN ld n then reflect 8 b else b) % 2 ^ 32

theorem State.get_crcVal_crcFeed (s : State) (ld n b : Nat) :
    (s.crcFeed ld n b).get F.CRC_VAL_VAL ld n = s.crcNext ld n (s.get F.CRC_VAL_VAL ld n) b := by
  simp [State.crcFeed, State.crcNext]

/-- A byte fed changes none of the unit's parameters. -/
theorem State.crcNext_crcFeed (s : State) (ld n b : Nat) : (s.crcFeed ld n b).crcNext ld n = s.crcNext ld n := by
  funext c x
  simp [State.crcFeed, State.crcNext, State.flag_eq]

/-- A run of bytes fed changes the value of the unit only. -/
theorem onlyFields_each_crcFeed (s : State) (ld n : Nat) (bs : List Nat) :
    OnlyFields s (s.each bs fun s b => s.crcFeed ld n b) [(F.CRC_VAL_VAL, ld, n)] := by
  induction bs generalizing s with
  | nil => exact ⟨rfl, fun _ _ _ _ => rfl⟩
  | cons b bs ih => exact onlyFields_mono (onlyFields_trans (onlyFields_put s F.CRC_VAL_VAL ld n _) (ih _)) (by simp)

/-- A run of bytes fed folds them into the value, first byte first. -/
theorem State.get_crcVal_each_crcFeed (s : State) (ld n : Nat) (bs : List Nat) :
    (s.each bs fun s b => s.crcFeed ld n b).get F.CRC_VAL_VAL ld n = bs.foldl (s.crcNext ld n) (s.get F.CRC_VAL_VAL ld n) := by
  induction bs generalizing s with
  | nil => rfl
  | cons b bs ih => rw [State.each_cons, ih, State.crcNext_crcFeed, State.get_crcVal_crcFeed, List.foldl_cons]

/-- The enabled bytes of a word, lane 0 first. -/
theorem enabledBytes_eq (v be : Nat) : enabledBytes v be = ((List.range 4).filter be.testBit).map fun k => v / 2 ^ (8 * k) % 256 := by
  simp [enabledBytes, bitsOf, Nat.shiftRight_eq_div_pow]

/-! ### Writing the parameters -/

/-- A register that is one RW field of 32 bits. -/
structure Reg.WholeWord (r : Reg) (f : Fld) : Prop where
  fields : r.fields = [f]
  lo : f.lo = 0
  w : f.w = 32
  acc : f.acc = .rw

/-- A whole-word register of a CRC unit that admits every value. -/
structure CrcWordReg (r : Reg) (f : Fld) : Prop extends r.WholeWord f where
  crc : r ∈ crcRegs
  anyValue : ∀ (s : State) (d i v : Nat), s.newValueOk r d i v = true
  owner : ∀ n, f.reg.owner n = (U.crc, n)

theorem crcWordReg_poly : CrcWordReg .CRC_POLY F.CRC_POLY_POLY :=
  ⟨⟨rfl, rfl, rfl, rfl⟩, by decide, fun _ _ _ _ => rfl, fun _ => rfl⟩

theorem crcWordReg_init : CrcWordReg .CRC_INIT F.CRC_INIT_INIT :=
  ⟨⟨rfl, rfl, rfl, rfl⟩, by decide, fun _ _ _ _ => rfl, fun _ => rfl⟩

theorem crcWordReg_xorout : CrcWordReg .CRC_XOROUT F.CRC_XOROUT_XOROUT :=
  ⟨⟨rfl, rfl, rfl, rfl⟩, by decide, fun _ _ _ _ => rfl, fun _ => rfl⟩

/-- An idle unit refuses no 32-bit word of such a register. -/
theorem State.wordOk_of_crcWordReg {s : State} {r : Reg} {f : Fld} {ld n v : Nat} (h : CrcWordReg r f)
    (hidle : s.flag F.CRC_STAT_BUSY ld n = false) (hv : v < 2 ^ 32) : s.wordOk r ld n v = true := by
  obtain ⟨⟨hf, hlo, hw, hacc⟩, hcrc, hvalue, -⟩ := h
  have hbits : r.bitsKnown v = true := by
    rw [Reg.bitsKnown, decide_eq_true hv, hf, Bool.true_and, List.all_eq_true]
    intro k hk
    simp [hlo, hw, List.mem_range.mp hk]
  have hrefused : s.fldRefused f ld n v = false := by simp [State.fldRefused, hacc]
  simp [State.wordOk, writers_of_mem_crcRegs hcrc, hidle, hbits, hf, hrefused, State.valueOk, hvalue]

/-- A whole-word register takes the word written, unless a fence holds it (R11). -/
theorem State.get_putWord_of_wholeWord {s : State} {r : Reg} {f : Fld} {d i v : Nat} (h : r.WholeWord f)
    (hstays : s.fldStays f d i = false) (hv : v < 2 ^ 32) : (s.putWord r d i v).get f d i = v := by
  obtain ⟨hf, hlo, hw, hacc⟩ := h
  have hput : s.putWord r d i v = s.put f d i (bitsOf v 0 32) := by simp [State.putWord, State.putFld, hf, hacc, hstays, hlo, hw]
  rw [hput, State.get_put, if_pos ⟨rfl, rfl⟩, hw, bitsOf, Nat.shiftRight_zero, Nat.mod_mod, Nat.mod_eq_of_lt hv]

/-- A field takes its bits: every other field reads as before. -/
theorem State.get_putFld_other {s : State} {f G : Fld} (h : f.same G = false) (d i v e j : Nat) :
    (s.putFld f d i v).get G e j = s.get G e j := by
  have hon (c : Bool) : (s.on c fun s => s.put f d i (bitsOf v f.lo f.w)).get G e j = s.get G e j := by
    cases c
    · rfl
    · exact s.get_put_other f G d i _ e j h
  cases hacc : f.acc <;> simp only [State.putFld, hacc]
  case rw => exact hon _
  case rwl => exact hon _
  case w1c => exact s.get_put_other f G d i _ e j h

/-- A register takes its word: the fields of other registers read as before. -/
theorem State.get_putWord_other {r : Reg} {G : Fld} (h : ∀ f ∈ r.fields, f.same G = false) (s : State) (d i v e j : Nat) :
    (s.putWord r d i v).get G e j = s.get G e j := by
  have all (l : List Fld) (hl : ∀ f ∈ l, f.same G = false) (s : State) :
      (s.each l fun s f => s.putFld f d i v).get G e j = s.get G e j := by
    induction l generalizing s with
    | nil => rfl
    | cons f l ih =>
      rw [State.each_cons, ih fun g hg => hl g (List.mem_cons_of_mem _ hg), State.get_putFld_other (hl f List.mem_cons_self)]
  exact all r.fields h s

/-- The registers of a CRC unit that hold its parameters. -/
def crcParamRegs : List Reg := [.CRC_CFG, .CRC_POLY, .CRC_INIT, .CRC_XOROUT]

/-- What the model's definitions say of a register of parameters. -/
structure CrcParamReg (r : Reg) : Prop where
  crc : r ∈ crcRegs
  noW1c : r.w1cMask = 0
  write : ∀ (s : State) (m : Master) (ld n v be : Nat), s.doWrite m r ld n v be = s.putWord r ld n v
  noVal : ∀ f ∈ r.fields, f.same F.CRC_VAL_VAL = false

theorem crcParamReg {r : Reg} (hr : r ∈ crcParamRegs) : CrcParamReg r := by
  simp only [crcParamRegs, List.mem_cons, List.not_mem_nil, or_false] at hr
  rcases hr with rfl | rfl | rfl | rfl <;> exact ⟨by decide, by decide, fun _ _ _ _ _ _ => rfl, by decide⟩

/-! ### Writes by the owner, and of a busy unit -/

section
variable {s : State} {m : Master} {ld n : Nat}

/-- A word write of a register of parameters by a master that the bus carries. -/
theorem exec_registerWrite_crcParam {r : Reg} {v : Nat} (hr : r ∈ crcParamRegs) (hld : s.hasLd ld = true) (hn : n < 8)
    (hdie : s.hasDie m.die = true) (hp : s.portHeld m = false) (hroute : s.route m (regAddr r ld n) = 0) (hv : v < 2 ^ 32)
    (same : Nat) : exec (.registerWrite m (regAddr r ld n) ⟨v, 15⟩ same) s =
      .next (s.crcAttempt r ld n m (s.wordOk r ld n v) fun s => s.putWord r ld n v) := by
  obtain ⟨hcrc, hw1c, hwrite, -⟩ := crcParamReg hr
  have ha := crcAddress hcrc (lt_two_of_hasLd hld) hn
  rw [exec_registerWrite_crc hcrc hld hn hdie hp hroute hv
    (wordBeside_of_noW1c (by rw [ha.die, ha.reg]) hw1c)]
  simp only [hwrite]

/-- A change of registers that a command answers without error, as the statements write it. -/
theorem onlyFields_respond {t : State} {l : List (Fld × Nat × Nat)} (h : OnlyFields s t l) (b : Bool) :
    OnlyFields { s with busErr := (t.respond b).busErr } (t.respond b) l :=
  ⟨by rw [h.1]; rfl, h.2⟩

theorem State.wordOk_of_crcBusy {r : Reg} (hr : r ∈ crcRegs) (hbusy : s.flag F.CRC_STAT_BUSY ld n = true) (v : Nat) :
    s.wordOk r ld n v = false := by
  simp [State.wordOk, writers_of_mem_crcRegs hr, hbusy]

/-- A field that a CRC unit owns takes writes while the unit is not fenced (R11). -/
theorem State.fldStays_of_crc {f : Fld} (hf : f.reg.owner n = (U.crc, n)) (h : s.fenced U.crc ld n = false) :
    s.fldStays f ld n = false := by
  simp [State.fldStays, State.ownerFenced, hf, h]

/-- A whole-word register of parameters takes the word that the owner of an idle unit writes. -/
theorem State.get_crcAttempt_crcWordReg {r : Reg} {f : Fld} {v : Nat} (h : CrcWordReg r f) (hown : s.holdsLease m ld n = true)
    (hidle : s.flag F.CRC_STAT_BUSY ld n = false) (hv : v < 2 ^ 32) (hfence : s.fenced U.crc ld n = false) :
    (s.crcAttempt r ld n m (s.wordOk r ld n v) fun s => s.putWord r ld n v).get f ld n = v := by
  rw [State.wordOk_of_crcWordReg h hidle hv, State.crcAttempt_owner hown, State.respond_get]
  exact State.get_putWord_of_wholeWord h.toWholeWord (State.fldStays_of_crc (h.owner n) hfence) hv

end

/-- Settles O52: each write is an attempt that the bus carries (`crcAttempt`), of the owner or of a busy unit. -/
theorem crcUnitsTakeBytesFromTheirOwner : Obligations.CrcUnitsTakeBytesFromTheirOwner := by
  constructor
  · intro s m ld n hld hp hn hm hcode howner hidle
    have hown : s.holdsLease m ld n = true := by simp [State.holdsLease, hm, howner, hcode]
    have hpresent : (s.hasLd ld && decide (n < 8)) = true := by simp [hld, hn]
    have hwrite {r : Reg} (hr : r ∈ crcRegs) (f : State → State) : s.crcWrite r ld n m f = (f s).respond false := by
      rw [State.crcWrite_eq_crcAttempt hp (route_ownDie hr hld hn hm), hidle]
      exact State.crcAttempt_owner hown f
    refine ⟨fun data be => ?din, ?load, fun val => ?val, fun v hv same r hr => ?params⟩
    case din =>
      refine ⟨_, (State.answer_of hpresent rfl).trans (congrArg _ (hwrite (by decide) _)),
        onlyFields_respond (onlyFields_each_crcFeed s ld n _) false, ?_⟩
      rw [State.respond_get, State.get_crcVal_each_crcFeed, enabledBytes_eq, List.foldl_map]
      rfl
    case load =>
      exact ⟨_, (State.answer_of hpresent rfl).trans (congrArg _ (hwrite (by decide) _)),
        onlyFields_respond (onlyFields_put s F.CRC_VAL_VAL ld n _) false, by simp⟩
    case val =>
      exact ⟨_, (State.answer_of hpresent rfl).trans (congrArg _ (hwrite (by decide) _)),
        onlyFields_respond (onlyFields_put s F.CRC_VAL_VAL ld n _) false, by simp⟩
    case params =>
      have hparam : r ∈ crcParamRegs := by simpa [crcParamRegs] using hr
      obtain ⟨hcrc, -, -, hnoVal⟩ := crcParamReg hparam
      have hdie : s.hasDie m.die = true := hm ▸ hasDie_of_hasLd hld
      refine ⟨_, exec_registerWrite_crcParam hparam hld hn hdie hp (route_ownDie hcrc hld hn hm) hv same,
        State.get_crcVal_crcAttempt (State.get_putWord_other hnoVal s ld n v ld n) _, ?poly, ?init, ?xorout⟩
      case poly =>
        rintro rfl hfence
        exact State.get_crcAttempt_crcWordReg crcWordReg_poly hown hidle hv hfence
      case init =>
        rintro rfl hfence
        exact State.get_crcAttempt_crcWordReg crcWordReg_init hown hidle hv hfence
      case xorout =>
        rintro rfl hfence
        exact State.get_crcAttempt_crcWordReg crcWordReg_xorout hown hidle hv hfence
  · intro s m ld n hld hdie hp hn hbusy refusedWrite
    have hpresent : (s.hasLd ld && decide (n < 8)) = true := by simp [hld, hn]
    have hwrite {r : Reg} (hroute : s.route m (regAddr r ld n) = 0) (f : State → State) : s.crcWrite r ld n m f =
        (s.refuse r ld n m (if s.holdsLease m ld n then 7 else 6)).put F.CRC_STAT_REFUSED ld n 1 := by
      rw [State.crcWrite_eq_crcAttempt hp hroute, hbusy]
      exact State.crcAttempt_busy hbusy f
    refine ⟨fun data be hroute => ?din, fun hroute => ?load, fun val hroute => ?val, fun v hv same r hr hroute => ?word⟩
    case din => exact (State.answer_of hpresent rfl).trans (congrArg _ (hwrite hroute _))
    case load => exact (State.answer_of hpresent rfl).trans (congrArg _ (hwrite hroute _))
    case val => exact (State.answer_of hpresent rfl).trans (congrArg _ (hwrite hroute _))
    case word =>
      rw [exec_registerWrite_crc hr hld hn hdie hp hroute hv rfl, State.wordOk_of_crcBusy hr hbusy, State.crcAttempt_busy hbusy]

end Sys2Proof.Machine
end

section
/-!
SUPPORT and proof of O60. The custom parameter sets of CRC_JOB (R390), what a job that starts leaves in its unit, and the statement itself.
-/

namespace Sys2Proof.Machine

/-! ### Custom sets -/

/-- The parameter set that the bytes of a request give. -/
def customCrcSet (p : List Byte) : CrcSet :=
  ⟨fieldAt p 3 1, fieldAt p 4 4, fieldAt p 8 4, fieldAt p 12 4, (fieldAt p 16 1).testBit 0, (fieldAt p 16 1).testBit 1⟩

/-- R390: WIDTH is 8 to 32, every value fits it, and bit 0 of POLY is 1. -/
def CrcSet.Legal (c : CrcSet) : Prop :=
  8 ≤ c.width ∧ c.width ≤ 32 ∧ c.poly < 2 ^ c.width ∧ c.init < 2 ^ c.width ∧ c.xorout < 2 ^ c.width ∧ c.poly % 2 = 1

theorem customOk_iff {c : CrcSet} : customOk c = true ↔ c.Legal := by
  simp [customOk, CrcSet.Legal, Nat.testBit_zero, and_assoc]

section
variable {p : List Byte} (hpreset : fieldAt p 2 1 = 0)
include hpreset

theorem crcSetOf_of_legal (hflags : fieldAt p 16 1 < 4) (h : (customCrcSet p).Legal) : crcSetOf p = some (customCrcSet p) := by
  have hok : (customOk (customCrcSet p) && decide (fieldAt p 16 1 < 4)) = true := by
    rw [customOk_iff.mpr h, decide_eq_true hflags]; rfl
  rw [crcSetOf, if_pos hpreset]
  exact if_pos hok

theorem crcSetOf_of_not_legal (h : ¬(customCrcSet p).Legal) : crcSetOf p = none := by
  have hok : ¬(customOk (customCrcSet p) && decide (fieldAt p 16 1 < 4)) = true := by
    rw [Bool.and_eq_true, customOk_iff]
    exact fun ok => h ok.1
  rw [crcSetOf, if_pos hpreset]
  exact if_neg hok

end

/-! ### The job -/

/-- A unit that a supervisor's command may write is written (R289, R490). -/
theorem State.svWrite_of_svMayWrite {s : State} {sv : Nat} {r : Reg} {die idx : Nat} {other : Bool}
    (h : s.SvMayWrite sv r die idx other) (k : Reply) : s.svWrite sv r die idx other k = k := by
  obtain ⟨hroute, hdie⟩ := h
  have hadmitted : (decide (die < 2) && decide (die ≠ sv) && !other) = false := by
    by_cases hd : die < 2
    · rcases hdie hd with rfl | rfl <;> simp
    · simp [hd]
  rw [State.svWrite, hroute, hadmitted]
  rfl

/-- A free entry takes a new job, answered with its identity (R299). -/
theorem State.asJob_of_jobSlot {s : State} {ld e : Nat} (h : s.jobSlot ld = some e) (sv op tag : Nat) (f : State → Nat → State) :
    s.asJob ld sv op tag f = ⟨f (s.startJob ld sv e op tag).1 e, St.started,
      [BitVec.ofNat 8 (s.startJob ld sv e op tag).2, 0, 0, 0]⟩ := by
  simp [State.asJob, h]

theorem State.crcJob_of_badSet {p : List Byte} (h : crcSetOf p = none) (s : State) (ld sv tag : Nat) :
    s.crcJob ld sv tag p = ⟨s, St.badParam, []⟩ := by
  simp [State.crcJob, h, refused]

/-- A scan that starts, or is refused its range, leaves the parameters of its CRC unit as they were. -/
theorem State.get_scanStart_param {G : Fld} (hG : G.reg ∈ crcParamRegs) (s : State) (ld n : Nat) (cont : Bool) (d i : Nat) :
    (s.scanStart ld n cont).get G d i = s.get G d i := by
  have hreg : G.reg ≠ .SCAN_CTL ∧ G.reg ≠ .SCAN_STAT ∧ G.reg ≠ .SCAN_NEXT ∧ G.reg ≠ .SCAN_REM ∧ G.reg ≠ .CRC_VAL ∧
      G.reg ≠ .CRC_STAT ∧ G.reg ≠ .FENCE_LEASE := by
    simp only [crcParamRegs, List.mem_cons, List.not_mem_nil, or_false] at hG
    rcases hG with h | h | h | h <;> rw [h] <;> decide
  obtain ⟨hctl, hstat, hnext, hrem, hval, hcstat, hlease⟩ := hreg
  simp only [State.scanStart]
  split
  · simp [State.putB_eq, hctl.symm, hstat.symm]
  · cases cont <;> simp [State.putB_eq, hctl.symm, hstat.symm, hnext.symm, hrem.symm, hval.symm, hcstat.symm, hlease.symm]

/-- A job's start leaves its parameters in the unit, each within its field. -/
theorem State.get_crcStart (s : State) (d n start len : Nat) (c : CrcSet) :
    (s.crcStart d n start len c).get F.CRC_CFG_WIDTH d n = c.width % 2 ^ 6 ∧
    (s.crcStart d n start len c).get F.CRC_POLY_POLY d n = c.poly % 2 ^ 32 ∧
    (s.crcStart d n start len c).get F.CRC_INIT_INIT d n = c.init % 2 ^ 32 ∧
    (s.crcStart d n start len c).get F.CRC_XOROUT_XOROUT d n = c.xorout % 2 ^ 32 := by
  refine ⟨?_, ?_, ?_, ?_⟩ <;> rw [State.crcStart, State.get_scanStart_param (by decide)] <;> simp [State.putCrc, State.putB_eq]

/-- The values of a legal set fit the fields of the unit. -/
theorem State.get_crcStart_of_legal {c : CrcSet} (h : c.Legal) (s : State) (d n start len : Nat) :
    (s.crcStart d n start len c).get F.CRC_CFG_WIDTH d n = c.width ∧
    (s.crcStart d n start len c).get F.CRC_POLY_POLY d n = c.poly ∧
    (s.crcStart d n start len c).get F.CRC_INIT_INIT d n = c.init ∧
    (s.crcStart d n start len c).get F.CRC_XOROUT_XOROUT d n = c.xorout := by
  obtain ⟨-, hwidth, hpoly, hinit, hxorout, -⟩ := h
  have hle : 2 ^ c.width ≤ 2 ^ 32 := Nat.pow_le_pow_right (by decide) hwidth
  have hget := s.get_crcStart d n start len c
  rwa [Nat.mod_eq_of_lt (show c.width < 2 ^ 6 by omega), Nat.mod_eq_of_lt (hpoly.trans_le hle),
    Nat.mod_eq_of_lt (hinit.trans_le hle), Nat.mod_eq_of_lt (hxorout.trans_le hle)] at hget

/-- A job with a set, a legal range, an idle pair, a unit within reach and a free entry starts (R400). -/
theorem State.crcJob_starts {s : State} {ld sv e : Nat} {p : List Byte} {c : CrcSet} (hset : crcSetOf p = some c)
    (hld : s.hasLd (fieldAt p 0 1) = true) (hn : fieldAt p 1 1 < 8) (hzeros : zeros p 17 3 = true) (hlen : 1 ≤ fieldAt p 24 4)
    (hrange : fieldAt p 20 4 + fieldAt p 24 4 ≤ 0x400000) (hpair : s.pairBusy (fieldAt p 0 1) (fieldAt p 1 1) = false)
    (hmay : s.SvMayWrite sv .FENCE_LEASE (fieldAt p 0 1) (fieldAt p 1 1) false) (hslot : s.jobSlot ld = some e) (tag : Nat) :
    ∃ (u : State) (jobid : Byte), s.crcJob ld sv tag p =
      ⟨u.crcStart (fieldAt p 0 1) (fieldAt p 1 1) (fieldAt p 20 4) (fieldAt p 24 4) c, St.started, [jobid, 0, 0, 0]⟩ := by
  have hlegal : (!s.hasLd (fieldAt p 0 1) || decide (8 ≤ fieldAt p 1 1) || !zeros p 17 3 || decide (fieldAt p 24 4 = 0) ||
      decide (0x400000 < fieldAt p 20 4 + fieldAt p 24 4)) = false := by
    simp [hld, hzeros, hn, hrange, Nat.pos_iff_ne_zero.mp hlen]
  rw [State.crcJob, hset]
  simp only [hlegal, hpair, State.svWrite_of_svMayWrite hmay, State.asJob_of_jobSlot hslot, Bool.false_eq_true, if_false]
  exact ⟨_, _, rfl⟩

/-! ### The width of a unit -/

/-- No master sets a width outside 8 to 32 (R390). -/
theorem State.wordOk_crcCfg_of_badWidth {v : Nat} (h : v % 64 < 8 ∨ 32 < v % 64) (s : State) (ld n : Nat) :
    s.wordOk .CRC_CFG ld n v = false := by
  have htable (per : Nat) : tableOk .CRC_CFG ld v per = false := by
    have hbits : bitsOf v 0 6 = v % 64 := by rw [bitsOf, Nat.shiftRight_zero]; rfl
    change (decide (8 ≤ bitsOf v 0 6) && decide (bitsOf v 0 6 ≤ 32)) = false
    rw [hbits, Bool.and_eq_false_iff, decide_eq_false_iff_not, decide_eq_false_iff_not]
    omega
  have hnew : s.newValueOk .CRC_CFG ld n v = false := by
    change (tableOk .CRC_CFG ld v _ && true) = false
    rw [htable, Bool.false_and]
  have hsettable : Reg.settable .CRC_CFG = false := by decide
  have hwriters : Reg.writers .CRC_CFG = .crc := rfl
  simp [State.wordOk, hwriters, State.valueOk, hsettable, hnew]

/-- Settles O60: the set of a request is accepted where R390 admits it, and CRC.CFG refuses another width to its owner too. -/
theorem customCrcSetsAreChecked : Obligations.CustomCrcSetsAreChecked := by
  constructor
  · intro s ld mb hserves c p width legal hlength hpreset hflags hzeros
    have hlen : lenIs 28 p = true := decide_eq_true hlength
    have hlegal : legal ↔ (customCrcSet p).Legal := Iff.rfl
    refine ⟨fun bad => ?_, fun good hld hn hpos hrange hmay hpair e hslot => ?_⟩
    · exact command_status hserves rfl hlen
        (State.crcJob_of_badSet (crcSetOf_of_not_legal hpreset (mt hlegal.mpr bad)) c ld _ _)
    · have hset := crcSetOf_of_legal hpreset hflags (hlegal.mp good)
      obtain ⟨u, jobid, hjob⟩ := State.crcJob_starts hset hld hn hzeros hpos hrange hpair hmay hslot (s.req ld mb).tag
      exact ⟨_, jobid, command_status hserves rfl hlen hjob, State.get_crcStart_of_legal (hlegal.mp good) u _ _ _ _⟩
  · intro s m ld n v same hld hp hn hm hcode howner hidle hv hwidth
    have hown : s.holdsLease m ld n = true := by simp [State.holdsLease, hm, howner, hcode]
    have hdie : s.hasDie m.die = true := hm ▸ hasDie_of_hasLd hld
    rw [exec_registerWrite_crcParam (by decide) hld hn hdie hp (route_ownDie (by decide) hld hn hm) hv same,
      State.wordOk_crcCfg_of_badWidth hwidth, State.crcAttempt_owner_notOk hown, State.crcRefuse_idle hidle]

end Sys2Proof.Machine
end

section
/-!
SUPPORT and proof of O55. Selecting an instruction of the test access port that captures no pins (R418), the fields of IDCODE
(R419), and the statement itself.
-/

namespace Sys2Proof.Machine

/-! ### Selecting an instruction -/

/-- A port that VIO or VAUX holds idle selects nothing (R445). -/
theorem State.tapSelect_of_not_tapLive {s : State} (h : s.tapLive = false) (i : TapIns) : s.tapSelect i = s := by
  rw [State.tapSelect, h, State.on_false]

/-- An instruction that captures no pins changes the selected instruction, the controller and the bypass bit only. -/
theorem State.tapSelect_of_no_capture {s : State} {i : TapIns} (h : s.tapLive = true) (hsample : i ≠ .sample) (hextest : i ≠ .extest) :
    s.tapSelect i = { s with tap := i, tapRegs := ⟨.idle, s.tapRegs.bypass && i != .bypass, s.tapRegs.boundary⟩ } := by
  have hcapture : (i == .sample || i == .extest) = false := by simp [hsample, hextest]
  simp [State.tapSelect, h, hcapture]

/-! ### The fields of IDCODE -/

/-- The revision fits the four bits that IDCODE has for it. -/
theorem Rev.code_lt (r : Rev) : r.code < 2 ^ 4 := by cases r <;> decide

/-- The part code fits the 16 bits that IDCODE has for it. -/
theorem Variant.partCode_lt (v : Variant) : v.partCode < 2 ^ 16 := by cases v <;> decide

theorem State.idcode_fields (s : State) : s.idcode < 2 ^ 32 ∧ s.idcode / 2 ^ 28 = s.rev.code ∧
    s.idcode / 2 ^ 12 % 2 ^ 16 = s.variant.partCode ∧ s.idcode / 2 % 2 ^ 11 = 0x1A3 ∧ s.idcode % 2 = 1 := by
  have hrev := s.rev.code_lt
  have hpart := s.variant.partCode_lt
  rw [State.idcode]
  omega

/-! ### The instruction -/

theorem exec_tapIdcode_of_not_tapLive {s : State} (h : s.tapLive = false) : exec .tapIdcode s = .next s := by
  change execTapIdcode s = .next s
  rw [execTapIdcode, h, State.on_false, State.tapSelect_of_not_tapLive h, State.answer_true]

theorem exec_tapIdcode_of_tapLive {s : State} (h : s.tapLive = true) : exec .tapIdcode s =
    .next { s with tap := .idcode, tapRegs := ⟨.idle, s.tapRegs.bypass, s.tapRegs.boundary⟩, results := [s.idcode] } := by
  have hbypass : (s.tapRegs.bypass && TapIns.idcode != .bypass) = s.tapRegs.bypass := Bool.and_true _
  change execTapIdcode s = _
  rw [execTapIdcode, h, State.on_true, State.tapSelect_of_no_capture h (by decide) (by decide), hbypass, State.answer_true,
    State.give]

/-- Settles O55: the value answered is `State.idcode`, whose fields do not overlap because revision and part code fit theirs. -/
theorem idcodeReadsThePart : Obligations.IdcodeReadsThePart := by
  refine ⟨fun s h => exec_tapIdcode_of_not_tapLive h, fun s h => ?_⟩
  obtain ⟨hlt, hrev, hpart, hmaker, hone⟩ := s.idcode_fields
  have hnibble {r : Rev} (hr : s.rev = r) : s.idcode / 2 ^ 28 = r.code := hr ▸ hrev
  refine ⟨_, s.idcode, exec_tapIdcode_of_tapLive h, rfl, hlt, hrev, hpart, hmaker, hone, hnibble, hnibble, hnibble, ?_, rfl⟩
  intro hvariant ha1
  rw [State.idcode, hvariant, ha1]
  rfl

end Sys2Proof.Machine
end

section
/-! SUPPORT. What each command is promised to leave alone, and that every command keeps its promise. -/

namespace Sys2Proof

/-- What a command leaves alone: memory, flash, OTP, the tick number, the running image. -/
def Instr.promise : Instr → Machine.Promise
  | .powerOnReset _ | .porstN _ | .vcoreRelease _ | .partReset _ _ _ | .aonRecovery _ | .tapExit _ =>
    ⟨false, true, false, false, false⟩
  | .spllFailure _ | .lpllFailure _ | .laneTransaction _ _ _ | .qPassEnd _ _ _ | .commitEnd _ _ _ | .latchPoint
  | .serviceFrameForward _ _ _ _ | .remoteMailboxRequest _ _ _ _ | .bulkTransfer _ _ _ _ | .diagnosticsRequest _ _ _ _
  | .mailboxComplete _ _ _ | .wardenAnswer _ _ | .hostWrite _ _ | .freqFence _ _ _ _ | .logicDieLost _ | .scratchpadAccess _ _
  | .softRepair _ _ | .segmentClearDone _ _ | .lbistPatternsDone _ _ _ | .lbistReinitDone _ _ | .shutdownDone _ | .tapScanen
  | .debugHaltLane _ _ | .registerWrite _ _ _ _ =>
    ⟨false, true, true, true, true⟩
  | .tickEdge _ | .tickPinEdge _ _ | .tickEdgeMade _ | .runStart _ =>
    ⟨true, true, true, false, false⟩
  | .turnEdge _ | .beaconReceived _ _ _ _ | .headgateTakeover _ | .listenTimeout _ | .linkDelayResponse _ _ _ _ _ _ =>
    ⟨true, true, true, false, true⟩
  | .identify _ _ | .status _ _ | .diagRead _ _ | .configBegin _ _ | .configChunk _ _ | .fwStageOpen _ _ | .fwStageData _ _
  | .fwStageClose _ _ | .fwActivate _ _ | .ringStatus _ _ | .countersRead _ _ | .regRead _ _ | .regWrite _ _
  | .laneMigrate _ _ | .cellSwap _ _ | .fenceCtlFence _ _ | .fenceCtlClear _ _ | .bistRun _ _ | .tillerCtlRead _ _
  | .tillerCtlSetPace _ _ | .tillerCtlPause _ _ | .tillerCtlResume _ _ | .crcJob _ _ | .timerCtlAcquire _ _
  | .timerCtlRelease _ _ | .timerCtlSet _ _ | .timerCtlRead _ _ | .ringSchedule _ _ | .hoRestart _ _ | .hoDone _ _ =>
    ⟨false, false, true, true, true⟩
  | .configCommit _ _ | .commissionAck _ _ =>
    ⟨false, false, true, true, false⟩
  | .otpProgram _ _ | .otpReburn _ _ | .lcAdvance _ _ =>
    ⟨false, false, false, true, true⟩
  | .otpOperationDone _ =>
    ⟨true, true, false, true, true⟩
  | .porstNRelease _ =>
    ⟨false, true, true, true, false⟩
  | _ => ⟨true, true, true, true, true⟩

end Sys2Proof

namespace Sys2Proof.Machine

/-- Every command keeps its promise, and with it the invariant, the OTP words, the queue and the part. -/
theorem exec_keeps (c : Instr) {s t : State} (h : exec c s = .next t) : Keeps c.promise s t :=
  match c with
  | .powerOnReset b => execPowerOnReset_keeps (.refl s) rfl rfl rfl rfl b h
  | .porstN ns => execPorstN_keeps (.refl s) rfl rfl rfl rfl ns h
  | .vauxTrip => execVauxTrip_keeps (.refl s) h
  | .vcoreTrip => execVcoreTrip_keeps (.refl s) h
  | .vcoreRelease b => execVcoreRelease_keeps (.refl s) rfl rfl rfl rfl b h
  | .vioTrip => execVioTrip_keeps (.refl s) h
  | .vioRelease => execVioRelease_keeps (.refl s) h
  | .vfnPowerUp fd => execVfnPowerUp_keeps (.refl s) fd h
  | .vfnPowerLoss fd => execVfnPowerLoss_keeps (.refl s) fd h
  | .vfnOutOfRange fd => execVfnOutOfRange_keeps (.refl s) fd h
  | .vfnRecovered fd => execVfnRecovered_keeps (.refl s) fd h
  | .groundFault fd groups offset => execGroundFault_keeps (.refl s) fd groups offset h
  | .dieOverload fd => execDieOverload_keeps (.refl s) fd h
  | .partReset m key b => execPartReset_keeps (.refl s) rfl rfl rfl rfl m key b h
  | .aonFailure => execAonFailure_keeps (.refl s) h
  | .aonRecovery b => execAonRecovery_keeps (.refl s) rfl rfl rfl rfl b h
  | .spllFailure ld => execSpllFailure_keeps (.refl s) rfl ld h
  | .lpllFailure ld => execLpllFailure_keeps (.refl s) rfl ld h
  | .txClockFailure ld => execTxClockFailure_keeps (.refl s) ld h
  | .txClockRecovery ld => execTxClockRecovery_keeps (.refl s) ld h
  | .hclkStopped fd => execHclkStopped_keeps (.refl s) fd h
  | .faonFailure fd => execFaonFailure_keeps (.refl s) fd h
  | .tickEdge meas => execTickEdge_keeps (.refl s) rfl rfl meas h
  | .tickPinEdge dev meas => execTickPinEdge_keeps (.refl s) rfl rfl dev meas h
  | .tickEdgeMade meas => execTickEdgeMade_keeps (.refl s) rfl rfl meas h
  | .runStart meas => execRunStart_keeps (.refl s) rfl rfl meas h
  | .tnum0Read ld m => execTnum0Read_keeps (.refl s) ld m h
  | .laneWake c => execLaneWake_keeps (.refl s) c h
  | .inputImageReceived ld fd tick flips complete => execInputImageReceived_keeps (.refl s) ld fd tick flips complete h
  | .laneTransaction ld lane x => execLaneTransaction_keeps (.refl s) rfl ld lane x h
  | .laneResetDone ld lane cyc => execLaneResetDone_keeps (.refl s) ld lane cyc h
  | .pPassEnd ld lane cyc => execPPassEnd_keeps (.refl s) ld lane cyc h
  | .qPassEnd ld lane cyc => execQPassEnd_keeps (.refl s) rfl ld lane cyc h
  | .commitEnd ld lane e => execCommitEnd_keeps (.refl s) rfl ld lane e h
  | .latchPoint => execLatchPoint_keeps (.refl s) rfl h
  | .soakTimeout => execSoakTimeout_keeps (.refl s) h
  | .pEnableWordsReceived fd ld tick flips crc complete => execPEnableWordsReceived_keeps (.refl s) fd ld tick flips crc complete h
  | .applyPoint fd => execApplyPoint_keeps (.refl s) fd h
  | .hTickStart fd ld flips complete cycles meas => execHTickStart_keeps (.refl s) fd ld flips complete cycles meas h
  | .hTickSelfStart fd cycles meas => execHTickSelfStart_keeps (.refl s) fd cycles meas h
  | .hbusSlotSend fd => execHbusSlotSend_keeps (.refl s) fd h
  | .hbusSlotReceive fd k cyc x => execHbusSlotReceive_keeps (.refl s) fd k cyc x h
  | .htxBuild fd => execHtxBuild_keeps (.refl s) fd h
  | .htxRead ld fd => execHtxRead_keeps (.refl s) ld fd h
  | .rxhWrite ld fd => execRxhWrite_keeps (.refl s) ld fd h
  | .rxsWrite ld fd hmark hmcrc oturn => execRxsWrite_keeps (.refl s) ld fd hmark hmcrc oturn h
  | .sieveExchangeStart die => execSieveExchangeStart_keeps (.refl s) die h
  | .sieveRecordReceived die src x => execSieveRecordReceived_keeps (.refl s) die src x h
  | .sieveCompare die => execSieveCompare_keeps (.refl s) die h
  | .sieveFenceMessage die iid => execSieveFenceMessage_keeps (.refl s) die iid h
  | .fenceMessage fd iid clear => execFenceMessage_keeps (.refl s) fd iid clear h
  | .terminalVoltageChange fd t hSide code time => execTerminalVoltageChange_keeps (.refl s) fd t hSide code time h
  | .maskClose fd t hSide => execMaskClose_keeps (.refl s) fd t hSide h
  | .testPulseSlotEnd fd slot v => execTestPulseSlotEnd_keeps (.refl s) fd slot v h
  | .currentLimitEngage fd t => execCurrentLimitEngage_keeps (.refl s) fd t h
  | .shortGndTimeout fd t => execShortGndTimeout_keeps (.refl s) fd t h
  | .gdTrip fd t => execGdTrip_keeps (.refl s) fd t h
  | .thermalShutdown fd t => execThermalShutdown_keeps (.refl s) fd t h
  | .reversedSuppressionEnd fd t => execReversedSuppressionEnd_keeps (.refl s) fd t h
  | .openLoadDetect fd t => execOpenLoadDetect_keeps (.refl s) fd t h
  | .termFenceClr m fd t => execTermFenceClr_keeps (.refl s) m fd t h
  | .timerZero die n => execTimerZero_keeps (.refl s) die n h
  | .timerMatch die n => execTimerMatch_keeps (.refl s) die n h
  | .timerEnable m die n => execTimerEnable_keeps (.refl s) m die n h
  | .timerDisable m die n elapsed => execTimerDisable_keeps (.refl s) m die n elapsed h
  | .timerRldnow m die n => execTimerRldnow_keeps (.refl s) m die n h
  | .timerCapture die n elapsed rising => execTimerCapture_keeps (.refl s) die n elapsed rising h
  | .timerCapRead m die n same => execTimerCapRead_keeps (.refl s) m die n same h
  | .tpcodeWrite m fd n val => execTpcodeWrite_keeps (.refl s) m fd n val h
  | .functionTimerExpiry hSide iid => execFunctionTimerExpiry_keeps (.refl s) hSide iid h
  | .lampProbe hSide iid => execLampProbe_keeps (.refl s) hSide iid h
  | .spateRepeat hSide iid => execSpateRepeat_keeps (.refl s) hSide iid h
  | .pcsSyncChange ld p sync => execPcsSyncChange_keeps (.refl s) ld p sync h
  | .autonegComplete ld p lpabil => execAutonegComplete_keeps (.refl s) ld p lpabil h
  | .autonegPartnerFault ld p lpabil => execAutonegPartnerFault_keeps (.refl s) ld p lpabil h
  | .verifyComplete ld p => execVerifyComplete_keeps (.refl s) ld p h
  | .verifyFailure ld p => execVerifyFailure_keeps (.refl s) ld p h
  | .turnEdge e => execTurnEdge_keeps (.refl s) rfl e h
  | .beaconReceived ld p b tArr => execBeaconReceived_keeps (.refl s) rfl ld p b tArr h
  | .tickLock ld => execTickLock_keeps (.refl s) ld h
  | .holdoverTimeout ld => execHoldoverTimeout_keeps (.refl s) ld h
  | .headgateTakeover ld => execHeadgateTakeover_keeps (.refl s) rfl ld h
  | .listenTimeout e => execListenTimeout_keeps (.refl s) rfl e h
  | .joinTimeout ld => execJoinTimeout_keeps (.refl s) ld h
  | .furrowFrameSend ld q => execFurrowFrameSend_keeps (.refl s) ld q h
  | .furrowFrameReceived ld p f a => execFurrowFrameReceived_keeps (.refl s) ld p f a h
  | .furrowWindowEnd ld p => execFurrowWindowEnd_keeps (.refl s) ld p h
  | .directionStale ld p => execDirectionStale_keeps (.refl s) ld p h
  | .sluiceTruncation ld q => execSluiceTruncation_keeps (.refl s) ld q h
  | .spateCutThrough ld p f => execSpateCutThrough_keeps (.refl s) ld p f h
  | .spateFrameReceived ld p f => execSpateFrameReceived_keeps (.refl s) ld p f h
  | .serviceFrameForward ld p f a => execServiceFrameForward_keeps (.refl s) rfl ld p f a h
  | .serviceFrameSend ld q => execServiceFrameSend_keeps (.refl s) ld q h
  | .remoteMailboxRequest ld p f a => execRemoteMailboxRequest_keeps (.refl s) rfl ld p f a h
  | .bulkTransfer ld p f a => execBulkTransfer_keeps (.refl s) rfl ld p f a h
  | .diagnosticsRequest ld p f a => execDiagnosticsRequest_keeps (.refl s) rfl ld p f a h
  | .linkDelayRequest ld p f a ts => execLinkDelayRequest_keeps (.refl s) ld p f a ts h
  | .linkDelayResponse ld p f a t4 out => execLinkDelayResponse_keeps (.refl s) rfl ld p f a t4 out h
  | .linkDelayRequestSend ld q t1 => execLinkDelayRequestSend_keeps (.refl s) ld q t1 h
  | .sealSample f0 a an b bn => execSealSample_keeps (.refl s) f0 a an b bn h
  | .sealMessage die fromF0 tick flips complete => execSealMessage_keeps (.refl s) die fromF0 tick flips complete h
  | .mailboxRing m ld mb => execMailboxRing_keeps (.refl s) m ld mb h
  | .mailboxAck m ld mb => execMailboxAck_keeps (.refl s) m ld mb h
  | .mailboxComplete ld mb resp => execMailboxComplete_keeps (.refl s) rfl ld mb resp h
  | .wardenAnswer ld mb => execWardenAnswer_keeps (.refl s) rfl ld mb h
  | .hostWrite addr bytes => execHostWrite_keeps (.refl s) rfl addr bytes h
  | .hostRead addr n => execHostRead_keeps (.refl s) addr n h
  | .readHstat => execReadHstat_keeps (.refl s) h
  | .readId => execReadId_keeps (.refl s) h
  | .resetEn => execResetEn_keeps (.refl s) h
  | .hostReset => execHostReset_keeps (.refl s) h
  | .hostUnknownInstruction code => execHostUnknownInstruction_keeps (.refl s) code h
  | .identify ld mb => execIdentify_keeps (.refl s) rfl rfl ld mb h
  | .status ld mb => execStatus_keeps (.refl s) rfl rfl ld mb h
  | .diagRead ld mb => execDiagRead_keeps (.refl s) rfl rfl ld mb h
  | .configBegin ld mb => execConfigBegin_keeps (.refl s) rfl rfl ld mb h
  | .configChunk ld mb => execConfigChunk_keeps (.refl s) rfl rfl ld mb h
  | .configCommit ld mb => execConfigCommit_keeps (.refl s) rfl rfl rfl ld mb h
  | .commissionAck ld mb => execCommissionAck_keeps (.refl s) rfl rfl rfl ld mb h
  | .fwStageOpen ld mb => execFwStageOpen_keeps (.refl s) rfl rfl ld mb h
  | .fwStageData ld mb => execFwStageData_keeps (.refl s) rfl rfl ld mb h
  | .fwStageClose ld mb => execFwStageClose_keeps (.refl s) rfl rfl ld mb h
  | .fwActivate ld mb => execFwActivate_keeps (.refl s) rfl rfl ld mb h
  | .ringStatus ld mb => execRingStatus_keeps (.refl s) rfl rfl ld mb h
  | .countersRead ld mb => execCountersRead_keeps (.refl s) rfl rfl ld mb h
  | .regRead ld mb => execRegRead_keeps (.refl s) rfl rfl ld mb h
  | .regWrite ld w => execRegWrite_keeps (.refl s) rfl rfl ld w h
  | .laneMigrate ld mb => execLaneMigrate_keeps (.refl s) rfl rfl ld mb h
  | .cellSwap ld mb => execCellSwap_keeps (.refl s) rfl rfl ld mb h
  | .fenceCtlFence ld mb => execFenceCtlFence_keeps (.refl s) rfl rfl ld mb h
  | .fenceCtlClear ld mb => execFenceCtlClear_keeps (.refl s) rfl rfl ld mb h
  | .bistRun ld mb => execBistRun_keeps (.refl s) rfl rfl ld mb h
  | .tillerCtlRead ld mb => execTillerCtlRead_keeps (.refl s) rfl rfl ld mb h
  | .tillerCtlSetPace ld mb => execTillerCtlSetPace_keeps (.refl s) rfl rfl ld mb h
  | .tillerCtlPause ld mb => execTillerCtlPause_keeps (.refl s) rfl rfl ld mb h
  | .tillerCtlResume ld mb => execTillerCtlResume_keeps (.refl s) rfl rfl ld mb h
  | .crcJob ld mb => execCrcJob_keeps (.refl s) rfl rfl ld mb h
  | .timerCtlAcquire ld mb => execTimerCtlAcquire_keeps (.refl s) rfl rfl ld mb h
  | .timerCtlRelease ld mb => execTimerCtlRelease_keeps (.refl s) rfl rfl ld mb h
  | .timerCtlSet ld mb => execTimerCtlSet_keeps (.refl s) rfl rfl ld mb h
  | .timerCtlRead ld mb => execTimerCtlRead_keeps (.refl s) rfl rfl ld mb h
  | .ringSchedule ld mb => execRingSchedule_keeps (.refl s) rfl rfl ld mb h
  | .otpProgram ld mb => execOtpProgram_keeps (.refl s) rfl rfl rfl ld mb h
  | .otpReburn ld mb => execOtpReburn_keeps (.refl s) rfl rfl rfl ld mb h
  | .lcAdvance ld mb => execLcAdvance_keeps (.refl s) rfl rfl rfl ld mb h
  | .hoRestart ld mb => execHoRestart_keeps (.refl s) rfl rfl ld mb h
  | .hoDone ld mb => execHoDone_keeps (.refl s) rfl rfl ld mb h
  | .freqFence m ld kind idx => execFreqFence_keeps (.refl s) rfl m ld kind idx h
  | .freqClear m ld kind idx => execFreqClear_keeps (.refl s) m ld kind idx h
  | .ffreqFence m fd kind idx => execFfreqFence_keeps (.refl s) m fd kind idx h
  | .ffreqClear m fd kind idx => execFfreqClear_keeps (.refl s) m fd kind idx h
  | .fieldDieReset m fd => execFieldDieReset_keeps (.refl s) m fd h
  | .leaseClaim m ld n => execLeaseClaim_keeps (.refl s) m ld n h
  | .leaseRelease m ld n => execLeaseRelease_keeps (.refl s) m ld n h
  | .watchdogKick m ld => execWatchdogKick_keeps (.refl s) m ld h
  | .watchdogExpiry ld => execWatchdogExpiry_keeps (.refl s) ld h
  | .supervisorRestartDone ld => execSupervisorRestartDone_keeps (.refl s) ld h
  | .logicDieLost ld => execLogicDieLost_keeps (.refl s) rfl ld h
  | .scratchpadAccess ld c => execScratchpadAccess_keeps (.refl s) rfl ld c h
  | .eccWriteback ld off => execEccWriteback_keeps (.refl s) ld off h
  | .softRepair ld off => execSoftRepair_keeps (.refl s) rfl ld off h
  | .segmentPowerOff m ld seg => execSegmentPowerOff_keeps (.refl s) m ld seg h
  | .segmentPowerOn m ld seg => execSegmentPowerOn_keeps (.refl s) m ld seg h
  | .segmentClearDone ld seg => execSegmentClearDone_keeps (.refl s) rfl ld seg h
  | .tillerAttemptStart ld => execTillerAttemptStart_keeps (.refl s) ld h
  | .tillerAttemptDone ld bad => execTillerAttemptDone_keeps (.refl s) ld bad h
  | .crcDin m ld n data be => execCrcDin_keeps (.refl s) m ld n data be h
  | .crcLoad m ld n => execCrcLoad_keeps (.refl s) m ld n h
  | .crcValWrite m ld n val => execCrcValWrite_keeps (.refl s) m ld n val h
  | .scanGo m ld n cont => execScanGo_keeps (.refl s) m ld n cont h
  | .scanStop m ld n words => execScanStop_keeps (.refl s) m ld n words h
  | .scanDone ld n => execScanDone_keeps (.refl s) ld n h
  | .lbistGo m ld e => execLbistGo_keeps (.refl s) m ld e h
  | .lbistIsolationTimeout ld e => execLbistIsolationTimeout_keeps (.refl s) ld e h
  | .lbistAbort m ld e => execLbistAbort_keeps (.refl s) m ld e h
  | .lbistPatternsDone ld e misr => execLbistPatternsDone_keeps (.refl s) rfl ld e misr h
  | .lbistReinitDone ld e => execLbistReinitDone_keeps (.refl s) rfl ld e h
  | .orderlyShutdown m => execOrderlyShutdown_keeps (.refl s) m h
  | .shutdownDone fails => execShutdownDone_keeps (.refl s) rfl fails h
  | .fbistDone fd token misr => execFbistDone_keeps (.refl s) fd token misr h
  | .tapBypass code => execTapBypass_keeps (.refl s) code h
  | .tapIdcode => execTapIdcode_keeps (.refl s) h
  | .tapSamplePreload => execTapSamplePreload_keeps (.refl s) h
  | .tapExtest => execTapExtest_keeps (.refl s) h
  | .tapDbgacc => execTapDbgacc_keeps (.refl s) h
  | .tapScanen => execTapScanen_keeps (.refl s) rfl h
  | .tapExit b => execTapExit_keeps (.refl s) rfl rfl rfl rfl b h
  | .trstN => execTrstN_keeps (.refl s) h
  | .debugHaltLane ld lane => execDebugHaltLane_keeps (.refl s) rfl ld lane h
  | .debugHaltSupervisor ld => execDebugHaltSupervisor_keeps (.refl s) ld h
  | .debugResume ld core => execDebugResume_keeps (.refl s) ld core h
  | .vaultStart m => execVaultStart_keeps (.refl s) m h
  | .vaultDin m data be => execVaultDin_keeps (.refl s) m data be h
  | .vaultGo m => execVaultGo_keeps (.refl s) m h
  | .vaultMacDone => execVaultMacDone_keeps (.refl s) h
  | .ocmdRead m ld => execOcmdRead_keeps (.refl s) m ld h
  | .ocmdProg m ld => execOcmdProg_keeps (.refl s) m ld h
  | .ocmdReburn m ld => execOcmdReburn_keeps (.refl s) m ld h
  | .otpOperationDone w => execOtpOperationDone_keeps (.refl s) rfl w h
  | .otpTokenGain => execOtpTokenGain_keeps (.refl s) h
  | .olockset m ld set => execOlockset_keeps (.refl s) m ld set h
  | .registerWrite m addr w same => execRegisterWrite_keeps (.refl s) rfl m addr w same h
  | .porstNRelease b => execPorstNRelease_keeps (.refl s) rfl rfl b h
  | .sgmiiLinkStatusChange ld p word => execSgmiiLinkStatusChange_keeps (.refl s) ld p word h
  | .currentLimitRelease fd t => execCurrentLimitRelease_keeps (.refl s) fd t h
  | .gdtripThresholdCrossing fd t above => execGdtripThresholdCrossing_keeps (.refl s) fd t above h

/-- Every arm of the dispatch is an answer; the two that look for a frame to send are one with it and without. -/
theorem exec_next (c : Instr) (s : State) : ∃ t, exec c s = .next t := by
  cases c
  case serviceFrameSend ld q =>
    change ∃ t, execServiceFrameSend ld q s = .next t
    unfold execServiceFrameSend
    split <;> exact ⟨_, rfl⟩
  case sluiceTruncation ld q =>
    change ∃ t, execSluiceTruncation ld q s = .next t
    unfold execSluiceTruncation
    split <;> exact ⟨_, rfl⟩
  all_goals exact ⟨_, rfl⟩

/-- A step keeps what every command keeps; taking a command from the queue changes nothing else. -/
theorem step_keeps {s t : State} (h : step s = .next t) : (s.Inv → t.Inv) ∧ OtpGrows s t := by
  unfold step at h
  split at h
  next => cases h; exact ⟨id, OtpGrows.refl _⟩
  next c rest _ =>
    have hk := exec_keeps c h
    exact ⟨fun hi => hk.inv ⟨hi.mem, hi.otp, hi.log⟩, hk.grows⟩

/-- Settles O1: both are the definition of `step`. -/
theorem stepRunsTheFrontCommand : Obligations.StepRunsTheFrontCommand := by
  refine ⟨fun c rest s => rfl, fun s hs => ?_⟩
  rw [step, hs]

/-- Settles O2: the memories of the part are empty lists, so every word is blank and every log empty. -/
theorem resetMeetsTheInvariant : Obligations.ResetMeetsTheInvariant := by
  refine ⟨⟨rfl, rfl, rfl, rfl⟩, fun w => ?_, fun die => Nat.zero_le _⟩
  have hblank : State.reset.otpWord w = OtpWord.blank := rfl
  rw [hblank]
  exact ⟨by decide, by decide, by decide, fun _ => rfl⟩

/-- Settles O3. -/
theorem stepKeepsTheInvariant : Obligations.StepKeepsTheInvariant := fun _ _ hi h => (step_keeps h).1 hi

/-- Settles O4. -/
theorem noStepTakesBackAnOtpWord : Obligations.NoStepTakesBackAnOtpWord := fun _ _ h => (step_keeps h).2

/-- Settles O5. -/
theorem everyCommandCompletesAndLeavesTheQueueAndThePart : Obligations.EveryCommandCompletesAndLeavesTheQueueAndThePart := by
  intro c s
  obtain ⟨t, ht⟩ := exec_next c s
  have hk := exec_keeps c ht
  exact ⟨t, ht, hk.pending, hk.variant, hk.rev, hk.ctr⟩

/-- Settles O6: a command that the statement does not name promises to leave memory alone. -/
theorem onlyTheseCommandsTouchMemory : Obligations.OnlyTheseCommandsTouchMemory := by
  intro c s t hc h
  refine (exec_keeps c h).mem ?_
  revert hc
  cases c <;> simp [Instr.promise]

/-- Settles O7: a command that the statement does not name promises to leave flash alone. -/
theorem onlySupervisorCommandsTouchFlash : Obligations.OnlySupervisorCommandsTouchFlash := by
  intro c s t hc h
  refine (exec_keeps c h).flash ?_
  revert hc
  cases c <;> simp [Instr.promise]

/-- Settles O8: a command that the statement does not name promises to leave OTP alone. -/
theorem onlyTheseCommandsTouchOtp : Obligations.OnlyTheseCommandsTouchOtp := by
  intro c s t hc h
  refine (exec_keeps c h).otp ?_
  revert hc
  cases c <;> simp [Instr.promise]

/-- Settles O9: a command that the statement does not name promises to leave the tick number alone. -/
theorem onlyTheseCommandsMoveTheTick : Obligations.OnlyTheseCommandsMoveTheTick := by
  intro c s t hc h
  refine (exec_keeps c h).tick ?_
  revert hc
  cases c <;> simp [Instr.promise]

/-- Settles O10: a command that the statement does not name promises to leave the running image alone. -/
theorem onlyTheseCommandsChangeTheImage : Obligations.OnlyTheseCommandsChangeTheImage := by
  intro c s t hc h
  refine (exec_keeps c h).image ?_
  revert hc
  cases c <;> simp [Instr.promise]

end Sys2Proof.Machine
end

section
/-!
SUPPORT. Frames: which parts of the state an operation may change. A frame overlays the parts that may change on the state
before; an operation keeps to it where its result is such an overlay. The laws of chains and loops are proved once for every frame.
-/

namespace Sys2Proof.Machine

/-- Which parts of the state may change: `merge s t` is `s` with those parts of `t`. -/
structure Frame where
  merge : State → State → State
  self : ∀ s, merge s s = s
  merge_left : ∀ s t u, merge (merge s t) u = merge s u

/-- Going from `s` to `t` changes only what the frame names. -/
def Frame.Holds (f : Frame) (s t : State) : Prop := t = f.merge s t

namespace Frame

variable {f g : Frame} {s t u : State}

theorem refl (f : Frame) (s : State) : f.Holds s s := (f.self s).symm

theorem Holds.trans (h : f.Holds s t) (k : f.Holds t u) : f.Holds s u := by
  have hu : u = f.merge (f.merge s t) u := by rw [← h]; exact k
  rwa [f.merge_left] at hu

/-- A change within a frame is one within any wider frame. -/
theorem Holds.wider (h : f.Holds s t) (hg : ∀ s t, g.merge s (f.merge s t) = f.merge s t := by intros; rfl) : g.Holds s t := by
  have hw := hg s t
  rw [← h] at hw
  exact hw.symm

/-- What no overlay changes is as before. -/
theorem Holds.same {β : Type} (h : f.Holds s t) (p : State → β) (hp : ∀ s t, p (f.merge s t) = p s := by intros; rfl) : p t = p s := by
  rw [h, hp]

theorem each {α : Type} {l : List α} {op : State → α → State} (hop : ∀ s, ∀ x ∈ l, f.Holds s (op s x)) (s : State) :
    f.Holds s (s.each l op) := by
  induction l generalizing s with
  | nil => exact f.refl s
  | cons x l ih =>
    exact (hop s x (List.mem_cons_self ..)).trans (ih (fun s y hy => hop s y (List.mem_cons_of_mem _ hy)) _)

theorem on {c : Bool} {op : State → State} (hop : c = true → f.Holds s (op s)) : f.Holds s (s.on c op) := by
  cases c
  · exact f.refl s
  · exact hop rfl

theorem ite {c : Prop} [Decidable c] (ht : c → f.Holds s t) (hu : ¬c → f.Holds s u) : f.Holds s (if c then t else u) := by
  split
  · exact ht ‹_›
  · exact hu ‹_›

/-- The registers. -/
def regs : Frame := ⟨fun s t => s.withRegs t.regs, fun _ => rfl, fun _ _ _ => rfl⟩

theorem put (s : State) (F : Fld) (d i v : Nat) : regs.Holds s (s.put F d i v) := rfl

end Frame

/-- What a loop leaves as it is, if each pass does. -/
theorem State.each_same {α β : Type} {l : List α} {op : State → α → State} (g : State → β) (hop : ∀ s, ∀ x ∈ l, g (op s x) = g s)
    (s : State) : g (s.each l op) = g s := by
  induction l generalizing s with
  | nil => rfl
  | cons x l ih => 
    exact (ih (fun s y hy => hop s y (List.mem_cons_of_mem _ hy)) _).trans (hop s x (List.mem_cons_self ..))

/-- What a loop sets, if the pass of one element sets it and no pass takes it back. -/
theorem State.each_sets {α : Type} {l : List α} {op : State → α → State} {P : State → Prop} {x : α} (hx : x ∈ l)
    (hset : ∀ s, P (op s x)) (hstay : ∀ s y, P s → P (op s y)) (s : State) : P (s.each l op) := by
  have stays (l : List α) (s : State) (h : P s) : P (s.each l op) := by
    induction l generalizing s with
    | nil => exact h
    | cons y l ih => exact ih _ (hstay s y h)
  induction l generalizing s with
  | nil => cases hx
  | cons y l ih =>
    rcases List.mem_cons.1 hx with rfl | hx
    · exact stays l _ (hset s)
    · exact ih hx _

/-- What a loop does to what only the passes of one element change, and a second pass of it not again. -/
theorem State.each_idem {α β : Type} {l : List α} {op : State → α → State} (g : State → β) (h : β → β) {x : α}
    (hidem : ∀ v, h (h v) = h v) (hx : x ∈ l) (hself : ∀ s, g (op s x) = h (g s)) (hother : ∀ s, ∀ y ∈ l, y ≠ x → g (op s y) = g s)
    (s : State) : g (s.each l op) = h (g s) := by
  induction l generalizing s with
  | nil => cases hx
  | cons y l ih =>
    have htail : ∀ s, ∀ z ∈ l, z ≠ x → g (op s z) = g s := fun s z hz => hother s z (List.mem_cons_of_mem _ hz)
    by_cases hyx : y = x
    · subst hyx
      by_cases hyl : y ∈ l
      · exact (ih hyl htail (op s y)).trans (by rw [hself, hidem])
      · exact (State.each_same g (fun s z hz => htail s z hz fun h => hyl (h ▸ hz)) _).trans (hself s)
    · exact (ih ((List.mem_cons.1 hx).resolve_left (Ne.symm hyx)) htail (op s y)).trans
        (by rw [hother s y (List.mem_cons_self ..) hyx])

theorem State.on_same {β : Type} {c : Bool} {op : State → State} {s : State} (g : State → β) (hop : g (op s) = g s) :
    g (s.on c op) = g s := by
  cases c
  · rfl
  · exact hop

/-- A change within a frame that leaves every register field as it is but those listed as (field, die, copy). -/
structure Change (f : Frame) (l : List (Fld × Nat × Nat)) (s t : State) : Prop where
  frame : f.Holds s t
  fields : ∀ (G : Fld) (d i : Nat), (∀ x ∈ l, G.key d i ≠ x.1.key x.2.1 x.2.2) → t.get G d i = s.get G d i

namespace Change

variable {f g : Frame} {l m : List (Fld × Nat × Nat)} {s t u : State}

theorem refl (f : Frame) (l : List (Fld × Nat × Nat)) (s : State) : Change f l s s := ⟨f.refl s, fun _ _ _ _ => rfl⟩

theorem trans (h : Change f l s t) (k : Change f l t u) : Change f l s u :=
  ⟨h.frame.trans k.frame, fun G d i hk => (k.fields G d i hk).trans (h.fields G d i hk)⟩

theorem wider (h : Change f l s t) (hg : ∀ s t, g.merge s (f.merge s t) = f.merge s t) (hl : ∀ x ∈ l, x ∈ m) : Change g m s t :=
  ⟨h.frame.wider hg, fun G d i hk => h.fields G d i fun x hx => hk x (hl x hx)⟩

theorem each {α : Type} {xs : List α} {op : State → α → State} (hop : ∀ s, ∀ x ∈ xs, Change f l s (op s x)) (s : State) :
    Change f l s (s.each xs op) := by
  induction xs generalizing s with
  | nil => exact refl f l s
  | cons x xs ih =>
    exact (hop s x (List.mem_cons_self ..)).trans (ih (fun s y hy => hop s y (List.mem_cons_of_mem _ hy)) _)

theorem on {c : Bool} {op : State → State} (hop : c = true → Change f l s (op s)) : Change f l s (s.on c op) := by
  cases c
  · exact refl f l s
  · exact hop rfl

theorem ite {c : Prop} [Decidable c] (ht : c → Change f l s t) (hu : ¬c → Change f l s u) :
    Change f l s (if c then t else u) := by
  split
  · exact ht ‹_›
  · exact hu ‹_›

theorem put (s : State) {F : Fld} {d i : Nat} (v : Nat) (h : (F, d, i) ∈ l)
    (hf : ∀ s t, f.merge s (Frame.regs.merge s t) = Frame.regs.merge s t := by intros; rfl) : Change f l s (s.put F d i v) :=
  ⟨(Frame.put s F d i v).wider hf, fun G e j hk => State.get_put_key s F G d i v e j (hk _ h)⟩

/-- A change that no register takes part in. -/
theorem ofFrame (h : f.Holds s t) (hr : t.regs = s.regs) : Change f l s t :=
  ⟨h, fun G d i _ => congrArg (fun r => Store.get (fun _ => G.resetAt d i) r (G.key d i)) hr⟩

end Change

theorem change_regs_iff {l : List (Fld × Nat × Nat)} {s t : State} : Change .regs l s t ↔ OnlyFields s t l :=
  ⟨fun h => ⟨h.frame, h.fields⟩, fun h => ⟨h.1, h.2⟩⟩

end Sys2Proof.Machine
end

section
/-! SUPPORT. Part resets, trips and the boots that follow (R445, R446, R449, R451 to R453). -/

namespace Sys2Proof.Machine

variable (s : State)

/-! ### What a part reset leaves of the pins and supplies -/

@[simp] theorem State.each_part {α : Type} {l : List α} {op : State → α → State} (hop : ∀ s x, (op s x).part = s.part) :
    (s.each l op).part = s.part := State.each_same State.part (fun s x _ => hop s x) s

@[simp] theorem State.on_part (c : Bool) (op : State → State) : (s.on c op).part = if c then (op s).part else s.part := by
  cases c <;> rfl

theorem State.onFenceFld_regs (die idx : Nat) (F : Fld) : Frame.regs.Holds s (s.onFenceFld die idx F) := by
  unfold State.onFenceFld
  split <;> rfl

theorem State.onFence_regs (rs : List Reg) (die idx : Nat) : Frame.regs.Holds s (s.onFence rs die idx) := by
  unfold State.onFence
  exact Frame.each (fun s _ _ => Frame.each (fun s _ _ => s.onFenceFld_regs die idx _) s) s

@[simp] theorem State.onFence_part (rs : List Reg) (die idx : Nat) : (s.onFence rs die idx).part = s.part :=
  (s.onFence_regs rs die idx).same State.part fun _ _ => rfl

theorem State.resetField_part (fd : Nat) (keep : List Reg) (ends : Bool) : (s.resetField fd keep ends).part = s.part := by
  simp [State.resetField, State.resetFieldUnits, State.dropFences, State.resetDie]

theorem State.resetFields_part : s.resetFields.part = s.part := by
  simp [State.resetFields, State.bootReset, State.resetField_part]

theorem State.cutOtp_part : s.cutOtp.part = s.part := by
  simp [State.cutOtp]

theorem State.resetLogicRegs_part (cause : Nat) : (s.resetLogicRegs cause).part = s.part := by
  have hreset (l : List Nat) (keep : List Reg) : (s.each l fun t ld => t.resetDie ld keep).part = s.part :=
    State.each_part s fun _ _ => rfl
  have hwarm (t : State) (l : List Nat) :
      (t.each l fun t ld => t.each warmFields fun t f => t.put f ld 0 (s.get f ld 0)).part = t.part :=
    State.each_part t fun t _ => State.each_part t fun _ _ => rfl
  simp [State.resetLogicRegs, hreset, hwarm]

/-! ### What a part reset leaves -/

theorem State.bistReset_regs (t : State) : Frame.regs.Holds t (s.bistReset t) := by
  unfold State.bistReset
  refine Frame.each (fun _ _ _ => ?_) t
  rfl

theorem State.bistReset_get {G : Fld} (hG : G.reg ≠ .LBIST_STAT) (t : State) (d i : Nat) : (s.bistReset t).get G d i = t.get G d i := by
  unfold State.bistReset
  refine State.each_same (fun t => t.get G d i) (fun t x _ => ?_) t
  have hres : F.LBIST_STAT_RESULT.same G = false := by simp [Fld.same, hG.symm]
  have hcause : F.LBIST_STAT_ACAUSE.same G = false := by simp [Fld.same, hG.symm]
  rw [State.get_put_other _ _ _ _ _ _ _ _ hcause, State.get_put_other _ _ _ _ _ _ _ _ hres]

theorem State.resetPart_part (n : Nat) : (s.resetPart n).part.porst = s.part.porst ∧ (s.resetPart n).part.vcore = s.part.vcore ∧
    (s.resetPart n).part.aon = s.part.aon ∧ (n = rstTap → (s.resetPart n).part.tapSafe = false) := by
  have hb (t : State) : (s.bistReset t).part = t.part := (s.bistReset_regs t).same State.part fun _ _ => rfl
  simp +contextual [State.resetPart, State.count, State.resetFields_part, State.resetLogicRegs_part, State.cutOtp_part, hb]

/-- A part reset leaves its cause, tick 0, no fences, jobs, rings or lanes, no image, an empty memory, and the flash and the queue. -/
theorem State.resetPart_fresh {n : Nat} (hn : n < 16) :
    let r := s.resetPart n
    r.get F.CLKPWR_RSTCAUSE_CAUSE 0 0 = n ∧ r.get F.CLKPWR_RSTCAUSE_COLD 0 0 = (decide (n = 1)).toNat ∧
      r.tick = 0 ∧ r.fences = [] ∧ r.jobs = [] ∧ r.image = RunImage.zero ∧ r.mem = [] ∧ r.ecc = [] ∧ r.rings = [] ∧ r.lanes = [] ∧
      r.flash = s.flash ∧ r.pending = s.pending := by
  intro r
  have hk : Keeps ⟨false, true, false, false, false⟩ s r := State.resetPart_keeps (.refl s) rfl rfl rfl rfl n
  have hflash := hk.flash rfl
  have hpending := hk.pending
  clear hk
  revert hflash hpending
  unfold r State.resetPart
  extract_lets r0 p shut part0 part tap rec_ reset t t1
  intro hflash hpending
  have hr (b : Bool) : Frame.regs.Holds t (t1.on b fun t => (s.bistReset t).count F.CLKPWR_RSTCAUSE_WARMCNT 0 0) :=
    Frame.Holds.trans (t := t1) rfl (Frame.on fun _ => (s.bistReset_regs t1).trans rfl)
  have hget {G : Fld} (h1 : G.reg ≠ .LBIST_STAT) (h2 : F.CLKPWR_RSTCAUSE_WARMCNT.same G = false) (b : Bool) :
      (t1.on b fun t => (s.bistReset t).count F.CLKPWR_RSTCAUSE_WARMCNT 0 0).get G 0 0 = t1.get G 0 0 := by
    refine State.on_same (fun s => s.get G 0 0) ?_
    rw [State.count, State.get_put_other _ _ _ _ _ _ _ _ h2, s.bistReset_get h1]
  refine ⟨?_, ?_, (hr _).same State.tick fun _ _ => rfl, (hr _).same State.fences fun _ _ => rfl, (hr _).same State.jobs fun _ _ => rfl,
    (hr _).same State.image fun _ _ => rfl, (hr _).same State.mem fun _ _ => rfl, (hr _).same State.ecc fun _ _ => rfl,
    (hr _).same State.rings fun _ _ => rfl, (hr _).same State.lanes fun _ _ => rfl, hflash, hpending⟩
  · rw [hget (by decide) (by decide)]
    simp [t1, State.putB, Nat.mod_eq_of_lt hn]
  · rw [hget (by decide) (by decide)]
    simp [t1, State.putB, Bool.toNat_le]

/-! ### Trips -/

/-- A trip of VCORE shows in PWRSTAT of every logic die. -/
theorem State.vcoreok_of_trip {d : Nat} (hd : s.hasLd d = true) :
    (s.each s.lds fun s ld => (s.put F.CLKPWR_PWRSTAT_VCOREOK ld 0 0).count F.CLKPWR_PWRSTAT_VCOREBO ld 0).get
      F.CLKPWR_PWRSTAT_VCOREOK d 0 = 0 := by
  have h := hasLd_iff.1 hd
  rcases lds_cases s with hl | hl <;> rw [hl] at h ⊢ <;> rcases List.mem_cons.1 h with rfl | h <;>
    simp_all [State.count]

/-- Settles O11: each source resets the part (`State.resetPart`) or holds it (`State.hold`), and boot follows. -/
theorem resetSourcesResetThePart : Obligations.ResetSourcesResetThePart := by
  intro s b ns m ld fresh
  refine ⟨?powerOn, ?porstShort, ?porst, ?porstFree, ?porstRelease, ?vcoreRelease, ?command, ?tap, ?aon, ?vauxTrip, ?aonTrip,
    ?vcoreTrip, ?spll⟩
  case powerOn => exact ⟨_, rfl, State.resetPart_fresh _ (by decide)⟩
  case porstShort =>
    intro hp hns
    change execPorstN ns s = _
    rw [execPorstN, hp, if_pos hns]
    rfl
  case porst =>
    intro hp hv hns
    refine ⟨State.resetPart { s with part := { s.part with porst := true } } rstPin, ?_, State.resetPart_fresh _ (by decide),
      (State.resetPart_part _ _).1⟩
    change execPorstN ns s = _
    rw [execPorstN, hp, if_neg (by omega), if_neg (by omega), State.porstLow, hv]
    rfl
  case porstFree =>
    intro hp hv hlo hhi
    change execPorstN ns s = _
    rw [execPorstN, hp, if_neg (by omega), if_pos hhi]
    rfl
  case porstRelease =>
    intro hp
    change execPorstNRelease b s = _
    rw [execPorstNRelease, hp]
    rfl
  case vcoreRelease =>
    intro hv hp hva ha hph
    refine ⟨State.resetPart { s with part := { s.part with vcore := false } } rstVcore, ?_, State.resetPart_fresh _ (by decide),
      (State.resetPart_part _ _).2.1⟩
    change execVcoreRelease b s = _
    rw [execVcoreRelease, hv, State.vcoreUp, State.blocked, hp, hva, ha, if_neg (by decide), if_neg hph]
    rfl
  case command =>
    intro hdue hw
    refine ⟨s.resetPart rstCommand, ?_, State.resetPart_fresh _ (by decide)⟩
    change execPartReset m 0xA5C3 b s = _
    rw [execPartReset, hdue, if_neg (by decide), decide_eq_true (rfl : 0xA5C3 = 0xA5C3), asWrite_admitted hw]
    rfl
  case tap =>
    intro ht
    refine ⟨s.resetPart rstTap, ?_, State.resetPart_fresh _ (by decide), (State.resetPart_part _ _).2.2.2 rfl⟩
    change execTapExit b s = _
    rw [execTapExit, ht]
    rfl
  case aon =>
    intro ha hp hv
    refine ⟨State.resetPart { s with part := { s.part with aon := false } } rstAon, ?_, State.resetPart_fresh _ (by decide),
      (State.resetPart_part _ _).2.2.1⟩
    change execAonRecovery b s = _
    have hb : State.blocked { s with part := { s.part with aon := false } } = false := by simp [State.blocked, hp, hv]
    rw [execAonRecovery, ha, State.aonBack, hb]
    rfl
  case vauxTrip =>
    intro hv
    change execVauxTrip s = _
    rw [execVauxTrip, hv]
    rfl
  case aonTrip =>
    intro ha
    change execAonFailure s = _
    rw [execAonFailure, ha]
    rfl
  case vcoreTrip =>
    intro hv hph
    refine ⟨State.each { s with part := { s.part with vcore := true } } s.lds fun s ld =>
      (s.put F.CLKPWR_PWRSTAT_VCOREOK ld 0 0).count F.CLKPWR_PWRSTAT_VCOREBO ld 0, ?_, State.each_part _ fun _ _ => rfl,
      fun d hd => State.vcoreok_of_trip { s with part := { s.part with vcore := true } } hd⟩
    change execVcoreTrip s = _
    rw [execVcoreTrip, hv, State.vcoreDown, decide_eq_false hph]
    rfl
  case spll =>
    intro hld
    refine ⟨State.put { s with part := if ld = 0 then { s.part with spll0 := true } else { s.part with spll1 := true } }
      F.CLKPWR_CLKSTAT_SPLLLK ld 0 0, ?_, by simp, onlyFields_put _ _ _ _ _⟩
    change execSpllFailure ld s = _
    rw [execSpllFailure, hld]
    rfl

end Sys2Proof.Machine
end

section
/-! SUPPORT. The fence of a unit (R348 to R350, R407, R409): the On-fence values, the log, the self-test that it ends. -/

namespace Sys2Proof.Machine

/-! ### On-fence values (R11) -/

/-- The registers that a fence of some unit changes. -/
def fencedRegs : List Reg :=
  [U.lane, U.sv, U.port, U.crc, U.scan, U.ltimer, U.term, U.cell, U.ftimer, U.field, U.link, U.logic].flatMap unitRegs

theorem unitRegs_mem_fencedRegs (kind : Nat) : ∀ r ∈ unitRegs kind, r ∈ fencedRegs := by
  intro r hr
  by_cases hk : kind ∈ [U.lane, U.sv, U.port, U.crc, U.scan, U.ltimer, U.term, U.cell, U.ftimer, U.field, U.link, U.logic]
  · exact List.mem_flatMap.2 ⟨kind, hk, hr⟩
  · have hnone : unitRegs kind = [] := by
      simp only [List.mem_cons, List.not_mem_nil, or_false, not_or] at hk
      simp only [unitRegs, hk, if_false]
    rw [hnone] at hr
    cases hr

/-- The fields of these registers lie apart, each in its own register; none is one of the logs or of the self-test engines. -/
theorem fencedRegs_fields : ∀ r ∈ fencedRegs, ∀ G ∈ r.fields, G.reg = r ∧ ∀ F ∈ r.fields, F.lo = G.lo → F = G := by
  decide

theorem fencedRegs_notLbist : ∀ r ∈ fencedRegs, r ∉ [Reg.LBIST_REC, .LBIST_STAT, .LBIST_MISR0, .LBIST_MISR1, .LBIST_PDONE, .FENCE_FSTAT] := by
  decide

/-- What a field reads as once its owner is fenced (R11). -/
def Fld.onFenceVal (G : Fld) (die idx v : Nat) : Nat :=
  match G.fen with
  | .rst => G.resetAt die idx % 2 ^ G.w
  | .safe => G.safe % 2 ^ G.w
  | _ => v

theorem State.get_onFenceFld (s : State) (die idx : Nat) (G : Fld) :
    (s.onFenceFld die idx G).get G die idx = G.onFenceVal die idx (s.get G die idx) := by
  unfold State.onFenceFld Fld.onFenceVal
  split <;> simp_all [State.clear]

theorem State.get_onFenceFld_key (s : State) {F G : Fld} {die idx d i : Nat} (h : G.key d i ≠ F.key die idx) :
    (s.onFenceFld die idx F).get G d i = s.get G d i := by
  unfold State.onFenceFld
  split
  · exact State.get_put_key _ _ _ _ _ _ _ _ h
  · exact State.get_put_key _ _ _ _ _ _ _ _ h
  · rfl

theorem State.get_onFence_other (s : State) {rs : List Reg} {G : Fld} {die idx d i : Nat}
    (h : ∀ r ∈ rs, ∀ F ∈ r.fields, G.key d i ≠ F.key die idx) : (s.onFence rs die idx).get G d i = s.get G d i := by
  unfold State.onFence
  refine State.each_same (fun s => s.get G d i) (fun s r hr => ?_) s
  exact State.each_same (fun s => s.get G d i) (fun s F hF => s.get_onFenceFld_key (h r hr F hF)) s

theorem Fld.onFenceVal_idem (G : Fld) (die idx v : Nat) :
    G.onFenceVal die idx (G.onFenceVal die idx v) = G.onFenceVal die idx v := by
  unfold Fld.onFenceVal
  cases G.fen <;> rfl

/-- Each field of the unit's registers goes to what its On-fence column says. -/
theorem State.get_onFence (s : State) {kind : Nat} {r : Reg} {G : Fld} (hr : r ∈ unitRegs kind) (hG : G ∈ r.fields) (die idx : Nat) :
    (s.onFence (unitRegs kind) die idx).get G die idx = G.onFenceVal die idx (s.get G die idx) := by
  obtain ⟨hreg, huniq⟩ := fencedRegs_fields r (unitRegs_mem_fencedRegs kind r hr) G hG
  unfold State.onFence
  refine State.each_idem (fun s => s.get G die idx) (G.onFenceVal die idx) (G.onFenceVal_idem die idx) hr (fun s => ?_) (fun s q hq hqr => ?_) s
  · refine State.each_idem (fun s => s.get G die idx) (G.onFenceVal die idx) (G.onFenceVal_idem die idx) hG
      (fun s => s.get_onFenceFld die idx G) (fun s F hF hne => s.get_onFenceFld_key fun hk => ?_) s
    exact hne (huniq F hF (Fld.key_eq.1 hk).2.1.symm)
  · refine State.each_same (fun s => s.get G die idx) (fun s F hF => s.get_onFenceFld_key fun hk => ?_) s
    have hF := (fencedRegs_fields q (unitRegs_mem_fencedRegs kind q hq) F hF).1
    exact hqr (hF.symm.trans ((Fld.key_eq.1 hk).1.symm.trans hreg))

/-! ### The self-test that a fence ends (R407, R409) -/

/-- What a self-test leaves its mark on. -/
def Frame.bist : Frame :=
  ⟨fun s t => { s with regs := t.regs, prpg := t.prpg, freeCtr := t.freeCtr, sv := t.sv, jobs := t.jobs }, fun _ => rfl, fun _ _ _ => rfl⟩

/-- The fields of a self-test engine that a fence changes. -/
def bistFields (ld e : Nat) : List (Fld × Nat × Nat) :=
  [(F.LBIST_REC_VALID, ld, e), (F.LBIST_STAT_STATE, ld, e), (F.LBIST_STAT_RESULT, ld, e), (F.LBIST_STAT_TOKEN, ld, e),
    (F.LBIST_STAT_ACAUSE, ld, e), (F.LBIST_MISR0_MISR, ld, e), (F.LBIST_MISR1_MISR, ld, e), (F.LBIST_PDONE_PDONE, ld, e)]

theorem State.setPrpg_change (s : State) (k v : Nat) (l : List (Fld × Nat × Nat)) : Change .bist l s (s.setPrpg k v) := .ofFrame rfl rfl

theorem State.spend_change (s : State) (l : List (Fld × Nat × Nat)) : Change .bist l s s.spend := .ofFrame rfl rfl

theorem State.setJob_change (s : State) (ld e : Nat) (v : Job) (l : List (Fld × Nat × Nat)) : Change .bist l s (s.setJob ld e v) :=
  .ofFrame rfl rfl

theorem State.setSv_change (s : State) (ld : Nat) (v : SvSt) (l : List (Fld × Nat × Nat)) : Change .bist l s (s.setSv ld v) :=
  .ofFrame rfl rfl

theorem State.cutBist_change (s : State) (ld e acause : Nat) : Change .bist (bistFields ld e) s (s.cutBist ld e acause) := by
  unfold State.cutBist
  refine Change.on fun _ => ?_
  refine ((((((((Change.put s _ ?_).trans (.put _ _ ?_)).trans (.put _ _ ?_)).trans (.put _ _ ?_)).trans (.put _ _ ?_)).trans
    (.put _ _ ?_)).trans (.put _ _ ?_)).trans (State.setPrpg_change _ _ _ _)).trans (State.spend_change _ _) <;> simp [bistFields]

theorem State.endJob_change (s : State) (ld e fstatus result : Nat) (l : List (Fld × Nat × Nat)) :
    Change .bist l s (s.endJob ld e fstatus result) := by
  unfold State.endJob
  exact Change.on fun _ => State.setJob_change _ _ _ _ _

theorem State.bistJobEnd_change (s : State) (ld e fstatus result : Nat) (l : List (Fld × Nat × Nat)) :
    Change .bist l s (s.bistJobEnd ld e fstatus result) := by
  unfold State.bistJobEnd
  exact (Change.each (fun s j _ => s.endJob_change 0 j.2 fstatus result l) s).trans (State.setSv_change _ _ _ _)

theorem State.bistFence_change (s : State) (die kind idx : Nat) :
    Change .bist (bistFields die (bistEngine kind idx)) s (s.bistFence die kind idx) := by
  unfold State.bistFence
  refine Change.on fun _ => ((Change.put s _ ?_).trans (State.cutBist_change _ _ _ _)).trans
    (Change.on fun _ => State.bistJobEnd_change _ _ _ _ _ _)
  simp [bistFields]

/-- No field of a fenced unit's registers is one of a self-test engine. -/
theorem State.get_bistFence_unit (s : State) {k kind : Nat} {r : Reg} {G : Fld} (hr : r ∈ unitRegs k) (hG : G ∈ r.fields)
    (die idx d i : Nat) : (s.bistFence die kind idx).get G d i = s.get G d i := by
  have hf := unitRegs_mem_fencedRegs k r hr
  have hreg := (fencedRegs_fields r hf G hG).1
  have hnot := fencedRegs_notLbist r hf
  rw [← hreg] at hnot
  refine (s.bistFence_change die kind idx).fields G d i fun x hx hk => hnot ?_
  rw [(Fld.key_eq.1 hk).1]
  revert x
  simp [bistFields]

/-- Where a run was in progress, it is cut short. -/
theorem State.get_cutBist_state (s : State) (ld e acause : Nat) : (s.cutBist ld e acause).get F.LBIST_STAT_STATE ld e ≠ 1 ∧
    (s.cutBist ld e acause).get F.LBIST_STAT_STATE ld e ≠ 2 := by
  unfold State.cutBist State.on
  split
  · simp
  · simp_all

/-- The end of the jobs that wait for an engine changes no register. -/
theorem State.get_bistJobEnd (s : State) (ld e fstatus result : Nat) (G : Fld) (d i : Nat) :
    (s.bistJobEnd ld e fstatus result).get G d i = s.get G d i :=
  (s.bistJobEnd_change ld e fstatus result []).fields G d i (by simp)

theorem State.get_cutBist_rec (s : State) (ld e acause d i : Nat) :
    (s.cutBist ld e acause).get F.LBIST_REC_VALID d i = s.get F.LBIST_REC_VALID d i := by
  unfold State.cutBist
  exact State.on_same (fun s => s.get F.LBIST_REC_VALID d i) (by simp)

/-- A unit with a self-test engine loses its pass record, and the engine's run is over (R407, R409). -/
theorem State.bistFence_ends (s : State) {die kind idx : Nat} (h : bistEngine kind idx < 10) :
    (s.bistFence die kind idx).get F.LBIST_REC_VALID die (bistEngine kind idx) = 0 ∧
      (s.bistFence die kind idx).get F.LBIST_STAT_STATE die (bistEngine kind idx) ≠ 1 ∧
      (s.bistFence die kind idx).get F.LBIST_STAT_STATE die (bistEngine kind idx) ≠ 2 := by
  have hjob {G : Fld} (t : State) (c : Bool) (d i : Nat) :
      (t.on c fun s => s.bistJobEnd die (bistEngine kind idx) stAborted 2).get G d i = t.get G d i :=
    State.on_same (fun s => s.get G d i) (t.get_bistJobEnd _ _ _ _ _ _ _)
  unfold State.bistFence
  dsimp only
  rw [decide_eq_true h, State.on_true, hjob, hjob, State.get_cutBist_rec]
  exact ⟨by simp, State.get_cutBist_state _ _ _ _⟩

/-! ### The log and the fence (R348, R350) -/

@[simp] theorem State.logFence_fences (s : State) (die kind idx reason : Nat) : (s.logFence die kind idx reason).fences = s.fences :=
  State.on_same State.fences rfl

@[simp] theorem State.onFence_fences (s : State) (rs : List Reg) (die idx : Nat) : (s.onFence rs die idx).fences = s.fences :=
  (s.onFence_regs rs die idx).same State.fences fun _ _ => rfl

@[simp] theorem State.onFence_flog (s : State) (rs : List Reg) (die idx : Nat) : (s.onFence rs die idx).flog = s.flog :=
  (s.onFence_regs rs die idx).same State.flog fun _ _ => rfl

@[simp] theorem State.bistFence_fences (s : State) (die kind idx : Nat) : (s.bistFence die kind idx).fences = s.fences :=
  (s.bistFence_change die kind idx).frame.same State.fences fun _ _ => rfl

@[simp] theorem State.bistFence_flog (s : State) (die kind idx : Nat) : (s.bistFence die kind idx).flog = s.flog :=
  (s.bistFence_change die kind idx).frame.same State.flog fun _ _ => rfl

/-- The log after a fence: the new entry first, the other dies' logs as before (R350). -/
theorem State.logFence_flog (s : State) (die kind idx reason d : Nat) : Store.get (fun _ => []) (s.logFence die kind idx reason).flog d =
    if d = die then keepNewest 64 ⟨s.tickOf die, die, kind, idx, reason⟩ (Store.get (fun _ => []) s.flog die)
    else Store.get (fun _ => []) s.flog d := by
  have h (t : State) (c : Bool) : (t.on c fun s => s.countWrap F.FENCE_FSTAT_LOGCNT die 0).flog = t.flog :=
    State.on_same State.flog rfl
  rw [State.logFence, h]
  simp only [Store.get_set]

theorem State.get_logFence_unit (s : State) {k : Nat} {r : Reg} {G : Fld} (hr : r ∈ unitRegs k) (hG : G ∈ r.fields)
    (die kind idx reason d i : Nat) : (s.logFence die kind idx reason).get G d i = s.get G d i := by
  have hf := unitRegs_mem_fencedRegs k r hr
  have hne : F.FENCE_FSTAT_LOGCNT.same G = false := by
    have hnot := fencedRegs_notLbist r hf
    rw [← (fencedRegs_fields r hf G hG).1] at hnot
    simp only [Fld.same, decide_eq_false_iff_not]
    rintro ⟨h, -⟩
    exact hnot (by rw [← h]; decide)
  unfold State.logFence
  exact State.on_same (fun s => s.get G d i) (State.get_put_other _ _ _ _ _ _ _ _ hne)

/-- The fence of a unit that is raised. -/
def State.raisedFence (s : State) (kind die idx reason : Nat) : Fence :=
  let f := s.fence kind die idx
  { on := true, reason := reason, tick := s.fenceTick, readmit := 0,
    sieveTicks := if reason = 6 then keepNewest 3 s.tick f.sieveTicks else f.sieveTicks, times := keepNewest 3 s.tick f.times }

theorem State.fenceOn_eq (s : State) (kind die idx reason : Nat) :
    s.fenceOn kind die idx reason = s.setFence kind die idx (s.raisedFence kind die idx reason) := rfl

theorem State.raise_of_fenced {s : State} {kind die idx : Nat} (h : s.fenced kind die idx = true) (reason : Nat) :
    s.raise kind die idx reason = s.bistFence die kind idx := by
  rw [State.raise, h]; rfl

theorem State.raise_of_not_fenced {s : State} {kind die idx : Nat} (h : s.fenced kind die idx = false) (reason : Nat) :
    s.raise kind die idx reason =
      (((s.fenceOn kind die idx reason).logFence die kind idx reason).onFence (unitRegs kind) die idx).bistFence die kind idx := by
  rw [State.raise, h]; rfl

theorem State.fence_congr {s t : State} (h : t.fences = s.fences) (k d i : Nat) : t.fence k d i = s.fence k d i := by
  rw [State.fence, h]; rfl

/-- The fences after one is raised: that of the unit, unless it was fenced; every other unit's as before. -/
theorem State.fence_raise (s : State) (kind die idx reason k d i : Nat) : (s.raise kind die idx reason).fence k d i =
    if k = kind ∧ d = die ∧ i = idx ∧ s.fenced kind die idx = false then s.raisedFence kind die idx reason else s.fence k d i := by
  cases h : s.fenced kind die idx
  · rw [State.raise_of_not_fenced h,
      State.fence_congr (s := s.fenceOn kind die idx reason) (by simp), State.fenceOn_eq, State.fence_setFence]
    simp
  · rw [State.raise_of_fenced h, State.fence_congr (s := s) (by simp)]
    simp

/-- Settles O46. -/
theorem raisingAFenceSetsItsUnitAside : Obligations.RaisingAFenceSetsItsUnitAside := by
  intro s kind die idx reason t
  refine ⟨fun h => ?fenced, fun h => ?raised, fun h => ?bist⟩
  case fenced =>
    have ht : t = s.bistFence die kind idx := State.raise_of_fenced h reason
    refine ⟨ht, by rw [ht]; simp, by rw [ht]; simp, fun h10 => ?_⟩
    rw [ht, State.bistFence, decide_eq_false (by omega)]
    rfl
  case raised =>
    have ht : t = _ := State.raise_of_not_fenced h reason
    have hf : t.fence kind die idx = s.raisedFence kind die idx reason := by simp [t, State.fence_raise, h]
    have hlog (d : Nat) := (s.fenceOn kind die idx reason).logFence_flog die kind idx reason d
    have hk : Keeps ⟨true, true, true, true, true⟩ s t := State.raise_keeps (.refl s) _ _ _ _
    refine ⟨by rw [State.fenced, hf]; rfl, by rw [hf]; rfl, by rw [hf]; rfl, by rw [hf]; rfl, fun k d i hne => ?_, ?_, fun d hd => ?_,
      fun r hr G hG => ?_, hk.mem rfl, hk.flash rfl, hk.otp rfl⟩
    · simp only [t, State.fence_raise]
      rw [if_neg (by tauto)]
    · rw [ht, State.bistFence_flog, State.onFence_flog, hlog, if_pos rfl]
      rfl
    · rw [ht, State.bistFence_flog, State.onFence_flog, hlog, if_neg hd]
      rfl
    · have hget : t.get G die idx = G.onFenceVal die idx (s.get G die idx) := by
        rw [ht, State.get_bistFence_unit _ hr hG, State.get_onFence _ hr hG, State.get_logFence_unit _ hr hG]
        rfl
      rw [hget, Fld.onFenceVal]
      cases G.fen <;> simp
  case bist =>
    simp only [t, State.raise]
    exact State.bistFence_ends _ h

end Sys2Proof.Machine
end

section
/-! SUPPORT. Resets of a field die, and its supply (R37, R40, R374, R412, R445 to R447, R451). -/

namespace Sys2Proof.Machine

/-! ### Registers and fences that a reset drops -/

/-- A filter by keys keeps what it admits; every other key reads as unlisted. -/
theorem Store.get_filter {α : Type} (d : Nat → α) (p : Nat → Bool) (m : Store α) (k : Nat) :
    Store.get d (m.filter fun e => p e.1) k = if p k then Store.get d m k else d k := by
  induction m with
  | nil => simp [Store.get]
  | cons e m ih =>
    obtain ⟨j, v⟩ := e
    by_cases hjk : j = k
    · subst hjk
      cases hp : p j <;> simp_all [Store.get]
    · cases hp : p j <;> simp_all [Store.get]

theorem State.get_resetDie (s : State) (die : Nat) (keep : List Reg) (G : Fld) (d i : Nat) :
    (s.resetDie die keep).get G d i = if d ≠ die ∨ G.reg ∈ keep then s.get G d i else G.resetAt d i := by
  have hmem : (keep.any fun r => r.ctorIdx == G.reg.ctorIdx) = decide (G.reg ∈ keep) := by
    rw [Bool.eq_iff_iff, List.any_eq_true, decide_eq_true_iff]
    exact ⟨fun ⟨r, hr, he⟩ => Reg.ctorIdx_inj (beq_iff_eq.1 he) ▸ hr, fun h => ⟨_, h, beq_self_eq_true _⟩⟩
  have h := Store.get_filter (fun _ => G.resetAt d i) (fun k => decide ((Nat.unpair (Nat.unpair k).2).1 ≠ die) ||
    keep.any fun r => r.ctorIdx == (Nat.unpair (Nat.unpair k).1).1) s.regs (G.key d i)
  simp only [Fld.key, Nat.unpair_pair, hmem] at h
  simpa only [State.get, State.resetDie, Fld.key, Bool.or_eq_true, decide_eq_true_eq] using h

theorem State.fence_dropFences (s : State) (die : Nat) (kinds : List Nat) (k d i : Nat) :
    (s.dropFences die kinds).fence k d i = if k ∈ kinds ∧ d = die then Fence.zero else s.fence k d i := by
  have h := Store.get_filter (fun _ => Fence.zero) (fun e => !(kinds.contains (Nat.unpair e).1 &&
    decide ((Nat.unpair (Nat.unpair e).2).1 = die))) s.fences (unitKey k d i)
  simp only [unitKey, Nat.unpair_pair] at h
  refine h.trans ?_
  by_cases hk : k ∈ kinds <;> by_cases hd : d = die <;> simp [hk, hd, State.fence, unitKey]

/-! ### The reset of a field die (R451) -/

/-- The state in which the units of a field die have been reset, before a standing fence of the die takes its registers. -/
def State.fieldCleared (s : State) (fd : Nat) (keep : List Reg) (ends : Bool) : State :=
  ((((s.resetDie (fdie fd) keep).dropFences (fdie fd) ([U.term, U.cell, U.ftimer] ++ if ends then [U.field] else [])).resetFieldUnits
    fd).setField fd { FieldSt.zero with power := (s.field fd).power, vfSafe := (s.field fd).vfSafe, htick := (s.field fd).htick,
                                        viaDie := (s.field fd).viaDie })

theorem State.resetField_eq (s : State) (fd : Nat) (keep : List Reg) (ends : Bool) : s.resetField fd keep ends =
    (s.fieldCleared fd keep ends).on ((s.fieldCleared fd keep ends).fenced U.field (fdie fd) 0) fun u =>
      (u.onFence (unitRegs U.field) (fdie fd) 0).put F.FSYS_FFSTAT_REASON (fdie fd) 0 (u.fence U.field (fdie fd) 0).reason := rfl

theorem State.resetField_regs (s : State) (fd : Nat) (keep : List Reg) (ends : Bool) :
    Frame.regs.Holds (s.fieldCleared fd keep ends) (s.resetField fd keep ends) := by
  rw [State.resetField_eq]
  exact Frame.on fun _ => (State.onFence_regs _ _ _ _).trans rfl

theorem State.fenced_resetField (s : State) (fd : Nat) (keep : List Reg) (ends : Bool) :
    (s.resetField fd keep ends).fenced U.field (fdie fd) 0 = (!ends && s.fenced U.field (fdie fd) 0) := by
  refine ((s.resetField_regs fd keep ends).same (State.fenced · U.field (fdie fd) 0) fun _ _ => rfl).trans ?_
  have h := (s.resetDie (fdie fd) keep).fence_dropFences (fdie fd) ([U.term, U.cell, U.ftimer] ++ if ends then [U.field] else [])
    U.field (fdie fd) 0
  refine (congrArg Fence.on h).trans ?_
  cases ends
  · rw [if_neg fun h => absurd h.1 (by decide)]
    rfl
  · rw [if_pos ⟨by decide, rfl⟩]
    rfl

theorem State.get_fieldCleared (s : State) (fd : Nat) (keep : List Reg) (ends : Bool) (G : Fld) (d i : Nat) :
    (s.fieldCleared fd keep ends).get G d i = if d ≠ fdie fd ∨ G.reg ∈ keep then s.get G d i else G.resetAt d i :=
  s.get_resetDie (fdie fd) keep G d i

/-- A register that the reset keeps reads as before, unless a fence of the die stands. -/
theorem State.get_resetField_kept (s : State) {fd : Nat} {keep : List Reg} {ends : Bool} {G : Fld} (hG : G.reg ∈ keep)
    (h : (!ends && s.fenced U.field (fdie fd) 0) = false) (d i : Nat) : (s.resetField fd keep ends).get G d i = s.get G d i := by
  have hf : (s.fieldCleared fd keep ends).fenced U.field (fdie fd) 0 = false := by
    rw [← h, ← s.fenced_resetField fd keep ends]
    exact ((s.resetField_regs fd keep ends).same (State.fenced · U.field (fdie fd) 0) fun _ _ => rfl).symm
  rw [State.resetField_eq, hf, State.on_false, State.get_fieldCleared, if_pos (.inr hG)]

/-- A reset that keeps no register leaves FBREC at 0, whether a fence of the die stands or not. -/
theorem State.fbrec_resetField (s : State) (fd : Nat) (ends : Bool) :
    (s.resetField fd [] ends).get F.FBIST_FBREC_VALID (fdie fd) 0 = 0 := by
  have h : (s.fieldCleared fd [] ends).get F.FBIST_FBREC_VALID (fdie fd) 0 = 0 := by
    rw [State.get_fieldCleared, if_neg (by simp)]
    rfl
  rw [State.resetField_eq]
  unfold State.on
  split
  · rw [State.get_put_other _ _ _ _ _ _ _ _ (by decide), State.get_onFence _ (r := .FBIST_FBREC) (by decide) (by decide), h]
    rfl
  · exact h

/-! ### VFOK -/

/-- VFOK shows a die with supply in range that is not fenced (R40, R374). -/
theorem State.vfok_eq (s : State) (fd : Nat) : s.fieldValue F.FSYS_FPWR_VFOK (fdie fd) 0 =
    ((s.field fd).power && !(s.field fd).vfSafe && !s.fenced U.field (fdie fd) 0).toNat := by
  have hnow : s.fieldNow F.FSYS_FPWR_VFOK (fdie fd) 0 =
      ((s.field fd).power && !(s.field fd).vfSafe && !s.fenced U.field (fdie fd) 0).toNat := rfl
  have howner : s.ownerFenced .FSYS_FPWR (fdie fd) 0 = s.fenced U.field (fdie fd) 0 := rfl
  rw [State.fieldValue, if_neg (by simp), hnow]
  unfold State.fenceMask
  rw [howner]
  cases s.fenced U.field (fdie fd) 0 <;> simp [Fld.ruled]

/-! ### The terminals of a die go off -/

/-- What switching a terminal changes. -/
def Frame.fieldTerms : Frame := ⟨fun s t => State.withRegs { s with fields := t.fields, terms := t.terms } t.regs, fun _ => rfl, fun _ _ _ => rfl⟩

theorem State.switchOff_frame (s : State) (fd t : Nat) : Frame.fieldTerms.Holds s (s.switchOff fd t) := rfl

theorem State.termsOff_frame (s : State) (fd : Nat) : Frame.fieldTerms.Holds s (s.termsOff fd) := by
  unfold State.termsOff
  exact Frame.each (fun s t _ => s.switchOff_frame fd t) s

theorem State.get_termsOff (s : State) {fd k : Nat} (hk : k < 64) :
    (s.termsOff fd).get F.TERM_HSTAT_PENA (fdie fd) k = 0 ∧ (s.termsOff fd).get F.TERM_HSTAT_HENA (fdie fd) k = 0 := by
  unfold State.termsOff
  refine State.each_sets (P := fun s => s.get F.TERM_HSTAT_PENA (fdie fd) k = 0 ∧ s.get F.TERM_HSTAT_HENA (fdie fd) k = 0)
    (List.mem_range.2 hk) (fun s => ?_) (fun s t h => ?_) s
  · exact ⟨by simp [State.switchOff], by simp [State.switchOff]⟩
  · simp_all [State.switchOff]

/-! ### The supply rows -/

/-- Both paths of every terminal start without history: terminals and channel P's readings change. -/
def Frame.sense : Frame := ⟨fun s t => { s with fields := t.fields, terms := t.terms, pIn := t.pIn }, fun _ => rfl, fun _ _ _ => rfl⟩

theorem State.senseStart_frame (s : State) (fd t : Nat) : Frame.sense.Holds s (s.senseStart fd t) := rfl

theorem State.senseStart_field (s : State) (fd t : Nat) : (s.senseStart fd t).field = s.field := rfl

theorem State.vfnBack_frame (s : State) (fd : Nat) : Frame.sense.Holds s (s.vfnBack fd) :=
  Frame.Holds.trans (t := s.setField fd { s.field fd with vfSafe := false }) rfl (Frame.each (fun s t _ => s.senseStart_frame fd t) _)

theorem State.vfnBack_field (s : State) (fd : Nat) : (s.vfnBack fd).field fd = { s.field fd with vfSafe := false } := by
  unfold State.vfnBack
  dsimp only
  rw [State.each_same State.field (fun s t _ => s.senseStart_field fd t), State.field_setField, if_pos rfl]

theorem State.vfnOut_frame (s : State) (fd : Nat) : Frame.fieldTerms.Holds s (s.vfnOut fd) :=
  Frame.Holds.trans (t := (s.setField fd { s.field fd with vfSafe := true }).raiseFlag F.FSYS_FPWR_VFTRIP (fdie fd) 0) rfl
    (State.termsOff_frame _ fd)

theorem State.termsOff_field (s : State) (fd : Nat) : (s.termsOff fd).field = s.field := by
  unfold State.termsOff
  refine State.each_same State.field (fun s t _ => ?_) s
  rfl

theorem State.vfnOut_field (s : State) (fd : Nat) : (s.vfnOut fd).field fd = { s.field fd with vfSafe := true } := by
  unfold State.vfnOut
  dsimp only
  rw [State.termsOff_field, State.raiseFlag, State.put_field, State.field_setField, if_pos rfl]

theorem State.vfnOut_vftrip (s : State) (fd : Nat) : (s.vfnOut fd).get F.FSYS_FPWR_VFTRIP (fdie fd) 0 = 1 := by
  unfold State.vfnOut State.termsOff
  dsimp only
  rw [State.each_same (fun s => s.get F.FSYS_FPWR_VFTRIP (fdie fd) 0) fun s t _ => by simp [State.switchOff]]
  simp [State.raiseFlag]

theorem State.vfnUp_field (s : State) (fd : Nat) : ((s.vfnUp fd).field fd).power = true ∧ ((s.vfnUp fd).field fd).vfSafe = true ∧
    (s.fenced U.field (fdie fd) 0 = false → ((s.vfnUp fd).field fd).fbist = !s.flag F.FBIST_FBREC_VALID (fdie fd) 0 ∧
      ((s.vfnUp fd).field fd).loadPending = s.flag F.FBIST_FBREC_VALID (fdie fd) 0) := by
  unfold State.vfnUp
  dsimp only
  rw [State.field_setField, if_pos rfl]
  refine ⟨rfl, rfl, fun h => ?_⟩
  have hrec := s.get_resetField_kept (fd := fd) (keep := [.FBIST_FBREC]) (ends := false) (G := F.FBIST_FBREC_VALID) (by decide)
    (by rw [h]; rfl) (fdie fd) 0
  rw [State.flag, hrec]
  exact ⟨rfl, rfl⟩

theorem State.vfnDown_field (s : State) (fd : Nat) : ((s.vfnDown fd).field fd).power = false := by
  unfold State.vfnDown
  dsimp only
  rw [State.field_setField, if_pos rfl]
  rfl

theorem State.frst_field (s : State) (fd : Nat) : ((s.frst fd).field fd).fbist = true := by
  unfold State.frst
  dsimp only
  rw [State.field_setField, if_pos rfl]

/-- Settles O13. -/
theorem fieldSupplyRowsSetTheDie : Obligations.FieldSupplyRowsSetTheDie := by
  intro s m fd hfd keeps ok
  have hkeeps {c : Instr} (hc : c.promise = ⟨true, true, true, true, true⟩) {t : State} (h : exec c s = .next t) : keeps t := by
    have hk := exec_keeps c h
    rw [hc] at hk
    exact ⟨hk.mem rfl, hk.flash rfl, hk.otp rfl, hk.tick rfl, hk.image rfl⟩
  refine ⟨fun hp => ?up, fun hp => ?loss, fun hp hv => ?out, fun hp hv => ?back, fun hw hf => ?reset, fun hw hf => ?noReset⟩
  case up =>
    have h : exec (.vfnPowerUp fd) s = .next (s.vfnUp fd) := State.answer_of hfd (by rw [hp]; rfl)
    obtain ⟨hpower, hsafe, hrec⟩ := s.vfnUp_field fd
    exact ⟨_, h, hpower, hsafe, hrec, by simp only [ok]; rw [State.vfok_eq, hsafe]; simp, hkeeps rfl h⟩
  case loss =>
    have h : exec (.vfnPowerLoss fd) s = .next (s.vfnDown fd) := State.answer_of hfd hp
    have hpower := s.vfnDown_field fd
    exact ⟨_, h, hpower, (s.stopDie fd).fbrec_resetField fd false, by simp only [ok]; rw [State.vfok_eq, hpower]; simp, hkeeps rfl h⟩
  case out =>
    have h : exec (.vfnOutOfRange fd) s = .next (s.vfnOut fd) := State.answer_of hfd (by rw [hp, hv]; rfl)
    have hsafe : ((s.vfnOut fd).field fd).vfSafe = true := by rw [State.vfnOut_field]
    exact ⟨_, h, hsafe, s.vfnOut_vftrip fd, by simp only [ok]; rw [State.vfok_eq, hsafe]; simp, fun k hk => State.get_termsOff _ hk,
      s.vfnOut_frame fd⟩
  case back =>
    have h : exec (.vfnRecovered fd) s = .next (s.vfnBack fd) := State.answer_of hfd (by rw [hp, hv]; rfl)
    have hframe := s.vfnBack_frame fd
    refine ⟨_, h, by rw [State.vfnBack_field], fun hf => ?_, hframe⟩
    have hfenced := hframe.same (State.fenced · U.field (fdie fd) 0) fun _ _ => rfl
    simp only [ok]
    rw [State.vfok_eq, hfenced, hf, State.vfnBack_field, hp]
    rfl
  case reset =>
    have h : exec (.fieldDieReset m fd) s = .next ((s.frst fd).respond false) := by
      refine State.answer_of (t := s.asWrite .FSYS_FRST (fdie fd) 0 m m.isSv true _) hfd rfl |>.trans ?_
      rw [asWrite_admitted hw, hf]
      rfl
    refine ⟨_, h, s.frst_field fd, ?_, hkeeps rfl h⟩
    exact s.get_resetField_kept (by decide) rfl (fdie fd) 0
  case noReset =>
    refine State.answer_of (t := s.asWrite .FSYS_FRST (fdie fd) 0 m m.isSv true _) hfd rfl |>.trans ?_
    rw [asWrite_admitted hw, hf]
    rfl

end Sys2Proof.Machine
end

section
/-! SUPPORT. The fence of a field die (R62, R75, R84, R170, R348): its terminals go off and its instances stop. -/

namespace Sys2Proof.Machine

/-- What a conditional step leaves of a part of the state. -/
theorem State.on_apply {β : Type} (g : State → β) (c : Bool) (op : State → State) (s : State) :
    g (s.on c op) = if c then g (op s) else g s := by
  cases c <;> rfl

/-! ### Registers that may change -/

/-- Going from `s` to `t` changes no field of a register that is not listed. -/
def RegsWithin (rs : List Reg) (s t : State) : Prop := ∀ (G : Fld) (d i : Nat), G.reg ∉ rs → t.get G d i = s.get G d i

namespace RegsWithin

variable {rs qs : List Reg} {s t u : State}

theorem refl (rs : List Reg) (s : State) : RegsWithin rs s s := fun _ _ _ _ => rfl

theorem trans (h : RegsWithin rs s t) (k : RegsWithin rs t u) : RegsWithin rs s u := fun G d i hG => (k G d i hG).trans (h G d i hG)

/-- As `trans`, the last step first: read off from a term, it names the steps between. -/
theorem after (k : RegsWithin rs t u) (h : RegsWithin rs s t) : RegsWithin rs s u := h.trans k

theorem wider (h : RegsWithin rs s t) (hr : ∀ r ∈ rs, r ∈ qs) : RegsWithin qs s t := fun G d i hG => h G d i fun hr' => hG (hr _ hr')

theorem each {α : Type} {xs : List α} {op : State → α → State} (hop : ∀ s, ∀ x ∈ xs, RegsWithin rs s (op s x)) (s : State) :
    RegsWithin rs s (s.each xs op) :=
  fun G d i hG => State.each_same (fun s => s.get G d i) (fun s x hx => hop s x hx G d i hG) s

theorem on {c : Bool} {op : State → State} (hop : RegsWithin rs s (op s)) : RegsWithin rs s (s.on c op) :=
  fun G d i hG => State.on_same (fun s => s.get G d i) (hop G d i hG)

theorem put (s : State) (F : Fld) (d i v : Nat) (h : F.reg ∈ rs) : RegsWithin rs s (s.put F d i v) :=
  fun G e j hG => State.get_put_key s F G d i v e j fun hk => hG ((Fld.key_eq.1 hk).1 ▸ h)

theorem ofRegs (rs : List Reg) (h : t.regs = s.regs) : RegsWithin rs s t :=
  fun G d i _ => congrArg (fun r => Store.get (fun _ => G.resetAt d i) r (G.key d i)) h

end RegsWithin

theorem Change.regsWithin {f : Frame} {l : List (Fld × Nat × Nat)} {s t : State} (h : Change f l s t) {rs : List Reg}
    (hl : ∀ x ∈ l, x.1.reg ∈ rs) : RegsWithin rs s t :=
  fun G d i hG => h.fields G d i fun x hx hk => hG ((Fld.key_eq.1 hk).1 ▸ hl x hx)

theorem State.onFence_unit_regs (s : State) (kind die idx : Nat) : RegsWithin (unitRegs kind) s (s.onFence (unitRegs kind) die idx) :=
  fun _ _ _ hG => s.get_onFence_other fun r hr F hF hk =>
    hG (((Fld.key_eq.1 hk).1.trans (fencedRegs_fields r (unitRegs_mem_fencedRegs kind r hr) F hF).1) ▸ hr)

/-- What the fence of a field die may change. -/
def Frame.fieldFence : Frame :=
  ⟨fun s t => { s with regs := t.regs, fields := t.fields, terms := t.terms, fences := t.fences, flog := t.flog, sv := t.sv, jobs := t.jobs,
                       prpg := t.prpg, freeCtr := t.freeCtr, soak := t.soak, capIn := t.capIn, xferC := t.xferC },
    fun _ => rfl, fun _ _ _ => rfl⟩

/-- What stopping a field die may change: as its fence, but no fence and no log. -/
def Frame.fieldStop : Frame :=
  ⟨fun s t => { s with regs := t.regs, fields := t.fields, terms := t.terms, sv := t.sv, jobs := t.jobs,
                       prpg := t.prpg, freeCtr := t.freeCtr, soak := t.soak, capIn := t.capIn, xferC := t.xferC },
    fun _ => rfl, fun _ _ _ => rfl⟩

namespace State

variable (s : State)

theorem logFence_frame (die kind idx reason : Nat) : Frame.fieldFence.Holds s (s.logFence die kind idx reason) := by
  unfold State.logFence
  refine Frame.Holds.trans (t := { s with flog := _ }) ?_ (Frame.on fun _ => ?_) <;> rfl

theorem fenceOn_frame (kind die idx reason : Nat) : Frame.fieldFence.Holds s (s.fenceOn kind die idx reason) := rfl

theorem raise_frame (kind die idx reason : Nat) : Frame.fieldFence.Holds s (s.raise kind die idx reason) := by
  unfold State.raise
  refine Frame.Holds.trans (Frame.on fun _ => ?_) (State.bistFence_change _ _ _ _).frame.wider
  exact ((s.fenceOn_frame kind die idx reason).trans (logFence_frame _ _ _ _ _)).trans (State.onFence_regs _ _ _ _).wider

theorem dropSoak_frame (fstatus result : Nat) : Frame.fieldStop.Holds s (s.dropSoak fstatus result) := by
  unfold State.dropSoak
  split
  · exact Frame.refl _ _
  · refine Frame.Holds.trans (t := { s with soak := none }) rfl (Frame.Holds.trans ?_ (Frame.on fun _ => ?_))
    · exact (State.endJob_change _ _ _ _ _ []).frame.wider
    · rfl

theorem soakField_frame (fd : Nat) : Frame.fieldStop.Holds s (s.soakField fd) := by
  unfold State.soakField
  split
  · exact Frame.on fun _ => s.dropSoak_frame _ _
  · exact Frame.refl _ _

theorem gateClosed_frame : Frame.fieldStop.Holds s s.gateClosed := by
  have h : Frame.fieldStop.Holds s { s with xferC := Transfer.zero } := rfl
  unfold State.gateClosed
  dsimp only
  split
  · exact Frame.ite (fun _ => h.trans (State.dropSoak_frame _ _ _)) fun _ => h
  · exact h

theorem gateFell_frame (die : Nat) : Frame.fieldStop.Holds s (s.gateFell die) := by
  unfold State.gateFell
  refine Frame.Holds.trans (Frame.on fun _ => ?_) (Frame.on fun _ => State.gateClosed_frame _)
  rfl

theorem idleTimer_frame {die : Nat} (h : 2 ≤ die) (n : Nat) : Frame.fieldStop.Holds s (s.idleTimer die n) := by
  unfold State.idleTimer
  dsimp only
  rw [decide_eq_false (by omega), Bool.false_and, State.on_false]
  exact (State.onFence_regs _ _ _ _).wider.trans rfl

theorem revokeFieldOn_frame (fd code : Nat) : Frame.fieldStop.Holds s (s.revokeFieldOn fd code) := by
  unfold State.revokeFieldOn
  exact Frame.each (fun s n _ => s.idleTimer_frame (by simp [fdie]) n) s

theorem fenceInst_frame (die iid reason : Nat) : Frame.fieldFence.Holds s (s.fenceInst die iid reason) := by
  unfold State.fenceInst
  refine (Frame.Holds.trans (Frame.on fun _ => State.logFence_frame _ _ _ _ _) (Frame.on fun _ => ?_)).trans (Frame.on fun _ => ?_) <;> rfl

theorem cutFbist_frame (fd : Nat) : Frame.fieldStop.Holds s (s.cutFbist fd) := by
  unfold State.cutFbist
  refine Frame.on fun _ => ?_
  rfl


/-! ### The fence of a field die, stage by stage -/

/-- The die fenced with its reason, its soak dropped and its gate closed. -/
def dieFenced (fd reason : Nat) : State :=
  (((s.raise U.field (fdie fd) 0 reason).soakField fd).put F.FSYS_FFSTAT_REASON (fdie fd) 0 reason).on
    (s.gate (fdie fd))
    fun s => s.gateFell (fdie fd)

/-- The terminals off, the timers of its engines idle and the cells' bits 0. -/
def dieStopped (fd : Nat) : State :=
  (((s.termsOff fd).revokeFieldOn fd 2).revokeFieldOn fd 3).each (List.range 144) fun s c => s.put F.HC_HSTAT_DBITS (fdie fd) c 0

/-- The instances of the die that channel H does not hold fenced. -/
def dieInsts (fd : Nat) : List InstRec := s.image.img.insts.filter fun r => r.fdie == fd && !s.instFencedH r.iid

/-- The die's instances fenced. -/
def instsStopped (fd : Nat) : State :=
  (s.setField fd { s.field fd with viaDie := (s.dieInsts fd).map InstRec.iid }).each (s.dieInsts fd)
    fun s r => s.fenceInst (fdie fd) r.iid 0x09

theorem fenceField_eq (fd reason : Nat) : s.fenceField fd reason =
    (s.cutFbist fd).on (!s.fenced U.field (fdie fd) 0) fun s => ((s.dieFenced fd reason).dieStopped fd).instsStopped fd := by
  unfold State.fenceField dieFenced dieStopped instsStopped dieInsts
  dsimp only

theorem soakPut_frame (fd reason : Nat) : Frame.fieldStop.Holds s ((s.soakField fd).put F.FSYS_FFSTAT_REASON (fdie fd) 0 reason) :=
  (s.soakField_frame fd).trans (Frame.put _ _ _ _ _).wider

theorem dieFenced_frame (fd reason : Nat) : Frame.fieldStop.Holds (s.raise U.field (fdie fd) 0 reason) (s.dieFenced fd reason) :=
  (State.soakPut_frame _ _ _).trans (Frame.on fun _ => State.gateFell_frame _ _)

theorem dieStopped_frame (fd : Nat) : Frame.fieldStop.Holds s (s.dieStopped fd) :=
  (((s.termsOff_frame fd).wider.trans (State.revokeFieldOn_frame _ _ _)).trans (State.revokeFieldOn_frame _ _ _)).trans
    (Frame.each (fun s c _ => (Frame.put s _ _ _ _).wider) _)

theorem viaDie_frame (fd : Nat) (l : List Nat) : Frame.fieldStop.Holds s (s.setField fd { s.field fd with viaDie := l }) := rfl

theorem instsStopped_frame (fd : Nat) : Frame.fieldFence.Holds s (s.instsStopped fd) :=
  (s.viaDie_frame fd _).wider.trans (Frame.each (fun s r _ => s.fenceInst_frame _ _ _) _)

theorem fenceField_frame (fd reason : Nat) : Frame.fieldFence.Holds s (s.fenceField fd reason) := by
  rw [State.fenceField_eq]
  exact (s.cutFbist_frame fd).wider.trans (Frame.on fun _ =>
    (((State.raise_frame _ _ _ _ _).trans (State.dieFenced_frame _ _ _).wider).trans (State.dieStopped_frame _ _).wider).trans
      (State.instsStopped_frame _ _))

/-! ### The registers -/

/-- Beside the fence itself a field die's fence changes only the timers, cells and the marks of a soak or a test that ends. -/
def fieldStopRegs : List Reg :=
  [.FENCE_FSTAT, .FSYS_FFSTAT, .LANE_LCTL, .LBIST_REC, .LBIST_STAT, .LBIST_MISR0, .LBIST_MISR1, .LBIST_PDONE, .SYSCTL_SEAL, .FSYS_SEAL, .HC_HSTAT] ++
    unitRegs U.ftimer

theorem endJob_fieldStop (ld e fstatus result : Nat) : RegsWithin fieldStopRegs s (s.endJob ld e fstatus result) :=
  (s.endJob_change ld e fstatus result []).regsWithin (by simp)

theorem dropSoak_fieldStop (fstatus result : Nat) : RegsWithin fieldStopRegs s (s.dropSoak fstatus result) := by
  unfold State.dropSoak
  split
  · exact .refl _ _
  · refine (RegsWithin.trans ?_ (State.endJob_fieldStop _ _ _ _ _)).trans (.on (.trans (.put _ _ _ _ _ ?_) (.put _ _ _ _ _ ?_)))
    · exact .ofRegs _ rfl
    all_goals decide

theorem soakField_fieldStop (fd : Nat) : RegsWithin fieldStopRegs s (s.soakField fd) := by
  unfold State.soakField
  split
  · exact .on (s.dropSoak_fieldStop _ _)
  · exact .refl _ _

theorem gateClosed_fieldStop : RegsWithin fieldStopRegs s s.gateClosed := by
  unfold State.gateClosed
  dsimp only
  split
  · split
    · exact (RegsWithin.ofRegs _ rfl).trans (State.dropSoak_fieldStop _ _ _)
    · exact .ofRegs _ rfl
  · exact .ofRegs _ rfl

theorem gateFell_fieldStop (die : Nat) : RegsWithin fieldStopRegs s (s.gateFell die) := by
  refine .trans (.on (.put _ _ _ _ _ ?_)) (.on (State.gateClosed_fieldStop _))
  unfold sealFld
  split <;> decide

theorem dieFenced_fieldStop (fd reason : Nat) :
    RegsWithin fieldStopRegs (s.raise U.field (fdie fd) 0 reason) (s.dieFenced fd reason) :=
  ((State.soakField_fieldStop _ _).trans (.put _ _ _ _ _ (by decide))).trans (.on (State.gateFell_fieldStop _ _))

theorem idleTimer_fieldStop {die : Nat} (h : 2 ≤ die) (n : Nat) : RegsWithin fieldStopRegs s (s.idleTimer die n) := by
  unfold State.idleTimer
  dsimp only
  rw [decide_eq_false (by omega), Bool.false_and, State.on_false]
  exact ((s.onFence_unit_regs _ _ _).trans (.ofRegs _ rfl)).wider (by rw [if_neg (by omega)]; decide)

theorem revokeFieldOn_fieldStop (fd code : Nat) : RegsWithin fieldStopRegs s (s.revokeFieldOn fd code) :=
  .each (fun s n _ => s.idleTimer_fieldStop (by simp [fdie]) n) s

theorem fenceOn_fieldStop (kind die idx reason : Nat) : RegsWithin fieldStopRegs s (s.fenceOn kind die idx reason) := .ofRegs _ rfl

theorem logFence_fieldStop (die kind idx reason : Nat) : RegsWithin fieldStopRegs s (s.logFence die kind idx reason) := by
  unfold State.logFence
  refine RegsWithin.trans ?_ (.on (.put _ _ _ _ _ ?_))
  · exact .ofRegs _ rfl
  · decide

theorem fenceInst_fieldStop (die iid reason : Nat) : RegsWithin fieldStopRegs s (s.fenceInst die iid reason) := by
  unfold State.fenceInst
  exact .after (.on (State.fenceOn_fieldStop _ _ _ _ _))
    (.after (.on (State.fenceOn_fieldStop _ _ _ _ _)) (.on (State.logFence_fieldStop _ _ _ _ _)))

theorem instsStopped_fieldStop (fd : Nat) : RegsWithin fieldStopRegs s (s.instsStopped fd) :=
  (RegsWithin.ofRegs _ rfl).trans (.each (fun s _ _ => s.fenceInst_fieldStop _ _ _) _)

theorem switchOff_regs (fd t : Nat) : RegsWithin [.TERM_HSTAT] s (s.switchOff fd t) := by
  unfold State.switchOff
  exact .after (t := (s.put F.TERM_HSTAT_PENA (fdie fd) t 0).put F.TERM_HSTAT_HENA (fdie fd) t 0) (.ofRegs _ rfl)
    (.after (.put _ _ _ _ _ (by decide)) (.put _ _ _ _ _ (by decide)))

theorem termsOff_regs (fd : Nat) : RegsWithin [.TERM_HSTAT] s (s.termsOff fd) := .each (fun s _ _ => s.switchOff_regs _ _) s

/-- From the terminals off on, only those registers change. -/
theorem termsOff_dieStopped (fd : Nat) : RegsWithin fieldStopRegs (s.termsOff fd) (s.dieStopped fd) :=
  ((State.revokeFieldOn_fieldStop _ _ _).trans (State.revokeFieldOn_fieldStop _ _ _)).trans
    (.each (fun _ _ _ => .put _ _ _ _ _ (by decide)) _)

theorem get_fenceField_on {fd reason : Nat} (h : s.fenced U.field (fdie fd) 0 = false) {k : Nat} (hk : k < 64) :
    (s.fenceField fd reason).get F.TERM_HSTAT_PENA (fdie fd) k = 0 ∧ (s.fenceField fd reason).get F.TERM_HSTAT_HENA (fdie fd) k = 0 := by
  have hf : (s.cutFbist fd).fenced U.field (fdie fd) 0 = false :=
    ((s.cutFbist_frame fd).same (State.fenced · U.field (fdie fd) 0)).trans h
  rw [State.fenceField_eq, h, Bool.not_false, State.on_true]
  have hrest := (((s.cutFbist fd).dieFenced fd reason).termsOff_dieStopped fd).trans (State.instsStopped_fieldStop _ fd)
  have hoff := State.get_termsOff ((s.cutFbist fd).dieFenced fd reason) (fd := fd) hk
  exact ⟨(hrest _ _ _ (by decide)).trans hoff.1, (hrest _ _ _ (by decide)).trans hoff.2⟩

/-! ### The fences -/

theorem fence_fenceInst (die iid reason : Nat) {k : Nat} (hk : k ≠ U.inst) (d i : Nat) :
    (s.fenceInst die iid reason).fence k d i = s.fence k d i := by
  have hon (t : State) (c : Bool) (ch : Nat) : (t.on c fun s => s.fenceOn U.inst ch iid reason).fence k d i = t.fence k d i :=
    State.on_same (fun s => s.fence k d i) (by rw [State.fenceOn_eq, State.fence_setFence, if_neg (fun h => hk h.1)])
  unfold State.fenceInst
  dsimp only
  rw [hon, hon]
  exact State.on_same (fun s => s.fence k d i) (State.fence_congr (s.logFence_fences _ _ _ _) _ _ _)

theorem fenced_fenceOn (kind die idx reason k d i : Nat) : (s.fenceOn kind die idx reason).fenced k d i =
    (decide (k = kind ∧ d = die ∧ i = idx) || s.fenced k d i) := by
  rw [State.fenced, State.fenceOn_eq, State.fence_setFence]
  split <;> simp_all [State.raisedFence, State.fenced]

/-- Fencing one of the instances fences it on channel H, and takes no fence away from the others. -/
theorem instFencedH_fenceInst (die iid reason : Nat) : (s.fenceInst die iid reason).instFencedH iid = true ∧
    ∀ j, s.instFencedH j = true → (s.fenceInst die iid reason).instFencedH j = true := by
  have hlog (j : Nat) : (s.on (!(s.instFencedP iid && s.instFencedH iid)) fun s => s.logFence die U.inst iid reason).instFencedH j =
      s.instFencedH j :=
    State.on_same (fun s => s.instFencedH j) (congrArg Fence.on (State.fence_congr (s.logFence_fences _ _ _ _) _ _ _))
  have hP (t : State) (c : Bool) (j : Nat) : (t.on c fun s => s.fenceOn U.inst 0 iid reason).instFencedH j = t.instFencedH j :=
    State.on_same (fun s => s.instFencedH j) (by rw [State.instFencedH, State.fenced_fenceOn]; simp [State.instFencedH])
  unfold State.fenceInst
  dsimp only
  constructor
  · rw [State.on_apply (State.instFencedH · iid)]
    split
    · rw [State.instFencedH, State.fenced_fenceOn]; simp
    · next h => rw [hP, hlog]; simpa using h
  · intro j hj
    rw [State.on_apply (State.instFencedH · j)]
    split
    · rw [State.instFencedH, State.fenced_fenceOn, ← State.instFencedH, hP, hlog, hj, Bool.or_true]
    · rw [hP, hlog, hj]

theorem fence_instsStopped (fd : Nat) {k : Nat} (hk : k ≠ U.inst) (d i : Nat) :
    (s.instsStopped fd).fence k d i = s.fence k d i := by
  unfold State.instsStopped
  refine (State.each_same (fun s => s.fence k d i) (fun s r _ => s.fence_fenceInst _ _ _ hk d i) _).trans ?_
  exact (s.viaDie_frame fd _).same (fun s => s.fence k d i)

/-- All instances of the die are fenced on channel H once they are stopped. -/
theorem instFencedH_instsStopped {fd : Nat} {r : InstRec} (hr : r ∈ s.image.img.insts) (hd : r.fdie = fd) :
    (s.instsStopped fd).instFencedH r.iid = true := by
  unfold State.instsStopped
  have hvia : (s.setField fd { s.field fd with viaDie := (s.dieInsts fd).map InstRec.iid }).instFencedH r.iid = s.instFencedH r.iid :=
    (s.viaDie_frame fd _).same (State.instFencedH · r.iid)
  by_cases hf : s.instFencedH r.iid = true
  · generalize s.setField fd _ = u at hvia ⊢
    rw [hf] at hvia
    induction s.dieInsts fd generalizing u with
    | nil => exact hvia
    | cons x xs ih => exact ih _ ((u.instFencedH_fenceInst _ _ _).2 _ hvia)
  · refine State.each_sets (P := fun s => s.instFencedH r.iid = true) (x := r) ?_ (fun s => (s.instFencedH_fenceInst _ _ _).1)
      (fun s y => (s.instFencedH_fenceInst _ _ _).2 _) _
    exact List.mem_filter.2 ⟨hr, by simp [hd, hf]⟩

theorem fence_fenceField {fd : Nat} (h : s.fenced U.field (fdie fd) 0 = false) (reason : Nat) :
    ((s.fenceField fd reason).fence U.field (fdie fd) 0).on = true ∧
      ((s.fenceField fd reason).fence U.field (fdie fd) 0).reason = reason := by
  have hf : (s.cutFbist fd).fenced U.field (fdie fd) 0 = false :=
    ((s.cutFbist_frame fd).same (State.fenced · U.field (fdie fd) 0)).trans h
  rw [State.fenceField_eq, h, Bool.not_false, State.on_true, State.fence_instsStopped _ _ (by decide),
    (State.dieStopped_frame _ fd).same (State.fence · U.field (fdie fd) 0),
    (State.dieFenced_frame _ fd reason).same (State.fence · U.field (fdie fd) 0), State.fence_raise, if_pos ⟨rfl, rfl, rfl, hf⟩]
  exact ⟨rfl, rfl⟩

theorem instFencedH_fenceField {fd : Nat} (h : s.fenced U.field (fdie fd) 0 = false) (reason : Nat) {r : InstRec}
    (hr : r ∈ s.image.img.insts) (hd : r.fdie = fd) : (s.fenceField fd reason).instFencedH r.iid = true := by
  rw [State.fenceField_eq, h, Bool.not_false, State.on_true]
  refine State.instFencedH_instsStopped _ ?_ hd
  rwa [(State.dieStopped_frame _ fd).same State.image, (State.dieFenced_frame _ fd reason).same State.image,
    (State.raise_frame _ _ _ _ _).same State.image, (s.cutFbist_frame fd).same State.image]

theorem cutFbist_regs (fd : Nat) : RegsWithin [.FBIST_FBSTAT] s (s.cutFbist fd) := by
  unfold State.cutFbist
  refine .on (.after (t := (s.put F.FBIST_FBSTAT_TOKEN (fdie fd) 0 0).put F.FBIST_FBSTAT_RESULT (fdie fd) 0 3) (.ofRegs _ rfl) 
    (.after (.put _ _ _ _ _ ?_) (.put _ _ _ _ _ ?_))) <;> decide

/-- The fence of a field die leaves what its own registers hold over a fence. -/
theorem get_fenceField_held {fd : Nat} (h : s.fenced U.field (fdie fd) 0 = false) (reason : Nat) {G : Fld} (hr : G.reg = .FSYS_FPWR)
    (hG : G ∈ G.reg.fields) (hf : G.fen = .hold) : (s.fenceField fd reason).get G (fdie fd) 0 = s.get G (fdie fd) 0 := by
  have hcut : (s.cutFbist fd).fenced U.field (fdie fd) 0 = false :=
    ((s.cutFbist_frame fd).same (State.fenced · U.field (fdie fd) 0)).trans h
  have hu : G.reg ∈ unitRegs U.field := by rw [hr]; decide
  have hn : G.reg ∉ State.fieldStopRegs := by rw [hr]; decide
  rw [State.fenceField_eq, h, Bool.not_false, State.on_true, State.instsStopped_fieldStop _ _ _ _ _ hn,
    State.termsOff_dieStopped _ _ _ _ _ hn, State.termsOff_regs _ _ _ _ _ (by rw [hr]; decide), State.dieFenced_fieldStop _ _ _ _ _ _ hn,
    State.raise_of_not_fenced hcut, State.get_bistFence_unit _ hu hG, State.get_onFence _ hu hG, State.get_logFence_unit _ hu hG]
  simp only [Fld.onFenceVal, hf]
  exact s.cutFbist_regs fd _ _ _ (by rw [hr]; decide)

end State

/-- Settles O14. -/
theorem aFaultOfAFieldDieFencesIt : Obligations.AFaultOfAFieldDieFencesIt := by
  intro s fd c reason hfd hp hf hc
  obtain ⟨s0, hx, hfences, himage, hrings, hh, ha, hpromise⟩ : ∃ s0 : State, exec c s = .next (s0.fenceField fd reason) ∧
      s0.fences = s.fences ∧ s0.image = s.image ∧ s0.rings = s.rings ∧
      (c = .hclkStopped fd → s0.get F.FSYS_FPWR_HCLKSTOP (fdie fd) 0 = 1) ∧
      (c = .faonFailure fd → s0.get F.FSYS_FPWR_FAONFAIL (fdie fd) 0 = 1) ∧ c.promise = ⟨true, true, true, true, true⟩ := by
    rcases hc with ⟨rfl | rfl, rfl⟩ | ⟨⟨n, hn, rfl | ⟨h2, rfl⟩⟩, rfl⟩
    · exact ⟨s.put F.FSYS_FPWR_HCLKSTOP (fdie fd) 0 1, State.answer_of hfd hp, rfl, rfl, rfl, by simp, by simp, rfl⟩
    · exact ⟨s.put F.FSYS_FPWR_FAONFAIL (fdie fd) 0 1, State.answer_of hfd hp, rfl, rfl, rfl, by simp, by simp, rfl⟩
    · exact ⟨s, (State.answer_of hfd (by simp [hn, hp])).trans (by simp [State.groundFault]), rfl, rfl, rfl, by simp, by simp, rfl⟩
    · exact ⟨s, (State.answer_of hfd (by simp [hn, hp])).trans (by simp [State.groundFault, h2]), rfl, rfl, rfl, by simp, by simp, rfl⟩
  have hk := exec_keeps c hx
  rw [hpromise] at hk
  have hf0 : s0.fenced U.field (fdie fd) 0 = false := by rw [State.fenced, State.fence_congr hfences]; exact hf
  obtain ⟨hon, hreason⟩ := s0.fence_fenceField hf0 reason
  refine ⟨_, hx, hon, hreason, fun k hk => s0.get_fenceField_on hf0 hk,
    fun r hr hd => s0.instFencedH_fenceField hf0 reason (himage ▸ hr) hd, fun h => ?_, fun h => ?_,
    hk.mem rfl, hk.flash rfl, hk.otp rfl, hk.tick rfl, ((s0.fenceField_frame fd reason).same State.rings).trans hrings, hk.image rfl⟩
  · exact (s0.get_fenceField_held hf0 reason rfl (by decide) rfl).trans (hh h)
  · exact (s0.get_fenceField_held hf0 reason rfl (by decide) rfl).trans (ha h)

end Sys2Proof.Machine
end

section
/-! SUPPORT. The tick edge and its number (R188 to R193, R203, R440). -/

namespace Sys2Proof.Machine

/-- What a tick edge leaves alone beside the running image. -/
def edgePromise : Promise := ⟨true, true, true, true, false⟩

/-- An edge leaves the LPLL of every logic die on and locked. -/
def State.LpllUp (s : State) : Prop :=
  ∀ ld, s.hasLd ld = true → s.get F.CLKPWR_CLKSTAT_LPLLON ld 0 = 1 ∧ s.get F.CLKPWR_CLKSTAT_LPLLLK ld 0 = 1

theorem State.lpllUp_lpllUp (s : State) : s.lpllUp.LpllUp := by
  intro ld hld
  have hmem : ld ∈ s.lds := hasLd_iff.1 (by rwa [State.hasLd, ← (State.lpllUp_keeps (.refl (k := edgePromise) s)).variant])
  unfold State.lpllUp
  refine State.each_sets (P := fun s => s.get F.CLKPWR_CLKSTAT_LPLLON ld 0 = 1 ∧ s.get F.CLKPWR_CLKSTAT_LPLLLK ld 0 = 1) hmem
    (fun s => ?_) (fun s d h => ?_) s
  · refine ⟨?_, ?_⟩ <;> simp [State.putB]
  · simp_all [State.putB]

theorem State.edge_lpllUp (s : State) (meas : List Meas) : (s.edge meas).LpllUp := by
  unfold State.edge
  exact State.lpllUp_lpllUp _

theorem State.edge_tick (s : State) (meas : List Meas) : (s.edge meas).tick = s.tick :=
  (State.edge_keeps (.refl (k := edgePromise) s) rfl meas).tick rfl

theorem State.tickEdge_lpllUp (s : State) (meas : List Meas) : (s.tickEdge meas).LpllUp := State.edge_lpllUp _ _

theorem State.tickEdge_tick (s : State) (meas : List Meas) : (s.tickEdge meas).tick = s.nextTick := by
  unfold State.tickEdge
  rw [State.edge_tick]
  exact State.each_same State.tick (fun s d _ => (State.sieveClose_keeps (.refl (k := edgePromise) s) d).tick rfl) _

/-- Where ring 0 does not give the tick, the next number is one more. -/
theorem State.nextTick_of_src (s : State) (h : s.get F.TICK_TSTAT_SRCNOW 0 0 ≠ 0) : s.nextTick = (s.tick + 1) % tickMod := by
  unfold State.nextTick
  rw [if_neg fun hc => h hc.1]

/-- A tick edge after changes that leave the tick, the dies and a source that is not ring 0. -/
theorem State.tickEdge_tick_of {s u : State} (meas : List Meas) (ht : u.tick = s.tick) (h : u.get F.TICK_TSTAT_SRCNOW 0 0 ≠ 0) :
    (u.tickEdge meas).tick = (s.tick + 1) % tickMod := by
  rw [State.tickEdge_tick, State.nextTick_of_src _ h, ht]

theorem State.pinEdge_tick (s : State) (dev : Int) (meas : List Meas) (h : s.get F.TICK_TSTAT_SRCNOW 0 0 = 2) :
    (s.pinEdge dev meas).tick = (s.tick + 1) % tickMod := by
  unfold State.pinEdge
  refine State.tickEdge_tick_of meas ?_ ?_
  · exact State.each_same (op := fun s ld => s.put F.TICK_TSKEW_SKEW ld 0 ((dev % 65536).toNat)) State.tick (fun _ _ _ => rfl) s
  · have hskew := State.each_same (l := s.lds) (op := fun s ld => s.put F.TICK_TSKEW_SKEW ld 0 ((dev % 65536).toNat))
      (fun s => s.get F.TICK_TSTAT_SRCNOW 0 0) (fun s d _ => State.get_put_other _ _ _ _ _ _ _ _ (by decide)) s
    refine ne_of_eq_of_ne (hskew.trans h) (by decide)

/-- What an edge that the tick unit makes notes on one die. -/
def State.pinMissed (s : State) (n ld : Nat) : State :=
  (s.count F.TICK_TSTAT_EXTMISS ld 0).on (decide (16 ≤ n)) fun s => (s.put F.TICK_TSTAT_EXTLOST ld 0 1).put F.TICK_TSTAT_SRCNOW ld 0 1

theorem State.pinMissed_src (s : State) (n ld : Nat) (h : s.get F.TICK_TSTAT_SRCNOW 0 0 ≠ 0) :
    (s.pinMissed n ld).get F.TICK_TSTAT_SRCNOW 0 0 ≠ 0 := by
  unfold State.pinMissed State.on State.count
  split
  · rw [State.get_put]
    split
    · decide
    · simpa using h
  · simpa using h

/-- An edge that the tick unit makes keeps the pin as source, or takes the internal one. -/
theorem State.madeEdge_tick (s : State) (meas : List Meas) (h : s.get F.TICK_TSTAT_SRCNOW 0 0 = 2) :
    (s.madeEdge meas).tick = (s.tick + 1) % tickMod := by
  have stays (l : List Nat) (n : Nat) (u : State) (hu : u.get F.TICK_TSTAT_SRCNOW 0 0 ≠ 0) :
      (u.each l fun s ld => s.pinMissed n ld).get F.TICK_TSTAT_SRCNOW 0 0 ≠ 0 := by
    induction l generalizing u with
    | nil => exact hu
    | cons ld l ih => exact ih _ (u.pinMissed_src n ld hu)
  unfold State.madeEdge
  refine State.tickEdge_tick_of meas ?_ ?_
  · exact State.each_same (op := fun s' ld => s'.pinMissed (s.extRun + 1) ld) State.tick (fun _ _ _ => State.on_same State.tick rfl) s
  · exact stays s.lds (s.extRun + 1) s (by rw [h]; decide)

theorem State.endLate_tick (s : State) : s.endLate.tick = s.tick := (State.endLate_keeps (.refl (k := edgePromise) s)).tick rfl

theorem State.senseStarts_tick (s : State) (fd nh : Nat) :
    ((s.each (List.range 64) fun s t => s.senseStart fd t).put F.HGLB_HTCTL_NH (fdie fd) 0 nh).tick = s.tick := by
  rw [State.put_tick]
  exact State.each_same State.tick (fun s n _ => (State.senseStart_keeps (.refl (k := edgePromise) s) fd n).tick rfl) s

theorem State.runStart_tick (s : State) (meas : List Meas) :
    (s.runStart meas).tick = if s.get F.TICK_TCFG_SRC 0 0 = 0 then (s.ring 0).turn else 0 := by
  unfold State.runStart
  dsimp only
  rw [State.edge_tick, State.endLate_tick,
    State.each_same State.tick fun s r _ => (State.startH_keeps (State.startP_keeps (.refl (k := edgePromise) s) r _) r _).tick rfl,
    State.each_same State.tick fun s fd _ => s.senseStarts_tick fd _, State.each_same State.tick fun s ld _ => by simp only [State.put_tick]]

theorem State.runStart_lpllUp (s : State) (meas : List Meas) : (s.runStart meas).LpllUp := by
  unfold State.runStart
  exact State.edge_lpllUp _ _

/-- Settles O15. -/
theorem tickEdgesNumberTheTicks : Obligations.TickEdgesNumberTheTicks := by
  intro s meas dev next rest
  have hrest {c : Instr} {t : State} (h : exec c s = .next t) (hc : c.promise = ⟨true, true, true, false, false⟩) (hl : t.LpllUp) :
      rest t := by
    have hk := exec_keeps c h
    rw [hc] at hk
    refine ⟨fun ld hld => hl ld (by rwa [State.hasLd, hk.variant]), hk.mem rfl, hk.flash rfl, hk.otp rfl⟩
  have hpin (h : s.get F.TICK_TSTAT_SRCNOW 0 0 = 2) {t : State} (ht : t.tick = (s.tick + 1) % tickMod) : next t := by
    simp only [next]
    rw [if_neg fun hc => by rw [h] at hc; exact absurd hc.1 (by decide)]
    exact ht
  refine ⟨fun hr hs => ?edge, fun hr hs hd => ?pin, fun hd => ?ignored, fun hr hs => ?made, fun hr => ?start⟩
  case edge =>
    have h : exec (.tickEdge meas) s = .next (s.tickEdge meas) := State.answer_of rfl (by simp [hr, hs])
    exact ⟨_, h, s.tickEdge_tick meas, hrest h rfl (s.tickEdge_lpllUp meas)⟩
  case pin =>
    have h : exec (.tickPinEdge dev meas) s = .next (s.pinEdge dev meas) :=
      (State.answer_of rfl rfl).trans (by rw [hr, hs, decide_eq_true hd]; rfl)
    exact ⟨_, h, hpin hs (s.pinEdge_tick dev meas hs), hrest h rfl (State.tickEdge_lpllUp _ _)⟩
  case ignored =>
    exact (State.answer_of rfl rfl).trans (by rw [decide_eq_false (by omega), Bool.and_false]; rfl)
  case made =>
    have h : exec (.tickEdgeMade meas) s = .next (s.madeEdge meas) := State.answer_of rfl (by simp [hr, hs])
    exact ⟨_, h, s.madeEdge_tick meas hs, hrest h rfl (State.tickEdge_lpllUp _ _)⟩
  case start =>
    have h : exec (.runStart meas) s = .next (s.runStart meas) := State.answer_of rfl hr
    exact ⟨_, h, s.runStart_tick meas, hrest h rfl (s.runStart_lpllUp meas)⟩

end Sys2Proof.Machine
end

section
/-! SUPPORT. The fence of a lane (R348, R355, R362, R365, R366) and scratchpad reads: what they leave alone. -/

namespace Sys2Proof.Machine

/-- A change within a frame, of the listed registers and of the fences of the listed kinds only. -/
structure Within (f : Frame) (rs : List Reg) (ks : List Nat) (s t : State) : Prop where
  frame : f.Holds s t
  regs : RegsWithin rs s t
  fences : ∀ k ∉ ks, ∀ d i, t.fence k d i = s.fence k d i

namespace Within

variable {f g : Frame} {rs qs : List Reg} {ks ls : List Nat} {s t u : State}

theorem refl (f : Frame) (rs : List Reg) (ks : List Nat) (s : State) : Within f rs ks s s :=
  ⟨f.refl s, .refl rs s, fun _ _ _ _ => rfl⟩

theorem trans (h : Within f rs ks s t) (k : Within f rs ks t u) : Within f rs ks s u :=
  ⟨h.frame.trans k.frame, h.regs.trans k.regs, fun n hn d i => (k.fences n hn d i).trans (h.fences n hn d i)⟩

/-- As `trans`, the last step first: read off from a term, it names the steps between. -/
theorem after (k : Within f rs ks t u) (h : Within f rs ks s t) : Within f rs ks s u := h.trans k

theorem wider (h : Within f rs ks s t) (hr : ∀ r ∈ rs, r ∈ qs) (hk : ∀ k ∈ ks, k ∈ ls)
    (hg : ∀ s t, g.merge s (f.merge s t) = f.merge s t := by intros; rfl) : Within g qs ls s t :=
  ⟨h.frame.wider hg, h.regs.wider hr, fun n hn => h.fences n fun hn' => hn (hk n hn')⟩

theorem each {α : Type} {xs : List α} {op : State → α → State} (hop : ∀ s, ∀ x ∈ xs, Within f rs ks s (op s x)) (s : State) :
    Within f rs ks s (s.each xs op) := by
  induction xs generalizing s with
  | nil => exact refl f rs ks s
  | cons x xs ih =>
    exact (hop s x (List.mem_cons_self ..)).trans (ih (fun s y hy => hop s y (List.mem_cons_of_mem _ hy)) _)

theorem on {c : Bool} {op : State → State} (hop : c = true → Within f rs ks s (op s)) : Within f rs ks s (s.on c op) := by
  cases c
  · exact refl f rs ks s
  · exact hop rfl

theorem ite {c : Prop} [Decidable c] (ht : c → Within f rs ks s t) (hu : ¬c → Within f rs ks s u) :
    Within f rs ks s (if c then t else u) := by
  split
  · exact ht ‹_›
  · exact hu ‹_›

theorem put (s : State) (F : Fld) (d i v : Nat) (h : F.reg ∈ rs)
    (hf : ∀ s t, f.merge s (Frame.regs.merge s t) = Frame.regs.merge s t := by intros; rfl) : Within f rs ks s (s.put F d i v) :=
  ⟨(Frame.put s F d i v).wider hf, .put s F d i v h, fun _ _ _ _ => rfl⟩

/-- A change that no register and no fence takes part in. -/
theorem ofFrame (h : f.Holds s t) (hr : t.regs = s.regs) (hf : t.fences = s.fences) : Within f rs ks s t :=
  ⟨h, .ofRegs rs hr, fun k _ d i => State.fence_congr hf k d i⟩

theorem ofRegs (h : Frame.regs.Holds s t) (hr : RegsWithin rs s t)
    (hf : ∀ s t, f.merge s (Frame.regs.merge s t) = Frame.regs.merge s t := by intros; rfl) : Within f rs ks s t :=
  ⟨h.wider hf, hr, fun _ _ _ _ => h.same (State.fence · _ _ _)⟩

theorem setFence (s : State) (k d i : Nat) (v : Fence) (h : k ∈ ks) (hf : f.Holds s (s.setFence k d i v)) :
    Within f rs ks s (s.setFence k d i v) :=
  ⟨hf, .ofRegs rs rfl, fun n hn e j => by
    rw [State.fence_setFence, if_neg]
    exact fun hc => hn (hc.1 ▸ h)⟩

theorem get (h : Within f rs ks s t) {G : Fld} (hG : G.reg ∉ rs) (d i : Nat) : t.get G d i = s.get G d i := h.regs G d i hG

end Within

/-- What the loss of a lane and an access of its core may change. -/
def Frame.loss : Frame :=
  ⟨fun s t => { s with regs := t.regs, mem := t.mem, ecc := t.ecc, fences := t.fences, flog := t.flog, soak := t.soak, jobs := t.jobs, sv := t.sv,
                       capIn := t.capIn, standby := t.standby, pinst := t.pinst, busBits := t.busBits, freeCtr := t.freeCtr, spm := t.spm,
                       results := t.results, busErr := t.busErr },
    fun _ => rfl, fun _ _ _ => rfl⟩

/-- The registers of shared units, lane assignments, scratchpads and error logs: all that the loss of a lane or an access changes. -/
def lossRegs : List Reg :=
  [.FENCE_FSTAT, .FENCE_LEASE, .FENCE_LMAP, .LBIST_REC, .LANE_LCTL, .LANE_LWCET, .SPM_MODE, .SPM_ERRLOG0, .SPM_ERRLOG1, .SPM_ECCSTAT,
    .SPM_TSTAT, .SYSCTL_ERRLOG0, .SYSCTL_ERRLOG1, .FSYS_ERRLOG0, .FSYS_ERRLOG1] ++ unitRegs U.crc ++ unitRegs U.scan ++ unitRegs U.ltimer ++
    unitRegs U.ftimer

/-- A change as the loss of a lane makes it: fences of instances only. -/
abbrev Loss : State → State → Prop := Within .loss lossRegs [U.inst]

namespace State

variable (s : State)

/-! ### Leases and timers that go back -/

theorem onFence_loss {kind : Nat} (hk : ∀ r ∈ unitRegs kind, r ∈ lossRegs) (die idx : Nat) : Loss s (s.onFence (unitRegs kind) die idx) :=
  .ofRegs (s.onFence_regs _ _ _) ((s.onFence_unit_regs kind die idx).wider hk)

theorem endJob_loss (ld e fstatus result : Nat) : Loss s (s.endJob ld e fstatus result) := by
  unfold State.endJob
  exact .on fun _ => .ofFrame rfl rfl rfl

theorem dropSoak_loss (fstatus result : Nat) : Loss s (s.dropSoak fstatus result) := by
  unfold State.dropSoak
  split
  · exact .refl _ _ _ _
  · next k _ =>
    exact .after (.on fun _ => .after (.put _ _ _ _ _ (by decide)) (.put _ _ _ _ _ (by decide)))
      (.after (State.endJob_loss _ _ _ _ _) (.ofFrame rfl rfl rfl))

theorem dropWaits_loss (ld pri : Nat) : Loss s (s.dropWaits ld pri) := .ofFrame rfl rfl rfl

theorem idleScan_loss (ld n : Nat) : Loss s (s.idleScan ld n) :=
  .after (State.dropWaits_loss _ _ _) (.after (State.onFence_loss _ (by decide) _ _) (.put _ _ _ _ _ (by decide)))

theorem idleCrc_loss (ld n : Nat) : Loss s (s.idleCrc ld n) := by
  unfold State.idleCrc
  dsimp only
  exact .after (.ofFrame rfl rfl rfl) (.after (.each (fun s j _ => s.endJob_loss _ _ _ _) _)
    (.after (State.onFence_loss _ (by decide) _ _) (.put _ _ _ _ _ (by decide))))

theorem revokeUnit_loss (ld n : Nat) : Loss s (s.revokeUnit ld n) := by
  unfold State.revokeUnit
  exact .after (.on fun _ => State.idleScan_loss _ _ _) (.on fun _ => State.idleCrc_loss _ _ _)

theorem capArm_loss (die n : Nat) (rising : Bool) : Loss s (s.capArm die n rising) := by
  unfold State.capArm
  exact .on fun _ => .ofFrame rfl rfl rfl

theorem eventEdge_loss (die n : Nat) (rising : Bool) : Loss s (s.eventEdge die n rising) := by
  unfold State.eventEdge
  exact .each (fun s m _ => s.capArm_loss _ _ _) s

theorem idleTimer_loss (die n : Nat) : Loss s (s.idleTimer die n) := by
  unfold State.idleTimer
  dsimp only
  refine .after (.on fun _ => State.eventEdge_loss _ _ _ _) (.after (.ofFrame rfl rfl rfl) (State.onFence_loss _ ?_ _ _))
  split <;> decide

theorem revoke_loss (ld code : Nat) (keepTimers : Bool) : Loss s (s.revoke ld code keepTimers) := by
  unfold State.revoke
  dsimp only
  exact .after (State.dropWaits_loss _ _ _) (.after (.put _ _ _ _ _ (by decide)) (.after (.each (fun s n _ => s.idleTimer_loss _ _) _)
    (.each (fun s n _ => s.revokeUnit_loss _ _) _)))

/-! ### What becomes of the lane's logical lanes -/

theorem logFence_loss (die kind idx reason : Nat) : Loss s (s.logFence die kind idx reason) := by
  unfold State.logFence
  exact .after (.on fun _ => .put _ _ _ _ _ (by decide)) (.ofFrame rfl rfl rfl)

theorem fenceOn_loss (ch iid reason : Nat) : Loss s (s.fenceOn U.inst ch iid reason) := .setFence _ _ _ _ _ (by decide) rfl

theorem fenceInst_loss (die iid reason : Nat) : Loss s (s.fenceInst die iid reason) := by
  unfold State.fenceInst
  exact .after (.on fun _ => State.fenceOn_loss _ _ _ _) (.after (.on fun _ => State.fenceOn_loss _ _ _ _)
    (.on fun _ => State.logFence_loss _ _ _ _ _))

theorem setInstFence_loss (ch iid : Nat) (v : Fence) : Loss s (s.setFence U.inst ch iid v) := .setFence _ _ _ _ _ (by decide) rfl

theorem movedInst_loss (iid : Nat) : Loss s (s.movedInst iid) := .after (State.setInstFence_loss _ _ _ _) (State.setInstFence_loss _ _ _ _)

theorem setReadmit_loss (iid edge : Nat) : Loss s (s.setReadmit iid edge) := by
  unfold State.setReadmit
  exact .after (.on fun _ => State.setInstFence_loss _ _ _ _) (.on fun _ => State.setInstFence_loss _ _ _ _)

theorem startLane_loss (ld l : Nat) : Loss s (s.startLane ld l) := by
  unfold State.startLane
  exact .on fun _ => .after (.put _ _ _ _ _ (by decide)) (.put _ _ _ _ _ (by decide))

theorem readmits_loss (l : List InstRec) (edge : State → Nat) :
    Loss s (s.each l fun s r => (s.movedInst r.iid).setReadmit r.iid (edge s)) :=
  .each (fun _ _ _ => .after (State.setReadmit_loss _ _ _) (State.movedInst_loss _ _)) s

theorem lmap_mem_lossRegs (n : Nat) : (fldLmap n).reg ∈ lossRegs := show Reg.FENCE_LMAP ∈ lossRegs by decide

theorem remap_loss (ld n l : Nat) : Loss s (s.remap ld n l) := by
  unfold State.remap
  dsimp only
  exact .after (State.readmits_loss _ _ fun s => s.tick + 2) (.after (State.startLane_loss _ _ _) (.after (.put _ _ _ _ _ (by decide))
    (.after (.put _ _ _ _ _ (by decide)) (.put _ _ _ _ _ (lmap_mem_lossRegs n)))))

theorem moveLogical_loss (ld n : Nat) : Loss s (s.moveLogical ld n) := by
  unfold State.moveLogical
  split
  · exact State.remap_loss _ _ _ _
  · exact .refl _ _ _ _

theorem setStby_loss (ld n : Nat) (v : Standby) : Loss s (s.setStby ld n v) := .ofFrame rfl rfl rfl

theorem setInst_loss (iid : Nat) (v : PInst) : Loss s (s.setInst iid v) := .ofFrame rfl rfl rfl

theorem setBus_loss (iid b : Nat) (v : BusBit) : Loss s (s.setBus iid b v) := .ofFrame rfl rfl rfl

theorem takeover_loss (ild n : Nat) : Loss s (s.takeover ild n) := by
  unfold State.takeover
  dsimp only
  refine .after (.each (fun s r _ => ?_) _) (State.setStby_loss _ _ _ _)
  split
  · split
    · exact .after (State.setInst_loss _ _ _) (State.movedInst_loss _ _)
    · exact .after (State.setBus_loss _ _ _ _) (.after (State.setInst_loss _ _ _) (State.movedInst_loss _ _))
  · exact .refl _ _ _ _

theorem carryAcross_loss (k : Soak) (n : Nat) : Loss s (s.carryAcross k n) := by
  unfold State.carryAcross
  dsimp only
  exact .after (State.readmits_loss _ _ fun s => s.tick + 2) (.after (State.startLane_loss _ _ _) (.after (State.setStby_loss _ _ _ _)
    (.put _ _ _ _ _ (lmap_mem_lossRegs n))))

theorem soakCarrier_loss (ld l n : Nat) : Loss s (s.soakCarrier ld l n) := by
  unfold State.soakCarrier
  split
  · next k _ =>
    split
    · have hend : Loss s ((({ s with soak := none } : State).endJob k.ld k.job stAborted 0).put F.LANE_LCTL_SOAK k.newDie k.newIdx 0) :=
        .after (.put _ _ _ _ _ (by decide)) (.after (State.endJob_loss _ _ _ _ _) (.ofFrame rfl rfl rfl))
      dsimp only
      refine hend.trans ?_
      split
      · exact State.remap_loss _ _ _ _
      · exact .after (State.moveLogical_loss _ _ _) (State.carryAcross_loss _ _ _)
    · exact State.moveLogical_loss _ _ _
  · exact State.moveLogical_loss _ _ _

theorem stopLogical_loss (ld l n : Nat) : Loss s (s.stopLogical ld l n) := by
  unfold State.stopLogical
  exact .after (State.soakCarrier_loss _ _ _ _) (.each (fun s r _ => s.fenceInst_loss _ _ _) s)

theorem loseLogical_loss (ld l n : Nat) : Loss s (s.loseLogical ld l n) := by
  unfold State.loseLogical
  split
  · split
    · exact .after (State.moveLogical_loss _ _ _) (State.takeover_loss _ _ _)
    · exact State.stopLogical_loss _ _ _ _
  · split
    · exact .after (State.moveLogical_loss _ _ _) (State.setStby_loss _ _ _ _)
    · exact .refl _ _ _ _

theorem soakLane_loss (ld l : Nat) : Loss s (s.soakLane ld l).1 := by
  unfold State.soakLane
  split
  · split
    · exact State.dropSoak_loss _ _ _
    · split
      · split
        · exact .ofFrame rfl rfl rfl
        · exact .refl _ _ _ _
      · exact .refl _ _ _ _
  · exact .refl _ _ _ _

/-- Once a lane is fenced and halted, what its fence does further is the loss of its work. -/
theorem fenceLane_loss {ld l : Nat} (h : s.fenced U.lane ld l = false) (reason : Nat) :
    Loss ((s.raise U.lane ld l reason).haltLane ld l) (s.fenceLane ld l reason) := by
  unfold State.fenceLane
  rw [h, if_neg Bool.false_ne_true]
  dsimp only
  split
  · exact .after (State.soakLane_loss _ _ _) (State.revoke_loss _ _ _ _)
  · exact .after (.each (fun s n _ => s.loseLogical_loss _ _ _) _) (.after (State.soakLane_loss _ _ _) (State.revoke_loss _ _ _ _))

/-! ### Scratchpad reads -/

theorem spmErr_loss (ld off pri kind synd : Nat) : Loss s (s.spmErr ld off pri kind synd) := by
  unfold State.spmErr
  exact .after (.put _ _ _ _ _ (by decide)) (.after (.put _ _ _ _ _ (by decide)) (.after (.put _ _ _ _ _ (by decide))
    (.after (.put _ _ _ _ _ (by decide)) (.put _ _ _ _ _ (by decide)))))

theorem count_loss (F : Fld) (h : F.reg ∈ lossRegs) (die idx : Nat) : Loss s (s.count F die idx) := .put _ _ _ _ _ h

theorem setSpm_loss (ld : Nat) (v : SpmSt) : Loss s (s.setSpm ld v) := .ofFrame rfl rfl rfl

theorem badWord_loss (ld off pri kind : Nat) : Loss s (s.badWord ld off pri kind) := by
  unfold State.badWord
  dsimp only
  exact .after (.each (fun s r _ => s.fenceInst_loss _ _ _) _) (.after (State.setSpm_loss _ _ _)
    (.after (State.count_loss _ _ (by decide) _ _) (State.spmErr_loss _ _ _ _ _ _)))

theorem correctWord_loss (ld off : Nat) : Loss s (s.correctWord ld off) :=
  .after (State.setSpm_loss _ _ _) (State.count_loss _ _ (by decide) _ _)

theorem tillerWord_loss (ld off : Nat) : Loss s (s.tillerWord ld off) := by
  unfold State.tillerWord
  refine .on fun _ => ?_
  split
  · exact .after (.ofFrame rfl rfl rfl) (State.count_loss _ _ (by decide) _ _)
  · exact State.badWord_loss _ _ _ _ _
  · exact .refl _ _ _ _

theorem tillerSave_loss (ld n : Nat) : Loss s (s.tillerSave ld n) := by
  unfold State.tillerSave
  exact .after (.each (fun s off _ => s.tillerWord_loss _ _) _) (State.setSpm_loss _ _ _)

theorem tillerAt_loss (ld c : Nat) : Loss s (s.tillerAt ld c) := by
  unfold State.tillerAt
  dsimp only
  exact .on fun _ => .after (State.tillerSave_loss _ _ _) (.after (.put _ _ _ _ _ (by decide)) (.after (.put _ _ _ _ _ (by decide))
    (State.setSpm_loss _ _ _)))

theorem tillerIdle_loss (ld : Nat) : Loss s (s.tillerIdle ld) := by
  unfold State.tillerIdle
  dsimp only
  exact .after (.put _ _ _ _ _ (by decide)) (.after (.put _ _ _ _ _ (by decide)) (State.setSpm_loss _ _ _))

theorem tillerAbort_loss (ld : Nat) : Loss s (s.tillerAbort ld) := .after (.put _ _ _ _ _ (by decide)) (State.tillerIdle_loss _ _)

theorem spend_loss : Loss s s.spend := .ofFrame rfl rfl rfl

theorem spmMeets_loss (ld pri off : Nat) : Loss s (s.spmMeets ld pri off) := by
  unfold State.spmMeets
  exact .on fun _ => .after (State.tillerAbort_loss _ _) (.after (State.spend_loss _) (State.tillerAt_loss _ _ _))

theorem readWord_loss (ld pri off : Nat) : Loss s (s.readWord ld pri off).1 := by
  unfold State.readWord
  dsimp only
  split
  · exact State.spmErr_loss _ _ _ _ _ _
  · split
    · exact State.badWord_loss _ _ _ _ _
    · exact State.correctWord_loss _ _ _
    · exact .refl _ _ _ _

theorem spmRead_loss (ld pri off : Nat) : Loss s (s.spmRead ld pri off).1 :=
  .after (State.readWord_loss _ _ _ _) (State.spmMeets_loss _ _ _ _)

theorem spmLoad_loss (ld pri off size : Nat) : Loss s (s.spmLoad ld pri off size).1 := by
  unfold State.spmLoad
  split
  · exact State.spmErr_loss _ _ _ _ _ _
  · exact State.spmRead_loss _ _ _ _

end State
end Sys2Proof.Machine
end

section
/-! SUPPORT. Mismatches of a lane (R155, R157 to R159): the fence of a lane, a discarded segment, the compare of an entry. -/

namespace Sys2Proof.Machine

namespace State

variable (s : State)

/-! ### The fence of a lane -/

/-- The registers that the fence of a lane changes at once. -/
def laneFenceRegs : List Reg :=
  [.FENCE_FSTAT, .LBIST_REC, .LBIST_STAT, .LBIST_MISR0, .LBIST_MISR1, .LBIST_PDONE, .LANE_LCTL, .LANE_LSTAT]

theorem raise_lane_regs (die idx reason : Nat) : RegsWithin laneFenceRegs s (s.raise U.lane die idx reason) := by
  unfold State.raise
  refine .after ((State.bistFence_change _ _ _ _).regsWithin (by simp [bistFields, laneFenceRegs])) (.on ?_)
  exact .after ((State.onFence_unit_regs _ _ _ _).wider (by decide)) ((RegsWithin.trans (.ofRegs _ rfl)
    (.on (.put _ _ _ _ _ (by decide)))))

theorem setByte_loss (a : Nat) (v : Byte) : Loss s (s.setByte a v) := .ofFrame rfl rfl rfl

theorem setEcc_loss (ld off : Nat) (c : WordClass) : Loss s (s.setEcc ld off c) := .ofFrame rfl rfl rfl

theorem stateWrite_loss (ld : Nat) (e : TraceEntry) : Loss s (s.stateWrite ld e) := by
  unfold State.stateWrite
  exact .on fun _ => .after (State.setEcc_loss _ _ _ _) (.each (fun s _ _ => s.setByte_loss _ _) s)

/-- Halting a lane puts it to sleep with an empty trace; beside that it is as the loss of a lane. -/
theorem haltLane_loss (ld l : Nat) : ∃ u, Loss s u ∧ s.haltLane ld l =
    u.setLane ld l { s.lane ld l with ph := .asleep, trace := [], qIdx := 0, ran := false, misNow := false } := by
  refine ⟨s.on (decide ((s.lane ld l).ph = .commit)) fun s' => (s'.each _ fun s e => s.stateWrite ld e).spend, ?_, rfl⟩
  exact .on fun _ => .after (State.spend_loss _) (.each (fun s e _ => s.stateWrite_loss _ _) _)

theorem fenceLane_lane {ld l : Nat} (h : s.fenced U.lane ld l = false) (reason : Nat) :
    ((s.fenceLane ld l reason).lane ld l).ph = .asleep ∧ ((s.fenceLane ld l reason).lane ld l).trace = [] := by
  obtain ⟨u, -, hu⟩ := (s.raise U.lane ld l reason).haltLane_loss ld l
  rw [(s.fenceLane_loss h reason).frame.same (State.lane · ld l), hu, State.lane_setLane, if_pos rfl]
  exact ⟨rfl, rfl⟩

theorem fenceLane_fence {ld l : Nat} (h : s.fenced U.lane ld l = false) (reason : Nat) :
    (s.fenceLane ld l reason).fence U.lane ld l = s.raisedFence U.lane ld l reason := by
  obtain ⟨u, hl, hu⟩ := (s.raise U.lane ld l reason).haltLane_loss ld l
  rw [(s.fenceLane_loss h reason).fences _ (by decide), hu]
  exact (hl.fences _ (by decide) _ _).trans ((s.fence_raise _ _ _ _ _ _ _).trans (if_pos ⟨rfl, rfl, rfl, h⟩))

theorem get_fenceLane {ld l : Nat} (h : s.fenced U.lane ld l = false) (reason : Nat) {G : Fld} (hG : G.reg ∉ lossRegs ++ laneFenceRegs)
    (d i : Nat) : (s.fenceLane ld l reason).get G d i = s.get G d i := by
  obtain ⟨h1, h2⟩ := not_or.1 (mt List.mem_append.2 hG)
  obtain ⟨u, hl, hu⟩ := (s.raise U.lane ld l reason).haltLane_loss ld l
  rw [(s.fenceLane_loss h reason).get h1, hu]
  exact (hl.get h1 _ _).trans (s.raise_lane_regs _ _ _ _ _ _ h2)

/-! ### A mismatch -/

@[simp] theorem fenced_put (F : Fld) (d i v kind die idx : Nat) : (s.put F d i v).fenced kind die idx = s.fenced kind die idx := rfl

@[simp] theorem fenced_setLane (ld l : Nat) (v : LaneSt) (kind die idx : Nat) : (s.setLane ld l v).fenced kind die idx = s.fenced kind die idx :=
  rfl

/-- A mismatch of a lane in service discards its segment, counts and records its kind, whether or not it fences the lane. -/
theorem mismatch_discards {ld l : Nat} (h : s.fenced U.lane ld l = false) {kind : Nat} (hk : kind < 16) (idx cyc : Nat) :
    ((s.mismatch ld l kind idx cyc).lane ld l).ph ≠ .qPass ∧ ((s.mismatch ld l kind idx cyc).lane ld l).trace = [] ∧
      (s.mismatch ld l kind idx cyc).get F.LANE_LMCNT_MISCNT ld l =
        min (s.get F.LANE_LMCNT_MISCNT ld l + 1) (2 ^ F.LANE_LMCNT_MISCNT.w - 1) ∧
      (s.mismatch ld l kind idx cyc).get F.LANE_LMINFO_KIND ld l = kind := by
  have hk' : kind % 2 ^ F.LANE_LMINFO_KIND.w = kind := Nat.mod_eq_of_lt hk
  unfold State.mismatch
  extract_lets a fits third retry s1 s2 s3 s4 s5
  have h1 : (s1.lane ld l).trace = [] ∧ s1.fenced U.lane ld l = false ∧ s1.get F.LANE_LMCNT_MISCNT ld l = s.get F.LANE_LMCNT_MISCNT ld l := by
    refine ⟨?_, h, rfl⟩
    simp only [s1, State.lane_setLane, if_true]
  clear_value s1
  have h3 : (s3.lane ld l).trace = [] ∧ s3.fenced U.lane ld l = false ∧ s3.get F.LANE_LMINFO_KIND ld l = kind ∧
      s3.get F.LANE_LMCNT_MISCNT ld l = min (s.get F.LANE_LMCNT_MISCNT ld l + 1) (2 ^ F.LANE_LMCNT_MISCNT.w - 1) := by
    refine ⟨h1.1, h1.2.1, ?_, ?_⟩
    · simpa [s3] using hk'
    · simp [s3, s2, State.count, h1]
  clear_value s3
  have h5 : (s5.lane ld l).ph = .reset ∧ (s5.lane ld l).trace = [] ∧ s5.fenced U.lane ld l = false ∧
      s5.get F.LANE_LMINFO_KIND ld l = kind ∧
      s5.get F.LANE_LMCNT_MISCNT ld l = min (s.get F.LANE_LMCNT_MISCNT ld l + 1) (2 ^ F.LANE_LMCNT_MISCNT.w - 1) := by
    simp only [s5, State.setPhase]
    clear_value retry
    cases retry <;> simp [s4, State.putB, State.count, h3]
  clear_value s5
  obtain ⟨hph, htrace, hf, hkind, hcnt⟩ := h5
  cases third
  · rw [State.on_false, hph]
    exact ⟨by decide, htrace, hcnt, hkind⟩
  · rw [State.on_true, (s5.fenceLane_lane hf 4).1, (s5.fenceLane_lane hf 4).2, s5.get_fenceLane hf 4 (by decide),
      s5.get_fenceLane hf 4 (by decide)]
    exact ⟨by decide, rfl, hcnt, hkind⟩

end State
end Sys2Proof.Machine
end

section
/-! SUPPORT. Fields of bits: how a packed word holds them, and how a Q-pass transaction is compared with its entry (R149, R150). -/

namespace Sys2Proof.Machine

/-! ### Fields of bits -/

theorem testBit_bitsOf (v lo w i : Nat) : (bitsOf v lo w).testBit i = (decide (i < w) && v.testBit (lo + i)) := by
  rw [bitsOf, Nat.testBit_mod_two_pow, Nat.testBit_shiftRight]

theorem bitsOf_xor (a b lo w : Nat) : bitsOf (a ^^^ b) lo w = bitsOf a lo w ^^^ bitsOf b lo w := by
  refine Nat.eq_of_testBit_eq fun i => ?_
  simp only [testBit_bitsOf, Nat.testBit_xor]
  cases decide (i < w) <;> simp

theorem bitsOf_and (a b lo w : Nat) : bitsOf (a &&& b) lo w = bitsOf a lo w &&& bitsOf b lo w := by
  refine Nat.eq_of_testBit_eq fun i => ?_
  simp only [testBit_bitsOf, Nat.testBit_and]
  cases decide (i < w) <;> simp

theorem bitsOf_packBits_head (v w : Nat) (l : List (Nat × Nat)) : bitsOf (packBits ((v, w) :: l)) 0 w = v % 2 ^ w := by
  simp [bitsOf, packBits]

theorem bitsOf_packBits_tail (v w : Nat) (l : List (Nat × Nat)) (lo n : Nat) :
    bitsOf (packBits ((v, w) :: l)) (w + lo) n = bitsOf (packBits l) lo n := by
  have h : (v % 2 ^ w + 2 ^ w * packBits l) >>> w = packBits l := by
    rw [Nat.shiftRight_eq_div_pow, Nat.add_mul_div_left _ _ (by positivity), Nat.div_eq_of_lt (Nat.mod_lt _ (by positivity)), Nat.zero_add]
  rw [bitsOf, packBits, Nat.shiftRight_add, h, bitsOf]

/-! ### A trace entry -/

/-- A trace entry whose fields fit their bits (R149). -/
structure TraceEntry.Fits (e : TraceEntry) : Prop where
  addr : e.addr < 2 ^ 32
  data : e.data < 2 ^ 32
  be : e.be < 16
  type : e.type < 4
  cls : e.cls < 8

theorem TraceEntry.bitsOf_bits (e : TraceEntry) (h : e.Fits) : bitsOf e.bits 0 32 = e.addr ∧ bitsOf e.bits 32 32 = e.data ∧
    bitsOf e.bits 64 4 = e.be ∧ bitsOf e.bits 68 2 = e.type ∧ bitsOf e.bits 70 3 = e.cls := by
  obtain ⟨ha, hd, hb, ht, hc⟩ := h
  refine ⟨?_, ?_, ?_, ?_, ?_⟩
  · exact (bitsOf_packBits_head _ _ _).trans (Nat.mod_eq_of_lt ha)
  · exact (bitsOf_packBits_tail _ _ _ 0 _).trans ((bitsOf_packBits_head _ _ _).trans (Nat.mod_eq_of_lt hd))
  · exact (bitsOf_packBits_tail _ _ _ 32 _).trans ((bitsOf_packBits_tail _ _ _ 0 _).trans
      ((bitsOf_packBits_head _ _ _).trans (Nat.mod_eq_of_lt hb)))
  · exact (bitsOf_packBits_tail _ _ _ 36 _).trans ((bitsOf_packBits_tail _ _ _ 4 _).trans ((bitsOf_packBits_tail _ _ _ 0 _).trans
      ((bitsOf_packBits_head _ _ _).trans (Nat.mod_eq_of_lt ht))))
  · exact (bitsOf_packBits_tail _ _ _ 38 _).trans ((bitsOf_packBits_tail _ _ _ 6 _).trans ((bitsOf_packBits_tail _ _ _ 2 _).trans
      ((bitsOf_packBits_tail _ _ _ 0 _).trans ((bitsOf_packBits_head _ _ _).trans (Nat.mod_eq_of_lt hc)))))

theorem TraceEntry.bits_lt (e : TraceEntry) : e.bits < 2 ^ 73 := by
  have h1 := Nat.mod_lt e.addr (Nat.two_pow_pos 32)
  have h2 := Nat.mod_lt e.data (Nat.two_pow_pos 32)
  have h3 := Nat.mod_lt e.be (Nat.two_pow_pos 4)
  have h4 := Nat.mod_lt e.type (Nat.two_pow_pos 2)
  have h5 := Nat.mod_lt e.cls (Nat.two_pow_pos 3)
  simp only [TraceEntry.bits, packBits]
  omega

/-- The low bits of a word do not see what stands above them. -/
theorem bitsOf_add_high {v lo w n m : Nat} (hv : v < 2 ^ n) (h : lo + w ≤ n) : bitsOf (v + 2 ^ n * m) lo w = bitsOf v lo w := by
  refine Nat.eq_of_testBit_eq fun i => ?_
  rw [testBit_bitsOf, testBit_bitsOf, Nat.add_comm, Nat.testBit_two_pow_mul_add _ hv]
  by_cases hi : i < w
  · rw [if_pos (by omega)]
  · simp [hi]

/-- An entry that nothing disturbs reads as it was stored. -/
theorem TraceEntry.readAs_zero (e : TraceEntry) (h : e.Fits) (hp : e.par < 4) : e.readAs 0 = e := by
  obtain ⟨h1, h2, h3, h4, h5⟩ := e.bitsOf_bits h
  have hlow {lo w : Nat} (hlw : lo + w ≤ 73) : bitsOf (e.bits + 2 ^ 73 * e.par) lo w = bitsOf e.bits lo w := bitsOf_add_high e.bits_lt hlw
  have hpar : bitsOf (e.bits + 2 ^ 73 * e.par) 73 2 = e.par := by
    rw [bitsOf, Nat.shiftRight_eq_div_pow, Nat.add_mul_div_left _ _ (by positivity), Nat.div_eq_of_lt e.bits_lt, Nat.zero_add,
      Nat.mod_eq_of_lt (show e.par < 2 ^ 2 from hp)]
  have hx : Nat.xor (e.bits + 2 ^ 73 * e.par) 0 = e.bits + 2 ^ 73 * e.par := Nat.xor_zero _
  simp only [TraceEntry.readAs, TraceEntry.ofBits, hx]
  rw [hlow (by decide), hlow (by decide), hlow (by decide), hlow (by decide), hlow (by decide), hpar, h1, h2, h3, h4, h5]

/-- The bits of DATA that are compared: the enabled bytes of a write or a mark (R150). -/
def dataMask (e : TraceEntry) : Nat :=
  if e.type = 0 then 0 else ((List.range 4).filter e.be.testBit).foldl (fun a k => a + 0xFF * 2 ^ (8 * k)) 0

theorem enabledBytes_testBit : ∀ be < 16, ∀ j < 32,
    (((List.range 4).filter (Nat.testBit be)).foldl (fun a k => a + 0xFF * 2 ^ (8 * k)) 0).testBit j = be.testBit (j / 8) := by
  decide

theorem bitsOf_compareMask (e : TraceEntry) : bitsOf (compareMask e) 0 32 = 2 ^ 32 - 1 ∧ bitsOf (compareMask e) 32 32 = dataMask e % 2 ^ 32 ∧
    bitsOf (compareMask e) 64 4 = 2 ^ 4 - 1 ∧ bitsOf (compareMask e) 68 2 = 2 ^ 2 - 1 ∧
    bitsOf (compareMask e) 70 3 = 2 ^ 3 - 1 := by
  refine ⟨?_, ?_, ?_, ?_, ?_⟩
  · exact bitsOf_packBits_head _ _ _
  · exact (bitsOf_packBits_tail _ _ _ 0 _).trans (bitsOf_packBits_head _ _ _)
  · exact (bitsOf_packBits_tail _ _ _ 32 _).trans (bitsOf_packBits_tail _ _ _ 0 _)
  · exact (bitsOf_packBits_tail _ _ _ 36 _).trans (bitsOf_packBits_tail _ _ _ 4 _)
  · exact (bitsOf_packBits_tail _ _ _ 38 _).trans (bitsOf_packBits_tail _ _ _ 6 _)

/-- The compared bits of DATA agree exactly where the enabled bytes do. -/
theorem dataMask_agree {e : TraceEntry} (hbe : e.be < 16) (a b : Nat) :
    (bitsOf a 0 32 ^^^ bitsOf b 0 32) &&& (dataMask e % 2 ^ 32) = 0 ↔
    (e.type ≠ 0 → ∀ k < 4, e.be.testBit k = true → bitsOf a (8 * k) 8 = bitsOf b (8 * k) 8) := by
  by_cases ht : e.type = 0
  · simp [dataMask, ht]
  have hmask : ∀ j < 32, (dataMask e).testBit j = e.be.testBit (j / 8) := by
    rw [dataMask, if_neg ht]
    exact enabledBytes_testBit e.be hbe
  have hzero : (bitsOf a 0 32 ^^^ bitsOf b 0 32) &&& (dataMask e % 2 ^ 32) = 0 ↔
      ∀ j < 32, e.be.testBit (j / 8) = true → a.testBit j = b.testBit j := by
    constructor
    · intro h j hj hb
      have hj' := congrArg (Nat.testBit · j) h
      simp only [Nat.testBit_and, Nat.testBit_xor, testBit_bitsOf, Nat.testBit_mod_two_pow, hj, hmask j hj, hb, Nat.zero_testBit, Nat.zero_add,
        decide_true, Bool.true_and, Bool.and_true] at hj'
      simpa using hj'
    · intro h
      refine Nat.eq_of_testBit_eq fun j => ?_
      by_cases hj : j < 32
      · simp only [Nat.testBit_and, Nat.testBit_xor, testBit_bitsOf, Nat.testBit_mod_two_pow, hj, hmask j hj, Nat.zero_testBit, Nat.zero_add,
          decide_true, Bool.true_and]
        cases hb : e.be.testBit (j / 8)
        · simp
        · simp [h j hj hb]
      · simp [testBit_bitsOf, hj]
  rw [hzero]
  constructor
  · intro h _ k hk hb
    refine Nat.eq_of_testBit_eq fun i => ?_
    rw [testBit_bitsOf, testBit_bitsOf]
    by_cases hi : i < 8
    · rw [h (8 * k + i) (by omega) (by rwa [show (8 * k + i) / 8 = k by omega])]
    · simp [hi]
  · intro h j hj hb
    have := congrArg (Nat.testBit · (j % 8)) (h ht (j / 8) (by omega) hb)
    simpa [testBit_bitsOf, Nat.mod_lt, show 8 * (j / 8) + j % 8 = j by omega] using this

/-- The mask that keeps every bit of a field. -/
theorem and_ones_eq_zero {x w : Nat} (h : x < 2 ^ w) : x &&& (2 ^ w - 1) = 0 ↔ x = 0 := by
  rw [Nat.and_two_pow_sub_one_eq_mod, Nat.mod_eq_of_lt h]

theorem diffKind_eq_none (d : Nat) : diffKind d = none ↔ bitsOf d 0 32 = 0 ∧ bitsOf d 32 32 = 0 ∧ bitsOf d 64 4 = 0 ∧ bitsOf d 68 2 = 0 ∧
    bitsOf d 70 3 = 0 := by
  have h0 : bitsOf d 0 32 = d % 2 ^ 32 := rfl
  unfold diffKind
  rw [← h0]
  split_ifs <;> simp_all

theorem diffKind_lt {d k : Nat} (h : diffKind d = some k) : k < 16 := by
  unfold diffKind at h
  split_ifs at h <;> simp only [Option.some.injEq] at h <;> subst h <;> decide

/-- Two entries show no difference exactly where address, enabled data, byte enables, type and class agree (R150). -/
theorem entries_agree {e q : TraceEntry} (he : e.Fits) (hq : q.Fits) : diffKind ((e.bits ^^^ q.bits) &&& compareMask e) = none ↔
    e.addr = q.addr ∧ (e.type ≠ 0 → ∀ k < 4, e.be.testBit k = true → bitsOf e.data (8 * k) 8 = bitsOf q.data (8 * k) 8) ∧
      e.be = q.be ∧ e.type = q.type ∧ e.cls = q.cls := by
  obtain ⟨e1, e2, e3, e4, e5⟩ := e.bitsOf_bits he
  obtain ⟨q1, q2, q3, q4, q5⟩ := q.bitsOf_bits hq
  obtain ⟨m1, m2, m3, m4, m5⟩ := bitsOf_compareMask e
  have hdata := dataMask_agree he.be e.data q.data
  rw [show bitsOf e.data 0 32 = e.data from Nat.mod_eq_of_lt he.data, show bitsOf q.data 0 32 = q.data from Nat.mod_eq_of_lt hq.data] at hdata
  rw [diffKind_eq_none]
  simp only [bitsOf_and, bitsOf_xor, e1, e2, e3, e4, e5, q1, q2, q3, q4, q5, m1, m2, m3, m4, m5, hdata]
  rw [and_ones_eq_zero (Nat.xor_lt_two_pow he.addr hq.addr), and_ones_eq_zero (w := 4) (Nat.xor_lt_two_pow he.be hq.be),
    and_ones_eq_zero (w := 2) (Nat.xor_lt_two_pow he.type hq.type), and_ones_eq_zero (w := 3) (Nat.xor_lt_two_pow he.cls hq.cls)]
  simp only [Nat.xor_eq_zero_iff]

/-! ### The transaction as an entry -/

theorem nat_xor (a b : Nat) : Nat.xor a b = a ^^^ b := rfl

theorem windowOff_eq_some {ld l a off : Nat} (h : windowOff ld l a = some off) : off < 0x8000 := by
  unfold windowOff at h
  extract_lets base at h
  clear_value base
  split at h
  · next hb => 
    obtain rfl := Option.some.inj h
    omega
  · cases h

/-- An address outside the window has no class LOCAL. -/
theorem classOf_outside {ld l a : Nat} (h : windowOff ld l a = none) : classOf ld l a ≠ some 0 := by
  unfold classOf
  rw [h]
  dsimp only
  rw [if_neg (by simp)]
  split_ifs
  · simp
  · simp
  · split <;> simp
  · simp
  · simp

theorem classOf_lt {ld l a c : Nat} (h : classOf ld l a = some c) : c < 8 := by
  unfold classOf at h
  dsimp only at h
  split_ifs at h
  · obtain rfl := Option.some.inj h; decide
  · obtain rfl := Option.some.inj h; decide
  · split at h
    case h_6 =>
      split at h
      · obtain rfl := Option.some.inj h; decide
      · cases h
    all_goals obtain rfl := Option.some.inj h; decide
  · obtain rfl := Option.some.inj h; decide

theorem txnClass_lt (ld l : Nat) (x : LaneTxn) : (txnClass ld l x).getD 0 < 8 := by
  unfold txnClass
  split
  · decide
  · cases h : classOf ld l x.addr with
    | none => decide
    | some c => exact classOf_lt h

theorem entryOf_fits (ld l : Nat) {x : LaneTxn} (htype : x.type < 3) (hbe : x.be < 16) (haddr : x.addr < 2 ^ 32) :
    (entryOf true ld l x).Fits := by
  have hoff : (windowOff ld l x.addr).getD x.addr < 2 ^ 32 := by
    cases h : windowOff ld l x.addr with
    | none => exact haddr
    | some off => exact lt_trans (windowOff_eq_some h) (by decide)
  refine ⟨?_, ?_, hbe, lt_trans htype (by decide), txnClass_lt ld l x⟩
  · unfold entryOf
    simp only [if_true]
    split
    · rw [nat_xor]
      exact Nat.xor_lt_two_pow hoff (by norm_num)
    · exact haddr
  · unfold entryOf
    simp only [if_true]
    split
    · norm_num
    · rw [nat_xor]
      exact Nat.xor_lt_two_pow (Nat.mod_lt _ (by norm_num)) (by norm_num)

/-- The address that the Q pass compares: a LOCAL offset is un-transformed (R150). -/
theorem entryOf_addr (ld l : Nat) {x : LaneTxn} (h : (txnClass ld l x).isSome) : (entryOf true ld l x).addr =
    if x.type = 2 then x.addr else match windowOff ld l x.addr with
      | some off => Nat.xor off 0x7FFC
      | none => x.addr := by
  unfold entryOf txnClass at *
  by_cases h2 : x.type = 2
  · simp [h2]
  · rw [if_neg h2] at h
    simp only [h2, if_false, if_true]
    cases hw : windowOff ld l x.addr with
    | none =>
      obtain ⟨c, hc⟩ := Option.isSome_iff_exists.1 h
      have hc0 : c ≠ 0 := fun h0 => classOf_outside hw (h0 ▸ hc)
      simp [hc, hc0]
    | some off => 
      have hc : classOf ld l x.addr = some 0 := by unfold classOf; simp [hw]
      simp [hc]

end Sys2Proof.Machine
end

section
/-! SUPPORT. A transaction of the Q pass against its entry (R144 to R150, R155, R158, R159). -/

namespace Sys2Proof.Machine

namespace State

variable (s : State)

/-! ### What a transaction does on the bus -/

theorem give_loss (v : List Nat) : Loss s (s.give v) := .ofFrame rfl rfl rfl

theorem giveOn_loss (c : Bool) (v : List Nat) : Loss s (s.on c fun s => s.give v) := .on fun _ => State.give_loss _ _

theorem respond_loss (b : Bool) : Loss s (s.respond b) := .ofFrame rfl rfl rfl

theorem putB_loss (F : Fld) (h : F.reg ∈ lossRegs) (die idx : Nat) (b : Bool) : Loss s (s.putB F die idx b) := .put _ _ _ _ _ h

theorem put_loss (F : Fld) (h : F.reg ∈ lossRegs) (die idx v : Nat) : Loss s (s.put F die idx v) := .put _ _ _ _ _ h

/-- The words of an error log that name the access. -/
theorem logAccess_loss {A M I K : Fld} (h : ∀ F ∈ [A, M, I, K], F.reg ∈ lossRegs) (die a m i k : Nat) :
    Loss s ((((s.put A die 0 a).put M die 0 m).put I die 0 i).put K die 0 k) := by
  refine .after (State.put_loss _ _ (h _ ?_) _ _ _) (.after (State.put_loss _ _ (h _ ?_) _ _ _)
    (.after (State.put_loss _ _ (h _ ?_) _ _ _) (State.put_loss _ _ (h _ ?_) _ _ _))) <;> simp

/-- The words of an error log that count it. -/
theorem logCount_loss {W C V : Fld} (h : ∀ F ∈ [W, C, V], F.reg ∈ lossRegs) (die : Nat) (w : Bool) :
    Loss s (((s.putB W die 0 w).count C die 0).put V die 0 1) := by
  refine .after (State.put_loss _ _ (h _ ?_) _ _ _) (.after (State.count_loss _ _ (h _ ?_) _ _) (State.putB_loss _ _ (h _ ?_) _ _ _)) <;> simp

theorem logErr_loss (die : Nat) (m : Master) (addr kind : Nat) (w : Bool) : Loss s (s.logErr die m addr kind w) := by
  unfold State.logErr
  extract_lets s0
  have h0 : Loss s s0 := State.respond_loss _ _
  split
  · exact .after (State.logCount_loss _ (by decide) _ _) (.after (State.logAccess_loss _ (by decide) _ _ _ _ _) h0)
  · exact .after (State.logCount_loss _ (by decide) _ _) (.after (State.logAccess_loss _ (by decide) _ _ _ _ _) h0)

theorem laneRead_loss (ld l : Nat) (x : LaneTxn) : Loss s (s.laneRead ld l x).1 := by
  unfold State.laneRead
  extract_lets a o r
  split
  · exact .refl _ _ _ _
  · split
    · exact .refl _ _ _ _
    · split
      · exact State.spmRead_loss _ _ _ _
      · split
        · exact State.spmRead_loss _ _ _ _
        · exact State.spmLoad_loss _ _ _ _ _

theorem localWrite_loss (q : Bool) (ld l : Nat) (x : LaneTxn) : Loss s (s.localWrite q ld l x) := by
  unfold State.localWrite State.writeEnabled
  exact .on fun _ => .each (fun s _ _ => s.setByte_loss _ _) s

theorem issue_loss (q : Bool) (ld l : Nat) (x : LaneTxn) : Loss s (s.issue q ld l x).1 := by
  unfold State.issue
  dsimp only
  split
  · have hlog : Loss s (s.on (decide (s.laneRoute ld l x ≠ 0)) fun s' =>
        s'.logErr ld ⟨ld, l + 1⟩ x.addr (s.laneRoute ld l x) (decide (x.type = 1))) := .on fun _ => State.logErr_loss _ _ _ _ _ _
    exact hlog.trans (State.giveOn_loss _ _ _)
  · split
    · exact .refl _ _ _ _
    · split
      · split
        · exact .after (State.give_loss _ _) (State.laneRead_loss _ _ _ _)
        · exact .after (State.give_loss _ _) (State.laneRead_loss _ _ _ _)
      · exact State.localWrite_loss _ _ _ _ _

/-- A transaction that its target serves has a class. -/
theorem txnClass_of_issue {q : Bool} {ld l : Nat} {x : LaneTxn} (h : (s.issue q ld l x).2 = false) : (txnClass ld l x).isSome = true := by
  unfold State.issue at h
  dsimp only at h
  split at h
  · cases h
  · next hr =>
    simp only [State.txnRefused, targetBad, Bool.or_eq_true, not_or] at hr
    cases hc : txnClass ld l x <;> simp_all

end State

/-- The data that the Q pass compares for a write or a mark. -/
theorem entryOf_data (ld l : Nat) {x : LaneTxn} (hd : x.data < 2 ^ 32) (ht : x.type ≠ 0) :
    (entryOf true ld l x).data = Nat.xor x.data 0xFFFFFFFF := by
  unfold entryOf
  simp only [if_neg ht, if_true, Nat.mod_eq_of_lt hd]

/-- An access of the window has class LOCAL. -/
theorem txnClass_local {ld l : Nat} {x : LaneTxn} (ht : x.type ≠ 2) (h : (windowOff ld l x.addr).isSome = true) :
    (txnClass ld l x).getD 0 = 0 := by
  unfold txnClass classOf
  rw [if_neg ht]
  simp [h]

/-- A rail without faults shows what differs. -/
theorem railShows_healthy (d : Nat) : railShows ⟨0, 0⟩ d = d := by
  simp [railShows]

/-- Settles O17. -/
theorem aMismatchDiscardsTheSegment : Obligations.AMismatchDiscardsTheSegment := by
  intro s ld l x e hld hl hph htype hbe haddr hdata hflips hserved hhalf hinj he headdr hedata hebe hetype hecls hepar
    local_ addr cls agree diff
  obtain ⟨hphase, hf⟩ : (s.lane ld l).ph = .qPass ∧ s.fenced U.lane ld l = false := by simpa [State.inPhase] using hph
  have hfits : e.Fits := ⟨headdr, hedata, hebe, hetype, hecls⟩
  have hloss := s.issue_loss true ld l x
  set u := (s.issue true ld l x).1 with hu
  have hlane : u.lane ld l = s.lane ld l := hloss.frame.same (State.lane · ld l)
  have huf : u.fenced U.lane ld l = false := (congrArg Fence.on (hloss.fences _ (by decide) _ _)).trans hf
  have hclass := s.txnClass_of_issue hserved
  have htrace : (u.lane ld l).trace[(u.lane ld l).qIdx]? = some e := by rw [hlane]; exact he
  have hread : e.readAs x.flips = e := by rw [hflips]; exact e.readAs_zero hfits hepar
  have hinjected : u.injected ld l e (entryOf true ld l x) x = u := by
    have hno : (decide ((u.lane ld l).seg = 0) && decide ((u.lane ld l).inj = some (u.lane ld l).qIdx)) = false := by
      rw [hlane, Bool.and_eq_false_iff, decide_eq_false_iff_not, decide_eq_false_iff_not]
      exact not_and_or.1 hinj
    unfold State.injected
    dsimp only
    rw [hno, State.on_false]
  have hx : exec (.laneTransaction ld l x) s = .next (u.qCompare ld l e (entryOf true ld l x) x) := by
    have hq : s.inPhase ld l .qPass = true := hph
    have hp : s.inPhase ld l .pPass = false := by simp [State.inPhase, hphase]
    change execLaneTransaction ld l x s = _
    rw [execLaneTransaction, hp, hq, if_neg (by decide), State.answer_of (by simp [hld, hl]) (by simp [htype, hbe]), State.qTxn]
    dsimp only
    rw [← hu, hserved, hhalf, if_neg Bool.false_ne_true, if_neg Bool.false_ne_true, htrace]
    dsimp only
    rw [hread, hinjected, huf]
    rfl
  have hdiff : Nat.xor e.bits (entryOf true ld l x).bits &&& compareMask e = diff := rfl
  have hagree : diffKind diff = none ↔ agree := by
    have h := entries_agree hfits (entryOf_fits ld l htype hbe haddr)
    rw [entryOf_addr ld l hclass] at h
    refine h.trans ⟨fun ⟨ha, hd, hb, ht, hc⟩ => ⟨ha, fun h0 => ?_, hb, ht, hc, fun hl => txnClass_local hl.1 hl.2⟩,
      fun ⟨ha, hd, hb, ht, hc, _⟩ => ⟨ha, fun h0 => ?_, hb, ht, hc⟩⟩
    · have hd := hd h0
      rwa [entryOf_data ld l hdata fun hx => h0 (ht.trans hx)] at hd
    · have hd := hd h0
      rwa [entryOf_data ld l hdata fun hx => h0 (ht.trans hx)]
  refine ⟨_, hx, fun h0 h1 hpar => ⟨fun ha => ?same, fun ha => ?differ⟩, fun hr => ?rails, fun hr hpar => ?parity⟩
  case same => 
    rw [State.qCompare, h0, h1, railShows_healthy, if_neg (by simp), if_neg (by simp [hpar]), hdiff, hagree.2 ha]
    dsimp only
    rw [State.lane_setLane, if_pos rfl, hlane]
    exact ⟨hphase, rfl, rfl⟩
  case differ =>
    rw [State.qCompare, h0, h1, railShows_healthy, if_neg (by simp), if_neg (by simp [hpar]), hdiff]
    cases hk : diffKind diff with
    | none => exact absurd (hagree.1 hk) ha
    | some k =>
      obtain ⟨hm1, hm2, hm3, -⟩ := u.mismatch_discards huf (diffKind_lt hk) (u.lane ld l).qIdx x.cyc
      exact ⟨hm1, hm2, hm3.trans (by rw [hloss.get (by decide)])⟩
  case rails =>
    have h5 := u.fenceLane_fence huf 5
    rw [State.qCompare, hdiff, if_pos hr, State.fenced, h5]
    exact ⟨rfl, rfl⟩
  case parity =>
    obtain ⟨hm1, hm2, -, hm4⟩ := u.mismatch_discards huf (kind := misParity) (by decide) (u.lane ld l).qIdx x.cyc
    rw [State.qCompare, hdiff, if_neg (by simpa using hr), if_pos hpar]
    exact ⟨hm1, hm2, hm4⟩

end Sys2Proof.Machine
end

section
/-! SUPPORT. Transfers of the bridge links (R21): one that nothing disturbs arrives as it was sent. -/

namespace Sys2Proof.Machine

theorem leNat_leBytes (n v : Nat) : leNat (leBytes n v) = v % 256 ^ n := by
  induction n generalizing v with
  | zero => simp [leNat, leBytes, Nat.mod_one]
  | succ n ih =>
    have h : v % 256 + 256 * (v / 256 % 256 ^ n) = v % (256 * 256 ^ n) := (Nat.mod_mul).symm
    rw [leBytes, leNat, ih, BitVec.toNat_ofNat]
    rwa [show 256 * 256 ^ n = 256 ^ (n + 1) from (pow_succ' 256 n).symm] at h

@[simp] theorem leBytes_length (n v : Nat) : (leBytes n v).length = n := by
  induction n generalizing v with
  | zero => rfl
  | succ n ih => simp [leBytes, ih]

theorem crcBit_lt {w poly : Nat} (hp : poly < 2 ^ w) (reg : Nat) (b : Bool) : crcBit w poly reg b < 2 ^ w := by
  unfold crcBit
  dsimp only
  rw [nat_xor]
  refine Nat.xor_lt_two_pow (Nat.mod_lt _ (Nat.two_pow_pos w)) ?_
  split
  · exact hp
  · exact Nat.two_pow_pos w

theorem crcByte_lt {w poly reg : Nat} (hp : poly < 2 ^ w) (hr : reg < 2 ^ w) (b : Nat) : crcByte w poly reg b < 2 ^ w := by
  unfold crcByte
  induction List.range 8 generalizing reg with
  | nil => exact hr
  | cons k l ih => exact ih (crcBit_lt hp _ _)

theorem crcBytes_lt {w poly reg : Nat} (hp : poly < 2 ^ w) (hr : reg < 2 ^ w) (refin : Bool) (bs : List Byte) :
    crcBytes w poly refin reg bs < 2 ^ w := by
  unfold crcBytes
  induction bs generalizing reg with
  | nil => exact hr
  | cons b bs ih => exact ih (crcByte_lt hp hr _)

theorem crc16_lt (bs : List Byte) : crc16 bs < 2 ^ 16 := crcBytes_lt (by norm_num) (by norm_num) _ _

/-- What a sender puts on the link passes the receiver's CRC. -/
theorem bridgeCrcOk_frame (tick : Nat) (body : List Byte) : bridgeCrcOk (bridgeFrame tick body) = true := by
  unfold bridgeCrcOk bridgeFrame
  dsimp only
  generalize (BitVec.ofNat 8 tick :: body : List Byte) = b
  have hlen : (b ++ leBytes 2 (crc16 b)).length - 2 = b.length := by simp
  rw [hlen, List.drop_left, List.take_left, leNat_leBytes, show 256 ^ 2 = 2 ^ 16 from rfl, Nat.mod_eq_of_lt (crc16_lt b),
    decide_eq_true_iff]

end Sys2Proof.Machine

namespace Sys2Proof.Transit

open Machine

/-- Where no bit is inverted, what arrives is what was sent. -/
theorem pass_of_no_flips {x : Transit} (h : x.flips = []) (bs : List Byte) : x.pass bs = bs := by
  refine List.ext_getElem (by simp [Transit.pass]) fun k hk hk' => ?_
  simp [Transit.pass, h, hk']

/-- A complete transfer that nothing disturbs is received as it was sent, where sender and receiver are in one tick. -/
theorem receive_of_clean {x : Transit} (hf : x.flips = []) (hc : x.complete = true) {own tick : Nat} (ht : tick % 256 = own % 256)
    (body : List Byte) : x.receive own tick body = some body := by
  have hlow : leNat ((bridgeFrame tick body).take 1) = own % 256 := by
    simp [bridgeFrame, leNat, ht]
  have hbody : ((bridgeFrame tick body).drop 1).take body.length = body := by simp [bridgeFrame]
  unfold Transit.receive
  dsimp only
  rw [x.pass_of_no_flips hf, hc, bridgeCrcOk_frame, hlow, hbody]
  simp

/-- A transfer that is not complete when its window closes is not received. -/
theorem receive_of_incomplete {x : Transit} (hc : x.complete = false) (own tick : Nat) (body : List Byte) : x.receive own tick body = none := by
  unfold Transit.receive
  dsimp only
  rw [hc]
  rfl

end Sys2Proof.Transit

namespace Sys2Proof.Machine

/-! ### Input images (R20 to R22) -/

/-- The frozen images of the logic dies. -/
def Frame.frozen : Frame := ⟨fun s t => { s with frozen := t.frozen, frozenTick := t.frozenTick }, fun _ => rfl, fun _ _ _ => rfl⟩

namespace State

variable (s : State)

/-- Every word of the frozen image of a die takes the one received. -/
theorem frozenWord_each (ld fd : Nat) (word : Nat → Nat) {k : Nat} (hk : k < 64) :
    (s.each (List.range 64) fun s t => s.setFrozen ld fd t (word t)).frozenWord ld fd k = word k := by
  refine State.each_idem (fun s => s.frozenWord ld fd k) (fun _ => word k) (fun _ => rfl) (List.mem_range.2 hk) (fun s => ?_)
    (fun s t _ hne => ?_) s
  · rw [State.frozenWord_setFrozen, if_pos rfl]
  · rw [State.frozenWord_setFrozen, if_neg (by omega)]

theorem setFrozens_frame (ld fd : Nat) (word : Nat → Nat) :
    Frame.frozen.Holds s (s.each (List.range 64) fun s t => s.setFrozen ld fd t (word t)) := Frame.each (fun _ _ _ => by rfl) s

/-- A transfer that is taken: the words frozen, the tick of the image, and the run counted. -/
theorem imageIn_of_some {ld fd : Nat} {x : Transit} {bs : List Byte}
    (h : Transit.receive { x with complete := x.complete && !s.imageClosed ld } s.tick (s.field fd).htick (s.imageBody fd) = some bs) :
    ∃ u, Frame.frozen.Holds s u ∧ (∀ k < 64, u.frozenWord ld fd k = if s.fenced U.link ld fd then 0 else fieldAt bs (4 * k) 4) ∧
      s.imageIn ld fd x = (u.setFrozenAt ld fd (s.tick + 1)).count F.DIEBR_LINK_OKRUN ld fd := by
  let word (t : Nat) : Nat := if s.fenced U.link ld fd then 0 else fieldAt bs (4 * t) 4
  refine ⟨_, s.setFrozens_frame ld fd word, fun k hk => s.frozenWord_each ld fd word hk, ?_⟩
  unfold State.imageIn
  dsimp only
  rw [h]

/-- A transfer that is dropped ends the run, and counts where its CRC fails. -/
theorem imageIn_of_none {ld fd : Nat} {x : Transit}
    (h : Transit.receive { x with complete := x.complete && !s.imageClosed ld } s.tick (s.field fd).htick (s.imageBody fd) = none) :
    s.imageIn ld fd x = (s.put F.DIEBR_LINK_OKRUN ld fd 0).on
      (Transit.crcFails { x with complete := x.complete && !s.imageClosed ld } (s.field fd).htick (s.imageBody fd))
      fun s => s.count F.DIEBR_LINK_CRCERR ld fd := by
  unfold State.imageIn
  dsimp only
  rw [h]

theorem setFrozenAt_frame (ld fd v : Nat) : Frame.frozen.Holds s (s.setFrozenAt ld fd v) := rfl

end State

/-- Settles O18. -/
theorem inputImagesAreFrozenOrDropped : Obligations.InputImagesAreFrozenOrDropped := by
  refine ⟨?image, fun s ld m hld hm hr => ?tnum⟩
  case image =>
    intro s ld fd tick flips complete hld hfd hp x taken
    have hx : exec (.inputImageReceived ld fd tick flips complete) s = .next (s.imageIn ld fd (Transit.parts tick flips complete)) :=
      State.answer_of (by simp [hld, hfd]) hp
    refine ⟨fun bs hbs => ?_, fun hn => ?_, fun h1 h2 h3 h4 h5 => ?_, fun h => ?_⟩
    · obtain ⟨u, hframe, hwords, hu⟩ := s.imageIn_of_some (x := Transit.parts tick flips complete) hbs
      rw [hu] at hx
      refine ⟨_, hx, hwords, ?_, ?_, ?_⟩
      · exact (State.frozenAt_setFrozenAt u ld fd (s.tick + 1) ld fd).trans (if_pos rfl)
      · rw [State.count, State.get_put, if_pos ⟨rfl, rfl⟩, Nat.mod_eq_of_lt (min_lt_of_right_lt (by norm_num)), State.setFrozenAt_get,
          hframe.same (State.get · F.DIEBR_LINK_OKRUN ld fd)]
      · have h : u.setFrozenAt ld fd (s.tick + 1) = { s with frozen := u.frozen, frozenTick := (u.setFrozenAt ld fd (s.tick + 1)).frozenTick } :=
          hframe.trans (State.setFrozenAt_frame _ _ _ _)
        have h' := onlyFields_put (u.setFrozenAt ld fd (s.tick + 1)) F.DIEBR_LINK_OKRUN ld fd 
          (min ((u.setFrozenAt ld fd (s.tick + 1)).get F.DIEBR_LINK_OKRUN ld fd + 1) (2 ^ F.DIEBR_LINK_OKRUN.w - 1))
        exact (congrArg (fun v => OnlyFields v (u.setFrozenAt ld fd (s.tick + 1) |>.count F.DIEBR_LINK_OKRUN ld fd) _) h).mp h'
    · rw [s.imageIn_of_none (x := Transit.parts tick flips complete) hn] at hx
      refine ⟨_, hx, ?_, ?_, ?_⟩
      · rw [State.on_apply (State.get · F.DIEBR_LINK_OKRUN ld fd)]
        simp [State.count]
      · rw [State.on_apply (State.get · F.DIEBR_LINK_CRCERR ld fd)]
        simp only [State.count, State.get_put, and_self, if_true]
        rw [Nat.mod_eq_of_lt (min_lt_of_right_lt (by norm_num)), State.get_put_other _ _ _ _ _ _ _ _ (by decide)]
        rfl
      · refine change_regs_iff.1 ((Change.put s 0 ?_).trans (Change.on fun _ => Change.put _ _ ?_)) <;> simp
    · subst h1 h2 h3
      exact Transit.receive_of_clean rfl (by simp [x, Transit.parts, h4]) (by rw [h5]) _
    · refine Transit.receive_of_incomplete ?_ _ _ _
      rcases h with h | h <;> simp [x, Transit.parts, h]
  case tnum =>
    have hx : exec (.tnum0Read ld m) s = .next (s.readTnum ld m) := by
      refine State.answer_of hld (by rw [hm]; rfl) |>.trans ?_
      rw [if_pos hr]
    exact ⟨_, hx, rfl, rfl, by simp [State.readTnum], rfl⟩

end Sys2Proof.Machine
end

section
/-! SUPPORT. The latch point of one lane (R31, R156, R360). -/

namespace Sys2Proof.Machine

/-- As `trans`, the last step first: read off from a term, it names the steps between. -/
theorem Frame.Holds.after {f : Frame} {s t u : State} (k : f.Holds t u) (h : f.Holds s t) : f.Holds s u := h.trans k

/-- The lanes and the registers. -/
def Frame.lanes : Frame := ⟨fun s t => State.withRegs { s with lanes := t.lanes } t.regs, fun _ => rfl, fun _ _ _ => rfl⟩

namespace State

variable (s : State)

/-- A lane that has made its last commit. -/
theorem latchLane_of_done {ld l : Nat} (hran : (s.lane ld l).ran = true) (hf : s.fenced U.lane ld l = false) (hd : (s.lane ld l).ph = .done) :
    s.latchLane ld l = (((s.putB F.LANE_LSTAT_RETRIED ld l (s.lane ld l).retried).setLane ld l
      { s.lane ld l with ran := false, lateRun := 0, latePrev := s.flag F.LANE_LSTAT_LATE ld l }).put F.LANE_LSTAT_LATE ld l 0).put
        F.LANE_LSTAT_LATE2 ld l 0 := by
  unfold State.latchLane
  dsimp only
  rw [hran, hf, Bool.not_false, Bool.and_self, State.on_true, if_pos hd]

/-- A lane that is late sleeps with its trace dropped. -/
theorem latchLane_of_late {ld l : Nat} (hran : (s.lane ld l).ran = true) (hf : s.fenced U.lane ld l = false) (hd : (s.lane ld l).ph ≠ .done) :
    s.latchLane ld l = ((((((s.putB F.LANE_LSTAT_RETRIED ld l (s.lane ld l).retried).setLane ld l
      { s.lane ld l with ran := false, trace := [], qIdx := 0, lateRun := (s.lane ld l).lateRun + 1,
                         latePrev := s.flag F.LANE_LSTAT_LATE ld l }).setPhase ld l .asleep).put F.LANE_LSTAT_LATE ld l 1).putB
        F.LANE_LSTAT_LATE2 ld l (s.flag F.LANE_LSTAT_LATE ld l)).count F.LANE_LEVCNT_LATECNT ld l).on (s.lane ld l).misNow
          fun s => s.put F.LANE_LSTAT_GRACE ld l 1 := by
  unfold State.latchLane
  dsimp only
  rw [hran, hf, Bool.not_false, Bool.and_self, State.on_true, if_neg hd]

theorem put_lanesFrame (F : Fld) (d i v : Nat) : Frame.lanes.Holds s (s.put F d i v) := rfl

theorem setLane_lanesFrame (ld l : Nat) (v : LaneSt) : Frame.lanes.Holds s (s.setLane ld l v) := rfl

theorem setPhase_lanesFrame (ld l : Nat) (p : LanePhase) : Frame.lanes.Holds s (s.setPhase ld l p) :=
  (s.setLane_lanesFrame ld l _).trans (State.put_lanesFrame _ _ _ _ _)

theorem putB_lanesFrame (F : Fld) (d i : Nat) (b : Bool) : Frame.lanes.Holds s (s.putB F d i b) := rfl

theorem count_lanesFrame (F : Fld) (d i : Nat) : Frame.lanes.Holds s (s.count F d i) := rfl

/-- The latch point of a lane changes lanes and registers only. -/
theorem latchLane_lanes (ld l : Nat) : Frame.lanes.Holds s (s.latchLane ld l) := by
  unfold State.latchLane
  extract_lets a was b
  refine Frame.on fun _ => ?_
  extract_lets s0 s1 s2
  have h0 : Frame.lanes.Holds s s0 := s.putB_lanesFrame _ _ _ _
  clear_value s0
  refine h0.trans (Frame.ite (fun _ => ?_) fun _ => ?_)
  · exact .after (State.put_lanesFrame _ _ _ _ _) (.after (State.put_lanesFrame _ _ _ _ _) (State.setLane_lanesFrame _ _ _ _))
  · have h1 : Frame.lanes.Holds s0 s1 :=
      .after (State.put_lanesFrame _ _ _ _ _) (.after (State.setPhase_lanesFrame _ _ _ _) (State.setLane_lanesFrame _ _ _ _))
    clear_value s1
    exact .after (Frame.on fun _ => State.put_lanesFrame _ _ _ _ _) (.after (State.count_lanesFrame _ _ _ _)
      (.after (State.putB_lanesFrame _ _ _ _ _) h1))

end State

/-- Settles O19. -/
theorem lateTicksAreMarkedAtTheLatchPoint : Obligations.LateTicksAreMarkedAtTheLatchPoint := by
  refine ⟨fun s hr => ?latch, ?lane, fun s h => State.answer_of rfl h⟩
  case latch =>
    have h : exec .latchPoint s = .next s.sending.latch := State.answer_of rfl hr
    have hk := exec_keeps .latchPoint h
    exact ⟨_, h, rfl, hk.tick rfl, hk.image rfl, hk.flash rfl, hk.otp rfl⟩
  case lane =>
    intro s ld l hran hf t
    by_cases hd : (s.lane ld l).ph = .done
    · have ht := s.latchLane_of_done hran hf hd
      refine ⟨?_, ?_, ?_, fun _ => ⟨?_, ?_, ?_⟩, fun h => absurd hd h, s.latchLane_lanes ld l⟩
      all_goals
        simp only [t]
        rw [ht]
        simp [State.putB, Bool.toNat_le]
    · have ht := s.latchLane_of_late hran hf hd
      refine ⟨?_, ?_, ?_, fun h => absurd h hd, fun _ => ⟨?_, ?_, ?_, ?_, ?_, ?_, fun hm => ?_⟩, s.latchLane_lanes ld l⟩
      all_goals
        simp only [t]
        rw [ht]
        cases hm : (s.lane ld l).misNow
        all_goals simp_all [State.setPhase, State.putB, State.count, Bool.toNat_le]

end Sys2Proof.Machine
end

section
/-! SUPPORT. The P-enable words and the apply point (R27 to R32, R117, R488). -/

namespace Sys2Proof.Machine

/-! ### Bits cleared in a word -/

/-- Taking away the bits that two words share leaves the first word's other bits. -/
theorem testBit_sub_and (w b j : Nat) : (w - (w &&& b)).testBit j = (w.testBit j && !b.testBit j) := by
  induction j generalizing w b with
  | zero =>
    have hle : w &&& b ≤ w := Nat.and_le_left
    have hmod : (w &&& b) % 2 = w % 2 &&& b % 2 := Nat.and_mod_two_pow (n := 1)
    have hx : (w &&& b) % 2 = if w % 2 = 1 ∧ b % 2 = 1 then 1 else 0 := by
      rw [hmod]
      rcases Nat.mod_two_eq_zero_or_one w with hw | hw <;> rcases Nat.mod_two_eq_zero_or_one b with hb | hb <;> simp [hw, hb]
    rw [Bool.eq_iff_iff]
    simp only [Nat.testBit_zero, decide_eq_true_eq, Bool.and_eq_true, Bool.not_eq_true', decide_eq_false_iff_not]
    generalize w &&& b = x at hle hx
    split_ifs at hx <;> omega
  | succ j ih =>
    have hdiv : (w - (w &&& b)) / 2 = w / 2 - (w / 2 &&& b / 2) := by
      have hle : w &&& b ≤ w := Nat.and_le_left
      have hmod : (w &&& b) % 2 = w % 2 &&& b % 2 := Nat.and_mod_two_pow (n := 1)
      have hle2 : w % 2 &&& b % 2 ≤ w % 2 := Nat.and_le_left
      rw [← Nat.and_div_two]
      generalize w &&& b = x at hle hmod
      generalize w % 2 &&& b % 2 = y at hmod hle2
      omega
    rw [Nat.testBit_succ, hdiv, ih, Nat.testBit_succ, Nat.testBit_succ]

/-! ### The words of a transfer -/

/-- Each word that a logic die sends stands for its own terminal (R28). -/
theorem bodyWords_wordBody {ws : List Nat} (hlen : ws.length ≤ 64) {k : Nat} (hk : k < 64) (hw : ws.getD k 4 < 4) :
    (bodyWords (wordBody ws)).getD k 4 = ws.getD k 4 := by
  have hkl : k < ws.length := by
    by_contra h
    rw [List.getD_eq_default _ _ (by omega)] at hw
    omega
  have hget : ws.getD k 4 = ws[k] := by simp [hkl]
  have hbyte (w i : Nat) (hw : w < 4) (hi : i < 64) : (BitVec.ofNat 8 (i % 64 + 64 * w)).toNat = i + 64 * w := by
    rw [BitVec.toNat_ofNat, Nat.mod_eq_of_lt hi, Nat.mod_eq_of_lt (by omega)]
  have hfind : (wordBody ws).find? (fun b => b.toNat % 64 == k) = some (BitVec.ofNat 8 (k % 64 + 64 * ws[k])) := by
    have hz : (ws.zipIdx.find? fun a => decide (a.1 < 4) && ((BitVec.ofNat 8 (a.2 % 64 + 64 * a.1)).toNat % 64 == k)) = some (ws[k], k) := by
      rw [List.find?_eq_some_iff_getElem]
      refine ⟨?_, k, by simpa using hkl, by simp, fun j hj => ?_⟩
      · rw [hget] at hw
        rw [decide_eq_true hw, hbyte _ _ hw hk]
        simp only [Bool.true_and, beq_iff_eq]
        omega
      · have hjl : j < ws.length := by omega
        simp only [List.getElem_zipIdx, Nat.zero_add]
        by_cases hj4 : ws[j] < 4
        · rw [hbyte _ _ hj4 (by omega)]
          simp only [hj4, decide_true, Bool.true_and, Bool.not_eq_true', beq_eq_false_iff_ne, ne_eq]
          omega
        · simp [hj4]
    rw [wordBody, List.find?_map, List.find?_filter]
    simp only [Bool.decide_and, Bool.decide_eq_true, Function.comp_def]
    rw [hz]
    rfl
  rw [bodyWords, List.getD_eq_getElem _ _ (by simpa using hk), List.getElem_map, List.getElem_range, hfind, hget]
  rw [hget] at hw
  simp only [Option.map_some, Option.getD_some]
  rw [hbyte _ _ hw hk]
  omega

/-! ### Loops around one element -/

/-- What a loop does around the pass of one element: `R` holds up to that pass and from it on, if every other pass keeps `R`. -/
theorem State.each_around {α : Type} {R : State → State → Prop} (hrefl : ∀ s, R s s) (htrans : ∀ {s t u}, R s t → R t u → R s u)
    {l : List α} {op : State → α → State} {x : α} (hl : l.Nodup) (hx : x ∈ l) (hop : ∀ s, ∀ y ∈ l, y ≠ x → R s (op s y)) (s : State) :
    ∃ u, R s u ∧ R (op u x) (s.each l op) := by
  have loop : ∀ (m : List α), (∀ y ∈ m, y ∈ l ∧ y ≠ x) → ∀ s, R s (s.each m op) := by
    intro m
    induction m with
    | nil => exact fun _ s => hrefl s
    | cons y m ih =>
      intro hm s
      obtain ⟨hyl, hyx⟩ := hm y (List.mem_cons_self ..)
      exact htrans (hop s y hyl hyx) (ih (fun z hz => hm z (List.mem_cons_of_mem _ hz)) _)
  obtain ⟨a, b, rfl⟩ := List.append_of_mem hx
  have hnodup := List.nodup_append.1 hl
  have ha : ∀ y ∈ a, y ∈ a ++ x :: b ∧ y ≠ x := fun y hy =>
    ⟨List.mem_append_left _ hy, fun h => hnodup.2.2 y hy x (List.mem_cons_self ..) h⟩
  have hb : ∀ y ∈ b, y ∈ a ++ x :: b ∧ y ≠ x := fun y hy =>
    ⟨List.mem_append_right _ (List.mem_cons_of_mem _ hy), fun h => (List.nodup_cons.1 hnodup.2.1).1 (h ▸ hy)⟩
  have heach : s.each (a ++ x :: b) op = (op (s.each a op) x).each b op := by simp [State.each, List.foldl_append]
  exact ⟨s.each a op, loop a ha s, heach ▸ loop b hb _⟩

/-! ### The apply point -/

/-- What the apply point may change: terminals and registers. -/
def Frame.apply : Frame := ⟨fun s t => State.withRegs { s with terms := t.terms } t.regs, fun _ => rfl, fun _ _ _ => rfl⟩

/-- The registers that the apply point writes. -/
def applyRegs : List Reg := [.TERM_HSTAT, .FSYS_PSRC0, .FSYS_PSRC1, .FSYS_PENCNT, .FSYS_PSWCNT, .TICK_TPOS]

/-- What the passes of other terminals leave alone of terminal `k`: its state, its source and both its enables. -/
structure ApplyKeeps (fd k : Nat) (s t : State) : Prop where
  frame : Frame.apply.Holds s t
  regs : RegsWithin applyRegs s t
  term : t.term fd k = s.term fd k
  source : t.pSource fd k = s.pSource fd k
  pena : t.get F.TERM_HSTAT_PENA (fdie fd) k = s.get F.TERM_HSTAT_PENA (fdie fd) k
  hena : t.get F.TERM_HSTAT_HENA (fdie fd) k = s.get F.TERM_HSTAT_HENA (fdie fd) k

namespace ApplyKeeps

variable {fd k : Nat} {s t u : State}

theorem refl (fd k : Nat) (s : State) : ApplyKeeps fd k s s := ⟨Frame.refl _ _, .refl _ _, rfl, rfl, rfl, rfl⟩

theorem trans (h : ApplyKeeps fd k s t) (g : ApplyKeeps fd k t u) : ApplyKeeps fd k s u :=
  ⟨h.frame.trans g.frame, h.regs.trans g.regs, g.term.trans h.term, g.source.trans h.source, g.pena.trans h.pena, g.hena.trans h.hena⟩

theorem after (g : ApplyKeeps fd k t u) (h : ApplyKeeps fd k s t) : ApplyKeeps fd k s u := h.trans g

theorem on {c : Bool} {op : State → State} (h : c = true → ApplyKeeps fd k s (op s)) : ApplyKeeps fd k s (s.on c op) := by
  cases c
  · exact refl fd k s
  · exact h rfl

theorem each {α : Type} {l : List α} {op : State → α → State} (h : ∀ s, ∀ x ∈ l, ApplyKeeps fd k s (op s x)) (s : State) :
    ApplyKeeps fd k s (s.each l op) := by
  induction l generalizing s with
  | nil => exact refl fd k s
  | cons x l ih => exact (h s x (List.mem_cons_self ..)).trans (ih (fun s y hy => h s y (List.mem_cons_of_mem _ hy)) _)

/-- A field of the counters, or of another terminal. -/
theorem put (s : State) (F : Fld) (d i v : Nat) (hr : F.reg ∈ applyRegs) (h : F.reg ∈ [Reg.FSYS_PENCNT, .FSYS_PSWCNT, .TICK_TPOS] ∨ F.reg = .TERM_HSTAT ∧ i ≠ k) :
    ApplyKeeps fd k s (s.put F d i v) := by
  have hget {G : Fld} {e : Nat} (hG : G.reg ∈ [Reg.FSYS_PSRC0, .FSYS_PSRC1]) : (s.put F d i v).get G (fdie fd) e = s.get G (fdie fd) e := by
    refine State.get_put_key _ _ _ _ _ _ _ _ fun hk => ?_
    rw [(Fld.key_eq.1 hk).1] at hG
    revert hG
    rcases h with h | ⟨h, -⟩
    · revert h
      cases F.reg <;> simp
    · rw [h]
      decide
  have hterm {G : Fld} (hG : G.reg = .TERM_HSTAT) : (s.put F d i v).get G (fdie fd) k = s.get G (fdie fd) k := by
    refine State.get_put_key _ _ _ _ _ _ _ _ fun hk => ?_
    have := (Fld.key_eq.1 hk).1
    rcases h with h | ⟨-, h⟩
    · simp_all
    · exact h (Fld.key_eq.1 hk).2.2.2.symm
  refine ⟨rfl, .put _ _ _ _ _ hr, rfl, ?_, hterm rfl, hterm rfl⟩
  unfold State.pSource
  rw [hget (by decide), hget (by decide)]

theorem setTerm (s : State) {t : Nat} (v : TermSt) (h : t ≠ k) : ApplyKeeps fd k s (s.setTerm fd t v) :=
  ⟨rfl, .ofRegs _ rfl, (State.term_setTerm _ _ _ _ _ _).trans (if_neg (by omega)), rfl, rfl, rfl⟩

end ApplyKeeps

namespace State

variable (s : State)

/-- The register that holds the P-source of a terminal. -/
def psrcFld (t : Nat) : Fld := if t < 32 then F.FSYS_PSRC0_SRC else F.FSYS_PSRC1_SRC

theorem pSource_eq (fd t : Nat) : s.pSource fd t = ((s.get (psrcFld t) (fdie fd) 0).testBit (t % 32)).toNat := by
  unfold State.pSource psrcFld
  split <;> rfl

/-- Setting a terminal's source leaves every other terminal's (R32). -/
theorem pSource_setSource {fd t ld k : Nat} (hl : ld < 2) (ht : t < 64) (hk : k < 64) :
    (s.setSource fd t ld).pSource fd k = if k = t then ld else s.pSource fd k := by
  rw [State.pSource_eq, State.pSource_eq]
  have hset : s.setSource fd t ld = s.put (psrcFld t) (fdie fd) 0 (if ld = 0 then s.get (psrcFld t) (fdie fd) 0 -
      (s.get (psrcFld t) (fdie fd) 0 &&& 2 ^ (t % 32)) else s.get (psrcFld t) (fdie fd) 0 ||| 2 ^ (t % 32)) := rfl
  by_cases hhalf : decide (k < 32) = decide (t < 32)
  · have hF : psrcFld k = psrcFld t := by
      have hiff : k < 32 ↔ t < 32 := by simpa using hhalf
      unfold psrcFld
      rw [if_congr hiff rfl rfl]
    have hw : (psrcFld t).w = 32 := by unfold psrcFld; split <;> rfl
    have hbit : k = t ↔ t % 32 = k % 32 := by
      have : (k < 32 ↔ t < 32) := by simpa using hhalf
      omega
    have hk32 : k % 32 < 32 := Nat.mod_lt _ (by decide)
    rw [hset, hF, State.get_put, if_pos ⟨rfl, rfl⟩, hw, Nat.testBit_mod_two_pow, decide_eq_true hk32, Bool.true_and]
    by_cases h0 : ld = 0
    · rw [if_pos h0, testBit_sub_and, Nat.testBit_two_pow]
      by_cases hkt : k = t
      · simp [hkt, h0]
      · have := mt hbit.2 hkt
        simp [hkt, this]
    · rw [if_neg h0, Nat.testBit_or, Nat.testBit_two_pow]
      by_cases hkt : k = t
      · simp only [hkt, decide_true, Bool.or_true, if_true, Bool.toNat_true]
        omega
      · have := mt hbit.2 hkt
        simp [hkt, this]
  · have hne : k ≠ t := fun h => hhalf (h ▸ rfl)
    have hF : (psrcFld t).same (psrcFld k) = false := by
      unfold psrcFld
      by_cases h : t < 32 <;> by_cases h' : k < 32
      · exact absurd (by simp [h, h']) hhalf
      · rw [if_pos h, if_neg h']; decide
      · rw [if_neg h, if_pos h']; decide
      · exact absurd (by simp [h, h']) hhalf
    rw [hset, if_neg hne, State.get_put_other _ _ _ _ _ _ _ _ hF]

theorem setSource_applyKeeps {fd t ld k : Nat} (hl : ld < 2) (ht : t < 64) (hk : k < 64) (h : t ≠ k) :
    ApplyKeeps fd k s (s.setSource fd t ld) := by
  have hreg : (psrcFld t).reg ∈ [Reg.FSYS_PSRC0, .FSYS_PSRC1] := by
    unfold psrcFld
    split <;> decide
  have hterm {G : Fld} (hG : G.reg = .TERM_HSTAT) : (s.setSource fd t ld).get G (fdie fd) k = s.get G (fdie fd) k := by
    refine State.get_put_key _ (psrcFld t) _ _ _ _ _ _ fun hk => ?_
    rw [← (Fld.key_eq.1 hk).1, hG] at hreg
    exact absurd hreg (by decide)
  refine ⟨rfl, .put _ (psrcFld t) _ _ _ ?_, rfl, (s.pSource_setSource hl ht hk).trans (if_neg h.symm), hterm rfl, hterm rfl⟩
  exact (show ∀ r ∈ [Reg.FSYS_PSRC0, .FSYS_PSRC1], r ∈ applyRegs by decide) _ hreg

theorem count_applyKeeps {F : Fld} (h : F.reg ∈ [Reg.FSYS_PENCNT, .FSYS_PSWCNT, .TICK_TPOS]) (fd k d i : Nat) :
    ApplyKeeps fd k s (s.count F d i) :=
  .put _ _ _ _ _ ((show ∀ r ∈ [Reg.FSYS_PENCNT, .FSYS_PSWCNT, .TICK_TPOS], r ∈ applyRegs by decide) _ h) (.inl h)

theorem countWord_applyKeeps (fd ld t w k : Nat) : ApplyKeeps fd k s (s.countWord fd ld t w) := by
  unfold State.countWord
  dsimp only
  split
  · exact .refl _ _ _
  · split
    · exact .on fun _ => s.count_applyKeeps (by decide) _ _ _ _
    · split
      · exact s.count_applyKeeps (by decide) _ _ _ _
      · exact .on fun _ => s.count_applyKeeps (by decide) _ _ _ _

theorem pSource_lt (fd t : Nat) : s.pSource fd t < 2 := by
  rw [State.pSource_eq]
  exact Bool.toNat_lt _

theorem sourceTakeover_applyKeeps {fd t k : Nat} (ht : t < 64) (hk : k < 64) (h : t ≠ k) : ApplyKeeps fd k s (s.sourceTakeover fd t) := by
  have hsrc := s.pSource_lt fd t
  unfold State.sourceTakeover
  exact .on fun _ => .after (State.count_applyKeeps _ (by decide) _ _ _ _) (s.setSource_applyKeeps (by omega) ht hk h)

/-- The apply point of another terminal leaves this one alone. -/
theorem applyTerm_applyKeeps {fd t k : Nat} (ht : t < 64) (hk : k < 64) (h : t ≠ k) : ApplyKeeps fd k s (s.applyTerm fd t) := by
  unfold State.applyTerm
  extract_lets d s0 s1 dead was p h' s2
  have h1 : ApplyKeeps fd k s s1 := (s.sourceTakeover_applyKeeps ht hk h).trans (.each (fun s ld _ => s.countWord_applyKeeps _ _ _ _ _) s0)
  have h2 : ApplyKeeps fd k s1 s2 := .after (.put _ F.TERM_HSTAT_HENA _ _ _ (by decide) (.inr ⟨rfl, h⟩)) (.put _ F.TERM_HSTAT_PENA _ _ _ (by decide) (.inr ⟨rfl, h⟩))
  exact (h1.trans h2).trans (.on fun _ => .setTerm _ _ h)

/-! ### What the apply point reads -/

theorem tsel_notApply (sl : Nat) : (fldUse sl).reg ∉ applyRegs ∧ (fldIdx sl).reg ∉ applyRegs := by
  have h : ∀ r ∈ [Reg.HC_TSEL0, .HC_TSEL1], r ∉ applyRegs := by decide
  unfold fldUse fldIdx
  split
  · exact ⟨h _ (.head _), h _ (.head _)⟩
  · exact ⟨h _ (.tail _ (.head _)), h _ (.tail _ (.head _))⟩

section

variable {s} {t : State} (hf : Frame.apply.Holds s t) (hr : RegsWithin applyRegs s t)

include hf

theorem heldWord_apply (fd ld k : Nat) : t.heldWord fd ld k = s.heldWord fd ld k := hf.same (State.heldWord · fd ld k)

theorem outStandby_apply (fd k : Nat) : t.outStandby fd k = s.outStandby fd k := hf.same (State.outStandby · fd k)

theorem heldOff_apply {fd k : Nat} (ht : t.term fd k = s.term fd k) : t.heldOff fd k = s.heldOff fd k := by
  have hp : t.part = s.part := hf.same State.part
  unfold State.heldOff State.partSafe
  rw [ht, hp]

include hr

theorem fieldOff_apply (fd : Nat) : t.fieldOff fd = s.fieldOff fd := by
  unfold State.fieldOff State.flag
  rw [hr _ _ _ (by decide), hf.same (State.field · fd), hf.same (State.fenced · U.field (fdie fd) 0)]

theorem fieldSafe_apply (fd : Nat) : t.fieldSafe fd = s.fieldSafe fd := by
  unfold State.fieldSafe
  rw [fieldOff_apply hf hr, hf.same (State.field · fd)]

theorem cellLive_apply (fd p : Nat) : t.cellLive fd p = s.cellLive fd p := by
  have hd (iid : Nat) : t.instDeadH fd iid = s.instDeadH fd iid := hf.same (State.instDeadH · fd iid)
  unfold State.cellLive State.flag State.cellIid
  rw [fieldOff_apply hf hr, hd, hr _ _ _ (by decide), hr _ _ _ (by decide), hf.same (State.fenced · U.cell (fdie fd) p)]

theorem cellCur_apply (fd p : Nat) : t.cellCur fd p = s.cellCur fd p := by
  unfold State.cellCur
  rw [cellLive_apply hf hr, hf.same (State.cell · fd p)]

theorem hDemand_apply (fd k : Nat) : t.hDemand fd k = s.hDemand fd k := by
  have hi (iid : Nat) : t.instFencedH iid = s.instFencedH iid := hf.same (State.instFencedH · iid)
  have hu (sl p : Nat) := hr (fldUse sl) (fdie fd) p (tsel_notApply sl).1
  have hx (sl p : Nat) := hr (fldIdx sl) (fdie fd) p (tsel_notApply sl).2
  have hty (p : Nat) := hr F.HC_HCFG_TYPE (fdie fd) p (by decide)
  have ho (p : Nat) := hr F.HC_HCFG_OPT (fdie fd) p (by decide)
  have hc (p : Nat) := hr F.HC_HIID_IID (fdie fd) p (by decide)
  unfold State.hDemand State.flag State.cellIid
  simp only [cellLive_apply hf hr, cellCur_apply hf hr, hi, hu, hx, hty, ho, hc]

end

/-- The source whose word counts: the standby's where the P-source has no word and the standby has (R32). -/
def applySource (fd k : Nat) : Nat :=
  if s.outStandby fd k = true ∧ s.heldWord fd (s.pSource fd k) k = 4 ∧ s.heldWord fd (1 - s.pSource fd k) k < 4 then 1 - s.pSource fd k
  else s.pSource fd k

/-- A terminal that stays off: of a die that does not serve, fenced, or held off by a protection. -/
def applyDead (fd k : Nat) : Bool := s.fieldSafe fd || s.fenced U.term (fdie fd) k || s.heldOff fd k

theorem sourceTakeover_source {fd k : Nat} (hk : k < 64) : (s.sourceTakeover fd k).pSource fd k = s.applySource fd k := by
  have hsrc := s.pSource_lt fd k
  unfold State.sourceTakeover State.applySource
  dsimp only
  rw [State.on_apply (State.pSource · fd k)]
  by_cases h : s.outStandby fd k = true ∧ s.heldWord fd (s.pSource fd k) k = 4 ∧ s.heldWord fd (1 - s.pSource fd k) k < 4
  · rw [if_pos (by simp [h]), if_pos h]
    exact (State.count_applyKeeps _ (by decide) fd k _ _).source.trans
      ((s.pSource_setSource (by omega) hk hk).trans (if_pos rfl))
  · rw [if_neg (by simpa [and_assoc] using h), if_neg h]

theorem sourceTakeover_change (fd k : Nat) : Frame.apply.Holds s (s.sourceTakeover fd k) ∧ RegsWithin applyRegs s (s.sourceTakeover fd k) ∧
    (s.sourceTakeover fd k).term fd k = s.term fd k := by
  have hreg : (psrcFld k).reg ∈ applyRegs := by
    unfold psrcFld
    split <;> decide
  unfold State.sourceTakeover
  refine ⟨Frame.on fun _ => rfl, .on ?_, State.on_same (State.term · fd k) rfl⟩
  exact .after (.put _ _ _ _ _ (by decide)) (.put _ (psrcFld k) _ _ _ hreg)

/-- The apply point of a terminal: both its enables (R27, R29, R117). -/
theorem applyTerm_enables {fd k : Nat} (hk : k < 64) :
    (s.applyTerm fd k).get F.TERM_HSTAT_PENA (fdie fd) k = (!s.applyDead fd k && s.heldWord fd (s.applySource fd k) k ==
        (if (s.field fd).htick % 2 = 0 then 1 else 2)).toNat ∧
      (s.applyTerm fd k).get F.TERM_HSTAT_HENA (fdie fd) k = (!s.applyDead fd k && s.hDemand fd k).toNat := by
  unfold State.applyTerm
  extract_lets d s0 s1 dead was p h s2
  have h1 : ApplyKeeps fd k s0 s1 := .each (fun s ld _ => s.countWord_applyKeeps _ _ _ _ _) s0
  obtain ⟨hf0, hr0, ht0⟩ := s.sourceTakeover_change fd k
  have hf := hf0.trans h1.frame
  have hr := hr0.trans h1.regs
  have hdead : dead = s.applyDead fd k := by
    simp only [dead, State.applyDead]
    rw [fieldSafe_apply hf hr, heldOff_apply hf (h1.term.trans ht0), hf.same (State.fenced · U.term d k)]
  have hsrc : s1.pSource fd k = s.applySource fd k := h1.source.trans (s.sourceTakeover_source hk)
  have hp : p = (!s.applyDead fd k && s.heldWord fd (s.applySource fd k) k == (if (s.field fd).htick % 2 = 0 then 1 else 2)) := by
    simp only [p]
    rw [hdead, hsrc, heldWord_apply hf, hf.same (State.field · fd)]
    rfl
  have hh : h = (!s.applyDead fd k && s.hDemand fd k) := by
    simp only [h]
    rw [hdead, hDemand_apply hf hr]
  rw [← hp, ← hh]
  clear_value p h
  refine ⟨(State.on_same (State.get · F.TERM_HSTAT_PENA d k) rfl).trans ?_, (State.on_same (State.get · F.TERM_HSTAT_HENA d k) rfl).trans ?_⟩
  all_goals simp [s2, State.putB, Bool.toNat_le, d]

/-- The terminals that the apply point serves: outputs and gate drivers. -/
def applied (fd : Nat) : List Nat := (List.range 64).filter fun t => s.mode fd t == 2 || s.mode fd t == 4

theorem countAbsent_applyKeeps (fd k : Nat) (outs : List Nat) : ApplyKeeps fd k s (s.countAbsent fd outs) := by
  unfold State.countAbsent
  exact .each (fun s _ _ => .on fun _ => s.count_applyKeeps (by decide) _ _ _ _) s

theorem reachPoints_applyKeeps (fd k p : Nat) (l : List Nat) : ApplyKeeps fd k s (s.each l fun s ld => s.reachPoint ld p) :=
  .each (fun _ _ _ => .put _ _ _ _ _ (by decide) (.inl (by decide))) s

theorem apply_eq (fd : Nat) : s.apply fd = (s.countAbsent fd (s.applied fd)).each (s.applied fd) fun s t => s.applyTerm fd t := rfl

theorem apply_applyKeeps {fd k : Nat} (hk : k < 64) (h : k ∉ s.applied fd) : ApplyKeeps fd k s (s.apply fd) := by
  rw [State.apply_eq]
  refine .after (.each (fun s y hy => ?_) _) (s.countAbsent_applyKeeps _ _ _)
  exact s.applyTerm_applyKeeps (List.mem_range.1 (List.mem_filter.1 hy).1) hk fun hyk => h (hyk ▸ hy)

/-- The state in which the pass of a terminal's apply point runs, and what stands of it afterwards. -/
theorem apply_around {fd k : Nat} (hk : k < 64) (h : k ∈ s.applied fd) :
    ∃ u, ApplyKeeps fd k s u ∧ ApplyKeeps fd k (u.applyTerm fd k) (s.apply fd) := by
  rw [State.apply_eq]
  obtain ⟨u, h1, h2⟩ := State.each_around (R := ApplyKeeps fd k) (ApplyKeeps.refl fd k) (fun a b => a.trans b)
    (List.nodup_range.filter _) h (fun s y hy hne => s.applyTerm_applyKeeps (List.mem_range.1 (List.mem_filter.1 hy).1) hk hne)
    (s.countAbsent fd (s.applied fd))
  exact ⟨u, (s.countAbsent_applyKeeps _ _ _).trans h1, h2⟩

theorem applyTerm_frame (fd t : Nat) : Frame.apply.Holds s (s.applyTerm fd t) := by
  unfold State.applyTerm
  extract_lets d s0 s1 dead was p h s2
  have h0 : Frame.apply.Holds s s0 := (s.sourceTakeover_change fd t).1
  have h1 : Frame.apply.Holds s0 s1 := (ApplyKeeps.each (k := t) (fun s ld _ => s.countWord_applyKeeps _ _ _ _ _) s0).frame
  have h2 : Frame.apply.Holds s1 s2 := by rfl
  exact ((h0.trans h1).trans h2).trans (Frame.on fun _ => rfl)

theorem apply_frame (fd : Nat) : Frame.apply.Holds s (s.apply fd) :=
  (s.countAbsent_applyKeeps fd 0 (s.applied fd)).frame.trans (Frame.each (fun s t _ => s.applyTerm_frame fd t) _)

end State

/-- Settles O20. -/
theorem applyPointTakesBothEnables : Obligations.ApplyPointTakesBothEnables := by
  refine ⟨?words, fun s fd hfd hp => ?apply⟩
  case words =>
    intro s fd ld tick crc flips complete hfd hld hp sent x up got
    have hx : exec (.pEnableWordsReceived fd ld tick flips crc complete) s = .next (s.wordsIn fd ld x) :=
      State.answer_of (by simp [hfd, hld]) hp
    have hup : (decide ((s.words ld fd).tick = s.tick) && !(s.words ld fd).words.isEmpty && !s.fenced U.link ld fd && !s.fenced U.logic ld 0) =
        decide up := by
      rw [Bool.eq_iff_iff]
      simp [up, sent, and_assoc]
    have hxfer (y : PXfer) : (if ld = 0 then { s.field fd with x0 := y } else { s.field fd with x1 := y }).xfer ld = y := by
      by_cases h : ld = 0 <;> simp [h, FieldSt.xfer]
    refine ⟨⟨_, hx, rfl, fun bs hbs hu => ?_, fun h => ?_⟩, fun h1 h2 h3 h4 h5 => ?_, fun hl k hk hw => bodyWords_wordBody hl hk hw⟩
    · have hgot : x.receive (s.field fd).htick s.tick (wordBody (s.words ld fd).words) = some bs := hbs
      simp only [State.wordsIn, hgot, hup, decide_eq_true hu, if_true, State.field_setField]
      exact hxfer _
    · have hnone : (s.wordsIn fd ld x).field fd = if ld = 0 then { s.field fd with x0 := PXfer.zero } else { s.field fd with x1 := PXfer.zero } := by
        unfold State.wordsIn
        dsimp only
        rw [State.field_setField, if_pos rfl, hup]
        cases hg : x.receive (s.field fd).htick s.tick (wordBody (s.words ld fd).words) with
        | none => rfl
        | some bs =>
          rcases h with h | h
          · exact absurd (h.symm.trans hg) (by simp)
          · rw [decide_eq_false h]; rfl
      rw [hnone]
      exact hxfer _
    · subst h1 h2 h3
      exact Transit.receive_of_clean rfl h4 (by rw [h5]) _
  case apply =>
    set s1 := s.each s.lds fun s ld => s.reachPoint ld 80 with hs1
    have hx : exec (.applyPoint fd) s = .next (s1.apply fd) := State.answer_of hfd hp
    have hk1 (k : Nat) : ApplyKeeps fd k s s1 := s.reachPoints_applyKeeps fd k 80 _
    refine ⟨_, hx, (hk1 0).frame.trans (s1.apply_frame fd), fun k hk => ?_⟩
    intro own src dead
    have hmode (k : Nat) : s1.mode fd k = s.mode fd k := (hk1 k).regs _ _ _ (by decide)
    have hmem : k ∈ s1.applied fd ↔ s.mode fd k = 2 ∨ s.mode fd k = 4 := by
      simp [State.applied, hmode, hk]
    refine ⟨fun hm => ?_, fun h2 h4 => ?_⟩
    · obtain ⟨u, hu, ht⟩ := s1.apply_around hk (hmem.2 hm)
      have hsu := (hk1 k).trans hu
      obtain ⟨hpena, hhena⟩ := u.applyTerm_enables (fd := fd) hk
      have hsrc : u.applySource fd k = src := by
        unfold State.applySource
        rw [State.outStandby_apply hsu.frame, State.heldWord_apply hsu.frame, State.heldWord_apply hsu.frame, hsu.source]
      have hdead : u.applyDead fd k = dead := by
        unfold State.applyDead
        rw [State.fieldSafe_apply hsu.frame hsu.regs, State.heldOff_apply hsu.frame hsu.term,
          hsu.frame.same (State.fenced · U.term (fdie fd) k)]
      rw [ht.pena, ht.hena, hpena, hhena, hsrc, hdead, State.heldWord_apply hsu.frame, State.hDemand_apply hsu.frame hsu.regs,
        hsu.frame.same (State.field · fd)]
      exact ⟨rfl, rfl⟩
    · have hkeep := (hk1 k).trans (s1.apply_applyKeeps hk fun h => (hmem.1 h).elim h2 h4)
      exact ⟨hkeep.pena, hkeep.hena⟩

end Sys2Proof.Machine
end

section
/-! SUPPORT. Ring data through the field dies: HTX, RXH, RXS (R130 to R133, R176 to R178, R216, R225). -/

namespace Sys2Proof.Machine

/-- The field dies and the registers. -/
def Frame.htx : Frame := ⟨fun s t => State.withRegs { s with fields := t.fields } t.regs, fun _ => rfl, fun _ _ _ => rfl⟩

/-- The H parts and marks that a logic die has read, and the lists of what is due. -/
def Frame.htxRead : Frame := ⟨fun s t => { s with htxH := t.htxH, htxMarks := t.htxMarks, rings := t.rings }, fun _ => rfl, fun _ _ _ => rfl⟩

/-- The marks of the field dies, what is due, and the registers. -/
def Frame.rxs : Frame := ⟨fun s t => State.withRegs { s with marksH := t.marksH, rings := t.rings } t.regs, fun _ => rfl, fun _ _ _ => rfl⟩

/-- The same and the registers. -/
def Frame.htxReadRegs : Frame :=
  ⟨fun s t => State.withRegs { s with htxH := t.htxH, htxMarks := t.htxMarks, rings := t.rings } t.regs, fun _ => rfl, fun _ _ _ => rfl⟩

namespace State

variable (s : State)

/-- A saturating counter after one event. -/
theorem get_count (F : Fld) (d i : Nat) : (s.count F d i).get F d i = min (s.get F d i + 1) (2 ^ F.w - 1) := by
  have h : min (s.get F d i + 1) (2 ^ F.w - 1) < 2 ^ F.w := lt_of_le_of_lt (min_le_right _ _) (Nat.sub_lt (Nat.two_pow_pos _) Nat.one_pos)
  rw [State.count, State.get_put, if_pos ⟨rfl, rfl⟩, Nat.mod_eq_of_lt h]

/-! ### HTX -/

theorem putHtx_within (fd w : Nat) (bs : List Byte) : Within .regs [.HTX] [] s (s.putHtx fd w bs) := by
  unfold State.putHtx
  exact .each (fun _ _ _ => .put _ _ _ _ _ (by decide)) s

theorem htxRing_within (ring : Nat) : Within .regs [.HTX] [] s (s.htxRing ring) := s.putHtx_within _ _ _

theorem htxMark_within (fd m p : Nat) : Within .regs [.HTX] [] s (s.htxMark fd m p) := by
  unfold State.htxMark
  exact .after (.put _ _ _ _ _ (by decide)) (s.putHtx_within _ _ _)

/-- HTX_BUILD: the die is marked as built for its H tick, and HTX is written. -/
theorem htxBuild_around (fd : Nat) : ∃ u, Within .regs [.HTX] [] s u ∧
    Within .regs [.HTX] [] (u.setField fd { u.field fd with htx := (u.field fd).htick + 1 }) (s.htxBuild fd) := by
  refine ⟨s.on (decide (fd = 0)) fun s => s.each s.lds State.htxRing, .on fun _ => .each (fun s _ _ => s.htxRing_within _) s, ?_⟩
  unfold State.htxBuild
  exact .after (.each (fun s _ _ => s.htxMark_within _ _ _) _) (.each (fun _ _ _ => .put _ _ _ _ _ (by decide)) _)

/-! ### What a logic die reads -/

theorem dueRxs_frame (ld dom hmark hmcrc oturn : Nat) : Frame.htxRead.Holds s (s.dueRxs ld dom hmark hmcrc oturn) := rfl

theorem takeHtx_frame (v : Store Nat) : Frame.htxRead.Holds s { s with htxH := v } := rfl

theorem takeMarks_frame (l : List HMark) : Frame.htxRead.Holds s { s with htxMarks := s.htxMarks ++ l } := rfl

theorem htxRead_frame (ld fd : Nat) : Frame.htxRead.Holds s (s.htxRead ld fd) := by
  unfold State.htxRead
  refine Frame.on fun _ => ?_
  extract_lets s1 recs marks
  have h1 : Frame.htxRead.Holds s s1 := Frame.ite (fun _ => s.takeHtx_frame _) fun _ => Frame.refl _ _
  clear_value s1 marks
  exact .after (Frame.each (fun s _ _ => s.dueRxs_frame _ _ _ _ _) _) (.after (State.takeMarks_frame _ _) h1)

/-- What HTX_READ takes of an HTX that was built for this tick. -/
theorem htxRead_built {ld fd : Nat} (h : (s.field fd).htx = s.tick + 1) :
    (fd = 0 → Store.get (fun _ => 0) (s.htxRead ld fd).htxH ld = beNat (s.htxBytes 0 (4 * ld) 12)) ∧
      (fd ≠ 0 → (s.htxRead ld fd).htxH = s.htxH) ∧
      (∀ m < 8, (s.get F.HTX_W (fdie fd) (8 + 4 * m + 3)).testBit 31 = true →
        (s.get F.HTX_W (fdie fd) (8 + 4 * m + 3)).testBit ld = true →
        ⟨ld, beNat (s.htxBytes fd (8 + 4 * m) 4), beNat (s.htxBytes fd (8 + 4 * m + 1 + ld) 4), s.tick⟩ ∈ (s.htxRead ld fd).htxMarks) := by
  unfold State.htxRead
  rw [decide_eq_true h, State.on_true]
  extract_lets s1 recs marks
  have hH : (State.each { s1 with htxMarks := s1.htxMarks ++ marks } marks fun s m =>
      s.dueRxs ld (not32 m.mark % 256) m.mark m.crc (s.tick % 2 ^ 16)).htxH = s1.htxH :=
    State.each_same State.htxH (fun _ _ _ => by rfl) _
  have hM : (State.each { s1 with htxMarks := s1.htxMarks ++ marks } marks fun s m =>
      s.dueRxs ld (not32 m.mark % 256) m.mark m.crc (s.tick % 2 ^ 16)).htxMarks = s1.htxMarks ++ marks :=
    State.each_same State.htxMarks (fun _ _ _ => by rfl) _
  rw [hH, hM]
  refine ⟨fun h0 => ?_, fun h0 => ?_, fun m hm h31 hld => List.mem_append_right _ ?_⟩
  · simp only [s1, if_pos h0]
    rw [Store.get_set, if_pos rfl]
  · simp only [s1, if_neg h0]
  · exact List.mem_map.2 ⟨m, List.mem_filter.2 ⟨List.mem_range.2 hm, by dsimp only; rw [h31, hld]; rfl⟩, rfl⟩

theorem htxRead_unbuilt {ld fd : Nat} (h : (s.field fd).htx ≠ s.tick + 1) : s.htxRead ld fd = s := by
  unfold State.htxRead
  rw [decide_eq_false h, State.on_false]

/-! ### RXH -/

theorem putRxh_within (fd j : Nat) (e : RxhEntry) : Within .regs [.RXH] [] s (s.putRxh fd j e) := by
  unfold State.putRxh
  exact .after (.put _ _ _ _ _ (by decide)) (.after (.each (fun _ _ _ => .put _ _ _ _ _ (by decide)) _) (.put _ _ _ _ _ (by decide)))

theorem rxhWrite_within (ld fd : Nat) : Within .regs [.RXH] [] s (s.rxhWrite ld fd) := by
  unfold State.rxhWrite
  exact .each (fun s _ _ => s.putRxh_within _ _ _) s

/-! ### RXS -/

/-- The record in RXS, newest first. -/
def rxsMoved (ld fd hmark hmcrc oturn : Nat) : State :=
  let moved := s.each (List.range 60).reverse fun s k => s.put F.RXS_W (fdie fd) (k + 4) (s.get F.RXS_W (fdie fd) k)
  (((moved.put F.RXS_W (fdie fd) 0 (wordAt (msbBytes 4 hmark) 0)).put F.RXS_W (fdie fd) 1 (wordAt (msbBytes 4 hmcrc) 0)).put F.RXS_W (fdie fd) 2
    (oturn % 2 ^ 16)).put F.RXS_W (fdie fd) 3 (ld + 2 ^ 31)

theorem rxsMoved_within (ld fd hmark hmcrc oturn : Nat) : Within .regs [.RXS] [] s (s.rxsMoved ld fd hmark hmcrc oturn) := by
  unfold State.rxsMoved
  exact .after (.put _ _ _ _ _ (by decide)) (.after (.put _ _ _ _ _ (by decide)) (.after (.put _ _ _ _ _ (by decide))
    (.after (.put _ _ _ _ _ (by decide)) (.each (fun _ _ _ => .put _ _ _ _ _ (by decide)) _))))

/-- A mark that the die accepts: its turn exists, its code verifies and its age is within D (R178). -/
def RxsGood (ld fd hmark hmcrc oturn : Nat) : Prop := ∃ u, lastTurn (s.field fd).htick 16 oturn = some u ∧
  paeshCode polyH (s.hRid fd ld) (bitsOf (not32 hmark) 12 13) u (msbBytes 4 hmark) = hmcrc ∧
  (s.field fd).htick ≤ u + markDelay (s.get F.RNG_NODES_N ld 0) s.tickUs + 1

/-- The mark as the die enters it. -/
def rxsMark (ld fd hmark : Nat) : MarkArr :=
  ⟨ld, not32 hmark % 256, bitsOf (not32 hmark) 8 4, bitsOf (not32 hmark) 12 13, (s.field fd).htick + 1, 0⟩

theorem rxsWrite_of_good {ld fd hmark hmcrc oturn : Nat} (h : s.RxsGood ld fd hmark hmcrc oturn) :
    s.rxsWrite ld fd hmark hmcrc oturn = { s.rxsMoved ld fd hmark hmcrc oturn with
      marksH := Store.set (fun _ => []) (s.rxsMoved ld fd hmark hmcrc oturn).marksH fd (addMark (s.marksOf fd) (s.rxsMark ld fd hmark)) } := by
  obtain ⟨u, hu, hg⟩ := h
  unfold State.rxsWrite
  simp only [hu]
  rw [if_pos hg]
  rfl

theorem rxsWrite_of_bad {ld fd hmark hmcrc oturn : Nat} (h : ¬s.RxsGood ld fd hmark hmcrc oturn) :
    s.rxsWrite ld fd hmark hmcrc oturn = (s.rxsMoved ld fd hmark hmcrc oturn).count F.HGLB_HBSTAT_HREJ (fdie fd) 0 := by
  unfold State.rxsWrite
  dsimp only
  cases hu : lastTurn (s.field fd).htick 16 oturn with
  | none => rfl
  | some u =>
    dsimp only
    rw [if_neg fun hg => h ⟨u, hu, hg⟩]
    rfl

theorem setField_htx (fd : Nat) (v : FieldSt) : Frame.htx.Holds s (s.setField fd v) := rfl

theorem setMarksH_rxs (v : Store (List MarkArr)) : Frame.rxs.Holds s { s with marksH := v } := rfl

theorem rxsWrite_frame (ld fd hmark hmcrc oturn : Nat) : Frame.rxs.Holds s (s.rxsWrite ld fd hmark hmcrc oturn) := by
  have hm := (s.rxsMoved_within ld fd hmark hmcrc oturn).frame.wider (g := .rxs)
  by_cases hg : s.RxsGood ld fd hmark hmcrc oturn
  · rw [s.rxsWrite_of_good hg]
    exact hm.trans (State.setMarksH_rxs _ _)
  · rw [s.rxsWrite_of_bad hg]
    exact hm.trans (Frame.put _ _ _ _ _).wider

theorem rxsWrite_rings (ld fd hmark hmcrc oturn : Nat) : (s.rxsWrite ld fd hmark hmcrc oturn).rings = s.rings := by
  have hm := (s.rxsMoved_within ld fd hmark hmcrc oturn).frame.same State.rings
  by_cases hg : s.RxsGood ld fd hmark hmcrc oturn
  · rw [s.rxsWrite_of_good hg]
    generalize s.rxsMoved ld fd hmark hmcrc oturn = v at hm ⊢
    exact hm
  · rw [s.rxsWrite_of_bad hg]
    generalize s.rxsMoved ld fd hmark hmcrc oturn = v at hm ⊢
    exact hm

theorem marksOf_set (fd : Nat) (m : Store (List MarkArr)) (l : List MarkArr) :
    State.marksOf { s with marksH := Store.set (fun _ => []) m fd l } fd = l := (Store.get_set _ _ _ _).trans (if_pos rfl)

/-- The mark of a good record stands among the die's marks. -/
theorem rxsWrite_mark {ld fd hmark hmcrc oturn : Nat} (h : s.RxsGood ld fd hmark hmcrc oturn) :
    s.rxsMark ld fd hmark ∈ (s.rxsWrite ld fd hmark hmcrc oturn).marksOf fd := by
  rw [s.rxsWrite_of_good h, State.marksOf_set]
  exact List.mem_cons_self ..

/-- A record that is not good is counted. -/
theorem rxsWrite_reject {ld fd hmark hmcrc oturn : Nat} (h : ¬s.RxsGood ld fd hmark hmcrc oturn) :
    (s.rxsWrite ld fd hmark hmcrc oturn).marksH = s.marksH ∧ (s.rxsWrite ld fd hmark hmcrc oturn).get F.HGLB_HBSTAT_HREJ (fdie fd) 0 =
      min (s.get F.HGLB_HBSTAT_HREJ (fdie fd) 0 + 1) (2 ^ F.HGLB_HBSTAT_HREJ.w - 1) := by
  have hm := s.rxsMoved_within ld fd hmark hmcrc oturn
  have hmarks := hm.frame.same State.marksH
  rw [s.rxsWrite_of_bad h]
  generalize s.rxsMoved ld fd hmark hmcrc oturn = v at hm hmarks ⊢
  refine ⟨by rw [State.count, State.put_marksH, hmarks], ?_⟩
  rw [State.get_count, hm.get (by decide)]

end State

/-- Settles O23. -/
theorem ringDataCrossesTheFieldDie : Obligations.RingDataCrossesTheFieldDie := by
  refine ⟨fun s fd hfd hoff => ?build, fun s ld fd hld hfd hreach => ⟨?read, ?write, fun hmark hmcrc oturn hno => ?notDue, ?rxs⟩⟩
  case build =>
    have h1 : Within .regs [.TICK_TPOS] [] s (s.each s.lds fun s ld => s.reachPoint ld 55) :=
      .each (fun _ _ _ => .put _ _ _ _ _ (by decide)) s
    have hx : exec (.htxBuild fd) s = .next ((s.each s.lds fun s ld => s.reachPoint ld 55).htxBuild fd) :=
      State.answer_of hfd (by rw [hoff]; rfl)
    generalize s.each s.lds (fun s ld => s.reachPoint ld 55) = s1 at h1 hx
    obtain ⟨u, hu, ht⟩ := s1.htxBuild_around fd
    have hsu : Within .regs [.TICK_TPOS, .HTX] [] s u := (h1.wider (by decide) (by simp)).trans (hu.wider (by decide) (by simp))
    have hfield (g : Nat) : ((s1.htxBuild fd).field g) = if g = fd then { s.field fd with htx := (s.field fd).htick + 1 } else s.field g := by
      rw [ht.frame.same (State.field · g), State.field_setField, hsu.frame.same (State.field · fd), hsu.frame.same (State.field · g)]
    refine ⟨_, hx, ?_, by rw [hfield, if_pos rfl], fun g hg => by rw [hfield, if_neg hg], fun G d i h1 h2 => ?_⟩
    · exact ((hsu.frame.wider (g := .htx)).trans (State.setField_htx u fd _)).trans ht.frame.wider
    · exact (ht.get (by simpa using h1) d i).trans (hsu.get (by simp [h1, h2]) d i)
  case read =>
    have hx : exec (.htxRead ld fd) s = .next ((s.reachPoint ld 60).htxRead ld fd) := State.answer_of (by simp [hld, hfd]) hreach
    have hbytes (w n g : Nat) : (s.reachPoint ld 60).htxBytes g w n = s.htxBytes g w n := by
      unfold State.htxBytes
      simp only [State.reachPoint, State.get_put_other _ _ _ _ _ _ _ _ (show F.TICK_TPOS_POS.same F.HTX_W = false by decide)]
    have hword (w : Nat) : (s.reachPoint ld 60).get F.HTX_W (fdie fd) w = s.get F.HTX_W (fdie fd) w :=
      State.get_put_other _ _ _ _ _ _ _ _ (by decide)
    have hframe := (s.reachPoint ld 60).htxRead_frame ld fd
    have hall : Frame.htxReadRegs.Holds s ((s.reachPoint ld 60).htxRead ld fd) :=
      (Frame.put s F.TICK_TPOS_POS ld 0 _).wider.trans hframe.wider
    refine ⟨_, hx, ?_, ?_, fun hb => ?_, fun hb => ?_⟩
    · exact hall
    · exact ⟨hall, fun G d i hG => (hframe.same (State.get · G d i)).trans (State.get_put_key _ _ _ _ _ _ _ _ (hG _ (List.mem_singleton.2 rfl)))⟩
    · obtain ⟨h0, h1, h2⟩ := (s.reachPoint ld 60).htxRead_built (ld := ld) (fd := fd) hb
      refine ⟨fun h => (h0 h).trans (by rw [hbytes]), h1, fun m hm h31 hl => ?_⟩
      have := h2 m hm (by rw [hword]; exact h31) (by rw [hword]; exact hl)
      rwa [hbytes, hbytes] at this
    · rw [(s.reachPoint ld 60).htxRead_unbuilt hb]
      exact ⟨rfl, rfl, rfl⟩
  case write =>
    have h := s.rxhWrite_within ld fd
    exact ⟨_, State.answer_of (by simp [hld, hfd]) hreach, h.frame, fun G d i hG => h.get (by simpa using hG) d i⟩
  case notDue =>
    refine State.answer_idle ?_
    simp [hno]
  case rxs =>
    intro hmark hmcrc oturn hdue good
    set u := s.setRing ld { s.ring ld with rxs := (s.ring ld).rxs.erase (fd, hmark, hmcrc, oturn) } with hu
    have hx : exec (.rxsWrite ld fd hmark hmcrc oturn) s = .next (u.rxsWrite ld fd hmark hmcrc oturn) :=
      State.answer_of (by simp [hld, hfd]) (by simp [hreach, hdue])
    have hrings : (u.ring ld).rxs = (s.ring ld).rxs.erase (fd, hmark, hmcrc, oturn) := by
      rw [hu, State.ring_setRing, if_pos rfl]
    have hus : Frame.rxs.Holds s u := rfl
    have hgood : good = u.RxsGood ld fd hmark hmcrc oturn := rfl
    have hmark : s.rxsMark ld fd hmark = u.rxsMark ld fd hmark := rfl
    have hmarks : u.marksH = s.marksH := rfl
    have hrej : u.get F.HGLB_HBSTAT_HREJ (fdie fd) 0 = s.get F.HGLB_HBSTAT_HREJ (fdie fd) 0 := rfl
    clear_value u
    refine ⟨_, hx, hus.trans (u.rxsWrite_frame _ _ _ _ _), ?_, fun hg => ?_, fun hg => ?_⟩
    · rw [State.ring, u.rxsWrite_rings]
      exact hrings
    · exact (congrArg (· ∈ _) hmark).mpr (u.rxsWrite_mark (hgood ▸ hg))
    · rw [← hmarks, ← hrej]
      exact u.rxsWrite_reject (hgood ▸ hg)

end Sys2Proof.Machine
end

section
/-! SUPPORT. The sieve's exchange and comparison, and the fence messages (R181 to R183, R348, R351). -/

namespace Sys2Proof.Machine

/-- The exchange of a die, its results and the registers. -/
def Frame.sieveSend : Frame :=
  ⟨fun s t => State.withRegs { s with results := t.results, sieveDie := t.sieveDie } t.regs, fun _ => rfl, fun _ _ _ => rfl⟩

/-- What the sieve holds. -/
def Frame.sieve : Frame :=
  ⟨fun s t => { s with sieveP := t.sieveP, sieveH := t.sieveH, sieveDie := t.sieveDie }, fun _ => rfl, fun _ _ _ => rfl⟩

namespace State

variable (s : State)

theorem fence_fenceOn_self (k d i reason : Nat) : (s.fenceOn k d i reason).fence k d i = s.raisedFence k d i reason :=
  (State.fence_setFence _ _ _ _ _ _ _ _).trans (if_pos ⟨rfl, rfl, rfl⟩)

/-! ### The exchange -/

theorem setSvDie_sieveSend (die : Nat) (v : SieveDie) : Frame.sieveSend.Holds s (s.setSvDie die v) := rfl

theorem give_sieveSend (l : List Nat) : Frame.sieveSend.Holds s (s.give l) := rfl

theorem sieveSend_frame (die : Nat) : Frame.sieveSend.Holds s (s.sieveSend die) := by
  unfold State.sieveSend
  exact .after (State.give_sieveSend _ _) (.after (State.setSvDie_sieveSend _ _ _) (Frame.on fun _ => (Frame.put _ _ _ _ _).wider))

theorem sieveSend_out (die : Nat) : ((s.sieveSend die).svDie die).out = (s.partners die).map (fun d => (d, s.sieveRecord die d)) ∧
    (s.sieveSend die).results = ((s.sieveSend die).svDie die).out.flatMap fun r => r.2.map BitVec.toNat := by
  have h : ((s.sieveSend die).svDie die).out = (s.partners die).map (fun d => (d, s.sieveRecord die d)) :=
    congrArg SieveDie.out ((State.svDie_setSvDie _ _ _ _).trans (if_pos rfl))
  exact ⟨h, h ▸ rfl⟩

/-! ### A record received -/

theorem setSvDie_sieve (die : Nat) (v : SieveDie) : Frame.sieve.Holds s (s.setSvDie die v) := rfl

theorem setSieve_sieve (die : Nat) (r : InstRec) (v : SieveSt) : Frame.sieve.Holds s (s.setSieve die r v) := by
  unfold State.setSieve
  exact Frame.ite (fun _ => rfl) fun _ => rfl

/-- The pairs of a partner take the signatures of its record. -/
def takeSigs (die : Nat) (b : List Byte) (rs : List InstRec) : State :=
  s.each rs fun s r => s.setSieve die r { s.sieveOf die r with other := recordSig b r.iid }

theorem takeSigs_frame (die : Nat) (b : List Byte) (rs : List InstRec) : Frame.sieve.Holds s (s.takeSigs die b rs) :=
  Frame.each (fun s r _ => s.setSieve_sieve die r _) s

theorem takeSigs_svDie (die : Nat) (b : List Byte) (rs : List InstRec) (d : Nat) : (s.takeSigs die b rs).svDie d = s.svDie d := by
  refine State.each_same (State.svDie · d) (fun s r _ => ?_) s
  unfold State.setSieve
  split <;> rfl

/-- On a logic die each pair takes the signature of its own side. -/
theorem takeSigs_other {die : Nat} (hd : die < 2) (b : List Byte) {rs : List InstRec} {r : InstRec} (hr : r ∈ rs) :
    ((s.takeSigs die b rs).sieveOf die r).other = recordSig b r.iid := by
  have hset (s : State) (q : InstRec) : ((s.setSieve die q { s.sieveOf die q with other := recordSig b q.iid }).svP die r.iid).other =
      if r.iid = q.iid then recordSig b r.iid else (s.svP die r.iid).other := by
    simp only [State.setSieve, if_pos hd, State.svP_setSvP]
    by_cases h : r.iid = q.iid
    · rw [if_pos (by omega), if_pos h, h]
    · rw [if_neg (by omega), if_neg h]
  rw [State.sieveOf, if_pos hd]
  refine State.each_sets (P := fun s => (s.svP die r.iid).other = recordSig b r.iid) hr (fun s => ?_) (fun s q h => ?_) s
  · rw [hset, if_pos rfl]
  · rw [hset]
    split
    · rfl
    · exact h

/-- The partner counts as heard. -/
def heard (die src : Nat) : State := s.setSvDie die { s.svDie die with got := src :: (s.svDie die).got }

theorem sieveReceive_of_some {die src : Nat} {x : Transit} {b : List Byte} (h : s.recordIn die src x = some b) :
    s.sieveReceive die src x = (s.heard die src).takeSigs die b (((s.heard die src).paired die).filter fun r => (s.heard die src).partner die r == src) := by
  unfold State.sieveReceive
  rw [h]
  rfl

theorem sieveReceive_of_none {die src : Nat} {x : Transit} (h : s.recordIn die src x = none) : s.sieveReceive die src x = s := by
  unfold State.sieveReceive
  rw [h]

/-! ### The comparison -/

theorem compareInst_agree {die : Nat} {r : InstRec} (h : (s.sieveOf die r).other = some (s.sieveOf die r).last) :
    s.compareInst die r = s.setDcnt die (s.sieveIdx die r) 0 := by
  unfold State.compareInst
  exact if_pos h

theorem compareInst_differ {die : Nat} {r : InstRec} (h : (s.sieveOf die r).other ≠ some (s.sieveOf die r).last) :
    s.compareInst die r = ((s.setDcnt die (s.sieveIdx die r) (min 3 (s.dcnt die (s.sieveIdx die r) + 1))).count
      (sieveFld die F.SIEVEP_SCNT_DISWIN F.SIEVEH_SCNT_DISWIN) die 0).on (decide (3 ≤ min 3 (s.dcnt die (s.sieveIdx die r) + 1)))
        fun s => s.sieveFence die r := by
  unfold State.compareInst
  exact if_neg h

theorem sieveFence_fence (die : Nat) (r : InstRec) : (s.sieveFence die r).fence U.inst (sideOf die) r.iid =
    (s.logFence die U.inst r.iid 6).raisedFence U.inst (sideOf die) r.iid 6 := by
  have hlast (t : State) : (t.sieveLast die r).fences = t.fences := by
    unfold State.sieveLast
    simp [State.count]
  refine (State.fence_congr (hlast _) _ _ _).trans ?_
  rw [State.fenceOn_eq, State.fence_setFence]
  exact if_pos ⟨rfl, rfl, rfl⟩

end State

/-- Settles O24. -/
theorem sieveWindowsAreExchangedAndCompared : Obligations.SieveWindowsAreExchangedAndCompared := by
  refine ⟨fun s die src iid x hdie => ⟨fun hw => ⟨?start, ?compare⟩, fun hsrc hne hup => ⟨fun hn => ?none, fun b hb => ?some, fun b hb hf hc hg => ?clean, fun hc => ?cut⟩,
    fun hdue => ?message⟩, fun s fd r hfd hr hrd => ⟨fun hdue => ?fence, fun hdue => ?clear⟩, ?inst⟩
  case start =>
    have hx : exec (.sieveExchangeStart die) s = .next (s.sieveSend die) := State.answer_of hdie hw
    obtain ⟨hout, hres⟩ := s.sieveSend_out die
    exact ⟨_, hx, hout, hres, s.sieveSend_frame die⟩
  case compare => exact State.answer_of hdie hw
  case none =>
    exact (State.answer_of (by simp only [hdie, hsrc, hne, Bool.and_self]) hup).trans (by rw [s.sieveReceive_of_none hn])
  case some =>
    have hx : exec (.sieveRecordReceived die src x) s = .next (s.sieveReceive die src x) :=
      State.answer_of (by simp only [hdie, hsrc, hne, Bool.and_self]) hup
    rw [s.sieveReceive_of_some hb] at hx
    refine ⟨_, hx, ?_, ?_, fun hd r hr hp => ?_⟩
    · rw [State.takeSigs_svDie, State.heard, State.svDie_setSvDie, if_pos rfl]
      exact List.mem_cons_self ..
    · exact (s.setSvDie_sieve die _).trans (State.takeSigs_frame _ _ _ _)
    · refine State.takeSigs_other _ hd b (List.mem_filter.2 ⟨hr, beq_iff_eq.2 hp⟩)
  case clean =>
    unfold State.recordIn
    rw [hb]
    simp only [Transit.pass_of_no_flips hf, hc, hg, Bool.and_self, if_true]
  case cut =>
    unfold State.recordIn
    split
    · rw [hc]; rfl
    · rfl
  case message =>
    have hf := s.fence_fenceOn_self U.inst (sideOf die) iid (s.fence U.inst (1 - sideOf die) iid).reason
    exact ⟨_, State.answer_of hdie hdue, congrArg Fence.on hf, (congrArg Fence.reason hf).trans rfl, rfl⟩
  case fence =>
    have hx : exec (.fenceMessage fd r.iid false) s = .next (s.fenceOn U.inst 1 r.iid (s.fence U.inst 0 r.iid).reason) :=
      State.answer_of hfd (List.any_eq_true.2 ⟨r, hr, by simp [hrd, hdue]⟩)
    have hf := s.fence_fenceOn_self U.inst 1 r.iid (s.fence U.inst 0 r.iid).reason
    exact ⟨_, hx, congrArg Fence.on hf, (congrArg Fence.reason hf).trans rfl, rfl⟩
  case clear =>
    have hx : exec (.fenceMessage fd r.iid true) s = .next
        (s.setFence U.inst 1 r.iid { s.fence U.inst 1 r.iid with readmit := (s.fence U.inst 0 r.iid).readmit }) :=
      State.answer_of hfd (List.any_eq_true.2 ⟨r, hr, by simp [hrd, hdue]⟩)
    have hf := (State.fence_setFence s U.inst 1 r.iid { s.fence U.inst 1 r.iid with readmit := (s.fence U.inst 0 r.iid).readmit } U.inst 1 r.iid).trans
      (if_pos ⟨rfl, rfl, rfl⟩)
    have hon : (s.fence U.inst 1 r.iid).on = true := by
      simp only [State.messageDue, if_true, Bool.and_eq_true] at hdue
      exact hdue.1.1.2
    exact ⟨_, hx, (congrArg Fence.on hf).trans hon, (congrArg Fence.readmit hf).trans rfl, rfl⟩
  case inst =>
    intro s die r t c
    refine ⟨s.compareInst_agree, fun h => ⟨fun hc => ?_, fun hc => ?_⟩⟩
    · exact (s.compareInst_differ h).trans (by rw [decide_eq_false (by omega), State.on_false])
    · have ht : t = _ := s.compareInst_differ h
      rw [decide_eq_true (by omega), State.on_true] at ht
      have hf := State.sieveFence_fence ((s.setDcnt die (s.sieveIdx die r) (min 3 (s.dcnt die (s.sieveIdx die r) + 1))).count
        (sieveFld die F.SIEVEP_SCNT_DISWIN F.SIEVEH_SCNT_DISWIN) die 0) die r
      rw [ht]
      exact ⟨congrArg Fence.on hf, congrArg Fence.reason hf⟩

end Sys2Proof.Machine
end

section
/-! SUPPORT. The events of one terminal (R51, R53, R55, R57, R61). -/

namespace Sys2Proof.Machine

/-- What a terminal's event may change. -/
def Frame.termEvent : Frame := ⟨fun s t => State.withRegs { s with terms := t.terms, busErr := t.busErr } t.regs, fun _ => rfl, fun _ _ _ => rfl⟩

/-- An event of terminal `t`: beside the listed fields it changes that terminal's state only. -/
structure TermEvent (fd t : Nat) (l : List (Fld × Nat × Nat)) (s u : State) : Prop where
  change : Change .termEvent l s u
  others : ∀ g k, 64 * g + k ≠ 64 * fd + t → u.term g k = s.term g k

namespace TermEvent

variable {fd t : Nat} {l : List (Fld × Nat × Nat)} {s u v : State}

theorem trans (h : TermEvent fd t l s u) (k : TermEvent fd t l u v) : TermEvent fd t l s v :=
  ⟨h.change.trans k.change, fun g n hn => (k.others g n hn).trans (h.others g n hn)⟩

theorem after (k : TermEvent fd t l u v) (h : TermEvent fd t l s u) : TermEvent fd t l s v := h.trans k

theorem refl (s : State) : TermEvent fd t l s s := ⟨.refl _ _ _, fun _ _ _ => rfl⟩

theorem on {c : Bool} {op : State → State} (h : TermEvent fd t l s (op s)) : TermEvent fd t l s (s.on c op) := by
  cases c
  · exact refl s
  · exact h

theorem put (s : State) {F : Fld} {d i : Nat} (v : Nat) (h : (F, d, i) ∈ l) : TermEvent fd t l s (s.put F d i v) :=
  ⟨.put s v h, fun _ _ _ => rfl⟩

theorem setTerm (s : State) (x : TermSt) : TermEvent fd t l s (s.setTerm fd t x) :=
  ⟨.ofFrame rfl rfl, fun _ _ h => (State.term_setTerm _ _ _ _ _ _).trans (if_neg h)⟩

theorem respond (s : State) (b : Bool) : TermEvent fd t l s (s.respond b) := ⟨.ofFrame rfl rfl, fun _ _ _ => rfl⟩

theorem only (h : TermEvent fd t l s u) : OnlyFields { s with terms := u.terms, busErr := u.busErr } u l ∧
    ∀ g k, 64 * g + k ≠ 64 * fd + t → u.term g k = s.term g k :=
  ⟨⟨h.change.frame, h.change.fields⟩, h.others⟩

end TermEvent

namespace State

variable (s : State) {fd t : Nat} {l : List (Fld × Nat × Nat)}

theorem switchOff_event (hp : (F.TERM_HSTAT_PENA, fdie fd, t) ∈ l) (hh : (F.TERM_HSTAT_HENA, fdie fd, t) ∈ l) :
    TermEvent fd t l s (s.switchOff fd t) := by
  unfold State.switchOff
  exact .after (t := t) (u := (s.put F.TERM_HSTAT_PENA (fdie fd) t 0).put F.TERM_HSTAT_HENA (fdie fd) t 0) (.setTerm _ _)
    (.after (.put _ _ hh) (.put _ _ hp))

theorem disengage_event (h : (F.TERM_HSTAT_HLIM, fdie fd, t) ∈ l) : TermEvent fd t l s (s.disengage fd t) :=
  .after (.put _ _ h) (.setTerm _ _)

theorem flagPend_event {k : Nat} (h : (faultFld k, fdie fd, t) ∈ l) : TermEvent fd t l s (s.flagPend fd t k) :=
  .after (.setTerm _ _) (.put _ _ h)

/-- A terminal with a pending protection stays off. -/
theorem heldOff_of_pend (h : (s.term fd t).pend.testBit 0 = true ∨ (s.term fd t).pend.testBit 8 = true) : s.heldOff fd t = true := by
  unfold State.heldOff
  rcases h with h | h <;> simp [h]

theorem heldOff_of_therm (h : (s.term fd t).therm = true) : s.heldOff fd t = true := by
  unfold State.heldOff
  simp [h]

/-- The terminal after its fence is due. -/
theorem flagPend_pend (k : Nat) : ((s.flagPend fd t k).term fd t).pend.testBit k = true := by
  have h : (s.flagPend fd t k).term fd t = { s.term fd t with pend := (s.term fd t).pend ||| 2 ^ k } :=
    (State.term_setTerm _ _ _ _ _ _).trans (if_pos rfl)
  rw [h, Nat.testBit_or, Nat.testBit_two_pow_self, Bool.or_true]

theorem get_flagPend (k : Nat) (G : Fld) (d i : Nat) : (s.flagPend fd t k).get G d i = (s.raiseFlag (faultFld k) (fdie fd) t).get G d i := rfl

theorem get_raiseFlag (F : Fld) (d i : Nat) : (s.raiseFlag F d i).get F d i = 2 ^ F.w - 1 := by
  rw [State.raiseFlag, State.get_put, if_pos ⟨rfl, rfl⟩, Nat.mod_eq_of_lt (Nat.sub_lt (Nat.two_pow_pos _) Nat.one_pos)]

theorem gdCross_event {above : Bool} (h : (F.TERM_HSTAT_HLIM, fdie fd, t) ∈ l) : TermEvent fd t l s (s.gdCross fd t above) := by
  unfold State.gdCross
  exact .after (.on (.put _ _ h)) (.setTerm _ _)

end State

/-- Settles O25. -/
theorem terminalEventsActOnTheirTerminal : Obligations.TerminalEventsActOnTheirTerminal := by
  intro s fd t m above hfd ht d only
  have hunit : (s.hasFd fd && decide (t < 64)) = true := by rw [hfd, decide_eq_true ht]; rfl
  refine ⟨fun hl hn => ?engage, fun hl => ?release, fun hl => ?short, fun hm ho => ?gdTrip, fun hm => ?cross, fun h2 h4 => ?thermal,
    fun hs => ?supp, fun ho => ?openLoad, fun hw => ?clear⟩
  case engage =>
    refine ⟨_, State.answer_of hunit (by rw [hl, hn]; rfl), by simp [State.engage, State.count], by simp [State.engage, State.count, d], ?_, ?_⟩
    · exact (State.get_count ((s.setTerm fd t _).put F.TERM_HSTAT_HLIM d t 1) F.TERM_FCNT_LIMCNT d t).trans (by simp)
    · exact TermEvent.only (.after (.put _ _ (by simp [d])) (.after (.put _ _ (by simp [d])) (.setTerm _ _)))
  case release =>
    exact ⟨_, State.answer_of hunit hl, by simp [State.disengage], by simp [State.disengage, d], (s.disengage_event (by simp [d])).only⟩
  case short =>
    have hpend := ((s.switchOff fd t).disengage fd t).flagPend_pend (fd := fd) (t := t) 0
    refine ⟨_, State.answer_of hunit hl, ?_, ?_, State.get_raiseFlag _ _ _ _, hpend, State.heldOff_of_pend _ (.inl hpend), ?_⟩
    · simp [State.get_flagPend, State.raiseFlag, faultFld, State.disengage, State.switchOff, d]
    · simp [State.get_flagPend, State.raiseFlag, faultFld, State.disengage, State.switchOff, d]
    · exact TermEvent.only (.after (State.flagPend_event _ (by simp [d, faultFld])) (.after (State.disengage_event _ (by simp [d]))
        (s.switchOff_event (by simp [d]) (by simp [d]))))
  case gdTrip =>
    have hpend : ((s.gdTrip fd t).term fd t).pend.testBit 8 = true := State.flagPend_pend _ 8
    refine ⟨_, State.answer_of hunit (by rw [hm, ho]; rfl), ?_, ?_, State.get_raiseFlag _ _ _ _, ?_, hpend, State.heldOff_of_pend _ (.inr hpend), ?_⟩
    · simp [State.gdTrip, State.get_flagPend, State.raiseFlag, faultFld, State.switchOff, d]
    · simp [State.gdTrip, State.get_flagPend, State.raiseFlag, faultFld, State.switchOff, d]
    · simp [State.gdTrip, State.get_flagPend, State.raiseFlag, faultFld, State.switchOff, d]
    · exact TermEvent.only (.after (State.flagPend_event _ (by simp [d, faultFld])) (.after (.put _ _ (by simp [d])) (.after (.setTerm _ _)
        (s.switchOff_event (by simp [d]) (by simp [d])))))
  case cross =>
    have hterm : (s.gdCross fd t above).term fd t = { s.term fd t with gdOver := above, gdTrip := (s.term fd t).gdTrip && above } := by
      unfold State.gdCross
      rw [State.on_apply (State.term · fd t)]
      simp
    have hlim : (s.gdCross fd t above).get F.TERM_HSTAT_HLIM d t =
        if (s.term fd t).gdTrip = true ∧ above = false then 0 else s.get F.TERM_HSTAT_HLIM d t := by
      unfold State.gdCross
      rw [State.on_apply (State.get · F.TERM_HSTAT_HLIM d t)]
      simp [d]
    exact ⟨_, State.answer_of hunit (by rw [hm]; rfl), by rw [hterm], by rw [hterm], hlim, (s.gdCross_event (by simp [d])).only⟩
  case thermal =>
    have htherm : ((((s.switchOff fd t).setTerm fd t { (s.switchOff fd t).term fd t with therm := true }).put F.TERM_HSTAT_HTHERM d t 1).term fd t).therm =
        true := by simp
    refine ⟨_, State.answer_of hunit (by rw [decide_eq_true h2, decide_eq_true h4]; rfl), ?_, ?_, ?_, htherm, State.heldOff_of_therm _ htherm, ?_⟩
    · simp [State.switchOff, d]
    · simp [State.switchOff, d]
    · simp [d]
    · exact TermEvent.only (.after (.put _ _ (by simp [d])) (.after (.setTerm _ _) (s.switchOff_event (by simp [d]) (by simp [d]))))
  case supp =>
    exact ⟨_, State.answer_of hunit hs, by simp, (TermEvent.setTerm s _).only⟩
  case openLoad =>
    refine ⟨_, State.answer_of hunit (decide_eq_true (le_max_iff.2 ho)), State.get_raiseFlag _ _ _ _, onlyFields_put _ _ _ _ _⟩
  case clear =>
    have hx : exec (.termFenceClr m fd t) s = .next ((s.setTerm fd t { s.term fd t with clrReq := true }).respond false) :=
      (State.answer_of hunit rfl).trans (by rw [asWrite_admitted hw])
    exact ⟨_, hx, by simp, rfl, TermEvent.only (.after (.respond _ _) (.setTerm _ _))⟩

end Sys2Proof.Machine
end

section
/-! SUPPORT. Sense paths, masks and slot ends (R50, R54, R56, R58, R78, R82). -/

namespace Sys2Proof.Machine

/-- Terminals and the capture edges in flight. -/
def Frame.senses : Frame := ⟨fun s t => { s with terms := t.terms, capIn := t.capIn }, fun _ => rfl, fun _ _ _ => rfl⟩

/-- Terminals and registers. -/
def Frame.slots : Frame := ⟨fun s t => State.withRegs { s with terms := t.terms } t.regs, fun _ => rfl, fun _ _ _ => rfl⟩

/-- What the end of a slot may change. -/
def Frame.slotEnd : Frame :=
  ⟨fun s t => State.withRegs { s with terms := t.terms, fields := t.fields } t.regs, fun _ => rfl, fun _ _ _ => rfl⟩

namespace State

variable (s : State)

theorem setSlot_frame (fd : Nat) (h : Bool) (k : Nat) : Frame.slotEnd.Holds s (s.setSlot fd h k) := rfl

theorem setTerm_senses (fd t : Nat) (x : TermSt) : Frame.senses.Holds s (s.setTerm fd t x) := rfl

theorem setTerm_slots (fd t : Nat) (x : TermSt) : Frame.slots.Holds s (s.setTerm fd t x) := rfl

theorem setCapDue_senses (die n v : Nat) : Frame.senses.Holds s (s.setCapDue die n v) := rfl

theorem capArm_senses (die n : Nat) (rising : Bool) : Frame.senses.Holds s (s.capArm die n rising) := by
  unfold State.capArm
  exact Frame.on fun _ => s.setCapDue_senses _ _ _

theorem capArm_term (die n : Nat) (rising : Bool) (g k : Nat) : (s.capArm die n rising).term g k = s.term g k := by
  unfold State.capArm
  exact State.on_same (State.term · g k) rfl

theorem openMasks_senses (fd src : Nat) (h : Bool) (time : Nat) : Frame.senses.Holds s (s.openMasks fd src h time) := by
  unfold State.openMasks
  exact Frame.each (fun s u _ => s.setTerm_senses _ _ _) s

/-- A mask holds a state and a code and leaves the code of its path. -/
theorem openMasks_code (fd src : Nat) (h : Bool) (time g k : Nat) (b : Bool) :
    (((s.openMasks fd src h time).term g k).path b).code = ((s.term g k).path b).code := by
  unfold State.openMasks
  refine State.each_same (fun s => ((s.term g k).path b).code) (fun s u _ => ?_) s
  dsimp only
  rw [State.term_setTerm]
  split
  next hk =>
    have hterm : s.term fd u = s.term g k := by unfold State.term; rw [hk]
    cases h <;> cases b <;> simp only [TermSt.path, hterm, if_true, Bool.false_eq_true, if_false] <;> split <;> rfl
  next => rfl

/-- What follows the change of a path: captures and masks. -/
def voltageAfter (fd t : Nat) (h : Bool) (at_ : Nat) (arm rising masks : Bool) : State :=
  (s.on arm fun s => s.each (s.windowTimers fd t) fun s n => s.capArm (fdie fd) n rising).on masks fun s => s.openMasks fd t h at_

theorem voltageAfter_senses (fd t : Nat) (h : Bool) (at_ : Nat) (arm rising masks : Bool) :
    Frame.senses.Holds s (s.voltageAfter fd t h at_ arm rising masks) :=
  (Frame.on fun _ => Frame.each (fun s _ _ => s.capArm_senses _ _ _) s).trans (Frame.on fun _ => State.openMasks_senses _ _ _ _ _)

theorem voltageAfter_code (fd t : Nat) (h : Bool) (at_ : Nat) (arm rising masks : Bool) (g k : Nat) (b : Bool) :
    (((s.voltageAfter fd t h at_ arm rising masks).term g k).path b).code = ((s.term g k).path b).code := by
  let code (s : State) := ((s.term g k).path b).code
  have harm : code (s.on arm fun s => s.each (s.windowTimers fd t) fun s n => s.capArm (fdie fd) n rising) = code s :=
    State.on_same code (State.each_same code (fun s _ _ => congrArg (fun x : TermSt => (x.path b).code) (s.capArm_term _ _ _ g k)) s)
  exact (State.on_same code (State.openMasks_code _ _ _ _ _ g k b)).trans harm

theorem voltage_eq (fd t : Nat) (h : Bool) (code time : Nat) : ∃ at_ arm rising masks, s.voltage fd t h code time =
    (s.setTerm fd t ((s.term fd t).setPath h (s.pathChange fd t ((s.term fd t).path h) code at_))).voltageAfter fd t h at_ arm rising masks :=
  ⟨_, _, _, _, rfl⟩

theorem slotEndIn_slots (fd t slot : Nat) (h : Bool) : Frame.slots.Holds s (s.slotEndIn fd t slot h) := by
  unfold State.slotEndIn
  exact (s.setTerm_slots _ _ _).trans (Frame.on fun _ => (Frame.put _ _ _ _ _).wider)

theorem slotEndIn_regs (fd t slot : Nat) (h : Bool) : RegsWithin [.TERM_FCNT, .TERM_FAULT] s (s.slotEndIn fd t slot h) := by
  unfold State.slotEndIn
  exact .after (.on (.put _ _ _ _ _ (by decide))) (.ofRegs _ rfl)

theorem flagPend_slots (fd t k : Nat) : Frame.slots.Holds s (s.flagPend fd t k) := rfl

theorem slotEndSource_slots (fd t : Nat) (h : Bool) (ic : Nat) : Frame.slots.Holds s (s.slotEndSource fd t h ic) := by
  unfold State.slotEndSource
  dsimp only
  refine Frame.ite (fun _ => ?_) fun _ => ?_
  · exact (s.setTerm_slots _ _ _).trans (Frame.on fun _ => (Frame.put _ _ _ _ _).wider)
  · exact (s.setTerm_slots _ _ _).trans (Frame.on fun _ => Frame.ite (fun _ => State.flagPend_slots _ _ _ _)
      fun _ => Frame.on fun _ => State.flagPend_slots _ _ _ _)

theorem flagPend_regs (fd t : Nat) {k : Nat} (hk : (faultFld k).reg ∈ [Reg.TERM_FCNT, .TERM_FAULT]) :
    RegsWithin [.TERM_FCNT, .TERM_FAULT] s (s.flagPend fd t k) :=
  .after (.ofRegs _ rfl) (.put s _ _ _ _ hk)

theorem slotEndSource_regs (fd t : Nat) (h : Bool) (ic : Nat) : RegsWithin [.TERM_FCNT, .TERM_FAULT] s (s.slotEndSource fd t h ic) := by
  unfold State.slotEndSource
  dsimp only
  split
  · exact .after (.on (.put _ _ _ _ _ (by decide))) (.ofRegs _ rfl)
  · refine .after (.on ?_) (.ofRegs _ rfl)
    split
    · exact State.flagPend_regs _ _ _ (by decide)
    · exact .on (State.flagPend_regs _ _ _ (by decide))

/-- The checkers of one side at the end of a slot. -/
def slotCheckers (fd slot : Nat) (h : Bool) (ic : List (Nat × Nat)) : State :=
  let s2 := s.each ((List.range 64).filter (s.tpIn fd)) fun s t => s.slotEndIn fd t slot h
  s2.each ((List.range 64).filter fun t => s2.tpSource fd t && (s2.codeSlots fd t).contains slot) fun s t =>
    s.slotEndSource fd t h ((ic.lookup t).getD 0)

theorem slotCheckers_slots (fd slot : Nat) (h : Bool) (ic : List (Nat × Nat)) : Frame.slots.Holds s (s.slotCheckers fd slot h ic) :=
  (Frame.each (fun s _ _ => s.slotEndIn_slots _ _ _ _) s).trans (Frame.each (fun s _ _ => s.slotEndSource_slots _ _ _ _) _)

theorem slotCheckers_regs (fd slot : Nat) (h : Bool) (ic : List (Nat × Nat)) :
    RegsWithin [.TERM_FCNT, .TERM_FAULT] s (s.slotCheckers fd slot h ic) :=
  (RegsWithin.each (fun s _ _ => s.slotEndIn_regs _ _ _ _) s).trans (RegsWithin.each (fun s _ _ => s.slotEndSource_regs _ _ _ _) _)

theorem slotEnd_eq (fd slot : Nat) (h : Bool) (ic : List (Nat × Nat)) : s.slotEnd fd slot h ic =
    ((s.setSlot fd h ((slot + 1) % 32)).on h fun s => s.put F.TP_FRAME_SLOTNOW (fdie fd) 0 ((slot + 1) % 32)).slotCheckers fd slot h ic := rfl

theorem slot_setSlot (fd : Nat) (h b : Bool) (k g : Nat) :
    ((s.setSlot fd h k).field g).slot b = if g = fd ∧ b = h then k else (s.field g).slot b := by
  unfold State.setSlot
  rw [State.field_setField]
  by_cases hg : g = fd
  · subst hg
    cases h <;> cases b <;> simp [FieldSt.slot]
  · simp [hg]

theorem field_setSlot_other (fd : Nat) (h : Bool) (k : Nat) {g : Nat} (hg : g ≠ fd) : (s.setSlot fd h k).field g = s.field g := by
  unfold State.setSlot
  rw [State.field_setField, if_neg hg]

end State

/-- Settles O26. -/
theorem voltagesAndSlotsReachTheCheckers : Obligations.VoltagesAndSlotsReachTheCheckers := by
  intro s fd t code time slot h ic hfd
  have hunit (ht : t < 64) : (s.hasFd fd && decide (t < 64)) = true := by rw [hfd, decide_eq_true ht]; rfl
  refine ⟨fun ht hc htm hin => ?voltage, fun ht hm hc => ?mask, fun hs hon hdue => ?slot, fun hr hne => ?late, fun hoff => ?off⟩
  case voltage =>
    obtain ⟨at_, arm, rising, masks, he⟩ := s.voltage_eq fd t h code time
    refine ⟨_, State.answer_of (hunit ht) (by rw [decide_eq_true hc, decide_eq_true htm, hin]; rfl), ?_, ?_, fun g k b hk => ?_, ?_⟩
    · rw [he, State.voltageAfter_code, State.term_setTerm, if_pos rfl]
      cases h <;> rfl
    · rw [he, State.voltageAfter_code, State.term_setTerm, if_pos rfl]
      cases h <;> rfl
    · rw [he, State.voltageAfter_code, State.term_setTerm, if_neg hk]
    · rw [he]
      exact (s.setTerm_senses fd t _).trans (State.voltageAfter_senses _ _ _ _ _ _ _ _)
  case mask =>
    have hpath : (s.maskClose fd t h).term fd t = (s.term fd t).setPath h
        { (s.term fd t).path h with chk := { ((s.term fd t).path h).chk with mask := false } } := by
      cases h <;> exact (State.term_setTerm _ _ _ _ _ _).trans (if_pos rfl)
    refine ⟨s.maskClose fd t h, State.answer_of (hunit ht) ?_, ?_, ?_, rfl⟩
    · exact Bool.and_eq_true_iff.2 ⟨hm, decide_eq_true hc⟩
    · rw [hpath]
      cases h <;> rfl
    · rw [hpath]
      cases h <;> rfl
  case slot =>
    have hother (g : Nat) (b : Bool) : ((s.slotEnd fd slot h ic).field g).slot b = ((s.setSlot fd h ((slot + 1) % 32)).field g).slot b := by
      rw [State.slotEnd_eq, (State.slotCheckers_slots _ _ _ _ _).same fun s => (s.field g).slot b]
      exact State.on_same (fun s => (s.field g).slot b) rfl
    refine ⟨_, State.answer_of hfd (by rw [decide_eq_true hs, hon, hdue]; rfl), rfl, ?_, ?_, ?_, fun g hg => ?_, ?_⟩
    · rw [State.slotEnd_eq, State.slotCheckers_regs _ _ _ _ _ F.TP_FRAME_SLOTNOW _ _ (by decide)]
      cases h
      · rfl
      · exact (State.get_put _ _ _ _ _ _ _).trans ((if_pos ⟨rfl, rfl⟩).trans (Nat.mod_eq_of_lt (Nat.mod_lt _ (by decide))))
    · rw [hother, State.slot_setSlot, if_pos ⟨rfl, rfl⟩]
    · rw [hother, State.slot_setSlot, if_neg (by simp)]
    · rw [State.slotEnd_eq, (State.slotCheckers_slots _ _ _ _ _).same (State.field · g)]
      exact (State.on_same (State.field · g) rfl).trans (s.field_setSlot_other fd h _ hg)
    · exact ((State.setSlot_frame _ _ _ _).trans (Frame.on fun _ => (Frame.put _ _ _ _ _).wider)).trans
        (State.slotCheckers_slots _ _ _ _ _).wider
  case late =>
    refine State.answer_idle ?_
    rw [State.slotDue, hr, decide_eq_false hne]
    simp
  case off => exact State.answer_idle (by rw [hoff]; simp)

end Sys2Proof.Machine
end

section
/-! SUPPORT. The timers (R65 to R74): what an event of a timer changes. -/

namespace Sys2Proof.Machine

/-- Two fields lie at different places. -/
def Fld.Apart (F G : Fld) : Prop := F.same G = false

/-- The fields of a timer block that its events move. -/
def TmrFlds.moving (f : TmrFlds) : List Fld :=
  [f.en, f.cnt, f.reload, f.cmppre, f.cmp, f.cap, f.zero, f.match_, f.captured, f.overcap, f.pin]

/-- They lie at different places of the register block (R76). -/
theorem tmr_apart (die : Nat) : (tmr die).moving.Pairwise fun F G => F.Apart G ∧ G.Apart F := by
  unfold tmr Fld.Apart
  split <;> decide

theorem tmr_flag_widths (die : Nat) : (tmr die).en.w = 1 ∧ (tmr die).zero.w = 1 ∧ (tmr die).match_.w = 1 ∧ (tmr die).captured.w = 1 ∧
    (tmr die).overcap.w = 1 ∧ (tmr die).pin.w = 1 := by
  unfold tmr
  split <;> decide

theorem tmr_count_widths (die : Nat) : (tmr die).cnt.w = 24 ∧ (tmr die).cmp.w = 24 ∧ (tmr die).cap.w = 24 := by
  unfold tmr
  split <;> decide

theorem Change.get_apart {f : Frame} {l : List (Fld × Nat × Nat)} {s t : State} (h : Change f l s t) {G : Fld}
    (hG : ∀ x ∈ l, x.1.Apart G) (d i : Nat) : t.get G d i = s.get G d i :=
  h.fields G d i fun x hx hk => by
    obtain ⟨hr, hlo, -, -⟩ := Fld.key_eq.1 hk
    have hs := hG x hx
    simp [Fld.Apart, Fld.same, hr, hlo] at hs

theorem State.get_put_apart (s : State) {F G : Fld} (h : F.Apart G) (d i v e j : Nat) : (s.put F d i v).get G e j = s.get G e j :=
  s.get_put_other F G d i v e j h

/-- The capture edges in flight. -/
def Frame.edges : Frame := ⟨fun s t => State.withRegs { s with capIn := t.capIn } t.regs, fun _ => rfl, fun _ _ _ => rfl⟩

/-- The capture edges in flight, and the terminals. -/
def Frame.pulses : Frame :=
  ⟨fun s t => State.withRegs { s with capIn := t.capIn, terms := t.terms } t.regs, fun _ => rfl, fun _ _ _ => rfl⟩

/-- The arrival of one edge takes it from those in flight. -/
theorem testBit_sub_low {n : Nat} (h : n.testBit 0 = true) : (n - 1).testBit 0 = false ∧ (n - 1).testBit 1 = n.testBit 1 := by
  simp only [Nat.testBit_eq_decide_div_mod_eq, decide_eq_true_eq, decide_eq_false_iff_not, decide_eq_decide] at h ⊢
  omega

theorem testBit_sub_high {n : Nat} (h : n.testBit 1 = true) : (n - 2).testBit 1 = false ∧ (n - 2).testBit 0 = n.testBit 0 := by
  simp only [Nat.testBit_eq_decide_div_mod_eq, decide_eq_true_eq, decide_eq_false_iff_not, decide_eq_decide] at h ⊢
  omega

namespace State

variable (s : State) {l : List (Fld × Nat × Nat)}

theorem setCapDue_change (die n v : Nat) : Change .edges l s (s.setCapDue die n v) := .ofFrame rfl rfl

theorem capArm_change (die n : Nat) (rising : Bool) : Change .edges l s (s.capArm die n rising) := by
  unfold State.capArm
  exact .on fun _ => s.setCapDue_change _ _ _

theorem eventEdge_change (die n : Nat) (rising : Bool) : Change .edges l s (s.eventEdge die n rising) := by
  unfold State.eventEdge
  exact .each (fun s _ _ => s.capArm_change _ _ _) s

theorem pinSet_change {die n : Nat} (b : Bool) (h : ((tmr die).pin, die, n) ∈ l) : Change .edges l s (s.pinSet die n b) := by
  unfold State.pinSet
  exact (Change.put s _ h).trans (.on fun _ => State.eventEdge_change _ _ _ _)

theorem get_pinSet (die n : Nat) (b : Bool) : (s.pinSet die n b).get (tmr die).pin die n = b.toNat := by
  have hev : ((s.putB (tmr die).pin die n b).eventEdge die n b).get (tmr die).pin die n = (s.putB (tmr die).pin die n b).get (tmr die).pin die n :=
    (State.eventEdge_change (l := []) _ die n b).fields (tmr die).pin die n (by simp)
  unfold State.pinSet
  rw [State.on_apply (fun t => t.get (tmr die).pin die n), hev, ite_self, State.putB, State.get_put, if_pos ⟨rfl, rfl⟩,
    (tmr_flag_widths die).2.2.2.2.2]
  cases b <;> rfl

theorem pinAct_change {die n : Nat} (code : Nat) (h : ((tmr die).pin, die, n) ∈ l) : Change .edges l s (s.pinAct die n code) := by
  unfold State.pinAct
  split
  · exact .refl _ _ _
  all_goals exact s.pinSet_change _ h

/-- The pin after an action of R68. -/
def pinAfter (die n code : Nat) : Nat :=
  if code = 0 then s.get (tmr die).pin die n else if code = 1 then 1 else if code = 2 then 0 else (!s.flag (tmr die).pin die n).toNat

theorem get_pinAct (die n code : Nat) : (s.pinAct die n code).get (tmr die).pin die n = s.pinAfter die n code := by
  unfold State.pinAct State.pinAfter
  split
  · rfl
  · exact s.get_pinSet die n true
  · exact s.get_pinSet die n false
  next h0 h1 h2 => rw [s.get_pinSet die n, if_neg h0, if_neg h1, if_neg h2]

/-- What a timer's wrap leaves. -/
theorem wrap_counts (die n : Nat) : (s.wrap die n).get (tmr die).cnt die n = s.get (tmr die).reload die n % 2 ^ 24 ∧
    (s.wrap die n).get (tmr die).cmp die n = s.get (tmr die).cmppre die n % 2 ^ 24 := by
  have hap := tmr_apart die
  obtain ⟨hcnt, hcmp, -⟩ := tmr_count_widths die
  simp only [TmrFlds.moving, List.pairwise_cons, List.forall_mem_cons, List.not_mem_nil, false_imp_iff, implies_true, and_true] at hap
  simp [State.wrap, State.get_put_apart, hap, hcnt, hcmp]

theorem wrap_change {die n : Nat} {f : Frame} (hcnt : ((tmr die).cnt, die, n) ∈ l) (hcmp : ((tmr die).cmp, die, n) ∈ l)
    (hf : ∀ s t, f.merge s (Frame.regs.merge s t) = Frame.regs.merge s t := by intros; rfl) : Change f l s (s.wrap die n) :=
  (Change.put s _ hcnt hf).trans (.put _ _ hcmp hf)

/-- The flags and the pin at a zero event. -/
def zeroFlags (die n act : Nat) : State :=
  ((s.raiseFlag (tmr die).zero die n).on (s.get (tmr die).cmp die n == 0) fun s => s.raiseFlag (tmr die).match_ die n).pinAct die n act

theorem zeroFlags_change {die n : Nat} (act : Nat) (hz : ((tmr die).zero, die, n) ∈ l) (hm : ((tmr die).match_, die, n) ∈ l)
    (hp : ((tmr die).pin, die, n) ∈ l) : Change .edges l s (s.zeroFlags die n act) :=
  ((Change.put _ _ hz).trans (.on fun _ => .put _ _ hm)).trans (State.pinAct_change _ _ hp)

theorem get_zeroFlags (die n act : Nat) : (s.zeroFlags die n act).get (tmr die).zero die n = 1 ∧
    (s.zeroFlags die n act).get (tmr die).match_ die n = (if s.get (tmr die).cmp die n = 0 then 1 else s.get (tmr die).match_ die n) ∧
    (s.zeroFlags die n act).get (tmr die).pin die n = s.pinAfter die n act := by
  have hap := tmr_apart die
  obtain ⟨-, hz, hm, -, -, hp⟩ := tmr_flag_widths die
  simp only [TmrFlds.moving, List.pairwise_cons, List.forall_mem_cons, List.not_mem_nil, false_imp_iff, implies_true, and_true] at hap
  have hc (u : State) : Change .edges [((tmr die).pin, die, n)] u (u.pinAct die n act) := u.pinAct_change act (by simp)
  unfold State.zeroFlags
  refine ⟨?_, ?_, ?_⟩
  · rw [(hc _).get_apart (by simp [hap])]
    cases h : s.get (tmr die).cmp die n == 0 <;> simp [State.raiseFlag, State.get_put_apart, hap, hz]
  · rw [(hc _).get_apart (by simp [hap])]
    cases h : s.get (tmr die).cmp die n == 0 <;> simp [State.raiseFlag, State.get_put_apart, hap, hm] <;> simp_all
  · rw [State.get_pinAct]
    cases h : s.get (tmr die).cmp die n == 0 <;> simp [State.pinAfter, State.raiseFlag, State.flag, State.get_put_apart, hap]

/-- A source's off-pulse writes the timer's preloads. -/
theorem pulseStart_change {fd n : Nat} (on : Bool) (hr : (F.FTMR_RELOAD_RELOAD, fdie fd, n) ∈ l) (hc : (F.FTMR_CMPPRE_CMPPRE, fdie fd, n) ∈ l) :
    Change .pulses l s (s.pulseStart fd n on) := by
  unfold State.pulseStart State.engineSet
  have hx (x : TermSt) : Change .pulses l s (s.setTerm fd n x) := .ofFrame rfl rfl
  exact (hx _).trans ((Change.put _ _ hr).trans (.put _ _ hc))

theorem pulse_change {die n : Nat} (c on : Bool) (hr : ((tmr die).reload, die, n) ∈ l) (hc : ((tmr die).cmppre, die, n) ∈ l) :
    Change .pulses l s (s.on (decide (2 ≤ die) && c) fun t => t.pulseStart (die - 2) n on) := by
  refine .on fun h => ?_
  obtain ⟨fd, rfl⟩ : ∃ fd, die = fdie fd := ⟨die - 2, by simp at h; unfold fdie; omega⟩
  have hf : (tmr (fdie fd)).reload = F.FTMR_RELOAD_RELOAD ∧ (tmr (fdie fd)).cmppre = F.FTMR_CMPPRE_CMPPRE := by simp [tmr, fdie]
  rw [hf.1] at hr
  rw [hf.2] at hc
  exact s.pulseStart_change _ hr hc

/-- The action at a zero event: that of a match in the same cycle goes first (R68). -/
def zeroAct (die n : Nat) : Nat :=
  if s.get (tmr die).cmp die n = 0 ∧ s.get (tmr die).mact die n ≠ 0 then s.get (tmr die).mact die n else s.get (tmr die).zact die n

theorem timerZero_eq (die n : Nat) : s.timerZero die n = ((s.zeroFlags die n (s.zeroAct die n)).wrap die n).on
    (decide (2 ≤ die) && s.get (tmr die).owner die n == 3) fun t => t.pulseStart (die - 2) n (s.drives (die - 2) n) := by
  have h : s.zeroAct die n = if s.get (tmr die).cmp die n == 0 && decide (s.get (tmr die).mact die n ≠ 0) then s.get (tmr die).mact die n
      else s.get (tmr die).zact die n := by simp [State.zeroAct]
  rw [h]
  rfl

theorem timerZero_effect (die n : Nat) : let t := s.timerZero die n
    t.get (tmr die).zero die n = 1 ∧ t.get (tmr die).cnt die n = s.get (tmr die).reload die n % 2 ^ 24 ∧
    t.get (tmr die).cmp die n = s.get (tmr die).cmppre die n % 2 ^ 24 ∧
    t.get (tmr die).match_ die n = (if s.get (tmr die).cmp die n = 0 then 1 else s.get (tmr die).match_ die n) ∧
    t.get (tmr die).pin die n = s.pinAfter die n (s.zeroAct die n) ∧
    Change .pulses [((tmr die).zero, die, n), ((tmr die).match_, die, n), ((tmr die).cnt, die, n), ((tmr die).cmp, die, n), ((tmr die).pin, die, n),
        ((tmr die).reload, die, n), ((tmr die).cmppre, die, n)] s t := by
  have hap := tmr_apart die
  simp only [TmrFlds.moving, List.pairwise_cons, List.forall_mem_cons, List.not_mem_nil, false_imp_iff, implies_true, and_true] at hap
  obtain ⟨hz, hm, hp⟩ := s.get_zeroFlags die n (s.zeroAct die n)
  obtain ⟨hcnt, hcmp⟩ := (s.zeroFlags die n (s.zeroAct die n)).wrap_counts die n
  have hflags := s.zeroFlags_change (die := die) (n := n) (l := [((tmr die).zero, die, n), ((tmr die).match_, die, n), ((tmr die).pin, die, n)])
    (s.zeroAct die n) (by simp) (by simp) (by simp)
  have hwrap := (s.zeroFlags die n (s.zeroAct die n)).wrap_change (f := .pulses) (die := die) (n := n)
    (l := [((tmr die).cnt, die, n), ((tmr die).cmp, die, n)]) (by simp) (by simp)
  have hpulse := ((s.zeroFlags die n (s.zeroAct die n)).wrap die n).pulse_change (die := die) (n := n)
    (l := [((tmr die).reload, die, n), ((tmr die).cmppre, die, n)]) (s.get (tmr die).owner die n == 3) (s.drives (die - 2) n) (by simp) (by simp)
  rw [← s.timerZero_eq die n] at hpulse
  refine ⟨?_, ?_, ?_, ?_, ?_, ?_⟩
  · rw [hpulse.get_apart (by simp [hap]), hwrap.get_apart (by simp [hap]), hz]
  · rw [hpulse.get_apart (by simp [hap]), hcnt, hflags.get_apart (by simp [hap])]
  · rw [hpulse.get_apart (by simp [hap]), hcmp, hflags.get_apart (by simp [hap])]
  · rw [hpulse.get_apart (by simp [hap]), hwrap.get_apart (by simp [hap]), hm]
  · rw [hpulse.get_apart (by simp [hap]), hwrap.get_apart (by simp [hap]), hp]
  · exact ((hflags.wider (fun _ _ => rfl) (by simp)).trans (hwrap.wider (fun _ _ => rfl) (by simp))).trans (hpulse.wider (fun _ _ => rfl) (by simp))

theorem timerMatch_effect (die n : Nat) : let t := s.timerMatch die n
    t.get (tmr die).match_ die n = 1 ∧ t.get (tmr die).pin die n = s.pinAfter die n (s.get (tmr die).mact die n) ∧
    t.get (tmr die).cnt die n = (s.get (tmr die).cmp die n - 1) % 2 ^ 24 ∧
    Change .edges [((tmr die).match_, die, n), ((tmr die).cnt, die, n), ((tmr die).pin, die, n)] s t := by
  have hap := tmr_apart die
  simp only [TmrFlds.moving, List.pairwise_cons, List.forall_mem_cons, List.not_mem_nil, false_imp_iff, implies_true, and_true] at hap
  obtain ⟨-, -, hm, -⟩ := tmr_flag_widths die
  obtain ⟨hcnt, -⟩ := tmr_count_widths die
  have hpin := (s.raiseFlag (tmr die).match_ die n).get_pinAct die n (s.get (tmr die).mact die n)
  have hc := (s.raiseFlag (tmr die).match_ die n).pinAct_change (die := die) (n := n) (l := [((tmr die).pin, die, n)])
    (s.get (tmr die).mact die n) (by simp)
  unfold State.timerMatch
  refine ⟨?_, ?_, ?_, ?_⟩
  · rw [State.get_put_apart _ (by simp [hap]), hc.get_apart (by simp [hap])]
    simp [State.raiseFlag, hm]
  · rw [State.get_put_apart _ (by simp [hap]), hpin]
    simp [State.pinAfter, State.flag, State.raiseFlag, State.get_put_apart, hap]
  · rw [State.get_put, if_pos ⟨rfl, rfl⟩, hcnt]
  · exact ((Change.put _ _ (by simp)).trans (hc.wider (fun _ _ => rfl) (by simp))).trans (.put _ _ (by simp))

theorem timerStart_effect (die n : Nat) : let t := (s.put (tmr die).en die n 1).wrap die n
    t.get (tmr die).en die n = 1 ∧ t.get (tmr die).cnt die n = s.get (tmr die).reload die n % 2 ^ 24 ∧
    t.get (tmr die).cmp die n = s.get (tmr die).cmppre die n % 2 ^ 24 ∧
    Change .regs [((tmr die).en, die, n), ((tmr die).cnt, die, n), ((tmr die).cmp, die, n)] s t := by
  have hap := tmr_apart die
  simp only [TmrFlds.moving, List.pairwise_cons, List.forall_mem_cons, List.not_mem_nil, false_imp_iff, implies_true, and_true] at hap
  obtain ⟨hcnt, hcmp⟩ := (s.put (tmr die).en die n 1).wrap_counts die n
  have hwrap := (s.put (tmr die).en die n 1).wrap_change (f := .regs) (die := die) (n := n)
    (l := [((tmr die).cnt, die, n), ((tmr die).cmp, die, n)]) (by simp) (by simp)
  rw [State.get_put_apart _ (by simp [hap])] at hcnt hcmp
  refine ⟨?_, hcnt, hcmp, (Change.put _ _ (by simp)).trans (hwrap.wider (fun _ _ => rfl) (by simp))⟩
  rw [hwrap.get_apart (by simp [hap]), State.get_put, if_pos ⟨rfl, rfl⟩, (tmr_flag_widths die).1]
  rfl

theorem timerStop_effect (die n e : Nat) :
    let t := (s.put (tmr die).en die n 0).put (tmr die).cnt die n (s.get (tmr die).cnt die n - e)
    t.get (tmr die).en die n = 0 ∧ t.get (tmr die).cnt die n = (s.get (tmr die).cnt die n - e) % 2 ^ 24 ∧
    Change .regs [((tmr die).en, die, n), ((tmr die).cnt, die, n)] s t := by
  have hap := tmr_apart die
  simp only [TmrFlds.moving, List.pairwise_cons, List.forall_mem_cons, List.not_mem_nil, false_imp_iff, implies_true, and_true] at hap
  refine ⟨?_, ?_, (Change.put _ _ (by simp)).trans (.put _ _ (by simp))⟩
  · simp [State.get_put_apart, hap]
  · rw [State.get_put, if_pos ⟨rfl, rfl⟩, (tmr_count_widths die).1]

/-- An edge's arrival takes it and no other from those in flight. -/
theorem edgeDue_capture {die n : Nat} {rising : Bool} (h : s.edgeDue die n rising = true) (u : State)
    (hu : u.capDue die n = s.capDue die n - (if rising then 1 else 2)) :
    u.edgeDue die n rising = false ∧ u.edgeDue die n (!rising) = s.edgeDue die n (!rising) := by
  unfold State.edgeDue at h ⊢
  rw [hu]
  cases rising
  · exact testBit_sub_high h
  · exact testBit_sub_low h

theorem capture_effect (die n elapsed due : Nat) : let t := s.capture die n elapsed due
    t.get (tmr die).cap die n = (s.get (tmr die).cnt die n - elapsed) % 2 ^ 24 ∧ t.get (tmr die).captured die n = 1 ∧ t.capDue die n = due ∧
    t.get (tmr die).overcap die n = (if s.flag (tmr die).captured die n then 1 else s.get (tmr die).overcap die n) ∧
    Change .edges [((tmr die).cap, die, n), ((tmr die).cnt, die, n), ((tmr die).captured, die, n), ((tmr die).overcap, die, n)] s t := by
  have hap := tmr_apart die
  simp only [TmrFlds.moving, List.pairwise_cons, List.forall_mem_cons, List.not_mem_nil, false_imp_iff, implies_true, and_true] at hap
  obtain ⟨-, -, -, hcd, hov, -⟩ := tmr_flag_widths die
  obtain ⟨-, -, hcap⟩ := tmr_count_widths die
  unfold State.capture
  refine ⟨?_, ?_, ?_, ?_, ?_⟩
  · simp [State.get_put_apart, hap, hcap]
  · simp [hcd]
  · simp
  · cases h : s.flag (tmr die).captured die n <;> simp [State.get_put_apart, hap, State.raiseFlag, hov, h]
  · exact ((((Change.on fun _ => .put _ _ (by simp)).trans (State.setCapDue_change _ _ _ _)).trans (.put _ _ (by simp))).trans
      (.put _ _ (by simp))).trans (.put _ _ (by simp))

/-- A read of CAP, before a capture in its cycle. -/
theorem capRead_none_effect (die n : Nat) : let t := s.capRead die n none
    t.results = [s.get (tmr die).cap die n] ∧ t.busErr = false ∧ t.get (tmr die).captured die n = 0 ∧
    OnlyFields { s with results := t.results, busErr := t.busErr } t [((tmr die).captured, die, n)] :=
  ⟨rfl, rfl, (s.get_put _ _ _ _ _ _).trans (if_pos ⟨rfl, rfl⟩), onlyFields_put { s with results := [s.get (tmr die).cap die n], busErr := false } _ _ _ _⟩

theorem capRead_some_effect (die n e : Nat) : let t := s.capRead die n (some e)
    t.results = [s.get (tmr die).cap die n] ∧ t.get (tmr die).captured die n = 1 ∧ t.get (tmr die).overcap die n = s.get (tmr die).overcap die n ∧
    t.get (tmr die).cap die n = (s.get (tmr die).cnt die n - e) % 2 ^ 24 := by
  have hap := tmr_apart die
  simp only [TmrFlds.moving, List.pairwise_cons, List.forall_mem_cons, List.not_mem_nil, false_imp_iff, implies_true, and_true] at hap
  obtain ⟨-, -, hcd, -⟩ := s.capRead_none_effect die n
  have hget {G : Fld} (hG : (tmr die).captured.Apart G) : (s.capRead die n none).get G die n = s.get G die n :=
    s.get_put_apart hG die n 0 die n
  obtain ⟨hcap, hone, -, hov, hchange⟩ := (s.capRead die n none).capture_effect die n e (s.capDue die n - s.edgeTaken die n)
  rw [hget (by simp [hap])] at hcap
  rw [hget (by simp [hap]), State.flag, hcd] at hov
  exact ⟨hchange.frame.same State.results, hone, hov, hcap⟩

end State

/-- Settles O27. -/
theorem timersWrapMatchAndCapture : Obligations.TimersWrapMatchAndCapture := by
  intro s die n e m hunit f pin
  refine ⟨?zero, ?matched, ?writes, ?refused, ?capture, ?capRead, ?capRefused⟩
  case zero =>
    intro hc hlow
    have h0 : s.lowest die n = 0 := if_neg (by simp only [f] at hlow; omega)
    obtain ⟨hz, hcnt, hcmp, hm, hp, hchange⟩ := s.timerZero_effect die n
    exact ⟨_, State.answer_of hunit (by rw [hc, h0]; rfl), hz, hcnt, hcmp, hm, hp, hchange.frame, hchange.fields⟩
  case matched =>
    intro hc hpos hle
    obtain ⟨hm, hp, hcnt, hchange⟩ := s.timerMatch_effect die n
    exact ⟨_, State.answer_of hunit (by rw [hc, decide_eq_true hpos, decide_eq_true hle]; rfl), hm, hp, hcnt, hchange.frame, hchange.fields⟩
  case writes =>
    intro hw
    have hx (g : State → State) : s.asWrite (ctlReg die) die n m (s.ownsTimer m die n) true g = (g s).respond false := asWrite_admitted hw
    refine ⟨fun hoff hfree => ?enable, fun hon => ?running, fun he hon => ?disable, fun hd hfree => ?reload, fun hd => ?fieldReload⟩
    case enable =>
      obtain ⟨hen, hcnt, hcmp, hchange⟩ := s.timerStart_effect die n
      have hgo : s.timerEnable die n = (s.put (tmr die).en die n 1).wrap die n := by rw [State.timerEnable, hoff, hfree]; rfl
      exact ⟨((s.put (tmr die).en die n 1).wrap die n).respond false, (State.answer_of hunit rfl).trans (by rw [hx, hgo]), hen, hcnt, hcmp, onlyFields_respond (change_regs_iff.1 hchange) false⟩
    case running =>
      exact (State.answer_of hunit rfl).trans (by rw [hx, State.timerEnable, hon]; rfl)
    case disable =>
      obtain ⟨hen, hcnt, hchange⟩ := s.timerStop_effect die n e
      have hgo : s.timerDisable die n e = (s.put (tmr die).en die n 0).put (tmr die).cnt die n (s.get (tmr die).cnt die n - e) := by
        rw [State.timerDisable, hon]; rfl
      exact ⟨((s.put (tmr die).en die n 0).put (tmr die).cnt die n (s.get (tmr die).cnt die n - e)).respond false,
        (State.answer_of hunit (decide_eq_true he)).trans (by rw [hx, hgo]), hen, hcnt, onlyFields_respond (change_regs_iff.1 hchange) false⟩
    case reload =>
      obtain ⟨hcnt, hcmp⟩ := s.wrap_counts die n
      have hgo : s.asWrite (ctlReg die) die n m (s.ownsTimer m die n) (decide (die < 2))
          (fun s => s.on (!s.fenced (timerKind die) die n) fun s => s.wrap die n) = (s.wrap die n).respond false := by
        rw [decide_eq_true hd, hx, hfree]
        rfl
      exact ⟨(s.wrap die n).respond false, (State.answer_of hunit rfl).trans (by rw [hgo]), hcnt, hcmp,
        onlyFields_respond (change_regs_iff.1 (s.wrap_change (die := die) (n := n) (by simp [f]) (by simp [f]))) false⟩
    case fieldReload =>
      obtain ⟨hh, hr, ho, -⟩ := hw
      refine (State.answer_of hunit rfl).trans ?_
      simp [State.asWrite, hh, hr, ho, Nat.not_lt.2 hd]
  case refused =>
    intro hh hr ho
    refine (State.answer_of hunit rfl).trans ?_
    simp [State.asWrite, hh, hr, ho]
  case capture =>
    intro rising hcan hdue
    obtain ⟨hcap, hcd, hedges, hov, hchange⟩ := s.capture_effect die n e (s.capDue die n - if rising then 1 else 2)
    obtain ⟨hoff, hother⟩ := s.edgeDue_capture hdue _ hedges
    exact ⟨_, State.answer_of hunit (by rw [hcan, hdue]; rfl), hcap, hcd, hoff, hother, hov, hchange.frame, hchange.fields⟩
  case capRead =>
    intro hh hr
    refine ⟨?alone, fun hcan => ?same⟩
    case alone =>
      exact ⟨_, (State.answer_of hunit (by rw [hh]; rfl)).trans (by rw [if_pos hr]), s.capRead_none_effect die n⟩
    case same =>
      exact ⟨_, (State.answer_of hunit (by rw [hh, Option.all_some, hcan]; rfl)).trans (by rw [if_pos hr]), s.capRead_some_effect die n e⟩
  case capRefused =>
    intro hh hr
    exact ⟨s.readRefused m.die m (regAddr (capReg die) die n) (s.route m (regAddr (capReg die) die n)),
      (State.answer_of hunit (by rw [hh]; rfl)).trans (by rw [if_neg hr]), rfl, State.logErr_busErr ..⟩

end Sys2Proof.Machine
end

section
/-! SUPPORT. A test-pulse code whose timer still waits for a captured edge (R71, R75, R84). -/

namespace Sys2Proof.Machine

/-- A die whose gate is open, with the code of source 0 assigned and a capture edge on its way to the source's timer. -/
def capturingSource : State :=
  ((State.reset.put F.FSYS_SEAL_GATE (fdie 0) 0 1).put F.TP_CODE_ASSIGNED (fdie 0) 0 1).setCapDue (fdie 0) 0 1

/-- What the statement lets a new code change. -/
def Frame.codeWrite : Frame :=
  ⟨fun s t => State.withRegs { s with terms := t.terms, freeCtr := t.freeCtr, busErr := t.busErr } t.regs, fun _ => rfl, fun _ _ _ => rfl⟩

/-- A field timer that returns to idle has no capture edge in flight (R75). -/
theorem State.capDue_idleTimer (s : State) (fd n : Nat) : (s.idleTimer (fdie fd) n).capDue (fdie fd) n = 0 := by
  have hd : decide (fdie fd < 2) = false := decide_eq_false (by simp [fdie])
  unfold State.idleTimer
  rw [hd, Bool.false_and, State.on_false, State.capDue_setCapDue, if_pos ⟨rfl, rfl⟩]

theorem State.capDue_respond (s : State) (b : Bool) (die n : Nat) : (s.respond b).capDue die n = s.capDue die n := rfl

theorem State.capDue_engineDrop (s : State) (fd n : Nat) (b : Bool) : ((s.engineDrop fd n).respond b).capDue (fdie fd) n = 0 := by
  rw [State.capDue_respond, State.engineDrop, State.capDue_idleTimer]

/-- A new word that assigns nothing gives the timer of an assigned source back (R84). -/
theorem State.setCode_of_dropped {s : State} {fd n val : Nat} (hw : s.word .TP_CODE (fdie fd) n ≠ val % 2 ^ 32) (hv : val.testBit 31 = false)
    (ha : s.flag F.TP_CODE_ASSIGNED (fdie fd) n = true) : ∃ u : State, s.setCode fd n val = u.engineDrop fd n := by
  unfold State.setCode
  dsimp only
  rw [bne_iff_ne.2 hw, ha, hv, State.on_true, State.on_true, if_neg Bool.false_ne_true]
  exact ⟨_, rfl⟩

/-- Refutes O28: the word 0 written to an assigned TPCODE gives the source's timer back, which loses the capture edge on its way to
the timer; the statement lets terminals, registers, the response and the free values change only. -/
theorem not_testPulseCodesAreCheckedAndAssigned : ¬ Obligations.TestPulseCodesAreCheckedAndAssigned := by
  intro h
  have hw : WriteAdmitted capturingSource (.sv 0) .TP_CODE (fdie 0) 0 (Master.sv 0).isSv (capturingSource.codeFieldOk 0 0 0) := by
    unfold WriteAdmitted
    decide
  have hword : capturingSource.word .TP_CODE (fdie 0) 0 ≠ 0 % 2 ^ 32 := by decide
  have hassigned : capturingSource.flag F.TP_CODE_ASSIGNED (fdie 0) 0 = true := by decide
  obtain ⟨t, hx, -, -, -, -, -, -, -, hframe⟩ := ((h capturingSource (.sv 0) 0 0 0 rfl (by decide)).1 hw).2 hword
  have hgo : exec (.tpcodeWrite (.sv 0) 0 0 0) capturingSource = .next ((capturingSource.setCode 0 0 0).respond false) :=
    (State.answer_of rfl rfl).trans (by rw [asWrite_admitted hw])
  have hlost : t.capDue (fdie 0) 0 = 0 := by
    obtain ⟨u, hu⟩ := State.setCode_of_dropped (val := 0) hword rfl hassigned
    rw [← Host.Outcome.next.inj (hgo.symm.trans hx), hu]
    exact u.capDue_engineDrop 0 0 false
  have hkeeps : Frame.codeWrite.Holds capturingSource t := hframe
  have hkept : t.capDue (fdie 0) 0 = capturingSource.capDue (fdie 0) 0 :=
    congrArg (fun c => Store.get (fun _ => 0) c (Nat.pair (fdie 0) 0)) (hkeeps.same State.capIn)
  exact absurd (hlost.symm.trans hkept) (by decide)

end Sys2Proof.Machine
end

section
/-! SUPPORT. The tables that hold a release back (R93, R97, R98, R108, R118, R124), and the events within an evaluation (R87, R102, R133). -/

namespace Sys2Proof.Machine

/-! ### Rows -/

/-- The two-contact table releases with both contacts closed only (R93). -/
theorem dualRow_bits_of_open {n : Nat} (h : n < 2) (st : Nat) (exp : Bool) (disc : Nat) : (dualRow st n exp disc).bits = 0 := by
  have hn : n ≠ 2 := h.ne
  have hn' : n ≠ 0 → n = 1 := by omega
  unfold dualRow
  split <;> simp +contextual [apply_ite FnRow.bits, hn, hn']

/-- The stop table releases with both contacts closed only (R97). -/
theorem estopRow_bits_of_open {n : Nat} (h : n < 2) (st : Nat) (exp reset refuse : Bool) (disc : Nat) :
    (estopRow st n exp reset refuse disc).bits = 0 := by
  have hn : n ≠ 0 → n = 1 := by omega
  unfold estopRow
  split <;> simp +contextual [apply_ite FnRow.bits, hn]

/-- Outside RUN the stop table releases on a reset event only (R97). -/
theorem estopRow_bits_of_unreset {st : Nat} (h : st ≠ 3) (n : Nat) (exp refuse : Bool) (disc : Nat) :
    (estopRow st n exp false refuse disc).bits = 0 := by
  unfold estopRow
  split <;> simp_all [apply_ite FnRow.bits]

theorem matRow_bits_of_worst {w : Nat} (h : w ≠ 0) (h2 : w ≤ 2) (st : Nat) (latch reset : Bool) : (matRow st w latch reset).bits = 0 := by
  have hw : w ≠ 2 → w = 1 := by omega
  unfold matRow
  split <;> simp +contextual [apply_ite FnRow.bits, hw]

theorem outputRow_bits_of_undemanded (st : Nat) (fb fbLost exp reset : Bool) (fbt : Nat) :
    (outputRow st false fb fbLost exp reset fbt).bits = 0 := by
  unfold outputRow
  split
  · rfl
  · split <;> simp [apply_ite FnRow.bits]

/-- A row with a reset event leads to IDLE, and no row from there has one (R124). -/
theorem restartRow_bits (st k gap : Nat) (held lost rel : Bool) (pmin pmax : Nat) :
    let r := (restartRow st k gap held lost rel pmin pmax).1
    r.bits = 0 ∨ (r.bits = 1 ∧ r.st = 0) := by
  unfold restartRow
  dsimp only
  split
  · exact .inl rfl
  · split <;> repeat' split
    all_goals simp

theorem restartRow_bits_of_idle (k gap : Nat) (held lost rel : Bool) (pmin pmax : Nat) :
    (restartRow 0 k gap held lost rel pmin pmax).1.bits = 0 := by
  cases lost <;> cases held <;> rfl

/-! ### Mat readings -/

/-- A reading of R107 as a number. -/
def MatRead.rank : MatRead → Nat
  | .free => 0
  | .stepped => 1
  | _ => 2

theorem matWorst_eq (ts : List TermRead) : matWorst ts = (ts.map fun r => r.mat.rank).foldl max 0 := by
  rw [List.foldl_map]
  rfl

/-- The greatest of a list stays within a bound of all, and is no less than any. -/
theorem foldl_max_le {l : List Nat} {a b : Nat} (ha : a ≤ b) (hl : ∀ x ∈ l, x ≤ b) : l.foldl max a ≤ b := by
  induction l generalizing a with
  | nil => exact ha
  | cons x l ih => exact ih (max_le ha (hl x (List.mem_cons_self ..))) fun y hy => hl y (List.mem_cons_of_mem _ hy)

theorem le_foldl_max_start (l : List Nat) (a : Nat) : a ≤ l.foldl max a := by
  induction l generalizing a with
  | nil => exact le_rfl
  | cons x l ih => exact (le_max_left a x).trans (ih _)

theorem le_foldl_max {l : List Nat} {x : Nat} (h : x ∈ l) (a : Nat) : x ≤ l.foldl max a := by
  induction l generalizing a with
  | nil => cases h
  | cons y l ih =>
    obtain rfl | hx := List.mem_cons.1 h
    · exact (le_max_right a x).trans (le_foldl_max_start l _)
    · exact ih hx _

theorem MatRead.rank_le (r : MatRead) : r.rank ≤ 2 := by cases r <;> decide

theorem MatRead.rank_ne_zero {r : MatRead} (h : r ≠ .free) : r.rank ≠ 0 := by
  cases r
  · exact absurd rfl h
  all_goals decide

theorem matWorst_le (ts : List TermRead) : matWorst ts ≤ 2 := by
  rw [matWorst_eq]
  exact foldl_max_le (Nat.zero_le _) fun x hx => by
    obtain ⟨r, -, rfl⟩ := List.mem_map.1 hx
    exact r.mat.rank_le

theorem matWorst_ne_zero {ts : List TermRead} {r : TermRead} (h : r ∈ ts) (hr : r.mat ≠ .free) : matWorst ts ≠ 0 := by
  have hle : r.mat.rank ≤ matWorst ts := by
    rw [matWorst_eq]
    exact le_foldl_max (List.mem_map_of_mem (f := fun r : TermRead => r.mat.rank) h) 0
  have hpos := MatRead.rank_ne_zero hr
  omega

/-! ### Evaluations -/

theorem closedCount_of_open {a b : Bool} (h : (a && b) = false) : closedCount a b < 2 := by
  cases a <;> cases b <;> simp_all [closedCount]

theorem Fn.eval_pullcord_bits {c : FnCfg} (hc : c.type = .pullcord) (i : FnIn) (x : FnSt) : ∃ refuse, (Fn.eval c i x).bits =
    (estopRow x.st (closedCount (i.closed 0) (i.closed 1)) (timerExpired x.tmr i.t) i.reset refuse c.par0).bits := by
  simp only [Fn.eval, hc]
  exact ⟨_, rfl⟩

theorem Fn.eval_output_bits {c : FnCfg} (hc : c.type = .sto ∨ c.type = .contactor ∨ c.type = .brake) {i : FnIn} (h : i.link0 = false) (x : FnSt) :
    (Fn.eval c i x).bits = 0 := by
  have hx : (Fn.evalOutput c i x).bits = 0 := by
    simp [Fn.evalOutput, h, outputRow_bits_of_undemanded]
  obtain hc | hc | hc := hc <;> simp only [Fn.eval, hc] <;> exact hx

theorem Fn.eval_mat_bits {c : FnCfg} (hc : c.type = .mat) {i : FnIn} {k : Nat} (hk : k ≤ c.opt2 1) (h : (i.term k).mat ≠ .free) (x : FnSt) :
    (Fn.eval c i x).bits = 0 := by
  simp only [Fn.eval, hc]
  exact matRow_bits_of_worst (matWorst_ne_zero (List.mem_map_of_mem (List.mem_range.2 (by omega))) h) (matWorst_le _) _ _ _

/-- RESTART shows its event and the demand behind it (R124). -/
theorem Fn.eval_restart {c : FnCfg} (hc : c.type = .restart) (i : FnIn) (x : FnSt) :
    let r := (restartRow x.st x.press i.gap (i.closed 0) (i.term 0).lost i.link0 c.par0 c.par1).1
    (∃ n, (Fn.eval c i x).bits = r.bits + 2 * n) ∧ (Fn.eval c i x).st = r.st := by
  simp only [Fn.eval, hc]
  exact ⟨⟨_, rfl⟩, rfl⟩

theorem testBit_zero_add_double (b n : Nat) : (b + 2 * n).testBit 0 = b.testBit 0 := by simp

theorem Fn.init_bits (c : FnCfg) (t : Nat) : (Fn.init c t).bits = 0 := by
  unfold Fn.init
  dsimp only
  split <;> rfl

/-! ### Evaluation events -/

namespace State

variable (s : State)

theorem evalEvent_of_recOf {iid : Nat} {r : InstRec} (hr : s.recOf iid = some r) (h : Bool) :
    s.evalEvent h iid = s.on h fun s => s.evalCell r.fdie (s.cellOf r) := by
  unfold State.evalEvent
  rw [hr]

/-- The evaluation of a live cell in its tick. -/
theorem cell_evalCell {fd p : Nat} (hlive : s.cellLive fd p = true) (ht : (s.cell fd p).tick ≠ (s.field fd).htick + 1) :
    ((s.evalCell fd p).cell fd p).fs = evalHeld (s.cellCfg fd p) (s.cellIn fd p) (s.cell fd p).hold (s.cell fd p).fs ∧
    ((s.evalCell fd p).cell fd p).tick = (s.field fd).htick + 1 := by
  unfold State.evalCell
  dsimp only
  rw [if_neg ht, if_pos hlive]
  generalize evalHeld _ _ _ _ = f
  have hshow (u : State) : (u.showCell fd p f).cell fd p = u.cell fd p := by
    simp [State.showCell, State.orFlags]
  simp [hshow]

/-- A cell is evaluated once in a tick. -/
theorem evalCell_of_made {fd p : Nat} (ht : (s.cell fd p).tick = (s.field fd).htick + 1) : s.evalCell fd p = s := if_pos ht

end State

/-- Settles O29. -/
theorem noReleaseWithoutClosedContacts : Obligations.NoReleaseWithoutClosedContacts := by
  refine ⟨fun c i x => ⟨?contacts, ?resets, ?mats, ?demands, ?restarts, Fn.init_bits c⟩, ?events⟩
  case contacts =>
    intro hc hopen
    have hn := closedCount_of_open hopen
    obtain hc | hc | hc | hc := hc
    · simp only [Fn.eval, hc, Fn.evalDual]
      exact dualRow_bits_of_open hn _ _ _
    · simp only [Fn.eval, hc, Fn.evalDual]
      exact dualRow_bits_of_open hn _ _ _
    · rw [Fn.eval_estop hc]
      exact estopRow_bits_of_open hn _ _ _ _ _
    · obtain ⟨refuse, he⟩ := Fn.eval_pullcord_bits hc i x
      exact he.trans (estopRow_bits_of_open hn _ _ _ _ _)
  case resets =>
    rintro (hc | hc) hst hreset
    · rw [Fn.eval_estop hc, hreset]
      exact estopRow_bits_of_unreset hst _ _ _ _
    · obtain ⟨refuse, he⟩ := Fn.eval_pullcord_bits hc i x
      rw [he, hreset]
      exact estopRow_bits_of_unreset hst _ _ _ _
  case mats => exact fun hc ⟨k, hk, hm⟩ => Fn.eval_mat_bits hc hk hm x
  case demands => exact fun hc hl => Fn.eval_output_bits hc hl x
  case restarts =>
    intro hc j hev
    obtain ⟨⟨n, hbits⟩, hst⟩ := Fn.eval_restart hc i x
    obtain ⟨⟨n', hbits'⟩, -⟩ := Fn.eval_restart hc j (Fn.eval c i x)
    rw [hbits, testBit_zero_add_double] at hev
    obtain hz | ⟨-, hidle⟩ := restartRow_bits x.st x.press i.gap (i.closed 0) (i.term 0).lost i.link0 c.par0 c.par1
    · rw [hz] at hev
      exact absurd hev (by decide)
    · rw [hbits', testBit_zero_add_double, hst, hidle, restartRow_bits_of_idle]
      rfl
  case events =>
    intro s h iid r hr u
    have hunit : (s.recOf iid).isSome = true := by rw [hr]; rfl
    have hu : u = s.on h fun s => s.evalCell r.fdie (s.cellOf r) := s.evalEvent_of_recOf hr h
    refine ⟨fun ht => State.answer_of hunit (decide_eq_true ht), fun hcode hlamp hst => ?_, fun hcode ht => ?_, fun hf => ?_, fun hh hlive ht => ?_,
      fun ht => ?_⟩
    · refine State.answer_of hunit ?_
      rw [hr, hlamp, hst]
      simpa using hcode
    · refine State.answer_of hunit ?_
      rw [hr]
      simp [hcode, ht]
    · rw [hu, hf, State.on_false]
    · rw [hu, hh, State.on_true]
      exact s.cell_evalCell hlive ht
    · rw [hu]
      cases h
      · rfl
      · exact s.evalCell_of_made ht

end Sys2Proof.Machine
end

section
/-! SUPPORT. Ring ports: link conditions and admission (R205 to R208, R247). -/

namespace Sys2Proof.Machine

/-! ### Fields that may change -/

/-- Every field but those listed reads as before, on every die and in every copy. -/
def FldsWithin (fs : List Fld) (s t : State) : Prop := ∀ (G : Fld) (d i : Nat), (∀ F ∈ fs, F.same G = false) → t.get G d i = s.get G d i

namespace FldsWithin

variable {fs gs : List Fld} {s t u : State}

theorem refl (fs : List Fld) (s : State) : FldsWithin fs s s := fun _ _ _ _ => rfl

theorem trans (h : FldsWithin fs s t) (k : FldsWithin fs t u) : FldsWithin fs s u := fun G d i hG => (k G d i hG).trans (h G d i hG)

theorem after (k : FldsWithin fs t u) (h : FldsWithin fs s t) : FldsWithin fs s u := h.trans k

theorem wider (h : FldsWithin fs s t) (hf : ∀ F ∈ fs, F ∈ gs) : FldsWithin gs s t := fun G d i hG => h G d i fun F hF => hG F (hf F hF)

theorem each {α : Type} {xs : List α} {op : State → α → State} (hop : ∀ s, ∀ x ∈ xs, FldsWithin fs s (op s x)) (s : State) :
    FldsWithin fs s (s.each xs op) :=
  fun G d i hG => State.each_same (fun s => s.get G d i) (fun s x hx => hop s x hx G d i hG) s

theorem on {c : Bool} {op : State → State} (hop : FldsWithin fs s (op s)) : FldsWithin fs s (s.on c op) :=
  fun G d i hG => State.on_same (fun s => s.get G d i) (hop G d i hG)

theorem put (s : State) {F : Fld} (d i v : Nat) (h : F ∈ fs) : FldsWithin fs s (s.put F d i v) :=
  fun G e j hG => s.get_put_other F G d i v e j (hG F h)

theorem ofRegs (fs : List Fld) (h : t.regs = s.regs) : FldsWithin fs s t :=
  fun G d i _ => congrArg (fun r => Store.get (fun _ => G.resetAt d i) r (G.key d i)) h

end FldsWithin

/-! ### What a port's events may change -/

/-- Rings, ports and registers. -/
def Frame.portRegs : Frame :=
  ⟨fun s t => State.withRegs { s with rings := t.rings, ports := t.ports } t.regs, fun _ => rfl, fun _ _ _ => rfl⟩

namespace State

variable (s : State)

theorem setPort_frame (ld p : Nat) (x : PortSt) : Frame.portRegs.Holds s (s.setPort ld p x) := rfl

theorem setRing_frame (ld : Nat) (x : RingSt) : Frame.portRegs.Holds s (s.setRing ld x) := rfl

theorem put_portRegs (F : Fld) (d i v : Nat) : Frame.portRegs.Holds s (s.put F d i v) := rfl

theorem setSync_frame (ld st : Nat) : Frame.portRegs.Holds s (s.setSync ld st) := by
  unfold State.setSync
  exact (s.put_portRegs _ _ _ _).trans (Frame.each (fun s _ _ => Frame.on fun _ => s.put_portRegs _ _ _ _) _)

theorem enterListen_frame (ld : Nat) : Frame.portRegs.Holds s (s.enterListen ld) := by
  unfold State.enterListen
  exact (((s.setSync_frame _ _).trans (State.put_portRegs _ _ _ _ _)).trans (State.put_portRegs _ _ _ _ _)).trans (State.setRing_frame _ _ _)

theorem admitPort_frame (ld p : Nat) : Frame.portRegs.Holds s (s.admitPort ld p) := by
  unfold State.admitPort
  exact (((s.put_portRegs _ _ _ _).trans (Frame.on fun _ => State.put_portRegs _ _ _ _ _)).trans (State.setPort_frame _ _ _ _)).trans
    (Frame.on fun _ => State.enterListen_frame _ _)

theorem setLink_frame (ld p : Nat) (up : Bool) : Frame.portRegs.Holds s (s.setLink ld p up) := by
  unfold State.setLink
  exact (s.put_portRegs _ _ _ _).trans (Frame.on fun _ => (State.put_portRegs _ _ _ _ _).trans (State.setPort_frame _ _ _ _))

theorem setPort_flds (fs : List Fld) (s : State) (ld p : Nat) (x : PortSt) : FldsWithin fs s (s.setPort ld p x) := .ofRegs _ rfl

theorem setRing_flds (fs : List Fld) (s : State) (ld : Nat) (x : RingSt) : FldsWithin fs s (s.setRing ld x) := .ofRegs _ rfl

/-- The start of an engine (R247). -/
def listenFlds : List Fld := [F.RNG_TSYNC_STATE, F.RNG_TXSTAT_LISTEN, F.RNG_TSYNC_BHOPS, F.TICK_TSTAT_LOCKED]

theorem setSync_flds (ld st : Nat) : FldsWithin [F.RNG_TSYNC_STATE, F.RNG_TXSTAT_LISTEN] s (s.setSync ld st) := by
  have hport (s : State) (p v : Nat) : FldsWithin [F.RNG_TSYNC_STATE, F.RNG_TXSTAT_LISTEN] s (s.put F.RNG_TXSTAT_LISTEN ld p v) :=
    .put s _ _ _ (by decide)
  unfold State.setSync
  exact (FldsWithin.put s _ _ _ (by decide)).trans (.each (fun s p _ => .on (hport s p _)) _)

theorem enterListen_flds (ld : Nat) : FldsWithin listenFlds s (s.enterListen ld) := by
  unfold State.enterListen
  exact .after (State.setRing_flds _ _ _ _) (.after (.put _ _ _ _ (by decide)) (.after (.put _ _ _ _ (by decide)) ((s.setSync_flds ld _).wider (by decide))))

theorem admitPort_flds (ld p : Nat) : FldsWithin (F.RNG_PSTAT_ADMIT :: F.RNG_PSTAT_DOWNRSN :: listenFlds) s (s.admitPort ld p) := by
  unfold State.admitPort
  exact .after (.on ((State.enterListen_flds _ _).wider (by decide))) (.after (State.setPort_flds _ _ _ _ _) (.after (.on (.put _ _ _ _ (by decide)))
    (.put _ _ _ _ (by decide))))

theorem setLink_flds (ld p : Nat) (up : Bool) : FldsWithin [F.RNG_PSTAT_LINK, F.RNG_PSTAT_PREACT] s (s.setLink ld p up) := by
  have hmark (u : State) : FldsWithin [F.RNG_PSTAT_LINK, F.RNG_PSTAT_PREACT] u (u.put F.RNG_PSTAT_PREACT ld p 0) := .put u _ _ _ (by decide)
  unfold State.setLink
  exact .after (.on (.after (State.setPort_flds _ _ _ _ _) (hmark _))) (.put _ _ _ _ (by decide))

/-- What keeps a port from admission (R207). -/
theorem portCause_ne_zero {ld p : Nat} (h : s.fenced U.port ld p = true ∨ s.get F.RNG_PCFG_MODE ld p = 0 ∨ s.get F.RNG_PCFG_MODE ld p = 3 ∨
    s.flag F.RNG_RINGCFG_ENABLE ld 0 = false ∨ s.flag F.RNG_PSTAT_SYNC ld p = false ∨ (s.port ld p).miswired = true ∨
    s.flag F.RNG_PSTAT_LINK ld p = false ∨ s.flag F.RNG_PSTAT_PREACT ld p = false) : s.portCause ld p ≠ 0 := by
  unfold State.portCause
  dsimp only
  repeat' split
  all_goals simp_all

/-- ADMIT and DOWNRSN brought up to date. -/
def admitShown (ld p : Nat) : State :=
  (s.putB F.RNG_PSTAT_ADMIT ld p (decide (s.portCause ld p = 0))).on (decide (1 ≤ s.portCause ld p) && decide (s.portCause ld p ≤ 7))
    fun u => u.put F.RNG_PSTAT_DOWNRSN ld p (s.portCause ld p)

theorem admitPort_eq (ld p : Nat) : ∃ page c, s.admitPort ld p =
    ((s.admitShown ld p).setPort ld p { s.port ld p with page := page }).on c fun s => s.enterListen ld := ⟨_, _, rfl⟩

theorem admitPort_get {G : Fld} (ld p d i : Nat) (hG : ∀ F ∈ listenFlds, F.same G = false) :
    (s.admitPort ld p).get G d i = (s.admitShown ld p).get G d i := by
  obtain ⟨page, c, he⟩ := s.admitPort_eq ld p
  rw [he, FldsWithin.on (State.enterListen_flds _ ld) G d i hG]
  rfl

theorem admitPort_admit (ld p : Nat) : (s.admitPort ld p).get F.RNG_PSTAT_ADMIT ld p = if s.portCause ld p = 0 then 1 else 0 := by
  rw [s.admitPort_get ld p ld p (by decide), State.admitShown, State.on_same (fun u => u.get F.RNG_PSTAT_ADMIT ld p)
    (State.get_put_other _ _ _ _ _ _ _ _ (by decide)), State.putB, State.get_put, if_pos ⟨rfl, rfl⟩]
  by_cases h : s.portCause ld p = 0 <;> simp [h]

theorem admitPort_downrsn {ld p : Nat} (h1 : 1 ≤ s.portCause ld p) (h7 : s.portCause ld p ≤ 7) :
    (s.admitPort ld p).get F.RNG_PSTAT_DOWNRSN ld p = s.portCause ld p := by
  rw [s.admitPort_get ld p ld p (by decide), State.admitShown, decide_eq_true h1, decide_eq_true h7, Bool.true_and, State.on_true, State.get_put,
    if_pos ⟨rfl, rfl⟩]
  exact Nat.mod_eq_of_lt (Nat.lt_succ_of_le h7)

theorem enterListen_ports (ld : Nat) : (s.enterListen ld).ports = s.ports := by
  have hsync (st : Nat) : (s.setSync ld st).ports = s.ports := by
    unfold State.setSync
    exact (State.each_same State.ports (fun s _ _ => State.on_same State.ports rfl) _).trans rfl
  exact hsync _

/-- Bringing a port up to date changes no other condition of it. -/
theorem admitPort_port (ld p : Nat) : ∃ page, (s.admitPort ld p).port ld p = { s.port ld p with page := page } := by
  obtain ⟨page, c, he⟩ := s.admitPort_eq ld p
  refine ⟨page, ?_⟩
  rw [he, State.on_same (fun u => u.port ld p) (by unfold State.port; rw [State.enterListen_ports]), State.port_setPort, if_pos rfl]

theorem get_setLink (ld p : Nat) (up : Bool) : (s.setLink ld p up).get F.RNG_PSTAT_LINK ld p = up.toNat := by
  have hmark (u : State) (x : PortSt) : ((u.put F.RNG_PSTAT_PREACT ld p 0).setPort ld p x).get F.RNG_PSTAT_LINK ld p = u.get F.RNG_PSTAT_LINK ld p :=
    (FldsWithin.after (State.setPort_flds [F.RNG_PSTAT_PREACT] _ _ _ _) (.put u _ _ _ (by decide))) _ _ _ (by decide)
  unfold State.setLink
  dsimp only
  rw [State.on_same (fun u => u.get F.RNG_PSTAT_LINK ld p) (hmark _ _), State.putB, State.get_put, if_pos ⟨rfl, rfl⟩]
  cases up <;> rfl

theorem setLink_port (ld p : Nat) (up : Bool) : ∃ b, (s.setLink ld p up).port ld p = { s.port ld p with verFail := b } := by
  unfold State.setLink
  dsimp only
  cases s.flag F.RNG_PSTAT_LINK ld p != up
  · exact ⟨(s.port ld p).verFail, rfl⟩
  · exact ⟨false, (State.port_setPort _ _ _ _ _ _).trans (if_pos rfl)⟩

theorem admitPort_link (ld p : Nat) : (s.admitPort ld p).get F.RNG_PSTAT_LINK ld p = s.get F.RNG_PSTAT_LINK ld p :=
  s.admitPort_flds ld p _ _ _ (by decide)

theorem admitPort_andone (ld p : Nat) : (s.admitPort ld p).get F.RNG_PSTAT_ANDONE ld p = s.get F.RNG_PSTAT_ANDONE ld p :=
  s.admitPort_flds ld p _ _ _ (by decide)

theorem admitPort_lpabil (ld p : Nat) : (s.admitPort ld p).get F.RNG_PSTAT_LPABIL ld p = s.get F.RNG_PSTAT_LPABIL ld p :=
  s.admitPort_flds ld p _ _ _ (by decide)

theorem admitPort_preact (ld p : Nat) : (s.admitPort ld p).get F.RNG_PSTAT_PREACT ld p = s.get F.RNG_PSTAT_PREACT ld p :=
  s.admitPort_flds ld p _ _ _ (by decide)

/-- A port without link is not admitted. -/
theorem admitPort_admit_of_down {ld p : Nat} (h : s.get F.RNG_PSTAT_LINK ld p = 0) : (s.admitPort ld p).get F.RNG_PSTAT_ADMIT ld p = 0 := by
  rw [State.admitPort_admit, if_neg]
  exact s.portCause_ne_zero (.inr (.inr (.inr (.inr (.inr (.inr (.inl (by simp [State.flag, h]))))))))

theorem toNat_mod_two (b : Bool) : b.toNat % 2 = b.toNat := by cases b <;> rfl

/-- The link conditions of a port after a change of PCS sync. -/
theorem pcsSync_effect (ld p : Nat) (sync : Bool) : ∃ u : State, s.pcsSync ld p sync = u.admitPort ld p ∧
    u.get F.RNG_PSTAT_SYNC ld p = sync.toNat ∧ u.get F.RNG_PSTAT_ANDONE ld p = (!s.flag F.RNG_PCFG_ANEN ld p).toNat ∧
    (u.port ld p).miswired = false ∧ (sync = false → u.get F.RNG_PSTAT_LINK ld p = 0) ∧ Frame.portRegs.Holds s u := by
  let v := ((s.setPort ld p { s.port ld p with miswired := false, anFault := false, conf := s.confOf ld p }).putB F.RNG_PSTAT_SYNC ld p sync).putB
    F.RNG_PSTAT_ANDONE ld p (!s.flag F.RNG_PCFG_ANEN ld p)
  let c := sync && !s.flag F.RNG_PCFG_ANEN ld p && decide (s.get F.RNG_PCFG_MODE ld p = 1)
  have hflds : FldsWithin [F.RNG_PSTAT_LINK, F.RNG_PSTAT_PREACT] v ((v.setLink ld p false).on c fun s => s.setLink ld p true) :=
    .after (.on (State.setLink_flds _ _ _ _)) (v.setLink_flds _ _ _)
  refine ⟨(v.setLink ld p false).on c fun s => s.setLink ld p true, rfl, ?_, ?_, ?_, fun hs => ?_, ?_⟩
  · exact (hflds _ _ _ (by decide)).trans (by simp [v, State.putB, toNat_mod_two])
  · exact (hflds _ _ _ (by decide)).trans (by simp [v, State.putB, toNat_mod_two])
  · obtain ⟨b, hb⟩ := v.setLink_port ld p false
    obtain ⟨b', hb'⟩ := (v.setLink ld p false).setLink_port ld p true
    have hv : (v.port ld p).miswired = false := by simp [v, State.putB]
    rw [State.on_apply (fun u => (u.port ld p).miswired), hb', hb, hv, ite_self]
  · have hc : c = false := by simp [c, hs]
    rw [hc, State.on_false, State.get_setLink]
    rfl
  · exact (((s.setPort_frame _ _ _).trans (State.put_portRegs _ _ _ _ _)).trans (State.put_portRegs _ _ _ _ _)).trans
      ((State.setLink_frame _ _ _ _).trans (Frame.on fun _ => State.setLink_frame _ _ _ _))

/-- The link conditions of a port after a word of its partner. -/
def partnerWord (ld p w : Nat) (done fault up : Bool) : State :=
  let v := (s.put F.RNG_PSTAT_LPABIL ld p w).putB F.RNG_PSTAT_ANDONE ld p done
  (v.setPort ld p { v.port ld p with anFault := fault }).setLink ld p up

theorem partnerWord_effect (ld p w : Nat) (done fault up : Bool) : let u := s.partnerWord ld p w done fault up
    u.get F.RNG_PSTAT_ANDONE ld p = done.toNat ∧ u.get F.RNG_PSTAT_LPABIL ld p = w % 2 ^ F.RNG_PSTAT_LPABIL.w ∧
    u.get F.RNG_PSTAT_LINK ld p = up.toNat ∧ (u.port ld p).anFault = fault ∧ Frame.portRegs.Holds s u := by
  let v := (s.put F.RNG_PSTAT_LPABIL ld p w).putB F.RNG_PSTAT_ANDONE ld p done
  have hflds : FldsWithin [F.RNG_PSTAT_LINK, F.RNG_PSTAT_PREACT] v (s.partnerWord ld p w done fault up) :=
    .after (State.setLink_flds _ _ _ _) (State.setPort_flds _ _ _ _ _)
  refine ⟨?_, ?_, State.get_setLink _ _ _ _, ?_, ?_⟩
  · exact (hflds _ _ _ (by decide)).trans (by simp [v, State.putB, toNat_mod_two])
  · exact (hflds _ _ _ (by decide)).trans (by simp [v, State.putB])
  · obtain ⟨b, hb⟩ := (v.setPort ld p { v.port ld p with anFault := fault }).setLink_port ld p up
    unfold State.partnerWord
    dsimp only
    rw [hb, State.port_setPort, if_pos rfl]
  · exact (((s.put_portRegs _ _ _ _).trans (State.put_portRegs _ _ _ _ _)).trans (State.setPort_frame _ _ _ _)).trans (State.setLink_frame _ _ _ _)

theorem autoneg_eq (ld p w : Nat) : let base := decide (s.get F.RNG_PCFG_MODE ld p = 1)
    let fd := !base || baseFd w
    s.autoneg ld p w = (s.partnerWord ld p w fd (base && (!fd || baseRf w)) (if base then fd && !baseRf w else sgmiiGood w)).admitPort ld p := rfl

theorem partnerFault_eq (ld p w : Nat) : s.partnerFault ld p w =
    (s.partnerWord ld p w (decide (s.get F.RNG_PCFG_MODE ld p = 1) && baseRf w) true false).admitPort ld p := rfl

/-- A port that has failed verification is not admitted, and verifies no more at this link-up (R208). -/
theorem verifyFailure_effect {ld p : Nat} (hv : s.verifies ld p = true) :
    let t := (s.setPort ld p { s.port ld p with verFail := true }).admitPort ld p
    t.get F.RNG_PSTAT_ADMIT ld p = 0 ∧ t.verifies ld p = false := by
  have hpre : s.flag F.RNG_PSTAT_PREACT ld p = false := by
    simp only [State.verifies, Bool.and_eq_true, Bool.not_eq_true'] at hv
    exact hv.1.2
  obtain ⟨page, hport⟩ := (s.setPort ld p { s.port ld p with verFail := true }).admitPort_port ld p
  constructor
  · rw [State.admitPort_admit, if_neg]
    exact State.portCause_ne_zero _ (.inr (.inr (.inr (.inr (.inr (.inr (.inr hpre)))))))
  · rw [State.verifies, hport, State.port_setPort, if_pos rfl, Bool.not_true, Bool.and_false]

end State

/-- Settles O30. -/
theorem portsAreAdmittedByTheirConditions : Obligations.PortsAreAdmittedByTheirConditions := by
  refine ⟨fun s ld p => ⟨s.admitPort_admit ld p, s.admitPort_downrsn, s.portCause_ne_zero, s.admitPort_frame ld p⟩, ?events⟩
  intro s ld p w sync hld hp rest
  have hunit : (s.hasLd ld && decide (p < 2)) = true := by rw [hld, decide_eq_true hp]; rfl
  have hrest {u : State} (h : Frame.portRegs.Holds s u) : rest (u.admitPort ld p) := h.trans (u.admitPort_frame ld p)
  refine ⟨fun hoff => ?idle, fun hon => ?sync, fun hn hm => ?complete, fun hn hm hfd => ?half, fun hn => ?fault, fun ha hs hm => ?sgmii, fun hv => ⟨?verified, ?failed⟩⟩
  case idle => exact (State.answer_of hunit rfl).trans (by rw [hoff]; rfl)
  case sync =>
    obtain ⟨u, hu, hsync, hdone, hmis, hdown, hframe⟩ := s.pcsSync_effect ld p sync
    obtain ⟨page, hport⟩ := u.admitPort_port ld p
    refine ⟨u.admitPort ld p, (State.answer_of hunit rfl).trans (by rw [hon, State.on_true, hu]), ?_, ?_, ?_, fun hf => ⟨?_, ?_⟩, hrest hframe⟩
    · rw [u.admitPort_flds ld p _ _ _ (by decide), hsync]
    · rw [State.admitPort_andone, hdone]
    · rw [hport, hmis]
    · rw [State.admitPort_link, hdown hf]
    · exact u.admitPort_admit_of_down (hdown hf)
  case complete =>
    obtain ⟨hdone, hword, hlink, -, hframe⟩ := s.partnerWord_effect ld p w _ _ _
    refine ⟨_, (State.answer_of hunit hn).trans (by rw [s.autoneg_eq]), ?_, ?_, fun h1 => ?_, fun h2 => ?_, hrest hframe⟩
    · rw [State.admitPort_andone, hdone]
      obtain h2 | hfd := hm
      · rw [h2]; rfl
      · rw [hfd, Bool.or_true]; rfl
    · rw [State.admitPort_lpabil, hword]
    · obtain h2 | hfd := hm
      · omega
      · rw [State.admitPort_link, hlink, decide_eq_true h1, hfd]; rfl
    · rw [State.admitPort_link, hlink, h2]; rfl
  case half =>
    obtain ⟨hdone, hword, hlink, -, hframe⟩ := s.partnerWord_effect ld p w false true false
    have hauto : s.autoneg ld p w = (s.partnerWord ld p w false true false).admitPort ld p := by
      rw [s.autoneg_eq, decide_eq_true hm, hfd]
      rfl
    exact ⟨_, (State.answer_of hunit hn).trans (by rw [hauto]), (State.admitPort_andone _ _ _).trans hdone, (State.admitPort_lpabil _ _ _).trans hword,
      (State.admitPort_link _ _ _).trans hlink, State.admitPort_admit_of_down _ hlink, hrest hframe⟩
  case fault =>
    obtain ⟨-, -, hlink, hfault, hframe⟩ := s.partnerWord_effect ld p w (decide (s.get F.RNG_PCFG_MODE ld p = 1) && baseRf w) true false
    obtain ⟨page, hport⟩ := State.admitPort_port (s.partnerWord ld p w (decide (s.get F.RNG_PCFG_MODE ld p = 1) && baseRf w) true false) ld p
    exact ⟨_, (State.answer_of hunit hn).trans (by rw [s.partnerFault_eq]), (State.admitPort_link _ _ _).trans hlink,
      State.admitPort_admit_of_down _ hlink, by rw [hport, hfault], hrest hframe⟩
  case sgmii =>
    refine ⟨_, State.answer_of hunit (by rw [ha, hs, decide_eq_true hm]; rfl), ?_, hrest ((s.put_portRegs _ _ _ _).trans (State.setLink_frame _ _ _ _))⟩
    exact (State.admitPort_link _ _ _).trans (State.get_setLink _ _ _ _)
  case verified =>
    refine ⟨_, State.answer_of hunit hv, (State.admitPort_preact _ _ _).trans ?_, hrest ((s.put_portRegs _ _ _ _).trans (State.setPort_frame _ _ _ _))⟩
    exact (State.setPort_flds [] _ _ _ _ _ _ _ (by simp)).trans ((State.get_put _ _ _ _ _ _ _).trans (if_pos ⟨rfl, rfl⟩))
  case failed =>
    obtain ⟨hadmit, hspent⟩ := s.verifyFailure_effect hv
    exact ⟨_, State.answer_of hunit hv, hadmit, hspent, hrest (s.setPort_frame _ _ _)⟩

end Sys2Proof.Machine
end

section
/-! SUPPORT. The start-up states of a ring engine and its turn edge (R236, R237, R242 to R249). -/

namespace Sys2Proof.Machine

theorem FldsWithin.ite {fs : List Fld} {s t u : State} {c : Prop} [Decidable c] (ht : FldsWithin fs s t) (hu : FldsWithin fs s u) :
    FldsWithin fs s (if c then t else u) := by
  split
  · exact ht
  · exact hu

/-- What a turn may change: rings, ports, frames sent, the tick number and registers. -/
def Frame.turn : Frame :=
  ⟨fun s t => State.withRegs { s with rings := t.rings, ports := t.ports, sent := t.sent, tick := t.tick } t.regs,
    fun _ => rfl, fun _ _ _ => rfl⟩

/-- What an edge may change: rings, ports, frames sent and registers. -/
def Frame.edge : Frame :=
  ⟨fun s t => State.withRegs { s with rings := t.rings, ports := t.ports, sent := t.sent } t.regs, fun _ => rfl, fun _ _ _ => rfl⟩

/-- What the start of a headgate may change. -/
def Frame.head : Frame :=
  ⟨fun s t => State.withRegs { s with rings := t.rings, tick := t.tick } t.regs, fun _ => rfl, fun _ _ _ => rfl⟩

/-- The ring engines and registers. -/
def Frame.ringRegs : Frame := ⟨fun s t => State.withRegs { s with rings := t.rings } t.regs, fun _ => rfl, fun _ _ _ => rfl⟩

/-- The node as headgate (R247). -/
structure Heads (s t : State) (ld : Nat) : Prop where
  sync : t.sync ld = syncHeadgate
  id : t.get F.RNG_THG_HGID ld 0 = s.node ld % 2 ^ 13
  self : t.get F.RNG_THG_SELF ld 0 = 1
  bhops : t.get F.RNG_TSYNC_BHOPS ld 0 = 0
  holdt : t.get F.RNG_TCNT_HOLDT ld 0 = 0

namespace State

variable (s : State)

theorem setRing_ringRegs (ld : Nat) (x : RingSt) : Frame.ringRegs.Holds s (s.setRing ld x) := rfl

theorem put_ringRegs (F : Fld) (d i v : Nat) : Frame.ringRegs.Holds s (s.put F d i v) := rfl

theorem setSync_ringRegs (ld st : Nat) : Frame.ringRegs.Holds s (s.setSync ld st) := by
  unfold State.setSync
  exact (s.put_ringRegs _ _ _ _).trans (Frame.each (fun s _ _ => Frame.on fun _ => s.put_ringRegs _ _ _ _) _)

theorem stopSending_ringRegs (ld : Nat) : Frame.ringRegs.Holds s (s.stopSending ld) := by
  unfold State.stopSending
  exact (((s.put_ringRegs _ _ _ _).trans (State.put_ringRegs _ _ _ _ _)).trans (State.setRing_ringRegs _ _ _)).trans
    (Frame.on fun _ => State.put_ringRegs _ _ _ _ _)

theorem enterQuiet_ringRegs (ld : Nat) : Frame.ringRegs.Holds s (s.enterQuiet ld) := by
  unfold State.enterQuiet
  exact (((s.setSync_ringRegs _ _).trans (State.stopSending_ringRegs _ _)).trans (State.put_ringRegs _ _ _ _ _)).trans (State.put_ringRegs _ _ _ _ _)

theorem enterListen_ringRegs (ld : Nat) : Frame.ringRegs.Holds s (s.enterListen ld) := by
  unfold State.enterListen
  exact (((s.setSync_ringRegs _ _).trans (State.put_ringRegs _ _ _ _ _)).trans (State.put_ringRegs _ _ _ _ _)).trans (State.setRing_ringRegs _ _ _)

theorem tickFollows_head (ld n : Nat) : Frame.head.Holds s (s.tickFollows ld n) := by
  unfold State.tickFollows
  exact Frame.ite (fun _ => rfl) fun _ => rfl

/-! ### The start-up state -/

theorem sync_setSync (ld : Nat) {st : Nat} (h : st < 8) : (s.setSync ld st).sync ld = st := by
  have hl (s : State) (p v : Nat) : (s.put F.RNG_TXSTAT_LISTEN ld p v).sync ld = s.sync ld := State.get_put_other _ _ _ _ _ _ _ _ (by decide)
  unfold State.setSync
  rw [State.each_same (fun s => s.sync ld) (fun s p _ => State.on_same (fun s => s.sync ld) (hl s p _))]
  exact (s.get_put _ _ _ _ _ _).trans ((if_pos ⟨rfl, rfl⟩).trans (Nat.mod_eq_of_lt h))

/-- The port shows whether its transmitter is held. -/
theorem listen_setSync (ld st : Nat) {p : Nat} (hp : p < 2) (hf : s.fenced U.port ld p = false) :
    (s.setSync ld st).get F.RNG_TXSTAT_LISTEN ld p = (decide (st = syncQuiet)).toNat := by
  have hfenced (s : State) (q : Nat) : (s.on (!s.fenced U.port ld q) fun s => s.putB F.RNG_TXSTAT_LISTEN ld q (decide (st = syncQuiet))).fenced U.port ld p =
      s.fenced U.port ld p := State.on_same (fun s => s.fenced U.port ld p) rfl
  have hset (s : State) (h : s.fenced U.port ld p = false) : (s.putB F.RNG_TXSTAT_LISTEN ld p (decide (st = syncQuiet))).get F.RNG_TXSTAT_LISTEN ld p =
      (decide (st = syncQuiet)).toNat := (s.get_put _ _ _ _ _ _).trans ((if_pos ⟨rfl, rfl⟩).trans (toNat_mod_two _))
  unfold State.setSync
  refine State.each_sets (P := fun s => s.fenced U.port ld p = false → s.get F.RNG_TXSTAT_LISTEN ld p = (decide (st = syncQuiet)).toNat)
    (by simp; omega : p ∈ [0, 1]) (fun s h => ?_) (fun s q ih h => ?_) _ ?_
  · rw [hfenced] at h
    rw [h, Bool.not_false, State.on_true, hset s h]
  · rw [hfenced] at h
    by_cases hq : q = p
    · rw [hq, h, Bool.not_false, State.on_true, hset s h]
    · refine (State.on_same (fun s => s.get F.RNG_TXSTAT_LISTEN ld p) ?_).trans (ih h)
      exact (s.get_put _ _ _ _ _ _).trans (if_neg fun hk => hq hk.2.symm)
  · rw [State.each_same (fun s => s.fenced U.port ld p) (fun s q _ => hfenced s q)]
    exact hf

theorem ring_setSync (ld st k : Nat) : (s.setSync ld st).ring k = s.ring k := by
  unfold State.setSync
  exact (State.each_same (State.ring · k) (fun s _ _ => State.on_same (State.ring · k) rfl) _).trans rfl

theorem stopSending_flds (ld : Nat) : FldsWithin [F.RNG_THG_SELF, F.RNG_TSYNC_BHOPS, F.TICK_TSTAT_HOLDOVER] s (s.stopSending ld) := by
  unfold State.stopSending
  exact .after (.on (.put _ _ _ _ (by decide))) (.after (State.setRing_flds _ _ _ _) (.after (.put _ _ _ _ (by decide)) (.put _ _ _ _ (by decide))))

theorem stopSending_ring (ld : Nat) : ((s.stopSending ld).ring ld).sends = false := by
  unfold State.stopSending
  dsimp only
  rw [State.on_same (fun s => (s.ring ld).sends) rfl, State.ring_setRing, if_pos rfl]

theorem stopSending_holdover {ld : Nat} (h : s.inRun = true) : (s.stopSending ld).get F.TICK_TSTAT_HOLDOVER ld 0 = 1 := by
  unfold State.stopSending
  dsimp only
  rw [State.on_apply (fun s => s.get F.TICK_TSTAT_HOLDOVER ld 0)]
  exact (if_pos h).trans ((State.get_put _ _ _ _ _ _ _).trans (if_pos ⟨rfl, rfl⟩))

theorem setSync_inRun (ld st : Nat) : (s.setSync ld st).inRun = s.inRun := (s.setSync_ringRegs ld st).same State.inRun

/-- What a node does that goes quiet (R245, R247, R248). -/
theorem enterQuiet_effect (ld : Nat) : let t := s.enterQuiet ld
    t.sync ld = syncQuiet ∧ t.get F.RNG_TCNT_QUIETS ld 0 = min (s.get F.RNG_TCNT_QUIETS ld 0 + 1) (2 ^ F.RNG_TCNT_QUIETS.w - 1) ∧
    (∀ p < 2, s.fenced U.port ld p = false → t.get F.RNG_TXSTAT_LISTEN ld p = 1) ∧ (t.ring ld).sends = false ∧
    t.get F.TICK_TSTAT_LOCKED ld 0 = 0 ∧ (s.inRun = true → t.get F.TICK_TSTAT_HOLDOVER ld 0 = 1) := by
  have hcount : FldsWithin [F.RNG_TCNT_QUIETS, F.TICK_TSTAT_LOCKED] ((s.setSync ld syncQuiet).stopSending ld) (s.enterQuiet ld) :=
    .after (.put _ _ _ _ (by decide)) (.put _ _ _ _ (by decide))
  have hstop := (s.setSync ld syncQuiet).stopSending_flds ld
  refine ⟨?_, ?_, fun p hp hf => ?_, (s.setSync ld syncQuiet).stopSending_ring ld, (State.get_put _ _ _ _ _ _ _).trans (if_pos ⟨rfl, rfl⟩),
    fun hr => ?_⟩
  · exact (hcount _ _ _ (by decide)).trans ((hstop _ _ _ (by decide)).trans (s.sync_setSync ld (by decide)))
  · have hq : ((s.setSync ld syncQuiet).stopSending ld).get F.RNG_TCNT_QUIETS ld 0 = s.get F.RNG_TCNT_QUIETS ld 0 :=
      (hstop _ _ _ (by decide)).trans (s.setSync_flds ld _ _ _ _ (by decide))
    exact (State.get_put_other _ _ _ _ _ _ _ _ (by decide)).trans ((State.get_count _ _ _ _).trans (by rw [hq]))
  · exact (hcount _ _ _ (by decide)).trans ((hstop _ _ _ (by decide)).trans (s.listen_setSync ld _ hp hf))
  · refine (hcount _ _ _ (by decide)).trans (State.stopSending_holdover _ ?_)
    rw [State.setSync_inRun, hr]

theorem tickFollows_regs (ld n : Nat) : (s.tickFollows ld n).regs = s.regs := by
  unfold State.tickFollows
  split <;> rfl

theorem tickFollows_ring (ld n k : Nat) : (s.tickFollows ld n).ring k = s.ring k := by
  unfold State.tickFollows
  split <;> rfl

/-- A headgate's own fields, before the tick follows. -/
def beginRegs (ld : Nat) : State :=
  let s1 := (s.setSync ld syncHeadgate).put F.RNG_THG_HGID ld 0 (s.node ld)
  let s2 := s1.put F.RNG_THG_HGRANK ld 0 (if s.hgBegins ld && !s.r1src ld then s.get F.RNG_TURNCFG_RANK ld 0 else 0)
  (((s2.put F.RNG_THG_SELF ld 0 1).put F.RNG_TSYNC_BHOPS ld 0 0).put F.RNG_TCNT_HOLDT ld 0 0).setHoldover ld false

theorem begin_eq (ld n : Nat) : s.begin ld n = ((s.beginRegs ld).setRing ld
    { s.ring ld with turn := n, cand := none, first := none, good := 0, sends := true, hold := false }).tickFollows ld n := rfl

theorem beginRegs_heads (ld : Nat) : Heads s (s.beginRegs ld) ld := by
  refine ⟨?_, ?_, ?_, ?_, ?_⟩
  · refine Eq.trans ?_ (s.sync_setSync ld (st := syncHeadgate) (by decide))
    simp [State.sync, State.beginRegs, State.setHoldover, State.putB]
  all_goals simp [State.beginRegs, State.setHoldover, State.putB]

theorem beginRegs_ringRegs (ld : Nat) : Frame.ringRegs.Holds s (s.beginRegs ld) :=
  ((((((s.setSync_ringRegs _ _).trans (State.put_ringRegs _ _ _ _ _)).trans (State.put_ringRegs _ _ _ _ _)).trans (State.put_ringRegs _ _ _ _ _)).trans
    (State.put_ringRegs _ _ _ _ _)).trans (State.put_ringRegs _ _ _ _ _)).trans (State.put_ringRegs _ _ _ _ _)

/-- The registers that a new headgate writes. -/
def headFlds : List Fld := [F.RNG_TSYNC_STATE, F.RNG_TXSTAT_LISTEN, F.RNG_THG_HGID, F.RNG_THG_HGRANK, F.RNG_THG_SELF, F.RNG_TSYNC_BHOPS,
  F.RNG_TCNT_HOLDT, F.TICK_TSTAT_HOLDOVER]

theorem beginRegs_flds (ld : Nat) : FldsWithin headFlds s (s.beginRegs ld) :=
  .after (.put _ _ _ _ (by decide)) (.after (.put _ _ _ _ (by decide)) (.after (.put _ _ _ _ (by decide)) (.after (.put _ _ _ _ (by decide))
    (.after (.put _ _ _ _ (by decide)) (.after (.put _ _ _ _ (by decide)) ((s.setSync_flds _ _).wider (by decide)))))))

theorem get_begin (ld n : Nat) (G : Fld) (d i : Nat) : (s.begin ld n).get G d i = (s.beginRegs ld).get G d i :=
  FldsWithin.ofRegs [] (State.tickFollows_regs _ ld n) G d i (by simp)

/-- The node begins as headgate (R188, R247). -/
theorem begin_effect (ld n : Nat) : Heads s (s.begin ld n) ld ∧ ((s.begin ld n).ring ld).turn = n ∧ ((s.begin ld n).ring ld).sends = true ∧
    (s.begin ld n).tick = (if ld = 0 ∧ s.inRun = true ∧ s.get F.TICK_TSTAT_SRCNOW 0 0 = 0 then n else s.tick) ∧
    Frame.head.Holds s (s.begin ld n) := by
  obtain ⟨hsync, hid, hself, hbhops, hholdt⟩ := s.beginRegs_heads ld
  have hring : (s.begin ld n).ring ld = { s.ring ld with turn := n, cand := none, first := none, good := 0, sends := true, hold := false } := by
    rw [State.begin_eq, State.tickFollows_ring, State.ring_setRing, if_pos rfl]
  have hrun : (s.beginRegs ld).inRun = s.inRun := (s.beginRegs_ringRegs ld).same State.inRun
  have hsrc : (s.beginRegs ld).get F.TICK_TSTAT_SRCNOW 0 0 = s.get F.TICK_TSTAT_SRCNOW 0 0 := s.beginRegs_flds ld _ _ _ (by decide)
  have htick : (s.beginRegs ld).tick = s.tick := (s.beginRegs_ringRegs ld).same State.tick
  refine ⟨⟨?_, ?_, ?_, ?_, ?_⟩, by rw [hring], by rw [hring], ?_, ?_⟩
  · exact (s.get_begin ld n _ _ _).trans hsync
  · exact (s.get_begin ld n _ _ _).trans hid
  · exact (s.get_begin ld n _ _ _).trans hself
  · exact (s.get_begin ld n _ _ _).trans hbhops
  · exact (s.get_begin ld n _ _ _).trans hholdt
  · rw [← hrun, ← hsrc, ← htick, State.begin_eq]
    unfold State.tickFollows
    split
    next h => exact (if_pos h).symm
    next h => exact (if_neg h).symm
  · exact ((s.beginRegs_ringRegs ld).trans (State.setRing_ringRegs _ _ _)).wider.trans (State.tickFollows_head _ _ _)

end State

/-- The ports and registers. -/
def Frame.ports : Frame := ⟨fun s t => State.withRegs { s with ports := t.ports } t.regs, fun _ => rfl, fun _ _ _ => rfl⟩

/-- The ports and the frames sent. -/
def Frame.sends : Frame := ⟨fun s t => { s with ports := t.ports, sent := t.sent }, fun _ => rfl, fun _ _ _ => rfl⟩

namespace State

variable (s : State)

theorem setPort_onPorts (ld p : Nat) (x : PortSt) : Frame.ports.Holds s (s.setPort ld p x) := rfl

theorem put_onPorts (F : Fld) (d i v : Nat) : Frame.ports.Holds s (s.put F d i v) := rfl

theorem turnPort_onPorts (ld p : Nat) : Frame.ports.Holds s (s.turnPort ld p) := by
  unfold State.turnPort
  exact (s.setPort_onPorts _ _ _).trans (Frame.on fun _ => State.put_onPorts _ _ _ _ _)

theorem wrapPort_onPorts (ld p : Nat) : Frame.ports.Holds s (s.wrapPort ld p) := by
  unfold State.wrapPort
  refine Frame.on fun _ => (s.put_onPorts F.RNG_EMPTY_STALE ld p (s.staleP ld ld p).toNat).trans (Frame.ite (fun _ => ?_) fun _ => ?_)
  · exact ((Frame.on fun _ => (State.put_onPorts _ _ _ _ _).trans (State.put_onPorts _ _ _ _ _)).trans (State.put_onPorts _ _ _ _ _)).trans
      (State.put_onPorts _ _ _ _ _)
  · exact Frame.on fun _ => ((State.put_onPorts _ _ _ _ _).trans (State.put_onPorts _ _ _ _ _)).trans (State.put_onPorts _ _ _ _ _)

theorem portEdges_onPorts (ld : Nat) : Frame.ports.Holds s (s.portEdges ld) := by
  unfold State.portEdges
  exact Frame.each (fun s p _ => (s.turnPort_onPorts ld p).trans (State.wrapPort_onPorts _ _ _)) s

/-- The registers of a port that an edge moves. -/
def edgeFlds : List Fld := [F.RNG_TXSTAT_TRUNCRUN, F.RNG_EMPTY_STALE, F.RNG_WRAP_WRAPS, F.RNG_WRAP_OKRUN, F.RNG_WRAP_WRAP, F.RNG_WRAP_WCAUSE]

theorem turnPort_flds (ld p : Nat) : FldsWithin edgeFlds s (s.turnPort ld p) := by
  unfold State.turnPort
  exact .after (.on (.put _ _ _ _ (by decide))) (State.setPort_flds _ _ _ _ _)

theorem wrapPort_flds (ld p : Nat) : FldsWithin edgeFlds s (s.wrapPort ld p) := by
  have hput (u : State) {F : Fld} (v : Nat) (h : F ∈ edgeFlds) : FldsWithin edgeFlds u (u.put F ld p v) := .put u _ _ _ h
  unfold State.wrapPort
  refine .on (.ite ?_ ?_)
  · refine .after (hput _ _ ?_) (.after (hput _ _ ?_) (.after (.on (.after (hput _ _ ?_) (hput _ _ ?_))) (hput _ _ ?_))) <;> decide
  · refine .after (.on (.after (hput _ _ ?_) (.after (hput _ _ ?_) (hput _ _ ?_)))) (hput _ _ ?_) <;> decide

theorem portEdges_flds (ld : Nat) : FldsWithin edgeFlds s (s.portEdges ld) := by
  unfold State.portEdges
  exact .each (fun s p _ => (s.turnPort_flds ld p).trans (State.wrapPort_flds _ ld p)) s

theorem emit_sends (ld p : Nat) (bs : List Byte) : Frame.sends.Holds s (s.emit ld p bs) := rfl

theorem setPort_sends (ld p : Nat) (x : PortSt) : Frame.sends.Holds s (s.setPort ld p x) := rfl

theorem sendBeacons_sends (ld ra rb : Nat) : Frame.sends.Holds s (s.sendBeacons ld ra rb) := by
  unfold State.sendBeacons
  exact Frame.each (fun s x _ => Frame.on fun _ => s.emit_sends _ _ _) s

theorem sendSpate_sends (ld p : Nat) (f : SpateFrame) (good : Bool) : Frame.sends.Holds s (s.sendSpate ld p f good) :=
  (s.setPort_sends _ _ _).trans (State.emit_sends _ _ _ _)

theorem sendHeld_sends (ld p : Nat) : Frame.sends.Holds s (s.sendHeld ld p) := by
  unfold State.sendHeld
  exact Frame.on fun _ => (s.setPort_sends _ _ _).trans (Frame.each (fun s f _ => s.sendSpate_sends _ _ _ _) _)

theorem sending_sends : Frame.sends.Holds s s.sending := rfl

end State

/-- A field reads as before where only ports and frames sent may change. -/
theorem Frame.Holds.get_sends {s t : State} (h : Frame.sends.Holds s t) (G : Fld) (d i : Nat) : t.get G d i = s.get G d i :=
  h.same fun s => s.get G d i

namespace State

variable (s : State)

theorem ring_of_sends {s t : State} (h : Frame.sends.Holds s t) (k : Nat) : t.ring k = s.ring k := h.same (State.ring · k)

theorem ring_of_onPorts {s t : State} (h : Frame.ports.Holds s t) (k : Nat) : t.ring k = s.ring k := h.same (State.ring · k)

/-- A new headgate with its edge made, before its beacons leave. -/
def begun (ld : Nat) : State :=
  let s1 := (s.begin ld (s.startTurn ld)).portEdges ld
  s1.setRing ld { s1.ring ld with diag := s1.diagBytes ld }

theorem beginNow_eq (ld ra rb : Nat) : s.beginNow ld ra rb = (s.begun ld).on (!s.r1src ld) fun s => s.sendBeacons ld ra rb := rfl

theorem get_begun {G : Fld} (hG : ∀ F ∈ edgeFlds, F.same G = false) (ld d i : Nat) : (s.begun ld).get G d i = (s.begin ld (s.startTurn ld)).get G d i := by
  have h := FldsWithin.after (State.setRing_flds edgeFlds ((s.begin ld (s.startTurn ld)).portEdges ld) ld
    { ((s.begin ld (s.startTurn ld)).portEdges ld).ring ld with diag := ((s.begin ld (s.startTurn ld)).portEdges ld).diagBytes ld })
    (State.portEdges_flds _ ld)
  exact h G d i hG

theorem begun_ring (ld : Nat) : ((s.begun ld).ring ld).turn = s.startTurn ld ∧ ((s.begun ld).ring ld).sends = true := by
  obtain ⟨-, hturn, hsends, -⟩ := s.begin_effect ld (s.startTurn ld)
  have hedge : ((s.begin ld (s.startTurn ld)).portEdges ld).ring ld = (s.begin ld (s.startTurn ld)).ring ld :=
    State.ring_of_onPorts (State.portEdges_onPorts _ ld) ld
  have hring : (s.begun ld).ring ld = { ((s.begin ld (s.startTurn ld)).portEdges ld).ring ld with
      diag := ((s.begin ld (s.startTurn ld)).portEdges ld).diagBytes ld } := (State.ring_setRing _ _ _ _).trans (if_pos rfl)
  rw [hring, hedge]
  exact ⟨hturn, hsends⟩

theorem begun_heads (ld : Nat) : Heads s (s.begun ld) ld := by
  obtain ⟨⟨hsync, hid, hself, hbhops, hholdt⟩, -⟩ := s.begin_effect ld (s.startTurn ld)
  exact ⟨(s.get_begun (by decide) ld _ _).trans hsync, (s.get_begun (by decide) ld _ _).trans hid, (s.get_begun (by decide) ld _ _).trans hself,
    (s.get_begun (by decide) ld _ _).trans hbhops, (s.get_begun (by decide) ld _ _).trans hholdt⟩

theorem begun_turn (ld : Nat) : Frame.turn.Holds s (s.begun ld) := by
  obtain ⟨-, -, -, -, hframe⟩ := s.begin_effect ld (s.startTurn ld)
  have hset (u : State) (x : RingSt) : Frame.turn.Holds u (u.setRing ld x) := rfl
  exact (hframe.wider.trans (State.portEdges_onPorts _ ld).wider).trans (hset _ _)

/-- What the beginning of a headgate leaves of a register. -/
theorem get_begun_other {G : Fld} (hG : ∀ F ∈ edgeFlds ++ headFlds, F.same G = false) (ld d i : Nat) : (s.begun ld).get G d i = s.get G d i :=
  (s.get_begun (fun F h => hG F (List.mem_append_left _ h)) ld d i).trans ((s.get_begin ld _ _ _ _).trans
    (s.beginRegs_flds ld _ _ _ fun F h => hG F (List.mem_append_right _ h)))

/-- A beacon of a new headgate on ring 0 leaves a port with a valid delay (R237). -/
theorem begun_beacons (hon : s.ringOn 0 = true) (htx : s.txGood 0 = true) {p : Nat} (hd : s.delayValid 0 p = true) : (s.begun 0).beacons 0 p = true := by
  have hframe := s.begun_turn 0
  have hsync := (s.begun_heads 0).sync
  have hsends := (s.begun_ring 0).2
  have hpart : (s.begun 0).part = s.part := hframe.same State.part
  have hadmit : (s.begun 0).admitted 0 p = s.admitted 0 p := by
    unfold State.admitted State.flag
    rw [s.get_begun_other (by decide)]
  have hdelay : (s.begun 0).delayValid 0 p = true := by
    unfold State.delayValid State.flag at hd ⊢
    rw [hadmit, s.get_begun_other (by decide)]
    exact hd
  have hruns : (s.begun 0).ringOn 0 = true := by
    unfold State.ringOn State.flag at hon ⊢
    rw [s.get_begun_other (by decide), s.get_begun_other (by decide), hpart, hframe.same fun s => s.fenced U.engine 0 0]
    exact hon
  have hgood : (s.begun 0).txGood 0 = true := by
    unfold State.txGood at htx ⊢
    rw [hpart]
    exact htx
  have hadm : s.admitted 0 p = true := (Bool.and_eq_true_iff.1 hd).1
  unfold State.beacons State.maySend State.joined State.ringRuns
  rw [hadmit, hadm, hsync, hsends, hruns, hgood, hdelay]
  rfl

/-- A frame sent stays sent. -/
theorem mem_sent_of_sendBeacon {x : Nat × List Byte} (h : x ∈ s.sent) (ld p r : Nat) : x ∈ (s.on
    (s.beacons ld p && decide (r + 520 * 65536 ≤ 2000 * 65536)) fun s => s.emit ld p (withFcs true (s.frameOf ld p 2 (s.beaconBody ld p r)))).sent := by
  rw [State.on_apply State.sent]
  split
  · exact List.mem_append_left _ h
  · exact h

theorem sendBeacons_first {ra rb : Nat} (hb : s.beacons 0 0 = true) (hr : ra + 520 * 65536 ≤ 2000 * 65536) :
    ∃ bs, (0, bs) ∈ (s.sendBeacons 0 ra rb).sent := by
  have hgo : (s.beacons 0 0 && decide (ra + 520 * 65536 ≤ 2000 * 65536)) = true := by rw [hb, decide_eq_true hr]; rfl
  refine ⟨withFcs true (s.frameOf 0 0 2 (s.beaconBody 0 0 ra)), State.mem_sent_of_sendBeacon _ ?_ 0 1 rb⟩
  dsimp only
  rw [hgo, State.on_true]
  exact List.mem_append_right _ (List.mem_singleton.2 rfl)

theorem beginNow_first {ra rb : Nat} (hon : s.ringOn 0 = true) (htx : s.txGood 0 = true) (hd : s.delayValid 0 0 = true)
    (hr : ra + 520 * 65536 ≤ 2000 * 65536) : ∃ bs, (0, bs) ∈ (s.beginNow 0 ra rb).sent := by
  have hsrc : s.r1src 0 = false := rfl
  rw [State.beginNow_eq, hsrc, Bool.not_false, State.on_true]
  exact State.sendBeacons_first _ (s.begun_beacons hon htx hd) hr

/-! ### The turn edge -/

/-- The registers and the start-up state after the end of a turn (R242, R244, R254). -/
theorem endTurn_followed {ld h p : Nat} {th : Int} (hc : (s.ring ld).cand = some (h, p, th)) : let t := s.endTurn ld
    t.get F.RNG_TSYNC_BHOPS ld 0 = (h + 1) % 2 ^ F.RNG_TSYNC_BHOPS.w ∧ t.get F.RNG_TCNT_HOLDT ld 0 = 0 ∧ t.sync ld = s.sync ld ∧
    (t.ring ld).turn = (s.ring ld).turn ∧ Frame.ringRegs.Holds s t := by
  unfold State.endTurn
  dsimp only
  rw [hc]
  dsimp only
  refine ⟨by simp, by simp, by simp [State.sync], by simp, ?_⟩
  exact (((s.put_ringRegs _ _ _ _).trans (State.put_ringRegs _ _ _ _ _)).trans (State.put_ringRegs _ _ _ _ _)).trans (State.setRing_ringRegs _ _ _)

theorem endTurn_alone {ld : Nat} (hc : (s.ring ld).cand = none) : let t := s.endTurn ld
    t.get F.RNG_TCNT_HOLDT ld 0 = min (s.get F.RNG_TCNT_HOLDT ld 0 + 1) (2 ^ F.RNG_TCNT_HOLDT.w - 1) ∧
    t.sync ld = (if s.sync ld = syncTrack then syncHoldover else s.sync ld) ∧
    (t.ring ld).turn = (s.ring ld).turn ∧ Frame.ringRegs.Holds s t := by
  unfold State.endTurn
  dsimp only
  rw [hc]
  dsimp only
  have hflds (u : State) : FldsWithin [F.RNG_TSYNC_STATE, F.RNG_TXSTAT_LISTEN, F.TICK_TSTAT_HOLDOVER] u
      ((u.setSync ld syncHoldover).setHoldover ld true) := .after (.put _ _ _ _ (by decide)) ((u.setSync_flds ld _).wider (by decide))
  refine ⟨?_, ?_, ?_, ?_⟩
  · exact (FldsWithin.on (hflds _) _ _ _ (by decide)).trans (s.get_count _ _ _)
  · rw [State.on_apply (State.sync · ld)]
    have hsync (u : State) : ((u.setSync ld syncHoldover).setHoldover ld true).sync ld = syncHoldover :=
      (State.get_put_other _ _ _ _ _ _ _ _ (by decide)).trans (u.sync_setSync ld (by decide))
    rw [hsync]
    refine if_congr decide_eq_true_iff rfl ?_
    exact State.get_put_other _ _ _ _ _ _ _ _ (by decide)
  · rw [State.on_same (fun s => (s.ring ld).turn), State.ring_setRing, if_pos rfl]
    exact congrArg RingSt.turn (State.ring_setSync _ ld syncHoldover ld)
  · exact ((s.put_ringRegs _ _ _ _).trans (State.setRing_ringRegs _ _ _)).trans
      (Frame.on fun _ => (State.setSync_ringRegs _ _ _).trans (State.put_ringRegs _ _ _ _ _))

/-- The turn that begins at an edge; on a ring whose turn is the tick, `tick` is its number. -/
def turned (ld tick : Nat) (own : Bool) (skew : Int) : State :=
  s.setRing ld
    { s.ring ld with turn := if own then tick else ((s.ring ld).turn + 1) % tickMod, cand := none, badNow := false,
                     badTheta := if (s.ring ld).badNow then (s.ring ld).badTheta else 0, sends := (s.ring ld).sends || s.joined ld, hold := false,
                     skew := if own then 0 else skew }

/-- An edge after whose turn the node does not begin as headgate. -/
def edged (ld : Nat) : State := (s.portEdges ld).setRing ld { (s.portEdges ld).ring ld with diag := (s.portEdges ld).diagBytes ld }

/-- The frames of an edge leave: its beacons, then the held marks (R236, R237). -/
def edgeFrames (ld ra rb : Nat) : State := (s.sendBeacons ld ra rb).each [0, 1] fun s p => s.sendHeld ld p

theorem edgeFrames_sends (ld ra rb : Nat) : Frame.sends.Holds s (s.edgeFrames ld ra rb) :=
  (s.sendBeacons_sends ld ra rb).trans (Frame.each (fun s p _ => s.sendHeld_sends ld p) _)

theorem turned_ringRegs (ld tick : Nat) (own : Bool) (skew : Int) : Frame.ringRegs.Holds s (s.turned ld tick own skew) := rfl

theorem get_edged {G : Fld} (hG : ∀ F ∈ edgeFlds, F.same G = false) (ld d i : Nat) : (s.edged ld).get G d i = s.get G d i := by
  have h := FldsWithin.after (State.setRing_flds edgeFlds (s.portEdges ld) ld
    { (s.portEdges ld).ring ld with diag := (s.portEdges ld).diagBytes ld }) (s.portEdges_flds ld)
  exact h G d i hG

theorem edged_ring (ld : Nat) : ((s.edged ld).ring ld).turn = (s.ring ld).turn := by
  have hring : (s.edged ld).ring ld = { (s.portEdges ld).ring ld with diag := (s.portEdges ld).diagBytes ld } :=
    (State.ring_setRing _ _ _ _).trans (if_pos rfl)
  rw [hring, State.ring_of_onPorts (s.portEdges_onPorts ld)]

theorem edged_edge (ld : Nat) : Frame.edge.Holds s (s.edged ld) := by
  have hset (u : State) (x : RingSt) : Frame.edge.Holds u (u.setRing ld x) := rfl
  exact (s.portEdges_onPorts ld).wider.trans (hset _ _)

/-- Outside LISTEN no turn edge makes the node headgate (R247). -/
theorem primary_of_sync {ld : Nat} (h : s.sync ld ≠ syncListen) : s.primary ld = false := by
  unfold State.primary
  rw [decide_eq_false h]
  rfl

theorem turnEdge_shape (ld ra rb : Nat) (skew : Int) : s.turnEdge ld ra rb skew =
    let v := ((s.endTurn ld).turned ld s.tick (s.r1src ld && s.inRun) skew).portEdges ld
    let w := v.on (v.primary ld) fun s => s.begin ld (s.startTurn ld)
    (w.setRing ld { w.ring ld with diag := w.diagBytes ld }).edgeFrames ld ra rb := rfl

theorem turnEdge_eq {ld ra rb : Nat} {skew : Int} (h : (s.endTurn ld).sync ld ≠ syncListen) : s.turnEdge ld ra rb skew =
    (((s.endTurn ld).turned ld s.tick (s.r1src ld && s.inRun) skew).edged ld).edgeFrames ld ra rb := by
  have hsync : (((s.endTurn ld).turned ld s.tick (s.r1src ld && s.inRun) skew).portEdges ld).sync ld = (s.endTurn ld).sync ld :=
    State.portEdges_flds _ ld _ _ _ (by decide)
  have hp := State.primary_of_sync _ (hsync ▸ h)
  have hshape (u : State) (hu : u.primary ld = false) (c : State → State) : u.on (u.primary ld) c = u := by rw [hu, State.on_false]
  rw [s.turnEdge_shape]
  dsimp only
  rw [hshape _ hp]
  rfl

/-- A node that gives up joining listens again (R247). -/
theorem enterListen_effect (ld : Nat) : let t := s.enterListen ld
    t.sync ld = syncListen ∧ (t.ring ld).sends = false ∧ t.get F.TICK_TSTAT_LOCKED ld 0 = 0 := by
  unfold State.enterListen
  dsimp only
  refine ⟨?_, ?_, ?_⟩
  · refine Eq.trans ?_ (s.sync_setSync ld (st := syncListen) (by decide))
    simp [State.sync]
  · rw [State.ring_setRing, if_pos rfl]
  · simp

/-- What an edge leaves, its frames sent. -/
theorem turnEdge_effect {ld ra rb : Nat} {skew : Int} (h : (s.endTurn ld).sync ld ≠ syncListen) (hframe : Frame.ringRegs.Holds s (s.endTurn ld))
    (hturn : ((s.endTurn ld).ring ld).turn = (s.ring ld).turn) : let t := s.turnEdge ld ra rb skew
    (∀ G d i, (∀ F ∈ edgeFlds, F.same G = false) → t.get G d i = (s.endTurn ld).get G d i) ∧
    (t.ring ld).turn = (if s.r1src ld = true ∧ s.inRun = true then s.tick else ((s.ring ld).turn + 1) % tickMod) ∧
    Frame.edge.Holds s t := by
  rw [s.turnEdge_eq h]
  have hsends := State.edgeFrames_sends (((s.endTurn ld).turned ld s.tick (s.r1src ld && s.inRun) skew).edged ld) ld ra rb
  refine ⟨fun G d i hG => ?_, ?_, ?_⟩
  · exact (hsends.get_sends G d i).trans ((State.get_edged _ hG ld d i).trans (State.setRing_flds [] _ _ _ G d i (by simp)))
  · rw [State.ring_of_sends hsends, State.edged_ring, State.turned, State.ring_setRing, if_pos rfl, hturn]
    simp
  · exact ((hframe.trans (State.turned_ringRegs _ _ _ _ _)).wider.trans (State.edged_edge _ _)).trans hsends.wider

end State

/-- Settles O31. -/
theorem syncStatesFollowTheirRules : Obligations.SyncStatesFollowTheirRules := by
  intro s ld ra rb skew hld heads
  have hheads {t u : State} (h : Heads u t ld) (hu : u.node ld = s.node ld) : heads t := ⟨h.sync, by rw [h.id, hu], h.self, h.bhops, h.holdt⟩
  refine ⟨fun hst hgood => ?lock, fun hst hmax => ?holdover, fun hst hb hgen hrank htk hd => ?takeover, fun hst hd hon hc => ?listen,
    fun hst => ?join, fun hon hst => ?turn⟩
  case lock =>
    refine ⟨_, State.answer_of hld ?_, (State.get_put _ _ _ _ _ _ _).trans (if_pos ⟨rfl, rfl⟩), onlyFields_put _ _ _ _ _⟩
    simp [hst, hgood]
  case holdover =>
    obtain ⟨hsync, hquiets, hlisten, hsends, hlocked, hhold⟩ := s.enterQuiet_effect ld
    exact ⟨_, State.answer_of hld (by rw [hst, decide_eq_true hmax]; rfl), hsync, hquiets, hlisten, hsends, hlocked, hhold, s.enterQuiet_ringRegs ld⟩
  case takeover =>
    obtain ⟨hh, hturn, -, htick, hframe⟩ := s.begin_effect ld (s.ring ld).turn
    refine ⟨_, State.answer_of hld ?_, hheads hh rfl, hturn, htick, hframe⟩
    rw [hst, hb, hgen, decide_eq_true hrank, decide_eq_true htk, hd]
    rfl
  case listen =>
    have hgo : (decide (s.sync ld = syncListen) && s.anyDelay ld && s.ringOn ld &&
        (!s.hgBegins ld || s.flag F.RNG_TURNCFG_HGEN ld 0 || s.r1src ld)) = true := by
      rw [hst, hd, hon]
      rcases hc with h | h | h <;> simp [h]
    obtain ⟨hsync, hid, hself, hbhops, hholdt⟩ := s.sending.begun_heads ld
    have hsends : Frame.sends.Holds (s.sending.begun ld) (s.sending.beginNow ld ra rb) := by
      rw [State.beginNow_eq]
      exact Frame.on fun _ => State.sendBeacons_sends _ _ _ _
    refine ⟨_, State.answer_of hld hgo, ?_, ?_, fun h0 htx hdel hr => ?_, ?_⟩
    · exact hheads (u := s) ⟨(hsends.get_sends _ _ _).trans hsync, (hsends.get_sends _ _ _).trans hid, (hsends.get_sends _ _ _).trans hself,
        (hsends.get_sends _ _ _).trans hbhops, (hsends.get_sends _ _ _).trans hholdt⟩ rfl
    · rw [State.ring_of_sends hsends]
      exact (s.sending.begun_ring ld).1
    · subst h0
      exact s.sending.beginNow_first hon htx hdel hr
    · exact (s.sending_sends.wider.trans (s.sending.begun_turn ld)).trans hsends.wider
  case join =>
    obtain ⟨hsync, hsends, hlocked⟩ := s.enterListen_effect ld
    exact ⟨_, State.answer_of hld (decide_eq_true hst), hsync, hsends, hlocked, s.enterListen_ringRegs ld⟩
  case turn =>
    have hgo {u : State} (h : u = s.sending.turnEdge ld ra rb skew) : exec (.turnEdge ⟨ld, ⟨ra, rb⟩, skew⟩) s = .next u := by
      rw [h]
      exact State.answer_of hld hon
    cases hc : (s.ring ld).cand with
    | some x =>
      obtain ⟨h, p, th⟩ := x
      obtain ⟨hbhops, hholdt, hsync, hturn, hframe⟩ := s.sending.endTurn_followed hc
      obtain ⟨hget, hnext, hedge⟩ := s.sending.turnEdge_effect (ra := ra) (rb := rb) (skew := skew) (by rw [hsync]; exact hst) hframe hturn
      refine ⟨_, hgo rfl, hnext, fun h' p' th' he => ?_, fun hn => ?_, s.sending_sends.wider.trans hedge⟩
      · cases he
        exact ⟨(hget _ _ _ (by decide)).trans hbhops, (hget _ _ _ (by decide)).trans hholdt, (hget _ _ _ (by decide)).trans hsync⟩
      · cases hn
    | none =>
      obtain ⟨hholdt, hsync, hturn, hframe⟩ := s.sending.endTurn_alone hc
      have hlisten : (s.sending.endTurn ld).sync ld ≠ syncListen := by
        rw [hsync]
        split
        · decide
        · exact hst
      obtain ⟨hget, hnext, hedge⟩ := s.sending.turnEdge_effect (ra := ra) (rb := rb) (skew := skew) hlisten hframe hturn
      refine ⟨_, hgo rfl, hnext, fun h p th he => ?_, fun _ => ?_, s.sending_sends.wider.trans hedge⟩
      · cases he
      · exact ⟨(hget _ _ _ (by decide)).trans hholdt, (hget _ _ _ (by decide)).trans hsync⟩

end Sys2Proof.Machine
end

section
/-! SUPPORT. Beacons: the filter, the start-up states that follow one, and the candidate of a turn (R212, R241, R244, R246). -/

namespace Sys2Proof.Machine

namespace State

variable (s : State)

/-! ### The filter (R212) -/

theorem filtered_of_bad {ld p cls : Nat} {h : FrameHdr} (hb : h.fcs = false ∨ s.wrongSide ld p h = true) : s.filtered ld p cls h = true := by
  unfold State.filtered
  rcases hb with hb | hb <;> simp [hb]

theorem countFilter_of_rightSide {ld p : Nat} {h : FrameHdr} (hw : s.wrongSide ld p h = false) :
    s.countFilter ld p h = if h.fcs then s.count F.RNG_RXERR_FILT ld p else s.count F.RNG_RXERR_FCSERR ld p := by
  unfold State.countFilter
  dsimp only
  rw [hw, State.on_false]

/-- A frame from the wrong side withdraws admission. -/
theorem countFilter_of_wrongSide {ld p : Nat} {h : FrameHdr} (hw : s.wrongSide ld p h = true) :
    ((s.countFilter ld p h).port ld p).miswired = true ∧ (s.countFilter ld p h).get F.RNG_PSTAT_ADMIT ld p = 0 := by
  have hmis (u : State) : let v := (u.setPort ld p { u.port ld p with miswired := true }).admitPort ld p
      (v.port ld p).miswired = true ∧ v.get F.RNG_PSTAT_ADMIT ld p = 0 := by
    have hset : ((u.setPort ld p { u.port ld p with miswired := true }).port ld p).miswired = true := by rw [State.port_setPort, if_pos rfl]
    obtain ⟨page, hport⟩ := (u.setPort ld p { u.port ld p with miswired := true }).admitPort_port ld p
    exact ⟨by rw [hport]; exact hset, by
      rw [State.admitPort_admit, if_neg (State.portCause_ne_zero _ (.inr (.inr (.inr (.inr (.inr (.inl hset)))))))]⟩
  unfold State.countFilter
  dsimp only
  rw [hw, State.on_true]
  exact hmis _

/-! ### Beacons that pass it -/

/-- A beacon counted as outside its window (R238). -/
def counted (ld p : Nat) (t : Int) : State := s.on (s.joined ld && !s.inBeaconWindow ld p t) fun s => s.count F.RNG_TXSTAT_ACCREJ ld p

theorem counted_change (ld p : Nat) (t : Int) : Change .regs [(F.RNG_TXSTAT_ACCREJ, ld, p)] s (s.counted ld p t) :=
  .on fun _ => .put _ _ (by simp)

theorem beacon_of_filtered {ld p : Nat} {b : BeaconFrame} (t : Int) (h : s.filtered ld p 2 b.hdr = true) :
    s.beacon ld p b t = s.countFilter ld p b.hdr := by
  unfold State.beacon
  rw [if_pos h]

theorem beacon_of_foreign {ld p : Nat} {b : BeaconFrame} (t : Int) (h : s.filtered ld p 2 b.hdr = false) (hf : s.ownKind ld b = false ∨ s.r1src ld = true) :
    s.beacon ld p b t = s.counted ld p t := by
  unfold State.beacon
  rw [h]
  dsimp only
  rw [if_neg Bool.false_ne_true, if_pos hf]
  rfl

theorem beacon_of_following {ld p : Nat} {b : BeaconFrame} (t : Int) (h : s.filtered ld p 2 b.hdr = false) (ho : s.ownKind ld b = true)
    (hr : s.r1src ld = false) (hs : s.sync ld = syncTrack ∨ s.sync ld = syncHoldover) :
    s.beacon ld p b t = (s.counted ld p t).trackBeacon ld p b t := by
  have hst : s.sync ld ≠ syncListen ∧ ¬(s.sync ld = syncJoining ∨ s.sync ld = syncQuiet) ∧ s.sync ld ≠ syncHeadgate := by
    rcases hs with hs | hs <;> rw [hs] <;> decide
  unfold State.beacon
  rw [h]
  dsimp only
  rw [if_neg Bool.false_ne_true, if_neg (by simp [ho, hr]), if_neg hst.1, if_neg hst.2.1, if_neg hst.2.2, if_pos hs]
  rfl

theorem followed_counted (ld p : Nat) (t : Int) : (s.counted ld p t).followed ld = s.followed ld := by
  have hflds : FldsWithin [F.RNG_TXSTAT_ACCREJ] s (s.counted ld p t) := .on (.put _ _ _ _ (by decide))
  unfold State.followed
  rw [hflds _ _ _ (by decide), hflds _ _ _ (by decide)]

theorem trackBeacon_of_worse {ld p : Nat} {b : BeaconFrame} (t : Int) (hw : better (s.followed ld) (b.hgRank, b.hgId) = true)
    (hb : better (b.hgRank, b.hgId) (s.followed ld) = false) : s.trackBeacon ld p b t = s.count F.RNG_TCNT_BEACREJ ld 0 := by
  unfold State.trackBeacon
  dsimp only
  rw [hb, hw, if_neg Bool.false_ne_true, if_pos rfl]

theorem trackBeacon_of_better {ld p : Nat} {b : BeaconFrame} (t : Int) (hb : better (b.hgRank, b.hgId) (s.followed ld) = true) :
    (s.trackBeacon ld p b t).sync ld = syncQuiet := by
  unfold State.trackBeacon
  dsimp only
  rw [hb, if_pos rfl, State.on_same (State.sync · ld) rfl]
  exact (s.enterQuiet_effect ld).1

theorem better_self (a : Nat × Nat) : better a a = false := by simp [better]

/-- The first good beacon of the followed headgate in a turn is its candidate (R241). -/
theorem trackBeacon_of_good {ld p : Nat} {b : BeaconFrame} {t : Int} (hf : (b.hgRank, b.hgId) = s.followed ld)
    (hlow : b.bhops < if (s.ring ld).sends then s.get F.RNG_TSYNC_BHOPS ld 0 else 0x1FFF) (hturn : b.turn = (s.ring ld).turn)
    (hth : (t - b.corr).natAbs ≤ tolA) (hd : s.delayValid ld p = true) (hin : s.inBeaconWindow ld p t = true) :
    s.trackBeacon ld p b t = s.candidate ld p b (t - b.corr) := by
  unfold State.trackBeacon
  dsimp only
  rw [hf, better_self, if_neg Bool.false_ne_true, if_neg Bool.false_ne_true, if_neg (fun h => Nat.not_le.2 hlow h.1), if_pos ⟨hturn, hth⟩, hd, hin]
  rfl

/-- An offset within the tolerance needs no saturation. -/
theorem offset_unsaturated {x : Int} (h : x.natAbs ≤ tolA) : max (-2 ^ 31) (min (x / 2 ^ 14) (2 ^ 31 - 1)) = x / 2 ^ 14 := by
  have htol : tolA = 196608000 := rfl
  omega

theorem candidate_of_first {ld p : Nat} {b : BeaconFrame} {x : Int} (hs : s.sync ld = syncTrack) (hc : (s.ring ld).cand = none) (hx : x.natAbs ≤ tolA) :
    let u := s.candidate ld p b x
    Frame.ringRegs.Holds s u ∧ (u.ring ld).cand = some (b.bhops, p, x) ∧
    u.get F.RNG_TOFFS_THETA ld 0 = ((x / 2 ^ 14) % 2 ^ 32).toNat ∧ RegsWithin [.RNG_TOFFS, .RNG_TSYNC] s u := by
  have hh : decide (s.sync ld = syncHoldover) = false := by rw [hs]; rfl
  have hlt : ((x / 2 ^ 14) % 2 ^ 32).toNat < 2 ^ 32 := by omega
  have he : s.candidate ld p b x = ((s.setRing ld { s.ring ld with cand := some (b.bhops, p, x) }).put F.RNG_TSYNC_FPORT ld 0 p).put F.RNG_TOFFS_THETA ld 0
      ((x / 2 ^ 14) % 2 ^ 32).toNat := by
    unfold State.candidate
    dsimp only
    rw [hh, State.on_false, hc, offset_unsaturated hx]
    rfl
  rw [he]
  refine ⟨((s.setRing_ringRegs _ _).trans (State.put_ringRegs _ _ _ _ _)).trans (State.put_ringRegs _ _ _ _ _), ?_, ?_, ?_⟩
  · rw [State.put_ring, State.put_ring, State.ring_setRing, if_pos rfl]
  · exact (State.get_put _ _ _ _ _ _ _).trans ((if_pos ⟨rfl, rfl⟩).trans (Nat.mod_eq_of_lt hlt))
  · exact .after (.put _ _ _ _ _ (by decide)) (.after (.put _ _ _ _ _ (by decide)) (.ofRegs _ rfl))

end State

/-- Settles O32. -/
theorem beaconsCountOnlyUnderTheirRules : Obligations.BeaconsCountOnlyUnderTheirRules := by
  intro s ld p b tArr hld hp u theta
  have hunit : (s.hasLd ld && decide (p < 2)) = true := by rw [hld, decide_eq_true hp]; rfl
  refine ⟨?answer, fun hf hw => ?fcs, fun hf hw hbad => ?filt, fun hw => ?wrong, fun hok hfor => ?foreign, fun hok hown hsrc => ⟨fun hs => ⟨fun hw hb => ?worse, fun hb => ?better⟩,
    fun hs hf hlow hturn hth hd hin hc => ?good⟩⟩
  case answer =>
    refine (State.answer_of hunit rfl).trans (congrArg Host.Outcome.next ?_)
    rw [State.on]
    exact if_congr Bool.and_eq_true_iff rfl rfl
  case fcs =>
    refine (s.beacon_of_filtered tArr (s.filtered_of_bad (.inl hf))).trans ?_
    rw [s.countFilter_of_rightSide hw, hf]
    rfl
  case filt =>
    refine (s.beacon_of_filtered tArr hbad).trans ?_
    rw [s.countFilter_of_rightSide hw, hf]
    rfl
  case wrong =>
    have hu : u = s.countFilter ld p b.hdr := s.beacon_of_filtered tArr (s.filtered_of_bad (.inr hw))
    rw [hu]
    exact s.countFilter_of_wrongSide hw
  case foreign =>
    have hu : u = s.counted ld p tArr := s.beacon_of_foreign tArr hok hfor
    rw [hu]
    exact change_regs_iff.1 (s.counted_change ld p tArr)
  case worse =>
    have hu : u = (s.counted ld p tArr).trackBeacon ld p b tArr := s.beacon_of_following tArr hok hown hsrc hs
    rw [hu, State.trackBeacon_of_worse _ tArr (by rw [State.followed_counted]; exact hw) (by rw [State.followed_counted]; exact hb)]
    exact change_regs_iff.1 (((s.counted_change ld p tArr).wider (fun _ _ => rfl) (by simp)).trans (.put _ _ (by simp)))
  case better =>
    have hu : u = (s.counted ld p tArr).trackBeacon ld p b tArr := s.beacon_of_following tArr hok hown hsrc hs
    rw [hu]
    exact State.trackBeacon_of_better _ tArr (by rw [State.followed_counted]; exact hb)
  case good =>
    have hcounted : s.counted ld p tArr = s := by rw [State.counted, hin, Bool.not_true, Bool.and_false, State.on_false]
    have hu : u = s.candidate ld p b theta := by
      refine (s.beacon_of_following tArr hok hown hsrc (.inl hs)).trans ?_
      rw [hcounted]
      exact s.trackBeacon_of_good hf hlow hturn hth hd hin
    obtain ⟨hframe, hcand, hoffs, hregs⟩ := s.candidate_of_first (p := p) (b := b) hs hc hth
    rw [hu]
    exact ⟨hframe, hcand, hoffs, fun G d i h1 h2 => hregs G d i (by simp [h1, h2])⟩

end Sys2Proof.Machine
end

section
/-! SUPPORT. Furrow frames (R213 to R218, R239). -/

namespace Sys2Proof.Machine

theorem lastTurn_spec {t low u : Nat} (h : lastTurn t 15 low = some u) : u ≤ t ∧ u % 2 ^ 15 = low % 2 ^ 15 := by
  unfold lastTurn at h
  dsimp only at h
  split at h
  next hd =>
    cases h
    omega
  next => cases h

namespace State

variable (s : State)

/-! ### Sending -/

theorem furrowFrame_eq (ld p : Nat) (x : Transit) : ∃ rest, s.furrowFrame ld p x = hdrBytes (s.ownHdr ld p 1) ld p ++
    msbBytes 1 ((s.forwarded ld p).length + 1) ++ msbBytes 1 (s.reach ld) ++ [0, 0] ++ entryBytes (s.ownEntry ld x) ++ rest := by
  unfold State.furrowFrame State.frameOf
  dsimp only
  rw [List.length_cons, List.flatMap_cons]
  simp only [List.append_assoc]
  exact ⟨_, rfl⟩

/-- An entry goes on from one of the ports, a turn older and within the reach (R217). -/
theorem mem_forwarded {ld p : Nat} (hp : p < 2) {e : FurrowEntry} (he : e ∈ s.forwarded ld p) : e.src ≠ s.node ld ∧ e.age ≤ s.reach ld ∧
    ∃ o ∈ (s.port ld 0).accLast ++ (s.port ld 1).accLast, e = { o with age := o.age + 1 } := by
  have hfrom {q : Nat} (hq : q < 2) {o : FurrowEntry} (ho : o ∈ (s.port ld q).accLast) : o ∈ (s.port ld 0).accLast ++ (s.port ld 1).accLast := by
    interval_cases q
    · exact List.mem_append_left _ ho
    · exact List.mem_append_right _ ho
  unfold State.forwarded at he
  dsimp only at he
  obtain ⟨o, ho, rfl⟩ := List.mem_map.1 he
  obtain ⟨ho, hok⟩ := List.mem_filter.1 ho
  obtain ⟨hage, hsrc⟩ := Bool.and_eq_true_iff.1 hok
  refine ⟨of_decide_eq_true hsrc, of_decide_eq_true hage, o, ?_, rfl⟩
  split at ho
  · cases ho
  · split at ho
    · exact hfrom hp ho
    · exact hfrom (q := 1 - p) (by omega) ho

theorem furrowSend_effect (ld p : Nat) (x : Transit) : let t := s.sending.furrowSend ld p x
    t.sent = [(2 * ld + p, withFcs true (s.furrowFrame ld p x))] ∧ (t.port ld p).furSent = true ∧ t = { s with ports := t.ports, sent := t.sent } := by
  refine ⟨rfl, ?_, rfl⟩
  exact congrArg PortSt.furSent ((State.port_setPort s.sending ld p _ ld p).trans (if_pos rfl))

/-! ### The window (R239) -/

theorem head_keepNewest {α : Type} (n : Nat) (x : α) (l : List α) : (keepNewest (n + 1) x l).head? = some x := rfl

/-- The slot of the turn joins the port's past slots. -/
def slotTaken (ld p : Nat) (full : Bool) : State :=
  s.setPort ld p { s.port ld p with slots := keepNewest 15 full (s.port ld p).slots, slotTick := s.tick + 1 }

theorem slotTaken_head (ld p : Nat) (full : Bool) : ((s.slotTaken ld p full).port ld p).slots.head? = some full := by
  rw [State.slotTaken, State.port_setPort, if_pos rfl]
  rfl

theorem windowEnd_of_empty {ld p : Nat} (h : ((s.port ld p).filled && s.joined ld && s.admitted ld p) = false) : s.windowEnd ld p =
    (((s.slotTaken ld p false).count F.RNG_EMPTY_CONSEC ld p).count F.RNG_EMPTY_TOTAL ld p).put F.RNG_WRAP_OKRUN ld p 0 := by
  unfold State.windowEnd
  dsimp only
  rw [h]
  rfl

theorem windowEnd_of_full {ld p : Nat} (h : ((s.port ld p).filled && s.joined ld && s.admitted ld p) = true) : s.windowEnd ld p =
    ((s.slotTaken ld p true).put F.RNG_EMPTY_CONSEC ld p 0).on (s.inWrap ld p) fun s =>
      s.put F.RNG_WRAP_OKRUN ld p (min 8 (s.get F.RNG_WRAP_OKRUN ld p + 1)) := by
  unfold State.windowEnd
  dsimp only
  rw [h, if_pos rfl]
  rfl

theorem windowEnd_onPorts (ld p : Nat) : Frame.ports.Holds s (s.windowEnd ld p) := by
  unfold State.windowEnd
  exact Frame.ite (fun _ => ((s.setPort_onPorts _ _ _).trans (State.put_onPorts _ _ _ _ _)).trans (Frame.on fun _ => State.put_onPorts _ _ _ _ _))
    fun _ => (((s.setPort_onPorts _ _ _).trans (State.put_onPorts _ _ _ _ _)).trans (State.put_onPorts _ _ _ _ _)).trans (State.put_onPorts _ _ _ _ _)

theorem windowEnd_empty_effect {ld p : Nat} (h : ((s.port ld p).filled && s.joined ld && s.admitted ld p) = false) : let t := s.windowEnd ld p
    t.get F.RNG_EMPTY_TOTAL ld p = min (s.get F.RNG_EMPTY_TOTAL ld p + 1) (2 ^ F.RNG_EMPTY_TOTAL.w - 1) ∧
    t.get F.RNG_EMPTY_CONSEC ld p = min (s.get F.RNG_EMPTY_CONSEC ld p + 1) (2 ^ F.RNG_EMPTY_CONSEC.w - 1) ∧ (t.port ld p).slots.head? = some false := by
  have hold : FldsWithin [] s (s.slotTaken ld p false) := State.setPort_flds _ _ _ _ _
  have hput (u : State) (F : Fld) (v : Nat) : FldsWithin [F] u (u.put F ld p v) := .put u _ _ _ (List.mem_singleton.2 rfl)
  have hcount (u : State) (F : Fld) : FldsWithin [F] u (u.count F ld p) := hput u F _
  rw [s.windowEnd_of_empty h]
  refine ⟨?_, ?_, s.slotTaken_head ld p false⟩
  · rw [hput _ _ _ _ _ _ (by decide), State.get_count, hcount _ _ _ _ _ (by decide), hold _ _ _ (by simp)]
  · rw [hput _ _ _ _ _ _ (by decide), hcount _ _ _ _ _ (by decide), State.get_count, hold _ _ _ (by simp)]

theorem windowEnd_full_effect {ld p : Nat} (h : ((s.port ld p).filled && s.joined ld && s.admitted ld p) = true) : let t := s.windowEnd ld p
    t.get F.RNG_EMPTY_CONSEC ld p = 0 ∧ (t.port ld p).slots.head? = some true := by
  rw [s.windowEnd_of_full h]
  refine ⟨?_, ?_⟩
  · refine (State.on_same (fun s => s.get F.RNG_EMPTY_CONSEC ld p) (State.get_put_other _ _ _ _ _ _ _ _ (by decide))).trans ?_
    exact (State.get_put _ _ _ _ _ _ _).trans (if_pos ⟨rfl, rfl⟩)
  · exact (State.on_same (fun s => (s.port ld p).slots.head?) rfl).trans (s.slotTaken_head ld p true)

/-! ### Receiving (R218) -/

theorem acceptP_spec {ld : Nat} {e : FurrowEntry} {u : Nat} (h : s.acceptP ld e = some u) : u ≤ (s.ring ld).turn ∧ u % 2 ^ 15 = e.eturn % 2 ^ 15 ∧
    (s.ring ld).turn ≤ u + s.reach ld + 1 ∧ e.src ≠ s.node ld ∧ paeshCode polyP (s.ringId ld) e.src u (msbBytes 8 e.pzw) = e.pcrc := by
  unfold State.acceptP at h
  dsimp only at h
  split at h
  · cases h
  next v hv =>
    split at h
    next hok =>
      cases h
      obtain ⟨hcode, hage, hsrc⟩ := hok
      obtain ⟨hle, hmod⟩ := lastTurn_spec hv
      exact ⟨hle, hmod, hage, hsrc, hcode⟩
    · cases h

theorem takeEntry_of_accepted {ld : Nat} {e : FurrowEntry} {u : Nat} (p : Nat) (h : s.acceptP ld e = some u) :
    ((s.takeEntry ld p e).furAtP ld (furKey ld p e.src)).head? = some ⟨u, e.pzw, s.tick + 1⟩ := by
  unfold State.takeEntry
  dsimp only
  rw [h]
  have hadd : (s.addFurP ld (furKey ld p e.src) ⟨u, e.pzw, s.tick + 1⟩).furAtP ld (furKey ld p e.src) =
      keepNewest 15 ⟨u, e.pzw, s.tick + 1⟩ (s.furAtP ld (furKey ld p e.src)) := by
    rw [State.furAtP, State.addFurP, Store.get_set, if_pos rfl]
  exact (congrArg List.head? hadd).trans (head_keepNewest 14 _ _)

theorem takeEntry_of_refused {ld : Nat} {e : FurrowEntry} (p : Nat) (h : s.acceptP ld e = none) : (s.takeEntry ld p e).furP = s.furP ∧
    (s.takeEntry ld p e).get F.RNG_RXCNT_ENTREJ ld p = min (s.get F.RNG_RXCNT_ENTREJ ld p + 1) (2 ^ F.RNG_RXCNT_ENTREJ.w - 1) := by
  unfold State.takeEntry
  dsimp only
  rw [h]
  exact ⟨rfl, State.get_count _ _ _ _⟩

end State

/-- Settles O33. -/
theorem furrowDataIsSentAndAcceptedByTheRules : Obligations.FurrowDataIsSentAndAcceptedByTheRules := by
  refine ⟨?sender, ?receiver, fun s ld p e => ⟨fun u hu => ?_, s.takeEntry_of_refused p⟩⟩
  case sender =>
    intro s ld p pos x hld hp frame may
    have hunit : (s.hasLd ld && decide (p < 2)) = true := by rw [hld, decide_eq_true hp]; rfl
    refine ⟨fun hno => State.answer_idle (Bool.and_eq_false_iff.2 (.inr hno)), fun hmay => ⟨_, State.answer_of hunit hmay, s.furrowSend_effect ld p x⟩,
      s.furrowFrame_eq ld p x, ⟨rfl, rfl, rfl⟩, fun e he => s.mem_forwarded hp he, fun hheld => ?_, fun hheld hstale => ?_⟩
    · exact ⟨_, State.answer_of hunit (decide_eq_true hheld), s.windowEnd_empty_effect, s.windowEnd_full_effect, s.windowEnd_onPorts ld p⟩
    · exact ⟨_, State.answer_of hunit (by rw [decide_eq_true hheld, hstale]; rfl), (State.get_put _ _ _ _ _ _ _).trans (if_pos ⟨rfl, rfl⟩),
        onlyFields_put _ _ _ _ _⟩
  case receiver =>
    intro s ld p f a hld hp
    have hunit : (s.hasLd ld && decide (p < 2)) = true := by rw [hld, decide_eq_true hp]; rfl
    refine ⟨(State.answer_of hunit rfl).trans (congrArg Host.Outcome.next ?_), fun hok hj hin => ?_⟩
    · rw [State.on]
      exact if_congr Bool.and_eq_true_iff rfl rfl
    · rw [State.furrow, hok, if_neg Bool.false_ne_true, hj, State.on_true, hin, if_neg Bool.false_ne_true]
  · obtain ⟨hle, hmod, hage, hsrc, hcode⟩ := s.acceptP_spec hu
    exact ⟨hle, hmod, hage, hsrc, hcode, s.takeEntry_of_accepted p hu⟩

end Sys2Proof.Machine
end

section
/-! SUPPORT. Spate frames and truncations (R221 to R225, R234, R236, R245). -/

namespace Sys2Proof.Machine

namespace State

variable (s : State)

/-! ### The fence of a unit, and of a port -/

/-- The registers that any fence may change beside those of its unit. -/
def raiseRegs : List Reg := [.FENCE_FSTAT, .LBIST_REC, .LBIST_STAT, .LBIST_MISR0, .LBIST_MISR1, .LBIST_PDONE]

theorem raise_regs (kind die idx reason : Nat) : RegsWithin (raiseRegs ++ unitRegs kind) s (s.raise kind die idx reason) := by
  have hput (u : State) (v : Nat) : RegsWithin (raiseRegs ++ unitRegs kind) u (u.put F.FENCE_FSTAT_LOGCNT die 0 v) :=
    .put _ _ _ _ _ (List.mem_append_left _ (by decide))
  unfold State.raise
  refine .after ((State.bistFence_change _ _ _ _).regsWithin fun x hx => List.mem_append_left _ ?_) (.on ?_)
  · revert x
    simp [bistFields, raiseRegs]
  · exact .after ((State.onFence_unit_regs _ _ _ _).wider fun r hr => List.mem_append_right _ hr) ((RegsWithin.trans (.ofRegs _ rfl) (.on (hput _ _))))

/-- A field that its unit's fence holds keeps its value (R11). -/
theorem get_raise_held {kind : Nat} {r : Reg} {G : Fld} (hr : r ∈ unitRegs kind) (hG : G ∈ r.fields) (hheld : G.fen = .hold) (die idx reason : Nat) :
    (s.raise kind die idx reason).get G die idx = s.get G die idx := by
  have hval (v : Nat) : G.onFenceVal die idx v = v := by rw [Fld.onFenceVal, hheld]
  unfold State.raise
  rw [State.get_bistFence_unit _ hr hG]
  refine State.on_same (fun s => s.get G die idx) ?_
  rw [State.get_onFence _ hr hG, hval, State.get_logFence_unit _ hr hG]
  rfl

theorem fencePort_sent (ld p reason : Nat) : (s.fencePort ld p reason).sent = s.sent := by
  have hsent (u : State) : (((u.raise U.port ld p reason).revoke ld (0x0A + p) true)).sent = u.sent :=
    ((State.revoke_loss _ _ _ _).frame.same State.sent).trans ((u.raise_frame _ _ _ _).same State.sent)
  unfold State.fencePort
  dsimp only
  exact State.on_same State.sent ((hsent _).trans (State.on_same State.sent rfl))

theorem fencePort_regs (ld p reason : Nat) : RegsWithin (raiseRegs ++ unitRegs U.port ++ lossRegs) s (s.fencePort ld p reason) := by
  have hset (u : State) (x : PortSt) : RegsWithin (raiseRegs ++ unitRegs U.port ++ lossRegs) u (u.setPort ld p x) := .ofRegs _ rfl
  have hrevoke (u : State) : RegsWithin (raiseRegs ++ unitRegs U.port ++ lossRegs) u (u.revoke ld (0x0A + p) true) :=
    (u.revoke_loss _ _ _).regs.wider fun r hr => List.mem_append_right _ hr
  have hraise (u : State) : RegsWithin (raiseRegs ++ unitRegs U.port ++ lossRegs) u (u.raise U.port ld p reason) :=
    (u.raise_regs _ _ _ _).wider fun r hr => List.mem_append_left _ hr
  unfold State.fencePort
  exact .on (.after (hset _ _) (.after (hrevoke _) (.after (hraise _) (.on (.put _ _ _ _ _ (by decide))))))

theorem get_fencePort_held (ld p reason : Nat) : (s.fencePort ld p reason).get F.RNG_TXSTAT_TRUNCCNT ld p = s.get F.RNG_TXSTAT_TRUNCCNT ld p := by
  have hraise (u : State) : (u.raise U.port ld p reason).get F.RNG_TXSTAT_TRUNCCNT ld p = u.get F.RNG_TXSTAT_TRUNCCNT ld p :=
    u.get_raise_held (kind := U.port) (r := .RNG_TXSTAT) (by decide) (by decide) rfl ld p reason
  have hrevoke (u : State) : (u.revoke ld (0x0A + p) true).get F.RNG_TXSTAT_TRUNCCNT ld p = u.get F.RNG_TXSTAT_TRUNCCNT ld p :=
    (u.revoke_loss _ _ _).get (by decide) _ _
  have hset (u : State) (x : PortSt) : (u.setPort ld p x).get F.RNG_TXSTAT_TRUNCCNT ld p = u.get F.RNG_TXSTAT_TRUNCCNT ld p := rfl
  have hwraps (c : Bool) (u : State) : (u.on c fun s => s.count F.RNG_WRAP_WRAPS ld p).get F.RNG_TXSTAT_TRUNCCNT ld p =
      u.get F.RNG_TXSTAT_TRUNCCNT ld p := FldsWithin.on (.put (fs := [F.RNG_WRAP_WRAPS]) u _ _ _ (by decide)) _ _ _ (by decide)
  unfold State.fencePort
  dsimp only
  refine State.on_same (fun s => s.get F.RNG_TXSTAT_TRUNCCNT ld p) ?_
  rw [hset, hrevoke, hraise, hwraps]

/-! ### Truncations (R245) -/

/-- The node goes quiet at the third truncation in a row, and fences the port at the third such entry. -/
def truncQuiet (ld p : Nat) (past : List Nat) (thrice : Bool) : State :=
  ((s.setRing ld { s.ring ld with quietTurns := past }).enterQuiet ld).on thrice fun s => s.fencePort ld p 0x30

theorem truncQuiet_sync (ld p : Nat) (past : List Nat) (thrice : Bool) : (s.truncQuiet ld p past thrice).sync ld = syncQuiet := by
  have hfence (u : State) : (u.fencePort ld p 0x30).sync ld = u.sync ld := u.fencePort_regs ld p 0x30 _ _ _ (by decide)
  exact (State.on_same (State.sync · ld) (hfence _)).trans (State.enterQuiet_effect _ ld).1

theorem enterQuiet_flds (ld : Nat) : FldsWithin [F.RNG_TSYNC_STATE, F.RNG_TXSTAT_LISTEN, F.RNG_THG_SELF, F.RNG_TSYNC_BHOPS, F.TICK_TSTAT_HOLDOVER,
    F.RNG_TCNT_QUIETS, F.TICK_TSTAT_LOCKED] s (s.enterQuiet ld) :=
  .after (.put _ _ _ _ (by decide)) (.after (.put _ _ _ _ (by decide)) (.after ((State.stopSending_flds _ ld).wider (by decide))
    ((s.setSync_flds ld _).wider (by decide))))

theorem truncQuiet_kept (ld p : Nat) (past : List Nat) (thrice : Bool) : (s.truncQuiet ld p past thrice).sent = s.sent ∧
    (s.truncQuiet ld p past thrice).get F.RNG_TXSTAT_TRUNCCNT ld p = s.get F.RNG_TXSTAT_TRUNCCNT ld p := by
  have hquiet (u : State) : (u.enterQuiet ld).sent = u.sent := (u.enterQuiet_ringRegs ld).same State.sent
  have hcount (u : State) : (u.enterQuiet ld).get F.RNG_TXSTAT_TRUNCCNT ld p = u.get F.RNG_TXSTAT_TRUNCCNT ld p :=
    u.enterQuiet_flds ld _ _ _ (by decide)
  constructor
  · exact (State.on_same State.sent (State.fencePort_sent _ _ _ _)).trans (hquiet _)
  · exact (State.on_same (fun s => s.get F.RNG_TXSTAT_TRUNCCNT ld p) (State.get_fencePort_held _ _ _ _)).trans (hcount _)

/-- A truncation that is not the first of its turn is counted. -/
theorem truncate_again {ld p : Nat} (h : (s.port ld p).trunc = true) : s.truncate ld p = s.count F.RNG_TXSTAT_TRUNCCNT ld p := by
  unfold State.truncate
  dsimp only
  rw [h, Bool.not_true, State.on_false]

/-- The first truncation of a turn. -/
def truncated (ld p : Nat) : State :=
  let u := s.count F.RNG_TXSTAT_TRUNCCNT ld p
  (u.setPort ld p { s.port ld p with trunc := true }).put F.RNG_TXSTAT_TRUNCRUN ld p (min 3 (s.get F.RNG_TXSTAT_TRUNCRUN ld p + 1))

theorem truncate_first {ld p : Nat} (h : (s.port ld p).trunc = false) : ∃ (past : State → List Nat) (thrice : State → Bool), s.truncate ld p =
    (s.truncated ld p).on (decide (3 ≤ s.get F.RNG_TXSTAT_TRUNCRUN ld p + 1)) fun s => s.truncQuiet ld p (past s) (thrice s) := by
  unfold State.truncate
  dsimp only
  rw [h, Bool.not_false, State.on_true]
  exact ⟨fun s => keepNewest 3 (s.ring ld).turn (s.ring ld).quietTurns, fun s => _, rfl⟩

theorem truncated_run (ld p : Nat) : (s.truncated ld p).get F.RNG_TXSTAT_TRUNCRUN ld p = min 3 (s.get F.RNG_TXSTAT_TRUNCRUN ld p + 1) := by
  refine (State.get_put _ _ _ _ _ _ _).trans ((if_pos ⟨rfl, rfl⟩).trans (Nat.mod_eq_of_lt ?_))
  exact lt_of_le_of_lt (min_le_left _ _) (by decide)

theorem truncated_count (ld p : Nat) : (s.truncated ld p).get F.RNG_TXSTAT_TRUNCCNT ld p =
    min (s.get F.RNG_TXSTAT_TRUNCCNT ld p + 1) (2 ^ F.RNG_TXSTAT_TRUNCCNT.w - 1) :=
  (State.get_put_other _ _ _ _ _ _ _ _ (by decide)).trans (s.get_count _ _ _)

theorem truncated_sync (ld p : Nat) : (s.truncated ld p).sync ld = s.sync ld :=
  (State.get_put_other _ _ _ _ _ _ _ _ (by decide)).trans (s.get_put_other F.RNG_TXSTAT_TRUNCCNT _ _ _ _ _ _ (by decide))

/-- Every truncation is counted, and sends nothing itself. -/
theorem truncate_effect (ld p : Nat) : (s.truncate ld p).sent = s.sent ∧
    (s.truncate ld p).get F.RNG_TXSTAT_TRUNCCNT ld p = min (s.get F.RNG_TXSTAT_TRUNCCNT ld p + 1) (2 ^ F.RNG_TXSTAT_TRUNCCNT.w - 1) := by
  cases h : (s.port ld p).trunc with
  | true =>
    rw [s.truncate_again h]
    exact ⟨rfl, s.get_count _ _ _⟩
  | false =>
    obtain ⟨past, thrice, he⟩ := s.truncate_first h
    rw [he]
    constructor
    · exact State.on_same State.sent (State.truncQuiet_kept _ _ _ _ _).1
    · exact (State.on_same (fun s => s.get F.RNG_TXSTAT_TRUNCCNT ld p) (State.truncQuiet_kept _ _ _ _ _).2).trans (s.truncated_count ld p)

/-! ### Marks (R225) -/

theorem dueRxs_ringRegs (ld dom hmark hmcrc oturn : Nat) : Frame.ringRegs.Holds s (s.dueRxs ld dom hmark hmcrc oturn) := rfl

theorem takeSpate_of_own {ld p : Nat} {f : SpateFrame} (h : bitsOf (spateWord f) 12 13 = s.node ld) : s.takeSpate ld p f = s := by
  unfold State.takeSpate
  dsimp only
  rw [decide_eq_false (not_not.2 h), State.on_false]

theorem takeSpate_of_good {ld p : Nat} {f : SpateFrame} (h : bitsOf (spateWord f) 12 13 ≠ s.node ld) (hok : s.markOk ld f = true) :
    (⟨ld, f.pmark % 256, bitsOf f.pmark 8 4, bitsOf f.pmark 12 13, s.tick + 1, ld⟩ : MarkArr) ∈ (s.takeSpate ld p f).marksAtP ld ∧
    s.takeSpate ld p f = { s with marksP := (s.takeSpate ld p f).marksP, rings := (s.takeSpate ld p f).rings } := by
  unfold State.takeSpate
  dsimp only
  rw [decide_eq_true h, State.on_true, if_pos hok]
  refine ⟨?_, rfl⟩
  have hset (m : MarkArr) (u : State) (hu : u.marksP = Store.set (fun _ => []) s.marksP ld (addMark (s.marksAtP ld) m)) : m ∈ u.marksAtP ld := by
    rw [State.marksAtP, hu, Store.get_set, if_pos rfl]
    exact List.mem_cons_self ..
  exact hset _ _ rfl

theorem takeSpate_of_bad {ld p : Nat} {f : SpateFrame} (h : bitsOf (spateWord f) 12 13 ≠ s.node ld) (hbad : s.markOk ld f = false) :
    (s.takeSpate ld p f).marksP = s.marksP ∧
    (s.takeSpate ld p f).get F.RNG_SPCNT_SPREJ ld p = min (s.get F.RNG_SPCNT_SPREJ ld p + 1) (2 ^ F.RNG_SPCNT_SPREJ.w - 1) ∧
    Change .ringRegs [(F.RNG_SPCNT_SPREJ, ld, p)] s (s.takeSpate ld p f) := by
  unfold State.takeSpate
  dsimp only
  rw [decide_eq_true h, State.on_true, hbad, if_neg Bool.false_ne_true]
  exact ⟨rfl, s.get_count _ _ _, (Change.put s _ (by simp)).trans (.ofFrame (State.dueRxs_ringRegs _ _ _ _ _ _) rfl)⟩

/-! ### Cut-through (R222 to R224) -/

theorem cutThrough_of_stopped {ld p : Nat} {f : SpateFrame} (h : (s.goesOn ld p f && !(s.port ld (1 - p)).sentKeys.contains f.key) = false) :
    s.cutThrough ld p f = s := by
  unfold State.cutThrough
  dsimp only
  rw [h, State.on_false]

theorem cutThrough_sent {ld p : Nat} {f : SpateFrame} (hgo : s.goesOn ld p f = true) (hnew : (s.port ld (1 - p)).sentKeys.contains f.key = false)
    (hroom : (s.port ld (1 - p)).sentNow < s.get F.RNG_SLSPATE_SPLIM ld 0) : ∃ bs, (s.cutThrough ld p f).sent = s.sent ++ [(2 * ld + (1 - p), bs)] := by
  have hr : s.spateRoom ld (1 - p) = true := decide_eq_true hroom
  have hsend (g : SpateFrame) (good : Bool) (u : State) (hu : u.sent = (s.sendSpate ld (1 - p) g good).sent) :
      ∃ bs, u.sent = s.sent ++ [(2 * ld + (1 - p), bs)] := ⟨_, hu⟩
  unfold State.cutThrough
  dsimp only
  rw [hgo, hnew, Bool.not_false, Bool.true_and, State.on_true, if_pos hr]
  exact hsend _ _ _ (State.on_same State.sent rfl)

theorem goesOn_spec {ld p : Nat} {f : SpateFrame} (h : s.goesOn ld p f = true) : s.maySpate ld (1 - p) = true ∧ s.inWrap ld (1 - p) = false ∧
    bitsOf f.pmark 12 13 ≠ s.node ld ∧ (s.get F.RNG_SPFWD_FWD ld (f.key.1 / 32)).testBit (f.key.1 % 32) = true := by
  simp only [State.goesOn, Bool.and_eq_true, Bool.not_eq_true', decide_eq_true_eq] at h
  obtain ⟨⟨⟨⟨-, hmay⟩, hwrap⟩, hdom⟩, hsrc⟩ := h
  exact ⟨hmay, hwrap, hsrc, hdom⟩

/-! ### The sluice (R234) -/

theorem sluice_of_outside {ld p cls start : Nat} {bs : List Byte} (h : start < (s.window ld cls).1 ∨ (s.window ld cls).2 ≤ start) :
    s.sluice ld p cls start bs = s.truncate ld p := if_pos h

theorem sluice_of_cut {ld p cls start : Nat} {bs : List Byte} (hlo : (s.window ld cls).1 ≤ start) (hhi : start < (s.window ld cls).2)
    (hlong : (s.window ld cls).2 - 4 < start + 8 + bs.length + 4) :
    s.sluice ld p cls start bs = ((s.cutFrame ld p (s.window ld cls).2 start bs).cutTaken ld p cls).truncate ld p :=
  (if_neg (by omega)).trans (if_pos hlong)

theorem sluice_of_fitting {ld p cls start : Nat} {bs : List Byte} (hlo : (s.window ld cls).1 ≤ start) (hhi : start < (s.window ld cls).2)
    (hfits : start + 8 + bs.length + 4 ≤ (s.window ld cls).2 - 4) : s.sluice ld p cls start bs = s :=
  (if_neg (by omega)).trans (if_neg (by omega))

theorem cutTaken_kept (ld p cls : Nat) : (s.cutTaken ld p cls).sent = s.sent ∧
    (s.cutTaken ld p cls).get F.RNG_TXSTAT_TRUNCCNT ld p = s.get F.RNG_TXSTAT_TRUNCCNT ld p := by
  unfold State.cutTaken
  split
  · exact ⟨rfl, rfl⟩
  · split
    · split
      · exact ⟨rfl, State.get_put_other _ _ _ _ _ _ _ _ (by decide)⟩
      · exact ⟨rfl, rfl⟩
    · exact ⟨rfl, rfl⟩

end State

/-- Settles O34. -/
theorem spateMarksAreCheckedAndForwarded : Obligations.SpateMarksAreCheckedAndForwarded := by
  intro s ld p cls start f hld hp
  have hunit : (s.hasLd ld && decide (p < 2)) = true := by rw [hld, decide_eq_true hp]; rfl
  have hif (u : State) (op : State → State) : u.on (s.admitted ld p && s.ringRuns ld) op = if s.admitted ld p ∧ s.ringRuns ld then op u else u := by
    rw [State.on]
    exact if_congr Bool.and_eq_true_iff rfl rfl
  refine ⟨?received, ?cut, s.takeSpate_of_own, fun hne => ⟨s.takeSpate_of_good hne, fun hbad => ?bad⟩, fun hno => s.cutThrough_of_stopped (by rw [hno]; rfl),
    fun hgo => ?goes, fun x bs hdue hmay => ?sluice, ?truncations⟩
  case received => exact (State.answer_of hunit rfl).trans (congrArg Host.Outcome.next (hif s _))
  case cut => exact (State.answer_of hunit rfl).trans (congrArg Host.Outcome.next (hif s.sending _))
  case bad =>
    obtain ⟨hmarks, hcount, hchange⟩ := s.takeSpate_of_bad (p := p) hne hbad
    exact ⟨hmarks, hcount, hchange.frame, hchange.fields⟩
  case goes =>
    obtain ⟨hmay, hwrap, hsrc, hdom⟩ := s.goesOn_spec hgo
    exact ⟨hmay, hwrap, hsrc, hdom, fun hold => s.cutThrough_of_stopped (by rw [hold, Bool.not_true, Bool.and_false]), s.cutThrough_sent hgo⟩
  case sluice =>
    have hexec {u : State} (h : s.sending.sluice ld p cls start bs = u) : exec (.sluiceTruncation ld ⟨p, cls, start, x⟩) s = .next u := by
      rw [← h]
      change execSluiceTruncation ld ⟨p, cls, start, x⟩ s = _
      rw [execSluiceTruncation, hdue]
      exact State.answer_of hunit hmay
    refine ⟨fun hout => hexec (State.sluice_of_outside _ hout), fun hlo hhi hlong => ?_, fun hlo hhi hfits => hexec (State.sluice_of_fitting _ hlo hhi hfits)⟩
    refine ⟨_, hexec (State.sluice_of_cut _ hlo hhi hlong), ?_⟩
    obtain ⟨hsent, hcount⟩ := State.truncate_effect ((s.sending.cutFrame ld p (s.sending.window ld cls).2 start bs).cutTaken ld p cls) ld p
    obtain ⟨hsent', hcount'⟩ := (s.sending.cutFrame ld p (s.sending.window ld cls).2 start bs).cutTaken_kept ld p cls
    rw [hsent, hsent', hcount, hcount']
    exact ⟨rfl, rfl⟩
  case truncations =>
    refine ⟨fun hold => ?_, fun hnew hfew => ?_, fun hnew hmany => ?_⟩
    · rw [s.truncate_again hold]
      exact onlyFields_put _ _ _ _ _
    · obtain ⟨past, thrice, he⟩ := s.truncate_first hnew
      rw [he, decide_eq_false (by omega), State.on_false, s.truncated_run, s.truncated_sync]
      exact ⟨min_eq_right (by omega), rfl⟩
    · obtain ⟨past, thrice, he⟩ := s.truncate_first hnew
      rw [he, decide_eq_true (by omega), State.on_true]
      exact State.truncQuiet_sync _ _ _ _ _

end Sys2Proof.Machine
end

section
/-! SUPPORT. Seal readers, seal messages and the gates (R338 to R343). -/

namespace Sys2Proof.Machine

/-- What the fall of a gate may change. -/
def Frame.gateFall : Frame :=
  ⟨fun s t => State.withRegs { s with xferC := t.xferC, soak := t.soak, jobs := t.jobs } t.regs, fun _ => rfl, fun _ _ _ => rfl⟩

/-- Two fields of a die's seal register lie apart where their places do. -/
theorem sealFld_apart {lo lo' : Nat} (h : lo ≠ lo') (die w w' : Nat) (fen fen' : OnFence) :
    (sealFld die lo w fen).same (sealFld die lo' w' fen') = false := by
  simp [Fld.same, sealFld, h]

namespace State

variable (s : State)

theorem gate_eq (die : Nat) : s.gate die = s.flag (sealFld die 8 1 .safe) die 0 := by
  unfold State.gate sealFld
  split <;> rfl

theorem endJob_gateFall (ld e fstatus result : Nat) : Frame.gateFall.Holds s (s.endJob ld e fstatus result) := by
  unfold State.endJob
  exact Frame.on fun _ => rfl

theorem dropSoak_gateFall (fstatus result : Nat) : Frame.gateFall.Holds s (s.dropSoak fstatus result) := by
  have hdrop : Frame.gateFall.Holds s { s with soak := none } := rfl
  have hput (u : State) (F : Fld) (d i v : Nat) : Frame.gateFall.Holds u (u.put F d i v) := rfl
  unfold State.dropSoak
  split
  · exact Frame.refl _ _
  · exact (hdrop.trans (State.endJob_gateFall _ _ _ _ _)).trans (Frame.on fun _ => (hput _ _ _ _ _).trans (hput _ _ _ _ _))

theorem gateClosed_gateFall : Frame.gateFall.Holds s s.gateClosed := by
  have h : Frame.gateFall.Holds s { s with xferC := Transfer.zero } := rfl
  unfold State.gateClosed
  dsimp only
  split
  · exact Frame.ite (fun _ => h.trans (State.dropSoak_gateFall _ _ _)) fun _ => h
  · exact h

theorem gateFell_gateFall (die : Nat) : Frame.gateFall.Holds s (s.gateFell die) := by
  have hput (u : State) (F : Fld) (d i v : Nat) : Frame.gateFall.Holds u (u.put F d i v) := rfl
  unfold State.gateFell
  exact (Frame.on fun _ => hput _ _ _ _ _).trans (Frame.on fun _ => State.gateClosed_gateFall _)

theorem dropSoak_flds (fstatus result : Nat) : FldsWithin [F.LANE_LCTL_SOAK, F.LANE_LCTL_RUN] s (s.dropSoak fstatus result) := by
  have hend (u : State) (ld e : Nat) : FldsWithin [F.LANE_LCTL_SOAK, F.LANE_LCTL_RUN] u (u.endJob ld e fstatus result) := by
    unfold State.endJob
    exact .on (.ofRegs _ rfl)
  have hdrop : FldsWithin [F.LANE_LCTL_SOAK, F.LANE_LCTL_RUN] s { s with soak := none } := .ofRegs _ rfl
  unfold State.dropSoak
  split
  · exact .refl _ _
  · exact .after (.on (.after (.put _ _ _ _ (by decide)) (.put _ _ _ _ (by decide)))) (.after (hend _ _ _) hdrop)

theorem gateClosed_flds : FldsWithin [F.LANE_LCTL_SOAK, F.LANE_LCTL_RUN] s s.gateClosed := by
  have hvoid : FldsWithin [F.LANE_LCTL_SOAK, F.LANE_LCTL_RUN] s { s with xferC := Transfer.zero } := .ofRegs _ rfl
  unfold State.gateClosed
  dsimp only
  split
  · split
    · exact hvoid.trans (State.dropSoak_flds _ _ _)
    · exact hvoid
  · exact hvoid

/-- The fall of a gate counts in CLOSES and changes no other field of the seal register. -/
theorem get_gateFell (die : Nat) {lo w : Nat} {fen : OnFence} (h : lo ≠ 24) (d i : Nat) :
    (s.gateFell die).get (sealFld die lo w fen) d i = s.get (sealFld die lo w fen) d i := by
  have hlane (F : Fld) (hF : F.reg = .LANE_LCTL) : F.same (sealFld die lo w fen) = false := by
    simp only [Fld.same, hF, sealFld, decide_eq_false_iff_not]
    split <;> simp
  have hclosed (u : State) : u.gateClosed.get (sealFld die lo w fen) d i = u.get (sealFld die lo w fen) d i :=
    u.gateClosed_flds _ _ _ (by
      intro F hF
      refine hlane F ?_
      revert F
      decide)
  unfold State.gateFell
  refine (State.on_same (fun s => s.get (sealFld die lo w fen) d i) (hclosed _)).trans ?_
  exact State.on_same (fun s => s.get (sealFld die lo w fen) d i) (State.get_put_other _ _ _ _ _ _ _ _ (sealFld_apart (Ne.symm h) ..))

/-! ### The gate (R340) -/

/-- Whether the die that holds a gate is fenced. -/
def gateFenced (die : Nat) : Bool := if die < 2 then s.fenced U.logic die 0 else s.fenced U.field die 0

/-- What a gate shows. -/
def gateValue (die : Nat) : Bool := s.readingL0 die && s.readingF0 die && !s.gateFenced die

/-- The fields that show a gate. -/
def gateShown (die : Nat) (other : Bool) : State :=
  (s.putB (sealFld die 8 1 .safe) die 0 (s.gateValue die)).putB (sealFld die 5 1 .safe) die 0 other

theorem setGate_eq (die : Nat) : ∃ other c, s.setGate die = (s.gateShown die other).on c fun s => s.gateFell die := ⟨_, _, rfl⟩

theorem setGate_gateFall (die : Nat) : Frame.gateFall.Holds s (s.setGate die) := by
  obtain ⟨other, c, he⟩ := s.setGate_eq die
  have hshown : Frame.gateFall.Holds s (s.gateShown die other) := rfl
  rw [he]
  exact hshown.trans (Frame.on fun _ => State.gateFell_gateFall _ _)

/-- A gate recomputed shows what it should, and the other fields of the seal register stay. -/
theorem gate_setGate (die : Nat) : (s.setGate die).gate die = s.gateValue die := by
  obtain ⟨other, c, he⟩ := s.setGate_eq die
  have hget : (s.setGate die).get (sealFld die 8 1 .safe) die 0 = (s.gateValue die).toNat := by
    rw [he, State.on_same (fun s => s.get (sealFld die 8 1 .safe) die 0) (State.get_gateFell _ _ (by decide) _ _)]
    refine (State.get_put_other _ _ _ _ _ _ _ _ (sealFld_apart (by decide) ..)).trans ?_
    exact (s.get_put _ _ _ _ _ _).trans ((if_pos ⟨rfl, rfl⟩).trans (toNat_mod_two _))
  rw [State.gate_eq, State.flag, hget]
  cases s.gateValue die <;> rfl

theorem get_setGate_other (die : Nat) {lo w : Nat} {fen : OnFence} (h8 : lo ≠ 8) (h5 : lo ≠ 5) (h24 : lo ≠ 24) :
    (s.setGate die).get (sealFld die lo w fen) die 0 = s.get (sealFld die lo w fen) die 0 := by
  obtain ⟨other, c, he⟩ := s.setGate_eq die
  rw [he, State.on_same (fun s => s.get (sealFld die lo w fen) die 0) (State.get_gateFell _ _ h24 _ _)]
  exact (State.get_put_other _ _ _ _ _ _ _ _ (sealFld_apart (Ne.symm h5) ..)).trans (s.get_put_other _ _ _ _ _ _ _ (sealFld_apart (Ne.symm h8) ..))

/-! ### A sample (R339) -/

/-- Whether a sample reads both pairs open. -/
def sampleOpen (a an b bn : Bool) : Bool := a && !an && b && !bn

/-- OPENRUN after a sample. -/
def sampleRun (die : Nat) (a an b bn : Bool) : Nat :=
  if sampleOpen a an b bn && !s.gateFenced die then min (s.get (sealFld die 16 8 .rst) die 0 + 1) 20 else 0

/-- The reader's own reading after a sample. -/
def sampleOwn (die : Nat) (a an b bn : Bool) : Bool := decide (20 ≤ s.sampleRun die a an b bn) && !s.gateFenced die

/-- The fields that a sample writes, before the reading and the gate follow. -/
def sampleShown (die : Nat) (a an b bn fault : Bool) : State :=
  ((((s.put (sealFld die 0 2 .hold) die 0 (2 * a.toNat + an.toNat)).put (sealFld die 2 2 .hold) die 0 (2 * b.toNat + bn.toNat)).put
    (sealFld die 16 8 .rst) die 0 (s.sampleRun die a an b bn)).putB (sealFld die 4 1 .safe) die 0 (s.sampleOwn die a an b bn)).on
    fault fun s => s.put (sealFld die 7 1 .hold) die 0 1

theorem sealSample_eq (die : Nat) (a an b bn : Bool) : ∃ fault y, y.own = s.sampleOwn die a an b bn ∧
    s.sealSample die a an b bn = ((s.sampleShown die a an b bn fault).setSeal die y).setGate die :=
  ⟨_, _, rfl, rfl⟩

theorem sampleRun_le (die : Nat) (a an b bn : Bool) : s.sampleRun die a an b bn ≤ 20 := by
  unfold State.sampleRun
  split <;> omega

theorem sampleOwn_of_closed {a an b bn : Bool} (h : sampleOpen a an b bn = false) (die : Nat) : s.sampleOwn die a an b bn = false := by
  simp [State.sampleOwn, State.sampleRun, h]

theorem sampleShown_regs (die : Nat) (a an b bn fault : Bool) : Frame.gateFall.Holds s (s.sampleShown die a an b bn fault) := by
  have hput (u : State) (F : Fld) (d i v : Nat) : Frame.gateFall.Holds u (u.put F d i v) := rfl
  unfold State.sampleShown
  exact ((((hput _ _ _ _ _).trans (hput _ _ _ _ _)).trans (hput _ _ _ _ _)).trans (hput _ _ _ _ _)).trans (Frame.on fun _ => hput _ _ _ _ _)

theorem get_sampleShown (die : Nat) (a an b bn fault : Bool) :
    (s.sampleShown die a an b bn fault).get (sealFld die 16 8 .rst) die 0 = s.sampleRun die a an b bn := by
  have hle := s.sampleRun_le die a an b bn
  unfold State.sampleShown
  rw [State.on_same (fun s => s.get (sealFld die 16 8 .rst) die 0) (State.get_put_other _ _ _ _ _ _ _ _ (sealFld_apart (by decide) ..))]
  refine (State.get_put_other _ _ _ _ _ _ _ _ (sealFld_apart (by decide) ..)).trans ?_
  rw [State.get_put, if_pos ⟨rfl, rfl⟩]
  exact Nat.mod_eq_of_lt (show _ < 256 by omega)

/-- What a sample does: OPENRUN, the reader's own reading and the gate; memories stand. -/
theorem sealSample_effect (die : Nat) (a an b bn : Bool) : ∃ t, s.sealSample die a an b bn = t ∧
    t.get (sealFld die 16 8 .rst) die 0 = s.sampleRun die a an b bn ∧ (t.sealSt die).own = s.sampleOwn die a an b bn ∧
    t.gate die = (t.readingL0 die && t.readingF0 die && !s.gateFenced die) ∧ t.mem = s.mem ∧ t.flash = s.flash ∧ t.otp = s.otp := by
  obtain ⟨fault, y, hown, he⟩ := s.sealSample_eq die a an b bn
  have hshown := s.sampleShown_regs die a an b bn fault
  have hrun := s.get_sampleShown die a an b bn fault
  rw [he]
  generalize s.sampleShown die a an b bn fault = u at hshown hrun
  have hgate := (u.setSeal die y).setGate_gateFall die
  refine ⟨_, rfl, ?_, ?_, ?_, ?_, ?_, ?_⟩
  · exact (State.get_setGate_other _ die (by decide) (by decide) (by decide)).trans hrun
  · rw [hgate.same (State.sealSt · die), State.sealSt_setSeal, if_pos rfl, hown]
  · rw [State.gate_setGate, State.gateValue, hgate.same (State.readingL0 · die), hgate.same (State.readingF0 · die)]
    exact congrArg (fun x => _ && !x) (hshown.same (State.gateFenced · die))
  · exact (hgate.same State.mem).trans (hshown.same State.mem)
  · exact (hgate.same State.flash).trans (hshown.same State.flash)
  · exact (hgate.same State.otp).trans (hshown.same State.otp)

/-! ### A message (R340) -/

/-- What a die keeps of the seal after a message. -/
def sealHeard (die : Nat) (fromF0 b : Bool) : SealSt :=
  if fromF0 then { s.sealSt die with f0 := b, f0Tick := s.tickOf die + 1 } else { s.sealSt die with l0 := b, l0Tick := s.tickOf die + 1 }

/-- The bytes that a message delivers to a die, `none` where it is absent. -/
def sealGot (die : Nat) (fromF0 : Bool) (x : Transit) : Option (List Byte) :=
  (if s.sealWindow = true then s.sealContent die fromF0 else none).bind fun b =>
    x.receive (s.tickOf die) (s.tickOf (if die = 0 then 2 else 0)) [BitVec.ofNat 8 b.toNat]

theorem sealMessage_eq (die : Nat) (fromF0 : Bool) (x : Transit) : s.sealMessage die fromF0 x =
    match s.sealGot die fromF0 x with
    | none => s
    | some bs => (s.setSeal die (s.sealHeard die fromF0 (bs.headD 0 != 0))).setGate die := by
  unfold State.sealMessage State.sealGot State.on
  split <;> rfl

/-- What a delivered message does: the receiver's reading and the gate; memory stands. -/
theorem sealHeard_effect (die : Nat) (fromF0 b : Bool) : ∃ t, (s.setSeal die (s.sealHeard die fromF0 b)).setGate die = t ∧
    t.sealSt die = s.sealHeard die fromF0 b ∧
    t.gate die = (t.readingL0 die && t.readingF0 die && !s.gateFenced die) ∧ t.mem = s.mem := by
  have hgate := (s.setSeal die (s.sealHeard die fromF0 b)).setGate_gateFall die
  refine ⟨_, rfl, ?_, ?_, ?_⟩
  · rw [hgate.same (State.sealSt · die), State.sealSt_setSeal, if_pos rfl]
  · rw [State.gate_setGate, State.gateValue, hgate.same (State.readingL0 · die), hgate.same (State.readingF0 · die)]
    rfl
  · exact hgate.same State.mem

theorem sealGot_of_absent (die : Nat) (fromF0 : Bool) {x : Transit} (h : x.complete = false ∨ s.sealWindow = false) :
    s.sealGot die fromF0 x = none := by
  unfold State.sealGot
  obtain hc | hw := h
  · simp [Transit.receive_of_incomplete hc]
  · simp [hw]

theorem sealGot_of_clean {die : Nat} {fromF0 b : Bool} (hw : s.sealWindow = true) (hb : s.sealContent die fromF0 = some b)
    (ht : s.tickOf die = s.tickOf (if die = 0 then 2 else 0)) :
    s.sealGot die fromF0 (Transit.parts 0 [] true) = some [BitVec.ofNat 8 b.toNat] := by
  unfold State.sealGot
  rw [if_pos hw, hb]
  exact Transit.receive_of_clean rfl rfl (congrArg (· % 256) ht.symm) _

end State

/-- Settles O36: a sample sets OPENRUN and the reader's own reading, a message the receiver's, and the gate is recomputed from both. -/
theorem theSealGateFollowsBothReaders : Obligations.TheSealGateFollowsBothReaders := by
  refine ⟨fun s f0 a an b bn => ?sample, fun s die tick fromF0 complete flips hdie hto => ?message⟩
  case sample =>
    intro die isOpen fenced run
    have hfenced : fenced = s.gateFenced die := by cases f0 <;> rfl
    have hrun : run = s.sampleRun die a an b bn := congrArg (fun x => if isOpen && !x then _ else 0) hfenced
    obtain ⟨t, he, h1, h2, h3, hmem, hflash, hotp⟩ := s.sealSample_effect die a an b bn
    rw [hrun, hfenced]
    refine ⟨t, congrArg Host.Outcome.next he, h1, h2, h3, fun hclosed => ?_, hmem, hflash, hotp⟩
    have hown : (t.sealSt die).own = false := h2.trans (s.sampleOwn_of_closed hclosed die)
    rw [h3]
    cases f0
    · rw [show t.readingL0 die = false from hown, Bool.false_and, Bool.false_and]
    · rw [show t.readingF0 die = false from hown, Bool.and_false, Bool.false_and]
  case message =>
    intro x fenced got
    have hto' : (decide (die ≠ 2) || !fromF0) = true := by simpa using hto
    have hexec : exec (.sealMessage die fromF0 tick flips complete) s = .next (s.sealMessage die fromF0 x) := State.answer_of hdie hto'
    rw [hexec, State.sealMessage_eq]
    refine ⟨fun hnone => ?_, fun bs hsome => ?_, fun habs => s.sealGot_of_absent die fromF0 habs, fun b hw hb htick hflips hc ht => ?_⟩
    · rw [show s.sealGot die fromF0 x = none from hnone]
    · rw [show s.sealGot die fromF0 x = some bs from hsome]
      obtain ⟨t, he, hseal, hgate, hmem⟩ := s.sealHeard_effect die fromF0 (bs.headD 0 != 0)
      refine ⟨t, congrArg Host.Outcome.next he, ?_, hgate, hmem⟩
      rw [hseal]
      cases fromF0 <;> exact ⟨rfl, rfl, rfl⟩
    · subst htick hflips hc
      exact s.sealGot_of_clean hw hb ht

end Sys2Proof.Machine
end

section
/-! SUPPORT. Leases (R353 to R355). -/

namespace Sys2Proof.Machine

/-- A logic timer's owner field written at a die that is not a logic die. -/
def strayOwner : State := State.reset.put F.LTMR_CTL_OWNER 2 0 1

/-- Refutes O48: its second part speaks of every die number. At die 2 a revocation resets the registers of a field timer, so the
logic timer's owner field that the state holds there still names the owner. -/
theorem not_leasesGoToOneMaster : ¬ Obligations.LeasesGoToOneMaster := by
  rintro ⟨-, hrevoked⟩
  obtain ⟨-, htimers, -, -⟩ := hrevoked strayOwner 2 1 false (by decide)
  have hcleared : (strayOwner.revoke 2 1 false).get F.LTMR_CTL_OWNER 2 0 ≠ 1 := htimers rfl (by decide) 0 (by decide)
  have hstays : (strayOwner.revoke 2 1 false).get F.LTMR_CTL_OWNER 2 0 = 1 := by decide
  exact hcleared hstays

end Sys2Proof.Machine
end

section
/-! SUPPORT. Requests to the fence controllers (R351, R352): what each leaves of the fences. -/

namespace Sys2Proof.Machine

/-- A step that changes no fence but those of the listed kinds. -/
def FencesWithin (ks : List Nat) (s t : State) : Prop := ∀ k ∉ ks, ∀ d i, t.fence k d i = s.fence k d i

namespace FencesWithin

variable {ks ls : List Nat} {s t u : State}

theorem ofEq (h : t.fences = s.fences) : FencesWithin ks s t := fun k _ d i => State.fence_congr h k d i

theorem refl (ks : List Nat) (s : State) : FencesWithin ks s s := ofEq rfl

theorem after (k : FencesWithin ks t u) (h : FencesWithin ks s t) : FencesWithin ks s u :=
  fun n hn d i => (k n hn d i).trans (h n hn d i)

theorem wider (h : FencesWithin ks s t) (hk : ∀ k ∈ ks, k ∈ ls) : FencesWithin ls s t := fun n hn => h n fun hm => hn (hk n hm)

theorem each {α : Type} {xs : List α} {op : State → α → State} (hop : ∀ s, ∀ x ∈ xs, FencesWithin ks s (op s x)) (s : State) :
    FencesWithin ks s (s.each xs op) := by
  induction xs generalizing s with
  | nil => exact refl ks s
  | cons x xs ih =>
    exact .after (ih (fun s y hy => hop s y (List.mem_cons_of_mem _ hy)) _) (hop s x (List.mem_cons_self ..))

theorem on {c : Bool} {op : State → State} (hop : c = true → FencesWithin ks s (op s)) : FencesWithin ks s (s.on c op) := by
  cases c
  · exact refl ks s
  · exact hop rfl

theorem ite {c : Prop} [Decidable c] (ht : FencesWithin ks s t) (hu : FencesWithin ks s u) : FencesWithin ks s (if c then t else u) := by
  split
  · exact ht
  · exact hu

theorem setFence (s : State) (k d i : Nat) (v : Fence) (h : k ∈ ks) : FencesWithin ks s (s.setFence k d i v) := fun n hn e j => by
  rw [State.fence_setFence, if_neg]
  exact fun hc => hn (hc.1 ▸ h)

theorem raise (s : State) (k d i r : Nat) (h : k ∈ ks) : FencesWithin ks s (s.raise k d i r) := fun n hn e j => by
  rw [State.fence_raise, if_neg]
  exact fun hc => hn (hc.1 ▸ h)

theorem ofLoss (h : Loss s t) : FencesWithin [U.inst] s t := h.fences

theorem fenced (h : FencesWithin ks s t) {k d i : Nat} (hk : k ∉ ks) : t.fenced k d i = s.fenced k d i := congrArg Fence.on (h k hk d i)

end FencesWithin

namespace State

variable (s : State)

/-! ### Fences that are raised -/

theorem fenced_raise_self (kind die idx reason : Nat) : (s.raise kind die idx reason).fenced kind die idx = true := by
  rw [State.fenced, State.fence_raise]
  split
  · rfl
  · next h => exact Bool.not_eq_false _ ▸ fun hf => h ⟨rfl, rfl, rfl, hf⟩

theorem fences_cutBist (ld unit cause : Nat) : (s.cutBist ld unit cause).fences = s.fences :=
  (s.cutBist_change ld unit cause).frame.same State.fences

theorem abortJob_fences (ld e : Nat) : FencesWithin [U.inst] s (s.abortJob ld e) := by
  have hcut (s : State) (d u : Nat) (v : SvSt) : FencesWithin [U.inst] s ((s.cutBist d u 1).setSv d v) := .ofEq (s.fences_cutBist _ _ _)
  have hsoak (s : State) : FencesWithin [U.inst] s (match s.soak with
      | some x => if x.ld = ld ∧ x.job = e then s.dropSoak stAborted 0 else s
      | none => s) := by
    split
    · exact .ite (.ofLoss (State.dropSoak_loss _ _ _)) (.refl _ _)
    · exact .refl _ _
  exact .after (.ofLoss (State.endJob_loss _ _ _ _ _)) (.after (hsoak _) (.after
    (.each (fun _ _ _ => .each (fun _ _ _ => hcut _ _ _ _) _) _)
    (.each (fun _ _ _ => .each (fun _ _ _ => .after (.ofLoss (State.revokeUnit_loss _ _ _)) (.ofLoss (State.revokeUnit_loss _ _ _))) _) _)))

theorem stopSv_fences (ld : Nat) : FencesWithin [U.inst] s (s.stopSv ld) := by
  unfold State.stopSv
  have hput (s : State) (F : Fld) (d i v : Nat) : FencesWithin [U.inst] s (s.put F d i v) := .ofEq rfl
  have hmove (s : State) : FencesWithin [U.inst] s s.moveLeases := .each (fun _ _ _ => .each (fun _ _ _ => hput _ _ _ _ _) _) _
  have hjobs (s : State) : FencesWithin [U.inst] s (s.abortJobs ld) := .each (fun _ _ _ => .on fun _ => State.abortJob_fences _ _ _) _
  have htimers (s : State) : FencesWithin [U.inst] s s.revokeField :=
    .each (fun _ _ _ => .each (fun _ _ _ => .ofLoss (State.idleTimer_loss _ _ _)) _) _
  exact .after (hmove _) (.after (hjobs _) (.after (htimers _) (.ofLoss (State.revoke_loss _ _ _ _))))

theorem fenceSv_fenced (ld reason : Nat) : (s.fenceSv ld reason).fenced U.sv ld 0 = true := by
  unfold State.fenceSv
  dsimp only
  split
  · exact s.fenced_raise_self _ _ _ _
  · exact ((State.stopSv_fences _ ld).fenced (by decide)).trans (s.fenced_raise_self _ _ _ _)

theorem fencePort_fences (ld p reason : Nat) : FencesWithin [U.inst, U.port] s (s.fencePort ld p reason) := by
  have hset (t : State) (x : PortSt) : FencesWithin [U.inst, U.port] t (t.setPort ld p x) := .ofEq rfl
  have hcount (t : State) : FencesWithin [U.inst, U.port] t (t.count F.RNG_WRAP_WRAPS ld p) := .ofEq rfl
  unfold State.fencePort
  exact .on fun _ => .after (hset _ _) (.after (.wider (.ofLoss (State.revoke_loss _ _ _ _)) (by decide))
    (.after (.raise _ _ _ _ _ (by decide)) (.on fun _ => hcount _)))

theorem fencePort_fenced (ld p reason : Nat) : (s.fencePort ld p reason).fenced U.port ld p = true := by
  have hset (t : State) (x : PortSt) : FencesWithin [U.inst] t (t.setPort ld p x) := .ofEq rfl
  have hrevoke (t : State) (x : PortSt) : ((t.revoke ld (0x0A + p) true).setPort ld p x).fenced U.port ld p = t.fenced U.port ld p :=
    (FencesWithin.after (hset _ _) (.ofLoss (State.revoke_loss _ _ _ _))).fenced (by decide)
  unfold State.fencePort
  cases h : s.fenced U.port ld p
  · rw [Bool.not_false, State.on_true]
    exact (hrevoke _ _).trans (State.fenced_raise_self _ _ _ _ _)
  · exact h

theorem fenceEngine_fenced (ld reason : Nat) : (s.fenceEngine ld reason).fenced U.engine ld 0 = true := by
  have hraised := s.fenced_raise_self U.engine ld 0 reason
  unfold State.fenceEngine
  dsimp only
  split
  · exact hraised
  · refine (FencesWithin.fenced (ks := [U.inst, U.port]) ?_ (by decide)).trans hraised
    exact .after (.on fun _ => .ofEq rfl) (.after (State.fencePort_fences _ _ _ _) (State.fencePort_fences _ _ _ _))

theorem fenceLane_fenced (ld l reason : Nat) : (s.fenceLane ld l reason).fenced U.lane ld l = true := by
  cases h : s.fenced U.lane ld l
  · exact congrArg Fence.on (s.fenceLane_fence h reason)
  · rw [State.fenceLane, if_pos h]
    exact State.fenced_raise_self _ _ _ _ _

theorem fenceTimer_fenced (die n reason : Nat) :
    (s.fenceTimer die n reason).fenced (if die < 2 then U.ltimer else U.ftimer) die n = true := by
  unfold State.fenceTimer
  cases h : s.fenced (if die < 2 then U.ltimer else U.ftimer) die n
  · exact State.fenced_raise_self _ _ _ _ _
  · exact h

theorem fenceLink_fenced (ld k reason : Nat) : (s.fenceLink ld k reason).fenced U.link ld k = true := by
  have hrevoke (t : State) (c : Bool) : (t.on c fun s => s.revoke ld 0x14 true).fenced U.link ld k = t.fenced U.link ld k :=
    (FencesWithin.on fun _ => .ofLoss (State.revoke_loss _ _ _ _)).fenced (by decide)
  unfold State.fenceLink
  cases h : s.fenced U.link ld k
  · exact (hrevoke _ _).trans (State.fenced_raise_self _ _ _ _ _)
  · exact h

theorem fenceCrc_fenced (ld n reason : Nat) :
    (s.on (!s.fenced U.crc ld n) fun s => (s.raise U.crc ld n reason).revokeUnit ld n).fenced U.crc ld n = true := by
  cases h : s.fenced U.crc ld n
  · exact ((FencesWithin.ofLoss (State.revokeUnit_loss _ _ _)).fenced (by decide)).trans (s.fenced_raise_self _ _ _ _)
  · exact h

theorem fenceScan_fenced (ld n reason : Nat) :
    (s.on (!s.fenced U.scan ld n) fun s => ((s.raise U.scan ld n reason).revokeUnit ld (n + 8)).revoke ld (0x0C + n) true).fenced U.scan ld n =
      true := by
  cases h : s.fenced U.scan ld n
  · exact ((FencesWithin.after (.ofLoss (State.revoke_loss _ _ _ _)) (.ofLoss (State.revokeUnit_loss _ _ _))).fenced (by decide)).trans
      (s.fenced_raise_self _ _ _ _)
  · exact h

/-- The kinds of unit that FREQ names on a logic die; supervisor and engine are unit 0. -/
theorem freqCount_cases {kind idx : Nat} (h : idx < freqCount kind) : kind = U.lane ∨ (kind = U.sv ∧ idx = 0) ∨ (kind = U.engine ∧ idx = 0) ∨
    kind = U.port ∨ kind = U.crc ∨ kind = U.scan ∨ kind = U.ltimer ∨ kind = U.link := by
  unfold freqCount at h
  grind

theorem fenceLogicUnit_fenced {ld kind idx : Nat} (hld : ld < 2) (h : idx < freqCount kind) (reason : Nat) :
    (s.fenceLogicUnit ld kind idx reason).fenced kind ld idx = true := by
  obtain rfl | ⟨rfl, rfl⟩ | ⟨rfl, rfl⟩ | rfl | rfl | rfl | rfl | rfl := freqCount_cases h
  · exact s.fenceLane_fenced ld idx reason
  · exact s.fenceSv_fenced ld reason
  · exact s.fenceEngine_fenced ld reason
  · exact s.fencePort_fenced ld idx reason
  · exact s.fenceCrc_fenced ld idx reason
  · exact s.fenceScan_fenced ld idx reason
  · have := s.fenceTimer_fenced ld idx reason
    rwa [if_pos hld] at this
  · exact s.fenceLink_fenced ld idx reason

theorem fenceP_fenced (ld iid reason : Nat) : (s.fenceP ld iid reason).fenced U.inst 0 iid = true := by
  unfold State.fenceP
  cases h : s.instFencedP iid
  · rw [Bool.not_false, State.on_true, State.fenced_fenceOn]
    simp
  · exact h

theorem lt_freqCount {ld kind idx : Nat} (hk : kind ≠ U.inst) (h : s.freqNames ld kind idx = true) : idx < freqCount kind := by
  rw [State.freqNames, if_neg hk] at h
  exact of_decide_eq_true (Bool.and_eq_true_iff.1 h).1

/-- A request fences the unit that it names, one of the instances on channel P. -/
theorem freqFence_fenced {ld kind idx : Nat} (hld : ld < 2) (h : s.freqNames ld kind idx = true) :
    (s.freqFence ld kind idx).fenced kind (if kind = U.inst then 0 else ld) idx = true := by
  unfold State.freqFence
  dsimp only
  split
  · next hk => exact hk ▸ State.fenceP_fenced _ ld idx 1
  · next hk => exact State.fenceLogicUnit_fenced _ hld (s.lt_freqCount hk h) 1

/-! ### Clears -/

theorem fenced_unfence (kind die idx : Nat) : (s.unfence kind die idx).fenced kind die idx = false := by
  rw [State.fenced, State.unfence, State.fence_setFence, if_pos ⟨rfl, rfl, rfl⟩]

theorem clearLane_ends (ld l : Nat) : (s.clearLane ld l).fenced U.lane ld l = false := by
  have hput (s : State) (F : Fld) (d i v : Nat) : FencesWithin [U.inst] s (s.put F d i v) := .ofEq rfl
  refine (FencesWithin.fenced (ks := [U.inst]) ?_ (by decide)).trans (s.fenced_unfence U.lane ld l)
  unfold State.clearLane
  dsimp only
  split
  · exact .after (.ofLoss (State.remap_loss _ _ _ _)) (hput _ _ _ _ _)
  · exact hput _ _ _ _ _

theorem admitPort_fences (ld p : Nat) : FencesWithin [] s (s.admitPort ld p) := .ofEq ((s.admitPort_frame ld p).same State.fences)

theorem clearPort_fences (ld p : Nat) : FencesWithin [U.port] s (s.clearPort ld p) := by
  have hput (s : State) (F : Fld) (v : Bool) : FencesWithin [U.port] s (s.putB F ld p v) := .ofEq rfl
  exact .after (hput _ _ _) (.after (hput _ _ _) (.setFence _ _ _ _ _ (by decide)))

theorem clearPort_ends (ld p : Nat) : (s.clearPort ld p).fenced U.port ld p = false := by
  have hput (s : State) (F : Fld) (v : Bool) : FencesWithin [] s (s.putB F ld p v) := .ofEq rfl
  exact ((FencesWithin.after (hput _ _ _) (hput _ _ _)).fenced (by decide)).trans (s.fenced_unfence _ _ _)

theorem clearEngine_ends (ld : Nat) : (s.clearEngine ld).fenced U.engine ld 0 = false :=
  ((FencesWithin.after (State.clearPort_fences _ _ _) (State.clearPort_fences _ _ _)).fenced (by decide)).trans (s.fenced_unfence _ _ _)

theorem clearLink_ends (ld k : Nat) : (s.clearLink ld k).fenced U.link ld k = false := by
  have hput (s : State) (F : Fld) (v : Nat) : FencesWithin [] s (s.put F ld k v) := .ofEq rfl
  exact ((FencesWithin.after (hput _ _ _) (hput _ _ _)).fenced (by decide)).trans (s.fenced_unfence _ _ _)

theorem clearLogicUnit_ends {ld kind idx : Nat} (h : kind = U.engine → idx = 0) : (s.clearLogicUnit ld kind idx).fenced kind ld idx = false := by
  unfold State.clearLogicUnit
  split
  · next hk => exact hk ▸ s.clearLane_ends ld idx
  split
  · next hk =>
    rw [h hk, hk]
    exact ((FencesWithin.after (State.admitPort_fences _ _ _) (State.admitPort_fences _ _ _)).fenced (by decide)).trans (s.clearEngine_ends ld)
  split
  · next hk => exact hk ▸ ((State.admitPort_fences _ _ _).fenced (by decide)).trans (s.clearPort_ends ld idx)
  split
  · next hk => exact hk ▸ s.clearLink_ends ld idx
  · exact s.fenced_unfence kind ld idx

/-- A clear of one of the instances that channel P holds fenced leaves it fenced until the next edge. -/
theorem clearP_effect {iid : Nat} (h : s.instFencedP iid = true) :
    (s.clearP iid).instFencedP iid = true ∧ ((s.clearP iid).fence U.inst 0 iid).readmit = s.tick + 1 := by
  have hon : (s.fence U.inst 0 iid).on = true := h
  unfold State.clearP
  dsimp only
  rw [hon, State.on_true, State.instFencedP, State.fenced, State.fence_setFence, if_pos ⟨rfl, rfl, rfl⟩]
  exact ⟨rfl, rfl⟩

/-! ### Field-die units -/

theorem raiseTerm_fenced (fd t reason : Nat) : (s.raiseTerm fd t reason).fenced U.term (fdie fd) t = true := by
  have hlog (s : State) (d k i r : Nat) : FencesWithin [] s (s.logFence d k i r) := .ofEq (s.logFence_fences _ _ _ _)
  have hfields (s : State) (k i : Nat) : FencesWithin [] s (s.onFence (unitRegs k) (fdie fd) i) := .ofEq (s.onFence_fences _ _ _)
  have hoff (s : State) : FencesWithin [] s (s.switchOff fd t) := .ofEq rfl
  have hput (s : State) (F : Fld) (d i v : Nat) : FencesWithin [] s (s.put F d i v) := .ofEq rfl
  have hset (s : State) (x : TermSt) : FencesWithin [] s (s.setTerm fd t x) := .ofEq rfl
  refine (FencesWithin.fenced (.after (hset _ _) (.after (hput _ _ _ _ _) (.after (hput _ _ _ _ _) (.after (hfields _ _ _)
    (.after (hoff _) (hlog _ _ _ _ _)))))) (by decide)).trans ?_
  rw [State.fenced_fenceOn]
  simp

theorem fenceTerm_fenced (fd t reason : Nat) : (s.fenceTerm fd t reason).fenced U.term (fdie fd) t = true := by
  have hinsts (s : State) (rs : List InstRec) : FencesWithin [U.inst] s (s.each rs fun s r => s.fenceInst (fdie fd) r.iid reason) :=
    .each (fun _ _ _ => .ofLoss (State.fenceInst_loss _ _ _ _)) _
  have hout (s : State) : FencesWithin [U.inst] s (s.outFault fd t reason) := .after (hinsts _ _) (.ofEq rfl)
  have hraised : (s.on (!s.fenced U.term (fdie fd) t) fun s => s.raiseTerm fd t reason).fenced U.term (fdie fd) t = true := by
    cases h : s.fenced U.term (fdie fd) t
    · exact s.raiseTerm_fenced fd t reason
    · exact h
  exact ((FencesWithin.on fun _ => hout _).fenced (by decide)).trans hraised

theorem markCell_fences (fd c : Nat) (b : Bool) : FencesWithin [] s (s.markCell fd c b) := .ofEq rfl

theorem copyCell_fences (fd a b : Nat) : FencesWithin [] s (s.copyCell fd a b) := by
  have hput (s : State) (F : Fld) (d i v : Nat) : FencesWithin [] s (s.put F d i v) := .ofEq rfl
  exact .after (.each (fun _ _ _ => hput _ _ _ _ _) _) (.after (hput _ _ _ _ _) (.each (fun _ _ _ => .each (fun _ _ _ => hput _ _ _ _ _) _) _))

theorem mapCell_fences (fd c p : Nat) : FencesWithin [] s (s.mapCell fd c p) := by
  have hput (s : State) (F : Fld) (d i v : Nat) : FencesWithin [] s (s.put F d i v) := .ofEq rfl
  unfold State.mapCell
  dsimp only
  split
  · exact .after (hput _ _ _ _ _) (hput _ _ _ _ _)
  · exact hput _ _ _ _ _

theorem dropCell_fences (fd c : Nat) : FencesWithin [] s (s.dropCell fd c) := by
  have hput (s : State) (F : Fld) (d i v : Nat) : FencesWithin [] s (s.put F d i v) := .ofEq rfl
  have hset (s : State) (x : HCell) : FencesWithin [] s (s.setCell fd c x) := .ofEq rfl
  exact .after (hput _ _ _ _ _) (.after (hset _ _) (.on fun _ => hput _ _ _ _ _))

theorem cellCarrier_fences (fd c : Nat) (r : InstRec) : FencesWithin [U.inst] s (s.cellCarrier fd c r) := by
  have hput (s : State) (F : Fld) (d i v : Nat) : FencesWithin [U.inst] s (s.put F d i v) := .ofEq rfl
  have hdrop (s : State) : FencesWithin [U.inst] s { s with soak := none } := .ofEq rfl
  have hany {s t : State} (h : FencesWithin [] s t) : FencesWithin [U.inst] s t := h.wider (by simp)
  unfold State.cellCarrier
  split
  · refine .on fun _ => ?_
    exact .after (.ofLoss (State.setReadmit_loss _ _ _)) (.after (.ofLoss (State.movedInst_loss _ _)) (.after (hput _ _ _ _ _)
      (.after (hany (State.dropCell_fences _ _ _)) (.after (hany (State.mapCell_fences _ _ _ _))
        (.after (.on fun _ => hany (State.copyCell_fences _ _ _ _)) (.after (.ofLoss (State.endJob_loss _ _ _ _ _)) (hdrop _)))))))
  · exact .refl _ _

theorem soakCell_fences (fd c : Nat) : FencesWithin [U.inst] s (s.soakCell fd c).1 := by
  unfold State.soakCell
  split
  · split
    · exact .ofLoss (State.dropSoak_loss _ _ _)
    · split
      · exact .ofEq rfl
      · exact .refl _ _
  · exact .refl _ _

/-- What the fence of a cell does beside raising it. -/
def cellStopped (fd c : Nat) : State :=
  let k := ((s.markCell fd c true).revokeCellTimers fd c).soakCell fd c
  if k.2 then k.1
  else match k.1.instAt fd c with
    | some r => (k.1.fenceInst (fdie fd) r.iid 0x09).cellCarrier fd c r
    | none => k.1

theorem fenceCell_eq (fd c reason : Nat) : s.fenceCell fd c reason =
    s.on (!s.fenced U.cell (fdie fd) c) fun s => (s.raise U.cell (fdie fd) c reason).cellStopped fd c := rfl

theorem cellStopped_fences (fd c : Nat) : FencesWithin [U.inst] s (s.cellStopped fd c) := by
  have htimers (s : State) : FencesWithin [U.inst] s (s.revokeCellTimers fd c) := .each (fun _ _ _ => .ofLoss (State.idleTimer_loss _ _ _)) _
  have hsoak : FencesWithin [U.inst] s (((s.markCell fd c true).revokeCellTimers fd c).soakCell fd c).1 :=
    .after (State.soakCell_fences _ _ _) (.after (htimers _) ((s.markCell_fences fd c true).wider (by simp)))
  unfold State.cellStopped
  dsimp only
  split
  · exact hsoak
  · split
    · exact .after (State.cellCarrier_fences _ _ _ _) (.after (.ofLoss (State.fenceInst_loss _ _ _ _)) hsoak)
    · exact hsoak

theorem fenceCell_fenced (fd c reason : Nat) : (s.fenceCell fd c reason).fenced U.cell (fdie fd) c = true := by
  rw [State.fenceCell_eq]
  cases h : s.fenced U.cell (fdie fd) c
  · rw [Bool.not_false, State.on_true]
    exact ((State.cellStopped_fences _ fd c).fenced (by decide)).trans (s.fenced_raise_self _ _ _ _)
  · exact h

theorem fenceField_fenced (fd reason : Nat) : (s.fenceField fd reason).fenced U.field (fdie fd) 0 = true := by
  cases h : s.fenced U.field (fdie fd) 0
  · exact (s.fence_fenceField h reason).1
  · rw [State.fenceField_eq, h, Bool.not_true, State.on_false]
    exact ((s.cutFbist_frame fd).same (State.fenced · U.field (fdie fd) 0)).trans h

theorem ffreqCount_cases {kind idx : Nat} (h : idx < ffreqCount kind) : kind = U.term ∨ kind = U.cell ∨ kind = U.ftimer ∨ (kind = U.field ∧ idx = 0) := by
  unfold ffreqCount at h
  grind

/-- A request fences the unit of the field die that it names. -/
theorem ffreqFence_fenced (fd : Nat) {kind idx : Nat} (h : idx < ffreqCount kind) :
    (s.ffreqFence fd kind idx).fenced kind (fdie fd) idx = true := by
  obtain rfl | rfl | rfl | ⟨rfl, rfl⟩ := ffreqCount_cases h
  · exact State.fenceTerm_fenced _ fd idx 1
  · exact State.fenceCell_fenced _ fd idx 1
  · have := (s.putFfreq fd U.ftimer idx 0).fenceTimer_fenced (fdie fd) idx 1
    rwa [if_neg (show ¬fdie fd < 2 by simp [fdie])] at this
  · exact State.fenceField_fenced _ fd 1

theorem engineRetake_fences (fd n : Nat) : FencesWithin [U.inst] s (s.engineRetake fd n) := by
  have hput (s : State) (F : Fld) (v : Nat) : FencesWithin [U.inst] s (s.put F (fdie fd) n v) := .ofEq rfl
  have hset (s : State) (x : TermSt) : FencesWithin [U.inst] s (s.setTerm fd n x) := .ofEq rfl
  have hspend (s : State) : FencesWithin [U.inst] s s.spend := .ofEq rfl
  have hrun (s : State) : FencesWithin [U.inst] s (s.engineRun fd n) :=
    .after (hspend _) (.after (hset _ _) (.after (hput _ _ _) (.after (hput _ _ _) (.after (hput _ _ _) (.after (hput _ _ _)
      (.after (hput _ _ _) (.after (hput _ _ _) (.after (hput _ _ _) (.after (hput _ _ _) (.after (hput _ _ _) (hput _ _ _)))))))))))
  exact .on fun _ => .after (.on fun _ => hrun _) (.after (hput _ _ _) (.ofLoss (State.idleTimer_loss _ _ _)))

theorem clearCell_ends (fd c : Nat) : (s.clearCell fd c).fenced U.cell (fdie fd) c = false := by
  have hput (s : State) (F : Fld) (v : Nat) : FencesWithin [] s (s.put F (fdie fd) c v) := .ofEq rfl
  exact ((FencesWithin.after (State.markCell_fences _ _ _ _) (hput _ _ _)).fenced (by decide)).trans (s.fenced_unfence _ _ _)

theorem ffreqClear_ends (fd : Nat) {kind : Nat} (h : kind = U.cell ∨ kind = U.ftimer) (idx : Nat) :
    (s.ffreqClear fd kind idx).fenced kind (fdie fd) idx = false := by
  obtain rfl | rfl := h
  · exact State.clearCell_ends _ fd idx
  · have hretake (s : State) (c : Bool) : FencesWithin [U.inst] s (s.on c fun s => s.engineRetake fd idx) :=
      .on fun _ => State.engineRetake_fences _ _ _
    unfold State.ffreqClear
    dsimp only
    rw [if_neg (by decide)]
    exact ((hretake _ _).fenced (by decide)).trans (State.fenced_unfence _ _ _ _)

/-- A refusal of a field die's register changes no fence, and its log names the kind. -/
theorem refuse_fences (r : Reg) (fd idx kind : Nat) (m : Master) : (s.refuse r (fdie fd) idx m kind).fences = s.fences := by
  have hput (s : State) (F : Fld) (v : Nat) : (s.put F (fdie fd) 0 v).fences = s.fences := rfl
  unfold State.refuse State.logErr
  dsimp only
  rw [if_neg (show ¬fdie fd < 2 by simp [fdie])]
  exact (hput _ _ _).trans ((hput _ _ _).trans ((hput _ _ _).trans ((hput _ _ _).trans ((hput _ _ _).trans ((hput _ _ _).trans (hput _ _ _))))))

theorem refuse_kind (r : Reg) (fd idx kind : Nat) (m : Master) :
    (s.refuse r (fdie fd) idx m kind).get F.FSYS_ERRLOG1_KIND (fdie fd) 0 = kind % 2 ^ F.FSYS_ERRLOG1_KIND.w := by
  have hother (s : State) {G : Fld} (v : Nat) (h : G.same F.FSYS_ERRLOG1_KIND = false) :
      (s.put G (fdie fd) 0 v).get F.FSYS_ERRLOG1_KIND (fdie fd) 0 = s.get F.FSYS_ERRLOG1_KIND (fdie fd) 0 := s.get_put_other _ _ _ _ _ _ _ h
  unfold State.refuse State.logErr
  dsimp only
  rw [if_neg (show ¬fdie fd < 2 by simp [fdie])]
  refine (hother _ _ (by decide)).trans ((hother _ _ (by decide)).trans ((hother _ _ (by decide)).trans ?_))
  exact (State.get_put _ _ _ _ _ _ _).trans (if_pos ⟨rfl, rfl⟩)

theorem putFreq_fields (ld kind idx op : Nat) : OnlyFields s (s.putFreq ld kind idx op)
    [(F.FENCE_FREQ_KIND, ld, 0), (F.FENCE_FREQ_INDEX, ld, 0), (F.FENCE_FREQ_OP, ld, 0)] :=
  change_regs_iff.1 (((Change.put _ _ (by simp)).trans (.put _ _ (by simp))).trans (.put _ _ (by simp)))

/-- What a clear does: nothing where its condition fails; else the fence ends, for instances at the next edge. -/
theorem freqClear_effect {ld kind idx : Nat} (h : s.freqNames ld kind idx = true) (b : Bool) :
    ∃ t, (s.freqClear ld kind idx).respond b = t ∧
      ((s.putFreq ld kind idx 1).clearLogicOk ld kind idx = false → OnlyFields { s with busErr := t.busErr } t
        [(F.FENCE_FREQ_KIND, ld, 0), (F.FENCE_FREQ_INDEX, ld, 0), (F.FENCE_FREQ_OP, ld, 0)]) ∧
      ((s.putFreq ld kind idx 1).clearLogicOk ld kind idx = true → (kind ≠ U.inst → t.fenced kind ld idx = false) ∧
        (kind = U.inst → s.instFencedP idx = true → t.instFencedP idx = true ∧ (t.fence U.inst 0 idx).readmit = s.tick + 1)) := by
  unfold State.freqClear
  dsimp only
  refine ⟨_, rfl, fun hno => ?_, fun hyes => ⟨fun hk => ?_, fun hk hf => ?_⟩⟩
  · rw [hno, State.on_false]
    exact onlyFields_respond (s.putFreq_fields ld kind idx 1) b
  · rw [hyes, State.on_true, if_neg hk]
    refine State.clearLogicUnit_ends _ fun he => ?_
    exact Nat.lt_one_iff.1 (he ▸ s.lt_freqCount hk h : idx < freqCount U.engine)
  · rw [hyes, State.on_true, if_pos hk]
    exact State.clearP_effect _ hf

end State

/-- Settles O47: an admitted request raises or ends the fence of its unit through that unit's own operation. -/
theorem fenceRequestsActOnTheirUnit : Obligations.FenceRequestsActOnTheirUnit := by
  refine ⟨fun s m ld kind idx hld => ⟨fun hw => ?fence, fun hw => ?clear⟩, fun s m fd kind idx hfd => ⟨fun hw => ?ffence, fun hw hk => ?fclear,
    fun hk hheld hroute hm => ?refused⟩⟩
  case fence =>
    refine ⟨_, (State.answer_of hld rfl).trans (congrArg _ (asWrite_admitted hw)), rfl, ?_⟩
    exact s.freqFence_fenced (lt_two_of_hasLd hld) hw.2.2.2
  case clear =>
    obtain ⟨t, he, ht⟩ := s.freqClear_effect hw.2.2.2 false
    exact ⟨t, (State.answer_of hld rfl).trans (congrArg _ ((asWrite_admitted hw).trans he)), ht⟩
  case ffence =>
    refine ⟨_, (State.answer_of hfd rfl).trans (congrArg _ (asWrite_admitted hw)), ?_⟩
    exact s.ffreqFence_fenced fd (of_decide_eq_true hw.2.2.2)
  case fclear =>
    obtain ⟨hheld, hroute, hm, hidx⟩ := hw
    have hok : (decide (idx < ffreqCount kind) && decide (kind ≠ U.term) && decide (kind ≠ U.field)) = true := by
      obtain rfl | rfl := hk <;> simpa using hidx
    refine ⟨_, (State.answer_of hfd rfl).trans (congrArg _ (asWrite_admitted ⟨hheld, hroute, hm, hok⟩)), ?_⟩
    exact s.ffreqClear_ends fd hk idx
  case refused =>
    have hno : (decide (idx < ffreqCount kind) && decide (kind ≠ U.term) && decide (kind ≠ U.field)) = false := by
      obtain rfl | rfl := hk <;> simp
    refine ⟨_, (State.answer_of hfd rfl).trans (congrArg _ ?_), rfl, s.refuse_fences _ fd 0 7 m, s.refuse_kind _ fd 0 7 m⟩
    rw [hm, hno, State.asWrite]
    simp [hheld, hroute]

end Sys2Proof.Machine
end

section
/-! SUPPORT. Supervisors that stop and return, and the loss of a logic die (R284, R313, R352, R355, R356). -/

namespace Sys2Proof.Machine

/-- A step that gives no lease and restarts no supervisor, nor ends a restart; the watchdogs stand. -/
structure Release (s t : State) : Prop where
  owners : ∀ d i, t.get F.FENCE_LEASE_OWNER d i = s.get F.FENCE_LEASE_OWNER d i ∨ t.get F.FENCE_LEASE_OWNER d i = 0
  kicks : ∀ d i, t.get F.FENCE_SVKICK_WDREM d i = s.get F.FENCE_SVKICK_WDREM d i
  restarting : ∀ d, (t.svst d).restarting = (s.svst d).restarting

namespace Release

variable {s t u : State}

theorem refl (s : State) : Release s s := ⟨fun _ _ => .inl rfl, fun _ _ => rfl, fun _ => rfl⟩

theorem after (k : Release t u) (h : Release s t) : Release s u where
  owners d i := by
    obtain hk | hk := k.owners d i
    · exact (h.owners d i).imp hk.trans hk.trans
    · exact .inr hk
  kicks d i := (k.kicks d i).trans (h.kicks d i)
  restarting d := (k.restarting d).trans (h.restarting d)

theorem each {α : Type} {xs : List α} {op : State → α → State} (hop : ∀ s, ∀ x ∈ xs, Release s (op s x)) (s : State) :
    Release s (s.each xs op) := by
  induction xs generalizing s with
  | nil => exact refl s
  | cons x xs ih =>
    exact .after (ih (fun s y hy => hop s y (List.mem_cons_of_mem _ hy)) _) (hop s x (List.mem_cons_self ..))

theorem on {c : Bool} {op : State → State} (hop : c = true → Release s (op s)) : Release s (s.on c op) := by
  cases c
  · exact refl s
  · exact hop rfl

theorem ite {c : Prop} [Decidable c] (ht : Release s t) (hu : Release s u) : Release s (if c then t else u) := by
  split
  · exact ht
  · exact hu

theorem ofRegs {rs : List Reg} (h : RegsWithin rs s t) (hlease : Reg.FENCE_LEASE ∉ rs) (hkick : Reg.FENCE_SVKICK ∉ rs)
    (hsv : ∀ d, (t.svst d).restarting = (s.svst d).restarting) : Release s t :=
  ⟨fun d i => .inl (h _ d i hlease), fun d i => h _ d i hkick, hsv⟩

theorem same (hr : t.regs = s.regs) (hsv : t.sv = s.sv) : Release s t :=
  .ofRegs (.ofRegs [] hr) (by simp) (by simp) fun d => congrArg (fun sv => (Store.get (fun _ => SvSt.zero) sv d).restarting) hsv

theorem put (s : State) (F : Fld) (d i v : Nat) (hlease : F.reg ≠ .FENCE_LEASE) (hkick : F.reg ≠ .FENCE_SVKICK) : Release s (s.put F d i v) :=
  .ofRegs (.put (rs := [F.reg]) _ _ _ _ _ (by simp)) (by simpa using hlease.symm) (by simpa using hkick.symm) fun _ => rfl

theorem zero (h : Release s t) {d i : Nat} (hz : s.get F.FENCE_LEASE_OWNER d i = 0) : t.get F.FENCE_LEASE_OWNER d i = 0 :=
  (h.owners d i).elim (·.trans hz) id

/-- A lease returned to nobody. -/
theorem unlease (s : State) (d i : Nat) : Release s (s.put F.FENCE_LEASE_OWNER d i 0) where
  owners e j := by
    rw [State.get_put]
    split
    · exact .inr rfl
    · exact .inl rfl
  kicks e j := s.get_put_other _ _ _ _ _ _ _ (by decide)
  restarting e := rfl

theorem setSv (s : State) (ld : Nat) {v : SvSt} (h : v.restarting = (s.svst ld).restarting) : Release s (s.setSv ld v) :=
  .ofRegs (.ofRegs [] rfl) (by simp) (by simp) fun d => by
    rw [State.svst_setSv]
    split
    · next hd => rw [hd, h]
    · rfl

end Release

namespace State

variable (s : State)

/-! ### Leases that go back (R355) -/

theorem onFence_release {kind : Nat} (hlease : Reg.FENCE_LEASE ∉ unitRegs kind) (hkick : Reg.FENCE_SVKICK ∉ unitRegs kind) (die idx : Nat) :
    Release s (s.onFence (unitRegs kind) die idx) :=
  .ofRegs (s.onFence_unit_regs kind die idx) hlease hkick fun d =>
    congrArg SvSt.restarting ((s.onFence_regs _ die idx).same (State.svst · d))

theorem endJob_release (ld e fstatus result : Nat) : Release s (s.endJob ld e fstatus result) := by
  unfold State.endJob
  exact .on fun _ => .same rfl rfl

theorem dropSoak_release (fstatus result : Nat) : Release s (s.dropSoak fstatus result) where
  owners d i := .inl (s.dropSoak_flds fstatus result _ d i (by decide))
  kicks d i := s.dropSoak_flds fstatus result _ d i (by decide)
  restarting d := congrArg SvSt.restarting ((s.dropSoak_gateFall fstatus result).same (State.svst · d))

theorem dropWaits_release (ld pri : Nat) : Release s (s.dropWaits ld pri) := .same rfl rfl

theorem idleCrc_unleased (ld n : Nat) : Release (s.put F.FENCE_LEASE_OWNER ld n 0) (s.idleCrc ld n) :=
  .after (.setSv _ _ rfl) (.after (.each (fun _ _ _ => State.endJob_release _ _ _ _ _) _)
    (State.onFence_release _ (by decide) (by decide) _ _))

theorem idleScan_unleased (ld n : Nat) : Release (s.put F.FENCE_LEASE_OWNER ld (n + 8) 0) (s.idleScan ld n) :=
  .after (State.dropWaits_release _ _ _) (State.onFence_release _ (by decide) (by decide) _ _)

theorem idleCrc_release (ld n : Nat) : Release s (s.idleCrc ld n) := .after (s.idleCrc_unleased ld n) (.unlease _ _ _)

theorem idleScan_release (ld n : Nat) : Release s (s.idleScan ld n) := .after (s.idleScan_unleased ld n) (.unlease _ _ _)

theorem revokeUnit_release (ld n : Nat) : Release s (s.revokeUnit ld n) := by
  unfold State.revokeUnit
  exact .after (.on fun _ => State.idleScan_release _ _ _) (.on fun _ => State.idleCrc_release _ _ _)

theorem idleTimer_release (die n : Nat) : Release s (s.idleTimer die n) := by
  have harm (s : State) (m : Nat) : Release s (s.capArm die m false) := .on fun _ => .same rfl rfl
  have hdue (s : State) : Release s (s.setCapDue die n 0) := .same rfl rfl
  have hedge (s : State) : Release s (s.eventEdge die n false) := .each (fun _ _ _ => harm _ _) _
  unfold State.idleTimer
  refine .after (.on fun _ => hedge _) (.after (hdue _) (State.onFence_release _ ?_ ?_ _ _))
  · split <;> decide
  · split <;> decide

theorem revoke_release (ld code : Nat) (keep : Bool) : Release s (s.revoke ld code keep) :=
  .after (State.dropWaits_release _ _ _) (.after (.put _ _ _ _ _ (by decide) (by decide))
    (.after (.each (fun _ _ _ => State.idleTimer_release _ _ _) _) (.each (fun _ _ _ => State.revokeUnit_release _ _ _) _)))

theorem owner_unlease (d i : Nat) : (s.put F.FENCE_LEASE_OWNER d i 0).get F.FENCE_LEASE_OWNER d i = 0 :=
  (s.get_put _ _ _ _ _ _).trans (if_pos ⟨rfl, rfl⟩)

theorem owner_idleCrc (ld n : Nat) : (s.idleCrc ld n).get F.FENCE_LEASE_OWNER ld n = 0 :=
  (s.idleCrc_unleased ld n).zero (s.owner_unlease ld n)

theorem owner_idleScan (ld n : Nat) : (s.idleScan ld n).get F.FENCE_LEASE_OWNER ld (n + 8) = 0 :=
  (s.idleScan_unleased ld n).zero (s.owner_unlease ld (n + 8))

/-- A revoked unit is idle: nobody holds it. -/
theorem owner_revokeUnit (ld : Nat) {n : Nat} (h : n < 16) : (s.revokeUnit ld n).get F.FENCE_LEASE_OWNER ld n = 0 := by
  unfold State.revokeUnit
  dsimp only
  obtain hn | hn := Nat.lt_or_ge n 8
  · rw [decide_eq_true hn, Bool.or_true, State.on_true, Nat.mod_eq_of_lt hn]
    have hscan (s : State) (c : Bool) : Release s (s.on c fun s => s.idleScan ld n) := .on fun _ => s.idleScan_release ld n
    exact (hscan _ _).zero (s.owner_idleCrc ld n)
  · rw [decide_eq_true hn, Bool.or_true, State.on_true]
    have hscan (s : State) : (s.idleScan ld (n % 8)).get F.FENCE_LEASE_OWNER ld n = 0 := by
      have := s.owner_idleScan ld (n % 8)
      rwa [show n % 8 + 8 = n by omega] at this
    exact hscan _

/-- A revocation leaves the owner no shared unit. -/
theorem owner_revoke (ld : Nat) {code : Nat} (hc : code ≠ 0) (keep : Bool) {n : Nat} (h : n < 16) :
    (s.revoke ld code keep).get F.FENCE_LEASE_OWNER ld n ≠ code := by
  let mine := (List.range 16).filter fun n => s.get F.FENCE_LEASE_OWNER ld n == code
  have hunits (s : State) : Release s (s.each mine fun s n => s.revokeUnit ld n) := .each (fun _ _ _ => State.revokeUnit_release _ _ _) _
  have hmine : (s.each mine fun s n => s.revokeUnit ld n).get F.FENCE_LEASE_OWNER ld n ≠ code := by
    by_cases ho : s.get F.FENCE_LEASE_OWNER ld n = code
    · have hz := State.each_sets (l := mine) (op := fun s n => s.revokeUnit ld n) (P := fun s => s.get F.FENCE_LEASE_OWNER ld n = 0)
        (List.mem_filter.2 ⟨List.mem_range.2 h, beq_iff_eq.2 ho⟩) (fun s => s.owner_revokeUnit ld h)
        (fun s m hz => (s.revokeUnit_release ld m).zero hz) s
      exact fun he => hc (he.symm.trans hz)
    · exact ((hunits s).owners ld n).elim (fun he => he ▸ ho) fun he hcode => hc (hcode.symm.trans he)
  have hrest : Release (s.each mine fun s n => s.revokeUnit ld n) (s.revoke ld code keep) :=
    .after (State.dropWaits_release _ _ _) (.after (.put _ _ _ _ _ (by decide) (by decide))
      (.each (fun _ _ _ => State.idleTimer_release _ _ _) _))
  exact (hrest.owners ld n).elim (fun he => he ▸ hmine) fun he hcode => hc (hcode.symm.trans he)

/-! ### A supervisor that stops -/

theorem cutBist_release (ld e cause : Nat) : Release s (s.cutBist ld e cause) := by
  have hput (s : State) {F : Fld} (v : Nat) (h : F.reg ∈ raiseRegs) : Release s (s.put F ld e v) :=
    .put _ _ _ _ _ (fun hF => absurd h (hF ▸ by decide)) (fun hF => absurd h (hF ▸ by decide))
  have hspend (s : State) (n v : Nat) : Release s (s.setPrpg n v).spend := .same rfl rfl
  unfold State.cutBist
  refine .on fun _ => .after (hspend _ _ _) (.after (hput _ _ ?_) (.after (hput _ _ ?_) (.after (hput _ _ ?_) (.after (hput _ _ ?_)
    (.after (hput _ _ ?_) (.after (hput _ _ ?_) (hput _ _ ?_))))))) <;> decide

theorem abortJob_release (ld e : Nat) : Release s (s.abortJob ld e) := by
  have hcut (s : State) (d u : Nat) (js : List (Nat × Nat)) : Release s ((s.cutBist d u 1).setSv d { s.svst d with bistJobs := js }) :=
    .after (.setSv _ _ ((s.cutBist_release d u 1).restarting d).symm) (s.cutBist_release d u 1)
  have hsoak (s : State) : Release s (match s.soak with
      | some x => if x.ld = ld ∧ x.job = e then s.dropSoak stAborted 0 else s
      | none => s) := by
    split
    · exact .ite (State.dropSoak_release _ _ _) (.refl _)
    · exact .refl _
  exact .after (State.endJob_release _ _ _ _ _) (.after (hsoak _) (.after
    (.each (fun _ _ _ => .each (fun _ _ _ => hcut _ _ _ _) _) _)
    (.each (fun _ _ _ => .each (fun _ _ _ => .after (State.revokeUnit_release _ _ _) (State.revokeUnit_release _ _ _)) _) _)))

theorem moveLeases_release : Release s s.moveLeases :=
  .each (fun _ _ _ => .each (fun _ _ _ => .put _ _ _ _ _ (by decide) (by decide)) _) _

theorem revokeField_release : Release s s.revokeField :=
  .each (fun _ _ _ => .each (fun _ _ _ => State.idleTimer_release _ _ _) _) _

theorem abortJobs_release (ld : Nat) : Release s (s.abortJobs ld) := .each (fun _ _ _ => .on fun _ => State.abortJob_release _ _ _) _

theorem stopSv_release (ld : Nat) : Release s (s.stopSv ld) :=
  .after (State.moveLeases_release _) (.after (State.abortJobs_release _ _) (.after (State.revokeField_release _) (State.revoke_release _ _ _ _)))

theorem owner_stopSv (ld : Nat) {n : Nat} (h : n < 16) : (s.stopSv ld).get F.FENCE_LEASE_OWNER ld n ≠ 9 := by
  have hrest : Release (s.revoke ld 9 false) (s.stopSv ld) :=
    .after (State.moveLeases_release _) (.after (State.abortJobs_release _ _) (State.revokeField_release _))
  have hrevoked := s.owner_revoke ld (code := 9) (by decide) false h
  exact (hrest.owners ld n).elim (fun he => he ▸ hrevoked) fun he hcode => absurd (hcode.symm.trans he) (by decide)

/-! ### The servers of the mailboxes (R284) -/

theorem serverOf_lt {ld : Nat} (h : ld < 2) (mb : Nat) : s.serverOf ld mb < 4 := by
  unfold State.serverOf
  split
  · omega
  · split <;> omega

/-- What every step of a loop keeps, the loop keeps. -/
theorem each_stays {α : Type} {l : List α} {op : State → α → State} {P : State → Prop} (hstay : ∀ s x, P s → P (op s x)) {s : State} (h : P s) :
    P (s.each l op) := by
  induction l generalizing s with
  | nil => exact h
  | cons x l ih => exact ih (hstay s x h)

theorem moveLeases_frame : Frame.regs.Holds s s.moveLeases :=
  Frame.each (fun _ _ _ => Frame.each (fun _ _ _ => Frame.put _ _ _ _ _) _) _

theorem moveLeases_regs : RegsWithin [.MB_MBCTL] s s.moveLeases :=
  .each (fun _ _ _ => .each (fun _ _ _ => .put _ _ _ _ _ (by decide)) _) _

/-- Each mailbox of the part has the server of R284 once the leases have moved. -/
theorem server_moveLeases {d mb : Nat} (hd : s.hasLd d = true) (hmb : mb < 8) :
    s.moveLeases.get F.MB_MBCTL_SERVER d mb = s.moveLeases.serverOf d mb := by
  have hlt := lt_two_of_hasLd hd
  let served (s : State) : Prop := s.get F.MB_MBCTL_SERVER d mb = s.serverOf d mb
  have hself (s : State) : served (s.put F.MB_MBCTL_SERVER d mb (s.serverOf d mb)) :=
    (s.get_put _ _ _ _ _ _).trans ((if_pos ⟨rfl, rfl⟩).trans (Nat.mod_eq_of_lt (s.serverOf_lt hlt mb)))
  have hstay (s : State) (e m : Nat) (h : served s) : served (s.put F.MB_MBCTL_SERVER e m (s.serverOf e m)) := by
    by_cases hem : d = e ∧ mb = m
    · obtain ⟨rfl, rfl⟩ := hem
      exact hself s
    · exact (s.get_put _ _ _ _ _ _).trans ((if_neg hem).trans h)
  refine State.each_sets (P := served) (x := d) (hasLd_iff.1 hd) (fun s => ?_) (fun s e h => ?_) s
  · exact State.each_sets (List.mem_range.2 hmb) hself (fun s m => hstay s d m) s
  · exact State.each_stays (P := served) (fun s m => hstay s e m) h

theorem server_of_moved {d mb : Nat} (hd : s.moveLeases.hasLd d = true) (hmb : mb < 8) :
    s.moveLeases.get F.MB_MBCTL_SERVER d mb = s.moveLeases.serverOf d mb :=
  s.server_moveLeases ((s.moveLeases_frame.same (State.hasLd · d)).symm.trans hd) hmb

/-! ### The fence and the return of a supervisor -/

/-- Whether a supervisor with these fences stays fenced (R352). -/
def thirdInHour (times : List Nat) : Bool :=
  decide (3 ≤ times.length) && times.all fun t => decide ((s.tick - t) * s.tickUs < 3600000000)

/-- A supervisor as its fence leaves it, before it stops serving. -/
def svFenced (ld reason : Nat) (v : SvSt) : State := ((s.raise U.sv ld 0 reason).setSv ld v).put F.FENCE_SVKICK_WDREM ld 0 0

theorem fenceSv_of_up {ld : Nat} (h : s.fenced U.sv ld 0 = false) (reason : Nat) :
    ∃ v, v.restarting = !s.thirdInHour (keepNewest 3 s.tick (s.fence U.sv ld 0).times) ∧
      s.fenceSv ld reason = (s.svFenced ld reason v).stopSv ld := by
  have htimes : ((s.raise U.sv ld 0 reason).fence U.sv ld 0).times = keepNewest 3 s.tick (s.fence U.sv ld 0).times := by
    rw [State.fence_raise, if_pos ⟨rfl, rfl, rfl, h⟩]
    rfl
  have heq : s.fenceSv ld reason = _ := if_neg (Bool.eq_false_iff.1 h)
  exact ⟨_, congrArg (fun ts => !s.thirdInHour ts) htimes, heq⟩

/-- What the fence of a supervisor does (R348, R352, R373). -/
theorem fenceSv_effect {ld : Nat} (h : s.fenced U.sv ld 0 = false) (reason : Nat) : ∃ t, s.fenceSv ld reason = t ∧
    t.fenced U.sv ld 0 = true ∧ (t.fence U.sv ld 0).reason = reason ∧ t.get F.FENCE_SVKICK_WDREM ld 0 = 0 ∧
    (∀ n < 16, t.get F.FENCE_LEASE_OWNER ld n ≠ 9) ∧
    (t.svst ld).restarting = !s.thirdInHour (keepNewest 3 s.tick (s.fence U.sv ld 0).times) ∧
    (∀ d mb, t.hasLd d = true → mb < 8 → t.get F.MB_MBCTL_SERVER d mb = t.serverOf d mb) := by
  obtain ⟨v, hv, he⟩ := s.fenceSv_of_up h reason
  have hfence : (s.svFenced ld reason v).fence U.sv ld 0 = s.raisedFence U.sv ld 0 reason :=
    (s.fence_raise _ _ _ _ _ _ _).trans (if_pos ⟨rfl, rfl, rfl, h⟩)
  have hkick : (s.svFenced ld reason v).get F.FENCE_SVKICK_WDREM ld 0 = 0 := (State.get_put _ _ _ _ _ _ _).trans (if_pos ⟨rfl, rfl⟩)
  have hsv : ((s.svFenced ld reason v).svst ld).restarting = v.restarting :=
    congrArg SvSt.restarting ((State.svst_setSv _ _ _ _).trans (if_pos rfl))
  have hrel := (s.svFenced ld reason v).stopSv_release ld
  have hkept := ((s.svFenced ld reason v).stopSv_fences ld U.sv (by decide) ld 0).trans hfence
  refine ⟨_, he, congrArg Fence.on hkept, congrArg Fence.reason hkept, (hrel.kicks ld 0).trans hkick, fun n hn => State.owner_stopSv _ ld hn,
    (hrel.restarting ld).trans (hsv.trans hv), fun d mb hd hmb => ?_⟩
  exact State.server_of_moved _ hd hmb

/-- What the end of a restart does (R284, R352, R409). -/
theorem svRestarted_effect (ld : Nat) : ∃ t, s.svRestarted ld = t ∧ t.fenced U.sv ld 0 = false ∧ (t.svst ld).restarting = false ∧
    t.get F.FENCE_SVKICK_WDREM ld 0 = 10 ∧ t.get F.LBIST_REC_VALID ld 8 = 0 ∧
    (∀ d mb, t.hasLd d = true → mb < 8 → t.get F.MB_MBCTL_SERVER d mb = t.serverOf d mb) := by
  let u := (((s.loadFw ld).setSv ld { (s.loadFw ld).svst ld with restarting := false }).unfence U.sv ld 0)
  let w := (u.put F.FENCE_SVKICK_WDREM ld 0 10).put F.LBIST_REC_VALID ld 8 0
  have hkick : w.get F.FENCE_SVKICK_WDREM ld 0 = 10 :=
    (State.get_put_other _ _ _ _ _ _ _ _ (by decide)).trans ((State.get_put _ _ _ _ _ _ _).trans (if_pos ⟨rfl, rfl⟩))
  have hrec : w.get F.LBIST_REC_VALID ld 8 = 0 := (State.get_put _ _ _ _ _ _ _).trans (if_pos ⟨rfl, rfl⟩)
  have hsv : (w.svst ld).restarting = false := congrArg SvSt.restarting ((State.svst_setSv _ _ _ _).trans (if_pos rfl))
  refine ⟨w.moveLeases, rfl, ?_, ?_, ?_, ?_, fun d mb hd hmb => w.server_of_moved hd hmb⟩
  · exact (w.moveLeases_frame.same (State.fenced · U.sv ld 0)).trans (State.fenced_unfence _ U.sv ld 0)
  · exact (congrArg SvSt.restarting (w.moveLeases_frame.same (State.svst · ld))).trans hsv
  · exact (w.moveLeases_regs _ _ _ (by decide)).trans hkick
  · exact (w.moveLeases_regs _ _ _ (by decide)).trans hrec

/-! ### The loss of a logic die (R348, R356) -/

theorem raise_grows {k d i : Nat} (h : s.fenced k d i = true) (kind die idx reason : Nat) : (s.raise kind die idx reason).fenced k d i = true := by
  rw [State.fenced, State.fence_raise]
  split
  · rfl
  · exact h

theorem haltFenced_grows {k d i : Nat} (h : s.fenced k d i = true) (ld l : Nat) : (s.haltFenced ld l).fenced k d i = true := by
  have hlog : (s.logFence ld U.lane l 2).fenced k d i = true := (congrArg Fence.on (State.fence_congr (s.logFence_fences _ _ _ _) k d i)).trans h
  rw [State.haltFenced, State.fenced_fenceOn, hlog, Bool.or_true]

theorem fenceLane_fences (ld l reason : Nat) : FencesWithin [U.inst, U.lane] s (s.fenceLane ld l reason) := by
  cases h : s.fenced U.lane ld l
  · obtain ⟨u, hhalt, hu⟩ := (s.raise U.lane ld l reason).haltLane_loss ld l
    have hset : FencesWithin [U.inst, U.lane] u ((s.raise U.lane ld l reason).haltLane ld l) := hu ▸ .ofEq rfl
    have hloss {s t : State} (h : Loss s t) : FencesWithin [U.inst, U.lane] s t := (FencesWithin.ofLoss h).wider (by decide)
    exact .after (hloss (s.fenceLane_loss h reason)) (.after hset (.after (hloss hhalt) (.raise _ _ _ _ _ (by decide))))
  · have hlog (s : State) : FencesWithin [U.inst, U.lane] s (s.logFence ld U.lane l 2) := .ofEq (s.logFence_fences _ _ _ _)
    have hhalt (s : State) : FencesWithin [U.inst, U.lane] s (s.haltFenced ld l) := .after (.setFence _ _ _ _ _ (by decide)) (hlog s)
    rw [State.fenceLane, if_pos h]
    exact .after (.raise _ _ _ _ _ (by decide)) (.on fun _ => hhalt _)

theorem fenceLane_grows {d i : Nat} (hf : s.fenced U.lane d i = true) (ld l reason : Nat) : (s.fenceLane ld l reason).fenced U.lane d i = true := by
  cases h : s.fenced U.lane ld l
  · obtain ⟨u, hhalt, hu⟩ := (s.raise U.lane ld l reason).haltLane_loss ld l
    have hset : FencesWithin [U.inst] u ((s.raise U.lane ld l reason).haltLane ld l) := hu ▸ .ofEq rfl
    exact ((FencesWithin.after (.ofLoss (s.fenceLane_loss h reason)) (.after hset (.ofLoss hhalt))).fenced (by decide)).trans
      (s.raise_grows hf _ _ _ _)
  · rw [State.fenceLane, if_pos h]
    refine State.raise_grows _ ?_ _ _ _ _
    cases decide (reason = 2)
    · exact hf
    · exact s.haltFenced_grows hf ld l

theorem fenceSv_fences (ld reason : Nat) : FencesWithin [U.inst, U.sv] s (s.fenceSv ld reason) := by
  cases h : s.fenced U.sv ld 0
  · obtain ⟨v, -, he⟩ := s.fenceSv_of_up h reason
    have hset (s : State) : FencesWithin [U.inst, U.sv] s ((s.setSv ld v).put F.FENCE_SVKICK_WDREM ld 0 0) := .ofEq rfl
    rw [he]
    exact .after ((State.stopSv_fences _ ld).wider (by decide)) (.after (hset _) (.raise _ _ _ _ _ (by decide)))
  · rw [State.fenceSv, if_pos h]
    exact .raise _ _ _ _ _ (by decide)

theorem fenceEngine_fences (ld reason : Nat) : FencesWithin [U.inst, U.engine, U.port] s (s.fenceEngine ld reason) := by
  have hport (s : State) (p : Nat) : FencesWithin [U.inst, U.engine, U.port] s (s.fencePort ld p reason) :=
    (s.fencePort_fences ld p reason).wider (by decide)
  have hput (s : State) : FencesWithin [U.inst, U.engine, U.port] s (s.put F.TICK_TSTAT_HOLDOVER ld 0 1) := .ofEq rfl
  unfold State.fenceEngine
  exact .ite (.raise _ _ _ _ _ (by decide)) (.after (.on fun _ => hput _) (.after (hport _ _) (.after (hport _ _) (.raise _ _ _ _ _ (by decide)))))

theorem fenceLink_fences (ld k reason : Nat) : FencesWithin [U.inst, U.link] s (s.fenceLink ld k reason) := by
  have hput (s : State) : FencesWithin [U.inst, U.link] s (s.putB F.DIEBR_LINK_MONITOR ld k true) := .ofEq rfl
  unfold State.fenceLink
  exact .on fun _ => .after (.on fun _ => (FencesWithin.ofLoss (State.revoke_loss _ _ _ _)).wider (by decide))
    (.after (hput _) (.raise _ _ _ _ _ (by decide)))

theorem fenceLink_grows {d i : Nat} (hf : s.fenced U.link d i = true) (ld k reason : Nat) : (s.fenceLink ld k reason).fenced U.link d i = true := by
  have hput (s : State) : FencesWithin [U.inst] s (s.putB F.DIEBR_LINK_MONITOR ld k true) := .ofEq rfl
  have hrest (s : State) (c : Bool) : FencesWithin [U.inst] s ((s.putB F.DIEBR_LINK_MONITOR ld k true).on c fun s => s.revoke ld 0x14 true) :=
    .after (.on fun _ => .ofLoss (State.revoke_loss _ _ _ _)) (hput _)
  unfold State.fenceLink
  cases s.fenced U.link ld k
  · exact ((hrest _ _).fenced (by decide)).trans (s.raise_grows hf _ _ _ _)
  · exact hf

theorem bistFence_release (die kind idx : Nat) : Release s (s.bistFence die kind idx) := by
  have hend (s : State) (e fstatus result : Nat) : Release s (s.bistJobEnd die e fstatus result) :=
    .after (.setSv _ _ rfl) (.each (fun _ _ _ => State.endJob_release _ _ _ _ _) _)
  unfold State.bistFence
  exact .on fun _ => .after (.on fun _ => hend _ _ _ _) (.after (State.cutBist_release _ _ _ _) (.put _ _ _ _ _ (by decide) (by decide)))

theorem raise_link_release (die idx reason : Nat) : Release s (s.raise U.link die idx reason) := by
  have hon (s : State) : Release s (s.fenceOn U.link die idx reason) := .same rfl rfl
  have hput (s : State) : Release s (s.countWrap F.FENCE_FSTAT_LOGCNT die 0) := .put _ _ _ _ _ (by decide) (by decide)
  have hflog (s : State) (l : Store (List LogEntry)) : Release s { s with flog := l } := .same rfl rfl
  have hlog (s : State) : Release s (s.logFence die U.link idx reason) := by
    unfold State.logFence
    exact .after (.on fun _ => hput _) (hflog _ _)
  unfold State.raise
  exact .after (State.bistFence_release _ _ _ _) (.on fun _ => .after (State.onFence_release _ (by decide) (by decide) _ _)
    (.after (hlog _) (hon _)))

theorem fenceLink_release (ld k reason : Nat) : Release s (s.fenceLink ld k reason) := by
  unfold State.fenceLink
  exact .on fun _ => .after (.on fun _ => State.revoke_release _ _ _ _)
    (.after (.put _ _ _ _ _ (by decide) (by decide)) (State.raise_link_release _ _ _ _))

/-- A logic die as its fence leaves it, before its units. -/
def logicDown (ld reason : Nat) : State :=
  let by_ := if reason = 0x24 then 1 - ld else ld
  let sg := (s.fenceOn U.logic ld 0 reason).logFence by_ U.logic 0 reason
  let s0 := (sg.onFence (unitRegs U.logic) ld 0).on (sg.gate ld) fun s => s.gateFell ld
  s0.each (List.range 8) fun s n => s.onFence [.SYSCTL_VMAC] ld n

/-- Its lanes follow, then its supervisor and its ring engine, then its links. -/
def lanesDown (ld reason : Nat) : State := s.each (List.range 8) fun s l => s.fenceLane ld l reason

def linksDown (ld reason : Nat) : State := s.each (List.range 7) fun s k => s.fenceLink ld k reason

/-- A supervisor of a dead die neither restarts nor tests the scratchpad. -/
def svDead (ld : Nat) : State := (s.setSv ld { s.svst ld with restarting := false, dead := true }).tillerIdle ld

theorem fenceLogic_eq (ld reason : Nat) : s.fenceLogic ld reason = s.on (!s.fenced U.logic ld 0) fun s =>
    (((((s.logicDown ld reason).lanesDown ld reason).fenceSv ld reason).fenceEngine ld reason).svDead ld).linksDown ld reason := rfl

theorem logicDown_fence (ld reason : Nat) : (s.logicDown ld reason).fence U.logic ld 0 = s.raisedFence U.logic ld 0 reason := by
  have hlog (s : State) (d : Nat) : FencesWithin [] s (s.logFence d U.logic 0 reason) := .ofEq (s.logFence_fences _ _ _ _)
  have hfields (s : State) (rs : List Reg) (n : Nat) : FencesWithin [] s (s.onFence rs ld n) := .ofEq (s.onFence_fences _ _ _)
  have hfell (s : State) : FencesWithin [] s (s.gateFell ld) := .ofEq ((s.gateFell_gateFall ld).same State.fences)
  have hrest : FencesWithin [] (s.fenceOn U.logic ld 0 reason) (s.logicDown ld reason) :=
    .after (.each (fun _ _ _ => hfields _ _ _) _) (.after (.on fun _ => hfell _) (.after (hfields _ _ _) (hlog _ _)))
  exact (hrest _ (by simp) _ _).trans (s.fence_fenceOn_self _ _ _ _)

theorem lanesDown_fences (ld reason : Nat) : FencesWithin [U.inst, U.lane] s (s.lanesDown ld reason) :=
  .each (fun _ _ _ => State.fenceLane_fences _ _ _ _) _

theorem lanesDown_fenced (ld reason : Nat) {l : Nat} (h : l < 8) : (s.lanesDown ld reason).fenced U.lane ld l = true :=
  State.each_sets (op := fun s l => s.fenceLane ld l reason) (P := fun s => s.fenced U.lane ld l = true) (List.mem_range.2 h)
    (fun s => s.fenceLane_fenced ld l reason) (fun s k hs => s.fenceLane_grows hs ld k reason) s

theorem linksDown_fences (ld reason : Nat) : FencesWithin [U.inst, U.link] s (s.linksDown ld reason) :=
  .each (fun _ _ _ => State.fenceLink_fences _ _ _ _) _

theorem linksDown_fenced (ld reason : Nat) {k : Nat} (h : k < 7) : (s.linksDown ld reason).fenced U.link ld k = true :=
  State.each_sets (op := fun s k => s.fenceLink ld k reason) (P := fun s => s.fenced U.link ld k = true) (List.mem_range.2 h)
    (fun s => s.fenceLink_fenced ld k reason) (fun s n hs => s.fenceLink_grows hs ld n reason) s

theorem linksDown_release (ld reason : Nat) : Release s (s.linksDown ld reason) := .each (fun _ _ _ => State.fenceLink_release _ _ _ _) _

theorem svDead_fences (ld : Nat) : FencesWithin [] s (s.svDead ld) := .ofEq rfl

theorem svDead_restarting (ld : Nat) : ((s.svDead ld).svst ld).restarting = false :=
  congrArg SvSt.restarting ((State.svst_setSv _ _ _ _).trans (if_pos rfl))

/-- What the fence of a logic die does to the units of the die (R348). -/
theorem fenceLogic_effect {ld : Nat} (h : s.fenced U.logic ld 0 = false) (reason : Nat) : ∃ t, s.fenceLogic ld reason = t ∧
    t.fenced U.logic ld 0 = true ∧ (t.fence U.logic ld 0).reason = reason ∧ (∀ l < 8, t.fenced U.lane ld l = true) ∧
    t.fenced U.sv ld 0 = true ∧ t.fenced U.engine ld 0 = true ∧ (∀ k < 7, t.fenced U.link ld k = true) ∧
    (t.svst ld).restarting = false := by
  rw [State.fenceLogic_eq, h, Bool.not_false, State.on_true]
  have hdown := s.logicDown_fence ld reason
  generalize s.logicDown ld reason = u at hdown
  have hlanes := u.lanesDown_fences ld reason
  have hlane (l : Nat) := u.lanesDown_fenced ld reason (l := l)
  generalize u.lanesDown ld reason = v at hlanes hlane
  have hsvs := v.fenceSv_fences ld reason
  have hsv := v.fenceSv_fenced ld reason
  generalize v.fenceSv ld reason = w at hsvs hsv
  have hengines := w.fenceEngine_fences ld reason
  have hengine := w.fenceEngine_fenced ld reason
  generalize w.fenceEngine ld reason = x at hengines hengine
  have hdead := x.svDead_fences ld
  have hrest := x.svDead_restarting ld
  generalize x.svDead ld = y at hdead hrest
  have hlinks := y.linksDown_fences ld reason
  have hlogic : (y.linksDown ld reason).fence U.logic ld 0 = s.raisedFence U.logic ld 0 reason :=
    (hlinks _ (by decide) _ _).trans ((hdead _ (by simp) _ _).trans ((hengines _ (by decide) _ _).trans ((hsvs _ (by decide) _ _).trans
      ((hlanes _ (by decide) _ _).trans hdown))))
  refine ⟨_, rfl, congrArg Fence.on hlogic, congrArg Fence.reason hlogic, fun l hl => ?_, ?_, ?_, fun k hk => y.linksDown_fenced ld reason hk, ?_⟩
  · exact (hlinks.fenced (by decide)).trans ((hdead.fenced (by simp)).trans ((hengines.fenced (by decide)).trans ((hsvs.fenced (by decide)).trans (hlane l hl))))
  · exact (hlinks.fenced (by decide)).trans ((hdead.fenced (by simp)).trans ((hengines.fenced (by decide)).trans hsv))
  · exact (hlinks.fenced (by decide)).trans ((hdead.fenced (by simp)).trans hengine)
  · exact ((y.linksDown_release ld reason).restarting ld).trans hrest

theorem termsOff_stays {fd k : Nat} (h : s.get F.TERM_HSTAT_PENA (fdie fd) k = 0 ∧ s.get F.TERM_HSTAT_HENA (fdie fd) k = 0) (e : Nat) :
    (s.termsOff e).get F.TERM_HSTAT_PENA (fdie fd) k = 0 ∧ (s.termsOff e).get F.TERM_HSTAT_HENA (fdie fd) k = 0 :=
  State.each_stays (P := fun s => s.get F.TERM_HSTAT_PENA (fdie fd) k = 0 ∧ s.get F.TERM_HSTAT_HENA (fdie fd) k = 0)
    (fun s t hs => by simp_all [State.switchOff]) h

/-- What the safe state of the part does (R356, R455). -/
theorem takeSafe_effect : ∃ t, s.takeSafe = t ∧ t.part.safe = true ∧ t.safeLow = true ∧
    (∀ fd ∈ t.fds, ∀ k < 64, t.get F.TERM_HSTAT_PENA (fdie fd) k = 0 ∧ t.get F.TERM_HSTAT_HENA (fdie fd) k = 0) ∧ t.fences = s.fences := by
  let u : State := { s with part := { s.part with safe := true } }
  have hoff : Frame.fieldTerms.Holds u s.takeSafe := Frame.each (fun _ _ _ => State.termsOff_frame _ _) _
  have hsafe : s.takeSafe.part.safe = true := congrArg PartSt.safe (hoff.same State.part)
  have hlow : s.takeSafe.safeLow = true := by
    unfold State.safeLow State.partSafe
    rw [hsafe]
    rfl
  refine ⟨_, rfl, hsafe, hlow, fun fd hfd k hk => ?_, hoff.same State.fences⟩
  let off (s : State) : Prop := s.get F.TERM_HSTAT_PENA (fdie fd) k = 0 ∧ s.get F.TERM_HSTAT_HENA (fdie fd) k = 0
  have hfd' : fd ∈ u.fds := (hoff.same State.fds) ▸ hfd
  exact State.each_sets (P := off) hfd' (fun s => s.get_termsOff hk) (fun s e hs => s.termsOff_stays hs e) u

end State

/-- Settles O49: each event runs the fence or the return of its supervisor, or the fence of its die. -/
theorem supervisorsStopAndReturn : Obligations.SupervisorsStopAndReturn := by
  refine ⟨fun s m ld hld hw => ⟨fun hf => ?kick, fun hf => ?held⟩, fun s ld hld hh hr hf => ?expiry, fun s ld hld hr hd hf hst => ?done,
    fun s ld hld hother hv ho hf => ?lost, fun s ld hld hno => ?safe⟩
  case kick => exact (State.answer_of hld rfl).trans (congrArg _ ((asWrite_admitted hw).trans (by rw [hf]; rfl)))
  case held => exact (State.answer_of hld rfl).trans (congrArg _ ((asWrite_admitted hw).trans (by rw [hf]; rfl)))
  case expiry =>
    obtain ⟨t, he, ht⟩ := s.fenceSv_effect hf 0x0B
    exact ⟨t, (State.answer_of hld (by rw [hh, hr, hf]; rfl)).trans (congrArg _ he), ht⟩
  case done =>
    obtain ⟨t, he, ht⟩ := s.svRestarted_effect ld
    exact ⟨t, (State.answer_of hld (by rw [hr, hd, hf, hst]; rfl)).trans (congrArg _ he), ht⟩
  case lost =>
    obtain ⟨t, he, ht⟩ := s.fenceLogic_effect hf 0x24
    refine ⟨t, (State.answer_of hld rfl).trans (congrArg _ (Eq.trans ?_ he)), ht⟩
    rw [State.loseLogicDie, hother, ho, decide_eq_true hv]
    rfl
  case safe =>
    obtain ⟨t, he, ht⟩ := s.takeSafe_effect
    refine ⟨t, (State.answer_of hld rfl).trans (congrArg _ (Eq.trans (if_neg ?_) he)), ht⟩
    obtain h | h | h := hno <;> simp [h]

end Sys2Proof.Machine
end

section
/-! SUPPORT. Segment power and the tiller (R382 to R385). -/

namespace Sys2Proof.Machine

namespace State

variable (s : State)

/-! ### Segment power (R382) -/

theorem spmSeg_lt (off : Nat) : spmSeg off < 4 := Nat.mod_lt _ (by decide)

/-- Bit `k` of CLEARING after a write of PWR.OFF. -/
theorem clearing_setSegments (ld off : Nat) {k : Nat} (hk : k < 4) : ((s.setSegments ld off).get F.SPM_PWR_CLEARING ld 0).testBit k =
    (((s.get F.SPM_PWR_CLEARING ld 0).testBit k || (2 * (s.get F.SPM_PWR_OFF ld 0 - (s.get F.SPM_PWR_OFF ld 0 &&& off))).testBit k) &&
      !(2 * off).testBit k) := by
  have hw : k < F.SPM_PWR_CLEARING.w := hk
  unfold State.setSegments
  dsimp only
  rw [State.get_put, if_pos ⟨rfl, rfl⟩, Nat.testBit_mod_two_pow, decide_eq_true hw, Bool.true_and, testBit_sub_and, Nat.testBit_or]

theorem off_setSegments (ld off : Nat) {k : Nat} (hk : k < 3) : ((s.setSegments ld off).get F.SPM_PWR_OFF ld 0).testBit k = off.testBit k := by
  have hw : k < F.SPM_PWR_OFF.w := hk
  unfold State.setSegments
  dsimp only
  rw [State.get_put_other _ _ _ _ _ _ _ _ (by decide), State.get_put, if_pos ⟨rfl, rfl⟩, Nat.testBit_mod_two_pow, decide_eq_true hw,
    Bool.true_and]

theorem setSegments_fields (ld off : Nat) : OnlyFields s (s.setSegments ld off) [(F.SPM_PWR_OFF, ld, 0), (F.SPM_PWR_CLEARING, ld, 0)] :=
  change_regs_iff.1 ((Change.put _ _ (by simp)).trans (.put _ _ (by simp)))

theorem testBit_two_mul {n k : Nat} (hk : 0 < k) : (2 * n).testBit k = n.testBit (k - 1) := by
  obtain ⟨k, rfl⟩ : ∃ j, k = j + 1 := ⟨k - 1, by omega⟩
  rw [Nat.mul_comm, Nat.testBit_succ, Nat.mul_div_cancel _ (by decide), Nat.add_sub_cancel]

/-- An access to a segment whose OFF or CLEARING bit is set meets kind 4. -/
theorem accessKind_of_off {ld off seg : Nat} (hoff : spmSeg off = seg) (hseg : seg ≠ 0) (h : (s.get F.SPM_PWR_OFF ld 0).testBit (seg - 1) = true) :
    s.accessKind ld off = 4 := by
  rw [State.accessKind, State.segDown, hoff, Nat.testBit_or, testBit_two_mul (by omega), h]
  rfl

theorem accessKind_of_clearing {ld off seg : Nat} (hoff : spmSeg off = seg) (h : (s.get F.SPM_PWR_CLEARING ld 0).testBit seg = true) :
    s.accessKind ld off = 4 := by
  rw [State.accessKind, State.segDown, hoff, Nat.testBit_or, h, Bool.or_true]
  rfl

/-- What switching a segment off does. -/
theorem segmentOff_effect (ld : Nat) {seg : Nat} (hseg : seg < 4) (h0 : seg ≠ 0) (b : Bool) :
    ∃ t, (s.setSegments ld (s.get F.SPM_PWR_OFF ld 0 ||| 2 ^ (seg - 1))).respond b = t ∧
      (t.get F.SPM_PWR_OFF ld 0).testBit (seg - 1) = true ∧
      (∀ k < 3, k ≠ seg - 1 → (t.get F.SPM_PWR_OFF ld 0).testBit k = (s.get F.SPM_PWR_OFF ld 0).testBit k) ∧
      (∀ off, spmSeg off = seg → t.accessKind ld off = 4) ∧
      OnlyFields { s with busErr := t.busErr } t [(F.SPM_PWR_OFF, ld, 0), (F.SPM_PWR_CLEARING, ld, 0)] := by
  have hbit {k : Nat} (hk : k < 3) : (((s.setSegments ld (s.get F.SPM_PWR_OFF ld 0 ||| 2 ^ (seg - 1))).respond b).get F.SPM_PWR_OFF ld 0).testBit k =
      ((s.get F.SPM_PWR_OFF ld 0).testBit k || decide (seg - 1 = k)) := by
    refine (s.off_setSegments ld _ hk).trans ?_
    rw [Nat.testBit_or, Nat.testBit_two_pow]
  have hself := (hbit (k := seg - 1) (by omega)).trans (by rw [decide_eq_true rfl, Bool.or_true])
  refine ⟨_, rfl, hself, fun k hk hne => ?_, fun off hoff => State.accessKind_of_off _ hoff h0 hself, ?_⟩
  · rw [hbit hk, decide_eq_false (Ne.symm hne), Bool.or_false]
  · exact onlyFields_respond (s.setSegments_fields ld _) b

/-- What switching a segment on does: it clears. -/
theorem segmentOn_effect (ld : Nat) {seg : Nat} (hseg : seg < 4) (h0 : seg ≠ 0) (hoff : (s.get F.SPM_PWR_OFF ld 0).testBit (seg - 1) = true) (b : Bool) :
    ∃ t, (s.setSegments ld (s.get F.SPM_PWR_OFF ld 0 - (s.get F.SPM_PWR_OFF ld 0 &&& 2 ^ (seg - 1)))).respond b = t ∧
      (t.get F.SPM_PWR_OFF ld 0).testBit (seg - 1) = false ∧ (t.get F.SPM_PWR_CLEARING ld 0).testBit seg = true ∧
      (∀ off, spmSeg off = seg → t.accessKind ld off = 4) ∧
      OnlyFields { s with busErr := t.busErr } t [(F.SPM_PWR_OFF, ld, 0), (F.SPM_PWR_CLEARING, ld, 0)] := by
  have hleft : (s.get F.SPM_PWR_OFF ld 0 - (s.get F.SPM_PWR_OFF ld 0 &&& 2 ^ (seg - 1))).testBit (seg - 1) = false := by
    rw [testBit_sub_and, Nat.testBit_two_pow_self, Bool.not_true, Bool.and_false]
  have hclear : (((s.setSegments ld (s.get F.SPM_PWR_OFF ld 0 - (s.get F.SPM_PWR_OFF ld 0 &&& 2 ^ (seg - 1)))).respond b).get
      F.SPM_PWR_CLEARING ld 0).testBit seg = true := by
    refine (s.clearing_setSegments ld _ hseg).trans ?_
    rw [testBit_two_mul (by omega), testBit_two_mul (by omega), testBit_sub_and, hleft, hoff]
    simp
  exact ⟨_, rfl, (s.off_setSegments ld _ (by omega)).trans hleft, hclear, fun off ho => State.accessKind_of_clearing _ ho hclear,
    onlyFields_respond (s.setSegments_fields ld _) b⟩

/-- A byte after a segment's words became 0. -/
theorem byte_clearSegment (ld seg a : Nat) : (s.clearSegment ld seg).byte a =
    if ld * 2 ^ 28 + seg * 2 ^ 20 ≤ a ∧ a < ld * 2 ^ 28 + (seg + 1) * 2 ^ 20 then 0 else s.byte a := by
  refine (Store.get_filter (fun _ => 0) (fun k => !(decide (ld * 2 ^ 28 + seg * 2 ^ 20 ≤ k) && decide (k < ld * 2 ^ 28 + (seg + 1) * 2 ^ 20))) s.mem a).trans ?_
  by_cases h : ld * 2 ^ 28 + seg * 2 ^ 20 ≤ a ∧ a < ld * 2 ^ 28 + (seg + 1) * 2 ^ 20
  · rw [if_pos h, decide_eq_true h.1, decide_eq_true h.2]
    rfl
  · rw [if_neg h, ← Bool.decide_and, decide_eq_false h]
    rfl

theorem eccClass_clearSegment (ld seg : Nat) {off : Nat} (hlo : seg * 2 ^ 20 ≤ wordOff off) (hhi : wordOff off < (seg + 1) * 2 ^ 20) :
    (s.clearSegment ld seg).eccClass ld off = .good := by
  refine (Store.get_filter (fun _ => WordClass.good) (fun k => !(decide (ld * 2 ^ 22 + seg * 2 ^ 20 ≤ k) &&
    decide (k < ld * 2 ^ 22 + (seg + 1) * 2 ^ 20))) s.ecc (eccKey ld off)).trans ?_
  have h1 : ld * 2 ^ 22 + seg * 2 ^ 20 ≤ eccKey ld off := Nat.add_le_add_left hlo _
  have h2 : eccKey ld off < ld * 2 ^ 22 + (seg + 1) * 2 ^ 20 := Nat.add_lt_add_left hhi _
  rw [decide_eq_true h1, decide_eq_true h2]
  rfl

/-- What the end of a segment's clearing does. -/
theorem segmentCleared_effect (ld : Nat) {seg : Nat} (hseg : seg < 4) (h : (s.get F.SPM_PWR_CLEARING ld 0).testBit seg = true) :
    ∃ t, (s.clearSegment ld seg).put F.SPM_PWR_CLEARING ld 0 (s.get F.SPM_PWR_CLEARING ld 0 - 2 ^ seg) = t ∧
      (t.get F.SPM_PWR_CLEARING ld 0).testBit seg = false ∧
      (∀ off, off < 0x400000 → spmSeg off = seg → t.byte (ld * 2 ^ 28 + off) = 0 ∧ t.eccClass ld off = .good) ∧
      (∀ a, a < ld * 2 ^ 28 + seg * 2 ^ 20 ∨ ld * 2 ^ 28 + (seg + 1) * 2 ^ 20 ≤ a → t.byte a = s.byte a) := by
  refine ⟨_, rfl, ?_, fun off hoff hs => ⟨?_, ?_⟩, fun a ha => ?_⟩
  · rw [State.get_put, if_pos ⟨rfl, rfl⟩, Nat.testBit_mod_two_pow]
    have hand : s.get F.SPM_PWR_CLEARING ld 0 &&& 2 ^ seg = 2 ^ seg := by
      rw [Nat.and_two_pow, h]
      simp
    rw [← hand, testBit_sub_and, Nat.testBit_two_pow_self, Bool.not_true, Bool.and_false, Bool.and_false]
  · refine (s.byte_clearSegment ld seg _).trans (if_pos ?_)
    unfold spmSeg at hs
    omega
  · refine s.eccClass_clearSegment ld seg ?_ ?_
    all_goals
      unfold spmSeg at hs
      unfold wordOff
      omega
  · exact (s.byte_clearSegment ld seg a).trans (if_neg (by omega))

/-! ### Words that the tiller judges (R377, R383) -/

/-- Whether the repair of a word is due. -/
def repairDue (ld off : Nat) : Prop := (s.spmSt ld).repair.contains off = true

/-- The due repairs after a failing word. -/
def addRepair (rs : List Nat) (w : Nat) : List Nat := if rs.contains w then rs else rs ++ [w]

theorem addRepair_self (rs : List Nat) (w : Nat) : (addRepair rs w).contains w = true := by
  unfold addRepair
  split
  · assumption
  · simp

theorem addRepair_stays {rs : List Nat} {o : Nat} (h : rs.contains o = true) (w : Nat) : (addRepair rs w).contains o = true := by
  unfold addRepair
  split
  · exact h
  · simp at h ⊢
    exact .inl h

theorem rowFenced_of_loss {s t : State} (h : Loss s t) (ld off : Nat) : t.rowFenced ld off = s.rowFenced ld off := by
  unfold State.rowFenced State.flag
  rw [h.get (show F.SPM_FROW_FENCED.reg ∉ lossRegs by decide), h.get (show F.SPM_FROW_ROW.reg ∉ lossRegs by decide)]

theorem badWord_kept (ld off pri kind : Nat) : (s.badWord ld off pri kind).ecc = s.ecc ∧
    ((s.badWord ld off pri kind).spmSt ld).repair = addRepair (s.spmSt ld).repair (wordOff off) ∧
    ((s.badWord ld off pri kind).spmSt ld).saved = (s.spmSt ld).saved := by
  unfold State.badWord
  dsimp only
  generalize hu : (s.spmErr ld off pri kind _).count F.SPM_ECCSTAT_UECNT ld 0 = u
  have hecc : u.ecc = s.ecc := hu ▸ rfl
  have hspm : u.spmSt ld = s.spmSt ld := hu ▸ rfl
  have hinsts (s : State) (rs : List InstRec) : Frame.fieldFence.Holds s (s.each rs fun s r => s.fenceInst ld r.iid 0x0D) :=
    Frame.each (fun _ _ _ => State.fenceInst_frame _ _ _ _) _
  rw [(hinsts _ _).same State.ecc, (hinsts _ _).same (State.spmSt · ld), State.spmSt_setSpm, if_pos rfl, hspm]
  exact ⟨hecc, rfl, rfl⟩

theorem eccClass_badWord (ld off pri kind ld' off' : Nat) : (s.badWord ld off pri kind).eccClass ld' off' = s.eccClass ld' off' :=
  congrArg (fun e => Store.get (fun _ => WordClass.good) e (eccKey ld' off')) (s.badWord_kept ld off pri kind).1

theorem repairDue_badWord (ld off pri kind : Nat) : (s.badWord ld off pri kind).repairDue ld (wordOff off) := by
  rw [State.repairDue, (s.badWord_kept ld off pri kind).2.1]
  exact addRepair_self _ _

theorem badWord_repairDue {ld o : Nat} (h : s.repairDue ld o) (off pri kind : Nat) : (s.badWord ld off pri kind).repairDue ld o := by
  rw [State.repairDue, (s.badWord_kept ld off pri kind).2.1]
  exact addRepair_stays h _

theorem eccClass_setEcc (ld off : Nat) (c : WordClass) (ld' off' : Nat) :
    (s.setEcc ld off c).eccClass ld' off' = if eccKey ld' off' = eccKey ld off then c else s.eccClass ld' off' := Store.get_set _ _ _ _

/-- The class of a word that the save has judged. -/
def judged (fenced : Bool) (c : WordClass) : WordClass := if fenced then c else match c with | .corrected => .good | c => c

theorem judged_idem (f : Bool) (c : WordClass) : judged f (judged f c) = judged f c := by
  cases f <;> cases c <;> rfl

theorem eccClass_tillerWord_self (ld off : Nat) :
    (s.tillerWord ld off).eccClass ld off = judged (s.rowFenced ld off) (s.eccClass ld off) := by
  unfold State.tillerWord
  cases s.rowFenced ld off
  · rw [Bool.not_false, State.on_true]
    cases h : s.eccClass ld off
    · exact h
    · exact (State.eccClass_setEcc _ _ _ _ _ _).trans (if_pos rfl)
    · exact h
    · exact (s.eccClass_badWord _ _ _ _ _ _).trans h
  · rfl

theorem eccClass_tillerWord_other {ld off off' : Nat} (hk : eccKey ld off' ≠ eccKey ld off) :
    (s.tillerWord ld off).eccClass ld off' = s.eccClass ld off' := by
  unfold State.tillerWord
  refine State.on_same (State.eccClass · ld off') ?_
  split
  · exact (State.eccClass_setEcc _ _ _ _ _ _).trans (if_neg hk)
  · exact s.eccClass_badWord _ _ _ _ _ _
  · rfl

theorem tillerWord_repairDue {ld o : Nat} (h : s.repairDue ld o) (off : Nat) : (s.tillerWord ld off).repairDue ld o := by
  unfold State.tillerWord
  cases s.rowFenced ld off
  · rw [Bool.not_false, State.on_true]
    split
    · exact h
    · exact s.badWord_repairDue h off 22 1
    · exact h
  · exact h

theorem repairDue_tillerWord {ld off : Nat} (hrow : s.rowFenced ld off = false) (h : s.eccClass ld off = .uncorrectable) :
    (s.tillerWord ld off).repairDue ld (wordOff off) := by
  unfold State.tillerWord
  rw [hrow, Bool.not_false, State.on_true, h]
  exact s.repairDue_badWord ld off 22 1

/-- The words of a region that a save has still to judge. -/
def toSave (ld : Nat) : List Nat :=
  (List.range (64 - (s.spmSt ld).saved)).map fun j => 256 * s.get F.SPM_TSTAT_REGION ld 0 + 4 * ((s.spmSt ld).saved + j)

theorem mem_toSave {ld k : Nat} (hk : k < 64) (h : (s.spmSt ld).saved ≤ k) : 256 * s.get F.SPM_TSTAT_REGION ld 0 + 4 * k ∈ s.toSave ld :=
  List.mem_map.2 ⟨k - (s.spmSt ld).saved, List.mem_range.2 (by omega), by omega⟩

theorem toSave_aligned {ld off : Nat} (h : off ∈ s.toSave ld) : off % 4 = 0 := by
  obtain ⟨j, -, rfl⟩ := List.mem_map.1 h
  omega

theorem wordOff_of_aligned {off : Nat} (h : off % 4 = 0) : wordOff off = off := by
  unfold wordOff
  omega

theorem eccKey_inj {ld a b : Nat} (ha : a % 4 = 0) (hb : b % 4 = 0) (h : eccKey ld a = eccKey ld b) : a = b := by
  unfold eccKey at h
  rw [wordOff_of_aligned ha, wordOff_of_aligned hb] at h
  omega

/-- What the words judged one after another do to one of them. -/
theorem eccClass_words {ld off : Nat} {l : List Nat} (hl : ∀ o ∈ l, o % 4 = 0) (h : off ∈ l) :
    (s.each l fun s off => s.tillerWord ld off).eccClass ld off = judged (s.rowFenced ld off) (s.eccClass ld off) := by
  have hrow (s : State) (o : Nat) : (s.tillerWord ld o).rowFenced ld off = s.rowFenced ld off := State.rowFenced_of_loss (s.tillerWord_loss ld o) ld off
  have hpair := State.each_idem (l := l) (op := fun s off => s.tillerWord ld off) (fun s => (s.rowFenced ld off, s.eccClass ld off))
    (fun p => (p.1, judged p.1 p.2)) (fun p => by rw [judged_idem]) h (fun s => Prod.ext (hrow s off) (s.eccClass_tillerWord_self ld off))
    (fun s o ho hne => Prod.ext (hrow s o) (s.eccClass_tillerWord_other fun hk => hne (eccKey_inj (hl _ h) (hl _ ho) hk).symm)) s
  exact congrArg Prod.snd hpair

theorem repairDue_words {ld off : Nat} {l : List Nat} (hl : ∀ o ∈ l, o % 4 = 0) (h : off ∈ l) (hrow : s.rowFenced ld off = false)
    (hc : s.eccClass ld off = .uncorrectable) : (s.each l fun s off => s.tillerWord ld off).repairDue ld off := by
  induction l generalizing s with
  | nil => cases h
  | cons o l ih =>
    by_cases ho : o = off
    · subst ho
      have hdue := s.repairDue_tillerWord hrow hc
      rw [wordOff_of_aligned (hl _ h)] at hdue
      exact State.each_stays (l := l) (s := s.tillerWord ld o) (P := (State.repairDue · ld o)) (fun s x (hs : s.repairDue ld o) => s.tillerWord_repairDue hs x) hdue
    · refine ih (s.tillerWord ld o) (fun x hx => hl x (List.mem_cons_of_mem _ hx)) ((List.mem_cons.1 h).resolve_left (Ne.symm ho)) ?_ ?_
      · exact (State.rowFenced_of_loss (s.tillerWord_loss ld o) ld off).trans hrow
      · refine (s.eccClass_tillerWord_other fun hk => ho ?_).trans hc
        exact (eccKey_inj (hl _ h) (hl _ (List.mem_cons_self ..)) hk).symm

/-- The state in which a save has begun its last words. -/
def saving (ld : Nat) : State := s.setSpm ld { s.spmSt ld with saved := max (s.spmSt ld).saved 64 }

theorem tillerSave_eq (ld : Nat) : s.tillerSave ld 64 = (s.saving ld).each (s.toSave ld) fun s off => s.tillerWord ld off := rfl

theorem saving_repairDue {ld o : Nat} (h : s.repairDue ld o) : (s.saving ld).repairDue ld o := by
  unfold State.repairDue State.saving
  rw [State.spmSt_setSpm, if_pos rfl]
  exact h

/-- The failing words of a test that the region holds in good rows. -/
def failing (ld : Nat) (bad : List Nat) : List Nat :=
  bad.dedup.filter fun off => decide (spmRegion off = s.get F.SPM_TSTAT_REGION ld 0) && decide (off % 4 = 0) && !s.rowFenced ld off

theorem tillerFails_eq (ld : Nat) (bad : List Nat) : s.tillerFails ld bad = s.each (s.failing ld bad) fun s off => s.badWord ld off 22 2 := rfl

theorem tillerFails_loss (ld : Nat) (bad : List Nat) : Loss s (s.tillerFails ld bad) := .each (fun _ _ _ => State.badWord_loss _ _ _ _ _) _

theorem tillerFails_repairDue {ld o : Nat} (h : s.repairDue ld o) (bad : List Nat) : (s.tillerFails ld bad).repairDue ld o :=
  State.each_stays (P := (State.repairDue · ld o)) (fun s x hs => s.badWord_repairDue hs x 22 2) h

theorem repairDue_tillerFails {ld off : Nat} {bad : List Nat} (h : off ∈ s.failing ld bad) : (s.tillerFails ld bad).repairDue ld off := by
  have hal : off % 4 = 0 := by
    obtain ⟨-, hf⟩ := List.mem_filter.1 h
    simpa using (Bool.and_eq_true_iff.1 (Bool.and_eq_true_iff.1 hf).1).2
  refine State.each_sets (op := fun s off => s.badWord ld off 22 2) (P := (State.repairDue · ld off)) h (fun s => ?_)
    (fun s x hs => s.badWord_repairDue hs x 22 2) s
  have hdue := s.repairDue_badWord ld off 22 2
  rwa [wordOff_of_aligned hal] at hdue

theorem eccClass_tillerFails (ld : Nat) (bad : List Nat) (off : Nat) : (s.tillerFails ld bad).eccClass ld off = s.eccClass ld off :=
  State.each_same (State.eccClass · ld off) (fun s _ _ => s.eccClass_badWord _ _ _ _ _ _) s

/-! ### Attempts of the tiller (R383 to R385) -/

/-- The state in which an attempt has been judged. -/
def tillerJudged (ld : Nat) (bad : List Nat) : State := (s.tillerSave ld 64).tillerFails ld bad

/-- An attempt that has ended on region `r`. -/
def tillerEnded (ld r : Nat) : State :=
  ((s.tillerIdle ld).put F.SPM_TSTAT_ABORTS ld 0 0).put F.SPM_TSTAT_REGION ld 0 ((r + 1) % 16384)

theorem tillerDone_eq (ld : Nat) (bad : List Nat) : s.tillerDone ld bad =
    ((s.tillerJudged ld bad).tillerEnded ld (s.get F.SPM_TSTAT_REGION ld 0)).on (decide (s.get F.SPM_TSTAT_REGION ld 0 = 16383))
      fun s => s.countWrap F.SPM_TCNT_SWEEPS ld 0 := rfl

theorem tillerJudged_loss (ld : Nat) (bad : List Nat) : Loss s (s.tillerJudged ld bad) :=
  .after (State.tillerFails_loss _ _ _) (State.tillerSave_loss _ _ _)

/-- The registers that the judgement of words may change. -/
def judgeRegs : List Reg := fieldStopRegs ++ [.SPM_ECCSTAT, .SPM_ERRLOG0, .SPM_ERRLOG1]

theorem badWord_regs (ld off pri kind : Nat) : RegsWithin judgeRegs s (s.badWord ld off pri kind) := by
  have hput (s : State) {F : Fld} (v : Nat) (h : F.reg ∈ judgeRegs) : RegsWithin judgeRegs s (s.put F ld 0 v) := .put _ _ _ _ _ h
  have hset (s : State) (m : SpmSt) : RegsWithin judgeRegs s (s.setSpm ld m) := .ofRegs _ rfl
  have hinst (s : State) (iid : Nat) : RegsWithin judgeRegs s (s.fenceInst ld iid 0x0D) :=
    (s.fenceInst_fieldStop ld iid 0x0D).wider fun r hr => List.mem_append_left _ hr
  unfold State.badWord
  refine .after (.each (fun s r _ => hinst s r.iid) _) (.after (hset _ _) (.after (hput _ _ ?_) (.after (hput _ _ ?_) (.after (hput _ _ ?_)
    (.after (hput _ _ ?_) (.after (hput _ _ ?_) (hput _ _ ?_))))))) <;> decide

theorem tillerWord_regs (ld off : Nat) : RegsWithin judgeRegs s (s.tillerWord ld off) := by
  have hcount : RegsWithin judgeRegs s (s.count F.SPM_ECCSTAT_CECNT ld 0) := .put _ _ _ _ _ (by decide)
  have hset (s : State) : RegsWithin judgeRegs s (s.setEcc ld off .good) := .ofRegs _ rfl
  unfold State.tillerWord
  refine .on ?_
  split
  · exact .after (hset _) hcount
  · exact s.badWord_regs _ _ _ _
  · exact .refl _ _

theorem tillerSave_regs (ld n : Nat) : RegsWithin judgeRegs s (s.tillerSave ld n) := by
  have hset (s : State) (m : SpmSt) : RegsWithin judgeRegs s (s.setSpm ld m) := .ofRegs _ rfl
  exact .after (.each (fun s o _ => s.tillerWord_regs ld o) _) (hset _ _)

theorem tillerJudged_regs (ld : Nat) (bad : List Nat) : RegsWithin judgeRegs s (s.tillerJudged ld bad) :=
  .after (.each (fun s o _ => s.badWord_regs ld o 22 2) _) (s.tillerSave_regs ld 64)

/-- What the judgement of a region does to one of its words in a good row. -/
theorem tillerJudged_word (ld : Nat) (bad : List Nat) {k : Nat} (hk : k < 64)
    (hrow : s.rowFenced ld (256 * s.get F.SPM_TSTAT_REGION ld 0 + 4 * k) = false) :
    ((s.spmSt ld).saved ≤ k → s.eccClass ld (256 * s.get F.SPM_TSTAT_REGION ld 0 + 4 * k) = .corrected →
      (s.tillerJudged ld bad).eccClass ld (256 * s.get F.SPM_TSTAT_REGION ld 0 + 4 * k) = .good) ∧
    (((s.spmSt ld).saved ≤ k ∧ s.eccClass ld (256 * s.get F.SPM_TSTAT_REGION ld 0 + 4 * k) = .uncorrectable) ∨
        256 * s.get F.SPM_TSTAT_REGION ld 0 + 4 * k ∈ bad →
      (s.tillerJudged ld bad).repairDue ld (256 * s.get F.SPM_TSTAT_REGION ld 0 + 4 * k)) := by
  have hloss := s.tillerSave_loss ld 64
  have hregion : (s.tillerSave ld 64).get F.SPM_TSTAT_REGION ld 0 = s.get F.SPM_TSTAT_REGION ld 0 := s.tillerSave_regs ld 64 _ _ _ (by decide)
  refine ⟨fun hs hc => ?_, fun h => ?_⟩
  · refine (State.eccClass_tillerFails _ ld bad _).trans ?_
    rw [State.tillerSave_eq]
    refine ((s.saving ld).eccClass_words (fun o => s.toSave_aligned) (s.mem_toSave hk hs)).trans ?_
    rw [show (s.saving ld).rowFenced ld _ = false from hrow, show (s.saving ld).eccClass ld _ = _ from hc]
    rfl
  · obtain ⟨hs, hc⟩ | hbad := h
    · refine State.tillerFails_repairDue _ ?_ bad
      rw [State.tillerSave_eq]
      exact (s.saving ld).repairDue_words (fun o => s.toSave_aligned) (s.mem_toSave hk hs) hrow hc
    · refine State.repairDue_tillerFails _ (List.mem_filter.2 ⟨List.mem_dedup.2 hbad, ?_⟩)
      rw [hregion, State.rowFenced_of_loss hloss, hrow, decide_eq_true (by unfold spmRegion; omega), decide_eq_true (by omega)]
      rfl

theorem tillerEnded_effect (ld r : Nat) : ((s.tillerEnded ld r).spmSt ld).busy = false ∧
    (s.tillerEnded ld r).get F.SPM_TSTAT_ABORTS ld 0 = 0 ∧ (s.tillerEnded ld r).get F.SPM_TSTAT_HOLD ld 0 = 0 ∧
    (s.tillerEnded ld r).get F.SPM_TSTAT_REGION ld 0 = (r + 1) % 16384 ∧
    (s.tillerEnded ld r).get F.SPM_TCNT_SWEEPS ld 0 = s.get F.SPM_TCNT_SWEEPS ld 0 ∧
    (s.tillerEnded ld r).ecc = s.ecc ∧ ((s.tillerEnded ld r).spmSt ld).repair = (s.spmSt ld).repair := by
  have hother (s : State) {G H : Fld} (v : Nat) (h : G.same H = false) : (s.put G ld 0 v).get H ld 0 = s.get H ld 0 := s.get_put_other _ _ _ _ _ _ _ h
  have hself (s : State) (G : Fld) (v : Nat) : (s.put G ld 0 v).get G ld 0 = v % 2 ^ G.w := (s.get_put _ _ _ _ _ _).trans (if_pos ⟨rfl, rfl⟩)
  have hspm : (s.tillerEnded ld r).spmSt ld = { s.spmSt ld with
      busy := false, prog := 0, saved := 0, waits := (s.spmSt ld).waits.map fun w => { w with stuck := false } } :=
    (State.spmSt_setSpm _ _ _ _).trans (if_pos rfl)
  rw [hspm]
  refine ⟨rfl, ?_, ?_, ?_, ?_, rfl, rfl⟩
  · exact (hother _ _ (by decide)).trans (hself _ _ _)
  · exact (hother _ _ (by decide)).trans ((hother _ _ (by decide)).trans (hself _ _ _))
  · exact (hself _ _ _).trans (Nat.mod_eq_of_lt (Nat.mod_lt _ (by decide)))
  · exact (hother _ _ (by decide)).trans ((hother _ _ (by decide)).trans ((hother _ _ (by decide)).trans (hother _ _ (by decide))))

/-- What the end of an attempt does. -/
theorem tillerDone_effect (ld : Nat) (bad : List Nat) : ((s.tillerDone ld bad).spmSt ld).busy = false ∧
    (s.tillerDone ld bad).get F.SPM_TSTAT_ABORTS ld 0 = 0 ∧ (s.tillerDone ld bad).get F.SPM_TSTAT_HOLD ld 0 = 0 ∧
    (s.tillerDone ld bad).get F.SPM_TSTAT_REGION ld 0 = (s.get F.SPM_TSTAT_REGION ld 0 + 1) % 16384 ∧
    (s.get F.SPM_TSTAT_REGION ld 0 ≠ 16383 → (s.tillerDone ld bad).get F.SPM_TCNT_SWEEPS ld 0 = s.get F.SPM_TCNT_SWEEPS ld 0) ∧
    (s.get F.SPM_TSTAT_REGION ld 0 = 16383 → (s.tillerDone ld bad).get F.SPM_TCNT_SWEEPS ld 0 = (s.get F.SPM_TCNT_SWEEPS ld 0 + 1) % 2 ^ 16) ∧
    (∀ k < 64, let off := 256 * s.get F.SPM_TSTAT_REGION ld 0 + 4 * k
      (s.rowFenced ld off = false → (s.spmSt ld).saved ≤ k → s.eccClass ld off = .corrected → (s.tillerDone ld bad).eccClass ld off = .good) ∧
      (s.rowFenced ld off = false → ((s.spmSt ld).saved ≤ k ∧ s.eccClass ld off = .uncorrectable) ∨ off ∈ bad →
        ((s.tillerDone ld bad).spmSt ld).repair.contains off = true)) := by
  have hsweeps := s.tillerJudged_regs ld bad F.SPM_TCNT_SWEEPS ld 0 (by decide)
  have hword (k : Nat) (hk : k < 64) := s.tillerJudged_word ld bad hk
  rw [State.tillerDone_eq]
  generalize s.tillerJudged ld bad = u at hsweeps hword
  obtain ⟨hbusy, habort, hhold, hregion, hsame, hecc, hrepair⟩ := u.tillerEnded_effect ld (s.get F.SPM_TSTAT_REGION ld 0)
  have hclass (off : Nat) : (u.tillerEnded ld (s.get F.SPM_TSTAT_REGION ld 0)).eccClass ld off = u.eccClass ld off :=
    congrArg (fun e => Store.get (fun _ => WordClass.good) e (eccKey ld off)) hecc
  generalize u.tillerEnded ld (s.get F.SPM_TSTAT_REGION ld 0) = v at hbusy habort hhold hregion hsame hrepair hclass
  have hcount (G : Fld) (h : F.SPM_TCNT_SWEEPS.same G = false) (c : Bool) :
      (v.on c fun s => s.countWrap F.SPM_TCNT_SWEEPS ld 0).get G ld 0 = v.get G ld 0 :=
    State.on_same (State.get · G ld 0) (v.get_put_other _ _ _ _ _ _ _ h)
  have hspm (c : Bool) : (v.on c fun s => s.countWrap F.SPM_TCNT_SWEEPS ld 0).spmSt ld = v.spmSt ld := State.on_same (State.spmSt · ld) rfl
  have hcls (c : Bool) (off : Nat) : (v.on c fun s => s.countWrap F.SPM_TCNT_SWEEPS ld 0).eccClass ld off = v.eccClass ld off :=
    State.on_same (State.eccClass · ld off) rfl
  refine ⟨(congrArg SpmSt.busy (hspm _)).trans hbusy, (hcount _ (by decide) _).trans habort, (hcount _ (by decide) _).trans hhold,
    (hcount _ (by decide) _).trans hregion, fun hne => ?_, fun heq => ?_, fun k hk => ⟨fun hrow hs hc => ?_, fun hrow hbad => ?_⟩⟩
  · rw [decide_eq_false hne, State.on_false, hsame, hsweeps]
  · rw [decide_eq_true heq, State.on_true, State.countWrap, State.get_put, if_pos ⟨rfl, rfl⟩, hsame, hsweeps]
  · exact ((hcls _ _).trans (hclass _)).trans ((hword k hk hrow).1 hs hc)
  · rw [hspm, hrepair]
    exact (hword k hk hrow).2 hbad

/-! ### The start of an attempt (R383, R385) -/

theorem tillerStart_of_paused {ld : Nat} (h : s.flag F.SPM_TCTL_PAUSE ld 0 = true) : s.tillerStart ld = s := by
  unfold State.tillerStart
  dsimp only
  rw [h, Bool.true_or, if_pos rfl]

/-- The attempt moves on to region `r`. -/
def tillerMoved (ld r : Nat) : State :=
  if r = s.get F.SPM_TSTAT_REGION ld 0 then s else (s.put F.SPM_TSTAT_REGION ld 0 r).put F.SPM_TSTAT_ABORTS ld 0 0

/-- An attempt with its bookkeeping `m` that holds the masters or not begins. -/
def tillerBegun (ld : Nat) (m : SpmSt) (hold : Nat) : State :=
  (((s.setSpm ld m).put F.SPM_TSTAT_PHASE ld 0 1).put F.SPM_TSTAT_BANK ld 0 0).put F.SPM_TSTAT_HOLD ld 0 hold

theorem tillerStart_of_running {ld : Nat} (hp : s.flag F.SPM_TCTL_PAUSE ld 0 = false)
    (hup : s.segDown ld (s.tillerRegion ld (s.get F.SPM_TSTAT_REGION ld 0) * 256) = false) :
    s.tillerStart ld =
      let u := s.tillerMoved ld (s.tillerRegion ld (s.get F.SPM_TSTAT_REGION ld 0))
      if u.holdDue ld then
        if (s.spmSt ld).holdTick = some s.tick then u
        else (u.tillerBegun ld { s.spmSt ld with busy := true, prog := 0, saved := 0, holdTick := some s.tick } 1).count F.SPM_TCNT_HOLDS ld 0
      else u.tillerBegun ld { s.spmSt ld with busy := true, prog := 0, saved := 0 } 0 := by
  unfold State.tillerStart
  dsimp only
  rw [hp, hup, if_neg (by decide)]
  rfl

theorem holdDue_tillerMoved {ld r : Nat} (h : s.get F.SPM_TSTAT_ABORTS ld 0 < 8 ∨ r ≠ s.get F.SPM_TSTAT_REGION ld 0) :
    (s.tillerMoved ld r).holdDue ld = false := by
  unfold State.holdDue State.tillerMoved
  split
  · next hr => exact decide_eq_false (Nat.not_le.2 (h.resolve_right fun hne => hne hr))
  · rw [State.get_put, if_pos ⟨rfl, rfl⟩]
    rfl

theorem region_tillerMoved (ld r : Nat) (hr : r < 16384) : (s.tillerMoved ld r).get F.SPM_TSTAT_REGION ld 0 = r := by
  unfold State.tillerMoved
  split
  · next h => exact h.symm
  · refine (State.get_put_other _ _ _ _ _ _ _ _ (by decide)).trans ((State.get_put _ _ _ _ _ _ _).trans ((if_pos ⟨rfl, rfl⟩).trans ?_))
    exact Nat.mod_eq_of_lt hr

theorem tillerBegun_effect (ld hold : Nat) (m : SpmSt) : (s.tillerBegun ld m hold).spmSt ld = m ∧
    (s.tillerBegun ld m hold).get F.SPM_TSTAT_REGION ld 0 = s.get F.SPM_TSTAT_REGION ld 0 ∧
    (s.tillerBegun ld m hold).get F.SPM_TSTAT_HOLD ld 0 = hold % 2 := by
  have hother (s : State) {G : Fld} (v : Nat) (h : G.same F.SPM_TSTAT_REGION = false) :
      (s.put G ld 0 v).get F.SPM_TSTAT_REGION ld 0 = s.get F.SPM_TSTAT_REGION ld 0 := s.get_put_other _ _ _ _ _ _ _ h
  refine ⟨(State.spmSt_setSpm _ _ _ _).trans (if_pos rfl), ?_, (State.get_put _ _ _ _ _ _ _).trans (if_pos ⟨rfl, rfl⟩)⟩
  exact (hother _ _ (by decide)).trans ((hother _ _ (by decide)).trans (hother _ _ (by decide)))

section

variable {s} {ld : Nat} (hp : s.flag F.SPM_TCTL_PAUSE ld 0 = false)
  (hup : s.segDown ld (s.tillerRegion ld (s.get F.SPM_TSTAT_REGION ld 0) * 256) = false)
include hp hup

/-- An attempt on a region that has few aborts, or that the tiller has just come to. -/
theorem tillerStart_new (hlt : s.tillerRegion ld (s.get F.SPM_TSTAT_REGION ld 0) < 16384) (h : s.get F.SPM_TSTAT_ABORTS ld 0 < 8 ∨ s.tillerRegion ld (s.get F.SPM_TSTAT_REGION ld 0) ≠ s.get F.SPM_TSTAT_REGION ld 0) :
    ((s.tillerStart ld).spmSt ld).busy = true ∧
      (s.tillerStart ld).get F.SPM_TSTAT_REGION ld 0 = s.tillerRegion ld (s.get F.SPM_TSTAT_REGION ld 0) ∧
      (s.tillerStart ld).get F.SPM_TSTAT_HOLD ld 0 = 0 := by
  rw [s.tillerStart_of_running hp hup]
  dsimp only
  rw [s.holdDue_tillerMoved h, if_neg Bool.false_ne_true]
  obtain ⟨hm, hr, hhold⟩ := (s.tillerMoved ld (s.tillerRegion ld (s.get F.SPM_TSTAT_REGION ld 0))).tillerBegun_effect ld 0
    { s.spmSt ld with busy := true, prog := 0, saved := 0 }
  exact ⟨congrArg SpmSt.busy hm, hr.trans (s.region_tillerMoved ld _ hlt), hhold⟩

/-- After eight aborts in its region the tiller holds the masters, once in a tick. -/
theorem tillerStart_eight (h8 : 8 ≤ s.get F.SPM_TSTAT_ABORTS ld 0)
    (hr : s.tillerRegion ld (s.get F.SPM_TSTAT_REGION ld 0) = s.get F.SPM_TSTAT_REGION ld 0) : s.tillerStart ld =
      if (s.spmSt ld).holdTick = some s.tick then s
      else (s.tillerBegun ld { s.spmSt ld with busy := true, prog := 0, saved := 0, holdTick := some s.tick } 1).count F.SPM_TCNT_HOLDS ld 0 := by
  have hstay : s.tillerMoved ld (s.tillerRegion ld (s.get F.SPM_TSTAT_REGION ld 0)) = s := if_pos hr
  rw [s.tillerStart_of_running hp hup]
  dsimp only
  rw [hstay, if_pos (show s.holdDue ld = true from decide_eq_true h8)]

theorem tillerStart_hold (h8 : 8 ≤ s.get F.SPM_TSTAT_ABORTS ld 0)
    (hr : s.tillerRegion ld (s.get F.SPM_TSTAT_REGION ld 0) = s.get F.SPM_TSTAT_REGION ld 0) (hnot : (s.spmSt ld).holdTick ≠ some s.tick) :
    ((s.tillerStart ld).spmSt ld).busy = true ∧ ((s.tillerStart ld).spmSt ld).holdTick = some s.tick ∧
      (s.tillerStart ld).get F.SPM_TSTAT_HOLD ld 0 = 1 := by
  rw [tillerStart_eight hp hup h8 hr, if_neg hnot]
  obtain ⟨hm, -, hhold⟩ := s.tillerBegun_effect ld 1 { s.spmSt ld with busy := true, prog := 0, saved := 0, holdTick := some s.tick }
  generalize s.tillerBegun ld _ 1 = u at hm hhold
  exact ⟨congrArg SpmSt.busy hm, congrArg SpmSt.holdTick hm, (u.get_put_other _ _ _ _ _ _ _ (by decide)).trans hhold⟩

theorem tillerStart_held (h8 : 8 ≤ s.get F.SPM_TSTAT_ABORTS ld 0)
    (hr : s.tillerRegion ld (s.get F.SPM_TSTAT_REGION ld 0) = s.get F.SPM_TSTAT_REGION ld 0) (hheld : (s.spmSt ld).holdTick = some s.tick) :
    s.tillerStart ld = s := by
  rw [tillerStart_eight hp hup h8 hr, if_pos hheld]

end

end State

/-- A part whose REGION reads 20,000, more than the field's 14 bits hold; its segments are on and clear. -/
def wideRegion : State :=
  let s := State.reset.put F.SPM_PWR_CLEARING 0 0 0
  { s with regs := Store.set (fun _ => 0) s.regs (F.SPM_TSTAT_REGION.key 0 0) 20000 }

/-- Refutes O51: an attempt that stays on its region leaves REGION as it reads, and the statement, which speaks of every state, asks for
it modulo 16,384. `tillerStart_new` says it of a region within the field; the other clauses are `segmentOff_effect`, `segmentOn_effect`,
`segmentCleared_effect`, `tillerStart_hold`, `tillerStart_held` and `tillerDone_effect`. -/
theorem not_segmentsAndTillerKeepTheirRules : ¬ Obligations.SegmentsAndTillerKeepTheirRules := by
  rintro ⟨-, hstart, -⟩
  obtain ⟨-, hbegins⟩ := hstart wideRegion 0 (by decide) (by decide)
  obtain ⟨t, hx, -, hnew, -, -⟩ := hbegins (by decide) (by decide)
  obtain ⟨-, hregion, -⟩ := hnew (.inl (by decide))
  have hgo : exec (.tillerAttemptStart 0) wideRegion = .next (wideRegion.tillerStart 0) := State.answer_of (by decide) (by decide)
  rw [← Host.Outcome.next.inj (hgo.symm.trans hx)] at hregion
  exact absurd hregion (by decide)

end Sys2Proof.Machine
end

section
/-! SUPPORT. Reads of the scratchpad by a scan engine, and the scan (R376, R384, R388, R392, R394 to R398). -/

namespace Sys2Proof.Machine

/-- The bytes of a little-endian number. -/
theorem bitsOf_leNat (bs : List Byte) {i : Nat} (h : i < bs.length) : bitsOf (leNat bs) (8 * i) 8 = bs[i].toNat := by
  induction bs generalizing i with
  | nil => exact absurd h (Nat.not_lt_zero _)
  | cons b bs ih =>
    have hb : b.toNat < 256 := b.isLt
    cases i with
    | zero =>
      simp only [leNat, bitsOf, Nat.mul_zero, Nat.shiftRight_zero, List.getElem_cons_zero]
      omega
    | succ i =>
      have hshift : leNat (b :: bs) >>> (8 * (i + 1)) = leNat bs >>> (8 * i) := by
        rw [Nat.mul_add, Nat.add_comm, Nat.shiftRight_add]
        congr 1
        rw [Nat.shiftRight_eq_div_pow, leNat]
        omega
      rw [bitsOf, hshift, List.getElem_cons_succ, ← ih (Nat.lt_of_succ_lt_succ h)]
      rfl

/-- The registers that a read of a word may change. -/
def readRegs : List Reg := State.judgeRegs ++ [.SPM_TSTAT]

/-- A step that leaves memory alone, and every register that a read of a word does. -/
structure ReadKept (s t : State) : Prop where
  mem : t.mem = s.mem
  regs : RegsWithin readRegs s t

namespace ReadKept

variable {s t u : State}

theorem refl (s : State) : ReadKept s s := ⟨rfl, .refl _ s⟩

theorem after (k : ReadKept t u) (h : ReadKept s t) : ReadKept s u := ⟨k.mem.trans h.mem, h.regs.trans k.regs⟩

theorem each {α : Type} {xs : List α} {op : State → α → State} (hop : ∀ s, ∀ x ∈ xs, ReadKept s (op s x)) (s : State) :
    ReadKept s (s.each xs op) :=
  ⟨State.each_same State.mem (fun s x hx => (hop s x hx).mem) s, .each (fun s x hx => (hop s x hx).regs) s⟩

theorem on {c : Bool} {op : State → State} (hop : ReadKept s (op s)) : ReadKept s (s.on c op) :=
  ⟨State.on_same State.mem hop.mem, .on hop.regs⟩

theorem put (s : State) {F : Fld} (d i v : Nat) (h : F.reg ∈ readRegs) : ReadKept s (s.put F d i v) := ⟨rfl, .put _ _ _ _ _ h⟩

theorem same (hm : t.mem = s.mem) (hr : t.regs = s.regs) : ReadKept s t := ⟨hm, .ofRegs _ hr⟩

end ReadKept

namespace State

variable (s : State)

/-! ### What a read leaves alone -/

theorem spmErr_read (ld off pri kind synd : Nat) : ReadKept s (s.spmErr ld off pri kind synd) := by
  have hput (s : State) {F : Fld} (v : Nat) (h : F.reg ∈ readRegs) : ReadKept s (s.put F ld 0 v) := .put _ _ _ _ h
  refine .after (hput _ _ ?_) (.after (hput _ _ ?_) (.after (hput _ _ ?_) (.after (hput _ _ ?_) (hput _ _ ?_)))) <;> decide

theorem badWord_read (ld off pri kind : Nat) : ReadKept s (s.badWord ld off pri kind) := by
  refine ⟨?_, (s.badWord_regs ld off pri kind).wider fun r hr => List.mem_append_left _ hr⟩
  have hinsts (s : State) (rs : List InstRec) : (s.each rs fun s r => s.fenceInst ld r.iid 0x0D).mem = s.mem :=
    State.each_same State.mem (fun s r _ => (s.fenceInst_frame ld r.iid 0x0D).same State.mem) s
  have hset (s : State) (m : SpmSt) : ReadKept s (s.setSpm ld m) := .same rfl rfl
  have hcount (s : State) : ReadKept s (s.count F.SPM_ECCSTAT_UECNT ld 0) := .put _ _ _ _ (by decide)
  unfold State.badWord
  exact (hinsts _ _).trans (ReadKept.after (hset _ _) (.after (hcount _) (State.spmErr_read _ _ _ _ _ _))).mem

theorem correctWord_read (ld off : Nat) : ReadKept s (s.correctWord ld off) := by
  have hset (s : State) (m : SpmSt) : ReadKept s (s.setSpm ld m) := .same rfl rfl
  exact .after (hset _ _) (.put _ _ _ _ (by decide))

theorem tillerWord_read (ld off : Nat) : ReadKept s (s.tillerWord ld off) := by
  have hset (s : State) : ReadKept s (s.setEcc ld off .good) := .same rfl rfl
  unfold State.tillerWord
  refine .on ?_
  split
  · exact .after (hset _) (.put _ _ _ _ (by decide))
  · exact s.badWord_read _ _ _ _
  · exact .refl _

theorem tillerAbort_read (ld : Nat) : ReadKept s (s.tillerAbort ld) := by
  have hput (s : State) {F : Fld} (v : Nat) (h : F.reg ∈ readRegs) : ReadKept s (s.put F ld 0 v) := .put _ _ _ _ h
  have hset (s : State) (m : SpmSt) : ReadKept s (s.setSpm ld m) := .same rfl rfl
  refine .after (hput _ _ ?_) (.after (hput _ _ ?_) (.after (hput _ _ ?_) (hset _ _))) <;> decide

theorem tillerAt_read (ld c : Nat) : ReadKept s (s.tillerAt ld c) := by
  have hput (s : State) {F : Fld} (v : Nat) (h : F.reg ∈ readRegs) : ReadKept s (s.put F ld 0 v) := .put _ _ _ _ h
  have hset (s : State) (m : SpmSt) : ReadKept s (s.setSpm ld m) := .same rfl rfl
  have hsave (s : State) (n : Nat) : ReadKept s (s.tillerSave ld n) := .after (.each (fun s o _ => s.tillerWord_read ld o) _) (hset _ _)
  unfold State.tillerAt
  exact .on (.after (hsave _ _) (.after (hput _ _ (by decide)) (.after (hput _ _ (by decide)) (hset _ _))))

theorem spmMeets_read (ld pri off : Nat) : ReadKept s (s.spmMeets ld pri off) := by
  have hspend (s : State) : ReadKept s s.spend := .same rfl rfl
  unfold State.spmMeets
  exact .on (.after (State.tillerAbort_read _ _) (.after (hspend _) (State.tillerAt_read _ _ _)))

theorem readWord_read (ld pri off : Nat) : ReadKept s (s.readWord ld pri off).1 := by
  unfold State.readWord
  dsimp only
  split
  · exact s.spmErr_read _ _ _ _ _
  · split
    · exact s.badWord_read _ _ _ _
    · exact s.correctWord_read _ _
    · exact .refl _

theorem spmRead_read (ld pri off : Nat) : ReadKept s (s.spmRead ld pri off).1 := .after (State.readWord_read _ _ _ _) (s.spmMeets_read _ _ _)

/-! ### Good words -/

/-- Every word of a die's scratchpad is good and served. -/
def AllGood (ld : Nat) : Prop := ∀ off, off < 0x400000 → s.accessKind ld off = 0 ∧ s.eccClass ld off = .good

theorem accessKind_congr {s t : State} (h : ∀ G ∈ [F.SPM_PWR_OFF, F.SPM_PWR_CLEARING, F.SPM_FROW_FENCED, F.SPM_FROW_ROW], ∀ d i, t.get G d i = s.get G d i)
    (ld off : Nat) : t.accessKind ld off = s.accessKind ld off := by
  unfold State.accessKind State.segDown State.rowFenced State.flag
  rw [h F.SPM_PWR_OFF (by simp), h F.SPM_PWR_CLEARING (by simp), h F.SPM_FROW_FENCED (by simp), h F.SPM_FROW_ROW (by simp)]

theorem AllGood.of_fields {s t : State} {ld : Nat} (h : s.AllGood ld)
    (hf : ∀ G ∈ [F.SPM_PWR_OFF, F.SPM_PWR_CLEARING, F.SPM_FROW_FENCED, F.SPM_FROW_ROW], ∀ d i, t.get G d i = s.get G d i)
    (hecc : t.ecc = s.ecc) : t.AllGood ld := fun off hoff => by
  have hclass : t.eccClass ld off = s.eccClass ld off := congrArg (fun e => Store.get (fun _ => WordClass.good) e (eccKey ld off)) hecc
  exact ⟨(State.accessKind_congr hf ld off).trans (h off hoff).1, hclass.trans (h off hoff).2⟩

theorem AllGood.of_read {s t : State} {ld : Nat} (h : s.AllGood ld) (hk : ReadKept s t) (hecc : t.ecc = s.ecc) : t.AllGood ld :=
  h.of_fields (fun G hG d i => hk.regs G d i (by revert G; decide)) hecc

theorem tillerWord_of_good {ld off : Nat} (h : s.eccClass ld off = .good) : s.tillerWord ld off = s := by
  unfold State.tillerWord
  cases s.rowFenced ld off
  · rw [Bool.not_false, State.on_true, h]
  · rfl

theorem each_id {α : Type} {l : List α} {op : State → α → State} (h : ∀ x ∈ l, op s x = s) : s.each l op = s := by
  induction l with
  | nil => rfl
  | cons x l ih =>
    have hx : s.each (x :: l) op = (op s x).each l op := rfl
    rw [hx, h x (List.mem_cons_self ..)]
    exact ih fun y hy => h y (List.mem_cons_of_mem _ hy)

/-- A save that finds every word of its region good changes no word. -/
theorem tillerSave_ecc {ld : Nat} (h : s.AllGood ld) (hr : s.get F.SPM_TSTAT_REGION ld 0 < 16384) {n : Nat} (hn : n ≤ 64) :
    (s.tillerSave ld n).ecc = s.ecc := by
  unfold State.tillerSave
  dsimp only
  refine (congrArg State.ecc (State.each_id _ fun off hoff => State.tillerWord_of_good _ ?_)).trans rfl
  refine (h off ?_).2
  obtain ⟨j, hj, rfl⟩ := List.mem_map.1 hoff
  have := List.mem_range.1 hj
  omega

theorem tillerAt_ecc {ld : Nat} (h : s.AllGood ld) (hr : s.get F.SPM_TSTAT_REGION ld 0 < 16384) (c : Nat) : (s.tillerAt ld c).ecc = s.ecc := by
  have hset (s : State) (m : SpmSt) : ReadKept s (s.setSpm ld m) := .same rfl rfl
  have hput (s : State) {F : Fld} (v : Nat) (h : F.reg ∈ readRegs) : ReadKept s (s.put F ld 0 v) := .put _ _ _ _ h
  have hother (s : State) {G : Fld} (v : Nat) (h : G.same F.SPM_TSTAT_REGION = false) :
      (s.put G ld 0 v).get F.SPM_TSTAT_REGION ld 0 = s.get F.SPM_TSTAT_REGION ld 0 := s.get_put_other _ _ _ _ _ _ _ h
  unfold State.tillerAt
  dsimp only
  refine State.on_same State.ecc ((State.tillerSave_ecc _ ?_ ?_ (Nat.min_le_left _ _)).trans rfl)
  · exact h.of_read (.after (hput _ _ (by decide)) (.after (hput _ _ (by decide)) (hset _ _))) rfl
  · exact ((hother _ _ (by decide)).trans (hother _ _ (by decide))).trans_lt hr

theorem spmMeets_ecc {ld : Nat} (h : s.AllGood ld) (pri : Nat) {off : Nat} (hoff : off < 0x400000) : (s.spmMeets ld pri off).ecc = s.ecc := by
  have hput (s : State) (F : Fld) (v : Nat) : (s.put F ld 0 v).ecc = s.ecc := rfl
  unfold State.spmMeets
  cases hab : s.aborts ld pri off
  · rfl
  have hregion : spmRegion off = s.get F.SPM_TSTAT_REGION ld 0 := of_decide_eq_true (Bool.and_eq_true_iff.1 hab).2
  have hlt : s.get F.SPM_TSTAT_REGION ld 0 < 16384 := by
    rw [← hregion]
    unfold spmRegion
    omega
  have habort (s : State) : (s.spend.tillerAbort ld).ecc = s.ecc := rfl
  exact (habort _).trans (s.tillerAt_ecc h hlt _)

/-- A good word reads as memory holds it. -/
theorem readWord_of_good {ld off : Nat} (hk : s.accessKind ld off = 0) (hc : s.eccClass ld off = .good) (pri : Nat) :
    s.readWord ld pri off = (s, s.spmWord ld off, false) := by
  unfold State.readWord
  rw [hk, hc, if_neg (by decide)]

/-! ### One word of a scan (R394) -/

/-- The fields that the engine sets as it takes a word. -/
def scanFlds : List Fld := [F.SCAN_ERRADDR_ADDR, F.SCAN_STAT_RDERR, F.CRC_VAL_VAL, F.SCAN_NEXT_NEXT, F.SCAN_REM_REM]

/-- A step that leaves memory alone, and every field that neither a read of a word nor its taking sets. -/
structure ScanKept (s t : State) : Prop where
  mem : t.mem = s.mem
  fields : ∀ (G : Fld) (d i : Nat), G.reg ∉ readRegs → (∀ F ∈ scanFlds, F.same G = false) → t.get G d i = s.get G d i

theorem ScanKept.refl (s : State) : ScanKept s s := ⟨rfl, fun _ _ _ _ _ => rfl⟩

theorem ScanKept.after {s t u : State} (k : ScanKept t u) (h : ScanKept s t) : ScanKept s u :=
  ⟨k.mem.trans h.mem, fun G d i hr hf => (k.fields G d i hr hf).trans (h.fields G d i hr hf)⟩

theorem ScanKept.ofRead {s t : State} (h : ReadKept s t) : ScanKept s t := ⟨h.mem, fun G d i hr _ => h.regs G d i hr⟩

theorem ScanKept.ofFlds {s t : State} (hm : t.mem = s.mem) (h : FldsWithin scanFlds s t) : ScanKept s t := ⟨hm, fun G d i _ hf => h G d i hf⟩

/-- The bytes that a word of the memory gives from NEXT on. -/
def fedBytes (v a cnt : Nat) : List Nat := (List.range cnt).map fun k => bitsOf v (8 * (a % 4 + k)) 8

/-- The state with the error of a read noted. -/
def scanErr (ld n a : Nat) (err : Bool) : State := s.on err fun s =>
  (s.on (!s.flag F.SCAN_STAT_RDERR ld n) fun s => s.put F.SCAN_ERRADDR_ADDR ld n (wordOff a)).put F.SCAN_STAT_RDERR ld n 1

/-- The state with bytes fed. -/
def crcFeeds (ld n : Nat) (bs : List Nat) : State := s.each bs fun s b => s.crcFeed ld n b

theorem scanTake_eq (v : Nat) (err : Bool) (ld n : Nat) : State.scanTake (s, v, err) ld n =
    (((s.scanErr ld n (s.get F.SCAN_NEXT_NEXT ld n) err).crcFeeds ld n
        (fedBytes v (s.get F.SCAN_NEXT_NEXT ld n) (min (s.get F.SCAN_REM_REM ld n) (4 - s.get F.SCAN_NEXT_NEXT ld n % 4)))).put
      F.SCAN_NEXT_NEXT ld n (s.get F.SCAN_NEXT_NEXT ld n + min (s.get F.SCAN_REM_REM ld n) (4 - s.get F.SCAN_NEXT_NEXT ld n % 4))).put
      F.SCAN_REM_REM ld n (s.get F.SCAN_REM_REM ld n - min (s.get F.SCAN_REM_REM ld n) (4 - s.get F.SCAN_NEXT_NEXT ld n % 4)) := rfl

theorem scanErr_flds (ld n a : Nat) (err : Bool) : FldsWithin [F.SCAN_ERRADDR_ADDR, F.SCAN_STAT_RDERR] s (s.scanErr ld n a err) :=
  .on (.after (.put _ _ _ _ (by decide)) (.on (.put _ _ _ _ (by decide))))

theorem crcFeeds_flds (ld n : Nat) (bs : List Nat) : FldsWithin [F.CRC_VAL_VAL] s (s.crcFeeds ld n bs) :=
  .each (fun _ _ _ => .put _ _ _ _ (by decide)) _

/-- What the taking of a word does: it moves NEXT and REM by the bytes it fed. -/
theorem scanTake_effect (v : Nat) (err : Bool) (ld n : Nat) {cnt : Nat}
    (hc : cnt = min (s.get F.SCAN_REM_REM ld n) (4 - s.get F.SCAN_NEXT_NEXT ld n % 4)) : ∃ t, State.scanTake (s, v, err) ld n = t ∧ ScanKept s t ∧
      t.get F.SCAN_NEXT_NEXT ld n = (s.get F.SCAN_NEXT_NEXT ld n + cnt) % 2 ^ 22 ∧
      t.get F.SCAN_REM_REM ld n = (s.get F.SCAN_REM_REM ld n - cnt) % 2 ^ 23 ∧
      (err = false → t.get F.CRC_VAL_VAL ld n =
        (s.crcFeeds ld n (fedBytes v (s.get F.SCAN_NEXT_NEXT ld n) cnt)).get F.CRC_VAL_VAL ld n ∧ t.ecc = s.ecc) := by
  have hother (s : State) {G H : Fld} (v : Nat) (h : G.same H = false) : (s.put G ld n v).get H ld n = s.get H ld n := s.get_put_other _ _ _ _ _ _ _ h
  have hself (s : State) (G : Fld) (v : Nat) : (s.put G ld n v).get G ld n = v % 2 ^ G.w := (s.get_put _ _ _ _ _ _).trans (if_pos ⟨rfl, rfl⟩)
  rw [s.scanTake_eq v err, ← hc]
  refine ⟨_, rfl, .ofFlds ?_ ?_, ?_, hself _ _ _, fun he => ⟨?_, ?_⟩⟩
  · have hfeed (s : State) (b : Nat) : (s.crcFeed ld n b).mem = s.mem := rfl
    have hfeeds (s : State) (bs : List Nat) : (s.crcFeeds ld n bs).mem = s.mem := State.each_same State.mem (fun s b _ => hfeed s b) s
    exact (hfeeds _ _).trans (State.on_same State.mem (State.on_same State.mem rfl))
  · exact .after (.put _ _ _ _ (by decide)) (.after (.put _ _ _ _ (by decide)) (.after ((State.crcFeeds_flds _ _ _ _).wider (by decide))
      ((s.scanErr_flds _ _ _ _).wider (by decide))))
  · exact (hother _ _ (by decide)).trans (hself _ _ _)
  · rw [he]
    exact (hother _ _ (by decide)).trans (hother _ _ (by decide))
  · rw [he]
    have hfeed (s : State) (b : Nat) : (s.crcFeed ld n b).ecc = s.ecc := rfl
    have hfeeds (s : State) (bs : List Nat) : (s.crcFeeds ld n bs).ecc = s.ecc := State.each_same State.ecc (fun s b _ => hfeed s b) s
    exact hfeeds _ _

/-- The bytes of a word in memory. -/
theorem bitsOf_spmWord (ld off : Nat) {i : Nat} (h : i < 4) :
    bitsOf (s.spmWord ld off) (8 * i) 8 = (s.byte (ld * 2 ^ 28 + wordOff off + i)).toNat := by
  unfold State.spmWord State.bytes
  rw [bitsOf_leNat _ (by simpa using h)]
  simp

/-- One byte into the check value of a CRC unit (R388). -/
def crcStep (ld n c b : Nat) : Nat :=
  crcByte (s.get F.CRC_CFG_WIDTH ld n) (s.get F.CRC_POLY_POLY ld n % 2 ^ s.get F.CRC_CFG_WIDTH ld n)
    (c % 2 ^ s.get F.CRC_CFG_WIDTH ld n) (if s.flag F.CRC_CFG_REFIN ld n then reflect 8 b else b) % 2 ^ 32

theorem crcStep_congr {s t : State} {ld n : Nat} (hw : t.get F.CRC_CFG_WIDTH ld n = s.get F.CRC_CFG_WIDTH ld n)
    (hp : t.get F.CRC_POLY_POLY ld n = s.get F.CRC_POLY_POLY ld n) (hr : t.get F.CRC_CFG_REFIN ld n = s.get F.CRC_CFG_REFIN ld n) (c b : Nat) :
    t.crcStep ld n c b = s.crcStep ld n c b := by
  unfold State.crcStep State.flag
  rw [hw, hp, hr]

theorem crcFeeds_val (ld n : Nat) (bs : List Nat) :
    (s.crcFeeds ld n bs).get F.CRC_VAL_VAL ld n = bs.foldl (s.crcStep ld n) (s.get F.CRC_VAL_VAL ld n) := by
  induction bs generalizing s with
  | nil => rfl
  | cons b bs ih =>
    have hother (G : Fld) (h : F.CRC_VAL_VAL.same G = false) : (s.crcFeed ld n b).get G ld n = s.get G ld n := s.get_put_other _ _ _ _ _ _ _ h
    have hval : (s.crcFeed ld n b).get F.CRC_VAL_VAL ld n = s.crcStep ld n (s.get F.CRC_VAL_VAL ld n) b :=
      (s.get_put _ _ _ _ _ _).trans (if_pos ⟨rfl, rfl⟩)
    have hstep : (s.crcFeed ld n b).crcStep ld n = s.crcStep ld n := funext₂ fun c x =>
      crcStep_congr (hother _ (by decide)) (hother _ (by decide)) (hother _ (by decide)) c x
    refine (ih (s.crcFeed ld n b)).trans ?_
    rw [hstep, hval]
    rfl

/-! ### The words of a scan (R394, R398) -/

/-- A scan that has come `j` bytes on from where it stands in `s`. -/
structure ScanAt (s t : State) (ld n j : Nat) : Prop where
  kept : ScanKept s t
  next : j < s.get F.SCAN_REM_REM ld n ∨ j = 0 → t.get F.SCAN_NEXT_NEXT ld n = s.get F.SCAN_NEXT_NEXT ld n + j
  rem : t.get F.SCAN_REM_REM ld n = s.get F.SCAN_REM_REM ld n - j

/-- The bytes that a scan feeds. -/
def scanByte (ld n k : Nat) : Nat := (s.byte (ld * 2 ^ 28 + s.get F.SCAN_NEXT_NEXT ld n + k)).toNat

/-- The same over good words: the check value has taken the bytes of the memory. -/
structure ScanFed (s t : State) (ld n j : Nat) : Prop where
  good : t.AllGood ld
  val : t.get F.CRC_VAL_VAL ld n = (List.range j).foldl (fun c k => s.crcStep ld n c (s.scanByte ld n k)) (s.get F.CRC_VAL_VAL ld n)

/-- The bytes that a scan has come on after `k` words. -/
def scanned (ld n k : Nat) : Nat := min (s.get F.SCAN_REM_REM ld n) (4 * k - s.get F.SCAN_NEXT_NEXT ld n % 4)

theorem scanned_lt {ld n k : Nat} (h : k < s.scanLeft ld n) : s.scanned ld n k < s.get F.SCAN_REM_REM ld n ∨ s.scanned ld n k = 0 := by
  unfold State.scanned
  unfold State.scanLeft at h
  omega

theorem scanned_succ {ld n k : Nat} (h : k < s.scanLeft ld n) : s.scanned ld n (k + 1) =
    s.scanned ld n k + min (s.get F.SCAN_REM_REM ld n - s.scanned ld n k) (4 - (s.get F.SCAN_NEXT_NEXT ld n + s.scanned ld n k) % 4) := by
  unfold State.scanned
  unfold State.scanLeft at h
  omega

theorem scanned_all (ld n : Nat) : s.scanned ld n (s.scanLeft ld n) = s.get F.SCAN_REM_REM ld n := by
  unfold State.scanned State.scanLeft
  omega

section

variable {s} {ld n : Nat} (hend : s.get F.SCAN_NEXT_NEXT ld n + s.get F.SCAN_REM_REM ld n ≤ 0x400000)
include hend

theorem scanWord_at {t : State} {k : Nat} (hk : k < s.scanLeft ld n) (h : ScanAt s t ld n (s.scanned ld n k)) :
    ScanAt s (t.scanWord ld n) ld n (s.scanned ld n (k + 1)) := by
  have hlt := s.scanned_lt hk
  have hsucc := s.scanned_succ hk
  have hleft : s.get F.SCAN_REM_REM ld n = 0 → s.get F.SCAN_NEXT_NEXT ld n % 4 ≠ 0 := by
    unfold State.scanLeft at hk
    omega
  obtain ⟨hkept, hnext, hrem⟩ := h
  have hn := hnext hlt
  generalize s.scanned ld n k = j at hlt hsucc hn hrem
  have hread := t.spmRead_read ld (14 + n) (wordOff (t.get F.SCAN_NEXT_NEXT ld n))
  unfold State.scanWord
  generalize t.spmRead ld (14 + n) (wordOff (t.get F.SCAN_NEXT_NEXT ld n)) = r at hread
  obtain ⟨u, v, err⟩ := r
  have hun : u.get F.SCAN_NEXT_NEXT ld n = s.get F.SCAN_NEXT_NEXT ld n + j := (hread.regs _ _ _ (by decide)).trans hn
  have hur : u.get F.SCAN_REM_REM ld n = s.get F.SCAN_REM_REM ld n - j := (hread.regs _ _ _ (by decide)).trans hrem
  obtain ⟨w, hw, hwk, hwn, hwr, -⟩ := u.scanTake_effect v err ld n rfl
  rw [hw]
  rw [hun, hur] at hwn hwr
  refine ⟨.after hwk (.after (.ofRead hread) hkept), fun hj => hwn.trans ?_, hwr.trans ?_⟩ <;> rw [hsucc] at *
  · rw [Nat.mod_eq_of_lt] <;> omega
  · rw [Nat.mod_eq_of_lt] <;> omega

/-- Over good words the bytes of the memory go into the check value. -/
theorem scanWord_fed {t : State} {k : Nat} (hk : k < s.scanLeft ld n) (h : ScanAt s t ld n (s.scanned ld n k))
    (hf : ScanFed s t ld n (s.scanned ld n k)) : ScanFed s (t.scanWord ld n) ld n (s.scanned ld n (k + 1)) := by
  have hlt := s.scanned_lt hk
  have hleft : s.get F.SCAN_REM_REM ld n = 0 → s.get F.SCAN_NEXT_NEXT ld n % 4 ≠ 0 := by
    unfold State.scanLeft at hk
    omega
  rw [s.scanned_succ hk]
  obtain ⟨hkept, hnext, hrem⟩ := h
  have hn := hnext hlt
  generalize s.scanned ld n k = j at hlt hf hn hrem
  obtain ⟨hgood, hval⟩ := hf
  have hoff : wordOff (t.get F.SCAN_NEXT_NEXT ld n) < 0x400000 := by
    unfold wordOff
    omega
  have hmeets := t.spmMeets_read ld (14 + n) (wordOff (t.get F.SCAN_NEXT_NEXT ld n))
  have hecc := t.spmMeets_ecc hgood (14 + n) hoff
  unfold State.scanWord State.spmRead
  generalize t.spmMeets ld (14 + n) (wordOff (t.get F.SCAN_NEXT_NEXT ld n)) = u at hmeets hecc
  have hugood := hgood.of_read hmeets hecc
  have hus : ScanKept s u := .after (.ofRead hmeets) hkept
  rw [u.readWord_of_good (hugood _ hoff).1 (hugood _ hoff).2]
  have hun : u.get F.SCAN_NEXT_NEXT ld n = s.get F.SCAN_NEXT_NEXT ld n + j := (hmeets.regs _ _ _ (by decide)).trans hn
  have hur : u.get F.SCAN_REM_REM ld n = s.get F.SCAN_REM_REM ld n - j := (hmeets.regs _ _ _ (by decide)).trans hrem
  have huv : u.get F.CRC_VAL_VAL ld n = t.get F.CRC_VAL_VAL ld n := hmeets.regs _ _ _ (by decide)
  obtain ⟨w, hw, hwk, -, -, hfed⟩ := u.scanTake_effect (u.spmWord ld (wordOff (t.get F.SCAN_NEXT_NEXT ld n))) false ld n rfl
  obtain ⟨hwv, hwe⟩ := hfed rfl
  rw [hw]
  rw [hun, hur] at hwv
  refine ⟨hugood.of_fields (fun G hG d i => hwk.fields G d i (by revert G; decide) (by revert G; decide)) hwe, hwv.trans ?_⟩
  have hstep : u.crcStep ld n = s.crcStep ld n := funext₂ fun c b =>
    crcStep_congr (hus.fields _ _ _ (by decide) (by decide)) (hus.fields _ _ _ (by decide) (by decide)) (hus.fields _ _ _ (by decide) (by decide)) c b
  rw [State.crcFeeds_val, hstep, huv, hval, fedBytes, List.range_add, List.foldl_append, List.foldl_map, List.foldl_map]
  refine List.foldl_ext _ _ _ fun c i hi => congrArg (s.crcStep ld n c) ?_
  have hi4 := List.mem_range.1 hi
  rw [u.bitsOf_spmWord _ _ (by omega), hn]
  unfold State.scanByte State.byte
  rw [hus.mem]
  congr 2
  unfold wordOff
  omega

theorem scanWords_at {k : Nat} (hk : k ≤ s.scanLeft ld n) : ScanAt s (s.scanWords ld n k) ld n (s.scanned ld n k) := by
  induction k with
  | zero => exact ⟨.refl s, fun _ => by simp [State.scanWords, State.each, State.scanned], by simp [State.scanWords, State.each, State.scanned]⟩
  | succ k ih =>
    have hsucc : s.scanWords ld n (k + 1) = (s.scanWords ld n k).scanWord ld n := by
      simp [State.scanWords, State.each, List.range_succ]
    exact hsucc ▸ scanWord_at hend hk (ih (Nat.le_of_succ_le hk))

theorem scanWords_fed (hgood : s.AllGood ld) {k : Nat} (hk : k ≤ s.scanLeft ld n) : ScanFed s (s.scanWords ld n k) ld n (s.scanned ld n k) := by
  induction k with
  | zero => exact ⟨hgood, by simp [State.scanWords, State.each, State.scanned]⟩
  | succ k ih =>
    have hsucc : s.scanWords ld n (k + 1) = (s.scanWords ld n k).scanWord ld n := by
      simp [State.scanWords, State.each, List.range_succ]
    exact hsucc ▸ scanWord_fed hend hk (scanWords_at hend (Nat.le_of_succ_le hk)) (ih (Nat.le_of_succ_le hk))

end

/-! ### The end of a scan (R392, R394, R398, R400) -/

/-- What the end of a scan may change of the fields. -/
def endFlds : List Fld := [F.SCAN_STAT_BUSY, F.CRC_STAT_BUSY, F.FENCE_LEASE_OWNER]

theorem flag_of_get {F : Fld} {d i v : Nat} (h : s.get F d i = v) : s.flag F d i = decide (v ≠ 0) := by rw [State.flag, h]

theorem scanIdle_effect (ld n : Nat) : FldsWithin endFlds s (s.scanIdle ld n) ∧ (s.scanIdle ld n).mem = s.mem ∧
    (s.scanIdle ld n).get F.SCAN_STAT_BUSY ld n = 0 ∧ (s.scanIdle ld n).get F.CRC_STAT_BUSY ld n = 0 := by
  have hother (s : State) {G H : Fld} (v : Nat) (h : G.same H = false) : (s.put G ld n v).get H ld n = s.get H ld n := s.get_put_other _ _ _ _ _ _ _ h
  have hself (s : State) (G : Fld) (v : Nat) : (s.put G ld n v).get G ld n = v % 2 ^ G.w := (s.get_put _ _ _ _ _ _).trans (if_pos ⟨rfl, rfl⟩)
  refine ⟨.after (.put _ _ _ _ (by decide)) (.after (.put _ _ _ _ (by decide)) (.put _ _ _ _ (by decide))), rfl, ?_, ?_⟩
  · exact (hother _ _ (by decide)).trans ((hother _ _ (by decide)).trans (hself _ _ _))
  · exact (hother _ _ (by decide)).trans (hself _ _ _)

theorem crcJobEnd_effect (ld n : Nat) : FldsWithin endFlds s (s.crcJobEnd ld n) ∧ (s.crcJobEnd ld n).mem = s.mem ∧
    (∀ G ∈ [F.SCAN_STAT_BUSY, F.CRC_STAT_BUSY], (s.crcJobEnd ld n).get G ld n = s.get G ld n) := by
  have hend (s : State) (a b c d : Nat) : FldsWithin [F.FENCE_LEASE_OWNER] s (s.endJob a b c d) := .on (.ofRegs _ rfl)
  have hendm (s : State) (a b c d : Nat) : (s.endJob a b c d).mem = s.mem := State.on_same State.mem rfl
  have hset (s : State) (e : Nat) (x : Job) : FldsWithin [F.FENCE_LEASE_OWNER] s (s.setJob 0 e x) := .ofRegs _ rfl
  have hsv (s : State) (v : SvSt) : FldsWithin [F.FENCE_LEASE_OWNER] s (s.setSv ld v) := .ofRegs _ rfl
  have hput (s : State) (i : Nat) : FldsWithin [F.FENCE_LEASE_OWNER] s (s.put F.FENCE_LEASE_OWNER ld i 0) := .put _ _ _ _ (by decide)
  have hflds : FldsWithin [F.FENCE_LEASE_OWNER] s (s.crcJobEnd ld n) := by
    unfold State.crcJobEnd
    dsimp only
    split
    · exact .refl _ _
    · exact .after (hput _ _) (.after (hput _ _) (.after (hsv _ _) (.after (hend _ _ _ _ _) (hset _ _ _))))
  refine ⟨hflds.wider (by decide), ?_, fun G hG => hflds G ld n (by revert G; decide)⟩
  unfold State.crcJobEnd
  dsimp only
  split
  · rfl
  · exact hendm _ _ _ _ _

/-- What the completion of a scan does. -/
theorem scanComplete_effect {ld n : Nat} (hend : s.get F.SCAN_NEXT_NEXT ld n + s.get F.SCAN_REM_REM ld n ≤ 0x400000) :
    ∃ t, s.scanComplete ld n = t ∧ t.mem = s.mem ∧ t.flag F.SCAN_STAT_BUSY ld n = false ∧ t.flag F.CRC_STAT_BUSY ld n = false ∧
      t.flag F.SCAN_STAT_DONE ld n = true ∧ t.get F.SCAN_REM_REM ld n = 0 ∧ t.get F.SCAN_STAT_STOPPED ld n = s.get F.SCAN_STAT_STOPPED ld n ∧
      (s.AllGood ld → t.get F.CRC_VAL_VAL ld n =
        (List.range (s.get F.SCAN_REM_REM ld n)).foldl (fun c k => s.crcStep ld n c (s.scanByte ld n k)) (s.get F.CRC_VAL_VAL ld n)) := by
  obtain ⟨hkept, -, hrem⟩ := scanWords_at hend (Nat.le_refl (s.scanLeft ld n))
  have hfed (h : s.AllGood ld) := (scanWords_fed hend h (Nat.le_refl (s.scanLeft ld n))).val
  rw [s.scanned_all] at hrem hfed
  have heq : s.scanComplete ld n = (((s.scanWords ld n (s.scanLeft ld n)).scanIdle ld n).put F.SCAN_STAT_DONE ld n 1).crcJobEnd ld n := rfl
  rw [heq]
  generalize s.scanWords ld n (s.scanLeft ld n) = u at hkept hrem hfed
  obtain ⟨hidle, hidlem, hscan, hcrc⟩ := u.scanIdle_effect ld n
  generalize u.scanIdle ld n = v at hidle hidlem hscan hcrc
  obtain ⟨hjob, hjobm, hjobf⟩ := (v.put F.SCAN_STAT_DONE ld n 1).crcJobEnd_effect ld n
  have hdone (G : Fld) (h : F.SCAN_STAT_DONE.same G = false) : (v.put F.SCAN_STAT_DONE ld n 1).get G ld n = v.get G ld n :=
    v.get_put_other _ _ _ _ _ _ _ h
  refine ⟨_, rfl, hjobm.trans (hidlem.trans hkept.mem), State.flag_of_get _ ((hjobf _ (by simp)).trans ((hdone _ (by decide)).trans hscan)),
    State.flag_of_get _ ((hjobf _ (by simp)).trans ((hdone _ (by decide)).trans hcrc)), State.flag_of_get _ (v := 1) ?_, ?_, ?_, fun h => ?_⟩
  · exact (hjob _ _ _ (by decide)).trans ((v.get_put _ _ _ _ _ _).trans (if_pos ⟨rfl, rfl⟩))
  · exact (hjob _ _ _ (by decide)).trans ((hdone _ (by decide)).trans ((hidle _ _ _ (by decide)).trans (hrem.trans (Nat.sub_self _))))
  · exact (hjob _ _ _ (by decide)).trans ((hdone _ (by decide)).trans ((hidle _ _ _ (by decide)).trans (hkept.fields _ _ _ (by decide) (by decide))))
  · exact (hjob _ _ _ (by decide)).trans ((hdone _ (by decide)).trans ((hidle _ _ _ (by decide)).trans (hfed h)))

theorem scanStop_of_idle {ld n : Nat} (h : s.flag F.SCAN_STAT_BUSY ld n = false) (words : Nat) : s.scanStop ld n words = s := by
  rw [State.scanStop, h, Bool.not_false, if_pos rfl]

theorem scanStop_of_last {ld n words : Nat} (h : s.flag F.SCAN_STAT_BUSY ld n = true) (hw : s.scanLeft ld n ≤ max 1 words) :
    s.scanStop ld n words = s.scanComplete ld n := by
  rw [State.scanStop, h, Bool.not_true, if_neg Bool.false_ne_true, if_pos hw]

theorem scanStop_of_amid {ld n words : Nat} (h : s.flag F.SCAN_STAT_BUSY ld n = true) (hw : max 1 words < s.scanLeft ld n) :
    s.scanStop ld n words = ((s.scanWords ld n (max 1 words)).scanIdle ld n).put F.SCAN_STAT_STOPPED ld n 1 := by
  rw [State.scanStop, h, Bool.not_true, if_neg Bool.false_ne_true, if_neg (Nat.not_le.2 hw)]

/-- What a stop amid a scan does. -/
theorem scanStop_amid_effect {ld n words : Nat} (hend : s.get F.SCAN_NEXT_NEXT ld n + s.get F.SCAN_REM_REM ld n ≤ 0x400000)
    (hw : max 1 words < s.scanLeft ld n) : ∃ t, ((s.scanWords ld n (max 1 words)).scanIdle ld n).put F.SCAN_STAT_STOPPED ld n 1 = t ∧
      t.mem = s.mem ∧ t.flag F.SCAN_STAT_BUSY ld n = false ∧ t.flag F.CRC_STAT_BUSY ld n = false ∧ t.flag F.SCAN_STAT_STOPPED ld n = true ∧
      t.get F.SCAN_STAT_DONE ld n = s.get F.SCAN_STAT_DONE ld n ∧
      t.get F.SCAN_NEXT_NEXT ld n + t.get F.SCAN_REM_REM ld n = s.get F.SCAN_NEXT_NEXT ld n + s.get F.SCAN_REM_REM ld n := by
  obtain ⟨hkept, hnext, hrem⟩ := scanWords_at hend (Nat.le_of_lt hw)
  have hlt : s.scanned ld n (max 1 words) < s.get F.SCAN_REM_REM ld n := by
    unfold State.scanned
    unfold State.scanLeft at hw
    omega
  have hn := hnext (.inl hlt)
  generalize s.scanWords ld n (max 1 words) = u at hkept hn hrem
  obtain ⟨hidle, hidlem, hscan, hcrc⟩ := u.scanIdle_effect ld n
  generalize u.scanIdle ld n = v at hidle hidlem hscan hcrc
  have hother (G : Fld) (h : F.SCAN_STAT_STOPPED.same G = false) : (v.put F.SCAN_STAT_STOPPED ld n 1).get G ld n = v.get G ld n :=
    v.get_put_other _ _ _ _ _ _ _ h
  refine ⟨_, rfl, hidlem.trans hkept.mem, State.flag_of_get _ ((hother _ (by decide)).trans hscan),
    State.flag_of_get _ ((hother _ (by decide)).trans hcrc), State.flag_of_get _ (v := 1) ((v.get_put _ _ _ _ _ _).trans (if_pos ⟨rfl, rfl⟩)), ?_, ?_⟩
  · exact (hother _ (by decide)).trans ((hidle _ _ _ (by decide)).trans (hkept.fields _ _ _ (by decide) (by decide)))
  · rw [hother _ (by decide), hother _ (by decide), hidle _ _ _ (by decide), hidle _ _ _ (by decide), hn, hrem]
    omega

/-! ### The start of a scan (R392, R394) -/

theorem scanMay_cont (ld n : Nat) (cont : Bool) : (s.putB F.SCAN_CTL_CONT ld n cont).scanMay ld n = s.scanMay ld n := by
  have hother (G : Fld) (i : Nat) (h : F.SCAN_CTL_CONT.same G = false) : (s.putB F.SCAN_CTL_CONT ld n cont).get G ld i = s.get G ld i :=
    s.get_put_other _ _ _ _ _ _ _ h
  unfold State.scanMay State.flag
  rw [hother _ _ (by decide), hother _ _ (by decide), hother _ _ (by decide), hother _ _ (by decide), hother _ _ (by decide)]

theorem scanStart_of_illegal {ld n : Nat} {cont : Bool} (h : s.scanMay ld n = false) :
    s.scanStart ld n cont = (s.putB F.SCAN_CTL_CONT ld n cont).put F.SCAN_STAT_BADRANGE ld n 1 := by
  unfold State.scanStart
  dsimp only
  rw [s.scanMay_cont, h, Bool.not_false, if_pos rfl]

/-- The fields of a scan that starts, over the state in which the check value begins. -/
def scanBegun (ld n start len : Nat) : State :=
  ((((s.put F.SCAN_STAT_BUSY ld n 1).put F.CRC_STAT_BUSY ld n 1).put F.FENCE_LEASE_OWNER ld n (0x0C + n)).put F.SCAN_NEXT_NEXT ld n start).put
    F.SCAN_REM_REM ld n len

theorem scanBegun_effect {ld n start len : Nat} (hn : n < 8) (hstart : start < 2 ^ 22) (hlen : len < 2 ^ 23) :
    (s.scanBegun ld n start len).get F.SCAN_STAT_BUSY ld n = 1 ∧ (s.scanBegun ld n start len).get F.CRC_STAT_BUSY ld n = 1 ∧
    (s.scanBegun ld n start len).get F.FENCE_LEASE_OWNER ld n = 0x0C + n ∧
    (s.scanBegun ld n start len).get F.FENCE_LEASE_OWNER ld (n + 8) = s.get F.FENCE_LEASE_OWNER ld (n + 8) ∧
    (s.scanBegun ld n start len).get F.SCAN_NEXT_NEXT ld n = start ∧ (s.scanBegun ld n start len).get F.SCAN_REM_REM ld n = len ∧
    (s.scanBegun ld n start len).get F.CRC_VAL_VAL ld n = s.get F.CRC_VAL_VAL ld n := by
  have hother (s : State) {G H : Fld} (v i : Nat) (h : G.same H = false) : (s.put G ld n v).get H ld i = s.get H ld i := s.get_put_other _ _ _ _ _ _ _ h
  have hself (s : State) (G : Fld) (v : Nat) : (s.put G ld n v).get G ld n = v % 2 ^ G.w := (s.get_put _ _ _ _ _ _).trans (if_pos ⟨rfl, rfl⟩)
  have hbeside (s : State) (G : Fld) (v : Nat) : (s.put G ld n v).get G ld (n + 8) = s.get G ld (n + 8) :=
    (s.get_put _ _ _ _ _ _).trans (if_neg (by omega))
  unfold State.scanBegun
  refine ⟨?_, ?_, ?_, ?_, ?_, ?_, ?_⟩
  · exact (hother _ _ _ (by decide)).trans ((hother _ _ _ (by decide)).trans ((hother _ _ _ (by decide)).trans ((hother _ _ _ (by decide)).trans (hself _ _ _))))
  · exact (hother _ _ _ (by decide)).trans ((hother _ _ _ (by decide)).trans ((hother _ _ _ (by decide)).trans (hself _ _ _)))
  · refine (hother _ _ _ (by decide)).trans ((hother _ _ _ (by decide)).trans ((hself _ _ _).trans (Nat.mod_eq_of_lt ?_)))
    exact Nat.lt_of_lt_of_le (show 0x0C + n < 20 by omega) (by decide)
  · exact (hother _ _ _ (by decide)).trans ((hother _ _ _ (by decide)).trans ((hbeside _ _ _).trans ((hother _ _ _ (by decide)).trans (hother _ _ _ (by decide)))))
  · exact (hother _ _ _ (by decide)).trans ((hself _ _ _).trans (Nat.mod_eq_of_lt hstart))
  · exact (hself _ _ _).trans (Nat.mod_eq_of_lt hlen)
  · exact (hother _ _ _ (by decide)).trans ((hother _ _ _ (by decide)).trans ((hother _ _ _ (by decide)).trans
      ((hother _ _ _ (by decide)).trans (hother _ _ _ (by decide)))))

/-- The check value with which a scan begins. -/
def scanInit (ld n : Nat) (cont : Bool) : State :=
  (s.putB F.SCAN_CTL_CONT ld n cont).on (!cont) fun s => s.put F.CRC_VAL_VAL ld n (s.get F.CRC_INIT_INIT ld n)

theorem scanInit_effect (ld n : Nat) (cont : Bool) : (s.scanInit ld n cont).get F.CRC_VAL_VAL ld n =
      (if cont then s.get F.CRC_VAL_VAL ld n else s.get F.CRC_INIT_INIT ld n % 2 ^ 32) ∧
    (s.scanInit ld n cont).get F.FENCE_LEASE_OWNER ld (n + 8) = s.get F.FENCE_LEASE_OWNER ld (n + 8) := by
  have hother (G : Fld) (i : Nat) (h : F.SCAN_CTL_CONT.same G = false) : (s.putB F.SCAN_CTL_CONT ld n cont).get G ld i = s.get G ld i :=
    s.get_put_other _ _ _ _ _ _ _ h
  have hload : ((s.putB F.SCAN_CTL_CONT ld n cont).put F.CRC_VAL_VAL ld n ((s.putB F.SCAN_CTL_CONT ld n cont).get F.CRC_INIT_INIT ld n)).get
      F.CRC_VAL_VAL ld n = s.get F.CRC_INIT_INIT ld n % 2 ^ 32 := by
    rw [State.get_put, if_pos ⟨rfl, rfl⟩, hother _ _ (by decide)]
  have hown : ((s.putB F.SCAN_CTL_CONT ld n cont).put F.CRC_VAL_VAL ld n ((s.putB F.SCAN_CTL_CONT ld n cont).get F.CRC_INIT_INIT ld n)).get
      F.FENCE_LEASE_OWNER ld (n + 8) = s.get F.FENCE_LEASE_OWNER ld (n + 8) :=
    (State.get_put_other _ _ _ _ _ _ _ _ (by decide)).trans (hother _ _ (by decide))
  cases cont
  · exact ⟨hload, hown⟩
  · exact ⟨hother _ _ (by decide), hother _ _ (by decide)⟩

theorem scanStart_of_legal {ld n : Nat} {cont : Bool} (h : s.scanMay ld n = true) : s.scanStart ld n cont =
    (s.scanInit ld n cont).scanBegun ld n (s.get F.SCAN_START_START ld n) (s.get F.SCAN_LEN_LEN ld n) := by
  unfold State.scanStart
  dsimp only
  rw [s.scanMay_cont, h, Bool.not_true, if_neg Bool.false_ne_true]
  rfl

/-- What GO of a legal range does. -/
theorem scanStart_effect {ld n : Nat} (cont : Bool) (hown : s.get F.FENCE_LEASE_OWNER ld n = s.get F.FENCE_LEASE_OWNER ld (n + 8)) (hn : n < 8)
    (hbusy : s.flag F.SCAN_STAT_BUSY ld n = false) (h1 : 1 ≤ s.get F.SCAN_LEN_LEN ld n) (hlen : s.get F.SCAN_LEN_LEN ld n ≤ 0x400000)
    (hend : s.get F.SCAN_START_START ld n + s.get F.SCAN_LEN_LEN ld n ≤ 0x400000) : ∃ t, s.scanStart ld n cont = t ∧ t.mem = s.mem ∧
      t.flag F.SCAN_STAT_BUSY ld n = true ∧ t.flag F.CRC_STAT_BUSY ld n = true ∧ t.get F.FENCE_LEASE_OWNER ld n = 0x0C + n ∧
      t.get F.FENCE_LEASE_OWNER ld (n + 8) = s.get F.FENCE_LEASE_OWNER ld (n + 8) ∧ t.get F.SCAN_NEXT_NEXT ld n = s.get F.SCAN_START_START ld n ∧
      t.get F.SCAN_REM_REM ld n = s.get F.SCAN_LEN_LEN ld n ∧
      t.get F.CRC_VAL_VAL ld n = (if cont then s.get F.CRC_VAL_VAL ld n else s.get F.CRC_INIT_INIT ld n % 2 ^ 32) := by
  have hmay : s.scanMay ld n = true := by simp [State.scanMay, hown, hbusy, h1, hlen, hend]
  obtain ⟨hval, hkeep⟩ := s.scanInit_effect ld n cont
  have hmem : (s.scanInit ld n cont).mem = s.mem := State.on_same State.mem rfl
  rw [s.scanStart_of_legal hmay]
  generalize s.scanInit ld n cont = u at hval hkeep hmem
  obtain ⟨hscan, hcrc, howner, hbeside, hnext, hrem, hsame⟩ := u.scanBegun_effect hn (ld := ld) (start := s.get F.SCAN_START_START ld n)
    (len := s.get F.SCAN_LEN_LEN ld n) (by omega) (by omega)
  exact ⟨_, rfl, hmem, State.flag_of_get _ hscan, State.flag_of_get _ hcrc, howner, hbeside.trans hkeep, hnext, hrem, hsame.trans hval⟩

end State

/-- The bus of a die carries its own masters' accesses to its scan engines (R19). -/
theorem route_scanCtl {s : State} {m : Master} {ld n : Nat} (hld : s.hasLd ld = true) (hn : n < 8) (hm : m.die = ld) :
    s.route m (regAddr .SCAN_CTL ld n) = 0 := by
  have all : ∀ ld < 2, ∀ n < 8, regAddr .SCAN_CTL ld n / 2 ^ 28 = ld ∧ holder (regAddr .SCAN_CTL ld n) = ld ∧ regAddr .SCAN_CTL ld n < 2 ^ 31 := by
    decide +kernel
  obtain ⟨hdie, hholder, hmapped⟩ := all ld (lt_two_of_hasLd hld) n hn
  rw [State.route, if_neg (Nat.not_le.mpr hmapped), hdie, hasDie_of_hasLd hld, hholder, if_pos hm.symm]
  rfl

/-- A write of a scan engine's control by its owner is admitted (R19, R34). -/
theorem scanCtl_admitted {s : State} {m : Master} {ld n : Nat} (hld : s.hasLd ld = true) (hheld : s.portHeld m = false) (hn : n < 8)
    (hm : m.die = ld) (hc : m.code ≠ 0) (hown : s.get F.FENCE_LEASE_OWNER ld (n + 8) = m.code) :
    WriteAdmitted s m .SCAN_CTL ld n (decide (m.die = ld) && s.get F.FENCE_LEASE_OWNER ld (n + 8) == m.code && decide (m.code ≠ 0)) true :=
  ⟨hheld, route_scanCtl hld hn hm, by simp [hm, hc, hown], rfl⟩

/-- Settles O53: a scan moves NEXT and REM word by word, and over good words the check value takes the bytes of the memory. -/
theorem scansFeedTheirRangeInOrder : Obligations.ScansFeedTheirRangeInOrder := by
  refine ⟨fun s m ld n cont hld hheld hn hm hc hown => ?go, fun s ld n hld hn hbusy => ?done, fun s m ld n words hld hheld hn hm hc hown => ?stop⟩
  case go =>
    have hw := scanCtl_admitted hld hheld hn hm hc hown
    have hx : exec (.scanGo m ld n cont) s = .next ((s.scanStart ld n cont).respond false) :=
      (State.answer_of (by rw [hld, decide_eq_true hn]; rfl) rfl).trans (congrArg _ (asWrite_admitted hw))
    refine ⟨fun ⟨ho, hbusy, h1, hlen, hend⟩ => ?_, fun hno => ?_⟩
    · obtain ⟨t, he, hmem, hscan, hcrc, howner, hkeep, hnext, hrem, hval⟩ := s.scanStart_effect cont (ho.trans hown.symm) hn hbusy h1 hlen hend
      exact ⟨t.respond false, hx.trans (by rw [he]), hmem, hscan, hcrc, howner, hkeep.trans hown, hnext, hrem, hval⟩
    · have hmay : s.scanMay ld n = false := by
        rw [← Bool.not_eq_true]
        refine mt (fun h => ?_) hno
        simpa [State.scanMay, hown, and_assoc] using h
      have hput : ((s.putB F.SCAN_CTL_CONT ld n cont).put F.SCAN_STAT_BADRANGE ld n 1).get F.SCAN_STAT_BADRANGE ld n = 1 :=
        (State.get_put _ _ _ _ _ _ _).trans (if_pos ⟨rfl, rfl⟩)
      refine ⟨((s.putB F.SCAN_CTL_CONT ld n cont).put F.SCAN_STAT_BADRANGE ld n 1).respond false, hx.trans (by rw [s.scanStart_of_illegal hmay]), hput,
        onlyFields_respond ?_ _⟩
      exact change_regs_iff.1 ((Change.put _ _ (by simp)).trans (.put _ _ (by simp)))
  case done =>
    intro a len hend hgood
    obtain ⟨t, he, hmem, hscan, hcrc, hdone, hrem, -, hval⟩ := s.scanComplete_effect hend
    exact ⟨t, (State.answer_of (by rw [hld, decide_eq_true hn]; rfl) hbusy).trans (congrArg _ he), hmem, hscan, hcrc, hdone, hrem, hval hgood⟩
  case stop =>
    have hw := scanCtl_admitted hld hheld hn hm hc hown
    have hx : exec (.scanStop m ld n words) s = .next ((s.scanStop ld n words).respond false) :=
      (State.answer_of (by rw [hld, decide_eq_true hn]; rfl) rfl).trans (congrArg _ (asWrite_admitted hw))
    refine ⟨fun hidle => hx.trans (by rw [s.scanStop_of_idle hidle]), fun hbusy hend => ?_⟩
    obtain hamid | hlast := Nat.lt_or_ge (max 1 words) (s.scanLeft ld n)
    · obtain ⟨t, he, hmem, hscan, hcrc, hstopped, hdone, hsum⟩ := s.scanStop_amid_effect hend hamid
      exact ⟨t.respond false, hx.trans (by rw [s.scanStop_of_amid hbusy hamid, he]), hscan, hcrc, hmem, fun h => absurd h (Nat.not_le.2 hamid),
        fun _ => ⟨hstopped, hdone, hsum⟩⟩
    · obtain ⟨t, he, hmem, hscan, hcrc, hdone, hrem, hstopped, -⟩ := s.scanComplete_effect hend
      exact ⟨t.respond false, hx.trans (by rw [s.scanStop_of_last hbusy hlast, he]), hscan, hcrc, hmem, fun _ => ⟨hdone, hrem, hstopped⟩,
        fun h => absurd hlast (Nat.not_le.2 h)⟩

end Sys2Proof.Machine
end

section
/-! SUPPORT. One cycle of a quiet scratchpad (R376, R378, R380, R381), write-backs and repairs (R376, R377). -/

namespace Sys2Proof.Machine

namespace State

variable (s : State)

/-- A scratchpad in which nothing waits and no attempt runs. -/
structure Quiet (ld : Nat) : Prop where
  waits : (s.spmSt ld).waits = []
  busy : (s.spmSt ld).busy = false
  rmw : (s.spmSt ld).rmw = []

/-- An access as it enters a cycle. -/
def entering (q : SpmReq) : SpmWait := ⟨q, 0, none, false⟩

variable {s} {ld : Nat}

theorem Quiet.tillerAt (h : s.Quiet ld) (c : Nat) : s.tillerAt ld c = s := by
  rw [State.tillerAt, h.busy, State.on_false]

theorem Quiet.aborts (h : s.Quiet ld) (pri off : Nat) : s.aborts ld pri off = false := by
  rw [State.aborts, h.busy]
  rfl

theorem Quiet.held (h : s.Quiet ld) (pri off : Nat) : s.held ld pri off = false := by
  rw [State.held, h.busy]
  rfl

theorem Quiet.spmMeets (h : s.Quiet ld) (pri off : Nat) : s.spmMeets ld pri off = s := by
  rw [State.spmMeets, h.aborts, State.on_false]

variable (s)

/-- The end of a cycle in which nothing stalls: the returned values, and the banks that a narrow write keeps. -/
def cycleEnd (ld : Nat) (cycle : Nat) (rmw : List Nat) (results : List Nat) (err : Bool) : State :=
  ((s.setSpm ld { s.spmSt ld with waits := [], cycle := cycle, rmw := rmw }).give results).respond err

variable {s}

/-- A cycle of a quiet scratchpad, all of whose accesses are served. -/
theorem spmCycle_quiet (h : s.Quiet ld) {reqs : List SpmReq} (hfresh : freshReqs [] reqs = reqs)
    (hserved : ∀ w ∈ reqs.map entering, servedNow false (reqs.map entering) w = true) (prog : Nat) (bad : List Nat) :
    ∃ cycle rmw err, s.spmCycle ld ⟨reqs, prog, bad⟩ =
      ((s.spmServeAll ld ((reqs.map entering).filter fun w => w.req.wr.isNone)).1.spmServeAll ld
        ((reqs.map entering).filter fun w => w.req.wr.isSome)).1.cycleEnd ld cycle rmw
          (s.spmServeAll ld ((reqs.map entering).filter fun w => w.req.wr.isNone)).2.1 err := by
  have hmap : (reqs.map fun q => (⟨q, 0, none, false⟩ : SpmWait)) = reqs.map entering := rfl
  have hstuck (w : SpmWait) (hw : w ∈ reqs.map entering) : w.stuck = false := by
    obtain ⟨q, -, rfl⟩ := List.mem_map.1 hw
    rfl
  have hcomp : (reqs.map entering).filter (fun w => !w.stuck) = reqs.map entering :=
    List.filter_eq_self.2 fun w hw => by rw [hstuck w hw]; rfl
  have hstall : (reqs.map entering).filter (fun w => w.stuck) = [] :=
    List.filter_eq_nil_iff.2 fun w hw => by rw [hstuck w hw]; exact Bool.false_ne_true
  have hdone : (reqs.map entering).filter (servedNow false (reqs.map entering)) = reqs.map entering := List.filter_eq_self.2 hserved
  have hlost : (reqs.map entering).filter (fun w => !servedNow false (reqs.map entering) w) = [] :=
    List.filter_eq_nil_iff.2 fun w hw => by rw [hserved w hw]; exact Bool.false_ne_true
  have hnone : ((reqs.map entering).any fun _ => false) = false := by simp
  unfold State.spmCycle
  simp only [h.tillerAt, h.waits, h.busy, h.aborts, h.held, h.rmw, hfresh, hmap, List.nil_append, Bool.false_and, Bool.or_false, List.contains_nil,
    hnone, State.on_false, hcomp, hstall, hdone, hlost, List.map_nil]
  exact ⟨_, _, _, rfl⟩

theorem servedNow_alone (w : SpmWait) : servedNow false [w] w = true := by
  simp [servedNow]

/-- A cycle of a quiet scratchpad serves its only access. -/
theorem spmCycle_read (h : s.Quiet ld) {q : SpmReq} (hq : q.wr = none) (prog : Nat) (bad : List Nat) :
    ∃ cycle rmw err, s.spmCycle ld ⟨[q], prog, bad⟩ =
      (s.spmServe ld (entering q)).1.cycleEnd ld cycle rmw (s.spmServe ld (entering q)).2.1 err := by
  obtain ⟨cycle, rmw, err, he⟩ := spmCycle_quiet h (reqs := [q]) (by simp [freshReqs])
    (fun w hw => by rw [List.mem_singleton.1 hw]; exact servedNow_alone _) prog bad
  refine ⟨cycle, rmw, err, he.trans ?_⟩
  simp [entering, hq, State.spmServeAll]

theorem spmCycle_write (h : s.Quiet ld) {q : SpmReq} {v : Nat} (hq : q.wr = some v) (prog : Nat) (bad : List Nat) :
    ∃ cycle rmw err, s.spmCycle ld ⟨[q], prog, bad⟩ = (s.spmServe ld (entering q)).1.cycleEnd ld cycle rmw [] err := by
  obtain ⟨cycle, rmw, err, he⟩ := spmCycle_quiet h (reqs := [q]) (by simp [freshReqs])
    (fun w hw => by rw [List.mem_singleton.1 hw]; exact servedNow_alone _) prog bad
  refine ⟨cycle, rmw, err, he.trans ?_⟩
  simp [entering, hq, State.spmServeAll]

/-- A read and a write of one word go in one cycle, the read first. -/
theorem spmCycle_both (h : s.Quiet ld) {q w : SpmReq} {v : Nat} (hq : q.wr = none) (hw : w.wr = some v) (hpri : w.pri ≠ q.pri)
    (hoff : w.off = q.off) (prog : Nat) (bad : List Nat) :
    ∃ cycle rmw err, s.spmCycle ld ⟨[q, w], prog, bad⟩ =
      ((s.spmServe ld (entering q)).1.spmServe ld (entering w)).1.cycleEnd ld cycle rmw (s.spmServe ld (entering q)).2.1 err := by
  have hserved : ∀ x ∈ [q, w].map entering, servedNow false ([q, w].map entering) x = true := by
    intro x hx
    simp [entering] at hx
    obtain rfl | rfl := hx <;> simp [servedNow, entering, hq, hw, hoff] <;> omega
  obtain ⟨cycle, rmw, err, he⟩ := spmCycle_quiet h (reqs := [q, w]) (by simp [freshReqs, Ne.symm hpri]) hserved prog bad
  refine ⟨cycle, rmw, err, he.trans ?_⟩
  simp [entering, hq, hw, State.spmServeAll]

/-! ### Loads (R376, R381) -/

/-- What a load takes from a word. -/
def loadVal (off size v : Nat) : Nat :=
  ((v >>> (8 * (off % 4))) + (v <<< (32 - 8 * (off % 4))) % 2 ^ 32 * (decide (8 * (off % 4) ≠ 0)).toNat) % 2 ^ (8 * size)

theorem loadVal_zero (off size : Nat) : loadVal off size 0 = 0 := by simp [loadVal]

theorem loadVal_rot (off size v : Nat) : loadVal off size v =
    (v / 2 ^ (8 * (off % 4)) + (if 8 * (off % 4) = 0 then 0 else v * 2 ^ (32 - 8 * (off % 4)) % 2 ^ 32)) % 2 ^ (8 * size) := by
  unfold loadVal
  rw [Nat.shiftRight_eq_div_pow, Nat.shiftLeft_eq]
  by_cases h : 8 * (off % 4) = 0
  · simp [h]
  · rw [decide_eq_true h, if_neg h, Bool.toNat_true, Nat.mul_one]

theorem loadVal_within {off size : Nat} (h : off % 4 + size ≤ 4) (v : Nat) : loadVal off size v = v / 2 ^ (8 * (off % 4)) % 2 ^ (8 * size) := by
  rw [loadVal_rot]
  split
  · rfl
  · have hdvd : 2 ^ (8 * size) ∣ v * 2 ^ (32 - 8 * (off % 4)) % 2 ^ 32 :=
      (Nat.dvd_mod_iff (Nat.pow_dvd_pow 2 (by omega))).2 (Dvd.dvd.mul_left (Nat.pow_dvd_pow 2 (by omega)) v)
    obtain ⟨k, hk⟩ := hdvd
    rw [hk, Nat.add_mul_mod_self_left]

theorem spmServe_load {q : SpmReq} (hq : q.wr = none) (hscan : s.scanServed ld q = false) :
    s.spmServe ld (entering q) = ((s.spmLoad ld q.pri q.off q.size).1, [(s.spmLoad ld q.pri q.off q.size).2.1], (s.spmLoad ld q.pri q.off q.size).2.2) := by
  unfold State.spmServe entering
  dsimp only
  rw [hq]
  dsimp only
  rw [hscan, if_neg Bool.false_ne_true]

theorem spmLoad_crossing {pri off size : Nat} (hc : 4 < off % 4 + size) (hrot : s.rotOn ld pri = false) :
    s.spmLoad ld pri off size = (s.spmErr ld off pri 5 0, 0, true) := by
  rw [State.spmLoad, crosses, decide_eq_true hc, hrot]
  rfl

theorem Quiet.spmLoad (h : s.Quiet ld) {pri off size : Nat} (hc : off % 4 + size ≤ 4 ∨ s.rotOn ld pri = true) :
    s.spmLoad ld pri off size = ((s.readWord ld pri off).1, loadVal off size (s.readWord ld pri off).2.1, (s.readWord ld pri off).2.2) := by
  have hno : (crosses off size && !s.rotOn ld pri) = false := by
    obtain hc | hc := hc
    · rw [crosses, decide_eq_false (Nat.not_lt.2 hc), Bool.false_and]
    · rw [hc, Bool.not_true, Bool.and_false]
  rw [State.spmLoad, hno, if_neg Bool.false_ne_true, State.spmRead, h.spmMeets]
  rfl

theorem rotOn_eq (s : State) {pri : Nat} (h : pri ≠ 0) : s.rotOn ld pri = (s.get F.SPM_MODE_ROT ld 0).testBit (pri - 1) := by
  rw [State.rotOn, decide_eq_true h, Bool.and_true]

theorem rotOn_of_off {pri : Nat} (h : (s.get F.SPM_MODE_ROT ld 0).testBit (pri - 1) = false) : s.rotOn ld pri = false := by
  rw [State.rotOn, h, Bool.false_and]

/-! ### What the errors record (R376, R377, R381) -/

variable (s)

theorem get_spmErr (ld off pri kind synd : Nat) : (s.spmErr ld off pri kind synd).get F.SPM_ERRLOG1_KIND ld 0 = kind % 8 ∧
    (s.spmErr ld off pri kind synd).get F.SPM_ERRLOG0_OFFS ld 0 = off % 2 ^ 22 := by
  have hother (s : State) {G H : Fld} (v : Nat) (h : G.same H = false) : (s.put G ld 0 v).get H ld 0 = s.get H ld 0 := s.get_put_other _ _ _ _ _ _ _ h
  have hself (s : State) (G : Fld) (v : Nat) : (s.put G ld 0 v).get G ld 0 = v % 2 ^ G.w := (s.get_put _ _ _ _ _ _).trans (if_pos ⟨rfl, rfl⟩)
  unfold State.spmErr
  refine ⟨(hother _ _ (by decide)).trans ((hother _ _ (by decide)).trans (hself _ _ _)), ?_⟩
  exact (hother _ _ (by decide)).trans ((hother _ _ (by decide)).trans ((hother _ _ (by decide)).trans ((hother _ _ (by decide)).trans (hself _ _ _))))

theorem get_badWord (ld off pri kind : Nat) : (s.badWord ld off pri kind).get F.SPM_ERRLOG1_KIND ld 0 = kind % 8 ∧
    (s.badWord ld off pri kind).get F.SPM_ECCSTAT_UECNT ld 0 = min (s.get F.SPM_ECCSTAT_UECNT ld 0 + 1) 255 := by
  have hother (s : State) {G H : Fld} (v : Nat) (h : G.same H = false) : (s.put G ld 0 v).get H ld 0 = s.get H ld 0 := s.get_put_other _ _ _ _ _ _ _ h
  have hinsts (s : State) (rs : List InstRec) : RegsWithin fieldStopRegs s (s.each rs fun s r => s.fenceInst ld r.iid 0x0D) :=
    .each (fun s r _ => s.fenceInst_fieldStop ld r.iid 0x0D) _
  have hset (s : State) (m : SpmSt) (G : Fld) : (s.setSpm ld m).get G ld 0 = s.get G ld 0 := rfl
  unfold State.badWord
  refine ⟨(hinsts _ _ _ _ _ (by decide)).trans ((hset _ _ _).trans ((hother _ _ (by decide)).trans (State.get_spmErr _ _ _ _ _ _).1)), ?_⟩
  refine (hinsts _ _ _ _ _ (by decide)).trans ((hset _ _ _).trans ((State.get_count _ _ _ _).trans ?_))
  unfold State.spmErr
  rw [hother _ _ (by decide), hother _ _ (by decide), hother _ _ (by decide), hother _ _ (by decide), hother _ _ (by decide)]
  rfl

theorem correctWord_effect (ld off : Nat) : (s.correctWord ld off).get F.SPM_ECCSTAT_CECNT ld 0 =
      min (s.get F.SPM_ECCSTAT_CECNT ld 0 + 1) (2 ^ F.SPM_ECCSTAT_CECNT.w - 1) ∧
    ((s.correctWord ld off).spmSt ld).wback.contains (wordOff off) = true := by
  refine ⟨s.get_count _ _ _, ?_⟩
  unfold State.correctWord
  dsimp only
  rw [State.spmSt_setSpm, if_pos rfl]
  exact addRepair_self _ _

/-! ### Reads of words by their class -/

theorem readWord_of_down {ld off : Nat} (h : s.accessKind ld off ≠ 0) (pri : Nat) :
    s.readWord ld pri off = (s.spmErr ld off pri (s.accessKind ld off) 0, 0, true) := by
  unfold State.readWord
  dsimp only
  rw [if_pos h]

theorem readWord_of_bad {ld off : Nat} (h : s.accessKind ld off = 0) (hc : s.eccClass ld off = .uncorrectable) (pri : Nat) :
    s.readWord ld pri off = (s.badWord ld off pri 1, 0, true) := by
  unfold State.readWord
  dsimp only
  rw [if_neg (not_not.2 h), hc]

theorem readWord_of_corrected {ld off : Nat} (h : s.accessKind ld off = 0) (hc : s.eccClass ld off = .corrected) (pri : Nat) :
    s.readWord ld pri off = (s.correctWord ld off, s.spmWord ld off, false) := by
  unfold State.readWord
  dsimp only
  rw [if_neg (not_not.2 h), hc]

theorem accessKind_lt (ld off : Nat) : s.accessKind ld off < 8 := by
  unfold State.accessKind
  split
  · decide
  · split <;> decide

/-- The end of a cycle leaves memory, fields and classes alone, and of the scratchpad's state what waits for a write-back or a repair. -/
theorem cycleEnd_kept (ld cycle : Nat) (rmw results : List Nat) (err : Bool) : ∃ t, s.cycleEnd ld cycle rmw results err = t ∧
    t.results = results ∧ t.mem = s.mem ∧ (∀ G d i, t.get G d i = s.get G d i) ∧ (∀ ld off, t.eccClass ld off = s.eccClass ld off) ∧
    (t.spmSt ld).repair = (s.spmSt ld).repair ∧ (t.spmSt ld).wback = (s.spmSt ld).wback := by
  have hspm : (s.cycleEnd ld cycle rmw results err).spmSt ld = { s.spmSt ld with waits := [], cycle := cycle, rmw := rmw } := by
    rw [State.cycleEnd, State.respond_spmSt, State.give_spmSt, State.spmSt_setSpm, if_pos rfl]
  have hregs : (s.cycleEnd ld cycle rmw results err).regs = s.regs := by
    unfold State.cycleEnd State.respond State.give State.setSpm
    rfl
  have hecc : (s.cycleEnd ld cycle rmw results err).ecc = s.ecc := by
    unfold State.cycleEnd State.respond State.give State.setSpm
    rfl
  have hres : (s.cycleEnd ld cycle rmw results err).results = results := rfl
  have hmem : (s.cycleEnd ld cycle rmw results err).mem = s.mem := by
    unfold State.cycleEnd State.respond State.give State.setSpm
    rfl
  generalize s.cycleEnd ld cycle rmw results err = t at hspm hregs hecc hres hmem
  refine ⟨t, rfl, hres, hmem, fun G d i => ?_, fun l o => ?_, by rw [hspm], by rw [hspm]⟩
  · rw [State.get, hregs]
    rfl
  · rw [State.eccClass, hecc]
    rfl

theorem exec_scratchpadAccess {ld : Nat} (hld : s.hasLd ld = true) {reqs : List SpmReq} (hoff : ∀ q ∈ reqs, q.off < 0x400000) (prog : Nat) (bad : List Nat) :
    ∃ err, exec (.scratchpadAccess ld ⟨reqs, prog, bad⟩) s = .next ((s.spmCycle ld ⟨reqs, prog, bad⟩).respond err) := by
  have hin : reqs.filter (fun q => decide (q.off < 0x400000)) = reqs := List.filter_eq_self.2 fun q hq => decide_eq_true (hoff q hq)
  have hout : reqs.filter (fun q => decide (0x400000 ≤ q.off)) = [] :=
    List.filter_eq_nil_iff.2 fun q hq => by
      rw [decide_eq_false (Nat.not_le.2 (hoff q hq))]
      exact Bool.false_ne_true
  have hall : (reqs.all fun q => decide (q.off < 0x4000000)) = true :=
    List.all_eq_true.2 fun q hq => decide_eq_true (Nat.lt_trans (hoff q hq) (by decide))
  refine ⟨(s.spmCycle ld ⟨reqs, prog, bad⟩).busErr || !([] : List SpmReq).isEmpty, ?_⟩
  change execScratchpadAccess ld ⟨reqs, prog, bad⟩ s = _
  unfold execScratchpadAccess
  dsimp only
  rw [hin, hout]
  exact State.answer_of (by rw [hld]; exact hall) rfl

/-- What the only read of a cycle does, by the load that it makes. -/
theorem readCycle_effect {ld : Nat} (h : s.Quiet ld) (hld : s.hasLd ld = true) {q : SpmReq} (hq : q.wr = none) (hscan : s.scanServed ld q = false)
    (hoff : q.off < 0x400000) (prog : Nat) (bad : List Nat) : ∃ t, exec (.scratchpadAccess ld ⟨[q], prog, bad⟩) s = .next t ∧ t.mem = s.mem ∧
      t.results = [(s.spmLoad ld q.pri q.off q.size).2.1] ∧ (∀ G d i, t.get G d i = (s.spmLoad ld q.pri q.off q.size).1.get G d i) ∧
      (t.spmSt ld).repair = ((s.spmLoad ld q.pri q.off q.size).1.spmSt ld).repair ∧
      (t.spmSt ld).wback = ((s.spmLoad ld q.pri q.off q.size).1.spmSt ld).wback := by
  have hmem : (s.spmLoad ld q.pri q.off q.size).1.mem = s.mem := by
    unfold State.spmLoad
    split
    · exact (s.spmErr_read _ _ _ _ _).mem
    · exact (s.spmRead_read _ _ _).mem
  obtain ⟨err, hx⟩ := s.exec_scratchpadAccess hld (reqs := [q]) (by simpa using hoff) prog bad
  obtain ⟨cycle, rmw, e, hc⟩ := spmCycle_read h hq prog bad
  rw [hc, spmServe_load hq hscan] at hx
  obtain ⟨t, he, hres, hmt, hget, -, hrep, hwb⟩ := (s.spmLoad ld q.pri q.off q.size).1.cycleEnd_kept ld cycle rmw
    [(s.spmLoad ld q.pri q.off q.size).2.1] e
  rw [he] at hx
  exact ⟨t.respond err, hx, hmt.trans hmem, hres, hget, hrep, hwb⟩

/-! ### Stores (R376, R381, R395) -/

theorem scanWord_kept (ld n : Nat) : ScanKept s (s.scanWord ld n) := by
  have hread := s.spmRead_read ld (14 + n) (wordOff (s.get F.SCAN_NEXT_NEXT ld n))
  unfold State.scanWord
  generalize s.spmRead ld (14 + n) (wordOff (s.get F.SCAN_NEXT_NEXT ld n)) = r at hread
  obtain ⟨u, v, err⟩ := r
  obtain ⟨w, hw, hk, -⟩ := u.scanTake_effect v err ld n rfl
  rw [hw]
  exact hk.after (.ofRead hread)

theorem ScanKept.each {α : Type} {xs : List α} {op : State → α → State} (hop : ∀ s, ∀ x ∈ xs, ScanKept s (op s x)) (s : State) :
    ScanKept s (s.each xs op) :=
  ⟨State.each_same State.mem (fun s x hx => (hop s x hx).mem) s,
    fun G d i hr hf => State.each_same (State.get · G d i) (fun s x hx => (hop s x hx).fields G d i hr hf) s⟩

theorem scansMeet_kept (ld off : Nat) : ScanKept s (s.scansMeet ld off) := by
  have hspend (s : State) : ScanKept s s.spend := ⟨rfl, fun _ _ _ _ _ => rfl⟩
  have hwords (s : State) (n k : Nat) : ScanKept s (s.scanWords ld n k) := .each (fun s _ _ => s.scanWord_kept ld n) s
  exact .each (fun s n _ => .after (hspend _) (hwords _ _ _)) s

/-- The bytes of a word after the enabled ones were stored. -/
theorem byte_storeBytes {l : List Nat} (base : Nat) (val : Nat → Byte) (a : Nat) :
    (s.each l fun s k => s.setByte (base + k) (val k)).byte a = if base ≤ a ∧ a - base ∈ l then val (a - base) else s.byte a := by
  induction l generalizing s with
  | nil => simp [State.each]
  | cons k l ih =>
    have hset : (s.setByte (base + k) (val k)).byte a = if a = base + k then val k else s.byte a := Store.get_set _ _ _ _
    refine (ih (s.setByte (base + k) (val k))).trans ?_
    rw [hset]
    by_cases hb : base ≤ a
    · by_cases hak : a = base + k
      · subst hak
        simp
      · have hne : a - base ≠ k := by omega
        simp [hb, hak, hne]
    · have hne : a ≠ base + k := by omega
      simp [hb, hne]

/-- What a store of the enabled bytes of a word does. -/
theorem storeWord_effect (ld off v : Nat) {be : Nat} (hbe : be < 16) :
    (∀ a, (s.storeWord ld off v be).byte a = if ld * 2 ^ 28 + wordOff off ≤ a ∧ be.testBit (a - (ld * 2 ^ 28 + wordOff off)) = true
      then BitVec.ofNat 8 (bitsOf v (8 * (a - (ld * 2 ^ 28 + wordOff off))) 8) else s.byte a) ∧
    (s.storeWord ld off v be).eccClass ld off = .good ∧
    (∀ G d i, G.reg ∉ readRegs → (∀ F ∈ scanFlds, F.same G = false) → (s.storeWord ld off v be).get G d i = s.get G d i) := by
  have hmeet := s.scansMeet_kept ld off
  unfold State.storeWord
  dsimp only
  generalize s.scansMeet ld off = u at hmeet
  have hbyte (u : State) (m : SpmSt) (a : Nat) : ((u.setEcc ld off .good).setSpm ld m).byte a = u.byte a := rfl
  have hbyteRegs (u : State) (a : Nat) (v : Byte) : (u.setByte a v).regs = u.regs := rfl
  have hregs (u : State) (l : List Nat) (val : Nat → Byte) : (u.each l fun s k => s.setByte (ld * 2 ^ 28 + wordOff off + k) (val k)).regs = u.regs :=
    State.each_same State.regs (fun s k _ => hbyteRegs s _ _) u
  refine ⟨fun a => ?_, ?_, fun G d i hr hf => ?_⟩
  · rw [hbyte, State.byte_storeBytes]
    have hmem : u.byte a = s.byte a := congrArg (fun m => Store.get (fun _ => (0 : Byte)) m a) hmeet.mem
    rw [hmem]
    refine if_congr (and_congr_right fun _ => ?_) rfl rfl
    rw [List.mem_filter, List.mem_range]
    refine and_iff_right_of_imp fun hb => ?_
    by_contra hge
    have hlt : be < 2 ^ (a - (ld * 2 ^ 28 + wordOff off)) := Nat.lt_of_lt_of_le hbe (Nat.pow_le_pow_right (by decide : 0 < 2) (Nat.le_of_not_lt hge) : 2 ^ 4 ≤ _)
    rw [Nat.testBit_lt_two_pow hlt] at hb
    exact absurd hb Bool.false_ne_true
  · have hclass (u : State) (m : SpmSt) : ((u.setEcc ld off .good).setSpm ld m).eccClass ld off = (u.setEcc ld off .good).eccClass ld off := rfl
    exact (hclass _ _).trans ((State.eccClass_setEcc _ _ _ _ _ _).trans (if_pos rfl))
  · exact (congrArg (fun r => Store.get (fun _ => G.resetAt d i) r (G.key d i)) (hregs _ _ _)).trans (hmeet.fields G d i hr hf)

theorem byte_congr {s t : State} (h : t.mem = s.mem) (a : Nat) : t.byte a = s.byte a := by
  rw [State.byte, h]
  rfl

/-- A performed write stores its bytes, over memory as it was. -/
theorem writeWord_stored {ld pri off v be : Nat} (hok : s.spmWriteOk ld pri off = true) (hk : s.accessKind ld off = 0)
    (hc : be = 15 ∨ s.eccClass ld off ≠ .uncorrectable) :
    ∃ u : State, u.mem = s.mem ∧ (s.writeWord ld pri off v be).1 = u.storeWord ld off v be := by
  unfold State.writeWord
  dsimp only
  rw [hok, Bool.not_true, if_neg Bool.false_ne_true, if_neg (not_not.2 hk)]
  by_cases hbe : be = 15
  · rw [if_pos hbe]
    exact ⟨s, rfl, rfl⟩
  · rw [if_neg hbe]
    cases h : s.eccClass ld off
    · exact ⟨s, rfl, rfl⟩
    · exact ⟨s.count F.SPM_ECCSTAT_CECNT ld 0, rfl, rfl⟩
    · exact ⟨s, rfl, rfl⟩
    · exact absurd h (hc.resolve_left hbe)

theorem writeWord_of_bad {ld pri off v be : Nat} (hok : s.spmWriteOk ld pri off = true) (hk : s.accessKind ld off = 0) (hbe : be ≠ 15)
    (hc : s.eccClass ld off = .uncorrectable) : s.writeWord ld pri off v be = (s.badWord ld off pri 1, true) := by
  unfold State.writeWord
  dsimp only
  rw [hok, Bool.not_true, if_neg Bool.false_ne_true, if_neg (not_not.2 hk), if_neg hbe, hc]

theorem writeWord_of_down {ld pri off v be : Nat} (hok : s.spmWriteOk ld pri off = true) (hk : s.accessKind ld off ≠ 0) :
    s.writeWord ld pri off v be = (s.spmErr ld off pri (s.accessKind ld off) 0, true) := by
  unfold State.writeWord
  dsimp only
  rw [hok, Bool.not_true, if_neg Bool.false_ne_true, if_pos hk]

theorem writeWord_of_refused {ld pri off v be : Nat} (hok : s.spmWriteOk ld pri off = false) :
    s.writeWord ld pri off v be = (s.logErr ld (priMaster ld pri) (ld * 2 ^ 28 + off) 7 true, true) := by
  unfold State.writeWord
  dsimp only
  rw [hok, Bool.not_false, if_pos rfl]

/-- An error that a logic die logs names its kind and changes no memory. -/
theorem logErr_logic {ld : Nat} (hld : ld < 2) (m : Master) (addr kind : Nat) (w : Bool) :
    (s.logErr ld m addr kind w).mem = s.mem ∧ (s.logErr ld m addr kind w).get F.SYSCTL_ERRLOG1_KIND ld 0 = kind % 2 ^ F.SYSCTL_ERRLOG1_KIND.w := by
  have hother (s : State) {G : Fld} (v : Nat) (h : G.same F.SYSCTL_ERRLOG1_KIND = false) :
      (s.put G ld 0 v).get F.SYSCTL_ERRLOG1_KIND ld 0 = s.get F.SYSCTL_ERRLOG1_KIND ld 0 := s.get_put_other _ _ _ _ _ _ _ h
  have hput (s : State) (G : Fld) (v : Nat) : (s.put G ld 0 v).mem = s.mem := rfl
  unfold State.logErr
  dsimp only
  rw [if_pos hld]
  refine ⟨?_, (hother _ _ (by decide)).trans ((hother _ _ (by decide)).trans ((hother _ _ (by decide)).trans
    ((State.get_put _ _ _ _ _ _ _).trans (if_pos ⟨rfl, rfl⟩))))⟩
  exact (hput _ _ _).trans ((hput _ _ _).trans ((hput _ _ _).trans ((hput _ _ _).trans ((hput _ _ _).trans ((hput _ _ _).trans (hput _ _ _))))))

/-- The byte enables of a store within a word. -/
def storeBe (off size : Nat) : Nat := (2 ^ size - 1) <<< (off % 4)

theorem testBit_storeBe (off size k : Nat) : (storeBe off size).testBit k = (decide (off % 4 ≤ k) && decide (k - off % 4 < size)) := by
  rw [storeBe, Nat.testBit_shiftLeft, Nat.testBit_two_pow_sub_one]

theorem storeBe_lt {off size : Nat} (h : off % 4 + size ≤ 4) : storeBe off size < 16 := by
  have hpow : 2 ^ size * 2 ^ (off % 4) ≤ 2 ^ 4 := by
    rw [← Nat.pow_add, Nat.add_comm]
    exact Nat.pow_le_pow_right (by decide) h
  have hlt : (2 ^ size - 1) * 2 ^ (off % 4) < 2 ^ size * 2 ^ (off % 4) :=
    Nat.mul_lt_mul_of_pos_right (Nat.sub_lt (Nat.two_pow_pos _) (by decide)) (Nat.two_pow_pos _)
  rw [storeBe, Nat.shiftLeft_eq]
  exact Nat.lt_of_lt_of_le hlt hpow

theorem storeBe_eq_full {off size : Nat} (h : off % 4 + size ≤ 4) : storeBe off size = 15 ↔ size = 4 := by
  refine ⟨fun he => ?_, fun hs => ?_⟩
  · have h0 := testBit_storeBe off size 0
    have h3 := testBit_storeBe off size 3
    rw [he] at h0 h3
    have h0' : off % 4 ≤ 0 ∧ 0 - off % 4 < size := by simpa using h0.symm
    have h3' : off % 4 ≤ 3 ∧ 3 - off % 4 < size := by simpa using h3.symm.trans (by decide : Nat.testBit 15 3 = true)
    omega
  · have h0 : off % 4 = 0 := by omega
    rw [storeBe, hs, h0]
    rfl

theorem crosses_beSize {off size : Nat} (hs : size ≤ 4) : crosses off (beSize (2 ^ size - 1)) = decide (4 < off % 4 + size) := by
  have hoff : off % 4 < 4 := Nat.mod_lt _ (by decide)
  unfold crosses beSize
  interval_cases size <;> simp
  omega

variable {s} {ld : Nat}

theorem spmServe_store (h : s.Quiet ld) {q : SpmReq} {v : Nat} (hq : q.wr = some v) (hsize : q.size ≤ 4) (hin : q.off % 4 + q.size ≤ 4) :
    (s.spmServe ld (entering q)).1 = (s.writeWord ld q.pri q.off (v <<< (8 * (q.off % 4))) (storeBe q.off q.size)).1 := by
  unfold State.spmServe entering
  dsimp only
  rw [hq]
  dsimp only
  rw [State.spmStore, crosses_beSize hsize, decide_eq_false (Nat.not_lt.2 hin), if_neg Bool.false_ne_true, h.spmMeets]
  rfl

theorem spmServe_crossing {q : SpmReq} {v : Nat} (hq : q.wr = some v) (hsize : q.size ≤ 4) (hout : 4 < q.off % 4 + q.size) :
    (s.spmServe ld (entering q)).1 = s.spmErr ld q.off q.pri 5 0 := by
  unfold State.spmServe entering
  dsimp only
  rw [hq]
  dsimp only
  rw [State.spmStore, crosses_beSize hsize, decide_eq_true hout, if_pos rfl]

/-- What the only write of a cycle does, by the state in which it was served. -/
theorem writeCycle_effect (h : s.Quiet ld) (hld : s.hasLd ld = true) {q : SpmReq} {v : Nat} (hq : q.wr = some v) (hoff : q.off < 0x400000)
    (prog : Nat) (bad : List Nat) : ∃ t, exec (.scratchpadAccess ld ⟨[q], prog, bad⟩) s = .next t ∧ t.results = [] ∧
      t.mem = (s.spmServe ld (entering q)).1.mem ∧ (∀ G d i, t.get G d i = (s.spmServe ld (entering q)).1.get G d i) ∧
      (∀ off, t.eccClass ld off = (s.spmServe ld (entering q)).1.eccClass ld off) := by
  obtain ⟨err, hx⟩ := s.exec_scratchpadAccess hld (reqs := [q]) (by simpa using hoff) prog bad
  obtain ⟨cycle, rmw, e, hc⟩ := spmCycle_write h hq prog bad
  rw [hc] at hx
  obtain ⟨t, he, hres, hmt, hget, hecc, -⟩ := (s.spmServe ld (entering q)).1.cycleEnd_kept ld cycle rmw [] e
  rw [he] at hx
  exact ⟨t.respond err, hx, hres, hmt, hget, hecc ld⟩

/-- What a store within a word writes. -/
theorem stored_bytes (s : State) (v : Nat) {q : SpmReq} (hin : q.off % 4 + q.size ≤ 4) :
    (∀ k < q.size, (s.storeWord ld q.off (v <<< (8 * (q.off % 4))) (storeBe q.off q.size)).byte (ld * 2 ^ 28 + q.off + k) =
      BitVec.ofNat 8 (v / 2 ^ (8 * k))) ∧
    (∀ a, a < ld * 2 ^ 28 + q.off ∨ ld * 2 ^ 28 + q.off + q.size ≤ a →
      (s.storeWord ld q.off (v <<< (8 * (q.off % 4))) (storeBe q.off q.size)).byte a = s.byte a) := by
  obtain ⟨hbyte, -, -⟩ := s.storeWord_effect ld q.off (v <<< (8 * (q.off % 4))) (storeBe_lt hin)
  have hbase : wordOff q.off + q.off % 4 = q.off := by
    unfold wordOff
    omega
  refine ⟨fun k hk => ?_, fun a ha => ?_⟩
  · have hidx : ld * 2 ^ 28 + q.off + k - (ld * 2 ^ 28 + wordOff q.off) = q.off % 4 + k := by omega
    rw [hbyte, hidx, testBit_storeBe, if_pos ⟨by omega, by simp [hk]⟩, bitsOf, Nat.mul_add, Nat.shiftRight_add, Nat.shiftLeft_shiftRight,
      Nat.shiftRight_eq_div_pow]
    exact BitVec.eq_of_toNat_eq (by simp)
  · rw [hbyte, testBit_storeBe, if_neg]
    rintro ⟨hle, hbit⟩
    have hb : q.off % 4 ≤ a - (ld * 2 ^ 28 + wordOff q.off) ∧ a - (ld * 2 ^ 28 + wordOff q.off) - q.off % 4 < q.size := by simpa using hbit
    omega

/-- A word stored whole reads as it was stored. -/
theorem spmWord_stored (s : State) (ld off v : Nat) : (s.storeWord ld off v 15).spmWord ld off = v % 2 ^ 32 := by
  obtain ⟨hbyte, -, -⟩ := s.storeWord_effect ld off v (be := 15) (by decide)
  have hk (k : Nat) (hk : k < 4) : (s.storeWord ld off v 15).byte (ld * 2 ^ 28 + wordOff off + k) = BitVec.ofNat 8 (v / 256 ^ k) := by
    have hbit : Nat.testBit 15 k = true := by interval_cases k <;> decide
    rw [hbyte, Nat.add_sub_cancel_left, if_pos ⟨Nat.le_add_right _ _, hbit⟩, bitsOf, Nat.shiftRight_eq_div_pow, Nat.pow_mul]
    exact BitVec.eq_of_toNat_eq (by simp)
  have hbytes : (s.storeWord ld off v 15).bytes (ld * 2 ^ 28 + wordOff off) 4 = leBytes 4 v := by
    unfold State.bytes
    rw [List.map_congr_left fun k hk' => hk k (List.mem_range.1 hk')]
    simp [List.range_succ, leBytes, Nat.div_div_eq_div_mul]
  rw [State.spmWord, hbytes, leNat_leBytes, show 256 ^ 4 = 2 ^ 32 by norm_num]

/-- A read and a write of one word in one cycle: the old word returns, the new one stands. -/
theorem bothCycle_effect (h : s.Quiet ld) (hld : s.hasLd ld = true) {q : SpmReq} {p v : Nat} (hq : q.wr = none) (hscan : s.scanServed ld q = false)
    (hoff : q.off < 0x400000) (hsize : q.size = 4) (hal : q.off % 4 = 0) (hpri : p ≠ q.pri) (hok : s.spmWriteOk ld p q.off = true)
    (hk : s.accessKind ld q.off = 0) (hc : s.eccClass ld q.off = .good) (prog : Nat) (bad : List Nat) :
    ∃ t, exec (.scratchpadAccess ld ⟨[q, ⟨p, q.off, 4, some v⟩], prog, bad⟩) s = .next t ∧
      t.results = [s.spmWord ld q.off % 2 ^ 32] ∧ t.spmWord ld q.off = v % 2 ^ 32 := by
  let w : SpmReq := ⟨p, q.off, 4, some v⟩
  have hread : (s.spmServe ld (entering q)).1 = s ∧ (s.spmServe ld (entering q)).2.1 = [s.spmWord ld q.off % 2 ^ 32] := by
    rw [spmServe_load hq hscan, h.spmLoad (.inl (by omega)), s.readWord_of_good hk hc]
    refine ⟨rfl, congrArg (fun x => [x]) ?_⟩
    rw [loadVal_within (by omega), hal, hsize, Nat.mul_zero, Nat.pow_zero, Nat.div_one]
  have hwrite : ∃ u : State, u.mem = s.mem ∧ (s.spmServe ld (entering w)).1 = u.storeWord ld q.off v 15 := by
    have hin : w.off % 4 + w.size ≤ 4 := show q.off % 4 + 4 ≤ 4 by omega
    have hfull : storeBe q.off 4 = 15 := (storeBe_eq_full hin).2 rfl
    obtain ⟨u, hu, he⟩ := s.writeWord_stored (v := v <<< (8 * (q.off % 4))) (be := storeBe q.off 4) hok hk (.inl hfull)
    refine ⟨u, hu, (spmServe_store h (q := w) rfl (Nat.le_refl 4) hin).trans (he.trans ?_)⟩
    rw [hfull, hal, Nat.mul_zero, Nat.shiftLeft_zero]
  obtain ⟨u, -, hu⟩ := hwrite
  obtain ⟨err, hx⟩ := s.exec_scratchpadAccess hld (reqs := [q, w]) (by simpa [w] using hoff) prog bad
  obtain ⟨cycle, rmw, e, hcyc⟩ := spmCycle_both h hq (w := w) rfl hpri rfl prog bad
  rw [hcyc, hread.1, hread.2, hu] at hx
  obtain ⟨t, he, hres, hmem, -⟩ := (u.storeWord ld q.off v 15).cycleEnd_kept ld cycle rmw [s.spmWord ld q.off % 2 ^ 32] e
  rw [he] at hx
  refine ⟨t.respond err, hx, hres, ?_⟩
  have hword : (t.respond err).spmWord ld q.off = (u.storeWord ld q.off v 15).spmWord ld q.off := by
    unfold State.spmWord State.bytes
    exact congrArg leNat (List.map_congr_left fun k _ => byte_congr (t := t.respond err) hmem _)
  exact hword.trans (u.spmWord_stored ld q.off v)

/-! ### Write-backs and repairs (R376, R377) -/

variable (s)

theorem writeback_effect (ld off : Nat) : ∃ t,
    ((s.setSpm ld { s.spmSt ld with wback := (s.spmSt ld).wback.filter fun w => w != wordOff off }).setEcc ld off .good) = t ∧
      t.eccClass ld off = .good ∧ (t.spmSt ld).wback.contains (wordOff off) = false ∧ t.mem = s.mem := by
  refine ⟨_, rfl, (State.eccClass_setEcc _ _ _ _ _ _).trans (if_pos rfl), ?_, rfl⟩
  rw [State.setEcc_spmSt, State.spmSt_setSpm, if_pos rfl]
  simp

/-- A row mapped to a spare: its fields, the failing word and the count. -/
def rowMapped (ld off : Nat) (R U : Fld) : State :=
  ((((s.put R ld (spmBank off) (spmRow off)).put U ld (spmBank off) 1).storeWord ld off (s.repairedWord ld off) 15).count F.LBIST_RSTAT_SOFT ld 0)

/-- The waiting repair of a word has been made. -/
def repairMade (ld off : Nat) : State :=
  s.setSpm ld { s.spmSt ld with repair := (s.spmSt ld).repair.filter fun w => w != wordOff off }

theorem repairMade_effect (ld off : Nat) : ((s.repairMade ld off).spmSt ld).repair.contains (wordOff off) = false ∧
    (s.repairMade ld off).mem = s.mem ∧ (s.repairMade ld off).regs = s.regs ∧ (s.repairMade ld off).ecc = s.ecc := by
  refine ⟨?_, rfl, rfl, rfl⟩
  rw [State.repairMade, State.spmSt_setSpm, if_pos rfl]
  simp

theorem spmRow_lt (off : Nat) : spmRow off < 256 := Nat.mod_lt _ (by decide)

theorem softRepair_eq (ld off : Nat) : s.softRepair ld off =
    (if !s.flag F.SPM_REP_USE0 ld (spmBank off) then s.rowMapped ld off F.SPM_REP_ROW0 F.SPM_REP_USE0
      else if !s.flag F.SPM_REP_USE1 ld (spmBank off) then s.rowMapped ld off F.SPM_REP_ROW1 F.SPM_REP_USE1
      else if !s.flag F.SPM_FROW_FENCED ld (spmBank off) then
        (s.put F.SPM_FROW_ROW ld (spmBank off) (spmRow off)).put F.SPM_FROW_FENCED ld (spmBank off) 1
      else s.put F.SPM_ECCSTAT_REPFULL ld 0 1).repairMade ld off := rfl

theorem get_repairMade (ld off : Nat) (G : Fld) (d i : Nat) : (s.repairMade ld off).get G d i = s.get G d i := by
  rw [State.get, (s.repairMade_effect ld off).2.2.1]
  rfl

theorem get_rowMapped (ld off : Nat) {R U G : Fld} (hG : G.reg = .SPM_REP) : (s.rowMapped ld off R U).get G ld (spmBank off) =
    ((s.put R ld (spmBank off) (spmRow off)).put U ld (spmBank off) 1).get G ld (spmBank off) := by
  obtain ⟨-, -, hget⟩ := ((s.put R ld (spmBank off) (spmRow off)).put U ld (spmBank off) 1).storeWord_effect ld off (s.repairedWord ld off)
    (be := 15) (by decide)
  have hreg : G.reg ∉ readRegs := by
    rw [hG]
    decide
  have hscan : ∀ F ∈ scanFlds, F.same G = false := fun F hF => by
    have hne : ∀ F ∈ scanFlds, F.reg ≠ .SPM_REP := by decide
    exact decide_eq_false fun h => hne F hF (h.1.trans hG)
  refine (State.get_put_other _ _ _ _ _ _ _ _ (decide_eq_false fun h => ?_)).trans (hget G _ _ hreg hscan)
  exact absurd (h.1.trans hG) (by decide)

/-- What the mapping of a row to a spare does. -/
theorem rowMapped_effect (ld off : Nat) {R U : Fld} (hR : R.reg = .SPM_REP) (hU : U.reg = .SPM_REP) (hw : R.w = 8) (hw' : U.w = 1)
    (hne : U.same R = false) : ((s.rowMapped ld off R U).repairMade ld off).flag U ld (spmBank off) = true ∧
      ((s.rowMapped ld off R U).repairMade ld off).get R ld (spmBank off) = spmRow off ∧
      ((s.rowMapped ld off R U).repairMade ld off).spmWord ld off = s.repairedWord ld off % 2 ^ 32 ∧
      ((s.rowMapped ld off R U).repairMade ld off).eccClass ld off = .good := by
  let u := ((s.put R ld (spmBank off) (spmRow off)).put U ld (spmBank off) 1).storeWord ld off (s.repairedWord ld off) 15
  have hmem : ((s.rowMapped ld off R U).repairMade ld off).mem = u.mem := ((s.rowMapped ld off R U).repairMade_effect ld off).2.1.trans rfl
  have hecc : ((s.rowMapped ld off R U).repairMade ld off).ecc = u.ecc := ((s.rowMapped ld off R U).repairMade_effect ld off).2.2.2.trans rfl
  refine ⟨State.flag_of_get _ (v := 1) ?_, ?_, ?_, ?_⟩
  · rw [State.get_repairMade, s.get_rowMapped ld off hU, State.get_put, if_pos ⟨rfl, rfl⟩, hw']
    rfl
  · rw [State.get_repairMade, s.get_rowMapped ld off hR, State.get_put_other _ _ _ _ _ _ _ _ hne, State.get_put, if_pos ⟨rfl, rfl⟩, hw]
    exact Nat.mod_eq_of_lt (spmRow_lt off)
  · refine Eq.trans ?_ (((s.put R ld (spmBank off) (spmRow off)).put U ld (spmBank off) 1).spmWord_stored ld off (s.repairedWord ld off))
    unfold State.spmWord State.bytes
    exact congrArg leNat (List.map_congr_left fun k _ => byte_congr (s := u) hmem _)
  · rw [State.eccClass, hecc]
    exact (State.storeWord_effect _ ld off _ (by decide)).2.1

theorem repairedWord_of_data {ld off : Nat} (h : Config.spmUse ld (wordOff off) ≠ 1) : s.repairedWord ld off = 0 := by
  rw [State.repairedWord, decide_eq_false h]
  rfl

/-- What a soft repair does (R377). -/
theorem softRepair_effect (ld off : Nat) : ∃ t, s.softRepair ld off = t ∧ (t.spmSt ld).repair.contains (wordOff off) = false ∧
    (s.flag F.SPM_REP_USE0 ld (spmBank off) = false → t.flag F.SPM_REP_USE0 ld (spmBank off) = true ∧
      t.get F.SPM_REP_ROW0 ld (spmBank off) = spmRow off ∧ t.spmWord ld off = s.repairedWord ld off % 2 ^ 32 ∧ t.eccClass ld off = .good) ∧
    (s.flag F.SPM_REP_USE0 ld (spmBank off) = true → s.flag F.SPM_REP_USE1 ld (spmBank off) = false →
      t.flag F.SPM_REP_USE1 ld (spmBank off) = true ∧ t.get F.SPM_REP_ROW1 ld (spmBank off) = spmRow off ∧
      t.spmWord ld off = s.repairedWord ld off % 2 ^ 32 ∧ t.eccClass ld off = .good) ∧
    (s.flag F.SPM_REP_USE0 ld (spmBank off) = true → s.flag F.SPM_REP_USE1 ld (spmBank off) = true → t.mem = s.mem ∧
      (s.flag F.SPM_FROW_FENCED ld (spmBank off) = false → t.rowFenced ld off = true) ∧
      (s.flag F.SPM_FROW_FENCED ld (spmBank off) = true → t.get F.SPM_ECCSTAT_REPFULL ld 0 = 1)) := by
  refine ⟨_, rfl, ?_, fun h0 => ?_, fun h0 h1 => ?_, fun h0 h1 => ⟨?_, fun hf => ?_, fun hf => ?_⟩⟩ <;> rw [State.softRepair_eq]
  · exact (State.repairMade_effect _ ld off).1
  · rw [h0, Bool.not_false, if_pos rfl]
    exact s.rowMapped_effect ld off rfl rfl rfl rfl (by decide)
  · rw [h0, h1, Bool.not_true, Bool.not_false, if_neg Bool.false_ne_true, if_pos rfl]
    exact s.rowMapped_effect ld off rfl rfl rfl rfl (by decide)
  · rw [h0, h1, Bool.not_true, if_neg Bool.false_ne_true, if_neg Bool.false_ne_true, (State.repairMade_effect _ ld off).2.1]
    split <;> rfl
  · rw [h0, h1, hf, Bool.not_true, Bool.not_false, if_neg Bool.false_ne_true, if_neg Bool.false_ne_true, if_pos rfl, State.rowFenced,
      State.flag_of_get (v := 1) _ ?_, State.get_repairMade, State.get_put_other _ _ _ _ _ _ _ _ (by decide), State.get_put, if_pos ⟨rfl, rfl⟩]
    · exact Bool.and_eq_true_iff.2 ⟨rfl, beq_iff_eq.2 (Nat.mod_eq_of_lt (spmRow_lt off))⟩
    · rw [State.get_repairMade, State.get_put, if_pos ⟨rfl, rfl⟩]
      rfl
  · rw [h0, h1, hf, Bool.not_true, if_neg Bool.false_ne_true, if_neg Bool.false_ne_true, if_neg Bool.false_ne_true, State.get_repairMade,
      State.get_put, if_pos ⟨rfl, rfl⟩]
    rfl

end State

/-- Settles O50: a cycle of a quiet scratchpad serves its access by the load or store of its word. -/
theorem scratchpadAccessesServeTheirWord : Obligations.ScratchpadAccessesServeTheirWord := by
  refine ⟨fun s ld prog bad q hsize hscan hwaits hbusy hrmw hld hoff => ?one, fun s ld prog bad q p v hscan hwaits hbusy hrmw hld hoff hq hsize hal hrot hpri hok hk hc =>
    ?both, fun s ld off hld hoff => ⟨fun hw => ?writeback, fun hr => ?repair⟩⟩
  case one =>
    have h : s.Quiet ld := ⟨hwaits, hbusy, hrmw⟩
    refine ⟨fun hq => ?read, fun v hq hin => ?write, fun v hq hout => ?crossing⟩
    case read =>
      obtain ⟨t, hx, hmem, hres, hget, hrepair, hwback⟩ := s.readCycle_effect h hld hq hscan hoff prog bad
      refine ⟨t, hx, hmem, fun hk hc hin _ => ?_, fun hk hc h0 hrot => ?_, fun hcross hrot => ?_, fun hin hk => ?_, fun hin hk hc => ?_,
        fun hin hk hc _ => ?_⟩
      · rw [hres, h.spmLoad (.inl hin), s.readWord_of_good hk hc, State.loadVal_within hin]
      · rw [hres, h.spmLoad (.inr ((State.rotOn_eq s h0).trans hrot)), s.readWord_of_good hk hc, State.loadVal_rot]
      · have hload := State.spmLoad_crossing (off := q.off) (size := q.size) hcross (State.rotOn_of_off hrot)
        rw [hres, hget, hget, hload, (s.get_spmErr _ _ _ _ _).1, (s.get_spmErr _ _ _ _ _).2]
        exact ⟨rfl, rfl, Nat.mod_eq_of_lt hoff⟩
      · have hload := h.spmLoad (pri := q.pri) (.inl hin)
        rw [hres, hget, hget, hload, s.readWord_of_down hk, (s.get_spmErr _ _ _ _ _).1, (s.get_spmErr _ _ _ _ _).2, State.loadVal_zero]
        exact ⟨rfl, Nat.mod_eq_of_lt (s.accessKind_lt _ _), Nat.mod_eq_of_lt hoff⟩
      · have hload := h.spmLoad (pri := q.pri) (.inl hin)
        rw [hres, hget, hget, hrepair, hload, s.readWord_of_bad hk hc, (s.get_badWord _ _ _ _).1, (s.get_badWord _ _ _ _).2, State.loadVal_zero]
        exact ⟨rfl, rfl, s.repairDue_badWord _ _ _ _, rfl⟩
      · have hload := h.spmLoad (pri := q.pri) (.inl hin)
        rw [hres, hget, hwback, hload, s.readWord_of_corrected hk hc, State.loadVal_within hin, (s.correctWord_effect _ _).1]
        exact ⟨rfl, (s.correctWord_effect _ _).2, rfl⟩
    case write =>
      obtain ⟨t, hx, hres, hmem, hget, hecc⟩ := State.writeCycle_effect h hld hq hoff prog bad
      rw [State.spmServe_store h hq hsize hin] at hmem
      have hserve := State.spmServe_store h hq hsize hin
      refine ⟨t, hx, hres, fun hok hk hc => ?_, fun hok hk hlt hc => ?_, fun hok hk => ?_, fun hok => ?_⟩
      · obtain ⟨u, hu, he⟩ := s.writeWord_stored (v := v <<< (8 * (q.off % 4))) hok hk (hc.imp_left (State.storeBe_eq_full hin).2)
        obtain ⟨hbytes, hothers⟩ := State.stored_bytes (ld := ld) u v hin
        rw [he] at hmem
        refine ⟨fun k hk' => (State.byte_congr hmem _).trans (hbytes k hk'), ?_, fun a ha => (State.byte_congr hmem a).trans ((hothers a ha).trans ?_)⟩
        · rw [hecc, hserve, he]
          exact (State.storeWord_effect _ ld q.off _ (State.storeBe_lt hin)).2.1
        · exact State.byte_congr hu a
      · have hbe : State.storeBe q.off q.size ≠ 15 := fun hfull => by
          have := (State.storeBe_eq_full hin).1 hfull
          omega
        rw [hget, hserve, hmem, s.writeWord_of_bad hok hk hbe hc]
        exact ⟨(s.badWord_read _ _ _ _).mem, (s.get_badWord _ _ _ _).1⟩
      · rw [hget, hserve, hmem, s.writeWord_of_down hok hk]
        exact ⟨(s.spmErr_read _ _ _ _ _).mem, (s.get_spmErr _ _ _ _ _).1.trans (Nat.mod_eq_of_lt (s.accessKind_lt _ _))⟩
      · rw [hget, hserve, hmem, s.writeWord_of_refused hok]
        exact s.logErr_logic (lt_two_of_hasLd hld) _ _ 7 true
    case crossing =>
      obtain ⟨t, hx, -, hmem, hget, -⟩ := State.writeCycle_effect h hld hq hoff prog bad
      rw [State.spmServe_crossing hq hsize hout] at hmem
      refine ⟨t, hx, hmem.trans (s.spmErr_read _ _ _ _ _).mem, ?_⟩
      rw [hget, State.spmServe_crossing hq hsize hout]
      exact (s.get_spmErr _ _ _ _ _).1
  case both => exact State.bothCycle_effect ⟨hwaits, hbusy, hrmw⟩ hld hq hscan hoff hsize hal hpri hok hk hc prog bad
  case writeback =>
    obtain ⟨t, he, ht⟩ := s.writeback_effect ld off
    exact ⟨t, (State.answer_of hld hw).trans (congrArg _ he), ht⟩
  case repair =>
    obtain ⟨t, he, hdone, ht⟩ := s.softRepair_effect ld off
    exact ⟨t, (State.answer_of hld hr).trans (congrArg _ he), hdone, s.repairedWord_of_data, ht⟩

end Sys2Proof.Machine
end

section
/-! SUPPORT. The vault, and the OTP array's operations and locks (R422, R428 to R436, R443). -/

namespace Sys2Proof.Machine

/-- A number gathered from bits has those bits. -/
theorem bitsFrom_bits (n : Nat) (f : Nat → Bool) : bitsFrom n f < 2 ^ n ∧ ∀ k < n, (bitsFrom n f).testBit k = f k := by
  induction n with
  | zero => exact ⟨Nat.one_pos, fun k hk => absurd hk (Nat.not_lt_zero k)⟩
  | succ n ih =>
    obtain ⟨hlt, hbits⟩ := ih
    have hsucc : bitsFrom (n + 1) f = 2 ^ n * (f n).toNat + bitsFrom n f := by
      rw [bitsFrom, List.range_succ, List.foldl_append, Nat.mul_comm, Nat.add_comm]
      rfl
    have htop : (f n).toNat ≤ 1 := Bool.toNat_le _
    refine ⟨?_, fun k hk => ?_⟩
    · rw [hsucc, Nat.pow_succ]
      have := Nat.mul_le_mul_left (2 ^ n) htop
      omega
    · rw [hsucc, Nat.testBit_two_pow_mul_add _ hlt]
      split
      · exact hbits k ‹_›
      · obtain rfl : k = n := by omega
        rw [Nat.sub_self, Nat.testBit_zero]
        cases f k <;> rfl

theorem leNat_lt (bs : List Byte) : leNat bs < 2 ^ (8 * bs.length) := by
  induction bs with
  | nil => exact Nat.one_pos
  | cons b bs ih =>
    have hb : b.toNat < 256 := b.isLt
    rw [leNat, List.length_cons, Nat.mul_add, Nat.pow_add]
    omega

theorem fieldAt_lt (bs : List Byte) (k n : Nat) : fieldAt bs k n < 2 ^ (8 * n) :=
  (leNat_lt _).trans_le (Nat.pow_le_pow_right (by decide) (Nat.mul_le_mul_left 8 (List.length_take_le n _)))

namespace State

variable (s : State)

/-! ### The vault -/

/-- A MAC in the vault's registers, most significant byte first. -/
def vaultMacs (mac : Nat) : State := s.each (List.range 8) fun s n => s.put F.SYSCTL_VMAC_MAC 0 n (fieldAt (beBytes 32 mac) (4 * n) 4)

/-- VAULT_MAC_DONE with a loaded key: the MAC of the bytes fed stands in its registers, and the vault is idle. -/
theorem vaultDone_effect {key : List Byte} (hl : s.flag F.SYSCTL_VSTAT_LOADED 0 0 = true) (hk : s.vaultKey = some key) :
    s.vaultDone.flag F.SYSCTL_VSTAT_BUSY 0 0 = false ∧ s.vaultDone.vaultIn = [] ∧
    ∀ n < 8, s.vaultDone.get F.SYSCTL_VMAC_MAC 0 n = fieldAt (beBytes 32 (hmac key s.vaultIn)) (4 * n) 4 := by
  generalize hm : hmac key s.vaultIn = mac
  have hval : (if s.flag F.SYSCTL_VSTAT_LOADED 0 0 then s.vaultMac s.vaultIn else s.free) = mac := by
    rw [if_pos hl, State.vaultMac, hk]
    exact hm
  have hregs : s.vaultDone.regs = ((s.vaultMacs mac).put F.SYSCTL_VSTAT_BUSY 0 0 0).regs := by
    have hshape : s.vaultDone.regs = (((s.vaultMacs (if s.flag F.SYSCTL_VSTAT_LOADED 0 0 then s.vaultMac s.vaultIn else s.free)).put
      F.SYSCTL_VSTAT_BUSY 0 0 0).on (!s.flag F.SYSCTL_VSTAT_LOADED 0 0) State.spend).regs := rfl
    rw [hshape, hval, hl]
    rfl
  have hget (G : Fld) (j : Nat) : s.vaultDone.get G 0 j = _ := congrArg (Store.get (fun _ => G.resetAt 0 j) · (G.key 0 j)) hregs
  refine ⟨?_, rfl, fun n hn => ?_⟩
  · have h0 : s.vaultDone.get F.SYSCTL_VSTAT_BUSY 0 0 = 0 := (hget _ _).trans ((State.get_put _ _ _ _ _ _ _).trans (if_pos ⟨rfl, rfl⟩))
    rw [State.flag, h0]
    rfl
  · refine ((hget _ n).trans (State.get_put_other _ _ _ _ _ _ _ _ (by decide))).trans ?_
    refine State.each_sets (P := fun t => t.get F.SYSCTL_VMAC_MAC 0 n = fieldAt (beBytes 32 mac) (4 * n) 4)
      (List.mem_range.2 hn) (fun t => ?_) (fun t m h => ?_) s
    · rw [State.get_put, if_pos ⟨rfl, rfl⟩]
      exact Nat.mod_eq_of_lt (fieldAt_lt _ _ _)
    · rw [State.get_put]
      split
      · rename_i hm
        rw [← hm.2]
        exact Nat.mod_eq_of_lt (fieldAt_lt _ _ _)
      · exact h

/-! ### OTP reads -/

theorem otpRead_change (ld : Nat) :
    OnlyFields s (s.otpRead ld) [(F.OTP_ODATA0_DATA, ld, 0), (F.OTP_ODATA1_DATA, ld, 0), (F.OTP_OSTAT_UE, ld, 0)] :=
  change_regs_iff.1 (((Change.put _ _ (by simp)).trans (.put _ _ (by simp))).trans (.put _ _ (by simp)))

/-- A read shows an uncorrectable word in UE. -/
theorem otpRead_ue (ld : Nat) : (s.otpRead ld).flag F.OTP_OSTAT_UE ld 0 = decide ((s.otpWord (s.oaddr ld)).cls = .uncorrectable) := by
  unfold State.otpRead State.flag State.putB
  dsimp only
  rw [State.get_put, if_pos ⟨rfl, rfl⟩]
  cases decide ((s.otpWord (s.oaddr ld)).cls = .uncorrectable) <;> rfl

/-- The value that a read puts into the data registers. -/
def otpReadValue (w : Nat) : Nat := if 16 ≤ w ∧ w ≤ 19 then 0 else (s.otpData w).getD 0

theorem otpReadValue_eq (w : Nat) :
    s.otpReadValue w = if 16 ≤ w ∧ w ≤ 19 ∨ (s.otpWord w).cls = .uncorrectable then 0 else (s.otpWord w).data := by
  unfold State.otpReadValue State.otpData
  by_cases hkey : 16 ≤ w ∧ w ≤ 19
  · rw [if_pos hkey, if_pos (.inl hkey)]
  · rw [if_neg hkey]
    cases hcls : (s.otpWord w).cls <;> simp [hkey]

/-- A read leaves its value in the two data registers. -/
theorem otpRead_odata (ld : Nat) : (s.otpRead ld).odata ld = s.otpReadValue (s.oaddr ld) % 2 ^ 64 := by
  have h0 : (s.otpRead ld).get F.OTP_ODATA0_DATA ld 0 = s.otpReadValue (s.oaddr ld) % 2 ^ 32 := by
    refine (State.get_put_other _ _ _ _ _ _ _ _ (by decide)).trans ((State.get_put_other _ _ _ _ _ _ _ _ (by decide)).trans ?_)
    exact (State.get_put _ _ _ _ _ _ _).trans (if_pos ⟨rfl, rfl⟩)
  have h1 : (s.otpRead ld).get F.OTP_ODATA1_DATA ld 0 = s.otpReadValue (s.oaddr ld) / 2 ^ 32 % 2 ^ 32 := by
    refine (State.get_put_other _ _ _ _ _ _ _ _ (by decide)).trans ?_
    exact (State.get_put _ _ _ _ _ _ _).trans (if_pos ⟨rfl, rfl⟩)
  rw [State.odata, h0, h1]
  omega

/-! ### Programming requests -/

variable {s}

theorem otpRefusal_of_word {ld w d : Nat} {reburn : Bool}
    (h : ld ≠ 0 ∨ (s.get F.OTP_OLOCK_LOCK 0 0).testBit (w / 256) = true ∨ s.otpClosed (w / 256) = true ∨ (4 ≤ w ∧ w ≤ 6)) :
    s.otpRefusal ld w d reburn = 1 := if_pos h

variable (s)

theorem otpStart_effect (kind w d : Nat) :
    (s.otpStart kind w d).get F.OTP_OSTAT_TOKENS 0 0 = (s.get F.OTP_OSTAT_TOKENS 0 0 - 1) % 32 ∧
    (s.otpStart kind w d).get F.OTP_OSTAT_BUSY 0 0 = 1 ∧ (s.otpStart kind w d).otpOp = ⟨kind, w, d⟩ ∧ (s.otpStart kind w d).otp = s.otp := by
  have hregs : (s.otpStart kind w d).regs =
      ((s.put F.OTP_OSTAT_TOKENS 0 0 (s.get F.OTP_OSTAT_TOKENS 0 0 - 1)).put F.OTP_OSTAT_BUSY 0 0 1).regs := rfl
  have hget (G : Fld) : (s.otpStart kind w d).get G 0 0 = _ := congrArg (Store.get (fun _ => G.resetAt 0 0) · (G.key 0 0)) hregs
  refine ⟨(hget _).trans ?_, (hget _).trans ((State.get_put _ _ _ _ _ _ _).trans (if_pos ⟨rfl, rfl⟩)), rfl, rfl⟩
  exact (State.get_put_other _ _ _ _ _ _ _ _ (by decide)).trans ((State.get_put _ _ _ _ _ _ _).trans (if_pos ⟨rfl, rfl⟩))

/-- A refused request sets the flag of its refusal. -/
theorem otpFlag_effect (F : Fld) (ld : Nat) (hw : 1 < 2 ^ F.w) :
    (s.put F ld 0 1).get F ld 0 = 1 ∧ OnlyFields s (s.put F ld 0 1) [(F, ld, 0)] :=
  ⟨((State.get_put _ _ _ _ _ _ _).trans (if_pos ⟨rfl, rfl⟩)).trans (Nat.mod_eq_of_lt hw), onlyFields_put _ _ _ _ _⟩

/-- The kind of an operation: 1 program, 2 reburn. -/
def otpKind (reburn : Bool) : Nat := if reburn then 2 else 1

/-- What a request does follows from its refusal alone. -/
theorem otpRequest_cases (ld : Nat) (reburn : Bool) :
    let r := s.otpRefusal ld (s.oaddr ld) (s.odata ld) reburn
    (r = 0 → s.otpRequest ld (otpKind reburn) = s.otpStart (otpKind reburn) (s.oaddr ld) (s.odata ld)) ∧
    (r = 1 → s.otpRequest ld (otpKind reburn) = s.put F.OTP_OSTAT_LOCKED ld 0 1) ∧
    (r = 2 → s.otpRequest ld (otpKind reburn) = s.put F.OTP_OSTAT_RATE ld 0 1) ∧
    (r = 3 → s.otpRequest ld (otpKind reburn) = s.put F.OTP_OSTAT_MISMATCH ld 0 1) := by
  have hk : decide (otpKind reburn = 2) = reburn := by cases reburn <;> rfl
  unfold State.otpRequest
  rw [hk]
  refine ⟨?_, ?_, ?_, ?_⟩ <;> intro h <;> rw [h] <;> rfl

/-! ### The end of an operation -/

theorem otpWord_setOtp_same (w : Nat) (v : OtpWord) : (s.setOtp w v).otpWord w =
    ⟨(s.otpWord w).low ||| v.low % 2 ^ 72, (s.otpWord w).norm ||| v.norm % 2 ^ 72, (s.otpWord w).high ||| v.high % 2 ^ 72⟩ :=
  (Store.get_set _ _ _ _).trans (if_pos rfl)

theorem otpWord_setOtp_other {w w' : Nat} (v : OtpWord) (h : w' ≠ w) : (s.setOtp w v).otpWord w' = s.otpWord w' :=
  (Store.get_set _ _ _ _).trans (if_neg h)

/-- The reads at one margin after programming: a bit is set where it was, or was to be. -/
theorem testBit_or_mod {a b k : Nat} (h : k < 72) :
    (a ||| b % 2 ^ 72).testBit k = true ↔ a.testBit k = true ∨ b.testBit k = true := by
  rw [Nat.testBit_or, Nat.testBit_mod_two_pow, decide_eq_true h, Bool.true_and, Bool.or_eq_true]

/-- A word programmed with data that are not all zero is programmed. -/
theorem prog_of_code {x : OtpWord} {a d r : Nat} (h : d % 2 ^ 64 ≠ 0) (hx : x.norm = a ||| (otpCode d ||| r) % 2 ^ 72) : x.prog = true := by
  have hmod : (otpCode d ||| r) % 2 ^ 72 = otpCode d ||| r % 2 ^ 72 := by
    rw [Nat.or_mod_two_pow, Nat.mod_eq_of_lt (otpCode_lt d)]
  have hne : x.norm ≠ 0 := by
    rw [hx, hmod]
    intro hz
    exact otpCode_pos h (Nat.or_eq_zero_iff.1 (Nat.or_eq_zero_iff.1 hz).2).1
  simp [OtpWord.prog, hne]

/-- The array after an operation: its word has taken the data and what the reads show. -/
def otpTaken (w : OtpWord) : State := s.setOtp s.otpOp.word ⟨w.low, otpCode s.otpOp.data ||| w.norm, w.high⟩

theorem otpFinish_array (w : OtpWord) : (s.otpFinish w).otp = (s.otpTaken w).otp := by
  have hput (s : State) (d : Nat) : (s.put F.OTP_OLOCK_CLOSED d 0 (bitsFrom 8 s.otpClosed)).otp = s.otp := rfl
  exact (State.each_same State.otp (fun s d _ => hput s d) _).trans rfl

theorem otpFinish_otp (w : OtpWord) (a : Nat) : (s.otpFinish w).otpWord a = (s.otpTaken w).otpWord a := by
  rw [State.otpWord, s.otpFinish_array w]
  rfl

theorem otpFinish_op (w : OtpWord) : (s.otpFinish w).otpOp = OtpOp.zero := by
  have hput (s : State) (d : Nat) : (s.put F.OTP_OLOCK_CLOSED d 0 (bitsFrom 8 s.otpClosed)).otpOp = s.otpOp := rfl
  exact (State.each_same State.otpOp (fun s d _ => hput s d) _).trans rfl

theorem otpFinish_busy (w : OtpWord) : (s.otpFinish w).get F.OTP_OSTAT_BUSY 0 0 = 0 := by
  unfold State.otpFinish
  dsimp only
  refine (State.each_same (State.get · F.OTP_OSTAT_BUSY 0 0) (fun s x _ => State.get_put_other _ _ _ _ _ _ _ _ (by decide)) _).trans ?_
  refine (State.get_put_other _ _ _ _ _ _ _ _ (by decide)).trans ?_
  exact (State.get_put _ _ _ _ _ _ _).trans (if_pos ⟨rfl, rfl⟩)

theorem otpFinish_weak (w : OtpWord) :
    (s.otpFinish w).get F.OTP_OSTAT_WEAK 0 0 = (decide (((s.otpTaken w).otpWord s.otpOp.word).cls = .weak)).toNat := by
  unfold State.otpFinish
  dsimp only
  refine (State.each_same (State.get · F.OTP_OSTAT_WEAK 0 0) (fun s x _ => State.get_put_other _ _ _ _ _ _ _ _ (by decide)) _).trans ?_
  rw [State.putB, State.get_put, if_pos ⟨rfl, rfl⟩]
  exact Nat.mod_eq_of_lt (Bool.toNat_lt _)

/-- After an operation every die shows which regions are closed. -/
theorem otpFinish_closed (w : OtpWord) {ld r : Nat} (hld : ld ∈ s.lds) (hr : r < 8) :
    ((s.otpFinish w).get F.OTP_OLOCK_CLOSED ld 0).testBit r = ((s.otpTaken w).otpWord (256 * r + 255)).prog := by
  have hshown (t : State) (h : t.otp = (s.otpTaken w).otp) (d : Nat) :
      ((t.put F.OTP_OLOCK_CLOSED d 0 (bitsFrom 8 t.otpClosed)).get F.OTP_OLOCK_CLOSED d 0).testBit r =
        ((s.otpTaken w).otpWord (256 * r + 255)).prog := by
    obtain ⟨hlt, hbits⟩ := bitsFrom_bits 8 t.otpClosed
    rw [State.get_put, if_pos ⟨rfl, rfl⟩, Nat.mod_eq_of_lt hlt, hbits r hr, State.otpClosed, State.otpWord, h]
    rfl
  refine State.each_sets (l := s.lds) (x := ld) (P := fun t => t.otp = (s.otpTaken w).otp →
    (t.get F.OTP_OLOCK_CLOSED ld 0).testBit r = ((s.otpTaken w).otpWord (256 * r + 255)).prog) hld
    (fun t h => hshown t h ld) (fun t d ht h => ?_) _ (s.otpFinish_array w)
  by_cases hd : ld = d
  · subst hd
    exact hshown t h ld
  · rw [State.get_put, if_neg fun h => hd h.1]
    exact ht h

end State

/-- Settles O57: each vault and OTP command by what it does to its registers and to the word of the array. -/
theorem vaultAndOtpKeepTheirRules : Obligations.VaultAndOtpKeepTheirRules := by
  refine ⟨fun s m => ⟨?control, ?busy, ?feed, ?mac⟩, fun s m ld hld => ⟨?read, ?program, ?locked, ?marker, ?lock⟩, ?done, ?token⟩
  case control =>
    exact fun hw => ⟨(State.answer_of rfl rfl).trans (congrArg _ (asWrite_admitted hw)),
      (State.answer_of rfl rfl).trans (congrArg _ (asWrite_admitted hw))⟩
  case busy =>
    intro hbusy hheld hroute hm
    have hrefused (f : State → State) :
        s.asWrite .SYSCTL_VCTL 0 0 m m.isSv (!s.flag F.SYSCTL_VSTAT_BUSY 0 0) f = s.refuse .SYSCTL_VCTL 0 0 m 7 := by
      simp [State.asWrite, hheld, hroute, hm, hbusy]
    exact ⟨(State.answer_of rfl rfl).trans (congrArg _ (hrefused _)), (State.answer_of rfl rfl).trans (congrArg _ (hrefused _))⟩
  case feed =>
    intro data be hw
    have hx : exec (.vaultDin m data be) s = .next ((s.vaultFeed data be).respond false) :=
      (State.answer_of rfl rfl).trans (congrArg _ (asWrite_admitted hw))
    exact ⟨fun hopen => hx.trans (congrArg (fun t => Host.Outcome.next (State.respond t false)) (if_pos hopen)), fun hclosed => hx.trans (congrArg (fun t => Host.Outcome.next (State.respond t false)) (if_neg (Bool.eq_false_iff.1 hclosed)))⟩
  case mac =>
    intro key hbusy hloaded hkey
    exact ⟨s.vaultDone, State.answer_of rfl hbusy, s.vaultDone_effect hloaded hkey⟩
  case read =>
    intro hw
    refine ⟨(s.otpRead ld).respond false, (State.answer_of hld rfl).trans (congrArg _ (asWrite_admitted hw)),
      onlyFields_respond (s.otpRead_change ld) _, s.otpRead_ue ld, (s.otpRead_odata ld).trans ?_⟩
    rw [s.otpReadValue_eq, State.oaddr]
    split <;> rfl
  case program =>
    intro reburn hw
    have hx : exec (if reburn then .ocmdReburn m ld else .ocmdProg m ld) s = .next ((s.otpRequest ld (State.otpKind reburn)).respond false) := by
      cases reburn
      · exact (State.answer_of hld rfl).trans (congrArg _ (asWrite_admitted hw))
      · exact (State.answer_of hld rfl).trans (congrArg _ (asWrite_admitted hw))
    obtain ⟨hstart, hlocked, hrate, hmismatch⟩ := s.otpRequest_cases ld reburn
    refine ⟨_, hx, fun h => ?_, fun h => ?_, fun h => ?_, fun h => ?_⟩
    · rw [hstart h]
      exact s.otpStart_effect _ _ _
    · rw [hlocked h]
      exact (s.otpFlag_effect F.OTP_OSTAT_LOCKED ld (by decide)).imp_right (onlyFields_respond · _)
    · rw [hrate h]
      exact (s.otpFlag_effect F.OTP_OSTAT_RATE ld (by decide)).imp_right (onlyFields_respond · _)
    · rw [hmismatch h]
      exact (s.otpFlag_effect F.OTP_OSTAT_MISMATCH ld (by decide)).imp_right (onlyFields_respond · _)
  case locked =>
    intro r hr hlow hhigh h reburn
    obtain rfl : s.get F.OTP_OADDR_WORD ld 0 / 256 = r := by omega
    rcases h with h | h | h
    · exact State.otpRefusal_of_word (.inr (.inl h))
    · exact State.otpRefusal_of_word (.inr (.inr (.inl h)))
    · exact State.otpRefusal_of_word (.inl h)
  case marker => exact fun hlow hhigh reburn => State.otpRefusal_of_word (.inr (.inr (.inr ⟨hlow, hhigh⟩)))
  case lock =>
    intro set hset hw
    refine ⟨(s.orFlags F.OTP_OLOCK_LOCK ld 0 set).respond false, (State.answer_of hld rfl).trans (congrArg _ (asWrite_admitted hw)),
      onlyFields_respond (onlyFields_put _ _ _ _ _) _, fun k hk => ?_⟩
    have hget : ((s.orFlags F.OTP_OLOCK_LOCK ld 0 set).respond false).get F.OTP_OLOCK_LOCK ld 0 = (s.get F.OTP_OLOCK_LOCK ld 0 ||| set) % 2 ^ 8 :=
      (State.get_put _ _ _ _ _ _ _).trans (if_pos ⟨rfl, rfl⟩)
    rw [hget, Nat.testBit_mod_two_pow, decide_eq_true hk, Bool.true_and, Nat.testBit_or]
  case done =>
    intro s rd hkind
    have hword (a : Nat) : (s.otpFinish rd).otpWord a = (s.otpTaken rd).otpWord a := s.otpFinish_otp rd a
    have htaken : (s.otpFinish rd).otpWord s.otpOp.word = _ := (hword _).trans (s.otpWord_setOtp_same _ _)
    refine ⟨s.otpFinish rd, State.answer_of rfl (decide_eq_true hkind), by rw [s.otpFinish_op]; rfl, s.otpFinish_busy rd,
      fun w hw => (hword w).trans (s.otpWord_setOtp_other _ hw), ⟨fun k hk => ⟨?_, ?_, ?_⟩, fun hdata => ?_, ?_⟩,
      fun ld hld r hr => (s.otpFinish_closed rd hld hr).trans (by rw [hword])⟩
    · rw [htaken]
      exact (State.testBit_or_mod hk).trans (by rw [Nat.testBit_or, Bool.or_eq_true])
    · rw [htaken]
      exact State.testBit_or_mod hk
    · rw [htaken]
      exact State.testBit_or_mod hk
    · exact State.prog_of_code hdata (congrArg OtpWord.norm htaken)
    · rw [hword]
      exact s.otpFinish_weak rd
  case token =>
    refine fun s => ⟨_, State.answer_of rfl rfl, ?_, onlyFields_put _ _ _ _ _⟩
    rw [State.get_put, if_pos ⟨rfl, rfl⟩]
    exact Nat.mod_eq_of_lt ((min_le_left _ _).trans_lt (by decide))

end Sys2Proof.Machine
end

section
/-! SUPPORT. The test access port and debug halts (R417, R418, R421, R425, R426). -/

namespace Sys2Proof.Machine

/-- A step that leaves the marks of the vault's key and the selected instruction as they are. -/
structure VaultKept (s t : State) : Prop where
  tap : t.tap = s.tap
  marks : ∀ G : Fld, G.reg = .SYSCTL_VSTAT → ∀ d i, t.get G d i = s.get G d i

namespace VaultKept

variable {s t u : State}

theorem refl (s : State) : VaultKept s s := ⟨rfl, fun _ _ _ _ => rfl⟩

theorem after (k : VaultKept t u) (h : VaultKept s t) : VaultKept s u :=
  ⟨k.tap.trans h.tap, fun G hG d i => (k.marks G hG d i).trans (h.marks G hG d i)⟩

theorem each {α : Type} {xs : List α} {op : State → α → State} (hop : ∀ s, ∀ x ∈ xs, VaultKept s (op s x)) (s : State) :
    VaultKept s (s.each xs op) :=
  ⟨State.each_same State.tap (fun s x hx => (hop s x hx).tap) s,
    fun G hG d i => State.each_same (State.get · G d i) (fun s x hx => (hop s x hx).marks G hG d i) s⟩

theorem ite {c : Prop} [Decidable c] (ht : VaultKept s t) (hu : VaultKept s u) : VaultKept s (if c then t else u) := by
  split
  · exact ht
  · exact hu

theorem on {c : Bool} {op : State → State} (hop : VaultKept s (op s)) : VaultKept s (s.on c op) := .ite hop (.refl s)

theorem ofRegs {rs : List Reg} (h : RegsWithin rs s t) (hr : Reg.SYSCTL_VSTAT ∉ rs) (ht : t.tap = s.tap) : VaultKept s t :=
  ⟨ht, fun G hG d i => h G d i (hG ▸ hr)⟩

theorem same (h : t.regs = s.regs) (ht : t.tap = s.tap) : VaultKept s t := .ofRegs (.ofRegs [] h) List.not_mem_nil ht

theorem put (s : State) (F : Fld) (d i v : Nat) (h : Reg.SYSCTL_VSTAT ≠ F.reg) : VaultKept s (s.put F d i v) :=
  .ofRegs (.put _ _ _ _ _ (List.mem_singleton.2 rfl)) (mt List.mem_singleton.1 h) rfl

theorem ofLoss (h : Loss s t) : VaultKept s t := .ofRegs h.regs (by decide) (h.frame.same State.tap)

end VaultKept

namespace State

variable (s : State)

/-! ### Fences leave the marks of the vault's key -/

theorem raise_vault {kind : Nat} (h : Reg.SYSCTL_VSTAT ∉ unitRegs kind) (die idx reason : Nat) : VaultKept s (s.raise kind die idx reason) :=
  .ofRegs (s.raise_regs kind die idx reason) (mt List.mem_append.1 (not_or.2 ⟨by decide, h⟩)) ((s.raise_frame _ _ _ _).same State.tap)

theorem haltLane_vault (ld l : Nat) : VaultKept s (s.haltLane ld l) := by
  obtain ⟨u, hloss, hu⟩ := s.haltLane_loss ld l
  have hset : VaultKept u (s.haltLane ld l) := .same (by rw [hu]; rfl) (by rw [hu]; rfl)
  exact .after hset (VaultKept.ofLoss hloss)

theorem fenceLane_vault (ld l reason : Nat) : VaultKept s (s.fenceLane ld l reason) := by
  cases h : s.fenced U.lane ld l
  · exact .after (VaultKept.ofLoss (s.fenceLane_loss h reason)) (.after (State.haltLane_vault _ _ _) (s.raise_vault (by decide) _ _ _))
  · have hon (s : State) : VaultKept s (s.fenceOn U.lane ld l 2) := .same rfl rfl
    have hhalt (s : State) : VaultKept s (s.haltFenced ld l) := .after (hon _) (VaultKept.ofLoss (s.logFence_loss _ _ _ _))
    rw [State.fenceLane, if_pos h]
    exact .after (State.raise_vault _ (by decide) _ _ _) (.on (hhalt _))

theorem abortJob_vault (ld e : Nat) : VaultKept s (s.abortJob ld e) := by
  have hcut (s : State) (d u : Nat) (v : SvSt) : VaultKept s ((s.cutBist d u 1).setSv d v) :=
    .ofRegs (rs := raiseRegs) (.trans ((s.cutBist_change d u 1).regsWithin (by simp [bistFields, raiseRegs])) (.ofRegs _ rfl)) (by decide) ((s.cutBist_change d u 1).frame.same State.tap)
  have hsoak (s : State) : VaultKept s (match s.soak with
      | some x => if x.ld = ld ∧ x.job = e then s.dropSoak stAborted 0 else s
      | none => s) := by
    split
    · exact .ite (VaultKept.ofLoss (State.dropSoak_loss _ _ _)) (.refl _)
    · exact .refl _
  have hunit (s : State) (d n : Nat) : VaultKept s (s.revokeUnit d n) := VaultKept.ofLoss (State.revokeUnit_loss _ _ _)
  exact .after (VaultKept.ofLoss (State.endJob_loss _ _ _ _ _)) (.after (hsoak _) (.after
    (.each (fun _ _ _ => .each (fun _ _ _ => hcut _ _ _ _) _) _)
    (.each (fun _ _ _ => .each (fun _ _ _ => .after (hunit _ _ _) (hunit _ _ _)) _) _)))

theorem stopSv_vault (ld : Nat) : VaultKept s (s.stopSv ld) := by
  have htimers (s : State) : VaultKept s s.revokeField :=
    .each (fun _ _ _ => .each (fun _ _ _ => VaultKept.ofLoss (State.idleTimer_loss _ _ _)) _) _
  have hjobs (s : State) : VaultKept s (s.abortJobs ld) := .each (fun _ _ _ => .on (State.abortJob_vault _ _ _)) _
  exact .after (.ofRegs (State.moveLeases_regs _) (by decide) ((State.moveLeases_frame _).same State.tap)) (.after (hjobs _) (.after (htimers _) (VaultKept.ofLoss (State.revoke_loss _ _ _ _))))

theorem fenceSv_vault (ld reason : Nat) : VaultKept s (s.fenceSv ld reason) := by
  cases h : s.fenced U.sv ld 0
  · obtain ⟨v, -, he⟩ := s.fenceSv_of_up h reason
    have hset (s : State) : VaultKept s ((s.setSv ld v).put F.FENCE_SVKICK_WDREM ld 0 0) := .after (.put _ _ _ _ _ (by decide)) (.same rfl rfl)
    rw [he]
    exact .after (State.stopSv_vault _ _) (.after (hset _) (s.raise_vault (by decide) _ _ _))
  · rw [State.fenceSv, if_pos h]
    exact s.raise_vault (by decide) _ _ _

theorem fenceEngine_vault (ld reason : Nat) : VaultKept s (s.fenceEngine ld reason) := by
  have hset (s : State) (p : Nat) (x : PortSt) : VaultKept s (s.setPort ld p x) := .same rfl rfl
  have hport (s : State) (p : Nat) : VaultKept s (s.fencePort ld p reason) := .on (.after (hset _ _ _)
    (.after (.ofLoss (State.revoke_loss _ _ _ _)) (.after (State.raise_vault _ (by decide) _ _ _) (.on (.put _ _ _ _ _ (by decide))))))
  unfold State.fenceEngine
  exact .ite (s.raise_vault (by decide) _ _ _) (.after (.on (.put _ _ _ _ _ (by decide)))
    (.after (hport _ _) (.after (hport _ _) (s.raise_vault (by decide) _ _ _))))

theorem fenceLink_vault (ld k reason : Nat) : VaultKept s (s.fenceLink ld k reason) := by
  unfold State.fenceLink
  exact .on (.after (.on (VaultKept.ofLoss (State.revoke_loss _ _ _ _)))
    (.after (.put _ _ _ _ _ (by decide)) (s.raise_vault (by decide) _ _ _)))

theorem logicDown_vault (ld reason : Nat) : VaultKept s (s.logicDown ld reason) := by
  have hon (s : State) : VaultKept s (s.fenceOn U.logic ld 0 reason) := .same rfl rfl
  have hlog (s : State) (d : Nat) : VaultKept s (s.logFence d U.logic 0 reason) := VaultKept.ofLoss (s.logFence_loss _ _ _ _)
  have hfields (s : State) : VaultKept s (s.onFence (unitRegs U.logic) ld 0) := .ofRegs (s.onFence_unit_regs _ _ _) (by decide) ((s.onFence_regs _ _ _).same State.tap)
  have hfell (s : State) : VaultKept s (s.gateFell ld) := .ofRegs (s.gateFell_fieldStop ld) (by decide) ((s.gateFell_frame ld).same State.tap)
  have hmac (s : State) (n : Nat) : VaultKept s (s.onFence [.SYSCTL_VMAC] ld n) := ⟨(s.onFence_regs _ _ _).same State.tap, fun G hG d i =>
    s.get_onFence_other fun r hr F hF hk => by
      obtain rfl := List.mem_singleton.1 hr
      obtain rfl := List.mem_singleton.1 hF
      exact absurd (hG.symm.trans (Fld.key_eq.1 hk).1) (by decide)⟩
  exact .after (.each (fun _ _ _ => hmac _ _) _) (.after (.on (hfell _)) (.after (hfields _) (.after (hlog _ _) (hon _))))

theorem fenceLogic_vault (ld reason : Nat) : VaultKept s (s.fenceLogic ld reason) := by
  have hsv (s : State) (v : SvSt) : VaultKept s (s.setSv ld v) := .same rfl rfl
  have hdead (s : State) : VaultKept s (s.svDead ld) := .after (VaultKept.ofLoss (State.tillerIdle_loss _ _)) (hsv _ _)
  rw [State.fenceLogic_eq]
  exact .on (.after (.each (fun _ _ _ => State.fenceLink_vault _ _ _ _) _) (.after (hdead _) (.after (State.fenceEngine_vault _ _ _)
    (.after (State.fenceSv_vault _ _ _) (.after (.each (fun _ _ _ => State.fenceLane_vault _ _ _ _) _) (s.logicDown_vault _ _))))))

theorem fenceField_vault (fd reason : Nat) : VaultKept s (s.fenceField fd reason) := by
  have hcut (s : State) : VaultKept s (s.cutFbist fd) := .ofRegs (s.cutFbist_regs fd) (by decide) ((s.cutFbist_frame fd).same State.tap)
  have hdown (s : State) : VaultKept s (s.dieFenced fd reason) :=
    .after (.ofRegs (State.dieFenced_fieldStop _ fd reason) (by decide) ((State.dieFenced_frame _ fd reason).same State.tap)) (s.raise_vault (by decide) _ _ _)
  have hstop (s : State) : VaultKept s (s.dieStopped fd) :=
    .ofRegs (.after ((s.termsOff_dieStopped fd).wider (by decide)) ((s.termsOff_regs fd).wider (qs := fieldStopRegs ++ [.TERM_HSTAT]) (by decide))) (by decide)
      ((s.dieStopped_frame fd).same State.tap)
  rw [State.fenceField_eq]
  exact .after (.on (.after (.ofRegs (State.instsStopped_fieldStop _ fd) (by decide) ((State.instsStopped_frame _ fd).same State.tap)) (.after (hstop _) (hdown _)))) (hcut _)

/-! ### Fences grow -/

theorem fenceField_grows {d : Nat} (h : s.fenced U.field d 0 = true) (fd reason : Nat) : (s.fenceField fd reason).fenced U.field d 0 = true := by
  have hcut : (s.cutFbist fd).fenced U.field d 0 = true := ((s.cutFbist_frame fd).same (State.fenced · U.field d 0)).trans h
  rw [State.fenceField_eq]
  cases s.fenced U.field (fdie fd) 0
  · rw [Bool.not_false, State.on_true, State.fenced, State.fence_instsStopped _ _ (by decide),
      (State.dieStopped_frame _ fd).same (State.fence · U.field d 0), (State.dieFenced_frame _ fd reason).same (State.fence · U.field d 0)]
    exact State.raise_grows _ hcut _ _ _ _
  · exact hcut

theorem fenceLogic_fenced (ld reason : Nat) : (s.fenceLogic ld reason).fenced U.logic ld 0 = true := by
  cases h : s.fenced U.logic ld 0
  · obtain ⟨t, he, hfenced, -⟩ := s.fenceLogic_effect h reason
    exact he ▸ hfenced
  · rw [State.fenceLogic_eq, h]
    exact h

/-- The fence of a logic die leaves that of every field die, and of the other logic die. -/
theorem fenceLogic_grows {k d : Nat} (hk : k = U.field ∨ k = U.logic) (h : s.fenced k d 0 = true) (ld reason : Nat) :
    (s.fenceLogic ld reason).fenced k d 0 = true := by
  have hlog (s : State) (d : Nat) : FencesWithin [] s (s.logFence d U.logic 0 reason) := .ofEq (s.logFence_fences _ _ _ _)
  have hfields (s : State) (rs : List Reg) (n : Nat) : FencesWithin [] s (s.onFence rs ld n) := .ofEq (s.onFence_fences _ _ _)
  have hfell (s : State) : FencesWithin [] s (s.gateFell ld) := .ofEq ((s.gateFell_gateFall ld).same State.fences)
  have hdown (s : State) : FencesWithin [] (s.fenceOn U.logic ld 0 reason) (s.logicDown ld reason) :=
    .after (.each (fun _ _ _ => hfields _ _ _) _) (.after (.on fun _ => hfell _) (.after (hfields _ _ _) (hlog _ _)))
  have hunits (s : State) : FencesWithin [U.inst, U.lane, U.sv, U.engine, U.port, U.link] (s.logicDown ld reason)
      ((((((s.logicDown ld reason).lanesDown ld reason).fenceSv ld reason).fenceEngine ld reason).svDead ld).linksDown ld reason) :=
    .after ((State.linksDown_fences _ _ _).wider (by decide)) (.after ((State.svDead_fences _ _).wider (by simp))
      (.after ((State.fenceEngine_fences _ _ _).wider (by decide)) (.after ((State.fenceSv_fences _ _ _).wider (by decide))
        ((State.lanesDown_fences _ _ _).wider (by decide)))))
  have hnot : k ∉ [U.inst, U.lane, U.sv, U.engine, U.port, U.link] := by rcases hk with rfl | rfl <;> decide
  rw [State.fenceLogic_eq]
  cases s.fenced U.logic ld 0
  · rw [Bool.not_false, State.on_true, (hunits s).fenced hnot, (hdown s).fenced (by simp), State.fenced_fenceOn, h, Bool.or_true]
  · exact h

/-! ### The safe state and SCANEN -/

/-- What the safe state of EXTEST and SCANEN does (R418). -/
theorem tapSafeState_effect : ∃ t, s.tapSafeState = t ∧ t.safeLow = true ∧ t.fences = s.fences ∧ VaultKept s t ∧
    (∀ fd ∈ s.fds, ∀ k < 64, t.get F.TERM_HSTAT_PENA (fdie fd) k = 0 ∧ t.get F.TERM_HSTAT_HENA (fdie fd) k = 0) := by
  let u : State := { s with part := { s.part with tapSafe := true } }
  have hoff : Frame.fieldTerms.Holds u s.tapSafeState := Frame.each (fun _ _ _ => State.termsOff_frame _ _) _
  have hpart : s.tapSafeState.part.tapSafe = true := congrArg PartSt.tapSafe (hoff.same State.part)
  have hlow : s.tapSafeState.safeLow = true := by
    unfold State.safeLow
    rw [hpart, Bool.or_true, Bool.true_or]
  have hmark : VaultKept s u := .same rfl rfl
  have hterms : VaultKept u s.tapSafeState := .each (fun _ _ _ => .ofRegs (State.termsOff_regs _ _) (by decide) ((State.termsOff_frame _ _).same State.tap)) _
  refine ⟨_, rfl, hlow, hoff.same State.fences, .after hterms hmark, fun fd hfd k hk => ?_⟩
  let off (s : State) : Prop := s.get F.TERM_HSTAT_PENA (fdie fd) k = 0 ∧ s.get F.TERM_HSTAT_HENA (fdie fd) k = 0
  exact State.each_sets (l := u.fds) (P := off) hfd (fun s => s.get_termsOff hk) (fun s e hs => s.termsOff_stays hs e) u

/-- The dies as SCANEN fences them. -/
def scanFenced (reason : Nat) : State :=
  let s2 := s.each s.fds fun s fd => s.fenceField fd reason
  s2.each s2.lds fun s ld => s.fenceLogic ld reason

theorem scanFenced_effect (reason : Nat) : ∃ t, s.scanFenced reason = t ∧ t.fds = s.fds ∧ VaultKept s t ∧
    (∀ fd ∈ s.fds, t.fenced U.field (fdie fd) 0 = true) ∧ (∀ ld ∈ s.lds, t.fenced U.logic ld 0 = true) := by
  let u := s.each s.fds fun s fd => s.fenceField fd reason
  have hk : Keeps ⟨false, true, true, true, true⟩ s (s.scanFenced reason) :=
    Keeps.each (fun t ld ht => State.fenceLogic_keeps ht rfl ld reason) (Keeps.each (fun t fd ht => State.fenceField_keeps ht fd reason) (.refl s))
  have hu : Frame.fieldFence.Holds s u := Frame.each (fun _ _ _ => State.fenceField_frame _ _ _) _
  have hlds : u.lds = s.lds := hu.same State.lds
  refine ⟨_, rfl, congrArg (List.range ∘ Variant.fields) hk.variant, .after (.each (fun _ _ _ => State.fenceLogic_vault _ _ _) _) (.each (fun _ _ _ => State.fenceField_vault _ _ _) _),
    fun fd hfd => ?_, fun ld hld => ?_⟩
  · refine State.each_stays (P := fun t => t.fenced U.field (fdie fd) 0 = true) (fun t ld h => t.fenceLogic_grows (.inl rfl) h ld reason) ?_
    exact State.each_sets (P := fun t => t.fenced U.field (fdie fd) 0 = true) hfd (fun t => t.fenceField_fenced fd reason)
      (fun t e h => t.fenceField_grows h e reason) s
  · exact State.each_sets (l := u.lds) (op := fun t ld => t.fenceLogic ld reason) (P := fun t => t.fenced U.logic ld 0 = true) (hlds ▸ hld) (fun t => t.fenceLogic_fenced ld reason)
      (fun t e h => t.fenceLogic_grows (.inr rfl) h e reason) u

theorem scanen_effect : ∃ t, s.scanen = t ∧ t.tap = s.tap ∧ t.safeLow = true ∧
    t.get F.SYSCTL_VSTAT_ZEROED 0 0 = 1 ∧ t.get F.SYSCTL_VSTAT_LOADED 0 0 = 0 ∧
    (∀ fd ∈ s.fds, t.fenced U.field (fdie fd) 0 = true) ∧ (∀ ld ∈ s.lds, t.fenced U.logic ld 0 = true) ∧
    (∀ fd ∈ s.fds, ∀ k < 64, t.get F.TERM_HSTAT_PENA (fdie fd) k = 0 ∧ t.get F.TERM_HSTAT_HENA (fdie fd) k = 0) := by
  let z := (s.spend.put F.SYSCTL_VSTAT_ZEROED 0 0 1).put F.SYSCTL_VSTAT_LOADED 0 0 0
  have hzeroed : z.get F.SYSCTL_VSTAT_ZEROED 0 0 = 1 :=
    (State.get_put_other _ _ _ _ _ _ _ _ (by decide)).trans ((State.get_put _ _ _ _ _ _ _).trans (if_pos ⟨rfl, rfl⟩))
  have hloaded : z.get F.SYSCTL_VSTAT_LOADED 0 0 = 0 := (State.get_put _ _ _ _ _ _ _).trans (if_pos ⟨rfl, rfl⟩)
  have heq : s.scanen = (z.scanFenced s.freeReason).tapSafeState := rfl
  obtain ⟨u, hu, hfds, hkept, hfield, hlogic⟩ := z.scanFenced_effect s.freeReason
  obtain ⟨t, ht, hlow, hfences, hmarks, hoff⟩ := u.tapSafeState_effect
  have hfenced (k d : Nat) : t.fenced k d 0 = u.fenced k d 0 := congrArg Fence.on (State.fence_congr hfences k d 0)
  refine ⟨t, by rw [heq, hu, ht], (hmarks.after hkept).tap, hlow, ?_, ?_, fun fd h => (hfenced _ _).trans (hfield fd h),
    fun ld h => (hfenced _ _).trans (hlogic ld h), fun fd h => hoff fd (hfds ▸ h)⟩
  · exact ((hmarks.after hkept).marks _ rfl _ _).trans hzeroed
  · exact ((hmarks.after hkept).marks _ rfl _ _).trans hloaded

/-! ### Refused instructions -/

variable {s}

/-- A refused instruction selects BYPASS and sets REFUSED, no more (R418). -/
theorem tapRefuse_effect (h : s.tapLive = true) : ∃ t, s.tapRefuse = t ∧ t.tap = .bypass ∧ (∀ ld ∈ s.lds, t.get F.LBIST_DBGSTAT_REFUSED ld 0 = 1) ∧
    OnlyFields { s with tap := .bypass, tapRegs := ⟨.idle, false, s.tapRegs.boundary⟩ } t (s.lds.map fun ld => (F.LBIST_DBGSTAT_REFUSED, ld, 0)) := by
  have hsel : s.tapSelect .bypass = { s with tap := .bypass, tapRegs := ⟨.idle, false, s.tapRegs.boundary⟩ } := by
    have hbit : (s.tapRegs.bypass && TapIns.bypass != .bypass) = false := Bool.and_false _
    rw [State.tapSelect_of_no_capture h (by decide) (by decide), hbit]
  have heq : s.tapRefuse = (s.tapSelect .bypass).each s.lds fun s ld => s.put F.LBIST_DBGSTAT_REFUSED ld 0 1 := by
    rw [State.tapRefuse, h, State.on_true]
  rw [heq, hsel]
  have hput (s : State) (ld : Nat) : (s.put F.LBIST_DBGSTAT_REFUSED ld 0 1).tap = s.tap := rfl
  have hset (s : State) (ld : Nat) : (s.put F.LBIST_DBGSTAT_REFUSED ld 0 1).get F.LBIST_DBGSTAT_REFUSED ld 0 = 1 :=
    (s.get_put _ _ _ _ _ _).trans (if_pos ⟨rfl, rfl⟩)
  refine ⟨_, rfl, (State.each_same State.tap (fun s ld _ => hput s ld) _).trans rfl, fun ld hld => ?_, change_regs_iff.1 (.each (fun s ld hld => ?_) _)⟩
  · refine State.each_sets (P := fun s => s.get F.LBIST_DBGSTAT_REFUSED ld 0 = 1) hld (fun s => hset s ld) (fun s e h => ?_) _
    rw [State.get_put]
    split
    · rfl
    · exact h
  · exact .put _ _ (List.mem_map.2 ⟨ld, hld, rfl⟩)

theorem tapSelect_capture {i : TapIns} (h : s.tapLive = true) (hi : i = .sample ∨ i = .extest) : s.tapSelect i =
    State.spend { s with tap := i, tapRegs := ⟨.idle, s.tapRegs.bypass, s.boundaryNow⟩ } := by
  have hcapture : (i == .sample || i == .extest) = true := by rcases hi with rfl | rfl <;> rfl
  have hbit : (s.tapRegs.bypass && i != .bypass) = s.tapRegs.bypass := by rcases hi with rfl | rfl <;> exact Bool.and_true _
  unfold State.tapSelect
  dsimp only
  rw [h, State.on_true, hcapture, hbit, State.on_true, if_pos rfl]

/-! ### Debug halts -/

variable (s)

theorem settle_fences (die n : Nat) : (s.settle die n).fences = s.fences := State.on_same State.fences rfl

theorem settleOwned_fences (ld code : Nat) : (s.settleOwned ld code).fences = s.fences := by
  have hone (s : State) (die n : Nat) : ((s.settle die n).setCapDue die n 0).fences = s.fences := (s.settle_fences die n)
  have hlogic := State.each_same State.fences (op := fun s n => (s.settle ld n).setCapDue ld n 0)
    (l := (List.range 32).filter fun n => s.flag (tmr ld).frz ld n && s.get (tmr ld).owner ld n == code) (fun s n _ => hone s ld n) s
  refine Eq.trans (State.on_same State.fences ?_) hlogic
  exact State.each_same State.fences (fun s fd _ => State.each_same State.fences (fun s n _ => hone s (fdie fd) n) s) _

/-- A debug halt leaves a lane fenced with reason 2, whether it was fenced before or not (R35, R425). -/
theorem fenceLane_halt (ld l : Nat) : ((s.fenceLane ld l 2).fence U.lane ld l).reason = 2 := by
  cases h : s.fenced U.lane ld l
  · exact congrArg Fence.reason (s.fenceLane_fence h 2)
  · have hf : (s.haltFenced ld l).fence U.lane ld l = (s.logFence ld U.lane l 2).raisedFence U.lane ld l 2 := State.fence_fenceOn_self _ _ _ _ _
    rw [State.fenceLane, if_pos h, decide_eq_true rfl, State.on_true, State.raise_of_fenced (congrArg Fence.on hf)]
    exact (congrArg Fence.reason (State.fence_congr (State.bistFence_fences _ _ _ _) _ _ _)).trans (congrArg Fence.reason hf)

theorem haltCore_effect {ld l : Nat} (hl : l < 8) : ∃ t, s.haltCore ld l = t ∧ t.fenced U.lane ld l = true ∧ (t.fence U.lane ld l).reason = 0x02 ∧
    (t.lane ld l).halted = true ∧ (t.get F.LBIST_DBGSTAT_HALTED ld 0).testBit l = true ∧ t.get F.LANE_LSTAT_PHASE ld l = 6 := by
  let u := (s.settleOwned ld (l + 1)).fenceLane ld l 2
  have hon := (s.settleOwned ld (l + 1)).fenceLane_fenced ld l 2
  have hreason := (s.settleOwned ld (l + 1)).fenceLane_halt ld l
  have heq : s.haltCore ld l = ((u.put F.LANE_LSTAT_PHASE ld l 6).setLane ld l { (u.put F.LANE_LSTAT_PHASE ld l 6).lane ld l with halted := true }).orFlags
      F.LBIST_DBGSTAT_HALTED ld 0 (2 ^ l) := rfl
  rw [heq]
  change u.fenced U.lane ld l = true at hon
  change (u.fence U.lane ld l).reason = 2 at hreason
  generalize u = u at hon hreason
  refine ⟨_, rfl, hon, hreason, congrArg LaneSt.halted ((State.lane_setLane _ _ _ _ _ _).trans (if_pos rfl)), ?_, ?_⟩
  · rw [State.orFlags, State.get_put, if_pos ⟨rfl, rfl⟩, Nat.testBit_mod_two_pow, decide_eq_true hl, Nat.testBit_or, Nat.testBit_two_pow_self]
    simp
  · have hphase : (u.put F.LANE_LSTAT_PHASE ld l 6).get F.LANE_LSTAT_PHASE ld l = 6 := (State.get_put _ _ _ _ _ _ _).trans (if_pos ⟨rfl, rfl⟩)
    exact (State.get_put_other _ _ _ _ _ _ _ _ (by decide)).trans hphase

theorem haltRefused_effect (ld : Nat) : ∃ t, s.haltRefused ld = t ∧
    t.get F.LBIST_DBGSTAT_REFUSED ld 0 = 1 ∧ OnlyFields s t [(F.LBIST_DBGSTAT_REFUSED, ld, 0)] :=
  ⟨_, rfl, (s.get_put _ _ _ _ _ _).trans (if_pos ⟨rfl, rfl⟩), onlyFields_put _ _ _ _ _⟩

/-- A supervisor whose core halts or resumes: its mailboxes move with it (R284, R425, R426). -/
theorem svHalt_effect (ld : Nat) (b : Bool) :
    ∃ t, (((s.setSv ld { s.svst ld with halted := b }).put F.LBIST_DBGSTAT_SVHALT ld 0 b.toNat).moveLeases) = t ∧ (t.svst ld).halted = b ∧
    t.get F.LBIST_DBGSTAT_SVHALT ld 0 = b.toNat ∧ t.fences = s.fences ∧
    (∀ d mb, t.hasLd d = true → mb < 8 → t.get F.MB_MBCTL_SERVER d mb = t.serverOf d mb) := by
  let u := (s.setSv ld { s.svst ld with halted := b }).put F.LBIST_DBGSTAT_SVHALT ld 0 b.toNat
  have hget : u.get F.LBIST_DBGSTAT_SVHALT ld 0 = b.toNat :=
    ((State.get_put _ _ _ _ _ _ _).trans (if_pos ⟨rfl, rfl⟩)).trans (Nat.mod_eq_of_lt (Bool.toNat_lt _))
  have hsv : (u.svst ld).halted = b := congrArg SvSt.halted ((State.svst_setSv _ _ _ _).trans (if_pos rfl))
  exact ⟨u.moveLeases, rfl, (congrArg SvSt.halted (u.moveLeases_frame.same (State.svst · ld))).trans hsv,
    (u.moveLeases_regs _ _ _ (by decide)).trans hget, u.moveLeases_frame.same State.fences, fun d mb hd hmb => u.server_of_moved hd hmb⟩

theorem testBit_sub_and (h l : Nat) : (h - (h &&& 2 ^ l)).testBit l = false := by
  rw [Nat.and_two_pow]
  cases hb : h.testBit l
  · simpa using hb
  · have hodd : h / 2 ^ l % 2 = 1 := by simpa [Nat.testBit_eq_decide_div_mod_eq] using hb
    have hsub : (h - 2 ^ l) / 2 ^ l = h / 2 ^ l - 1 := by simpa using Nat.sub_mul_div h (2 ^ l) 1
    rw [Bool.toNat_true, Nat.one_mul, Nat.testBit_eq_decide_div_mod_eq, hsub, decide_eq_false_iff_not]
    omega

theorem resumeLane_effect (ld l : Nat) : ∃ t, s.resumeLane ld l = t ∧ (t.lane ld l).halted = false ∧
    (t.get F.LBIST_DBGSTAT_HALTED ld 0).testBit l = false ∧ t.get F.LANE_LSTAT_PHASE ld l = 7 ∧ t.fences = s.fences := by
  let u := (s.setLane ld l { LaneSt.zero with lfsr := (s.lane ld l).lfsr, mis := (s.lane ld l).mis }).put F.LBIST_DBGSTAT_HALTED ld 0
    (s.get F.LBIST_DBGSTAT_HALTED ld 0 - (s.get F.LBIST_DBGSTAT_HALTED ld 0 &&& 2 ^ l))
  have hbit : (u.get F.LBIST_DBGSTAT_HALTED ld 0).testBit l = false := by
    rw [State.get_put, if_pos ⟨rfl, rfl⟩, Nat.testBit_mod_two_pow, testBit_sub_and, Bool.and_false]
  have hlane : (u.lane ld l).halted = false := congrArg LaneSt.halted ((State.lane_setLane _ _ _ _ _ _).trans (if_pos rfl))
  refine ⟨u.put F.LANE_LSTAT_PHASE ld l 7, rfl, hlane, ?_, (State.get_put _ _ _ _ _ _ _).trans (if_pos ⟨rfl, rfl⟩), rfl⟩
  exact (congrArg (Nat.testBit · l) (State.get_put_other _ _ _ _ _ _ _ _ (by decide))).trans hbit

end State

/-- Settles O56: each instruction of the port and each halt by what it selects, fences and marks. -/
theorem tapAndDebugFollowTheLifeCycle : Obligations.TapAndDebugFollowTheLifeCycle := by
  refine ⟨fun s hlive => ?port, fun s => ⟨?reset, fun hdead => ?idle⟩, fun s ld l hld hl hdbg => ?halt, fun s ld l hld hdbg => ⟨fun hl hhalted => ?lane, fun hhalted => ?sv⟩⟩
  case port =>
    have hrefused (i : Instr) (hx : exec i s = .next s.tapRefuse) := (State.tapRefuse_effect hlive).imp fun t ht => And.imp_left (fun he => hx.trans (congrArg _ he)) ht
    have hplain {i : TapIns} (hi : i ≠ .bypass) (hs : i ≠ .sample) (he : i ≠ .extest) :
        s.tapSelect i = { s with tap := i, tapRegs := ⟨.idle, s.tapRegs.bypass, s.tapRegs.boundary⟩ } := by
      have hbit : (s.tapRegs.bypass && i != .bypass) = s.tapRegs.bypass := by rw [bne_iff_ne.2 hi, Bool.and_true]
      rw [State.tapSelect_of_no_capture hlive hs he, hbit]
    have hbypass : s.tapSelect .bypass = { s with tap := .bypass, tapRegs := ⟨.idle, false, s.tapRegs.boundary⟩ } := by
      have hbit : (s.tapRegs.bypass && TapIns.bypass != .bypass) = false := Bool.and_false _
      rw [State.tapSelect_of_no_capture hlive (by decide) (by decide), hbit]
    refine ⟨?_, fun code hcode => hrefused _ ?_, ?_, ?_, fun hlc => hrefused _ ?_, fun h1 h3 => hrefused _ ?_, fun hlc => ?_, fun hlc => ?_⟩
    · exact (State.answer_of rfl rfl).trans (congrArg _ ((if_pos rfl).trans hbypass))
    · exact (State.answer_of rfl rfl).trans (congrArg _ (if_neg hcode))
    · exact (State.answer_of rfl rfl).trans (congrArg _ (State.tapSelect_capture hlive (.inl rfl)))
    · exact (State.answer_of rfl rfl).trans (congrArg _ (hplain (by decide) (by decide) (by decide)))
    · exact (State.answer_of rfl rfl).trans (congrArg _ (if_pos hlc))
    · exact (State.answer_of rfl rfl).trans (congrArg _ (if_neg (not_or.2 ⟨h1, h3⟩)))
    · obtain ⟨t, ht, hlow, -, hkept, hoff⟩ := (s.tapSelect .extest).tapSafeState_effect
      have hsel : (s.tapSelect .extest).tap = .extest ∧ (s.tapSelect .extest).fds = s.fds := by
        rw [State.tapSelect_capture hlive (.inr rfl)]
        exact ⟨rfl, rfl⟩
      refine ⟨t, (State.answer_of rfl rfl).trans (congrArg _ ((if_neg hlc).trans ?_)), hkept.tap.trans hsel.1, hlow, fun fd hfd => hoff fd (hsel.2 ▸ hfd)⟩
      rw [hlive, State.on_true, ht]
    · have hsel : (s.tapSelect .scanen).tap = .scanen ∧ (s.tapSelect .scanen).fds = s.fds ∧ (s.tapSelect .scanen).lds = s.lds := by
        rw [hplain (by decide) (by decide) (by decide)]
        exact ⟨rfl, rfl, rfl⟩
      obtain ⟨htap, hfds, hlds⟩ := hsel
      obtain ⟨t, ht, hkept, hlow, hzeroed, hloaded, hfield, hlogic, hoff⟩ := (s.tapSelect .scanen).scanen_effect
      refine ⟨t, (State.answer_of rfl rfl).trans (congrArg _ ((if_pos hlc).trans ?_)), hkept.trans htap, hlow, hzeroed, hloaded,
        fun fd h => hfield fd (hfds ▸ h), fun ld h => hlogic ld (hlds ▸ h), fun fd h => hoff fd (hfds ▸ h)⟩
      rw [hlive, State.on_true, ht]
  case reset => exact State.answer_of rfl rfl
  case idle =>
    have hrefuse : s.tapRefuse = s := by rw [State.tapRefuse, hdead, State.on_false]
    simp only [List.forall_mem_cons, List.not_mem_nil, false_imp_iff, implies_true, and_true]
    refine ⟨?_, ?_, ?_, ?_⟩
    · exact (State.answer_of rfl rfl).trans (congrArg _ (State.tapSelect_of_not_tapLive hdead _))
    · refine (State.answer_of rfl rfl).trans (congrArg _ ?_)
      rw [hrefuse, hdead, State.on_false, State.tapSelect_of_not_tapLive hdead, ite_self]
    · exact (State.answer_of rfl rfl).trans (congrArg _ (State.tapSelect_of_not_tapLive hdead _))
    · refine (State.answer_of rfl rfl).trans (congrArg _ ?_)
      rw [hrefuse, hdead, State.on_false, State.tapSelect_of_not_tapLive hdead, ite_self]
  case halt =>
    have hlane : s.laneHaltOk ld = true ↔ s.lc = 1 ∨ s.lc = 2 ∧ s.gate ld = true := by simp [State.laneHaltOk]
    have hunit : (s.hasLd ld && decide (l < 8)) = true := by rw [hld, decide_eq_true hl]; rfl
    refine ⟨fun hok => ?_, fun hno => ?_, fun hlc => ?_, fun hlc => ?_⟩
    · obtain ⟨t, ht, heffect⟩ := s.haltCore_effect (ld := ld) hl
      exact ⟨t, (State.answer_of hunit hdbg).trans (congrArg _ ((if_pos (hlane.2 hok)).trans ht)), heffect⟩
    · obtain ⟨t, ht, heffect⟩ := s.haltRefused_effect ld
      exact ⟨t, (State.answer_of hunit hdbg).trans (congrArg _ ((if_neg (mt hlane.1 hno)).trans ht)), heffect⟩
    · obtain ⟨t, ht, hhalted, hmark, hfences, hserver⟩ := (s.settleOwned ld 9).svHalt_effect ld true
      exact ⟨t, (State.answer_of hld hdbg).trans (congrArg _ ((if_pos hlc).trans ht)), hhalted, hmark, hfences.trans (s.settleOwned_fences ld 9), hserver⟩
    · obtain ⟨t, ht, heffect⟩ := s.haltRefused_effect ld
      exact ⟨t, (State.answer_of hld hdbg).trans (congrArg _ ((if_neg hlc).trans ht)), heffect⟩
  case lane =>
    obtain ⟨t, ht, heffect⟩ := s.resumeLane_effect ld l
    refine ⟨t, (State.answer_of ?_ ?_).trans (congrArg _ ((if_pos hl).trans ht)), heffect⟩
    · rw [hld, decide_eq_true (by omega)]; rfl
    · rw [hdbg, if_pos hl, hhalted]; rfl
  case sv =>
    obtain ⟨t, ht, heffect⟩ := s.svHalt_effect ld false
    refine ⟨t, (State.answer_of ?_ ?_).trans (congrArg _ ((if_neg (by decide)).trans ht)), heffect⟩
    · rw [hld]; rfl
    · rw [hdbg, if_neg (by decide), hhalted]; rfl

end Sys2Proof.Machine
end

section
/-! SUPPORT. TILLER_CTL and TIMER_CTL (R289, R318). -/

namespace Sys2Proof.Machine

namespace State

variable {s : State} {p : List Byte}

/-! ### TILLER_CTL -/

theorem tiller_done {f : Nat → State} (hld : s.hasLd (fieldAt p 0 1) = true) (hz : zeros p 2 2 = true) :
    s.tiller p true 0 f = done (f (fieldAt p 0 1)) ((f (fieldAt p 0 1)).tillerBytes (fieldAt p 0 1)) := by
  unfold State.tiller
  dsimp only
  rw [hld, hz]
  rfl

theorem tiller_status {f : Nat → State} (hld : s.hasLd (fieldAt p 0 1) = true) (hz : zeros p 2 2 = true) {status : Nat} (h : status ≠ 0) :
    s.tiller p true status f = refused s status := by
  unfold State.tiller
  dsimp only
  rw [hld, hz, if_pos h]
  rfl

theorem tillerWrite_done {f : Nat → State} {sv : Nat} (hld : s.hasLd (fieldAt p 0 1) = true) (hz : zeros p 2 2 = true)
    (hmay : s.SvMayWrite sv .SPM_TCTL (fieldAt p 0 1) 0 false) :
    s.tillerWrite sv p true 0 f = done (f (fieldAt p 0 1)) ((f (fieldAt p 0 1)).tillerBytes (fieldAt p 0 1)) := by
  rw [State.tillerWrite, tiller_done hld hz, State.svWrite_of_svMayWrite hmay]
  exact if_pos rfl

theorem tillerWrite_status {f : Nat → State} {sv : Nat} (hld : s.hasLd (fieldAt p 0 1) = true) (hz : zeros p 2 2 = true) {status : Nat}
    (h : status ≠ 0) : s.tillerWrite sv p true status f = refused s status := by
  rw [State.tillerWrite, tiller_status hld hz h]
  exact if_neg h

/-! ### TIMER_CTL -/

/-- The timer's request is in form, and names a timer of the part. -/
structure NamesTimer (s : State) (p : List Byte) (op n : Nat) : Prop where
  op : fieldAt p 1 1 = op
  timer : s.ctlTimer (fieldAt p 0 1) (fieldAt p 2 1) = some n
  gap : zeros p 3 1 = true
  tail : zeros p 16 4 = true

variable {sv op n : Nat} {wantFree : Bool} {f : Nat → Nat → State × Nat}

/-- Whether the owner of the timer keeps the operation out. -/
def timerTaken (s : State) (d n : Nat) (wantFree : Bool) : Prop :=
  if wantFree then s.get (tmr d).owner d n ≠ 0 ∨ s.fenced (timerKind d) d n = true else s.get (tmr d).owner d n ≠ svTimerCode d

theorem timerCmd_busy (h : s.NamesTimer p op n) (ht : s.timerTaken (fieldAt p 0 1) n wantFree) :
    s.timerCmd sv p op wantFree f = refused s St.unitBusy := by
  obtain ⟨hop, htimer, hgap, htail⟩ := h
  unfold State.timerCmd
  dsimp only
  rw [htimer]
  dsimp only
  rw [if_neg (by simp [hop, hgap, htail])]
  exact if_pos ht

theorem timerCmd_acts (h : s.NamesTimer p op n) (ht : ¬s.timerTaken (fieldAt p 0 1) n wantFree)
    (hmay : s.SvMayWrite sv (ctlReg (fieldAt p 0 1)) (fieldAt p 0 1) n false) :
    s.timerCmd sv p op wantFree f = if (f (fieldAt p 0 1) n).2 ≠ 0 then refused (f (fieldAt p 0 1) n).1 (f (fieldAt p 0 1) n).2
      else (f (fieldAt p 0 1) n).1.timerReply sv (fieldAt p 0 1) n := by
  obtain ⟨hop, htimer, hgap, htail⟩ := h
  unfold State.timerCmd
  dsimp only
  rw [htimer]
  dsimp only
  rw [if_neg (by simp [hop, hgap, htail])]
  exact (if_neg ht).trans (State.svWrite_of_svMayWrite hmay _)

/-- An operation that is done answers the seven registers of its timer. -/
theorem timerCmd_reply (h : s.NamesTimer p op n) (ht : ¬s.timerTaken (fieldAt p 0 1) n wantFree)
    (hmay : s.SvMayWrite sv (ctlReg (fieldAt p 0 1)) (fieldAt p 0 1) n false) {t : State} (hf : f (fieldAt p 0 1) n = (t, 0)) :
    s.timerCmd sv p op wantFree f = done (t.readRun (Master.sv sv) (regAddr (ctlReg (fieldAt p 0 1)) (fieldAt p 0 1) n) 7).1
      ((t.readRun (Master.sv sv) (regAddr (ctlReg (fieldAt p 0 1)) (fieldAt p 0 1) n) 7).2.1.flatMap fun w => leBytes 4 w) := by
  rw [timerCmd_acts h ht hmay, hf]
  exact if_neg (by simp)

theorem timerCmd_refused (h : s.NamesTimer p op n) (ht : ¬s.timerTaken (fieldAt p 0 1) n wantFree)
    (hmay : s.SvMayWrite sv (ctlReg (fieldAt p 0 1)) (fieldAt p 0 1) n false) {t : State} {status : Nat}
    (hf : f (fieldAt p 0 1) n = (t, status)) (hstatus : status ≠ 0) : s.timerCmd sv p op wantFree f = refused t status := by
  rw [timerCmd_acts h ht hmay, hf]
  exact if_pos hstatus

/-- A Set whose word a register refuses writes none. -/
theorem timerSet_refused {d : Nat} (h : (s.timerSet p d n).2 ≠ 0) : s.timerSet p d n = (s, St.writeRefused) := by
  unfold State.timerSet at h ⊢
  dsimp only at h ⊢
  split
  · rw [if_pos ‹_›] at h
    exact absurd rfl h
  · rfl

end State

/-- Settles O45: a request in form does its operation, and answers the registers as they read after it. -/
theorem tillerAndTimerCommandsAct : Obligations.TillerAndTimerCommandsAct := by
  intro s ld mb c q p sv ok no
  refine ⟨fun hserves hlen hld hz => ?tiller, ?timer⟩
  case tiller =>
    have hbyte : s.opByte ld mb = fieldAt p 1 1 := rfl
    have hl : lenIs 8 (s.req ld mb).own = true := by simpa [lenIs] using hlen
    refine ⟨fun hop => ?read, fun hmay hop hmin hmax => ?pace, fun hmay hop => ?pause, fun hmay hop => ?resume⟩
    case read =>
      refine command_done hserves (by rw [hbyte, hop]; rfl) hl ?_
      change c.tiller p (fieldAt p 1 1 == 0) 0 _ = _
      rw [hop]
      exact State.tiller_done hld hz
    case pace =>
      have hsub : (s.opByte ld mb == 1) = true := by rw [hbyte, hop]; rfl
      have hok : (decide (10 ≤ fieldAt p 4 4) && decide (fieldAt p 4 4 ≤ 1000)) = true := by rw [decide_eq_true hmin, decide_eq_true hmax]; rfl
      split
      case isTrue hsealed =>
        refine command_status hserves hsub hl ?_
        change c.tillerWrite sv p _ _ _ = _
        rw [hok, if_pos hsealed]
        exact State.tillerWrite_status hld hz (by decide)
      case isFalse hopen =>
        refine command_done hserves hsub hl ?_
        change c.tillerWrite sv p _ _ _ = _
        rw [hok, if_neg hopen]
        exact State.tillerWrite_done hld hz hmay
    case pause =>
      have hsub : (s.opByte ld mb == 2) = true := by rw [hbyte, hop]; rfl
      split
      case isTrue hopen =>
        refine command_done hserves hsub hl ?_
        change c.tillerWrite sv p _ _ _ = _
        rw [if_pos hopen]
        exact State.tillerWrite_done hld hz hmay
      case isFalse hsealed =>
        refine command_status hserves hsub hl ?_
        change c.tillerWrite sv p _ _ _ = _
        rw [if_neg hsealed]
        exact State.tillerWrite_status hld hz (by decide)
    case resume => exact command_done hserves (by rw [hbyte, hop]; rfl) hl (State.tillerWrite_done hld hz hmay)
  case timer =>
    intro hserves hlen hgap htail d n htimer hmay
    have hbyte : s.opByte ld mb = fieldAt p 1 1 := rfl
    have hl : lenIs 20 (s.req ld mb).own = true := by simpa [lenIs] using hlen
    have hnames {op : Nat} (hop : fieldAt p 1 1 = op) : c.NamesTimer p op n := ⟨hop, htimer, hgap, htail⟩
    have hmine (h : c.get (tmr d).owner d n = svTimerCode d) : ¬c.timerTaken (fieldAt p 0 1) n false := not_not.2 h
    intro o answers
    refine ⟨fun hop hfree hup => ?_, fun hop ho => ?_, fun hop ho => ?_, fun hop ho hset => ?_, fun hop ho hset => ?_, fun hop ho => ?_, fun hop ho => ?_,
      fun hop ho => ?_, fun hop ho => ?_⟩
    · have hfreed : ¬c.timerTaken (fieldAt p 0 1) n true := fun h => h.elim (fun h => h hfree) fun h => Bool.noConfusion (h.symm.trans hup)
      exact command_done hserves (by rw [hbyte, hop]; rfl) hl (State.timerCmd_reply (hnames hop) hfreed hmay rfl)
    · exact command_status hserves (by rw [hbyte, hop]; rfl) hl (State.timerCmd_busy (hnames hop) (.inl ho))
    · exact command_done hserves (by rw [hbyte, hop]; rfl) hl (State.timerCmd_reply (hnames hop) (hmine ho) hmay rfl)
    · exact command_done hserves (by rw [hbyte, hop]; rfl) hl (State.timerCmd_reply (hnames hop) (hmine ho) hmay (Prod.ext rfl hset))
    · exact command_status hserves (by rw [hbyte, hop]; rfl) hl
        (State.timerCmd_refused (hnames hop) (hmine ho) hmay (State.timerSet_refused hset) (by decide))
    · exact command_status hserves (by rw [hbyte, hop]; rfl) hl (State.timerCmd_busy (hnames hop) ho)
    · exact command_status hserves (by rw [hbyte, hop]; rfl) hl (State.timerCmd_busy (hnames hop) ho)
    · exact command_done hserves (by rw [hbyte, hop]; rfl) hl (State.timerCmd_reply (hnames hop) (hmine ho) hmay rfl)
    · exact command_status hserves (by rw [hbyte, hop]; rfl) hl (State.timerCmd_busy (hnames hop) ho)

end Sys2Proof.Machine
end

section
/-! SUPPORT. Responses in their buffers (R275, R277, R278, R280). -/

namespace Sys2Proof.Machine

/-! ### Messages -/

theorem crc32c_lt (bs : List Byte) : crc32c bs < 2 ^ 32 := by
  rw [crc32c, nat_xor]
  exact Nat.xor_lt_two_pow (bitsFrom_bits _ _).1 (by decide)

/-- A message before its CRC. -/
def messageBody (opcode tag flags xb seq status : Nat) (payload : List Byte) : List Byte :=
  leBytes 2 opcode ++ leBytes 2 tag ++ leBytes 2 payload.length ++ leBytes 1 flags ++ leBytes 1 xb ++ leBytes 2 seq ++
    leBytes 2 status ++ leBytes 4 0 ++ payload

theorem message_eq (opcode tag flags xb seq status : Nat) (payload : List Byte) : message opcode tag flags xb seq status payload =
    messageBody opcode tag flags xb seq status payload ++ leBytes 4 (crc32c (messageBody opcode tag flags xb seq status payload)) := rfl

theorem messageBody_length (opcode tag flags xb seq status : Nat) (payload : List Byte) :
    (messageBody opcode tag flags xb seq status payload).length = 16 + payload.length := by
  simp [messageBody]
  omega

/-- A message ends with the CRC-32C of what stands before it. -/
theorem message_crc (opcode tag flags xb seq status : Nat) (payload : List Byte) :
    let m := message opcode tag flags xb seq status payload
    m.length = 20 + payload.length ∧ fieldAt m (16 + payload.length) 4 = crc32c (m.take (16 + payload.length)) := by
  dsimp only
  rw [message_eq]
  have hlen := messageBody_length opcode tag flags xb seq status payload
  generalize messageBody opcode tag flags xb seq status payload = b at hlen
  refine ⟨by rw [List.length_append, hlen, leBytes_length]; omega, ?_⟩
  rw [fieldAt, ← hlen, List.drop_left, List.take_left, List.take_of_length_le (by rw [leBytes_length]), leNat_leBytes]
  exact Nat.mod_eq_of_lt (crc32c_lt b)

theorem fieldAt_take (bs : List Byte) {k n m : Nat} (h : k + n ≤ m) : fieldAt (bs.take m) k n = fieldAt bs k n := by
  rw [fieldAt, List.drop_take, List.take_take, Nat.min_eq_left (by omega)]
  rfl

/-- A message's fields read as they were written, within their widths. -/
theorem message_fields (opcode tag flags xb seq status : Nat) (payload : List Byte) :
    let m := message opcode tag flags xb seq status payload
    fieldAt m 0 2 = opcode % 256 ^ 2 ∧ fieldAt m 2 2 = tag % 256 ^ 2 ∧ fieldAt m 4 2 = payload.length % 256 ^ 2 ∧ fieldAt m 6 1 = flags % 256 ^ 1 ∧
    fieldAt m 8 2 = seq % 256 ^ 2 ∧ fieldAt m 10 2 = status % 256 ^ 2 ∧ (m.drop 16).take payload.length = payload :=
  ⟨leNat_leBytes 2 opcode, leNat_leBytes 2 tag, leNat_leBytes 2 _, leNat_leBytes 1 flags, leNat_leBytes 2 seq, leNat_leBytes 2 status,
    List.take_left⟩

namespace State

variable (s : State)

/-! ### Completion -/

/-- A write of a run of bytes leaves all that memory takes no part in. -/
theorem setBytes_same {β : Type} (p : State → β) (hp : ∀ (s : State) m, p { s with mem := m } = p s) {a : Nat} {l : List Byte} :
    p (s.setBytes a l) = p s := by
  rw [State.setBytes_eq]
  exact hp _ _

/-- A run of bytes that was written reads back. -/
theorem bytes_setBytes (a : Nat) (bs : List Byte) : (s.setBytes a bs).bytes a bs.length = bs := by
  refine List.ext_getElem (by simp [State.bytes]) fun k hk hb => ?_
  simp [State.bytes, State.byte_setBytes, hb]

theorem take_bytes (a : Nat) {m n : Nat} (h : m ≤ n) : (s.bytes a n).take m = s.bytes a m := by
  rw [State.bytes, ← List.map_take, List.take_range, Nat.min_eq_left h]
  rfl

theorem enqueue_mailbox (ld p : Nat) (q : QFrame) :
    RegsWithin [.RNG_RXERR] s (s.enqueue ld p q) ∧ (s.enqueue ld p q).mem = s.mem ∧ (s.enqueue ld p q).remote = s.remote := by
  unfold State.enqueue
  dsimp only
  split
  · exact ⟨.ofRegs _ rfl, rfl, rfl⟩
  · exact ⟨.put _ _ _ _ _ (by decide), rfl, rfl⟩

/-- The ring engine acknowledges the response of a remote request; every other mailbox waits for its client. -/
theorem sendRemote_effect (ld mb : Nat) : ∃ t, s.sendRemote ld mb = t ∧ t.mem = s.mem ∧
    t.mbState ld mb = (if (s.rem ld mb).on then mbIdle else s.mbState ld mb) ∧
    ∀ G : Fld, G.reg ∈ [Reg.MB_MBCTL, .MB_MBSEQ] → G.lo ≠ F.MB_MBCTL_STATE.lo ∨ G.reg ≠ .MB_MBCTL → ∀ d i, t.get G d i = s.get G d i := by
  unfold State.sendRemote
  dsimp only
  cases (s.rem ld mb).on
  · exact ⟨s, rfl, rfl, rfl, fun _ _ _ _ _ => rfl⟩
  · rw [State.on_true, State.originate]
    generalize QFrame.mk false _ = q
    obtain ⟨hregs, hmem, -⟩ := s.enqueue_mailbox (s.rem ld mb).ring (s.svPort (s.rem ld mb).ring) q
    generalize s.enqueue _ _ q = u at hregs hmem
    refine ⟨_, rfl, hmem, (State.get_put _ _ _ _ _ _ _).trans (if_pos ⟨rfl, rfl⟩), fun G hG hlo d i => ?_⟩
    refine (State.get_put_key _ _ _ _ _ _ _ _ fun hk => ?_).trans (hregs G d i ?_)
    · obtain ⟨hr, hl, -⟩ := Fld.key_eq.1 hk
      exact hlo.elim (fun h => h hl) fun h => h hr
    · intro h
      rw [List.mem_singleton.1 h] at hG
      exact absurd hG (by decide)

/-- COMPLETE: the mailbox is DONE, or idle again where its client is the ring engine, and keeps its SEQ as the status asks. -/
theorem mbComplete_effect (ld mb : Nat) : ∃ t, s.mbComplete ld mb = t ∧ t.mem = s.mem ∧
    t.mbState ld mb = (if (s.rem ld mb).on then mbIdle else mbDoneSt) ∧ t.get F.MB_MBCTL_WARDEN ld mb = 0 ∧
    t.get F.MB_MBSEQ_SYNC ld mb = 1 ∧
    (keepsSeq (fieldAt (s.response ld mb) 10 2) = false →
      t.get F.MB_MBSEQ_LAST ld mb = fieldAt (s.response ld mb) 8 2 % 2 ^ 16 ∧ t.get F.MB_MBSEQ_RSPHELD ld mb = 1) ∧
    (keepsSeq (fieldAt (s.response ld mb) 10 2) = true → t.get F.MB_MBSEQ_LAST ld mb = s.get F.MB_MBSEQ_LAST ld mb ∧
      t.get F.MB_MBSEQ_RSPHELD ld mb = s.get F.MB_MBSEQ_RSPHELD ld mb) := by
  generalize hseq : fieldAt (s.response ld mb) 8 2 = seq
  generalize hkeep : keepsSeq (fieldAt (s.response ld mb) 10 2) = keep
  let u := (s.put F.MB_MBSEQ_SYNC ld mb 1).on (!keep) fun s => (s.put F.MB_MBSEQ_LAST ld mb seq).put F.MB_MBSEQ_RSPHELD ld mb 1
  let v := (u.put F.MB_MBCTL_STATE ld mb mbDoneSt).put F.MB_MBCTL_WARDEN ld mb 0
  have heq : s.mbComplete ld mb = State.sendRemote { v with mbOrder := v.mbOrder.erase (ld, mb) } ld mb := by
    unfold State.mbComplete
    dsimp only
    rw [hseq, hkeep]
    rfl
  have hu : u.mem = s.mem ∧ u.remote = s.remote ∧ u.get F.MB_MBSEQ_SYNC ld mb = 1 ∧
      (keep = false → u.get F.MB_MBSEQ_LAST ld mb = seq % 2 ^ 16 ∧ u.get F.MB_MBSEQ_RSPHELD ld mb = 1) ∧
      (keep = true → u.get F.MB_MBSEQ_LAST ld mb = s.get F.MB_MBSEQ_LAST ld mb ∧ u.get F.MB_MBSEQ_RSPHELD ld mb = s.get F.MB_MBSEQ_RSPHELD ld mb) := by
    cases keep <;> simp [u, State.get_put_other]
  obtain ⟨hmem, hremote, hsync, hnew, hold⟩ := hu
  have hrem : ({ v with mbOrder := v.mbOrder.erase (ld, mb) } : State).rem ld mb = s.rem ld mb :=
    congrArg (fun r => Store.get (fun _ => Remote.zero) r (8 * ld + mb)) hremote
  have hstate : v.mbState ld mb = mbDoneSt :=
    (State.get_put_other _ _ _ _ _ _ _ _ (by decide)).trans ((State.get_put _ _ _ _ _ _ _).trans (if_pos ⟨rfl, rfl⟩))
  have hwarden : v.get F.MB_MBCTL_WARDEN ld mb = 0 := (State.get_put _ _ _ _ _ _ _).trans (if_pos ⟨rfl, rfl⟩)
  have hv (G : Fld) (hG : G.reg = .MB_MBSEQ) : v.get G ld mb = u.get G ld mb := by
    have hk (F : Fld) (hF : F.reg = .MB_MBCTL) (s : State) (x : Nat) : (s.put F ld mb x).get G ld mb = s.get G ld mb :=
      State.get_put_key _ _ _ _ _ _ _ _ fun h => absurd (hG.symm.trans ((Fld.key_eq.1 h).1.trans hF)) (by decide)
    exact (hk _ rfl _ _).trans (hk _ rfl _ _)
  obtain ⟨t, ht, hmemt, hst, hget⟩ := State.sendRemote_effect { v with mbOrder := v.mbOrder.erase (ld, mb) } ld mb
  have hmbseq (G : Fld) (hG : G.reg = .MB_MBSEQ) : t.get G ld mb = u.get G ld mb :=
    (hget G (by rw [hG]; decide) (.inr (by rw [hG]; decide)) ld mb).trans (hv G hG)
  refine ⟨t, heq.trans ht, hmemt.trans hmem, ?_, (hget _ (by decide) (.inl (by decide)) _ _).trans hwarden, (hmbseq _ rfl).trans hsync,
    fun h => ⟨(hmbseq _ rfl).trans (hnew h).1, (hmbseq _ rfl).trans (hnew h).2⟩, fun h => ⟨(hmbseq _ rfl).trans (hold h).1, (hmbseq _ rfl).trans (hold h).2⟩⟩
  rw [hst, hrem]
  exact congrArg _ hstate

end State

/-- Settles O39: the message that a reply writes, and what the COMPLETE of it leaves. -/
theorem aResponseStandsInItsBuffer : Obligations.AResponseStandsInItsBuffer := by
  intro s u ld mb status payload hmb hlen hstatus q t m
  have hread (k n : Nat) (bs : List Byte) : fieldAt bs k n % 256 ^ n = fieldAt bs k n := by
    refine Nat.mod_eq_of_lt ((fieldAt_lt bs k n).trans_eq ?_)
    rw [Nat.pow_mul]
  obtain ⟨hmlen, hcrc⟩ := message_crc (fieldAt q.bytes 0 2) (fieldAt q.bytes 2 2) 2 (fieldAt q.bytes 7 1) (fieldAt q.bytes 8 2) status payload
  obtain ⟨hop, htag, hl, hflags, hseq, hst, hpay⟩ :=
    message_fields (fieldAt q.bytes 0 2) (fieldAt q.bytes 2 2) 2 (fieldAt q.bytes 7 1) (fieldAt q.bytes 8 2) status payload
  change m.length = _ at hmlen
  change fieldAt m _ _ = _ at hcrc hop htag hl hflags hseq hst
  rw [hread] at hop htag hseq
  rw [Nat.mod_eq_of_lt (by omega)] at hl hst
  let w := u.setBytes (mbBase ld mb + 512) m
  have htake : m.take 512 = m := List.take_of_length_le (by omega)
  have hresp : (w.response ld mb).take m.length = m := by
    rw [State.response, w.take_bytes _ (by omega)]
    exact u.bytes_setBytes _ m
  have hfield (k n : Nat) (hk : k + n ≤ 16) : fieldAt (w.response ld mb) k n = fieldAt m k n := by
    rw [← fieldAt_take _ (show k + n ≤ m.length by omega), hresp]
  obtain ⟨t', ht, hmem, hstate, hwarden, hsync, hnew, hold⟩ := w.mbComplete_effect ld mb
  have htw : t = t' := by
    have hmb : t = (u.setBytes (mbBase ld mb + 512) (m.take 512)).mbComplete ld mb := rfl
    rw [hmb, htake]
    exact ht
  rw [hfield 10 2 (by decide), hst] at hnew hold
  rw [hfield 8 2 (by decide), hseq] at hnew
  have hwregs : w.regs = u.regs := u.setBytes_same State.regs fun _ _ => rfl
  have hwget (G : Fld) (d i : Nat) : w.get G d i = u.get G d i := congrArg (fun r => Store.get (fun _ => G.resetAt d i) r (G.key d i)) hwregs
  have hwrem : w.rem ld mb = u.rem ld mb :=
    congrArg (fun r => Store.get (fun _ => Remote.zero) r (8 * ld + mb)) (u.setBytes_same State.remote fun _ _ => rfl)
  have hkeeps : Keeps ⟨false, true, true, true, true⟩ u t := State.reply_keeps (.refl u) rfl _ _ _ _ _
  rw [htw] at hkeeps ⊢
  have hbyte (a : Nat) : t'.byte a = w.byte a := by rw [State.byte, hmem]; rfl
  refine ⟨hmlen, hcrc, hl, hflags, hst, hpay, hop, htag, hseq, ?_, fun a ha => ?_, hstate.trans (by rw [hwrem]), hwarden, hsync, hnew, fun h => ?_,
    hkeeps.tick rfl, hkeeps.flash rfl, hkeeps.otp rfl, hkeeps.image rfl⟩
  · have hsame : t'.response ld mb = w.response ld mb := by simp only [State.response, State.bytes, hbyte]
    rw [hsame, hresp]
  · rw [hbyte, State.byte_setBytes, if_neg (by omega)]
  · exact ⟨(hold h).1.trans (hwget _ _ _), (hold h).2.trans (hwget _ _ _)⟩

end Sys2Proof.Machine
end

section
/-! SUPPORT. Accesses of the host port (R276, R290 to R294). -/

namespace Sys2Proof.Machine

namespace State

variable (s : State)

/-! ### Where a host address leads -/

theorem hasLd_one : s.hasLd 1 = true ↔ s.variant = .cvsl808 := by
  unfold State.hasLd
  cases s.variant <;> decide

theorem hostArea_eq (a : Nat) : s.hostArea a = (if a < 0x4000 then .mbox 0 (a / 0x1000) (a % 0x1000)
    else if 0x8000 ≤ a ∧ a < 0xC000 ∧ s.variant = .cvsl808 then .mbox 1 ((a - 0x8000) / 0x1000) (a % 0x1000)
    else if 0xF000 ≤ a ∧ a < 0xF004 then .hpstat (a - 0xF000)
    else if 0xF004 ≤ a ∧ a < 0xF008 then .hpien (a - 0xF004) else .unmapped) := by
  unfold State.hostArea
  by_cases hv : s.variant = .cvsl808
  · simp [hv, s.hasLd_one.2 hv]
  · have hno : s.hasLd 1 = false := Bool.eq_false_iff.2 (mt s.hasLd_one.1 hv)
    simp only [hno, hv, and_false, if_false, Bool.false_eq_true]
    split
    · rfl
    · split
      · rw [if_neg (by omega), if_neg (by omega)]
      · rfl

/-! ### Buffers of POSTED mailboxes -/

theorem clientErr_frame (ld mb : Nat) : Frame.regs.Holds s (s.clientErr ld mb) := by
  unfold State.clientErr State.ownErr
  exact (Frame.put _ _ _ _ _).trans (Frame.on fun _ => Frame.put _ _ _ _ _)

theorem hostOwn_frame (a n lo : Nat) : Frame.regs.Holds s (s.hostOwn a n lo) := Frame.each (fun s x _ => s.clientErr_frame x.1 x.2) s

theorem clientErr_own {ld mb : Nat} (h : mb < 4) : (s.clientErr ld mb).get F.MB_HPSTAT_OWN 0 0 = 1 := by
  unfold State.clientErr State.ownErr
  rw [decide_eq_true h, State.on_true]
  exact (State.get_put _ _ _ _ _ _ _).trans (if_pos ⟨rfl, rfl⟩)

/-- An access of one byte meets the buffer that its address lies in. -/
theorem hostTouches_mbox {a ld mb off : Nat} (h : s.hostArea a = .mbox ld mb off) (lo : Nat) :
    s.hostTouches a 1 lo = if lo ≤ off ∧ off < 0x400 then [(ld, mb)] else [] := by
  unfold State.hostTouches
  simp only [List.range_succ, List.range_zero, List.nil_append, List.filterMap_cons, List.filterMap_nil, Nat.add_zero, h]
  split <;> simp_all

theorem hostTouches_other {a : Nat} (h : ∀ ld mb off, s.hostArea a ≠ .mbox ld mb off) (lo : Nat) : s.hostTouches a 1 lo = [] := by
  unfold State.hostTouches
  cases ha : s.hostArea a with
  | mbox ld mb off => exact absurd ha (h ld mb off)
  | hpstat k => simp [List.range_succ, ha]
  | hpien k => simp [List.range_succ, ha]
  | unmapped => simp [List.range_succ, ha]

theorem hostOwn_of_none {a n lo : Nat} (h : (s.hostTouches a n lo).filter (fun x => s.mbState x.1 x.2 == mbPosted) = []) :
    s.hostOwn a n lo = s := by
  rw [State.hostOwn, h]
  rfl

/-- What a WRITE of one byte does: the refusal of a POSTED buffer, then the byte. -/
theorem hostWrite_byte (a : Nat) (b : Byte) : s.hostWrite a [b] = (s.hostOwn a 1 0).hostByte a b := if_neg fun h => absurd h.1 (show ¬1 = 4 by decide)

/-- A byte to a buffer that the client may write. -/
theorem hostWrite_free {a ld mb off : Nat} (ha : s.hostArea a = .mbox ld mb off) (ho : off < 0x400) (hs : s.mbState ld mb ≠ mbPosted) (b : Byte) :
    s.hostWrite a [b] = s.setByte (mbBase ld mb + off) b := by
  rw [s.hostWrite_byte, s.hostOwn_of_none (by rw [s.hostTouches_mbox ha, if_pos ⟨Nat.zero_le _, ho⟩]; simp [hs]), State.hostByte, ha]
  exact (if_pos ho).trans (if_neg hs)

/-- A byte to a buffer of a POSTED mailbox changes no byte, and shows in OWN. -/
theorem hostWrite_posted {a ld mb off : Nat} (ha : s.hostArea a = .mbox ld mb off) (ho : off < 0x400) (hs : s.mbState ld mb = mbPosted) (b : Byte) :
    s.hostWrite a [b] = s.clientErr ld mb := by
  have hown : s.hostOwn a 1 0 = s.clientErr ld mb := by
    rw [State.hostOwn, s.hostTouches_mbox ha, if_pos ⟨Nat.zero_le _, ho⟩]
    simp [hs, State.each]
  have hstate : (s.clientErr ld mb).mbState ld mb = mbPosted := by
    have hshown (t : State) : (t.put F.MB_HPSTAT_OWN 0 0 1).mbState ld mb = t.mbState ld mb := t.get_put_other _ _ _ _ _ _ _ (by decide)
    unfold State.clientErr State.ownErr
    exact (State.on_same (State.mbState · ld mb) (hshown _)).trans ((State.get_put_other _ _ _ _ _ _ _ _ (by decide)).trans hs)
  have harea : (s.clientErr ld mb).hostArea a = .mbox ld mb off := ((s.clientErr_frame ld mb).same (State.hostArea · a)).trans ha
  rw [s.hostWrite_byte, hown, State.hostByte, harea]
  exact (if_pos ho).trans (if_pos hstate)

/-- A byte to a register that takes whole words only. -/
theorem hostWrite_word {a : Nat} (ha : (s.hostArea a).isWordReg = true) (b : Byte) : s.hostWrite a [b] = s.put F.MB_HPSTAT_ALIGN 0 0 1 := by
  have hown : s.hostOwn a 1 0 = s := by
    refine s.hostOwn_of_none ?_
    cases h : s.hostArea a with
    | mbox ld mb off =>
      rw [h] at ha
      rw [s.hostTouches_mbox h, if_neg (by simp [HostArea.isWordReg] at ha; omega)]
      rfl
    | hpstat k => rw [s.hostTouches_other (by simp [h])]; rfl
    | hpien k => rw [s.hostTouches_other (by simp [h])]; rfl
    | unmapped => rw [s.hostTouches_other (by simp [h])]; rfl
  rw [s.hostWrite_byte, hown, State.hostByte]
  cases h : s.hostArea a with
  | mbox ld mb off =>
    rw [h] at ha
    have hoff : 0x400 ≤ off ∧ off < 0x404 := by simpa [HostArea.isWordReg] using ha
    exact (if_neg (by omega)).trans (if_pos hoff.2)
  | hpstat k => rfl
  | hpien k => rfl
  | unmapped =>
    rw [h] at ha
    cases ha

theorem hostWrite_unmapped {a : Nat} (ha : s.hostArea a = .unmapped) (b : Byte) : s.hostWrite a [b] = s.put F.MB_HPSTAT_RANGE 0 0 1 := by
  rw [s.hostWrite_byte, s.hostOwn_of_none (by rw [s.hostTouches_other (by simp [ha])]; rfl), State.hostByte, ha]

theorem hostWrite_host (a : Nat) (b : Byte) : (s.hostWrite a [b]).host = s.host := by
  have hbyte (s : State) : (s.hostByte a b).host = s.host := by
    unfold State.hostByte
    split
    · split
      · split <;> rfl
      · split <;> rfl
    all_goals rfl
  rw [s.hostWrite_byte, hbyte]
  exact (s.hostOwn_frame a 1 0).same State.host

/-! ### Reads and the reset of the port -/

theorem hostRead_effect (a n : Nat) : (s.hostRead a n).results = ((List.range n).map fun k => s.hostValue (a + k)) ∧ (s.hostRead a n).mem = s.mem ∧
    ((∃ k < n, s.hostArea (a + k) = .unmapped) → (s.hostRead a n).get F.MB_HPSTAT_RANGE 0 0 = 1) := by
  let bad := (List.range n).any fun k => decide (s.hostArea (a + k) = .unmapped)
  have hmem : ((s.hostOwn a n 0x200).on bad fun s => s.put F.MB_HPSTAT_RANGE 0 0 1).mem = s.mem :=
    (State.on_same State.mem rfl).trans ((s.hostOwn_frame a n 0x200).same State.mem)
  refine ⟨rfl, hmem, fun ⟨k, hk, ha⟩ => ?_⟩
  have hbad : bad = true := List.any_eq_true.2 ⟨k, List.mem_range.2 hk, decide_eq_true ha⟩
  have hget : ((s.hostOwn a n 0x200).on bad fun s => s.put F.MB_HPSTAT_RANGE 0 0 1).get F.MB_HPSTAT_RANGE 0 0 = 1 := by
    rw [hbad, State.on_true]
    exact (State.get_put _ _ _ _ _ _ _).trans (if_pos ⟨rfl, rfl⟩)
  exact hget

/-- The reset of the port clears its error bits. -/
theorem hostErrors_cleared : (∀ f ∈ hpErrors, (s.each hpErrors fun s f => s.put f 0 0 0).get f 0 0 = 0) ∧
    OnlyFields s (s.each hpErrors fun s f => s.put f 0 0 0) (hpErrors.map fun f => (f, 0, 0)) := by
  have hput (s : State) (f : Fld) (hf : f ∈ hpErrors) : Change .regs (hpErrors.map fun f => (f, 0, 0)) s (s.put f 0 0 0) :=
    .put _ _ (List.mem_map.2 ⟨f, hf, rfl⟩)
  refine ⟨?_, change_regs_iff.1 (.each (fun s f hf => hput s f hf) s)⟩
  simp [hpErrors, State.each, State.get_put_other]

theorem hostValue_unmapped {a : Nat} (h : s.hostArea a = .unmapped) : s.hostValue a = 0 := by rw [State.hostValue, h]

end State

/-- Settles O40: the host address map, and each instruction by what it does there. -/
theorem hostAccessesFollowTheirMap : Obligations.HostAccessesFollowTheirMap := by
  refine fun s => ⟨fun hup => ⟨fun a b ha => ?byte, fun bs hbs => ?word, fun a n hn ha => ?read, fun a => s.hostValue_unmapped, ?hstat, ?id, ?arm, ?idle, ?clear,
    fun code hcode hnot => ?unknown⟩, fun hdown a n bs ha hn hbs => ?held, s.hostArea_eq⟩
  case byte =>
    have hx : exec (.hostWrite a [b]) s = .next (s.disarm.hostWrite a [b]) :=
      (State.answer_of rfl (by rw [decide_eq_true ha]; rfl)).trans (by rw [hup, State.on_true])
    refine ⟨s.disarm.hostWrite a [b], hx, ?_, fun ld mb off harea hoff => ⟨fun hfree => ?_, fun hposted => ?_⟩, fun hword => ?_, fun hno => ?_⟩
    · rw [s.disarm.hostWrite_host a b]
      rfl
    · rw [s.disarm.hostWrite_free harea hoff hfree]
      exact ⟨(State.byte_setByte _ _ _ _).trans (if_pos rfl), fun x hx => (State.byte_setByte _ _ _ _).trans (if_neg hx), rfl⟩
    · rw [s.disarm.hostWrite_posted harea hoff hposted]
      exact ⟨(s.disarm.clientErr_frame ld mb).same State.mem, fun hmb => s.disarm.clientErr_own hmb⟩
    · rw [s.disarm.hostWrite_word hword]
      exact ⟨(State.get_put _ _ _ _ _ _ _).trans (if_pos ⟨rfl, rfl⟩), rfl⟩
    · rw [s.disarm.hostWrite_unmapped hno]
      exact ⟨(State.get_put _ _ _ _ _ _ _).trans (if_pos ⟨rfl, rfl⟩), onlyFields_put s.disarm _ _ _ _⟩
  case word =>
    have harea : s.disarm.hostArea 0xF004 = .hpien 0 := by rw [State.hostArea_eq]; rfl
    have hwrite : s.disarm.hostWrite 0xF004 bs = s.disarm.put F.MB_HPIEN_ERRIEN 0 0 (bitsOf (leNat bs) 16 4) := by
      rw [State.hostWrite, if_pos ⟨hbs, by decide, by rw [harea]; rfl⟩, State.hostWord, harea]
    have hx : exec (.hostWrite 0xF004 bs) s = .next (s.disarm.hostWrite 0xF004 bs) :=
      (State.answer_of rfl (by simp [hbs])).trans (by rw [hup, State.on_true])
    refine ⟨_, hx.trans (by rw [hwrite]), (State.get_put _ _ _ _ _ _ _).trans ((if_pos ⟨rfl, rfl⟩).trans (Nat.mod_eq_of_lt ?_)),
      onlyFields_put s.disarm _ _ _ _⟩
    exact Nat.mod_lt _ (by decide)
  case read =>
    have hx : exec (.hostRead a n) s = .next (s.disarm.hostRead a n) :=
      (State.answer_of rfl (by rw [decide_eq_true hn, decide_eq_true ha]; rfl)).trans (by rw [hup, State.on_true])
    exact ⟨_, hx, s.disarm.hostRead_effect a n⟩
  case hstat => exact ⟨s.disarm.give (byteList (s.word .MB_HPSTAT 0 0)), (State.answer_of rfl rfl).trans (by rw [hup, State.on_true]), rfl, rfl⟩
  case id => exact ⟨s.disarm.give (byteList (s.word .SYSCTL_DEVID 0 0)), (State.answer_of rfl rfl).trans (by rw [hup, State.on_true]), rfl, rfl⟩
  case arm => exact (State.answer_of rfl rfl).trans (congrArg _ (if_pos hup))
  case idle => exact fun hidle => (State.answer_of rfl rfl).trans (congrArg _ ((if_pos hup).trans (if_neg (Bool.eq_false_iff.1 hidle))))
  case clear =>
    intro harmed
    exact ⟨_, (State.answer_of rfl rfl).trans (congrArg _ ((if_pos hup).trans (if_pos harmed))), s.disarm.hostErrors_cleared⟩
  case unknown =>
    exact ⟨s.disarm.put F.MB_HPSTAT_BADINS 0 0 1, (State.answer_of rfl (by simp [hcode, hnot])).trans (congrArg _ (if_pos hup)),
      (State.get_put _ _ _ _ _ _ _).trans (if_pos ⟨rfl, rfl⟩), onlyFields_put s.disarm _ _ _ _⟩
  case held =>
    have hoff (f : State → State) : s.on s.hostUp f = s := by rw [hdown, State.on_false]
    have hpos : 1 ≤ bs.length := List.length_pos_iff.2 hbs
    exact ⟨(State.answer_of rfl (by rw [decide_eq_true hpos, decide_eq_true ha]; rfl)).trans (congrArg _ (hoff _)),
      (State.answer_of rfl (by rw [decide_eq_true hn, decide_eq_true ha]; rfl)).trans (congrArg _ (hoff _)),
      (State.answer_of rfl rfl).trans (congrArg _ (hoff _)), (State.answer_of rfl rfl).trans (congrArg _ (hoff _)),
      (State.answer_of rfl rfl).trans (congrArg _ (hoff _)), (State.answer_of rfl rfl).trans (congrArg _ (hoff _))⟩

end Sys2Proof.Machine
end

section
/-! SUPPORT. A FW_ACTIVATE whose other supervisor has a request to serve first (R279, R283, R321). -/

namespace Sys2Proof.Machine

/-- A booted part whose mailboxes have their servers. -/
def servedPart : State := State.moveLeases { State.reset with part := { State.reset.part with phase := .run, bootStep := 10 } }

/-- A part on whose die 1 a request waits for the supervisor there, with a FW_ACTIVATE posted on die 0 whose XB claims an expert
command. -/
def waitingActivate : State :=
  ((servedPart.mbRing 1 0).setBytes (mbBase 0 0) (message 0x0021 0x77 0 1 1 0 [])).mbRing 0 0

/-- The header of its request passes the checks of its form. -/
theorem waitingActivate_form : (waitingActivate.req 0 0).formStatus = 0 := by decide +kernel

/-- Its supervisor is ready for it, and the other one serves the request on its own die first. -/
theorem waitingActivate_ready : waitingActivate.serverReady 0 0 = true ∧ waitingActivate.otherFree 0 0 = false := by decide +kernel

theorem waitingActivate_request : (waitingActivate.req 0 0).op = 0x0021 ∧ (fieldAt (waitingActivate.req 0 0).bytes 7 1).testBit 0 ≠ isExpert 0x0021 ∧
    waitingActivate.seqCase 0 0 (waitingActivate.req 0 0).seq = .new ∧ (opRow 0x0021).isSome = true := by decide +kernel

/-- Refutes O38: FW_ACTIVATE on a part with a second supervisor waits while that one has another request to serve before a HO_RESTART
(R283), whatever else is wrong with the request; the statement asks for EXPERT_REQUIRED at once. -/
theorem not_requestsAreCheckedBeforeTheyAct : ¬ Obligations.RequestsAreCheckedBeforeTheyAct := by
  intro h
  obtain ⟨hop, hxb, hseq, hrow⟩ := waitingActivate_request
  obtain ⟨hready, hbusy⟩ := waitingActivate_ready
  obtain ⟨r, hr⟩ := Option.isSome_iff_exists.1 hrow
  obtain ⟨-, -, -, hchecked⟩ := h waitingActivate 0 0 [] (by decide) (by decide) (.fwActivate 0 0, 0x0021, lenIs 8) (by simp) hready
  have hanswer : exec (.fwActivate 0 0) waitingActivate = .next (waitingActivate.answered waitingActivate 0 0 St.expertRequired []) :=
    ((hchecked waitingActivate_form).2.2.2 hseq hop r hr).1 hxb
  have hunread : waitingActivate.unread 0 0 = false := by
    unfold State.unread
    dsimp only
    rw [waitingActivate_form, hseq, hop, hr]
    rfl
  have hwaits : exec (.fwActivate 0 0) waitingActivate = .next waitingActivate := by
    have hcannot : waitingActivate.canServe 0 0 0x0021 (waitingActivate.otherFree 0 0) = false := by
      rw [State.canServe, hunread, hbusy, Bool.and_false, Bool.or_false, Bool.and_false]
    exact State.answer_idle (by rw [hcannot, Bool.and_false])
  have hstate : waitingActivate.mbState 0 0 = if (waitingActivate.rem 0 0).on then mbIdle else mbDoneSt := by
    obtain ⟨-, -, -, -, -, -, -, -, -, -, -, hdone, -⟩ := aResponseStandsInItsBuffer waitingActivate waitingActivate 0 0 St.expertRequired [] (by decide)
      (by decide) (by decide)
    rwa [← Host.Outcome.next.inj (hwaits.symm.trans hanswer)] at hdone
  exact absurd hstate (by decide +kernel)

end Sys2Proof.Machine
end

section
/-! SUPPORT. What the read commands answer (R299, R302, R303, R315). -/

namespace Sys2Proof.Machine

/-- What a read of scratchpad words may change: registers, check bits, fences with their logs, and what waits on the scratchpad. -/
def Frame.wordRead : Frame :=
  ⟨fun s t => { s with regs := t.regs, ecc := t.ecc, fences := t.fences, flog := t.flog, spm := t.spm, freeCtr := t.freeCtr },
    fun _ => rfl, fun _ _ _ => rfl⟩

/-- What the progress of jobs without a CRC unit may change. -/
def Frame.jobs : Frame := ⟨fun s t => { s with jobs := t.jobs, freeCtr := t.freeCtr }, fun _ => rfl, fun _ _ _ => rfl⟩

namespace State

variable (s : State)

/-! ### A scan at the instant of a read -/

theorem fenceInst_wordRead (die iid reason : Nat) : Frame.wordRead.Holds s (s.fenceInst die iid reason) := by
  have hlog (s : State) : Frame.wordRead.Holds s (s.logFence die U.inst iid reason) := by
    unfold State.logFence
    refine Frame.Holds.trans (t := { s with flog := _ }) ?_ (Frame.on fun _ => ?_) <;> rfl
  have hon (s : State) (ch : Nat) : Frame.wordRead.Holds s (s.fenceOn U.inst ch iid reason) := rfl
  unfold State.fenceInst
  exact ((Frame.on fun _ => hlog _).trans (Frame.on fun _ => hon _ _)).trans (Frame.on fun _ => hon _ _)

theorem badWord_wordRead (ld off pri kind : Nat) : Frame.wordRead.Holds s (s.badWord ld off pri kind) := by
  have herr (s : State) (synd : Nat) : Frame.wordRead.Holds s ((s.spmErr ld off pri kind synd).count F.SPM_ECCSTAT_UECNT ld 0) := rfl
  have hset (s : State) (m : SpmSt) : Frame.wordRead.Holds s (s.setSpm ld m) := rfl
  unfold State.badWord
  exact ((herr _ _).trans (hset _ _)).trans (Frame.each (fun s r _ => s.fenceInst_wordRead ld r.iid 0x0D) _)

theorem tillerWord_wordRead (ld off : Nat) : Frame.wordRead.Holds s (s.tillerWord ld off) := by
  unfold State.tillerWord
  refine Frame.on fun _ => ?_
  split
  · rfl
  · exact s.badWord_wordRead _ _ _ _
  · exact Frame.refl _ _

theorem tillerAt_wordRead (ld c : Nat) : Frame.wordRead.Holds s (s.tillerAt ld c) := by
  have hset (s : State) (m : SpmSt) (p b : Nat) :
      Frame.wordRead.Holds s (((s.setSpm ld m).put F.SPM_TSTAT_PHASE ld 0 p).put F.SPM_TSTAT_BANK ld 0 b) := rfl
  have hstart (s : State) (m : SpmSt) : Frame.wordRead.Holds s (s.setSpm ld m) := rfl
  have hsave (s : State) (n : Nat) : Frame.wordRead.Holds s (s.tillerSave ld n) :=
    (hstart _ _).trans (Frame.each (fun s o _ => s.tillerWord_wordRead ld o) _)
  unfold State.tillerAt
  exact Frame.on fun _ => (hset _ _ _ _).trans (hsave _ _)

theorem spmRead_wordRead (ld pri off : Nat) : Frame.wordRead.Holds s (s.spmRead ld pri off).1 := by
  have hspend (s : State) : Frame.wordRead.Holds s s.spend := rfl
  have habort (s : State) : Frame.wordRead.Holds s (s.tillerAbort ld) := rfl
  have hmeets : Frame.wordRead.Holds s (s.spmMeets ld pri off) := by
    unfold State.spmMeets
    exact Frame.on fun _ => ((s.tillerAt_wordRead ld _).trans (hspend _)).trans (habort _)
  have hread (s : State) : Frame.wordRead.Holds s (s.readWord ld pri off).1 := by
    unfold State.readWord
    dsimp only
    split
    · rfl
    · split
      · exact s.badWord_wordRead _ _ _ _
      · rfl
      · exact Frame.refl _ _
  exact hmeets.trans (hread _)

theorem scanWords_wordRead (ld n k : Nat) : Frame.wordRead.Holds s (s.scanWords ld n k) := by
  have herr (s : State) (a : Nat) (err : Bool) : Frame.wordRead.Holds s (s.scanErr ld n a err) := by
    unfold State.scanErr
    exact Frame.on fun _ => Frame.Holds.trans (Frame.on fun _ => (Frame.put _ _ _ _ _).wider) (Frame.put _ _ _ _ _).wider
  have hfeed (s : State) (bs : List Nat) : Frame.wordRead.Holds s (s.crcFeeds ld n bs) :=
    Frame.each (fun s b _ => (Frame.put s _ _ _ _).wider) _
  have hput (s : State) (a b : Nat) : Frame.wordRead.Holds s ((s.put F.SCAN_NEXT_NEXT ld n a).put F.SCAN_REM_REM ld n b) := rfl
  have hword (s : State) : Frame.wordRead.Holds s (s.scanWord ld n) := by
    have hread := s.spmRead_wordRead ld (14 + n) (wordOff (s.get F.SCAN_NEXT_NEXT ld n))
    unfold State.scanWord
    generalize s.spmRead ld (14 + n) _ = r at hread
    exact ((hread.trans (herr _ _ _)).trans (hfeed _ _)).trans (hput _ _ _)
  exact Frame.each (fun s _ _ => hword s) s

theorem presentRem_wordRead (ld n : Nat) : Frame.wordRead.Holds s (s.present .SCAN_REM ld n) := by
  have hspend (s : State) : Frame.wordRead.Holds s s.spend := rfl
  unfold State.present
  exact Frame.on fun _ => (s.scanWords_wordRead ld n _).trans (hspend _)

/-! ### The progress of jobs (R299, R400) -/

/-- A job as it reads after a STATUS: but for its progress, and for nothing where it does not run. -/
def JobGoesOn (j k : Job) : Prop := k = { j with progress := k.progress } ∧ (j.state ≠ 1 → k = j)

theorem JobGoesOn.refl (j : Job) : JobGoesOn j j := ⟨rfl, fun _ => rfl⟩

theorem JobGoesOn.trans {i j k : Job} (h : JobGoesOn i j) (g : JobGoesOn j k) : JobGoesOn i k := by
  refine ⟨?_, fun hi => ?_⟩
  · rw [g.1, h.1]
  · have hj : j = i := h.2 hi
    exact (g.2 (hj ▸ hi)).trans hj

theorem progress_job (ld e f : Nat) : JobGoesOn (s.job ld f) ((s.progress ld e).job ld f) := by
  have hset (t : State) (ht : t.jobs = s.jobs) (hrun : (s.job ld e).state = 1) (p : Nat) :
      JobGoesOn (s.job ld f) ((t.setJob ld e { s.job ld e with progress := p }).job ld f) := by
    have hjob : t.job ld f = s.job ld f := congrArg (fun l => Store.get (fun _ => Job.zero) l (8 * ld + f)) ht
    rw [State.job_setJob]
    split
    · obtain rfl : f = e := by omega
      exact ⟨rfl, fun h => absurd hrun h⟩
    · rw [hjob]
      exact .refl _
  unfold State.progress
  dsimp only
  by_cases hrun : (s.job ld e).state = 1
  · rw [decide_eq_true hrun, State.on_true]
    split
    · exact hset _ ((s.presentRem_wordRead _ _).same State.jobs) hrun _
    · exact hset s rfl hrun _
  · rw [decide_eq_false hrun]
    exact .refl _

/-- The jobs of a die as STATUS finds them. -/
def jobsNow (ld : Nat) : State := s.each (List.range 8) fun s e => s.progress ld e

theorem statusNow_eq (ld sv : Nat) : s.statusNow ld sv = done (s.jobsNow ld) ((s.jobsNow ld).statusBytes ld sv) := rfl

theorem statusNow_st (ld sv : Nat) : (s.statusNow ld sv).st = s.jobsNow ld := by rw [State.statusNow_eq, done]

theorem jobsNow_job (ld f : Nat) : JobGoesOn (s.job ld f) ((s.jobsNow ld).job ld f) :=
  s.each_stays (P := fun t => JobGoesOn (s.job ld f) (t.job ld f)) (fun t e h => h.trans (t.progress_job ld e f)) (.refl _)

variable {s}

/-- The progress of a job without a CRC unit is a free value that never falls, and never passes 100. -/
theorem progress_free {ld : Nat} (h : ∀ e < 8, s.crcOfJob ld e = none) {e : Nat} (he : e < 8) :
    Frame.jobs.Holds s (s.progress ld e) ∧ ∀ f, (s.job ld f).progress ≤ 100 →
      (s.job ld f).progress ≤ ((s.progress ld e).job ld f).progress ∧ ((s.progress ld e).job ld f).progress ≤ 100 := by
  unfold State.progress
  dsimp only
  by_cases hrun : (s.job ld e).state = 1
  · rw [decide_eq_true hrun, State.on_true, h e he]
    refine ⟨rfl, fun f hf => ?_⟩
    have hjob : ((s.setJob ld e { s.job ld e with progress := (s.job ld e).progress + s.freeBelow (101 - (s.job ld e).progress) }).spend).job ld f =
      if 8 * ld + f = 8 * ld + e then { s.job ld e with progress := (s.job ld e).progress + s.freeBelow (101 - (s.job ld e).progress) }
      else s.job ld f := State.job_setJob _ _ _ _ _ _
    dsimp only
    rw [hjob]
    split
    · obtain rfl : f = e := by omega
      have hfree : s.freeBelow (101 - (s.job ld f).progress) < 101 - (s.job ld f).progress := by
        rw [State.freeBelow, if_neg (by omega)]
        exact Nat.mod_lt _ (by omega)
      dsimp only
      omega
    · exact ⟨le_rfl, hf⟩
  · rw [decide_eq_false hrun]
    exact ⟨Frame.refl _ _, fun f hf => ⟨le_rfl, hf⟩⟩

theorem jobsNow_free {ld : Nat} (h : ∀ e < 8, s.crcOfJob ld e = none) : Frame.jobs.Holds s (s.jobsNow ld) ∧
    ∀ f, (s.job ld f).progress ≤ 100 → (s.job ld f).progress ≤ ((s.jobsNow ld).job ld f).progress ∧ ((s.jobsNow ld).job ld f).progress ≤ 100 := by
  have hmem : ∀ e ∈ List.range 8, e < 8 := fun e => List.mem_range.1
  unfold State.jobsNow
  generalize List.range 8 = l at hmem
  induction l generalizing s with
  | nil => exact ⟨Frame.refl _ _, fun f hf => ⟨le_rfl, hf⟩⟩
  | cons e l ih =>
    obtain ⟨hone, hjobs⟩ := progress_free h (hmem e (List.mem_cons_self ..))
    have hstill : ∀ k < 8, (s.progress ld e).crcOfJob ld k = none := fun k hk => (hone.same (State.crcOfJob · ld k)).trans (h k hk)
    obtain ⟨hrest, hthen⟩ := ih hstill fun k hk => hmem k (List.mem_cons_of_mem _ hk)
    refine ⟨hone.trans hrest, fun f hf => ?_⟩
    obtain ⟨hup, hmax⟩ := hjobs f hf
    obtain ⟨hup', hmax'⟩ := hthen f hmax
    exact ⟨hup.trans hup', hmax'⟩

variable (s)

/-! ### Reads of words (R315) -/

/-- A run of reads answers as many words as it asks for, or fewer where one is refused. -/
theorem readRun_length (m : Master) (a n : Nat) :
    ((s.readRun m a n).2.2 = true → (s.readRun m a n).2.1.length = n) ∧ ((s.readRun m a n).2.2 = false → (s.readRun m a n).2.1.length < n) := by
  induction n generalizing s a with
  | zero => exact ⟨fun _ => rfl, fun h => Bool.noConfusion h⟩
  | succ n ih =>
    unfold State.readRun
    dsimp only
    split
    · exact ⟨fun h => Bool.noConfusion h, fun _ => Nat.succ_pos n⟩
    · obtain ⟨hall, hsome⟩ := ih (s.busRead m a).1 (a + 4)
      exact ⟨fun h => congrArg (· + 1) (hall h), fun h => Nat.succ_lt_succ (hsome h)⟩

/-! ### The layouts -/

theorem identify_layout (sv : Nat) : (s.identify sv).length = 48 ∧ fieldAt (s.identify sv) 0 4 = s.word .SYSCTL_DEVID 0 0 % 2 ^ 32 ∧
    fieldAt (s.identify sv) 4 8 = s.devident % 2 ^ 64 := by
  have hshape : ∃ tail, s.identify sv = leBytes 4 (s.word .SYSCTL_DEVID 0 0) ++ (leBytes 8 s.devident ++ tail) := by
    simp only [State.identify, State.wordsOf, List.append_assoc, List.flatMap_cons, List.flatMap_nil, List.nil_append]
    exact ⟨_, rfl⟩
  refine ⟨by simp [State.identify, State.wordsOf], ?_, ?_⟩
  · obtain ⟨tail, h⟩ := hshape
    rw [h]
    exact leNat_leBytes 4 _
  · obtain ⟨tail, h⟩ := hshape
    rw [h]
    exact leNat_leBytes 8 _

theorem jobBytes_length (j : Job) : j.bytes.length = 16 := by simp [Job.bytes]

theorem statusBytes_layout (ld sv : Nat) : (s.statusBytes ld sv).length = 144 ∧ fieldAt (s.statusBytes ld sv) 2 6 = s.tick % 2 ^ 48 := by
  have hshape : ∃ tail, s.statusBytes ld sv = leBytes 1 s.pstate ++ (leBytes 1 (s.flgByte sv) ++ (leBytes 6 s.tick ++ tail)) := by
    simp only [State.statusBytes, List.append_assoc]
    exact ⟨_, rfl⟩
  refine ⟨by simp [State.statusBytes, List.length_flatMap, jobBytes_length], ?_⟩
  obtain ⟨tail, h⟩ := hshape
  rw [h]
  exact leNat_leBytes 6 _

end State

/-- Settles O41: each read command answers from the state as it is, but for the progress of running jobs and what a bus read does. -/
theorem readCommandsAnswer : Obligations.ReadCommandsAnswer := by
  intro s ld mb c q p sv ok
  have hlen {n : Nat} (h : p.length = n) : lenIs n (s.req ld mb).own = true := decide_eq_true h
  refine ⟨fun hserves hl => ?identify, fun hserves hl t ht => ?status, fun hserves hl hz l hlist hne => ?diag, fun hserves hl hz hld hring => ?ring,
    fun hserves hl hz hne => ?counters, fun hserves hl hz hal hmin hmax r hr => ?reg⟩
  case identify =>
    refine ⟨command_done hserves rfl (hlen hl) ?_, c.identify_layout sv⟩
    rfl
  case status =>
    have hnow : t = c.jobsNow ld := ht.trans (c.statusNow_st ld sv)
    have hkeeps : Keeps ⟨true, true, true, true, true⟩ c t := ht ▸ State.statusNow_keeps (.refl c) ld sv
    obtain ⟨hlength, htick⟩ := t.statusBytes_layout ld sv
    refine ⟨command_done hserves rfl (hlen hl) ?_, hlength, htick.trans (by rw [hkeeps.tick rfl]), hkeeps.flash rfl, hkeeps.otp rfl, hkeeps.image rfl,
      hkeeps.tick rfl, fun hno => hnow ▸ (State.jobsNow_free hno).1, fun e he => ⟨?_, ?_, fun hno => hnow ▸ (State.jobsNow_free hno).2 e⟩⟩
    · rw [hnow]
      exact c.statusNow_eq ld sv
    · rw [hnow]
      exact (c.jobsNow_job ld e).1
    · rw [hnow]
      exact (c.jobsNow_job ld e).2
  case diag =>
    refine command_done hserves rfl (hlen hl) ?_
    have hguard : (l.isEmpty || !zeros p 6 2) = false := by rw [hz]; simpa using hne
    change c.diagRead p = _
    unfold State.diagRead
    dsimp only
    rw [← hlist, hguard]
    rfl
  case ring =>
    refine command_done hserves rfl (hlen hl) ?_
    have hguard : (!c.hasLd (fieldAt p 0 1) || (decide (fieldAt p 0 1 = 1) && !c.flag F.RNG_RINGCFG_ENABLE 1 0) || !zeros p 1 3) = false := by
      rw [hld, hz]
      simpa using hring
    change c.ringStatus p = _
    unfold State.ringStatus
    dsimp only
    rw [hguard]
    rfl
  case counters =>
    refine command_done hserves rfl (hlen hl) ?_
    have hguard : ((c.counterWords (fieldAt p 0 1) (fieldAt p 1 1)).isEmpty || !zeros p 2 2) = false := by rw [hz]; simpa using hne
    change c.countersRead p = _
    unfold State.countersRead
    dsimp only
    rw [hguard]
    rfl
  case reg =>
    subst hr
    obtain ⟨hall, hsome⟩ := c.readRun_length (Master.sv sv) (fieldAt p 0 4) (fieldAt p 4 2)
    refine ⟨command_status hserves rfl (hlen hl) ?_, hall, hsome⟩
    change c.regRead sv p = _
    unfold State.regRead
    dsimp only
    rw [if_neg (by rw [hz]; simp; omega)]

end Sys2Proof.Machine
end

section
/-! SUPPORT. Transfers, acknowledgement, activation and handover (R307 to R313, R321). -/

namespace Sys2Proof.Machine

/-! ### Pieces of a transfer -/

section
variable {t : Transfer} {p : List Byte} {k : Nat}

theorem chunk_taken (hx : t.is (fieldAt p k 2) = true) (hl : fieldAt p 4 4 + (p.length - 8) ≤ t.len) :
    t.chunk p k = .ok (t.write (fieldAt p 4 4) (p.drop 8)) := by
  unfold Transfer.chunk
  dsimp only
  rw [hx, if_neg (Nat.not_lt.2 hl)]
  rfl

theorem chunk_unknown (hx : t.is (fieldAt p k 2) = false) : t.chunk p k = .error St.xferUnknown := by
  unfold Transfer.chunk
  dsimp only
  rw [hx]
  rfl

theorem chunk_beyond (hx : t.is (fieldAt p k 2) = true) (hl : t.len < fieldAt p 4 4 + (p.length - 8)) : t.chunk p k = .error St.badParam := by
  unfold Transfer.chunk
  dsimp only
  rw [hx, if_pos hl]
  rfl

end

namespace State

variable {s : State} {p : List Byte}

theorem nextXfer_bounds (s : State) : s.nextXfer ≠ 0 ∧ s.nextXfer < 65536 := by
  unfold State.nextXfer
  omega

theorem configBegin_done {n : Nat} (hn : soakN (fieldAt p 14 2) = some n) (hmin : 64 ≤ fieldAt p 0 4) (hmax : fieldAt p 0 4 ≤ 1048576)
    (hsw : fieldAt p 12 1 ≤ 1) (hz : zeros p 13 1 = true) (hfree : s.busyJob = false) :
    s.configBegin p = done { s with xferSeq := s.nextXfer, xferC := ⟨s.nextXfer, fieldAt p 0 4, fieldAt p 4 4, fieldAt p 8 4, fieldAt p 12 1, n, []⟩ }
      (leBytes 2 s.nextXfer ++ leBytes 2 0) := by
  unfold State.configBegin
  dsimp only
  rw [hn]
  dsimp only
  rw [if_neg (by rw [hz]; simp; omega), hfree]
  rfl

theorem configChunk_done (hz : zeros p 2 2 = true) {t : Transfer} (ht : s.xferC.chunk p 0 = .ok t) :
    s.configChunk p = done { s with xferC := t } (leBytes 4 t.received ++ leBytes 4 0) := by
  unfold State.configChunk
  rw [hz, ht]
  rfl

theorem configChunk_refused (hz : zeros p 2 2 = true) {e : Nat} (he : s.xferC.chunk p 0 = .error e) : s.configChunk p = ⟨s, e, []⟩ := by
  unfold State.configChunk
  rw [hz, he]
  rfl

theorem fwData_done (hz : zeros p 1 1 = true) {t : Transfer} (ht : s.xferF.chunk p 2 = .ok t) :
    s.fwData p = done { s with xferF := t } (leBytes 4 t.received ++ leBytes 4 0) := by
  unfold State.fwData
  rw [hz, ht]
  rfl

theorem fwOpen_done (h0 : fieldAt p 0 4 = 0) (hmin : 1024 ≤ fieldAt p 4 4) (hmax : fieldAt p 4 4 ≤ 1048576) :
    s.fwOpen p = done { s with xferSeq := s.nextXfer, xferF := ⟨s.nextXfer, fieldAt p 4 4, 0, fieldAt p 8 4, 0, 0, []⟩ }
      (leBytes 2 s.nextXfer ++ leBytes 2 0) := by
  unfold State.fwOpen
  dsimp only
  rw [if_neg (by omega)]

/-- The PHASE byte of a FW_STAGE open. -/
theorem fieldAt_byte (h : fieldAt p 0 4 = 0) : fieldAt p 0 1 = 0 := by
  match p with
  | [] => rfl
  | b :: bs =>
    have hb : fieldAt (b :: bs) 0 4 = b.toNat + 256 * leNat (bs.take 3) := rfl
    have h1 : fieldAt (b :: bs) 0 1 = b.toNat + 256 * 0 := rfl
    omega

theorem commissionAck_done (hload : s.image.loaded = true) (hvio : s.part.vio = false) (hhash : p.take 32 = beBytes 32 s.image.hash)
    (hver : fieldAt p 32 4 = s.image.img.imgver) : s.commissionAck p = done s.commission [] := by
  unfold State.commissionAck
  simp [hload, hvio, hhash, hver]

theorem commission_commissioned (s : State) : s.commission.image.commissioned = true := by
  have hone (s : State) (r : InstRec) (edge : Nat) : (s.setReadmit r.iid edge).image = s.image :=
    (State.setReadmit_loss s _ _).frame.same State.image
  exact congrArg RunImage.commissioned (State.each_same State.image (fun s r _ => hone s r _) _)

/-! ### Activation -/

/-- A FW_ACTIVATE in form, of the version that is staged. -/
structure MayActivate (s : State) (p : List Byte) : Prop where
  flag : fieldAt p 4 1 ≤ 1
  tail : zeros p 5 3 = true
  free : s.busyJob = false
  staged : s.fwStaged = some (fieldAt p 0 4)
  flash : s.part.vio = false

theorem fwActivate_eq (h : s.MayActivate p) (ld : Nat) : s.fwActivate ld p =
    if s.hasLd 1 && decide (fieldAt p 4 1 = 0) then
      if (s.sendHoRestart ld).2 then done ((s.sendHoRestart ld).1.activate (fieldAt p 0 4)) [] else refused (s.sendHoRestart ld).1 St.noStandby
    else done (s.activate (fieldAt p 0 4)) [] := by
  obtain ⟨hflag, htail, hfree, hstaged, hflash⟩ := h
  unfold State.fwActivate
  dsimp only
  rw [if_neg (by rw [htail]; simp; omega), hfree, hstaged, hflash]
  simp

/-- A supervisor that restarts reads as restarting. -/
theorem restartSv_restarting (s : State) (ld : Nat) : ((s.restartSv ld).svst ld).restarting = true := by
  have hset : ((s.setSv ld { s.svst ld with restarting := true }).svst ld).restarting = true :=
    congrArg SvSt.restarting ((State.svst_setSv _ _ _ _).trans (if_pos rfl))
  exact ((State.stopSv_release _ ld).restarting ld).trans hset

theorem hoRestart_done (hr : fieldAt p 0 1 = 1 ∨ fieldAt p 0 1 = 2) (hz : zeros p 1 3 = true) : s.hoRestart p = done s [] := by
  unfold State.hoRestart
  dsimp only
  rw [if_neg (by rw [hz]; simp; omega)]

end State

/-- Settles O42: a request in form does what its command says, and answers what the transfer or the other supervisor makes of it. -/
theorem transfersOpenAndTakeTheirData : Obligations.TransfersOpenAndTakeTheirData := by
  intro s ld mb c q p ok
  have hlen {n : Nat} (h : p.length = n) : lenIs n (s.req ld mb).own = true := decide_eq_true h
  have hdata (h : 9 ≤ p.length) : lenData (s.req ld mb).own = true := decide_eq_true h
  have hbyte (k : Nat) : s.byteOf ld mb k = fieldAt p k 1 := rfl
  refine ⟨fun hserves hl n hn hmin hmax hsw hz hfree => ?begin_, fun hserves hl hz => ⟨fun hx hin t ht => ?chunk, fun hx => ?unknown, fun hx hout => ?beyond⟩,
    fun hserves hl hload hvio hhash hver => ?commission, fun hserves hl h0 hmin hmax => ?open_, fun hserves hl h1 hz hx hin t ht => ?data,
    fun hserves hl hflag hz hfree hstaged hvio halone hother => ?alone, fun hserves hl hflag hz hfree hstaged hvio htwo hother h hh => ?handover,
    fun hserves hl hr hz => ?restart, fun hserves hl => ?done_⟩
  case begin_ => exact ⟨command_done hserves rfl (hlen hl) (State.configBegin_done (s := c) (p := p) hn hmin hmax hsw hz hfree), c.nextXfer_bounds⟩
  case chunk =>
    subst ht
    refine command_done hserves rfl (hdata hl) ?_
    exact State.configChunk_done (s := c) (p := p) hz (chunk_taken (t := c.xferC) (p := p) (k := 0) hx hin)
  case unknown =>
    refine command_status hserves rfl (hdata hl) ?_
    exact State.configChunk_refused (s := c) (p := p) hz (chunk_unknown (t := c.xferC) (p := p) (k := 0) hx)
  case beyond =>
    refine command_status hserves rfl (hdata hl) ?_
    exact State.configChunk_refused (s := c) (p := p) hz (chunk_beyond (t := c.xferC) (p := p) (k := 0) hx hout)
  case commission => exact ⟨command_done hserves rfl (hlen hl) (State.commissionAck_done (s := c) (p := p) hload hvio hhash hver), c.commission_commissioned⟩
  case open_ =>
    exact command_done hserves (by rw [hbyte, State.fieldAt_byte h0]; rfl) (hlen hl) (State.fwOpen_done (s := c) (p := p) h0 hmin hmax)
  case data =>
    subst ht
    exact command_done hserves (by rw [hbyte, h1]; rfl) (hdata hl) (State.fwData_done (s := c) (p := p) hz (chunk_taken (t := c.xferF) (p := p) (k := 2) hx hin))
  case alone =>
    have hno : (c.hasLd 1 && decide (fieldAt p 4 1 = 0)) = false := by
      rcases halone with h | h
      · rw [h, Bool.false_and]
      · rw [h, Bool.and_comm]; rfl
    refine ⟨_, command_done_after hserves hother (hlen hl) ?_, rfl, State.restartSv_restarting _ _⟩
    exact (State.fwActivate_eq (s := c) (p := p) ⟨hflag, hz, hfree, hstaged, hvio⟩ ld).trans (by rw [hno]; rfl)
  case handover =>
    have hyes : (c.hasLd 1 && decide (fieldAt p 4 1 = 0)) = true := by rw [htwo, hflag]; rfl
    have hmay : c.MayActivate p := ⟨by omega, hz, hfree, hstaged, hvio⟩
    have heq := (State.fwActivate_eq hmay ld).trans (if_pos hyes)
    rw [← hh] at heq
    refine ⟨fun hok => ?_, fun hno => ?_⟩
    · exact command_done_after hserves hother (hlen hl) (heq.trans (if_pos hok))
    · refine (command_serves (f := fun _ _ s p => s.fwActivate ld p) (r := refused h.1 St.noStandby) hserves hother (hlen hl) (heq.trans (if_neg (Bool.eq_false_iff.1 hno)))).trans ?_
      have hskip : decide ((refused h.1 St.noStandby).status = St.ok) = false := rfl
      rw [hskip, State.on_false]
      rfl
  case restart => exact command_done hserves rfl (hlen hl) (State.hoRestart_done (s := c) (p := p) hr hz)
  case done_ => exact command_done hserves rfl (hlen hl) rfl

end Sys2Proof.Machine
end

section
/-! SUPPORT. What the expert commands on registers, units, schedules and OTP words do (R289, R316 to R320, R430). -/

namespace Sys2Proof.Machine

namespace State

variable {s : State} {p : List Byte} {sv : Nat}

/-! ### REG_WRITE (R316, R317) -/

theorem regWrite_bounds {same : List Nat} (hne : regEntries p ≠ []) (hmax : (regEntries p).length ≤ 40) (hz : zeros p 2 2 = true) {k : Nat}
    (hout : (regEntries p).findIdx? (fun e => !s.boundsOk e) = some k) :
    s.regWrite sv same p = ⟨s, St.bounds, regAnswer 0 k⟩ := by
  unfold State.regWrite
  dsimp only
  rw [if_neg (by simp [hne, hz, hmax]), hout]

theorem regWrite_run {same : List Nat} (hne : regEntries p ≠ []) (hmax : (regEntries p).length ≤ 40) (hz : zeros p 2 2 = true)
    (hin : (regEntries p).findIdx? (fun e => !s.boundsOk e) = none) :
    s.regWrite sv same p = (let w := s.writeRun (Master.sv sv) same (regEntries p)
      if w.2 = (regEntries p).length then ⟨w.1, St.ok, regAnswer w.2 0xFFFF⟩ else ⟨w.1, St.writeRefused, regAnswer w.2 w.2⟩) := by
  unfold State.regWrite
  dsimp only
  rw [if_neg (by simp [hne, hz, hmax]), hin]

/-! ### FENCE_CTL (R318) -/

section
variable {d i : Nat} (hunit : s.unitOf (fieldAt p 1 1) (fieldAt p 2 1) (fieldAt p 4 2) = some (d, i)) (h3 : zeros p 3 1 = true) (h6 : zeros p 6 2 = true)
  (hmay : s.SvMayWrite sv (freqReg d) d 0 (freqOther (fieldAt p 2 1)))
include hunit h3 h6 hmay

theorem fenceCtlFence_done (hop : fieldAt p 0 1 = 1) (hother : ¬(fieldAt p 2 1 = U.sv ∧ d = sv)) :
    s.fenceCtlFence sv p = done (s.ctlFence d (fieldAt p 2 1) i) [] := by
  unfold State.fenceCtlFence
  dsimp only
  rw [hunit]
  dsimp only
  rw [if_neg (by rw [h3, h6, hop]; simpa using hother), State.svWrite_of_svMayWrite hmay]

theorem fenceCtlClear_eq (hterm : fieldAt p 2 1 ≠ U.term) (hfield : fieldAt p 2 1 ≠ U.field) :
    s.fenceCtlClear sv p =
      if s.ctlClearOk d (fieldAt p 2 1) i then done (s.ctlClear d (fieldAt p 2 1) i) [] else refused s St.clearRefused := by
  unfold State.fenceCtlClear
  dsimp only
  rw [hunit]
  dsimp only
  rw [if_neg (by rw [h3, h6]; simp [hterm, hfield]), State.svWrite_of_svMayWrite hmay]
  cases s.ctlClearOk d (fieldAt p 2 1) i <;> rfl

end

/-! ### RING_SCHEDULE (R289) -/

section
variable (hz : zeros p 1 3 = true) (hld : s.hasLd (fieldAt p 0 1) = true)
include hz hld

theorem ringSchedule_active (hrun : s.flag F.RNG_RINGCFG_ENABLE (fieldAt p 0 1) 0 = true) :
    s.ringSchedule sv p = refused s St.ringActive := by
  unfold State.ringSchedule
  dsimp only
  rw [hld, hz, hrun]
  rfl

variable (hstop : s.flag F.RNG_RINGCFG_ENABLE (fieldAt p 0 1) 0 = false)
include hstop

theorem ringSchedule_written (hall : (s.writeRun (Master.sv sv) [] (s.scheduleWords (fieldAt p 0 1) p)).2 = 4) :
    s.ringSchedule sv p = (let t := (s.writeRun (Master.sv sv) [] (s.scheduleWords (fieldAt p 0 1) p)).1
      done t (t.wordsOf [(.RNG_TURNCFG, fieldAt p 0 1, 0), (.RNG_SLSERV, fieldAt p 0 1, 0), (.RNG_SLFURR, fieldAt p 0 1, 0),
        (.RNG_SLSPATE, fieldAt p 0 1, 0)])) := by
  unfold State.ringSchedule
  dsimp only
  rw [hld, hz, hstop, if_pos hall]
  rfl

theorem ringSchedule_refused (hnot : (s.writeRun (Master.sv sv) [] (s.scheduleWords (fieldAt p 0 1) p)).2 ≠ 4) :
    ∃ t, s.ringSchedule sv p = refused t St.writeRefused ∧ t.rings = s.rings ∧ t.ports = s.ports := by
  have hlog (die : Nat) (m : Master) (a k : Nat) : (s.logErr die m a k true).rings = s.rings ∧ (s.logErr die m a k true).ports = s.ports :=
    have hframe := (s.logErr_loss die m a k true).frame
    ⟨hframe.same State.rings, hframe.same State.ports⟩
  unfold State.ringSchedule
  dsimp only
  rw [hld, hz, hstop, if_neg hnot]
  refine ⟨_, rfl, ?_⟩
  split
  · exact hlog _ _ _ _
  · exact hlog _ _ _ _

end

/-! ### OTP_PROGRAM and LC_ADVANCE (R319, R320) -/

section
variable {reburn : Bool} (hlo : fieldAt p 0 1 ≤ 7) (hhi : fieldAt p 2 2 ≤ 255) (hz1 : zeros p 1 1 = true) (hz13 : zeros p 13 3 = true)
  (hop : fieldAt p 12 1 = reburn.toNat)
include hlo hhi hz1 hz13 hop

theorem otpCommand_run (h : s.otpSettle.otpRefusal sv (256 * fieldAt p 0 1 + fieldAt p 2 2) (fieldAt p 4 8) reburn = 0) :
    s.otpCommand sv p reburn = (let w := 256 * fieldAt p 0 1 + fieldAt p 2 2
      let t := s.otpSettle.otpRun (if reburn then 2 else 1) w (fieldAt p 4 8)
      done t (leBytes 8 (if 16 ≤ w ∧ w ≤ 19 then 0 else (t.otpData w).getD 0) ++ leBytes 1 (t.get F.OTP_OSTAT_WEAK 0 0) ++ leBytes 3 0)) := by
  unfold State.otpCommand
  dsimp only
  rw [if_neg (by rw [hz1, hz13, hop]; simp; omega), h]
  rfl

theorem otpCommand_locked (h : s.otpSettle.otpRefusal sv (256 * fieldAt p 0 1 + fieldAt p 2 2) (fieldAt p 4 8) reburn = 1) :
    s.otpCommand sv p reburn = refused s.otpSettle St.otpLocked := by
  unfold State.otpCommand
  dsimp only
  rw [if_neg (by rw [hz1, hz13, hop]; simp; omega), h]
  rfl

theorem otpCommand_rate (h : s.otpSettle.otpRefusal sv (256 * fieldAt p 0 1 + fieldAt p 2 2) (fieldAt p 4 8) reburn = 2) :
    s.otpCommand sv p reburn = refused s.otpSettle St.otpRate := by
  unfold State.otpCommand
  dsimp only
  rw [if_neg (by rw [hz1, hz13, hop]; simp; omega), h]
  rfl

theorem otpCommand_mismatch (h : 3 ≤ s.otpSettle.otpRefusal sv (256 * fieldAt p 0 1 + fieldAt p 2 2) (fieldAt p 4 8) reburn) :
    s.otpCommand sv p reburn = refused s.otpSettle St.otpMismatch := by
  unfold State.otpCommand
  dsimp only
  rw [if_neg (by rw [hz1, hz13, hop]; simp; omega)]
  obtain ⟨k, hk⟩ := Nat.exists_eq_add_of_le' h
  rw [hk]
  rfl

end

theorem lcAdvance_unconfirmed (hconfirm : fieldAt p 4 4 ≠ 0x4C430000 + fieldAt p 0 1) : s.lcAdvance sv p = refused s St.badParam := by
  unfold State.lcAdvance
  dsimp only
  rw [if_pos (.inr (.inr (.inr hconfirm)))]

theorem lcAdvance_eq (hlo : 1 ≤ fieldAt p 0 1) (hhi : fieldAt p 0 1 ≤ 3) (hz : zeros p 1 3 = true)
    (hconfirm : fieldAt p 4 4 = 0x4C430000 + fieldAt p 0 1) :
    s.lcAdvance sv p = if !lcNext s.lc (fieldAt p 0 1) then refused s St.lcOrder else if sv ≠ 0 then refused s St.otpLocked
      else if s.otpSettle.get F.OTP_OSTAT_TOKENS 0 0 = 0 then refused s.otpSettle St.otpRate
      else if (s.otpSettle.otpWord (3 + fieldAt p 0 1)).prog then refused s.otpSettle St.otpMismatch
      else done (s.otpSettle.otpRun 1 (3 + fieldAt p 0 1) 0x5A5A) [] := by
  unfold State.lcAdvance
  dsimp only
  rw [if_neg (by rw [hz, hconfirm]; simp; omega)]

end State

/-- Settles O44: a request in form acts through its unit, or answers the status of the check that stops it. -/
theorem expertCommandsActThroughTheirUnits : Obligations.ExpertCommandsActThroughTheirUnits := by
  intro s ld mb c q p sv ok no
  have hlen {n : Nat} (h : p.length = n) : lenIs n (s.req ld mb).own = true := decide_eq_true h
  refine ⟨fun same hserves hl hne hmax hz => ⟨fun k hout => ?bounds, fun hin w hw => ?run⟩,
    fun hserves hl h3 h6 d i hunit hmay => ⟨fun hop hother => ?fence, fun hop hterm hfield => ?clear⟩,
    fun hserves hl hz hld => ⟨fun hrun => ?active, fun hstop w hw => ⟨fun hnot => ?refused, fun hall => ?written⟩⟩,
    fun reburn hserves hl hlo hhi hz1 hz13 hop => ?otp, fun hserves hl hlo hhi hz => ?lc⟩
  case bounds => exact command_status hserves rfl hl (State.regWrite_bounds (s := c) (p := p) hne hmax hz hout)
  case run =>
    subst hw
    refine (command_serves (f := fun sv _ s p => s.regWrite sv same p) hserves rfl hl (State.regWrite_run (s := c) (p := p) hne hmax hz hin)).trans ?_
    rw [State.on_id]
    dsimp only
    split <;> rfl
  case fence =>
    refine command_done hserves ?_ (hlen hl) (State.fenceCtlFence_done (s := c) (p := p) hunit h3 h6 hmay hop hother)
    change (fieldAt p 0 1 != 2) = true
    rw [hop]; rfl
  case clear =>
    have heq := State.fenceCtlClear_eq (s := c) (p := p) hunit h3 h6 hmay hterm hfield
    split
    case isTrue hclear => exact command_done hserves (decide_eq_true hop) (hlen hl) (heq.trans (if_pos hclear))
    case isFalse hclear => exact command_status hserves (decide_eq_true hop) (hlen hl) (heq.trans (if_neg hclear))
  case active => exact command_status hserves rfl (hlen hl) (State.ringSchedule_active (s := c) (p := p) hz hld hrun)
  case refused =>
    subst hw
    obtain ⟨u, hu, hrings, hports⟩ := State.ringSchedule_refused (s := c) (p := p) hz hld hstop hnot
    exact ⟨u, command_status hserves rfl (hlen hl) hu, hrings, hports⟩
  case written =>
    subst hw
    exact command_done hserves rfl (hlen hl) (State.ringSchedule_written (s := c) (p := p) hz hld hstop hall)
  case otp =>
    intro w a x u
    have hx {t : State} {n : Nat} {payload : List Byte} (hr : c.otpCommand sv p reburn = ⟨t, n, payload⟩) :
        x = .next (s.answered t ld mb n payload) := by
      cases reburn with
      | false => exact command_status hserves (by change (fieldAt p 12 1 != 1) = true; rw [hop]; rfl) (hlen hl) hr
      | true => exact command_status hserves (by change (fieldAt p 12 1 == 1) = true; rw [hop]; rfl) (hlen hl) hr
    exact ⟨fun h => hx (State.otpCommand_run (s := c) (sv := sv) (p := p) hlo hhi hz1 hz13 hop h),
      fun h => hx (State.otpCommand_locked (s := c) (sv := sv) (p := p) hlo hhi hz1 hz13 hop h),
      fun h => hx (State.otpCommand_rate (s := c) (sv := sv) (p := p) hlo hhi hz1 hz13 hop h),
      fun h => hx (State.otpCommand_mismatch (s := c) (sv := sv) (p := p) hlo hhi hz1 hz13 hop h)⟩
  case lc =>
    intro t a
    have hstatus {v : State} {n : Nat} {payload : List Byte} (hr : c.lcAdvance sv p = ⟨v, n, payload⟩) :
        exec (.lcAdvance ld mb) s = .next (s.answered v ld mb n payload) := command_status hserves rfl (hlen hl) hr
    refine ⟨fun h => hstatus (State.lcAdvance_unconfirmed (s := c) (p := p) h), fun hconfirm => ?_⟩
    have heq := State.lcAdvance_eq (s := c) (sv := sv) (p := p) hlo hhi hz hconfirm
    refine ⟨fun h => ?_, fun h hsv => ?_, fun h hsv h0 => ?_, fun h hsv h0 hblank => ?_⟩
    · exact hstatus (heq.trans (by rw [h]; rfl))
    · exact hstatus (heq.trans (by rw [h, Bool.not_true, if_neg Bool.false_ne_true, if_pos hsv]; rfl))
    · exact hstatus (heq.trans (by rw [h, Bool.not_true, if_neg Bool.false_ne_true, if_neg (not_not.2 hsv), if_pos h0]; rfl))
    · exact hstatus (heq.trans (by
        rw [h, Bool.not_true, if_neg Bool.false_ne_true, if_neg (not_not.2 hsv), if_neg h0, hblank, if_neg Bool.false_ne_true]; rfl))

end Sys2Proof.Machine
end

section
/-! SUPPORT. Logic BIST (R403 to R412). -/

namespace Sys2Proof.Machine

/-! ### A self-test that is cut short -/

/-- Whether an engine is not isolating its unit. -/
def State.NotIsolating (s : State) (ld e : Nat) : Prop := s.get F.LBIST_STAT_STATE ld e ≠ 1

namespace State

variable {s t : State} {ld e : Nat}

theorem NotIsolating.loss (hs : s.NotIsolating ld e) (h : Loss s t) : t.NotIsolating ld e := fun ht =>
  hs ((h.get (by decide) ld e).symm.trans ht)

theorem NotIsolating.cutBist (hs : s.NotIsolating ld e) (d u cause : Nat) : (s.cutBist d u cause).NotIsolating ld e := by
  by_cases hu : d = ld ∧ u = e
  · obtain ⟨rfl, rfl⟩ := hu
    exact (s.get_cutBist_state d u cause).1
  · intro ht
    refine hs (((s.cutBist_change d u cause).fields _ _ _ fun x hx hkey => hu ?_).symm.trans ht)
    obtain ⟨-, -, hd, hi⟩ := Fld.key_eq.1 hkey
    have hunit : x.2 = (d, u) := by
      revert x
      simp [bistFields]
    rw [hunit] at hd hi
    exact ⟨hd.symm, hi.symm⟩

/-- The units of a job's entry return to idle. -/
def unitsBack (s : State) (k : Nat) : State :=
  s.each s.lds fun s d => s.each ((s.svst d).crcJobs.filter fun j => j.2 == k) fun s j => (s.revokeUnit d j.1).revokeUnit d (j.1 + 8)

/-- The self-tests of a job's entry on one die are cut short. -/
def testsCutOn (s : State) (k d : Nat) : State :=
  s.each ((s.svst d).bistJobs.filter fun j => j.2 == k) fun s j =>
    let v := s.svst d
    (s.cutBist d j.1 1).setSv d { v with bistJobs := v.bistJobs.filter fun x => x.2 != k }

/-- The soak of a job's entry is dropped. -/
def soakAborted (s : State) (ld j : Nat) : State :=
  match s.soak with
  | some x => if x.ld = ld ∧ x.job = j then s.dropSoak stAborted 0 else s
  | none => s

theorem abortJob_eq (ld j : Nat) : s.abortJob ld j =
    (((s.unitsBack (8 * ld + j)).each (s.unitsBack (8 * ld + j)).lds fun s d => s.testsCutOn (8 * ld + j) d).soakAborted ld j).endJob ld j stAborted 0 :=
  rfl

theorem soakAborted_loss (d j : Nat) : Loss s (s.soakAborted d j) := by
  unfold State.soakAborted
  split
  · exact .ite (fun _ => State.dropSoak_loss _ _ _) fun _ => .refl _ _ _ _
  · exact .refl _ _ _ _

theorem NotIsolating.testsCutOn (hs : s.NotIsolating ld e) (k d : Nat) : (s.testsCutOn k d).NotIsolating ld e :=
  each_stays (P := (State.NotIsolating · ld e)) (fun _ j hs => hs.cutBist d j.1 1) hs

theorem NotIsolating.endJob (hs : s.NotIsolating ld e) (d j : Nat) : ((s.soakAborted d j).endJob d j stAborted 0).NotIsolating ld e :=
  (hs.loss (State.soakAborted_loss d j)).loss (State.endJob_loss _ _ _ _ _)

theorem NotIsolating.abortJob (hs : s.NotIsolating ld e) (d j : Nat) : (s.abortJob d j).NotIsolating ld e := by
  have hunits : (s.unitsBack (8 * d + j)).NotIsolating ld e := each_stays (P := (State.NotIsolating · ld e))
    (fun _ _ hs => each_stays (P := (State.NotIsolating · ld e))
      (fun _ _ hs => (hs.loss (State.revokeUnit_loss _ _ _)).loss (State.revokeUnit_loss _ _ _)) hs) hs
  rw [State.abortJob_eq]
  exact NotIsolating.endJob (each_stays (P := (State.NotIsolating · ld e)) (fun _ n hs => hs.testsCutOn _ n) hunits) d j

theorem NotIsolating.on {c : Bool} {op : State → State} (hs : s.NotIsolating ld e) (hop : s.NotIsolating ld e → (op s).NotIsolating ld e) :
    (s.on c op).NotIsolating ld e := by
  cases c
  · exact hs
  · exact hop hs

theorem NotIsolating.moveLeases (hs : s.NotIsolating ld e) : s.moveLeases.NotIsolating ld e := fun ht =>
  hs ((s.moveLeases_regs F.LBIST_STAT_STATE ld e (by decide)).symm.trans ht)

end State

/-- A job of supervisor 0 that the abort of its jobs ends, and whose self-test is the engine of that supervisor. -/
structure WaitsForTest (s : State) : Prop where
  lds : s.lds = [0, 1]
  soak : s.soak = none
  running : (s.job 0 0).state = 1
  sv : (s.job 0 0).sv = 0
  units : ∀ d ∈ s.lds, (s.svst d).crcJobs = []
  tests : (s.svst 0).bistJobs = [(8, 0)]

theorem WaitsForTest.abortJob {s : State} (h : WaitsForTest s) : (s.abortJob 0 0).NotIsolating 0 8 := by
  have hunits : s.unitsBack (8 * 0 + 0) = s := State.each_id _ fun d hd => by rw [h.units d hd]; rfl
  have hcut : (s.testsCutOn (8 * 0 + 0) 0).NotIsolating 0 8 := by
    unfold State.testsCutOn
    rw [h.tests]
    exact (s.get_cutBist_state 0 8 1).1
  rw [State.abortJob_eq, hunits, h.lds]
  exact State.NotIsolating.endJob (State.NotIsolating.testsCutOn hcut (8 * 0 + 0) 1) 0 0

theorem WaitsForTest.abortJobs {s : State} (h : WaitsForTest s) : (s.abortJobs 0).NotIsolating 0 8 := by
  unfold State.abortJobs
  dsimp only
  rw [h.lds, h.soak]
  have hfirst : [0, 1].flatMap (fun ld => (List.range 8).map fun e => (ld, e)) =
      (0, 0) :: ([0, 1].flatMap fun ld => (List.range 8).map fun e => (ld, e)).tail := rfl
  rw [hfirst, State.each, List.foldl_cons, h.running, h.sv]
  refine State.each_stays (P := (State.NotIsolating · 0 8)) (fun s x hs => ?_) h.abortJob
  exact hs.on fun hs => hs.abortJob _ _

/-- A state, before Run, in which a running job of supervisor 0 waits for the self-test engine of that supervisor, which is idle. -/
def staleSelfTest : State :=
  (State.reset.setJob 0 0 { Job.zero with state := 1 }).setSv 0 { SvSt.zero with bistJobs := [(8, 0)] }

theorem staleSelfTest_admitted :
    WriteAdmitted staleSelfTest (Master.sv 0) .LBIST_CTL 0 8 ((Master.sv 0).isSvOf 0) (staleSelfTest.bistMay 0 8) :=
  ⟨by decide, by decide, by decide, by decide⟩

/-- That state when the supervisor under test has lost its leases and its jobs are about to end. -/
def stoppingPart : State :=
  let s := staleSelfTest
  let s1 := (s.put F.LBIST_REC_VALID 0 8 0).revoke 0 9 false
  let s2 := ((s1.put F.LBIST_STAT_STATE 0 8 1).put F.LBIST_STAT_RESULT 0 8 0).put F.LBIST_STAT_TOKEN 0 8 0
  let s3 := (s2.putB F.LBIST_STAT_CUSTOM 0 8 (s.bistCount 0 8 != 32768)).put F.LBIST_STAT_ACAUSE 0 8 0
  let s4 := (((s3.put F.LBIST_PDONE_PDONE 0 8 0).put F.LBIST_MISR0_MISR 0 8 0).put F.LBIST_MISR1_MISR 0 8 0).setPrpg 8 (Config.bistSeed 8)
  ((s4.setSv 0 { s4.svst 0 with restarting := true }).revoke 0 9 false).revokeField

theorem stoppingPart_starts : staleSelfTest.bistStart 0 8 = (stoppingPart.abortJobs 0).moveLeases := rfl

theorem stoppingPart_jobs : stoppingPart.lds = [0, 1] ∧ stoppingPart.soak = none ∧ (stoppingPart.job 0 0).state = 1 ∧ (stoppingPart.job 0 0).sv = 0 ∧
    (∀ d ∈ stoppingPart.lds, (stoppingPart.svst d).crcJobs = []) ∧ (stoppingPart.svst 0).bistJobs = [(8, 0)] := by decide +kernel

theorem staleSelfTest_cut : (staleSelfTest.bistStart 0 8).NotIsolating 0 8 := by
  obtain ⟨hlds, hsoak, hrunning, hsv, hcrc, hbist⟩ := stoppingPart_jobs
  rw [stoppingPart_starts]
  exact (WaitsForTest.abortJobs ⟨hlds, hsoak, hrunning, hsv, hcrc, hbist⟩).moveLeases

/-- Refutes O54: its first part speaks of every state. GO of a supervisor's own engine stops that supervisor and aborts its jobs (R301,
R406); where one of them waits for this engine, the abort ends the run at once and STATE does not read 1. -/
theorem not_bistRunsEndWithTheirRecord : ¬ Obligations.BistRunsEndWithTheirRecord := by
  rintro ⟨hengines, -⟩
  obtain ⟨hgo, -⟩ := hengines staleSelfTest (Master.sv 0) 0 8 (by decide) (by decide)
  obtain ⟨t, ht, hstate, -⟩ := hgo staleSelfTest_admitted
  have hexec : exec (.lbistGo (Master.sv 0) 0 8) staleSelfTest = .next ((staleSelfTest.bistStart 0 8).respond false) :=
    (State.answer_of (by decide) rfl).trans (congrArg _ (asWrite_admitted staleSelfTest_admitted))
  have hcut : ((staleSelfTest.bistStart 0 8).respond false).NotIsolating 0 8 := staleSelfTest_cut.loss (State.respond_loss _ _)
  rw [Host.Outcome.next.inj (hexec.symm.trans ht)] at hcut
  exact hcut hstate

end Sys2Proof.Machine
end

section
/-! SUPPORT. Writes of plain registers over the bus (R9, R11, R489, R490). -/

namespace Sys2Proof.Machine

/-- The registers that a write does nothing to but set their fields. -/
def setOnlyRegs : List Reg :=
  [.TERM_OUTCFG, .TERM_PULSECFG, .HC_TSEL0, .HC_TSEL1, .HC_PAR0, .HC_PAR1, .HC_PAR2, .HC_PAR3, .HC_RST, .HC_HIID, .LMR, .HBOWN, .RNG_RINGID, .RNG_ETYPE,
    .RNG_NODES, .RNG_CFGHASH, .RNG_TURNCFG, .RNG_SLSERV, .RNG_SLFURR, .RNG_SLSPATE, .RNG_SPFWD, .RNG_SVCFG, .SPM_TCTL, .LBIST_CFG, .LBIST_EXP0, .LBIST_EXP1,
    .OTP_OADDR, .OTP_ODATA0, .OTP_ODATA1]

/-- The registers whose write takes its fields and, for the mode of a terminal or cell, resets what hangs on the mode. -/
def plainRegs : List Reg := .TERM_CFG :: .HC_HCFG :: setOnlyRegs

/-- A plain register's writers are supervisors; its fields lie in it, at different places. -/
theorem plainRegs_fields : ∀ r ∈ plainRegs, (r.writers = .sv ∨ r.writers = .svDie) ∧ r ≠ .TP_CODE ∧ (∀ f ∈ r.fields, f.reg = r) ∧
    r.fields.Pairwise fun f g => f.same g = false := by decide

namespace State

variable {s t : State} {r : Reg} {die idx v : Nat}

/-! ### Fields taking their bits -/

theorem putFld_change {l : List (Fld × Nat × Nat)} (s : State) {f : Fld} (v : Nat) (h : (f, die, idx) ∈ l) :
    Change .regs l s (s.putFld f die idx v) := by
  have hput (x : Nat) : Change .regs l s (s.put f die idx x) := .put s x h
  unfold State.putFld
  split
  · exact .on fun _ => hput _
  · exact .on fun _ => hput _
  · exact hput _
  · exact .refl _ _ _

theorem putWord_change (s : State) (r : Reg) (die idx v : Nat) : Change .regs (r.fields.map fun G => (G, die, idx)) s (s.putWord r die idx v) :=
  .each (op := fun s f => s.putFld f die idx v) (fun s f hf => s.putFld_change v (List.mem_map.2 ⟨f, hf, rfl⟩)) s

theorem get_putFld {G : Fld} (hacc : G.acc = .rw ∨ G.acc = .rwl) (hfree : s.ownerFenced G.reg die idx = false) :
    (s.putFld G die idx v).get G die idx = bitsOf v G.lo G.w := by
  have hput : s.putFld G die idx v = s.put G die idx (bitsOf v G.lo G.w) := by
    have hgoes : s.fldStays G die idx = false := by rw [State.fldStays, hfree, Bool.and_false]
    unfold State.putFld
    rcases hacc with h | h
    · rw [h, hgoes]; rfl
    · rw [h, hgoes]; rfl
  rw [hput, State.get_put, if_pos ⟨rfl, rfl⟩, bitsOf, Nat.mod_mod]

theorem ownerFenced_congr (h : t.fences = s.fences) (r : Reg) (die idx : Nat) : t.ownerFenced r die idx = s.ownerFenced r die idx :=
  congrArg Fence.on (State.fence_congr h _ _ _)

theorem get_putFlds_other {l : List Fld} {G : Fld} (h : ∀ f ∈ l, f.same G = false) (s : State) :
    (s.each l fun s f => s.putFld f die idx v).get G die idx = s.get G die idx := by
  induction l generalizing s with
  | nil => rfl
  | cons f l ih =>
    exact (ih (fun g hg => h g (List.mem_cons_of_mem _ hg)) _).trans (State.get_putFld_other (h f (List.mem_cons_self ..)) _ _ _ _ _)

/-- Fields at different places that take their bits one after another each end with their own. -/
theorem get_putFlds {l : List Fld} (hpair : l.Pairwise fun f g => f.same g = false) {G : Fld} (hG : G ∈ l) (hacc : G.acc = .rw ∨ G.acc = .rwl)
    (hfree : s.ownerFenced G.reg die idx = false) : (s.each l fun s f => s.putFld f die idx v).get G die idx = bitsOf v G.lo G.w := by
  induction l generalizing s with
  | nil => cases hG
  | cons f l ih =>
    obtain ⟨hf, hl⟩ := List.pairwise_cons.1 hpair
    have hcons : s.each (f :: l) (fun s f => s.putFld f die idx v) = (s.putFld f die idx v).each l fun s f => s.putFld f die idx v := rfl
    rw [hcons]
    rcases List.mem_cons.1 hG with rfl | hin
    · refine (State.get_putFlds_other (fun g hg => ?_) _).trans (s.get_putFld hacc hfree)
      exact (decide_eq_decide.2 (and_congr eq_comm eq_comm)).trans (hf g hg)
    · have hfences : (s.putFld f die idx v).fences = s.fences :=
        (s.putFld_change (l := [(f, die, idx)]) v (List.mem_singleton_self _)).frame.same State.fences
      exact ih hl hin ((State.ownerFenced_congr hfences _ _ _).trans hfree)

/-! ### What a performed write does -/

theorem doWrite_setOnly (s : State) (m : Master) (hr : r ∈ setOnlyRegs) (die idx v be : Nat) : s.doWrite m r die idx v be = s.putWord r die idx v := by
  revert r
  simp only [setOnlyRegs, List.forall_mem_cons, List.not_mem_nil, false_imp_iff, implies_true, and_true]
  exact ⟨rfl, rfl, rfl, rfl, rfl, rfl, rfl, rfl, rfl, rfl, rfl, rfl, rfl, rfl, rfl, rfl, rfl, rfl, rfl, rfl, rfl, rfl, rfl, rfl, rfl, rfl, rfl, rfl, rfl⟩

theorem get_modeSet (s : State) (fd k : Nat) {G : Fld} (hG : G.reg ≠ .TERM_HSTAT) (d i : Nat) : (s.modeSet fd k).get G d i = s.get G d i := by
  unfold State.modeSet State.on
  split
  · change ((s.put F.TERM_HSTAT_PENA (fdie fd) k 0).put F.TERM_HSTAT_HENA (fdie fd) k 0).get G d i = s.get G d i
    rw [State.get_put_other _ _ _ _ _ _ _ _ (by simp [hG.symm]), State.get_put_other _ _ _ _ _ _ _ _ (by simp [hG.symm])]
  · rfl

theorem get_cellSet (s t : State) (fd p : Nat) {G : Fld} (hG : G.reg ≠ .HC_HSTAT) (d i : Nat) : (s.cellSet t fd p).get G d i = t.get G d i := by
  unfold State.cellSet
  dsimp only
  split
  · rfl
  · split
    · rfl
    · exact State.get_put_other _ _ _ _ _ _ _ _ (by simp [hG.symm])

/-- A performed write of a plain register gives every field its bits that the register's owner does not hold. -/
theorem get_doWrite (s : State) (m : Master) (hr : r ∈ plainRegs) {G : Fld} (hG : G ∈ r.fields) (hacc : G.acc = .rw ∨ G.acc = .rwl)
    (hfree : s.ownerFenced r die idx = false) (be : Nat) : (s.doWrite m r die idx v be).get G die idx = bitsOf v G.lo G.w := by
  obtain ⟨-, -, hreg, hpair⟩ := plainRegs_fields r hr
  have hword : (s.putWord r die idx v).get G die idx = bitsOf v G.lo G.w := State.get_putFlds hpair hG hacc (by rw [hreg G hG]; exact hfree)
  rcases List.mem_cons.1 hr with rfl | hr
  · exact (State.get_modeSet _ _ _ (by rw [hreg G hG]; decide) _ _).trans hword
  rcases List.mem_cons.1 hr with rfl | hr
  · exact (State.get_cellSet _ _ _ _ (by rw [hreg G hG]; decide) _ _).trans hword
  · rwa [s.doWrite_setOnly m hr]

theorem doWrite_fields (s : State) (m : Master) (hr : r ∈ plainRegs) (hterm : r ≠ .TERM_CFG) (hcell : r ≠ .HC_HCFG) (die idx v be : Nat) :
    OnlyFields s (s.doWrite m r die idx v be) (r.fields.map fun G => (G, die, idx)) := by
  have hset : r ∈ setOnlyRegs := ((List.mem_cons.1 hr).resolve_left hterm |> List.mem_cons.1).resolve_left hcell
  rw [s.doWrite_setOnly m hset]
  exact change_regs_iff.1 (s.putWord_change r die idx v)

/-- A word that would change an RWL field is refused while the gate is closed (R340). -/
theorem wordOk_of_closedGate (hr : r ∈ plainRegs) (hgate : s.gate die = false) {G : Fld} (hG : G ∈ r.fields) (hacc : G.acc = .rwl)
    (hnew : bitsOf v G.lo G.w ≠ s.fieldValue G die idx % 2 ^ G.w) : s.wordOk r die idx v = false := by
  obtain ⟨hwriters, hcode, -, -⟩ := plainRegs_fields r hr
  have hrefused : s.fldRefused G die idx v = true := by simp [State.fldRefused, hacc, hgate, hnew]
  have hany : (r.fields.any fun f => s.fldRefused f die idx v) = true := List.any_eq_true.2 ⟨G, hG, hrefused⟩
  unfold State.wordOk
  rcases hwriters with h | h
  · simp [h, hcode, hany]
  · simp [h, hcode, hany]

/-! ### The rows of R489 that refuse -/

variable {m : Master} {addr : Nat}

theorem busWrite_unrouted (h : s.route m addr ≠ 0) (v be : Nat) : s.busWrite m addr v be = (s.logErr m.die m addr (s.route m addr) true, false) := by
  unfold State.busWrite
  dsimp only
  rw [if_pos h]

theorem busWrite_unmapped (hroute : s.route m addr = 0) (hmem : memArea (addr / 2 ^ 28) (addr % 2 ^ 28) = .none) (hoff : addr % 2 ^ 28 % 4 = 0)
    (hnone : findReg (addr / 2 ^ 28) (addr % 2 ^ 28) = none) (v be : Nat) :
    s.busWrite m addr v be = (s.logErr (addr / 2 ^ 28) m addr 5 true, false) := by
  unfold State.busWrite
  dsimp only
  rw [if_neg (not_not.2 hroute), if_neg (not_not.2 hmem), hoff, Nat.sub_zero, hnone]

end State

/-- Settles O58: the rows of R489 in turn; each field of a plain register takes its bits one after another, at its own place. -/
theorem registerWritesTakeTheFirstRowOfTheMap : Obligations.RegisterWritesTakeTheFirstRowOfTheMap := by
  refine ⟨fun s m addr val same be hheld => ?held, fun s m addr val same hdie hport haddr hval => ?_⟩
  case held =>
    exact State.answer_idle (by rw [hheld]; exact Bool.and_false _)
  intro v die off
  have hexec {be : Nat} (hbe : be < 16) : exec (.registerWrite m addr ⟨val, be⟩ same) s =
      .next ((s.busWrite m addr v be).1.respond (!(s.busWrite m addr v be).2)) :=
    State.answer_of hdie (by rw [hport, decide_eq_true haddr, decide_eq_true hval, decide_eq_true hbe]; rfl)
  have hrefused {be k d : Nat} (hbe : be < 16) (h : s.busWrite m addr v be = (s.logErr d m addr k true, false)) :
      exec (.registerWrite m addr ⟨val, be⟩ same) s = .next (s.logErr d m addr k true) := by
    rw [hexec hbe, h]
    exact congrArg _ (State.respond_of_busErr (s.logErr_busErr d m addr k true))
  refine ⟨fun be hbe => ⟨_, hexec hbe⟩, fun hroute be hbe => hrefused hbe (State.busWrite_unrouted hroute v be),
    fun hroute hmem hoff hnone => hrefused (by decide) (State.busWrite_unmapped hroute hmem hoff hnone v 15), fun r idx hroute hmem hoff hreg hcrc => ?_⟩
  have hword := State.busWrite_word (v := v) hroute hmem (by omega) hreg
  have hno (k : Nat) : ((s.logErr die m addr k true).on (decide (r.writers = .crc) && s.flag F.CRC_STAT_BUSY die idx) fun s =>
      s.put F.CRC_STAT_REFUSED die idx 1) = s.logErr die m addr k true := by rw [decide_eq_false hcrc]; rfl
  have hfield (hw : s.writerOk m r die idx v = true) (hbad : s.wordOk r die idx v = false) :
      exec (.registerWrite m addr ⟨val, 15⟩ same) s = .next (s.logErr die m addr 7 true) := by
    refine hrefused (by decide) (hword.trans ?_)
    rw [hw, hbad]
    exact congrArg (·, false) (hno 7)
  refine ⟨fun hbad => ?_, hfield, fun hlist => have hr : r ∈ plainRegs := (List.Perm.mem_iff (by decide)).1 hlist
    ⟨fun hw hok => ?_, fun hw hgate ⟨G, hG, hacc, hnew⟩ => hfield hw (State.wordOk_of_closedGate hr hgate hG hacc hnew)⟩⟩
  · refine hrefused (by decide) (hword.trans ?_)
    rw [hbad]
    exact congrArg (·, false) (hno 6)
  · have hperformed : exec (.registerWrite m addr ⟨val, 15⟩ same) s = .next ((s.doWrite m r die idx v 15).respond false) := by
      rw [hexec (by decide), hword, hw, hok]
      rfl
    exact ⟨_, hperformed, rfl, fun hterm hcell => onlyFields_respond (s.doWrite_fields m hr hterm hcell die idx v 15) false,
      fun G hG hacc hfree => s.get_doWrite m hr hG hacc hfree 15⟩

end Sys2Proof.Machine
end

section
/-! SUPPORT. Received service frames (R226, R264, R268). -/

namespace Sys2Proof.Machine

/-- A headgate on ring 0 whose ID is the one that R226 gives a broadcast. -/
def broadcastNode : State :=
  (((State.reset.put F.RNG_PSTAT_ADMIT 0 0 1).put F.RNG_RINGCFG_ENABLE 0 0 1).put F.RNG_RINGCFG_NODE 0 0 8191).put F.RNG_TSYNC_STATE 0 0 4

/-- A bulk frame of node 2 for that node, in the middle of the service window. -/
def broadcastBulk : ServiceFrame := ⟨⟨true, 0x10, 0x88B5, 1, 0x10, 0, 2, false, 0, false⟩, 8191, 2, 3, 0, 0, []⟩

def midWindow : Arrival := ⟨500 * 8 * 65536, 500 * 8 * 65536⟩

/-- The frame is for this node by its ID, and as a broadcast it is remembered (R264). -/
theorem broadcastBulk_remembered : (broadcastNode.svReceive 0 0 broadcastBulk midWindow).rings ≠ broadcastNode.rings := by decide

/-- Refutes O35: a delivered bulk frame is to change no state but transfers and SVRX. Where the node's ID is the broadcast ID 8191, a frame
for the node is also a broadcast, which the node remembers. -/
theorem not_serviceFramesAreDeliveredForwardedOrCounted : ¬ Obligations.ServiceFramesAreDeliveredForwardedOrCounted := by
  rintro ⟨-, htaken, -⟩
  obtain ⟨-, -, hbulk, -⟩ := htaken broadcastNode 0 0 broadcastBulk midWindow (by decide) (by decide) (by decide) (by decide) (by decide) (by decide)
    (by decide)
  obtain ⟨t, ht, -, -, -, hframe, -⟩ := hbulk rfl ⟨by decide, .inl (by decide)⟩
  have hexec : exec (.bulkTransfer 0 0 broadcastBulk midWindow) broadcastNode = .next (broadcastNode.svReceive 0 0 broadcastBulk midWindow) :=
    State.answer_of (by decide) (by decide)
  have hrings : t.rings = broadcastNode.rings := (congrArg State.rings hframe).trans rfl
  rw [← Host.Outcome.next.inj (hexec.symm.trans ht)] at hrings
  exact broadcastBulk_remembered hrings

end Sys2Proof.Machine
end
